-- ==== Sys2Proof/Word.lean ====
section
/-! DEFINITION. The machine's words: bytes, 64-bit register words (R8), 32-bit FP words, 128-bit
descriptor words (R138) and the plainest arithmetic on them. -/

namespace Sys2Proof

/-- A byte of memory (R6). -/
abbrev Byte := BitVec 8

/-- A control-space register, or an 8 B word of memory (R8). -/
abbrev Word := BitVec 64

/-- A 32-bit word: an FP32 value or a cox register. -/
abbrev W32 := BitVec 32

/-- A descriptor or slot word of a Wilum module (R138, R140, R142). -/
abbrev W128 := BitVec 128

/-- The bits `lo + w - 1` to `lo` of a number, as a number (R5). -/
def bitsOf (v lo w : Nat) : Nat := v / 2 ^ lo % 2 ^ w

/-- One bit of a number. -/
def bitOf (v i : Nat) : Bool := v / 2 ^ i % 2 == 1

/-- Rounding a quotient up. -/
def ceilDiv (a b : Nat) : Nat := (a + b - 1) / b

end Sys2Proof
end

