-- ==== Sys2Proof/Config.lean ====
section
/-! DEFINITION. What an instance of the part fixes, and the free values: constants without a body,
so that no proof can see what they are. Each is named in the assumption log. -/

namespace Sys2Proof.Config

open Sys2Proof

/-- 16 fresh random bits of an engine's or a scribe's stochastic-rounding generator, from its seed and the
number of draws made since it was seeded (R84, R85, R263: the sequence is not specified). Log 4. -/
opaque generatorBits : (seed unit draw : Nat) → BitVec 16

/-- How many units in the last place a CVU transcendental result lies from the nearest FP32 value, before it
is held to the bound of R64. Log 4. -/
opaque transcendentalUlp : (op : Nat) → W32 → Int

/-- What `vec.cmp` writes in a lane where the comparison holds and where it does not: the spec gives no encoding.
`vec.sel` takes source 1 where its mask lane is not the latter. Log 13. -/
opaque cmpTrue : W32
opaque cmpFalse : W32

/-- A result of a CVU transcendental that the spec does not state: of zero, of a negative number, of an infinity.
Log 13. -/
opaque transcendentalOpen : (op : Nat) → W32 → W32

/-- `vec.redsum` of a register's lanes: the spec gives no order of summation. Log 13. -/
opaque reduceSum : List W32 → W32

/-- A value the spec leaves open, fresh at each use: it is applied to `State.free`. Log 4. -/
opaque freeBits : Nat → Nat

/-- The byte a place holds that the spec does not specify, such as a unit whose fence is lifted (R34). Log 4. -/
opaque freeByte : (use addr : Nat) → Byte

/-- SHA-512 of a byte string (R134, R321), a published function. Log 12. -/
opaque sha512 : List Byte → BitVec 512

/-- ECDSA P-521 over SHA-512: does the signature (r, s) of these bytes verify under this key? Log 12. -/
opaque ecdsaVerify : (key : Nat) → List Byte → (r s : Nat) → Bool

/-- ECDSA P-521 signature made with the device's attestation key (R335, R336). Log 12. -/
opaque attestationSign : List Byte → Nat

/-- The bytes of an SPDM response body under DSP0274 (R336), from the code of the request, the request's
bytes and the material reported. Log 12. -/
opaque spdmBody : (code : Nat) → List Byte → List Byte → List Byte

/-- The Precharas key whose hash the boathouse ROM holds (R317). Log 3. -/
opaque precharasKey : Nat

/-- Byte `i` of the identity store, written at final test (R335). Log 3. -/
opaque identityByte : Nat → Byte

/-- Spare rows of stack `s`, fixed at manufacture (HBM_SOFT_REPAIRS.SPARE). Log 3. -/
opaque spareRows : Nat → BitVec 16

/-- The least-squares fit of one power-model coefficient (R180), before it is held to its limits: from
the die (8 for the package terms), the class, and the present coefficient. Log 4. -/
opaque calibrationFit : (unit cls : Nat) → W32 → Nat → Nat

/-- Bytes of a native strip (R158: at most the bundle stream plus 4 KiB; the format is not documented). Log 4. -/
opaque stripBytes : List Byte → Nat

/-- The rate of a queue pair after a received CNP under InfiniBand Annex A17 (R313), from the rate before. Log 12. -/
opaque cnpRate : Nat → Nat

/-- Bytes 4 to 4,095 of an image's header, whose layout the spec does not give (R288), from the tenancy, the node, the
generation and the manifest. Log 4. -/
opaque imageHeader : (ten node gen : Nat) → (manifest : List Byte) → (at_ : Nat) → Byte

end Sys2Proof.Config
end

