-- ==== Sys2Proof/Syntax.lean ====
section
/-! DEFINITION. The commands the block takes: one constructor of `Instr` per row of the opcode table, and the
operand types they carry. Units are numbered as R16 and R17 number them. A command that its rules place in a
die cycle carries that cycle as `x`. -/

namespace Sys2Proof

abbrev Die := Fin 8
/-- A core of the package, by its position 32 d + c (R17). -/
abbrev Pos := Fin 256
/-- An engine of a core: 0 FE, 1 GE0, 2 GE1 (R340). -/
abbrev Eng := Fin 3
abbrev Stk := Fin 32
abbrev Ten := Fin 8
abbrev PortId := Fin 16
abbrev LDie := Fin 2

/-- Who makes an access (R37, R311): the boathouse, the owner over the management link, a core (its AE or its
cox), a scribe, a fabric packet with its context and window tag, or a host's queue pair with the rkey it used. -/
inductive Issuer where
  | boathouse
  | owner
  | core (p : Pos)
  | scribe (s : Stk)
  | packet (ctx win src : Nat)
  | host (qp : Nat) (rkey : W32)
deriving DecidableEq, Repr, Inhabited

/-- The format codes of R65. -/
inductive Fmt where
  | fp32 | bf16 | fp16 | e4m3 | e5m2 | int8 | mxfp8 | mxe3m2 | mxe2m3 | mxfp4 | mxint8 | raw64f | raw64i
deriving DecidableEq, Repr, Inhabited

/-- An operand of a slot word (R138). The descriptor word stands in place of its index, and the translator has
resolved its REL field (R143). -/
inductive Opnd where
  | none
  | desc (w : W128)
  | tq (q : Fin 8) (walk : Bool)
  | prm (p : Fin 64) (bit : Nat)
  | imm (v : Nat)
deriving DecidableEq, Repr, Inhabited

/-- The product part of an engine slot (R61, R144). `en` is an immediate 0 or 1, or a PRM bit. -/
structure OuterSlot where
  colFmt : Fmt
  rowFmt : Fmt
  init : Bool
  slide : Bool
  en : Opnd
  col : Opnd
  row : Opnd
  len : Nat
deriving DecidableEq, Repr, Inhabited

/-- The fields of `op.drain` (R61). `shadow` is SET; `satf` the flag of SATF. -/
structure DrainSlot where
  shadow : Bool
  ofmt : Fmt
  stochastic : Bool
  clr : Bool
  satf : Option Nat
  dst : Opnd
deriving DecidableEq, Repr, Inhabited

structure LoadSlot where
  shadow : Bool
  ifmt : Fmt
  src : Opnd
deriving DecidableEq, Repr, Inhabited

inductive RowOp where
  | scale | add | scaleAdd | clamp
deriving DecidableEq, Repr, Inhabited

structure RowSlot where
  shadow : Bool
  op : RowOp
  v1 : Opnd
  v2 : Opnd
deriving DecidableEq, Repr, Inhabited

inductive Cmp where
  | eq | ne | lt | le | gt | ge | unordered | ordered
deriving DecidableEq, Repr, Inhabited

inductive VArith where
  | add | sub | mul | fma | max | min | sel | cmp (c : Cmp)
deriving DecidableEq, Repr, Inhabited

inductive VTrans where
  | exp | log | rcp | rsqrt
deriving DecidableEq, Repr, Inhabited

inductive VRed where
  | sum | max | min
deriving DecidableEq, Repr, Inhabited

/-- An epilogue operation of `op.chain` (R124), a CVU slot word. -/
inductive EpiOp where
  | arith (op : VArith) (dst a b c : Fin 32)
  | cvt (dst src : Fin 32) (fromF toF : Fmt)
  | trans (op : VTrans) (dst src : Fin 32)
deriving DecidableEq, Repr, Inhabited

/-- The AE modifiers and operands of a slot word (R144). -/
structure AeSlot where
  flag : Option Nat
  cnt : Bool
  tq : Option (Fin 8)
  cache : Bool
  pin : Bool
  a : Opnd
  b : Opnd
  c : Opnd
  d : Opnd
deriving DecidableEq, Repr, Inhabited

/-- `op.chain` (R124): the product, the output format, the epilogue and the put. -/
structure ChainSlot where
  outer : OuterSlot
  ofmt : Fmt
  epilogue : List EpiOp
  put : AeSlot
deriving DecidableEq, Repr, Inhabited

/-- A Kensil packet: the head flit of R214, field by field, and its payload. -/
structure Packet where
  dst : Nat
  src : Nat
  space : Nat
  offset : Nat
  ctx : Nat
  seq : Nat
  epoch : Nat
  cls : Nat
  vc : Nat
  op : Nat
  len : Nat
  cntEn : Bool
  flagEn : Bool
  flag : Nat
  exp : Nat
  cut : Bool
  mcast : Bool
  status : Nat
  age : Nat
  win : Nat
  opnd0 : Word
  opnd1 : Word
  tree : Nat
  low : Nat
  pcrc : W32
  hcrc : W32
  payload : List Byte
deriving DecidableEq, Repr, Inhabited

/-- A received group of 81 flit times (R213): the link-control flit and the 80 slots, and what FEC found. -/
structure LinkGroup where
  control : BitVec 512
  slots : List (BitVec 512)
  fecOk : Bool
  corrected : Nat
deriving DecidableEq, Repr, Inhabited

/-- A firmware image (R317): its header fields, its bytes and its colophon's signature. -/
structure FwImage where
  kind : Nat
  version : Nat
  svn : Nat
  keyId : Nat
  body : List Byte
  sigR : Nat
  sigS : Nat
deriving DecidableEq, Repr, Inhabited

/-- A slot-selector record (R317): SEQ, and for each kind whether slot B is active. -/
structure SlotRecord where
  seq : Nat
  slotB : BitVec 3
  crcOk : Bool
deriving DecidableEq, Repr, Inhabited

/-- The palimpsest (R330, R331). `tunable` and `health` hold register offset and value. -/
structure Palimpsest where
  seq : Nat
  serial : Nat
  cbDigest : BitVec 512
  tunable : List (Nat × Word)
  health : List (Nat × Word)
  crcOk : Bool
deriving DecidableEq, Repr, Inhabited

/-- The NOR flash on the board (R316): firmware slots A and B by kind 1 to 3 (index kind - 1), slot-selector
records, the two copybook partitions, and the two palimpsest mirror slots. -/
structure Nor where
  slotA : List (Option FwImage)
  slotB : List (Option FwImage)
  selector : List SlotRecord
  primary : List Byte
  alternate : List Byte
  mirror0 : Option Palimpsest
  mirror1 : Option Palimpsest
deriving DecidableEq, Repr, Inhabited

/-- What the board and the neighbours make of start-up (R318): what the flash holds when the board has
programmed it, which units fail to train, which ports and Ethernet sub-ports train with whom, the ranks over
the links usable at that moment (R219), and the times taken. -/
structure Training where
  flash : Option Nor
  lockstepFail : Bool
  stackFail : BitVec 32
  sublinkFail : BitVec 56
  groupFail : BitVec 64
  ports : BitVec 16
  peers : List (Nat × Nat)
  rank : Nat
  upPorts : BitVec 16
  eth : BitVec 8
  pcie : Bool
  readyMs : Nat
  trainMs : Nat
deriving DecidableEq, Repr, Inhabited

/-- The rows of the opcode table. -/
inductive Instr where
  -- supply, reset, clocks, boathouse
  | vin36InRange (t : Training)
  | announcementResend
  | romRecoveryImage (img : FwImage) (t : Training)
  | vinRange (mv : Nat)
  | vinRangeRelease
  | undervoltageShutdown
  | undervoltageRecovery (t : Training)
  | overvoltageShutdown (mv : Nat)
  | alwaysOnStop
  | resetNAssert
  | resetNRelease (t : Training)
  | aoRefclkLoss
  | aoRefclkReturn
  | srefclkLoss (k : Fin 4)
  | srefclkReturn (k : Fin 4) (ports : BitVec 16) (eth : BitVec 8)
  | lockstepMismatch
  | heartbeatMiss
  | takeoverComplete
  | boathouseLost
  | registerWrite (iss : Issuer) (off size : Nat) (v : Word)
  | coreRegisterWake (p : Pos) (iss : Issuer) (off : Nat) (v : Option Word)
  -- engines and CVU
  | opOuter (p : Pos) (e : Eng) (x : Nat) (o : OuterSlot)
  | productCycle (p : Pos) (e : Eng) (x : Nat)
  | productCycleLand (p : Pos) (e : Eng) (x : Nat)
  | opCatch (p : Pos) (e : Eng) (x : Nat)
  | opDrain (p : Pos) (e : Eng) (x : Nat) (o : DrainSlot)
  | drainRow (p : Pos) (e : Eng) (x : Nat)
  | drainTileComplete (p : Pos) (e : Eng) (x : Nat)
  | opLoad (p : Pos) (e : Eng) (x : Nat) (o : LoadSlot)
  | loadRow (p : Pos) (e : Eng) (x : Nat)
  | opRow (p : Pos) (e : Eng) (x : Nat) (o : RowSlot)
  | rowOpRow (p : Pos) (e : Eng) (x : Nat)
  | opChain (p : Pos) (e : Eng) (x : Nat) (o : ChainSlot)
  | chainRow (p : Pos) (e : Eng) (x : Nat)
  | vecArith (p : Pos) (x : Nat) (op : VArith) (dst a b c : Fin 32)
  | vecCvt (p : Pos) (x : Nat) (dst src : Fin 32) (fromF toF : Fmt)
  | vecTranscendental (p : Pos) (x : Nat) (op : VTrans) (dst src : Fin 32)
  | vecReduce (p : Pos) (x : Nat) (op : VRed) (dst src : Fin 32) (base : Opnd)
  | vecLd (p : Pos) (x : Nat) (reg : Fin 32) (desc : W128)
  | vecSt (p : Pos) (x : Nat) (reg : Fin 32) (desc : W128)
  | vecResultLand (p : Pos) (x : Nat)
  -- access engine
  | scratchPiece (p : Pos) (x : Nat)
  | tileFetch (p : Pos) (x : Nat) (o : AeSlot)
  | tilePut (p : Pos) (x : Nat) (o : AeSlot)
  | tileGather (p : Pos) (x : Nat) (o : AeSlot)
  | tileRelay (p : Pos) (x : Nat) (o : AeSlot)
  | tileDrop (p : Pos) (x : Nat) (o : AeSlot)
  | tileUnpin (p : Pos) (x : Nat) (o : AeSlot)
  | aeSlotGrant (p : Pos) (x : Nat)
  | tokenRefill (p : Pos) (x : Nat)
  | quotaRelease (p : Pos) (x : Nat) (id : Nat)
  | mergeTimeout (p : Pos) (x : Nat)
  | pcServe (s : Stk) (pc : Fin 64) (x : Nat)
  | bankqRetry (p : Pos) (x : Nat) (id : Nat)
  | tileLand (p : Pos) (x : Nat) (id : Nat)
  | relayHop (p : Pos) (x : Nat)
  | zeroProbeResult (p : Pos) (x : Nat) (id : Nat)
  -- flags, fences, forecasts, atomics
  | flagSet (p : Pos) (x : Nat) (a : Opnd)
  | flagClear (p : Pos) (x : Nat) (a : Opnd)
  | fenceLocal (p : Pos) (x : Nat)
  | fenceFabric (p : Pos) (x : Nat)
  | fenceRelease (p : Pos) (x : Nat)
  | fenceWatchdogExpire (p : Pos)
  | heatForecast (p : Pos) (remove : Bool) (mj leadUs lenUs : Nat)
  | forecastLapse (d : Die)
  | atomAdd (p : Pos) (x : Nat) (o : AeSlot)
  | atomAnd (p : Pos) (x : Nat) (o : AeSlot)
  | atomOr (p : Pos) (x : Nat) (o : AeSlot)
  | atomXor (p : Pos) (x : Nat) (o : AeSlot)
  | atomUmax (p : Pos) (x : Nat) (o : AeSlot)
  | atomUmin (p : Pos) (x : Nat) (o : AeSlot)
  | atomSwap (p : Pos) (x : Nat) (o : AeSlot)
  | atomCas (p : Pos) (x : Nat) (o : AeSlot)
  -- collectives
  | collAllreduce (p : Pos) (x : Nat) (o : AeSlot)
  | collRscatter (p : Pos) (x : Nat) (o : AeSlot)
  | collAllgather (p : Pos) (x : Nat) (o : AeSlot)
  | collBcast (p : Pos) (x : Nat) (o : AeSlot)
  | collPermute (p : Pos) (x : Nat) (o : AeSlot)
  | collEpoch (p : Pos) (x : Nat) (o : AeSlot)
  | collStart (ctx : Nat)
  | epochFenceDrained (ctx : Nat)
  | collComplete (ctx : Nat)
  -- cox, patches, heats
  | coxInstruction (p : Pos) (x : Nat)
  | heatPost (iss : Issuer) (p : Pos) (x : Nat) (heat : Nat)
  | coxPatchWrite (iss : Issuer) (p : Pos) (x : Nat) (add : Bool) (prm : Fin 64) (v : Nat)
  | prmWrite (iss : Issuer) (p : Pos) (x : Nat) (prm : Fin 64) (v : Word)
  | patchWindow (p : Pos) (x : Nat)
  | replayNear (d : Die) (x : Nat)
  | heatChoice (d : Die) (x : Nat)
  | heatStart (d : Die) (x : Nat)
  | heatEnd (d : Die) (x : Nat)
  | gateWatchdogExpire (d : Die) (entry gate : Nat)
  -- power, clocks, temperature, sleep
  | grantRecompute
  | bucketWindow (frames : Nat)
  | reserveRefill
  | oppStep (d : Die)
  | droopTrip (d : Die) (cl : Fin 4)
  | droopEnd (d : Die) (cycles : Nat)
  | droopSustained (d : Die) (us : Nat)
  | thermalSample (d : Die) (temps : List Nat)
  | thermalRestore (d : Die)
  | calibration
  | driftInterval (measured : List Nat) (pkg : Nat)
  | clusterRetain (d : Die) (cl : Fin 4)
  | clusterWake (d : Die) (cl : Fin 4) (x : Nat)
  | pllStop (d : Die)
  | pllRelock (d : Die) (ns : Nat)
  -- flags and signals by store
  | flagStore (iss : Issuer) (p : Pos) (n : Fin 1024) (x : Nat) (v : Word)
  | flagUnpoison (iss : Issuer) (p : Pos) (n : Fin 1024) (x : Nat)
  | signalApply (ctx i : Nat)
  -- fabric
  | linkGroupReceive (port : PortId) (g : LinkGroup)
  | packetForward (port : PortId) (k : Packet)
  | escWaitExpire (port : PortId) (k : Packet)
  | tailTimeout (port : PortId) (vc : Fin 8)
  | cutEndReceive (port : PortId) (vc : Fin 8)
  | put (k : Packet)
  | permutePiece (k : Packet)
  | putMc (k : Packet)
  | loadReq (k : Packet)
  | loadRsp (k : Packet)
  | atomic (k : Packet)
  | atomicRsp (k : Packet)
  | completion (k : Packet)
  | ctrl (k : Packet)
  | mgmt (k : Packet)
  | collData (k : Packet)
  | collReady (k : Packet)
  | epochClose (k : Packet)
  | retryTimeout (ctx dst seq : Nat)
  | resendDelay (ctx dst seq : Nat)
  | rxStreamFree (ctx src : Nat)
  | txStreamFree (ctx dst : Nat)
  | ctxRecordLoad (ctx : Nat)
  | ctxCopyResync (copy : Fin 2)
  | ctxRecWrite (iss : Issuer) (w : Fin 8) (k : Fin 8) (v : Word)
  | portRetrain (port : PortId) (lost : BitVec 4) (failed : BitVec 4)
  | portRetrainDone (port : PortId)
  | fabMcEntWrite (iss : Issuer) (v : Word)
  | colMsOrigWrite (iss : Issuer) (v : Word)
  | colMsExtWrite (iss : Issuer) (v : Word)
  | colBind (iss : Issuer) (v : Word)
  | colVtVerWrite (iss : Issuer) (v : Word)
  -- scribes
  | pass1 (iss : Issuer) (s : Stk) (rec : Nat)
  | pass2 (iss : Issuer) (s : Stk) (rec : Nat)
  | scribeEntryStart (s : Stk)
  | releaseWatchdogExpire (s : Stk)
  | scribePassComplete (s : Stk)
  -- recovery, snapshots, maintenance
  | jobReset (t : Ten)
  | autoRestore (t : Ten)
  | snapshot (iss : Issuer) (t : Ten)
  | restore (iss : Issuer) (t : Ten) (src gen : Nat)
  | ship (iss : Issuer) (t dest : Ten) (toHost : Bool) (gen : Nat)
  | recover (iss : Issuer) (t : Ten)
  | preempt (iss : Issuer) (t : Ten)
  | resume (iss : Issuer) (t : Ten)
  | snapshotStop (t : Ten)
  | boundaryTimeout (t : Ten)
  | quiesceTimeout (t : Ten)
  | quiesceComplete (t : Ten)
  | snapshotCopyComplete (t : Ten)
  | drainLayerComplete (t : Ten) (layer : Fin 3)
  | drainFailed (t : Ten) (layer : Fin 3)
  | restoreVerify (t : Ten) (replies : List (List (BitVec 512 × Nat) × List Byte))
  | fence (iss : Issuer) (kind index : Nat)
  | unfence (iss : Issuer) (kind index : Nat)
  | scrub (iss : Issuer) (s : Stk)
  | repair (iss : Issuer) (s : Stk)
  | reeq (iss : Issuer) (scope : Nat)
  | cal (iss : Issuer)
  | patch (iss : Issuer) (scope arg : Nat) (img : FwImage)
  | scrubPeriod (s : Stk)
  | maintStart (i : Nat)
  | maintComplete (i : Nat) (ok : Bool)
  | snapDeferTimeout (i : Nat)
  | patchCommit
  -- tenancies and hosts
  | load (iss : Issuer) (t : Ten) (seq len : Nat)
  | release (iss : Issuer) (t : Ten) (seq : Nat)
  | jobStart (t : Ten)
  | jobEnd (iss : Issuer) (t : Ten) (code : W32)
  | rdmaWrite (qp : Nat) (rkey : W32) (addr : Word) (data : List Byte)
  | rdmaRead (qp : Nat) (rkey : W32) (addr : Word) (len : Nat)
  | invalidRequest (qp : Nat)
  | cnpReceive (qp : Nat)
  | ecnMarkReceive (qp : Nat)
  | pfcPause (port : Fin 4) (prio : Fin 8)
  | arpRequest (port : Fin 4) (sub : Fin 2) (ip : W32)
  | neighbourSolicitation (port : Fin 4) (sub : Fin 2) (ip : BitVec 128)
  | ethLink (port : Fin 4) (sub : Fin 2)
  -- attestation, management, configuration
  | getVersion (req : List Byte)
  | getCapabilities (req : List Byte)
  | negotiateAlgorithms (req : List Byte) (p521 sha512 : Bool)
  | getDigests (req : List Byte)
  | getCertificate (req : List Byte) (slot off len : Nat)
  | challenge (req : List Byte) (slot : Nat)
  | getMeasurements (req : List Byte) (index : Nat)
  | unsupportedRequest (code : Nat)
  | entdaa (ld : LDie) (addr : BitVec 7)
  | setdasa (ld : LDie) (static addr : BitVec 7)
  | reload (iss : Issuer)
  | copybookWrite (iss : Issuer) (len : Nat)
  | mirror (iss : Issuer)
  | commitSvn (iss : Issuer) (kind : Nat)
  | mirrorPeriodic
  | mirrorComplete (ok : Bool)
  -- errors, injection, telemetry, test
  | thresholdWindowClose (det kind index : Nat)
  | injectArm (iss : Issuer) (k : Fin 128) (v : Word)
  | injectDisable (iss : Issuer)
  | captureGo (iss : Issuer)
  | capturePeriodic
  | captureComplete
  | jtagInstruction (code : Nat)
  | jtagTestLogicReset
  | pcieLinkDown
  | pllUnlock (d : Die)
  | ethFcs (port : Fin 4) (sub : Fin 2)
deriving DecidableEq, Repr

end Sys2Proof
end

