-- ==== Sys2Proof/Decode.lean ====
section
/-! DEFINITION. The opcode table gives no command any bits, so no word spells a command. -/

namespace Sys2Proof

/-- The command that a word spells by the table's bits: the table gives none (log 5). -/
def decodeTableWord (_nbits _w : Nat) : Option Instr := none

end Sys2Proof
end

