-- ==== Sys2Proof/Machine/NMap.lean ====
section
/-! DEFINITION. Sparse tables: lists of (key, entry) pairs in one canonical form, the keys strictly rising and no
entry equal to what an unlisted key reads as. Registers, memories and per-unit tables are held so, and equal
tables are equal data. -/

namespace Sys2Proof.Machine

open Sys2Proof

/-- A sparse table. What an unlisted key reads as is given at each use. -/
abbrev NMap (α : Type) := List (Nat × α)

/-- The entry listed at a key. -/
def NMap.look {α : Type} : NMap α → Nat → Option α
  | [], _ => none
  | (k, v) :: m, a => if k = a then some v else NMap.look m a

/-- List an entry at a key, replacing one already there. -/
def NMap.ins {α : Type} : NMap α → Nat → α → NMap α
  | [], a, v => [(a, v)]
  | (k, w) :: m, a, v =>
    if a < k then (a, v) :: (k, w) :: m
    else if a = k then (a, v) :: m
    else (k, w) :: NMap.ins m a v

/-- Unlist a key. -/
def NMap.del {α : Type} (m : NMap α) (a : Nat) : NMap α := m.filter fun x => decide (x.1 ≠ a)

/-- What a key reads as, an unlisted key reading as `d k`. -/
def NMap.get {α : Type} (d : Nat → α) (m : NMap α) (k : Nat) : α := (m.look k).getD (d k)

/-- Give a key an entry; writing what an unlisted key reads as unlists it. -/
def NMap.set {α : Type} [DecidableEq α] (d : Nat → α) (m : NMap α) (k : Nat) (v : α) : NMap α :=
  if v = d k then m.del k else m.ins k v

/-- Are the keys of a table strictly rising? -/
def NMap.rising {α : Type} : NMap α → Bool
  | [] => true
  | [_] => true
  | (k, _) :: (l, w) :: m => decide (k < l) && NMap.rising ((l, w) :: m)

/-- The canonical form. -/
def NMap.wf {α : Type} [DecidableEq α] (d : Nat → α) (m : NMap α) : Bool :=
  m.rising && m.all (fun x => decide (x.2 ≠ d x.1))

/-- Unlist every key of which `p` holds. -/
def NMap.drop {α : Type} (p : Nat → Bool) (m : NMap α) : NMap α := m.filter (fun x => !p x.1)

/-- The entries of `n` keys from `base` on, in order. -/
def NMap.dense {α : Type} (d : Nat → α) (m : NMap α) (base n : Nat) : List α :=
  let rec go : Nat → Nat → NMap α → List α
    | 0, _, _ => []
    | c + 1, k, [] => d k :: go c (k + 1) []
    | c + 1, k, (j, v) :: r => if j = k then v :: go c (k + 1) r else d k :: go c (k + 1) ((j, v) :: r)
  go n base (m.filter fun x => decide (base ≤ x.1) && decide (x.1 < base + n))

/-- Consecutive entries from a key on, those unlisted left out. -/
def NMap.sparse {α : Type} [DecidableEq α] (d : Nat → α) : (base : Nat) → List α → NMap α
  | _, [] => []
  | k, v :: vs => if v = d k then NMap.sparse d (k + 1) vs else (k, v) :: NMap.sparse d (k + 1) vs

/-- Give consecutive keys from `base` on the entries of a list. -/
def NMap.setRange {α : Type} [DecidableEq α] (d : Nat → α) (m : NMap α) (base : Nat) (vs : List α) : NMap α :=
  (m.filter fun x => decide (x.1 < base)) ++ NMap.sparse d base vs ++
    (m.filter fun x => decide (base + vs.length ≤ x.1))

end Sys2Proof.Machine
end

