-- ==== Sys2Proof/Machine/RegMap.lean ====
section
/-! DEFINITION. The registers of the device control space: where each lies (R35), its fields, their access
codes (R12), reset values (R14) and the values a write of them may carry (R11). Written from the register
tables of the chapters. `R.<NAME>` is a register's control-space offset, `F.<NAME>_<FIELD>` a field's place
(lowest bit, width). -/

namespace Sys2Proof.Machine

open Sys2Proof

/-- The access codes of R12. -/
inductive Acc where
  | ro | rw | w1c | w1s | wo | rwl
deriving DecidableEq, Repr

/-- A field: lowest bit, width, access, reset value, and the least and greatest value a write may give it. -/
structure Fld where
  lo : Nat
  width : Nat
  acc : Acc
  reset : Nat
  least : Nat
  most : Nat
deriving DecidableEq, Repr

/-- A register of a sub-block: the offset of its first instance, the spacing and number of its instances. -/
structure RegRow where
  off : Nat
  stride : Nat
  count : Nat
  fields : List Fld
deriving DecidableEq, Repr

/-- The sub-blocks of R35. -/
inductive Blk where
  | bh | id | err | inj | pwr | ten | eth | fab | ctx | col | mnt | snp | tel | str | clk | pwrd | cox | prm | ae | eng | cvu | flg | scb | hbm
deriving DecidableEq, Repr

/-- The base of die d's block (R35). -/
def dieBase (d : Nat) : Nat := 0x0100_0000 + d * 0x0010_0000

/-- The base of the block of the core at package position p (R17, R35). -/
def coreBase (p : Nat) : Nat := 0x0200_0000 + p / 32 * 0x0008_0000 + p % 32 * 0x0000_4000

/-- The base of sub-block instance i (R35): a die, a core's package position, or a stack. -/
def Blk.base (b : Blk) (i : Nat) : Nat :=
  match b with
  | .bh => 0x000000
  | .id => 0x100000
  | .err => 0x200000
  | .inj => 0x280000
  | .pwr => 0x300000
  | .ten => 0x400000
  | .eth => 0x500000
  | .fab => 0x600000
  | .ctx => 0x680000
  | .col => 0x700000
  | .mnt => 0x800000
  | .snp => 0x840000
  | .tel => 0x880000
  | .str => dieBase i + 0x00000
  | .clk => dieBase i + 0x40000
  | .pwrd => dieBase i + 0x80000
  | .cox => coreBase i + 0x0000
  | .prm => coreBase i + 0x0800
  | .ae => coreBase i + 0x1000
  | .eng => coreBase i + 0x1800
  | .cvu => coreBase i + 0x2800
  | .flg => coreBase i + 0x3000
  | .scb => 0x0300_0000 + i * 0x0001_0000
  | .hbm => 0x0340_0000 + i * 0x0001_0000

/-- The sub-block, its instance and the offset within it of a control-space offset; none outside every block
(R33, R35). -/
def ctlDecode (a : Nat) : Option (Blk × Nat × Nat) :=
  if a < 0x10_0000 then some (.bh, 0, a)
  else if a < 0x20_0000 then some (.id, 0, a - 0x10_0000)
  else if a < 0x28_0000 then some (.err, 0, a - 0x20_0000)
  else if a < 0x30_0000 then some (.inj, 0, a - 0x28_0000)
  else if a < 0x40_0000 then some (.pwr, 0, a - 0x30_0000)
  else if a < 0x50_0000 then some (.ten, 0, a - 0x40_0000)
  else if a < 0x60_0000 then some (.eth, 0, a - 0x50_0000)
  else if a < 0x68_0000 then some (.fab, 0, a - 0x60_0000)
  else if a < 0x70_0000 then some (.ctx, 0, a - 0x68_0000)
  else if a < 0x80_0000 then some (.col, 0, a - 0x70_0000)
  else if a < 0x84_0000 then some (.mnt, 0, a - 0x80_0000)
  else if a < 0x88_0000 then some (.snp, 0, a - 0x84_0000)
  else if a < 0x90_0000 then some (.tel, 0, a - 0x88_0000)
  else if a < 0x100_0000 then none
  else if a < 0x180_0000 then
    let r := a % 0x10_0000
    let d := (a - 0x100_0000) / 0x10_0000
    if r < 0x4_0000 then some (.str, d, r)
    else if r < 0x8_0000 then some (.clk, d, r - 0x4_0000)
    else some (.pwrd, d, r - 0x8_0000)
  else if a < 0x200_0000 then none
  else if a < 0x240_0000 then
    let p := (a - 0x200_0000) / 0x4000
    let r := a % 0x4000
    if r < 0x800 then some (.cox, p, r)
    else if r < 0x1000 then some (.prm, p, r - 0x800)
    else if r < 0x1800 then some (.ae, p, r - 0x1000)
    else if r < 0x2800 then some (.eng, p, r - 0x1800)
    else if r < 0x3000 then some (.cvu, p, r - 0x2800)
    else some (.flg, p, r - 0x3000)
  else if a < 0x300_0000 then none
  else if a < 0x320_0000 then some (.scb, (a - 0x300_0000) / 0x1_0000, a % 0x1_0000)
  else if a < 0x340_0000 then none
  else if a < 0x360_0000 then some (.hbm, (a - 0x340_0000) / 0x1_0000, a % 0x1_0000)
  else none

/-- The registers of sub-block BH. -/
def Blk.bhRows : List RegRow :=
  [ ⟨0, 0, 1, [⟨0, 3, .ro, 0, 0, 7⟩, ⟨3, 1, .ro, 0, 0, 1⟩, ⟨4, 2, .ro, 0, 0, 3⟩, ⟨6, 2, .ro, 0, 0, 3⟩, ⟨8, 1, .ro, 0, 0, 1⟩, ⟨9, 1, .ro, 0, 0, 1⟩, ⟨10, 1, .ro, 0, 0, 1⟩, ⟨11, 1, .ro, 0, 0, 1⟩]⟩
  , ⟨8, 0, 1, [⟨0, 1, .ro, 0, 0, 1⟩]⟩
  , ⟨0x10, 0, 1, [⟨0, 4, .wo, 0, 0, 0xF⟩, ⟨4, 2, .wo, 0, 0, 3⟩, ⟨32, 32, .wo, 0, 0, 0xFFFFFFFF⟩]⟩
  , ⟨0x18, 0, 1, [⟨0, 4, .ro, 0, 0, 0xF⟩, ⟨4, 1, .ro, 0, 0, 1⟩, ⟨5, 8, .ro, 0, 0, 0xFF⟩]⟩
  , ⟨0x20, 0, 1, [⟨0, 64, .ro, 0, 0, 0xFFFFFFFFFFFFFFFF⟩]⟩
  , ⟨0x28, 0, 1, [⟨0, 8, .ro, 0, 0, 0xFF⟩, ⟨8, 8, .ro, 0, 0, 0xFF⟩]⟩
  , ⟨0x40, 8, 8, [⟨0, 64, .ro, 0, 0, 0xFFFFFFFFFFFFFFFF⟩]⟩
  , ⟨0x80, 0, 1, [⟨0, 64, .ro, 0, 0, 0xFFFFFFFFFFFFFFFF⟩]⟩
  , ⟨0x88, 0, 1, [⟨0, 64, .ro, 0, 0, 0xFFFFFFFFFFFFFFFF⟩]⟩
  , ⟨0x90, 0, 1, [⟨0, 1, .ro, 0, 0, 1⟩, ⟨1, 1, .ro, 0, 0, 1⟩]⟩
  , ⟨0xA0, 0, 1, [⟨0, 1, .w1c, 0, 0, 1⟩, ⟨1, 1, .w1c, 0, 0, 1⟩, ⟨2, 1, .w1c, 0, 0, 1⟩, ⟨3, 1, .w1c, 0, 0, 1⟩, ⟨4, 1, .w1c, 0, 0, 1⟩, ⟨5, 1, .w1c, 0, 0, 1⟩, ⟨6, 1, .w1c, 0, 0, 1⟩, ⟨7, 1, .w1c, 0, 0, 1⟩, ⟨8, 1, .w1c, 0, 0, 1⟩]⟩
  , ⟨0xA8, 0, 1, [⟨0, 32, .ro, 0, 0, 0xFFFFFFFF⟩, ⟨32, 32, .ro, 0, 0, 0xFFFFFFFF⟩]⟩
  , ⟨0xC0, 8, 3, [⟨0, 32, .ro, 0, 0, 0xFFFFFFFF⟩, ⟨32, 16, .ro, 0, 0, 0xFFFF⟩, ⟨48, 16, .ro, 0, 0, 0xFFFF⟩]⟩
  , ⟨0xD8, 0, 1, [⟨0, 1, .ro, 0, 0, 1⟩, ⟨1, 1, .ro, 0, 0, 1⟩, ⟨2, 1, .ro, 0, 0, 1⟩]⟩
  , ⟨0xE0, 0, 1, [⟨0, 3, .ro, 0, 0, 7⟩]⟩
  , ⟨0x100, 0, 1, [⟨0, 2, .rw, 0, 0, 3⟩]⟩
  , ⟨0x108, 8, 8, [⟨0, 64, .ro, 0, 0, 0xFFFFFFFFFFFFFFFF⟩]⟩
  , ⟨0x80000, 8, 32768, [⟨0, 64, .rw, 0, 0, 0xFFFFFFFFFFFFFFFF⟩]⟩ ]

/-- The registers of sub-block ID. -/
def Blk.idRows : List RegRow :=
  [ ⟨0, 0, 1, [⟨0, 1, .ro, 0, 0, 1⟩]⟩
  , ⟨8, 8, 2, [⟨0, 64, .ro, 0, 0, 0xFFFFFFFFFFFFFFFF⟩]⟩
  , ⟨0x18, 0, 1, [⟨0, 16, .ro, 0, 0, 0xFFFF⟩]⟩
  , ⟨0x100, 0x10, 42, [⟨0, 64, .ro, 0, 0, 0xFFFFFFFFFFFFFFFF⟩]⟩
  , ⟨0x108, 0x10, 42, [⟨0, 8, .ro, 0, 0, 0xFF⟩, ⟨8, 8, .ro, 0, 0, 0xFF⟩, ⟨16, 8, .ro, 0, 0, 0xFF⟩, ⟨24, 16, .ro, 0, 0, 0xFFFF⟩, ⟨40, 2, .ro, 0, 0, 3⟩, ⟨42, 6, .ro, 0, 0, 0x3F⟩]⟩ ]

/-- The registers of sub-block ERR. -/
def Blk.errRows : List RegRow :=
  [ ⟨8, 0, 1, [⟨0, 10, .w1c, 0, 0, 0x3FF⟩, ⟨10, 10, .w1c, 0, 0, 0x3FF⟩, ⟨20, 1, .w1c, 0, 0, 1⟩]⟩
  , ⟨0x10, 0, 1, [⟨0, 4, .rw, 0, 0, 9⟩]⟩
  , ⟨0x100, 0x10, 10, [⟨0, 40, .ro, 0, 0, 0xFFFFFFFFFF⟩]⟩
  , ⟨0x108, 0x10, 10, [⟨0, 40, .rw, 0, 0, 0xFFFFFFFFFF⟩]⟩
  , ⟨0x200, 0, 1, [⟨0, 7, .rw, 0, 0, 0x7F⟩]⟩
  , ⟨0x208, 0, 1, [⟨0, 32, .ro, 0, 0, 0xFFFFFFFF⟩, ⟨32, 30, .ro, 0, 0, 0x3FFFFFFF⟩, ⟨62, 2, .ro, 0, 0, 3⟩]⟩
  , ⟨0x400, 8, 128, [⟨0, 64, .ro, 0, 0, 0xFFFFFFFFFFFFFFFF⟩]⟩
  , ⟨0x800, 0, 1, [⟨0, 4, .ro, 0xA, 0, 0xF⟩, ⟨4, 13, .ro, 0x1000, 0, 0x1FFF⟩, ⟨17, 7, .ro, 0x40, 0, 0x7F⟩]⟩ ]

/-- The registers of sub-block INJ. -/
def Blk.injRows : List RegRow :=
  [ ⟨0, 0, 1, [⟨0, 1, .rw, 0, 0, 1⟩]⟩
  , ⟨8, 0, 1, [⟨0, 7, .ro, 0, 0, 0x7F⟩]⟩
  , ⟨0x40, 0, 1, [⟨0, 64, .ro, 0, 0, 0xFFFFFFFFFFFFFFFF⟩]⟩
  , ⟨0x1000, 0x20, 128, [⟨0, 1, .rw, 0, 0, 1⟩, ⟨1, 1, .rw, 0, 0, 1⟩, ⟨2, 1, .rw, 0, 0, 1⟩, ⟨3, 1, .w1c, 0, 0, 1⟩, ⟨8, 24, .rw, 0, 0, 0xFFFFFF⟩, ⟨32, 32, .rw, 0, 0, 0xFFFFFFFF⟩]⟩
  , ⟨0x1008, 0x20, 128, [⟨0, 4, .rw, 0, 0, 0xF⟩, ⟨8, 20, .rw, 0, 0, 0xFFFFF⟩]⟩
  , ⟨0x1010, 0x20, 128, [⟨0, 64, .rw, 0, 0, 0xFFFFFFFFFFFFFFFF⟩]⟩
  , ⟨0x1018, 0x20, 128, [⟨0, 40, .rw, 0, 0x9C4, 0xFFFFFFFFFF⟩]⟩ ]

/-- The registers of sub-block PWR. -/
def Blk.pwrRows : List RegRow :=
  [ ⟨0, 0, 1, [⟨0, 16, .rw, 0x1C20, 0x7D0, 0x1C20⟩, ⟨16, 16, .ro, 0x2198, 0, 0xFFFF⟩, ⟨32, 8, .ro, 0x14, 0, 0xFF⟩]⟩
  , ⟨8, 0, 1, [⟨0, 4, .rw, 4, 1, 0xF⟩, ⟨4, 1, .rw, 1, 0, 1⟩, ⟨16, 16, .rw, 0x7D0, 0, 0xFFFF⟩]⟩
  , ⟨0x10, 0, 1, [⟨0, 16, .ro, 0, 0, 0xFFFF⟩, ⟨16, 16, .ro, 0, 0, 0xFFFF⟩, ⟨32, 16, .ro, 0, 0, 0xFFFF⟩, ⟨48, 8, .ro, 0, 0, 0xFF⟩, ⟨56, 1, .ro, 0, 0, 1⟩]⟩
  , ⟨0x18, 0, 1, [⟨0, 32, .ro, 0, 0, 0xFFFFFFFF⟩, ⟨32, 8, .ro, 0, 0, 0xFF⟩]⟩
  , ⟨0x20, 0, 1, [⟨0, 1, .w1c, 0, 0, 1⟩, ⟨1, 1, .w1c, 0, 0, 1⟩, ⟨2, 1, .w1c, 0, 0, 1⟩, ⟨3, 1, .w1c, 0, 0, 1⟩, ⟨4, 1, .w1c, 0, 0, 1⟩]⟩
  , ⟨0x28, 0, 1, [⟨0, 32, .ro, 0, 0, 0xFFFFFFFF⟩, ⟨32, 8, .ro, 0, 0, 0xFF⟩, ⟨40, 8, .ro, 0, 0, 0xFF⟩]⟩
  , ⟨0x40, 0, 1, [⟨0, 64, .ro, 0, 0, 0xFFFFFFFFFFFFFFFF⟩]⟩
  , ⟨0x48, 0, 1, [⟨0, 64, .ro, 0, 0, 0xFFFFFFFFFFFFFFFF⟩]⟩
  , ⟨0x50, 0, 1, [⟨0, 64, .ro, 0, 0, 0xFFFFFFFFFFFFFFFF⟩]⟩
  , ⟨0x58, 0, 1, [⟨0, 64, .ro, 0, 0, 0xFFFFFFFFFFFFFFFF⟩]⟩
  , ⟨0x100, 8, 8, [⟨0, 64, .ro, 0, 0, 0xFFFFFFFFFFFFFFFF⟩]⟩
  , ⟨0x200, 8, 4, [⟨0, 32, .ro, 0, 0, 0xFFFFFFFF⟩]⟩ ]

/-- The registers of sub-block TEN. -/
def Blk.tenRows : List RegRow :=
  [ ⟨8, 0, 1, [⟨0, 8, .w1c, 0, 0, 0xFF⟩, ⟨8, 8, .w1c, 0, 0, 0xFF⟩, ⟨16, 1, .w1c, 0, 0, 1⟩]⟩
  , ⟨0x100, 0x40, 8, [⟨0, 8, .ro, 0, 0, 0xFF⟩, ⟨8, 8, .ro, 0, 0, 0xFF⟩, ⟨16, 1, .ro, 0, 0, 1⟩, ⟨17, 1, .ro, 0, 0, 1⟩, ⟨18, 1, .ro, 0, 0, 1⟩, ⟨19, 1, .ro, 0, 0, 1⟩, ⟨20, 1, .ro, 0, 0, 1⟩, ⟨21, 2, .ro, 0, 0, 3⟩, ⟨32, 32, .ro, 0, 0, 0xFFFFFFFF⟩]⟩
  , ⟨0x108, 0x40, 8, [⟨0, 20, .ro, 0, 0, 0xFFFFF⟩, ⟨20, 21, .ro, 0, 0, 0x1FFFFF⟩]⟩
  , ⟨0x110, 0x40, 8, [⟨0, 38, .ro, 0, 0, 0x3FFFFFFFFF⟩, ⟨38, 3, .ro, 0, 0, 7⟩]⟩
  , ⟨0x118, 0x40, 8, [⟨0, 3, .wo, 0, 0, 7⟩, ⟨8, 8, .wo, 0, 0, 0xFF⟩, ⟨16, 40, .wo, 0, 0, 0xFFFFFFFFFF⟩]⟩
  , ⟨0x120, 0x40, 8, [⟨0, 32, .wo, 0, 0, 0xFFFFFFFF⟩]⟩
  , ⟨0x128, 0x40, 8, [⟨0, 3, .ro, 0, 0, 7⟩, ⟨3, 3, .ro, 0, 0, 7⟩, ⟨6, 1, .ro, 0, 0, 1⟩, ⟨8, 8, .ro, 0, 0, 0xFF⟩]⟩
  , ⟨0x800, 8, 8, [⟨0, 64, .ro, 0, 0, 0xFFFFFFFFFFFFFFFF⟩]⟩
  , ⟨0x1000, 0, 1, [⟨0, 10, .rw, 0, 0, 0x3FF⟩]⟩
  , ⟨0x1008, 0, 1, [⟨0, 1, .rw, 0, 0, 1⟩, ⟨1, 3, .rw, 0, 0, 7⟩, ⟨4, 2, .rw, 0, 0, 3⟩, ⟨6, 3, .rw, 0, 0, 7⟩, ⟨9, 1, .rw, 0, 0, 1⟩, ⟨10, 3, .rw, 0, 0, 7⟩, ⟨13, 22, .rw, 0, 0, 0x3FFFFF⟩]⟩
  , ⟨0x1010, 0, 1, [⟨0, 44, .rw, 0, 0, 0xFFFFFFFFFFF⟩, ⟨44, 20, .rw, 0, 0, 0xFFFFF⟩]⟩ ]

/-- The registers of sub-block ETH. -/
def Blk.ethRows : List RegRow :=
  [ ⟨0, 0x100, 4, [⟨0, 2, .rwl, 0, 0, 2⟩, ⟨2, 3, .rwl, 3, 0, 7⟩]⟩
  , ⟨8, 0x100, 4, [⟨0, 2, .ro, 0, 0, 3⟩, ⟨2, 9, .ro, 0, 0, 0x1FF⟩]⟩
  , ⟨0x10, 0x100, 4, [⟨0, 1, .w1c, 0, 0, 1⟩, ⟨1, 1, .w1c, 0, 0, 1⟩, ⟨2, 1, .w1c, 0, 0, 1⟩]⟩
  , ⟨0x40, 0x100, 4, [⟨0, 64, .ro, 0, 0, 0xFFFFFFFFFFFFFFFF⟩]⟩
  , ⟨0x48, 0x100, 4, [⟨0, 64, .ro, 0, 0, 0xFFFFFFFFFFFFFFFF⟩]⟩
  , ⟨0x50, 0x100, 4, [⟨0, 64, .ro, 0, 0, 0xFFFFFFFFFFFFFFFF⟩]⟩
  , ⟨0x58, 0x100, 4, [⟨0, 64, .ro, 0, 0, 0xFFFFFFFFFFFFFFFF⟩]⟩
  , ⟨0x60, 0x100, 4, [⟨0, 64, .ro, 0, 0, 0xFFFFFFFFFFFFFFFF⟩]⟩
  , ⟨0x68, 0x100, 4, [⟨0, 64, .ro, 0, 0, 0xFFFFFFFFFFFFFFFF⟩]⟩
  , ⟨0x70, 0x100, 4, [⟨0, 64, .ro, 0, 0, 0xFFFFFFFFFFFFFFFF⟩]⟩
  , ⟨0x1000, 0, 1, [⟨0, 10, .rw, 0, 0, 0x3FF⟩]⟩
  , ⟨0x1008, 0, 1, [⟨0, 24, .ro, 0, 0, 0xFFFFFF⟩, ⟨24, 3, .ro, 0, 0, 7⟩, ⟨27, 1, .ro, 0, 0, 1⟩, ⟨28, 1, .ro, 0, 0, 1⟩, ⟨29, 24, .ro, 0, 0, 0xFFFFFF⟩]⟩ ]

/-- The registers of sub-block FAB. -/
def Blk.fabRows0 : List RegRow :=
  [ ⟨0, 0, 1, [⟨0, 17, .rw, 0x3E8, 0xA, 0x186A0⟩, ⟨17, 7, .rw, 0xA, 6, 0x64⟩, ⟨24, 4, .rw, 8, 1, 0xF⟩, ⟨28, 12, .rw, 0x1F4, 0x64, 0xFA0⟩]⟩
  , ⟨8, 0, 1, [⟨0, 24, .ro, 0, 0, 0xFFFFFF⟩, ⟨24, 24, .ro, 0, 0, 0xFFFFFF⟩]⟩
  , ⟨0x10, 0, 1, [⟨0, 18, .ro, 0, 0, 0x3FFFF⟩, ⟨18, 18, .ro, 0, 0, 0x3FFFF⟩, ⟨36, 16, .ro, 0, 0, 0xFFFF⟩]⟩
  , ⟨0x18, 0, 1, [⟨0, 16, .ro, 0, 0, 0xFFFF⟩, ⟨16, 16, .ro, 0, 0, 0xFFFF⟩, ⟨32, 19, .ro, 0, 0, 0x7FFFF⟩]⟩
  , ⟨0x28, 0, 1, [⟨0, 19, .ro, 0, 0, 0x7FFFF⟩]⟩
  , ⟨0x20, 0, 1, [⟨0, 1, .w1c, 0, 0, 1⟩, ⟨1, 1, .w1c, 0, 0, 1⟩, ⟨2, 1, .w1c, 0, 0, 1⟩, ⟨3, 1, .w1c, 0, 0, 1⟩, ⟨4, 1, .w1c, 0, 0, 1⟩, ⟨5, 1, .w1c, 0, 0, 1⟩, ⟨6, 1, .w1c, 0, 0, 1⟩, ⟨7, 1, .w1c, 0, 0, 1⟩]⟩
  , ⟨0x40, 0, 1, [⟨0, 64, .ro, 0, 0, 0xFFFFFFFFFFFFFFFF⟩]⟩
  , ⟨0x48, 0, 1, [⟨0, 64, .ro, 0, 0, 0xFFFFFFFFFFFFFFFF⟩]⟩
  , ⟨0x50, 0, 1, [⟨0, 64, .ro, 0, 0, 0xFFFFFFFFFFFFFFFF⟩]⟩
  , ⟨0x58, 0, 1, [⟨0, 64, .ro, 0, 0, 0xFFFFFFFFFFFFFFFF⟩]⟩
  , ⟨0x60, 0, 1, [⟨0, 64, .ro, 0, 0, 0xFFFFFFFFFFFFFFFF⟩]⟩
  , ⟨0x68, 0, 1, [⟨0, 64, .ro, 0, 0, 0xFFFFFFFFFFFFFFFF⟩]⟩
  , ⟨0x70, 0, 1, [⟨0, 64, .ro, 0, 0, 0xFFFFFFFFFFFFFFFF⟩]⟩
  , ⟨0x78, 0, 1, [⟨0, 64, .ro, 0, 0, 0xFFFFFFFFFFFFFFFF⟩]⟩
  , ⟨0x80, 0, 1, [⟨0, 64, .ro, 0, 0, 0xFFFFFFFFFFFFFFFF⟩]⟩
  , ⟨0x88, 0, 1, [⟨0, 64, .ro, 0, 0, 0xFFFFFFFFFFFFFFFF⟩]⟩
  , ⟨0x90, 0, 1, [⟨0, 64, .ro, 0, 0, 0xFFFFFFFFFFFFFFFF⟩]⟩
  , ⟨0x98, 0, 1, [⟨0, 64, .ro, 0, 0, 0xFFFFFFFFFFFFFFFF⟩]⟩
  , ⟨0x1000, 0x100, 16, [⟨0, 1, .rwl, 1, 0, 1⟩, ⟨1, 4, .ro, 0, 0, 0xF⟩]⟩
  , ⟨0x1008, 0x100, 16, [⟨0, 2, .ro, 0, 0, 3⟩, ⟨2, 4, .ro, 0, 0, 0xF⟩, ⟨6, 2, .ro, 0, 0, 3⟩, ⟨8, 1, .ro, 0, 0, 1⟩, ⟨9, 1, .ro, 0, 0, 1⟩, ⟨10, 18, .ro, 0, 0, 0x3FFFF⟩, ⟨28, 1, .ro, 0, 0, 1⟩]⟩
  , ⟨0x1040, 0x100, 16, [⟨0, 64, .ro, 0, 0, 0xFFFFFFFFFFFFFFFF⟩]⟩
  , ⟨0x1048, 0x100, 16, [⟨0, 64, .ro, 0, 0, 0xFFFFFFFFFFFFFFFF⟩]⟩
  , ⟨0x1050, 0x100, 16, [⟨0, 64, .ro, 0, 0, 0xFFFFFFFFFFFFFFFF⟩]⟩
  , ⟨0x1058, 0x100, 16, [⟨0, 64, .ro, 0, 0, 0xFFFFFFFFFFFFFFFF⟩]⟩ ]

def Blk.fabRows1 : List RegRow :=
  [ ⟨0x1060, 0x100, 16, [⟨0, 64, .ro, 0, 0, 0xFFFFFFFFFFFFFFFF⟩]⟩
  , ⟨0x1068, 0x100, 16, [⟨0, 64, .ro, 0, 0, 0xFFFFFFFFFFFFFFFF⟩]⟩
  , ⟨0x1070, 0x100, 16, [⟨0, 64, .ro, 0, 0, 0xFFFFFFFFFFFFFFFF⟩]⟩
  , ⟨0x2000, 0, 1, [⟨0, 12, .rw, 0, 0, 0xFFF⟩]⟩
  , ⟨0x2008, 0, 1, [⟨0, 16, .rw, 0, 0, 0xFFFF⟩, ⟨16, 1, .rw, 0, 0, 1⟩, ⟨17, 1, .rw, 0, 0, 1⟩, ⟨18, 16, .ro, 0, 0, 0xFFFF⟩, ⟨34, 19, .rw, 0, 0, 0x7FFFF⟩]⟩
  , ⟨0x2040, 8, 16, [⟨0, 19, .rw, 0, 0, 0x7FFFF⟩]⟩
  , ⟨0x7F00, 0, 1, [⟨0, 5, .ro, 0x10, 0, 0x1F⟩, ⟨5, 6, .ro, 0x20, 0, 0x3F⟩, ⟨11, 13, .ro, 0x1388, 0, 0x1FFF⟩, ⟨24, 13, .ro, 0x1000, 0, 0x1FFF⟩, ⟨37, 5, .ro, 0x10, 0, 0x1F⟩, ⟨42, 18, .ro, 0x20000, 0, 0x3FFFF⟩]⟩ ]

def Blk.fabRows : List RegRow := Blk.fabRows0 ++ Blk.fabRows1

/-- The registers of sub-block CTX. -/
def Blk.ctxRows : List RegRow :=
  [ ⟨0, 0, 1, [⟨0, 38, .ro, 0x3FFC000000, 0, 0x3FFFFFFFFF⟩, ⟨38, 1, .ro, 1, 0, 1⟩, ⟨39, 1, .ro, 1, 0, 1⟩]⟩
  , ⟨8, 8, 2, [⟨0, 17, .ro, 0, 0, 0x1FFFF⟩, ⟨17, 17, .ro, 0, 0, 0x1FFFF⟩, ⟨34, 13, .ro, 0, 0, 0x1FFF⟩]⟩
  , ⟨0x40, 0x18, 2, [⟨0, 64, .ro, 0, 0, 0xFFFFFFFFFFFFFFFF⟩]⟩
  , ⟨0x48, 0x18, 2, [⟨0, 64, .ro, 0, 0, 0xFFFFFFFFFFFFFFFF⟩]⟩
  , ⟨0x50, 0x18, 2, [⟨0, 64, .ro, 0, 0, 0xFFFFFFFFFFFFFFFF⟩]⟩
  , ⟨0x1000, 0x100, 8, [⟨0, 20, .rw, 0, 0, 0xFFFFF⟩]⟩
  , ⟨0x1008, 0x100, 8, [⟨0, 64, .rw, 0, 0, 0xFFFFFFFFFFFFFFFF⟩]⟩
  , ⟨0x1010, 0x100, 8, [⟨0, 64, .rw, 0, 0, 0xFFFFFFFFFFFFFFFF⟩]⟩
  , ⟨0x1018, 0x100, 8, [⟨0, 64, .rw, 0, 0, 0xFFFFFFFFFFFFFFFF⟩]⟩
  , ⟨0x1020, 0x100, 8, [⟨0, 64, .rw, 0, 0, 0xFFFFFFFFFFFFFFFF⟩]⟩
  , ⟨0x1028, 0x100, 8, [⟨0, 64, .rw, 0, 0, 0xFFFFFFFFFFFFFFFF⟩]⟩
  , ⟨0x1030, 0x100, 8, [⟨0, 64, .rw, 0, 0, 0xFFFFFFFFFFFFFFFF⟩]⟩
  , ⟨0x1038, 0x100, 8, [⟨0, 64, .rw, 0, 0, 0xFFFFFFFFFFFFFFFF⟩]⟩
  , ⟨0x1040, 0x100, 8, [⟨0, 64, .rw, 0, 0, 0xFFFFFFFFFFFFFFFF⟩]⟩ ]

/-- The registers of sub-block COL. -/
def Blk.colRows : List RegRow :=
  [ ⟨0, 0, 1, [⟨0, 10, .rw, 0x40, 8, 0x200⟩]⟩
  , ⟨8, 0, 1, [⟨0, 9, .ro, 0, 0, 0x1FF⟩, ⟨9, 11, .ro, 0, 0, 0x7FF⟩, ⟨20, 8, .ro, 0, 0, 0xFF⟩]⟩
  , ⟨0x10, 0, 1, [⟨0, 1, .w1c, 0, 0, 1⟩, ⟨1, 1, .w1c, 0, 0, 1⟩, ⟨2, 1, .w1c, 0, 0, 1⟩, ⟨3, 1, .w1c, 0, 0, 1⟩, ⟨4, 1, .w1c, 0, 0, 1⟩, ⟨5, 1, .w1c, 0, 0, 1⟩]⟩
  , ⟨0x18, 0, 1, [⟨0, 12, .rw, 0, 0, 0xFFF⟩]⟩
  , ⟨0x20, 0, 1, [⟨0, 24, .rw, 0, 0, 0xFFFFFF⟩, ⟨24, 24, .rw, 0, 0, 0xFFFFFF⟩]⟩
  , ⟨0x28, 0, 1, [⟨0, 24, .rw, 0, 0, 0xFFFFFF⟩, ⟨24, 18, .rw, 0, 0, 0x3FFFF⟩, ⟨42, 1, .rw, 0, 0, 1⟩, ⟨43, 1, .rw, 0, 0, 1⟩]⟩
  , ⟨0x30, 0, 1, [⟨0, 19, .ro, 0, 0, 0x7FFFF⟩, ⟨19, 1, .ro, 0, 0, 1⟩, ⟨20, 18, .ro, 0, 0, 0x3FFFF⟩, ⟨38, 1, .ro, 0, 0, 1⟩]⟩
  , ⟨0x38, 0, 1, [⟨0, 20, .wo, 0, 0, 0xFFFFF⟩, ⟨20, 12, .wo, 0, 0, 0xFFF⟩]⟩
  , ⟨0x40, 0, 1, [⟨0, 12, .rw, 0, 0, 0xFFF⟩]⟩
  , ⟨0x48, 0, 1, [⟨0, 22, .rw, 0, 0, 0x3FFFFF⟩, ⟨22, 3, .rw, 0, 0, 7⟩, ⟨25, 22, .rw, 0, 0, 0x3FFFFF⟩]⟩
  , ⟨0x50, 0, 1, [⟨0, 32, .rw, 0, 0, 0xFFFFFFFF⟩]⟩
  , ⟨0x60, 0, 1, [⟨0, 3, .ro, 0, 0, 7⟩, ⟨3, 5, .ro, 0, 0, 0x1F⟩, ⟨8, 16, .ro, 0, 0, 0xFFFF⟩, ⟨24, 1, .w1c, 0, 0, 1⟩]⟩
  , ⟨0x68, 0, 1, [⟨0, 32, .ro, 0, 0, 0xFFFFFFFF⟩, ⟨32, 32, .ro, 0, 0, 0xFFFFFFFF⟩]⟩
  , ⟨0x70, 0, 1, [⟨0, 64, .ro, 0, 0, 0xFFFFFFFFFFFFFFFF⟩]⟩
  , ⟨0x100, 0, 1, [⟨0, 64, .ro, 0, 0, 0xFFFFFFFFFFFFFFFF⟩]⟩
  , ⟨0x108, 0, 1, [⟨0, 64, .ro, 0, 0, 0xFFFFFFFFFFFFFFFF⟩]⟩
  , ⟨0x110, 0, 1, [⟨0, 64, .ro, 0, 0, 0xFFFFFFFFFFFFFFFF⟩]⟩
  , ⟨0x118, 0, 1, [⟨0, 64, .ro, 0, 0, 0xFFFFFFFFFFFFFFFF⟩]⟩
  , ⟨0x120, 0, 1, [⟨0, 64, .ro, 0, 0, 0xFFFFFFFFFFFFFFFF⟩]⟩
  , ⟨0x128, 0, 1, [⟨0, 64, .ro, 0, 0, 0xFFFFFFFFFFFFFFFF⟩]⟩
  , ⟨0x130, 0, 1, [⟨0, 64, .ro, 0, 0, 0xFFFFFFFFFFFFFFFF⟩]⟩
  , ⟨0x138, 0, 1, [⟨0, 64, .ro, 0, 0, 0xFFFFFFFFFFFFFFFF⟩]⟩
  , ⟨0x7F00, 0, 1, [⟨0, 8, .ro, 0x80, 0, 0xFF⟩, ⟨8, 11, .ro, 0x400, 0, 0x7FF⟩, ⟨19, 13, .ro, 0x1000, 0, 0x1FFF⟩, ⟨32, 13, .ro, 0x1000, 0, 0x1FFF⟩]⟩ ]

/-- The registers of sub-block MNT. -/
def Blk.mntRows : List RegRow :=
  [ ⟨0, 0, 1, [⟨0, 1, .rw, 1, 0, 1⟩, ⟨1, 1, .rw, 1, 0, 1⟩, ⟨8, 8, .rw, 0x18, 1, 0xFF⟩, ⟨16, 16, .rw, 0x64, 1, 0xFFFF⟩]⟩
  , ⟨8, 0, 1, [⟨0, 3, .wo, 0, 0, 7⟩, ⟨8, 8, .wo, 0, 0, 0xFF⟩, ⟨16, 48, .wo, 0, 0, 0xFFFFFFFFFFFF⟩]⟩
  , ⟨0x10, 0, 1, [⟨0, 6, .ro, 0, 0, 0x3F⟩, ⟨6, 7, .ro, 0, 0, 0x7F⟩, ⟨13, 3, .ro, 0, 0, 7⟩]⟩
  , ⟨0x18, 0, 1, [⟨0, 1, .w1c, 0, 0, 1⟩, ⟨1, 1, .w1c, 0, 0, 1⟩, ⟨2, 1, .w1c, 0, 0, 1⟩, ⟨3, 1, .w1c, 0, 0, 1⟩]⟩
  , ⟨0x100, 8, 4, [⟨0, 64, .ro, 0, 0, 0xFFFFFFFFFFFFFFFF⟩]⟩
  , ⟨0x120, 0, 1, [⟨0, 32, .ro, 0, 0, 0xFFFFFFFF⟩, ⟨32, 32, .ro, 0, 0, 0xFFFFFFFF⟩]⟩
  , ⟨0x128, 0, 1, [⟨0, 32, .ro, 0, 0, 0xFFFFFFFF⟩, ⟨32, 2, .ro, 0, 0, 3⟩, ⟨34, 16, .ro, 0, 0, 0xFFFF⟩]⟩
  , ⟨0x130, 0, 1, [⟨0, 56, .ro, 0, 0, 0xFFFFFFFFFFFFFF⟩]⟩
  , ⟨0x140, 0, 1, [⟨0, 4, .wo, 0, 0, 0xF⟩, ⟨4, 1, .wo, 0, 0, 1⟩, ⟨8, 12, .wo, 0, 0, 0xFFF⟩]⟩
  , ⟨0x200, 8, 6, [⟨0, 64, .ro, 0, 0, 0xFFFFFFFFFFFFFFFF⟩]⟩
  , ⟨0x240, 8, 6, [⟨0, 64, .ro, 0, 0, 0xFFFFFFFFFFFFFFFF⟩]⟩ ]

/-- The registers of sub-block SNP. -/
def Blk.snpRows : List RegRow :=
  [ ⟨0, 0, 1, [⟨0, 16, .rw, 0x3E8, 0x64, 0x2710⟩, ⟨16, 16, .rw, 0x64, 1, 0xEA60⟩]⟩
  , ⟨8, 0, 1, [⟨0, 12, .rw, 0xC8, 0, 0xFFF⟩, ⟨12, 12, .rw, 0, 0, 0xFFF⟩, ⟨24, 12, .rw, 0x64, 0, 0xFFF⟩]⟩
  , ⟨0x10, 0, 1, [⟨0, 4, .wo, 0, 0, 0xF⟩, ⟨4, 3, .wo, 0, 0, 7⟩, ⟨7, 3, .wo, 0, 0, 7⟩, ⟨10, 3, .wo, 0, 0, 7⟩, ⟨13, 1, .wo, 0, 0, 1⟩, ⟨32, 32, .wo, 0, 0, 0xFFFFFFFF⟩]⟩
  , ⟨0x18, 0, 1, [⟨0, 1, .w1c, 0, 0, 1⟩, ⟨1, 1, .w1c, 0, 0, 1⟩, ⟨2, 1, .w1c, 0, 0, 1⟩, ⟨3, 1, .w1c, 0, 0, 1⟩, ⟨4, 1, .w1c, 0, 0, 1⟩, ⟨5, 1, .w1c, 0, 0, 1⟩, ⟨6, 1, .w1c, 0, 0, 1⟩]⟩
  , ⟨0x100, 0x40, 8, [⟨0, 3, .ro, 5, 0, 7⟩, ⟨3, 4, .ro, 0, 0, 0xF⟩, ⟨7, 1, .ro, 0, 0, 1⟩, ⟨8, 8, .ro, 0, 0, 0xFF⟩]⟩
  , ⟨0x108, 0x40, 8, [⟨0, 32, .ro, 0, 0, 0xFFFFFFFF⟩, ⟨32, 32, .ro, 0, 0, 0xFFFFFFFF⟩]⟩
  , ⟨0x110, 0x40, 8, [⟨0, 32, .ro, 0, 0, 0xFFFFFFFF⟩, ⟨32, 32, .ro, 0, 0, 0xFFFFFFFF⟩]⟩
  , ⟨0x118, 0x40, 8, [⟨0, 32, .ro, 0, 0, 0xFFFFFFFF⟩, ⟨32, 32, .ro, 0, 0, 0xFFFFFFFF⟩]⟩
  , ⟨0x120, 0x40, 8, [⟨0, 64, .rw, 0, 0, 0xFFFFFFFFFFFFFFFF⟩]⟩
  , ⟨0x128, 0x40, 8, [⟨0, 12, .ro, 0, 0, 0xFFF⟩, ⟨12, 18, .ro, 0, 0, 0x3FFFF⟩, ⟨30, 1, .w1c, 0, 0, 1⟩]⟩
  , ⟨0x400, 0, 1, [⟨0, 64, .ro, 0, 0, 0xFFFFFFFFFFFFFFFF⟩]⟩
  , ⟨0x408, 0, 1, [⟨0, 64, .ro, 0, 0, 0xFFFFFFFFFFFFFFFF⟩]⟩
  , ⟨0x410, 0, 1, [⟨0, 64, .ro, 0, 0, 0xFFFFFFFFFFFFFFFF⟩]⟩
  , ⟨0x418, 0, 1, [⟨0, 64, .ro, 0, 0, 0xFFFFFFFFFFFFFFFF⟩]⟩
  , ⟨0x420, 0, 1, [⟨0, 64, .ro, 0, 0, 0xFFFFFFFFFFFFFFFF⟩]⟩ ]

/-- The registers of sub-block TEL. -/
def Blk.telRows : List RegRow :=
  [ ⟨0, 0, 1, [⟨0, 15, .rw, 0x7FFF, 0, 0x7FFF⟩, ⟨16, 1, .rw, 0, 0, 1⟩]⟩
  , ⟨8, 0, 1, [⟨0, 1, .wo, 0, 0, 1⟩]⟩
  , ⟨0x10, 0, 1, [⟨0, 64, .rw, 0, 0, 0xFFFFFFFFFFFFFFFF⟩]⟩
  , ⟨0x18, 0, 1, [⟨0, 40, .rw, 0x17D7840, 0x3D090, 0xFFFFFFFFFF⟩, ⟨40, 8, .rw, 1, 0, 0xFF⟩, ⟨48, 8, .rw, 4, 0, 0xFF⟩]⟩
  , ⟨0x20, 0, 1, [⟨0, 1, .ro, 0, 0, 1⟩, ⟨1, 1, .w1c, 0, 0, 1⟩, ⟨2, 1, .w1c, 0, 0, 1⟩, ⟨3, 1, .w1c, 0, 0, 1⟩, ⟨32, 32, .ro, 0, 0, 0xFFFFFFFF⟩]⟩
  , ⟨0x28, 0, 1, [⟨0, 64, .ro, 0, 0, 0xFFFFFFFFFFFFFFFF⟩]⟩
  , ⟨0x30, 0, 1, [⟨0, 64, .ro, 0, 0, 0xFFFFFFFFFFFFFFFF⟩]⟩
  , ⟨0x40, 8, 8, [⟨0, 32, .ro, 0, 0, 0xFFFFFFFF⟩, ⟨32, 32, .ro, 0, 0, 0xFFFFFFFF⟩]⟩
  , ⟨0x100, 0, 1, [⟨0, 64, .ro, 0, 0, 0xFFFFFFFFFFFFFFFF⟩]⟩
  , ⟨0x108, 0, 1, [⟨0, 64, .ro, 0, 0, 0xFFFFFFFFFFFFFFFF⟩]⟩ ]

/-- The registers of sub-block STR. -/
def Blk.strRows : List RegRow :=
  [ ⟨0, 0, 1, [⟨0, 1, .rw, 0, 0, 1⟩, ⟨16, 16, .rw, 0x14, 2, 0xFFFF⟩]⟩
  , ⟨8, 0, 1, [⟨0, 1, .ro, 0, 0, 1⟩, ⟨1, 2, .ro, 0, 0, 3⟩, ⟨3, 16, .ro, 0, 0, 0xFFFF⟩, ⟨19, 7, .ro, 0, 0, 0x7F⟩, ⟨26, 1, .ro, 0, 0, 1⟩, ⟨27, 1, .ro, 0, 0, 1⟩, ⟨28, 1, .ro, 0, 0, 1⟩, ⟨29, 1, .ro, 0, 0, 1⟩, ⟨32, 32, .ro, 0, 0, 0xFFFFFFFF⟩]⟩
  , ⟨0x10, 0, 1, [⟨0, 1, .w1c, 0, 0, 1⟩, ⟨1, 1, .w1c, 0, 0, 1⟩, ⟨2, 1, .w1c, 0, 0, 1⟩, ⟨3, 1, .w1c, 0, 0, 1⟩, ⟨4, 1, .w1c, 0, 0, 1⟩]⟩
  , ⟨0x18, 0, 1, [⟨0, 32, .ro, 0, 0, 0xFFFFFFFF⟩, ⟨32, 16, .ro, 0, 0, 0xFFFF⟩, ⟨48, 8, .ro, 0x80, 0, 0xFF⟩]⟩
  , ⟨0x20, 0, 1, [⟨0, 16, .ro, 0, 0, 0xFFFF⟩, ⟨16, 2, .ro, 0, 0, 3⟩, ⟨18, 1, .ro, 0, 0, 1⟩, ⟨19, 1, .ro, 0, 0, 1⟩, ⟨32, 32, .ro, 0, 0, 0xFFFFFFFF⟩]⟩
  , ⟨0x28, 0, 1, [⟨0, 64, .ro, 0, 0, 0xFFFFFFFFFFFFFFFF⟩]⟩
  , ⟨0x30, 0, 1, [⟨0, 4, .ro, 0, 0, 0xF⟩, ⟨32, 32, .ro, 0, 0, 0xFFFFFFFF⟩]⟩
  , ⟨0x40, 0, 1, [⟨0, 64, .ro, 0, 0, 0xFFFFFFFFFFFFFFFF⟩]⟩
  , ⟨0x48, 8, 4, [⟨0, 64, .ro, 0, 0, 0xFFFFFFFFFFFFFFFF⟩]⟩
  , ⟨0x68, 0, 1, [⟨0, 64, .ro, 0, 0, 0xFFFFFFFFFFFFFFFF⟩]⟩
  , ⟨0x70, 0, 1, [⟨0, 64, .ro, 0, 0, 0xFFFFFFFFFFFFFFFF⟩]⟩
  , ⟨0x78, 0, 1, [⟨0, 64, .ro, 0, 0, 0xFFFFFFFFFFFFFFFF⟩]⟩
  , ⟨0x80, 0, 1, [⟨0, 64, .ro, 0, 0, 0xFFFFFFFFFFFFFFFF⟩]⟩
  , ⟨0x100, 8, 64, [⟨0, 16, .ro, 0, 0, 0xFFFF⟩, ⟨16, 2, .ro, 0, 0, 3⟩, ⟨18, 1, .ro, 0, 0, 1⟩, ⟨19, 1, .ro, 0, 0, 1⟩, ⟨20, 5, .ro, 0, 0, 0x1F⟩, ⟨32, 32, .ro, 0, 0, 0xFFFFFFFF⟩]⟩ ]

/-- The registers of sub-block CLK. -/
def Blk.clkRows : List RegRow :=
  [ ⟨0, 0, 1, [⟨0, 3, .rw, 0, 0, 5⟩, ⟨8, 8, .rw, 0x28, 0x10, 0x64⟩, ⟨16, 8, .rw, 0xF, 0, 0x28⟩]⟩
  , ⟨8, 0, 1, [⟨0, 1, .ro, 0, 0, 1⟩, ⟨1, 1, .ro, 0, 0, 1⟩, ⟨2, 3, .ro, 0, 0, 7⟩, ⟨5, 3, .ro, 0, 0, 7⟩, ⟨8, 1, .ro, 0, 0, 1⟩, ⟨9, 1, .ro, 0, 0, 1⟩, ⟨10, 1, .ro, 0, 0, 1⟩, ⟨12, 8, .ro, 0x55, 0, 0xFF⟩]⟩
  , ⟨0x10, 0, 1, [⟨0, 1, .w1c, 0, 0, 1⟩, ⟨1, 1, .w1c, 0, 0, 1⟩]⟩
  , ⟨0x40, 0, 1, [⟨0, 64, .ro, 0, 0, 0xFFFFFFFFFFFFFFFF⟩]⟩
  , ⟨0x48, 0, 1, [⟨0, 64, .ro, 0, 0, 0xFFFFFFFFFFFFFFFF⟩]⟩
  , ⟨0x50, 0, 1, [⟨0, 64, .ro, 0, 0, 0xFFFFFFFFFFFFFFFF⟩]⟩
  , ⟨0x58, 0, 1, [⟨0, 64, .ro, 0, 0, 0xFFFFFFFFFFFFFFFF⟩]⟩
  , ⟨0x80, 8, 6, [⟨0, 64, .ro, 0, 0, 0xFFFFFFFFFFFFFFFF⟩]⟩
  , ⟨0x100, 8, 6, [⟨0, 16, .ro, 0, 0, 0xFFFF⟩, ⟨16, 16, .ro, 0, 0, 0xFFFF⟩, ⟨32, 7, .ro, 0, 0, 0x7F⟩]⟩ ]

/-- The registers of sub-block PWRD. -/
def Blk.pwrdRows : List RegRow :=
  [ ⟨0, 0, 1, [⟨0, 8, .rw, 0x5A, 0x46, 0x63⟩]⟩
  , ⟨8, 0, 1, [⟨0, 8, .ro, 0, 0, 0xFF⟩, ⟨8, 5, .ro, 0, 0, 0x1F⟩, ⟨13, 1, .ro, 0, 0, 1⟩, ⟨14, 1, .ro, 0, 0, 1⟩, ⟨16, 16, .ro, 0, 0, 0xFFFF⟩, ⟨32, 16, .ro, 0, 0, 0xFFFF⟩]⟩
  , ⟨0x10, 0, 1, [⟨0, 1, .w1c, 0, 0, 1⟩, ⟨1, 1, .w1c, 0, 0, 1⟩]⟩
  , ⟨0x100, 8, 32, [⟨0, 8, .ro, 0, 0, 0xFF⟩]⟩
  , ⟨0x200, 8, 16, [⟨0, 32, .ro, 0, 0, 0xFFFFFFFF⟩]⟩
  , ⟨0x40, 0, 1, [⟨0, 64, .ro, 0, 0, 0xFFFFFFFFFFFFFFFF⟩]⟩
  , ⟨0x48, 0, 1, [⟨0, 64, .ro, 0, 0, 0xFFFFFFFFFFFFFFFF⟩]⟩ ]

/-- The registers of sub-block COX. -/
def Blk.coxRows : List RegRow :=
  [ ⟨0, 0, 1, [⟨0, 1, .rw, 0, 0, 1⟩, ⟨1, 1, .rw, 1, 0, 1⟩, ⟨2, 1, .rw, 0, 0, 1⟩, ⟨16, 16, .rw, 0x100, 0x10, 0xFFFF⟩]⟩
  , ⟨8, 0, 1, [⟨0, 1, .ro, 0, 0, 1⟩, ⟨1, 1, .ro, 0, 0, 1⟩, ⟨2, 1, .ro, 0, 0, 1⟩, ⟨3, 1, .ro, 0, 0, 1⟩, ⟨4, 1, .ro, 0, 0, 1⟩, ⟨5, 4, .ro, 0, 0, 0xF⟩]⟩
  , ⟨0x10, 0, 1, [⟨0, 1, .w1c, 0, 0, 1⟩, ⟨1, 1, .w1c, 0, 0, 1⟩, ⟨2, 1, .w1c, 0, 0, 1⟩]⟩
  , ⟨0x18, 0, 1, [⟨0, 18, .ro, 0, 0, 0x3FFFF⟩, ⟨18, 3, .ro, 0, 0, 7⟩, ⟨21, 5, .ro, 0, 0, 0x1F⟩, ⟨26, 3, .ro, 0, 0, 7⟩, ⟨29, 5, .ro, 0, 0, 0x1F⟩, ⟨34, 1, .ro, 0, 0, 1⟩]⟩
  , ⟨0x20, 0, 1, [⟨0, 16, .wo, 0, 0, 0xFFFF⟩]⟩
  , ⟨0x28, 0, 1, [⟨0, 32, .rw, 0, 0, 0xFFFFFFFF⟩]⟩
  , ⟨0x30, 0, 1, [⟨0, 48, .wo, 0, 0, 0xFFFFFFFFFFFF⟩, ⟨48, 6, .wo, 0, 0, 0x3F⟩, ⟨54, 1, .wo, 0, 0, 1⟩]⟩
  , ⟨0x38, 0, 1, [⟨0, 32, .ro, 0, 0, 0xFFFFFFFF⟩, ⟨32, 16, .ro, 0, 0, 0xFFFF⟩, ⟨48, 1, .ro, 0, 0, 1⟩]⟩
  , ⟨0x40, 0, 1, [⟨0, 1, .rw, 0, 0, 1⟩, ⟨1, 1, .rw, 0, 0, 1⟩, ⟨2, 1, .rw, 0, 0, 1⟩, ⟨3, 1, .rw, 0, 0, 1⟩, ⟨4, 1, .rw, 0, 0, 1⟩]⟩
  , ⟨0x48, 0, 1, [⟨0, 1, .w1c, 0, 0, 1⟩, ⟨1, 1, .w1c, 0, 0, 1⟩, ⟨2, 1, .w1c, 0, 0, 1⟩, ⟨3, 1, .w1c, 0, 0, 1⟩, ⟨4, 1, .w1c, 0, 0, 1⟩]⟩
  , ⟨0x50, 0, 1, [⟨0, 32, .ro, 0, 0, 0xFFFFFFFF⟩, ⟨32, 5, .ro, 0, 0, 0x1F⟩]⟩
  , ⟨0x100, 0, 1, [⟨0, 16, .ro, 0, 0, 0xFFFF⟩, ⟨16, 4, .ro, 0, 0, 0xF⟩, ⟨20, 4, .ro, 0, 0, 0xF⟩, ⟨24, 1, .ro, 0, 0, 1⟩, ⟨25, 1, .ro, 0, 0, 1⟩]⟩
  , ⟨0x108, 0, 1, [⟨0, 32, .ro, 0, 0, 0xFFFFFFFF⟩, ⟨32, 32, .ro, 0, 0, 0xFFFFFFFF⟩]⟩
  , ⟨0x110, 0, 1, [⟨0, 64, .ro, 0, 0, 0xFFFFFFFFFFFFFFFF⟩]⟩
  , ⟨0x118, 0, 1, [⟨0, 64, .ro, 0, 0, 0xFFFFFFFFFFFFFFFF⟩]⟩
  , ⟨0x140, 0, 1, [⟨0, 64, .ro, 0, 0, 0xFFFFFFFFFFFFFFFF⟩]⟩
  , ⟨0x148, 0, 1, [⟨0, 64, .ro, 0, 0, 0xFFFFFFFFFFFFFFFF⟩]⟩
  , ⟨0x150, 0, 1, [⟨0, 64, .ro, 0, 0, 0xFFFFFFFFFFFFFFFF⟩]⟩
  , ⟨0x400, 0, 1, [⟨0, 8, .ro, 0x20, 0, 0xFF⟩, ⟨8, 8, .ro, 0x40, 0, 0xFF⟩, ⟨16, 4, .ro, 8, 0, 0xF⟩, ⟨20, 4, .ro, 8, 0, 0xF⟩, ⟨24, 8, .ro, 0x40, 0, 0xFF⟩, ⟨32, 8, .ro, 0xC, 0, 0xFF⟩]⟩ ]

/-- The registers of sub-block PRM. -/
def Blk.prmRows : List RegRow :=
  [ ⟨0, 8, 64, [⟨0, 48, .rw, 0, 0, 0xFFFFFFFFFFFF⟩]⟩ ]

/-- The registers of sub-block AE. -/
def Blk.aeRows0 : List RegRow :=
  [ ⟨0, 0, 1, [⟨0, 1, .rw, 1, 0, 1⟩, ⟨1, 1, .rw, 1, 0, 1⟩, ⟨16, 16, .rw, 0x1000, 0x40, 0xFFFF⟩]⟩
  , ⟨8, 0, 1, [⟨0, 6, .ro, 0, 0, 0x3F⟩, ⟨6, 7, .ro, 0, 0, 0x7F⟩, ⟨13, 10, .ro, 0, 0, 0x3FF⟩, ⟨23, 1, .ro, 0, 0, 1⟩]⟩
  , ⟨0x10, 0, 1, [⟨0, 1, .w1c, 0, 0, 1⟩, ⟨1, 1, .w1c, 0, 0, 1⟩, ⟨2, 1, .w1c, 0, 0, 1⟩, ⟨3, 1, .w1c, 0, 0, 1⟩]⟩
  , ⟨0x18, 0, 1, [⟨0, 10, .ro, 0, 0, 0x3FF⟩, ⟨10, 7, .ro, 0, 0, 0x7F⟩, ⟨20, 20, .ro, 0, 0, 0xFFFFF⟩]⟩
  , ⟨0x20, 0, 1, [⟨0, 11, .ro, 0, 0, 0x7FF⟩, ⟨11, 11, .ro, 0, 0, 0x7FF⟩, ⟨22, 11, .ro, 0, 0, 0x7FF⟩]⟩
  , ⟨0x40, 8, 8, [⟨0, 10, .ro, 0, 0, 0x3FF⟩, ⟨10, 7, .ro, 0, 0, 0x7F⟩, ⟨17, 1, .ro, 0, 0, 1⟩, ⟨18, 1, .ro, 0, 0, 1⟩, ⟨19, 1, .ro, 0, 0, 1⟩, ⟨32, 16, .ro, 0, 0, 0xFFFF⟩]⟩
  , ⟨0x80, 8, 8, [⟨0, 6, .ro, 0, 0, 0x3F⟩, ⟨6, 6, .ro, 0, 0, 0x3F⟩, ⟨12, 7, .ro, 0, 0, 0x7F⟩, ⟨19, 7, .ro, 0, 0, 0x7F⟩]⟩
  , ⟨0x100, 0, 1, [⟨0, 64, .ro, 0, 0, 0xFFFFFFFFFFFFFFFF⟩]⟩
  , ⟨0x108, 0, 1, [⟨0, 64, .ro, 0, 0, 0xFFFFFFFFFFFFFFFF⟩]⟩
  , ⟨0x110, 0, 1, [⟨0, 64, .ro, 0, 0, 0xFFFFFFFFFFFFFFFF⟩]⟩
  , ⟨0x118, 0, 1, [⟨0, 64, .ro, 0, 0, 0xFFFFFFFFFFFFFFFF⟩]⟩
  , ⟨0x120, 0, 1, [⟨0, 64, .ro, 0, 0, 0xFFFFFFFFFFFFFFFF⟩]⟩
  , ⟨0x128, 0, 1, [⟨0, 64, .ro, 0, 0, 0xFFFFFFFFFFFFFFFF⟩]⟩
  , ⟨0x130, 0, 1, [⟨0, 64, .ro, 0, 0, 0xFFFFFFFFFFFFFFFF⟩]⟩
  , ⟨0x138, 0, 1, [⟨0, 64, .ro, 0, 0, 0xFFFFFFFFFFFFFFFF⟩]⟩
  , ⟨0x140, 0, 1, [⟨0, 64, .ro, 0, 0, 0xFFFFFFFFFFFFFFFF⟩]⟩
  , ⟨0x148, 0, 1, [⟨0, 64, .ro, 0, 0, 0xFFFFFFFFFFFFFFFF⟩]⟩
  , ⟨0x150, 0, 1, [⟨0, 64, .ro, 0, 0, 0xFFFFFFFFFFFFFFFF⟩]⟩
  , ⟨0x158, 0, 1, [⟨0, 64, .ro, 0, 0, 0xFFFFFFFFFFFFFFFF⟩]⟩
  , ⟨0x160, 0, 1, [⟨0, 64, .ro, 0, 0, 0xFFFFFFFFFFFFFFFF⟩]⟩
  , ⟨0x168, 0, 1, [⟨0, 64, .ro, 0, 0, 0xFFFFFFFFFFFFFFFF⟩]⟩
  , ⟨0x170, 0, 1, [⟨0, 64, .ro, 0, 0, 0xFFFFFFFFFFFFFFFF⟩]⟩
  , ⟨0x178, 0, 1, [⟨0, 64, .ro, 0, 0, 0xFFFFFFFFFFFFFFFF⟩]⟩
  , ⟨0x180, 0, 1, [⟨0, 64, .ro, 0, 0, 0xFFFFFFFFFFFFFFFF⟩]⟩ ]

def Blk.aeRows1 : List RegRow :=
  [ ⟨0x188, 0, 1, [⟨0, 64, .ro, 0, 0, 0xFFFFFFFFFFFFFFFF⟩]⟩
  , ⟨0x190, 0, 1, [⟨0, 64, .ro, 0, 0, 0xFFFFFFFFFFFFFFFF⟩]⟩
  , ⟨0x200, 8, 8, [⟨0, 64, .ro, 0, 0, 0xFFFFFFFFFFFFFFFF⟩]⟩
  , ⟨0x400, 0, 1, [⟨0, 6, .ro, 0x30, 0, 0x3F⟩, ⟨6, 7, .ro, 0x40, 0, 0x7F⟩, ⟨13, 4, .ro, 8, 0, 0xF⟩, ⟨17, 10, .ro, 0x200, 0, 0x3FF⟩, ⟨27, 4, .ro, 8, 0, 0xF⟩]⟩ ]

def Blk.aeRows : List RegRow := Blk.aeRows0 ++ Blk.aeRows1

/-- The registers of sub-block ENG. -/
def Blk.engRows : List RegRow :=
  [ ⟨0, 0x400, 3, [⟨0, 1, .rw, 1, 0, 1⟩]⟩
  , ⟨8, 0x400, 3, [⟨0, 1, .ro, 0, 0, 1⟩, ⟨1, 1, .ro, 0, 0, 1⟩, ⟨2, 1, .ro, 0, 0, 1⟩, ⟨3, 1, .ro, 0, 0, 1⟩, ⟨4, 1, .ro, 0, 0, 1⟩, ⟨5, 1, .ro, 0, 0, 1⟩, ⟨6, 1, .ro, 0, 0, 1⟩, ⟨7, 1, .ro, 0, 0, 1⟩, ⟨8, 7, .ro, 0, 0, 0x7F⟩]⟩
  , ⟨0x10, 0x400, 3, [⟨0, 1, .w1c, 0, 0, 1⟩, ⟨1, 1, .w1c, 0, 0, 1⟩]⟩
  , ⟨0x40, 0x400, 3, [⟨0, 64, .ro, 0, 0, 0xFFFFFFFFFFFFFFFF⟩]⟩
  , ⟨0x48, 0x400, 3, [⟨0, 64, .ro, 0, 0, 0xFFFFFFFFFFFFFFFF⟩]⟩
  , ⟨0x50, 0x400, 3, [⟨0, 64, .ro, 0, 0, 0xFFFFFFFFFFFFFFFF⟩]⟩
  , ⟨0x58, 0x400, 3, [⟨0, 64, .ro, 0, 0, 0xFFFFFFFFFFFFFFFF⟩]⟩
  , ⟨0x60, 0x400, 3, [⟨0, 64, .ro, 0, 0, 0xFFFFFFFFFFFFFFFF⟩]⟩
  , ⟨0x68, 0x400, 3, [⟨0, 64, .ro, 0, 0, 0xFFFFFFFFFFFFFFFF⟩]⟩
  , ⟨0x70, 0x400, 3, [⟨0, 64, .ro, 0, 0, 0xFFFFFFFFFFFFFFFF⟩]⟩
  , ⟨0x78, 0x400, 3, [⟨0, 64, .ro, 0, 0, 0xFFFFFFFFFFFFFFFF⟩]⟩
  , ⟨0xC00, 0, 1, [⟨0, 8, .ro, 0x40, 0, 0xFF⟩, ⟨8, 4, .ro, 0xB, 0, 0xF⟩, ⟨12, 4, .ro, 0xE, 0, 0xF⟩, ⟨16, 11, .ro, 0x7FF, 0, 0x7FF⟩, ⟨32, 4, .ro, 1, 0, 0xF⟩]⟩
  , ⟨0xC08, 0, 1, [⟨0, 1, .ro, 0, 0, 1⟩, ⟨1, 1, .ro, 0, 0, 1⟩, ⟨32, 32, .ro, 0, 0, 0xFFFFFFFF⟩]⟩ ]

/-- The registers of sub-block CVU. -/
def Blk.cvuRows : List RegRow :=
  [ ⟨8, 0, 1, [⟨0, 1, .ro, 0, 0, 1⟩, ⟨1, 1, .ro, 0, 0, 1⟩]⟩
  , ⟨0x10, 0, 1, [⟨0, 1, .w1c, 0, 0, 1⟩, ⟨1, 1, .w1c, 0, 0, 1⟩, ⟨2, 1, .w1c, 0, 0, 1⟩, ⟨3, 1, .w1c, 0, 0, 1⟩]⟩
  , ⟨0x40, 0, 1, [⟨0, 64, .ro, 0, 0, 0xFFFFFFFFFFFFFFFF⟩]⟩
  , ⟨0x48, 0, 1, [⟨0, 64, .ro, 0, 0, 0xFFFFFFFFFFFFFFFF⟩]⟩
  , ⟨0x50, 0, 1, [⟨0, 64, .ro, 0, 0, 0xFFFFFFFFFFFFFFFF⟩]⟩
  , ⟨0x100, 0, 1, [⟨0, 16, .ro, 0x200, 0, 0xFFFF⟩, ⟨16, 16, .ro, 0x80, 0, 0xFFFF⟩, ⟨32, 8, .ro, 0x20, 0, 0xFF⟩]⟩ ]

/-- The registers of sub-block FLG. -/
def Blk.flgRows : List RegRow :=
  [ ⟨0, 0, 1, [⟨0, 1, .rw, 1, 0, 1⟩, ⟨8, 3, .ro, 0, 0, 7⟩, ⟨11, 1, .ro, 0, 0, 1⟩]⟩
  , ⟨8, 0, 1, [⟨0, 1, .w1c, 0, 0, 1⟩, ⟨1, 1, .w1c, 0, 0, 1⟩, ⟨2, 1, .w1c, 0, 0, 1⟩]⟩
  , ⟨0x10, 0, 1, [⟨0, 4, .ro, 0, 0, 0xF⟩, ⟨4, 2, .ro, 0, 0, 3⟩, ⟨6, 10, .ro, 0, 0, 0x3FF⟩, ⟨16, 20, .ro, 0, 0, 0xFFFFF⟩, ⟨36, 16, .ro, 0, 0, 0xFFFF⟩, ⟨52, 1, .w1c, 0, 0, 1⟩]⟩
  , ⟨0x18, 0, 1, [⟨0, 40, .ro, 0, 0, 0xFFFFFFFFFF⟩]⟩
  , ⟨0x20, 0, 1, [⟨0, 10, .ro, 0, 0, 0x3FF⟩, ⟨10, 4, .ro, 0, 0, 0xF⟩, ⟨14, 2, .ro, 0, 0, 3⟩, ⟨16, 1, .w1c, 0, 0, 1⟩]⟩
  , ⟨0x28, 0, 1, [⟨0, 14, .ro, 0, 0, 0x3FFF⟩, ⟨14, 6, .ro, 0, 0, 0x3F⟩, ⟨20, 1, .w1c, 0, 0, 1⟩]⟩
  , ⟨0x40, 0, 1, [⟨0, 64, .ro, 0, 0, 0xFFFFFFFFFFFFFFFF⟩]⟩
  , ⟨0x48, 0, 1, [⟨0, 64, .ro, 0, 0, 0xFFFFFFFFFFFFFFFF⟩]⟩
  , ⟨0x50, 0, 1, [⟨0, 64, .ro, 0, 0, 0xFFFFFFFFFFFFFFFF⟩]⟩
  , ⟨0x58, 0, 1, [⟨0, 64, .ro, 0, 0, 0xFFFFFFFFFFFFFFFF⟩]⟩
  , ⟨0x60, 0, 1, [⟨0, 64, .ro, 0, 0, 0xFFFFFFFFFFFFFFFF⟩]⟩
  , ⟨0x68, 0, 1, [⟨0, 64, .ro, 0, 0, 0xFFFFFFFFFFFFFFFF⟩]⟩
  , ⟨0x70, 0, 1, [⟨0, 64, .ro, 0, 0, 0xFFFFFFFFFFFFFFFF⟩]⟩
  , ⟨0x78, 0, 1, [⟨0, 64, .ro, 0, 0, 0xFFFFFFFFFFFFFFFF⟩]⟩
  , ⟨0x80, 0, 1, [⟨0, 64, .ro, 0, 0, 0xFFFFFFFFFFFFFFFF⟩]⟩
  , ⟨0x100, 8, 16, [⟨0, 64, .ro, 0, 0, 0xFFFFFFFFFFFFFFFF⟩]⟩
  , ⟨0x180, 8, 16, [⟨0, 64, .w1c, 0, 0, 0xFFFFFFFFFFFFFFFF⟩]⟩
  , ⟨0x200, 8, 16, [⟨0, 64, .w1c, 0, 0, 0xFFFFFFFFFFFFFFFF⟩]⟩
  , ⟨0x280, 8, 16, [⟨0, 64, .rw, 0, 0, 0xFFFFFFFFFFFFFFFF⟩]⟩
  , ⟨0x400, 8, 256, [⟨0, 16, .rw, 0xFFFF, 0, 0xFFFF⟩, ⟨16, 16, .rw, 0xFFFF, 0, 0xFFFF⟩, ⟨32, 16, .rw, 0xFFFF, 0, 0xFFFF⟩, ⟨48, 16, .rw, 0xFFFF, 0, 0xFFFF⟩]⟩
  , ⟨0xF00, 0, 1, [⟨0, 11, .ro, 0x400, 0, 0x7FF⟩, ⟨16, 13, .ro, 0x1000, 0, 0x1FFF⟩]⟩ ]

/-- The registers of sub-block SCB. -/
def Blk.scbRows : List RegRow :=
  [ ⟨0, 0, 1, [⟨0, 1, .ro, 0, 0, 1⟩, ⟨1, 1, .rw, 1, 0, 1⟩, ⟨32, 32, .rw, 0, 0, 0xFFFFFFFF⟩]⟩
  , ⟨8, 0, 1, [⟨0, 36, .rw, 0, 0, 0xFFFFFFFFF⟩, ⟨36, 11, .rw, 0, 0, 0x400⟩]⟩
  , ⟨0x10, 0, 1, [⟨0, 36, .wo, 0, 0, 0xFFFFFFFFF⟩, ⟨36, 2, .wo, 0, 0, 3⟩]⟩
  , ⟨0x18, 0, 1, [⟨0, 1, .ro, 0, 0, 1⟩, ⟨1, 1, .ro, 0, 0, 1⟩, ⟨2, 1, .ro, 0, 0, 1⟩, ⟨3, 1, .ro, 0, 0, 1⟩, ⟨4, 10, .ro, 0, 0, 0x3FF⟩, ⟨14, 11, .ro, 0, 0, 0x7FF⟩, ⟨25, 1, .ro, 0, 0, 1⟩]⟩
  , ⟨0x20, 0, 1, [⟨0, 1, .w1c, 0, 0, 1⟩, ⟨1, 1, .w1c, 0, 0, 1⟩, ⟨2, 1, .w1c, 0, 0, 1⟩, ⟨3, 1, .w1c, 0, 0, 1⟩, ⟨4, 1, .w1c, 0, 0, 1⟩, ⟨5, 1, .w1c, 0, 0, 1⟩, ⟨6, 1, .w1c, 0, 0, 1⟩, ⟨7, 1, .w1c, 0, 0, 1⟩, ⟨8, 1, .w1c, 0, 0, 1⟩]⟩
  , ⟨0x28, 0, 1, [⟨0, 8, .ro, 0, 0, 0xFF⟩, ⟨8, 1, .ro, 0, 0, 1⟩, ⟨9, 1, .ro, 0, 0, 1⟩, ⟨32, 32, .ro, 0, 0, 0xFFFFFFFF⟩]⟩
  , ⟨0x30, 0, 1, [⟨0, 32, .ro, 0, 0, 0xFFFFFFFF⟩, ⟨32, 32, .ro, 0, 0, 0xFFFFFFFF⟩]⟩
  , ⟨0x38, 0, 1, [⟨0, 10, .ro, 0, 0, 0x3FF⟩, ⟨10, 4, .ro, 0, 0, 0xF⟩, ⟨14, 1, .w1c, 0, 0, 1⟩]⟩
  , ⟨0x40, 0, 1, [⟨0, 40, .rw, 0xBEBC20, 0x61A8, 0x59682F00⟩]⟩
  , ⟨0x100, 0, 1, [⟨0, 64, .ro, 0, 0, 0xFFFFFFFFFFFFFFFF⟩]⟩
  , ⟨0x108, 0, 1, [⟨0, 64, .ro, 0, 0, 0xFFFFFFFFFFFFFFFF⟩]⟩
  , ⟨0x110, 0, 1, [⟨0, 64, .ro, 0, 0, 0xFFFFFFFFFFFFFFFF⟩]⟩
  , ⟨0x118, 0, 1, [⟨0, 64, .ro, 0, 0, 0xFFFFFFFFFFFFFFFF⟩]⟩
  , ⟨0x120, 0, 1, [⟨0, 64, .ro, 0, 0, 0xFFFFFFFFFFFFFFFF⟩]⟩
  , ⟨0x128, 0, 1, [⟨0, 64, .ro, 0, 0, 0xFFFFFFFFFFFFFFFF⟩]⟩
  , ⟨0x130, 0, 1, [⟨0, 64, .ro, 0, 0, 0xFFFFFFFFFFFFFFFF⟩]⟩
  , ⟨0x138, 0, 1, [⟨0, 64, .ro, 0, 0, 0xFFFFFFFFFFFFFFFF⟩]⟩
  , ⟨0x140, 0, 1, [⟨0, 64, .ro, 0, 0, 0xFFFFFFFFFFFFFFFF⟩]⟩
  , ⟨0x800, 0, 1, [⟨0, 9, .ro, 0x100, 0, 0x1FF⟩, ⟨9, 12, .ro, 0x5DC, 0, 0xFFF⟩, ⟨21, 11, .ro, 0x400, 0, 0x7FF⟩, ⟨32, 13, .ro, 0x1000, 0, 0x1FFF⟩, ⟨45, 2, .ro, 3, 0, 3⟩]⟩ ]

/-- The registers of sub-block HBM. -/
def Blk.hbmRows : List RegRow :=
  [ ⟨0, 0, 1, [⟨0, 16, .rw, 0x1000, 0x40, 0xFFFF⟩]⟩
  , ⟨8, 0, 1, [⟨0, 1, .ro, 0, 0, 1⟩, ⟨1, 1, .ro, 0, 0, 1⟩, ⟨2, 7, .ro, 0, 0, 0x7F⟩]⟩
  , ⟨0x10, 0, 1, [⟨0, 64, .ro, 0, 0, 0xFFFFFFFFFFFFFFFF⟩]⟩
  , ⟨0x18, 0, 1, [⟨0, 64, .ro, 0, 0, 0xFFFFFFFFFFFFFFFF⟩]⟩
  , ⟨0x100, 0, 1, [⟨0, 64, .ro, 0, 0, 0xFFFFFFFFFFFFFFFF⟩]⟩
  , ⟨0x108, 0, 1, [⟨0, 64, .ro, 0, 0, 0xFFFFFFFFFFFFFFFF⟩]⟩
  , ⟨0x110, 0, 1, [⟨0, 64, .ro, 0, 0, 0xFFFFFFFFFFFFFFFF⟩]⟩
  , ⟨0x118, 0, 1, [⟨0, 64, .ro, 0, 0, 0xFFFFFFFFFFFFFFFF⟩]⟩
  , ⟨0x120, 0, 1, [⟨0, 64, .ro, 0, 0, 0xFFFFFFFFFFFFFFFF⟩]⟩
  , ⟨0x128, 0, 1, [⟨0, 64, .ro, 0, 0, 0xFFFFFFFFFFFFFFFF⟩]⟩
  , ⟨0x130, 0, 1, [⟨0, 64, .ro, 0, 0, 0xFFFFFFFFFFFFFFFF⟩]⟩
  , ⟨0x138, 0, 1, [⟨0, 64, .ro, 0, 0, 0xFFFFFFFFFFFFFFFF⟩]⟩
  , ⟨0x140, 0, 1, [⟨0, 64, .ro, 0, 0, 0xFFFFFFFFFFFFFFFF⟩]⟩
  , ⟨0x148, 0, 1, [⟨0, 64, .ro, 0, 0, 0xFFFFFFFFFFFFFFFF⟩]⟩
  , ⟨0x800, 0, 1, [⟨0, 8, .ro, 0x40, 0, 0xFF⟩, ⟨8, 6, .ro, 0x20, 0, 0x3F⟩, ⟨14, 4, .ro, 4, 0, 0xF⟩, ⟨18, 5, .ro, 0x10, 0, 0x1F⟩, ⟨23, 7, .ro, 0x40, 0, 0x7F⟩]⟩
  , ⟨0x20, 0, 1, [⟨0, 6, .ro, 0, 0, 0x3F⟩, ⟨6, 1, .ro, 0, 0, 1⟩, ⟨7, 6, .ro, 0x3E, 0, 0x3F⟩]⟩
  , ⟨0x28, 0, 1, [⟨0, 16, .ro, 0, 0, 0xFFFF⟩, ⟨16, 16, .ro, 0, 0, 0xFFFF⟩]⟩ ]

def Blk.rows : Blk → List RegRow
  | .bh => Blk.bhRows
  | .id => Blk.idRows
  | .err => Blk.errRows
  | .inj => Blk.injRows
  | .pwr => Blk.pwrRows
  | .ten => Blk.tenRows
  | .eth => Blk.ethRows
  | .fab => Blk.fabRows
  | .ctx => Blk.ctxRows
  | .col => Blk.colRows
  | .mnt => Blk.mntRows
  | .snp => Blk.snpRows
  | .tel => Blk.telRows
  | .str => Blk.strRows
  | .clk => Blk.clkRows
  | .pwrd => Blk.pwrdRows
  | .cox => Blk.coxRows
  | .prm => Blk.prmRows
  | .ae => Blk.aeRows
  | .eng => Blk.engRows
  | .cvu => Blk.cvuRows
  | .flg => Blk.flgRows
  | .scb => Blk.scbRows
  | .hbm => Blk.hbmRows

namespace R

def ENG_CTL (p n : Nat) : Nat := Blk.base .eng p + 0 + 0x400 * n
def ENG_STAT (p n : Nat) : Nat := Blk.base .eng p + 8 + 0x400 * n
def ENG_TILE_STAT (p n : Nat) : Nat := Blk.base .eng p + 0x10 + 0x400 * n
def ENG_CNT_PRODUCT (p n : Nat) : Nat := Blk.base .eng p + 0x40 + 0x400 * n
def ENG_CNT_GATED (p n : Nat) : Nat := Blk.base .eng p + 0x48 + 0x400 * n
def ENG_CNT_CATCH (p n : Nat) : Nat := Blk.base .eng p + 0x50 + 0x400 * n
def ENG_CNT_DRAIN_ROWS (p n : Nat) : Nat := Blk.base .eng p + 0x58 + 0x400 * n
def ENG_CNT_LOAD_ROWS (p n : Nat) : Nat := Blk.base .eng p + 0x60 + 0x400 * n
def ENG_CNT_ROWOP_ROWS (p n : Nat) : Nat := Blk.base .eng p + 0x68 + 0x400 * n
def ENG_CNT_SAT (p n : Nat) : Nat := Blk.base .eng p + 0x70 + 0x400 * n
def ENG_CNT_SLIDE (p n : Nat) : Nat := Blk.base .eng p + 0x78 + 0x400 * n
def ENG_CAP (p : Nat) : Nat := Blk.base .eng p + 0xC00
def CVU_STAT (p : Nat) : Nat := Blk.base .cvu p + 8
def CVU_EXC (p : Nat) : Nat := Blk.base .cvu p + 0x10
def CVU_CNT_LANE_OPS (p : Nat) : Nat := Blk.base .cvu p + 0x40
def CVU_CNT_TRANS (p : Nat) : Nat := Blk.base .cvu p + 0x48
def CVU_CNT_BUSY (p : Nat) : Nat := Blk.base .cvu p + 0x50
def CVU_CAP (p : Nat) : Nat := Blk.base .cvu p + 0x100
def ENG_COMPAT (p : Nat) : Nat := Blk.base .eng p + 0xC08
def AE_CTL (p : Nat) : Nat := Blk.base .ae p + 0
def AE_STAT (p : Nat) : Nat := Blk.base .ae p + 8
def AE_EVENT (p : Nat) : Nat := Blk.base .ae p + 0x10
def AE_REG (p : Nat) : Nat := Blk.base .ae p + 0x18
def AE_TCACHE (p : Nat) : Nat := Blk.base .ae p + 0x20
def AE_TQ_CFG (p n : Nat) : Nat := Blk.base .ae p + 0x40 + 8 * n
def AE_TQ_STAT (p n : Nat) : Nat := Blk.base .ae p + 0x80 + 8 * n
def AE_CNT_FETCH_TILES (p : Nat) : Nat := Blk.base .ae p + 0x100
def AE_CNT_PUT_TILES (p : Nat) : Nat := Blk.base .ae p + 0x108
def AE_CNT_GATHER_ROWS (p : Nat) : Nat := Blk.base .ae p + 0x110
def AE_CNT_RELAY_TILES (p : Nat) : Nat := Blk.base .ae p + 0x118
def AE_CNT_MERGED (p : Nat) : Nat := Blk.base .ae p + 0x120
def AE_CNT_QUOTA_STALL (p : Nat) : Nat := Blk.base .ae p + 0x128
def AE_CNT_BANKQ_BP (p : Nat) : Nat := Blk.base .ae p + 0x130
def AE_CNT_REG_STALL (p : Nat) : Nat := Blk.base .ae p + 0x138
def AE_CNT_RELAY_STALL (p : Nat) : Nat := Blk.base .ae p + 0x140
def AE_CNT_BANK_CONFLICT (p : Nat) : Nat := Blk.base .ae p + 0x148
def AE_PF_ISSUED (p : Nat) : Nat := Blk.base .ae p + 0x150
def AE_PF_USED (p : Nat) : Nat := Blk.base .ae p + 0x158
def AE_PF_EVICTED_UNUSED (p : Nat) : Nat := Blk.base .ae p + 0x160
def AE_PF_LATE (p : Nat) : Nat := Blk.base .ae p + 0x168
def AE_CNT_ZP_HIT (p : Nat) : Nat := Blk.base .ae p + 0x170
def AE_CNT_ZP_MISS (p : Nat) : Nat := Blk.base .ae p + 0x178
def AE_CNT_ZP_LATE (p : Nat) : Nat := Blk.base .ae p + 0x180
def AE_CNT_TC_HIT (p : Nat) : Nat := Blk.base .ae p + 0x188
def AE_CNT_TC_MISS (p : Nat) : Nat := Blk.base .ae p + 0x190
def AE_PF_LEAD (p n : Nat) : Nat := Blk.base .ae p + 0x200 + 8 * n
def AE_CAP (p : Nat) : Nat := Blk.base .ae p + 0x400
def HBM_CTL (s : Nat) : Nat := Blk.base .hbm s + 0
def HBM_STAT (s : Nat) : Nat := Blk.base .hbm s + 8
def HBM_NI_MASK (s : Nat) : Nat := Blk.base .hbm s + 0x10
def HBM_PC_FENCE (s : Nat) : Nat := Blk.base .hbm s + 0x18
def HBM_CNT_RD_TILES (s : Nat) : Nat := Blk.base .hbm s + 0x100
def HBM_CNT_WR_TILES (s : Nat) : Nat := Blk.base .hbm s + 0x108
def HBM_CNT_PART (s : Nat) : Nat := Blk.base .hbm s + 0x110
def HBM_CNT_ROW_ACT (s : Nat) : Nat := Blk.base .hbm s + 0x118
def HBM_CNT_ROW_HIT (s : Nat) : Nat := Blk.base .hbm s + 0x120
def HBM_CNT_BANKQ_FULL (s : Nat) : Nat := Blk.base .hbm s + 0x128
def HBM_CNT_DEADLINE_MISS (s : Nat) : Nat := Blk.base .hbm s + 0x130
def HBM_CNT_AGED (s : Nat) : Nat := Blk.base .hbm s + 0x138
def HBM_CNT_PROBE (s : Nat) : Nat := Blk.base .hbm s + 0x140
def HBM_CNT_PROBE_ZERO (s : Nat) : Nat := Blk.base .hbm s + 0x148
def HBM_CAP (s : Nat) : Nat := Blk.base .hbm s + 0x800
def COX_CTL (p : Nat) : Nat := Blk.base .cox p + 0
def COX_STAT (p : Nat) : Nat := Blk.base .cox p + 8
def COX_EVENT (p : Nat) : Nat := Blk.base .cox p + 0x10
def COX_SELF (p : Nat) : Nat := Blk.base .cox p + 0x18
def COX_HEAT_POST (p : Nat) : Nat := Blk.base .cox p + 0x20
def COX_GATE (p : Nat) : Nat := Blk.base .cox p + 0x28
def COX_PATCH (p : Nat) : Nat := Blk.base .cox p + 0x30
def COX_REPLAY (p : Nat) : Nat := Blk.base .cox p + 0x38
def COX_IRQ_EN (p : Nat) : Nat := Blk.base .cox p + 0x40
def COX_IRQ_STAT (p : Nat) : Nat := Blk.base .cox p + 0x48
def COX_TRAP (p : Nat) : Nat := Blk.base .cox p + 0x50
def COX_RULING_REC0 (p : Nat) : Nat := Blk.base .cox p + 0x100
def COX_RULING_REC1 (p : Nat) : Nat := Blk.base .cox p + 0x108
def COX_RULING_REC2 (p : Nat) : Nat := Blk.base .cox p + 0x110
def COX_RULING_COUNT (p : Nat) : Nat := Blk.base .cox p + 0x118
def COX_CNT_INSTR (p : Nat) : Nat := Blk.base .cox p + 0x140
def COX_CNT_PATCH (p : Nat) : Nat := Blk.base .cox p + 0x148
def COX_CNT_REPLAY (p : Nat) : Nat := Blk.base .cox p + 0x150
def COX_CAP (p : Nat) : Nat := Blk.base .cox p + 0x400
def PRM (p n : Nat) : Nat := Blk.base .prm p + 0 + 8 * n
def STR_CTL (d : Nat) : Nat := Blk.base .str d + 0
def STR_STAT (d : Nat) : Nat := Blk.base .str d + 8
def STR_EVENT (d : Nat) : Nat := Blk.base .str d + 0x10
def STR_GRANT (d : Nat) : Nat := Blk.base .str d + 0x18
def STR_LAST (d : Nat) : Nat := Blk.base .str d + 0x20
def STR_LAST_ENERGY (d : Nat) : Nat := Blk.base .str d + 0x28
def STR_FORECAST (d : Nat) : Nat := Blk.base .str d + 0x30
def STR_CNT_STARTS (d : Nat) : Nat := Blk.base .str d + 0x40
def STR_CNT_VAR (d n : Nat) : Nat := Blk.base .str d + 0x48 + 8 * n
def STR_CNT_FALLBACK (d : Nat) : Nat := Blk.base .str d + 0x68
def STR_CNT_GRANT_WAIT_US (d : Nat) : Nat := Blk.base .str d + 0x70
def STR_CNT_PIN_THROTTLE (d : Nat) : Nat := Blk.base .str d + 0x78
def STR_CNT_WAKE_WAIT_NS (d : Nat) : Nat := Blk.base .str d + 0x80
def STR_READY (d n : Nat) : Nat := Blk.base .str d + 0x100 + 8 * n
def CLK_CTL (d : Nat) : Nat := Blk.base .clk d + 0
def CLK_STAT (d : Nat) : Nat := Blk.base .clk d + 8
def CLK_EVENT (d : Nat) : Nat := Blk.base .clk d + 0x10
def CLK_CNT_STRETCH_PS (d : Nat) : Nat := Blk.base .clk d + 0x40
def CLK_CNT_DROOP (d : Nat) : Nat := Blk.base .clk d + 0x48
def CLK_CNT_PLL_STOPS (d : Nat) : Nat := Blk.base .clk d + 0x50
def CLK_CNT_RELOCK_NS (d : Nat) : Nat := Blk.base .clk d + 0x58
def CLK_CNT_OPP_US (d n : Nat) : Nat := Blk.base .clk d + 0x80 + 8 * n
def CLK_OPP (d n : Nat) : Nat := Blk.base .clk d + 0x100 + 8 * n
def PWR_DIE_CFG (d : Nat) : Nat := Blk.base .pwrd d + 0
def PWR_DIE_STAT (d : Nat) : Nat := Blk.base .pwrd d + 8
def PWR_DIE_EVENT (d : Nat) : Nat := Blk.base .pwrd d + 0x10
def PWR_CORE_TEMP (d n : Nat) : Nat := Blk.base .pwrd d + 0x100 + 8 * n
def PWR_COEF (d n : Nat) : Nat := Blk.base .pwrd d + 0x200 + 8 * n
def PWR_CAP : Nat := Blk.base .pwr 0 + 0
def PWR_POLICY : Nat := Blk.base .pwr 0 + 8
def PWR_STAT : Nat := Blk.base .pwr 0 + 0x10
def PWR_RESERVE : Nat := Blk.base .pwr 0 + 0x18
def PWR_EVENT : Nat := Blk.base .pwr 0 + 0x20
def PWR_CAL : Nat := Blk.base .pwr 0 + 0x28
def PWR_PKG_MEAS_UJ : Nat := Blk.base .pwr 0 + 0x40
def PWR_PKG_MODEL_UJ : Nat := Blk.base .pwr 0 + 0x48
def PWR_OVERHEAD_UJ : Nat := Blk.base .pwr 0 + 0x50
def PWR_OVER_CAP_US : Nat := Blk.base .pwr 0 + 0x58
def PWR_TEN_UJ (n : Nat) : Nat := Blk.base .pwr 0 + 0x100 + 8 * n
def PWR_LCOEF (n : Nat) : Nat := Blk.base .pwr 0 + 0x200 + 8 * n
def FLG_CTL (p : Nat) : Nat := Blk.base .flg p + 0
def FLG_EVENT (p : Nat) : Nat := Blk.base .flg p + 8
def FLG_WAIT_REC0 (p : Nat) : Nat := Blk.base .flg p + 0x10
def FLG_WAIT_REC1 (p : Nat) : Nat := Blk.base .flg p + 0x18
def FLG_MISUSE_REC (p : Nat) : Nat := Blk.base .flg p + 0x20
def FLG_REG_RACE (p : Nat) : Nat := Blk.base .flg p + 0x28
def FLG_CNT_SET (p : Nat) : Nat := Blk.base .flg p + 0x40
def FLG_CNT_CLEAR (p : Nat) : Nat := Blk.base .flg p + 0x48
def FLG_CNT_CONSUME (p : Nat) : Nat := Blk.base .flg p + 0x50
def FLG_CNT_OBSERVE (p : Nat) : Nat := Blk.base .flg p + 0x58
def FLG_CNT_SIG_PENDING (p : Nat) : Nat := Blk.base .flg p + 0x60
def FLG_CNT_MISUSE (p : Nat) : Nat := Blk.base .flg p + 0x68
def FLG_CNT_CLR_RACE (p : Nat) : Nat := Blk.base .flg p + 0x70
def FLG_CNT_TIMEOUT (p : Nat) : Nat := Blk.base .flg p + 0x78
def FLG_CNT_POISON (p : Nat) : Nat := Blk.base .flg p + 0x80
def FLG_STATE (p n : Nat) : Nat := Blk.base .flg p + 0x100 + 8 * n
def FLG_CLR_RACE (p n : Nat) : Nat := Blk.base .flg p + 0x180 + 8 * n
def FLG_POISON (p n : Nat) : Nat := Blk.base .flg p + 0x200 + 8 * n
def FLG_LEVEL (p n : Nat) : Nat := Blk.base .flg p + 0x280 + 8 * n
def FLG_OWNER (p n : Nat) : Nat := Blk.base .flg p + 0x400 + 8 * n
def FLG_CAP (p : Nat) : Nat := Blk.base .flg p + 0xF00
def FAB_CTL : Nat := Blk.base .fab 0 + 0
def FAB_TOPO : Nat := Blk.base .fab 0 + 8
def FAB_UPDOWN : Nat := Blk.base .fab 0 + 0x10
def FAB_STAT : Nat := Blk.base .fab 0 + 0x18
def FAB_STREAMS : Nat := Blk.base .fab 0 + 0x28
def FAB_EVENT : Nat := Blk.base .fab 0 + 0x20
def FAB_CNT_PKT_TX : Nat := Blk.base .fab 0 + 0x40
def FAB_CNT_PKT_RX : Nat := Blk.base .fab 0 + 0x48
def FAB_CNT_BYTES_TX : Nat := Blk.base .fab 0 + 0x50
def FAB_CNT_BYTES_RX : Nat := Blk.base .fab 0 + 0x58
def FAB_CNT_RESENT : Nat := Blk.base .fab 0 + 0x60
def FAB_CNT_DUP : Nat := Blk.base .fab 0 + 0x68
def FAB_CNT_CUT_RX : Nat := Blk.base .fab 0 + 0x70
def FAB_CNT_EXPIRED : Nat := Blk.base .fab 0 + 0x78
def FAB_CNT_ESCAPED : Nat := Blk.base .fab 0 + 0x80
def FAB_CNT_EPOCH_REJ : Nat := Blk.base .fab 0 + 0x88
def FAB_CNT_TRACK_FULL : Nat := Blk.base .fab 0 + 0x90
def FAB_CNT_PRUNED : Nat := Blk.base .fab 0 + 0x98
def FAB_PORT_CTL (n : Nat) : Nat := Blk.base .fab 0 + 0x1000 + 0x100 * n
def FAB_PORT_STAT (n : Nat) : Nat := Blk.base .fab 0 + 0x1008 + 0x100 * n
def FAB_PORT_FLITS_TX (n : Nat) : Nat := Blk.base .fab 0 + 0x1040 + 0x100 * n
def FAB_PORT_FLITS_RX (n : Nat) : Nat := Blk.base .fab 0 + 0x1048 + 0x100 * n
def FAB_PORT_FEC_CORR (n : Nat) : Nat := Blk.base .fab 0 + 0x1050 + 0x100 * n
def FAB_PORT_FEC_UNCORR (n : Nat) : Nat := Blk.base .fab 0 + 0x1058 + 0x100 * n
def FAB_PORT_GROUP_RESEND (n : Nat) : Nat := Blk.base .fab 0 + 0x1060 + 0x100 * n
def FAB_PORT_CUT_MADE (n : Nat) : Nat := Blk.base .fab 0 + 0x1068 + 0x100 * n
def FAB_PORT_CREDIT_STALL_NS (n : Nat) : Nat := Blk.base .fab 0 + 0x1070 + 0x100 * n
def FAB_MC_SEL : Nat := Blk.base .fab 0 + 0x2000
def FAB_MC_ENT : Nat := Blk.base .fab 0 + 0x2008
def FAB_MC_DESC (n : Nat) : Nat := Blk.base .fab 0 + 0x2040 + 8 * n
def FAB_CAP : Nat := Blk.base .fab 0 + 0x7F00
def CTX_BACKING : Nat := Blk.base .ctx 0 + 0
def CTX_CACHE (n : Nat) : Nat := Blk.base .ctx 0 + 8 + 8 * n
def CTX_CNT_HIT (n : Nat) : Nat := Blk.base .ctx 0 + 0x40 + 0x18 * n
def CTX_CNT_MISS (n : Nat) : Nat := Blk.base .ctx 0 + 0x48 + 0x18 * n
def CTX_CNT_WRITEBACK (n : Nat) : Nat := Blk.base .ctx 0 + 0x50 + 0x18 * n
def CTX_WIN_SEL (n : Nat) : Nat := Blk.base .ctx 0 + 0x1000 + 0x100 * n
def CTX_WIN_REC (w k : Nat) : Nat := Blk.base .ctx 0 + 0x1008 + 0x100 * w + 8 * k
def COL_CTL : Nat := Blk.base .col 0 + 0
def COL_STAT : Nat := Blk.base .col 0 + 8
def COL_EVENT : Nat := Blk.base .col 0 + 0x10
def COL_MS_SEL : Nat := Blk.base .col 0 + 0x18
def COL_MS_ORIG : Nat := Blk.base .col 0 + 0x20
def COL_MS_EXT : Nat := Blk.base .col 0 + 0x28
def COL_MS_STAT : Nat := Blk.base .col 0 + 0x30
def COL_BIND : Nat := Blk.base .col 0 + 0x38
def COL_VT_SEL : Nat := Blk.base .col 0 + 0x40
def COL_VT_BASE : Nat := Blk.base .col 0 + 0x48
def COL_VT_VER : Nat := Blk.base .col 0 + 0x50
def COL_SKEW_REC0 : Nat := Blk.base .col 0 + 0x60
def COL_SKEW_REC1 : Nat := Blk.base .col 0 + 0x68
def COL_SKEW_REC2 : Nat := Blk.base .col 0 + 0x70
def COL_CNT_STARTED : Nat := Blk.base .col 0 + 0x100
def COL_CNT_DONE : Nat := Blk.base .col 0 + 0x108
def COL_CNT_FAILED : Nat := Blk.base .col 0 + 0x110
def COL_CNT_BYTES_TX : Nat := Blk.base .col 0 + 0x118
def COL_CNT_BYTES_RX : Nat := Blk.base .col 0 + 0x120
def COL_CNT_COMBINED : Nat := Blk.base .col 0 + 0x128
def COL_CNT_EPOCH : Nat := Blk.base .col 0 + 0x130
def COL_CNT_SKEW : Nat := Blk.base .col 0 + 0x138
def COL_CAP : Nat := Blk.base .col 0 + 0x7F00
def SCB_CTL (s : Nat) : Nat := Blk.base .scb s + 0
def SCB_TABLE (s : Nat) : Nat := Blk.base .scb s + 8
def SCB_PASS (s : Nat) : Nat := Blk.base .scb s + 0x10
def SCB_STAT (s : Nat) : Nat := Blk.base .scb s + 0x18
def SCB_EVENT (s : Nat) : Nat := Blk.base .scb s + 0x20
def SCB_LAST (s : Nat) : Nat := Blk.base .scb s + 0x28
def SCB_LAST_STEPS (s : Nat) : Nat := Blk.base .scb s + 0x30
def SCB_ERR_REC (s : Nat) : Nat := Blk.base .scb s + 0x38
def SCB_REL_WD (s : Nat) : Nat := Blk.base .scb s + 0x40
def SCB_CNT_PASS1 (s : Nat) : Nat := Blk.base .scb s + 0x100
def SCB_CNT_PASS2 (s : Nat) : Nat := Blk.base .scb s + 0x108
def SCB_CNT_ELEM (s : Nat) : Nat := Blk.base .scb s + 0x110
def SCB_CNT_ROWS (s : Nat) : Nat := Blk.base .scb s + 0x118
def SCB_CNT_BYTES_RD (s : Nat) : Nat := Blk.base .scb s + 0x120
def SCB_CNT_BYTES_WR (s : Nat) : Nat := Blk.base .scb s + 0x128
def SCB_CNT_VECOPS (s : Nat) : Nat := Blk.base .scb s + 0x130
def SCB_CNT_REL_WAIT_NS (s : Nat) : Nat := Blk.base .scb s + 0x138
def SCB_CNT_SKEW (s : Nat) : Nat := Blk.base .scb s + 0x140
def SCB_CAP (s : Nat) : Nat := Blk.base .scb s + 0x800
def MNT_CTL : Nat := Blk.base .mnt 0 + 0
def MNT_REQ : Nat := Blk.base .mnt 0 + 8
def MNT_STAT : Nat := Blk.base .mnt 0 + 0x10
def MNT_EVENT : Nat := Blk.base .mnt 0 + 0x18
def MNT_FENCE_CORE (n : Nat) : Nat := Blk.base .mnt 0 + 0x100 + 8 * n
def MNT_FENCE_UNIT : Nat := Blk.base .mnt 0 + 0x120
def MNT_FENCE_STACK : Nat := Blk.base .mnt 0 + 0x128
def MNT_FENCE_SUBLINK : Nat := Blk.base .mnt 0 + 0x130
def MNT_FENCE_REQ : Nat := Blk.base .mnt 0 + 0x140
def HBM_PC_REDIR (s : Nat) : Nat := Blk.base .hbm s + 0x20
def HBM_SOFT_REPAIRS (s : Nat) : Nat := Blk.base .hbm s + 0x28
def SNP_CTL : Nat := Blk.base .snp 0 + 0
def SNP_DRAIN : Nat := Blk.base .snp 0 + 8
def SNP_CMD : Nat := Blk.base .snp 0 + 0x10
def SNP_EVENT : Nat := Blk.base .snp 0 + 0x18
def SNP_T_STAT (n : Nat) : Nat := Blk.base .snp 0 + 0x100 + 0x40 * n
def SNP_T_GEN (n : Nat) : Nat := Blk.base .snp 0 + 0x108 + 0x40 * n
def SNP_T_GEN2 (n : Nat) : Nat := Blk.base .snp 0 + 0x110 + 0x40 * n
def SNP_T_STOP (n : Nat) : Nat := Blk.base .snp 0 + 0x118 + 0x40 * n
def SNP_T_MANIFEST (n : Nat) : Nat := Blk.base .snp 0 + 0x120 + 0x40 * n
def SNP_T_MISMATCH (n : Nat) : Nat := Blk.base .snp 0 + 0x128 + 0x40 * n
def SNP_CNT_TAKEN : Nat := Blk.base .snp 0 + 0x400
def SNP_CNT_FAILED : Nat := Blk.base .snp 0 + 0x408
def SNP_CNT_RESTORES : Nat := Blk.base .snp 0 + 0x410
def SNP_CNT_DRAIN_BYTES : Nat := Blk.base .snp 0 + 0x418
def SNP_CNT_SHIPPED : Nat := Blk.base .snp 0 + 0x420
def TEN_EVENT : Nat := Blk.base .ten 0 + 8
def TEN_T_CFG (n : Nat) : Nat := Blk.base .ten 0 + 0x100 + 0x40 * n
def TEN_T_CTX (n : Nat) : Nat := Blk.base .ten 0 + 0x108 + 0x40 * n
def TEN_T_MBOX (n : Nat) : Nat := Blk.base .ten 0 + 0x110 + 0x40 * n
def TEN_T_DOORBELL (n : Nat) : Nat := Blk.base .ten 0 + 0x118 + 0x40 * n
def TEN_T_JOB_END (n : Nat) : Nat := Blk.base .ten 0 + 0x120 + 0x40 * n
def TEN_T_STAT (n : Nat) : Nat := Blk.base .ten 0 + 0x128 + 0x40 * n
def TEN_CNT_DENIED (n : Nat) : Nat := Blk.base .ten 0 + 0x800 + 8 * n
def TEN_WIN_SEL : Nat := Blk.base .ten 0 + 0x1000
def TEN_WIN_ENT0 : Nat := Blk.base .ten 0 + 0x1008
def TEN_WIN_ENT1 : Nat := Blk.base .ten 0 + 0x1010
def ETH_P_CTL (n : Nat) : Nat := Blk.base .eth 0 + 0 + 0x100 * n
def ETH_P_STAT (n : Nat) : Nat := Blk.base .eth 0 + 8 + 0x100 * n
def ETH_P_EVENT (n : Nat) : Nat := Blk.base .eth 0 + 0x10 + 0x100 * n
def ETH_CNT_FRAMES_RX (n : Nat) : Nat := Blk.base .eth 0 + 0x40 + 0x100 * n
def ETH_CNT_FRAMES_TX (n : Nat) : Nat := Blk.base .eth 0 + 0x48 + 0x100 * n
def ETH_CNT_FCS_ERR (n : Nat) : Nat := Blk.base .eth 0 + 0x50 + 0x100 * n
def ETH_CNT_PFC_RX (n : Nat) : Nat := Blk.base .eth 0 + 0x58 + 0x100 * n
def ETH_CNT_CNP_TX (n : Nat) : Nat := Blk.base .eth 0 + 0x60 + 0x100 * n
def ETH_CNT_CNP_RX (n : Nat) : Nat := Blk.base .eth 0 + 0x68 + 0x100 * n
def ETH_CNT_NAK (n : Nat) : Nat := Blk.base .eth 0 + 0x70 + 0x100 * n
def ETH_QP_SEL : Nat := Blk.base .eth 0 + 0x1000
def ETH_QP_ENT : Nat := Blk.base .eth 0 + 0x1008
def BH_STAT : Nat := Blk.base .bh 0 + 0
def BH_LOCK : Nat := Blk.base .bh 0 + 8
def BH_CMD : Nat := Blk.base .bh 0 + 0x10
def BH_CMD_STAT : Nat := Blk.base .bh 0 + 0x18
def BH_CB_SERIAL : Nat := Blk.base .bh 0 + 0x20
def BH_CB_CHECK : Nat := Blk.base .bh 0 + 0x28
def BH_CB_DIGEST (n : Nat) : Nat := Blk.base .bh 0 + 0x40 + 8 * n
def BH_PAL_SEQ : Nat := Blk.base .bh 0 + 0x80
def BH_PAL_MSEQ : Nat := Blk.base .bh 0 + 0x88
def BH_PAL_MSTAT : Nat := Blk.base .bh 0 + 0x90
def BH_EVENT : Nat := Blk.base .bh 0 + 0xA0
def BH_BOOT : Nat := Blk.base .bh 0 + 0xA8
def BH_FW (n : Nat) : Nat := Blk.base .bh 0 + 0xC0 + 8 * n
def BH_FW_SLOT : Nat := Blk.base .bh 0 + 0xD8
def BH_OWNER : Nat := Blk.base .bh 0 + 0xE0
def BH_MEAS_SEL : Nat := Blk.base .bh 0 + 0x100
def BH_MEAS_DATA (n : Nat) : Nat := Blk.base .bh 0 + 0x108 + 8 * n
def ID_STAT : Nat := Blk.base .id 0 + 0
def ID_PKG_SERIAL (n : Nat) : Nat := Blk.base .id 0 + 8 + 8 * n
def ID_PKG_DATE : Nat := Blk.base .id 0 + 0x18
def ID_DIE_REC0 (n : Nat) : Nat := Blk.base .id 0 + 0x100 + 0x10 * n
def ID_DIE_REC1 (n : Nat) : Nat := Blk.base .id 0 + 0x108 + 0x10 * n
def ERR_EVENT : Nat := Blk.base .err 0 + 8
def ERR_RING_SEL : Nat := Blk.base .err 0 + 0x10
def ERR_RING_WSEQ (n : Nat) : Nat := Blk.base .err 0 + 0x100 + 0x10 * n
def ERR_RING_ACK (n : Nat) : Nat := Blk.base .err 0 + 0x108 + 0x10 * n
def ERR_THR_SEL : Nat := Blk.base .err 0 + 0x200
def ERR_THR_ENT : Nat := Blk.base .err 0 + 0x208
def ERR_CNT (n : Nat) : Nat := Blk.base .err 0 + 0x400 + 8 * n
def ERR_CAP : Nat := Blk.base .err 0 + 0x800
def INJ_CTL : Nat := Blk.base .inj 0 + 0
def INJ_STAT : Nat := Blk.base .inj 0 + 8
def INJ_CNT_FIRED : Nat := Blk.base .inj 0 + 0x40
def INJ_P_CTL (n : Nat) : Nat := Blk.base .inj 0 + 0x1000 + 0x20 * n
def INJ_P_TGT (n : Nat) : Nat := Blk.base .inj 0 + 0x1008 + 0x20 * n
def INJ_P_ADDR (n : Nat) : Nat := Blk.base .inj 0 + 0x1010 + 0x20 * n
def INJ_P_PERIOD (n : Nat) : Nat := Blk.base .inj 0 + 0x1018 + 0x20 * n
def TEL_CTL : Nat := Blk.base .tel 0 + 0
def TEL_CAP_TRIG : Nat := Blk.base .tel 0 + 8
def TEL_CAP_DEST : Nat := Blk.base .tel 0 + 0x10
def TEL_CAP_CFG : Nat := Blk.base .tel 0 + 0x18
def TEL_CAP_STAT : Nat := Blk.base .tel 0 + 0x20
def TEL_CAP_SEQ : Nat := Blk.base .tel 0 + 0x28
def TEL_AO_TIME : Nat := Blk.base .tel 0 + 0x30
def TEL_RESETS (n : Nat) : Nat := Blk.base .tel 0 + 0x40 + 8 * n
def PWR_DIE_MODEL_UJ (d : Nat) : Nat := Blk.base .pwrd d + 0x40
def PWR_DIE_MEAS_UJ (d : Nat) : Nat := Blk.base .pwrd d + 0x48
def MNT_CNT_RUN (n : Nat) : Nat := Blk.base .mnt 0 + 0x200 + 8 * n
def MNT_CNT_DEFER (n : Nat) : Nat := Blk.base .mnt 0 + 0x240 + 8 * n
def TEL_CNT_CAPTURES : Nat := Blk.base .tel 0 + 0x100
def TEL_CNT_MISSED : Nat := Blk.base .tel 0 + 0x108
def BH_STAGE (n : Nat) : Nat := Blk.base .bh 0 + 0x80000 + 8 * n

end R

namespace F

abbrev ENG_CTL_ZGATE_EN : Nat × Nat := (0, 1)
abbrev ENG_STAT_ACTIVE_SET : Nat × Nat := (0, 1)
abbrev ENG_STAT_OUTER_BUSY : Nat × Nat := (1, 1)
abbrev ENG_STAT_DRAIN_BUSY : Nat × Nat := (2, 1)
abbrev ENG_STAT_LOAD_BUSY : Nat × Nat := (3, 1)
abbrev ENG_STAT_ROW_BUSY : Nat × Nat := (4, 1)
abbrev ENG_STAT_SLIDE_ACTIVE : Nat × Nat := (5, 1)
abbrev ENG_STAT_SET0_INT : Nat × Nat := (6, 1)
abbrev ENG_STAT_SET1_INT : Nat × Nat := (7, 1)
abbrev ENG_STAT_FEED_COUNT : Nat × Nat := (8, 7)
abbrev ENG_TILE_STAT_SAT0 : Nat × Nat := (0, 1)
abbrev ENG_TILE_STAT_SAT1 : Nat × Nat := (1, 1)
abbrev ENG_CAP_DIM : Nat × Nat := (0, 8)
abbrev ENG_CAP_LAT : Nat × Nat := (8, 4)
abbrev ENG_CAP_LAT_FP32 : Nat × Nat := (12, 4)
abbrev ENG_CAP_FMT_MASK : Nat × Nat := (16, 11)
abbrev ENG_CAP_CATCH_LAT : Nat × Nat := (32, 4)
abbrev CVU_STAT_BUSY : Nat × Nat := (0, 1)
abbrev CVU_STAT_TRANS_BUSY : Nat × Nat := (1, 1)
abbrev CVU_EXC_INVALID : Nat × Nat := (0, 1)
abbrev CVU_EXC_OVERFLOW : Nat × Nat := (1, 1)
abbrev CVU_EXC_DIVZERO : Nat × Nat := (2, 1)
abbrev CVU_EXC_UNDERFLOW : Nat × Nat := (3, 1)
abbrev CVU_CAP_LANES : Nat × Nat := (0, 16)
abbrev CVU_CAP_TRANS_LANES : Nat × Nat := (16, 16)
abbrev CVU_CAP_VREGS : Nat × Nat := (32, 8)
abbrev ENG_COMPAT_SR_DRAIN : Nat × Nat := (0, 1)
abbrev ENG_COMPAT_SR_ACC : Nat × Nat := (1, 1)
abbrev ENG_COMPAT_SR_SEED : Nat × Nat := (32, 32)
abbrev AE_CTL_MERGE_EN : Nat × Nat := (0, 1)
abbrev AE_CTL_ZPRED_EN : Nat × Nat := (1, 1)
abbrev AE_CTL_AGE_LIMIT : Nat × Nat := (16, 16)
abbrev AE_STAT_SLOTS_USED : Nat × Nat := (0, 6)
abbrev AE_STAT_HOLD_COUNT : Nat × Nat := (6, 7)
abbrev AE_STAT_CMD_COUNT : Nat × Nat := (13, 10)
abbrev AE_STAT_CHAIN_ACTIVE : Nat × Nat := (23, 1)
abbrev AE_EVENT_CMD_OVERFLOW : Nat × Nat := (0, 1)
abbrev AE_EVENT_BANK_CONFLICT : Nat × Nat := (1, 1)
abbrev AE_EVENT_CHAIN_OVERRUN : Nat × Nat := (2, 1)
abbrev AE_EVENT_TC_FULL : Nat × Nat := (3, 1)
abbrev AE_REG_RATE : Nat × Nat := (0, 10)
abbrev AE_REG_BURST : Nat × Nat := (10, 7)
abbrev AE_REG_LEVEL : Nat × Nat := (20, 20)
abbrev AE_TCACHE_SLOTS : Nat × Nat := (0, 11)
abbrev AE_TCACHE_VALID : Nat × Nat := (11, 11)
abbrev AE_TCACHE_PINNED : Nat × Nat := (22, 11)
abbrev AE_TQ_CFG_BASE_SLOT : Nat × Nat := (0, 10)
abbrev AE_TQ_CFG_DEPTH : Nat × Nat := (10, 7)
abbrev AE_TQ_CFG_DIR : Nat × Nat := (17, 1)
abbrev AE_TQ_CFG_RELAY : Nat × Nat := (18, 1)
abbrev AE_TQ_CFG_PRED : Nat × Nat := (19, 1)
abbrev AE_TQ_CFG_CYC_PER_TILE : Nat × Nat := (32, 16)
abbrev AE_TQ_STAT_HEAD : Nat × Nat := (0, 6)
abbrev AE_TQ_STAT_TAIL : Nat × Nat := (6, 6)
abbrev AE_TQ_STAT_RESERVED : Nat × Nat := (12, 7)
abbrev AE_TQ_STAT_OCC : Nat × Nat := (19, 7)
abbrev AE_CAP_SLOTS : Nat × Nat := (0, 6)
abbrev AE_CAP_HOLD : Nat × Nat := (6, 7)
abbrev AE_CAP_QUOTA : Nat × Nat := (13, 4)
abbrev AE_CAP_CMDS : Nat × Nat := (17, 10)
abbrev AE_CAP_TQS : Nat × Nat := (27, 4)
abbrev HBM_CTL_AGE_LIMIT : Nat × Nat := (0, 16)
abbrev HBM_STAT_TRAINED : Nat × Nat := (0, 1)
abbrev HBM_STAT_SELF_REFRESH : Nat × Nat := (1, 1)
abbrev HBM_STAT_PC_FENCED : Nat × Nat := (2, 7)
abbrev HBM_NI_MASK_NI : Nat × Nat := (0, 64)
abbrev HBM_PC_FENCE_FENCE : Nat × Nat := (0, 64)
abbrev HBM_CAP_PCS : Nat × Nat := (0, 8)
abbrev HBM_CAP_BANKS : Nat × Nat := (8, 6)
abbrev HBM_CAP_ROW_TILES : Nat × Nat := (14, 4)
abbrev HBM_CAP_QDEPTH : Nat × Nat := (18, 5)
abbrev HBM_CAP_CAP_GIB : Nat × Nat := (23, 7)
abbrev COX_CTL_RUN : Nat × Nat := (0, 1)
abbrev COX_CTL_RULE_EN : Nat × Nat := (1, 1)
abbrev COX_CTL_RULE_STOP : Nat × Nat := (2, 1)
abbrev COX_CTL_PATCH_LEAD : Nat × Nat := (16, 16)
abbrev COX_STAT_RUNNING : Nat × Nat := (0, 1)
abbrev COX_STAT_WFI : Nat × Nat := (1, 1)
abbrev COX_STAT_HALTED : Nat × Nat := (2, 1)
abbrev COX_STAT_HEAT_ACTIVE : Nat × Nat := (3, 1)
abbrev COX_STAT_IN_WINDOW : Nat × Nat := (4, 1)
abbrev COX_STAT_PATCH_COUNT : Nat × Nat := (5, 4)
abbrev COX_EVENT_RULING_HAZARD : Nat × Nat := (0, 1)
abbrev COX_EVENT_TRAP : Nat × Nat := (1, 1)
abbrev COX_EVENT_PATCH_STALL : Nat × Nat := (2, 1)
abbrev COX_SELF_NODE : Nat × Nat := (0, 18)
abbrev COX_SELF_DIE : Nat × Nat := (18, 3)
abbrev COX_SELF_CORE : Nat × Nat := (21, 5)
abbrev COX_SELF_VDIE : Nat × Nat := (26, 3)
abbrev COX_SELF_VCORE : Nat × Nat := (29, 5)
abbrev COX_SELF_MAPPED : Nat × Nat := (34, 1)
abbrev COX_HEAT_POST_HEAT_NO : Nat × Nat := (0, 16)
abbrev COX_GATE_GATE : Nat × Nat := (0, 32)
abbrev COX_PATCH_VALUE : Nat × Nat := (0, 48)
abbrev COX_PATCH_PRM : Nat × Nat := (48, 6)
abbrev COX_PATCH_ADD : Nat × Nat := (54, 1)
abbrev COX_REPLAY_REPLAY : Nat × Nat := (0, 32)
abbrev COX_REPLAY_HEAT_NO : Nat × Nat := (32, 16)
abbrev COX_REPLAY_VALID : Nat × Nat := (48, 1)
abbrev COX_IRQ_EN_REPLAY_NEAR : Nat × Nat := (0, 1)
abbrev COX_IRQ_EN_WINDOW : Nat × Nat := (1, 1)
abbrev COX_IRQ_EN_HEAT_START : Nat × Nat := (2, 1)
abbrev COX_IRQ_EN_HEAT_END : Nat × Nat := (3, 1)
abbrev COX_IRQ_EN_RULING : Nat × Nat := (4, 1)
abbrev COX_IRQ_STAT_REPLAY_NEAR : Nat × Nat := (0, 1)
abbrev COX_IRQ_STAT_WINDOW : Nat × Nat := (1, 1)
abbrev COX_IRQ_STAT_HEAT_START : Nat × Nat := (2, 1)
abbrev COX_IRQ_STAT_HEAT_END : Nat × Nat := (3, 1)
abbrev COX_IRQ_STAT_RULING : Nat × Nat := (4, 1)
abbrev COX_TRAP_PC : Nat × Nat := (0, 32)
abbrev COX_TRAP_CAUSE : Nat × Nat := (32, 5)
abbrev COX_RULING_REC0_HEAT_NO : Nat × Nat := (0, 16)
abbrev COX_RULING_REC0_UNIT : Nat × Nat := (16, 4)
abbrev COX_RULING_REC0_KIND : Nat × Nat := (20, 4)
abbrev COX_RULING_REC0_VALID : Nat × Nat := (24, 1)
abbrev COX_RULING_REC0_STOPPED : Nat × Nat := (25, 1)
abbrev COX_RULING_REC1_REPLAY : Nat × Nat := (0, 32)
abbrev COX_RULING_REC1_CYCLE : Nat × Nat := (32, 32)
abbrev COX_RULING_REC2_DETAIL : Nat × Nat := (0, 64)
abbrev COX_CAP_IMEM_KIB : Nat × Nat := (0, 8)
abbrev COX_CAP_DMEM_KIB : Nat × Nat := (8, 8)
abbrev COX_CAP_PATCH_DEPTH : Nat × Nat := (16, 4)
abbrev COX_CAP_WINDOW : Nat × Nat := (20, 4)
abbrev COX_CAP_RULE_ENTRIES : Nat × Nat := (24, 8)
abbrev COX_CAP_REF_REVS : Nat × Nat := (32, 8)
abbrev PRM_VALUE : Nat × Nat := (0, 48)
abbrev STR_CTL_HOLD : Nat × Nat := (0, 1)
abbrev STR_CTL_RETAIN_IDLE : Nat × Nat := (16, 16)
abbrev STR_STAT_RUNNING : Nat × Nat := (0, 1)
abbrev STR_STAT_VARIANT : Nat × Nat := (1, 2)
abbrev STR_STAT_HEAT_NO : Nat × Nat := (3, 16)
abbrev STR_STAT_READY : Nat × Nat := (19, 7)
abbrev STR_STAT_WAIT_GRANT : Nat × Nat := (26, 1)
abbrev STR_STAT_BLOCKED : Nat × Nat := (27, 1)
abbrev STR_STAT_PINNED : Nat × Nat := (28, 1)
abbrev STR_STAT_FORCED : Nat × Nat := (29, 1)
abbrev STR_STAT_REPLAY : Nat × Nat := (32, 32)
abbrev STR_EVENT_BAD_POST : Nat × Nat := (0, 1)
abbrev STR_EVENT_POST_STALL : Nat × Nat := (1, 1)
abbrev STR_EVENT_FALLBACK : Nat × Nat := (2, 1)
abbrev STR_EVENT_PIN_THROTTLE : Nat × Nat := (3, 1)
abbrev STR_EVENT_RULING_STOP : Nat × Nat := (4, 1)
abbrev STR_GRANT_BUCKET : Nat × Nat := (0, 32)
abbrev STR_GRANT_ALLOC : Nat × Nat := (32, 16)
abbrev STR_GRANT_KTHERM : Nat × Nat := (48, 8)
abbrev STR_LAST_HEAT_NO : Nat × Nat := (0, 16)
abbrev STR_LAST_VARIANT : Nat × Nat := (16, 2)
abbrev STR_LAST_VALID : Nat × Nat := (18, 1)
abbrev STR_LAST_STOPPED : Nat × Nat := (19, 1)
abbrev STR_LAST_REPLAYS : Nat × Nat := (32, 32)
abbrev STR_LAST_ENERGY_ENERGY : Nat × Nat := (0, 64)
abbrev STR_FORECAST_ENTRIES : Nat × Nat := (0, 4)
abbrev STR_FORECAST_CEILING : Nat × Nat := (32, 32)
abbrev STR_READY_HEAT_NO : Nat × Nat := (0, 16)
abbrev STR_READY_CLASS : Nat × Nat := (16, 2)
abbrev STR_READY_VALID : Nat × Nat := (18, 1)
abbrev STR_READY_ELIGIBLE : Nat × Nat := (19, 1)
abbrev STR_READY_POSTER : Nat × Nat := (20, 5)
abbrev STR_READY_AGE : Nat × Nat := (32, 32)
abbrev CLK_CTL_OPP_LIMIT : Nat × Nat := (0, 3)
abbrev CLK_CTL_DROOP_MV : Nat × Nat := (8, 8)
abbrev CLK_CTL_ARM_MV : Nat × Nat := (16, 8)
abbrev CLK_STAT_LOCKED : Nat × Nat := (0, 1)
abbrev CLK_STAT_STOPPED : Nat × Nat := (1, 1)
abbrev CLK_STAT_OPP_NOW : Nat × Nat := (2, 3)
abbrev CLK_STAT_OPP_TARGET : Nat × Nat := (5, 3)
abbrev CLK_STAT_SLEWING : Nat × Nat := (8, 1)
abbrev CLK_STAT_STRETCH : Nat × Nat := (9, 1)
abbrev CLK_STAT_ARMED : Nat × Nat := (10, 1)
abbrev CLK_STAT_CLSTATE : Nat × Nat := (12, 8)
abbrev CLK_EVENT_DROOP_SUSTAINED : Nat × Nat := (0, 1)
abbrev CLK_EVENT_PLL_UNLOCK : Nat × Nat := (1, 1)
abbrev CLK_OPP_FREQ_MHZ : Nat × Nat := (0, 16)
abbrev CLK_OPP_VDIE_MV : Nat × Nat := (16, 16)
abbrev CLK_OPP_MULT : Nat × Nat := (32, 7)
abbrev PWR_DIE_CFG_THR_START : Nat × Nat := (0, 8)
abbrev PWR_DIE_STAT_TMAX : Nat × Nat := (0, 8)
abbrev PWR_DIE_STAT_TMAX_CORE : Nat × Nat := (8, 5)
abbrev PWR_DIE_STAT_THROTTLE : Nat × Nat := (13, 1)
abbrev PWR_DIE_STAT_ATTR : Nat × Nat := (14, 1)
abbrev PWR_DIE_STAT_MODEL_W : Nat × Nat := (16, 16)
abbrev PWR_DIE_STAT_MEAS_W : Nat × Nat := (32, 16)
abbrev PWR_DIE_EVENT_THERMAL_THROTTLE : Nat × Nat := (0, 1)
abbrev PWR_DIE_EVENT_POWER_MODEL_DRIFT : Nat × Nat := (1, 1)
abbrev PWR_CORE_TEMP_TEMP : Nat × Nat := (0, 8)
abbrev PWR_COEF_COEF : Nat × Nat := (0, 32)
abbrev PWR_CAP_CAP_W : Nat × Nat := (0, 16)
abbrev PWR_CAP_EXC_W : Nat × Nat := (16, 16)
abbrev PWR_CAP_EXC_MS : Nat × Nat := (32, 8)
abbrev PWR_POLICY_SLOW_FACTOR : Nat × Nat := (0, 4)
abbrev PWR_POLICY_CAL_EN : Nat × Nat := (4, 1)
abbrev PWR_POLICY_RESERVE_MJ : Nat × Nat := (16, 16)
abbrev PWR_STAT_VIN_MV : Nat × Nat := (0, 16)
abbrev PWR_STAT_IIN_DA : Nat × Nat := (16, 16)
abbrev PWR_STAT_PIN_W : Nat × Nat := (32, 16)
abbrev PWR_STAT_ATTR_DIES : Nat × Nat := (48, 8)
abbrev PWR_STAT_OVER_CAP : Nat × Nat := (56, 1)
abbrev PWR_RESERVE_LEVEL : Nat × Nat := (0, 32)
abbrev PWR_RESERVE_OVER_MS : Nat × Nat := (32, 8)
abbrev PWR_EVENT_RESERVE_EMPTY : Nat × Nat := (0, 1)
abbrev PWR_EVENT_EXC_LIMIT : Nat × Nat := (1, 1)
abbrev PWR_EVENT_HARD_LIMIT : Nat × Nat := (2, 1)
abbrev PWR_EVENT_POWER_MODEL_DRIFT : Nat × Nat := (3, 1)
abbrev PWR_EVENT_VIN_RANGE : Nat × Nat := (4, 1)
abbrev PWR_CAL_CAL_COUNT : Nat × Nat := (0, 32)
abbrev PWR_CAL_ERR_PCT : Nat × Nat := (32, 8)
abbrev PWR_CAL_DRIFT_RUN : Nat × Nat := (40, 8)
abbrev PWR_LCOEF_COEF : Nat × Nat := (0, 32)
abbrev FLG_CTL_MISUSE_EN : Nat × Nat := (0, 1)
abbrev FLG_CTL_TEN : Nat × Nat := (8, 3)
abbrev FLG_CTL_TEN_VALID : Nat × Nat := (11, 1)
abbrev FLG_EVENT_WAIT_TIMEOUT : Nat × Nat := (0, 1)
abbrev FLG_EVENT_POISONED : Nat × Nat := (1, 1)
abbrev FLG_EVENT_MISUSE : Nat × Nat := (2, 1)
abbrev FLG_WAIT_REC0_KIND : Nat × Nat := (0, 4)
abbrev FLG_WAIT_REC0_STATUS : Nat × Nat := (4, 2)
abbrev FLG_WAIT_REC0_FLAG : Nat × Nat := (6, 10)
abbrev FLG_WAIT_REC0_CTX : Nat × Nat := (16, 20)
abbrev FLG_WAIT_REC0_HEAT_NO : Nat × Nat := (36, 16)
abbrev FLG_WAIT_REC0_VALID : Nat × Nat := (52, 1)
abbrev FLG_WAIT_REC1_LIMIT : Nat × Nat := (0, 40)
abbrev FLG_MISUSE_REC_FLAG : Nat × Nat := (0, 10)
abbrev FLG_MISUSE_REC_KIND : Nat × Nat := (10, 4)
abbrev FLG_MISUSE_REC_SRC : Nat × Nat := (14, 2)
abbrev FLG_MISUSE_REC_VALID : Nat × Nat := (16, 1)
abbrev FLG_REG_RACE_OFFSET : Nat × Nat := (0, 14)
abbrev FLG_REG_RACE_BIT : Nat × Nat := (14, 6)
abbrev FLG_REG_RACE_VALID : Nat × Nat := (20, 1)
abbrev FLG_STATE_STATE : Nat × Nat := (0, 64)
abbrev FLG_CLR_RACE_RACE : Nat × Nat := (0, 64)
abbrev FLG_POISON_POISON : Nat × Nat := (0, 64)
abbrev FLG_LEVEL_LEVEL : Nat × Nat := (0, 64)
abbrev FLG_OWNER_OWNER0 : Nat × Nat := (0, 16)
abbrev FLG_OWNER_OWNER1 : Nat × Nat := (16, 16)
abbrev FLG_OWNER_OWNER2 : Nat × Nat := (32, 16)
abbrev FLG_OWNER_OWNER3 : Nat × Nat := (48, 16)
abbrev FLG_CAP_FLAGS : Nat × Nat := (0, 11)
abbrev FLG_CAP_SIGTAB : Nat × Nat := (16, 13)
abbrev FAB_CTL_TAIL_US : Nat × Nat := (0, 17)
abbrev FAB_CTL_RETRY_MS : Nat × Nat := (17, 7)
abbrev FAB_CTL_RETRY_LIMIT : Nat × Nat := (24, 4)
abbrev FAB_CTL_ESC_WAIT_NS : Nat × Nat := (28, 12)
abbrev FAB_TOPO_DIMS : Nat × Nat := (0, 24)
abbrev FAB_TOPO_COORD : Nat × Nat := (24, 24)
abbrev FAB_UPDOWN_ROOT : Nat × Nat := (0, 18)
abbrev FAB_UPDOWN_RANK : Nat × Nat := (18, 18)
abbrev FAB_UPDOWN_UP_PORTS : Nat × Nat := (36, 16)
abbrev FAB_STAT_PORTS_UP : Nat × Nat := (0, 16)
abbrev FAB_STAT_PORTS_DEGRADED : Nat × Nat := (16, 16)
abbrev FAB_STAT_TX_STREAMS : Nat × Nat := (32, 19)
abbrev FAB_STREAMS_RX_STREAMS : Nat × Nat := (0, 19)
abbrev FAB_EVENT_NO_ROUTE : Nat × Nat := (0, 1)
abbrev FAB_EVENT_RETRY_EXHAUSTED : Nat × Nat := (1, 1)
abbrev FAB_EVENT_EPOCH_STALE : Nat × Nat := (2, 1)
abbrev FAB_EVENT_PORT_DEGRADED : Nat × Nat := (3, 1)
abbrev FAB_EVENT_PORT_DOWN : Nat × Nat := (4, 1)
abbrev FAB_EVENT_TRACK_FULL : Nat × Nat := (5, 1)
abbrev FAB_EVENT_EXPIRED : Nat × Nat := (6, 1)
abbrev FAB_EVENT_REJECTED_IN : Nat × Nat := (7, 1)
abbrev FAB_PORT_CTL_EN : Nat × Nat := (0, 1)
abbrev FAB_PORT_CTL_LG_FENCE : Nat × Nat := (1, 4)
abbrev FAB_PORT_STAT_STATE : Nat × Nat := (0, 2)
abbrev FAB_PORT_STAT_LG_ACTIVE : Nat × Nat := (2, 4)
abbrev FAB_PORT_STAT_DIM : Nat × Nat := (6, 2)
abbrev FAB_PORT_STAT_SIGN : Nat × Nat := (8, 1)
abbrev FAB_PORT_STAT_DATELINE : Nat × Nat := (9, 1)
abbrev FAB_PORT_STAT_PEER : Nat × Nat := (10, 18)
abbrev FAB_PORT_STAT_PEER_VALID : Nat × Nat := (28, 1)
abbrev FAB_MC_SEL_TREE : Nat × Nat := (0, 12)
abbrev FAB_MC_ENT_OUT : Nat × Nat := (0, 16)
abbrev FAB_MC_ENT_DELIVER : Nat × Nat := (16, 1)
abbrev FAB_MC_ENT_VALID : Nat × Nat := (17, 1)
abbrev FAB_MC_ENT_PRUNED : Nat × Nat := (18, 16)
abbrev FAB_MC_ENT_LEAVES : Nat × Nat := (34, 19)
abbrev FAB_MC_DESC_DESC : Nat × Nat := (0, 19)
abbrev FAB_CAP_PORTS : Nat × Nat := (0, 5)
abbrev FAB_CAP_LANES : Nat × Nat := (5, 6)
abbrev FAB_CAP_LIFETIME_US : Nat × Nat := (11, 13)
abbrev FAB_CAP_TREES : Nat × Nat := (24, 13)
abbrev FAB_CAP_MC_BUF : Nat × Nat := (37, 5)
abbrev FAB_CAP_STREAMS : Nat × Nat := (42, 18)
abbrev CTX_BACKING_OFFSET : Nat × Nat := (0, 38)
abbrev CTX_BACKING_COPY0_OK : Nat × Nat := (38, 1)
abbrev CTX_BACKING_COPY1_OK : Nat × Nat := (39, 1)
abbrev CTX_CACHE_VALID : Nat × Nat := (0, 17)
abbrev CTX_CACHE_PINNED : Nat × Nat := (17, 17)
abbrev CTX_CACHE_SIGNALS : Nat × Nat := (34, 13)
abbrev CTX_WIN_SEL_CTX : Nat × Nat := (0, 20)
abbrev CTX_WIN_REC_WORD : Nat × Nat := (0, 64)
abbrev COL_CTL_WINDOW : Nat × Nat := (0, 10)
abbrev COL_STAT_ACTIVE : Nat × Nat := (0, 9)
abbrev COL_STAT_QUEUED : Nat × Nat := (9, 11)
abbrev COL_STAT_FENCES : Nat × Nat := (20, 8)
abbrev COL_EVENT_SHAPE : Nat × Nat := (0, 1)
abbrev COL_EVENT_MISMATCH : Nat × Nat := (1, 1)
abbrev COL_EVENT_MEMBER_LOST : Nat × Nat := (2, 1)
abbrev COL_EVENT_MS_BUSY : Nat × Nat := (3, 1)
abbrev COL_EVENT_VERSION_SKEW : Nat × Nat := (4, 1)
abbrev COL_EVENT_CANCELLED : Nat × Nat := (5, 1)
abbrev COL_MS_SEL_MS : Nat × Nat := (0, 12)
abbrev COL_MS_ORIG_ORIGIN : Nat × Nat := (0, 24)
abbrev COL_MS_ORIG_STEP : Nat × Nat := (24, 24)
abbrev COL_MS_EXT_EXTENT : Nat × Nat := (0, 24)
abbrev COL_MS_EXT_ROOT : Nat × Nat := (24, 18)
abbrev COL_MS_EXT_TREE : Nat × Nat := (42, 1)
abbrev COL_MS_EXT_VALID : Nat × Nat := (43, 1)
abbrev COL_MS_STAT_MEMBERS : Nat × Nat := (0, 19)
abbrev COL_MS_STAT_SELF : Nat × Nat := (19, 1)
abbrev COL_MS_STAT_RANK : Nat × Nat := (20, 18)
abbrev COL_MS_STAT_BUSY : Nat × Nat := (38, 1)
abbrev COL_BIND_CTX : Nat × Nat := (0, 20)
abbrev COL_BIND_MS : Nat × Nat := (20, 12)
abbrev COL_VT_SEL_ENTRY : Nat × Nat := (0, 12)
abbrev COL_VT_BASE_BASE : Nat × Nat := (0, 22)
abbrev COL_VT_BASE_DIE : Nat × Nat := (22, 3)
abbrev COL_VT_BASE_LENGTH : Nat × Nat := (25, 22)
abbrev COL_VT_VER_VERSION : Nat × Nat := (0, 32)
abbrev COL_SKEW_REC0_DIE : Nat × Nat := (0, 3)
abbrev COL_SKEW_REC0_CORE : Nat × Nat := (3, 5)
abbrev COL_SKEW_REC0_HEAT_NO : Nat × Nat := (8, 16)
abbrev COL_SKEW_REC0_VALID : Nat × Nat := (24, 1)
abbrev COL_SKEW_REC1_EXPECTED : Nat × Nat := (0, 32)
abbrev COL_SKEW_REC1_FOUND : Nat × Nat := (32, 32)
abbrev COL_SKEW_REC2_ADDR : Nat × Nat := (0, 64)
abbrev COL_CAP_ACTIVE : Nat × Nat := (0, 8)
abbrev COL_CAP_QUEUE : Nat × Nat := (8, 11)
abbrev COL_CAP_MSETS : Nat × Nat := (19, 13)
abbrev COL_CAP_VTAB : Nat × Nat := (32, 13)
abbrev SCB_CTL_SKEW_ADOPT : Nat × Nat := (0, 1)
abbrev SCB_CTL_MRND : Nat × Nat := (1, 1)
abbrev SCB_CTL_SEED : Nat × Nat := (32, 32)
abbrev SCB_TABLE_TABLE_ADDR : Nat × Nat := (0, 36)
abbrev SCB_TABLE_NENT : Nat × Nat := (36, 11)
abbrev SCB_PASS_REC_ADDR : Nat × Nat := (0, 36)
abbrev SCB_PASS_OP : Nat × Nat := (36, 2)
abbrev SCB_STAT_BUSY : Nat × Nat := (0, 1)
abbrev SCB_STAT_PASS : Nat × Nat := (1, 1)
abbrev SCB_STAT_WAIT_RELEASE : Nat × Nat := (2, 1)
abbrev SCB_STAT_HELD : Nat × Nat := (3, 1)
abbrev SCB_STAT_ENTRY : Nat × Nat := (4, 10)
abbrev SCB_STAT_DONE_ENTRIES : Nat × Nat := (14, 11)
abbrev SCB_STAT_P1_VALID : Nat × Nat := (25, 1)
abbrev SCB_EVENT_PASS_REJECT : Nat × Nat := (0, 1)
abbrev SCB_EVENT_STEP_SKEW : Nat × Nat := (1, 1)
abbrev SCB_EVENT_NONFINITE : Nat × Nat := (2, 1)
abbrev SCB_EVENT_BAD_ENTRY : Nat × Nat := (3, 1)
abbrev SCB_EVENT_SHARD_ERROR : Nat × Nat := (4, 1)
abbrev SCB_EVENT_RELEASE_TIMEOUT : Nat × Nat := (5, 1)
abbrev SCB_EVENT_CANCELLED : Nat × Nat := (6, 1)
abbrev SCB_EVENT_ADOPTED : Nat × Nat := (7, 1)
abbrev SCB_EVENT_BAD_RECORD : Nat × Nat := (8, 1)
abbrev SCB_LAST_STATUS : Nat × Nat := (0, 8)
abbrev SCB_LAST_PASS : Nat × Nat := (8, 1)
abbrev SCB_LAST_VALID : Nat × Nat := (9, 1)
abbrev SCB_LAST_ENTRIES : Nat × Nat := (32, 32)
abbrev SCB_LAST_STEPS_TMIN : Nat × Nat := (0, 32)
abbrev SCB_LAST_STEPS_TMAX : Nat × Nat := (32, 32)
abbrev SCB_ERR_REC_ENTRY : Nat × Nat := (0, 10)
abbrev SCB_ERR_REC_CAUSE : Nat × Nat := (10, 4)
abbrev SCB_ERR_REC_VALID : Nat × Nat := (14, 1)
abbrev SCB_REL_WD_LIMIT : Nat × Nat := (0, 40)
abbrev SCB_CAP_LANES : Nat × Nat := (0, 9)
abbrev SCB_CAP_CLK_MHZ : Nat × Nat := (9, 12)
abbrev SCB_CAP_ENTRIES : Nat × Nat := (21, 11)
abbrev SCB_CAP_LAYERS : Nat × Nat := (32, 13)
abbrev SCB_CAP_MFMTS : Nat × Nat := (45, 2)
abbrev MNT_CTL_SCRUB_EN : Nat × Nat := (0, 1)
abbrev MNT_CTL_REEQ_AUTO : Nat × Nat := (1, 1)
abbrev MNT_CTL_SCRUB_HOURS : Nat × Nat := (8, 8)
abbrev MNT_CTL_SNAP_DEFER_MS : Nat × Nat := (16, 16)
abbrev MNT_REQ_ACT : Nat × Nat := (0, 3)
abbrev MNT_REQ_SCOPE : Nat × Nat := (8, 8)
abbrev MNT_REQ_ARG : Nat × Nat := (16, 48)
abbrev MNT_STAT_RUNNING : Nat × Nat := (0, 6)
abbrev MNT_STAT_QUEUED : Nat × Nat := (6, 7)
abbrev MNT_STAT_LAST : Nat × Nat := (13, 3)
abbrev MNT_EVENT_REFUSED : Nat × Nat := (0, 1)
abbrev MNT_EVENT_FENCE_ADDED : Nat × Nat := (1, 1)
abbrev MNT_EVENT_PATCH_ROLLBACK : Nat × Nat := (2, 1)
abbrev MNT_EVENT_BH_LOST : Nat × Nat := (3, 1)
abbrev MNT_FENCE_CORE_CORE : Nat × Nat := (0, 64)
abbrev MNT_FENCE_UNIT_CLUSTER : Nat × Nat := (0, 32)
abbrev MNT_FENCE_UNIT_SCRIBE : Nat × Nat := (32, 32)
abbrev MNT_FENCE_STACK_STACK : Nat × Nat := (0, 32)
abbrev MNT_FENCE_STACK_LINKDIE : Nat × Nat := (32, 2)
abbrev MNT_FENCE_STACK_PORT : Nat × Nat := (34, 16)
abbrev MNT_FENCE_SUBLINK_SUBLINK : Nat × Nat := (0, 56)
abbrev MNT_FENCE_REQ_KIND : Nat × Nat := (0, 4)
abbrev MNT_FENCE_REQ_UNFENCE : Nat × Nat := (4, 1)
abbrev MNT_FENCE_REQ_INDEX : Nat × Nat := (8, 12)
abbrev HBM_PC_REDIR_PC : Nat × Nat := (0, 6)
abbrev HBM_PC_REDIR_EN : Nat × Nat := (6, 1)
abbrev HBM_PC_REDIR_GROUP : Nat × Nat := (7, 6)
abbrev HBM_SOFT_REPAIRS_ROWS : Nat × Nat := (0, 16)
abbrev HBM_SOFT_REPAIRS_SPARE : Nat × Nat := (16, 16)
abbrev SNP_CTL_QUIESCE_US : Nat × Nat := (0, 16)
abbrev SNP_CTL_BOUNDARY_MS : Nat × Nat := (16, 16)
abbrev SNP_DRAIN_PARTNER_GBS : Nat × Nat := (0, 12)
abbrev SNP_DRAIN_FLASH_GBS : Nat × Nat := (12, 12)
abbrev SNP_DRAIN_SHARED_GBS : Nat × Nat := (24, 12)
abbrev SNP_CMD_OP : Nat × Nat := (0, 4)
abbrev SNP_CMD_TEN : Nat × Nat := (4, 3)
abbrev SNP_CMD_SRC : Nat × Nat := (7, 3)
abbrev SNP_CMD_DEST_TEN : Nat × Nat := (10, 3)
abbrev SNP_CMD_TO_HOST : Nat × Nat := (13, 1)
abbrev SNP_CMD_GEN : Nat × Nat := (32, 32)
abbrev SNP_EVENT_TORN : Nat × Nat := (0, 1)
abbrev SNP_EVENT_QUIESCE_TIMEOUT : Nat × Nat := (1, 1)
abbrev SNP_EVENT_BOUNDARY_TIMEOUT : Nat × Nat := (2, 1)
abbrev SNP_EVENT_DRAIN_FAILED : Nat × Nat := (3, 1)
abbrev SNP_EVENT_RESTORE_MISMATCH : Nat × Nat := (4, 1)
abbrev SNP_EVENT_NO_SPARE : Nat × Nat := (5, 1)
abbrev SNP_EVENT_ABORTED : Nat × Nat := (6, 1)
abbrev SNP_T_STAT_JOB_STATE : Nat × Nat := (0, 3)
abbrev SNP_T_STAT_CAUSE : Nat × Nat := (3, 4)
abbrev SNP_T_STAT_PASS_OPEN : Nat × Nat := (7, 1)
abbrev SNP_T_STAT_LAST_STATUS : Nat × Nat := (8, 8)
abbrev SNP_T_GEN_LOCAL : Nat × Nat := (0, 32)
abbrev SNP_T_GEN_PARTNER : Nat × Nat := (32, 32)
abbrev SNP_T_GEN2_FLASH : Nat × Nat := (0, 32)
abbrev SNP_T_GEN2_SHARED : Nat × Nat := (32, 32)
abbrev SNP_T_STOP_LAST_US : Nat × Nat := (0, 32)
abbrev SNP_T_STOP_MAX_US : Nat × Nat := (32, 32)
abbrev SNP_T_MANIFEST_ADDR : Nat × Nat := (0, 64)
abbrev SNP_T_MISMATCH_ENTRY : Nat × Nat := (0, 12)
abbrev SNP_T_MISMATCH_RANK : Nat × Nat := (12, 18)
abbrev SNP_T_MISMATCH_VALID : Nat × Nat := (30, 1)
abbrev TEN_EVENT_DB_BUSY : Nat × Nat := (0, 8)
abbrev TEN_EVENT_LAYOUT_REJ : Nat × Nat := (8, 8)
abbrev TEN_EVENT_LAYOUT_BAD : Nat × Nat := (16, 1)
abbrev TEN_T_CFG_DIES : Nat × Nat := (0, 8)
abbrev TEN_T_CFG_SHARE : Nat × Nat := (8, 8)
abbrev TEN_T_CFG_VALID : Nat × Nat := (16, 1)
abbrev TEN_T_CFG_SIG_REQ : Nat × Nat := (17, 1)
abbrev TEN_T_CFG_SR_DRAIN : Nat × Nat := (18, 1)
abbrev TEN_T_CFG_SR_ACC : Nat × Nat := (19, 1)
abbrev TEN_T_CFG_SKEW_ADOPT : Nat × Nat := (20, 1)
abbrev TEN_T_CFG_MBOX_GIB : Nat × Nat := (21, 2)
abbrev TEN_T_CFG_SR_SEED : Nat × Nat := (32, 32)
abbrev TEN_T_CTX_CTX_BASE : Nat × Nat := (0, 20)
abbrev TEN_T_CTX_CTX_COUNT : Nat × Nat := (20, 21)
abbrev TEN_T_MBOX_OFFSET : Nat × Nat := (0, 38)
abbrev TEN_T_MBOX_DIE : Nat × Nat := (38, 3)
abbrev TEN_T_DOORBELL_OP : Nat × Nat := (0, 3)
abbrev TEN_T_DOORBELL_SEQ : Nat × Nat := (8, 8)
abbrev TEN_T_DOORBELL_LENGTH : Nat × Nat := (16, 40)
abbrev TEN_T_JOB_END_END_CODE : Nat × Nat := (0, 32)
abbrev TEN_T_STAT_PHASE0 : Nat × Nat := (0, 3)
abbrev TEN_T_STAT_PHASE1 : Nat × Nat := (3, 3)
abbrev TEN_T_STAT_LOCKED : Nat × Nat := (6, 1)
abbrev TEN_T_STAT_STATUS : Nat × Nat := (8, 8)
abbrev TEN_CNT_DENIED_COUNT : Nat × Nat := (0, 64)
abbrev TEN_WIN_SEL_WIN : Nat × Nat := (0, 10)
abbrev TEN_WIN_ENT0_VALID : Nat × Nat := (0, 1)
abbrev TEN_WIN_ENT0_OWNER : Nat × Nat := (1, 3)
abbrev TEN_WIN_ENT0_SPACE : Nat × Nat := (4, 2)
abbrev TEN_WIN_ENT0_RIGHTS : Nat × Nat := (6, 3)
abbrev TEN_WIN_ENT0_GKIND : Nat × Nat := (9, 1)
abbrev TEN_WIN_ENT0_GTEN : Nat × Nat := (10, 3)
abbrev TEN_WIN_ENT0_KEY : Nat × Nat := (13, 22)
abbrev TEN_WIN_ENT1_BASE : Nat × Nat := (0, 44)
abbrev TEN_WIN_ENT1_LENGTH : Nat × Nat := (44, 20)
abbrev ETH_P_CTL_MODE : Nat × Nat := (0, 2)
abbrev ETH_P_CTL_PFC_PRIO : Nat × Nat := (2, 3)
abbrev ETH_P_STAT_LINK : Nat × Nat := (0, 2)
abbrev ETH_P_STAT_QPS : Nat × Nat := (2, 9)
abbrev ETH_P_EVENT_LINK_DOWN : Nat × Nat := (0, 1)
abbrev ETH_P_EVENT_FCS : Nat × Nat := (1, 1)
abbrev ETH_P_EVENT_NAK_ACCESS : Nat × Nat := (2, 1)
abbrev ETH_QP_SEL_QP : Nat × Nat := (0, 10)
abbrev ETH_QP_ENT_QPN : Nat × Nat := (0, 24)
abbrev ETH_QP_ENT_TEN : Nat × Nat := (24, 3)
abbrev ETH_QP_ENT_SUBPORT : Nat × Nat := (27, 1)
abbrev ETH_QP_ENT_VALID : Nat × Nat := (28, 1)
abbrev ETH_QP_ENT_PEER_QPN : Nat × Nat := (29, 24)
abbrev BH_STAT_PHASE : Nat × Nat := (0, 3)
abbrev BH_STAT_READY : Nat × Nat := (3, 1)
abbrev BH_STAT_CB_SRC : Nat × Nat := (4, 2)
abbrev BH_STAT_PAL_SRC : Nat × Nat := (6, 2)
abbrev BH_STAT_PAL_MATCH : Nat × Nat := (8, 1)
abbrev BH_STAT_ACTIVE_LD : Nat × Nat := (9, 1)
abbrev BH_STAT_STANDBY_OK : Nat × Nat := (10, 1)
abbrev BH_STAT_RESTART_PENDING : Nat × Nat := (11, 1)
abbrev BH_LOCK_LOCK : Nat × Nat := (0, 1)
abbrev BH_CMD_OP : Nat × Nat := (0, 4)
abbrev BH_CMD_KIND : Nat × Nat := (4, 2)
abbrev BH_CMD_LENGTH : Nat × Nat := (32, 32)
abbrev BH_CMD_STAT_OP : Nat × Nat := (0, 4)
abbrev BH_CMD_STAT_BUSY : Nat × Nat := (4, 1)
abbrev BH_CMD_STAT_STATUS : Nat × Nat := (5, 8)
abbrev BH_CB_SERIAL_SERIAL : Nat × Nat := (0, 64)
abbrev BH_CB_CHECK_PRIMARY : Nat × Nat := (0, 8)
abbrev BH_CB_CHECK_ALTERNATE : Nat × Nat := (8, 8)
abbrev BH_CB_DIGEST_DIGEST : Nat × Nat := (0, 64)
abbrev BH_PAL_SEQ_SEQ : Nat × Nat := (0, 64)
abbrev BH_PAL_MSEQ_SEQ : Nat × Nat := (0, 64)
abbrev BH_PAL_MSTAT_BUSY : Nat × Nat := (0, 1)
abbrev BH_PAL_MSTAT_SLOT : Nat × Nat := (1, 1)
abbrev BH_EVENT_FW_FALLBACK : Nat × Nat := (0, 1)
abbrev BH_EVENT_CB_PRIMARY_BAD : Nat × Nat := (1, 1)
abbrev BH_EVENT_CB_NONE : Nat × Nat := (2, 1)
abbrev BH_EVENT_PAL_CRC : Nat × Nat := (3, 1)
abbrev BH_EVENT_PAL_FOREIGN : Nat × Nat := (4, 1)
abbrev BH_EVENT_PAL_MISMATCH : Nat × Nat := (5, 1)
abbrev BH_EVENT_MIRROR_FAIL : Nat × Nat := (6, 1)
abbrev BH_EVENT_OWNER_CHANGED : Nat × Nat := (7, 1)
abbrev BH_EVENT_TAKEOVER : Nat × Nat := (8, 1)
abbrev BH_BOOT_READY_MS : Nat × Nat := (0, 32)
abbrev BH_BOOT_TRAIN_MS : Nat × Nat := (32, 32)
abbrev BH_FW_VERSION : Nat × Nat := (0, 32)
abbrev BH_FW_SVN : Nat × Nat := (32, 16)
abbrev BH_FW_MIN_SVN : Nat × Nat := (48, 16)
abbrev BH_FW_SLOT_BH_SLOT : Nat × Nat := (0, 1)
abbrev BH_FW_SLOT_TR_SLOT : Nat × Nat := (1, 1)
abbrev BH_FW_SLOT_SC_SLOT : Nat × Nat := (2, 1)
abbrev BH_OWNER_SLOTS_USED : Nat × Nat := (0, 3)
abbrev BH_MEAS_SEL_INDEX : Nat × Nat := (0, 2)
abbrev BH_MEAS_DATA_DIGEST : Nat × Nat := (0, 64)
abbrev ID_STAT_VALID : Nat × Nat := (0, 1)
abbrev ID_PKG_SERIAL_SERIAL : Nat × Nat := (0, 64)
abbrev ID_PKG_DATE_DATE : Nat × Nat := (0, 16)
abbrev ID_DIE_REC0_LOT : Nat × Nat := (0, 64)
abbrev ID_DIE_REC1_WAFER : Nat × Nat := (0, 8)
abbrev ID_DIE_REC1_X : Nat × Nat := (8, 8)
abbrev ID_DIE_REC1_Y : Nat × Nat := (16, 8)
abbrev ID_DIE_REC1_DATE : Nat × Nat := (24, 16)
abbrev ID_DIE_REC1_KIND : Nat × Nat := (40, 2)
abbrev ID_DIE_REC1_INDEX : Nat × Nat := (42, 6)
abbrev ERR_EVENT_OVERWRITE : Nat × Nat := (0, 10)
abbrev ERR_EVENT_SEVERE : Nat × Nat := (10, 10)
abbrev ERR_EVENT_THRESHOLD : Nat × Nat := (20, 1)
abbrev ERR_RING_SEL_RING : Nat × Nat := (0, 4)
abbrev ERR_RING_WSEQ_SEQ : Nat × Nat := (0, 40)
abbrev ERR_RING_ACK_ACK : Nat × Nat := (0, 40)
abbrev ERR_THR_SEL_DETECTOR : Nat × Nat := (0, 7)
abbrev ERR_THR_ENT_COUNT : Nat × Nat := (0, 32)
abbrev ERR_THR_ENT_WINDOW_S : Nat × Nat := (32, 30)
abbrev ERR_THR_ENT_ACTION : Nat × Nat := (62, 2)
abbrev ERR_CNT_COUNT : Nat × Nat := (0, 64)
abbrev ERR_CAP_RINGS : Nat × Nat := (0, 4)
abbrev ERR_CAP_ENTRIES : Nat × Nat := (4, 13)
abbrev ERR_CAP_REC_BYTES : Nat × Nat := (17, 7)
abbrev INJ_CTL_EN : Nat × Nat := (0, 1)
abbrev INJ_STAT_ARMED : Nat × Nat := (0, 7)
abbrev INJ_CNT_FIRED_COUNT : Nat × Nat := (0, 64)
abbrev INJ_P_CTL_ARM : Nat × Nat := (0, 1)
abbrev INJ_P_CTL_PERIODIC : Nat × Nat := (1, 1)
abbrev INJ_P_CTL_NOTHRESH : Nat × Nat := (2, 1)
abbrev INJ_P_CTL_FIRED : Nat × Nat := (3, 1)
abbrev INJ_P_CTL_SYN : Nat × Nat := (8, 24)
abbrev INJ_P_CTL_COUNT : Nat × Nat := (32, 32)
abbrev INJ_P_TGT_KIND : Nat × Nat := (0, 4)
abbrev INJ_P_TGT_INDEX : Nat × Nat := (8, 20)
abbrev INJ_P_ADDR_ADDR : Nat × Nat := (0, 64)
abbrev INJ_P_PERIOD_PERIOD : Nat × Nat := (0, 40)
abbrev TEL_CTL_MASK : Nat × Nat := (0, 15)
abbrev TEL_CTL_PERIODIC_EN : Nat × Nat := (16, 1)
abbrev TEL_CAP_TRIG_GO : Nat × Nat := (0, 1)
abbrev TEL_CAP_DEST_ADDR : Nat × Nat := (0, 64)
abbrev TEL_CAP_CFG_PERIOD : Nat × Nat := (0, 40)
abbrev TEL_CAP_CFG_NBUF : Nat × Nat := (40, 8)
abbrev TEL_CAP_CFG_STRIDE : Nat × Nat := (48, 8)
abbrev TEL_CAP_STAT_BUSY : Nat × Nat := (0, 1)
abbrev TEL_CAP_STAT_TOO_LONG : Nat × Nat := (1, 1)
abbrev TEL_CAP_STAT_DEST_ERR : Nat × Nat := (2, 1)
abbrev TEL_CAP_STAT_MISSED : Nat × Nat := (3, 1)
abbrev TEL_CAP_STAT_LENGTH : Nat × Nat := (32, 32)
abbrev TEL_CAP_SEQ_SEQ : Nat × Nat := (0, 64)
abbrev TEL_AO_TIME_TICKS : Nat × Nat := (0, 64)
abbrev TEL_RESETS_DIE : Nat × Nat := (0, 32)
abbrev TEL_RESETS_STACK : Nat × Nat := (32, 32)

end F

end Sys2Proof.Machine
end

