-- ==== Sys2Proof/Machine/Regs.lean ====
section
/-! DEFINITION. What a register holds at reset (R14), which register stands at an offset (R10, R35), and how a
write acts on each of its fields (R11, R12). -/

namespace Sys2Proof.Machine

open Sys2Proof

/-- The row and instance number at an offset of a sub-block. -/
def rowAt : List RegRow → Nat → Option (RegRow × Nat)
  | [], _ => none
  | r :: rs, off =>
    if off = r.off then some (r, 0)
    else if r.off < off ∧ r.stride ≠ 0 ∧ (off - r.off) % r.stride = 0 ∧ (off - r.off) / r.stride < r.count then
      some (r, (off - r.off) / r.stride)
    else rowAt rs off

/-- A field's bits, lowest bit first. -/
def fieldMask (lo w : Nat) : Nat := (2 ^ w - 1) * 2 ^ lo

/-- The number with a field replaced. -/
def putBits (v lo w x : Nat) : Nat := v - bitsOf v lo w * 2 ^ lo + (x % 2 ^ w) * 2 ^ lo

/-- Bytes of the identity store as a little-endian number (R335). -/
def identityNat : (off n : Nat) → Nat
  | _, 0 => 0
  | off, n + 1 => (Config.identityByte off).toNat + 256 * identityNat (off + 1) n

/-- The identity store as far as its signature covers it, its signature, and whether it holds (R335). -/
def identityLen : Nat := 0x360 + ceilDiv (identityNat 0x358 4) 8 * 8
def identityBytes (n : Nat) : List Byte := (List.range n).map Config.identityByte
def identityBig (off n : Nat) : Nat :=
  ((List.range n).map fun i => Config.identityByte (off + i)).foldl (fun v b => v * 256 + b.toNat) 0
def identityValid : Bool :=
  Config.ecdsaVerify Config.precharasKey (identityBytes identityLen)
    (identityBig (identityLen + 64) 66) (identityBig (identityLen + 130) 66)

/-- Clock in MHz, rail in mV and multiplier of operating point i (R173). -/
def oppMhz (i : Nat) : Nat := [2500, 2200, 1900, 1600, 1200, 800].getD i 800
def oppMv (i : Nat) : Nat := [850, 810, 770, 730, 680, 620].getD i 620
def oppMult (i : Nat) : Nat := [100, 88, 76, 64, 48, 32].getD i 32

/-- The default coefficients of R179 and R365, in pJ. -/
def defaultCoef (k : Nat) : Nat :=
  [1670, 1900, 2150, 1400, 110, 60, 260, 190, 150, 84000, 92000, 3000, 2600, 300, 1800, 75000000].getD k 0
def defaultLcoef (j : Nat) : Nat := [12000000, 45000000, 2600, 2000].getD j 0

/-- A field fixed for the instance (R14), beyond the constants of the table: a core's own numbers, a port's
dimension and sign (R211), the operating points (R173), the default coefficients (R179, R365), the repair group
(R295), the spare rows and the identity store (R335; log 3). -/
def regFixed (b : Blk) (i off : Nat) : Nat :=
  match b with
  | .cox => if off = 0x18 then i / 32 * 2 ^ 18 + i % 32 * 2 ^ 21 else 0
  | .fab =>
    if 0x1008 ≤ off ∧ off < 0x2008 ∧ (off - 0x1008) % 0x100 = 0 then
      let p := (off - 0x1008) / 0x100 % 8
      p / 2 * 2 ^ 6 + p % 2 * 2 ^ 8
    else 0
  | .clk =>
    if 0x100 ≤ off ∧ off < 0x130 ∧ off % 8 = 0 then
      let k := (off - 0x100) / 8
      oppMhz k + oppMv k * 2 ^ 16 + oppMult k * 2 ^ 32
    else 0
  | .pwrd => if 0x200 ≤ off ∧ off < 0x280 ∧ off % 8 = 0 then defaultCoef ((off - 0x200) / 8) else 0
  | .pwr => if 0x200 ≤ off ∧ off < 0x220 ∧ off % 8 = 0 then defaultLcoef ((off - 0x200) / 8) else 0
  | .hbm =>
    if off = 0x20 then (if i < 4 ∨ 28 ≤ i then 0x3E else 0x3F) * 2 ^ 7
    else if off = 0x28 then (Config.spareRows i).toNat * 2 ^ 16
    else 0
  | .id =>
    if off = 0 then (if identityValid then 1 else 0)
    else if off = 8 ∨ off = 0x10 then identityNat (0x10 + (off - 8)) 8
    else if off = 0x18 then identityNat 0x20 2
    else if 0x100 ≤ off ∧ off < 0x100 + 42 * 0x10 then
      let r := 0x30 + 16 * ((off - 0x100) / 0x10)
      if off % 0x10 = 0 then identityNat (r + 2) 8
      else if off % 0x10 = 8 then
        identityNat (r + 10) 3 + identityNat (r + 14) 2 * 2 ^ 24 + identityNat r 1 % 4 * 2 ^ 40
          + identityNat (r + 1) 1 % 64 * 2 ^ 42
      else 0
    else 0
  | _ => 0

/-- The row of a control-space offset. -/
def regRow (a : Nat) : Option (Blk × Nat × Nat × RegRow × Nat) :=
  match ctlDecode a with
  | none => none
  | some (b, i, off) =>
    match rowAt b.rows off with
    | none => none
    | some (r, n) => some (b, i, off, r, n)

/-- The reset value of a row's fields, as a number. -/
def rowReset (r : RegRow) : Nat := r.fields.foldl (fun v f => v + f.reset * 2 ^ f.lo) 0

/-- What a register holds from a reset of its domain, before any copybook or palimpsest value (R14). An offset no
register occupies reads zero (R10). -/
def regReset (a : Nat) : Word :=
  match ctlDecode a with
  | none => 0
  | some (b, i, off) =>
    match rowAt b.rows off with
    | none => 0
    | some (r, _) => BitVec.ofNat 64 (rowReset r + regFixed b i off)

/-- The value of one field after a write of `new` over `old` (R11, R12); `lockOpen` says that the issuer may write
RWL fields. A value outside the field's range leaves it unchanged (R11). -/
def fieldWrite (f : Fld) (lockOpen : Bool) (old new : Nat) : Nat :=
  let x := bitsOf new f.lo f.width
  let o := bitsOf old f.lo f.width
  let r := match f.acc with
    | .ro => o
    | .wo => 0
    | .rw => if f.least ≤ x ∧ x ≤ f.most then x else o
    | .rwl => if lockOpen && decide (f.least ≤ x) && decide (x ≤ f.most) then x else o
    | .w1c => o - (o &&& x)
    | .w1s => o ||| x
  putBits old f.lo f.width r

/-- A register after a write (R10 to R12): each field by its access code, reserved bits unchanged. -/
def rowWrite (fs : List Fld) (lockOpen : Bool) (old new : Nat) : Nat :=
  fs.foldl (fun v f => fieldWrite f lockOpen v new) old

end Sys2Proof.Machine
end

