-- ==== Sys2Proof/Machine/State.lean ====
section
/-! DEFINITION. The state of the package as plain data, its reset, and the reasons a step can stop. -/

namespace Sys2Proof.Machine

open Sys2Proof

/-! ### Operands as the operations hold them (R140 to R143) -/

/-- A local descriptor with its PRM field applied: a walk over the core's scratchpad (R140, R141). Strides are in
bytes. -/
structure Walk where
  fmt : Fmt
  col : Bool
  base : Nat
  count : Nat
  ext : List Nat
  stride : List Int
  sb : Nat
deriving DecidableEq, Repr

/-- Where an operation reads or writes: a walk, or the head or tail entry of a tile queue (R116). -/
inductive Place where
  | walk (w : Walk)
  | tq (q : Nat) (col : Bool)
deriving DecidableEq, Repr

/-- The heat an operation belongs to: number, replay and the die cycle of cycle 0 of that replay; `on` is false
where no heat ran at its issue (R161). -/
structure HeatTag where
  on : Bool
  no : Nat
  replay : Nat
  base : Nat
deriving DecidableEq, Repr

/-! ### Engines and the vector unit (R38 to R64) -/

/-- A product cycle issued and not landed: its set, mode, formats, elements (fold × 64 per side), scales, issue and
landing cycle. -/
structure Prod where
  set1 : Bool
  init : Bool
  colFmt : Fmt
  rowFmt : Fmt
  col : List Nat
  row : List Nat
  colX : List Nat
  rowX : List Nat
  issue : Nat
  land : Nat
  tag : HeatTag
deriving DecidableEq, Repr

/-- What `op.chain` adds to its product (R124): the output format, the epilogue and its period, the put, the set and
cycle of its drain once the product is issued, the rows waiting for the CVU, and whether a row was discarded. -/
structure ChainRun where
  ofmt : Fmt
  epilogue : List EpiOp
  period : Nat
  put : AeSlot
  ctx : Nat
  exp : Nat
  drain : Option (Bool × Nat)
  row : Nat
  rows : List (List W32)
  out : List (List W32)
  short : Bool
deriving DecidableEq, Repr

/-- A running `op.outer` (R61): `k` product cycles have issued. -/
structure OuterRun where
  colFmt : Fmt
  rowFmt : Fmt
  init : Bool
  slide : Bool
  en : Bool
  col : Place
  row : Place
  len : Nat
  k : Nat
  tag : HeatTag
deriving DecidableEq, Repr

/-- A drain in progress (R48): `row` is the next row read, `ring` the queue entry it fills. -/
structure DrainRun where
  set1 : Bool
  ofmt : Fmt
  stochastic : Bool
  clr : Bool
  flag : Option Nat
  dst : Place
  ring : Nat
  issue : Nat
  row : Nat
  tag : HeatTag
deriving DecidableEq, Repr

structure LoadRun where
  set1 : Bool
  ifmt : Fmt
  src : Place
  issue : Nat
  row : Nat
  tag : HeatTag
deriving DecidableEq, Repr

/-- An operand of `op.row`: a scalar from a PRM (its 48 bits) or a vector of 64 words. -/
inductive RowArg where
  | scalar (v : Nat)
  | vector (vs : List Nat)
deriving DecidableEq, Repr

structure RowRun where
  set1 : Bool
  op : RowOp
  v1 : RowArg
  v2 : RowArg
  issue : Nat
  row : Nat
  tag : HeatTag
deriving DecidableEq, Repr

/-- A row write that lands at the end of a later cycle (R49, R50). `hit` records that a product cycle it overwrites
has landed since (R52). -/
structure RowWrite where
  land : Nat
  set1 : Bool
  row : Nat
  cells : List Word
  isLoad : Bool
  sat : Bool
  hit : Bool
  tag : HeatTag
deriving DecidableEq, Repr

/-- An engine (R45 to R62). `acc` is keyed set × 4096 + row × 64 + column; `fresh` has a bit per set and row for
product cycles landed since the row was last read or loaded; `done` lists the drains whose tile completes, with
cycle and flag. -/
structure Engine where
  active1 : Bool
  int0 : Bool
  int1 : Bool
  acc : NMap Word
  fresh : Nat
  outer : Option OuterRun
  chain : Option ChainRun
  drain : Option DrainRun
  load : Option LoadRun
  row : Option RowRun
  flight : List Prod
  writes : List RowWrite
  done : List (Nat × Option Nat)
  rowReg : List Nat
  feed : List Nat
  seed : Nat
  draws : Nat
  catchAt : Option Nat
deriving DecidableEq, Repr

/-- An engine as a reset of the compute die domain leaves it (R45). -/
def Engine.init : Engine :=
  ⟨false, false, false, [], 0, none, none, none, none, none, [], [], [], [], [], 0, 0, none⟩

/-- A CVU result in flight (R63): the cycle it becomes usable, the register, its lanes, and the CVU_EXC bits. -/
structure CvuResult where
  usable : Nat
  reg : Nat
  lanes : List W32
  exc : Nat
  trans : Bool
deriving DecidableEq, Repr

/-- The core vector unit: registers keyed 512 × register + lane. -/
structure Cvu where
  regs : NMap W32
  flight : List CvuResult
  busyTo : Nat
  now : Nat
deriving DecidableEq, Repr

def Cvu.init : Cvu := ⟨[], [], 0, 0⟩

/-! ### Access engine (R103 to R130, R150) -/

/-- A tile queue (R116). `landed` has a bit per ring slot; `readPos` is the read position in the head entry;
`claimed` counts an outbound queue's slots claimed by puts; `predict` and `seen`
hold the zero-map bits of this replay and the last, `pos` the fetches of this replay (R126). -/
structure TileQueue where
  base : Nat
  depth : Nat
  outbound : Bool
  relay : Bool
  pred : Bool
  cyc : Nat
  head : Nat
  tail : Nat
  reserved : Nat
  landed : Nat
  readPos : Nat
  claimed : Nat
  lateSlots : Nat
  landAt : NMap Nat
  gen : Nat
  pos : Nat
  seen : NMap Bool
  predict : NMap Bool
deriving DecidableEq, Repr

def TileQueue.init : TileQueue :=
  ⟨0, 0, false, false, false, 0, 0, 0, 0, 0, 0, 0, 0, [], 0, 0, [], []⟩

/-- A tile-cache entry (R129). -/
structure CacheEntry where
  slot : Nat
  key : Word
  version : W32
  pin : Bool
  insertedAt : Nat
  used : Bool
deriving DecidableEq, Repr

inductive AeKind where
  | fetch | put | gather | relay | chainPut | flagOwn (set : Bool) | flagFar (set : Bool) | atomic (op : Nat)
  | coll (op : Nat) | fenceLocal | fenceFabric
deriving DecidableEq, Repr

/-- Where a command stands: waiting for a slot, held for merging, in the holding queue, moving data, its data all here
and to land, absorbed by another, or sent and awaiting its completion at the destination. -/
inductive AePhase where
  | wait
  | merge
  | hold
  | move
  | moved
  | absorbed
  | sent
deriving DecidableEq, Repr

/-- A part of a command's far transfer: a piece of its payload, its side-band, or a gathered row. `off` is its place in
the command's data, payload first and side-band after; `st` is 0 until it is asked for, 1 while it is outstanding, 2
when it is done. -/
structure AeReq where
  part : Nat
  off : Nat
  far : Word
  len : Nat
  st : Nat
  data : List Byte
deriving DecidableEq, Repr

/-- A command of the AE list (R113, R114). `loc` and `sbLoc` are scratchpad offsets; `need` counts the dynamic pieces
still to move; `deadline` is fixed once a slot was taken; `found` is a version other than the one asked for; `last` is
a relay's last core; `va` and `vb` an atomic's operands; `zpos` the position of R126; `zero` the map bit its tile
carried; `zprobe` marks a command that probes; `rdy` the cycle its data became ready; `first` the address, length and
offset it had before others merged into it. -/
structure AeCmd where
  id : Nat
  kind : AeKind
  issue : Nat
  phase : AePhase
  slot : Bool
  flag : Option Nat
  cnt : Bool
  ctx : Option Nat
  exp : Nat
  q : Option Nat
  ring : Nat
  qgen : Nat
  cache : Bool
  pin : Bool
  key : Word
  version : Nat
  far : Word
  len : Nat
  sb : Option (Word × Nat)
  loc : Nat
  sbLoc : Nat
  deadline : Option Nat
  data : List Byte
  need : Nat
  reqs : List AeReq
  suppress : Bool
  noInsert : Bool
  zpos : Option Nat
  zprobe : Bool
  zero : Bool
  merged : List Nat
  first : Option (Word × Nat × Nat)
  localDone : Bool
  status : Nat
  found : Option (Nat × Word)
  last : Nat
  va : Word
  vb : Word
  watch : Option Nat
  limit : Nat
  rdy : Nat
  ext : Bool
  tag : HeatTag
deriving DecidableEq, Repr

/-- A dynamic scratchpad piece (R104): when it became ready, its kind in the order of R104, the command it belongs
to, and what it writes (a read piece writes nothing). -/
structure Piece where
  ready : Nat
  kind : Nat
  cmd : Nat
  off : Nat
  len : Nat
  wr : Option (List Byte)
deriving DecidableEq, Repr

/-- A static scratchpad write that lands at the end of cycle `land` (R48, R63); `prio` is its place in the order of
R104, item 4. -/
structure StaticWrite where
  land : Nat
  prio : Nat
  bytes : List (Nat × Byte)
  unit : Nat
  tag : HeatTag
deriving DecidableEq, Repr

/-- A tile on the relay chain at a core (R122): the cycle it landed there, its queue, the last core it goes to, and its
bytes. -/
structure RelayTile where
  landed : Nat
  q : Nat
  last : Nat
  data : List Byte
deriving DecidableEq, Repr

/-- The access engine and the scratchpad's ports: `retries` holds requests a full bank queue refused (command, part,
cycle of the retry). -/
structure AccessEngine where
  cmds : List AeCmd
  nextId : Nat
  level : Nat
  rate : Nat
  burst : Nat
  tqs : List TileQueue
  tcSlots : Nat
  cache : List CacheEntry
  pieces : List Piece
  writes : List StaticWrite
  rdAt : Nat
  rdBanks : Nat
  wrAt : Nat
  wrBanks : Nat
  zconf : List Nat
  hop : List RelayTile
  retries : List (Nat × Nat × Nat)
deriving DecidableEq, Repr

def AccessEngine.init : AccessEngine :=
  ⟨[], 0, 0, 0, 0, List.replicate 8 TileQueue.init, 0, [], [], [], 0, 0, 0, 0, [], [], []⟩

/-! ### Cox and the core's bookkeeping (R151 to R154, R159 to R161) -/

/-- The cox (R151, R152): its registers and memories, the upper half a load of a lower half latched, a lower half held for
its upper half, and the first die cycle in which it can complete another instruction. -/
structure Cox where
  pc : W32
  xs : NMap W32
  mstatus : W32
  mie : W32
  mtvec : W32
  mscratch : W32
  mepc : W32
  mcause : W32
  mtval : W32
  inTrap : Bool
  halted : Bool
  wfi : Bool
  imem : NMap Byte
  dmem : NMap Byte
  latch : Option (Nat × W32)
  half : Option (Nat × W32)
  next : Nat
deriving DecidableEq, Repr

def Cox.init : Cox := ⟨0, [], 0, 0, 0, 0, 0, 0, 0, false, false, false, [], [], none, none, 0⟩

/-- A staged patch (R154). -/
structure Patch where
  prm : Nat
  add : Bool
  value : Nat
  at_ : Nat
deriving DecidableEq, Repr

/-- The rest of a core: patch queue and writes waiting for it, the cycle (plus 1) each line was last written (R159), the sets and
clears of flags that landed in cycle `flagAt` (flag, set, explicit), the last consuming waiter of each flag. -/
structure CoreMisc where
  patches : List Patch
  patchWait : List Patch
  window : Option Nat
  written : NMap Nat
  flagAt : Nat
  flagLands : List (Nat × Bool × Bool)
  waiter : NMap Nat
deriving DecidableEq, Repr

def CoreMisc.init : CoreMisc := ⟨[], [], none, [], 0, [], []⟩

/-! ### Modules and heats (R131 to R164) -/

/-- A gate entry (R164). -/
structure Gate where
  kind : Nat
  vcore : Nat
  sel : Nat
  valPrm : Bool
  prm : Nat
  ctx : Nat
  value : Nat
  watchdog : Nat
deriving DecidableEq, Repr

/-- A variant (R163); `usable` is false where its body does not fit its cores. -/
structure Variant where
  body : Nat
  clusters : Nat
  opp : Nat
  energy : Nat
  replays : Nat
  usable : Bool
deriving DecidableEq, Repr

/-- A ruling entry (R159). -/
structure Ruling where
  ty : Nat
  vcore : Nat
  base : Nat
  len : Nat
  first : Nat
  last : Nat
  mask : Nat
  unit : Nat
deriving DecidableEq, Repr

/-- A translated heat (R136, R155, R162): its body length is the translated one, and
`pads` lists the Wilum cycles of the bundles before which pad cycles stand, by virtual core (R157). -/
structure HeatDef where
  no : Nat
  vdie : Nat
  vcores : Nat
  stop : Bool
  body : Nat
  cls : Nat
  pin : Bool
  pinCtx : Nat
  tqs : List Nat
  reg : Nat
  variants : List Variant
  gates : List Gate
  ruling : List Ruling
  pads : List (Nat × Nat)
deriving DecidableEq, Repr

/-- A cox image of a module (R152): text or data, the virtual die and core it names (255: any), its bytes. -/
structure CoxImage where
  text : Bool
  vdie : Nat
  vcore : Nat
  bytes : List Byte
deriving DecidableEq, Repr

/-- A loaded module: what its sections hold, and its place among the virtual dies. -/
structure Module where
  vdies : Nat
  entry : Nat
  tcSlots : Nat
  cox : List CoxImage
  heats : List HeatDef
deriving DecidableEq, Repr

/-! ### Compute dies (R162 to R187) -/

/-- The watchdog of a gate of a ready heat (R166, R203): its limit, whether it still runs and has been extended (R178);
for a REGATTA gate the generation it belongs to. -/
structure GateWatch where
  limit : Nat
  on : Bool
  ext : Bool
  gen : Nat
deriving DecidableEq, Repr

/-- An entry of the ready set (R165). -/
structure ReadyEntry where
  heat : Nat
  vdie : Nat
  ten : Nat
  cls : Nat
  poster : Nat
  cycle : Nat
  tick : Nat
  watch : List GateWatch
  eligible : Bool
deriving DecidableEq, Repr

/-- The running heat (R170 to R172): chosen in cycle `chosen`; `start` is cycle 0 of replay 0 once it has started;
`replays` is the number of replays it runs, cut where it is stopped; `waking` lists the clusters whose wake
it waits for, and `wakeDone` and `patchDone` the last cycles a wake completed and a patch still queued applied. -/
structure RunHeat where
  heat : Nat
  vdie : Nat
  ten : Nat
  variant : Nat
  bodyNo : Nat
  body : Nat
  replays : Nat
  opp : Nat
  clusters : List Nat
  pin : Bool
  pinCtx : Nat
  chosen : Nat
  waking : List Nat
  wakeDone : Option Nat
  patchDone : Option Nat
  start : Option Nat
  slowSent : Bool
deriving DecidableEq, Repr

/-- A forecast entry (R175), its window in AO ticks. -/
structure Forecast where
  core : Nat
  mj : Nat
  start : Nat
  stop : Nat
deriving DecidableEq, Repr

/-- A compute die (R165 to R187): its cycle, ready set, posts that wait (core, heat, whether by its cox), the running heat, the point of the
variant that ran last, the ruling stop, a thermal shutdown; the bucket in µJ and
the allocation; the throttle level, the tick of the last step, the forced point; forecasts; event counts of
this window by class; model energy in pJ not yet counted as µJ, of the heat, of the last 100 windows and of this 100 ms
interval; the classes seen since the last calibration; since when nothing has been pending, and each cluster idle; the cluster whose detector tripped; the runs of intervals
above and at or below 8%, the intervals an injection still
counts as above, and the state between them; when it last stepped down at 100 °C; an injected reading (core, °C, and the tick it
ends); the last heat that ended. Key 8
holds the event counts and intervals of the package. -/
structure DieState where
  now : Nat
  ready : List ReadyEntry
  postWait : List (Nat × Nat × Bool)
  run : Option RunHeat
  lastOpp : Option Nat
  rulingStop : Bool
  thermalOff : Bool
  bucket : Int
  alloc : Nat
  throttle : Nat
  lastStep : Option Nat
  forced : Option Nat
  forecasts : List Forecast
  counts : NMap Nat
  pj : Nat
  heatPj : Nat
  hist : List Nat
  interval : Nat
  classes : Nat
  idleFrom : Nat
  idleClusters : NMap Nat
  droop : Option Nat
  drift : Nat
  calm : Nat
  forceDrift : Nat
  drifted : Bool
  thermStep : Option Nat
  hotUntil : Option (Nat × Nat × Nat)
  ended : Option HeatTag
deriving DecidableEq, Repr

def DieState.init : DieState :=
  ⟨0, [], [], none, none, false, false, 0, 0, 0, none, none, [], [], 0, 0, [], 0, 0, 0, [], none, 0, 0, 0, false,
    none, none, none⟩

/-! ### Stacks (R109 to R112, R120) -/

/-- A request at a pseudo-channel bank: who asked (a core's command and part, or none), the stack-local address, the
bytes moved, what it writes, its deadline and whether it has a queue. -/
structure BankReq where
  pos : Nat
  cmd : Nat
  part : Nat
  addr : Nat
  len : Nat
  wr : Option (List Byte)
  deadline : Nat
  queued : Bool
deriving DecidableEq, Repr

/-- A stack: requests keyed 32 × PC + bank, oldest first; open rows by the same key (row + 1); the cycle each PC is
busy to; the zero map's set bits by tile; code words whose stored bits an injection flipped. -/
structure StackState where
  queues : NMap (List BankReq)
  openRow : NMap Nat
  busyTo : NMap Nat
  zmap : NMap Bool
  bad : NMap Nat
deriving DecidableEq, Repr

def StackState.init : StackState := ⟨[], [], [], [], []⟩

/-! ### Contexts and signals (R195 to R202, R230 to R233) -/

/-- A context record (R231), field by field. -/
structure CtxRec where
  alloc : Bool
  ten : Nat
  epoch : Nat
  sigDie : Nat
  sigCore : Nat
  reqFlag : Nat
  reqEn : Bool
  slow : Bool
  due : Bool
  sat : Bool
  under : Bool
  gen : Nat
  count : Nat
  lastBase : Nat
  mset : Nat
  bytesTx : Nat
  bytesRx : Nat
  resent : Nat
deriving DecidableEq, Repr

/-- The record of a free context. -/
def CtxRec.init : CtxRec := ⟨false, 0, 0, 0, 0, 0, false, false, false, false, false, 0, 0, 0, 0, 0, 0, 0⟩

/-- A pending signal (R199): the core and flag it sets, its context and expected count, and whether a check of an
increment or a regatta has found its conditions to hold. -/
structure Signal where
  ctx : Nat
  pos : Nat
  flag : Nat
  exp : Nat
  due : Bool
deriving DecidableEq, Repr

/-- A regatta on a context (R201): the open generation, and the arrivals held, by generation and member rank. -/
structure Regatta where
  openGen : Option Nat
  arrivals : List (Nat × Nat × Nat)
deriving DecidableEq, Repr

/-- The contexts: records, the cached ones of each link die with the most recent first, pending signals oldest first,
regattas, and the two backing copies reachable and up to date (R230). -/
structure Contexts where
  recs : NMap CtxRec
  lru : List Nat
  sigs : List Signal
  regattas : NMap Regatta
  copyOk : Bool × Bool
deriving DecidableEq, Repr

def Regatta.init : Regatta := ⟨none, []⟩
def Contexts.init : Contexts := ⟨[], [], [], [], (true, true)⟩

/-! ### Fabric (R209 to R236) and collectives (R237 to R254) -/

/-- What a packet without a final answer belongs to at its sender: part `part` of a core's AE command, a collective or
re-shard fence of a context's instance, or a notice of the node. -/
inductive TxOwner where
  | ae (p id part : Nat)
  | coll (ctx inst dir : Nat)
  | notice
deriving DecidableEq, Repr

/-- A packet without a final answer at its sender (R222, R223): when its last copy left, how often it was resent, the
last status received, the tick it is sent again after R216's delay, and a multicast's leaves answered so far. -/
structure TxPkt where
  k : Packet
  owner : TxOwner
  sent : Option Nat
  resends : Nat
  status : Nat
  again : Option Nat
  leaves : Nat
deriving DecidableEq, Repr

/-- A sending stream (R222); for multicast `dst` is 2¹⁸ + tree. `last` is the AO tick in which it last sent a packet or
held one without a final answer. -/
structure TxStream where
  ctx : Nat
  dst : Nat
  next : Nat
  pkts : List TxPkt
  last : Nat
deriving DecidableEq, Repr

/-- A receiving stream (R222): BASE and the numbers above it that are done. For multicast `src` is the source node plus
2¹⁸ × (tree + 1). -/
structure RxStream where
  ctx : Nat
  src : Nat
  base : Nat
  done : List Nat
  last : Nat
deriving DecidableEq, Repr

/-- A packet whose head has advanced from a port's input (R234): its output port, or none where this node takes it; the
payload flits still to arrive; the tick of its last flit; and whether its later flits are discarded. -/
structure Transit where
  port : Nat
  vc : Nat
  k : Packet
  out : Option Nat
  remain : Nat
  last : Nat
  cut : Bool
deriving DecidableEq, Repr

/-- A head that waits to leave: the input it came by, its output where that is settled, and since when. -/
structure HeadWait where
  k : Packet
  inp : Option Nat
  out : Option Nat
  since : Nat
deriving DecidableEq, Repr

/-- The link layer of a port (R213): flits the far input buffer can take on each VC (below zero, flits of a packet that
has begun wait here), the last group received in order, and the last sent and acknowledged. -/
structure Port where
  credit : List Int
  rxSeq : Nat
  txSeq : Nat
  txAck : Nat
  nakked : Bool
deriving DecidableEq, Repr

def Port.init : Port := ⟨[192, 192, 192, 192, 64, 64, 32, 16], 2047, 2047, 2047, false⟩

/-- A multicast tree entry (R235). -/
structure McTree where
  out : Nat
  deliver : Bool
  valid : Bool
  pruned : Nat
  leaves : Nat
  desc : List Nat
deriving DecidableEq, Repr

def McTree.init : McTree := ⟨0, false, false, 0, 0, List.replicate 16 0⟩

/-- The fabric: ports, streams, packets passing through or waiting, multicast trees. -/
structure Fabric where
  ports : NMap Port
  tx : List TxStream
  rx : List RxStream
  transits : List Transit
  heads : List HeadWait
  trees : NMap McTree
deriving DecidableEq, Repr

def Fabric.init : Fabric := ⟨[], [], [], [], [], []⟩

/-- A member-set entry (R237): origins, steps and extents, the root's rank, TREE and VALID. -/
structure MemberSet where
  orig : Nat
  step : Nat
  ext : Nat
  root : Nat
  tree : Bool
  valid : Bool
deriving DecidableEq, Repr

def MemberSet.init : MemberSet := ⟨0, 0, 0, 0, false, false⟩

/-- A version entry (R252). -/
structure VtEntry where
  base : Nat
  die : Nat
  len : Nat
  version : Nat
deriving DecidableEq, Repr

def VtEntry.init : VtEntry := ⟨0, 0, 0, 0⟩

/-- A collective command queued or running (R242, R243). -/
structure CollCmd where
  op : Nat
  pos : Nat
  ctx : Nat
  inst : Nat
  far : Word
  flag : Option Nat
  cnt : Bool
  heat : HeatTag
deriving DecidableEq, Repr

/-- A collective's packet still to be sent: the phase dimension, direction (1 minus), the member it goes to, the element
offset, the bytes, and, for a permute, the address. -/
structure CollSend where
  dim : Nat
  dir : Nat
  dst : Nat
  off : Nat
  bytes : List Byte
  addr : Option Word
deriving DecidableEq, Repr

/-- A running collective or re-shard fence (R243 to R250). `work` holds carried elements by index; `phase` counts the
phases from 0, `got` the elements of this phase received and applied, `early` the packets held for a later phase; `pk`
the packet index; `marks` the last SEQ of each stream a fence waits for. -/
structure CollRun where
  cmd : CollCmd
  red : Nat
  ety : Nat
  wire : Nat
  root : Nat
  count : Nat
  src : Nat
  dst : Nat
  expect : Nat
  phase : Nat
  got : Nat
  work : NMap Word
  sends : List CollSend
  early : List Packet
  pk : Nat
  drained : Bool
  marks : List (Nat × Option Nat × Nat)
  watch : Nat
  limit : Nat
  ext : Bool
deriving DecidableEq, Repr

/-- The collectives units of both link dies: member sets, version entries, queued and running commands, the number of
commands that have joined each context's queue, READYs held (context, instance, node, opcode, COUNT), permute bytes
received (key 65,536 × context + instance), and EPOCH_CLOSEs held (context, node, epoch). -/
structure Colls where
  sets : NMap MemberSet
  vt : NMap VtEntry
  queue : List CollCmd
  runs : List CollRun
  joined : NMap Nat
  ready : List (Nat × Nat × Nat × Nat × Nat)
  moved : NMap Nat
  closes : List (Nat × Nat × Nat)
deriving DecidableEq, Repr

def Colls.init : Colls := ⟨[], [], [], [], [], [], [], []⟩

/-! ### The arbiter (R298, R299) -/

/-- A request at the arbiter: its activity, scope and argument, who asked, and when. -/
structure MaintReq where
  act : Nat
  scope : Nat
  arg : Nat
  iss : Issuer
  asked : Nat
  started : Nat
  image : Option FwImage
deriving DecidableEq, Repr

/-- Running activities and queued requests, in request order; per stack, the corrected errors of the last day (stack,
address, tick) and the tick of the last patrol scrub. -/
structure Maint where
  running : List MaintReq
  queue : List MaintReq
  ces : List (Nat × Nat × Nat)
  scrubbed : NMap Nat
deriving DecidableEq, Repr

def Maint.init : Maint := ⟨[], [], [], []⟩

/-! ### Errors (R339 to R346) -/

/-- An error record's words 0 to 6 (R339); word 7 is zero. -/
structure ErrRec where
  w0 : Word
  w1 : Word
  w2 : Word
  w3 : Word
  w4 : Word
  w5 : Word
  w6 : Word
deriving DecidableEq, Repr

def ErrRec.init : ErrRec := ⟨0, 0, 0, 0, 0, 0, 0⟩

/-- A recording or threshold window of one detector at one unit (R343). -/
structure ThrWin where
  det : Nat
  kind : Nat
  index : Nat
  count : Nat
  opened : Nat
deriving DecidableEq, Repr

/-- The error rings (key 4096 × ring + slot), the open windows, the REPEAT counts (key as `unitKey`), the thresholds a
copybook entry replaces (count, window, action), and the next firing of periodic injection points. -/
structure Errors where
  recs : NMap ErrRec
  wins : List ThrWin
  repeats : NMap Nat
  thresholds : NMap (Nat × Nat × Nat)
  nextFire : NMap Nat
deriving DecidableEq, Repr

def Errors.init : Errors := ⟨[], [], [], [], []⟩

/-! ### What the device puts on its outputs -/

/-- One thing sent, in the order sent (log 5). -/
inductive Out where
  /-- A packet onto the fabric or the in-package links, with the port it leaves by, if any. -/
  | packet (port : Option Nat) (k : Packet)
  /-- Link control of a port (R213): an acknowledgement or a NAK of GSEQ, or a resend from GSEQ. -/
  | linkAck (port gseq : Nat)
  | linkNak (port gseq : Nat)
  | linkResend (port gseq : Nat)
  /-- A cut-end slot on a port's channel (R234). -/
  | cutEnd (port vc : Nat)
  /-- A datagram or frame on an Ethernet sub-port: announcement, ARP and neighbour answers, CNPs, RoCE answers. -/
  | eth (port sub what : Nat) (body : List Byte)
  /-- A RoCEv2 answer on a queue pair: ACK, response data, or a NAK with its code. -/
  | rdmaAck (qp psn : Nat)
  | rdmaData (qp psn : Nat) (bytes : List Byte)
  | rdmaNak (qp psn code : Nat)
  /-- An SPDM response, by code. -/
  | spdm (code : Nat) (body : List Byte)
  /-- The outcome of a control-space access: its issuer, offset, status and the value read. -/
  | answer (iss : Issuer) (off status : Nat) (v : Word)
  /-- An I3C acknowledgement of an address assignment. -/
  | i3c (ld : Nat) (addr : Nat)
deriving DecidableEq, Repr

/-- A core's record in an image (R284), by its parts: the accumulator save image (R88), the cox's DMEM, pc and registers,
and the words of its PRMs, COX_GATE and flag registers. -/
structure CoreImage where
  pos : Nat
  acc : List Byte
  dmem : NMap Byte
  pc : W32
  xs : NMap W32
  regs : List Word
deriving DecidableEq, Repr

/-- An image of a tenancy (R284, R288): its generation, whether a pass 2 was open, the physical die of each virtual one,
the manifest, the declared ranges with their bytes (space, die, offset), REPLICATED and REPCTX of each, the cores, each
die's ready set, SCB_TABLE and SCB_STAT of its scribes (by stack), and the contexts. -/
structure Image where
  gen : Nat
  passOpen : Bool
  dies : List Nat
  manifest : List Byte
  ranges : List (Nat × Nat × Nat × List Byte)
  flags : List (Bool × Nat)
  cores : List CoreImage
  ready : List (Nat × List ReadyEntry)
  scribes : List (Nat × Word × Word)
  ctxs : List (Nat × CtxRec)
deriving DecidableEq, Repr

/-- A running snapshot, restore, pre-emption or resumption of a tenancy (R282 to R293), `what` being its SNP_CMD
operation: its phase (1 boundary, 2 quiesce, 3 save, 4 copy, 5 verify), the tick the stop began, the ranges being
copied (space, die, offset, length), whether one was written meanwhile, and whether the arbiter runs it. -/
structure SnapRun where
  what : Nat
  phase : Nat
  asked : Nat
  stopAt : Nat
  ranges : List (Nat × Nat × Nat × Nat)
  torn : Bool
  maint : Bool
deriving DecidableEq, Repr

/-! ### Scribes (R255 to R279) -/

/-- A scribe: the pass it runs (0 none), its record's address, the entry store of pass 1, the entries pass 2 has still
to do and the one in progress; the step, clip factor and trust ratios pass 2 decided; the status of a pass whose work is
done; entries finished; since when it waits for a release; whether it is held; random draws made and the seed; whether
its microcode is being replaced, and a pass command that waits for that. -/
structure Scribe where
  op : Nat
  recAt : Nat
  store : List (List Byte)
  left : List Nat
  cur : Option Nat
  adopt : Option Nat
  clip : W32
  ratios : List W32
  result : Option Nat
  done : Nat
  waits : Option Nat
  held : Bool
  draws : Nat
  seed : W32
  patching : Bool
  queued : Option (Nat × Nat)
deriving DecidableEq, Repr

def Scribe.init : Scribe := ⟨0, 0, [], [], none, none, 0, [], none, 0, none, false, 0, 0, false, none⟩

/-! ### Tenancies (R302 to R315) -/

/-- A tenant key (R322): its tenancy, identifier and public key. -/
structure TenantKey where
  ten : Nat
  id : Nat
  key : Nat
deriving DecidableEq, Repr

/-- A queue pair (R313, R314, R322), with its rate after congestion notices, in Mbit/s (R313). -/
structure QueuePair where
  ten : Nat
  sub : Nat
  qpn : Nat
  peer : Nat
  sqPsn : Nat
  rqPsn : Nat
  ip : Nat
  dscp : Nat
  rate : Nat
deriving DecidableEq, Repr

/-- Addresses of a sub-port (R322). -/
structure EthSub where
  mac : Nat
  gw : Nat
  ip4 : Nat
  ip6 : Nat
deriving DecidableEq, Repr

/-- A checkpoint policy (R322). -/
structure Policy where
  auto_ : Bool
  adopt : Bool
  sharedQp : Nat
  nsid : Nat
  partner : Nat
  rkey : Nat
  off : Nat
  len : Nat
  addr : Nat
  slen : Nat
deriving DecidableEq, Repr

/-- A granule request that has been met (R304, R305): die, first granule, granules, non-interleaved, purpose. -/
structure Grant where
  die : Nat
  first : Nat
  count : Nat
  ni : Bool
  purpose : Nat
deriving DecidableEq, Repr

/-- A job of a tenancy (R304 to R310): what its status record shows (`err` names the virtual die, heat, virtual core and
bundle of a translation failure), its end code once TEN_Tt_JOB_END was written, its contexts, the physical die of each
virtual one, its reservations, and its module's bytes. -/
structure Job where
  seq : Nat
  phase : Nat
  status : Nat
  err : Nat × Nat × Nat × Nat
  endCode : Option Nat
  jobId : List Byte
  ctxUsed : Nat
  dies : List Nat
  grants : List Grant
  code : List Byte
deriving DecidableEq, Repr

/-- A drain of an image to a layer (R288): its tenancy, layer (1 partner, 2 flash, 3 shared store). -/
structure LayerRun where
  t : Nat
  layer : Nat
  image : Image
deriving DecidableEq, Repr

/-- What tenancies hold. Jobs at 2 × tenancy + slot; queue pairs at 256 × port + index; sub-port addresses at 2 × port +
sub-port; images: local ones by tenancy, those in flash at 2 × tenancy + slot (slot 0 the newest written last by
parity), those drained to the partner and to the shared store by tenancy; drains in progress; granules hosted for
partner images (die, granule). -/
structure Tenancies where
  keys : List TenantKey
  qps : NMap QueuePair
  subs : NMap EthSub
  mgmt : List Nat
  policies : NMap Policy
  hosted : List (Nat × Nat)
  jobs : NMap Job
  images : NMap Image
  flash : NMap Image
  partner : NMap Image
  shared : NMap Image
  drains : List LayerRun
deriving DecidableEq, Repr

def Tenancies.init : Tenancies := ⟨[], [], [], [], [], [], [], [], [], [], [], []⟩

/-! ### The boathouse, supply and pins (R316 to R338, R347 to R357) -/

/-- The supply and clocks: VIN36 applied, outside its range (R351), an undervoltage shutdown in force, RESET_N low,
AO_REFCLK present and since when, the SerDes clocks, PWRGOOD, and whether the PCIe link to the flash drive is up. -/
structure Pins where
  vin : Bool
  range : Bool
  under : Bool
  resetN : Bool
  refclk : Bool
  refAt : Nat
  srefclk : BitVec 4
  pwrgood : Bool
  pcie : Bool
deriving DecidableEq, Repr

def Pins.init : Pins := ⟨false, false, false, false, true, 0, 15, false, false⟩

/-- A boathouse patch on trial (R300): the tick its 60 s end, the image, the image it replaced. -/
structure PatchTrial where
  until_ : Nat
  image : FwImage
  old : Option FwImage
deriving DecidableEq, Repr

/-- The boathouse pairs and what they keep: the flash, images in force (boathouse, translator; the 32 scribes'), owner
keys in their one-time slots, the applied copybook, a takeover in progress, both pairs lost, the ROM waiting for an
image, a mirror being written (slot and contents), a patch on trial, the tick of readiness and announcements since, the
SPDM exchange so far, I3C addresses, the JTAG instruction, a running capture (its tick and latched record), and the tick the
next periodic one is due. -/
structure Boathouse where
  nor : Nor
  fw : List (Option FwImage)
  scFw : List (Option FwImage)
  owners : List Nat
  book : List Byte
  takeover : Bool
  lost : Bool
  rom : Bool
  mirror : Option (Nat × Palimpsest)
  mirrorTick : Nat
  trial : Option PatchTrial
  ready : Option Nat
  sent : Nat
  spdm : Nat
  spdmLog : List Byte
  i3c : List (Option Nat)
  jtag : Nat
  capture : Option (Nat × List Byte)
  capDue : Nat
deriving DecidableEq, Repr

def Nor.empty : Nor := ⟨[none, none, none], [none, none, none], [], [], [], none, none⟩

def Boathouse.init : Boathouse :=
  ⟨Nor.empty, [none, none], List.replicate 32 none, [], [], false, false, false, none, 0, none, none, 0, 0, [],
    [none, none], 0, none, 0⟩

/-- The power domains that have power (R22): the always-on domain, the link dies, the compute dies and the stacks. -/
structure Power where
  ao : Bool
  ld : BitVec 2
  die : BitVec 8
  stack : BitVec 32
deriving DecidableEq, Repr

def Power.init : Power := ⟨false, 0, 0, 0⟩

/-- An access that waits: for a die's clock to relock (R36), or, with `die` 8, for a takeover of the boathouse (R24); `img` is
the image a PATCH names. -/
structure WaitAccess where
  die : Nat
  iss : Issuer
  off : Nat
  size : Nat
  v : Option Word
  img : Option FwImage
deriving DecidableEq, Repr

/-- The whole state. `liftedCores` names the cores (their position) and `liftedPcs` the pseudo-channels (64 × stack + PC)
whose fence was lifted, with a free value's index: what they held then is not specified (R34). -/
structure State where
  pending : List Instr
  out : List Out
  time : Nat
  free : Nat
  regs : NMap Word
  spad : List Host.Cell
  hbm : List Host.Cell
  liftedCores : NMap Nat
  liftedPcs : NMap Nat
  engines : NMap Engine
  cvus : NMap Cvu
  aes : NMap AccessEngine
  coxes : NMap Cox
  cores : NMap CoreMisc
  dies : NMap DieState
  hbmCtls : NMap StackState
  ctxs : Contexts
  errs : Errors
  snaps : NMap SnapRun
  mods : NMap Module
  pals : List (Option Palimpsest)
  mirrorDue : Bool
  node : Nat
  fab : Fabric
  colls : Colls
  maint : Maint
  wins : NMap (Word × Word)
  power : Power
  wdDefault : Nat
  overCap : List (Nat × Nat)
  netBytes : NMap (Nat × Nat)
  waits : List WaitAccess
  defaults : NMap (Nat × Nat)
  scribes : NMap Scribe
  ten : Tenancies
  bh : Boathouse
  pins : Pins
deriving DecidableEq, Repr

def State.reset : State :=
  { pending := [], out := [], time := 0, free := 0, regs := [], spad := [], hbm := [], liftedCores := [], liftedPcs := []
    engines := [], cvus := [], aes := []
    coxes := [], cores := [], dies := [], hbmCtls := [], ctxs := Contexts.init, errs := Errors.init, snaps := [], mods := []
    pals := [none, none], mirrorDue := false, node := 0, fab := Fabric.init, colls := Colls.init, maint := Maint.init
    wins := [], power := Power.init, wdDefault := 12500000
    overCap := [], netBytes := [], waits := [], defaults := []
    scribes := [], ten := Tenancies.init, bh := Boathouse.init, pins := Pins.init }

/-- Why the machine stops. -/
inductive Fault where
  /-- VIN is taken beyond its absolute maximum rating (R360): raised by VIN_RANGE and OVERVOLTAGE_SHUTDOWN alone. Safe: the spec says no more of the
  device after it. -/
  | beyondRatings
deriving DecidableEq, Repr

/-- Why a command has no meaning in a state. -/
inductive Refusal where
  /-- The command of that mnemonic has no meaning in this model yet: no command raises it. Safe. -/
  | notModelled (mnemonic : String)
  /-- The command's operands name nothing there is, or hold what no bus can carry (WellFormed): raised by any command whose
  row bounds its operands. Safe (log 9). -/
  | illFormed
  /-- The event cannot occur in this state: raised by the rows that stand for something the device or its neighbours do of
  themselves, where the rules let it not happen now. Safe (log 5). -/
  | notEnabled (why : String)
deriving DecidableEq, Repr

end Sys2Proof.Machine
end

