-- ==== Sys2Proof/Machine/Ops.lean ====
section
/-! DEFINITION. The named operations on the state: registers and their fields, counters, the units' tables, memories,
error records (R339 to R343), entering recovery (R280) and fencing (R294). -/

namespace Sys2Proof.Machine

open Sys2Proof

/-! ### Registers -/

/-- What a register holds. -/
def State.rd (s : State) (a : Nat) : Word := s.regs.get regReset a

/-- Give a register a value. -/
def State.wr (s : State) (a : Nat) (v : Word) : State := { s with regs := s.regs.set regReset a v }

/-- A field of a register, as a number. -/
def State.f (s : State) (a : Nat) (fld : Nat × Nat) : Nat := bitsOf (s.rd a).toNat fld.1 fld.2

/-- Give a field of a register a value. -/
def State.setF (s : State) (a : Nat) (fld : Nat × Nat) (v : Nat) : State :=
  s.wr a (BitVec.ofNat 64 (putBits (s.rd a).toNat fld.1 fld.2 v))

/-- Is one bit of a register 1? -/
def State.bit (s : State) (a i : Nat) : Bool := bitOf (s.rd a).toNat i

/-- Set or clear one bit of a register. -/
def State.setBit (s : State) (a i : Nat) (b : Bool) : State := s.setF a (i, 1) (if b then 1 else 0)

/-- Add to a 64-bit counter register. -/
def State.bump (s : State) (a n : Nat) : State := if n = 0 then s else s.wr a (s.rd a + BitVec.ofNat 64 n)

/-- Append to what the device has sent. -/
def State.emit (s : State) (o : Out) : State := { s with out := s.out ++ [o] }

def State.emits (s : State) (os : List Out) : State := { s with out := s.out ++ os }

/-! ### The units' tables -/

/-- Engine e of the core at position p stands at 3 p + e (R340). -/
def engId (p e : Nat) : Nat := 3 * p + e

def State.eng (s : State) (i : Nat) : Engine := s.engines.get (fun _ => Engine.init) i
def State.setEng (s : State) (i : Nat) (v : Engine) : State :=
  { s with engines := s.engines.set (fun _ => Engine.init) i v }

def State.cvu (s : State) (p : Nat) : Cvu := s.cvus.get (fun _ => Cvu.init) p
def State.setCvu (s : State) (p : Nat) (v : Cvu) : State := { s with cvus := s.cvus.set (fun _ => Cvu.init) p v }

def State.ae (s : State) (p : Nat) : AccessEngine := s.aes.get (fun _ => AccessEngine.init) p
def State.setAe (s : State) (p : Nat) (v : AccessEngine) : State :=
  { s with aes := s.aes.set (fun _ => AccessEngine.init) p v }

def State.cox (s : State) (p : Nat) : Cox := s.coxes.get (fun _ => Cox.init) p
def State.setCox (s : State) (p : Nat) (v : Cox) : State := { s with coxes := s.coxes.set (fun _ => Cox.init) p v }

def State.core (s : State) (p : Nat) : CoreMisc := s.cores.get (fun _ => CoreMisc.init) p
def State.setCore (s : State) (p : Nat) (v : CoreMisc) : State :=
  { s with cores := s.cores.set (fun _ => CoreMisc.init) p v }

def State.die (s : State) (d : Nat) : DieState := s.dies.get (fun _ => DieState.init) d
def State.setDie (s : State) (d : Nat) (v : DieState) : State :=
  { s with dies := s.dies.set (fun _ => DieState.init) d v }

def State.stk (s : State) (k : Nat) : StackState := s.hbmCtls.get (fun _ => StackState.init) k
def State.setStk (s : State) (k : Nat) (v : StackState) : State :=
  { s with hbmCtls := s.hbmCtls.set (fun _ => StackState.init) k v }

def State.ctx (s : State) (x : Nat) : CtxRec := s.ctxs.recs.get (fun _ => CtxRec.init) x
def State.setCtx (s : State) (x : Nat) (v : CtxRec) : State :=
  { s with ctxs := { s.ctxs with recs := s.ctxs.recs.set (fun _ => CtxRec.init) x v } }

/-- The die cycle counter takes the latest cycle a command of the die has named. -/
def State.clock (s : State) (d x : Nat) : State :=
  let v := s.die d
  if v.now < x then s.setDie d { v with now := x } else s

def dieOf (p : Nat) : Nat := p / 32

/-- AO ticks of a microsecond and of a millisecond (40 ns each). -/
def ticksUs (n : Nat) : Nat := 25 * n
def ticksMs (n : Nat) : Nat := 25000 * n

/-- Clock of a die in MHz at its present operating point (R173). -/
def State.mhz (s : State) (d : Nat) : Nat := oppMhz (s.f (R.CLK_STAT d) F.CLK_STAT_OPP_NOW)

/-- Count `n` events of a class of the power model on a die (R179). -/
def State.energy (s : State) (d k n : Nat) : State :=
  let v := s.die d
  s.setDie d { v with counts := v.counts.set (fun _ => 0) k (v.counts.get (fun _ => 0) k + n) }

/-- What a step answers. -/
abbrev Res := Host.Outcome State Fault Refusal

/-- The effect of a command that can occur, or its refusal by name. -/
def State.when (g : Bool) (why : String) (t : State) : Res :=
  if g then .next t else .refused (.notEnabled why)

/-- The same of a command whose operands must be well formed. -/
def State.whenWf (w g : Bool) (why : String) (t : State) : Res :=
  if w then State.when g why t else .refused .illFormed

/-! ### Kensil addresses (R28 to R31) -/

def kNode (a : Nat) : Nat := bitsOf a 46 18
def kSpace (a : Nat) : Nat := bitsOf a 44 2
def kOff (a : Nat) : Nat := bitsOf a 0 44

/-- An address from its fields. -/
def kAddr (node space off : Nat) : Nat := node % 2 ^ 18 * 2 ^ 46 + space % 4 * 2 ^ 44 + off % 2 ^ 44

/-- The stack and stack-local address of die d's offset L (R31, R111). -/
def State.hbmPlace (s : State) (d l : Nat) : Nat × Nat :=
  let j := bitsOf l 32 6
  if s.bit (R.HBM_NI_MASK (4 * d)) j then (4 * d + bitsOf l 30 2, j * 2 ^ 30 + bitsOf l 0 30)
  else (4 * d + bitsOf l 13 2, bitsOf l 15 23 * 8192 + bitsOf l 0 13)

/-- The pseudo-channel, bank and row of a stack-local address (R110). -/
def pcOf (a : Nat) : Nat := bitsOf (a / 8192) 2 6
def bankOf (a : Nat) : Nat := bitsOf (a / 8192) 8 5
def rowOf (a : Nat) : Nat := bitsOf (a / 8192) 13 10

/-! ### Memories -/

/-- Where a stack-local address lies once PCp's redirection is active (R295): its tile moves to the repair group of
another pseudo-channel, in the same bank and slot. -/
def State.phys (s : State) (k a : Nat) : Nat :=
  let r := R.HBM_PC_REDIR k
  let p := s.f r F.HBM_PC_REDIR_PC
  let grp := s.f r F.HBM_PC_REDIR_GROUP
  let g := rowOf a / 16
  if s.f r F.HBM_PC_REDIR_EN = 1 ∧ pcOf a = p ∧ g ≠ grp then
    let i := if g < grp then g else g - 1
    let q := if i < p then i else i + 1
    let row := 16 * grp + rowOf a % 16
    (a / 8192 % 4 + q * 4 + bankOf a * 256 + row * 8192) * 8192 + a % 8192
  else a

/-- What an unlisted byte reads as (log 2). -/
def zeroByte : Nat → Byte := fun _ => 0

def hbmKey (stk a : Nat) : Nat := stk * 2 ^ 36 + a % 2 ^ 36
def spadKey (p off : Nat) : Nat := p * 2 ^ 23 + off % 2 ^ 23

/-- A byte of a unit that no access has written since: as never written, or unspecified where the unit is among those
whose fence was lifted. -/
def restByte (lifted : NMap Nat) (unit key : Nat) : Byte :=
  match lifted.look unit with
  | none => zeroByte key
  | some n => Config.freeByte n key

/-- What an unlisted byte of a stack, and of a scratchpad, reads as. -/
def State.hbmRest (s : State) : Nat → Byte := fun k => restByte s.liftedPcs (64 * (k / 2 ^ 36) + pcOf (k % 2 ^ 36)) k
def State.spadRest (s : State) : Nat → Byte := fun k => restByte s.liftedCores (k / 2 ^ 23) k

/-- A byte of a stack as its cells hold it. -/
def State.hbmByte (s : State) (stk a : Nat) : Byte := NMap.get s.hbmRest s.hbm (hbmKey stk (s.phys stk a))

def State.setHbmByte (s : State) (stk a : Nat) (b : Byte) : State :=
  { s with hbm := NMap.set s.hbmRest s.hbm (hbmKey stk (s.phys stk a)) b }

/-- A byte of a core's scratchpad: a line confirmed zero reads as zero whatever its bank holds (R108). -/
def State.spadByte (s : State) (p off : Nat) : Byte :=
  if (s.ae p).zconf.contains (off % 2 ^ 23 / 128) then 0
  else NMap.get s.spadRest s.spad (spadKey p off)

/-- Write a byte of a core's scratchpad; its line is no longer read as confirmed zero (R108). -/
def State.setSpadByte (s : State) (p off : Nat) (b : Byte) : State :=
  let v := s.ae p
  let line := off % 2 ^ 23 / 128
  let s := if v.zconf.contains line then s.setAe p { v with zconf := v.zconf.filter (· ≠ line) } else s
  { s with spad := NMap.set s.spadRest s.spad (spadKey p off) b }

def State.spadBytes (s : State) (p off n : Nat) : List Byte := (List.range n).map fun i => s.spadByte p (off + i)

/-- Write bytes at rising offsets, modulo the core's 8 MiB. -/
def State.setSpadBytes (s : State) (p : Nat) : (off : Nat) → List Byte → State
  | _, [] => s
  | off, b :: bs => (s.setSpadByte p off b).setSpadBytes p (off + 1) bs

def State.hbmBytes (s : State) (stk a n : Nat) : List Byte := (List.range n).map fun i => s.hbmByte stk (a + i)

def State.setHbmBytes (s : State) (stk : Nat) : (a : Nat) → List Byte → State
  | _, [] => s
  | a, b :: bs => (s.setHbmByte stk a b).setHbmBytes stk (a + 1) bs

/-- The zero bit of a scratchpad line: every byte reads zero (R108). -/
def State.lineZero (s : State) (p line : Nat) : Bool :=
  (List.range 128).all fun i => s.spadByte p (128 * line + i) == 0

/-- The zero-map bit of a square slot: the AND of its 64 lines (R108). -/
def State.slotZero (s : State) (p slot : Nat) : Bool :=
  (List.range 64).all fun r => s.lineZero p (slot % 1024 * 64 + r)

/-- A number from bytes, the first least significant (R6). -/
def leNat : List Byte → Nat
  | [] => 0
  | b :: bs => b.toNat + 256 * leNat bs

/-- The `n` bytes of a number, least significant first (R6). -/
def leBytes : (n : Nat) → Nat → List Byte
  | 0, _ => []
  | n + 1, v => BitVec.ofNat 8 v :: leBytes n (v / 256)

/-- A number from bytes, the first most significant. -/
def beNat (bs : List Byte) : Nat := bs.foldl (fun v b => v * 256 + b.toNat) 0

/-- The part of a list from `off`, `n` long. -/
def slice {α : Type} (l : List α) (off n : Nat) : List α := (l.drop off).take n

/-- The number in `n` bytes of a byte string from an offset. -/
def fieldAt (l : List Byte) (off n : Nat) : Nat := leNat (slice l off n)

/-! ### Die-local HBM with its zero map (R109) -/

/-- Is the stack tile's zero-map bit 1? -/
def State.zmapBit (s : State) (stk tile : Nat) : Bool := (s.stk stk).zmap.get (fun _ => false) tile

def State.setZmap (s : State) (stk tile : Nat) (b : Bool) : State :=
  let v := s.stk stk
  s.setStk stk { v with zmap := v.zmap.set (fun _ => false) tile b }

/-- Write bytes to a stack with the zero map (R109): a whole tile of zeros sets its bit, any other write clears it.
The bytes lie in one tile. Writing a code word also ends an injected corruption of it (R345). -/
def State.stackWrite (s : State) (stk a : Nat) (bs : List Byte) : State :=
  let s := s.setHbmBytes stk a bs
  let s := s.setZmap stk (a / 8192) (bs.length == 8192 && a % 8192 == 0 && bs.all (· == 0))
  let v := s.stk stk
  if v.bad.isEmpty then s
  else s.setStk stk { v with bad := v.bad.drop fun w => decide (a ≤ w * 32 + 31 ∧ w * 32 < a + bs.length) }

/-- Read bytes of die d's HBM from a die-local offset. -/
def State.dieBytes (s : State) (d l n : Nat) : List Byte :=
  (List.range n).map fun i => let q := s.hbmPlace d ((l + i) % 2 ^ 38); s.hbmByte q.1 q.2

/-- Cut a range into the pieces that lie within one 8 KiB tile each: offset and length. -/
def tilePieces : (fuel off len : Nat) → List (Nat × Nat)
  | 0, _, _ => []
  | k + 1, off, len =>
    if len = 0 then []
    else
      let n := min len (8192 - off % 8192)
      (off, n) :: tilePieces k (off + n) (len - n)

/-- Write bytes to die d's HBM from a die-local offset, tile by tile. -/
def State.dieWrite (s : State) (d l : Nat) (bs : List Byte) : State :=
  (tilePieces (bs.length / 8192 + 2) l bs.length).foldl
    (fun (s : State) (q : Nat × Nat) =>
      let w := s.hbmPlace d (q.1 % 2 ^ 38)
      s.stackWrite w.1 w.2 (slice bs (q.1 - l) q.2)) s

/-! ### Tenancies and units -/

/-- The admitted tenancy that holds a die (R302). -/
def State.tenOfDie (s : State) (d : Nat) : Option Nat :=
  (List.range 8).find? fun t => s.f (R.TEN_T_CFG t) F.TEN_T_CFG_VALID == 1 && bitOf (s.f (R.TEN_T_CFG t) F.TEN_T_CFG_DIES) d

/-- The dies a tenancy holds. -/
def State.diesOf (s : State) (t : Nat) : List Nat :=
  (List.range 8).filter fun d =>
    s.f (R.TEN_T_CFG t) F.TEN_T_CFG_VALID == 1 && bitOf (s.f (R.TEN_T_CFG t) F.TEN_T_CFG_DIES) d

/-- The cores a tenancy holds, by package position. -/
def State.coresOf (s : State) (t : Nat) : List Nat :=
  (s.diesOf t).flatMap fun d => (List.range 32).map fun c => 32 * d + c

/-- The unit kinds of R340. -/
abbrev kPackage := 0
abbrev kDie := 1
abbrev kCluster := 2
abbrev kCore := 3
abbrev kEngine := 4
abbrev kStack := 5
abbrev kPc := 6
abbrev kScribe := 7
abbrev kLinkDie := 8
abbrev kPort := 9
abbrev kLane := 10
abbrev kSublink := 11
abbrev kEth := 12
abbrev kFp0 := 13
abbrev kCtx := 14
abbrev kTen := 15

/-- The compute die a unit sits on. -/
def unitDie (kind idx : Nat) : Option Nat :=
  match kind with
  | 1 => some idx
  | 2 => some (idx / 4)
  | 3 => some (idx / 32)
  | 4 => some (idx / 96)
  | 5 => some (idx / 4)
  | 6 => some (idx / 256)
  | 7 => some (idx / 4)
  | _ => none

/-- The ring a unit's records go to (R340). -/
def unitRing (kind idx : Nat) : Nat :=
  match kind with
  | 8 => 8 + idx % 2
  | 9 => 8 + idx / 8 % 2
  | 10 => 8 + idx / 32 % 2
  | 11 =>
    let l := idx / 4
    if l < 3 then l else if l < 6 then l + 1 else if l < 10 then l - 6 else if l < 12 then 8 else 9
  | 12 => 8 + idx / 2 % 2
  | 14 => 8 + idx % 2
  | k => match unitDie k idx with | some d => d % 8 | none => 8

/-- The tenancy that holds a unit or context. -/
def State.unitTen (s : State) (kind idx : Nat) : Option Nat :=
  match kind with
  | 14 => if (s.ctx idx).alloc then some ((s.ctx idx).ten % 8) else none
  | 15 => some (idx % 8)
  | k => match unitDie k idx with | some d => s.tenOfDie d | none => none

/-! ### Job states (R280) and the palimpsest's changes (R23, R331) -/

abbrev jRunning := 0
abbrev jStopping := 1
abbrev jHeld := 2
abbrev jRestoring := 3
abbrev jVerifying := 4
abbrev jNone := 5
abbrev jPreempted := 6

def State.jobState (s : State) (t : Nat) : Nat := s.f (R.SNP_T_STAT t) F.SNP_T_STAT_JOB_STATE

def State.setLastStatus (s : State) (t v : Nat) : State := s.setF (R.SNP_T_STAT t) F.SNP_T_STAT_LAST_STATUS v

/-- The replay a heat is in at die cycle x, from 0. -/
def RunHeat.replayAt (r : RunHeat) (x : Nat) : Nat :=
  match r.start with
  | some st => (x - st) / (r.body + 8)
  | none => 0

/-- A running heat is to end with the patch window of its present replay (R161, R280). -/
def DieState.stopHeat (v : DieState) : DieState :=
  { v with run := v.run.map fun r => { r with replays := min r.replays (r.replayAt v.now + 1) } }

/-- A running heat of the tenancy ends with its present replay's patch window. -/
def State.endHeats (s : State) (t : Nat) : State :=
  (s.diesOf t).foldl (fun (s : State) d => s.setDie d (s.die d).stopHeat) s

/-- The palimpsest's entry for a register takes the register's value in the SRAM of both link dies (R23). -/
def Palimpsest.put (pl : Palimpsest) (isHealth : Bool) (a : Nat) (v : Word) : Palimpsest :=
  if isHealth then { pl with health := NMap.ins pl.health a v, seq := pl.seq + 1 }
  else { pl with tunable := NMap.ins pl.tunable a v, seq := pl.seq + 1 }

def State.palPut (s : State) (isHealth : Bool) (a : Nat) : State :=
  let s := if s.pals.any (·.isSome) then s.bump R.BH_PAL_SEQ 1 else s
  { s with pals := s.pals.map fun o => o.map fun pl => Palimpsest.put pl isHealth a (s.rd a), mirrorDue := s.mirrorDue || isHealth }

/-! ### Error records (R339 to R343) -/

/-- How a detector records and what it does by default (R342): class (0 C, 1 E, 2 R, 3 P), first per window,
threshold count (0: none), window in seconds, action. -/
structure Detector where
  cls : Nat
  first : Bool
  count : Nat
  window : Nat
  action : Nat
deriving DecidableEq, Repr

def detector (k : Nat) : Option Detector :=
  match k with
  | 0x01 => some ⟨0, false, 1000, 3600, 0⟩
  | 0x02 => some ⟨0, false, 16, 86400, 1⟩
  | 0x03 => some ⟨2, false, 0, 0, 0⟩
  | 0x08 => some ⟨0, false, 100, 3600, 1⟩
  | 0x09 => some ⟨2, false, 0, 0, 0⟩
  | 0x0A => some ⟨0, false, 100, 3600, 1⟩
  | 0x0B => some ⟨2, false, 0, 0, 0⟩
  | 0x0C => some ⟨0, false, 100, 3600, 1⟩
  | 0x0D => some ⟨2, false, 0, 0, 0⟩
  | 0x10 => some ⟨0, false, 600000000, 60, 1⟩
  | 0x11 => some ⟨1, true, 64, 60, 0⟩
  | 0x12 => some ⟨1, true, 64, 60, 0⟩
  | 0x13 => some ⟨1, false, 0, 0, 0⟩
  | 0x14 => some ⟨1, false, 0, 0, 0⟩
  | 0x15 => some ⟨0, false, 1000, 60, 1⟩
  | 0x18 => some ⟨1, false, 0, 0, 0⟩
  | 0x19 => some ⟨1, true, 0, 60, 0⟩
  | 0x1A => some ⟨1, false, 0, 0, 0⟩
  | 0x1B => some ⟨1, false, 0, 0, 0⟩
  | 0x1C => some ⟨1, false, 0, 0, 0⟩
  | 0x1D => some ⟨1, true, 0, 60, 0⟩
  | 0x1E => some ⟨1, false, 0, 0, 0⟩
  | 0x20 => some ⟨1, false, 0, 0, 0⟩
  | 0x21 => some ⟨1, false, 0, 0, 0⟩
  | 0x22 => some ⟨1, false, 0, 0, 0⟩
  | 0x23 => some ⟨2, false, 0, 0, 0⟩
  | 0x24 => some ⟨1, false, 0, 0, 0⟩
  | 0x28 => some ⟨1, false, 0, 0, 0⟩
  | 0x29 => some ⟨1, false, 0, 0, 0⟩
  | 0x2A => some ⟨1, false, 0, 0, 0⟩
  | 0x2B => some ⟨1, true, 0, 60, 0⟩
  | 0x30 => some ⟨2, false, 0, 0, 0⟩
  | 0x31 => some ⟨1, false, 0, 0, 0⟩
  | 0x32 => some ⟨1, false, 0, 0, 0⟩
  | 0x33 => some ⟨1, false, 0, 0, 0⟩
  | 0x38 => some ⟨1, false, 0, 0, 0⟩
  | 0x39 => some ⟨1, false, 0, 0, 0⟩
  | 0x3A => some ⟨1, false, 0, 0, 0⟩
  | 0x3B => some ⟨3, false, 0, 0, 0⟩
  | 0x3C => some ⟨2, false, 0, 0, 0⟩
  | 0x3D => some ⟨1, false, 0, 0, 0⟩
  | 0x3E => some ⟨1, false, 0, 0, 0⟩
  | 0x3F => some ⟨3, false, 0, 0, 0⟩
  | 0x40 => some ⟨0, false, 1000, 60, 0⟩
  | 0x41 => some ⟨1, false, 0, 0, 0⟩
  | 0x42 => some ⟨0, false, 100, 60, 0⟩
  | 0x43 => some ⟨1, false, 0, 0, 0⟩
  | 0x48 => some ⟨1, false, 0, 0, 0⟩
  | 0x49 => some ⟨1, false, 0, 0, 0⟩
  | 0x4A => some ⟨1, false, 0, 0, 0⟩
  | 0x4B => some ⟨1, false, 0, 0, 0⟩
  | 0x4C => some ⟨1, false, 0, 0, 0⟩
  | 0x50 => some ⟨1, false, 0, 0, 0⟩
  | 0x51 => some ⟨2, false, 0, 0, 0⟩
  | 0x52 => some ⟨1, false, 0, 0, 0⟩
  | _ => none

/-- The threshold of a detector: count (0: none), window in seconds and action, from the copybook's entry or the
default (R343). -/
def State.threshold (s : State) (k : Nat) : Nat × Nat × Nat :=
  match s.errs.thresholds.look k with
  | some e => e
  | none => match detector k with
    | some d => (d.count, d.window, d.action)
    | none => (0, 0, 0)

/-- What an occurrence names (R339): detector, unit kind and index, details, location, and whether an injection took
part. -/
structure Occ where
  det : Nat
  kind : Nat
  idx : Nat
  d0 : Nat
  d1 : Nat
  loc : Nat
  inj : Bool
  noThresh : Bool
  cls : Option Nat
deriving DecidableEq, Repr

/-- An occurrence with its class as R342 gives it. -/
def occ (det kind idx : Nat) (d0 : Nat := 0) (d1 : Nat := 0) (loc : Nat := 0) : Occ :=
  ⟨det, kind, idx, d0, d1, loc, false, false, none⟩

def unitKey (det kind idx : Nat) : Nat := det * 2 ^ 24 + kind * 2 ^ 20 + idx

def Occ.cl (o : Occ) : Nat := match o.cls with
  | some c => c
  | none => match detector o.det with | some d => d.cls | none => 1

/-- Write one record to its ring (R339, R341). -/
def State.ringWrite (s : State) (o : Occ) (action : Nat) : State :=
  let r := unitRing o.kind o.idx
  let wa := R.ERR_RING_WSEQ r
  let seq := s.f wa F.ERR_RING_WSEQ_SEQ + 1
  let lost := decide (4096 < seq) && decide (s.f (R.ERR_RING_ACK r) F.ERR_RING_ACK_ACK < seq - 4096)
  let b (x : Bool) (n : Nat) : Nat := if x then 2 ^ n else 0
  let w0 := seq % 2 ^ 40 + o.cl * 2 ^ 40 + action * 2 ^ 42 + b o.inj 44 + b lost 45 + o.det * 2 ^ 48
  let ten := s.unitTen o.kind o.idx
  let heat := match unitDie o.kind o.idx with
    | some d => match (s.die d).run with | some h => h.heat | none => 0xFFFF
    | none => 0xFFFF
  let w2 := o.kind % 16 + o.idx % 2 ^ 20 * 2 ^ 8 + (match ten with | some t => t % 8 * 2 ^ 28 + 2 ^ 31 | none => 0)
    + heat * 2 ^ 32
  let key := unitKey o.det o.kind o.idx
  let rep := s.errs.repeats.get (fun _ => 0) key
  let w (n : Nat) : Word := BitVec.ofNat 64 n
  let rec_ : ErrRec := ⟨w w0, w s.time, w w2, w o.loc, w o.d0, w o.d1, w (rep % 2 ^ 32)⟩
  let s := { s with errs := { s.errs with
    recs := s.errs.recs.set (fun _ => ErrRec.init) (4096 * r + seq % 4096) rec_,
    repeats := s.errs.repeats.set (fun _ => 0) key 0 } }
  let s := s.setF wa F.ERR_RING_WSEQ_SEQ seq
  let s := if lost then s.setBit R.ERR_EVENT r true else s
  if 2 ≤ o.cl then s.setBit R.ERR_EVENT (10 + r) true else s

/-- A snapshot of the tenancy that is in progress is abandoned, and with it an image being copied (R280). -/
def State.abandonSnap (s : State) (t : Nat) : State :=
  match s.snaps.look t with
  | some r =>
    let s := { s with
      snaps := s.snaps.del t
      maint := { s.maint with running := s.maint.running.filter fun q => !(q.act == 6 && q.scope == t) }
      ten := { s.ten with images := if r.phase = 4 then s.ten.images.del t else s.ten.images } }
    let s := if r.maint then (s.setF R.MNT_STAT F.MNT_STAT_LAST 4).bump R.SNP_CNT_FAILED 1 else s
    let s := (s.setLastStatus t 9).setF R.SNP_EVENT F.SNP_EVENT_ABORTED 1
    s.bump (R.ERR_CNT 0x50) 1 |>.ringWrite (occ 0x50 kTen t 5) 0
  | none => s

/-- A job enters recovery with a cause (R280). A cause while the job is already in recovery, or with no job, changes
nothing. -/
def State.recover (s : State) (t cause : Nat) : State :=
  if s.jobState t = jRunning ∨ s.jobState t = jPreempted then
    let s := s.setF (R.SNP_T_STAT t) F.SNP_T_STAT_JOB_STATE jStopping
    let s := s.setF (R.SNP_T_STAT t) F.SNP_T_STAT_CAUSE cause
    (s.endHeats t).abandonSnap t
  else s

/-- The job that holds a die enters recovery. -/
def State.recoverDie (s : State) (d cause : Nat) : State :=
  match s.tenOfDie d with
  | some t => s.recover t cause
  | none => s

/-! ### Fences (R294, R295) -/

def State.coreFenced (s : State) (p : Nat) : Bool :=
  s.bit (R.MNT_FENCE_CORE (p / 64)) (p % 64) || bitOf (s.f R.MNT_FENCE_UNIT F.MNT_FENCE_UNIT_CLUSTER) (p / 8)

def State.stackFenced (s : State) (k : Nat) : Bool := bitOf (s.f R.MNT_FENCE_STACK F.MNT_FENCE_STACK_STACK) k
def State.scribeFenced (s : State) (k : Nat) : Bool := bitOf (s.f R.MNT_FENCE_UNIT F.MNT_FENCE_UNIT_SCRIBE) k
def State.pcFenced (s : State) (k pc : Nat) : Bool := s.bit (R.HBM_PC_FENCE k) pc
def State.portFenced (s : State) (p : Nat) : Bool :=
  bitOf (s.f R.MNT_FENCE_STACK F.MNT_FENCE_STACK_PORT) p ||
    bitOf (s.f R.MNT_FENCE_STACK F.MNT_FENCE_STACK_LINKDIE) (p / 8)
def State.sublinkFenced (s : State) (i : Nat) : Bool := s.bit R.MNT_FENCE_SUBLINK i

/-- Does an in-package link still carry traffic (R27)? Links are numbered as in MNT_FENCE_SUBLINK. -/
def State.linkUp (s : State) (l : Nat) : Bool := (List.range 4).any fun j => !s.sublinkFenced (4 * l + j)

/-- A tree entry (R235). -/
def State.tree (s : State) (n : Nat) : McTree := s.fab.trees.get (fun _ => McTree.init) n
def State.setTree (s : State) (n : Nat) (v : McTree) : State :=
  { s with fab := { s.fab with trees := s.fab.trees.set (fun _ => McTree.init) n v } }

/-- A port becomes unusable: every tree that forwards on it prunes it (R236). -/
def State.prunePort (s : State) (p : Nat) : State :=
  let cut (e : Nat × McTree) : Nat × McTree :=
    if e.2.valid && bitOf e.2.out p then (e.1, { e.2 with pruned := e.2.pruned ||| 2 ^ p }) else e
  { s with fab := { s.fab with trees := s.fab.trees.map cut } }

/-- A port is fenced (R212, R294). -/
def State.portDown (s : State) (p : Nat) : State :=
  let s := s.setF (R.FAB_PORT_STAT p) F.FAB_PORT_STAT_STATE 3
  let s := s.setF (R.FAB_PORT_STAT p) F.FAB_PORT_STAT_LG_ACTIVE 0
  (s.setF R.FAB_EVENT F.FAB_EVENT_PORT_DOWN 1).prunePort p

/-- How many of a stack's pseudo-channels are fenced. -/
def State.pcFencedCount (s : State) (k : Nat) : Nat := ((List.range 64).filter fun i => s.pcFenced k i).length

/-- Is a backing copy of the context records within reach: its die powered, and no stack or pseudo-channel that holds part
of it fenced (R230)? Its 64 MiB lie in every pseudo-channel of the die's four stacks. -/
def State.copyReach (s : State) (c : Nat) : Bool :=
  let d := if c = 0 then 0 else 7
  s.power.die.toNat.testBit d && !(s.die d).thermalOff && (List.range 4).all fun j =>
    let k := 4 * d + j
    !s.stackFenced k && (List.range 64).all fun i => !s.pcFenced k i ||
      (s.f (R.HBM_PC_REDIR k) F.HBM_PC_REDIR_EN == 1 && s.f (R.HBM_PC_REDIR k) F.HBM_PC_REDIR_PC == i)

/-- A copy out of reach is used no more until it has been written again (R230). -/
def State.copyCheck (s : State) : State :=
  { s with ctxs := { s.ctxs with copyOk := (s.ctxs.copyOk.1 && s.copyReach 0, s.ctxs.copyOk.2 && s.copyReach 1) } }

/-- A fenced scribe, or that of a fenced stack, runs its pass no further (R279). -/
def State.killScribe (s : State) (k : Nat) : State :=
  let a := R.SCB_STAT k
  { s with scribes := s.scribes.del k }.setF a F.SCB_STAT_BUSY 0

/-- May the starter choose heats of a tenancy: its job runs and has not been told to end, and no snapshot, pre-emption or
restore has stopped its choice (R280, R282, R285, R310)? -/
def State.choiceOpen (s : State) (t : Nat) : Bool :=
  s.jobState t == jRunning && (s.snaps.look t).isNone && (match s.ten.jobs.look (2 * t) with
    | some j => j.endCode.isNone
    | none => true)

/-- A core of a loaded module, or a die that holds one (R155). -/
def State.coreMapped (s : State) (p : Nat) : Bool := s.f (R.COX_SELF p) F.COX_SELF_MAPPED == 1
def State.dieMapped (s : State) (d : Nat) : Bool := (List.range 32).any fun c => s.coreMapped (32 * d + c)

/-- The job that uses a fenced unit of a die enters recovery (R294). -/
def State.recoverUse (s : State) (used : Bool) (d : Nat) : State := if used then s.recoverDie d 6 else s

/-- Fence a unit, named as R340 names it: it takes effect at once, it is recorded in the fence map of the palimpsest,
and every job that uses a core, cluster, pseudo-channel, stack or scribe so fenced enters recovery (R294). -/
def State.fenceUnit0 (s : State) (kind idx : Nat) : State :=
  let s := if 2 ≤ kind ∧ kind ≤ 11 then s.setF R.MNT_EVENT F.MNT_EVENT_FENCE_ADDED 1 else s
  match kind with
  | 2 =>
    let s := (s.setBit R.MNT_FENCE_UNIT idx true).palPut true R.MNT_FENCE_UNIT
    s.recoverUse ((List.range 8).any fun i => s.coreMapped (8 * idx + i)) (idx / 4)
  | 3 =>
    let a := R.MNT_FENCE_CORE (idx / 64)
    ((s.setBit a (idx % 64) true).palPut true a).recoverUse (s.coreMapped idx) (idx / 32)
  | 4 =>
    let p := idx / 3
    let a := R.MNT_FENCE_CORE (p / 64)
    ((s.setBit a (p % 64) true).palPut true a).recoverUse (s.coreMapped p) (p / 32)
  | 5 => (((s.killScribe idx).setBit R.MNT_FENCE_STACK idx true).palPut true R.MNT_FENCE_STACK).recoverUse (s.dieMapped (idx / 4)) (idx / 4)
  | 6 =>
    let k := idx / 64
    let a := R.HBM_PC_FENCE k
    let s := (s.setBit a (idx % 64) true).palPut true a
    let s := s.setF (R.HBM_STAT k) F.HBM_STAT_PC_FENCED (s.pcFencedCount k)
    let s := if 2 ≤ s.pcFencedCount k then
        ((s.killScribe k).setBit R.MNT_FENCE_STACK k true).palPut true R.MNT_FENCE_STACK else s
    s.recoverUse (s.dieMapped (k / 4)) (k / 4)
  | 7 => (((s.killScribe idx).setBit R.MNT_FENCE_UNIT (32 + idx) true).palPut true R.MNT_FENCE_UNIT).recoverUse (s.dieMapped (idx / 4)) (idx / 4)
  | 8 =>
    let s := (s.setBit R.MNT_FENCE_STACK (32 + idx) true).palPut true R.MNT_FENCE_STACK
    (List.range 8).foldl (fun (s : State) i => s.portDown (8 * idx + i)) s
  | 9 => ((s.setBit R.MNT_FENCE_STACK (34 + idx) true).palPut true R.MNT_FENCE_STACK).portDown idx
  | 10 =>
    let a := R.FAB_PORT_CTL (idx / 4)
    let s := (s.setF a F.FAB_PORT_CTL_LG_FENCE (s.f a F.FAB_PORT_CTL_LG_FENCE ||| 2 ^ (idx % 4))).palPut true a
    let s := s.setF (R.FAB_PORT_STAT (idx / 4)) F.FAB_PORT_STAT_LG_ACTIVE
      (s.f (R.FAB_PORT_STAT (idx / 4)) F.FAB_PORT_STAT_LG_ACTIVE &&& (15 - 2 ^ (idx % 4)))
    let s := s.setF R.FAB_EVENT F.FAB_EVENT_PORT_DEGRADED 1
    if s.f a F.FAB_PORT_CTL_LG_FENCE = 15 then s.portDown (idx / 4) else s
  | 11 =>
    let s := (s.setBit R.MNT_FENCE_SUBLINK idx true).palPut true R.MNT_FENCE_SUBLINK
    let ld := if 48 ≤ idx then 1 else 0
    if 40 ≤ idx && !s.linkUp (10 + 2 * ld) && !s.linkUp (11 + 2 * ld) then
      let s := (s.setBit R.MNT_FENCE_STACK (32 + ld) true).palPut true R.MNT_FENCE_STACK
      (List.range 8).foldl (fun (s : State) i => s.portDown (8 * ld + i)) s
    else s
  | _ => s

/-- The same, and what it means for the backing copies of the context records. -/
def State.fenceUnit (s : State) (kind idx : Nat) : State := (s.fenceUnit0 kind idx).copyCheck

/-! ### Recording an occurrence (R341 to R343) -/

/-- Take a threshold's or a class's action at a unit: 1 fence, 2 recovery. -/
def State.takeAction (s : State) (o : Occ) (action cause : Nat) : State :=
  if action = 1 then s.fenceUnit o.kind o.idx
  else if action = 2 then match s.unitTen o.kind o.idx with
    | some t => s.recover t cause
    | none => s
  else s

/-- Is a window of a detector at a unit open now (R343)? -/
def State.windowAt (s : State) (o : Occ) : Option ThrWin :=
  s.errs.wins.find? fun w => w.det == o.det && w.kind == o.kind && w.index == o.idx &&
    decide (s.time < w.opened + (s.threshold o.det).2.1 * 25000000)

def State.dropWindow (s : State) (det kind idx : Nat) : State :=
  { s with errs := { s.errs with
    wins := s.errs.wins.filter fun w => !(w.det == det && w.kind == kind && w.index == idx) } }

/-- An occurrence at a detector: it is counted, recorded as its class says, its threshold acts when reached, and a
class R occurrence sends the unit's job into recovery with the cause given (7 where its rule gives none). `weight` is
what its window counts, more than one where one event reports several corrected symbols. -/
def State.record (s : State) (o : Occ) (cause : Nat := 7) (weight : Nat := 1) : State :=
  match detector o.det with
  | none => s
  | some d =>
    let s := s.bump (R.ERR_CNT o.det) 1
    let thr := s.threshold o.det
    let win := s.windowAt o
    let n := (match win with | some w => w.count | none => 0) + (if o.noThresh then 0 else weight)
    let opened := match win with | some w => w.opened | none => s.time
    let s := s.dropWindow o.det o.kind o.idx
    let reached := decide (thr.1 ≠ 0) && decide (thr.1 ≤ n)
    let s := if thr.2.1 = 0 ∨ reached then s
      else { s with errs := { s.errs with wins := s.errs.wins ++ [⟨o.det, o.kind, o.idx, n, opened⟩] } }
    let perWindow := o.cl == 0 || d.first
    let act := if o.cl = 2 then 2 else if o.cl = 3 then 3 else 0
    let s :=
      if perWindow && win.isSome then
        let key := unitKey o.det o.kind o.idx
        { s with errs := { s.errs with
          repeats := s.errs.repeats.set (fun _ => 0) key (s.errs.repeats.get (fun _ => 0) key + 1) } }
      else s.ringWrite o act
    let s := if reached then
        let s := s.ringWrite o thr.2.2
        let s := s.setBit R.ERR_EVENT 20 true
        s.takeAction o thr.2.2 cause
      else s
    if o.cl = 2 then s.takeAction o 2 cause else s

/-! ### Injection (R345) -/

/-- Does an armed point of a detector cover this unit and address? It then fires: FIRED is set, the firing is counted,
and the point is disarmed or waits for its next period. The syndrome is answered. -/
def State.inject (s : State) (k kind idx : Nat) (addr : Nat := 0) : Option Nat × State :=
  let c := R.INJ_P_CTL k
  if s.f c F.INJ_P_CTL_ARM = 0 then (none, s)
  else
    let t := R.INJ_P_TGT k
    let ad := (s.rd (R.INJ_P_ADDR k)).toNat
    let periodic := s.f c F.INJ_P_CTL_PERIODIC = 1
    let due := !decide periodic || decide (s.errs.nextFire.get (fun _ => 0) k ≤ s.time)
    if s.f t F.INJ_P_TGT_KIND = kind ∧ s.f t F.INJ_P_TGT_INDEX = idx ∧ (ad = 0 ∨ ad = addr) ∧ due = true then
      let syn := s.f c F.INJ_P_CTL_SYN
      let n := s.f c F.INJ_P_CTL_COUNT
      let s := s.setF c F.INJ_P_CTL_FIRED 1
      let s := s.bump R.INJ_CNT_FIRED 1
      let last := !decide periodic || n == 1
      let s := if periodic ∧ n ≠ 0 then s.setF c F.INJ_P_CTL_COUNT (n - 1) else s
      let s := if last then
          (s.setF c F.INJ_P_CTL_ARM 0).setF R.INJ_STAT F.INJ_STAT_ARMED (s.f R.INJ_STAT F.INJ_STAT_ARMED - 1)
        else
          let due := s.time + s.f (R.INJ_P_PERIOD k) F.INJ_P_PERIOD_PERIOD
          { s with errs := { s.errs with nextFire := s.errs.nextFire.set (fun _ => 0) k due } }
      (some syn, s)
    else (none, s)

/-- An injected occurrence, with the mark its point gives it. -/
def State.injected (s : State) (o : Occ) : Occ :=
  { o with inj := true, noThresh := s.f (R.INJ_P_CTL o.det) F.INJ_P_CTL_NOTHRESH = 1 }

/-- The next free value's index. -/
def State.tick (s : State) : Nat × State := (s.free, { s with free := s.free + 1 })

end Sys2Proof.Machine
end

