-- ==== Sys2Proof/Machine/Arbiter.lean ====
section
/-! DEFINITION. The maintenance arbiter's queue (R298, R299): which requests conflict, and what a request meets. -/

namespace Sys2Proof.Machine

open Sys2Proof

/-- The kinds of image a live patch carries (R317): 1 boathouse firmware, 2 translator, 3 scribe microcode. -/
def MaintReq.imageKind (r : MaintReq) : Nat := match r.image with | some i => i.kind | none => 0

/-- Do two activities conflict where their scopes overlap (R298)? -/
def maintMatrix (a b : MaintReq) : Bool :=
  let one (a b : MaintReq) : Bool :=
    match a.act, b.act with
    | 1, 1 => true
    | 1, 2 => true
    | 1, 5 => b.imageKind == 1
    | 2, 2 => true
    | 2, 5 => b.imageKind == 1 || b.imageKind == 3
    | 2, 6 => true
    | 3, 3 => true
    | 3, 4 => true
    | 3, 5 => b.imageKind == 1
    | 4, 4 => true
    | 4, 5 => b.imageKind == 1
    | 5, 5 => true
    | 5, 6 => a.imageKind == 3
    | 6, 6 => true
    | _, _ => false
  one a b || one b a

/-- The stacks a request's scope takes in; none for the package, which overlaps every scope. -/
def State.maintStacks (s : State) (r : MaintReq) : Option (List Nat) :=
  match r.act with
  | 1 => some [r.scope]
  | 2 => some [r.scope]
  | 5 => if r.imageKind = 3 then some [r.scope] else none
  | 6 => some ((s.diesOf r.scope).flatMap fun d => [4 * d, 4 * d + 1, 4 * d + 2, 4 * d + 3])
  | _ => none

def State.maintOverlap (s : State) (a b : MaintReq) : Bool :=
  if a.act = 3 ∧ b.act = 3 then a.scope == b.scope
  else match s.maintStacks a, s.maintStacks b with
    | some x, some y => x.any fun k => y.contains k
    | _, _ => true

def State.maintConflict (s : State) (a b : MaintReq) : Bool := maintMatrix a b && s.maintOverlap a b

def State.setMaintLast (s : State) (v : Nat) : State := s.setF R.MNT_STAT F.MNT_STAT_LAST v

/-- A request arrives (R299): it starts (0), is queued DEFERRED (1), or is REFUSED (2) by a full queue. `blocked` holds
where another rule defers it. -/
def State.maintRequest (s : State) (r : MaintReq) (blocked : Bool := false) : Nat × State :=
  let i := s.inject 0x52 kPackage 0
  let s := i.2
  let waits := blocked || (s.maint.running ++ s.maint.queue).any fun q => s.maintConflict r q
  let full := decide (64 ≤ s.maint.queue.length)
  if i.1.isSome || (waits && full) then
    let s := (s.setMaintLast 2).setF R.MNT_EVENT F.MNT_EVENT_REFUSED 1
    let o := occ 0x52 kPackage 0 r.act
    (2, s.record (if i.1.isSome then s.injected o else o))
  else if waits then
    let s := { s with maint := { s.maint with queue := s.maint.queue ++ [r] } }
    (1, (s.setMaintLast 1).bump (R.MNT_CNT_DEFER (r.act - 1)) 1)
  else
    let s := { s with maint := { s.maint with running := s.maint.running ++ [{ r with started := s.time }] } }
    (0, s.setMaintLast 0)

/-- May the queued request at index i start: nothing running or queued ahead of it conflicts? -/
def State.maintReady (s : State) (i : Nat) : Bool :=
  match s.maint.queue[i]? with
  | none => false
  | some r => !(s.maint.running ++ s.maint.queue.take i).any fun q => s.maintConflict r q

/-- An activity ends. -/
def State.maintEnd (s : State) (i : Nat) (ok : Bool) : State :=
  match s.maint.running[i]? with
  | none => s
  | some r =>
    let s := { s with maint := { s.maint with running := s.maint.running.eraseIdx i } }
    let s := s.setMaintLast (if ok then 3 else 4)
    if ok then s.bump (R.MNT_CNT_RUN (r.act - 1)) 1 else s

end Sys2Proof.Machine
end

