-- ==== Sys2Proof/Machine/Flags.lean ====
section
/-! DEFINITION. Flags and completion counters: how a set or a clear of a flag lands (R189 to R193), misuse (R208),
poisoning (R206), the counters of contexts (R195, R196, R202) and the signals pending on them (R199, R200). -/

namespace Sys2Proof.Machine

open Sys2Proof

/-- A flag's state (R189). -/
def State.flag (s : State) (p n : Nat) : Bool := s.bit (R.FLG_STATE p (n / 64)) (n % 64)
def State.setFlagBit (s : State) (p n : Nat) (b : Bool) : State := s.setBit (R.FLG_STATE p (n / 64)) (n % 64) b
def State.poisoned (s : State) (p n : Nat) : Bool := s.bit (R.FLG_POISON p (n / 64)) (n % 64)
def State.level (s : State) (p n : Nat) : Bool := s.bit (R.FLG_LEVEL p (n / 64)) (n % 64)

/-- A misuse of a flag (R208): kind 1 DOUBLE_SET, 2 POISONED_ACCESS, 3 SIGNAL_DROPPED. -/
def State.misuse (s : State) (p n kind src : Nat) : State :=
  let s := s.bump (R.FLG_CNT_MISUSE p) 1
  let s :=
    if s.f (R.FLG_CTL p) F.FLG_CTL_MISUSE_EN = 1 then
      let s := s.setF (R.FLG_EVENT p) F.FLG_EVENT_MISUSE 1
      if s.f (R.FLG_MISUSE_REC p) F.FLG_MISUSE_REC_VALID = 1 then s
      else s.wr (R.FLG_MISUSE_REC p) (BitVec.ofNat 64 (n + kind * 2 ^ 10 + src * 2 ^ 14 + 2 ^ 16))
    else s
  s.record (occ 0x22 kCore p n kind)

/-- What landed on a core's flags in cycle x, so far. -/
def State.landsAt (s : State) (p x : Nat) : List (Nat × Bool × Bool) :=
  if (s.core p).flagAt = x then (s.core p).flagLands else []

def State.noteLand (s : State) (p x n : Nat) (set expl : Bool) : State :=
  let l := s.landsAt p x
  s.setCore p { s.core p with flagAt := x, flagLands := l ++ [(n, set, expl)] }

/-- A race on a flag that loses an explicit clear is kept in FLG_CLR_RACE (R193). -/
def State.flagRace (s : State) (p n : Nat) : State :=
  (s.setBit (R.FLG_CLR_RACE p (n / 64)) (n % 64) true).bump (R.FLG_CNT_CLR_RACE p) 1

/-- A set lands on a flag at the end of cycle x (R190, R193, R206). `src` is the source of FLG_MISUSE_REC. -/
def State.landSet (s : State) (p n x src : Nat) : State :=
  if s.poisoned p n then s.misuse p n 2 src
  else
    let s := s.bump (R.FLG_CNT_SET p) 1
    let lands := s.landsAt p x
    let clr := lands.find? fun l => l.1 == n && !l.2.1
    let s : State := match clr with
      | some l => if l.2.2 then s.flagRace p n else s
      | none => if s.flag p n && !s.level p n then s.misuse p n 1 src else s
    let inj := R.INJ_P_CTL 0x22
    let s : State :=
      if s.f inj F.INJ_P_CTL_ARM = 1 ∧ bitsOf (s.f inj F.INJ_P_CTL_SYN) 0 10 = n then
        match s.inject 0x22 kCore p with
        | (some syn, s) => s.record (s.injected (occ 0x22 kCore p n (bitsOf syn 10 4)))
        | (none, s) => s
      else s
    (s.setFlagBit p n true).noteLand p x n true false

/-- A clear lands on a flag at the end of cycle x; a set in the same cycle wins (R193, R206). `expl` holds for a
`flag.clear` or a store of 0, not for a consuming gate. -/
def State.landClear (s : State) (p n x src : Nat) (expl : Bool) : State :=
  if s.poisoned p n then s.misuse p n 2 src
  else
    let s := s.bump (R.FLG_CNT_CLEAR p) 1
    let beaten := (s.landsAt p x).any fun l => l.1 == n && l.2.1
    let s := if beaten then (if expl then s.flagRace p n else s) else s.setFlagBit p n false
    s.noteLand p x n false expl

/-- The pending signals on a core's flag that a poisoning discards, each a misuse SIGNAL_DROPPED (R200, R206). -/
def State.dropSignals (s : State) (pick : Signal → Bool) : State :=
  let gone := s.ctxs.sigs.filter pick
  let s := { s with ctxs := { s.ctxs with sigs := s.ctxs.sigs.filter fun g => !pick g } }
  gone.foldl (fun (s : State) g => s.misuse g.pos g.flag 3 1) s

/-- The virtual die a die stands for in its tenancy's module. -/
def State.vdieOf (s : State) (d : Nat) : Nat :=
  match (List.range 32).find? fun c => s.f (R.COX_SELF (32 * d + c)) F.COX_SELF_MAPPED == 1 with
  | some c => s.f (R.COX_SELF (32 * d + c)) F.COX_SELF_VDIE
  | none => 0

/-- The heat definition a die's tenancy gives a heat number on the die's virtual die. -/
def State.heatDef (s : State) (d no : Nat) : Option HeatDef :=
  match s.tenOfDie d with
  | none => none
  | some t => match s.mods.look t with
    | none => none
    | some m => m.heats.find? fun h => h.no == no && h.vdie == s.vdieOf d

/-- The cores of a die that are not fenced, in order: the die-wide mapping (R155). A core whose fence was lifted since the
last translation is not among them (R297). -/
def State.wideCores (s : State) (d : Nat) : List Nat :=
  let free := ((List.range 32).map (32 * d + ·)).filter fun p => !s.coreFenced p
  if s.dieMapped d then free.filter fun p => s.coreMapped p else free

/-- The core a gate names (R164). -/
def State.gateCore (s : State) (d : Nat) (g : Gate) : Nat := (s.wideCores d).getD g.vcore (32 * d)

/-- A release that is no choice is kept in the core's wait record, if that is free (R204, R206). -/
def State.waitRecord (s : State) (p kind status flag ctx heat limit : Nat) : State :=
  if s.f (R.FLG_WAIT_REC0 p) F.FLG_WAIT_REC0_VALID = 1 then s
  else
    let w := kind % 16 + status % 4 * 2 ^ 4 + flag % 1024 * 2 ^ 6 + ctx % 2 ^ 20 * 2 ^ 16 + heat % 65536 * 2 ^ 36 + 2 ^ 52
    (s.wr (R.FLG_WAIT_REC0 p) (BitVec.ofNat 64 w)).wr (R.FLG_WAIT_REC1 p) (BitVec.ofNat 64 (limit % 2 ^ 40))

/-- The first gate of a ready heat that names a poisoned flag, with its place. -/
def State.poisonedGate (s : State) (d : Nat) (e : ReadyEntry) : Option (Gate × Nat) :=
  match s.heatDef d e.heat with
  | none => none
  | some h => h.gates.zipIdx.find? fun g => (g.1.kind == 1 || g.1.kind == 2) && s.poisoned (s.gateCore d g.1) g.1.sel

/-- Heats whose gates name a poisoned flag leave a die's ready set (R206). -/
def State.releasePoisoned (s : State) (d : Nat) : State :=
  (s.die d).ready.foldl (fun (s : State) e =>
    match s.poisonedGate d e with
    | none => s
    | some (g, i) =>
      let v := s.die d
      let s := s.setDie d { v with ready := v.ready.erase e }
      let p := s.gateCore d g
      let s := s.setF (R.FLG_EVENT p) F.FLG_EVENT_POISONED 1
      s.waitRecord p g.kind 2 g.sel 0 e.heat (match e.watch[i]? with | some w => w.limit | none => 0)) s

/-- Poison one flag (R206). -/
def State.poisonFlag (s : State) (p n : Nat) : State :=
  let s := s.setFlagBit p n false
  let s := s.setBit (R.FLG_POISON p (n / 64)) (n % 64) true
  let s := s.bump (R.FLG_CNT_POISON p) 1
  s.dropSignals fun g => g.pos == p && g.flag == n

/-- Poison every flag of a core (R206). -/
def State.poisonCore (s : State) (p : Nat) : State :=
  let s := (List.range 16).foldl (fun (s : State) n =>
    (s.wr (R.FLG_STATE p n) 0).wr (R.FLG_POISON p n) (BitVec.allOnes 64)) s
  let s := s.bump (R.FLG_CNT_POISON p) 1024
  s.dropSignals fun g => g.pos == p

/-- The flags of a core that belong to a heat (R205). -/
def State.flagsOwned (s : State) (p heat : Nat) : List Nat :=
  (List.range 1024).filter fun n => bitsOf (s.rd (R.FLG_OWNER p (n / 4))).toNat (16 * (n % 4)) 16 == heat

/-- A heat abort poisons every flag of its die that belongs to it, and releases the gates that name one (R206). -/
def State.poisonHeat (s : State) (d heat : Nat) : State :=
  (List.range 32).foldl (fun (s : State) c =>
    (s.flagsOwned (32 * d + c) heat).foldl (fun (s : State) n => s.poisonFlag (32 * d + c) n) s) s |>.releasePoisoned d

/-- Poisoned flags return to use with state 0 (R206): the bits of `mask` in FLG_POISONn. -/
def State.unpoison (s : State) (p n mask : Nat) : State :=
  let old := (s.rd (R.FLG_POISON p n)).toNat
  let back := old &&& mask
  let s := s.wr (R.FLG_POISON p n) (BitVec.ofNat 64 (old - back))
  let st := (s.rd (R.FLG_STATE p n)).toNat
  s.wr (R.FLG_STATE p n) (BitVec.ofNat 64 (st - (st &&& back)))

/-! ### Contexts -/

/-- Contexts cached on link die l, the most recent first (R230). -/
def State.cachedOn (s : State) (l : Nat) : List Nat := s.ctxs.lru.filter fun x => x % 2 == l

/-- An entry is pinned while it has a pending signal, an open regatta generation or COLLECTIVE_SLOW set (R230). Open
streams pin it too: `busy` names the contexts that have one. -/
def State.ctxPinned (s : State) (busy : Nat → Bool) (x : Nat) : Bool :=
  busy x || (s.ctx x).slow || s.ctxs.sigs.any (fun g => g.ctx == x) ||
    ((s.ctxs.regattas.get (fun _ => Regatta.init) x).openGen).isSome

/-- Bring a context's record into its home cache (R230): a hit, or a load that may evict the least recently used
unpinned entry and write it back. None where no entry can be had: TRACK_FULL. -/
def State.ctxLoad (s : State) (busy : Nat → Bool) (x : Nat) : Option State :=
  let l := x % 2
  if s.ctxs.lru.contains x then
    let s := { s with ctxs := { s.ctxs with lru := x :: s.ctxs.lru.filter (· ≠ x) } }
    some (s.bump (R.CTX_CNT_HIT l) 1)
  else if !s.ctxs.copyOk.1 && !s.ctxs.copyOk.2 then none
  else
    let here := s.cachedOn l
    if here.length < 65536 then
      let s := { s with ctxs := { s.ctxs with lru := x :: s.ctxs.lru } }
      some (s.bump (R.CTX_CNT_MISS l) 1)
    else match (here.reverse.find? fun y => !s.ctxPinned busy y) with
      | none => none
      | some y =>
        let s := { s with ctxs := { s.ctxs with lru := x :: s.ctxs.lru.filter (· ≠ y) } }
        some ((s.bump (R.CTX_CNT_MISS l) 1).bump (R.CTX_CNT_WRITEBACK l) 1)

/-- The core whose flag a context's record names (R199, R202). -/
def CtxRec.signalCore (r : CtxRec) : Nat := 32 * r.sigDie + r.sigCore

/-- Mark the pending signals of a context whose counter has reached their count (R199). -/
def State.checkSignals (s : State) (x : Nat) : State :=
  let c := (s.ctx x).count
  { s with ctxs := { s.ctxs with
    sigs := s.ctxs.sigs.map fun g => if g.ctx = x ∧ g.exp ≤ c then { g with due := true } else g } }

/-- One counted event on a context (R195, R196, R202). -/
def State.countCtx (s : State) (x : Nat) : State :=
  let r := s.ctx x
  let i := s.inject 0x20 kCtx x
  let s := i.2
  if r.count = 2 ^ 32 - 1 ∨ i.1.isSome then
    let s := s.setCtx x { r with sat := true }
    let o := occ 0x20 kCtx x r.count
    s.record (if i.1.isSome then s.injected o else o)
  else
    let n := r.count + 1
    let becomes := decide (n = 2 ^ 31)
    let s := s.setCtx x { r with count := n, due := r.due || becomes }
    let s := if becomes && r.reqEn then s.landSet r.signalCore r.reqFlag (s.die r.sigDie).now 1 else s
    s.checkSignals x

/-- Subtract from a counter (R196). -/
def State.ctxSub (s : State) (x b : Nat) : State :=
  let r := s.ctx x
  let i := s.inject 0x21 kCtx x
  let s := i.2
  if r.count < b ∨ i.1.isSome then
    let s := s.setCtx x { r with count := 0, under := true }
    let o := occ 0x21 kCtx x r.count b
    s.record (if i.1.isSome then s.injected o else o)
  else s.setCtx x { r with count := r.count - b }

/-- Pending signals held for the contexts a link die caches (R200). -/
def State.signalsOn (s : State) (l : Nat) : Nat := (s.ctxs.sigs.filter fun g => g.ctx % 2 == l).length

/-- Is there room for another pending signal of a context? -/
def State.signalRoom (s : State) (x : Nat) : Bool := decide (s.signalsOn (x % 2) < 4096)

/-- A written put's signal: it applies with the write where the counter has reached its count, or becomes pending
(R199). `x` is the die cycle of the signal core. -/
def State.putSignal (s : State) (ctx p flag exp : Nat) : State :=
  if exp ≤ (s.ctx ctx).count then s.landSet p flag (s.die (dieOf p)).now 1
  else
    let s := s.bump (R.FLG_CNT_SIG_PENDING p) 1
    if s.poisoned p flag then s.misuse p flag 3 1
    else { s with ctxs := { s.ctxs with sigs := s.ctxs.sigs ++ [⟨ctx, p, flag, exp, false⟩] } }

/-- The signal of a context at an index among those pending. -/
def State.signalAt (s : State) (ctx i : Nat) : Option Signal := (s.ctxs.sigs.filter fun g => g.ctx == ctx)[i]?

/-- Remove the first pending signal equal to one. -/
def State.dropSignal (s : State) (g : Signal) : State :=
  { s with ctxs := { s.ctxs with sigs := s.ctxs.sigs.erase g } }

end Sys2Proof.Machine
end

