-- ==== Sys2Proof/Machine/Hbm.lean ====
section
/-! DEFINITION. Accesses to stacks and scratchpads with their ECC (R342, R345), the transfer counters (R109, R112, R179),
version entries (R252), and the mark a write leaves on a snapshot in progress (R287). -/

namespace Sys2Proof.Machine

open Sys2Proof

/-- A write that lands in a declared range during the copy marks the image torn (R287). -/
def State.noteWritten (s : State) (space d off n : Nat) : State :=
  let hit (r : SnapRun) : Bool := r.phase == 4 && r.ranges.any fun q =>
    q.1 == space && q.2.1 == d && decide (off < q.2.2.1 + q.2.2.2) && decide (q.2.2.1 < off + n)
  { s with snaps := s.snaps.map fun e => if hit e.2 then (e.1, { e.2 with torn := true }) else e }

/-- Does an armed ECC point cover the bytes at a Kensil address? Its ADDR counts as met by any byte of them. -/
def State.covers (s : State) (k a n : Nat) : Nat :=
  let ad := (s.rd (R.INJ_P_ADDR k)).toNat
  if a ≤ ad ∧ ad < a + n then ad else 0

/-- The die-local offset of a stack-local address, in the mode of its group (R31, R111). -/
def State.dieLocal (s : State) (k a : Nat) : Nat :=
  let j := bitsOf a 30 6
  if s.bit (R.HBM_NI_MASK k) j then j * 2 ^ 32 + k % 4 * 2 ^ 30 + bitsOf a 0 30
  else a / 8192 * 32768 + k % 4 * 8192 + a % 8192

/-- The Kensil address of a stack-local address on this node. -/
def State.stackKensil (s : State) (k a : Nat) : Nat := kAddr s.node 0 (k / 4 * 2 ^ 38 + s.dieLocal k a)

/-- 64 B units a transfer touches (R179). -/
def units64 (a n : Nat) : Nat := if n = 0 then 0 else (a + n - 1) / 64 - a / 64 + 1

/-- A transfer at a stack is counted, and its energy (R179, HBM counters). -/
def State.countTransfer (s : State) (k a n : Nat) (wr : Bool) : State :=
  let c := if n = 8192 ∧ a % 8192 = 0 then (if wr then R.HBM_CNT_WR_TILES k else R.HBM_CNT_RD_TILES k)
    else R.HBM_CNT_PART k
  (s.bump c 1).energy (k / 4) (if wr then 10 else 9) (units64 a n)

/-- A corrected HBM error is remembered for a day; a second one at another address of its row requests REPAIR of that
row (R342). -/
def State.noteCe (s : State) (k a : Nat) : State :=
  let old := s.maint.ces.filter fun e => decide (s.time < e.2.2 + 86400 * 25000000)
  let pair := old.any fun e => e.1 == k && e.2.1 != a && rowOf e.2.1 == rowOf a && pcOf e.2.1 == pcOf a &&
    bankOf e.2.1 == bankOf a
  let s := { s with maint := { s.maint with ces := old ++ [(k, a, s.time)] } }
  if pair then
    (s.maintRequest { act := 2, scope := k, arg := a / 8192, iss := .boathouse, asked := s.time, started := s.time, image := none }).2
  else s

/-- Bytes of a stack as a read delivers them: a corrected code word is reported, an uncorrectable one is reported and
reads as zeros (R342). -/
def State.eccRead (s : State) (k a n : Nat) : List Byte × State :=
  let hits := (s.stk k).bad.filter fun w => decide (w.1 * 32 < a + n) && decide (a < w.1 * 32 + 32)
  let bs := s.hbmBytes k a n
  if hits.isEmpty then (bs, s)
  else
    let ue (i : Nat) : Bool := hits.any fun w => w.2 / 65536 == 3 && w.1 == (a + i) / 32
    let s := hits.foldl (fun (s : State) w =>
      let det := w.2 / 65536
      let s := s.record { occ det kPc (64 * k + pcOf (w.1 * 32)) (w.1 * 32) (w.2 % 65536) (s.stackKensil k (w.1 * 32)) with
        inj := true }
      if det = 1 then s.noteCe k (w.1 * 32) else s) s
    (bs.mapIdx fun i b => if ue i then 0 else b, s)

/-- An armed HBM point corrupts the first code word of a write (R342, R345). -/
def State.eccInject (s : State) (det k a n : Nat) : State :=
  let i := s.inject det kPc (64 * k + pcOf a) (s.covers det (s.stackKensil k a) n)
  match i.1 with
  | none => i.2
  | some syn =>
    let v := i.2.stk k
    let w := a / 32
    let again := v.bad.look w
    let det := if again.isSome then 3 else det
    i.2.setStk k { v with bad := v.bad.ins w (det * 65536 + syn % 65536) }

/-- Write bytes to a stack, within one tile: the bytes, the zero map, injected corruption, and a snapshot's mark. -/
def State.eccWrite (s : State) (k a : Nat) (bs : List Byte) : State :=
  let s := s.stackWrite k a bs
  let s := ((s.eccInject 1 k a bs.length).eccInject 2 k a bs.length).eccInject 3 k a bs.length
  s.noteWritten 0 (k / 4) (s.dieLocal k a) bs.length

/-- Read die d's HBM from a die-local offset, tile by tile, each transfer counted. -/
def State.hbmRead (s : State) (d l n : Nat) : List Byte × State :=
  (tilePieces (n / 8192 + 2) l n).foldl
    (fun (acc : List Byte × State) (q : Nat × Nat) =>
      let w := acc.2.hbmPlace d (q.1 % 2 ^ 38)
      let r := (acc.2.countTransfer w.1 w.2 q.2 false).eccRead w.1 w.2 q.2
      (acc.1 ++ r.1, r.2)) ([], s)

/-- Write die d's HBM from a die-local offset, tile by tile, each transfer counted. -/
def State.hbmWrite (s : State) (d l : Nat) (bs : List Byte) : State :=
  (tilePieces (bs.length / 8192 + 2) l bs.length).foldl
    (fun (s : State) (q : Nat × Nat) =>
      let w := s.hbmPlace d (q.1 % 2 ^ 38)
      (s.countTransfer w.1 w.2 q.2 true).eccWrite w.1 w.2 (slice bs (q.1 - l) q.2)) s

/-- An armed scratchpad point reports the next write to its core (R342): a corrected bit, or a code word whose bytes
read as zeros from then on. -/
def State.spadInject (s : State) (p off n : Nat) : State :=
  let ka := kAddr s.node 1 (p * 2 ^ 23 + off)
  let s : State := match s.inject 0x08 kCore p (s.covers 0x08 ka n) with
    | (some syn, s) => s.record (s.injected (occ 0x08 kCore p off (syn % 256) ka))
    | (none, s) => s
  match s.inject 0x09 kCore p (s.covers 0x09 ka n) with
  | (some syn, s) =>
    let s := s.setSpadBytes p (off - off % 32) (List.replicate 32 0)
    s.record (s.injected (occ 0x09 kCore p off (syn % 65536) ka))
  | (none, s) => s

/-- A dynamic or remote write to a core's scratchpad. -/
def State.spadWrite (s : State) (p off : Nat) (bs : List Byte) : State :=
  let s := (s.setSpadBytes p off bs).spadInject p off bs.length
  s.noteWritten 1 (p / 32) (p % 32 * 2 ^ 23 + off) bs.length

/-! ### Version entries (R252) -/

def State.vtEntry (s : State) (n : Nat) : VtEntry := s.colls.vt.get (fun _ => VtEntry.init) n
def State.setVt (s : State) (n : Nat) (v : VtEntry) : State :=
  { s with colls := { s.colls with vt := s.colls.vt.set (fun _ => VtEntry.init) n v } }

/-- The version of the entry that governs an HBM read whose first byte lies at die d's offset l: that of the
lowest-numbered entry it falls in, or 0. -/
def State.versionAt (s : State) (d l : Nat) : Nat :=
  match s.colls.vt.find? fun e =>
      e.2.die == d && e.2.len != 0 && decide (e.2.base * 65536 ≤ l) && decide (l < (e.2.base + e.2.len) * 65536) with
  | some e => e.2.version
  | none => 0

/-- One more than a version, 2³² − 1 being followed by 1. -/
def nextVersion (v : Nat) : Nat := if v = 2 ^ 32 - 1 then 1 else v + 1

end Sys2Proof.Machine
end

