-- ==== Sys2Proof/Machine/Num.lean ====
section
/-! DEFINITION. Numbers: exact dyadic values, the formats of R65 to R67 with their decoding, rounding and
encoding, and the arithmetic of an accumulator cell (R70 to R85). Everything is computed exactly and rounded
once, where the rule says so. -/

namespace Sys2Proof

/-- Is a format an MX format? -/
def Fmt.isMx : Fmt → Bool
  | .mxfp8 | .mxe3m2 | .mxe2m3 | .mxfp4 | .mxint8 => true
  | _ => false

/-- The format codes of R65. -/
def Fmt.code : Fmt → Nat
  | .fp32 => 0 | .bf16 => 1 | .fp16 => 2 | .e4m3 => 3 | .e5m2 => 4 | .int8 => 5 | .mxfp8 => 6
  | .mxe3m2 => 7 | .mxe2m3 => 8 | .mxfp4 => 9 | .mxint8 => 10 | .raw64f => 14 | .raw64i => 15

/-- The format of a code; reserved codes have none (R65). -/
def Fmt.ofCode (c : Nat) : Option Fmt :=
  match c with
  | 0 => some .fp32 | 1 => some .bf16 | 2 => some .fp16 | 3 => some .e4m3 | 4 => some .e5m2 | 5 => some .int8
  | 6 => some .mxfp8 | 7 => some .mxe3m2 | 8 => some .mxe2m3 | 9 => some .mxfp4 | 10 => some .mxint8
  | 14 => some .raw64f | 15 => some .raw64i | _ => none

/-- The classes of R39. -/
inductive FmtClass where
  | fp32 | half | byte | four | raw
deriving DecidableEq, Repr

def Fmt.cls : Fmt → FmtClass
  | .fp32 => .fp32
  | .bf16 | .fp16 => .half
  | .mxfp4 => .four
  | .raw64f | .raw64i => .raw
  | _ => .byte

/-- Reduction steps folded into one product cycle (R39); an FP32 step takes four product cycles. -/
def Fmt.fold (f : Fmt) : Nat :=
  match f.cls with
  | .byte => 2
  | .four => 4
  | _ => 1

/-- Element width in memory (R65). -/
def Fmt.width : Fmt → Nat
  | .fp32 => 32 | .bf16 | .fp16 => 16 | .mxe3m2 | .mxe2m3 => 6 | .mxfp4 => 4 | .raw64f | .raw64i => 64 | _ => 8

/-- Do two formats pair in one product (R40)? -/
def Fmt.pairs (a b : Fmt) : Bool :=
  a == b || ((a == .e4m3 || a == .e5m2) && (b == .e4m3 || b == .e5m2))

/-- The exponent of the largest power of two in an MX element format (R80). -/
def Fmt.emax : Fmt → Int
  | .mxfp8 => 8
  | .mxe3m2 => 4
  | .mxe2m3 => 2
  | .mxfp4 => 2
  | _ => 0

end Sys2Proof

namespace Sys2Proof.Machine

open Sys2Proof

/-- A value of the number formats: NaN, an infinity, or (-1)^neg × m × 2^e, so that a zero keeps its sign. -/
inductive Val where
  | nan
  | inf (neg : Bool)
  | fin (neg : Bool) (m : Nat) (e : Int)
deriving DecidableEq, Repr

/-- A floating-point layout of R66: width, fraction bits, bias, and the largest finite value `maxM × 2^maxE`. -/
structure FloatFmt where
  width : Nat
  mb : Nat
  bias : Nat
  maxM : Nat
  maxE : Int
deriving DecidableEq, Repr

def ff32 : FloatFmt := ⟨32, 23, 127, 2 ^ 24 - 1, 104⟩
def ffBf16 : FloatFmt := ⟨16, 7, 127, 2 ^ 8 - 1, 120⟩
def ffFp16 : FloatFmt := ⟨16, 10, 15, 2047, 5⟩
def ffE4m3 : FloatFmt := ⟨8, 3, 7, 14, 5⟩
def ffE5m2 : FloatFmt := ⟨8, 2, 15, 7, 13⟩
def ffE3m2 : FloatFmt := ⟨6, 2, 3, 7, 2⟩
def ffE2m3 : FloatFmt := ⟨6, 3, 1, 15, -1⟩
def ffE2m1 : FloatFmt := ⟨4, 1, 1, 3, 1⟩

/-- The exponent of the least subnormal of a layout. -/
def FloatFmt.qmin (f : FloatFmt) : Int := 1 - f.bias - f.mb

/-- Two to an exponent that is not negative. -/
def pow2 (e : Int) : Nat := 2 ^ e.toNat

/-- `a × 2^b` compared with `c × 2^d`: is it greater? -/
def dyGt (a : Nat) (b : Int) (c : Nat) (d : Int) : Bool :=
  let lo := min b d
  decide (c * pow2 (d - lo) < a * pow2 (b - lo))

/-- The signed mantissa of a finite value. -/
def sgn (neg : Bool) (m : Nat) : Int := if neg then -(m : Int) else m

/-- A finite value from a signed mantissa; a zero is +0. -/
def ofInt (m : Int) (e : Int) : Val := .fin (decide (m < 0)) m.natAbs e

def Val.isNan : Val → Bool
  | .nan => true
  | _ => false

def Val.isZero : Val → Bool
  | .fin _ 0 _ => true
  | _ => false

def Val.neg : Val → Val
  | .nan => .nan
  | .inf n => .inf (!n)
  | .fin n m e => .fin (!n) m e

/-- The exact sum. Infinities of opposite sign give NaN; a sum of zero is +0 unless both terms are −0. -/
def Val.add : Val → Val → Val
  | .nan, _ => .nan
  | _, .nan => .nan
  | .inf a, .inf b => if a == b then .inf a else .nan
  | .inf a, _ => .inf a
  | _, .inf b => .inf b
  | .fin a m e, .fin b n f =>
    let lo := min e f
    let r := sgn a (m * pow2 (e - lo)) + sgn b (n * pow2 (f - lo))
    if r = 0 then .fin (a && b && m == 0 && n == 0) 0 0 else ofInt r lo

/-- The exact product. Zero times infinity gives NaN (R73). -/
def Val.mul : Val → Val → Val
  | .nan, _ => .nan
  | _, .nan => .nan
  | .inf a, .inf b => .inf (a ^^ b)
  | .inf a, .fin b n _ => if n = 0 then .nan else .inf (a ^^ b)
  | .fin a m _, .inf b => if m = 0 then .nan else .inf (a ^^ b)
  | .fin a m e, .fin b n f => .fin (a ^^ b) (m * n) (e + f)

/-- The value times 2^k. -/
def Val.shift (v : Val) (k : Int) : Val :=
  match v with
  | .fin n m e => .fin n m (e + k)
  | w => w

/-- Is `a < b`? False where either is NaN; zeros are equal. -/
def Val.lt : Val → Val → Bool
  | .nan, _ => false
  | _, .nan => false
  | .inf a, .inf b => a && !b
  | .inf a, _ => a
  | _, .inf b => !b
  | .fin a m e, .fin b n f =>
    let lo := min e f
    decide (sgn a (m * pow2 (e - lo)) < sgn b (n * pow2 (f - lo)))

/-- Equal values; zeros are equal whatever their sign, NaN equals nothing. -/
def Val.eqv (a b : Val) : Bool := !a.isNan && !b.isNan && !a.lt b && !b.lt a

def Val.isNeg : Val → Bool
  | .nan => false
  | .inf n => n
  | .fin n _ _ => n

/-- How a rounding is done: to nearest even, or stochastically with 16 random bits (R84). -/
inductive Rnd where
  | nearest
  | stochastic (r : BitVec 16)
deriving DecidableEq, Repr

/-- A magnitude `m × 2^e` rounded to a multiple of the layout's quantum at that magnitude: the multiple and the
quantum's exponent. Beyond the largest finite value it rounds as though the exponent were unbounded. -/
def roundMag (f : FloatFmt) (r : Rnd) (m : Nat) (e : Int) : Nat × Int :=
  if m = 0 then (0, f.qmin)
  else
    let q := max f.qmin (e + Nat.log2 m - f.mb)
    if q ≤ e then (m * pow2 (e - q), q)
    else
      let sh := pow2 (q - e)
      let n := m / sh
      let rem := m % sh
      let up := match r with
        | .nearest => decide (sh < 2 * rem) || (2 * rem == sh && n % 2 == 1)
        | .stochastic b => decide (rem ≠ 0) && decide (b.toNat < rem * 65536 / sh)
      (if up then n + 1 else n, q)

/-- Does a rounded magnitude exceed the layout's largest finite value? -/
def FloatFmt.over (f : FloatFmt) (x : Nat × Int) : Bool := dyGt x.1 x.2 f.maxM f.maxE

/-- The encoding of a magnitude that is a multiple of its quantum and at most the largest finite value. -/
def FloatFmt.bitsOfMag (f : FloatFmt) (x : Nat × Int) : Nat :=
  let p := f.mb + 1
  let n := if x.1 = 2 ^ p then 2 ^ f.mb else x.1
  let q := if x.1 = 2 ^ p then x.2 + 1 else x.2
  if n < 2 ^ f.mb then n
  else (q - f.qmin + 1).toNat * 2 ^ f.mb + (n - 2 ^ f.mb)

/-- The sign bit of a layout, as a number. -/
def FloatFmt.signBit (f : FloatFmt) (neg : Bool) : Nat := if neg then 2 ^ (f.width - 1) else 0

/-- The value of an encoding, special values aside (R66). -/
def FloatFmt.value (f : FloatFmt) (b : Nat) : Val :=
  let neg := bitOf b (f.width - 1)
  let ex := bitsOf b f.mb (f.width - 1 - f.mb)
  let fr := bitsOf b 0 f.mb
  if ex = 0 then .fin neg fr f.qmin else .fin neg (2 ^ f.mb + fr) (f.qmin + ex - 1)

/-- The value of an encoding of a layout with IEEE infinities and NaNs. -/
def FloatFmt.valueIeee (f : FloatFmt) (b : Nat) : Val :=
  let ew := f.width - 1 - f.mb
  if bitsOf b f.mb ew = 2 ^ ew - 1 then
    if bitsOf b 0 f.mb = 0 then .inf (bitOf b (f.width - 1)) else .nan
  else f.value b

/-- The value of an FP32 word. -/
def dec32 (w : W32) : Val := ff32.valueIeee w.toNat

/-- The canonical FP32 NaN. -/
def nan32 : W32 := 0x7FC00000#32

/-- The largest finite FP32 magnitude, with a sign. -/
def max32 (neg : Bool) : W32 := if neg then 0xFF7FFFFF#32 else 0x7F7FFFFF#32

/-- A value rounded to FP32; past the largest finite magnitude it is an infinity. -/
def round32 (r : Rnd) : Val → W32
  | .nan => nan32
  | .inf n => if n then 0xFF800000#32 else 0x7F800000#32
  | .fin n m e =>
    let x := roundMag ff32 r m e
    if ff32.over x then (if n then 0xFF800000#32 else 0x7F800000#32)
    else BitVec.ofNat 32 (ff32.signBit n + ff32.bitsOfMag x)

def rne32 (v : Val) : W32 := round32 .nearest v

/-- Does an FP32 word hold an infinity? -/
def isInf32 (w : W32) : Bool := match dec32 w with | .inf _ => true | _ => false

/-- The FP32 subnormal flush of FP8 operands (R81). -/
def flush (f : FloatFmt) (b : Nat) (v : Val) : Val :=
  if bitsOf b f.mb (f.width - 1 - f.mb) = 0 then .fin (bitOf b (f.width - 1)) 0 0 else v

/-- A two's-complement byte. -/
def int8 (b : Nat) : Int := if b % 256 < 128 then (b % 256 : Nat) else (b % 256 : Nat) - 256

/-- The value of an operand element (R66, R81); an MX element's block scale is applied apart. -/
def elemVal (f : Fmt) (b : Nat) : Val :=
  match f with
  | .fp32 => dec32 (BitVec.ofNat 32 b)
  | .bf16 => ffBf16.valueIeee b
  | .fp16 => ffFp16.valueIeee b
  | .e4m3 => if b % 128 = 127 then .nan else flush ffE4m3 b (ffE4m3.value b)
  | .mxfp8 => if b % 128 = 127 then .nan else flush ffE4m3 b (ffE4m3.value b)
  | .e5m2 =>
    match ffE5m2.valueIeee b with
    | .fin n m e => flush ffE5m2 b (.fin n m e)
    | w => w
  | .int8 => ofInt (int8 b) 0
  | .mxint8 => ofInt (int8 b) (-6)
  | .mxe3m2 => ffE3m2.value b
  | .mxe2m3 => ffE2m3.value b
  | .mxfp4 => ffE2m1.value b
  | .raw64f => dec32 (BitVec.ofNat 32 b)
  | .raw64i => ofInt (BitVec.ofNat 48 b).toInt 0

/-- The exact scale of an MX block pair as a power of two, or none where a scale byte is 0xFF (R69). -/
def mxShift (xa xb : Nat) : Option Int :=
  if xa = 0xFF ∨ xb = 0xFF then none else some ((xa : Int) + xb - 254)

/-- The exact sum of a list of values, as one term (R71). -/
def sumVals : List Val → Val
  | [] => .fin false 0 0
  | [v] => v
  | v :: vs => v.add (sumVals vs)

/-- The value a floating-point cell stands for: NaN, an infinity, or the exact sum s + e (R70). -/
def cellVal (s e : W32) : Val := (dec32 s).add (dec32 e)

/-- A cell after a step, and whether it saturated (R55). -/
structure CellOut where
  s : W32
  e : W32
  sat : Bool
deriving DecidableEq, Repr

/-- The term of a product replaces the cell (R71, ACC = INIT). -/
def cellInit (t : Val) : CellOut :=
  match t with
  | .nan => ⟨nan32, 0, false⟩
  | .inf n => ⟨rne32 (.inf n), 0, false⟩
  | .fin n m e =>
    let th := rne32 t
    if isInf32 th then ⟨max32 n, 0, true⟩
    else ⟨th, rne32 ((Val.fin n m e).add (dec32 th).neg), false⟩

/-- `cell_add` of R71 with the special cases of R73, in their order. -/
def cellAdd (s e : W32) (t : Val) : CellOut :=
  match (cellVal s e), t with
  | .nan, _ => ⟨nan32, 0, false⟩
  | _, .nan => ⟨nan32, 0, false⟩
  | .inf a, .inf b => if a == b then ⟨rne32 (.inf b), 0, false⟩ else ⟨nan32, 0, false⟩
  | _, .inf b => ⟨rne32 (.inf b), 0, false⟩
  | .inf a, _ => ⟨rne32 (.inf a), 0, false⟩
  | c, t =>
    let th := rne32 t
    let tl := rne32 (t.add (dec32 th).neg)
    let n := rne32 ((dec32 s).add (dec32 th))
    let vs := dec32 s
    let vh := dec32 th
    let vn := dec32 n
    let absLt (a b : Val) : Bool := match a, b with
      | .fin _ m x, .fin _ k y => dyGt k y m x
      | _, _ => false
    let d := if absLt vs vh then (vh.add vn.neg).add vs else (vs.add vn.neg).add vh
    let e1 := rne32 ((dec32 e).add (dec32 (rne32 (d.add (dec32 tl)))))
    if isInf32 th || isInf32 n || isInf32 e1 then ⟨max32 (c.add t).isNeg, 0, true⟩
    else ⟨n, e1, false⟩

/-- The Otxis rule of R85: one stochastic rounding of s + t, the blotter kept at +0. -/
def cellSr (s e : W32) (t : Val) (init : Bool) (r : BitVec 16) : CellOut :=
  let base := if init then .fin false 0 0 else cellVal s e
  match base, t with
  | .nan, _ => ⟨nan32, 0, false⟩
  | _, .nan => ⟨nan32, 0, false⟩
  | .inf a, .inf b => if a == b then ⟨rne32 (.inf b), 0, false⟩ else ⟨nan32, 0, false⟩
  | _, .inf b => ⟨rne32 (.inf b), 0, false⟩
  | .inf a, _ => ⟨rne32 (.inf a), 0, false⟩
  | _, t =>
    let v := if init then t else (dec32 s).add t
    let w := round32 (.stochastic r) v
    if isInf32 w then ⟨max32 v.isNeg, 0, true⟩ else ⟨w, 0, false⟩

/-- The range of the INT8 path (R74): an integer held to 48 bits, and whether it was out of range. -/
def sat48 (v : Int) : Int × Bool :=
  if v < -(2 ^ 47) then (-(2 ^ 47), true)
  else if 2 ^ 47 - 1 < v then (2 ^ 47 - 1, true)
  else (v, false)

/-- The 64-bit cell of an INT8 sum (R70). -/
def isumWord (v : Int) : Word := BitVec.ofInt 64 v

/-- SUM of a cell (R70). -/
def cellS (w : Word) : W32 := w.setWidth 32
/-- BLOT of a cell (R70). -/
def cellE (w : Word) : W32 := (w >>> 32).setWidth 32
/-- A cell from SUM and BLOT. -/
def cellWord (s e : W32) : Word := e.setWidth 64 <<< 32 ||| s.setWidth 64
/-- ISUM of a cell. -/
def cellI (w : Word) : Int := (w.setWidth 48).toInt

/-- SCALE of a floating-point cell by v (R75). -/
def cellScale (s e : W32) (v : Val) : CellOut :=
  match (cellVal s e), v with
  | .nan, _ => ⟨nan32, 0, false⟩
  | _, .nan => ⟨nan32, 0, false⟩
  | .inf a, v => ⟨rne32 ((Val.inf a).mul v), 0, false⟩
  | c, .inf b => ⟨rne32 (c.mul (.inf b)), 0, false⟩
  | c, v =>
    let s1 := rne32 ((dec32 s).mul v)
    let e1 := rne32 ((dec32 e).mul v)
    if isInf32 s1 || isInf32 e1 then ⟨max32 (c.mul v).isNeg, 0, true⟩ else ⟨s1, e1, false⟩

/-- CLAMP of a floating-point cell (R75). -/
def cellClamp (s e lo hi : W32) : CellOut :=
  if (cellVal s e).isNan then ⟨s, e, false⟩
  else
    let a : W32 × W32 := if (cellVal s e).lt (dec32 lo) then (lo, 0) else (s, e)
    if (dec32 hi).lt (cellVal a.1 a.2) then ⟨hi, 0, false⟩ else ⟨a.1, a.2, false⟩

/-- A finite magnitude in an output format without block scale: rounded, held to the largest finite value (R78)
and, at the FP8 formats, flushed where subnormal (R81). -/
def encMag (f : FloatFmt) (flushSub : Bool) (r : Rnd) (n : Bool) (m : Nat) (e : Int) : Nat :=
  let x := roundMag f r m e
  if f.over x then f.signBit n + f.bitsOfMag (f.maxM, f.maxE)
  else
    let b := f.bitsOfMag x
    f.signBit n + (if flushSub && decide (b < 2 ^ f.mb) then 0 else b)

/-- A finite value to an integer of 8 bits, in units of 2^(-u): rounded and clamped. -/
def encInt8 (r : Rnd) (u : Int) (n : Bool) (m : Nat) (e : Int) : Nat :=
  let e1 := e + u
  let mag : Nat :=
    if 0 ≤ e1 then m * pow2 e1
    else
      let sh := pow2 (-e1)
      let q := m / sh
      let rem := m % sh
      let up := match r with
        | .nearest => decide (sh < 2 * rem) || (2 * rem == sh && q % 2 == 1)
        | .stochastic b => decide (rem ≠ 0) && decide (b.toNat < rem * 65536 / sh)
      if up then q + 1 else q
  let v := sgn n mag
  (BitVec.ofInt 8 (max (-128) (min 127 v))).toNat

/-- An element of a drain or of `vec.cvt` in a format without block scale (R77 to R79, R81). -/
def encElem (f : Fmt) (r : Rnd) (v : Val) : Nat :=
  match f, v with
  | .fp32, .nan => 0x7FC00000
  | .fp32, .inf n => if n then 0xFF800000 else 0x7F800000
  | .fp32, .fin n m e => encMag ff32 false r n m e
  | .bf16, .nan => 0x7FC0
  | .bf16, .inf n => if n then 0xFF80 else 0x7F80
  | .bf16, .fin n m e => encMag ffBf16 false r n m e
  | .fp16, .nan => 0x7E00
  | .fp16, .inf n => if n then 0xFC00 else 0x7C00
  | .fp16, .fin n m e => encMag ffFp16 false r n m e
  | .e4m3, .fin n m e => encMag ffE4m3 true r n m e
  | .e4m3, _ => 0x7F
  | .e5m2, .nan => 0x7E
  | .e5m2, .inf n => if n then 0xFC else 0x7C
  | .e5m2, .fin n m e => encMag ffE5m2 true r n m e
  | .int8, .nan => 0
  | .int8, .inf n => if n then 0x80 else 0x7F
  | .int8, .fin n m e => encInt8 r 0 n m e
  | _, _ => 0

/-- An element of an MX block, the block's scale taken out (R80, R81). -/
def encMxElem (f : Fmt) (r : Rnd) (n : Bool) (m : Nat) (e : Int) : Nat :=
  match f with
  | .mxfp8 => encMag ffE4m3 true r n m e
  | .mxe3m2 => encMag ffE3m2 false r n m e
  | .mxe2m3 => encMag ffE2m3 false r n m e
  | .mxfp4 => encMag ffE2m1 false r n m e
  | _ => encInt8 r 6 n m e

/-- One MX block of 32 values (R78, R80): the scale byte and the elements. `rnd i` rounds element i. -/
def encMxBlock (f : Fmt) (rnd : Nat → Rnd) (vs : List Val) : Nat × List Nat :=
  if vs.any (fun v => match v with | .fin _ _ _ => false | _ => true) then (0xFF, vs.map fun _ => 0)
  else
    let mags := vs.map fun v => match v with
      | .fin _ m e =>
        let x := roundMag ff32 .nearest m e
        if ff32.over x then (ff32.maxM, ff32.maxE) else x
      | _ => (0, 0)
    let a := mags.foldl (fun (b x : Nat × Int) => if dyGt x.1 x.2 b.1 b.2 then x else b) (0, 0)
    let x : Int := if a.1 = 0 then -127 else max (-127) (min 127 (a.2 + Nat.log2 a.1 - f.emax))
    let els := vs.mapIdx fun i v => match v with
      | .fin n m e => encMxElem f (rnd i) n m (e - x)
      | _ => 0
    ((x + 127).toNat, els)

end Sys2Proof.Machine
end

