-- ==== Sys2Proof/Machine/Operands.lean ====
section
/-! DEFINITION. Operand forms: descriptors with their PRM fields (R138 to R143), walks and tile layouts (R105 to R107,
R141), tile queues as operands (R116), the scratchpad's banks (R103, R104) and the ruling checker (R159 to R161). -/

namespace Sys2Proof.Machine

open Sys2Proof

/-! ### Parameter registers and descriptors -/

/-- A PRM's 48 bits. -/
def State.prm (s : State) (p n : Nat) : Nat := s.f (R.PRM p n) F.PRM_VALUE

/-- A signed field of 10 bits. -/
def signed10 (v : Nat) : Int := (BitVec.ofNat 10 v).toInt

/-- A stride unit in bytes (R140). -/
def strideUnit (c : Nat) : Nat := match c with | 0 => 8192 | 1 => 1024 | _ => 128

/-- A local descriptor with its PRM field applied, as the operation issues (R140, R143). None where its format code or
a field is reserved, or it is not a local descriptor. -/
def State.localDesc (s : State) (p : Nat) (w : W128) : Option Walk :=
  let n := w.toNat
  let b (lo len : Nat) : Nat := bitsOf n lo len
  match Fmt.ofCode (b 2 4) with
  | none => none
  | some fmt =>
    if b 0 2 ≠ 0 ∨ b 49 2 = 3 ∨ b 125 3 = 7 then none
    else
      let mx := fmt.isMx
      let v := s.prm p (b 119 6)
      let tgt := b 125 3
      let u := strideUnit (b 49 2)
      let ext0 (x : Nat) : Nat := if x = 0 then 1 else x
      let st (i lo : Nat) : Int := signed10 (if tgt = 3 + i then v % 1024 else b lo 10) * (u : Int)
      let cnt := if tgt = 2 then v % 2 ^ 18 else b 31 18
      let sb := b 102 16 + (if mx ∧ tgt = 6 then v % 2 ^ 16 else 0)
      some {
        fmt := fmt
        col := b 6 1 = 1
        base := (b 8 23 + (if tgt = 1 then v % 2 ^ 23 else 0)) % 2 ^ 23
        count := if cnt = 0 then 262144 else cnt
        ext := [ext0 (b 51 7), ext0 (b 68 7), ext0 (b 85 7), if mx then 1 else ext0 (b 102 7)]
        stride := [st 0 58, st 1 75, st 2 92, if mx then 0 else st 3 109]
        sb := sb % 2 ^ 16 * 128 }

/-- A far descriptor with its PRM field applied (R142, R143): address, length, version. REL stands resolved. -/
structure Far where
  addr : Nat
  len : Nat
  version : W32
  fmt : Fmt
deriving DecidableEq, Repr

/-- Add to the offset inside the window an address names, modulo that window (R142). -/
def windowAdd (a v : Nat) : Nat :=
  let w := match kSpace a with
    | 0 => 2 ^ 38
    | 1 => 2 ^ 23
    | 2 => 2 ^ 26
    | _ => 2 ^ 13
  a - a % w + (a % w + v) % w

def State.farDesc (s : State) (p : Nat) (w : W128) : Option Far :=
  let n := w.toNat
  let b (lo len : Nat) : Nat := bitsOf n lo len
  match Fmt.ofCode (b 2 4) with
  | none => none
  | some fmt =>
    if b 0 2 ≠ 1 then none
    else
      let v := s.prm p (b 85 6)
      let tgt := b 91 2
      some {
        addr := if tgt = 1 then windowAdd (b 8 64) v else b 8 64
        len := (if tgt = 2 then v % 2 ^ 13 else b 72 13) + 1
        version := BitVec.ofNat 32 (if tgt = 3 then v else b 96 32)
        fmt := fmt }

/-- Where an engine operand, drain or load reads or writes. -/
def State.place (s : State) (p : Nat) (o : Opnd) : Option Place :=
  match o with
  | .desc w => (s.localDesc p w).map .walk
  | .tq q walk => some (.tq q.val walk)
  | _ => none

/-- The value of an immediate or PRM operand. -/
def State.value (s : State) (p : Nat) (o : Opnd) : Nat :=
  match o with
  | .imm v => v
  | .prm n _ => s.prm p n.val
  | _ => 0

/-- The value of an EN or single-bit operand. -/
def State.bitOpnd (s : State) (p : Nat) (o : Opnd) : Bool :=
  match o with
  | .imm v => v % 2 == 1
  | .prm n b => bitOf (s.prm p n.val) b
  | _ => true

/-! ### Walks (R141) and layouts (R105) -/

/-- Bytes of a run as the engines use a walk: a tile, two slots at FP32, four at RAW64. -/
def runBytes (f : Fmt) : Nat :=
  match f.cls with
  | .fp32 => 16384
  | .raw => 32768
  | _ => 8192

/-- Slots of a tile-queue entry (R116). -/
def spanOf (f : Fmt) : Nat := runBytes f / 8192

/-- Squares in one run (R105); a RAW64 run is one set. -/
def squares (f : Fmt) : Nat :=
  match f.cls with
  | .byte => 2
  | .four => 4
  | _ => 1

/-- The number of runs of a walk. -/
def Walk.runs (w : Walk) : Nat := w.ext.foldl (· * ·) 1

/-- The first byte of run u (R141). -/
def Walk.runBase (w : Walk) (u : Nat) : Nat :=
  let u := u % w.runs
  let go := (w.ext.zip w.stride).foldl
    (fun (acc : Nat × Int) es => (acc.1 / es.1, acc.2 + (acc.1 % es.1 : Nat) * es.2)) (u, (0 : Int))
  ((w.base : Int) + go.2).emod (2 ^ 23) |>.toNat

/-- The byte and bit of element (i, j) of square q in a run starting at `b`, and the bytes it spans (R105, R68). -/
def elemAt (f : Fmt) (b q i j : Nat) : Nat × Nat × Nat :=
  match f with
  | .fp32 => (b + 8192 * (j / 32) + 128 * i + 4 * (j % 32), 0, 4)
  | .bf16 | .fp16 => (b + 128 * i + 2 * j, 0, 2)
  | .mxe3m2 | .mxe2m3 => (b + 128 * i + 48 * q + 3 * (j / 4), 6 * (j % 4), 3)
  | .mxfp4 => (b + 128 * i + 32 * q + j / 2, 4 * (j % 2), 1)
  | .raw64f | .raw64i => (b + 512 * i + 8 * j, 0, 8)
  | _ => (b + 128 * i + 64 * q + j, 0, 1)

/-- An element's bits, through a reader of bytes. -/
def elemBits (rd : Nat → Byte) (f : Fmt) (b q i j : Nat) : Nat :=
  let a := elemAt f b q i j
  bitsOf (leNat ((List.range a.2.2).map fun k => rd (a.1 + k))) a.2.1 f.width

/-- Reduction step t of a walk or entry counted from a run start: the run, the square in it, and the row or column. -/
def stepPlace (f : Fmt) (t : Nat) : Nat × Nat × Nat := (t / (64 * squares f), t / 64 % squares f, t % 64)

/-- The 64 elements of row or column k of square q in a run at `b`. -/
def vecBits (rd : Nat → Byte) (f : Fmt) (b q k : Nat) (col : Bool) : List Nat :=
  (List.range 64).map fun i => if col then elemBits rd f b q i k else elemBits rd f b q k i

/-- The byte addresses those elements touch. -/
def vecAddrs (f : Fmt) (b q k : Nat) (col : Bool) : List Nat :=
  (List.range 64).flatMap fun i =>
    let a := if col then elemAt f b q i k else elemAt f b q k i
    (List.range ((a.2.1 + f.width + 7) / 8 - a.2.1 / 8)).map (a.1 + a.2.1 / 8 + ·)

/-! ### Banks (R103, R104) -/

/-- The bank of a scratchpad byte (R103). -/
def bankAt (off : Nat) : Nat :=
  let r := bitsOf off 7 6
  let b := bitsOf off 0 7
  8 * bitsOf off 13 3 + (r / 8 + b / 16) % 8

/-- The banks a list of bytes needs, as a mask. -/
def banksOf (addrs : List Nat) : Nat := addrs.foldl (fun m a => m ||| 2 ^ bankAt a) 0

/-- The bank words an access moves: the banks in its mask. -/
def bankWords (m : Nat) : Nat := ((List.range 64).filter fun i => bitOf m i).length

/-- Units of the ruling checker (R160). -/
abbrev uFE := 0
abbrev uCVU := 3
abbrev uAE := 4
abbrev uPRM := 5
abbrev uCHAIN := 6

/-! ### The ruling checker (R159 to R161) -/

/-- The heat that runs on a core in cycle x, as an operation issued then belongs to it. -/
def State.heatTag (s : State) (p x : Nat) : HeatTag :=
  match (s.die (dieOf p)).run with
  | some r => match r.start with
    | some st =>
      if x < st then ⟨false, 0, 0, 0⟩ else ⟨true, r.heat, r.replayAt x, st + r.replayAt x * (r.body + 8)⟩
    | none => ⟨false, 0, 0, 0⟩
  | none => ⟨false, 0, 0, 0⟩

/-- How an operation's heat is reported in cycle x (R161): by the replay it is in, or, once it has ended, by its last. -/
def State.tagNow (s : State) (p : Nat) (tag : HeatTag) (x : Nat) : HeatTag :=
  let now := s.heatTag p x
  match (s.die (dieOf p)).run, (s.die (dieOf p)).ended with
  | some r, e =>
    if now.on && now.no == tag.no && decide (r.start.getD 0 ≤ tag.base) then now
    else match e with
      | some e => if e.no = tag.no ∧ tag.base ≤ e.base then e else tag
      | none => tag
  | none, some e => if e.no = tag.no ∧ tag.base ≤ e.base then e else tag
  | none, none => tag

/-- The virtual core of a physical core under the variant that runs: its place among the die's cores that are
neither fenced nor held out (R155). -/
def State.vcoreIn (s : State) (clusters : List Nat) (p : Nat) : Nat :=
  ((List.range (p % 32)).filter fun c => !s.coreFenced (p - p % 32 + c) && clusters.contains (c / 8)).length

/-- The cores a running heat is mapped on: its body's virtual cores among those neither fenced nor held out. -/
def State.runCores (s : State) (d : Nat) (r : RunHeat) : List Nat :=
  let n := match s.heatDef d r.bodyNo with | some h => h.vcores | none => 0
  ((s.wideCores d).filter fun p => r.clusters.contains (p / 8 % 4)).take n

/-- Does a heat run on a core? -/
def State.heatOn (s : State) (p : Nat) : Bool :=
  match (s.die (dieOf p)).run with
  | some r => r.start.isSome && (s.runCores (dieOf p) r).contains p
  | none => false

/-- The ruling entries that govern a core under the heat an operation belongs to. -/
def State.rulingFor (s : State) (p no : Nat) : List Ruling :=
  match s.heatDef (dieOf p) no with
  | none => []
  | some h =>
    let cl := match (s.die (dieOf p)).run with | some r => r.clusters | none => [0, 1, 2, 3]
    let v := s.vcoreIn cl p
    match s.heatDef (dieOf p) (match (s.die (dieOf p)).run with
        | some r => if r.heat = no then r.bodyNo else no | none => no) with
    | some b => b.ruling.filter fun e => e.vcore == v
    | none => h.ruling.filter fun e => e.vcore == v

/-- The pads of a virtual core, as the Wilum cycles of the bundles they stand before. -/
def HeatDef.padsOf (h : HeatDef) (v : Nat) : List Nat := (h.pads.filter fun q => q.1 == v).map (·.2)

/-- Cycle `c` of a heat's native body on a virtual core, as a Wilum cycle (R157, R161): each pad is two cycles. -/
def HeatDef.wilum (h : HeatDef) (v c : Nat) : Nat :=
  c - 2 * ((h.padsOf v).zipIdx.filter fun q => decide (q.1 + 2 * (q.2 + 1) ≤ c)).length

/-- A Wilum cycle of a virtual core as a cycle of the native body. -/
def HeatDef.native (h : HeatDef) (v c : Nat) : Nat := c + 2 * ((h.padsOf v).filter fun q => decide (q ≤ c)).length

/-- A cycle count of a heat's body on a core, put through `f` of the body and the core's virtual core. -/
def State.bodyCycle (s : State) (p no : Nat) (f : HeatDef → Nat → Nat) (c : Nat) : Nat :=
  let cl := match (s.die (dieOf p)).run with | some r => r.clusters | none => [0, 1, 2, 3]
  let body := match (s.die (dieOf p)).run with | some r => if r.heat = no then r.bodyNo else no | none => no
  match s.heatDef (dieOf p) body with
  | some h => f h (s.vcoreIn cl p)
  | none => c

/-- The Wilum cycle of a core in its heat's replay. -/
def State.cycleOf (s : State) (p : Nat) (tag : HeatTag) (x : Nat) : Nat :=
  s.bodyCycle p tag.no (fun h v => h.wilum v (x - tag.base)) (x - tag.base)

/-- The die cycle of a Wilum cycle of the replay that starts at `base`. -/
def State.dieCycle (s : State) (p no base c : Nat) : Nat := base + s.bodyCycle p no (fun h v => h.native v c) c

/-- A violation at a core (R160, R161): kind, unit, the heat it is reported with, the die cycle and the detail. -/
def State.violate (s : State) (p kind unit : Nat) (tag : HeatTag) (x detail : Nat) : State :=
  if !tag.on then s
  else
    let tag := s.tagNow p tag x
    let cyc := s.cycleOf p tag x
    let allowed := (s.rulingFor p tag.no).any fun e =>
      e.ty == 3 && bitOf e.mask kind && (e.unit == 15 || e.unit == unit) && decide (e.first ≤ cyc) && decide (cyc ≤ e.last)
    if allowed then s
    else
      let ctl := R.COX_CTL p
      let en := s.f ctl F.COX_CTL_RULE_EN = 1
      let stops := s.f ctl F.COX_CTL_RULE_STOP = 1 ||
        (match s.heatDef (dieOf p) tag.no with | some h => h.stop | none => false)
      let first := decide en && decide (s.f (R.COX_EVENT p) F.COX_EVENT_RULING_HAZARD = 0)
      let w (n : Nat) : Word := BitVec.ofNat 64 n
      let s : State := if en then s.bump (R.COX_RULING_COUNT p) 1 else s
      let s : State :=
        if first then
          let s := s.wr (R.COX_RULING_REC0 p) (w (tag.no + unit * 2 ^ 16 + kind * 2 ^ 20 + 2 ^ 24
            + (if stops then 2 ^ 25 else 0)))
          let s := s.wr (R.COX_RULING_REC1 p) (w (tag.replay % 2 ^ 32 + cyc % 2 ^ 32 * 2 ^ 32))
          let s := s.wr (R.COX_RULING_REC2 p) (w detail)
          let s := s.setF (R.COX_EVENT p) F.COX_EVENT_RULING_HAZARD 1
          s.setF (R.COX_IRQ_STAT p) F.COX_IRQ_STAT_RULING 1
        else s
      let o := { occ 0x28 kCore p (kind + unit * 16 + tag.replay % 2 ^ 32 * 2 ^ 32) cyc with
        cls := if stops then some 2 else none }
      let s : State :=
        if stops then
          let d := dieOf p
          let v := s.die d
          let s := s.setDie d { v.stopHeat with rulingStop := true }
          s.setF (R.STR_EVENT d) F.STR_EVENT_RULING_STOP 1
        else s
      if decide en || stops then s.record o 2 else s

/-- Before an access is checked, an armed injection at this core reports it as the kind of its syndrome. -/
def State.checkInject (s : State) (p unit : Nat) (tag : HeatTag) (x : Nat) : State :=
  match s.inject 0x28 kCore p with
  | (some syn, s) => s.violate p (syn % 16) unit tag x 0
  | (none, s) => s

/-- The lines a byte range covers. -/
def linesOf (off len : Nat) : List Nat := (List.range (ceilDiv (off % 128 + len) 128)).map (off / 128 + ·)

/-- A write that lands in a WRITTEN range between FIRST_READ and LAST_READ is a SCRATCH_CLOBBER (R160); every write
marks its lines written (R159). -/
def State.noteWrite (s : State) (p off len unit x : Nat) : State :=
  let c := s.core p
  let s := s.setCore p { c with written := (linesOf off len).foldl (fun m l => NMap.ins m l (x + 1)) c.written }
  let tag := s.heatTag p x
  if !tag.on then s
  else
    let cyc := s.cycleOf p tag x
    (s.rulingFor p tag.no).foldl (fun (s : State) e =>
      if e.ty = 1 ∧ e.first ≤ cyc ∧ cyc ≤ e.last ∧ off < e.base + e.len ∧ e.base < off + len then
        s.violate p 7 unit tag x off
      else s) s

/-- Was a line written since the LAST_READ that bounds it (R159): that of its entry's previous replay, or, in replay 0, of
any WRITTEN entry of the heat that covers it? Those of earlier heats have left the record when the heat ended. -/
def State.lineWritten (s : State) (p : Nat) (rs : List Ruling) (e : Ruling) (tag : HeatTag) (cyc line : Nat) : Bool :=
  let period := match (s.die (dieOf p)).run with | some r => r.body + 8 | none => 0
  let bound (q : Ruling) : Nat :=
    if q.last < cyc then s.dieCycle p tag.no tag.base q.last + 1
    else if 0 < tag.replay then s.dieCycle p tag.no (tag.base - period) q.last + 1 else 0
  let covers (q : Ruling) : Bool :=
    q.ty == 1 && decide (q.base / 128 ≤ line) && decide (line * 128 < q.base + q.len) && decide (q.last < cyc)
  let b := if tag.replay = 0 then (rs.filter covers).foldl (fun m q => max m (bound q)) 0 else bound e
  decide (b < NMap.get (fun _ => 0) (s.core p).written line)

/-- A static read of a WRITTEN range at or after FIRST_READ that finds a line not written since is SCRATCH_EARLY. -/
def State.noteRead (s : State) (p off len unit x : Nat) : State :=
  let tag := s.heatTag p x
  if !tag.on then s
  else
    let cyc := s.cycleOf p tag x
    let rs := s.rulingFor p tag.no
    rs.foldl (fun (s : State) e =>
      if e.ty = 1 ∧ e.first ≤ cyc then
        match (linesOf off len).find? fun l =>
            decide (e.base / 128 ≤ l) && decide (l * 128 < e.base + e.len) && !s.lineWritten p rs e tag cyc l with
        | some l => s.violate p 6 unit tag x (l * 128)
        | none => s
      else s) s

/-- When a heat ends, lines not written since the LAST_READ of its last replay count as not written from here (R159). -/
def State.expireWritten (s : State) (p : Nat) (tag : HeatTag) (x : Nat) : State :=
  let last (e : Ruling) : Nat := s.dieCycle p tag.no tag.base e.last
  let es := (s.rulingFor p tag.no).filter fun e => e.ty == 1 && decide (last e ≤ x)
  let c := s.core p
  s.setCore p { c with written := c.written.filter fun w => es.all fun e =>
    !(decide (e.base / 128 ≤ w.1) && decide (w.1 * 128 < e.base + e.len)) || decide (last e + 1 < w.2) }

/-! ### Static scratchpad accesses -/

/-- A static access that loses a bank is reported (R104, item 5). -/
def State.bankConflict (s : State) (p unit : Nat) (tag : HeatTag) (x off : Nat) : State :=
  let s := s.setF (R.AE_EVENT p) F.AE_EVENT_BANK_CONFLICT 1
  let s := s.bump (R.AE_CNT_BANK_CONFLICT p) 1
  s.violate p 8 unit tag x off

/-- Order static writes by landing cycle and place in R104, item 4. -/
def insertWrite (w : StaticWrite) : List StaticWrite → List StaticWrite
  | [] => [w]
  | v :: vs => if w.land < v.land ∨ (w.land = v.land ∧ w.prio < v.prio) then w :: v :: vs else v :: insertWrite w vs

/-- One static write lands: it loses the bytes of banks an earlier write of the cycle holds (R104). -/
def State.landStatic (s : State) (p : Nat) (w : StaticWrite) : State :=
  let a := s.ae p
  let used := if a.wrAt = w.land then a.wrBanks else 0
  let need := banksOf (w.bytes.map (·.1))
  let lost := need &&& used
  let s := s.setAe p { a with wrAt := w.land, wrBanks := used ||| need }
  let s := s.energy (dieOf p) 8 (bankWords need)
  let s := w.bytes.foldl (fun (s : State) b => if bitOf lost (bankAt b.1) then s else s.setSpadByte p b.1 b.2) s
  match w.bytes with
  | [] => s
  | b :: _ =>
    let s := s.noteWrite p b.1 w.bytes.length w.unit w.land
    let s := (s.spadInject p b.1 w.bytes.length).noteWritten 1 (p / 32) (p % 32 * 2 ^ 23 + b.1) w.bytes.length
    if lost = 0 then s else s.bankConflict p w.unit w.tag w.land b.1

/-- Every static write of a core that landed before cycle x takes place. -/
def State.settle (s : State) (p x : Nat) : State :=
  let a := s.ae p
  let due := a.writes.filter fun w => decide (w.land < x)
  if due.isEmpty then s
  else
    let s := s.setAe p { a with writes := a.writes.filter fun w => !decide (w.land < x) }
    due.foldl (fun (s : State) w => s.landStatic p w) s

/-- Queue a static write. -/
def State.staticWrite (s : State) (p : Nat) (w : StaticWrite) : State :=
  let a := s.ae p
  s.setAe p { a with writes := insertWrite w a.writes }

/-- A static read in cycle x of some bytes: the banks it needs are taken, and the banks it loses to earlier reads of the
cycle are answered as a mask (R104, item 3). -/
def State.staticRead (s : State) (p x unit : Nat) (addrs : List Nat) : Nat × State :=
  let s := s.settle p x
  let tag := s.heatTag p x
  let a := s.ae p
  let used := if a.rdAt = x then a.rdBanks else 0
  let need := banksOf addrs
  let lost := need &&& used
  let s := s.setAe p { s.ae p with rdAt := x, rdBanks := used ||| need }
  let s := s.energy (dieOf p) 8 (bankWords need)
  let lo := addrs.foldl min (2 ^ 23)
  let s := s.checkInject p unit tag x
  let s := match addrs with
    | [] => s
    | _ => s.noteRead p lo (addrs.foldl max 0 + 1 - lo) unit x
  (lost, if lost = 0 then s else s.bankConflict p unit tag x lo)

/-- The reader of a core's bytes with some banks lost: they give zero. -/
def State.reader (s : State) (p lost : Nat) : Nat → Byte :=
  fun off => if bitOf lost (bankAt off) then 0 else s.spadByte p off

/-! ### Tile queues (R116) -/

def State.tq (s : State) (p q : Nat) : TileQueue := (s.ae p).tqs.getD q TileQueue.init
def State.setTq (s : State) (p q : Nat) (v : TileQueue) : State :=
  let a := s.ae p
  s.setAe p { a with tqs := a.tqs.set q v }

/-- The byte at which ring slot r of a queue starts. -/
def TileQueue.slotBase (t : TileQueue) (r : Nat) : Nat :=
  if t.depth = 0 then t.base * 8192 % 2 ^ 23 else (t.base + r % t.depth) * 8192 % 2 ^ 23

/-- Landed slots counted consecutively from the head (R116, item 2). -/
def TileQueue.occ (t : TileQueue) : Nat :=
  let rec go : Nat → Nat → Nat
    | 0, _ => 0
    | k + 1, i => if bitOf t.landed ((t.head + i) % t.depth) then 1 + go k (i + 1) else 0
  if t.depth = 0 then 0 else go (min t.reserved t.depth) 0

/-- Reserve the tail slot; none beyond DEPTH. -/
def TileQueue.reserve (t : TileQueue) : Option (Nat × TileQueue) :=
  if t.reserved < t.depth then
    let l := t.landed - (t.landed &&& 2 ^ t.tail)
    some (t.tail, { t with tail := (t.tail + 1) % t.depth, reserved := t.reserved + 1, landed := l })
  else none

/-- A reserved slot lands in cycle x. -/
def TileQueue.land (t : TileQueue) (r x : Nat) : TileQueue :=
  { t with landed := t.landed ||| 2 ^ r, landAt := NMap.ins t.landAt r x }

/-- Pop the head entry of `n` slots; the tail moves with the head past slots never reserved (R116, item 4). -/
def TileQueue.pop (t : TileQueue) (n : Nat) : TileQueue :=
  if t.depth = 0 then t
  else
    let h := (t.head + n) % t.depth
    let gone := (List.range n).foldl (fun m i => m ||| 2 ^ ((t.head + i) % t.depth)) 0
    let short := t.reserved < n
    { t with head := h, tail := if short then h else t.tail, reserved := t.reserved - n,
             landed := t.landed - (t.landed &&& gone), readPos := 0 }

/-- The lead-time bucket of R128. -/
def leadBucket (n : Nat) : Nat :=
  if n < 64 then 0 else if n < 256 then 1 else if n < 1024 then 2 else if n < 4096 then 3 else if n < 16384 then 4
  else if n < 65536 then 5 else if n < 262144 then 6 else 7

/-- The first read of a slot of an inbound queue is counted (R128): used, and late or with its lead time. -/
def State.firstRead (s : State) (p q r x : Nat) : State :=
  let t := s.tq p q
  let s := s.bump (R.AE_PF_USED p) 1
  if bitOf t.landed r then s.bump (R.AE_PF_LEAD p (leadBucket (x - t.landAt.get (fun _ => 0) r))) 1
  else
    let s := s.bump (R.AE_PF_LATE p) 1
    if bitOf t.lateSlots r then s.bump (R.AE_CNT_ZP_LATE p) 1 else s

/-- An operation reads step `n` steps of the head entry of an inbound queue in cycle x: the start of the entry, the
position read from, and the queue advanced and popped when its last row or column is read. A slot not landed is a
TQ_EARLY (R116, items 3 and 4). -/
def State.tqRead (s : State) (p q : Nat) (f : Fmt) (n x unit : Nat) : Nat × Nat × State :=
  let t := s.tq p q
  let span := spanOf f
  let total := 64 * squares f
  let base := t.slotBase t.head
  let pos := t.readPos
  let slots := (List.range span).map fun i => if t.depth = 0 then 0 else (t.head + i) % t.depth
  let s : State := if pos = 0 then slots.foldl (fun (s : State) r => s.firstRead p q r x) s else s
  let early := slots.any fun r => !bitOf t.landed r
  let s : State := if early then s.violate p 3 unit (s.heatTag p x) x q else s
  let t := s.tq p q
  let s := if total ≤ pos + n then s.setTq p q (t.pop span) else s.setTq p q { t with readPos := pos + n }
  (base, pos, s)

/-- A drain takes an entry of an outbound queue when it issues: it reserves and lands its slots, or, where the queue is
full, writes over the oldest unread slot, which is a TQ_OVERWRITE (R116). -/
def State.tqFill (s : State) (p q : Nat) (f : Fmt) (x unit : Nat) : Nat × State :=
  let t := s.tq p q
  let span := spanOf f
  if t.depth = 0 then (0, s)
  else if t.reserved + span ≤ t.depth then
    let r := t.tail
    let bits := (List.range span).foldl (fun m i => m ||| 2 ^ ((r + i) % t.depth)) 0
    (r, s.setTq p q { t with tail := (r + span) % t.depth, reserved := t.reserved + span, landed := t.landed ||| bits })
  else (t.head, s.violate p 4 unit (s.heatTag p x) x q)

/-! ### Reading engine operands -/

/-- `n` reduction steps of an engine operand from step k on, read in cycle x: the elements (step × 64 + position), the
scales of the last step's block, and whether the tile they come from is zero-mapped (R59, R106, R107). -/
structure Fetched where
  els : List Nat
  scales : List Nat
  zero : Bool
deriving DecidableEq, Repr

/-- The scale bytes of a step of an MX operand: 64 of them, at the side-band `sb` of square q, block k div 32. -/
def scalesAt (rd : Nat → Byte) (sb q k : Nat) : List Nat :=
  (List.range 64).map fun i => (rd (sb + 128 * q + 2 * i + k / 32)).toNat

/-- Read `n` steps at one square of a run. -/
def State.readRun (s : State) (p x unit : Nat) (f : Fmt) (b q k n : Nat) (col : Bool) (sb : Option Nat) :
    Fetched × State :=
  let ks := List.range n
  let addrs := ks.flatMap fun i => vecAddrs f b q ((k + i) % 64) col
  let r := s.staticRead p x unit addrs
  let rd := r.2.reader p r.1
  let els := ks.flatMap fun i => vecBits rd f b q ((k + i) % 64) col
  let sc := if f.isMx then match sb with
      | some a => scalesAt (r.2.reader p 0) a q (k % 64)
      | none => (List.range 64).map fun i => (Config.freeByte 4 (p * 2 ^ 23 + b + i)).toNat
    else []
  let zero := r.2.slotZero p (b / 8192) && (f != .fp32 || r.2.slotZero p (b / 8192 + 1))
  (⟨els, sc, zero⟩, r.2)

/-- Read `n` steps of an operand from step k of its walk, or from the head of its queue. -/
def State.readOperand (s : State) (p x unit : Nat) (pl : Place) (f : Fmt) (k n : Nat) : Fetched × State :=
  match pl with
  | .walk w =>
    let st := stepPlace f k
    let sb := w.sb + st.1 * (if f = .mxfp4 then 512 else 256)
    let r := s.readRun p x unit f (w.runBase st.1) st.2.1 st.2.2 n w.col (some sb)
    if w.count < k + n then
      let keep := (w.count - k) * 64
      (⟨r.1.els.take keep ++ List.replicate (r.1.els.length - keep) 0, r.1.scales, r.1.zero⟩, r.2)
    else r
  | .tq q col =>
    let t := s.tqRead p q f n x unit
    let st := stepPlace f t.2.1
    t.2.2.readRun p x unit f t.1 st.2.1 st.2.2 n col none

end Sys2Proof.Machine
end

