-- ==== Sys2Proof/WellFormed.lean ====
section
/-! DEFINITION. Which operands a command may carry: the limits of R40, R61, R137 to R144, R175, R198 and R227 that
the translator holds a bundle's slots to, and the widths of a packet's fields (R214). -/

namespace Sys2Proof

/-- Is an operand one an engine reads: a local descriptor or a tile queue (R61)? -/
def Opnd.isPlace : Opnd → Bool
  | .desc w => w.toNat % 4 == 0
  | .tq _ _ => true
  | _ => false

/-- Is an operand a far descriptor (R142)? -/
def Opnd.isFar : Opnd → Bool
  | .desc w => w.toNat % 4 == 1
  | _ => false

def Opnd.isLocal : Opnd → Bool
  | .desc w => w.toNat % 4 == 0
  | _ => false

def Opnd.isNone : Opnd → Bool
  | .none => true
  | _ => false

/-- Is an operand an immediate or a PRM (R138)? -/
def Opnd.isValue : Opnd → Bool
  | .imm v => decide (v < 2 ^ 22)
  | .prm _ b => b == 0
  | _ => false

/-- An engine operand read by row or by column: its descriptor's FMT is the operation's and an MX operand's side-band
axis suits its walk (R107, R140). -/
def Opnd.fits (o : Opnd) (f : Fmt) : Bool :=
  match o with
  | .desc w =>
    let n := w.toNat
    bitsOf n 0 2 == 0 && Fmt.ofCode (bitsOf n 2 4) == some f && (!f.isMx || bitOf n 6 != bitOf n 7)
      && bitsOf n 49 2 != 3 && bitsOf n 125 3 != 7
  | .tq _ _ => true
  | _ => false

/-- LEN of a product (R42, R61): 1 to 16,384, a multiple of 2 at the 8-bit formats, 4 at MXFP4, 32 at MX formats. -/
def lenOk (f : Fmt) (len : Nat) : Bool :=
  decide (1 ≤ len) && decide (len ≤ 16384) && len % f.fold == 0 && (!f.isMx || len % 32 == 0)

/-- The fields of `op.outer` (R40, R58, R61). -/
def OuterSlot.wf (o : OuterSlot) : Bool :=
  o.colFmt.pairs o.rowFmt && o.colFmt.cls != .raw && lenOk o.colFmt o.len && o.col.fits o.colFmt && o.row.fits o.rowFmt
    && (!o.slide || (!o.colFmt.isMx && !o.rowFmt.isMx))
    && (match o.en with | .imm v => decide (v < 2) | .prm _ b => decide (b < 48) | _ => false)

/-- A row walk of a drain, load, `vec.ld` or `vec.st`, of a format (R140). -/
def Opnd.rowWalk (o : Opnd) (f : Fmt) : Bool :=
  match o with
  | .desc w =>
    let n := w.toNat
    bitsOf n 0 2 == 0 && Fmt.ofCode (bitsOf n 2 4) == some f && !bitOf n 6 && bitsOf n 49 2 != 3 && bitsOf n 125 3 != 7
  | .tq _ walk => !walk
  | _ => false

def DrainSlot.wf (o : DrainSlot) : Bool :=
  o.dst.rowWalk o.ofmt && (match o.satf with | some n => decide (n < 1024) | none => true)

/-- IFMT is FP32, BF16, FP16 or RAW64 (R61). -/
def LoadSlot.wf (o : LoadSlot) : Bool :=
  o.src.rowWalk o.ifmt && (o.ifmt == .fp32 || o.ifmt == .bf16 || o.ifmt == .fp16 || o.ifmt == .raw64f || o.ifmt == .raw64i)

/-- An operand of `op.row`: a PRM, or a vector by a row walk of FP32 or RAW64I (R75). -/
def Opnd.rowArg (o : Opnd) : Bool :=
  match o with
  | .prm _ _ => true
  | .desc _ => o.rowWalk .fp32 || o.rowWalk .raw64i
  | _ => false

def RowSlot.wf (o : RowSlot) : Bool :=
  o.v1.rowArg && (match o.op with
    | .scale | .add => o.v2.isNone
    | .scaleAdd => o.v2.rowArg
    | .clamp => (match o.v1, o.v2 with | .prm _ _, .prm _ _ => true | _, _ => false))

/-- The issue cycles a chain's epilogue operation takes (R124). -/
def EpiOp.cost : EpiOp → Nat
  | .trans _ _ _ => 4
  | _ => 1

/-- Operand D of a command that counts names a context; of one that does not, it may be left out (R138, R198). -/
def AeSlot.ctxOk (o : AeSlot) : Bool := o.d.isValue || (o.d.isNone && !o.cnt)

/-- The flag of an AE modifier, and operand D of a command that lands at its issuer (R198). -/
def AeSlot.modsOk (o : AeSlot) : Bool := match o.flag with | some n => decide (n < 1024) | none => true

/-- Operand D of a put (R198): with FLAG_EN it names a PRM up to 62. -/
def AeSlot.putCtx (o : AeSlot) : Bool :=
  match o.flag, o.d with
  | some _, .prm n _ => decide (n.val ≤ 62)
  | some _, _ => false
  | none, _ => o.ctxOk

def AeSlot.fetchWf (o : AeSlot) : Bool :=
  o.modsOk && o.a.isFar && (if o.tq.isSome then o.b.isNone else o.b.isLocal) && (o.c.isNone || o.c.isFar) && o.ctxOk

def AeSlot.putWf (o : AeSlot) : Bool :=
  o.modsOk && (if o.tq.isSome then o.a.isNone else o.a.isLocal) && o.b.isFar && (o.c.isNone || o.c.isFar) && o.putCtx

def AeSlot.gatherWf (o : AeSlot) : Bool :=
  o.modsOk && o.a.isLocal && (if o.tq.isSome then o.b.isNone else o.b.isLocal) && o.c.isFar && o.ctxOk

def AeSlot.relayWf (o : AeSlot) : Bool :=
  o.modsOk && o.tq.isSome && o.a.isFar && (match o.b with | .imm v => decide (v < 32) | _ => false)
    && (o.c.isNone || o.c.isFar) && o.ctxOk

def AeSlot.keysWf (o : AeSlot) : Bool := o.a.isFar && o.b.isFar && o.c.isNone && o.d.isNone

/-- A remote atomic (R227): the far word of 8 B, the return place or an immediate 0, the operand, the context. -/
def AeSlot.atomWf (o : AeSlot) (cas : Bool) : Bool :=
  o.modsOk && o.tq.isNone && !o.cache && !o.pin
    && (match o.a with | .desc w => w.toNat % 4 == 1 && bitsOf w.toNat 72 13 == 7 | _ => false)
    && (match o.b with | .desc w => w.toNat % 4 == 0 | .imm v => v == 0 | _ => false)
    && (if cas then (match o.c with | .prm n _ => decide (n.val ≤ 62) | _ => false) else o.c.isValue)
    && o.ctxOk

/-- A collective command (R241). -/
def AeSlot.collWf (o : AeSlot) (epoch : Bool) : Bool :=
  o.modsOk && o.tq.isNone && !o.cache && !o.pin && o.b.isNone && o.c.isNone && o.d.isValue
    && (if epoch then o.a.isNone else (match o.a with | .desc w => w.toNat % 4 == 1 && bitsOf w.toNat 72 13 == 63 | _ => false))

def ChainSlot.wf (o : ChainSlot) : Bool :=
  o.outer.wf && !o.outer.slide && o.ofmt.cls != .raw && decide (o.epilogue.length ≤ 8) && o.put.modsOk && o.put.b.isFar
    && o.put.putCtx

/-- The widths of a packet's fields (R214); the payload has the length its head states, where its operation has one. -/
def Packet.wf (k : Packet) : Bool :=
  decide (k.dst < 2 ^ 18) && decide (k.src < 2 ^ 18) && decide (k.space < 4) && decide (k.offset < 2 ^ 44)
    && decide (k.ctx < 2 ^ 20) && decide (k.seq < 2 ^ 32) && decide (k.epoch < 256) && decide (k.cls < 4)
    && decide (k.vc < 8) && decide (k.op < 64) && decide (k.len < 8192) && decide (k.flag < 1024)
    && decide (k.exp < 2 ^ 32) && decide (k.status < 256) && decide (k.age < 2 ^ 16) && decide (k.win < 2 ^ 16)
    && decide (k.tree < 4096) && decide (k.low < 2 ^ 32)
    && (!(k.op ≤ 0x02 || k.op == 0x08) || k.payload.length == k.len + 1)

/-- The immediates of `heat.forecast` (R175). -/
def forecastOk (remove : Bool) (mj lead len : Nat) : Bool :=
  remove || (decide (1 ≤ mj) && decide (mj ≤ 4194303) && decide (lead ≤ 10000) && decide (1 ≤ len) && decide (len ≤ 10000))

/-- Is a command's every operand one the spec gives the command? -/
def Instr.wf : Instr → Bool
  | .opOuter _ _ _ o => o.wf
  | .opDrain _ _ _ o => o.wf
  | .opLoad _ _ _ o => o.wf
  | .opRow _ _ _ o => o.wf
  | .opChain _ _ _ o => o.wf
  | .tileFetch _ _ o => o.fetchWf
  | .tilePut _ _ o => o.putWf
  | .tileGather _ _ o => o.gatherWf
  | .tileRelay _ _ o => o.relayWf
  | .tileDrop _ _ o => o.keysWf
  | .tileUnpin _ _ o => o.keysWf
  | .atomAdd _ _ o => o.atomWf false
  | .atomAnd _ _ o => o.atomWf false
  | .atomOr _ _ o => o.atomWf false
  | .atomXor _ _ o => o.atomWf false
  | .atomUmax _ _ o => o.atomWf false
  | .atomUmin _ _ o => o.atomWf false
  | .atomSwap _ _ o => o.atomWf false
  | .atomCas _ _ o => o.atomWf true
  | .collAllreduce _ _ o => o.collWf false
  | .collRscatter _ _ o => o.collWf false
  | .collAllgather _ _ o => o.collWf false
  | .collBcast _ _ o => o.collWf false
  | .collPermute _ _ o => o.collWf false
  | .collEpoch _ _ o => o.collWf true
  | .heatForecast _ r mj lead len => forecastOk r mj lead len
  | .packetForward _ k => k.wf
  | .escWaitExpire _ k => k.wf
  | .put k => k.wf
  | .permutePiece k => k.wf
  | .putMc k => k.wf
  | .loadReq k => k.wf
  | .loadRsp k => k.wf
  | .atomic k => k.wf
  | .atomicRsp k => k.wf
  | .completion k => k.wf
  | .ctrl k => k.wf
  | .mgmt k => k.wf
  | .collData k => k.wf
  | .collReady k => k.wf
  | .epochClose k => k.wf
  | _ => true

end Sys2Proof
end

