-- ==== Sys2Proof/Machine/Engine.lean ====
section
/-! DEFINITION. The outer-product engines (R38 to R62, R70 to R85): products and their landings, the catch, drains,
loads and row operations. -/

namespace Sys2Proof.Machine

open Sys2Proof

def accZero : Nat → Word := fun _ => 0
def setBase (set1 : Bool) : Nat := if set1 then 4096 else 0

/-- The cells of a set, row by row. -/
def Engine.setCells (g : Engine) (set1 : Bool) : List Word := NMap.dense accZero g.acc (setBase set1) 4096
def Engine.rowCells (g : Engine) (set1 : Bool) (r : Nat) : List Word := NMap.dense accZero g.acc (setBase set1 + 64 * r) 64
def Engine.setSet (g : Engine) (set1 : Bool) (cs : List Word) : Engine :=
  { g with acc := NMap.setRange accZero g.acc (setBase set1) cs }
def Engine.setRow (g : Engine) (set1 : Bool) (r : Nat) (cs : List Word) : Engine :=
  { g with acc := NMap.setRange accZero g.acc (setBase set1 + 64 * r) cs }

/-- Does a set hold INT8 accumulations (R62)? -/
def Engine.intMode (g : Engine) (set1 : Bool) : Bool := if set1 then g.int1 else g.int0
def Engine.setInt (g : Engine) (set1 b : Bool) : Engine := if set1 then { g with int1 := b } else { g with int0 := b }

/-- The physical set a role names in this cycle (R45): SHADOW is the set that is not active. -/
def Engine.role (g : Engine) (shadow : Bool) : Bool := g.active1 ^^ shadow

/-- The bit of `fresh` for a row of a set. -/
def freshBit (set1 : Bool) (r : Nat) : Nat := 2 ^ ((if set1 then 64 else 0) + r)
def freshSet (set1 : Bool) : Nat := (2 ^ 64 - 1) * (if set1 then 2 ^ 64 else 1)

/-- A set's saturation bit (R55). -/
def satFld (set1 : Bool) : Nat × Nat := if set1 then F.ENG_TILE_STAT_SAT1 else F.ENG_TILE_STAT_SAT0

/-- A cell of a set has saturated: SATn is set, and TILE_SAT is recorded (R55, R342). -/
def State.saturate (s : State) (p e : Nat) (set1 inj : Bool) : State :=
  let s := s.setF (R.ENG_TILE_STAT p e) (satFld set1) 1
  let o := occ 0x2B kEngine (engId p e) (if set1 then 1 else 0)
  s.record (if inj then s.injected o else o)

/-- The next 16 random bits of an engine's generator (R85), the n-th from here. -/
def Engine.random (g : Engine) (unit n : Nat) : BitVec 16 := Config.generatorBits g.seed unit (g.draws + n)

/-! ### Row writes that land later (R49, R50, R52) -/

/-- One row write takes place. -/
def State.landRow (s : State) (p e : Nat) (w : RowWrite) : State :=
  let i := engId p e
  let g := s.eng i
  let stale := w.isLoad && (g.fresh &&& freshBit w.set1 w.row) != 0
  let g := g.setRow w.set1 w.row w.cells
  let g := if w.isLoad then { g with fresh := g.fresh - (g.fresh &&& freshBit w.set1 w.row) } else g
  let s := s.setEng i g
  let s : State := if w.hit || stale then
      s.violate p 2 e w.tag w.land ((if w.set1 then 1 else 0) + 2 * w.row) else s
  if w.sat then (s.saturate p e w.set1 false).bump (R.ENG_CNT_SAT p e) 1 else s

/-- The row writes of an engine that have landed before cycle x take place. -/
def State.settleRows (s : State) (p e x : Nat) : State :=
  let i := engId p e
  let g := s.eng i
  let due := g.writes.filter fun w => decide (w.land < x)
  if due.isEmpty then s
  else
    let s := s.setEng i { g with writes := g.writes.filter fun w => !decide (w.land < x) }
    due.foldl (fun (s : State) w => s.landRow p e w) s

/-! ### Products -/

/-- The product cycles of an `op.outer` (R39). -/
def OuterRun.total (r : OuterRun) : Nat := if r.colFmt = .fp32 then 4 * r.len else r.len / r.colFmt.fold

/-- The event class of a product cycle (R179). -/
def productClass (f : Fmt) : Nat :=
  match f.cls with
  | .half => 0
  | .byte => 1
  | .four => 2
  | .fp32 => 3
  | .raw => 0

def startOuter (s : State) (p x : Nat) (o : OuterSlot) (col row : Place) : OuterRun :=
  { colFmt := o.colFmt, rowFmt := o.rowFmt, init := o.init, slide := o.slide, en := s.bitOpnd p o.en, col := col
    row := row, len := o.len, k := 0, tag := let t := s.heatTag p x; { t with base := if t.on then t.base else x } }

/-- OP_OUTER (R38, R61): a run of LEN reduction steps begins. -/
def execOpOuter (p : Pos) (e : Eng) (x : Nat) (o : OuterSlot) (s : State) : Res :=
  let i := engId p e
  let g := s.eng i
  match s.place p o.col, s.place p o.row with
  | some col, some row =>
    State.whenWf o.wf g.outer.isNone "an op.outer is running"
      ((s.setEng i { g with outer := some (startOuter s p x o col row) }).clock (dieOf p) x)
  | _, _ => .refused .illFormed

/-- Elements of one operand, step by step, packed by position: element i of every step of the fold. -/
def packSteps (els : List Nat) (n : Nat) : List Nat :=
  (List.range 64).map fun i => (List.range n).foldl (fun v j => v + els.getD (64 * j + i) 0 * 2 ^ (32 * j)) 0

def unpackSteps (reg : List Nat) (n : Nat) : List Nat :=
  (List.range n).flatMap fun j => reg.map fun v => bitsOf v (32 * j) 32

/-- The row operand in slide mode (R57): the register is loaded in the first product cycle, and afterwards shifts by
one position, its last element coming from the feed or, where the feed is empty, being zero. -/
def State.slideRow (s : State) (p e x : Nat) (r : OuterRun) (k n : Nat) : List Nat × State :=
  let i := engId p e
  let tag := r.tag
  if k = 0 then
    let a := s.readOperand p x e r.row r.rowFmt 0 n
    let more := match r.row with
      | .walk w => decide (n < w.count)
      | .tq _ _ => true
    let b : Fetched × State := if more && decide (1 < r.len / n) then a.2.readOperand p x e r.row r.rowFmt n n
      else (⟨[], [], false⟩, a.2)
    let reg := packSteps a.1.els n
    let feed := if b.1.els.isEmpty then [] else packSteps b.1.els n
    let s := b.2.setEng i { b.2.eng i with rowReg := reg, feed := feed }
    (unpackSteps reg n, s)
  else
    let g := s.eng i
    match g.feed with
    | v :: rest =>
      let reg := g.rowReg.drop 1 ++ [v]
      (unpackSteps reg n, s.setEng i { g with rowReg := reg, feed := rest })
    | [] =>
      let reg := g.rowReg.drop 1 ++ [0]
      let s := s.setEng i { g with rowReg := reg, feed := [] }
      (unpackSteps reg n, s.violate p 10 e tag x 0)

/-- PRODUCT_CYCLE (R46, R59): one product cycle issues. It is tagged with the set that is active before a catch of the
same cycle, reads its operands, and is gated where an operand's tile is zero or EN is 0. At FP32 the first of a step's
four product cycles carries its term. -/
def State.doProduct (s : State) (p e x : Nat) (r : OuterRun) : State :=
  let i := engId p e
  let k := r.k
  let four := decide (r.colFmt = .fp32)
  let n := r.colFmt.fold
  let s := s.bump (R.ENG_CNT_PRODUCT p e) 1
  let s := if r.slide then s.bump (R.ENG_CNT_SLIDE p e) 1 else s
  let adv (s : State) : State :=
    let g := s.eng i
    let r' := { r with k := k + 1 }
    let fin := decide (r.total ≤ k + 1)
    let act := if g.catchAt = some x then !g.active1 else g.active1
    let ch := match g.chain with
      | some c => if fin && c.drain.isNone then some { c with drain := some (act, x + (if four then 14 else 11)) } else some c
      | none => none
    s.setEng i { g with outer := if fin then none else some r', chain := ch }
  if four && k % 4 != 0 then
    let s : State := if r.en then s.energy (dieOf p) 3 1
      else (s.bump (R.ENG_CNT_GATED p e) 1).energy (dieOf p) 4 1
    adv s
  else
    let t := if four then k / 4 else k * n
    let a := s.readOperand p x e r.col r.colFmt t n
    let b : List Nat × Fetched × State :=
      if r.slide then
        let z := a.2.slideRow p e x r (if four then k / 4 else k) n
        (z.1, ⟨[], [], false⟩, z.2)
      else
        let z := a.2.readOperand p x e r.row r.rowFmt t n
        (z.1.els, z.1, z.2)
    let s := b.2.2
    let zg := s.f (R.ENG_CTL p e) F.ENG_CTL_ZGATE_EN = 1
    let gated := !r.en || (decide zg && (a.1.zero || (!r.slide && b.2.1.zero)))
    if gated then
      adv ((s.bump (R.ENG_CNT_GATED p e) 1).energy (dieOf p) 4 1)
    else
      let g := s.eng i
      let act := if g.catchAt = some x then !g.active1 else g.active1
      let pr : Prod :=
        ⟨act, r.init && k == 0, r.colFmt, r.rowFmt, a.1.els, b.1, a.1.scales, b.2.1.scales, x,
          x + (if four then 13 else 10), r.tag⟩
      let s := s.setEng i { g with flight := g.flight ++ [pr] }
      adv (s.energy (dieOf p) (productClass r.colFmt) 1)

def execProductCycle (p : Pos) (e : Eng) (x : Nat) (s : State) : Res :=
  match (s.eng (engId p e)).outer with
  | none => .refused (.notEnabled "no op.outer is running")
  | some r => .next ((s.doProduct p e x r).clock (dieOf p) x)

/-- The exact term of cell (i, j) of a product (R39, R69, R71). -/
def Prod.term (pr : Prod) (i j : Nat) : Val :=
  let n := pr.colFmt.fold
  let v := sumVals ((List.range n).map fun t =>
    (elemVal pr.colFmt (pr.col.getD (64 * t + i) 0)).mul (elemVal pr.rowFmt (pr.row.getD (64 * t + j) 0)))
  if pr.colFmt.isMx then
    match mxShift (pr.colX.getD i 0) (pr.rowX.getD j 0) with
    | some k => v.shift k
    | none => .nan
  else v

/-- Is a product on the INT8 exact path (R74)? -/
def Prod.isInt (pr : Prod) : Bool := pr.colFmt == .int8

def Val.toInt : Val → Int
  | .fin n m e => if 0 ≤ e then sgn n (m * pow2 e) else sgn n (m / pow2 (-e))
  | _ => 0

/-- What a product makes of cell (i, j), whose bits are w, and whether it saturates (R71, R73, R74, R85). `rnd` is the
random draw under SR_ACC. -/
def Prod.land1 (pr : Prod) (w : Word) (i j : Nat) (rnd : Option (BitVec 16)) : Word × Bool :=
  let t := pr.term i j
  if pr.isInt then
    let v := sat48 ((if pr.init then 0 else cellI w) + t.toInt)
    (isumWord v.1, v.2)
  else
    let o := match rnd with
      | some r => cellSr (cellS w) (cellE w) t pr.init r
      | none => if pr.init then cellInit t else cellAdd (cellS w) (cellE w) t
    (cellWord o.s o.e, o.sat)

/-- A product lands in its set (R44, R52): it is applied after the row writes that land with it, and is noted where a
row write still to come overwrites it. -/
def State.doLand (s : State) (p e x : Nat) (pr : Prod) : State :=
  let i := engId p e
  let s := s.settleRows p e (x + 1)
  let g := s.eng i
  let g := { g with flight := g.flight.erase pr }
  let sr := s.f (R.ENG_COMPAT p) F.ENG_COMPAT_SR_ACC = 1 && !pr.isInt
  let old := g.setCells pr.set1
  let new := old.mapIdx fun k w => pr.land1 w (k / 64) (k % 64) (if sr then some (g.random i k) else none)
  let g := g.setSet pr.set1 (new.map (·.1))
  let g := if pr.init then g.setInt pr.set1 pr.isInt else g
  let g := { g with fresh := g.fresh ||| freshSet pr.set1, draws := g.draws + (if sr then 4096 else 0) }
  let g := { g with writes := g.writes.map fun w => if w.set1 = pr.set1 then { w with hit := true } else w }
  let s := s.setEng i g
  let s : State := if new.any (·.2) then (s.saturate p e pr.set1 false).bump (R.ENG_CNT_SAT p e) 1 else s
  let s : State := match s.inject 0x2B kEngine i with
    | (some _, s) => s.saturate p e pr.set1 true
    | (none, s) => s
  let s : State := match s.inject 0x0C kEngine i with
    | (some syn, s) => s.record (s.injected (occ 0x0C kEngine i (if pr.set1 then 1 else 0) (syn % 256)))
    | (none, s) => s
  match s.inject 0x0D kEngine i with
  | (some syn, s) =>
    let s := s.setEng i ((s.eng i).setRow pr.set1 0 (0 :: ((s.eng i).rowCells pr.set1 0).drop 1))
    s.record (s.injected (occ 0x0D kEngine i (if pr.set1 then 1 else 0) (syn % 2 ^ 16)))
  | (none, s) => s

/-- PRODUCT_CYCLE_LAND (R44): the product cycle that lands at the end of cycle x. -/
def execProductCycleLand (p : Pos) (e : Eng) (x : Nat) (s : State) : Res :=
  match (s.eng (engId p e)).flight.find? fun pr => pr.land == x with
  | none => .refused (.notEnabled "no product cycle lands in this cycle")
  | some pr => .next ((s.doLand p e x pr).clock (dieOf p) x)

/-- OP_CATCH (R46): the roles of the two sets swap for product cycles issued after cycle x; one catch in a cycle. -/
def execOpCatch (p : Pos) (e : Eng) (x : Nat) (s : State) : Res :=
  let i := engId p e
  let g := s.eng i
  State.when (g.catchAt != some x) "an op.catch has issued in this cycle"
    (((s.setEng i { g with active1 := !g.active1, catchAt := some x }).bump (R.ENG_CNT_CATCH p e) 1).clock (dieOf p) x)

/-! ### Drains -/

/-- OP_DRAIN (R48, R51, R55): a drain begins; no other drain or row operation may be in progress. -/
def State.doDrain (s : State) (p e x : Nat) (o : DrainSlot) (pl : Place) : State :=
  let i := engId p e
  let g := s.eng i
  let set1 := g.role o.shadow
  let sat := s.f (R.ENG_TILE_STAT p e) (satFld set1) = 1
  let q : Nat × State := match pl with
    | .tq q _ => s.tqFill p q o.ofmt x e
    | .walk _ => (0, s)
  let s := q.2
  let g := s.eng i
  let run : DrainRun := { set1 := set1, ofmt := o.ofmt, stochastic := o.stochastic, clr := o.clr,
                          flag := if sat then o.satf else none, dst := pl, ring := q.1, issue := x, row := 0,
                          tag := s.heatTag p x }
  (s.setEng i { g with drain := some run }).clock (dieOf p) x

def execOpDrain (p : Pos) (e : Eng) (x : Nat) (o : DrainSlot) (s : State) : Res :=
  let g := s.eng (engId p e)
  match s.place p o.dst with
  | none => .refused .illFormed
  | some pl =>
    State.whenWf (o.wf && (!o.stochastic || s.f (R.ENG_COMPAT p) F.ENG_COMPAT_SR_DRAIN == 1))
      (g.drain.isNone && g.row.isNone) "the engine's row read port is in use" (s.doDrain p e x o pl)

/-- The rounding of a drain's element n of a row. -/
def Engine.drainRnd (g : Engine) (stochastic : Bool) (unit n : Nat) : Rnd :=
  if stochastic then .stochastic (g.random unit n) else .nearest

/-- The exact value a cell drains (R77, R79). -/
def drainVal (int : Bool) (w : Word) : Val := if int then ofInt (cellI w) 0 else cellVal (cellS w) (cellE w)

/-- A row of cells in an output format: element bits, and the two scale bytes of an MX format (R77 to R80). -/
def drainRowBits (f : Fmt) (int : Bool) (rnd : Nat → Rnd) (cs : List Word) : List Nat × List Nat :=
  match f with
  | .raw64f | .raw64i => (cs.map (·.toNat), [])
  | f =>
    let vs := cs.map (drainVal int)
    if f.isMx then
      let a := encMxBlock f rnd (vs.take 32)
      let b := encMxBlock f (fun i => rnd (32 + i)) (vs.drop 32)
      (a.2 ++ b.2, [a.1, b.1])
    else (vs.mapIdx fun i v => encElem f (rnd i) v, [])

/-- The bytes of row r of square q of a tile of a format: address offset and byte (R68, R105). -/
def rowBytes (f : Fmt) (b q r : Nat) (els : List Nat) : List (Nat × Byte) :=
  match f with
  | .mxe3m2 | .mxe2m3 =>
    (List.range 16).flatMap fun g =>
      let v := (List.range 4).foldl (fun v j => v + els.getD (4 * g + j) 0 % 64 * 2 ^ (6 * j)) 0
      (leBytes 3 v).mapIdx fun i y => (b + 128 * r + 48 * q + 3 * g + i, y)
  | .mxfp4 =>
    (List.range 32).map fun g =>
      (b + 128 * r + 32 * q + g, BitVec.ofNat 8 (els.getD (2 * g) 0 % 16 + els.getD (2 * g + 1) 0 % 16 * 16))
  | f =>
    els.zipIdx.flatMap fun ej =>
      let a := elemAt f b q r ej.2
      (leBytes a.2.2 ej.1).mapIdx fun i y => (a.1 + i, y)

/-- Has a drain or row read in cycle x missed a product cycle of its set (R52)? One that lands no earlier than the
operation's `last` access of the set is no part of what it reads, and neither is one issued from cycle `from_` on, where a
drain clears the rows it reads (R53; log 29). -/
def Engine.misses (g : Engine) (set1 : Bool) (x last : Nat) (from_ : Option Nat) : Bool :=
  g.flight.any fun pr => pr.set1 == set1 && decide (pr.issue < x) && decide (x ≤ pr.land) && decide (pr.land < last) &&
    (match from_ with | some c => decide (pr.issue < c) | none => true)

/-- One row of a set is read in cycle x: the cells, a miss reported, the row no longer unread. -/
def State.readRow (s : State) (p e x : Nat) (set1 : Bool) (r last : Nat) (from_ : Option Nat) (tag : HeatTag) :
    List Word × State :=
  let i := engId p e
  let s := s.settleRows p e x
  let g := s.eng i
  let cs := g.rowCells set1 r
  let missed := g.misses set1 x last from_
  let s := s.setEng i { g with fresh := g.fresh - (g.fresh &&& freshBit set1 r) }
  (cs, if missed then s.violate p 1 e tag x ((if set1 then 1 else 0) + 2 * r) else s)

/-- DRAIN_ROW (R48, R54, R77 to R80). -/
def State.doDrainRow (s : State) (p e x : Nat) (d : DrainRun) : State :=
  let i := engId p e
  let rd := s.readRow p e x d.set1 d.row (d.issue + 63) (if d.clr then some d.issue else none) d.tag
  let s := rd.2
  let g := s.eng i
  let bits := drainRowBits d.ofmt (g.intMode d.set1) (g.drainRnd d.stochastic i) rd.1
  let dst : Nat × Option Nat := match d.dst with
    | .walk w => (w.runBase 0, some w.sb)
    | .tq q _ => ((s.tq p q).slotBase d.ring, none)
  let keep := match d.dst with
    | .walk w => decide (d.row < w.count)
    | .tq _ _ => true
  let bytes := rowBytes d.ofmt dst.1 0 d.row bits.1
  let scale := match dst.2 with
    | some a => bits.2.mapIdx fun h v => (a + 2 * d.row + h, BitVec.ofNat 8 v)
    | none => []
  let s := if keep then s.staticWrite p ⟨x + 3, e, bytes ++ scale, e, d.tag⟩ else s
  let g := s.eng i
  let g := if d.clr then g.setRow d.set1 d.row (List.replicate 64 0) else g
  let last := decide (63 ≤ d.row)
  let g := { g with draws := g.draws + (if d.stochastic then 64 else 0) }
  let g := if last then { g with drain := none, done := g.done ++ [(d.issue + 66, d.flag)] }
    else { g with drain := some { d with row := d.row + 1 } }
  let s := s.setEng i g
  let s := s.bump (R.ENG_CNT_DRAIN_ROWS p e) 1
  let s := s.energy (dieOf p) 5 1
  let s := if last && d.clr then s.setF (R.ENG_TILE_STAT p e) (satFld d.set1) 0 else s
  s.clock (dieOf p) x

def execDrainRow (p : Pos) (e : Eng) (x : Nat) (s : State) : Res :=
  match (s.eng (engId p e)).drain with
  | none => .refused (.notEnabled "no drain is in progress")
  | some d => State.when (x == d.issue + d.row) "the drain reads no row in this cycle" (s.doDrainRow p e x d)

/-- DRAIN_TILE_COMPLETE (R55): SATF sets its flag in the cycle the tile is complete. -/
def execDrainTileComplete (p : Pos) (e : Eng) (x : Nat) (s : State) : Res :=
  let i := engId p e
  let g := s.eng i
  match g.done.find? fun d => d.1 == x with
  | none => .refused (.notEnabled "no drained tile is complete in this cycle")
  | some d =>
    let s := (s.setEng i { g with done := g.done.erase d }).settle p x
    let s := match d.2 with
      | some n => s.landSet p n x 0
      | none => s
    .next (s.clock (dieOf p) x)

/-! ### Loads -/

/-- OP_LOAD (R49, R51): a load begins. -/
def execOpLoad (p : Pos) (e : Eng) (x : Nat) (o : LoadSlot) (s : State) : Res :=
  let i := engId p e
  let g := s.eng i
  match s.place p o.src with
  | none => .refused .illFormed
  | some pl =>
    State.whenWf o.wf g.load.isNone "a load is in progress"
      ((s.setEng i { g with load := some ⟨g.role o.shadow, o.ifmt, pl, x, 0, s.heatTag p x⟩ }).clock (dieOf p) x)

/-- The cell a load makes of an element (R76). -/
def loadCell (f : Fmt) (b : Nat) : Word :=
  match f with
  | .raw64f | .raw64i => BitVec.ofNat 64 b
  | f => cellWord (rne32 (elemVal f b)) 0

/-- LOAD_ROW (R49, R76): row r is taken in cycle s + r, and its write lands at the end of the next. -/
def State.doLoadRow (s : State) (p e x : Nat) (l : LoadRun) : State :=
  let i := engId p e
  let a := s.readOperand p x e l.src l.ifmt l.row 1
  let s := a.2
  let g := s.eng i
  let cells := a.1.els.map (loadCell l.ifmt)
  let g := if l.row = 0 then g.setInt l.set1 (l.ifmt == .raw64i) else g
  let wr : RowWrite := ⟨x + 1, l.set1, l.row, cells, true, false, false, l.tag⟩
  let g := { g with writes := g.writes ++ [wr] }
  let g := if 63 ≤ l.row then { g with load := none } else { g with load := some { l with row := l.row + 1 } }
  let s := (s.setEng i g).bump (R.ENG_CNT_LOAD_ROWS p e) 1
  (s.energy (dieOf p) 5 1).clock (dieOf p) x

def execLoadRow (p : Pos) (e : Eng) (x : Nat) (s : State) : Res :=
  match (s.eng (engId p e)).load with
  | none => .refused (.notEnabled "no load is in progress")
  | some l => State.when (x == l.issue + l.row) "the load takes no row in this cycle" (s.doLoadRow p e x l)

/-! ### Row operations -/

/-- An operand of `op.row`, read when the operation issues (R50, R75): a PRM's 48 bits, or the first vector of a
walk. -/
def State.rowArg (s : State) (p x e : Nat) (o : Opnd) : RowArg × State :=
  match o with
  | .prm n _ => (.scalar (s.prm p n.val), s)
  | .desc w => match s.localDesc p w with
    | some wk =>
      let a := s.readOperand p x e (.walk wk) wk.fmt 0 1
      (.vector a.1.els, a.2)
    | none => (.scalar 0, s)
  | _ => (.scalar 0, s)

/-- OP_ROW (R50, R51). -/
def State.doRow (s : State) (p e x : Nat) (o : RowSlot) : State :=
  let i := engId p e
  let a := s.rowArg p x e o.v1
  let b := a.2.rowArg p x e o.v2
  let s := b.2
  let g := s.eng i
  (s.setEng i { g with row := some ⟨g.role o.shadow, o.op, a.1, b.1, x, 0, s.heatTag p x⟩ }).clock (dieOf p) x

def execOpRow (p : Pos) (e : Eng) (x : Nat) (o : RowSlot) (s : State) : Res :=
  let g := s.eng (engId p e)
  let int := g.intMode (g.role o.shadow)
  State.whenWf (o.wf && (!int || o.op == .add || o.op == .clamp)) (g.drain.isNone && g.row.isNone)
    "the engine's row read port is in use" (s.doRow p e x o)

/-- An operand's value for column j: the FP32 word, or the 48-bit integer. -/
def RowArg.at (a : RowArg) (j : Nat) : Nat := match a with | .scalar v => v | .vector vs => vs.getD j 0
def argFp (v : Nat) : W32 := BitVec.ofNat 32 v
def argInt (v : Nat) : Int := (BitVec.ofNat 48 v).toInt

/-- A row operation on one cell (R75). -/
def rowCell (op : RowOp) (int : Bool) (w : Word) (a b : Nat) (rnd : Option (BitVec 16)) : Word × Bool :=
  if int then
    let v := cellI w
    match op with
    | .clamp =>
      let v := if v < argInt a then argInt a else v
      let v := if argInt b < v then argInt b else v
      (isumWord v, false)
    | _ => let r := sat48 (v + argInt a); (isumWord r.1, r.2)
  else
    let fin (o : CellOut) : Word × Bool := (cellWord o.s o.e, o.sat)
    let add (c : CellOut) (v : Nat) : CellOut :=
      let o := match rnd with
        | some r => cellSr c.s c.e (dec32 (argFp v)) false r
        | none => cellAdd c.s c.e (dec32 (argFp v))
      ⟨o.s, o.e, c.sat || o.sat⟩
    match op with
    | .scale => fin (cellScale (cellS w) (cellE w) (dec32 (argFp a)))
    | .add => fin (add ⟨cellS w, cellE w, false⟩ a)
    | .scaleAdd => fin (add (cellScale (cellS w) (cellE w) (dec32 (argFp a))) b)
    | .clamp => fin (cellClamp (cellS w) (cellE w) (argFp a) (argFp b))

/-- ROW_OP_ROW (R50, R75): row r is read in cycle s + r, and the result lands at the end of the next. -/
def State.doRowRow (s : State) (p e x : Nat) (r : RowRun) : State :=
  let i := engId p e
  let rd := s.readRow p e x r.set1 r.row (r.issue + 64) none r.tag
  let s := rd.2
  let g := s.eng i
  let int := g.intMode r.set1
  let sr := s.f (R.ENG_COMPAT p) F.ENG_COMPAT_SR_ACC = 1 && !int && r.op == .add
  let out := rd.1.mapIdx fun j w => rowCell r.op int w (r.v1.at j) (r.v2.at j) (if sr then some (g.random i j) else none)
  let wr : RowWrite := ⟨x + 1, r.set1, r.row, out.map (·.1), false, out.any (·.2), false, r.tag⟩
  let g := { g with writes := g.writes ++ [wr], draws := g.draws + (if sr then 64 else 0) }
  let g := if 63 ≤ r.row then { g with row := none } else { g with row := some { r with row := r.row + 1 } }
  let s := (s.setEng i g).bump (R.ENG_CNT_ROWOP_ROWS p e) 1
  (s.energy (dieOf p) 5 1).clock (dieOf p) x

def execRowOpRow (p : Pos) (e : Eng) (x : Nat) (s : State) : Res :=
  match (s.eng (engId p e)).row with
  | none => .refused (.notEnabled "no row operation is in progress")
  | some r => State.when (x == r.issue + r.row) "the row operation reads no row in this cycle" (s.doRowRow p e x r)

/-! ### Chains (R124) -/

/-- The period of a chain's rows. -/
def chainPeriod (ep : List EpiOp) : Nat := max 1 (ceilDiv ((ep.map EpiOp.cost).sum) 8)

/-- OP_CHAIN (R124): a product whose drain feeds the vector unit; its context and count are read as it issues. -/
def State.doChain (s : State) (p e x : Nat) (o : ChainSlot) (col row : Place) : State :=
  let i := engId p e
  let g := s.eng i
  let ctx := s.value p o.put.d % 2 ^ 20
  let exp := match o.put.flag, o.put.d with
    | some _, .prm n _ => s.prm p (n.val + 1) % 2 ^ 32
    | _, _ => 0
  let c : ChainRun := { ofmt := o.ofmt, epilogue := o.epilogue, period := chainPeriod o.epilogue, put := o.put, ctx := ctx,
                        exp := exp, drain := none, row := 0, rows := [], out := [], short := false }
  (s.setEng i { g with outer := some (startOuter s p x o.outer col row), chain := some c }).clock (dieOf p) x

def execOpChain (p : Pos) (e : Eng) (x : Nat) (o : ChainSlot) (s : State) : Res :=
  let g := s.eng (engId p e)
  match s.place p o.outer.col, s.place p o.outer.row with
  | some col, some row =>
    State.whenWf o.wf (g.outer.isNone && g.chain.isNone) "a product of the engine is running" (s.doChain p e x o col row)
  | _, _ => .refused .illFormed

end Sys2Proof.Machine
end

