-- ==== Sys2Proof/Machine/Cvu.lean ====
section
/-! DEFINITION. The core vector unit (R63, R64, R82, R86): arithmetic, conversion, transcendentals, reductions and
movement. A result is held in flight until the cycle it becomes usable. -/

namespace Sys2Proof.Machine

open Sys2Proof

def w32Zero : Nat → W32 := fun _ => 0

/-- The lanes of a vector register. -/
def Cvu.reg (c : Cvu) (r : Nat) : List W32 := NMap.dense w32Zero c.regs (512 * r) 512
def Cvu.setReg (c : Cvu) (r : Nat) (vs : List W32) : Cvu := { c with regs := NMap.setRange w32Zero c.regs (512 * r) vs }

/-- The bits of CVU_EXC. -/
abbrev xInvalid := 1
abbrev xOverflow := 2
abbrev xDivZero := 4
abbrev xUnderflow := 8

/-- An exact result rounded to nearest even into a lane, with the CVU_EXC bits it raises. A NaN is canonical. -/
def laneRound (v : Val) (inNan inInf : Bool) : W32 × Nat :=
  match v with
  | .nan => (nan32, if inNan then 0 else xInvalid)
  | .inf n => (rne32 (.inf n), 0)
  | .fin n m e =>
    let w := rne32 (.fin n m e)
    if isInf32 w then (w, if inInf then 0 else xOverflow)
    else
      let sub := bitsOf w.toNat 23 8 == 0 && m != 0
      let exact := (dec32 w).eqv (.fin n m e)
      (w, if sub && !exact then xUnderflow else 0)

/-- The larger or smaller of two values as the value test of R86 orders them; equal values keep the first. -/
def laneMax (min : Bool) (a b : W32) : W32 × Nat :=
  let va := dec32 a
  let vb := dec32 b
  if va.isNan || vb.isNan then (nan32, 0)
  else if min then (if vb.lt va then (b, 0) else (a, 0))
  else (if va.lt vb then (b, 0) else (a, 0))

/-- A comparison (R144). -/
def laneCmp (c : Cmp) (a b : W32) : Bool :=
  let va := dec32 a
  let vb := dec32 b
  match c with
  | .eq => va.eqv vb
  | .ne => !va.eqv vb
  | .lt => va.lt vb
  | .le => va.lt vb || va.eqv vb
  | .gt => vb.lt va
  | .ge => vb.lt va || va.eqv vb
  | .unordered => va.isNan || vb.isNan
  | .ordered => !va.isNan && !vb.isNan

/-- One lane of an arithmetic operation (R63, R64). -/
def laneArith (op : VArith) (a b c : W32) : W32 × Nat :=
  let va := dec32 a
  let vb := dec32 b
  let vc := dec32 c
  let inf (v : Val) : Bool := match v with | .inf _ => true | _ => false
  match op with
  | .add => laneRound (va.add vb) (va.isNan || vb.isNan) (inf va || inf vb)
  | .sub => laneRound (va.add vb.neg) (va.isNan || vb.isNan) (inf va || inf vb)
  | .mul => laneRound (va.mul vb) (va.isNan || vb.isNan) (inf va || inf vb)
  | .fma => laneRound ((va.mul vb).add vc) (va.isNan || vb.isNan || vc.isNan) (inf va || inf vb || inf vc)
  | .max => laneMax false a b
  | .min => laneMax true a b
  | .sel => (if c ≠ Config.cmpFalse then a else b, 0)
  | .cmp k => (if laneCmp k a b then Config.cmpTrue else Config.cmpFalse, 0)

/-! ### Transcendentals (R64): an approximation far closer than a unit in the last place, held in fixed point of 160
fraction bits, then moved by the free offset where the bound allows it -/

def fpBits : Nat := 160
def fpOne : Int := 2 ^ 160

/-- ln 2 in fixed point: the sum of 1/(k 2^k). -/
def fpLn2 : Int := (List.range 170).foldl (fun s k => s + fpOne / (((k + 1 : Nat) : Int) * 2 ^ (k + 1))) 0

/-- e to a small fixed-point power, by its series. -/
def fpExp (r : Int) : Int :=
  ((List.range 50).foldl (fun (acc : Int × Int) k =>
    let t := acc.2 * r / fpOne / ((k + 1 : Nat) : Int)
    (acc.1 + t, t)) (fpOne, fpOne)).1

/-- 2 artanh of a fixed-point number below 1/3 in magnitude. -/
def fpArtanh2 (z : Int) : Int :=
  let z2 := z * z / fpOne
  2 * ((List.range 60).foldl (fun (acc : Int × Int) k =>
    (acc.1 + acc.2 / ((2 * k + 1 : Nat) : Int), acc.2 * z2 / fpOne)) (0, z)).1

/-- Integer square root, bit by bit. -/
def isqrt (n : Nat) : Nat :=
  let k := Nat.log2 n / 2 + 1
  (List.range k).foldl (fun r i => let c := r + 2 ^ (k - 1 - i); if c * c ≤ n then c else r) 0

/-- A fixed-point value times 2^e as a value, with its sticky bit set so that it is never taken for a tie. -/
def fpVal (v e : Int) : Val := ofInt (2 * v + 1) (e - (fpBits + 1))

/-- The exact-enough value of a transcendental of a finite, nonzero argument inside its domain; none where the spec
states no result. -/
def transVal (op : VTrans) (neg : Bool) (m : Nat) (e : Int) : Option Val :=
  match op with
  | .rcp => some (.fin neg (2 * (2 ^ 400 / m) + 1) (-e - 401))
  | .rsqrt =>
    if neg then none
    else
      let h : Nat := if e % 2 = 0 then 0 else 1
      some (.fin false (2 * isqrt (2 ^ 400 / (m * 2 ^ h)) + 1) (-((e - h) / 2) - 201))
  | .log =>
    if neg then none
    else
      let l := Nat.log2 m
      let x : Int := (m : Int) * fpOne / ((2 ^ l : Nat) : Int)
      let z := (x - fpOne) * fpOne / (x + fpOne)
      let v := fpArtanh2 z + (e + l) * fpLn2
      if v = 0 then some (.fin false 0 0) else some (fpVal v 0)
  | .exp =>
    let mag := if 12 ≤ e then (2 : Int) ^ 20 * fpOne
      else if -300 ≤ e then (if 0 ≤ e then (m : Int) * 2 ^ e.toNat * fpOne else (m : Int) * fpOne / 2 ^ (-e).toNat)
      else 0
    let x := if neg then -mag else mag
    if (2 : Int) ^ 12 * fpOne < mag then some (if neg then .fin false 1 (-400) else .fin false 1 400)
    else
      let k := x / fpLn2
      some (fpVal (fpExp (x - k * fpLn2)) k)

/-- The distance of two finite values, as a value. -/
def distance (a b : Val) : Val := match a.add b.neg with | .fin _ m e => .fin false m e | v => v

/-- A unit in the last place of an FP32 word's value. -/
def ulp32 (w : W32) : Val := .fin false 1 (max 0 (bitsOf w.toNat 23 8 - 1 : Nat) + (-149 : Int))

/-- Step an FP32 magnitude by units in the last place. -/
def stepUlp (w : W32) (k : Int) : W32 :=
  let mag : Int := bitsOf w.toNat 0 31
  let m := max 0 (min 0x7F7FFFFF (mag + k))
  BitVec.ofNat 32 (w.toNat / 2 ^ 31 * 2 ^ 31 + m.toNat)

/-- The bound of R64, in units in the last place. -/
def vtransBound : VTrans → Nat
  | .exp | .log => 2
  | _ => 1

def vtransCode : VTrans → Nat
  | .exp => 0 | .log => 1 | .rcp => 2 | .rsqrt => 3

/-- One lane of a transcendental: the nearest value moved by the free offset where that keeps the bound of R64; a free
value where the spec states no result. -/
def laneTrans (op : VTrans) (w : W32) : W32 × Nat :=
  match dec32 w with
  | .nan => (nan32, 0)
  | .fin n m e =>
    if m = 0 then
      match op with
      | .exp => (rne32 (.fin false 1 0), 0)
      | _ =>
        let r := Config.transcendentalOpen (vtransCode op) w
        (r, xDivZero + (if (dec32 r).isNan then xInvalid else 0))
    else match transVal op n m e with
      | none => let r := Config.transcendentalOpen (vtransCode op) w; (r, if (dec32 r).isNan then xInvalid else 0)
      | some v =>
        let base := laneRound v false false
        if isInf32 base.1 then base
        else
          let cand := stepUlp base.1 (Config.transcendentalUlp (vtransCode op) w)
          let far := (Val.fin false (vtransBound op) 0).mul (ulp32 base.1)
          let r := if far.lt (distance (dec32 cand) v) then base.1 else cand
          (r, if bitsOf r.toNat 23 8 = 0 then base.2 else 0)
  | .inf _ => let r := Config.transcendentalOpen (vtransCode op) w; (r, if (dec32 r).isNan then xInvalid else 0)

/-! ### Issue and landing -/

/-- A result joins those in flight; BUSY cycles are counted once however many operations overlap. -/
def State.cvuIssue (s : State) (p x : Nat) (r : CvuResult) : State :=
  let c := s.cvu p
  let busy := r.usable - max x c.busyTo
  let s := s.setCvu p { c with flight := c.flight ++ [r], busyTo := max c.busyTo r.usable, now := max c.now x }
  s.bump (R.CVU_CNT_BUSY p) busy

/-- The lanes of a result, and the exceptions they raise together. -/
def joinLanes (ls : List (W32 × Nat)) : List W32 × Nat := (ls.map (·.1), ls.foldl (fun a l => a ||| l.2) 0)

/-- VEC_ARITH (R63): usable 4 cycles after its issue. -/
def execVecArith (p : Pos) (x : Nat) (op : VArith) (dst a b c : Fin 32) (s : State) : Res :=
  let v := s.cvu p
  let ls := joinLanes ((List.range 512).map fun i =>
    laneArith op ((v.reg a.val).getD i 0) ((v.reg b.val).getD i 0) ((v.reg c.val).getD i 0))
  let s := s.cvuIssue p x ⟨x + 4, dst.val, ls.1, ls.2, false⟩
  let s := s.bump (R.CVU_CNT_LANE_OPS p) 512
  .next ((s.energy (dieOf p) 6 1).clock (dieOf p) x)

/-- The value a lane holds in a format: an element's code stands in its low bits, and an MX block's scale in bits
[23:16] of its lanes (log 13). -/
def laneVal (f : Fmt) (w : W32) : Val :=
  let b := bitsOf w.toNat 0 (min 32 f.width)
  if f.isMx then
    let x := bitsOf w.toNat 16 8
    if x = 0xFF then .nan else (elemVal f b).shift ((x : Int) - 127)
  else elemVal f b

/-- A register's lanes in a format, each group of 32 one MX block (R82). -/
def encLanes (f : Fmt) (vs : List Val) : List W32 :=
  if f.isMx then
    (List.range 16).flatMap fun g =>
      let b := encMxBlock f (fun _ => .nearest) (slice vs (32 * g) 32)
      b.2.map fun e => BitVec.ofNat 32 (e + b.1 * 2 ^ 16)
  else vs.map fun v => BitVec.ofNat 32 (encElem f .nearest v)

/-- The CVU_EXC bits of a conversion's lane. -/
def cvtExc (v : Val) (r : W32) (toF : Fmt) : Nat :=
  match v, laneVal toF r with
  | .fin _ m _, .inf _ => if m = 0 then 0 else xOverflow
  | .fin n m e, .fin n' m' e' =>
    let min := (match toF with | .fp32 => 0x800000 | .bf16 => 0x80 | .fp16 => 0x400 | .e4m3 => 8 | .e5m2 => 4 | _ => 0)
    let mag := bitsOf r.toNat 0 (toF.width - 1)
    if m ≠ 0 ∧ mag < min ∧ (Val.fin n m e).eqv (.fin n' m' e') = false then xUnderflow else 0
  | .nan, _ => 0
  | _, .nan => xInvalid
  | _, _ => 0

/-- VEC_CVT (R82). -/
def execVecCvt (p : Pos) (x : Nat) (dst src : Fin 32) (fromF toF : Fmt) (s : State) : Res :=
  let vs := ((s.cvu p).reg src.val).map (laneVal fromF)
  let out := encLanes toF vs
  let exc := (vs.zip out).foldl (fun a q => a ||| cvtExc q.1 q.2 toF) 0
  let s := s.cvuIssue p x ⟨x + 4, dst.val, out, exc, false⟩
  let s := s.bump (R.CVU_CNT_LANE_OPS p) 512
  State.whenWf (fromF.cls != .raw && toF.cls != .raw) true "" ((s.energy (dieOf p) 6 1).clock (dieOf p) x)

/-- VEC_TRANSCENDENTAL (R63): 128 lanes a cycle, usable 12 cycles after the last group issues. -/
def execVecTranscendental (p : Pos) (x : Nat) (op : VTrans) (dst src : Fin 32) (s : State) : Res :=
  let ls := joinLanes (((s.cvu p).reg src.val).map (laneTrans op))
  let s := s.cvuIssue p x ⟨x + 15, dst.val, ls.1, ls.2, true⟩
  let s := s.bump (R.CVU_CNT_TRANS p) 512
  .next ((s.energy (dieOf p) 7 4).clock (dieOf p) x)

/-- Two value-index pairs combine (R86). -/
def combine (min : Bool) (a b : W32 × Nat) : W32 × Nat :=
  let va := dec32 a.1
  let vb := dec32 b.1
  if va.isNan || vb.isNan then
    (nan32, if va.isNan && vb.isNan then Nat.min a.2 b.2 else if va.isNan then a.2 else b.2)
  else if (if min then va.lt vb else vb.lt va) then a
  else if (if min then vb.lt va else va.lt vb) then b
  else if a.2 ≤ b.2 then a else b

/-- Combine a list of pairs. -/
def combineAll (min : Bool) : List (W32 × Nat) → W32 × Nat
  | [] => (0, 0)
  | a :: r => r.foldl (combine min) a

/-- The lanes a reduction writes: the value in lane 0 and, for a maximum or minimum, the index in lane 1; the others
keep what they hold (log 13). -/
def reduceLanes (op : VRed) (base : Nat) (src old : List W32) : List W32 :=
  match op with
  | .sum =>
    let v := if src.any fun w => (dec32 w).isNan then nan32 else Config.reduceSum src
    v :: old.drop 1
  | .max =>
    let r := combineAll false (src.mapIdx fun i w => (w, (base + i) % 2 ^ 32))
    r.1 :: BitVec.ofNat 32 r.2 :: old.drop 2
  | .min =>
    let r := combineAll true (src.mapIdx fun i w => (w, (base + i) % 2 ^ 32))
    r.1 :: BitVec.ofNat 32 r.2 :: old.drop 2

/-- VEC_REDUCE (R63, R64, R86): usable 8 cycles after its issue. -/
def execVecReduce (p : Pos) (x : Nat) (op : VRed) (dst src : Fin 32) (base : Opnd) (s : State) : Res :=
  let c := s.cvu p
  let ls := reduceLanes op (s.value p base) (c.reg src.val) (c.reg dst.val)
  let exc := match op with
    | .sum => (match ls with
      | w :: _ => if (dec32 w).isNan && !(c.reg src.val).any (fun v => (dec32 v).isNan) then xInvalid else 0
      | [] => 0)
    | _ => 0
  .next ((s.cvuIssue p x ⟨x + 8, dst.val, ls, exc, false⟩).clock (dieOf p) x)

/-- Elements of a format in a 1 KiB run, at most the 512 of a register. -/
def runElems (f : Fmt) : Nat := min 512 (8192 / f.width)

/-- Element i of a run taken as bytes in rising order. -/
def runElem (rd : Nat → Byte) (f : Fmt) (b i : Nat) : Nat :=
  bitsOf (leNat ((List.range (ceilDiv (f.width * i % 8 + f.width) 8)).map fun k => rd (b + f.width * i / 8 + k)))
    (f.width * i % 8) f.width

/-- VEC_LD (R63, R141): the first run of the walk, 1 KiB, is read in cycle s; usable in s + 6. A lane takes its
element's code, and an MX element its block's scale; lanes beyond the run take free values (log 13). -/
def State.doVecLd (s : State) (p x r : Nat) (w : Walk) : State :=
  let b := w.runBase 0
  let n := runElems w.fmt
  let a := s.staticRead p x uCVU ((List.range 1024).map (b + ·))
  let s := a.2
  let rd := s.reader p a.1
  let have_ := w.count * 64
  let lanes := (List.range 512).map fun i =>
    if i < n then
      let e := if i < have_ then runElem rd w.fmt b i else 0
      let sc := if w.fmt.isMx then (s.spadByte p (w.sb + i / 32)).toNat else 0
      BitVec.ofNat 32 (e + sc * 2 ^ 16)
    else BitVec.ofNat 32 (Config.freeBits (s.free + i))
  let s := if n < 512 then { s with free := s.free + 512 } else s
  (s.cvuIssue p x ⟨x + 6, r, lanes, 0, false⟩).clock (dieOf p) x

def execVecLd (p : Pos) (x : Nat) (reg : Fin 32) (desc : W128) (s : State) : Res :=
  match s.localDesc p desc with
  | none => .refused .illFormed
  | some w => State.whenWf (!w.col && w.fmt.cls != .raw) true "" (s.doVecLd p x reg.val w)

/-- The bytes `vec.st` writes: a run of lanes in a format, packed in rising order. -/
def packLanes (f : Fmt) (vs : List W32) : List Byte :=
  let n := runElems f
  let v := (vs.take n).zipIdx.foldl (fun a q => a + bitsOf q.1.toNat 0 (min 32 f.width) * 2 ^ (f.width * q.2)) 0
  leBytes (n * f.width / 8) v

/-- VEC_ST (R63): the register is read in cycle s and the bytes are visible from s + 6. -/
def State.doVecSt (s : State) (p x r : Nat) (w : Walk) : State :=
  let b := w.runBase 0
  let vs := (s.cvu p).reg r
  let bytes := ((packLanes w.fmt vs).take (w.count * 8 * w.fmt.width)).mapIdx fun i y => ((b + i) % 2 ^ 23, y)
  let sc := if w.fmt.isMx then
      (List.range 16).map fun g => ((w.sb + g) % 2 ^ 23, BitVec.ofNat 8 (bitsOf (vs.getD (32 * g) 0).toNat 16 8))
    else []
  (s.staticWrite p ⟨x + 5, 3, bytes ++ sc, uCVU, s.heatTag p x⟩).clock (dieOf p) x

def execVecSt (p : Pos) (x : Nat) (reg : Fin 32) (desc : W128) (s : State) : Res :=
  match s.localDesc p desc with
  | none => .refused .illFormed
  | some w => State.whenWf (!w.col && w.fmt.cls != .raw) true "" (s.doVecSt p x reg.val w)

/-- VEC_RESULT_LAND (R63): the result that becomes usable in cycle x, with the exceptions it sets. -/
def State.doVecLand (s : State) (p x : Nat) (r : CvuResult) : State :=
  let c := s.cvu p
  let s := s.setCvu p ({ c with flight := c.flight.erase r, now := max c.now x }.setReg r.reg r.lanes)
  let e := R.CVU_EXC p
  (s.wr e (BitVec.ofNat 64 ((s.rd e).toNat ||| r.exc))).clock (dieOf p) x

def execVecResultLand (p : Pos) (x : Nat) (s : State) : Res :=
  match (s.cvu p).flight.find? fun r => r.usable == x with
  | none => .refused (.notEnabled "no result becomes usable in this cycle")
  | some r => .next (s.doVecLand p x r)

/-- One operation of a chain's epilogue on a register file (R124). -/
def Cvu.epi (c : Cvu) (o : EpiOp) : Cvu :=
  match o with
  | .arith op dst a b k =>
    let va := c.reg a.val
    let vb := c.reg b.val
    let vk := c.reg k.val
    c.setReg dst.val ((List.range 512).map fun i => (laneArith op (va.getD i 0) (vb.getD i 0) (vk.getD i 0)).1)
  | .cvt dst src f t => c.setReg dst.val (encLanes t ((c.reg src.val).map (laneVal f)))
  | .trans op dst src => c.setReg dst.val ((c.reg src.val).map fun w => (laneTrans op w).1)

def epiDst : EpiOp → Nat
  | .arith _ d _ _ _ => d.val
  | .cvt d _ _ _ => d.val
  | .trans _ d _ => d.val

def epiSrc : EpiOp → Nat
  | .arith _ _ a _ _ => a.val
  | .cvt _ a _ _ => a.val
  | .trans _ _ a => a.val

/-- An epilogue on eight rows: they enter in the first operation's first source register, and the last operation's
destination leaves (log 13). -/
def Cvu.epilogue (c : Cvu) (ep : List EpiOp) (rows : List W32) : List W32 × Cvu :=
  match ep with
  | [] => (rows, c)
  | o :: _ =>
    let c := ep.foldl Cvu.epi (c.setReg (epiSrc o) rows)
    (c.reg ((ep.getLast?.map epiDst).getD 0), c)

end Sys2Proof.Machine
end

