-- ==== Sys2Proof/Machine/Access.lean ====
section
/-! DEFINITION. Who may reach what: the targets of R28 to R30, the rejections of R33, R34, R36, R185 and R189, and the
entitlement of R311 and R312. -/

namespace Sys2Proof.Machine

open Sys2Proof

/-- Statuses of completions (R216). -/
abbrev sOK := 0x00
abbrev sDUP := 0x01
abbrev sADDR := 0x02
abbrev sFENCED := 0x03
abbrev sDENIED := 0x04
abbrev sCUT := 0x05
abbrev sEXPIRED := 0x06
abbrev sCRC := 0x07
abbrev sSIGFULL := 0x08
abbrev sSTALE := 0x09
abbrev sAHEAD := 0x0A
abbrev sTRACK := 0x0B
abbrev sPENDING := 0x0C
abbrev sNOROUTE := 0x0D
abbrev sCTX := 0x0E
abbrev sTIMEOUT := 0x0F
abbrev sTCFULL := 0x10

/-- What an access names (R30). -/
inductive Target where
  | hbm (d l : Nat)
  | spad (p off : Nat)
  | ctl (off : Nat)
  | flag (p n : Nat)
  | bad
deriving DecidableEq, Repr

/-- The target of an access of `len` bytes, or `bad` where R33, R189 or R8 rejects it. -/
def targetOf (space off len : Nat) : Target :=
  match space with
  | 0 => if off < 2 ^ 41 ∧ off % 2 ^ 38 + len ≤ 2 ^ 38 then .hbm (off / 2 ^ 38) (off % 2 ^ 38) else .bad
  | 1 => if off < 2 ^ 31 ∧ off % 2 ^ 23 + len ≤ 2 ^ 23 then .spad (off / 2 ^ 23) (off % 2 ^ 23) else .bad
  | 2 => if off < 2 ^ 26 ∧ off % 8 = 0 ∧ len = 8 ∧ (ctlDecode off).isSome then .ctl off else .bad
  | _ => if off < 2 ^ 21 ∧ off % 8 = 0 ∧ len = 8 then .flag (off / 2 ^ 13) (off / 8 % 1024) else .bad

/-- The kinds of access a window's RIGHTS names. -/
abbrev aRead := 0
abbrev aWrite := 1
abbrev aAtomic := 2

/-- Is a compute die's domain without power (R185)? -/
def State.dieDown (s : State) (d : Nat) : Bool := !s.power.die.toNat.testBit d || (s.die d).thermalOff

/-- Is a core's cluster in OFF (R36)? -/
def State.clusterOff (s : State) (p : Nat) : Bool :=
  bitsOf (s.f (R.CLK_STAT (p / 32)) F.CLK_STAT_CLSTATE) (2 * (p / 8 % 4)) 2 == 3

def State.coreClosed (s : State) (p : Nat) : Bool := s.dieDown (p / 32) || s.coreFenced p || s.clusterOff p

/-- Is a stack-local address fenced: its stack, or its pseudo-channel where no redirection serves it (R34, R295)? -/
def State.stackClosed (s : State) (k a : Nat) : Bool := s.stackFenced k || s.pcFenced k (pcOf (s.phys k a))

/-- Does R34, R36, R185 or R279 answer the access FENCED? -/
def State.fencedTarget (s : State) (t : Target) (len : Nat) : Bool :=
  match t with
  | .hbm d l => s.dieDown d || (tilePieces (len / 8192 + 2) l len).any fun q =>
      let w := s.hbmPlace d (q.1 % 2 ^ 38)
      s.stackClosed w.1 w.2
  | .spad p _ => s.coreClosed p
  | .flag p _ => s.coreClosed p
  | .ctl off =>
    match ctlDecode off with
    | some (.cox, p, _) | some (.prm, p, _) | some (.ae, p, _) | some (.eng, p, _) | some (.cvu, p, _)
    | some (.flg, p, _) => s.coreClosed p
    | some (.str, d, _) | some (.clk, d, _) => s.dieDown d
    | some (.scb, k, _) => s.dieDown (k / 4) || s.scribeFenced k || s.stackFenced k
    | some (.hbm, k, _) => s.dieDown (k / 4)
    | _ => false
  | .bad => false

/-- The die a target lies in; none for the package-level blocks. -/
def targetDie (t : Target) : Option Nat :=
  match t with
  | .hbm d _ => some d
  | .spad p _ => some (p / 32)
  | .flag p _ => some (p / 32)
  | .ctl off =>
    match ctlDecode off with
    | some (.cox, p, _) | some (.prm, p, _) | some (.ae, p, _) | some (.eng, p, _) | some (.cvu, p, _)
    | some (.flg, p, _) => some (p / 32)
    | some (.str, d, _) | some (.clk, d, _) | some (.pwrd, d, _) => some d
    | some (.scb, k, _) | some (.hbm, k, _) => some (k / 4)
    | _ => none
  | .bad => none

/-- The tenancy whose TEN_Tt_ or SNP_Tt_ register an offset is. -/
def regTen (off : Nat) : Option Nat :=
  match ctlDecode off with
  | some (.ten, _, o) => if 0x100 ≤ o ∧ o < 0x300 then some ((o - 0x100) / 0x40) else none
  | some (.snp, _, o) => if 0x100 ≤ o ∧ o < 0x300 then some ((o - 0x100) / 0x40) else none
  | _ => none

/-- Does a target belong to a tenancy (R312)? `v` is the value of a write. -/
def State.belongs (s : State) (t : Target) (kind : Nat) (v : Word) (owner : Nat) : Bool :=
  match targetDie t with
  | some d => s.tenOfDie d == some owner
  | none => match t with
    | .ctl off =>
      regTen off == some owner || (match ctlDecode off with | some (.id, _, _) => true | _ => false) ||
        (off == R.SNP_CMD && kind == aWrite && bitsOf v.toNat 4 3 == owner)
    | _ => false

/-- The fields of window n. -/
def State.win (s : State) (n : Nat) : Word × Word := s.wins.get (fun _ => (0, 0)) n
def winF (w : Word × Word) (fld : Nat × Nat) : Nat := bitsOf w.1.toNat fld.1 fld.2

/-- Does a window grant an access (R312)? `gk` and `gt` are the grantee's kind and tenancy. -/
def State.grants (s : State) (n gk gt kind space off len : Nat) (t : Target) (v : Word) : Bool :=
  let w := s.win n
  let base := bitsOf w.2.toNat 0 44
  let units := bitsOf w.2.toNat 44 20
  let size := (if units = 0 then 2 ^ 20 else units) * 4096
  winF w F.TEN_WIN_ENT0_VALID == 1 && bitOf (winF w F.TEN_WIN_ENT0_RIGHTS) kind && winF w F.TEN_WIN_ENT0_GKIND == gk &&
    winF w F.TEN_WIN_ENT0_GTEN == gt && winF w F.TEN_WIN_ENT0_SPACE == space && decide (base ≤ off) &&
    decide (off + len ≤ base + size) && s.belongs t kind v (winF w F.TEN_WIN_ENT0_OWNER)

/-- What an issuer of tenancy u may do in the package-level blocks without a window (R311). -/
def freeAccess (u kind off : Nat) : Bool :=
  match ctlDecode off with
  | some (.id, _, _) => kind == aRead
  | some (.ten, _, _) => (kind == aRead && off == R.TEN_T_STAT u) || (kind == aWrite && off == R.TEN_T_JOB_END u)
  | some (.snp, _, _) => kind == aRead && regTen off == some u
  | _ => false

/-- The tenancy an issuer on this node acts for. -/
def State.issuerTen (s : State) (iss : Issuer) : Option Nat :=
  match iss with
  | .core p => s.tenOfDie (p.val / 32)
  | .scribe k => s.tenOfDie (k.val / 4)
  | .packet ctx _ _ => if (s.ctx ctx).alloc then some (s.ctx ctx).ten else none
  | .host _ _ => none
  | _ => none

/-- May an issuer make an access (R311, R312)? `hostTen` is the tenancy of a host's queue pair (R314). -/
def State.entitled (s : State) (iss : Issuer) (hostTen : Option Nat) (kind space off len : Nat) (t : Target) (v : Word) :
    Bool :=
  let own (u : Option Nat) : Bool :=
    match u with
    | none => false
    | some u => match targetDie t with
      | some d => s.tenOfDie d == some u
      | none => match t with | .ctl o => freeAccess u kind o | _ => false
  match iss with
  | .boathouse => true
  | .owner => true
  | .core _ => own (s.issuerTen iss)
  | .scribe _ => own (s.issuerTen iss)
  | .packet ctx win _ =>
    if win = 0 then own (s.issuerTen iss)
    else (s.ctx ctx).alloc && s.grants win 1 (s.ctx ctx).ten kind space off len t v
  | .host _ rkey =>
    let n := rkey.toNat % 1024
    match hostTen with
    | none => false
    | some u => winF (s.win n) F.TEN_WIN_ENT0_KEY == rkey.toNat / 1024 && s.grants n 0 u kind space off len t v

/-- An access is rejected: REJECTED_IN for a packet, TEN_CNT_DENIED of the target's tenancy, and the record
ACCESS_REJECTED (R311, R342). -/
def State.reject (s : State) (iss : Issuer) (space off status : Nat) (t : Target) (inj : Bool) : State :=
  let ten := match targetDie t with
    | some d => s.tenOfDie d
    | none => match t with | .ctl o => regTen o | _ => none
  let s : State := match iss with
    | .packet _ _ _ => s.setF R.FAB_EVENT F.FAB_EVENT_REJECTED_IN 1
    | _ => s
  let s : State := match ten with
    | some u => if status = sDENIED then s.bump (R.TEN_CNT_DENIED u) 1 else s
    | none => s
  let a := kAddr s.node space off
  let o := match ten with
    | some u => occ 0x1D kTen u a status a
    | none => occ 0x1D kPackage 0 a status a
  s.record (if inj then s.injected o else o)

/-- The status an access meets before it acts: an address error, then entitlement, then a fence. -/
def State.accessStatus (s : State) (iss : Issuer) (hostTen : Option Nat) (kind space off len : Nat) (v : Word) :
    Nat × State :=
  let t := targetOf space off len
  let u := match targetDie t with | some d => s.tenOfDie d | none => none
  let i := match u with
    | some u => s.inject 0x1D kTen u (kAddr s.node space off)
    | none => s.inject 0x1D kPackage 0 (kAddr s.node space off)
  let s := i.2
  match i.1 with
  | some syn => (syn % 256, s.reject iss space off (syn % 256) t true)
  | none =>
    let atomBad := kind == aAtomic && (2 ≤ space : Bool)
    if t = .bad ∨ atomBad = true then (sADDR, s.reject iss space off sADDR t false)
    else if !s.entitled iss hostTen kind space off len t v then (sDENIED, s.reject iss space off sDENIED t false)
    else if s.fencedTarget t len then (sFENCED, s)
    else (sOK, s)

/-- Is the package area of a tenancy's mailbox locked, and does a write touch it (R306, R309)? -/
def State.packageLocked (s : State) (d l n : Nat) : Bool :=
  (List.range 8).any fun u =>
    let m := R.TEN_T_MBOX u
    let base := s.f m F.TEN_T_MBOX_OFFSET
    let size := 2 ^ 30 * (s.f (R.TEN_T_CFG u) F.TEN_T_CFG_MBOX_GIB + 1)
    s.f (R.TEN_T_STAT u) F.TEN_T_STAT_LOCKED == 1 && s.f m F.TEN_T_MBOX_DIE == d && decide (base + 0x10000 < l + n) &&
      decide (l < base + size)

end Sys2Proof.Machine
end

