-- ==== Sys2Proof/Machine/Fabric.lean ====
section
/-! DEFINITION. The Kensil fabric as a node meets it: packets and their CRCs (R214, R215), the torus and its ports (R210,
R211, R217 to R219), paths inside the package (R25 to R27), heads that leave (R213, R217), streams and their numbers
(R222 to R224), answers (R216). -/

namespace Sys2Proof

open Sys2Proof.Machine

/-! ### Packets -/

/-- One byte into a CRC-32C register (RFC 3720: reflected polynomial 0x82F63B78). -/
def crcByte (c : Nat) (b : Byte) : Nat :=
  (List.range 8).foldl (fun c _ => if c % 2 = 1 then (c / 2) ^^^ 0x82F63B78 else c / 2) (c ^^^ b.toNat)

/-- CRC-32C of a byte string. -/
def crc32c (bs : List Byte) : W32 := BitVec.ofNat 32 (bs.foldl crcByte 0xFFFFFFFF ^^^ 0xFFFFFFFF)

/-- Bits [479:0] of a head (R214). -/
def Packet.headNat (k : Packet) : Nat :=
  let b (v w lo : Nat) : Nat := v % 2 ^ w * 2 ^ lo
  let t (x : Bool) (lo : Nat) : Nat := if x then 2 ^ lo else 0
  b k.dst 18 0 + b k.src 18 18 + b k.space 2 36 + b k.offset 44 38 + b k.ctx 20 82 + b k.seq 32 102 + b k.epoch 8 134
    + b k.cls 2 142 + b k.vc 3 144 + b k.op 6 147 + b k.len 13 153 + t k.cntEn 166 + t k.flagEn 167 + b k.flag 10 168
    + b k.exp 32 178 + t k.cut 210 + t k.mcast 211 + b k.status 8 212 + b k.age 16 220 + b k.win 16 236
    + k.opnd0.toNat * 2 ^ 256 + k.opnd1.toNat * 2 ^ 320 + b k.tree 12 384 + b k.low 32 396 + k.pcrc.toNat * 2 ^ 448

def Packet.headCrc (k : Packet) : W32 := crc32c (leBytes 60 k.headNat)
def Packet.seal (k : Packet) : Packet := { k with hcrc := k.headCrc }

/-- Flits of a packet: its head and its payload (R214). -/
def Packet.body (k : Packet) : Nat := ceilDiv k.payload.length 64
def Packet.flits (k : Packet) : Nat := 1 + k.body

/-- A packet with nothing in it. -/
def Packet.blank : Packet :=
  { dst := 0, src := 0, space := 0, offset := 0, ctx := 0, seq := 0, epoch := 0, cls := 0, vc := 0, op := 0, len := 0
    cntEn := false, flagEn := false, flag := 0, exp := 0, cut := false, mcast := false, status := 0, age := 0, win := 0
    opnd0 := 0, opnd1 := 0, tree := 0, low := 0, pcrc := 0, hcrc := 0, payload := [] }

/-- The key of the receiving stream a packet arrives on (R222). -/
def Packet.rxKey (k : Packet) : Nat := if k.mcast then k.src + 2 ^ 18 * (k.tree + 1) else k.src

end Sys2Proof

namespace Sys2Proof.Machine

open Sys2Proof

/-- The VC code a packet takes first, by its operation (R214); for the data channels, code a. -/
def opVc (op : Nat) : Nat :=
  match op with
  | 0x01 => 0
  | 0x02 => 2
  | 0x04 => 0
  | 0x05 => 5
  | 0x06 => 5
  | 0x08 => 2
  | 0x10 => 7
  | _ => 4

/-- The operations R214 and R246 give. -/
def opKnown (op : Nat) : Bool := op ≤ 0x0A || op == 0x10 || (0x20 ≤ op && op ≤ 0x27)

/-- Is a packet an answer? -/
def opAnswer (op : Nat) : Bool := op == 0x04 || op == 0x05 || op == 0x06

/-! ### The torus (R210, R211) -/

/-- Size of dimension i: 6 bits of DIMS, 0 standing for 64. -/
def State.dim (s : State) (i : Nat) : Nat :=
  let v := bitsOf (s.f R.FAB_TOPO F.FAB_TOPO_DIMS) (6 * i) 6
  if v = 0 then 64 else v

def State.nodes (s : State) : Nat := s.dim 0 * s.dim 1 * s.dim 2 * s.dim 3

/-- Coordinate i of a node. -/
def State.coord (s : State) (n i : Nat) : Nat :=
  n / ((List.range i).foldl (fun v j => v * s.dim j) 1) % s.dim i

/-- The node at four coordinates. -/
def State.nodeAt (s : State) (x0 x1 x2 x3 : Nat) : Nat := x0 + s.dim 0 * (x1 + s.dim 1 * (x2 + s.dim 2 * x3))

def portDim (p : Nat) : Nat := p % 8 / 2
def portMinus (p : Nat) : Bool := p % 2 == 1
def portLd (p : Nat) : Nat := p / 8

/-- Is the link of a port its dimension's dateline at this node (R211)? -/
def State.dateline (s : State) (p : Nat) : Bool :=
  let c := s.coord s.node (portDim p)
  if portMinus p then c == 0 else c + 1 == s.dim (portDim p)

/-- May a port take a new head: it is in service and not fenced (R212)? -/
def State.usable (s : State) (p : Nat) : Bool :=
  s.f (R.FAB_PORT_STAT p) F.FAB_PORT_STAT_STATE == 2 && !s.portFenced p

/-- Steps from coordinate a to b of dimension i in the plus direction. -/
def State.plusSteps (s : State) (i a b : Nat) : Nat := (b + s.dim i - a) % s.dim i

/-- The dimension and direction of the next hop of a data packet (R218); none at its destination. -/
def State.nextHop (s : State) (dst : Nat) : Option (Nat × Bool) :=
  ((List.range 4).find? fun i => s.coord s.node i != s.coord dst i).map fun i =>
    (i, decide (s.dim i < 2 * s.plusSteps i (s.coord s.node i) (s.coord dst i)))

/-- The channel of a data packet on port p: b from the dateline link of a dimension on (R218). -/
def State.dataVc (s : State) (k : Packet) (inp : Option Nat) (p : Nat) : Nat :=
  let a := k.vc / 2 * 2
  let crossed := match inp with
    | some q => portDim q == portDim p && k.vc % 2 == 1
    | none => false
  if crossed || s.dateline p then a + 1 else a

/-- A choice the spec leaves open among alternatives (log 4). -/
def State.pick {α : Type} (s : State) (l : List α) : Option α × State :=
  match l with
  | [] => (none, s)
  | [x] => (some x, s)
  | l => (l[Config.freeBits s.free % l.length]?, { s with free := s.free + 1 })

/-- The output of a data packet (R218): at its source LD(SEQ mod 2) first, in transit the link die it came by. -/
def State.dataPort (s : State) (k : Packet) (inp : Option Nat) : Option Nat :=
  match s.nextHop k.dst with
  | none => none
  | some (i, minus) =>
    let p (l : Nat) : Nat := 8 * l + 2 * i + (if minus then 1 else 0)
    match inp with
    | some q => if s.usable (p (portLd q)) then some (p (portLd q)) else none
    | none =>
      let l := k.seq % 2
      if s.usable (p l) then some (p l) else if s.usable (p (1 - l)) then some (p (1 - l)) else none

/-- The outputs of an up*/down* packet (R219): usable ports that keep its path legal. Which of them lie on a shortest
path depends on the ranks of other nodes; the choice among them is free (log 16). `vc` is the channel by which the packet
came: one that came by another kind of channel begins its up*/down* path here. -/
def State.upDownPorts (s : State) (vc : Nat) (inp : Option Nat) : List Nat :=
  let up (p : Nat) : Bool := bitOf (s.f R.FAB_UPDOWN F.FAB_UPDOWN_UP_PORTS) p
  let descending := match inp with
    | some q => decide (5 ≤ vc) && up q
    | none => false
  (List.range 16).filter fun p => s.usable p && (!descending || !up p) && inp != some p

/-- The minimal outputs of a C0 packet (R217). -/
def State.minimalPorts (s : State) (dst : Nat) : List Nat :=
  (List.range 16).filter fun p =>
    let i := portDim p
    let n := s.plusSteps i (s.coord s.node i) (s.coord dst i)
    s.usable p && decide (n ≠ 0) && (if portMinus p then decide (s.dim i ≤ 2 * n) else decide (2 * n ≤ s.dim i))

/-! ### Inside the package (R25 to R27) -/

/-- The ends of the in-package links, numbered as in MNT_FENCE_SUBLINK; LD0 and LD1 stand as 8 and 9. -/
def innerLinks : List (Nat × Nat) :=
  [(0, 1), (1, 2), (2, 3), (4, 5), (5, 6), (6, 7), (0, 4), (1, 5), (2, 6), (3, 7), (8, 0), (8, 4), (9, 3), (9, 7)]

/-- Does link l carry traffic: a sublink unfenced, and both ends powered? -/
def State.innerUp (s : State) (l : Nat) : Bool :=
  let on (n : Nat) : Bool := if n < 8 then !s.dieDown n else s.power.ld.toNat.testBit (n - 8)
  match innerLinks[l]? with
  | some (a, b) => s.linkUp l && on a && on b
  | none => false

/-- The link between two neighbouring dies. -/
def innerLink (a b : Nat) : Option Nat := innerLinks.findIdx? fun e => e == (a, b) || e == (b, a)

/-- The path of R26, both ends included. -/
def pathR26 (a b : Nat) : List Nat :=
  let along (x y : Nat) : List Nat :=
    if x ≤ y then (List.range (y - x + 1)).map (x + ·) else (List.range (x - y + 1)).map (x - ·)
  if a = b then [a]
  else if 8 ≤ a ∧ 8 ≤ b then [a, if a = 8 then 0 else 3] ++ (along (if a = 8 then 0 else 3) (if b = 8 then 0 else 3)).drop 1 ++ [b]
  else if 8 ≤ a then
    let e := (if a = 8 then 0 else 3) + b / 4 * 4
    a :: along e b
  else if 8 ≤ b then
    let e := (if b = 8 then 0 else 3) + a / 4 * 4
    along a e ++ [b]
  else
    let c := a / 4 * 4 + b % 4
    along a c ++ (if c = b then [] else [b])

/-- Every walk of n hops over links that are up, from a. -/
def State.innerWalks (s : State) : (n : Nat) → (a : Nat) → List (List Nat)
  | 0, a => [[a]]
  | n + 1, a =>
    ((List.range 10).filter fun b => match innerLink a b with | some l => s.innerUp l | none => false).flatMap fun b =>
      (s.innerWalks n b).map fun w => a :: w

/-- How many hops two paths share from their start. -/
def sharedHops : List Nat → List Nat → Nat
  | x :: xs, y :: ys => if x = y then 1 + sharedHops xs ys else 0
  | _, _ => 0

def hopsUp (s : State) : List Nat → Bool
  | a :: b :: r => (match innerLink a b with | some l => s.innerUp l | none => false) && hopsUp s (b :: r)
  | _ => true

/-- The path a packet takes between two dies (R26, R27): R26's, or a shortest one over links that are up, which leaves
R26's latest and then turns to the lower-numbered die; none where there is no path. -/
def State.innerPath (s : State) (a b : Nat) : Option (List Nat) :=
  let p := pathR26 a b
  if hopsUp s p then some p
  else
    match (List.range 9).find? fun n => (s.innerWalks (n + 1) a).any fun w => w.getLast? == some b with
    | none => none
    | some n =>
      let ws := (s.innerWalks (n + 1) a).filter fun w => w.getLast? == some b
      let best := ws.foldl (fun m w => max m (sharedHops w p)) 0
      ws.find? fun w => sharedHops w p == best

/-- A packet of `n` flits crosses between two dies; an armed sublink point reports an error on its path. Answers
whether there is a path. -/
def State.innerCross (s : State) (a b : Nat) : Bool × State :=
  if a = b then (true, s)
  else match s.innerPath a b with
    | none => (false, s)
    | some w =>
      let links := (w.zip (w.drop 1)).filterMap fun e => innerLink e.1 e.2
      let subs := links.flatMap fun l => (List.range 4).map (4 * l + ·)
      (true, subs.foldl (fun (s : State) i => match s.inject 0x15 kSublink i with
        | (some _, s) => s.record (s.injected (occ 0x15 kSublink i 1))
        | (none, s) => s) s)

/-- The die by which a target is reached from a link die. -/
def State.reachable (s : State) (ld : Nat) (t : Target) : Bool × State :=
  match t with
  | .hbm d _ => s.innerCross (8 + ld) d
  | .spad p _ => s.innerCross (8 + ld) (p / 32)
  | .flag p _ => s.innerCross (8 + ld) (p / 32)
  | _ => (true, s)

/-! ### Leaving by a port -/

def State.port (s : State) (p : Nat) : Port := s.fab.ports.get (fun _ => Port.init) p
def State.setPort (s : State) (p : Nat) (v : Port) : State :=
  { s with fab := { s.fab with ports := s.fab.ports.set (fun _ => Port.init) p v } }

/-- Flits on fabric ports, counted for R365 (unit 8 of the event counts stands for the package, its class being j). -/
def State.portFlits (s : State) (n : Nat) : State := s.energy 8 2 n

/-- Groups a port may still send before 16 are unacknowledged (R213). -/
def Port.room (v : Port) : Nat := 16 - (v.txSeq + 2048 - v.txAck) % 2048

/-- A head leaves by port p on channel v: its flits are committed, take credit and stand in groups of 80 (R213). -/
def State.leave (s : State) (p : Nat) (h : HeadWait) : State :=
  let k := { h.k with age := min 65535 (h.k.age + (s.time - h.since) / 25) }.seal
  let v := s.port p
  let v := { v with
    credit := v.credit.mapIdx fun i c => if i = k.vc then c - (k.flits : Int) else c,
    txSeq := (v.txSeq + ceilDiv k.flits 80) % 2048 }
  let s := (s.setPort p v).emit (.packet (some p) k)
  let s := (s.bump (R.FAB_PORT_FLITS_TX p) k.flits).portFlits k.flits
  s.bump (R.FAB_PORT_CREDIT_STALL_NS p) (40 * (s.time - h.since))

/-- Can a head leave by port p on its channel now? -/
def State.canLeave (s : State) (p vc : Nat) : Bool :=
  s.usable p && decide (0 < (s.port p).credit.getD vc 0) && decide (0 < (s.port p).room)

/-- The output of a waiting head, now. -/
def State.headPort (s : State) (h : HeadWait) : Option Nat :=
  match h.out with
  | some p => if s.canLeave p h.k.vc then some p else none
  | none => (s.minimalPorts h.k.dst).find? fun p => s.canLeave p h.k.vc

/-- Every waiting head that can leave does so, the longest wait first. -/
def State.pump (s : State) : State :=
  s.fab.heads.foldl (fun (s : State) h =>
    match s.headPort h with
    | none => s
    | some p => ({ s with fab := { s.fab with heads := s.fab.heads.erase h } }).leave p h) s

/-- A head waits for its output, or leaves at once. -/
def State.offer (s : State) (h : HeadWait) : State :=
  ({ s with fab := { s.fab with heads := s.fab.heads ++ [h] } }).pump

/-- A packet sets out from this node, or on from a port's input (R217 to R219). The answer is false where it has no
route. -/
def State.depart (s : State) (k : Packet) (inp : Option Nat) : Bool × State :=
  if s.nodes ≤ k.dst ∨ k.dst = s.node then (false, s)
  else
    let upDown (vc : Nat) : Bool × State :=
      match s.pick (s.upDownPorts k.vc inp) with
      | (some p, s) => (true, s.offer ⟨{ k with vc := vc }, inp, some p, s.time⟩)
      | (none, s) => (false, s)
    if k.vc ≤ 3 then
      match s.dataPort k inp with
      | some p => (true, s.offer ⟨{ k with vc := s.dataVc k inp p }, inp, some p, s.time⟩)
      | none => upDown 6
    else if k.vc = 4 then (true, s.offer ⟨k, inp, none, s.time⟩)
    else upDown k.vc

/-! ### Contexts with open streams -/

/-- Has a context an open stream on this node (R230)? -/
def State.streamOpen (s : State) (x : Nat) : Bool :=
  s.fab.tx.any (fun t => t.ctx == x) || s.fab.rx.any (fun r => r.ctx == x)

def State.ctxNeed (s : State) (x : Nat) : Option State := s.ctxLoad s.streamOpen x

/-! ### Sending streams (R222 to R224) -/

def mcDst (tree : Nat) : Nat := 2 ^ 18 + tree

def State.txStream (s : State) (ctx dst : Nat) : Option TxStream := s.fab.tx.find? fun t => t.ctx == ctx && t.dst == dst

def State.setTx (s : State) (v : TxStream) : State :=
  let rest := s.fab.tx.filter fun t => !(t.ctx == v.ctx && t.dst == v.dst)
  { s with fab := { s.fab with tx := rest ++ [v] } }

def State.dropTx (s : State) (ctx dst : Nat) : State :=
  { s with fab := { s.fab with tx := s.fab.tx.filter fun t => !(t.ctx == ctx && t.dst == dst) } }

/-- May another packet of a stream be numbered: fewer than 1,024 are without a final answer, and an entry is free? -/
def State.txRoom (s : State) (ctx dst : Nat) : Bool :=
  match s.txStream ctx dst with
  | some t => decide (t.pkts.length < 1024)
  | none => decide ((s.fab.tx.filter fun t => t.ctx % 2 == ctx % 2).length < 131072)

/-- Number a packet of a stream. It has yet to leave. -/
def State.reserveSeq (s : State) (ctx dst : Nat) (owner : TxOwner) : Nat × State :=
  let t := (s.txStream ctx dst).getD ⟨ctx, dst, 0, [], s.time⟩
  let k := { Packet.blank with ctx := ctx, dst := dst, seq := t.next }
  let e : TxPkt := ⟨k, owner, none, 0, 0, none, 0⟩
  (t.next, s.setTx { t with next := (t.next + 1) % 2 ^ 32, pkts := t.pkts ++ [e], last := s.time })

/-- The lowest number of a stream without a final answer (R222). -/
def TxStream.low (t : TxStream) : Nat := match t.pkts with | e :: _ => e.k.seq | [] => t.next

def State.txPkt (s : State) (ctx dst seq : Nat) : Option TxPkt :=
  match s.txStream ctx dst with
  | some t => t.pkts.find? fun e => e.k.seq == seq
  | none => none

def State.setTxPkt (s : State) (ctx dst : Nat) (v : TxPkt) : State :=
  match s.txStream ctx dst with
  | some t => s.setTx { t with pkts := t.pkts.map (fun e => if e.k.seq = v.k.seq then v else e), last := s.time }
  | none => s

def State.dropTxPkt (s : State) (ctx dst seq : Nat) : State :=
  match s.txStream ctx dst with
  | some t => s.setTx { t with pkts := t.pkts.filter (fun e => e.k.seq != seq), last := s.time }
  | none => s

/-- Where a copy of a multicast packet goes from its root: the ports of its tree that are not pruned. -/
def McTree.live (t : McTree) : List Nat := (List.range 16).filter fun p => bitOf t.out p && !bitOf t.pruned p

/-- One copy of a stored multicast packet to each port of its tree (R235). -/
def State.mcCopies (s : State) (k : Packet) (inp : Option Nat) (t : McTree) : State :=
  t.live.foldl (fun (s : State) p => s.offer ⟨{ k with vc := s.dataVc { k with vc := k.vc / 2 * 2 } inp p }, inp, some p, s.time⟩) s

/-- The pruned ports of a multicast packet's tree at its root answer FENCED for their leaves (R236): the packet's record
counts them, and a status is answered where no other leaf is left. -/
def State.mcPruned (s : State) (dst : Nat) (k : Packet) : Option Nat × State :=
  let t := s.tree k.tree
  let cut := (List.range 16).filter fun p => bitOf t.out p && bitOf t.pruned p
  match cut, s.txPkt k.ctx dst k.seq with
  | _ :: _, some e =>
    let n := (cut.map fun p => t.desc.getD p 0).sum
    let s := (s.bump R.FAB_CNT_PRUNED cut.length).setTxPkt k.ctx dst { e with leaves := n, status := sFENCED }
    (if t.leaves ≤ n then some sFENCED else none, s)
  | _, _ => (none, s)

/-- A copy of a numbered packet leaves (R214, R222): LOW and the CRCs are formed afresh. A status is answered where the
packet is final without leaving: no route, or an armed point that exhausts its resends. -/
def State.launch (s : State) (dst : Nat) (k : Packet) (owner : TxOwner) : Option Nat × State :=
  let i := s.inject 0x1B kCtx k.ctx
  let s := i.2
  let t := (s.txStream k.ctx dst).getD ⟨k.ctx, dst, 0, [], s.time⟩
  let k := { k with low := t.low, src := s.node, vc := opVc k.op, age := 0
                    pcrc := if k.payload.isEmpty then 0 else crc32c k.payload }
  let k := k.seal
  let old := s.txPkt k.ctx dst k.seq
  let e : TxPkt := match old with
    | some e => { e with k := k, owner := owner, sent := some s.time, again := none }
    | none => ⟨k, owner, some s.time, 0, 0, none, 0⟩
  let s := s.setTxPkt k.ctx dst e
  if i.1.isSome then
    let s := s.setF R.FAB_EVENT F.FAB_EVENT_RETRY_EXHAUSTED 1
    (some sTIMEOUT, s.record (s.injected (occ 0x1B kCtx k.ctx k.seq k.dst)))
  else
    let s := (s.bump R.FAB_CNT_PKT_TX 1).bump R.FAB_CNT_BYTES_TX k.payload.length
    let r := s.ctx k.ctx
    let s := s.setCtx k.ctx { r with bytesTx := (r.bytesTx + k.payload.length) % 2 ^ 64 }
    if k.mcast then (s.mcCopies k none (s.tree k.tree)).mcPruned dst k
    else
      let d := s.depart k none
      if d.1 then (none, d.2)
      else
        let s := d.2.setF R.FAB_EVENT F.FAB_EVENT_NO_ROUTE 1
        (some sNOROUTE, s.record (occ 0x1D kPackage 0 (kAddr k.dst k.space k.offset) sNOROUTE))

/-- A packet sent again (R223). -/
def State.relaunch (s : State) (dst : Nat) (e : TxPkt) : Option Nat × State :=
  let s := s.bump R.FAB_CNT_RESENT 1
  let r := s.ctx e.k.ctx
  let s := s.setCtx e.k.ctx { r with resent := (r.resent + 1) % 2 ^ 64 }
  let s := s.setTxPkt e.k.ctx dst { e with resends := e.resends + 1 }
  s.launch dst e.k e.owner

/-! ### Receiving streams (R222) -/

def State.rxStream (s : State) (ctx src : Nat) : Option RxStream := s.fab.rx.find? fun r => r.ctx == ctx && r.src == src

def State.setRx (s : State) (v : RxStream) : State :=
  let rest := s.fab.rx.filter fun t => !(t.ctx == v.ctx && t.src == v.src)
  { s with fab := { s.fab with rx := rest ++ [v] } }

/-- How far a lies above b, modulo 2³². -/
def seqAbove (a b : Nat) : Nat := (a + 2 ^ 32 - b % 2 ^ 32) % 2 ^ 32

/-- BASE rises over the numbers that are done. -/
def RxStream.compress (r : RxStream) : RxStream :=
  let rec go : Nat → Nat → List Nat → Nat × List Nat
    | 0, b, l => (b, l)
    | n + 1, b, l => let c := (b + 1) % 2 ^ 32; if l.contains c then go n c (l.erase c) else (b, l)
  let g := go r.done.length r.base r.done
  { r with base := g.1, done := g.2 }

/-- BASE rises to LOW − 1 where that is higher. -/
def RxStream.raise (r : RxStream) (low : Nat) : RxStream :=
  let b := (low + 2 ^ 32 - 1) % 2 ^ 32
  let up := seqAbove b r.base
  if 0 < up ∧ up < 2 ^ 31 then
    ({ r with base := b, done := r.done.filter fun n => let a := seqAbove n b; decide (0 < a ∧ a < 2 ^ 31) }).compress
  else r

/-- Is a copy of a numbered packet still arriving for this node (R222: in progress)? -/
def State.inProgress (s : State) (k : Packet) : Bool :=
  s.fab.transits.any fun t => t.out.isNone && !t.cut && t.k.ctx == k.ctx && t.k.rxKey == k.rxKey && t.k.seq == k.seq &&
    decide (t.remain ≠ 0)

/-- What a numbered packet finds at its stream. -/
inductive Found where
  | fresh | full | dup | pending
deriving DecidableEq, Repr

/-- A numbered packet arrives at its receiving stream (R222, item 2 and 3). -/
def State.rxFind (s : State) (k : Packet) : Found × State :=
  let old := s.rxStream k.ctx k.rxKey
  let full := old.isNone && decide (131072 ≤ (s.fab.rx.filter fun r => r.ctx % 2 == k.ctx % 2).length)
  if full then (.full, s)
  else
    let r := (old.getD ⟨k.ctx, k.rxKey, (k.low + 2 ^ 32 - 1) % 2 ^ 32, [], s.time⟩).raise k.low
    let s := s.setRx { r with last := s.time }
    let a := seqAbove k.seq r.base
    if a = 0 ∨ 2 ^ 31 ≤ a ∨ r.done.contains k.seq then (.dup, s)
    else if 1024 < a ∨ s.inProgress k then (.pending, s)
    else (.fresh, s)

/-- A packet's number is done. -/
def State.rxDone (s : State) (k : Packet) : State :=
  match s.rxStream k.ctx k.rxKey with
  | some r => s.setRx { r with done := r.done ++ [k.seq] }.compress
  | none => s

/-! ### Answers (R216) -/

/-- An answer to a packet: back to its source, with its context, number, tree and address. One that finds no route is
discarded. -/
def State.respond (s : State) (k : Packet) (op status : Nat) (opnd0 : Word) (bs : List Byte) : State :=
  let a : Packet := { Packet.blank with
    dst := k.src, src := s.node, space := k.space, offset := k.offset, ctx := k.ctx, seq := k.seq, epoch := k.epoch
    cls := if op = 4 then 0 else 2, vc := opVc op, op := op, len := bs.length - 1, cut := status == sCUT
    mcast := k.mcast, tree := k.tree, status := status, opnd0 := opnd0, payload := bs
    pcrc := if bs.isEmpty then 0 else crc32c bs }
  let s := (s.bump R.FAB_CNT_PKT_TX 1).bump R.FAB_CNT_BYTES_TX bs.length
  (s.depart a.seal none).2

/-- The answer a status takes, by the packet's operation: LOAD_RSP, ATOMIC_RSP or COMPLETION. -/
def State.answer (s : State) (k : Packet) (status : Nat) : State :=
  let count : Word := if k.mcast then 1 else 0
  if k.op = 0x03 then s.respond k 0x04 status 0 []
  else if 0x20 ≤ k.op ∧ k.op ≤ 0x27 then s.respond k 0x05 status 0 []
  else s.respond k 0x06 status count []

end Sys2Proof.Machine
end

