-- ==== Sys2Proof/Machine/View.lean ====
section
/-! DEFINITION. What a register reads as, where it shows other state: lists, tables and windows (AE_, CTX_, COL_, FAB_,
TEN_, ERR_, MNT_, ETH_, BH_, TEL_). -/

namespace Sys2Proof.Machine

open Sys2Proof

/-- Fields laid one after another: value, lowest bit. -/
def fields (l : List (Nat × Nat)) : Word := BitVec.ofNat 64 ((l.map fun e => e.1 * 2 ^ e.2).sum)

def b2n (b : Bool) : Nat := if b then 1 else 0

/-- A context record's word (R231). -/
def CtxRec.word (r : CtxRec) (k : Nat) : Word :=
  match k with
  | 0 => fields [(b2n r.alloc, 0), (r.ten % 8, 2), (r.epoch % 256, 5), (r.sigDie % 8, 13), (r.sigCore % 32, 16),
      (r.reqFlag % 1024, 21), (b2n r.reqEn, 31), (b2n r.slow, 32), (b2n r.due, 33), (b2n r.sat, 34), (b2n r.under, 35),
      (r.gen % 65536, 36)]
  | 1 => fields [(r.count % 2 ^ 32, 0), (r.lastBase % 2 ^ 32, 32)]
  | 2 => fields [(r.mset % 2 ^ 20, 0)]
  | 3 => BitVec.ofNat 64 r.bytesTx
  | 4 => BitVec.ofNat 64 r.bytesRx
  | 5 => BitVec.ofNat 64 r.resent
  | _ => 0

/-- A word of an error record (R339). -/
def ErrRec.word (r : ErrRec) (k : Nat) : Word :=
  match k with
  | 0 => r.w0
  | 1 => r.w1
  | 2 => r.w2
  | 3 => r.w3
  | 4 => r.w4
  | 5 => r.w5
  | 6 => r.w6
  | _ => 0

/-! ### Member sets (R237) -/

def State.mset (s : State) (n : Nat) : MemberSet := s.colls.sets.get (fun _ => MemberSet.init) n
def State.setMset (s : State) (n : Nat) (v : MemberSet) : State :=
  { s with colls := { s.colls with sets := s.colls.sets.set (fun _ => MemberSet.init) n v } }

def MemberSet.o (m : MemberSet) (i : Nat) : Nat := bitsOf m.orig (6 * i) 6
def MemberSet.st (m : MemberSet) (i : Nat) : Nat := let v := bitsOf m.step (6 * i) 6; if v = 0 then 1 else v
def MemberSet.e (m : MemberSet) (i : Nat) : Nat := let v := bitsOf m.ext (6 * i) 6; if v = 0 then 64 else v
def MemberSet.members (m : MemberSet) : Nat := m.e 0 * m.e 1 * m.e 2 * m.e 3

/-- Index j of a rank in dimension i. -/
def MemberSet.idx (m : MemberSet) (rank i : Nat) : Nat := rank / ((List.range i).foldl (fun v k => v * m.e k) 1) % m.e i

/-- The rank of four indices. -/
def MemberSet.rankOf (m : MemberSet) (j0 j1 j2 j3 : Nat) : Nat := j0 + m.e 0 * (j1 + m.e 1 * (j2 + m.e 2 * j3))

/-- The node of a rank. -/
def State.memberNode (s : State) (m : MemberSet) (rank : Nat) : Nat :=
  let x (i : Nat) : Nat := (m.o i + m.idx rank i * m.st i) % s.dim i
  s.nodeAt (x 0) (x 1) (x 2) (x 3)

/-- The rank of a node, if it is a member. -/
def State.rankIn (s : State) (m : MemberSet) (node : Nat) : Option Nat :=
  let j (i : Nat) : Option Nat :=
    let gap := (s.coord node i + s.dim i - m.o i % s.dim i) % s.dim i
    (List.range (m.e i)).find? fun j => j * m.st i % s.dim i == gap
  match j 0, j 1, j 2, j 3 with
  | some a, some b, some c, some d => some (m.rankOf a b c d)
  | _, _, _, _ => none

/-- Is a context busy: a collective or re-shard fence of it is in progress here, or a regatta generation is open (R239)? -/
def State.ctxBusy (s : State) (x : Nat) : Bool :=
  s.colls.runs.any (fun r => r.cmd.ctx == x) || ((s.ctxs.regattas.get (fun _ => Regatta.init) x).openGen).isSome

def State.msetBusy (s : State) (n : Nat) : Bool :=
  s.colls.runs.any (fun r => (s.ctx r.cmd.ctx).mset == n) ||
    s.ctxs.regattas.any fun e => e.2.openGen.isSome && (s.ctx e.1).mset == n

/-! ### The view of an offset -/

def State.viewAe (s : State) (p off : Nat) : Option Word :=
  let a := s.ae p
  if off = 0x08 then
    some (fields [((a.cmds.filter fun c => c.slot).length, 0), ((a.cmds.filter fun c => c.phase == .hold).length, 6),
      (a.cmds.length, 13), (b2n ((List.range 3).any fun e => (s.eng (engId p e)).chain.isSome), 23)])
  else if off = 0x18 then some (fields [(a.rate, 0), (a.burst, 10), (a.level, 20)])
  else if off = 0x20 then some (fields [(a.tcSlots, 0), (a.cache.length, 11), ((a.cache.filter fun e => e.pin).length, 22)])
  else if 0x40 ≤ off ∧ off < 0x80 then
    let t := s.tq p ((off - 0x40) / 8)
    some (fields [(t.base, 0), (t.depth, 10), (b2n t.outbound, 17), (b2n t.relay, 18), (b2n t.pred, 19), (t.cyc, 32)])
  else if 0x80 ≤ off ∧ off < 0xC0 then
    let t := s.tq p ((off - 0x80) / 8)
    some (fields [(t.head, 0), (t.tail, 6), (t.reserved, 12), (t.occ, 19)])
  else none

def State.viewFab (s : State) (off : Nat) : Option Word :=
  if off = 0x18 then
    let up := (List.range 16).filter fun p => s.f (R.FAB_PORT_STAT p) F.FAB_PORT_STAT_STATE == 2
    let mask (l : List Nat) : Nat := (l.map fun p => 2 ^ p).sum
    let low := up.filter fun p => s.f (R.FAB_PORT_STAT p) F.FAB_PORT_STAT_LG_ACTIVE != 15
    some (fields [(mask up, 0), (mask low, 16), (s.fab.tx.length, 32)])
  else if off = 0x28 then some (fields [(s.fab.rx.length, 0)])
  else if off = 0x2008 then
    let t := s.tree (s.f R.FAB_MC_SEL F.FAB_MC_SEL_TREE)
    some (fields [(t.out, 0), (b2n t.deliver, 16), (b2n t.valid, 17), (t.pruned, 18), (t.leaves, 34)])
  else if 0x2040 ≤ off ∧ off < 0x20C0 then
    let t := s.tree (s.f R.FAB_MC_SEL F.FAB_MC_SEL_TREE)
    some (fields [(t.desc.getD ((off - 0x2040) / 8) 0, 0)])
  else none

/-- The tenancy whose range of contexts holds one (R302, R303). -/
def State.rangeTen (s : State) (x : Nat) : Nat :=
  ((List.range 8).find? fun t =>
    let a := R.TEN_T_CTX t
    s.f (R.TEN_T_CFG t) F.TEN_T_CFG_VALID == 1 && decide (s.f a F.TEN_T_CTX_CTX_BASE ≤ x) &&
      decide (x < s.f a F.TEN_T_CTX_CTX_BASE + s.f a F.TEN_T_CTX_CTX_COUNT)).getD 0

/-- A context's record, a free one with the tenancy of its range. -/
def State.shownCtx (s : State) (x : Nat) : CtxRec :=
  let r := s.ctx x
  if r.alloc then r else { r with ten := s.rangeTen x }

def State.viewCtx (s : State) (off : Nat) : Option Word :=
  if off = 0 then
    some (fields [(0x3FFC000000, 0), (b2n s.ctxs.copyOk.1, 38), (b2n s.ctxs.copyOk.2, 39)])
  else if off = 8 ∨ off = 16 then
    let l := off / 8 - 1
    some (fields [((s.cachedOn l).length, 0), (((s.cachedOn l).filter fun x => s.ctxPinned s.streamOpen x).length, 17),
      (s.signalsOn l, 34)])
  else if 0x1000 ≤ off ∧ off < 0x1800 ∧ 8 ≤ off % 0x100 ∧ off % 0x100 < 0x48 then
    let w := (off - 0x1000) / 0x100
    some ((s.shownCtx (s.f (R.CTX_WIN_SEL w) F.CTX_WIN_SEL_CTX)).word ((off % 0x100 - 8) / 8))
  else none

def State.viewCol (s : State) (off : Nat) : Option Word :=
  let n := s.f R.COL_MS_SEL F.COL_MS_SEL_MS
  let m := s.mset n
  let v := s.vtEntry (s.f R.COL_VT_SEL F.COL_VT_SEL_ENTRY)
  if off = 0x08 then
    some (fields [((s.colls.runs.filter fun r => r.cmd.op != 0x4D).length, 0), (s.colls.queue.length, 9),
      ((s.colls.runs.filter fun r => r.cmd.op == 0x4D).length, 20)])
  else if off = 0x20 then some (fields [(m.orig, 0), (m.step, 24)])
  else if off = 0x28 then some (fields [(m.ext, 0), (m.root, 24), (b2n m.tree, 42), (b2n m.valid, 43)])
  else if off = 0x30 then
    let r := s.rankIn m s.node
    some (fields [(m.members, 0), (b2n r.isSome, 19), (r.getD 0, 20), (b2n (s.msetBusy n), 38)])
  else if off = 0x48 then some (fields [(v.base, 0), (v.die, 22), (v.len, 25)])
  else if off = 0x50 then some (fields [(v.version, 0)])
  else none

def State.viewErr (s : State) (off : Nat) : Option Word :=
  if 0x4_0000 ≤ off ∧ off < 0x8_0000 then
    let r := s.f R.ERR_RING_SEL F.ERR_RING_SEL_RING
    let i := (off - 0x4_0000) / 64
    some ((s.errs.recs.get (fun _ => ErrRec.init) (4096 * r + i)).word (off % 64 / 8))
  else if off = 0x208 then
    let t := s.threshold (s.f R.ERR_THR_SEL F.ERR_THR_SEL_DETECTOR)
    some (fields [(t.1, 0), (t.2.1, 32), (t.2.2, 62)])
  else none

/-- ETH_QP_ENT of the queue pair selected. -/
def State.viewEth (s : State) (off : Nat) : Option Word :=
  if off = 0x1008 then
    match s.ten.qps.look (s.f R.ETH_QP_SEL F.ETH_QP_SEL_QP) with
    | some q => some (fields [(q.qpn % 2 ^ 24, 0), (q.ten % 8, 24), (q.sub % 2, 27), (1, 28), (q.peer % 2 ^ 24, 29)])
    | none => some 0
  else none

/-! ### Measurements (R337) -/

/-- The bytes a firmware image's signature covers: header and body. -/
def fwBytes (i : FwImage) : List Byte :=
  leBytes 4 0x57465841 ++ leBytes 4 i.kind ++ leBytes 4 i.version ++ leBytes 2 i.svn ++ List.replicate 50 0 ++ i.body

/-- DIGEST of a copybook (R321): zero for none. -/
def bookDigest (b : List Byte) : BitVec 512 :=
  if b.isEmpty then 0 else BitVec.ofNat 512 (fieldAt b (fieldAt b 8 4 - 200) 64)

/-- A measurement block, from 1: the boathouse firmware, the translator, the scribes' microcode, the copybook. No image
measures zero. -/
def State.measurement (s : State) (i : Nat) : BitVec 512 :=
  let img (o : Option FwImage) : BitVec 512 := match o with | some m => Config.sha512 (fwBytes m) | none => 0
  match i with
  | 1 => img ((s.bh.fw[0]?).bind id)
  | 2 => img ((s.bh.fw[1]?).bind id)
  | 3 => Config.sha512 (s.bh.scFw.flatMap fun o => leBytes 64 (img o).toNat)
  | _ => bookDigest s.bh.book

def State.viewBh (s : State) (off : Nat) : Option Word :=
  if 0x108 ≤ off ∧ off < 0x148 then
    some (BitVec.ofNat 64 ((s.measurement (s.f R.BH_MEAS_SEL F.BH_MEAS_SEL_INDEX + 1)).toNat / 2 ^ (64 * ((off - 0x108) / 8))))
  else none

def State.viewMnt (s : State) (off : Nat) : Option Word :=
  if off = 0x10 then
    let run := (List.range 6).filter fun a => s.maint.running.any fun r => r.act == a + 1
    some (fields [((run.map fun a => 2 ^ a).sum, 0), (s.maint.queue.length, 6), (s.f R.MNT_STAT F.MNT_STAT_LAST, 13)])
  else none

def State.viewTen (s : State) (off : Nat) : Option Word :=
  if off = 0x1008 then some (s.win (s.f R.TEN_WIN_SEL F.TEN_WIN_SEL_WIN)).1
  else if off = 0x1010 then some (s.win (s.f R.TEN_WIN_SEL F.TEN_WIN_SEL_WIN)).2
  else none

def State.viewEng (s : State) (p off : Nat) : Option Word :=
  if off < 0xC00 ∧ off % 0x400 = 8 then
    let g := s.eng (engId p (off / 0x400))
    some (fields [(b2n g.active1, 0), (b2n (g.outer.isSome || !g.flight.isEmpty), 1), (b2n g.drain.isSome, 2),
      (b2n g.load.isSome, 3), (b2n g.row.isSome, 4), (b2n (match g.outer with | some o => o.slide | none => false), 5),
      (b2n g.int0, 6), (b2n g.int1, 7), (g.feed.length, 8)])
  else none

def State.viewCvu (s : State) (p off : Nat) : Option Word :=
  if off = 8 then
    let c := s.cvu p
    some (fields [(b2n (!c.flight.isEmpty), 0), (b2n (c.flight.any fun r => r.trans), 1)])
  else none

def State.viewCox (s : State) (p off : Nat) : Option Word :=
  if off = 8 then
    let c := s.cox p
    let run := s.f (R.COX_CTL p) F.COX_CTL_RUN == 1
    let on := s.heatOn p
    let w := match (s.die (dieOf p)).run with
      | some r => on && decide (r.body ≤ ((s.die (dieOf p)).now - r.start.getD 0) % (r.body + 8))
      | none => false
    some (fields [(b2n (run && !c.halted), 0), (b2n c.wfi, 1), (b2n c.halted, 2), (b2n on, 3),
      (b2n w, 4), ((s.core p).patches.length, 5)])
  else if off = 0x38 then
    match (s.die (dieOf p)).run with
    | some r => if s.heatOn p then
        some (fields [(r.replayAt (s.die (dieOf p)).now % 2 ^ 32, 0), (r.heat, 32), (1, 48)]) else none
    | none => none
  else none

/-- The thermal factor of a die as a fraction (R184). -/
def State.thermOf (s : State) (d : Nat) : Nat × Nat :=
  let t := s.f (R.PWR_DIE_STAT d) F.PWR_DIE_STAT_TMAX
  let b := s.f (R.PWR_DIE_CFG d) F.PWR_DIE_CFG_THR_START
  if t ≤ b then (1, 1) else (2 * (100 - b) - (t - b), 2 * (100 - b))

/-- The same in units of 1/128, rounded down (log 22). -/
def State.therm128 (s : State) (d : Nat) : Nat := 128 * (s.thermOf d).1 / (s.thermOf d).2

/-- The ceiling of a die's bucket in µJ, with the forecasts whose windows start within 10 ms (R169, R175). -/
def State.ceilingOf (s : State) (d : Nat) : Nat :=
  let v := s.die d
  let near := v.forecasts.filter fun e => decide (e.start ≤ s.time + ticksMs 10)
  min (4000 * v.alloc) (1000 * v.alloc + (near.map fun e => 1000 * e.mj).sum)

/-- Has the device announced readiness (R319)? -/
def State.ready (s : State) : Bool := s.f R.BH_STAT F.BH_STAT_READY == 1

/-- Is a die in service (R182): after readiness, powered, and its job not in recovery? -/
def State.inService (s : State) (d : Nat) : Bool :=
  s.ready && !s.dieDown d && (match s.tenOfDie d with
    | some t => s.jobState t == jRunning || s.jobState t == jNone || s.jobState t == jPreempted
    | none => true)

/-- The target operating point of a die (R174, R177), the last while VIN36 is out of its range (R351). -/
def State.oppTarget (s : State) (d : Nat) : Nat :=
  let v := s.die d
  let var := match v.run with | some r => r.opp | none => v.lastOpp.getD 0
  max (max (max var (v.forced.getD 0)) (max (s.f (R.CLK_CTL d) F.CLK_CTL_OPP_LIMIT) v.throttle))
    (if s.pins.range then 5 else 0)

/-- Is heat choice blocked on a die: HOLD, a save or restore, a ruling stop, or a thermal shutdown (R170)? -/
def State.strBlocked (s : State) (d : Nat) : Bool :=
  let v := s.die d
  s.f (R.STR_CTL d) F.STR_CTL_HOLD == 1 || v.rulingStop || v.thermalOff

def State.viewStr (s : State) (d off : Nat) : Option Word :=
  let v := s.die d
  if off = 8 then
    let run : List (Nat × Nat) := match v.run with
      | some r => [(1, 0), (r.variant, 1), (r.heat, 3), (b2n r.pin, 28), (r.replayAt v.now % 2 ^ 32, 32)]
      | none => []
    some (fields (run ++ [(v.ready.length, 19), (b2n (v.run.isNone && v.ready.any fun e => e.eligible), 26),
      (b2n (s.strBlocked d), 27), (b2n v.forced.isSome, 29)]))
  else if off = 0x18 then
    some (fields [((BitVec.ofInt 32 v.bucket).toNat, 0), (v.alloc, 32), (s.therm128 d, 48)])
  else if off = 0x30 then some (fields [(v.forecasts.length, 0), (s.ceilingOf d, 32)])
  else if 0x100 ≤ off ∧ off < 0x300 then
    match v.ready[(off - 0x100) / 8]? with
    | some e => some (fields [(e.heat, 0), (e.cls, 16), (1, 18), (b2n e.eligible, 19), (e.poster % 32, 20),
        (min (2 ^ 32 - 1) ((s.time - e.tick) / 25), 32)])
    | none => some 0
  else none

def State.viewClk (s : State) (d off : Nat) : Option Word :=
  if off = 8 then
    some (BitVec.ofNat 64 (putBits (s.rd (R.CLK_STAT d)).toNat 5 3 (s.oppTarget d)))
  else none

def State.viewPwr (s : State) (off : Nat) : Option Word :=
  if off = 0x10 then
    let m := ((List.range 8).filter fun d => s.inService d).map fun d => 2 ^ d
    some (BitVec.ofNat 64 (putBits (s.rd R.PWR_STAT).toNat 48 8 m.sum))
  else none

def State.viewPwrd (s : State) (d off : Nat) : Option Word :=
  if off = 8 then some (BitVec.ofNat 64 (putBits (s.rd (R.PWR_DIE_STAT d)).toNat 14 1 (b2n (s.inService d)))) else none

/-- What a read of a control-space offset returns. -/
def State.view (s : State) (a : Nat) : Word :=
  let v : Option Word := match ctlDecode a with
    | some (.ae, p, off) => s.viewAe p off
    | some (.eng, p, off) => s.viewEng p off
    | some (.cvu, p, off) => s.viewCvu p off
    | some (.cox, p, off) => s.viewCox p off
    | some (.str, d, off) => s.viewStr d off
    | some (.clk, d, off) => s.viewClk d off
    | some (.pwrd, d, off) => s.viewPwrd d off
    | some (.pwr, _, off) => s.viewPwr off
    | some (.fab, _, off) => s.viewFab off
    | some (.ctx, _, off) => s.viewCtx off
    | some (.col, _, off) => s.viewCol off
    | some (.err, _, off) => s.viewErr off
    | some (.eth, _, off) => s.viewEth off
    | some (.bh, _, off) => s.viewBh off
    | some (.mnt, _, off) => s.viewMnt off
    | some (.ten, _, off) => s.viewTen off
    | some (.tel, _, off) => if off = 0x30 then some (BitVec.ofNat 64 s.time) else none
    | _ => none
  v.getD (s.rd a)

end Sys2Proof.Machine
end

