-- ==== Sys2Proof/Machine/Ae.lean ====
section
/-! DEFINITION. The access engine (R113 to R130, R149, R150): its command list, fences, tokens, merging, the tile cache,
requests at stacks, and what completes a command. -/

namespace Sys2Proof.Machine

open Sys2Proof

/-! ### The command list -/

def State.aeCmd (s : State) (p id : Nat) : Option AeCmd := (s.ae p).cmds.find? fun c => c.id == id

/-- Replace the command of the same number. -/
def State.setCmd (s : State) (p : Nat) (c : AeCmd) : State :=
  let a := s.ae p
  s.setAe p { a with cmds := a.cmds.map fun d => if d.id = c.id then c else d }

def State.delCmd (s : State) (p id : Nat) : State :=
  let a := s.ae p
  s.setAe p { a with cmds := a.cmds.filter fun d => d.id != id, pieces := a.pieces.filter fun q => q.cmd != id
                     retries := a.retries.filter fun r => r.1 != id }

/-- A command as it enters the list, before its own fields. -/
def AeCmd.new (kind : AeKind) (x : Nat) (tag : HeatTag) : AeCmd :=
  { id := 0, kind := kind, issue := x, phase := .wait, slot := false, flag := none, cnt := false, ctx := none, exp := 0
    q := none, ring := 0, qgen := 0, cache := false, pin := false, key := 0, version := 0, far := 0, len := 0, sb := none
    loc := 0, sbLoc := 0, deadline := none, data := [], need := 0, reqs := [], suppress := false, noInsert := false
    zpos := none, zprobe := false, zero := false, merged := [], first := none, localDone := false
    status := 0, found := none, last := 0, va := 0, vb := 0, watch := none, limit := 0, rdy := 0, ext := false, tag := tag }

def AeKind.isFence (k : AeKind) : Bool :=
  match k with
  | .fenceLocal | .fenceFabric => true
  | _ => false

/-- Does a command of the kind take a request slot (R115, R189, R242)? -/
def AeKind.slotted (k : AeKind) : Bool :=
  match k with
  | .fetch | .put | .gather | .relay | .chainPut | .atomic _ => true
  | _ => false

def AeKind.isPut (k : AeKind) : Bool :=
  match k with
  | .put | .chainPut => true
  | _ => false

/-- Is a command held by a fence issued before it (R150)? -/
def State.fenced (s : State) (p id : Nat) : Bool := (s.ae p).cmds.any fun c => c.kind.isFence && decide (c.id < id)

def State.listFull (s : State) (p : Nat) : Bool := decide (512 ≤ (s.ae p).cmds.length)

/-- A command is discarded (R114, R116). -/
def State.aeDiscard (s : State) (p x : Nat) : State :=
  let s := s.setF (R.AE_EVENT p) F.AE_EVENT_CMD_OVERFLOW 1
  s.violate p 9 uAE (s.heatTag p x) x 0

/-- A command that waits for partners to merge with stops waiting (R121). -/
def State.mergeStop (s : State) (p : Nat) : State :=
  let a := s.ae p
  s.setAe p { a with cmds := a.cmds.map fun c => if c.phase = .merge then { c with phase := .wait } else c }

/-- The watchdog of a fence starts in the cycle it first holds a later command (R203). -/
def State.fenceWatch (s : State) (p : Nat) : State :=
  let a := s.ae p
  let limit := s.wdDefault
  s.setAe p { a with cmds := a.cmds.map fun c =>
    if c.kind.isFence ∧ c.watch = none ∧ a.cmds.any (fun d => decide (c.id < d.id)) = true then
      { c with watch := some s.time, limit := limit }
    else c }

/-- Enter a command in the list; its number is answered. -/
def State.aeAdd (s : State) (p : Nat) (c : AeCmd) : Nat × State :=
  let a := s.ae p
  let id := a.nextId
  (id, (s.setAe p { a with cmds := a.cmds ++ [{ c with id := id }], nextId := id + 1 }).fenceWatch p)

def State.aeSlots (s : State) (p : Nat) : Nat := ((s.ae p).cmds.filter fun c => c.slot).length

/-- Commands a leader has absorbed, in issue order. -/
def State.absorbed (s : State) (p : Nat) (c : AeCmd) : List AeCmd := c.merged.filterMap fun i => s.aeCmd p i

/-- The context named by operand D, if one is (R138, R198). -/
def State.ctxOf (s : State) (p : Nat) (d : Opnd) : Option Nat :=
  match d with
  | .none => none
  | d => some (s.value p d % 2 ^ 20)

/-! ### Completion -/

/-- What a command's success does at its issuer: the count and the flag of a fetch, gather or relay (R195, R198). -/
def State.aeEffects (s : State) (p x : Nat) (c : AeCmd) : State :=
  if c.suppress then s
  else
    let s : State := match c.cnt, c.ctx with
      | true, some k => s.countCtx k
      | _, _ => s
    match c.flag with
    | some n => s.landSet p n x 0
    | none => s

/-- A put is written at this node (R195, R199): it counts, and its signal applies or waits. The flag is one of the core
its address names, or of the signal core of its context. -/
def State.putEffects (s : State) (ctx : Option Nat) (cnt : Bool) (flag : Option Nat) (exp space off : Nat) : State :=
  match ctx with
  | none => s
  | some k =>
    let s := if cnt then s.countCtx k else s
    match flag with
    | none => s
    | some n =>
      let p := match targetOf space off 1, space with
        | .spad p _, _ => p
        | _, 3 => off / 2 ^ 13 % 256
        | _, _ => (s.ctx k).signalCore
      s.putSignal k p n exp

/-- Would a put's signal have to wait with no room for it (R200)? -/
def State.signalFull (s : State) (ctx : Option Nat) (cnt : Bool) (flag : Option Nat) (exp : Nat) : Bool :=
  match ctx, flag with
  | some k, some _ => decide ((s.ctx k).count + (if cnt then 1 else 0) < exp) && !s.signalRoom k
  | _, _ => false

/-- A command leaves the list, with those it absorbed. -/
def State.aeRemove (s : State) (p : Nat) (c : AeCmd) : State :=
  (c.merged ++ [c.id]).foldl (fun (s : State) i => s.delCmd p i) s

/-- A fetch, gather or relay ends: with its effects, or failed without any. -/
def State.aeLandEnd (s : State) (p x : Nat) (c : AeCmd) : State :=
  let all := c :: s.absorbed p c
  let s := if c.status = 0 then all.foldl (fun (s : State) d => s.aeEffects p x d) s else s
  s.aeRemove p c

/-- A put to the own node ends: its constituents are written, or it failed. -/
def State.aePutEnd (s : State) (p : Nat) (c : AeCmd) : State :=
  let all := c :: s.absorbed p c
  let s := if c.status = 0 then all.foldl (fun (s : State) d =>
      if d.suppress then s
      else
        let far := match d.first with | some f => f.1 | none => d.far
        s.putEffects d.ctx d.cnt d.flag d.exp (kSpace far.toNat) (kOff far.toNat)) s else s
  s.aeRemove p c

/-! ### VERSION_SKEW (R254) -/

def State.versionSkew (s : State) (p : Nat) (c : AeCmd) (found : Nat) (addr : Word) (inj : Bool) : State :=
  let d := dieOf p
  let heat := if c.tag.on then c.tag.no else 0xFFFF
  let s : State :=
    if s.f R.COL_SKEW_REC0 F.COL_SKEW_REC0_VALID = 1 then s
    else
      let s := s.wr R.COL_SKEW_REC0 (BitVec.ofNat 64 (d + p % 32 * 2 ^ 3 + heat * 2 ^ 8 + 2 ^ 24))
      (s.wr R.COL_SKEW_REC1 (BitVec.ofNat 64 (c.version + found * 2 ^ 32))).wr R.COL_SKEW_REC2 addr
  let s := (s.setF R.COL_EVENT F.COL_EVENT_VERSION_SKEW 1).bump R.COL_CNT_SKEW 1
  let v := s.die d
  let s := s.setDie d { (if (match v.run with | some r => r.heat == heat | none => false) then v.stopHeat else v) with
    rulingStop := true }
  let s := if heat = 0xFFFF then s else s.poisonHeat d heat
  let o := occ 0x30 kCore p c.version found addr.toNat
  s.record (if inj then s.injected o else o) 3

/-! ### The tile cache (R129) -/

/-- The byte at which cache slot i starts: the cache is the top SLOTS slots. -/
def AccessEngine.cacheBase (a : AccessEngine) (i : Nat) : Nat := (1024 - a.tcSlots + i) * 8192

/-- A versioned command whose key is held under another version misses (R253). -/
def AccessEngine.lookup (a : AccessEngine) (key : Word) (version : Nat) : Option CacheEntry :=
  a.cache.find? fun e => e.key == key && (version == 0 || e.version.toNat == version)

/-- The entry an insertion takes: the one of its key, a free one, or the unpinned one inserted first, the lowest slot
among equals. -/
def AccessEngine.victim (a : AccessEngine) (key : Word) : Option Nat :=
  match a.cache.find? fun e => e.key == key with
  | some e => some e.slot
  | none =>
    match (List.range a.tcSlots).find? fun i => !a.cache.any fun e => e.slot == i with
    | some i => some i
    | none =>
      let free := a.cache.filter fun e => !e.pin
      let oldest := free.foldl (fun (m : Option CacheEntry) e => match m with
        | none => some e
        | some b => if e.insertedAt < b.insertedAt ∨ (e.insertedAt = b.insertedAt ∧ e.slot < b.slot) then some e else some b) none
      oldest.map fun e => e.slot

/-- Entries removed before their first read are counted (R128). -/
def State.cacheDrop (s : State) (p : Nat) (gone : CacheEntry → Bool) : State :=
  let a := s.ae p
  let n := (a.cache.filter fun e => gone e && !e.used).length
  (s.setAe p { a with cache := a.cache.filter fun e => !gone e }).bump (R.AE_PF_EVICTED_UNUSED p) n

/-- Insert a tile; false where every entry is pinned. -/
def State.cacheInsert (s : State) (p x : Nat) (c : AeCmd) (tile : List Byte) : Bool × State :=
  match (s.ae p).victim c.key with
  | none => (false, s.setF (R.AE_EVENT p) F.AE_EVENT_TC_FULL 1)
  | some i =>
    let s := s.cacheDrop p fun e => e.slot == i
    let a := s.ae p
    let e : CacheEntry := ⟨i, c.key, BitVec.ofNat 32 c.version, c.pin, x, false⟩
    (true, (s.setAe p { a with cache := a.cache ++ [e] }).spadWrite p (a.cacheBase i) tile)

/-! ### Requests at stacks (R111, R112, R115) -/

/-- The queue a stack-local address's request joins: 32 × PC + bank. -/
def State.bankKey (s : State) (k a : Nat) : Nat := 32 * pcOf (s.phys k a) + bankOf (s.phys k a)

def State.bankQueue (s : State) (k key : Nat) : List BankReq := (s.stk k).queues.get (fun _ => []) key
def State.setBankQueue (s : State) (k key : Nat) (l : List BankReq) : State :=
  let v := s.stk k
  s.setStk k { v with queues := v.queues.set (fun _ => []) key l }

/-- The bank of an own-node HBM range's first byte: stack, address and queue. -/
def State.bankOfFar (s : State) (far : Word) : Nat × Nat × Nat :=
  let o := kOff far.toNat
  let w := s.hbmPlace (o / 2 ^ 38 % 8) (o % 2 ^ 38)
  (w.1, w.2, s.bankKey w.1 w.2)

/-- Is an address HBM of this node? -/
def State.ownHbm (s : State) (far : Word) : Bool := kNode far.toNat == s.node && kSpace far.toNat == 0

/-- Has a core quota for another request at a bank (R115)? -/
def State.quotaFor (s : State) (p : Nat) (far : Word) : Bool :=
  if s.ownHbm far then
    let b := s.bankOfFar far
    decide (((s.bankQueue b.1 b.2.2).filter fun r => r.pos == p).length < 8)
  else true

/-- Cut a far range into parts: within one stack tile each for this node's HBM, whole otherwise. -/
def State.farParts (s : State) (far : Word) (off len : Nat) : List (Nat × Word × Nat) :=
  if s.ownHbm far then
    (tilePieces (len / 8192 + 2) (kOff far.toNat) len).map fun q =>
      (off + (q.1 - kOff far.toNat), far + BitVec.ofNat 64 (q.1 - kOff far.toNat), q.2)
  else [(off, far, len)]

/-- The parts of a command's far transfer: payload, then side-band. -/
def State.aeParts (s : State) (c : AeCmd) : List AeReq :=
  let ps := s.farParts c.far 0 c.len ++ (match c.sb with | some b => s.farParts b.1 c.len b.2 | none => [])
  ps.mapIdx fun i q => ⟨i, q.1, q.2.1, q.2.2, 0, []⟩

def AeCmd.setReq (c : AeCmd) (r : AeReq) : AeCmd :=
  { c with reqs := c.reqs.map fun q => if q.part = r.part then r else q }

def AeCmd.req (c : AeCmd) (part : Nat) : Option AeReq := c.reqs.find? fun r => r.part == part

def AeCmd.allDone (c : AeCmd) : Bool := c.reqs.all fun r => r.st == 2

/-- The bytes of the parts, in order. -/
def AeCmd.image (c : AeCmd) : List Byte := c.reqs.flatMap fun r => r.data

/-- Cut a scratchpad range into the pieces of R104, item 2: groups of eight lines. -/
def spadPieces : (fuel off len : Nat) → List (Nat × Nat)
  | 0, _, _ => []
  | k + 1, off, len =>
    if len = 0 then []
    else
      let n := min len (1024 - off % 1024)
      (off, n) :: spadPieces k (off + n) (len - n)

/-- Queue dynamic pieces that write bytes for a command. -/
def State.addWrites (s : State) (p rdy kind id off : Nat) (bs : List Byte) : Nat × State :=
  let ps := spadPieces (bs.length / 1024 + 2) off bs.length
  let a := s.ae p
  let qs : List Piece := ps.map fun q => ⟨rdy, kind, id, q.1 % 2 ^ 23, q.2, some (slice bs (q.1 - off) q.2)⟩
  (ps.length, s.setAe p { a with pieces := a.pieces ++ qs })

/-- Queue dynamic pieces that read bytes for a command. -/
def State.addReads (s : State) (p rdy id off len : Nat) : Nat × State :=
  let ps := spadPieces (len / 1024 + 2) off len
  let a := s.ae p
  let qs : List Piece := ps.map fun q => ⟨rdy, 3, id, q.1 % 2 ^ 23, q.2, none⟩
  (ps.length, s.setAe p { a with pieces := a.pieces ++ qs })

/-- A command's data is all here in cycle x: pieces write it where it lands, or it waits to land whole (a failed or
cached one). -/
def State.aeGathered (s : State) (p x : Nat) (c : AeCmd) : State :=
  if c.status ≠ 0 ∨ c.found.isSome = true ∨ c.cache = true then s.setCmd p { c with phase := .moved, need := 0, rdy := x }
  else
    let img := c.image
    let w := s.addWrites p x 0 c.id c.loc (img.take c.len)
    let v : Nat × State := match c.sb with
      | some _ => w.2.addWrites p x 0 c.id c.sbLoc (img.drop c.len)
      | none => (0, w.2)
    v.2.setCmd p { c with phase := .move, need := w.1 + v.1, rdy := x }

/-- A gathered row is here: a piece writes it, no sooner than 8 die cycles after the row before it (R125). -/
def State.aeRow (s : State) (p x : Nat) (c : AeCmd) (r : AeReq) : State :=
  let t := max x (c.rdy + 8)
  if c.cache then s.setCmd p { c with rdy := t, phase := if c.allDone then .moved else c.phase }
  else
    let w := s.addWrites p t 0 c.id (c.loc + r.off) r.data
    w.2.setCmd p { c with rdy := t, need := c.need + w.1 }

/-- Part of a read arrives in cycle x with a status, the version its read returned, and its tile's map bit. -/
def State.aeData (s : State) (p id part x status : Nat) (bs : List Byte) (ver : Option Nat) (zero : Bool) : State :=
  match s.aeCmd p id with
  | none => s
  | some c =>
    match c.req part with
    | none => s
    | some r =>
      let r := { r with st := 2, data := if status = 0 then bs else List.replicate r.len 0 }
      let i := if c.version = 0 then (none, s) else s.inject 0x30 kCore p
      let s := i.2
      let seen := if i.1.isSome then some (c.version + 1) else ver
      let skew := match seen with
        | some v => if c.version ≠ 0 ∧ v ≠ c.version ∧ status = 0 then some (v, r.far) else none
        | none => none
      let c := c.setReq r
      let c := { c with status := if c.status = 0 then status else c.status
                        found := if c.found.isSome then c.found else skew
                        zero := c.zero || (zero && decide (c.len = 8192)) }
      let s := s.setCmd p c
      if c.kind = .gather then
        let s := s.aeRow p x c r
        match s.aeCmd p id with
        | some c =>
          if c.allDone && (decide (c.need = 0) || decide (c.status ≠ 0) || c.found.isSome) then
            s.setCmd p { c with phase := .moved }
          else s
        | none => s
      else if c.allDone then s.aeGathered p x c
      else s

/-- A part of a put is written, or refused: the last one ends the command. -/
def State.aeWritten (s : State) (p id part status : Nat) : State :=
  match s.aeCmd p id with
  | none => s
  | some c =>
    match c.req part with
    | none => s
    | some r =>
      let c := c.setReq { r with st := 2 }
      let c := { c with status := if c.status = 0 then status else c.status }
      let s := s.setCmd p c
      if c.allDone then s.aePutEnd p c else s

/-- Offer a request to a stack's bank queue; a full one refuses it, and it is offered again after 16 cycles (R112,
R115). A request from another die has no deadline of its own and takes its arrival plus HBM_CTL.AGE_LIMIT (R118). -/
def State.bankOffer (s : State) (p x : Nat) (c : AeCmd) (r : AeReq) (wr : Option (List Byte)) : State :=
  let b := s.bankOfFar r.far
  let l := s.bankQueue b.1 b.2.2
  if 16 ≤ l.length then
    let s := (s.bump (R.HBM_CNT_BANKQ_FULL b.1) 1).bump (R.AE_CNT_BANKQ_BP p) 1
    let a := s.ae p
    s.setAe p { a with retries := a.retries ++ [(c.id, r.part, x + 16)] }
  else
    let home := b.1 / 4 == p / 32
    let dl := if home then c.deadline.getD (c.issue + s.f (R.AE_CTL p) F.AE_CTL_AGE_LIMIT)
      else x + s.f (R.HBM_CTL b.1) F.HBM_CTL_AGE_LIMIT
    let q : BankReq := ⟨p, c.id, r.part, b.2.1, r.len, wr, dl, c.q.isSome⟩
    (s.setBankQueue b.1 b.2.2 (l ++ [q])).setCmd p (c.setReq { r with st := 1 })

/-- Flag space: what a load of a flag word returns (R32). -/
def State.flagWord (s : State) (p n : Nat) : List Byte := leBytes 8 (if s.flag p n then 1 else 0)

/-- Ask for one part of a read in cycle x. -/
def State.aeAsk (s : State) (p x : Nat) (c : AeCmd) (r : AeReq) : State :=
  let fa := r.far.toNat
  if kNode fa = s.node then
    let g := if p < 256 then s.accessStatus (.core (Fin.ofNat 256 p)) none aRead (kSpace fa) (kOff fa) r.len 0 else (sADDR, s)
    let s := g.2
    if g.1 ≠ 0 then s.aeData p c.id r.part x g.1 [] none false
    else match targetOf (kSpace fa) (kOff fa) r.len with
      | .hbm d _ =>
        let w := s.innerCross (p / 32) d
        if w.1 then w.2.bankOffer p x c r none else w.2.aeData p c.id r.part x sNOROUTE [] none false
      | .spad q off => s.aeData p c.id r.part x 0 (s.spadBytes q off r.len) (some 0) false
      | .flag q n => s.aeData p c.id r.part x 0 (s.flagWord q n) (some 0) false
      | .ctl o => s.aeData p c.id r.part x 0 (leBytes 8 (s.view o).toNat) (some 0) false
      | .bad => s
  else
    let ctx := c.ctx.getD 0
    let q := s.reserveSeq ctx (kNode fa) (.ae p c.id r.part)
    let s := q.2.setCmd p (c.setReq { r with st := 1 })
    let k : Packet := { Packet.blank with
      dst := kNode fa, space := kSpace fa, offset := kOff fa, ctx := ctx, seq := q.1, epoch := (s.ctx ctx).epoch
      op := 0x03, len := r.len - 1 }
    let l := s.launch (kNode fa) k (.ae p c.id r.part)
    match l.1 with
    | none => l.2
    | some st => (l.2.dropTxPkt ctx (kNode fa) q.1).aeData p c.id r.part x st [] none false

/-- Ask for every part of a command's read. -/
def State.aeAskAll (s : State) (p x id : Nat) : State :=
  match s.aeCmd p id with
  | none => s
  | some c => c.reqs.foldl (fun (s : State) r =>
      match s.aeCmd p id with
      | some c => if r.st = 0 then s.aeAsk p x c r else s
      | none => s) s

/-- Ask for the next rows of a gather that the bank quota allows. -/
def State.aeAskRows (s : State) (p x id : Nat) : State :=
  match s.aeCmd p id with
  | none => s
  | some c => c.reqs.foldl (fun (s : State) r =>
      match s.aeCmd p id with
      | some c => if r.st = 0 && s.quotaFor p r.far then s.aeAsk p x c r else s
      | none => s) s

/-! ### Puts -/

/-- A far store of one 8 B word at this node: to a flag it sets or clears (R189). -/
def State.storeFlag (s : State) (p n x src : Nat) (v : Nat) : State :=
  if v % 2 = 1 then s.landSet p n x src else s.landClear p n x src true

/-- A packet of a put to another node (R214): C0 up to 256 B, D0 above. -/
def putPacket (far : Word) (ctx seq epoch : Nat) (cnt : Bool) (flag : Option Nat) (exp : Nat) (bs : List Byte) : Packet :=
  { Packet.blank with
    dst := kNode far.toNat, space := kSpace far.toNat, offset := kOff far.toNat, ctx := ctx, seq := seq, epoch := epoch
    op := if bs.length ≤ 256 then 0x00 else 0x01, len := bs.length - 1, cntEn := cnt, flagEn := flag.isSome
    flag := flag.getD 0, exp := exp, payload := bs }

/-- Send one packet of a put; `part` 1 is its side-band, which goes first and alone, so that the payload's count and
signal follow when all of the put is written (R195, log 17). -/
def State.sendPut (s : State) (p : Nat) (c : AeCmd) (id part : Nat) (far : Word) (bs : List Byte) (eff : Bool) : State :=
  let ctx := c.ctx.getD 0
  let q := s.reserveSeq ctx (kNode far.toNat) (.ae p id part)
  let s := q.2
  let k := putPacket far ctx q.1 (s.ctx ctx).epoch (eff && c.cnt && !c.suppress) (if eff && !c.suppress then c.flag else none) c.exp bs
  let l := s.launch (kNode far.toNat) k (.ae p id part)
  match l.1 with
  | none => l.2
  | some _ => (l.2.dropTxPkt ctx (kNode far.toNat) q.1).delCmd p id

/-- The constituents of a put, each with its own address, length and place in the data. -/
def State.putParts (s : State) (p : Nat) (c : AeCmd) : List (AeCmd × Word × Nat × Nat) :=
  let own : Word × Nat × Nat := c.first.getD (c.far, c.len, c.loc)
  (c, own.1, own.2.1, own.2.2 - c.loc) ::
    (s.absorbed p c).map fun d => (d, d.far, d.len, d.loc - c.loc)

/-- Has a put to this node a signal for which there is no room (R200)? -/
def State.putHeld (s : State) (p : Nat) (c : AeCmd) : Bool :=
  (c :: s.absorbed p c).any fun d => !d.suppress && s.signalFull d.ctx d.cnt d.flag d.exp

/-- A put's bytes have left its queue's slot, which is free again (R116), and the put is counted. -/
def State.putRead (s : State) (p : Nat) (c : AeCmd) : State :=
  let s : State := match c.q with
    | some q =>
      let t := s.tq p q
      if t.gen = c.qgen then s.setTq p q { t with
        landed := t.landed - (t.landed &&& 2 ^ c.ring), head := if t.head = c.ring then (t.head + 1) % max 1 t.depth else t.head
        reserved := t.reserved - 1, claimed := t.claimed - 1 } else s
    | none => s
  s.bump (R.AE_CNT_PUT_TILES p) 1

/-- A put's bytes are read out of its source in cycle x: they go to this node's memory, or as packets (R113, R226,
R229). Writes of control registers are the caller's, `ctl`. -/
def State.putGo (s : State) (ctl : State → Nat → Word → State) (p x id : Nat) : State :=
  match s.aeCmd p id with
  | none => s
  | some c =>
    let s := if c.phase = .moved then s else s.putRead p c
    if kNode c.far.toNat = s.node ∧ kSpace c.far.toNat ≠ 0 ∧ s.putHeld p c = true then
      s.setCmd p { c with phase := .moved, rdy := x + s.mhz (dieOf p) }
    else if kNode c.far.toNat = s.node then
      let c := { c with phase := .sent, reqs := s.aeParts c }
      let s := s.setCmd p c
      c.reqs.foldl (fun (s : State) r =>
        match s.aeCmd p id with
        | none => s
        | some c =>
          let fa := r.far.toNat
          let bs := slice c.data r.off r.len
          let v := BitVec.ofNat 64 (leNat (bs.take 8))
          let g := s.accessStatus (.core (Fin.ofNat 256 p)) none aWrite (kSpace fa) (kOff fa) r.len v
          let s := g.2
          if g.1 ≠ 0 then s.aeWritten p id r.part g.1
          else match targetOf (kSpace fa) (kOff fa) r.len with
            | .hbm d l =>
              let w := s.innerCross (p / 32) d
              if s.packageLocked d l r.len then
                (s.reject (.core (Fin.ofNat 256 p)) 0 (kOff fa) sDENIED (.hbm d l) false).aeWritten p id r.part sDENIED
              else if w.1 then w.2.bankOffer p x c r (some bs)
              else w.2.aeWritten p id r.part sNOROUTE
            | .spad q off => (s.spadWrite q off bs).aeWritten p id r.part 0
            | .flag q n => (s.storeFlag q n x (if q = p then 0 else 2) (leNat bs)).aeWritten p id r.part 0
            | .ctl o => (ctl s o v).aeWritten p id r.part 0
            | .bad => s) s
    else
      let s := (c :: s.absorbed p c).foldl (fun (s : State) d =>
        s.setCmd p { d with phase := .sent, slot := d.slot && c.sb.isSome, localDone := c.sb.isNone }) s
      match c.sb with
      | some b => s.sendPut p c id 1 b.1 (c.data.drop c.len) false
      | none => (s.putParts p c).foldl (fun (s : State) q =>
          s.sendPut p q.1 q.1.id 0 q.2.1 (slice c.data q.2.2.2 q.2.2.1) true) s

/-- A final answer to a packet of a put: a side-band's success lets the payload go; otherwise the command ends. -/
def State.putAnswer (s : State) (p id part status : Nat) : State :=
  match s.aeCmd p id with
  | none => s
  | some c =>
    if part = 1 ∧ status ≤ 1 then
      let c := { c with slot := false, localDone := true }
      (s.setCmd p c).sendPut p c id 0 c.far (c.data.take c.len) true
    else s.delCmd p id

/-! ### Atomics (R227, R228) -/

/-- The new word of an atomic. -/
def atomicNew (op : Nat) (old v w : Word) : Word :=
  match op with
  | 0 => old + v
  | 1 => old &&& v
  | 2 => old ||| v
  | 3 => old ^^^ v
  | 4 => if old.toNat < v.toNat then v else old
  | 5 => if v.toNat < old.toNat then v else old
  | 6 => v
  | _ => if old = v then w else old

/-- Perform an atomic on a word of this node's HBM or scratchpad: the old word and the state. -/
def State.atomicDo (s : State) (t : Target) (op : Nat) (v w : Word) : Word × State :=
  match t with
  | .hbm d l =>
    let r := s.hbmRead d l 8
    let old := BitVec.ofNat 64 (leNat r.1)
    (old, r.2.hbmWrite d l (leBytes 8 (atomicNew op old v w).toNat))
  | .spad p off =>
    let old := BitVec.ofNat 64 (leNat (s.spadBytes p off 8))
    (old, s.spadWrite p off (leBytes 8 (atomicNew op old v w).toNat))
  | _ => (0, s)

/-- The old value of an atomic lands at its issuer, with its flag (R228). -/
def State.atomicLand (s : State) (p x : Nat) (c : AeCmd) (old : Word) : State :=
  let s := if c.last = 1 then s.spadWrite p c.loc (leBytes 8 old.toNat) else s
  let s : State := match c.suppress, c.flag with
    | false, some n => s.landSet p n x 0
    | _, _ => s
  s.delCmd p c.id

/-- An atomic is answered DUP: its old value is lost (R228). -/
def State.atomicLost (s : State) (p : Nat) (c : AeCmd) (inj : Bool) : State :=
  let o := occ 0x1E kCore p c.far.toNat (c.ctx.getD 0) c.far.toNat
  (s.record (if inj then s.injected o else o)).delCmd p c.id

/-! ### Fences (R150) -/

/-- Has a command, as a fence of a kind sees it, completed? -/
def AeCmd.passed (c : AeCmd) (fabric : Bool) : Bool :=
  match c.kind with
  | .coll _ => fabric
  | .fenceLocal | .fenceFabric => true
  | .put | .chainPut | .atomic _ | .flagFar _ => if fabric then false else c.localDone
  | .flagOwn _ => fabric
  | _ => fabric

/-- Does a fence hold no longer: every command before it has completed in its sense, and no fence stands before it? -/
def State.fenceOpen (s : State) (p : Nat) (f : AeCmd) : Bool :=
  let fabric := f.kind == .fenceFabric
  (s.ae p).cmds.all fun c => decide (f.id ≤ c.id) || (!c.kind.isFence && c.passed fabric)

end Sys2Proof.Machine
end

