-- ==== Sys2Proof/Machine/AeCmds.lean ====
section
/-! DEFINITION. The commands of the access engine: issue (R113 to R116, R121, R126, R129), fences and flags (R150,
R189), slots and tokens (R115, R117 to R119), pseudo-channels (R112, R120), landings (R116, R125, R129), the relay chain
(R122), zero-tile probes (R126) and chains (R124). -/

namespace Sys2Proof.Machine

open Sys2Proof

/-! ### Operands -/

/-- Does a descriptor operand decode? -/
def State.opndOk (s : State) (p : Nat) (o : Opnd) : Bool :=
  match o with
  | .desc w => if w.toNat % 4 = 0 then (s.localDesc p w).isSome else (s.farDesc p w).isSome
  | _ => true

def State.aeOk (s : State) (p : Nat) (o : AeSlot) : Bool := s.opndOk p o.a && s.opndOk p o.b && s.opndOk p o.c

def State.farOf (s : State) (p : Nat) (o : Opnd) : Far :=
  match o with
  | .desc w => (s.farDesc p w).getD ⟨0, 1, 0, .fp32⟩
  | _ => ⟨0, 1, 0, .fp32⟩

/-- The scratchpad offset of a local operand, and of its side-band. -/
def State.locOf (s : State) (p : Nat) (o : Opnd) : Nat × Nat :=
  match o with
  | .desc w => match s.localDesc p w with
    | some k => (k.base, k.sb)
    | none => (0, 0)
  | _ => (0, 0)

/-- The side-band of a transfer, if its command names one. -/
def State.sideBand (s : State) (p : Nat) (o : Opnd) : Option (Word × Nat) :=
  match o with
  | .desc _ => let f := s.farOf p o; some (BitVec.ofNat 64 f.addr, f.len)
  | _ => none

/-- The core of p's die on which a virtual core lies (R155); p itself where none does. -/
def State.physOf (s : State) (p v : Nat) : Nat :=
  let d := dieOf p
  let cl := match (s.die d).run with | some r => r.clusters | none => [0, 1, 2, 3]
  match (List.range 32).find? fun c =>
      !s.coreFenced (32 * d + c) && cl.contains (c / 8) && s.vcoreIn cl (32 * d + c) == v with
  | some c => 32 * d + c
  | none => p

/-! ### Issue -/

/-- Where a landing command's data goes: the ring slot it reserved, or a scratchpad offset. -/
structure Dest where
  q : Option Nat
  ring : Nat
  gen : Nat
  loc : Nat
  sbLoc : Nat
deriving DecidableEq, Repr

/-- A landing command takes its destination: the tail slot of an inbound queue, or its local operand (R116). None where
the queue has no slot. -/
def State.takeDest (s : State) (p : Nat) (o : AeSlot) (b : Opnd) : Option (Dest × State) :=
  match o.tq with
  | none => let l := s.locOf p b; some (⟨none, 0, 0, l.1, l.2⟩, s)
  | some q =>
    let t := s.tq p q.val
    if t.outbound then none
    else match t.reserve with
      | none => none
      | some (r, t') =>
        some (⟨some q.val, r, t.gen, t.slotBase r, 0⟩,
          s.setTq p q.val { t' with lateSlots := t'.lateSlots - (t'.lateSlots &&& 2 ^ r) })

/-- The position of a fetch in its queue's replay, and whether its zero map is predicted (R126). -/
def State.predictFor (s : State) (p : Nat) (c : AeCmd) : AeCmd × State :=
  match c.q with
  | none => (c, s)
  | some q =>
    let t := s.tq p q
    if !t.pred then (c, s)
    else
      let s := s.setTq p q { t with pos := t.pos + 1 }
      if 4096 ≤ t.pos then (c, s)
      else
        let own := s.ownHbm c.far && kOff c.far.toNat / 2 ^ 38 == dieOf p
        let probe := s.f (R.AE_CTL p) F.AE_CTL_ZPRED_EN == 1 && own && !c.cache && c.len == 8192 &&
          t.predict.get (fun _ => false) t.pos
        ({ c with zpos := some t.pos, zprobe := probe }, s)

/-- May a command merge (R121)? -/
def State.mergeable (s : State) (p : Nat) (c : AeCmd) : Bool :=
  s.f (R.AE_CTL p) F.AE_CTL_MERGE_EN == 1 && (c.kind == .fetch || c.kind == .put) && decide (c.len < 8192) &&
    c.q.isNone && !c.cache && c.sb.isNone

/-- A command joins one that waits for partners, at its end or before its start (R121). -/
def AeCmd.join (l c : AeCmd) : Option AeCmd :=
  let a := l.far.toNat
  let b := c.far.toNat
  let n := l.len + c.len
  if l.kind = c.kind ∧ kNode a = kNode b ∧ kSpace a = kSpace b ∧ l.version = c.version ∧ c.issue ≤ l.issue + 32 then
    let first := some (l.first.getD (l.far, l.len, l.loc))
    if a + l.len = b ∧ l.loc + l.len = c.loc ∧ a / 8192 = (a + n - 1) / 8192 then
      some { l with len := n, first := first }
    else if b + c.len = a ∧ c.loc + c.len = l.loc ∧ b / 8192 = (b + n - 1) / 8192 then
      some { l with far := c.far, loc := c.loc, len := n, first := first }
    else none
  else none

/-- A command enters the list, joining the one that waits for partners where it can (R114, R121). -/
def State.aeIssue (s : State) (p : Nat) (c : AeCmd) : State :=
  let can := s.mergeable p c
  let leader := (s.ae p).cmds.find? fun d => d.phase == .merge
  match (if can then leader.bind fun l => l.join c else none) with
  | some l =>
    let a := s.aeAdd p { c with phase := .absorbed }
    let l := { l with merged := l.merged ++ [a.1], phase := if l.len = 8192 then .wait else .merge }
    (a.2.setCmd p l).bump (R.AE_CNT_MERGED p) 1
  | none => ((s.mergeStop p).aeAdd p { c with phase := if can then .merge else .wait }).2

/-- The expected count of a put with a flag (R198). -/
def State.expOf (s : State) (p : Nat) (o : AeSlot) : Nat :=
  match o.flag, o.d with
  | some _, .prm n _ => s.prm p (n.val + 1) % 2 ^ 32
  | _, _ => 0

/-- A command with the modifiers of its slot word. -/
def State.aeNew (s : State) (p x : Nat) (kind : AeKind) (o : AeSlot) : AeCmd :=
  { AeCmd.new kind x (s.heatTag p x) with flag := o.flag, cnt := o.cnt, ctx := s.ctxOf p o.d, cache := o.cache, pin := o.pin }

/-- `tile.fetch` (R113, R116, R121, R126, R129). -/
def State.doTileFetch (s : State) (p x : Nat) (o : AeSlot) : State :=
  if s.listFull p then (s.mergeStop p).aeDiscard p x
  else match s.takeDest p o o.b with
    | none => (s.mergeStop p).aeDiscard p x
    | some (d, s) =>
      let f := s.farOf p o.a
      let far := BitVec.ofNat 64 f.addr
      let c := { s.aeNew p x .fetch o with
        q := d.q, ring := d.ring, qgen := d.gen, loc := d.loc, sbLoc := d.sbLoc, far := far, len := f.len, key := far
        version := f.version.toNat, sb := if d.q.isSome then none else s.sideBand p o.c }
      let c := s.predictFor p c
      let s := if d.q.isSome || o.cache then c.2.bump (R.AE_PF_ISSUED p) 1 else c.2
      s.aeIssue p c.1

def execTileFetch (p : Pos) (x : Nat) (o : AeSlot) (s : State) : Res :=
  State.whenWf (o.fetchWf && s.aeOk p o) true "" ((s.doTileFetch p x o).clock (dieOf p) x)

/-- `tile.put` (R113, R116): from a local operand, or from the outbound queue's next slot no earlier put has claimed. -/
def State.doTilePut (s : State) (p x : Nat) (o : AeSlot) : State :=
  if s.listFull p then (s.mergeStop p).aeDiscard p x
  else
    let f := s.farOf p o.b
    let c := { s.aeNew p x .put o with far := BitVec.ofNat 64 f.addr, len := f.len, exp := s.expOf p o }
    match o.tq with
    | none =>
      let l := s.locOf p o.a
      s.aeIssue p { c with loc := l.1, sbLoc := l.2, sb := s.sideBand p o.c }
    | some q =>
      let t := s.tq p q.val
      if t.depth = 0 ∨ t.outbound = false then (s.mergeStop p).aeDiscard p x
      else
        let r := (t.head + t.claimed) % t.depth
        let s := s.setTq p q.val { t with claimed := t.claimed + 1 }
        s.aeIssue p { c with q := some q.val, ring := r, qgen := t.gen, loc := t.slotBase r }

def execTilePut (p : Pos) (x : Nat) (o : AeSlot) (s : State) : Res :=
  State.whenWf (o.putWf && s.aeOk p o) true "" ((s.doTilePut p x o).clock (dieOf p) x)

/-- `tile.gather` (R125): `last` holds the length of its index list, `sbLoc` where the list lies. -/
def State.doTileGather (s : State) (p x : Nat) (o : AeSlot) : State :=
  if s.listFull p then (s.mergeStop p).aeDiscard p x
  else match s.takeDest p o o.b with
    | none => (s.mergeStop p).aeDiscard p x
    | some (d, s) =>
      let f := s.farOf p o.c
      let c := { s.aeNew p x .gather o with
        q := d.q, ring := d.ring, qgen := d.gen, loc := d.loc, len := 8192, key := BitVec.ofNat 64 f.addr
        version := f.version.toNat, last := min 128 (f.len / 64), sbLoc := (s.locOf p o.a).1 }
      let s := if d.q.isSome || o.cache then s.bump (R.AE_PF_ISSUED p) 1 else s
      s.aeIssue p c

def execTileGather (p : Pos) (x : Nat) (o : AeSlot) (s : State) : Res :=
  State.whenWf (o.gatherWf && s.aeOk p o) true "" ((s.doTileGather p x o).clock (dieOf p) x)

/-- `tile.relay` (R122), at its head core. -/
def State.doTileRelay (s : State) (p x : Nat) (o : AeSlot) : State :=
  if s.listFull p then (s.mergeStop p).aeDiscard p x
  else match s.takeDest p o o.b with
    | none => (s.mergeStop p).aeDiscard p x
    | some (d, s) =>
      let f := s.farOf p o.a
      let far := BitVec.ofNat 64 f.addr
      let c := { s.aeNew p x .relay o with
        q := d.q, ring := d.ring, qgen := d.gen, loc := d.loc, far := far, len := f.len, key := far
        version := f.version.toNat, last := s.physOf p (s.value p o.b) }
      let c := s.predictFor p c
      (c.2.bump (R.AE_PF_ISSUED p) 1).aeIssue p c.1

def execTileRelay (p : Pos) (x : Nat) (o : AeSlot) (s : State) : Res :=
  State.whenWf (o.relayWf && s.aeOk p o) true "" ((s.doTileRelay p x o).clock (dieOf p) x)

/-- The key range of `tile.drop` and `tile.unpin`. -/
def State.keyRange (s : State) (p : Nat) (o : AeSlot) (k : Word) : Bool :=
  decide ((s.farOf p o.a).addr ≤ k.toNat) && decide (k.toNat ≤ (s.farOf p o.b).addr)

/-- `tile.drop` (R129): entries of the range leave, and commands in flight with such a key insert nothing. -/
def State.doTileDrop (s : State) (p x : Nat) (o : AeSlot) : State :=
  if s.listFull p then (s.mergeStop p).aeDiscard p x
  else
    let inR := s.keyRange p o
    let s := (s.mergeStop p).cacheDrop p fun e => inR e.key
    let a := s.ae p
    s.setAe p { a with cmds := a.cmds.map fun c => if c.cache && inR c.key then { c with noInsert := true } else c }

def execTileDrop (p : Pos) (x : Nat) (o : AeSlot) (s : State) : Res :=
  State.whenWf (o.keysWf && s.aeOk p o) true "" ((s.doTileDrop p x o).clock (dieOf p) x)

/-- `tile.unpin` (R129). -/
def State.doTileUnpin (s : State) (p x : Nat) (o : AeSlot) : State :=
  if s.listFull p then (s.mergeStop p).aeDiscard p x
  else
    let inR := s.keyRange p o
    let s := s.mergeStop p
    let a := s.ae p
    s.setAe p { a with cache := a.cache.map fun e => if inR e.key then { e with pin := false } else e }

def execTileUnpin (p : Pos) (x : Nat) (o : AeSlot) (s : State) : Res :=
  State.whenWf (o.keysWf && s.aeOk p o) true "" ((s.doTileUnpin p x o).clock (dieOf p) x)

/-! ### Remote atomics (R227, R228): issue -/

def signExt48 (v : Nat) : Word := BitVec.ofInt 64 ((BitVec.ofNat 48 v).toInt)

/-- The operand of an atomic: an immediate or a PRM, sign-extended for `atom.add`. -/
def State.atomVal (s : State) (p op : Nat) (o : Opnd) : Word :=
  let v := s.value p o
  if op = 0 then signExt48 v else BitVec.ofNat 64 v

/-- A remote atomic enters the list; `last` is 1 where its old value is returned. -/
def State.doAtom (s : State) (p x op : Nat) (o : AeSlot) : State :=
  if s.listFull p then (s.mergeStop p).aeDiscard p x
  else
    let f := s.farOf p o.a
    let va := if op = 7 then BitVec.ofNat 64 (s.value p o.c) else s.atomVal p op o.c
    let vb : Word := match o.c with
      | .prm n _ => if op = 7 then BitVec.ofNat 64 (s.prm p (n.val + 1)) else 0
      | _ => 0
    s.aeIssue p { s.aeNew p x (.atomic op) o with
      far := BitVec.ofNat 64 f.addr, len := 8, loc := (s.locOf p o.b).1, last := if o.b.isLocal then 1 else 0
      va := va, vb := vb }

def State.atomRes (s : State) (p : Pos) (x op : Nat) (o : AeSlot) : Res :=
  State.whenWf (o.atomWf (op == 7) && s.aeOk p o) true "" ((s.doAtom p x op o).clock (dieOf p) x)

def execAtomAdd (p : Pos) (x : Nat) (o : AeSlot) (s : State) : Res := s.atomRes p x 0 o
def execAtomAnd (p : Pos) (x : Nat) (o : AeSlot) (s : State) : Res := s.atomRes p x 1 o
def execAtomOr (p : Pos) (x : Nat) (o : AeSlot) (s : State) : Res := s.atomRes p x 2 o
def execAtomXor (p : Pos) (x : Nat) (o : AeSlot) (s : State) : Res := s.atomRes p x 3 o
def execAtomUmax (p : Pos) (x : Nat) (o : AeSlot) (s : State) : Res := s.atomRes p x 4 o
def execAtomUmin (p : Pos) (x : Nat) (o : AeSlot) (s : State) : Res := s.atomRes p x 5 o
def execAtomSwap (p : Pos) (x : Nat) (o : AeSlot) (s : State) : Res := s.atomRes p x 6 o
def execAtomCas (p : Pos) (x : Nat) (o : AeSlot) (s : State) : Res := s.atomRes p x 7 o

/-! ### Flags, fences and collectives in the list (R150, R189, R242) -/

/-- The context a command names must be allocated here, to the tenancy of the die it acts for (R231). -/
def State.ctxStatus (s : State) (ctx : Option Nat) (d : Nat) : Nat :=
  match ctx with
  | none => sOK
  | some k => if !(s.ctx k).alloc then sCTX else if s.tenOfDie d = some (s.ctx k).ten then sOK else sDENIED

/-- A far `flag.set` or `flag.clear`, in the list under a number: a store of 8 B at this node, or an 8 B put on context
0 (log 18). -/
def State.sendFlag (s : State) (p x : Nat) (c : AeCmd) (set : Bool) : State :=
  let fa := c.far.toNat
  let v := if set then 1 else 0
  if kNode fa = s.node then
    let g := s.accessStatus (.core (Fin.ofNat 256 p)) none aWrite (kSpace fa) (kOff fa) 8 (BitVec.ofNat 64 v)
    let s := g.2.delCmd p c.id
    if g.1 ≠ 0 then s
    else match targetOf (kSpace fa) (kOff fa) 8 with
      | .flag q n => s.storeFlag q n x (if q = p then 0 else 2) v
      | _ => s
  else
    let s := s.setCmd p { c with phase := .sent, localDone := true, ctx := some 0 }
    s.sendPut p { c with ctx := some 0 } c.id 0 c.far (leBytes 8 v) true

/-- A collective joins its context's queue as its next instance, or waits in the list while the node's queues are
full (R242). -/
def State.collJoin (s : State) (p : Nat) (c : AeCmd) (op : Nat) : State :=
  if 1024 ≤ s.colls.queue.length then s
  else
    let x := c.ctx.getD 0
    let n := s.colls.joined.get (fun _ => 0) x
    let e : CollCmd := ⟨op, p, x, n % 65536, c.far, c.flag, c.cnt, c.tag⟩
    let s := { s with colls := { s.colls with
      queue := s.colls.queue ++ [e], joined := s.colls.joined.set (fun _ => 0) x (n + 1) } }
    s.delCmd p c.id

/-- Run a list entry that takes no slot, once no fence holds it. -/
def State.runSlotless (s : State) (p x : Nat) (c : AeCmd) : State :=
  if s.fenced p c.id || c.phase != .wait then s
  else match c.kind with
    | .flagOwn set => let s := s.delCmd p c.id; if set then s.landSet p c.last x 0 else s.landClear p c.last x 0 true
    | .flagFar set => s.sendFlag p x c set
    | .coll op => s.collJoin p c op
    | _ => s

/-- Every entry that takes no slot and that nothing holds runs, in issue order. -/
def State.runUnheld (s : State) (p x : Nat) : State :=
  (s.ae p).cmds.foldl (fun (s : State) c => s.runSlotless p x c) s

/-- A far descriptor of a flag word, or an own flag's number. -/
def State.flagOpnd (s : State) (p : Nat) (a : Opnd) : Bool :=
  match a with
  | .imm n => decide (n < 1024)
  | .desc w => w.toNat % 4 == 1 && s.opndOk p a && kSpace (s.farOf p a).addr == 3
  | _ => false

/-- `flag.set` and `flag.clear` (R189): an own flag lands in the cycle after. -/
def State.doFlagCmd (s : State) (p x : Nat) (a : Opnd) (set : Bool) : State :=
  if s.listFull p then (s.mergeStop p).aeDiscard p x
  else
    let c := match a with
      | .imm n => { AeCmd.new (.flagOwn set) x (s.heatTag p x) with last := n }
      | _ => { AeCmd.new (.flagFar set) x (s.heatTag p x) with
          far := BitVec.ofNat 64 (s.farOf p a).addr, len := 8 }
    ((s.mergeStop p).aeAdd p c).2.runUnheld p (x + 1)

def execFlagSet (p : Pos) (x : Nat) (a : Opnd) (s : State) : Res :=
  State.whenWf (s.flagOpnd p a) true "" ((s.doFlagCmd p x a true).clock (dieOf p) x)

def execFlagClear (p : Pos) (x : Nat) (a : Opnd) (s : State) : Res :=
  State.whenWf (s.flagOpnd p a) true "" ((s.doFlagCmd p x a false).clock (dieOf p) x)

/-- A fence enters the list (R150). -/
def State.doFence (s : State) (p x : Nat) (k : AeKind) : State :=
  if s.listFull p then (s.mergeStop p).aeDiscard p x
  else ((s.mergeStop p).aeAdd p (AeCmd.new k x (s.heatTag p x))).2

def execFenceLocal (p : Pos) (x : Nat) (s : State) : Res := .next ((s.doFence p x .fenceLocal).clock (dieOf p) x)

def execFenceFabric (p : Pos) (x : Nat) (s : State) : Res := .next ((s.doFence p x .fenceFabric).clock (dieOf p) x)

/-- The fence that stands first, if it holds no longer. -/
def State.openFence (s : State) (p : Nat) : Option AeCmd :=
  match (s.ae p).cmds.find? fun c => c.kind.isFence with
  | some f => if s.fenceOpen p f then some f else none
  | none => none

/-- FENCE_RELEASE (R150): the first fence leaves, and what it alone held goes on; the next fence's watchdog has run since
it first held a command. -/
def execFenceRelease (p : Pos) (x : Nat) (s : State) : Res :=
  match s.openFence p with
  | none => .refused (.notEnabled "no fence is due to release")
  | some f => .next (((s.delCmd p f.id).runUnheld p x).clock (dieOf p) x)

/-- A gate's or fence's watchdog expires (R204): at the core of the record, with its kind, flag or context, the heat of a
gate, and the limit that ran out. -/
def State.waitTimeout (s : State) (p kind status flag ctx heat limit : Nat) (inj : Bool := false) : State :=
  let s := s.setF (R.FLG_EVENT p) F.FLG_EVENT_WAIT_TIMEOUT 1
  let s := s.bump (R.FLG_CNT_TIMEOUT p) 1
  let s := s.waitRecord p kind status flag ctx heat limit
  let o := occ 0x23 kCore p (flag % 1024 + ctx % 2 ^ 20 * 2 ^ 16 + kind % 16 * 2 ^ 40) limit
  s.record (if inj then s.injected o else o) 1

/-- The oldest command before a fence that has not completed in its sense. -/
def State.fenceOldest (s : State) (p : Nat) (f : AeCmd) : Option AeCmd :=
  (s.ae p).cmds.find? fun c => decide (c.id < f.id) && !c.kind.isFence && !c.passed (f.kind == .fenceFabric)

/-- The limit of a fence's watchdog: extended while the context of its oldest incomplete command is slow (R203). -/
def State.fenceLimit (s : State) (p : Nat) (f : AeCmd) : Nat :=
  if f.ext then f.limit
  else match s.fenceOldest p f with
    | some c => match c.ctx with
      | some k => if (s.ctx k).slow then f.limit * s.f R.PWR_POLICY F.PWR_POLICY_SLOW_FACTOR else f.limit
      | none => f.limit
    | none => f.limit

/-- A fence whose watchdog has run out and not yet expired. -/
def State.fenceLate (s : State) (p : Nat) : Option AeCmd :=
  (s.ae p).cmds.find? fun c => c.kind.isFence && decide (c.limit ≠ 0) && (match c.watch with
    | some t => decide (t + s.fenceLimit p c ≤ s.time)
    | none => false)

/-- FENCE_WATCHDOG_EXPIRE (R203, R204): the fence goes on holding its commands. -/
def State.doFenceExpire (s : State) (p : Nat) (f : AeCmd) : State :=
  let limit := s.fenceLimit p f
  let ctx := match s.fenceOldest p f with | some c => c.ctx.getD 0 | none => 0
  (s.setCmd p { f with limit := 0 }).waitTimeout p 15 1 0 ctx 0 limit

/-! ### Tokens, quota and merging (R115, R117, R121) -/

/-- The bytes a regulated command takes from the bucket. -/
def AeCmd.tokens (c : AeCmd) : Nat :=
  if c.zprobe then 0
  else match c.kind with
    | .fetch | .relay => c.len + (match c.sb with | some b => b.2 | none => 0)
    | .gather => 64 * c.last
    | _ => 0

/-- Would a command find its tile in the cache? -/
def State.cacheHit (s : State) (p : Nat) (c : AeCmd) : Option CacheEntry :=
  if c.cache then (s.ae p).lookup c.key c.version else none

/-- Row i of a gather's index list. -/
def State.gatherRow (s : State) (p : Nat) (c : AeCmd) (i : Nat) : Word :=
  BitVec.ofNat 64 (leNat (s.spadBytes p ((c.sbLoc + 8 * i) % 2 ^ 23) 8))

/-- Does the bank quota allow a command its first request? -/
def State.quotaAllows (s : State) (p : Nat) (c : AeCmd) : Bool :=
  c.zprobe || (s.cacheHit p c).isSome || (match c.kind with
    | .gather => c.last == 0 || s.quotaFor p (s.gatherRow p c 0)
    | .atomic _ => true
    | _ => s.quotaFor p c.far)

/-- Does the regulator allow a command? -/
def State.tokensAllow (s : State) (p : Nat) (c : AeCmd) : Bool :=
  (s.ae p).rate == 0 || (s.cacheHit p c).isSome || decide (c.tokens ≤ (s.ae p).level)

/-- A command waits for a slot: nothing before it in its queue does, and no fence holds it (R115, R116, R119, R150). -/
def State.aeWaiting (s : State) (p : Nat) (c : AeCmd) : Bool :=
  c.phase == .wait && c.kind.slotted && !s.fenced p c.id &&
    (match c.q with
      | some q => (!c.kind.isPut || bitOf (s.tq p q).landed c.ring) && (s.ae p).cmds.all fun d =>
          decide (c.id ≤ d.id) || d.q != some q || (d.phase != .wait && d.phase != .hold)
      | none => true)

/-- May the fabric number another packet of a command to another node? -/
def State.fabricAllows (s : State) (c : AeCmd) : Bool :=
  let dst := kNode c.far.toNat
  if c.kind == .gather || dst == s.node then true
  else s.txRoom (c.ctx.getD 0) dst && (s.ctxNeed (c.ctx.getD 0)).isSome

/-- May a command take a slot now? -/
def State.aeEligible (s : State) (p : Nat) (c : AeCmd) : Bool :=
  s.aeWaiting p c && decide (s.aeSlots p < 48) && s.quotaAllows p c && s.tokensAllow p c && s.fabricAllows c

/-- TOKEN_REFILL (R117): the bucket of a core gains RATE bytes in a cycle; stalls are counted, and commands the bank
quota holds back move to the holding queue while it has room (R115). -/
def State.doTokenRefill (s : State) (p : Nat) : State :=
  let a := s.ae p
  let s := s.setAe p { a with level := min (a.burst * 8192) (a.level + a.rate) }
  let waits := (s.ae p).cmds.filter fun c => s.aeWaiting p c
  let held := (s.ae p).cmds.filter fun c => c.phase == .hold
  let noQuota := waits.filter fun c => !s.quotaAllows p c
  let s := if noQuota.isEmpty && held.isEmpty then s else s.bump (R.AE_CNT_QUOTA_STALL p) 1
  let tokens := waits.any fun c => s.quotaAllows p c && !s.tokensAllow p c
  let s := if tokens && decide (s.aeSlots p < 48) && !waits.any (fun c => s.aeEligible p c) then
      s.bump (R.AE_CNT_REG_STALL p) 1 else s
  let move := (noQuota.take (64 - held.length)).map fun c => c.id
  let a := s.ae p
  s.setAe p { a with cmds := a.cmds.map fun c => if move.contains c.id then { c with phase := .hold } else c }

/-- The next core of a die's relay chain that is not fenced. -/
def State.nextCore (s : State) (p : Nat) : Option Nat :=
  (List.range 32).find? (fun c => decide (p % 32 < c) && !s.coreFenced (p - p % 32 + c)) |>.map (p - p % 32 + ·)

/-- May the tile at the head of a core's chain link start its copy: has the next core's queue a free slot? -/
def State.relayFree (s : State) (p : Nat) (r : RelayTile) : Bool :=
  match s.nextCore p with
  | none => false
  | some n => ((s.tq n r.q).reserve).isSome && (s.tq n r.q).relay

/-- A cycle in which a tile waits in the hop buffer is counted (R122). -/
def State.relayStall (s : State) (p : Nat) : State :=
  match (s.ae p).hop with
  | [] => s
  | r :: _ => if s.relayFree p r then s else s.bump (R.AE_CNT_RELAY_STALL p) 1

def execTokenRefill (p : Pos) (x : Nat) (s : State) : Res := .next (((s.doTokenRefill p).relayStall p).clock (dieOf p) x)

/-- QUOTA_RELEASE (R115): a command in the holding queue returns to contention once its bank has quota for it. -/
def execQuotaRelease (p : Pos) (x : Nat) (id : Nat) (s : State) : Res :=
  match s.aeCmd p id with
  | none => .refused (.notEnabled "no such command")
  | some c => State.when (c.phase == .hold && s.quotaAllows p c) "the command is not held, or its quota is exhausted"
      ((s.setCmd p { c with phase := .wait }).clock (dieOf p) x)

/-- MERGE_TIMEOUT (R121): a command has waited 32 cycles for partners. -/
def execMergeTimeout (p : Pos) (x : Nat) (s : State) : Res :=
  State.when ((s.ae p).cmds.any fun c => c.phase == .merge && decide (c.issue + 32 ≤ x))
    "no command has waited 32 cycles for partners" ((s.mergeStop p).clock (dieOf p) x)

/-! ### Taking a slot (R115 to R119) -/

/-- The deadline a command takes with its slot (R118). -/
def State.deadlineOf (s : State) (p x : Nat) (c : AeCmd) : Nat :=
  match c.deadline with
  | some d => d
  | none => match c.q with
    | some q =>
      let t := s.tq p q
      if t.outbound then x + (t.depth - t.reserved) * t.cyc else x + t.occ * t.cyc
    | none => c.issue + s.f (R.AE_CTL p) F.AE_CTL_AGE_LIMIT

/-- The command a free slot goes to in cycle x (R119, R124). -/
def State.grantee (s : State) (p x : Nat) : Option AeCmd :=
  let l := (s.ae p).cmds.filter fun c => s.aeEligible p c
  let best (l : List AeCmd) : Option AeCmd := l.foldl (fun (m : Option AeCmd) c => match m with
    | none => some c
    | some b => if s.deadlineOf p x c < s.deadlineOf p x b then some c else some b) none
  match best l with
  | none => none
  | some c => if c.kind = .put then
      (match best (l.filter fun d => d.kind == .chainPut) with | some d => some d | none => some c)
    else some c

/-- A gather starts: its index list is read, the lines beyond it are zeroed, and its rows are asked for. -/
def State.gatherGo (s : State) (p x : Nat) (c : AeCmd) : State :=
  let rows := (List.range c.last).map fun i => (⟨i, 64 * i, s.gatherRow p c i, 64, 0, []⟩ : AeReq)
  let s := s.energy (dieOf p) 8 (ceilDiv c.last 16)
  let z : Nat × State := if c.cache then (0, s)
    else s.addWrites p x 0 c.id (c.loc + 64 * c.last) (List.replicate (8192 - 64 * c.last) 0)
  let c := { c with reqs := rows, need := z.1, phase := if rows.isEmpty && (c.cache || decide (c.last = 128)) then .moved else .move }
  (z.2.setCmd p c).aeAskRows p x c.id

/-- An atomic on this node's memory, with its count (R228). -/
def State.atomicHere (s : State) (p x : Nat) (c : AeCmd) (op : Nat) : State :=
  let fa := c.far.toNat
  let g := s.accessStatus (.core (Fin.ofNat 256 p)) none aAtomic (kSpace fa) (kOff fa) 8 c.va
  let s := g.2
  let t := targetOf (kSpace fa) (kOff fa) 8
  if g.1 ≠ 0 ∨ fa % 8 ≠ 0 then s.delCmd p c.id
  else
    let r := s.atomicDo t op c.va c.vb
    let s : State := match c.cnt, c.ctx with
      | true, some k => r.2.countCtx k
      | _, _ => r.2
    s.atomicLand p x c r.1

/-- An atomic on another node's memory leaves as a packet. -/
def State.atomicSend (s : State) (p x : Nat) (c : AeCmd) (op : Nat) : State :=
  let fa := c.far.toNat
  let ctx := c.ctx.getD 0
  let q := s.reserveSeq ctx (kNode fa) (.ae p c.id 0)
  let s := q.2.setCmd p { c with phase := .sent, localDone := true }
  let k : Packet := { Packet.blank with
    dst := kNode fa, space := kSpace fa, offset := kOff fa, ctx := ctx, seq := q.1, epoch := (s.ctx ctx).epoch
    op := 0x20 + op, len := 7, cntEn := c.cnt, opnd0 := c.va, opnd1 := c.vb }
  let l := s.launch (kNode fa) k (.ae p c.id 0)
  match l.1 with
  | none => l.2
  | some _ => ((l.2.dropTxPkt ctx (kNode fa) q.1).delCmd p c.id).clock (dieOf p) x

/-- A cached command that hits copies its entry (R129). -/
def State.cacheCopy (s : State) (p x : Nat) (c : AeCmd) (e : CacheEntry) : State :=
  let a := s.ae p
  let tile := s.spadBytes p (a.cacheBase e.slot) 8192
  let s := s.setAe p { a with cache := a.cache.map fun f =>
    if f.slot = e.slot then { f with used := true, pin := f.pin || c.pin } else f }
  (s.bump (R.AE_CNT_TC_HIT p) 1).setCmd p { c with phase := .moved, data := tile, noInsert := true, rdy := x + 64 }

/-- Ask for a fetch's or a relay's data: a probe of the zero map, or the data itself. -/
def State.fetchGo (s : State) (p x : Nat) (c : AeCmd) : State :=
  if c.zprobe then
    let fa := c.far.toNat
    let g := s.accessStatus (.core (Fin.ofNat 256 p)) none aRead 0 (kOff fa) c.len 0
    if g.1 ≠ 0 then g.2.setCmd p { c with phase := .moved, status := g.1, zprobe := false, rdy := x }
    else (g.2.bump (R.HBM_CNT_PROBE (s.bankOfFar c.far).1) 1).setCmd p { c with phase := .move }
  else
    let c := { c with phase := .move, reqs := s.aeParts c }
    (s.setCmd p c).aeAskAll p x c.id

/-- AE_SLOT_GRANT (R115, R117 to R119): the command takes the slot, its tokens and its deadline, and starts to move its
data. Writes of control registers are the caller's, `ctl`. -/
def State.doGrant (s : State) (ctl : State → Nat → Word → State) (p x : Nat) (c : AeCmd) : State :=
  let dl := s.deadlineOf p x c
  let hit := s.cacheHit p c
  let a := s.ae p
  let s := if hit.isSome ∨ a.rate = 0 then s else s.setAe p { a with level := a.level - c.tokens }
  let c := { c with slot := true, deadline := some dl }
  let s := s.setCmd p c
  let st := s.ctxStatus c.ctx (dieOf p)
  let s : State := match kNode c.far.toNat == s.node, c.ctx with
    | false, some k => (s.ctxNeed k).getD s
    | _, _ => s
  match c.kind with
  | .fetch | .gather | .relay =>
    if st ≠ sOK then s.setCmd p { c with phase := .moved, status := st, rdy := x }
    else match hit with
      | some e => s.cacheCopy p x c e
      | none =>
        let s := if c.cache then s.bump (R.AE_CNT_TC_MISS p) 1 else s
        if c.kind = .gather then s.gatherGo p x c else s.fetchGo p x c
  | .put =>
    if st ≠ sOK then s.aePutEnd p { c with status := st }
    else
      let r := s.addReads p x c.id c.loc c.len
      let b : Nat × State := match c.sb with
        | some q => r.2.addReads p x c.id c.sbLoc q.2
        | none => (0, r.2)
      b.2.setCmd p { c with phase := .move, need := r.1 + b.1, data := [] }
  | .chainPut => if st ≠ sOK then s.aePutEnd p { c with status := st } else (s.setCmd p { c with phase := .move }).putGo ctl p x c.id
  | .atomic op =>
    if st ≠ sOK then s.delCmd p c.id
    else if kNode c.far.toNat = s.node then s.atomicHere p x c op else s.atomicSend p x c op
  | _ => s

/-! ### Scratchpad pieces (R104) -/

/-- The banks a range of a scratchpad needs. -/
def rangeBanks (off len : Nat) : Nat := banksOf ((List.range len).map (off + ·))

/-- The ports a piece needs in cycle x are free of static accesses and of pieces moved already. -/
def State.pieceFree (s : State) (p x : Nat) (q : Piece) : Bool :=
  let a := s.ae p
  let need := rangeBanks q.off q.len
  let wrQ := (a.writes.filter fun w => w.land == x).foldl (fun m w => m ||| banksOf (w.bytes.map (·.1))) 0
  let used := match q.wr with
    | none => if a.rdAt = x then a.rdBanks else 0
    | some _ => (if a.wrAt = x then a.wrBanks else 0) ||| wrQ
  need &&& used == 0

/-- The order of R104, item 2. -/
def Piece.before (a b : Piece) : Bool :=
  decide (a.ready < b.ready) || (a.ready == b.ready && (decide (a.kind < b.kind) || (a.kind == b.kind && decide (a.cmd < b.cmd))))

/-- The piece that moves in cycle x: the first in order, among the first pieces of each command, whose ports are free. -/
def State.nextPiece (s : State) (p x : Nat) : Option Piece :=
  let l := (s.ae p).pieces
  let firsts := l.filter fun q => (l.find? fun r => r.cmd == q.cmd) == some q
  (firsts.filter fun q => decide (q.ready ≤ x) && s.pieceFree p x q).foldl (fun (m : Option Piece) q => match m with
    | none => some q
    | some b => if q.before b then some q else some b) none

/-- A piece moves: bytes into the scratchpad, or out of it for a put, which goes on when all are read. -/
def State.doPiece (s : State) (ctl : State → Nat → Word → State) (p x : Nat) (q : Piece) : State :=
  let a := s.ae p
  let need := rangeBanks q.off q.len
  let rd := if a.rdAt = x then a.rdBanks else 0
  let wr := if a.wrAt = x then a.wrBanks else 0
  let s := match q.wr with
    | none => s.setAe p { a with pieces := a.pieces.erase q, rdAt := x, rdBanks := rd ||| need }
    | some _ => s.setAe p { a with pieces := a.pieces.erase q, wrAt := x, wrBanks := wr ||| need }
  let s := s.energy (dieOf p) 8 (bankWords need)
  match s.aeCmd p q.cmd with
  | none => s
  | some c =>
    match q.wr with
    | some bs =>
      let s := (s.spadWrite p q.off bs).noteWrite p q.off bs.length uAE x
      let left := c.need - 1
      s.setCmd p { c with need := left, phase := if left = 0 && c.allDone then .moved else c.phase, rdy := max c.rdy x }
    | none =>
      let c := { c with data := c.data ++ s.spadBytes p q.off q.len, need := c.need - 1 }
      let s := s.setCmd p c
      if c.need = 0 then s.putGo ctl p x c.id else s

/-! ### Pseudo-channels (R112, R120) -/

/-- The requests in a pseudo-channel's bank queues, each with its bank. -/
def State.pcRequests (s : State) (k pc : Nat) : List (Nat × BankReq) :=
  (List.range 32).flatMap fun b => (s.bankQueue k (32 * pc + b)).map fun q => (b, q)

/-- Does a request continue its bank's open row? -/
def State.rowOpen (s : State) (k pc b : Nat) (q : BankReq) : Bool :=
  (s.stk k).openRow.get (fun _ => 0) (32 * pc + b) == rowOf (s.phys k q.addr) + 1

/-- A write whose signal would find no room waits (R200). -/
def State.reqReady (s : State) (q : BankReq) : Bool :=
  match q.wr, s.aeCmd q.pos q.cmd with
  | some _, some c => !s.putHeld q.pos c
  | _, _ => true

/-- The request a pseudo-channel serves next (R120). -/
def State.pcPick (s : State) (k pc : Nat) : Option (Nat × BankReq) :=
  let better (a b : Nat × BankReq) : Bool :=
    if a.2.deadline ≠ b.2.deadline then decide (a.2.deadline < b.2.deadline)
    else
      let oa := s.rowOpen k pc a.1 a.2
      let ob := s.rowOpen k pc b.1 b.2
      if oa != ob then oa else decide (a.2.pos < b.2.pos)
  ((s.pcRequests k pc).filter fun q => s.reqReady q.2).foldl (fun (m : Option (Nat × BankReq)) q => match m with
    | none => some q
    | some b => if better q b then some q else some b) none

/-- Die cycles a transfer of `n` bytes takes: a tile takes 170.7 ns. -/
def State.pcCycles (s : State) (d n : Nat) : Nat := ceilDiv (1707 * s.mhz d * n) (10000 * 8192)

/-- PC_SERVE (R109, R112, R120): the transfer, its counters, and what it delivers to the access engine that asked. -/
def State.doPcServe (s : State) (k pc x : Nat) (bq : Nat × BankReq) : State :=
  let d := k / 4
  let q := bq.2
  let key := 32 * pc + bq.1
  let others := (s.pcRequests k pc).filter fun r => r != bq
  let hit := s.rowOpen k pc bq.1 q
  let rest := (s.bankQueue k key).erase q
  let s := s.setBankQueue k key rest
  if s.stackClosed k q.addr || s.dieDown d then
    match q.wr with
    | some _ => s.aeWritten q.pos q.cmd q.part sFENCED
    | none => s.aeData q.pos q.cmd q.part x sFENCED [] none false
  else
    let s := if hit then s.bump (R.HBM_CNT_ROW_HIT k) 1 else (s.bump (R.HBM_CNT_ROW_ACT k) 1).energy d 11 1
    let row := rowOf (s.phys k q.addr)
    let keep := rest.any fun r => rowOf (s.phys k r.addr) == row
    let fin := x + s.pcCycles d q.len
    let v := s.stk k
    let s := s.setStk k { v with
      openRow := v.openRow.set (fun _ => 0) key (if keep then row + 1 else 0)
      busyTo := v.busyTo.set (fun _ => 0) pc fin }
    let s := if q.deadline < fin then s.bump (R.HBM_CNT_DEADLINE_MISS k) 1 else s
    let s := if !q.queued && others.any (fun r => r.2.queued) then s.bump (R.HBM_CNT_AGED k) 1 else s
    let s := s.countTransfer k q.addr q.len q.wr.isSome
    match q.wr with
    | some bs => (s.eccWrite k q.addr bs).aeWritten q.pos q.cmd q.part sOK
    | none =>
      let r := s.eccRead k q.addr q.len
      let s := r.2
      let zero := s.zmapBit k (q.addr / 8192) && decide (q.len = 8192)
      let s := s.aeData q.pos q.cmd q.part fin sOK r.1 (some (s.versionAt d (s.dieLocal k q.addr))) zero
      match s.aeCmd q.pos q.cmd with
      | some c => if c.kind = .gather then s.aeAskRows q.pos fin q.cmd else s
      | none => s

def execPcServe (k : Stk) (pc : Fin 64) (x : Nat) (s : State) : Res :=
  match s.pcPick k pc with
  | none => .refused (.notEnabled "the pseudo-channel has no request to serve")
  | some q => State.when (decide ((s.stk k).busyTo.get (fun _ => 0) pc ≤ x)) "the pseudo-channel is busy"
      ((s.doPcServe k pc x q).clock (k / 4) x)

/-- BANKQ_RETRY (R115): a request a full bank queue refused is offered again after 16 cycles. -/
def State.doBankqRetry (s : State) (p x : Nat) (e : Nat × Nat × Nat) : State :=
  let a := s.ae p
  let s := s.setAe p { a with retries := a.retries.erase e }
  match s.aeCmd p e.1 with
  | none => s
  | some c => match c.req e.2.1 with
    | none => s
    | some r => s.bankOffer p x c r (if c.kind.isPut then some (slice c.data r.off r.len) else none)

def execBankqRetry (p : Pos) (x : Nat) (id : Nat) (s : State) : Res :=
  match (s.ae p).retries.find? fun e => e.1 == id && decide (e.2.2 ≤ x) with
  | none => .refused (.notEnabled "the command has no request to retry in this cycle")
  | some e => .next ((s.doBankqRetry p x e).clock (dieOf p) x)

/-! ### Landing (R116, R122, R125, R126, R129) -/

/-- A tile's slot in its queue lands, with the zero-map bit it carried. -/
def State.landSlot (s : State) (p x : Nat) (c : AeCmd) : State :=
  match c.q with
  | none => s
  | some q =>
    let t := s.tq p q
    if t.gen ≠ c.qgen then s
    else
      let t := t.land c.ring x
      s.setTq p q (match c.zpos with
        | some n => { t with seen := t.seen.set (fun _ => false) n c.zero }
        | none => t)

/-- What a landing counts (AE counters). -/
def State.countLand (s : State) (p : Nat) (c : AeCmd) : State :=
  match c.kind with
  | .fetch => s.bump (R.AE_CNT_FETCH_TILES p) 1
  | .gather => s.bump (R.AE_CNT_GATHER_ROWS p) c.last
  | .relay => s.bump (R.AE_CNT_RELAY_TILES p) 1
  | _ => s

/-- TILE_LAND: the command's data is in place and it completes locally. A failed one lands nothing. -/
def State.doTileLand (s : State) (p x : Nat) (c : AeCmd) : State :=
  if c.status ≠ 0 then s.aeLandEnd p x c
  else match c.found with
    | some (v, a) =>
      let inj := s.f (R.INJ_P_CTL 0x30) F.INJ_P_CTL_FIRED == 1 && v == c.version + 1
      (s.versionSkew p c v a inj).aeLandEnd p x { c with status := sDENIED }
    | none =>
      let img := if c.data.isEmpty then c.image else c.data
      let tile := img ++ List.replicate (c.len - img.length) 0
      let w : Bool × State := if c.cache && !c.noInsert then s.cacheInsert p x c tile else (true, s)
      if !w.1 then w.2.aeLandEnd p x { c with status := sTCFULL }
      else
        let s := if c.cache then (w.2.spadWrite p c.loc (tile.take c.len)).noteWrite p c.loc c.len uAE x else w.2
        let s := (s.landSlot p x c).countLand p c
        let s : State := match c.kind with
          | .relay => if p < c.last then
              let a := s.ae p
              s.setAe p { a with hop := a.hop ++ [⟨x, c.q.getD 0, c.last, tile⟩] } else s
          | _ => s
        s.aeLandEnd p x c

/-- RELAY_HOP (R122, R123): a copy over the chain link lands in the next core's queue, 64 cycles a hop; a fenced core
forwards it without landing it (R155). -/
def State.doRelayHop (s : State) (p x : Nat) (r : RelayTile) (n : Nat) : State :=
  let a := s.ae p
  let s := s.setAe p { a with hop := (a.hop.drop 1).map fun h => { h with landed := max h.landed x } }
  let t := s.tq n r.q
  match t.reserve with
  | none => s
  | some (i, t') =>
    let off := t.slotBase i
    let s := (s.setTq n r.q (t'.land i x)).spadWrite n off r.data
    let s := (s.noteWrite n off r.data.length uAE x).energy (dieOf p) 8 (bankWords (rangeBanks off r.data.length))
    let s := (s.bump (R.AE_CNT_RELAY_TILES n) 1).energy (dieOf p) 12 (n - p)
    let b := s.ae n
    if n < r.last then s.setAe n { b with hop := b.hop ++ [{ r with landed := x }] } else s

def execRelayHop (p : Pos) (x : Nat) (s : State) : Res :=
  match (s.ae p).hop, s.nextCore p with
  | r :: _, some n => State.when (s.relayFree p r && decide (r.landed + 64 * (n - p.val) ≤ x)) "no relayed tile can land in this cycle"
      ((s.doRelayHop p x r n).clock (dieOf p) x)
  | _, _ => .refused (.notEnabled "no relayed tile waits at this core")

/-- ZERO_PROBE_RESULT (R126, R127): a confirmed zero tile, or a miss, whose fetch competes again with the deadline it
took. -/
def State.doProbe (s : State) (p x : Nat) (c : AeCmd) : State :=
  let b := s.bankOfFar c.far
  if s.zmapBit b.1 (b.2.1 / 8192) then
    let s := (s.bump (R.HBM_CNT_PROBE_ZERO b.1) 1).bump (R.AE_CNT_ZP_HIT p) 1
    let a := s.ae p
    let lines := (List.range 64).map (c.loc / 128 + ·)
    let s := s.setAe p { a with zconf := a.zconf.filter (fun l => !lines.contains l) ++ lines }
    s.setCmd p { c with phase := .moved, zprobe := false, zero := true, rdy := x }
  else
    let s := s.bump (R.AE_CNT_ZP_MISS p) 1
    let s : State := match c.q with
      | some q => let t := s.tq p q; s.setTq p q { t with lateSlots := t.lateSlots ||| 2 ^ c.ring }
      | none => s
    s.setCmd p { c with phase := .wait, slot := false, zprobe := false }

def execZeroProbeResult (p : Pos) (x : Nat) (id : Nat) (s : State) : Res :=
  match s.aeCmd p id with
  | none => .refused (.notEnabled "no such command")
  | some c => State.when (c.zprobe && c.phase == .move) "the command has no probe outstanding"
      ((s.doProbe p x c).clock (dieOf p) x)

/-! ### Chains (R124) -/

/-- Rows of a core's chains that wait for the access engine: those not yet packed, and those of tiles with no slot. -/
def State.chainRows (s : State) (p : Nat) : Nat :=
  ((List.range 3).map fun e => match (s.eng (engId p e)).chain with | some c => c.out.length | none => 0).sum +
    64 * ((s.ae p).cmds.filter fun c => c.kind == .chainPut && !c.slot).length

/-- The bytes of a tile of rows in a format, square 0 first, and its side-band. -/
def packTile (f : Fmt) (rows : List (List W32)) : List Byte × List Byte :=
  let enc (vs : List W32) : List Nat × List Nat :=
    if f.isMx then
      let v := vs.map dec32
      let a := encMxBlock f (fun _ => .nearest) (v.take 32)
      let b := encMxBlock f (fun _ => .nearest) (v.drop 32)
      (a.2 ++ b.2, [a.1, b.1])
    else (vs.map fun w => encElem f .nearest (dec32 w), [])
  let rs := rows.mapIdx fun r vs => (r, enc vs)
  let m : NMap Byte := rs.foldl (fun m q => (rowBytes f 0 0 q.1 q.2.1).foldl (fun m b => NMap.set zeroByte m b.1 b.2) m) []
  let sc : NMap Byte := rs.foldl (fun m q => (q.2.2.mapIdx fun h v => (2 * q.1 + h, BitVec.ofNat 8 v)).foldl
    (fun m b => NMap.set zeroByte m b.1 b.2) m) []
  (NMap.dense zeroByte m 0 (runBytes f), if f.isMx then NMap.dense zeroByte sc 0 (if f = .mxfp4 then 512 else 256) else [])

/-- A chain's tile is packed and enters the list as its put, two tiles for FP32. A short chain neither counts nor signals
(log 19). -/
def State.chainPut (s : State) (p x : Nat) (c : ChainRun) (tag : HeatTag) : State :=
  let t := packTile c.ofmt c.out
  let f := s.farOf p c.put.b
  let tiles : List (Nat × List Byte) :=
    if c.ofmt = .fp32 then [(0, t.1.take 8192), (8192, t.1.drop 8192)] else [(0, t.1)]
  let sb := match c.ofmt.isMx, s.sideBand p c.put.c with
    | true, some b => some b
    | _, _ => none
  tiles.foldl (fun (s : State) q =>
    if s.listFull p then s.aeDiscard p x
    else
      let n := min f.len 8192
      let cmd := { AeCmd.new .chainPut x tag with
        flag := c.put.flag, cnt := c.put.cnt, ctx := some c.ctx, exp := c.exp
        far := BitVec.ofNat 64 (f.addr + q.1), len := n, sb := sb
        data := q.2.take n ++ (match sb with | some b => t.2.take b.2 | none => []), suppress := c.short }
      (s.aeAdd p cmd).2) s

/-- CHAIN_ROW (R124): row r of the product's set is read in cycle s + P r; eight rows make a register for the epilogue,
and the rows it gives join the queue to the access engine, where there is room. -/
def State.doChainRow (s : State) (p e x : Nat) (c : ChainRun) (set1 : Bool) : State :=
  let i := engId p e
  let tag := s.heatTag p x
  let rd := s.readRow p e x set1 c.row (x + c.period * (63 - c.row)) none tag
  let s := rd.2.energy (dieOf p) 5 1
  let s := s.bump (R.ENG_CNT_DRAIN_ROWS p e) 1
  let lanes := rd.1.map fun w => rne32 (drainVal ((s.eng i).intMode set1) w)
  let c := { c with row := c.row + 1, rows := c.rows ++ [lanes] }
  let out : ChainRun × State :=
    if c.rows.length < 8 then (c, s)
    else
      let v := s.cvu p
      let r := v.epilogue c.epilogue (c.rows.flatten)
      let s := s.setCvu p r.2
      let s := c.epilogue.foldl (fun (s : State) o => s.energy (dieOf p) (if o.cost = 4 then 7 else 6) o.cost) s
      let room := 128 - s.chainRows p
      let new := (List.range 8).map fun j => slice r.1 (64 * j) 64
      let lost := decide (room < 8)
      let s := if lost then s.setF (R.AE_EVENT p) F.AE_EVENT_CHAIN_OVERRUN 1 else s
      ({ c with rows := [], out := c.out ++ (new.mapIdx fun j r => if j < room then r else List.replicate 64 0)
                short := c.short || lost }, s)
  let c := out.1
  let s := out.2
  let g := s.eng i
  if 64 ≤ c.row then (s.setEng i { g with chain := none }).chainPut p x c tag
  else s.setEng i { g with chain := some c }

def execChainRow (p : Pos) (e : Eng) (x : Nat) (s : State) : Res :=
  match (s.eng (engId p e)).chain with
  | none => .refused (.notEnabled "no chain is in progress")
  | some c => match c.drain with
    | none => .refused (.notEnabled "the chain's product has not issued")
    | some (set1, t) => State.when (x == t + c.period * c.row) "the chain reads no row in this cycle"
        ((s.doChainRow p e x c set1).clock (dieOf p) x)

/-! ### Collectives issue (R241, R242) -/

/-- A collective command enters the list, and leaves it in the next cycle unless a fence or full queues hold it. -/
def State.doColl (s : State) (p x op : Nat) (o : AeSlot) : State :=
  if s.listFull p then (s.mergeStop p).aeDiscard p x
  else
    let far := match o.a with | .desc _ => BitVec.ofNat 64 (s.farOf p o.a).addr | _ => 0
    let c := { s.aeNew p x (.coll op) o with far := far, len := 64 }
    ((s.mergeStop p).aeAdd p c).2.runUnheld p (x + 1)

def State.collRes (s : State) (p : Pos) (x op : Nat) (o : AeSlot) : Res :=
  State.whenWf (o.collWf (op == 0x4D) && s.aeOk p o) true "" ((s.doColl p x op o).clock (dieOf p) x)

def execCollAllreduce (p : Pos) (x : Nat) (o : AeSlot) (s : State) : Res := s.collRes p x 0x48 o
def execCollRscatter (p : Pos) (x : Nat) (o : AeSlot) (s : State) : Res := s.collRes p x 0x49 o
def execCollAllgather (p : Pos) (x : Nat) (o : AeSlot) (s : State) : Res := s.collRes p x 0x4A o
def execCollBcast (p : Pos) (x : Nat) (o : AeSlot) (s : State) : Res := s.collRes p x 0x4B o
def execCollPermute (p : Pos) (x : Nat) (o : AeSlot) (s : State) : Res := s.collRes p x 0x4C o
def execCollEpoch (p : Pos) (x : Nat) (o : AeSlot) (s : State) : Res := s.collRes p x 0x4D o

end Sys2Proof.Machine
end

