-- ==== Sys2Proof/Machine/Coll.lean ====
section
/-! DEFINITION. Collectives and re-shard fences (R237 to R251): descriptors, rings, broadcasts, permutes, the packets they
exchange, and how they end. -/

namespace Sys2Proof.Machine

open Sys2Proof

/-! ### This node's memory by Kensil space and offset -/

def State.memRead (s : State) (space off n : Nat) : List Byte × State :=
  match targetOf space off n with
  | .hbm d l => s.hbmRead d l n
  | .spad p o => (s.spadBytes p o n, s)
  | _ => (List.replicate n 0, s)

def State.memWrite (s : State) (space off : Nat) (bs : List Byte) : State :=
  match targetOf space off bs.length with
  | .hbm d l => s.hbmWrite d l bs
  | .spad p o => s.spadWrite p o bs
  | _ => s

/-! ### Elements (R244, R245) -/

/-- Bytes of an element type; 0 for a reserved one. -/
def etyBytes (t : Nat) : Nat :=
  match t with
  | 0x00 => 4
  | 0x01 => 2
  | 0x02 => 2
  | 0x10 => 1
  | 0x11 => 8
  | 0x12 => 8
  | 0x13 => 8
  | _ => 0

def etyFmt (t : Nat) : Fmt := match t with | 0 => .fp32 | 1 => .bf16 | _ => .fp16

/-- Does a type allow a reduction (R244)? -/
def redOk (t red : Nat) : Bool :=
  red == 0 || (match t with
    | 0 | 1 | 2 | 0x11 => red == 1
    | 0x12 => red == 2 || red == 3
    | 0x13 => red == 4 || red == 5
    | _ => false)

/-- Bytes of a carried partial (R245). -/
def wireBytes (t wire : Nat) : Nat := match wire with | 1 => 4 | 2 => 8 | _ => etyBytes t

/-- A contribution as it enters: x exactly, or s = x and e = +0. -/
def collEnter (t wire b : Nat) : Word :=
  match wire with
  | 1 => (rne32 (elemVal (etyFmt t) b)).setWidth 64
  | 2 => cellWord (rne32 (elemVal (etyFmt t) b)) 0
  | _ => BitVec.ofNat 64 b

/-- The value a carried word stands for. -/
def collVal (t wire : Nat) (w : Word) : Val :=
  match wire with
  | 1 => dec32 (w.setWidth 32)
  | 2 => cellVal (cellS w) (cellE w)
  | _ => elemVal (etyFmt t) w.toNat

/-- A value-index pair (R86). -/
def pairOf (w : Word) : W32 × Nat := (w.setWidth 32, w.toNat / 2 ^ 32)
def pairWord (p : W32 × Nat) : Word := BitVec.ofNat 64 (p.1.toNat + p.2 % 2 ^ 32 * 2 ^ 32)

/-- An incoming partial combines with the local one (R245). -/
def collCombine (t red wire : Nat) (p x : Word) : Word :=
  match red with
  | 1 =>
    if t = 0x11 then p + x
    else match wire with
      | 2 => let o := cellAdd (cellS p) (cellE p) (collVal t 2 x); cellWord o.s o.e
      | 1 => BitVec.ofNat 64 (encElem .fp32 .nearest ((collVal t 1 p).add (collVal t 1 x)))
      | _ => BitVec.ofNat 64 (encElem (etyFmt t) .nearest ((collVal t 0 p).add (collVal t 0 x)))
  | 2 => if p.toNat < x.toNat then x else p
  | 3 => if x.toNat < p.toNat then x else p
  | 4 => pairWord (combine false (pairOf p) (pairOf x))
  | 5 => pairWord (combine true (pairOf p) (pairOf x))
  | _ => p

/-- A carried element as it is written to DST (R245). -/
def collFinal (t wire : Nat) (w : Word) : Word :=
  match wire with
  | 1 | 2 => BitVec.ofNat 64 (encElem (etyFmt t) .nearest (collVal t wire w))
  | _ => w

/-- Words of `n` bytes each, and back. -/
def chunkWords (n : Nat) (bs : List Byte) : List Word :=
  (List.range (bs.length / max 1 n)).map fun i => BitVec.ofNat 64 (leNat (slice bs (n * i) n))
def wordBytes (n : Nat) (ws : List Word) : List Byte := ws.flatMap fun w => leBytes n w.toNat

/-! ### The ring (R245 to R247) -/

def State.collSet (s : State) (r : CollRun) : MemberSet := s.mset (s.ctx r.cmd.ctx).mset
def State.collRank (s : State) (r : CollRun) : Nat := (s.rankIn (s.collSet r) s.node).getD 0

/-- The phases: dimension, and whether it gathers. A reduce-scatter goes from the highest dimension down, an all-gather
from the lowest up. -/
def collPhases (m : MemberSet) (op : Nat) : List (Nat × Bool) :=
  let up := (List.range 4).filter fun i => decide (1 < m.e i)
  let rs := up.reverse.map fun i => (i, false)
  let ag := up.map fun i => (i, true)
  match op with
  | 0x48 => rs ++ ag
  | 0x49 => rs
  | 0x4A => ag
  | _ => []

def State.phasesOf (s : State) (r : CollRun) : List (Nat × Bool) := collPhases (s.collSet r) r.cmd.op

/-- Elements of one member's segment, and of the whole range the segments cut up. -/
def collSeg (m : MemberSet) (op count : Nat) : Nat := if op = 0x4A then count else ceilDiv count m.members
def collTotal (m : MemberSet) (op count : Nat) : Nat := if op = 0x4A then m.members * count else count

/-- The half of rank q's segment that goes in a direction (0 plus): its first element and how many. -/
def halfOf (m : MemberSet) (op count q dir : Nat) : Nat × Nat :=
  let sz := collSeg m op count
  let a := q * sz
  let b := min (a + sz) (collTotal m op count)
  let h := (b - a + 1) / 2
  if dir = 0 then (a, h) else (a + h, b - a - h)

/-- The ranks whose segments a phase over dimension i concerns at rank r: those that agree with it above i. -/
def phaseRanks (m : MemberSet) (r i : Nat) : List Nat :=
  (List.range m.members).filter fun q => (List.range 4).all fun k => decide (k ≤ i) || m.idx q k == m.idx r k

/-- The rank beside r in dimension i: dir 0 is plus. -/
def ringNext (m : MemberSet) (r i dir : Nat) : Nat :=
  let j := m.idx r i
  let e := m.e i
  let j' := if dir = 0 then (j + 1) % e else (j + e - 1) % e
  let x (k : Nat) : Nat := if k = i then j' else m.idx r k
  m.rankOf (x 0) (x 1) (x 2) (x 3)

/-- The group whose partials start at rank r in a direction (R245), by its index in dimension i. -/
def ringStart (m : MemberSet) (r i dir : Nat) (gather : Bool) : Nat :=
  let j := m.idx r i
  let e := m.e i
  if gather then j else if dir = 0 then (j + e - 1) % e else (j + 1) % e

/-- Elements a phase brings to rank r. -/
def phaseExpect (m : MemberSet) (op count r i : Nat) (gather : Bool) : Nat :=
  ([0, 1].map fun dir => ((phaseRanks m r i).map fun q =>
    let skip := if gather then m.idx q i == m.idx r i else m.idx q i == ringStart m r i dir false
    if skip then 0 else (halfOf m op count q dir).2).sum).sum

/-- An element the member holds now: carried, or its own contribution read from SRC. -/
def State.collHeld (s : State) (r : CollRun) (n : Nat) : Word :=
  match r.work.look n with
  | some w => w
  | none =>
    let w := etyBytes r.ety
    let off := kOff r.src + (if r.cmd.op = 0x4A then n - s.collRank r * r.count else n) * w
    let b := leNat (s.memRead (kSpace r.src) off w).1
    collEnter r.ety (if r.red = 0 then 0 else r.wire) b

/-- Bytes of a carried element in a phase. -/
def CollRun.width (r : CollRun) (gather : Bool) : Nat :=
  if gather || r.red == 0 then etyBytes r.ety else wireBytes r.ety r.wire

/-- Cut a range of elements into packets of at most 8 KiB. -/
def elemChunks (per : Nat) : (fuel a n : Nat) → List (Nat × Nat)
  | 0, _, _ => []
  | k + 1, a, n => if n = 0 then [] else (a, min per n) :: elemChunks per k (a + min per n) (n - min per n)

/-- What a member sends as a phase begins. -/
def State.phaseSends (s : State) (r : CollRun) (i : Nat) (gather : Bool) : List CollSend :=
  let m := s.collSet r
  let rank := s.collRank r
  let w := r.width gather
  [0, 1].flatMap fun dir =>
    ((phaseRanks m rank i).filter fun q => m.idx q i == ringStart m rank i dir gather).flatMap fun q =>
      let h := halfOf m r.cmd.op r.count q dir
      (elemChunks (8192 / max 1 w) (h.2 + 1) h.1 h.2).map fun c =>
        ⟨i, dir, ringNext m rank i dir, c.1, wordBytes w ((List.range c.2).map fun k => s.collHeld r (c.1 + k)), none⟩

/-! ### Runs -/

def State.collRun (s : State) (ctx : Nat) : Option CollRun := s.colls.runs.find? fun r => r.cmd.ctx == ctx

def State.setRun (s : State) (r : CollRun) : State :=
  { s with colls := { s.colls with runs := s.colls.runs.map fun q => if q.cmd.ctx = r.cmd.ctx then r else q } }

def State.dropRun (s : State) (ctx : Nat) : State :=
  { s with colls := { s.colls with runs := s.colls.runs.filter fun q => q.cmd.ctx != ctx } }

/-- READYs and permute bytes of an instance that has ended are forgotten. -/
def State.collForget (s : State) (ctx inst : Nat) : State :=
  { s with colls := { s.colls with
    ready := s.colls.ready.filter fun e => !(e.1 == ctx && e.2.1 == inst)
    moved := s.colls.moved.del (65536 * ctx + inst) } }

/-- A collective ends without success: 1 MEMBER_LOST, 2 MISMATCH, 3 CANCELLED, 4 SHAPE, 0 another final status
(R243, R249). -/
def State.collFail (s : State) (ctx inst code : Nat) (inj : Bool) : State :=
  let s := (s.dropRun ctx).collForget ctx inst
  let s := s.bump R.COL_CNT_FAILED 1
  let s := match code with
    | 1 => s.setF R.COL_EVENT F.COL_EVENT_MEMBER_LOST 1
    | 2 => s.setF R.COL_EVENT F.COL_EVENT_MISMATCH 1
    | 3 => s.setF R.COL_EVENT F.COL_EVENT_CANCELLED 1
    | 4 => s.setF R.COL_EVENT F.COL_EVENT_SHAPE 1
    | _ => s
  if code = 4 then s
  else
    let o := occ 0x33 kCtx ctx inst code
    s.record (if inj then s.injected o else o)

/-- A collective completes locally with success (R248). -/
def State.collSucceed (s : State) (r : CollRun) : State :=
  let s := (s.dropRun r.cmd.ctx).collForget r.cmd.ctx r.cmd.inst
  let s := s.bump R.COL_CNT_DONE 1
  let s := if r.cmd.cnt then s.countCtx r.cmd.ctx else s
  match r.cmd.flag with
  | some n => s.landSet r.cmd.pos n (s.die (dieOf r.cmd.pos)).now 0
  | none => s

/-- Every collective and fence of a context is cancelled (R249). -/
def State.collCancel (s : State) (ctx : Nat) : State :=
  let queued := s.colls.queue.filter fun c => c.ctx == ctx
  let s := { s with colls := { s.colls with queue := s.colls.queue.filter fun c => c.ctx != ctx } }
  let s := queued.foldl (fun (s : State) c => s.collFail ctx c.inst 3 false) s
  match s.collRun ctx with
  | some r => s.collFail ctx r.cmd.inst 3 false
  | none => s

/-- Send one packet of a collective to a node, or down the tree. The answer is a status where it is final at once. -/
def State.collPacket (s : State) (r : CollRun) (dir node op len opnd0 opnd1 : Nat) (mc : Option Nat) (bs : List Byte) :
    Option Nat × State :=
  let ctx := r.cmd.ctx
  let dst := match mc with | some t => mcDst t | none => node
  let q := s.reserveSeq ctx dst (.coll ctx r.cmd.inst dir)
  let s := q.2
  let k : Packet := { Packet.blank with
    dst := if mc.isSome then s.node else node, ctx := ctx, seq := q.1, epoch := (s.ctx ctx).epoch, cls := 1, op := op, len := len
    mcast := mc.isSome, tree := mc.getD 0, opnd0 := BitVec.ofNat 64 opnd0, opnd1 := BitVec.ofNat 64 opnd1, payload := bs }
  let s := s.bump R.COL_CNT_BYTES_TX bs.length
  let l := s.launch dst k (.coll ctx r.cmd.inst dir)
  match l.1 with
  | none => (none, l.2)
  | some st => (some st, l.2.dropTxPkt ctx dst q.1)

/-- Packets of a run without a final answer, in one direction. -/
def State.collOut (s : State) (ctx inst dir : Nat) : Nat :=
  (s.fab.tx.map fun t => (t.pkts.filter fun e => e.owner == .coll ctx inst dir).length).sum

/-- Does the member hold a node's READY for an instance? -/
def State.collReadyFrom (s : State) (ctx inst node : Nat) : Bool :=
  s.colls.ready.any fun e => e.1 == ctx && e.2.1 == inst && e.2.2.1 == node

/-- What a final status other than OK and DUP makes of a collective (R249). -/
def collFailCode (st : Nat) : Nat := if st = sFENCED ∨ st = sNOROUTE ∨ st = sTIMEOUT then 1 else 0

/-- One send of a run leaves, if it may now; the answer says whether it did. -/
def State.collSend1 (s : State) (ctx : Nat) (e : CollSend) : Bool × State :=
  match s.collRun ctx with
  | none => (false, s)
  | some r =>
    let m := s.collSet r
    let node := s.memberNode m e.dst
    let inst := r.cmd.inst
    let win := s.f R.COL_CTL F.COL_CTL_WINDOW
    let op := r.cmd.op
    let room := decide (s.collOut ctx inst e.dir < win) && s.txRoom ctx (if op = 0x4B then mcDst (s.ctx ctx).mset else node)
    let ready := match op with
      | 0x4B => (List.range m.members).all fun q => q == r.root || s.collReadyFrom ctx inst (s.memberNode m q)
      | 0x4C => true
      | _ => s.collReadyFrom ctx inst node
    if !room || !ready then (false, s)
    else
      let s := { s with colls := { s.colls with
        runs := s.colls.runs.map fun (q : CollRun) => if q.cmd.ctx = ctx then { q with sends := q.sends.erase e, pk := q.pk + 1 } else q } }
      let l : Option Nat × State := match e.addr with
        | some a =>
          let q := s.reserveSeq ctx node (.coll ctx inst e.dir)
          let k : Packet := { putPacket a ctx q.1 (s.ctx ctx).epoch false none 0 e.bytes with
            dst := node, opnd0 := BitVec.ofNat 64 (inst + 65536) }
          let s := q.2.bump R.COL_CNT_BYTES_TX e.bytes.length
          let l := s.launch node k (.coll ctx inst e.dir)
          (match l.1 with
            | none => (none, l.2)
            | some st => (some st, l.2.dropTxPkt ctx node q.1))
        | none =>
          let idx := r.phase * 2 ^ 24 + r.pk % 2 ^ 24
          s.collPacket r e.dir node 0x08 (e.bytes.length - 1) (inst + e.dim % 4 * 2 ^ 16 + e.dir % 2 * 2 ^ 18 + idx * 2 ^ 32) e.off
            (if op = 0x4B then some (s.ctx ctx).mset else none) e.bytes
      match l.1 with
      | none => (true, l.2)
      | some st => (true, l.2.collFail ctx inst (collFailCode st) false)

/-- Every send of a run that may leave does so, in order within each direction (R247). -/
def State.collFlush (s : State) (ctx : Nat) : State :=
  match s.collRun ctx with
  | none => s
  | some r =>
    (r.sends.foldl (fun (acc : State × List Nat) e =>
      if acc.2.contains e.dir then acc
      else
        let t := acc.1.collSend1 ctx e
        (t.2, if t.1 then acc.2 else e.dir :: acc.2)) (s, [])).1

/-- The offset in DST at which an element of the ring's range is written. -/
def State.collDst (s : State) (r : CollRun) (n : Nat) : Nat :=
  let i := if r.cmd.op = 0x49 then n - s.collRank r * collSeg (s.collSet r) r.cmd.op r.count else n
  kOff r.dst + i * etyBytes r.ety

/-- Write elements to DST as they are. -/
def State.collWrite (s : State) (r : CollRun) (n : Nat) (ws : List Word) : State :=
  s.memWrite (kSpace r.dst) (s.collDst r n) (wordBytes (etyBytes r.ety) ws)

/-- The member's own segment. -/
def State.ownSeg (s : State) (r : CollRun) : Nat × Nat :=
  let m := s.collSet r
  let sz := collSeg m r.cmd.op r.count
  let a := s.collRank r * sz
  (a, min (a + sz) (collTotal m r.cmd.op r.count) - a)

/-- A phase begins, or the reduction is over: its result is rounded into ETYPE and written. -/
def State.phaseBegin (s : State) (ctx : Nat) : State :=
  match s.collRun ctx with
  | none => s
  | some r =>
    let ph := s.phasesOf r
    let prevRs := match ph[r.phase - 1]? with | some q => decide (0 < r.phase) && !q.2 | none => false
    let nowRs := match ph[r.phase]? with | some q => !q.2 | none => false
    let single := ph.isEmpty && (r.cmd.op == 0x48 || r.cmd.op == 0x49)
    let r : CollRun × State :=
      if (prevRs && !nowRs) || single then
        let g := s.ownSeg r
        let ws := (List.range g.2).map fun k => collFinal r.ety (if r.red = 0 then 0 else r.wire) (s.collHeld r (g.1 + k))
        let s := s.collWrite r g.1 ws
        ({ r with work := (List.range g.2).zip ws |>.map fun e => (g.1 + e.1, e.2) }, s)
      else if r.cmd.op = 0x4A ∧ r.phase = 0 then
        let g := s.ownSeg r
        let ws := (List.range g.2).map fun k => s.collHeld r (g.1 + k)
        ({ r with work := (List.range g.2).zip ws |>.map fun e => (g.1 + e.1, e.2) }, s.collWrite r g.1 ws)
      else (r, s)
    let s := r.2
    let r := r.1
    match ph[r.phase]? with
    | none => s.setRun { r with sends := [] }
    | some (i, gather) => (s.setRun { r with sends := s.phaseSends r i gather, got := 0 }).collFlush ctx

/-- Elements of one packet are received in their phase: combined or stored, and passed on where others wait for them. -/
def State.phaseTake (s : State) (r : CollRun) (i dir : Nat) (gather : Bool) (off : Nat) (bs : List Byte) : CollRun × State :=
  let m := s.collSet r
  let rank := s.collRank r
  let w := r.width gather
  let ws := chunkWords w bs
  let q := off / max 1 (collSeg m r.cmd.op r.count)
  let g := m.idx q i
  let next := ringNext m rank i dir
  let out := if gather then ws else ws.mapIdx fun k v => collCombine r.ety r.red r.wire v (s.collHeld r (off + k))
  let s := if gather then s else s.bump R.COL_CNT_COMBINED ws.length
  let stays := if gather then true else g == m.idx rank i
  let passes := if gather then m.idx next i != g else !stays
  let work := if stays then (out.mapIdx fun k v => (off + k, v)).foldl (fun t e => NMap.ins t e.1 e.2) r.work else r.work
  let sends := if passes then r.sends ++ [⟨i, dir, next, off, wordBytes w out, none⟩] else r.sends
  let r := { r with work := work, sends := sends, got := r.got + ws.length }
  (r, if gather then s.collWrite r off out else s)

/-- Take one packet of a run, and go on to the next phase when this one has brought everything. -/
def State.collTake (s : State) (ctx : Nat) (k : Packet) : State :=
  match s.collRun ctx with
  | none => s
  | some r =>
    let o := k.opnd0.toNat
    let dir := bitsOf o 18 1
    let phase := bitsOf o 56 8
    if r.cmd.op = 0x4B then
      let s := s.setRun { r with got := r.got + k.payload.length / max 1 (etyBytes r.ety) }
      s.memWrite (kSpace r.dst) (kOff r.dst + k.opnd1.toNat * etyBytes r.ety) k.payload
    else if phase ≠ r.phase then s.setRun { r with early := r.early ++ [k] }
    else match (s.phasesOf r)[phase]? with
      | none => s
      | some (i, gather) =>
        let t := s.phaseTake r i dir gather k.opnd1.toNat k.payload
        (t.2.setRun t.1).collFlush ctx

/-- Has the present phase of a run brought all it brings, and left? -/
def State.phaseOver (s : State) (r : CollRun) : Bool :=
  match (s.phasesOf r)[r.phase]? with
  | none => false
  | some (i, gather) =>
    r.sends.isEmpty && decide (phaseExpect (s.collSet r) r.cmd.op r.count (s.collRank r) i gather ≤ r.got)

/-- Phases that are over give way to the next, whose early packets are then taken. -/
def State.collAdvance (s : State) (ctx : Nat) : (fuel : Nat) → State
  | 0 => s
  | n + 1 =>
    match s.collRun ctx with
    | none => s
    | some r =>
      if s.phaseOver r then
        let s := (s.setRun { r with phase := r.phase + 1, early := [] }).phaseBegin ctx
        let s := r.early.foldl (fun (s : State) k => s.collTake ctx k) s
        s.collAdvance ctx n
      else s

/-! ### Start (R241 to R243, R247) -/

/-- The fields of a descriptor. -/
def collRunOf (c : CollCmd) (bs : List Byte) (s : State) : CollRun :=
  { cmd := c, red := fieldAt bs 0 1, ety := fieldAt bs 1 1, wire := fieldAt bs 2 1, root := fieldAt bs 4 4
    count := fieldAt bs 8 8, src := fieldAt bs 0x10 8, dst := fieldAt bs 0x18 8, expect := fieldAt bs 0x30 8, phase := 0, got := 0
    work := [], sends := [], early := [], pk := 0, drained := false, marks := [], watch := s.time
    limit := if (s.ctx c.ctx).slow then s.wdDefault * s.f R.PWR_POLICY F.PWR_POLICY_SLOW_FACTOR else s.wdDefault
    ext := (s.ctx c.ctx).slow }

/-- Does a range lie in memory of the tenancy that holds the context? -/
def State.collRange (s : State) (ten a n : Nat) : Bool :=
  match targetOf (kSpace a) (kOff a) n with
  | .hbm d _ => s.tenOfDie d == some ten
  | .spad p _ => s.tenOfDie (p / 32) == some ten
  | _ => false

/-- The rules R243 and R244 hold a descriptor to. -/
def State.collShape (s : State) (r : CollRun) (bs : List Byte) : Bool :=
  let x := r.cmd.ctx
  let m := s.collSet r
  let t := (s.ctx x).ten
  let w := etyBytes r.ety
  let op := r.cmd.op
  let n := m.members
  let float := decide (r.ety < 3)
  let reduces := op == 0x48 || op == 0x49
  let zeros := fieldAt bs 3 1 == 0 && fieldAt bs 0x2C 4 == 0 && fieldAt bs 0x38 8 == 0 && (op == 0x4B || r.root == 0)
  (s.ctx x).alloc && w != 0 && decide (1 ≤ r.count) && decide (r.count ≤ 2 ^ 40) && zeros &&
    (if reduces then r.red != 0 && redOk r.ety r.red else r.red == 0) &&
    (if float && r.red == 1 then decide (r.wire ≤ 2) else r.wire == 0) &&
    (op != 0x49 || r.count % n == 0) && (op != 0x4B || (decide (r.root < n) && m.tree)) &&
    (op == 0x4C || (s.collRange t r.src (r.count * w) &&
      s.collRange t r.dst (w * (match op with | 0x49 => r.count / n | 0x4A => r.count * n | _ => r.count))))

/-- An entry of a permute's table (R245): FROM, TO, RANK and LEN. -/
def tableEntry (bs : List Byte) : Nat × Nat × Nat × Nat := (fieldAt bs 0 8, fieldAt bs 8 8, fieldAt bs 0x10 4, fieldAt bs 0x14 4)

/-- The members a run receives COLL_DATA from (R247). -/
def State.collFrom (s : State) (r : CollRun) : List Nat :=
  let m := s.collSet r
  let me := s.collRank r
  match r.cmd.op with
  | 0x4B => if me = r.root then [] else [r.root]
  | 0x4C => []
  | 0x4D => []
  | op => (((collPhases m op).flatMap fun q => [ringNext m me q.1 1, ringNext m me q.1 0]).dedup)

/-- The pieces of a permute, cut into packets of at most 8 KiB. -/
def permuteSends (src : Nat → Nat → List Byte) (e : Nat × Nat × Nat × Nat) : List CollSend :=
  (elemChunks 8192 (e.2.2.2 / 8192 + 2) 0 e.2.2.2).map fun c =>
    ⟨0, 2, e.2.2.1, c.1, src (kOff e.1 + c.1) c.2, some (BitVec.ofNat 64 (kAddr 0 (kSpace e.2.1) (kOff e.2.1 + c.1)))⟩

/-- A permute begins: its own pieces are copied, the others are to be sent. -/
def State.permuteBegin (s : State) (r : CollRun) (bs : List Byte) : State :=
  let table := fieldAt bs 0x20 8
  let n := fieldAt bs 0x28 4
  let t := (s.ctx r.cmd.ctx).ten
  let m := s.collSet r
  let me := s.collRank r
  let x := r.cmd.ctx
  if !s.collRange t table (32 * n) then s.collFail x r.cmd.inst 4 false
  else
    let tb := s.memRead (kSpace table) (kOff table) (32 * n)
    let s := tb.2
    let es := (List.range n).map fun i => tableEntry (slice tb.1 (32 * i) 32)
    let ok := es.all fun e => decide (e.2.2.1 < m.members) && decide (e.2.2.2 ≠ 0) && s.collRange t e.1 e.2.2.2
    if !ok then s.collFail x r.cmd.inst 4 false
    else
      let key := 65536 * x + r.cmd.inst
      let s := es.foldl (fun (s : State) e =>
        if e.2.2.1 = me then
          let b := s.memRead (kSpace e.1) (kOff e.1) e.2.2.2
          let s := b.2.memWrite (kSpace e.2.1) (kOff e.2.1) b.1
          { s with colls := { s.colls with
            moved := s.colls.moved.set (fun _ => 0) key (s.colls.moved.get (fun _ => 0) key + e.2.2.2) } }
        else s) s
      let sends := (es.filter fun e => e.2.2.1 != me).flatMap fun e =>
        permuteSends (fun off n => (s.memRead (kSpace e.1) off n).1) e
      (s.setRun { r with sends := sends }).collFlush x

/-- The root of a broadcast sends SRC down its tree, and has it in DST itself. -/
def State.bcastBegin (s : State) (r : CollRun) : State :=
  let w := etyBytes r.ety
  if s.collRank r = r.root then
    let b := s.memRead (kSpace r.src) (kOff r.src) (r.count * w)
    let s := if kOff r.src = kOff r.dst ∧ kSpace r.src = kSpace r.dst then b.2 else b.2.memWrite (kSpace r.dst) (kOff r.dst) b.1
    let sends := (elemChunks (8192 / w) (r.count + 1) 0 r.count).map fun c =>
      (⟨0, 0, r.root, c.1, slice b.1 (c.1 * w) (c.2 * w), none⟩ : CollSend)
    if (s.collSet r).members = 1 then s.setRun { r with got := r.count }
    else (s.setRun { r with sends := sends, got := r.count }).collFlush r.cmd.ctx
  else s

/-- A READY that names another opcode or COUNT (R247). -/
def State.collMismatch (s : State) (r : CollRun) : Bool :=
  s.colls.ready.any fun e => e.1 == r.cmd.ctx && e.2.1 == r.cmd.inst && (e.2.2.2.1 != r.cmd.op || e.2.2.2.2 != r.count)

/-- A collective begins with a descriptor that holds. -/
def State.collBegin (s : State) (r : CollRun) (bs : List Byte) : State :=
  let x := r.cmd.ctx
  let m := s.collSet r
  let s := (s.collFrom r).foldl (fun (s : State) q =>
    match s.collRun x with
    | none => s
    | some _ =>
      let l := s.collPacket r 2 (s.memberNode m q) 0x09 0 (r.cmd.inst + r.cmd.op * 2 ^ 16) r.count none []
      match l.1 with
      | none => l.2
      | some st => l.2.collFail x r.cmd.inst (collFailCode st) false) s
  if s.collMismatch r then s.collFail x r.cmd.inst 2 false
  else match r.cmd.op with
    | 0x4B => s.bcastBegin r
    | 0x4C => s.permuteBegin r bs
    | _ => (s.phaseBegin x).collAdvance x 9

/-- A re-shard fence notes the last SEQ of each stream of its context with a packet outstanding (R250, item 2). -/
def State.fenceMarks (s : State) (x : Nat) : List (Nat × Option Nat × Nat) :=
  (s.fab.tx.filter fun t => t.ctx == x && !t.pkts.isEmpty).map fun t => (t.dst, none, (t.next + 2 ^ 32 - 1) % 2 ^ 32)

/-- The command that starts next on a context: the first in its queue, where nothing of the context runs and a place is
free. -/
def State.collNext (s : State) (ctx : Nat) : Option CollCmd :=
  if (s.collRun ctx).isSome then none
  else match s.colls.queue.find? fun c => c.ctx == ctx with
    | none => none
    | some c =>
      if c.op = 0x4D ∨ (s.colls.runs.filter fun r => r.cmd.op != 0x4D && r.cmd.ctx % 2 == ctx % 2).length < 128 then some c
      else none

/-- COLL_START (R242, R243, R247, R250). -/
def State.doCollStart (s : State) (c : CollCmd) : State :=
  let x := c.ctx
  let s := { s with colls := { s.colls with queue := s.colls.queue.erase c } }
  let s := s.bump R.COL_CNT_STARTED 1
  let fa := c.far.toNat
  let d := if c.op = 0x4D then (List.replicate 64 0, s) else s.memRead (kSpace fa) (kOff fa) 64
  let s := d.2
  let r := collRunOf c d.1 s
  let m := s.collSet r
  let i := s.inject 0x33 kCtx x
  let s := i.2
  let s := { s with colls := { s.colls with runs := s.colls.runs ++ [r] } }
  let member := m.valid && (s.rankIn m s.node).isSome && (s.ctx x).alloc
  if i.1.isSome then s.collFail x c.inst 2 true
  else if c.op = 0x4D then
    if !member then s.collFail x c.inst 4 false else s.setRun { r with marks := s.fenceMarks x }
  else
    let desc := kNode fa == s.node && s.collRange (s.ctx x).ten fa 64
    if !member || !desc || !s.collShape r d.1 then s.collFail x c.inst 4 false
    else s.collBegin r d.1

/-- Joining commands that found the queues full go on in (R242). -/
def State.collRefill (s : State) : State :=
  (List.range 256).foldl (fun (s : State) p =>
    if (s.ae p).cmds.any (fun c => match c.kind with | .coll _ => true | _ => false) then s.runUnheld p (s.die (dieOf p)).now
    else s) s

def execCollStart (ctx : Nat) (s : State) : Res :=
  match s.collNext ctx with
  | none => .refused (.notEnabled "no command of the context can start")
  | some c => .next (s.doCollStart c).collRefill

/-! ### What arrives (R246, R247, R250) -/

/-- A COLL_DATA packet's elements reach the instance they name. -/
def State.collDataIn (s : State) (k : Packet) : State :=
  let s := s.bump R.COL_CNT_BYTES_RX k.payload.length
  match s.collRun k.ctx with
  | none => s
  | some r => if bitsOf k.opnd0.toNat 0 16 = r.cmd.inst then (s.collTake k.ctx k).collAdvance k.ctx 9 else s

/-- A COLL_READY is held; one that disagrees fails the instance. -/
def State.collReadyIn (s : State) (k : Packet) : State :=
  let inst := bitsOf k.opnd0.toNat 0 16
  let s := { s with colls := { s.colls with
    ready := s.colls.ready ++ [(k.ctx, inst, k.src, bitsOf k.opnd0.toNat 16 8, k.opnd1.toNat)] } }
  match s.collRun k.ctx with
  | none => s
  | some r =>
    if r.cmd.inst = inst then
      if s.collMismatch r then s.collFail k.ctx inst 2 false else (s.collFlush k.ctx).collAdvance k.ctx 9
    else s

/-- Bytes of a permute piece of an instance have been written here. -/
def State.permuteIn (s : State) (ctx inst n : Nat) : State :=
  let key := 65536 * ctx + inst
  let s := s.bump R.COL_CNT_BYTES_RX n
  { s with colls := { s.colls with moved := s.colls.moved.set (fun _ => 0) key (s.colls.moved.get (fun _ => 0) key + n) } }

/-- The nodes of a context's members. -/
def State.ctxMembers (s : State) (x : Nat) : List Nat :=
  let m := s.mset (s.ctx x).mset
  (List.range m.members).map fun q => s.memberNode m q

/-- Once a node holds an EPOCH_CLOSE from every member for a drained fence, it switches (R250, item 4). -/
def State.epochSwitch (s : State) (x : Nat) : State :=
  match s.collRun x with
  | none => s
  | some r =>
    let e := ((s.ctx x).epoch + 1) % 256
    let held := (s.ctxMembers x).all fun n => s.colls.closes.any fun c => c.1 == x && c.2.1 == n && c.2.2 == e
    if r.cmd.op = 0x4D ∧ r.drained = true ∧ held = true then
      let s := { s with colls := { s.colls with closes := s.colls.closes.filter fun c => !(c.1 == x && c.2.2 == e) } }
      let s := s.setCtx x { s.ctx x with epoch := e }
      (s.bump R.COL_CNT_EPOCH 1).collSucceed r
    else s

/-- An EPOCH_CLOSE is held. -/
def State.epochCloseIn (s : State) (k : Packet) : State :=
  let s := { s with colls := { s.colls with closes := s.colls.closes ++ [(k.ctx, k.src, bitsOf k.opnd0.toNat 16 8)] } }
  s.epochSwitch k.ctx

/-- Has every packet a fence waits for its final answer? -/
def State.fenceClear (s : State) (r : CollRun) : Bool :=
  r.marks.all fun e => match s.txStream r.cmd.ctx e.1 with
    | none => true
    | some t => !t.pkts.any fun q => decide (seqAbove e.2.2 q.k.seq < 2 ^ 31)

/-- EPOCH_FENCE_DRAINED (R250, items 2 and 3): the fence closes the old epoch to every other member. -/
def State.doEpochDrained (s : State) (r : CollRun) : State :=
  let x := r.cmd.ctx
  let e := ((s.ctx x).epoch + 1) % 256
  let s := s.setRun { r with drained := true }
  let s := { s with colls := { s.colls with closes := s.colls.closes ++ [(x, s.node, e)] } }
  let s := ((s.ctxMembers x).filter fun n => n != s.node).foldl (fun (s : State) n =>
    (s.collPacket r 2 n 0x0A 0 (r.cmd.inst + e * 2 ^ 16) 0 none []).2) s
  s.epochSwitch x

def execEpochFenceDrained (ctx : Nat) (s : State) : Res :=
  match s.collRun ctx with
  | none => .refused (.notEnabled "no fence runs on the context")
  | some r => State.when (r.cmd.op == 0x4D && !r.drained && s.fenceClear r) "the fence is not drained" (s.doEpochDrained r)

/-- Has a collective done all R248 asks? -/
def State.collDone (s : State) (r : CollRun) : Bool :=
  let out := (List.range 3).all fun dir => s.collOut r.cmd.ctx r.cmd.inst dir == 0
  r.cmd.op != 0x4D && r.sends.isEmpty && out && (match r.cmd.op with
    | 0x4B => decide (r.count ≤ r.got)
    | 0x4C => decide (r.expect ≤ s.colls.moved.get (fun _ => 0) (65536 * r.cmd.ctx + r.cmd.inst))
    | _ => decide ((s.phasesOf r).length ≤ r.phase))

/-- COLL_COMPLETE (R248). -/
def execCollComplete (ctx : Nat) (s : State) : Res :=
  match s.collRun ctx with
  | none => .refused (.notEnabled "nothing runs on the context")
  | some r => State.when (s.collDone r) "the collective has not completed" (s.collSucceed r)

/-- A packet of a collective holds its final answer. -/
def State.collAnswer (s : State) (ctx inst status : Nat) : State :=
  match s.collRun ctx with
  | none => s
  | some r =>
    if r.cmd.inst ≠ inst then s
    else if status ≤ sDUP then (s.collFlush ctx).collAdvance ctx 9
    else if r.cmd.op = 0x4D then s
    else s.collFail ctx inst (collFailCode status) false

/-! ### COLLECTIVE_SLOW (R178, R203) -/

/-- Every watchdog of a gate or wait that names a context has its limit multiplied, once (R178, R203). -/
def State.extendWatches (s : State) (x : Nat) : State :=
  let m := s.f R.PWR_POLICY F.PWR_POLICY_SLOW_FACTOR
  let gate (no d : Nat) (i : Nat) (w : GateWatch) : GateWatch :=
    match s.heatDef d no with
    | some h => match h.gates[i]? with
      | some g => if (g.kind = 3 ∨ g.kind = 6) ∧ g.ctx = x ∧ w.ext = false then
          { w with limit := w.limit * m, ext := true } else w
      | none => w
    | none => w
  let die (e : Nat × DieState) : Nat × DieState :=
    let ready := e.2.ready.map fun (r : ReadyEntry) => { r with watch := r.watch.mapIdx (gate r.heat e.1) }
    (e.1, { e.2 with ready := ready })
  let run (r : CollRun) : CollRun := if r.cmd.ctx = x ∧ r.ext = false then { r with limit := r.limit * m, ext := true } else r
  let s := { s with dies := s.dies.map die, colls := { s.colls with runs := s.colls.runs.map run } }
  let naming (p : Nat) (c : AeCmd) : Bool := c.kind.isFence && !c.ext && c.watch.isSome &&
    (match s.fenceOldest p c with | some o => o.ctx == some x | none => false)
  let one (e : Nat × AccessEngine) : Nat × AccessEngine :=
    let cmds := e.2.cmds.map fun (c : AeCmd) => if naming e.1 c then { c with limit := c.limit * m, ext := true } else c
    (e.1, { e.2 with cmds := cmds })
  { s with aes := s.aes.map one }

/-- COLLECTIVE_SLOW is set in the node's record of a context. -/
def State.setSlow (s : State) (x : Nat) : State := (s.setCtx x { s.ctx x with slow := true }).extendWatches x

/-- COLLECTIVE_SLOW is cleared; a watchdog already extended keeps its limit. -/
def State.clearSlow (s : State) (x : Nat) : State :=
  let s := if (s.ctx x).slow then s.extendWatches x else s
  s.setCtx x { s.ctx x with slow := false }

/-- A re-shard fence of a core's command whose watchdog has run out (R250). -/
def State.epochLate (s : State) (p : Nat) : Option CollRun :=
  s.colls.runs.find? fun r => r.cmd.op == 0x4D && r.cmd.pos == p && decide (r.limit ≠ 0) &&
    decide (r.watch + r.limit ≤ s.time)

/-- FENCE_WATCHDOG_EXPIRE (R203, R204, R250): a fence of the core's list, or a re-shard fence it issued. -/
def State.doEpochExpire (s : State) (p : Nat) (r : CollRun) : State :=
  (s.setRun { r with limit := 0 }).waitTimeout p 15 1 0 r.cmd.ctx 0 r.limit

def execFenceWatchdogExpire (p : Pos) (s : State) : Res :=
  match s.fenceLate p, s.epochLate p with
  | some f, _ => .next (s.doFenceExpire p f)
  | none, some r => .next (s.doEpochExpire p r)
  | none, none => .refused (.notEnabled "no fence's watchdog has run out")

end Sys2Proof.Machine
end

