-- ==== Sys2Proof/Machine/Link.lean ====
section
/-! DEFINITION. Ports and routers (R212, R213, R215, R217 to R219, R234): groups, heads that arrive, escapes, cuts and
retraining; and what a final answer does at the sender (R216, R223, R224, R229). -/

namespace Sys2Proof.Machine

open Sys2Proof

/-! ### At the sender -/

def State.dieNow (s : State) (p : Nat) : Nat := (s.die (dieOf p)).now

/-- A packet's final status reaches what it belongs to: a command of an access engine, or a collective. -/
def State.deliver (s : State) (o : TxOwner) (status : Nat) (old : Word) (bs : List Byte) : State :=
  match o with
  | .ae p id part =>
    match s.aeCmd p id with
    | none => s
    | some c => match c.kind with
      | .fetch | .gather | .relay =>
        let x := s.dieNow p
        let s := s.aeData p id part x status bs (some old.toNat) false
        (match s.aeCmd p id with
          | some c => if c.kind = .gather then s.aeAskRows p x id else s
          | none => s)
      | .atomic _ =>
        let i := if status ≤ sDUP then s.inject 0x1E kCore p else (none, s)
        if i.1.isSome then i.2.atomicLost p c true
        else if status = sOK then i.2.atomicLand p (s.dieNow p) c old
        else if status = sDUP then i.2.atomicLost p c false
        else i.2.delCmd p id
      | _ => s.putAnswer p id part status
  | .coll ctx inst _ => s.collAnswer ctx inst status
  | .notice => s

/-- A packet is final: its record goes, and its owner hears of it. -/
def State.txFinal (s : State) (ctx dst : Nat) (e : TxPkt) (status : Nat) (old : Word) (bs : List Byte) : State :=
  (s.dropTxPkt ctx dst e.k.seq).deliver e.owner status old bs

/-- Send a packet again, or, after RETRY_LIMIT resends, complete it TIMEOUT (R223, R224). -/
def State.resendPkt (s : State) (ctx dst : Nat) (e : TxPkt) : State :=
  if s.f R.FAB_CTL F.FAB_CTL_RETRY_LIMIT ≤ e.resends then
    let s := s.setF R.FAB_EVENT F.FAB_EVENT_RETRY_EXHAUSTED 1
    let s := s.record (occ 0x1B kCtx ctx e.k.seq (dst % 2 ^ 18))
    s.txFinal ctx dst e sTIMEOUT 0 []
  else
    let r := s.relaunch dst { e with leaves := 0, status := 0 }
    match r.1 with
    | none => r.2
    | some st => r.2.txFinal ctx dst e st 0 []

/-- An answer with a status reaches the sender of a packet (R216). A multicast's leaf counts add up (R229). -/
def State.answered (s : State) (ctx dst seq status count : Nat) (old : Word) (bs : List Byte) : State :=
  match s.txPkt ctx dst seq with
  | none => s
  | some e =>
    if status = sCUT ∨ status = sEXPIRED ∨ status = sCRC then s.resendPkt ctx dst e
    else if status = sSIGFULL ∨ status = sAHEAD ∨ status = sTRACK ∨ status = sPENDING then
      s.setTxPkt ctx dst { e with again := some (s.time + ticksUs 1), status := status }
    else if e.k.mcast then
      let st := if status ≤ sDUP then e.status else status
      let n := e.leaves + count
      if (s.tree e.k.tree).leaves ≤ n then s.txFinal ctx dst e st 0 []
      else s.setTxPkt ctx dst { e with leaves := n, status := st }
    else s.txFinal ctx dst e status old bs

/-- RETRY_TIMEOUT (R223, R224): no answer has come within RETRY_MS. -/
def execRetryTimeout (ctx dst seq : Nat) (s : State) : Res :=
  match s.txPkt ctx dst seq with
  | none => .refused (.notEnabled "no such packet is without a final answer")
  | some e =>
    State.when (e.again.isNone && (match e.sent with
        | some t => decide (t + ticksMs (s.f R.FAB_CTL F.FAB_CTL_RETRY_MS) ≤ s.time)
        | none => false))
      "the packet's resend timer has not run out" (s.resendPkt ctx dst e)

/-- RESEND_DELAY (R216): 1 µs after an answer that asks for it, the packet is sent again. -/
def execResendDelay (ctx dst seq : Nat) (s : State) : Res :=
  match s.txPkt ctx dst seq with
  | none => .refused (.notEnabled "no such packet is without a final answer")
  | some e => State.when (match e.again with | some t => decide (t ≤ s.time) | none => false)
      "the packet is not due to be sent again" (s.resendPkt ctx dst e)

/-- RX_STREAM_FREE (R222, item 4): a gap below its highest done number is reported. -/
def State.doRxFree (s : State) (r : RxStream) : State :=
  let i := s.inject 0x18 kCtx r.ctx
  let s := i.2
  let s := { s with fab := { s.fab with rx := s.fab.rx.filter fun t => !(t.ctx == r.ctx && t.src == r.src) } }
  match i.1 with
  | some syn => s.record (s.injected (occ 0x18 kCtx r.ctx ((r.base + syn) % 2 ^ 32) (r.src % 2 ^ 18)))
  | none => if r.done.isEmpty then s else s.record (occ 0x18 kCtx r.ctx ((r.base + 1) % 2 ^ 32) (r.src % 2 ^ 18))

def execRxStreamFree (ctx src : Nat) (s : State) : Res :=
  match s.rxStream ctx src with
  | none => .refused (.notEnabled "no such receiving stream")
  | some r => State.when (decide (r.last + ticksMs 1610 ≤ s.time) &&
        !s.fab.transits.any fun t => t.out.isNone && !t.cut && t.k.ctx == ctx && t.k.rxKey == src && decide (t.remain ≠ 0))
      "the stream is in use" (s.doRxFree r)

/-- TX_STREAM_FREE (R222, item 4). -/
def execTxStreamFree (ctx dst : Nat) (s : State) : Res :=
  match s.txStream ctx dst with
  | none => .refused (.notEnabled "no such sending stream")
  | some t => State.when (t.pkts.isEmpty && decide (t.last + ticksMs 2000 ≤ s.time)) "the stream is in use" (s.dropTx ctx dst)

/-! ### Contexts (R230) -/

/-- CTX_RECORD_LOAD (R230). -/
def execCtxRecordLoad (ctx : Nat) (s : State) : Res :=
  match s.ctxNeed ctx with
  | none => .refused (.notEnabled "no cache entry can be had")
  | some t => State.when (decide (ctx < 2 ^ 20) && !s.ctxs.lru.contains ctx) "the record is cached" t

/-- CTX_COPY_RESYNC (R230): a copy within reach again has every record written into it. -/
def execCtxCopyResync (copy : Fin 2) (s : State) : Res :=
  let ok := if copy = 0 then s.ctxs.copyOk.1 else s.ctxs.copyOk.2
  let other := if copy = 0 then s.ctxs.copyOk.2 else s.ctxs.copyOk.1
  let c := if copy = 0 then (true, s.ctxs.copyOk.2) else (s.ctxs.copyOk.1, true)
  State.when (!ok && other && s.copyReach copy) "the copy is not due to be written again"
    { s with ctxs := { s.ctxs with copyOk := c } }

/-! ### Link groups (R213) -/

/-- One byte into a CRC-24 register (RFC 4880: polynomial 0x864CFB, initial value 0xB704CE). -/
def crc24Byte (c : Nat) (b : Byte) : Nat :=
  (List.range 8).foldl (fun c _ => if 2 ^ 23 ≤ c then (c * 2 % 2 ^ 24) ^^^ 0x864CFB else c * 2) (c ^^^ b.toNat * 2 ^ 16)

/-- The CRC-24 of a group: bits [487:0] of its control flit, then its 80 slots. -/
def linkCrc (g : LinkGroup) : Nat :=
  (leBytes 61 (g.control.toNat % 2 ^ 488) ++ g.slots.flatMap fun b => leBytes 64 b.toNat).foldl crc24Byte 0xB704CE

/-- Mark j of a group: VC code and KIND. -/
def linkMark (g : LinkGroup) (j : Nat) : Nat × Nat :=
  let m := bitsOf g.control.toNat (5 * j) 5
  (m % 8, m / 8)

/-- A body flit arrives for the packet whose head has advanced on its channel; a packet that passes through, or has been
cut, is done with its last one. -/
def State.bodyFlit (s : State) (p vc : Nat) : State :=
  let step (t : Transit) : Transit :=
    if t.port = p ∧ t.vc = vc ∧ t.remain ≠ 0 then { t with remain := t.remain - 1, last := s.time } else t
  let live (t : Transit) : Bool := decide (t.remain ≠ 0) || (t.out.isNone && !t.cut)
  { s with fab := { s.fab with transits := (s.fab.transits.map step).filter live } }

/-- The lowest lane group a port runs on, as 4 p + g (log 20). -/
def State.firstLane (s : State) (p : Nat) : Nat :=
  4 * p + ((List.range 4).find? fun g => bitOf (s.f (R.FAB_PORT_STAT p) F.FAB_PORT_STAT_LG_ACTIVE) g).getD 0

/-- A group that is discarded, and the NAK it causes. -/
def State.groupBad (s : State) (p : Nat) : State :=
  let v := s.port p
  (s.setPort p { v with nakked := true }).emit (.linkNak p v.rxSeq)

/-- A group in order and intact: its flits, its credits, and what it says of the groups sent. -/
def State.groupGood (s : State) (p : Nat) (g : LinkGroup) : State :=
  let c := g.control.toNat
  let gseq := bitsOf c 464 11
  let gack := bitsOf c 475 11
  let nak := bitOf c 486
  let marks := (List.range 80).map (linkMark g)
  let flits := (marks.filter fun m => m.2 == 1 || m.2 == 2).length
  let s := s.bump (R.FAB_PORT_FLITS_RX p) flits
  let s := marks.foldl (fun (s : State) m => if m.2 = 2 then s.bodyFlit p m.1 else s) s
  let v := s.port p
  let behind := (v.txSeq + 2048 - gack) % 2048
  let ack := if behind ≤ (v.txSeq + 2048 - v.txAck) % 2048 then gack else v.txAck
  let v := { v with
    rxSeq := gseq, nakked := false, txAck := ack
    credit := v.credit.mapIdx fun i n => n + (bitsOf c (400 + 8 * i) 8 : Int) }
  let s := (s.setPort p v).emit (.linkAck p gseq)
  let lost := (v.txSeq + 2048 - ack) % 2048
  let s := if nak && decide (lost ≠ 0) then (s.bump (R.FAB_PORT_GROUP_RESEND p) lost).emit (.linkResend p ((ack + 1) % 2048)) else s
  s.pump

/-- LINK_GROUP_RECEIVE (R213): FEC, CRC and order. -/
def State.doGroup (s : State) (p : Nat) (g : LinkGroup) : State :=
  let gseq := bitsOf g.control.toNat 464 11
  let lane := s.firstLane p
  let s := if g.corrected = 0 then s
    else (s.bump (R.FAB_PORT_FEC_CORR p) g.corrected).record (occ 0x10 kLane lane g.corrected) 7 g.corrected
  let s := (List.range 4).foldl (fun (s : State) j => match s.inject 0x10 kLane (4 * p + j) with
    | (some syn, s) => (s.bump (R.FAB_PORT_FEC_CORR p) (syn % 16)).record (s.injected (occ 0x10 kLane (4 * p + j) (syn % 16))) 7 (syn % 16)
    | (none, s) => s) s
  let i := s.inject 0x11 kPort p
  let s := i.2
  if !g.fecOk || i.1.isSome then
    let s := s.bump (R.FAB_PORT_FEC_UNCORR p) 1
    let o := occ 0x11 kPort p gseq
    (s.record (if i.1.isSome then s.injected o else o)).groupBad p
  else
    let j := s.inject 0x12 kPort p
    let s := j.2
    if bitsOf g.control.toNat 488 24 ≠ linkCrc g ∨ j.1.isSome then
      let o := occ 0x12 kPort p gseq
      (s.record (if j.1.isSome then s.injected o else o)).groupBad p
    else if gseq ≠ ((s.port p).rxSeq + 1) % 2048 then
      (if (s.port p).nakked then s else s.groupBad p)
    else s.groupGood p g

def execLinkGroupReceive (port : PortId) (g : LinkGroup) (s : State) : Res :=
  State.whenWf (g.slots.length == 80) (s.f (R.FAB_PORT_STAT port) F.FAB_PORT_STAT_STATE == 2) "the port is not in service"
    (s.doGroup port g)

/-! ### Routers -/

/-- Where the head of a packet given to `offer` stands now: the port it left by, or the one it waits for. -/
def State.wentBy (s t : State) (k : Packet) : Nat :=
  match t.out.getLast? with
  | some (.packet (some p) q) => if s.out.length < t.out.length ∧ q.ctx = k.ctx ∧ q.seq = k.seq then p else 16
  | _ => match t.fab.heads.find? fun h => h.k.ctx == k.ctx && h.k.seq == k.seq && h.k.op == k.op with
    | some h => h.out.getD 16
    | none => 16

def State.addTransit (s : State) (t : Transit) : State :=
  { s with fab := { s.fab with transits := s.fab.transits ++ [t] } }

def State.dropTransit (s : State) (t : Transit) : State :=
  { s with fab := { s.fab with transits := s.fab.transits.erase t } }

/-- An answer to a packet that is not itself one. -/
def State.answerUnless (s : State) (k : Packet) (status : Nat) : State := if opAnswer k.op then s else s.answer k status

/-- A packet that has no route from here: from this node it is final, from another it is answered (R210, R219). -/
def State.noRoute (s : State) (k : Packet) : State :=
  let s := s.setF R.FAB_EVENT F.FAB_EVENT_NO_ROUTE 1
  let s := s.record (occ 0x1D kPackage 0 (kAddr k.dst k.space k.offset) sNOROUTE)
  if k.src = s.node then s.answered k.ctx k.dst k.seq sNOROUTE 0 0 [] else s.answerUnless k sNOROUTE

/-- A partial packet is discarded at its destination, and answered with CUT; a cut load response is asked for again
(R226, R234). -/
def State.cutHere (s : State) (t : Transit) : State :=
  let s := (s.dropTransit t).bump R.FAB_CNT_CUT_RX 1
  if t.k.op = 0x04 then s.answered t.k.ctx t.k.src t.k.seq sCUT 0 0 [] else s.answerUnless t.k sCUT

/-- A packet is cut at a router input (R234, items 1 to 4). -/
def State.cutTransit (s : State) (t : Transit) (inj : Bool) : State :=
  let s := s.bump (R.FAB_PORT_CUT_MADE t.port) 1
  let o := occ 0x19 kPort t.port t.k.seq t.k.ctx
  let s := s.record (if inj then s.injected o else o)
  match t.out with
  | none => s.cutHere t
  | some p =>
    let s := { s with fab := { s.fab with transits := s.fab.transits.map fun u => if u = t then { u with cut := true } else u } }
    s.emit (.cutEnd p t.k.vc)

/-- PACKET_FORWARD (R213, R215, R218, R219): a head advances from a port's input, or is discarded. -/
def State.doForward (s : State) (p : Nat) (k : Packet) : State :=
  let i := s.inject 0x13 kPort p
  let s := i.2
  if k.hcrc ≠ k.headCrc ∨ i.1.isSome then
    let o := occ 0x13 kPort p
    s.record (if i.1.isSome then s.injected o else o)
  else
    let j := s.inject 0x1C kPort p
    let s := j.2
    if 5000 ≤ k.age ∨ j.1.isSome then
      let s := (s.setF R.FAB_EVENT F.FAB_EVENT_EXPIRED 1).bump R.FAB_CNT_EXPIRED 1
      let o := occ 0x1C kPort p k.seq k.src
      (s.record (if j.1.isSome then s.injected o else o)).answerUnless k sEXPIRED
    else
      let c := s.inject 0x19 kPort p
      let s := c.2
      let here := k.dst == s.node || k.mcast && !opAnswer k.op
      let go : Bool × State := if here then (true, s) else s.depart k (some p)
      if here && !opKnown k.op then
        (s.setF R.FAB_EVENT F.FAB_EVENT_REJECTED_IN 1).answer k sADDR
      else if !go.1 then go.2.noRoute k
      else
        let out := if here then none else some (s.wentBy go.2 k)
        let t : Transit := ⟨p, k.vc, k, out, k.body, s.time, false⟩
        let s := if k.body = 0 then go.2 else go.2.addTransit t
        if c.1.isSome ∧ k.body ≠ 0 then s.cutTransit t true else s

def execPacketForward (port : PortId) (k : Packet) (s : State) : Res :=
  State.whenWf k.wf (s.f (R.FAB_PORT_STAT port) F.FAB_PORT_STAT_STATE == 2 || s.f (R.FAB_PORT_STAT port) F.FAB_PORT_STAT_STATE == 1)
    "the port is not in service" (s.doForward port k)

/-- ESC_WAIT_EXPIRE (R219): a C0 head that has found no credit for ESC_WAIT_NS moves to CE. -/
def State.doEscape (s : State) (h : HeadWait) : State :=
  let s := { s with fab := { s.fab with heads := s.fab.heads.erase h } }
  let s := s.bump R.FAB_CNT_ESCAPED 1
  let k := { h.k with vc := 6 }
  match s.pick (s.upDownPorts 4 h.inp) with
  | (some p, s) => s.offer { h with k := k, out := some p }
  | (none, s) => s.noRoute k

def execEscWaitExpire (port : PortId) (k : Packet) (s : State) : Res :=
  match s.fab.heads.find? fun h => h.k.vc == 4 && (h.inp == some port.val || h.inp.isNone) && h.k.ctx == k.ctx &&
      h.k.seq == k.seq && h.k.src == k.src && h.k.dst == k.dst && h.k.op == k.op with
  | none => .refused (.notEnabled "no such C0 head waits")
  | some h => State.whenWf k.wf (decide (s.f R.FAB_CTL F.FAB_CTL_ESC_WAIT_NS ≤ 40 * (s.time - h.since)))
      "the head has not waited ESC_WAIT_NS" (s.doEscape h)

/-- TAIL_TIMEOUT (R234). -/
def execTailTimeout (port : PortId) (vc : Fin 8) (s : State) : Res :=
  match s.fab.transits.find? fun t => t.port == port.val && t.vc == vc.val && !t.cut && decide (t.remain ≠ 0) with
  | none => .refused (.notEnabled "no packet is arriving on the channel")
  | some t => State.when (decide (t.last + ticksUs (s.f R.FAB_CTL F.FAB_CTL_TAIL_US) ≤ s.time))
      "the input's timer has not reached TAIL_US" (s.cutTransit t false)

/-- CUT_END_RECEIVE (R234). -/
def State.doCutEnd (s : State) (t : Transit) : State :=
  match t.out, t.cut with
  | _, true => s.dropTransit t
  | none, false => s.cutHere t
  | some p, false => (s.dropTransit t).emit (.cutEnd p t.k.vc)

def execCutEndReceive (port : PortId) (vc : Fin 8) (s : State) : Res :=
  match s.fab.transits.find? fun t => t.port == port.val && t.vc == vc.val && decide (t.remain ≠ 0) with
  | none => .refused (.notEnabled "no packet is arriving on the channel")
  | some t => .next (s.doCutEnd t)

/-! ### Retraining (R212) -/

/-- PORT_RETRAIN (R212): groups are lost, those that fail training are fenced, and the port trains on the rest. -/
def State.doRetrain (s : State) (p lost failed : Nat) : State :=
  let s := (List.range 4).foldl (fun (s : State) g => if bitOf failed g then s.fenceUnit kLane (4 * p + g) else s) s
  let st := R.FAB_PORT_STAT p
  if s.f st F.FAB_PORT_STAT_STATE = 3 then s
  else
    let act := s.f st F.FAB_PORT_STAT_LG_ACTIVE
    let s := (s.setF st F.FAB_PORT_STAT_LG_ACTIVE (act - (act &&& lost))).setF st F.FAB_PORT_STAT_STATE 1
    if s.f R.MNT_CTL F.MNT_CTL_REEQ_AUTO = 1 then (s.maintRequest ⟨3, p, 0, .boathouse, s.time, s.time, none⟩).2 else s

def execPortRetrain (port : PortId) (lost failed : BitVec 4) (s : State) : Res :=
  State.when (s.f (R.FAB_PORT_STAT port) F.FAB_PORT_STAT_STATE == 2 && (lost ||| failed) != 0)
    "the port is not in service, or its groups have not changed" (s.doRetrain port lost.toNat failed.toNat)

/-- PORT_RETRAIN_DONE (R212): the port is in service again, and the flits it held are sent. -/
def execPortRetrainDone (port : PortId) (s : State) : Res :=
  let st := R.FAB_PORT_STAT port
  State.when (s.f st F.FAB_PORT_STAT_STATE == 1 && s.f st F.FAB_PORT_STAT_LG_ACTIVE != 0) "the port is not training"
    ((s.setF st F.FAB_PORT_STAT_STATE 2).pump)

end Sys2Proof.Machine
end

