-- ==== Sys2Proof/Machine/Arrive.lean ====
section
/-! DEFINITION. Packets whose last flit has arrived at this node (R199 to R202, R214 to R216, R221, R222, R226 to R236): the
checks they meet, what they do, and the answers they get; signals and regattas. -/

namespace Sys2Proof.Machine

open Sys2Proof

/-! ### Signals (R199) -/

/-- SIGNAL_APPLY (R199): a pending signal whose count has been reached is applied. -/
def execSignalApply (ctx i : Nat) (s : State) : Res :=
  match s.signalAt ctx i with
  | none => .refused (.notEnabled "no such signal is pending")
  | some g => State.when g.due "the signal's count has not been reached"
      ((s.dropSignal g).landSet g.pos g.flag (s.dieNow g.pos) 1)

/-! ### Notices between members (R178, R201) -/

/-- Send a CTRL packet to every other member of a context (log 14): kind 0 a regatta arrival with its generation and A, 1
COLLECTIVE_SLOW set, 2 its clear. -/
def State.sendCtrl (s : State) (x kind gen a : Nat) : State :=
  ((s.ctxMembers x).filter fun n => n != s.node).foldl (fun (s : State) n =>
    let q := s.reserveSeq x n .notice
    let s := q.2
    let k : Packet := { Packet.blank with
      dst := n, ctx := x, seq := q.1, epoch := (s.ctx x).epoch, cls := 2, op := 0x07
      opnd0 := BitVec.ofNat 64 (kind % 4 + gen % 65536 * 2 ^ 16), opnd1 := BitVec.ofNat 64 a }
    let l := s.launch n k .notice
    match l.1 with
    | none => l.2
    | some _ => l.2.dropTxPkt x n q.1) s

def State.regatta (s : State) (x : Nat) : Regatta := s.ctxs.regattas.get (fun _ => Regatta.init) x
def State.setRegatta (s : State) (x : Nat) (v : Regatta) : State :=
  { s with ctxs := { s.ctxs with regattas := s.ctxs.regattas.set (fun _ => Regatta.init) x v } }

/-- A generation completes once every member's arrival is held (R201, item 2). -/
def State.regattaCheck (s : State) (x : Nat) : State :=
  let v := s.regatta x
  match v.openGen with
  | none => s
  | some g =>
    let m := s.mset (s.ctx x).mset
    let here := v.arrivals.filter fun a => a.1 == g
    if (List.range m.members).all fun r => here.any fun a => a.2.1 == r then
      let b := here.foldl (fun l a => min l a.2.2) (2 ^ 32 - 1)
      let s := s.setRegatta x { v with openGen := none, arrivals := v.arrivals.filter fun a => a.1 != g }
      let s := (s.ctxSub x b).clearSlow x
      let c := s.ctx x
      let s := s.setCtx x { c with lastBase := b, due := c.due && decide (2 ^ 31 ≤ c.count) }
      let s := { s with ctxs := { s.ctxs with
        sigs := s.ctxs.sigs.map fun (q : Signal) => if q.ctx = x then { q with exp := q.exp - b } else q } }
      s.checkSignals x
    else s

/-- A heat with a regatta gate enters the ready set: the next generation opens, unless one is open, and this node's
arrival is sent (R201, item 1). Answers the generation the gate belongs to. -/
def State.regattaOpen (s : State) (x : Nat) : Nat × State :=
  let v := s.regatta x
  match v.openGen with
  | some g => (g, s)
  | none =>
    let c := s.ctx x
    let g := (c.gen + 1) % 65536
    let s := s.setCtx x { c with gen := g }
    let m := s.mset c.mset
    let me := (s.rankIn m s.node).getD 0
    let s := s.setRegatta x { v with openGen := some g, arrivals := v.arrivals ++ [(g, me, c.count)] }
    let s := s.sendCtrl x 0 g c.count
    (g, s.regattaCheck x)

/-! ### The checks a packet meets -/

/-- The node's router has passed the head; its CRC is checked again at the destination (R215). -/
def headGood (k : Packet) : Bool := k.hcrc == k.headCrc

/-- The input by which a packet came is free again. -/
def State.clearTransit (s : State) (k : Packet) : State :=
  { s with fab := { s.fab with transits := s.fab.transits.filter fun t =>
    !(t.out.isNone && t.k.ctx == k.ctx && t.k.rxKey == k.rxKey && t.k.seq == k.seq && t.k.op == k.op) } }

/-- Payload CRC (R215). -/
def State.payloadGood (s : State) (k : Packet) : Bool × State :=
  let i := s.inject 0x14 kCtx k.ctx
  let s := i.2
  if i.1.isSome ∨ (k.payload ≠ [] ∧ crc32c k.payload ≠ k.pcrc) then
    let o := occ 0x14 kCtx k.ctx k.seq k.src
    (false, s.record (if i.1.isSome then s.injected o else o))
  else (true, s)

/-- The layout epoch (R233): OK, EPOCH_STALE or EPOCH_AHEAD. -/
def State.epochStatus (s : State) (k : Packet) : Nat × State :=
  let r := s.ctx k.ctx
  let i := s.inject 0x1A kCtx k.ctx
  let s := i.2
  let d := match i.1 with | some syn => syn % 256 | none => (r.epoch + 256 - k.epoch % 256) % 256
  if d = 0 then (sOK, s)
  else
    let s := s.bump R.FAB_CNT_EPOCH_REJ 1
    if d ≤ 127 then
      let o := occ 0x1A kCtx k.ctx k.epoch r.epoch
      (sSTALE, (s.setF R.FAB_EVENT F.FAB_EVENT_EPOCH_STALE 1).record (if i.1.isSome then s.injected o else o))
    else (sAHEAD, s)

def State.trackFull (s : State) : State := (s.bump R.FAB_CNT_TRACK_FULL 1).setF R.FAB_EVENT F.FAB_EVENT_TRACK_FULL 1

/-- What a packet meets before its access: the status that ends it, or OK. `numbered` holds for what R222 marks, `epochs`
for what R233 compares. -/
def State.screen (s : State) (k : Packet) (numbered epochs : Bool) : Nat × State :=
  match s.ctxNeed k.ctx with
  | none => (sTRACK, s.trackFull)
  | some s =>
    if !(s.ctx k.ctx).alloc then (sCTX, s)
    else
      let f : Found × State := if numbered then s.rxFind k else (.fresh, s)
      let s := f.2
      match f.1 with
      | .full => (sTRACK, s.trackFull)
      | .dup => (sDUP, s.bump R.FAB_CNT_DUP 1)
      | .pending => (sPENDING, s.bump R.FAB_CNT_DUP 1)
      | .fresh =>
        let p := s.payloadGood k
        if !p.1 then (sCRC, p.2)
        else if epochs then p.2.epochStatus k else (sOK, p.2)

/-- A packet has been written or applied: it is counted and its number is done. -/
def State.applied (s : State) (k : Packet) (numbered : Bool) : State :=
  let s := (s.bump R.FAB_CNT_PKT_RX 1).bump R.FAB_CNT_BYTES_RX k.payload.length
  let r := s.ctx k.ctx
  let s := s.setCtx k.ctx { r with bytesRx := (r.bytesRx + k.payload.length) % 2 ^ 64 }
  if numbered then s.rxDone k else s

/-- The access of a packet: its target's status, after the way to it inside the package (R27, R220). -/
def State.packetAccess (s : State) (k : Packet) (kind len : Nat) (v : Word) : Nat × State :=
  let g := s.accessStatus (.packet k.ctx k.win k.src) none kind k.space k.offset len v
  if g.1 ≠ sOK then g
  else
    let w := g.2.reachable (k.seq % 2) (targetOf k.space k.offset len)
    (if w.1 then sOK else sNOROUTE, w.2)

/-! ### Puts (R195, R199, R200, R221, R222, R235) -/

/-- Write a put's bytes at their target. Writes of control registers are the caller's, `ctl`. -/
def State.putWrite (s : State) (ctl : State → Nat → Word → State) (k : Packet) : State :=
  match targetOf k.space k.offset k.payload.length with
  | .hbm d l => s.hbmWrite d l k.payload
  | .spad p off => s.spadWrite p off k.payload
  | .flag p n => s.storeFlag p n (s.dieNow p) 3 (leNat k.payload)
  | .ctl o => ctl s o (BitVec.ofNat 64 (leNat k.payload))
  | .bad => s

/-- Is a put a piece of a permute (R246)? -/
def isPiece (k : Packet) : Bool := bitOf k.opnd0.toNat 16

/-- A put that meets no refusal is written, counted, signals, and is answered OK. -/
def State.putApply (s : State) (ctl : State → Nat → Word → State) (k : Packet) : State :=
  let s := (s.putWrite ctl k).applied k true
  if isPiece k then s.permuteIn k.ctx (bitsOf k.opnd0.toNat 0 16) k.payload.length
  else s.putEffects (some k.ctx) k.cntEn (if k.flagEn then some k.flag else none) k.exp k.space k.offset

/-- A put arrives: its status, and the state after it. -/
def State.putArrive (s : State) (ctl : State → Nat → Word → State) (k : Packet) : Nat × State :=
  let c := s.screen k true true
  if c.1 ≠ sOK then c
  else
    let n := k.payload.length
    let g := c.2.packetAccess k aWrite n (BitVec.ofNat 64 (leNat (k.payload.take 8)))
    if g.1 ≠ sOK then g
    else
      let s := g.2
      let locked := match targetOf k.space k.offset n with
        | .hbm d l => s.packageLocked d l n
        | _ => false
      if locked then
        (sDENIED, s.reject (.packet k.ctx k.win k.src) k.space k.offset sDENIED (targetOf k.space k.offset n) false)
      else if s.signalFull (some k.ctx) k.cntEn (if k.flagEn then some k.flag else none) k.exp then (sSIGFULL, s)
      else (sOK, s.putApply ctl k)

/-- PUT and PERMUTE_PIECE. -/
def State.doPutPacket (s : State) (ctl : State → Nat → Word → State) (k : Packet) : State :=
  let s := s.clearTransit k
  if !headGood k then s
  else
    let r := s.putArrive ctl k
    r.2.answer k r.1

/-- PUT_MC (R235, R236): a copy to each port of the tree, one FENCED answer for each pruned one, and a put here where this
node is a leaf. -/
def State.doPutMc (s : State) (ctl : State → Nat → Word → State) (k : Packet) : State :=
  let inp := (s.fab.transits.find? fun t => t.out.isNone && t.k.rxKey == k.rxKey && t.k.seq == k.seq && t.k.ctx == k.ctx).map
    fun t => t.port
  let s := s.clearTransit k
  let t := s.tree k.tree
  if !headGood k || !t.valid then s
  else
    let s := s.mcCopies k inp t
    let s := ((List.range 16).filter fun p => bitOf t.out p && bitOf t.pruned p).foldl (fun (s : State) p =>
      (s.bump R.FAB_CNT_PRUNED 1).respond k 0x06 sFENCED (BitVec.ofNat 64 (t.desc.getD p 0)) []) s
    if t.deliver then
      let r := s.putArrive ctl k
      r.2.answer k r.1
    else s

/-! ### Loads (R226, R253) -/

/-- The bytes a load reads, and the version of an HBM read. -/
def State.loadBytes (s : State) (k : Packet) (n : Nat) : List Byte × Nat × State :=
  match targetOf k.space k.offset n with
  | .hbm d l => let r := s.hbmRead d l n; (r.1, s.versionAt d l, r.2)
  | .spad p off => (s.spadBytes p off n, 0, s)
  | .flag p m => (s.flagWord p m, 0, s)
  | .ctl o => (leBytes 8 (s.view o).toNat, 0, s)
  | .bad => ([], 0, s)

/-- LOAD_REQ (R226). -/
def State.doLoadReq (s : State) (k : Packet) : State :=
  let s := s.clearTransit k
  if !headGood k then s
  else
    let c := s.screen k false true
    if c.1 ≠ sOK then c.2.answer k c.1
    else
      let n := k.len + 1
      let g := c.2.packetAccess k aRead n 0
      if g.1 ≠ sOK then g.2.answer k g.1
      else
        let r := g.2.loadBytes k n
        let s := r.2.2.bump R.FAB_CNT_PKT_RX 1
        s.respond k 0x04 sOK (BitVec.ofNat 64 r.2.1) r.1

def execLoadReq (k : Packet) (s : State) : Res :=
  State.whenWf k.wf (k.op == 0x03 && k.dst == s.node) "not a load request for this node" (s.doLoadReq k)

/-- LOAD_RSP (R226): the data reaches the request it answers. A response whose payload is damaged is asked for again. -/
def State.doLoadRsp (s : State) (k : Packet) : State :=
  let s := s.clearTransit k
  if !headGood k then s
  else
    let p := s.payloadGood k
    p.2.answered k.ctx k.src k.seq (if p.1 then k.status else sCRC) 0 k.opnd0 k.payload

def execLoadRsp (k : Packet) (s : State) : Res :=
  State.whenWf k.wf (k.op == 0x04 && k.dst == s.node) "not a load response for this node" (s.doLoadRsp k)

/-! ### Atomics (R228) -/

/-- ATOMIC: applied at the word's memory, counted, and answered with the old value. -/
def State.doAtomicPacket (s : State) (k : Packet) : State :=
  let s := s.clearTransit k
  if !headGood k then s
  else
    let c := s.screen k true true
    if c.1 ≠ sOK then c.2.answer k c.1
    else
      let g := c.2.packetAccess k aAtomic 8 k.opnd0
      if g.1 ≠ sOK then g.2.answer k g.1
      else if k.offset % 8 ≠ 0 then g.2.answer k sADDR
      else
        let r := g.2.atomicDo (targetOf k.space k.offset 8) (k.op - 0x20) k.opnd0 k.opnd1
        let s := r.2.applied k true
        let s := if k.cntEn then s.countCtx k.ctx else s
        s.respond k 0x05 sOK r.1 []

def execAtomic (k : Packet) (s : State) : Res :=
  State.whenWf k.wf (decide (0x20 ≤ k.op) && decide (k.op ≤ 0x27) && k.dst == s.node) "not an atomic for this node"
    (s.doAtomicPacket k)

/-- ATOMIC_RSP (R228). -/
def State.doAtomicRsp (s : State) (k : Packet) : State :=
  let s := s.clearTransit k
  if !headGood k then s else s.answered k.ctx k.src k.seq k.status 0 k.opnd0 []

def execAtomicRsp (k : Packet) (s : State) : Res :=
  State.whenWf k.wf (k.op == 0x05 && k.dst == s.node) "not an atomic response for this node" (s.doAtomicRsp k)

/-- COMPLETION (R216, R229): for a multicast, with its leaf count. -/
def State.doCompletion (s : State) (k : Packet) : State :=
  let s := s.clearTransit k
  if !headGood k then s
  else s.answered k.ctx (if k.mcast then mcDst k.tree else k.src) k.seq k.status k.opnd0.toNat 0 []

def execCompletion (k : Packet) (s : State) : Res :=
  State.whenWf k.wf (k.op == 0x06 && k.dst == s.node) "not a completion for this node" (s.doCompletion k)

/-! ### Notices and management -/

/-- What a CTRL packet says (R178, R201; log 14). -/
def State.ctrlApply (s : State) (k : Packet) : State :=
  let x := k.ctx
  let o := k.opnd0.toNat
  match bitsOf o 0 2 with
  | 0 => match s.rankIn (s.mset (s.ctx x).mset) k.src with
    | none => s
    | some r =>
      let v := s.regatta x
      (s.setRegatta x { v with arrivals := v.arrivals ++ [(bitsOf o 16 16, r, k.opnd1.toNat % 2 ^ 32)] }).regattaCheck x
  | 1 => s.setSlow x
  | 2 => s.clearSlow x
  | _ => s

/-- CTRL (R214): numbered, applied once, and answered. -/
def State.doCtrl (s : State) (k : Packet) : State :=
  let s := s.clearTransit k
  if !headGood k then s
  else
    let c := s.screen k true false
    if c.1 ≠ sOK then c.2.answer k c.1 else ((c.2.ctrlApply k).applied k true).answer k sOK

def execCtrl (k : Packet) (s : State) : Res :=
  State.whenWf k.wf (k.op == 0x07 && k.dst == s.node) "not a CTRL packet for this node" (s.doCtrl k)

/-- MGMT (R214): a message between boathouses arrives and is counted; what it says is the firmware's (log 21). -/
def State.doMgmt (s : State) (k : Packet) : State :=
  let s := s.clearTransit k
  if !headGood k then s
  else
    let p := s.payloadGood k
    if p.1 then (p.2.bump R.FAB_CNT_PKT_RX 1).bump R.FAB_CNT_BYTES_RX k.payload.length else p.2

def execMgmt (k : Packet) (s : State) : Res :=
  State.whenWf k.wf (k.op == 0x10 && k.dst == s.node) "not a management packet for this node" (s.doMgmt k)

/-! ### Collective packets (R246) -/

/-- A packet of a collective: numbered, in its epoch, given to the instance it names, and answered. -/
def State.doCollPacket (s : State) (k : Packet) (epochs : Bool) (act : State → State) : State :=
  let s := s.clearTransit k
  if !headGood k then s
  else
    let c := s.screen k true epochs
    if c.1 ≠ sOK then c.2.answer k c.1 else ((act c.2).applied k true).answer k sOK

/-- COLL_DATA (R245, R246), copied on first where it travels down a tree. -/
def State.doCollData (s : State) (k : Packet) : State :=
  if !k.mcast then s.doCollPacket k true fun s => s.collDataIn k
  else
    let t := s.tree k.tree
    if !headGood k || !t.valid then s.clearTransit k
    else
      let s := s.mcCopies k none t
      let s := ((List.range 16).filter fun p => bitOf t.out p && bitOf t.pruned p).foldl (fun (s : State) p =>
        (s.bump R.FAB_CNT_PRUNED 1).respond k 0x06 sFENCED (BitVec.ofNat 64 (t.desc.getD p 0)) []) s
      if t.deliver then s.doCollPacket k true fun s => s.collDataIn k else s.clearTransit k

def execCollData (k : Packet) (s : State) : Res :=
  State.whenWf k.wf (k.op == 0x08 && (k.dst == s.node || k.mcast)) "not collective data for this node" (s.doCollData k)

def execCollReady (k : Packet) (s : State) : Res :=
  State.whenWf k.wf (k.op == 0x09 && k.dst == s.node) "not a COLL_READY for this node"
    (s.doCollPacket k false fun s => s.collReadyIn k)

def execEpochClose (k : Packet) (s : State) : Res :=
  State.whenWf k.wf (k.op == 0x0A && k.dst == s.node) "not an EPOCH_CLOSE for this node"
    (s.doCollPacket k false fun s => s.epochCloseIn k)

end Sys2Proof.Machine
end

