-- ==== Sys2Proof/Machine/Reset.lean ====
section
/-! DEFINITION. Power domains and their resets (R14, R22, R353): which registers and units a domain holds, and what its
reset leaves. Copybook and palimpsest values are given again after it (R14, R15). -/

namespace Sys2Proof.Machine

open Sys2Proof

/-! ### Copybook and palimpsest values (R14) -/

/-- Put the bits of a mask into a register. -/
def maskPut (old m v : Nat) : Nat := (old - (old &&& m)) ||| (v &&& m)

def State.wrMask (s : State) (a m v : Nat) : State := s.wr a (BitVec.ofNat 64 (maskPut (s.rd a).toNat m v))

/-- Give fields of a register their copybook value, now and after every reset of their domain. -/
def State.cbSet (s : State) (a m v : Nat) : State :=
  let o := s.defaults.get (fun _ => (0, 0)) a
  let s := s.wrMask a m v
  { s with defaults := s.defaults.set (fun _ => (0, 0)) a (o.1 ||| m, maskPut o.2 m v) }

def State.cbField (s : State) (a : Nat) (fld : Nat × Nat) (v : Nat) : State :=
  s.cbSet a (fieldMask fld.1 fld.2) (v % 2 ^ fld.2 * 2 ^ fld.1)

/-- The bits of a register that the palimpsest keeps (R331). -/
def palMask (a : Nat) : Nat :=
  let m (f : Nat × Nat) : Nat := fieldMask f.1 f.2
  match ctlDecode a with
  | some (.clk, _, _) => m F.CLK_CTL_DROOP_MV
  | some (.fab, _, _) => m F.FAB_PORT_CTL_LG_FENCE
  | some (.hbm, _, off) =>
    if off = 0x20 then m F.HBM_PC_REDIR_PC ||| m F.HBM_PC_REDIR_EN
    else if off = 0x28 then m F.HBM_SOFT_REPAIRS_ROWS else 2 ^ 64 - 1
  | _ => 2 ^ 64 - 1

/-- The palimpsest in force: the copy of the active pair's link die (R23), or the other. -/
def State.pal (s : State) : Option Palimpsest := s.pals.findSome? id

/-- Spare rows that remain follow the repaired ones (R331). -/
def State.spareRows (s : State) (k : Nat) : State :=
  let a := R.HBM_SOFT_REPAIRS k
  s.setF a F.HBM_SOFT_REPAIRS_SPARE ((Config.spareRows k).toNat - s.f a F.HBM_SOFT_REPAIRS_ROWS)

/-- Which registers a domain holds, by sub-block and instance. -/
abbrev Domain := Blk → Nat → Bool

def inDomain (dom : Domain) (a : Nat) : Bool :=
  match ctlDecode a with
  | some (b, i, _) => dom b i
  | none => false

/-- Copybook and palimpsest values of a domain's fields are in force again (R14, R333). -/
def State.reapply (s : State) (dom : Domain) : State :=
  let s := (s.defaults.filter fun e => inDomain dom e.1).foldl (fun (s : State) e => s.wrMask e.1 e.2.1 e.2.2) s
  match s.pal with
  | none => s
  | some pl =>
    let put (s : State) (e : Nat × Word) : State := if inDomain dom e.1 then s.wrMask e.1 (palMask e.1) e.2.toNat else s
    let s := if pl.cbDigest = bookDigest s.bh.book then pl.tunable.foldl put s else s
    let s := pl.health.foldl put s
    (List.range 32).foldl (fun (s : State) k => if inDomain dom (R.HBM_SOFT_REPAIRS k) then s.spareRows k else s) s

/-- The registers of a domain take their reset values. -/
def State.resetRegs (s : State) (dom : Domain) : State :=
  ({ s with regs := s.regs.filter fun e => !inDomain dom e.1 }).reapply dom

/-! ### Domains (R22) -/

def coreBlk (b : Blk) : Bool :=
  match b with
  | .cox | .prm | .ae | .eng | .cvu | .flg => true
  | _ => false

def dieDomain (d : Nat) : Domain := fun b i =>
  match b with
  | .str | .clk => i == d
  | .hbm => i / 4 == d
  | b => coreBlk b && i / 32 == d

def clusterDomain (cl : Nat) : Domain := fun b i => coreBlk b && i / 8 == cl

def stackDomain (k : Nat) : Domain := fun b i => b == .scb && i == k

def linkDomain : Domain := fun b _ => b == .fab || b == .ctx || b == .col || b == .eth

def aoDomain : Domain := fun b _ =>
  match b with
  | .bh | .id | .err | .inj | .pwr | .ten | .mnt | .snp | .tel | .pwrd => true
  | _ => false

/-- Drop the entries of a table in a range of keys. -/
def NMap.clearRange {α : Type} (m : NMap α) (lo n : Nat) : NMap α := m.filter fun e => !(decide (lo ≤ e.1) && decide (e.1 < lo + n))

/-- Core units and scratchpads of `n` cores from position p on, as a reset leaves them; what the scratchpads hold is as
before anything was written (log 2). -/
def State.clearCores (s : State) (p n : Nat) : State :=
  { s with
    engines := NMap.clearRange s.engines (3 * p) (3 * n)
    cvus := NMap.clearRange s.cvus p n
    aes := NMap.clearRange s.aes p n
    coxes := NMap.clearRange s.coxes p n
    cores := NMap.clearRange s.cores p n
    spad := NMap.clearRange s.spad (spadKey p 0) (n * 2 ^ 23)
    liftedCores := NMap.clearRange s.liftedCores p n }

/-- The generators of some cores' engines are seeded from SR_SEED (R85). -/
def State.seedEngines (s : State) (p n : Nat) : State :=
  (List.range n).foldl (fun (s : State) i =>
    let seed := s.f (R.ENG_COMPAT (p + i)) F.ENG_COMPAT_SR_SEED
    (List.range 3).foldl (fun (s : State) e =>
      let g := s.eng (engId (p + i) e)
      s.setEng (engId (p + i) e) { g with seed := seed, draws := 0 }) s) s

/-- A cluster that was off has power again: its cores are as after a reset. -/
def State.resetCluster (s : State) (cl : Nat) : State :=
  ((s.clearCores (8 * cl) 8).resetRegs (clusterDomain cl)).seedEngines (8 * cl) 8

/-- The accesses that waited for a die's clock find it without power. -/
def State.dropWaits (s : State) (d : Nat) : State :=
  let l := s.waits.filter fun w => w.die == d
  ({ s with waits := s.waits.filter fun w => w.die != d }).emits
    (l.map fun (w : WaitAccess) => Out.answer w.iss w.off sFENCED 0)

/-- A reset of a compute die's domain (R14, R45). Its stacks' cells and zero maps are not part of it. -/
def State.resetDie (s : State) (d : Nat) : State :=
  let now := (s.die d).now
  let s := s.clearCores (32 * d) 32
  let s := s.setDie d { DieState.init with now := now }
  let s := (List.range 4).foldl (fun (s : State) j =>
    let v := s.stk (4 * d + j)
    s.setStk (4 * d + j) { StackState.init with zmap := v.zmap, bad := v.bad }) s
  let s := (s.dropWaits d).resetRegs (dieDomain d)
  s.seedEngines (32 * d) 32

def State.scribe (s : State) (k : Nat) : Scribe := s.scribes.get (fun _ => Scribe.init) k
def State.setScribe (s : State) (k : Nat) (v : Scribe) : State :=
  { s with scribes := s.scribes.set (fun _ => Scribe.init) k v }

/-- A reset of a stack domain (R263): the generator is seeded from the SEED the register held. -/
def State.resetStack (s : State) (k : Nat) : State :=
  let seed := s.f (R.SCB_CTL k) F.SCB_CTL_SEED
  let s := s.setScribe k { Scribe.init with seed := BitVec.ofNat 32 seed }
  s.resetRegs (stackDomain k)

/-- What a stack's cells hold once it has had no power: as before anything was written (R352; log 2). -/
def State.loseStack (s : State) (k : Nat) : State :=
  { (s.setStk k StackState.init) with
    hbm := NMap.clearRange s.hbm (hbmKey k 0) (2 ^ 36), liftedPcs := NMap.clearRange s.liftedPcs (64 * k) 64 }

/-- A reset of the link-die domain. -/
def State.resetLink (s : State) : State :=
  let c := s.ctxs
  ({ s with fab := Fabric.init, colls := Colls.init, ctxs := { Contexts.init with copyOk := c.copyOk } }).resetRegs linkDomain

/-- The registers an always-on reset leaves while VIN36 stays (R341), and those of the one-time store (R14). -/
def aoKept (sram : Bool) (a : Nat) : Bool :=
  let ring := decide (R.ERR_RING_WSEQ 0 ≤ a) && decide (a ≤ R.ERR_RING_ACK 9)
  let otp := a == R.BH_OWNER || (decide (R.BH_FW 0 ≤ a) && decide (a ≤ R.BH_FW 2))
  (sram && ring) || otp

/-- A reset of the always-on domain, and with it of every domain (R22, R353). The SRAM of the link dies, the flash and
the one-time store keep what they hold where VIN36 stayed. BH_LOST shows that both pairs had been lost (R301). -/
def State.resetAll (s : State) (sram : Bool) : State :=
  let init := State.reset
  let otp := fieldMask F.BH_FW_MIN_SVN.1 F.BH_FW_MIN_SVN.2
  let regs := (s.regs.filter fun e => aoKept sram e.1).map fun e =>
    if e.1 = R.BH_OWNER ∨ (aoKept sram e.1 = true ∧ aoKept false e.1 = false) then e
    else (e.1, BitVec.ofNat 64 (e.2.toNat &&& otp))
  let lost := sram && s.bh.lost
  let t : State := { init with
    pending := s.pending, out := s.out, free := s.free
    regs := regs.filter fun e => e.2 != regReset e.1
    pals := if sram then s.pals else [none, none]
    errs := { Errors.init with recs := if sram then s.errs.recs else [] }
    ten := { Tenancies.init with flash := s.ten.flash, partner := s.ten.partner, shared := s.ten.shared }
    bh := { Boathouse.init with nor := s.bh.nor, owners := s.bh.owners }
    pins := { s.pins with refAt := 0 } }
  if lost then t.setF R.MNT_EVENT F.MNT_EVENT_BH_LOST 1 else t

/-! ### Power -/

/-- A compute die loses or gains power; TEL_RESETSd counts the reset that ends with the power's return. -/
def State.powerDie (s : State) (d : Nat) (on : Bool) : State :=
  let m := BitVec.ofNat 8 (2 ^ d)
  let s := s.resetDie d
  if on then
    let s := { s with power := { s.power with die := s.power.die ||| m } }
    s.setF (R.TEL_RESETS d) F.TEL_RESETS_DIE (s.f (R.TEL_RESETS d) F.TEL_RESETS_DIE + 1)
  else { s with power := { s.power with die := s.power.die &&& ~~~ m } }

/-- A stack loses or gains power, and its contents with the loss. -/
def State.powerStack (s : State) (k : Nat) (on : Bool) : State :=
  let m := BitVec.ofNat 32 (2 ^ k)
  let s := s.resetStack k
  if on then
    let s := { s with power := { s.power with stack := s.power.stack ||| m } }
    s.setF (R.TEL_RESETS (k / 4)) F.TEL_RESETS_STACK (s.f (R.TEL_RESETS (k / 4)) F.TEL_RESETS_STACK + 1)
  else { s.loseStack k with power := { s.power with stack := s.power.stack &&& ~~~ m } }

/-- Is FAULT_N asserted (R353): a shutdown in force, AO_REFCLK missing, or both pairs lost? -/
def State.faultN (s : State) : Bool := s.pins.under || !s.pins.refclk || s.bh.lost

end Sys2Proof.Machine
end

