-- ==== Sys2Proof/Machine/Entry.lean ====
section
/-! DEFINITION. How a write of a control register comes in (R8, R24, R33, R36, R311): it is checked, it may wait for a
clock or for a takeover, and otherwise it acts and is answered. -/

namespace Sys2Proof.Machine

open Sys2Proof

/-- The tenancy of a host's queue pair (R314). -/
def State.hostTen (s : State) (iss : Issuer) : Option Nat :=
  match iss with
  | .host qp _ => (s.ten.qps.look qp).map (·.ten)
  | _ => none

/-- The boathouse serves requests: no takeover is in progress (R24), and not both pairs are lost (R301). -/
def State.bhUp (s : State) : Bool := !s.bh.takeover && !s.bh.lost

/-- The registers whose writes are requests to the boathouse. -/
def serviceReg (off : Nat) : Bool :=
  off == R.SNP_CMD || off == R.MNT_REQ || off == R.MNT_FENCE_REQ || (List.range 8).any fun t => off == R.TEN_T_DOORBELL t

/-- What an access to a register waits for: the clock of its die, where its PLL is stopped (R36), or, as 8, a takeover of
the boathouse (R24; after the loss of both pairs it waits for good, R301). -/
def State.waitsFor (s : State) (off : Nat) : Option Nat :=
  let clock (d : Nat) : Option Nat := if s.f (R.CLK_STAT d) F.CLK_STAT_STOPPED = 1 then some d else none
  if serviceReg off then (if s.bhUp then none else some 8)
  else match ctlDecode off with
  | some (.bh, _, _) => if s.bhUp then none else some 8
  | some (.str, d, _) => clock d
  | some (.clk, d, _) => clock d
  | some (.hbm, k, _) => clock (k / 4)
  | some (b, i, _) => if coreBlk b then clock (i / 32) else none
  | none => none

/-- An access joins those that wait. -/
def State.joinWait (s : State) (d : Nat) (iss : Issuer) (off size : Nat) (v : Option Word)
    (img : Option FwImage := none) : State :=
  { s with waits := s.waits ++ [⟨d, iss, off, size, v, img⟩] }

/-- A write of a register comes in; `act` is its effect once it is let in. Without power nothing answers (R22). -/
def State.ctlIn (s : State) (iss : Issuer) (off size : Nat) (v : Word) (act : State → State)
    (img : Option FwImage := none) : State :=
  if !s.power.ao then s
  else
  let a := s.accessStatus iss (s.hostTen iss) aWrite 2 off size v
  let s := a.2
  if a.1 ≠ sOK then s.emit (.answer iss off a.1 0)
  else match s.waitsFor off with
    | some d => s.joinWait d iss off size (some v) img
    | none => (act s).emit (.answer iss off sOK 0)

/-- May an issuer write RWL fields (R12)? -/
def State.lockOpen (s : State) (iss : Issuer) : Bool := iss == .boathouse || s.f R.BH_LOCK F.BH_LOCK_LOCK == 0

end Sys2Proof.Machine
end

