-- ==== Sys2Proof/Machine/Scribe.lean ====
section
/-! DEFINITION. Scribes (R255 to R279): their records and entries, the update rule, the two passes, release gating and
completion. -/

namespace Sys2Proof.Machine

open Sys2Proof

/-! ### FP32 lanes (R259) -/

def add32 (a b : W32) : W32 := rne32 ((dec32 a).add (dec32 b))
def sub32 (a b : W32) : W32 := rne32 ((dec32 a).add (dec32 b).neg)
def mul32 (a b : W32) : W32 := rne32 ((dec32 a).mul (dec32 b))

/-- A quotient, held to enough bits with a sticky bit that its rounding is exact. -/
def Val.quot : Val → Val → Val
  | .nan, _ => .nan
  | _, .nan => .nan
  | .inf _, .inf _ => .nan
  | .inf a, .fin b _ _ => .inf (a ^^ b)
  | .fin a _ _, .inf b => .fin (a ^^ b) 0 0
  | .fin a m e, .fin b n f =>
    if n = 0 then (if m = 0 then .nan else .inf (a ^^ b))
    else
      let k : Nat := 64 + Nat.log2 n
      let q : Nat := m * 2 ^ k / n
      .fin (a ^^ b) (2 * q + (if m * 2 ^ k % n = 0 then 0 else 1)) (e - f - (k : Int) - 1)

/-- A square root in the same way; of a negative number, NaN. -/
def Val.root : Val → Val
  | .nan => .nan
  | .inf n => if n then .nan else .inf false
  | .fin n m e =>
    if m = 0 then .fin n 0 0
    else if n then .nan
    else
      let h : Nat := if e % 2 = 0 then 0 else 1
      let w : Nat := m * 2 ^ (128 + h)
      let r : Nat := isqrt w
      .fin false (2 * r + (if r * r = w then 0 else 1)) ((e - 128 - (h : Int)) / 2 - 1)

def div32 (a b : W32) : W32 := rne32 ((dec32 a).quot (dec32 b))
def sqrt32 (a : W32) : W32 := rne32 (dec32 a).root

/-- The FP64 layout. -/
def ff64 : FloatFmt := ⟨64, 52, 1023, 2 ^ 53 - 1, 971⟩

def round64 (v : Val) : Val :=
  match v with
  | .fin n m e =>
    let x := roundMag ff64 .nearest m e
    if ff64.over x then .inf n else .fin n x.1 x.2
  | w => w

/-- b^t by binary exponentiation in FP64, from the low bit of t (log 24), rounded once to FP32. -/
def pow32 (b : W32) (t : Nat) : W32 :=
  let r := (List.range (Nat.log2 t + 1)).foldl (fun (a : Val × Val) i =>
    (if t.testBit i then round64 (a.1.mul a.2) else a.1, round64 (a.2.mul a.2))) (.fin false 1 0, dec32 b)
  rne32 r.1

def one32 : W32 := 0x3F800000#32
def finite32 (w : W32) : Bool := match dec32 w with | .fin _ _ _ => true | _ => false
def gt32 (a b : W32) : Bool := (dec32 b).lt (dec32 a)

/-! ### Stack accesses -/

/-- A scribe's read of its stack, tile by tile. -/
def State.stkRead (s : State) (k a n : Nat) : List Byte × State :=
  let s := s.bump (R.SCB_CNT_BYTES_RD k) n
  (tilePieces (n / 8192 + 2) a n).foldl (fun (acc : List Byte × State) (q : Nat × Nat) =>
    let r := (acc.2.countTransfer k q.1 q.2 false).eccRead k q.1 q.2
    (acc.1 ++ r.1, r.2)) ([], s)

/-- A scribe's write of its stack, tile by tile. -/
def State.stkWrite (s : State) (k a : Nat) (bs : List Byte) : State :=
  let s := s.bump (R.SCB_CNT_BYTES_WR k) bs.length
  (tilePieces (bs.length / 8192 + 2) a bs.length).foldl (fun (s : State) (q : Nat × Nat) =>
    (s.countTransfer k q.1 q.2 true).eccWrite k q.1 (slice bs (q.1 - a) q.2)) s

/-- One of a scribe's accesses at a Kensil address of its own node (R256): does it lie in HBM or scratchpad of a die of the
scribe's tenancy, within one window? -/
def State.scribeReach (s : State) (k a n : Nat) : Bool :=
  let t := targetOf (kSpace a) (kOff a) n
  match t with
  | .hbm d _ => (s.tenOfDie d).isSome && s.tenOfDie d == s.tenOfDie (k / 4)
  | .spad p _ => (s.tenOfDie (p / 32)).isSome && s.tenOfDie (p / 32) == s.tenOfDie (k / 4)
  | _ => false

def State.nodeWrite (s : State) (a : Nat) (bs : List Byte) : State :=
  let t := targetOf (kSpace a) (kOff a) bs.length
  if s.fencedTarget t bs.length then s
  else match t with
    | .hbm d l => s.hbmWrite d l bs
    | .spad p o => s.spadWrite p o bs
    | _ => s

/-- A read that meets a fence gives bytes the spec does not fix (log 4). -/
def State.nodeRead (s : State) (a n : Nat) : List Byte × State :=
  let t := targetOf (kSpace a) (kOff a) n
  if s.fencedTarget t n then ((List.range n).map fun i => Config.freeByte 5 (a + i), s)
  else match t with
    | .hbm d l => s.hbmRead d l n
    | .spad p o => (s.spadBytes p o n, s)
    | _ => ([], s)

/-! ### Step records and entries (R260, R264) -/

structure StepRec where
  lr : W32
  beta1 : W32
  beta2 : W32
  eps : W32
  wd : W32
  clipMax : W32
  gscale : W32
  trustMax : W32
  auth : Nat
  nl : Nat
  sumsOut : Nat
  stepsOut : Nat
  sumsIn : Nat
  stepsIn : Nat
  doneAt : Nat
  doneCtx : Nat
deriving DecidableEq, Repr

def parseRec (b : List Byte) : StepRec :=
  let w (o : Nat) : W32 := BitVec.ofNat 32 (fieldAt b o 4)
  let q (o : Nat) : Nat := fieldAt b o 8
  ⟨w 0, w 4, w 8, w 12, w 16, w 20, w 24, w 28, fieldAt b 0x20 4, fieldAt b 0x24 2, q 0x28, q 0x30, q 0x38, q 0x40, q 0x48,
    fieldAt b 0x50 4⟩

/-- Bytes between norm slices, and of one. -/
def StepRec.slice_ (r : StepRec) : Nat := 12 * r.nl
def StepRec.stride (r : StepRec) : Nat := ceilDiv (12 * r.nl) 64 * 64

/-- Are DONE and DONE_CTX valid by themselves? -/
def State.doneOk (s : State) (k : Nat) (r : StepRec) : Bool :=
  s.scribeReach k (r.doneAt + 8 * k) 8 && bitsOf r.doneCtx 20 11 == 0

/-- Does a step record keep R256 and its own ranges (R264)? -/
def State.recOk (s : State) (k : Nat) (b : List Byte) (r : StepRec) : Bool :=
  let unit (v : W32) : Bool := finite32 v && !(dec32 v).lt (.fin false 0 0) && (dec32 v).lt (.fin false 1 0)
  1 ≤ r.nl && r.nl ≤ 4096 && fieldAt b 0x26 2 == 0 && (slice b 0x54 44).all (· == 0) && unit r.beta1 && unit r.beta2 &&
    !(dec32 r.eps).lt (.fin false 0 0) && s.scribeReach k (r.sumsOut + k * r.stride) r.slice_ &&
    s.scribeReach k (r.stepsOut + 24 * k) 24 && s.scribeReach k r.sumsIn (31 * r.stride + r.slice_) &&
    s.scribeReach k r.stepsIn 768 && s.doneOk k r

structure Entry where
  wAt : Nat
  gAt : Nat
  mAt : Nat
  vAt : Nat
  cAt : Nat
  count : Nat
  layer : Nat
  kind : Nat
  flags : Nat
  gfmt : Nat
  cfmt : Nat
  vt : Nat
  step : Nat
  rel : Nat
  relMask : Nat
  lrScale : W32
  rowLen : Nat
  rstepAt : Nat
deriving DecidableEq, Repr

def parseEntry (b : List Byte) : Entry :=
  let q (o : Nat) : Nat := fieldAt b o 8
  ⟨q 0, q 8, q 0x10, q 0x18, q 0x20, fieldAt b 0x28 4, fieldAt b 0x2C 2, fieldAt b 0x2E 1, fieldAt b 0x2F 1, fieldAt b 0x30 1,
    fieldAt b 0x31 1, fieldAt b 0x32 2, fieldAt b 0x34 4, fieldAt b 0x38 2, q 0x40, BitVec.ofNat 32 (fieldAt b 0x48 4),
    fieldAt b 0x4C 4, q 0x50⟩

def Entry.hasWd (e : Entry) : Bool := bitOf e.flags 0
def Entry.hasTrust (e : Entry) : Bool := bitOf e.flags 1
def Entry.hasClip (e : Entry) : Bool := bitOf e.flags 2
def Entry.mfmt (e : Entry) : Nat := bitsOf e.flags 4 1

/-- Does an entry take part in the passes (R260)? -/
def Entry.active (e : Entry) : Bool := e.kind != 0 && !bitOf e.flags 3
def Entry.embed (e : Entry) : Bool := e.kind == 2
def Entry.gBytes (e : Entry) : Nat := if e.gfmt = 0 then 4 else 2
def Entry.rows (e : Entry) : Nat := e.count / e.rowLen
def Entry.mBytes (e : Entry) : Nat := e.count * (1 + e.mfmt)

/-- The touched rows of an embedding (R277): their indices, as its list holds them. -/
def listHead (k : Nat) : Nat := 8 + ceilDiv (4 * k) 64 * 64
def State.touched (s : State) (k : Nat) (e : Entry) : List Nat :=
  let n := leNat (s.hbmBytes k e.gAt 4)
  (List.range n).map fun i => leNat (s.hbmBytes k (e.gAt + 8 + 4 * i) 4)

/-- The regions of an entry: start and length. -/
def State.entryRegions (s : State) (k : Nat) (e : Entry) : List (Nat × Nat) :=
  let n := leNat (s.hbmBytes k e.gAt 4)
  let g := if e.embed then listHead n + n * e.rowLen * e.gBytes else e.count * e.gBytes
  let mv := e.mBytes + e.count / 32
  [(e.wAt, 4 * e.count), (e.gAt, g), (e.mAt, mv), (e.vAt, mv)] ++
    (if e.cfmt = 0 then [] else [(e.cAt, 2 * e.count)]) ++ (if e.embed then [(e.rstepAt, 4 * e.rows)] else [])

/-- Does a region lie in one non-interleaved group of the stack, in granules the running job of its tenancy holds? -/
def State.regionOwn (s : State) (k : Nat) (q : Nat × Nat) : Bool :=
  let j := q.1 / 2 ^ 30
  let held : Bool := match s.tenOfDie (k / 4) with
    | none => false
    | some t => match s.ten.jobs.look (2 * t) with
      | none => false
      | some w => w.grants.any fun g =>
        g.die == k / 4 && decide (g.first ≤ 4 * j + k % 4) && decide (4 * j + k % 4 < g.first + g.count)
  q.2 == 0 || (decide (q.1 + q.2 ≤ (j + 1) * 2 ^ 30) && s.bit (R.HBM_NI_MASK k) j && held)

def State.regionFenced (s : State) (k : Nat) (q : Nat × Nat) : Bool :=
  (tilePieces (q.2 / 8192 + 2) q.1 q.2).any fun p => s.stackClosed k p.1

def regionsMeet : List (Nat × Nat) → Bool
  | [] => false
  | a :: r => (r.any fun b => decide (a.1 < b.1 + b.2) && decide (b.1 < a.1 + a.2)) || regionsMeet r

/-- Are row indices below the row count and in ascending order? -/
def rowsOk (rows : Nat) : List Nat → Bool
  | [] => true
  | [a] => decide (a < rows)
  | a :: b :: r => decide (a < rows) && decide (a ≤ b) && rowsOk rows (b :: r)

/-- The checks of R261 on an entry that takes part: 0, or the cause of SCB_ERR_REC. -/
def State.entryCause (s : State) (k nl : Nat) (b : List Byte) (e : Entry) : Nat :=
  let ats := [e.wAt, e.gAt, e.mAt, e.vAt] ++ (if e.cfmt = 0 then [] else [e.cAt]) ++ (if e.embed then [e.rstepAt] else [])
  let reserved := 2 < e.kind || 2 ^ 5 ≤ e.flags || 1 < e.gfmt || 2 < e.cfmt || fieldAt b 0x3A 6 != 0 || 2 ^ 9 ≤ e.rel ||
    !(slice b 0x58 40).all (· == 0) || (!e.embed && e.rstepAt != 0)
  let size := if e.embed then e.rowLen < 32 || 65536 < e.rowLen || e.rowLen % 32 != 0 || e.count % e.rowLen != 0
    else e.rowLen != 0 || e.count % 64 != 0
  if reserved then 1
  else if ats.any fun a => a % 64 != 0 || 2 ^ 36 ≤ a then 2
  else if size then 6
  else
    let rs := s.entryRegions k e
    if !rs.all fun q => s.regionOwn k q then 3
    else if rs.any fun q => s.regionFenced k q then 4
    else if regionsMeet rs then 5
    else if nl ≤ e.layer then 7
    else if e.embed && e.hasTrust then 8
    else
      let n := leNat (s.hbmBytes k e.gAt 4)
      let pad := (s.hbmBytes k (e.gAt + 8 + 4 * n) (listHead n - 8 - 4 * n)).all (· == 0)
      if e.embed && !(leNat (s.hbmBytes k (e.gAt + 4) 4) == 0 && pad && rowsOk e.rows (s.touched k e)) then 9
      else 0

/-! ### Moments (R262, R263) -/

/-- A moment element's value. -/
def momentVal (mfmt el x : Nat) : W32 :=
  if x = 0xFF then nan32
  else if mfmt = 0 then rne32 ((flush ffE4m3 el (elemVal .e4m3 el)).shift ((x : Int) - 127))
  else rne32 ((ofInt (BitVec.ofNat 16 el).toInt (-14)).shift ((x : Int) - 127))

/-- A magnitude m × 2^e rounded to an integer. -/
def roundInt (r : Rnd) (m : Nat) (e : Int) : Nat :=
  if 0 ≤ e then m * pow2 e
  else
    let sh := pow2 (-e)
    let n := m / sh
    let rem := m % sh
    let up := match r with
      | .nearest => decide (sh < 2 * rem) || (2 * rem == sh && n % 2 == 1)
      | .stochastic b => decide (rem ≠ 0) && decide (b.toNat < rem * 65536 / sh)
    if up then n + 1 else n

/-- One block of 32 moments: the scale byte and the elements. -/
def encMoments (mfmt : Nat) (rnd : Nat → Rnd) (vs : List Val) : Nat × List Nat :=
  if mfmt = 0 then encMxBlock .mxfp8 rnd vs
  else if vs.any fun v => match v with | .fin _ _ _ => false | _ => true then (0xFF, vs.map fun _ => 0)
  else
    let a := vs.foldl (fun (b : Nat × Int) v => match v with
      | .fin _ m e => if dyGt m e b.1 b.2 then (m, e) else b
      | _ => b) (0, 0)
    let x : Int := if a.1 = 0 then -127 else max (-127) (min 127 (a.2 + Nat.log2 a.1))
    ((x + 127).toNat, vs.mapIdx fun i v => match v with
      | .fin n m e =>
        let u := sgn n (roundInt (rnd i) m (e - x + 14))
        (BitVec.ofInt 16 (max (-32768) (min 32767 u))).toNat
      | _ => 0)

/-! ### The update rule (R265, R277, R278) -/

/-- A run of elements the rule is applied to: a dense entry, or one touched row; its first element, its length, the step,
and its gradient, exact and before GSCALE. -/
structure Run where
  first : Nat
  len : Nat
  t : Nat
  grad : List Val
deriving DecidableEq, Repr

/-- Numbers of `n` bytes each. -/
def nums (n : Nat) (b : List Byte) : List Nat := (List.range (b.length / n)).map fun i => fieldAt b (n * i) n

def gradVal (gfmt v : Nat) : Val := if gfmt = 0 then dec32 (BitVec.ofNat 32 v) else elemVal .bf16 v

/-- Neighbouring rows of one index, with their gradient rows' places in the list. -/
def groupRows : List (Nat × Nat) → List (Nat × List Nat)
  | [] => []
  | (r, i) :: l => match groupRows l with
    | (q, is) :: rest => if q = r then (r, i :: is) :: rest else (r, [i]) :: (q, is) :: rest
    | [] => [(r, [i])]

/-- The runs of an entry; `t` is a dense entry's step. -/
def State.runs (s : State) (k : Nat) (e : Entry) (t : Nat) : List Run × State :=
  if !e.embed then
    let g := s.stkRead k e.gAt (e.count * e.gBytes)
    ([⟨0, e.count, t, (nums e.gBytes g.1).map (gradVal e.gfmt)⟩], g.2)
  else
    let rows := s.touched k e
    let s := s.bump (R.SCB_CNT_BYTES_RD k) (listHead rows.length)
    let base := e.gAt + listHead rows.length
    let size := e.rowLen * e.gBytes
    (groupRows rows.zipIdx).foldl (fun (acc : List Run × State) q =>
      let g := q.2.foldl (fun (a : List (List Val) × State) i =>
        let r := a.2.stkRead k (base + i * size) size
        (a.1 ++ [(nums e.gBytes r.1).map (gradVal e.gfmt)], r.2)) ([], acc.2)
      let sum := (List.range e.rowLen).map fun j => sumVals (g.1.map fun row => row.getD j (.fin false 0 0))
      let c := g.2.stkRead k (e.rstepAt + 4 * q.1) 4
      (acc.1 ++ [⟨q.1 * e.rowLen, e.rowLen, leNat c.1 + 1, sum⟩], c.2)) ([], s)

/-- One element's update: its new weight, first moment and root of the second, the scaled gradient before clipping, and
the step u. -/
structure Updated where
  w : W32
  m : W32
  q : W32
  g : W32
  u : W32
  v : W32
deriving DecidableEq, Repr

/-- R265, operation by operation. `b1t` and `b2t` are β^t. -/
def updateElem (r : StepRec) (e : Entry) (b1t b2t c ratio : W32) (graw : Val) (w m q : W32) : Updated :=
  let g0 := rne32 (graw.mul (dec32 r.gscale))
  let g := if e.hasClip then mul32 g0 c else g0
  let v := mul32 q q
  let m := add32 (mul32 r.beta1 m) (mul32 (sub32 one32 r.beta1) g)
  let v := add32 (mul32 r.beta2 v) (mul32 (sub32 one32 r.beta2) (mul32 g g))
  let mh := div32 m (sub32 one32 b1t)
  let vh := div32 v (sub32 one32 b2t)
  let u := div32 mh (add32 (sqrt32 vh) r.eps)
  let u := if e.hasWd then add32 u (mul32 r.wd w) else u
  let w' := sub32 w (mul32 (mul32 (mul32 r.lr e.lrScale) ratio) u)
  ⟨w', m, sqrt32 v, g0, u, v⟩

/-- What a run's elements become; W is read where the pass needs it. -/
def State.updateRun (s : State) (k : Nat) (r : StepRec) (e : Entry) (needW : Bool) (c ratio : W32) (q : Run) :
    List (W32 × Updated) × State :=
  let word (n : Nat) : W32 := BitVec.ofNat 32 n
  let w : List W32 × State := if needW then
      let x := s.stkRead k (e.wAt + 4 * q.first) (4 * q.len)
      ((nums 4 x.1).map word, x.2)
    else (List.replicate q.len 0, s)
  let eb := 1 + e.mfmt
  let arr (s : State) (at_ : Nat) : List W32 × State :=
    let x := s.stkRead k (at_ + eb * q.first) (eb * q.len)
    let y := x.2.stkRead k (at_ + e.mBytes + q.first / 32) (ceilDiv q.len 32)
    ((nums eb x.1).mapIdx fun i v => momentVal e.mfmt v (fieldAt y.1 (i / 32) 1), y.2)
  let m := arr w.2 e.mAt
  let v := arr m.2 e.vAt
  let b1 := pow32 r.beta1 q.t
  let b2 := pow32 r.beta2 q.t
  (q.grad.zipIdx.map fun g =>
    let wi := w.1.getD g.2 0
    (wi, updateElem r e b1 b2 c ratio g.1 wi (m.1.getD g.2 0) (v.1.getD g.2 0)), v.2)

/-- Vector operations of a run are counted (R258). -/
def State.vecOps (s : State) (k n : Nat) : State :=
  let c := ceilDiv n 256
  (s.bump (R.SCB_CNT_VECOPS k) c).energy (k / 4) 13 c

/-- Write a run's results: W, C, and both moments, of its first `n` elements. -/
def State.writeRun (s : State) (k : Nat) (e : Entry) (q : Run) (out : List Updated) : State :=
  let eb := 1 + e.mfmt
  let n := out.length
  let s := s.stkWrite k (e.wAt + 4 * q.first) (out.flatMap fun o => leBytes 4 o.w.toNat)
  let f := if e.cfmt = 1 then Fmt.bf16 else Fmt.fp16
  let s := if e.cfmt = 0 then s
    else s.stkWrite k (e.cAt + 2 * q.first) (out.flatMap fun o => leBytes 2 (encElem f .nearest (dec32 o.w)))
  let sr := s.f (R.SCB_CTL k) F.SCB_CTL_MRND = 1
  let enc (s : State) (at_ : Nat) (vs : List W32) : State :=
    let c := s.scribe k
    let rnd (i : Nat) : Rnd := if sr then .stochastic (Config.generatorBits c.seed.toNat (1024 + k) (c.draws + i)) else .nearest
    let bl := (List.range (ceilDiv n 32)).map fun b =>
      encMoments e.mfmt (fun i => rnd (32 * b + i)) ((slice vs (32 * b) 32).map dec32)
    let s := s.setScribe k { c with draws := c.draws + (if sr then n else 0) }
    let s := s.stkWrite k (at_ + eb * q.first) (bl.flatMap fun b => b.2.flatMap fun v => leBytes eb v)
    s.stkWrite k (at_ + e.mBytes + q.first / 32) (bl.map fun b => BitVec.ofNat 8 b.1)
  enc (enc s e.mAt (out.map (·.m))) e.vAt (out.map (·.q))

/-- Pass 2 of one entry (R270, R278): its elements in order, at most `limit` of them, and, where all are done, its step
counters. -/
def State.updateEntry (s : State) (k : Nat) (r : StepRec) (i : Nat) (e : Entry) (limit : Option Nat) : State :=
  let c := s.scribe k
  let t := match c.adopt with | some t => t | none => e.step + 1
  let ratio := if e.hasTrust then c.ratios.getD e.layer one32 else one32
  let rs := s.runs k e t
  let step (acc : State × Nat) (q : Run) : State × Nat :=
    let left := match limit with | some n => n - acc.2 | none => q.len
    let n := min left q.len
    if n = 0 then acc
    else
      let u := acc.1.updateRun k r e true c.clip ratio q
      let s := u.2.writeRun k e q ((u.1.take n).map (·.2))
      let s := (s.vecOps k n).bump (R.SCB_CNT_ELEM k) n
      let s := if e.embed && n == q.len then
          (s.stkWrite k (e.rstepAt + 4 * (q.first / e.rowLen)) (leBytes 4 q.t)).bump (R.SCB_CNT_ROWS k) 1 else s
      (s, acc.2 + n)
  let s := (rs.1.foldl step (rs.2, 0)).1
  match limit with
  | some _ => s
  | none =>
    let table := s.f (R.SCB_TABLE k) F.SCB_TABLE_TABLE_ADDR
    s.stkWrite k (table + 128 * i + 0x34) (leBytes 4 t)

/-! ### Passes (R267 to R272) -/

/-- A cell that a norm sum is gathered in, one squared element at a time (R266; log 24). -/
abbrev SumCell := W32 × W32
def SumCell.add (c : SumCell) (t : W32) : SumCell :=
  let o := cellAdd c.1 c.2 (dec32 t)
  (o.s, o.e)
def SumCell.out (c : SumCell) : W32 := rne32 (cellVal c.1 c.2)

/-- What pass 1 gathers: for each layer G2, W2 and U2; whether every value was finite. -/
structure P1Sum where
  g2 : NMap SumCell
  w2 : NMap SumCell
  u2 : NMap SumCell
  ok : Bool
deriving DecidableEq, Repr

def cellZero : Nat → SumCell := fun _ => (0, 0)
def sumInto (m : NMap SumCell) (l : Nat) (vs : List W32) : NMap SumCell :=
  m.set cellZero l (vs.foldl (fun c v => SumCell.add c (mul32 v v)) (m.get cellZero l))

/-- Pass 1 of one entry. -/
def State.measure (s : State) (k : Nat) (r : StepRec) (e : Entry) (acc : P1Sum) : P1Sum × State :=
  let rs := s.runs k e (e.step + 1)
  rs.1.foldl (fun (a : P1Sum × State) q =>
    let u := a.2.updateRun k r e (e.hasWd || e.hasTrust) one32 one32 q
    let s := u.2.vecOps k q.len
    let us := u.1
    let fin := us.all fun x => finite32 x.1 && finite32 x.2.g && finite32 x.2.m && finite32 x.2.v && finite32 x.2.u
    let p := a.1
    let p := { p with ok := p.ok && fin }
    let p := if e.hasClip then { p with g2 := sumInto p.g2 e.layer (us.map fun x => x.2.g) } else p
    let p := if e.hasTrust then
        { p with w2 := sumInto p.w2 e.layer (us.map (·.1)), u2 := sumInto p.u2 e.layer (us.map fun x => x.2.u) } else p
    (p, s)) (acc, rs.2)

/-- The first entry that fails, or the one that waits too long, is kept in SCB_ERR_REC. -/
def State.scribeErr (s : State) (k i cause : Nat) : State :=
  let a := R.SCB_ERR_REC k
  if s.f a F.SCB_ERR_REC_VALID = 1 then s
  else ((s.setF a F.SCB_ERR_REC_ENTRY i).setF a F.SCB_ERR_REC_CAUSE cause).setF a F.SCB_ERR_REC_VALID 1

/-- A record of detector SCRIBE_PASS (R342); only RELEASE_TIMEOUT is of class R. -/
def State.scribeRecord (s : State) (k status entry : Nat) (inj : Bool) (cause : Nat := 7) : State :=
  let o := { occ 0x32 kScribe k status entry with cls := if status = 7 then some 2 else none }
  s.record (if inj then s.injected o else o) cause

/-- A pass's work is done with a status. -/
def State.passEnd (s : State) (k status : Nat) : State :=
  s.setScribe k { s.scribe k with result := some status, left := [], waits := none }

abbrev pOK := 0
abbrev pSKEW := 1
abbrev pADOPTED := 2
abbrev pNONFINITE := 3
abbrev pBADENTRY := 4
abbrev pSHARD := 5
abbrev pORDER := 6
abbrev pTIMEOUT := 7
abbrev pCANCELLED := 8
abbrev pBADREC := 9

/-- The entries of the store. -/
def Scribe.entries (c : Scribe) : List (Entry × Nat) := (c.store.map parseEntry).zipIdx

/-- PASS_1's work (R261, R266 to R268): the entry store is read, each entry that takes part is checked and measured, and
the slices are written. -/
def State.runPass1 (s : State) (k : Nat) (r : StepRec) : State :=
  let table := s.f (R.SCB_TABLE k) F.SCB_TABLE_TABLE_ADDR
  let n := s.f (R.SCB_TABLE k) F.SCB_TABLE_NENT
  let t := s.stkRead k table (128 * n)
  let store := (List.range n).map fun i => slice t.1 (128 * i) 128
  let s := t.2.setScribe k { t.2.scribe k with store := store }
  let es := ((s.scribe k).entries).filter fun e => e.1.active
  let bad := es.filterMap fun e =>
    let c := s.entryCause k r.nl (store.getD e.2 []) e.1
    if c = 0 then none else some (e.2, c)
  let i := s.inject 0x32 kScribe k
  let s := i.2
  let inj := match i.1 with | some syn => syn % 256 == pBADENTRY | none => false
  let s := bad.foldl (fun (s : State) b => (s.scribeErr k b.1 b.2).scribeRecord k pBADENTRY b.1 false) s
  let s := if inj then s.scribeRecord k pBADENTRY 0 true else s
  let s := if inj || !bad.isEmpty then s.setF (R.SCB_EVENT k) F.SCB_EVENT_BAD_ENTRY 1 else s
  let good := es.filter fun e => !bad.any fun b => b.1 == e.2
  let m := good.foldl (fun (a : P1Sum × State) e => a.2.measure k r e.1 a.1) (⟨[], [], [], true⟩, s)
  let s := m.2
  let p := m.1
  let word (c : NMap SumCell) (l : Nat) : List Byte := leBytes 4 (SumCell.out (c.get cellZero l)).toNat
  let norm := (List.range r.nl).flatMap fun l => word p.g2 l ++ word p.w2 l ++ word p.u2 l
  let steps := es.map fun e => e.1.step
  let low := match steps with | [] => 2 ^ 64 - 1 | a :: l => l.foldl min a
  let top := match steps with | [] => 2 ^ 64 - 1 | a :: l => 2 ^ 64 - 1 - l.foldl max a
  let j := s.inject 0x31 kScribe k
  let low := if j.1.isSome then low - 1 else low
  let health := if inj || !bad.isEmpty then 0 else if p.ok then 2 else 1
  let s := j.2.nodeWrite (r.sumsOut + k * r.stride) norm
  let s := s.nodeWrite (r.stepsOut + 24 * k) (leBytes 8 low ++ leBytes 8 top ++ leBytes 8 health)
  let s := s.setScribe k { s.scribe k with done := good.length }
  let s := s.setF (R.SCB_STAT k) F.SCB_STAT_DONE_ENTRIES good.length
  s.passEnd k (if inj || !bad.isEmpty then pBADENTRY else pOK)

/-- The trust ratio of a layer from its reduced sums (R266). -/
def trustRatio (r : StepRec) (w2 u2 : W32) : W32 :=
  if (dec32 w2).isZero || (dec32 u2).isZero then one32
  else
    let v := div32 (sqrt32 w2) (sqrt32 u2)
    if gt32 r.trustMax 0 && gt32 v r.trustMax then r.trustMax else v

/-- PASS_2's decision (R266, R269): the reduced slices are read, and the first rule that applies settles the pass. -/
def State.runPass2 (s : State) (k : Nat) (r : StepRec) : State :=
  let a := s.nodeRead r.sumsIn (31 * r.stride + r.slice_)
  let b := a.2.nodeRead r.stepsIn 768
  let s := b.2
  let st (p w : Nat) : Nat := fieldAt b.1 (24 * p + 8 * w) 8
  let least (w : Nat) : Nat := (List.range 32).foldl (fun m p => min m (st p w)) (2 ^ 64 - 1)
  let tmin := least 0
  let tmax := 2 ^ 64 - 1 - least 1
  let h := least 2
  let sum (l w : Nat) : W32 := SumCell.out ((List.range 32).foldl (fun c p =>
    SumCell.add c (BitVec.ofNat 32 (fieldAt a.1 (p * r.stride + 12 * l + 4 * w) 4))) (0, 0))
  let ls := List.range r.nl
  let n := sqrt32 (SumCell.out (ls.foldl (fun c l => SumCell.add c (sum l 0)) (0, 0)))
  let fin := finite32 n && ls.all fun l => finite32 (sum l 1) && finite32 (sum l 2)
  let s := s.wr (R.SCB_LAST_STEPS k) (BitVec.ofNat 64 (tmin % 2 ^ 32 + tmax % 2 ^ 32 * 2 ^ 32))
  let ev (f : Nat × Nat) (s : State) : State := s.setF (R.SCB_EVENT k) f 1
  let skewed := decide (tmin < tmax)
  let adopt := s.f (R.SCB_CTL k) F.SCB_CTL_SKEW_ADOPT = 1
  if h = 0 then (ev F.SCB_EVENT_SHARD_ERROR s).passEnd k pSHARD
  else if h = 1 ∨ fin = false then ((ev F.SCB_EVENT_NONFINITE s).scribeRecord k pNONFINITE 0 false).passEnd k pNONFINITE
  else if skewed ∧ ¬ adopt then
    let s := (ev F.SCB_EVENT_STEP_SKEW s).bump (R.SCB_CNT_SKEW k) 1
    (s.record (occ 0x31 kScribe k tmin tmax)).passEnd k pSKEW
  else
    let s := if skewed then (ev F.SCB_EVENT_ADOPTED s).bump (R.SCB_CNT_SKEW k) 1 else s
    let clip := if gt32 r.clipMax 0 && gt32 n r.clipMax then div32 r.clipMax n else one32
    let c := s.scribe k
    let left := (c.entries.filter fun e => e.1.active).map (·.2)
    let s := s.setScribe k { c with
      adopt := if skewed then some (r.auth + 1) else none
      clip := clip
      ratios := ls.map fun l => trustRatio r (sum l 1) (sum l 2)
      left := left }
    if left.isEmpty then s.passEnd k (if skewed then pADOPTED else pOK) else s

/-- A pass command is taken (R264, R272): the step record is read and the pass begins. -/
def State.beginPass (s : State) (k op at_ : Nat) : State :=
  let b := s.stkRead k at_ 128
  let s := b.2
  let r := parseRec b.1
  let valid := s.f (R.SCB_STAT k) F.SCB_STAT_P1_VALID = 1
  let a := R.SCB_STAT k
  let s := (s.setF a F.SCB_STAT_BUSY 1).setF a F.SCB_STAT_PASS (op - 1)
  let s := (s.setF a F.SCB_STAT_DONE_ENTRIES 0).setF a F.SCB_STAT_ENTRY 0
  let s := s.setScribe k { s.scribe k with
    op := op, recAt := at_, left := [], cur := none, adopt := none, result := none, done := 0, waits := none }
  if op = 2 ∧ ¬ valid then s.passEnd k pORDER
  else
    let bad := at_ % 64 != 0 || !s.recOk k b.1 r
    let armed := s.f (R.INJ_P_CTL 0x32) F.INJ_P_CTL_ARM = 1 ∧ s.f (R.INJ_P_CTL 0x32) F.INJ_P_CTL_SYN % 256 = pBADREC
    let i : Option Nat × State := if armed then s.inject 0x32 kScribe k else (none, s)
    let s := i.2
    if bad || i.1.isSome then
      let s := (s.setF (R.SCB_EVENT k) F.SCB_EVENT_BAD_RECORD 1).scribeRecord k pBADREC 0 i.1.isSome
      s.passEnd k pBADREC
    else if op = 1 then s.runPass1 k r
    else (s.setF a F.SCB_STAT_P1_VALID 0).runPass2 k r

/-- A write of SCB_PASS with a pass in OP (R272, R279). -/
def State.passCommand (s : State) (k op at_ : Nat) : State :=
  if s.f (R.SCB_STAT k) F.SCB_STAT_BUSY = 1 then s.setF (R.SCB_EVENT k) F.SCB_EVENT_PASS_REJECT 1
  else if (s.scribe k).patching then s.setScribe k { s.scribe k with queued := some (op, at_) }
  else s.beginPass k op at_

def passWord (op at_ : Nat) : Word := BitVec.ofNat 64 (at_ % 2 ^ 36 + op * 2 ^ 36)

/-- PASS_1 (R268). -/
def execPass1 (iss : Issuer) (k : Stk) (at_ : Nat) (s : State) : Res :=
  .next (s.ctlIn iss (R.SCB_PASS k) 8 (passWord 1 at_) fun s => s.passCommand k 1 (at_ % 2 ^ 36))

/-- PASS_2 (R269). -/
def execPass2 (iss : Issuer) (k : Stk) (at_ : Nat) (s : State) : Res :=
  .next (s.ctlIn iss (R.SCB_PASS k) 8 (passWord 2 at_) fun s => s.passCommand k 2 (at_ % 2 ^ 36))

/-! ### Entries and releases (R270, R273 to R275) -/

/-- The step record of the pass a scribe runs. -/
def State.stepRec (s : State) (k : Nat) : StepRec := parseRec (s.hbmBytes k (s.scribe k).recAt 128)

/-- Does an entry's release hold? -/
def State.released (s : State) (k : Nat) (e : Entry) : Bool :=
  let p := 32 * (k / 4) + bitsOf e.rel 0 5
  let n := bitsOf e.rel 5 4
  let w := (s.rd (R.FLG_STATE p n)).toNat
  let po := (s.rd (R.FLG_POISON p n)).toNat
  e.relMask &&& (w - (w &&& po)) == e.relMask

/-- The lowest entry not yet done whose release holds. -/
def State.nextEntry (s : State) (k : Nat) : Option (Nat × Entry) :=
  let c := s.scribe k
  c.left.findSome? fun i =>
    let e := parseEntry (c.store.getD i [])
    if s.released k e then some (i, e) else none

/-- The entry in progress is finished (R269). -/
def State.finishEntry (s : State) (k : Nat) : State :=
  let c := s.scribe k
  match c.cur with
  | none => s
  | some i =>
    let s := s.updateEntry k (s.stepRec k) i (parseEntry (c.store.getD i [])) none
    let s := s.setScribe k { s.scribe k with cur := none, done := c.done + 1 }
    s.setF (R.SCB_STAT k) F.SCB_STAT_DONE_ENTRIES (c.done + 1)

/-- The scribe waits no longer. -/
def State.endWait (s : State) (k : Nat) : State :=
  let c := s.scribe k
  match c.waits with
  | none => s
  | some t =>
    let s := (s.setScribe k { c with waits := none }).setF (R.SCB_STAT k) F.SCB_STAT_WAIT_RELEASE 0
    s.bump (R.SCB_CNT_REL_WAIT_NS k) (40 * (s.time - t))

/-- An entry starts: its release flags are cleared and its version advances (R252, R270, R274). -/
def State.startEntry (s : State) (k i : Nat) (e : Entry) : State :=
  let s := s.endWait k
  let p := 32 * (k / 4) + bitsOf e.rel 0 5
  let n := bitsOf e.rel 5 4
  let s := (List.range 64).foldl (fun (s : State) j =>
    if bitOf e.relMask j then s.landClear p (64 * n + j) (s.die (k / 4)).now 0 false else s) s
  let s := if e.vt = 0xFFFF then s
    else
      let v := s.vtEntry e.vt
      s.setVt e.vt { v with version := if v.version = 2 ^ 32 - 1 then 1 else v.version + 1 }
  let c := s.scribe k
  let left := c.left.filter (· != i)
  let s := s.setScribe k { c with
    cur := some i
    left := left
    result := if left.isEmpty then some (if c.adopt.isSome then pADOPTED else pOK) else none }
  s.setF (R.SCB_STAT k) F.SCB_STAT_ENTRY i

/-- Requests of reads that were at the stack before an update may write (R252). -/
def State.readsPending (s : State) (k : Nat) : Bool :=
  match (s.scribe k).cur with
  | none => false
  | some i =>
    let e := parseEntry ((s.scribe k).store.getD i [])
    let rs := s.entryRegions k e
    (s.stk k).queues.any fun q => q.2.any fun b =>
      b.wr.isNone && rs.any fun g => decide (g.1 < b.addr + b.len) && decide (b.addr < g.1 + g.2)

/-- The scribe ends the entry in progress and takes the lowest released one, or begins to wait (R273). -/
def State.doEntry (s : State) (k : Nat) : State :=
  let s := s.finishEntry k
  match s.nextEntry k with
  | some (i, e) => s.startEntry k i e
  | none =>
    let c := s.scribe k
    match c.waits with
    | some _ => s
    | none => (s.setScribe k { c with waits := some s.time }).setF (R.SCB_STAT k) F.SCB_STAT_WAIT_RELEASE 1

/-- SCRIBE_ENTRY_START (R273, R274). -/
def execScribeEntryStart (k : Stk) (s : State) : Res :=
  let c := s.scribe k
  State.when (c.op == 2 && c.result.isNone && !c.held && !c.left.isEmpty && !s.readsPending k &&
      (c.cur.isSome || (s.nextEntry k).isSome || c.waits.isNone)) "the scribe has no entry to choose" (s.doEntry k)

/-- The release watchdog expires (R275). -/
def State.doReleaseExpire (s : State) (k : Nat) (inj : Bool) : State :=
  let c := s.scribe k
  let i := c.left.headD 0
  let s := (s.endWait k).setF (R.SCB_EVENT k) F.SCB_EVENT_RELEASE_TIMEOUT 1
  ((s.scribeErr k i 10).passEnd k pTIMEOUT).scribeRecord k pTIMEOUT i inj 4

/-- RELEASE_WATCHDOG_EXPIRE. An armed point of detector 0x32 with SYN TIMEOUT expires it at once. -/
def execReleaseWatchdogExpire (k : Stk) (s : State) : Res :=
  let c := s.scribe k
  let armed := s.f (R.INJ_P_CTL 0x32) F.INJ_P_CTL_SYN % 256 == pTIMEOUT
  let i := if armed then s.inject 0x32 kScribe k else (none, s)
  let late : Bool := match c.waits with
    | some t => decide (t + s.f (R.SCB_REL_WD k) F.SCB_REL_WD_LIMIT ≤ s.time)
    | none => false
  State.when (c.op == 2 && c.result.isNone && (i.1.isSome || (late && (s.nextEntry k).isNone)))
    "no release watchdog has run out" (i.2.doReleaseExpire k i.1.isSome)

/-! ### Completion and interruptions (R271, R279) -/

/-- The completion word and the count (R271); the context's record is at hand. -/
def State.doPassComplete (s : State) (k status : Nat) : State :=
  let s := s.finishEntry k
  let c := s.scribe k
  let r := s.stepRec k
  let w := status + (c.op - 1) * 2 ^ 8 + c.done * 2 ^ 32
  let ok := s.doneOk k r
  let s := if ok then s.nodeWrite (r.doneAt + 8 * k) (leBytes 8 w) else s
  let x := r.doneCtx % 2 ^ 20
  let s := if ok && bitOf r.doneCtx 31 && (s.ctx x).alloc then s.countCtx x else s
  let s := s.wr (R.SCB_LAST k) (BitVec.ofNat 64 (status + (c.op - 1) * 2 ^ 8 + 2 ^ 9 + c.done * 2 ^ 32))
  let a := R.SCB_STAT k
  let s := s.setF a F.SCB_STAT_BUSY 0
  let s := if c.op = 1 ∧ status ≠ pBADREC then s.setF a F.SCB_STAT_P1_VALID 1 else s
  let s := s.bump (if c.op = 1 then R.SCB_CNT_PASS1 k else R.SCB_CNT_PASS2 k) 1
  s.setScribe k { s.scribe k with op := 0, result := none }

/-- The context a pass counts on, with its record loaded (R230, R271). -/
def State.passCtx (s : State) (k : Nat) : Option State :=
  let r := s.stepRec k
  if bitOf r.doneCtx 31 then s.ctxNeed (r.doneCtx % 2 ^ 20) else some s

/-- SCRIBE_PASS_COMPLETE. -/
def execScribePassComplete (k : Stk) (s : State) : Res :=
  match (s.scribe k).result, s.passCtx k with
  | some status, some t =>
    State.when (!(s.scribe k).held && !s.readsPending k) "the scribe is held, or a read is in progress" (t.doPassComplete k status)
  | _, _ => .refused (.notEnabled "no pass is complete")

/-- A job reset stops a pass at a group of 256 elements, which the spec does not fix (R279; log 4). -/
def State.cancelScribe (s : State) (k : Nat) : State :=
  let c := s.scribe k
  if c.op = 0 then s
  else
    let n := s.tick
    let s := match c.cur with
      | some i => n.2.updateEntry k (s.stepRec k) i (parseEntry (c.store.getD i [])) (some (256 * Config.freeBits n.1))
      | none => s
    let s := s.endWait k
    let a := R.SCB_STAT k
    let s := ((s.setF a F.SCB_STAT_BUSY 0).setF a F.SCB_STAT_HELD 0).setF (R.SCB_EVENT k) F.SCB_EVENT_CANCELLED 1
    let s := s.wr (R.SCB_LAST k) (BitVec.ofNat 64 (pCANCELLED + (c.op - 1) * 2 ^ 8 + 2 ^ 9 + c.done * 2 ^ 32))
    s.setScribe k { s.scribe k with op := 0, result := none, left := [], cur := none, held := false }

/-- A snapshot stop holds a scribe at its next entry boundary, and its end lets it go on (R279). -/
def State.holdScribe (s : State) (k : Nat) : State :=
  if (s.scribe k).op = 0 then s
  else
    let s := s.finishEntry k
    (s.setScribe k { s.scribe k with held := true }).setF (R.SCB_STAT k) F.SCB_STAT_HELD 1

def State.freeScribe (s : State) (k : Nat) : State :=
  (s.setScribe k { s.scribe k with held := false }).setF (R.SCB_STAT k) F.SCB_STAT_HELD 0

/-- The scribes of a tenancy's dies. -/
def State.scribesOf (s : State) (t : Nat) : List Nat := (s.diesOf t).flatMap fun d => (List.range 4).map (4 * d + ·)

end Sys2Proof.Machine
end

