-- ==== Sys2Proof/Machine/JobRec.lean ====
section
/-! DEFINITION. Jobs as their status records show them (R304, R307, R310): the mailbox, the records, and a job's end. -/

namespace Sys2Proof.Machine

open Sys2Proof

abbrev phNone := 0
abbrev phReceived := 1
abbrev phChecking := 2
abbrev phAdmitted := 3
abbrev phLoaded := 4
abbrev phRunning := 5
abbrev phEnded := 6
abbrev phRejected := 7

/-- The job of a tenancy's slot: 0 the running one, 1 the staged one. -/
def State.job (s : State) (t slot : Nat) : Option Job := s.ten.jobs.look (2 * t + slot)

def State.setJob (s : State) (t slot : Nat) (j : Job) : State :=
  { s with ten := { s.ten with jobs := s.ten.jobs.ins (2 * t + slot) j } }

def State.dropJob (s : State) (t slot : Nat) : State :=
  { s with ten := { s.ten with jobs := s.ten.jobs.del (2 * t + slot) } }

/-- A slot holds a job: one that was not rejected. -/
def State.hasJob (s : State) (t slot : Nat) : Bool :=
  match s.job t slot with
  | some j => j.phase != phRejected
  | none => false

/-- A job status record (R307). -/
def Job.record (j : Job) (ctxBase : Nat) : List Byte :=
  leBytes 1 j.seq ++ leBytes 1 j.phase ++ leBytes 1 j.status ++ leBytes 1 j.err.1 ++ leBytes 2 j.err.2.1 ++
    leBytes 1 j.err.2.2.1 ++ leBytes 1 0 ++ leBytes 4 j.err.2.2.2 ++ leBytes 4 (if j.phase = phEnded then j.endCode.getD 0 else 0) ++
    (j.jobId ++ List.replicate 16 0).take 16 ++ leBytes 4 ctxBase ++ List.replicate 28 0

/-- The mailbox of a tenancy: its die and die-local offset (R307). -/
def State.mailbox (s : State) (t : Nat) : Nat × Nat :=
  (s.f (R.TEN_T_MBOX t) F.TEN_T_MBOX_DIE, s.f (R.TEN_T_MBOX t) F.TEN_T_MBOX_OFFSET)

/-- Bytes of the package area (R307). -/
def State.packageRoom (s : State) (t : Nat) : Nat := 2 ^ 30 * (s.f (R.TEN_T_CFG t) F.TEN_T_CFG_MBOX_GIB + 1) - 0x10000

def phaseFld (slot : Nat) : Nat × Nat := if slot = 0 then F.TEN_T_STAT_PHASE0 else F.TEN_T_STAT_PHASE1

/-- A slot's record is written: bytes 0x08 to 0x3F, then the word at 0 (R307), and TEN_Tt_STAT shows its phase. -/
def State.writeRecord (s : State) (t slot phase : Nat) (bs : List Byte) : State :=
  let m := s.mailbox t
  let s := (s.hbmWrite m.1 (m.2 + 64 * slot + 8) (bs.drop 8)).hbmWrite m.1 (m.2 + 64 * slot) (bs.take 8)
  s.setF (R.TEN_T_STAT t) (phaseFld slot) phase

/-- A job is as given, and its record shows it. -/
def State.putJob (s : State) (t slot : Nat) (j : Job) : State :=
  (s.setJob t slot j).writeRecord t slot j.phase (j.record (s.f (R.TEN_T_CTX t) F.TEN_T_CTX_CTX_BASE))

/-- A slot without a job reads PHASE NONE and the doorbell's SEQ. -/
def State.emptySlot (s : State) (t slot seq : Nat) : State :=
  (s.dropJob t slot).writeRecord t slot phNone (leBytes 64 seq)

/-- Does a heat of a tenancy run on one of its dies, or has one been chosen there? -/
def State.tenRuns (s : State) (t : Nat) : Bool := (s.diesOf t).any fun d => (s.die d).run.isSome

/-- A job that has been told to end is ENDED once its heats have finished and it is not in recovery (R310). -/
def State.settleEnd (s : State) (t : Nat) : State :=
  match s.job t 0 with
  | none => s
  | some j =>
    if j.phase = phRunning ∧ j.endCode.isSome = true ∧ ¬ s.tenRuns t ∧
        (s.jobState t = jRunning ∨ s.jobState t = jPreempted) then
      s.putJob t 0 { j with phase := phEnded }
    else s

/-- The same for the tenancy of a die. -/
def State.settleDie (s : State) (d : Nat) : State :=
  match s.tenOfDie d with
  | some t => s.settleEnd t
  | none => s

/-- A write reaches TEN_Tt_JOB_END (R310): running heats end with their present replay's patch window, and, outside
recovery, the job is ended with the last of them. -/
def State.doJobEnd (s : State) (t code : Nat) : State :=
  match s.job t 0 with
  | none => s
  | some j =>
    if j.phase = phRunning ∧ j.endCode.isNone = true then
      ((s.setJob t 0 { j with endCode := some code }).endHeats t).settleEnd t
    else s

end Sys2Proof.Machine
end

