-- ==== Sys2Proof/Machine/Heat.lean ====
section
/-! DEFINITION. Heats (R153, R154, R162 to R172, R175): posts and the ready set, gates and their watchdogs, the choice, the
start, replays and their patch windows, the end, and forecasts. -/

namespace Sys2Proof.Machine

open Sys2Proof

/-! ### Posts and the ready set (R165, R166, R201, R203) -/

/-- The watchdogs of a heat's gates as it enters the ready set: their limits, extended where a context they name is slow,
and the generation of a regatta gate, which opens unless one is open. -/
def State.gateWatches (s : State) (h : HeatDef) : List GateWatch × State :=
  h.gates.foldl (fun (acc : List GateWatch × State) g =>
    let s := acc.2
    let slow := (g.kind == 3 || g.kind == 6) && (s.ctx g.ctx).slow
    let base := if g.watchdog = 0 then s.wdDefault else g.watchdog
    let limit := if slow then base * s.f R.PWR_POLICY F.PWR_POLICY_SLOW_FACTOR else base
    let r : Nat × State := if g.kind = 6 then s.regattaOpen g.ctx else (0, s)
    (acc.1 ++ [⟨limit, true, slow, r.1⟩], r.2)) ([], s)

/-- A post enters the ready set of its die. -/
def State.enterReady (s : State) (p heat x : Nat) (h : HeatDef) : State :=
  let d := dieOf p
  let w := s.gateWatches h
  let s := w.2
  let v := s.die d
  let e : ReadyEntry := ⟨heat, h.vdie, (s.tenOfDie d).getD 0, h.cls, p, x, s.time, w.1, false⟩
  (s.setDie d { v with ready := v.ready ++ [e] }).releasePoisoned d

/-- Posts that wait for a full ready set enter it as entries leave. -/
def State.admitPosts (s : State) (d x : Nat) : State :=
  (s.die d).postWait.foldl (fun (s : State) q =>
    let v := s.die d
    if 64 ≤ v.ready.length then s
    else
      let s := s.setDie d { v with postWait := v.postWait.drop 1 }
      match s.heatDef d q.2.1 with
      | some h => s.enterReady q.1 q.2.1 x h
      | none => s) s

/-- A write to COX_HEAT_POST of a core, in cycle x (R165). `cox` says that the core's cox stores it. -/
def State.doPost (s : State) (p heat x : Nat) (cox : Bool) : State :=
  let d := dieOf p
  let i := s.inject 0x2A kDie d
  let s := i.2
  let bad (inj : Bool) : State :=
    let s := s.setF (R.STR_EVENT d) F.STR_EVENT_BAD_POST 1
    let o := occ 0x2A kDie d heat (p % 32)
    s.record (if inj then s.injected o else o)
  if i.1.isSome then bad true
  else match s.heatDef d heat with
    | none => bad false
    | some h =>
      let s := s.admitPosts d x
      let v := s.die d
      if 64 ≤ v.ready.length then
        (s.setDie d { v with postWait := v.postWait ++ [(p, heat, cox)] }).setF (R.STR_EVENT d) F.STR_EVENT_POST_STALL 1
      else s.enterReady p heat x h

/-! ### Gates (R164, R167, R191, R192, R197) -/

/-- The VALUE of a gate: its own, or the low half of a PRM. -/
def State.gateValue (s : State) (d : Nat) (g : Gate) : Nat :=
  if g.valPrm then s.prm (s.gateCore d g) g.prm % 2 ^ 32 else g.value

/-- Does a gate hold? -/
def State.gateHolds (s : State) (d : Nat) (g : Gate) (gen : Nat) : Bool :=
  let p := s.gateCore d g
  match g.kind with
  | 1 => s.flag p g.sel
  | 2 => s.flag p g.sel
  | 3 => decide (s.gateValue d g ≤ (s.ctx g.ctx).count)
  | 4 => decide (s.gateValue d g ≤ (s.tq p (g.sel % 8)).occ)
  | 5 => bitOf (s.f (R.COX_GATE p) F.COX_GATE_GATE) (g.sel % 32)
  | 6 => (s.regatta g.ctx).openGen != some gen
  | _ => true

/-- Is a ready heat eligible in cycle x: every gate holds, and its job runs (R167, R280, R282)? -/
def State.eligible (s : State) (d x : Nat) (e : ReadyEntry) : Bool :=
  decide (e.cycle < x) && s.choiceOpen e.ten && (match s.heatDef d e.heat with
    | some h => h.gates.zipIdx.all fun g => s.gateHolds d g.1 (match e.watch[g.2]? with | some w => w.gen | none => 0)
    | none => false)

/-! ### The choice (R170) -/

/-- The translated body length of a variant. -/
def State.bodyLen (s : State) (d : Nat) (v : Variant) : Nat :=
  match s.heatDef d v.body with
  | some h => h.body
  | none => 0

/-- The replays a variant runs. -/
def Variant.count (v : Variant) : Nat := if v.replays = 0 then 2 ^ 32 else v.replays

/-- Does a variant fit its die: P_v ≤ P_die, and G ≥ n × ENERGY (R170)? -/
def State.fits (s : State) (d : Nat) (v : Variant) : Bool :=
  let b := s.bodyLen d v + 8
  let f := oppMhz v.opp
  let n := min v.count (max 1 (100 * f / b))
  decide (v.energy * f ≤ (s.die d).alloc * b) && decide (((n * v.energy : Nat) : Int) ≤ (s.die d).bucket)

/-- What the choice settles on: the entry, its heat, the variant and its number, and whether it is the fallback. -/
structure Choice where
  entry : ReadyEntry
  heat : HeatDef
  variant : Variant
  no : Nat
  fallback : Bool
deriving DecidableEq, Repr

/-- The usable variants of a heat with their numbers. -/
def HeatDef.usable (h : HeatDef) : List (Variant × Nat) := h.variants.zipIdx.filter fun v => v.1.usable

/-- The first heat of the highest class that holds an eligible one which has a variant that fits, in that variant; or, with
the bucket full, the first of that class in its last variant (R170). -/
def State.choose (s : State) (d x : Nat) : Option Choice :=
  let es := (s.die d).ready.filter fun e => s.eligible d x e
  let top := es.foldl (fun m e => min m e.cls) 4
  let es := es.filter fun e => e.cls == top
  let fit := es.findSome? fun e =>
    match s.heatDef d e.heat with
    | some h => (h.usable.find? fun v => s.fits d v.1).map fun v => (⟨e, h, v.1, v.2, false⟩ : Choice)
    | none => none
  match fit with
  | some c => some c
  | none =>
    if ((s.ceilingOf d : Nat) : Int) ≤ (s.die d).bucket then
      match es with
      | e :: _ => match s.heatDef d e.heat with
        | some h => h.usable.getLast?.map fun v => (⟨e, h, v.1, v.2, true⟩ : Choice)
        | none => none
      | [] => none
    else none

/-- The clusters a variant uses: the lowest-numbered that hold an unfenced core (R163). -/
def State.variantClusters (s : State) (d : Nat) (v : Variant) : List Nat :=
  ((List.range 4).filter fun c => (s.wideCores d).any fun p => p / 8 % 4 == c).take v.clusters

/-- A cluster's state (CLSTATE). -/
def State.cluster (s : State) (d c : Nat) : Nat := bitsOf (s.f (R.CLK_STAT d) F.CLK_STAT_CLSTATE) (2 * c) 2
def State.setCluster (s : State) (d c v : Nat) : State := s.setF (R.CLK_STAT d) (12 + 2 * c, 2) v

/-- Choosing a heat takes its flags: a consuming gate clears its flag and is the last waiter it released (R167, R191,
R192). -/
def State.takeFlags (s : State) (d x : Nat) (h : HeatDef) : State :=
  h.gates.foldl (fun (s : State) g =>
    let p := s.gateCore d g
    match g.kind with
    | 1 =>
      let s := (s.landClear p g.sel x 0 false).bump (R.FLG_CNT_CONSUME p) 1
      let c := s.core p
      s.setCore p { c with waiter := c.waiter.set (fun _ => 0) g.sel (p % 32) }
    | 2 => s.bump (R.FLG_CNT_OBSERVE p) 1
    | _ => s) s

/-- A tile queue as a heat's word configures it (R168): kept where base, depth and direction are those it has. -/
def TileQueue.load (t : TileQueue) (w : Nat) : TileQueue :=
  let base := bitsOf w 0 10
  let depth := bitsOf w 10 7
  let out := bitOf w 17
  let t := { t with relay := bitOf w 18, pred := bitOf w 19, cyc := bitsOf w 32 16, seen := [], predict := [], pos := 0 }
  if t.base = base ∧ t.depth = depth ∧ t.outbound = out then t
  else
    { TileQueue.init with base := base, depth := depth, outbound := out, relay := t.relay, pred := t.pred, cyc := t.cyc
                          gen := t.gen + 1 }

/-- The queues, regulator and bucket of a core take the heat's words (R117, R168, R171). -/
def State.loadHeat (s : State) (p : Nat) (h : HeatDef) : State :=
  let a := s.ae p
  let burst := bitsOf h.reg 10 7
  s.setAe p { a with
    tqs := a.tqs.mapIdx fun i t => t.load (h.tqs.getD i 0)
    rate := bitsOf h.reg 0 10
    burst := burst
    level := burst * 8192 }

/-- A heat is chosen in cycle x (R170, R171): its entry leaves the set, its flags are taken, wakes are requested, and its
cores load its queues and regulator. -/
def State.doChosen (s : State) (d x : Nat) (c : Choice) : State :=
  let v := s.die d
  let s := s.setDie d { v with ready := v.ready.erase c.entry }
  let s := s.takeFlags d x c.heat
  let cl := s.variantClusters d c.variant
  let waking := cl.filter fun k => decide (2 ≤ s.cluster d k)
  let r : RunHeat := {
    heat := c.heat.no, vdie := c.heat.vdie, ten := c.entry.ten, variant := c.no, bodyNo := c.variant.body
    body := s.bodyLen d c.variant, replays := c.variant.count, opp := c.variant.opp, clusters := cl, pin := c.heat.pin
    pinCtx := c.heat.pinCtx, chosen := x, waking := waking, wakeDone := none, patchDone := none, start := none
    slowSent := false }
  let s := s.setDie d { s.die d with run := some r }
  let s : State := if c.fallback then
      (s.setF (R.STR_EVENT d) F.STR_EVENT_FALLBACK 1).bump (R.STR_CNT_FALLBACK d) 1 else s
  let s := (s.runCores d r).foldl (fun (s : State) p => s.loadHeat p c.heat) s
  s.admitPosts d x

/-- HEAT_CHOICE (R167, R170): in a cycle with no heat running the gates are evaluated and a heat chosen, or none. -/
def State.doHeatChoice (s : State) (d x : Nat) : State :=
  let s := (s.releasePoisoned d).admitPosts d x
  let v := s.die d
  let c := s.choose d x
  let s := s.setDie d { v with ready := v.ready.map fun e => { e with eligible := s.eligible d x e } }
  let s := match c with
    | some c => s.doChosen d x { c with entry := { c.entry with eligible := s.eligible d x c.entry } }
    | none => s
  s.clock d x

/-- May heats start on a die: its PLL runs and is locked, and AO_REFCLK has been present for 1 ms (R187, R355)? -/
def State.clockGood (s : State) (d : Nat) : Bool :=
  s.pins.refclk && (s.pins.refAt == 0 || decide (s.pins.refAt + ticksMs 1 ≤ s.time)) &&
    s.f (R.CLK_STAT d) F.CLK_STAT_STOPPED == 0 && s.f (R.CLK_STAT d) F.CLK_STAT_LOCKED == 1

def execHeatChoice (d : Die) (x : Nat) (s : State) : Res :=
  let v := s.die d
  State.when (v.run.isNone && !s.strBlocked d &&  !s.dieDown d && decide (v.now < x) &&
      s.clockGood d) "a heat runs, or the starter is blocked" (s.doHeatChoice d x)

/-! ### Start, replays and windows (R153, R171) -/

/-- The cycle in which a chosen heat's replay 0 begins, once its wakes and patches are done. -/
def RunHeat.startAt (r : RunHeat) : Nat :=
  max (r.chosen + 4) (max (match r.wakeDone with | some w => w + 4 | none => 0)
    (match r.patchDone with | some p => p + 1 | none => 0))

/-- HEAT_START (R171). -/
def State.doHeatStart (s : State) (d x : Nat) (r : RunHeat) : State :=
  let v := s.die d
  let s := s.setDie d { v with run := some { r with start := some x }, heatPj := 0 }
  let s := (List.range 4).foldl (fun (s : State) c =>
    if r.clusters.contains c then s.setCluster d c 0 else if s.cluster d c = 0 then s.setCluster d c 1 else s) s
  let s := (s.runCores d r).foldl (fun (s : State) p =>
    (s.setCore p { s.core p with window := none }).setF (R.COX_IRQ_STAT p) F.COX_IRQ_STAT_HEAT_START 1) s
  let s := (s.bump (R.STR_CNT_STARTS d) 1).bump (R.STR_CNT_VAR d r.variant) 1
  let wait := match r.wakeDone with | some w => w - r.chosen | none => 0
  (s.bump (R.STR_CNT_WAKE_WAIT_NS d) (wait * 1000 / s.mhz d)).clock d x

def execHeatStart (d : Die) (x : Nat) (s : State) : Res :=
  match (s.die d).run with
  | none => .refused (.notEnabled "no heat is chosen")
  | some r =>
    State.when (r.start.isNone && r.waking.isEmpty && x == r.startAt && s.clockGood d &&
        (s.runCores d r).all fun p => (s.core p).patches.isEmpty) "the heat does not start in this cycle"
      (s.doHeatStart d x r)

/-- The body cycle of a replay in which a core is warned of its end (R153). -/
def State.nearCycle (s : State) (p : Nat) (r : RunHeat) : Nat :=
  r.body - s.f (R.COX_CTL p) F.COX_CTL_PATCH_LEAD

/-- The cores on which a replay's REPLAY_NEAR falls in cycle x. -/
def State.nearCores (s : State) (d x : Nat) (r : RunHeat) : List Nat :=
  match r.start with
  | none => []
  | some st => if x < st ∨ r.replays ≤ r.replayAt x then []
    else (s.runCores d r).filter fun p => s.nearCycle p r == (x - st) % (r.body + 8)

/-- REPLAY_NEAR (R153). -/
def execReplayNear (d : Die) (x : Nat) (s : State) : Res :=
  match (s.die d).run with
  | none => .refused (.notEnabled "no heat runs")
  | some r =>
    let ps := s.nearCores d x r
    State.when (!ps.isEmpty) "no core is warned in this cycle"
      ((ps.foldl (fun (s : State) p => s.setF (R.COX_IRQ_STAT p) F.COX_IRQ_STAT_REPLAY_NEAR 1) s).clock d x)

/-- A patch applies at the end of cycle x (R154); one on a PRM that a FIXED entry names is a violation (R160). -/
def State.applyPatch (s : State) (p x : Nat) (e : Patch) : State :=
  let v := if e.add then s.prm p e.prm + e.value else e.value
  let s := (s.setF (R.PRM p e.prm) F.PRM_VALUE v).bump (R.COX_CNT_PATCH p) 1
  let tag := s.heatTag p x
  if tag.on && (s.rulingFor p tag.no).any (fun q => q.ty == 2 && bitOf q.mask e.prm) then
    s.violate p 5 uPRM tag x e.prm
  else s

/-- Writes that waited for a full patch queue join it as entries leave. -/
def State.admitPatches (s : State) (p x : Nat) : State :=
  let c := s.core p
  let n := 8 - c.patches.length
  let joined := (c.patchWait.take n).map fun (e : Patch) => { e with at_ := x }
  s.setCore p { c with patches := c.patches ++ joined, patchWait := c.patchWait.drop n }

/-- The oldest entry applies (R154). -/
def State.applyOne (s : State) (p x : Nat) : State :=
  match (s.core p).patches with
  | [] => s
  | e :: rest => ((s.setCore p { s.core p with patches := rest }).applyPatch p x e).admitPatches p x

/-- The predictions of a core's queues for the next replay (R126). -/
def State.turnPredictions (s : State) (p : Nat) : State :=
  let a := s.ae p
  s.setAe p { a with tqs := a.tqs.map fun (t : TileQueue) => if t.pred then { t with predict := t.seen, seen := [], pos := 0 } else t }

/-- A patch window (R153, R154): entries staged before its first cycle x apply, one a cycle. -/
def State.doWindow (s : State) (p x : Nat) : State :=
  let s := s.setCore p { s.core p with window := some x }
  let s := s.setF (R.COX_IRQ_STAT p) F.COX_IRQ_STAT_WINDOW 1
  let due := ((s.core p).patches.takeWhile fun e => decide (e.at_ < x)).take 8
  let s := (List.range due.length).foldl (fun (s : State) i => s.applyOne p (x + i)) s
  (s.turnPredictions p).bump (R.COX_CNT_REPLAY p) 1

/-- Does a replay's patch window begin on a core in cycle x? -/
def State.windowAtCycle (s : State) (p x : Nat) : Bool :=
  match (s.die (dieOf p)).run with
  | none => false
  | some r => match r.start with
    | none => false
    | some st => s.heatOn p && decide (st ≤ x) && (x - st) % (r.body + 8) == r.body && decide (r.replayAt x < r.replays) &&
        (s.core p).window != some x

/-- A queued entry applies while no heat runs on the core (R154, R171). -/
def State.doIdlePatch (s : State) (p x : Nat) : State :=
  let s := s.applyOne p x
  let d := dieOf p
  let v := s.die d
  s.setDie d { v with run := v.run.map fun (r : RunHeat) => { r with patchDone := some (max x (r.patchDone.getD 0)) } }

/-- PATCH_WINDOW (R153, R154): the window of a replay, or, with no heat running on the core, the next queued entry. -/
def execPatchWindow (p : Pos) (x : Nat) (s : State) : Res :=
  if s.windowAtCycle p x then .next ((s.doWindow p x).clock (dieOf p) x)
  else State.when (!s.heatOn p && !(s.core p).patches.isEmpty) "no patch window begins and no entry is queued"
    ((s.doIdlePatch p x).clock (dieOf p) x)

/-! ### The end (R172, R178) -/

/-- The last cycle of a heat: that of its last replay's patch window. -/
def RunHeat.lastCycle (r : RunHeat) : Option Nat := r.start.map fun st => st + r.replays * (r.body + 8) - 1

/-- HEAT_END (R172). -/
def State.doHeatEnd (s : State) (d x : Nat) (r : RunHeat) : State :=
  let v := s.die d
  let ps := s.runCores d r
  let base := r.start.getD 0 + (r.replays - 1) * (r.body + 8)
  let tag : HeatTag := ⟨true, r.heat, r.replays - 1, base⟩
  let s := ps.foldl (fun (s : State) p =>
    let s := (s.expireWritten p tag x).setF (R.COX_IRQ_STAT p) F.COX_IRQ_STAT_HEAT_END 1
    s.wr (R.COX_REPLAY p) (fields [((r.replays - 1) % 2 ^ 32, 0), (r.heat, 32), (1, 48)])) s
  let s := s.setDie d { s.die d with run := none, lastOpp := some r.opp, forced := none, ended := some tag, idleFrom := s.time }
  let s := r.clusters.foldl (fun (s : State) c =>
    let s := s.setCluster d c 1
    let v := s.die d
    s.setDie d { v with idleClusters := v.idleClusters.set (fun _ => 0) c s.time }) s
  let s := s.wr (R.STR_LAST d) (fields [(r.heat, 0), (r.variant, 16), (1, 18), (b2n v.rulingStop, 19), (r.replays % 2 ^ 32, 32)])
  let s := s.wr (R.STR_LAST_ENERGY d) (BitVec.ofNat 64 (v.heatPj / 1000000))
  let s := if r.slowSent then (s.clearSlow r.pinCtx).sendCtrl r.pinCtx 2 0 0 else s
  (s.clock d x).settleDie d

def execHeatEnd (d : Die) (x : Nat) (s : State) : Res :=
  match (s.die d).run with
  | none => .refused (.notEnabled "no heat runs")
  | some r => State.when (r.lastCycle == some x && (s.runCores d r).all fun p => (s.core p).window == some (x - 7))
      "the heat does not end in this cycle" (s.doHeatEnd d x r)

/-! ### Watchdogs of gates (R166, R203, R204) -/

/-- Is an armed point to make the next watchdog on a core expire? -/
def State.watchArmed (s : State) (p : Nat) : Bool :=
  s.f (R.INJ_P_CTL 0x23) F.INJ_P_CTL_ARM == 1 && s.f (R.INJ_P_TGT 0x23) F.INJ_P_TGT_KIND == kCore &&
    s.f (R.INJ_P_TGT 0x23) F.INJ_P_TGT_INDEX == p

/-- A gate's watchdog runs out: WAIT_TIMEOUT and the heat leaves the set where the gate does not hold; else it is
spent. -/
def State.doGateExpire (s : State) (d : Nat) (e : ReadyEntry) (g : Gate) (i : Nat) (w : GateWatch) : State :=
  let p := s.gateCore d g
  let inj := s.inject 0x23 kCore p
  let s := inj.2
  let v := s.die d
  if s.gateHolds d g w.gen && inj.1.isNone then
    s.setDie d { v with ready := v.ready.map fun (q : ReadyEntry) =>
      if q = e then { q with watch := q.watch.set i { w with on := false } } else q }
  else
    let s := s.setDie d { v with ready := v.ready.erase e }
    let isFlag := g.kind == 1 || g.kind == 2
    let isCtx := g.kind == 3 || g.kind == 6
    let s := s.waitTimeout p g.kind 1 (if isFlag then g.sel else 0) (if isCtx then g.ctx else 0) e.heat w.limit inj.1.isSome
    s.admitPosts d (s.die d).now

def execGateWatchdogExpire (d : Die) (entry gate : Nat) (s : State) : Res :=
  match (s.die d).ready[entry]? with
  | none => .refused (.notEnabled "the ready set has no such entry")
  | some e =>
    match s.heatDef d e.heat, e.watch[gate]? with
    | some h, some w =>
      match h.gates[gate]? with
      | some g => State.when (w.on && (decide (e.tick + w.limit ≤ s.time) ||
            (s.watchArmed (s.gateCore d g) && decide (e.tick < s.time))))
          "the gate's watchdog has not run out" (s.doGateExpire d e g gate w)
      | none => .refused (.notEnabled "the heat has no such gate")
    | _, _ => .refused (.notEnabled "the heat has no such gate")

/-! ### Forecasts (R175) -/

/-- G is cut to a ceiling that has come to lie below it (R169). -/
def State.cutBucket (s : State) (d : Nat) : State :=
  let v := s.die d
  let c := ((s.ceilingOf d : Nat) : Int)
  if c < v.bucket then s.setDie d { v with bucket := c } else s

/-- HEAT_FORECAST (R175): an entry is added, in place of the one that ends first where eight are held, or the core's
entries are removed. -/
def State.doForecast (s : State) (p : Nat) (remove : Bool) (mj leadUs lenUs : Nat) : State :=
  let d := dieOf p
  let v := s.die d
  if remove then (s.setDie d { v with forecasts := v.forecasts.filter fun e => e.core != p }).cutBucket d
  else
    let e : Forecast := ⟨p, mj, s.time + ticksUs leadUs, s.time + ticksUs leadUs + ticksUs lenUs⟩
    let keep := if v.forecasts.length < 8 then v.forecasts
      else match v.forecasts with
        | [] => []
        | f :: fs => v.forecasts.erase (fs.foldl (fun (m : Forecast) q => if q.stop < m.stop then q else m) f)
    (s.setDie d { v with forecasts := keep ++ [e] }).cutBucket d

def execHeatForecast (p : Pos) (remove : Bool) (mj leadUs lenUs : Nat) (s : State) : Res :=
  State.whenWf (forecastOk remove mj leadUs lenUs) true "" (s.doForecast p remove mj leadUs lenUs)

/-- FORECAST_LAPSE (R175): entries whose windows have ended leave. -/
def execForecastLapse (d : Die) (s : State) : Res :=
  let v := s.die d
  State.when (v.forecasts.any fun e => decide (e.stop ≤ s.time)) "no forecast has lapsed"
    ((s.setDie d { v with forecasts := v.forecasts.filter fun e => decide (s.time < e.stop) }).cutBucket d)

end Sys2Proof.Machine
end

