-- ==== Sys2Proof/Machine/Wilum.lean ====
section
/-! DEFINITION. Wilum modules as bytes (R131 to R144, R159, R162 to R164): the container and its rules, HEAT sections with
their records, gates, ruling entries and bundle streams, and the slot words of bundles. -/

namespace Sys2Proof.Machine

open Sys2Proof

/-! ### Translation statuses -/

abbrev tOK := 0x00
abbrev tCONTAINER := 0x01
abbrev tDIGEST := 0x02
abbrev tSIGNATURE := 0x03
abbrev tOPCODE := 0x04
abbrev tFORMAT := 0x05
abbrev tSLOT := 0x06
abbrev tCONFLICT := 0x07
abbrev tSTRIP := 0x08
abbrev tCORES := 0x09
abbrev tPAD := 0x0A
abbrev tCOX := 0x0B
abbrev tSTOCHASTIC := 0x0C
abbrev tREF := 0x0D
abbrev tRULING := 0x0E

/-- A failed translation as the status record shows it (R135, R307). -/
structure TransErr where
  status : Nat
  vdie : Nat
  heat : Nat
  vcore : Nat
  bundle : Nat
deriving DecidableEq, Repr

def TransErr.mk' (status : Nat) : TransErr := ⟨status, 0, 0, 0, 0⟩

/-- A status where a condition fails. -/
def need (ok : Bool) (status : Nat) : Option Nat := if ok then none else some status

/-- The first failure of a list of checks. -/
def firstFail {α : Type} (l : List (Option α)) : Option α := l.findSome? id

/-! ### The container (R131 to R133) -/

/-- A section table entry (R132). -/
structure Sect where
  ty : Nat
  vdie : Nat
  vcore : Nat
  zero : Nat
  off : Nat
  size : Nat
  target : Nat
deriving DecidableEq, Repr

def sectionsOf (m : List Byte) : List Sect :=
  let base := fieldAt m 0x1C 4
  (List.range (fieldAt m 0x18 4)).map fun i =>
    let o := base + 32 * i
    ⟨fieldAt m o 2, fieldAt m (o + 2) 1, fieldAt m (o + 3) 1, fieldAt m (o + 4) 4, fieldAt m (o + 8) 8,
      fieldAt m (o + 16) 8, fieldAt m (o + 24) 8⟩

/-- Do no two of some extents overlap? -/
def disjointExtents : List (Nat × Nat) → Bool
  | [] => true
  | e :: r => (r.all fun q => decide (e.1 + e.2 ≤ q.1) || decide (q.1 + q.2 ≤ e.1)) && disjointExtents r

/-- Are the keys of a list all different? -/
def allDistinct {α : Type} [DecidableEq α] : List α → Bool
  | [] => true
  | a :: r => !r.contains a && allDistinct r

def asciiIs (m : List Byte) (off : Nat) (cs : List Nat) : Bool :=
  (slice m off cs.length).map (·.toNat) == cs

def allZero (m : List Byte) (off n : Nat) : Bool := (slice m off n).all (· == 0)

/-- A colophon of `len` bytes at an offset (R134): its magic, length, type and zero fields. -/
def colophonOk (m : List Byte) (off : Nat) : Bool :=
  let clen := fieldAt m (off + 4) 2
  let ty := fieldAt m (off + 6) 1
  asciiIs m off [0x41, 0x58, 0x43, 0x4F] && fieldAt m (off + 7) 1 == 0 && m.length == off + clen &&
    ((clen == 72 && ty == 0) || (clen == 216 && ty == 1 && fieldAt m (off + 0xD4) 4 == 0))

def colophonDigest (m : List Byte) (off : Nat) : Bool :=
  leBytes 64 ((Config.sha512 (m.take off)).toNat) == slice m (off + 8) 64

def colophonSigned (m : List Byte) (off : Nat) : Bool := fieldAt m (off + 6) 1 == 1
def colophonKey (m : List Byte) (off : Nat) : Nat := fieldAt m (off + 0x48) 8

/-- The signature of a colophon holds under a key (R134). -/
def colophonVerify (m : List Byte) (off key : Nat) : Bool :=
  Config.ecdsaVerify key (m.take off) (beNat (slice m (off + 0x50) 66)) (beNat (slice m (off + 0x92) 66))

def moduleColophon (m : List Byte) : Nat := fieldAt m 0x10 8

/-- One section's own rules (R132, R133). -/
def Sect.ok (q : Sect) (vdies : Nat) : Bool :=
  let known := (1 ≤ q.ty && q.ty ≤ 5) || decide (0x8000 ≤ q.ty)
  let ids := (q.vdie == 0xFF || decide (q.vdie < vdies)) && (q.vcore == 0xFF || decide (q.vcore < 32))
  let target := q.ty == 5 || q.target == 0
  let heat := q.ty != 1 || decide (q.vdie < vdies)
  let desc := q.ty != 4 || (q.size % 16 == 0 && decide (q.size ≤ 16 * 2 ^ 22))
  let const := q.ty != 5 || (decide (q.size ≤ 2 ^ 30) && (kSpace q.target < 2 || (q.target % 8 == 0 && q.size % 8 == 0)))
  known && ids && q.zero == 0 && target && heat && desc && const

/-- The container rules (R133). -/
def containerOk (m : List Byte) : Bool :=
  let ss := sectionsOf m
  let n := fieldAt m 0x18 4
  let st := fieldAt m 0x1C 4
  let col := moduleColophon m
  let vd := fieldAt m 0x30 1
  let tc := fieldAt m 0x34 2
  let img (t : Nat) : List (Nat × Nat) := (ss.filter fun q => q.ty == t).map fun q => (q.vdie, q.vcore)
  decide (64 ≤ m.length) && asciiIs m 0 [0x41, 0x58, 0x57, 0x4D] && fieldAt m 4 2 == 1 && fieldAt m 7 1 == 0 &&
    fieldAt m 8 8 == m.length && 1 ≤ n && n ≤ 65535 && st % 64 == 0 && decide (64 ≤ st) &&
    decide (st + 32 * n ≤ m.length) && col % 64 == 0 && decide (col < m.length) && colophonOk m col &&
    fieldAt m 0x31 1 == 0 && allZero m 0x38 8 && 1 ≤ vd && vd ≤ 8 && tc % 8 == 0 && tc ≤ 1024 &&
    fieldAt m 0x32 2 == (ss.filter fun q => q.ty == 1).length &&
    (ss.all fun q => q.ok vd && q.off % 64 == 0 && decide (q.off + q.size ≤ m.length)) &&
    disjointExtents ([(0, 64), (st, 32 * n), (col, m.length - col)] ++
      (ss.filter fun q => q.size != 0).map fun q => (q.off, q.size)) &&
    allDistinct (img 2) && allDistinct (img 3) && allDistinct ((img 4).map (·.1))

/-! ### Descriptors (R138, R140, R142) -/

/-- The descriptors of a virtual die: its DESC section's words. -/
def descsOf (m : List Byte) (ss : List Sect) (vdie : Nat) : List W128 :=
  match ss.find? fun q => q.ty == 4 && (q.vdie == vdie || q.vdie == 0xFF) with
  | none => []
  | some q => (List.range (q.size / 16)).map fun i => BitVec.ofNat 128 (fieldAt m (q.off + 16 * i) 16)

/-- Is a descriptor's encoding one that is not reserved? -/
def descEncOk (w : W128) : Bool :=
  let n := w.toNat
  match Fmt.ofCode (bitsOf n 2 4), bitsOf n 0 2 with
  | none, _ => false
  | some f, 0 => bitsOf n 49 2 != 3 && bitsOf n 125 3 != 7 && (!f.isMx || !bitOf n 118)
  | some _, 1 => bitsOf n 6 2 != 3 && bitsOf n 93 3 == 0
  | _, _ => false

/-! ### Slot words (R138, R144) -/

/-- A decoded slot word. A CVU operation keeps its issue cycles and what it reads or writes of the scratchpad. -/
inductive Slot where
  | outer (o : OuterSlot)
  | chain (o : ChainSlot)
  | roles
  | drain (o : DrainSlot)
  | load (o : LoadSlot)
  | row (o : RowSlot)
  | vec (cost : Nat) (rd wr : Option W128)
  | ae (op : Nat) (o : AeSlot)
  | sync (op : Nat)
deriving DecidableEq, Repr

/-- The MOD field, and operand fields A to D. -/
def modOf (w : W128) (lo n : Nat) : Nat := bitsOf w.toNat lo n
def rawOpnd (w : W128) (i : Nat) : Nat := bitsOf w.toNat (32 + 24 * i) 24

/-- An operand of a slot word (R138); none where it is reserved or its index lies beyond the descriptors. -/
def decodeOpnd (ds : List W128) (raw : Nat) : Option Opnd :=
  let v := bitsOf raw 0 22
  match raw / 2 ^ 22 with
  | 0 => match ds[v]? with
    | some d => if descEncOk d then some (.desc d) else none
    | none => none
  | 1 => if bitsOf v 4 18 = 0 then some (.tq ⟨v % 8, Nat.mod_lt _ (by decide)⟩ (bitOf v 3)) else none
  | 2 => if bitsOf v 12 10 = 0 ∧ bitsOf v 6 6 < 48 then some (.prm ⟨v % 64, Nat.mod_lt _ (by decide)⟩ (bitsOf v 6 6)) else none
  | _ => some (.imm v)

/-- An operand that may be left out, being zero where it is not used. -/
def optOpnd (ds : List W128) (raw : Nat) (used : Bool) : Option Opnd :=
  if used then decodeOpnd ds raw else if raw = 0 then some .none else none

def fmtAt (w : W128) (lo : Nat) : Option Fmt := Fmt.ofCode (modOf w lo 4)

end Sys2Proof.Machine

namespace Sys2Proof

open Sys2Proof.Machine

/-- Is an operand a queue with WALK 0, where WALK has no use? -/
def Opnd.noWalk : Opnd → Bool
  | .tq _ w => !w
  | _ => true

/-- A product's own failure: its formats and descriptors (FORMAT), or its length (SLOT_RULE). -/
def OuterSlot.status (o : OuterSlot) : Nat :=
  if !o.colFmt.pairs o.rowFmt || o.colFmt.cls == .raw || !o.col.fits o.colFmt || !o.row.fits o.rowFmt ||
      (o.slide && (o.colFmt.isMx || o.rowFmt.isMx)) then tFORMAT
  else if !lenOk o.colFmt o.len then tSLOT
  else if o.wf then tOK else tOPCODE

/-- The format of a descriptor operand. -/
def Opnd.fmt : Opnd → Option Fmt
  | .desc w => Fmt.ofCode (bitsOf w.toNat 2 4)
  | _ => Option.none

end Sys2Proof

namespace Sys2Proof.Machine

open Sys2Proof

/-- The product part of `op.outer` and `op.chain` (R61, R144). -/
def decodeProduct (ds : List W128) (w : W128) (slide : Bool) (en : Opnd) : Option OuterSlot :=
  match fmtAt w 8, fmtAt w 12, decodeOpnd ds (rawOpnd w 0), decodeOpnd ds (rawOpnd w 1), decodeOpnd ds (rawOpnd w 2) with
  | some cf, some rf, some a, some b, some (.imm len) =>
    if a.isPlace && b.isPlace then some ⟨cf, rf, bitOf w.toNat 16, slide, en, a, b, len⟩ else none
  | _, _, _, _, _ => none

/-- The AE modifiers and operands (R144, R198). `side` says that a side-band operand C is used. -/
def decodeAe (ds : List W128) (w : W128) (useA useB useC useD : Bool) : Option AeSlot :=
  let tq := bitOf w.toNat 23
  match optOpnd ds (rawOpnd w 0) useA, optOpnd ds (rawOpnd w 1) useB, optOpnd ds (rawOpnd w 2) useC,
      optOpnd ds (rawOpnd w 3) useD with
  | some a, some b, some c, some d =>
    if bitsOf w.toNat 26 6 = 0 then
      some ⟨if bitOf w.toNat 18 then some (bitsOf w.toNat 8 10) else none, bitOf w.toNat 19,
        if tq then some ⟨bitsOf w.toNat 20 3 % 8, Nat.mod_lt _ (by decide)⟩ else none, bitOf w.toNat 24, bitOf w.toNat 25,
        a, b, c, d⟩
    else none
  | _, _, _, _ => none

/-- Does a far operand name an MX tile, so that its side-band is named too? -/
def mxRaw (ds : List W128) (raw : Nat) : Bool :=
  match decodeOpnd ds raw with
  | some o => match o.fmt with
    | some f => f.isMx
    | none => false
  | none => false

/-- An AE command (R144, R198, R227, R241), or its status. -/
def decodeAeSlot (ds : List W128) (w : W128) (op : Nat) : Except Nat Slot :=
  let tq := bitOf w.toNat 23
  let raw := rawOpnd w
  let d := raw 3 != 0 || bitOf w.toNat 19
  let fin (o : Option AeSlot) (ok : AeSlot → Bool) : Except Nat Slot :=
    match o with
    | none => .error tOPCODE
    | some o => if ok o then .ok (.ae op o) else .error tOPCODE
  if op = 0x40 then fin (decodeAe ds w true (!tq) (mxRaw ds (raw 0)) d) AeSlot.fetchWf
  else if op = 0x41 then fin (decodeAe ds w (!tq) true (mxRaw ds (raw 1)) d) AeSlot.putWf
  else if op = 0x42 then fin (decodeAe ds w true (!tq) true d) AeSlot.gatherWf
  else if op = 0x43 then fin (decodeAe ds w true true (mxRaw ds (raw 0)) d) AeSlot.relayWf
  else if op = 0x44 ∨ op = 0x45 then
    if bitsOf w.toNat 8 24 = 0 then fin (decodeAe ds w true true false false) AeSlot.keysWf else .error tOPCODE
  else if 0x48 ≤ op ∧ op ≤ 0x4C then fin (decodeAe ds w true false false true) (AeSlot.collWf · false)
  else if op = 0x4D then fin (decodeAe ds w false false false true) (AeSlot.collWf · true)
  else if 0x50 ≤ op ∧ op ≤ 0x57 then fin (decodeAe ds w true true true d) (AeSlot.atomWf · (op == 0x57))
  else .error tOPCODE

/-- A CVU operation (R144): which operands it uses, its issue cycles, and its scratchpad descriptor. -/
def decodeVec (ds : List W128) (w : W128) (op : Nat) : Except Nat Slot :=
  let raw := rawOpnd w
  let reg (i : Nat) : Bool := raw i / 2 ^ 22 == 3 && decide (raw i % 2 ^ 22 < 32)
  let zero (i : Nat) : Bool := raw i == 0
  let mod (lo : Nat) : Bool := bitsOf w.toNat lo (32 - lo) == 0
  let plain (ok : Bool) (cost : Nat) : Except Nat Slot := if ok then .ok (.vec cost none none) else .error tOPCODE
  if 0x20 ≤ op ∧ op ≤ 0x27 then
    let three := op == 0x23 || op == 0x26
    plain ((if op = 0x27 then mod 16 else mod 13) && reg 0 && reg 1 && (if three then reg 2 else zero 2) && zero 3) 1
  else if op = 0x28 then
    plain (mod 21 && reg 0 && zero 1 && zero 2 && zero 3 && (fmtAt w 13).isSome && (fmtAt w 17).isSome) 1
  else if 0x30 ≤ op ∧ op ≤ 0x33 then plain (mod 13 && reg 0 && zero 1 && zero 2 && zero 3) 4
  else if 0x38 ≤ op ∧ op ≤ 0x3A then
    plain (mod 13 && reg 0 && zero 1 && ((op == 0x38 && zero 2) || raw 2 / 2 ^ 22 == 3 || (match decodeOpnd ds (raw 2) with
      | some (.prm _ b) => b == 0 | _ => false)) && zero 3) 1
  else if op = 0x3C ∨ op = 0x3D then
    match decodeOpnd ds (raw 0) with
    | some (.desc d) =>
      if !(mod 13 && zero 1 && zero 2 && zero 3 && d.toNat % 4 == 0) then .error tOPCODE
      else if bitOf d.toNat 6 then .error tFORMAT
      else .ok (if op = 0x3C then .vec 1 (some d) none else .vec 1 none (some d))
    | _ => .error tOPCODE
  else .error tOPCODE

/-- An epilogue word of a chain record: an arithmetic, conversion or transcendental operation, or opcode 0 (R124). -/
def decodeEpi (w : W128) : Except Nat (Option EpiOp) :=
  let op := modOf w 0 8
  let r (i : Nat) : Fin 32 := ⟨rawOpnd w i % 32, Nat.mod_lt _ (by decide)⟩
  let dst : Fin 32 := ⟨modOf w 8 5 % 32, Nat.mod_lt _ (by decide)⟩
  if op = 0 then (if w = 0 then .ok none else .error tOPCODE)
  else match decodeVec [] w op with
    | .error e => .error e
    | .ok _ =>
      if 0x20 ≤ op ∧ op ≤ 0x27 then
        let cmps : List Cmp := [.eq, .ne, .lt, .le, .gt, .ge, .unordered, .ordered]
        let k : VArith := match op with
          | 0x20 => .add | 0x21 => .sub | 0x22 => .mul | 0x23 => .fma | 0x24 => .max | 0x25 => .min | 0x26 => .sel
          | _ => .cmp (cmps.getD (modOf w 13 3) .eq)
        .ok (some (.arith k dst (r 0) (r 1) (r 2)))
      else if op = 0x28 then
        match fmtAt w 13, fmtAt w 17 with
        | some a, some b => .ok (some (.cvt dst (r 0) a b))
        | _, _ => .error tOPCODE
      else if 0x30 ≤ op ∧ op ≤ 0x33 then
        .ok (some (.trans (match op with | 0x30 => .exp | 0x31 => .log | 0x32 => .rcp | _ => .rsqrt) dst (r 0)))
      else .error tOPCODE

/-- The operations of a list of epilogue words. -/
def decodeEpis : List W128 → Except Nat (List EpiOp)
  | [] => .ok []
  | w :: r =>
    match decodeEpi w, decodeEpis r with
    | .ok (some o), .ok l => .ok (o :: l)
    | .ok none, .ok l => .ok l
    | .error e, _ => .error e
    | _, .error e => .error e

/-- The slot part of the bundle header a word stands under: products, sets, CVU, AE, SYNC (R137). -/
inductive SlotPart where
  | product | set | cvu | ae | sync
deriving DecidableEq, Repr

def slotPart (bit : Nat) : SlotPart :=
  match bit with
  | 0 | 2 | 4 => .product
  | 1 | 3 | 5 => .set
  | 6 => .cvu
  | 7 | 8 => .ae
  | _ => .sync

def productSlot (ds : List W128) (w : W128) (op : Nat) : Except Nat Slot :=
  if op = 0x01 then
    let en : Option Opnd := match modOf w 18 2 with
      | 0 => if rawOpnd w 3 = 0 then some (.imm 0) else none
      | 1 => if rawOpnd w 3 = 0 then some (.imm 1) else none
      | 2 => match decodeOpnd [] (rawOpnd w 3) with
        | some (.prm p b) => some (.prm p b)
        | _ => none
      | _ => none
    match en with
    | none => .error tOPCODE
    | some e =>
      if modOf w 20 12 ≠ 0 then .error tOPCODE
      else match decodeProduct ds w (bitOf w.toNat 17) e with
        | none => .error tOPCODE
        | some o => if o.status = tOK then .ok (.outer o) else .error o.status
  else if op = 0x02 then
    let i := rawOpnd w 3
    let recs := slice ds (i % 2 ^ 22) 9
    if modOf w 17 3 ≠ 0 ∨ modOf w 24 8 ≠ 0 ∨ i / 2 ^ 22 ≠ 3 ∨ recs.length ≠ 9 then .error tOPCODE
    else match decodeProduct ds w false (.imm 1), fmtAt w 20, decodeEpis (recs.take 8), recs[8]? with
      | some o, some f, .ok ep, some pw =>
        if o.status ≠ tOK then .error o.status
        else if modOf pw 0 8 ≠ 0x41 then .error tOPCODE
        else match decodeAe ds pw false true (mxRaw ds (rawOpnd pw 1)) (rawOpnd pw 3 != 0 || bitOf pw.toNat 19) with
          | some put =>
            let c : ChainSlot := ⟨o, f, ep, put⟩
            if f.cls == .raw then .error tFORMAT else if c.wf then .ok (.chain c) else .error tOPCODE
          | none => .error tOPCODE
      | _, _, .error e, _ => .error e
      | _, _, _, _ => .error tOPCODE
  else .error tOPCODE

def setSlot (ds : List W128) (w : W128) (op : Nat) : Except Nat Slot :=
  let raw := rawOpnd w
  let zero (i : Nat) : Bool := raw i == 0
  if op = 0x08 then
    if bitsOf w.toNat 8 24 = 0 ∧ raw 0 = 0 ∧ raw 1 = 0 ∧ raw 2 = 0 ∧ raw 3 = 0 then .ok .roles else .error tOPCODE
  else if op = 0x09 then
    let satf := bitOf w.toNat 15
    match fmtAt w 9, decodeOpnd ds (raw 0) with
    | some f, some dst =>
      if !(modOf w 16 16 == 0 && zero 2 && zero 3 && dst.isPlace && dst.noWalk &&
          (if satf then raw 1 / 2 ^ 22 == 3 && decide (raw 1 % 2 ^ 22 < 1024) else zero 1)) then .error tOPCODE
      else
        let o : DrainSlot := ⟨bitOf w.toNat 8, f, bitOf w.toNat 13, bitOf w.toNat 14,
          if satf then some (raw 1 % 2 ^ 22) else none, dst⟩
        if o.wf then .ok (.drain o) else .error tFORMAT
    | _, _ => .error tOPCODE
  else if op = 0x0A then
    match fmtAt w 9, decodeOpnd ds (raw 0) with
    | some f, some src =>
      if !(modOf w 13 19 == 0 && zero 1 && zero 2 && zero 3 && src.isPlace && src.noWalk) then .error tOPCODE
      else
        let o : LoadSlot := ⟨bitOf w.toNat 8, f, src⟩
        if o.wf then .ok (.load o) else .error tFORMAT
    | _, _ => .error tOPCODE
  else if op = 0x0B then
    let k : RowOp := match modOf w 9 2 with | 0 => .scale | 1 => .add | 2 => .scaleAdd | _ => .clamp
    let two := k == .scaleAdd || k == .clamp
    match decodeOpnd ds (raw 0), optOpnd ds (raw 1) two with
    | some v1, some v2 =>
      let local_ (o : Opnd) : Bool := match o with | .prm _ b => b == 0 | .desc d => d.toNat % 4 == 0 | .none => true | _ => false
      if !(modOf w 11 21 == 0 && zero 2 && zero 3 && local_ v1 && local_ v2) then .error tOPCODE
      else
        let o : RowSlot := ⟨bitOf w.toNat 8, k, v1, v2⟩
        if o.wf then .ok (.row o) else .error tFORMAT
    | _, _ => .error tOPCODE
  else .error tOPCODE

def syncSlot (ds : List W128) (w : W128) (op : Nat) : Except Nat Slot :=
  let raw := rawOpnd w
  let rest (i : Nat) : Bool := (List.range 4).all fun j => decide (j < i) || raw j == 0
  let imm (i : Nat) : Bool := raw i / 2 ^ 22 == 3
  let v (i : Nat) : Nat := raw i % 2 ^ 22
  if op = 0x60 ∨ op = 0x61 then
    let flag : Bool := match decodeOpnd ds (raw 0) with
      | some (.imm n) => decide (n < 1024)
      | some (.desc d) => d.toNat % 4 == 1 && kSpace (bitsOf d.toNat 8 64) == 3
      | _ => false
    if modOf w 8 24 = 0 ∧ rest 1 = true ∧ flag = true then .ok (.sync op) else .error tOPCODE
  else if op = 0x62 ∨ op = 0x63 then
    if modOf w 8 24 = 0 ∧ rest 0 = true then .ok (.sync op) else .error tOPCODE
  else if op = 0x64 then
    if modOf w 9 23 ≠ 0 then .error tOPCODE
    else if bitOf w.toNat 8 then (if rest 0 then .ok (.sync op) else .error tOPCODE)
    else if imm 0 && imm 1 && imm 2 && rest 3 && forecastOk false (v 0) (v 1) (v 2) then .ok (.sync op) else .error tOPCODE
  else .error tOPCODE

/-- A slot word under a bit of its bundle's header (R137, R144), or the status of its failure. -/
def decodeSlot (ds : List W128) (bit : Nat) (w : W128) : Except Nat Slot :=
  let op := modOf w 0 8
  match slotPart bit with
  | .product => productSlot ds w op
  | .set => setSlot ds w op
  | .cvu => decodeVec ds w op
  | .ae => decodeAeSlot ds w op
  | .sync => syncSlot ds w op

/-! ### Bundle streams (R137) -/

/-- A bundle: its cycle and its slot words with their header bits. -/
structure Bundle where
  cycle : Nat
  slots : List (Nat × W128)
deriving DecidableEq, Repr

/-- The bundles of a stream of `n` from an offset, as far as they keep the rules; and the index of the first that breaks
one. -/
def parseBundles (b : List Byte) (body : Nat) : (n i off prev : Nat) → List Bundle × Option Nat
  | 0, _, _, _ => ([], none)
  | n + 1, i, off, prev =>
    let h := fieldAt b off 8
    let delta := bitsOf h 0 32
    let mask := bitsOf h 32 10
    let bits := (List.range 10).filter fun k => bitOf mask k
    let fin := off + 8 + 16 * bits.length
    let cyc := prev + delta
    if b.length < off + 8 ∨ bitsOf h 42 22 ≠ 0 ∨ (0 < i ∧ delta = 0) ∨ body ≤ cyc ∨ b.length < fin then ([], some i)
    else
      let q : Bundle := ⟨cyc, bits.mapIdx fun k bit => (bit, BitVec.ofNat 128 (fieldAt b (off + 8 + 16 * k) 16))⟩
      let r := parseBundles b body n (i + 1) fin cyc
      (q :: r.1, r.2)

/-- Bytes of a stream (R158). -/
def streamBytes (qs : List Bundle) : Nat := (qs.map fun q => 8 + 16 * q.slots.length).sum

/-! ### HEAT sections (R136, R159, R162 to R164) -/

/-- A gate entry (R164), or none where it breaks its layout. -/
def parseGate (b : List Byte) (off : Nat) : Option Gate :=
  let n := fieldAt b off 16
  let k := bitsOf n 0 4
  let sel := bitsOf n 9 10
  let ctx := bitsOf n 32 20
  let value := bitsOf n 64 32
  let wd := bitsOf n 96 32
  let valPrm := bitOf n 19
  let prm := bitsOf n 20 6
  let named := k == 3 || k == 6
  let counted := k == 3 || k == 4
  let ok := 1 ≤ k && k ≤ 6 && bitsOf n 26 6 == 0 && bitsOf n 52 12 == 0 &&
    (k == 1 || k == 2 || (k == 4 && sel % 128 < 8 && sel / 8 == 0) || (k == 5 && sel / 32 == 0) || sel == 0) &&
    (named || ctx == 0) && (counted || (value == 0 && !valPrm)) && (valPrm || prm == 0) &&
    (wd == 0 || (25000 ≤ wd && wd ≤ 1500000000))
  if ok then some ⟨k, bitsOf n 4 5, sel, valPrm, prm, ctx, value, wd⟩ else none

/-- A ruling entry (R159). -/
def parseRuling (b : List Byte) (off vcores : Nat) : Option Ruling :=
  let n := fieldAt b off 16
  let ty := bitsOf n 0 4
  let v := bitsOf n 4 5
  let lo := bitsOf n 64 32
  let hi := bitsOf n 96 32
  let ok := decide (v < vcores) && (match ty with
    | 1 => bitsOf n 56 8 == 0 && 1 ≤ bitsOf n 32 24 && bitsOf n 32 24 ≤ 8388608
    | 2 => bitsOf n 9 55 == 0
    | 3 => bitsOf n 9 7 == 0 && bitsOf n 36 28 == 0
    | _ => false)
  if !ok then none
  else match ty with
    | 1 => some ⟨1, v, bitsOf n 9 23, bitsOf n 32 24, lo, hi, 0, 0⟩
    | 2 => some ⟨2, v, 0, 0, 0, 0, bitsOf n 64 64, 0⟩
    | _ => some ⟨3, v, 0, 0, lo, hi, bitsOf n 16 16, bitsOf n 32 4⟩

/-- A variant entry (R163). -/
def parseVariant (b : List Byte) (off : Nat) : Option Variant :=
  let n := fieldAt b off 16
  let ok := bitsOf n 22 10 == 0 && bitsOf n 96 32 == 0 && 1 ≤ bitsOf n 16 3 && bitsOf n 16 3 ≤ 4 && bitsOf n 19 3 ≤ 5 &&
    bitsOf n 32 32 != 0
  if ok then some ⟨bitsOf n 0 16, bitsOf n 16 3, bitsOf n 19 3, bitsOf n 32 32, bitsOf n 64 32, true⟩ else none

/-- A tile-queue word of the record (R116, R162). -/
def tqWordOk (w : Nat) : Bool := bitsOf w 20 12 == 0 && bitsOf w 48 16 == 0 && decide (bitsOf w 10 7 ≤ 64)

def collectAll {α : Type} : List (Option α) → Option (List α)
  | [] => some []
  | none :: _ => none
  | some a :: r => match collectAll r with
    | some l => some (a :: l)
    | none => none

/-- A HEAT section's bytes as a heat, not yet translated; none where its layout is broken (R136, R162). -/
def parseHeat (b : List Byte) (vdie : Nat) : Option HeatDef :=
  let f (o n : Nat) : Nat := fieldAt b o n
  let v := f 2 1
  let ro := f 8 4
  let rs := f 12 4
  let uo := f 16 4
  let us := f 20 4
  let ng := f (ro + 1) 1
  let nv := f (ro + 2) 1
  let attr := f (ro + 3) 1
  let pinCtx := f (ro + 4) 4
  let reg := f (ro + 0x50) 8
  let tqs := (List.range 8).map fun i => f (ro + 0x10 + 8 * i) 8
  let ok := decide (0x20 + 8 * v ≤ b.length) && 1 ≤ v && v ≤ 32 && f 3 1 < 2 && f 0x18 8 == 0 &&
    decide (ro + rs ≤ b.length) && rs == 0xA0 + 16 * ng && us % 16 == 0 && decide (uo + us ≤ b.length) && f ro 1 ≤ 3 &&
    ng ≤ 16 && 1 ≤ nv && nv ≤ 4 && attr < 2 && decide (pinCtx < 2 ^ 20) && (attr == 1 || pinCtx == 0) &&
    f (ro + 8) 8 == 0 && f (ro + 0x58) 8 == 0 && tqs.all tqWordOk && decide (reg < 2 ^ 17) && bitsOf reg 10 7 ≤ 64 &&
    (bitsOf reg 10 7 != 0 || bitsOf reg 0 10 == 0) && allZero b (ro + 0x60 + 16 * nv) (64 - 16 * nv)
  let vs := collectAll ((List.range nv).map fun i => parseVariant b (ro + 0x60 + 16 * i))
  let gs := collectAll ((List.range ng).map fun i => parseGate b (ro + 0xA0 + 16 * i))
  let us := collectAll ((List.range (us / 16)).map fun i => parseRuling b (uo + 16 * i) v)
  match vs, gs, us with
  | some vs, some gs, some us =>
    if ok && (match vs with | x :: _ => x.body == f 0 2 | [] => false) then
      some { no := f 0 2, vdie := vdie, vcores := v, stop := f 3 1 == 1, body := f 4 4, cls := f ro 1, pin := attr == 1
             pinCtx := pinCtx, tqs := tqs, reg := reg, variants := vs, gates := gs, ruling := us, pads := [] }
    else none
  | _, _, _ => none

/-- The bundle streams of a HEAT section, by virtual core; and the first that breaks its rules. -/
def heatStreams (b : List Byte) : List (List Bundle × Option Nat) :=
  (List.range (fieldAt b 2 1)).map fun v =>
    let w := fieldAt b (0x20 + 8 * v) 8
    parseBundles b (fieldAt b 4 4) (bitsOf w 32 32) 0 (bitsOf w 0 32) 0

end Sys2Proof.Machine
end

