-- ==== Sys2Proof/Machine/Translate.lean ====
section
/-! DEFINITION. Translation of a module (R51, R61, R62, R83, R104, R116, R124, R135, R152, R153, R155 to R158): the checks of
every heat's body and what loading it gives. Where several checks fail, the first in the order of this file is
reported (log 23). -/

namespace Sys2Proof.Machine

open Sys2Proof

/-- A slot of a body with its bundle, its cycle and its bit of the bundle header. -/
structure Placed where
  bundle : Nat
  cycle : Nat
  bit : Nat
  slot : Slot
deriving DecidableEq, Repr

/-- The decoded slots of a stream, or the first status with its bundle. -/
def decodeStream (ds : List W128) (qs : List Bundle) : Except (Nat × Nat) (List Placed) :=
  let all := qs.zipIdx.flatMap fun q => q.1.slots.map fun w => (q.2, q.1.cycle, w.1, decodeSlot ds w.1 w.2)
  all.foldr (fun (q : Nat × Nat × Nat × Except Nat Slot) acc =>
    match q.2.2.2, acc with
    | .error e, _ => .error (e, q.1)
    | .ok _, .error e => .error e
    | .ok v, .ok l => .ok (⟨q.1, q.2.1, q.2.2.1, v⟩ :: l)) (.ok [])

/-! ### Spans of engine operations -/

end Sys2Proof.Machine

namespace Sys2Proof

open Sys2Proof.Machine

/-- The product cycles of a product (R39). -/
def OuterSlot.cycles (o : OuterSlot) : Nat := if o.colFmt = .fp32 then 4 * o.len else o.len / o.colFmt.fold

/-- Issue to visibility of a product under the native table (R156). -/
def visible (f : Fmt) : Nat := if f = .fp32 then 14 else 11

/-- The cycle a chain reads its first row, and the cycle it reads its last. -/
def ChainSlot.reads (o : ChainSlot) (c : Nat) : Nat × Nat :=
  let t := c + o.outer.cycles - 1 + visible o.outer.colFmt
  (t, t + 63 * chainPeriod o.epilogue)

end Sys2Proof

namespace Sys2Proof.Machine

open Sys2Proof

/-- The cycles a slot occupies: its engine's product part, row read port or inbound path (0, 1, 2). -/
def Placed.spans (q : Placed) : List (Nat × Nat × Nat) :=
  match q.slot with
  | .outer o => [(0, q.cycle, q.cycle + o.cycles - 1)]
  | .chain o => [(0, q.cycle, q.cycle + o.outer.cycles - 1), (1, (o.reads q.cycle).1, (o.reads q.cycle).2)]
  | .drain _ => [(1, q.cycle, q.cycle + 63)]
  | .row _ => [(1, q.cycle, q.cycle + 63)]
  | .load _ => [(2, q.cycle, q.cycle + 63)]
  | _ => []

/-- Two operations of an engine that hold one of its paths in the same cycle (R51, R61): the later bundle. -/
def pathClash (ps : List Placed) : Option Nat :=
  let all := ps.flatMap fun q => q.spans.map fun v => (q, v)
  all.zipIdx.findSome? fun a =>
    (all.drop (a.2 + 1)).findSome? fun b =>
      if a.1.1.bit / 2 = b.1.bit / 2 ∧ a.1.2.1 = b.2.1 ∧ a.1.2.2.1 ≤ b.2.2.2 ∧ b.2.2.1 ≤ a.1.2.2.2 then some b.1.bundle
      else none

/-- An operation whose last product cycle or row does not issue below cycle B (R153). -/
def overrun (body : Nat) (ps : List Placed) : Option Nat :=
  (ps.find? fun q => q.spans.any fun v => decide (body ≤ v.2.2)).map (·.bundle)

/-! ### Tile queues (R116) -/

/-- The queue an operand names, with the span of its entries. -/
def queueOf (o : Opnd) (span : Nat) (outbound : Bool) : List (Nat × Nat × Bool) :=
  match o with
  | .tq q _ => [(q.val, span, outbound)]
  | _ => []

/-- The queues a slot uses: number, slots of an entry, and whether it takes the queue as outbound. -/
def Slot.queues (v : Slot) : List (Nat × Nat × Bool) :=
  match v with
  | .outer o => queueOf o.col (spanOf o.colFmt) false ++ queueOf o.row (spanOf o.rowFmt) false
  | .chain o =>
    queueOf o.outer.col (spanOf o.outer.colFmt) false ++ queueOf o.outer.row (spanOf o.outer.rowFmt) false
  | .drain o => queueOf o.dst (spanOf o.ofmt) true
  | .load o => queueOf o.src (spanOf o.ifmt) false
  | .ae op o => match o.tq with
    | some q => [(q.val, 1, op == 0x41)]
    | none => []
  | _ => []

/-- Do a record's queue words let a slot use its queues? -/
def queuesOk (tqs : List Nat) (v : Slot) : Bool :=
  v.queues.all fun u =>
    let w := tqs.getD u.1 0
    let depth := bitsOf w 10 7
    depth != 0 && bitOf w 17 == u.2.2 && depth % u.2.1 == 0

/-! ### Modes of the sets (R50, R62, R75, R77) -/

/-- Which set is active, each set's mode where a heat has fixed it (INT8: true), and the product part in progress. -/
structure ModeSt where
  act : Bool
  m0 : Option Bool
  m1 : Option Bool
  run : Option (Nat × Bool)
deriving DecidableEq, Repr

def ModeSt.mode (v : ModeSt) (set1 : Bool) : Option Bool := if set1 then v.m1 else v.m0
def ModeSt.fix (v : ModeSt) (set1 m : Bool) : ModeSt := if set1 then { v with m1 := some m } else { v with m0 := some m }

def modeFits (a : Option Bool) (m : Bool) : Bool := a.all (· == m)

def vectorFmt (o : Opnd) : Option Fmt := o.fmt

/-- One operation of an engine; none where it uses a set in another mode. -/
def ModeSt.op (v : ModeSt) (c : Nat) (q : Slot) : Option ModeSt :=
  let product (o : OuterSlot) : Option ModeSt :=
    let int := o.colFmt == .int8
    let v' := if o.init then v.fix v.act int else v
    if modeFits (v'.mode v.act) int then some { v' with run := some (c + o.cycles, int) } else none
  match q with
  | .outer o => product o
  | .chain o => product o.outer
  | .roles =>
    let v' := { v with act := !v.act }
    match v.run with
    | some r => if r.1 ≤ c + 1 ∨ modeFits (v'.mode v'.act) r.2 = true then some v' else none
    | none => some v'
  | .drain o =>
    let m := v.mode (v.act ^^ o.shadow)
    if (o.ofmt = .raw64f ∧ m = some true) ∨ (o.ofmt = .raw64i ∧ m = some false) then none else some v
  | .load o =>
    let int := o.ifmt == .raw64i
    let meets := match v.run with | some r => !o.shadow && decide (c < r.1) && r.2 != int | none => false
    if meets then none else some (v.fix (v.act ^^ o.shadow) int)
  | .row o =>
    let m := v.mode (v.act ^^ o.shadow)
    let vecs (f : Fmt) : Bool := (vectorFmt o.v1).all (· == f) && (vectorFmt o.v2).all (· == f)
    match m with
    | some true => if (o.op == .add || o.op == .clamp) && vecs .raw64i then some v else none
    | some false => if vecs .fp32 then some v else none
    | none => some v
  | _ => some v

/-- The operations of an engine in their order: within a bundle a drain or row operation, then the product part, then a
catch or load. -/
def engineOps (ps : List Placed) (e : Nat) : List Placed :=
  let own := ps.filter fun q => decide (q.bit < 6) && q.bit / 2 == e
  let reads (q : Placed) : Bool := match q.slot with | .drain _ => true | .row _ => true | _ => false
  (own.map (·.cycle)).eraseDups.flatMap fun c =>
    let at_ := own.filter fun q => q.cycle == c
    (at_.filter reads) ++ (at_.filter fun q => !reads q)

/-- Replays one after another, `n` of them: the bundle that first uses a set in another mode. -/
def modeClash (n : Nat) (ps : List Placed) : Option Nat :=
  (List.range 3).findSome? fun e =>
    let ops := engineOps ps e
    let walk (st : Option ModeSt × Option Nat) (q : Placed) : Option ModeSt × Option Nat :=
      match st.1 with
      | none => st
      | some v => match v.op q.cycle q.slot with
        | some v' => (some v', st.2)
        | none => (none, some q.bundle)
    let replay (st : Option ModeSt × Option Nat) : Option ModeSt × Option Nat :=
      ops.foldl walk (st.1.map fun v => { v with run := none }, st.2)
    ((List.range n).foldl (fun st _ => replay st) (some ⟨false, none, none, none⟩, none)).2

/-! ### Pads of a revision-2 module (R156, R157) -/

/-- Issue to visibility of a product in revision 2. -/
def visible2 (f : Fmt) : Nat := if f = .fp32 then 12 else 9

/-- The roles of the sets through the replays, and for each set the first cycle from which a product cycle tagged with
it is visible under revision 2. -/
structure PadSt where
  act : Bool
  s0 : Option Nat
  s1 : Option Nat
  run : Option (Nat × Nat)
  pads : List Nat
deriving DecidableEq, Repr

def PadSt.first (v : PadSt) (set1 : Bool) : Option Nat := if set1 then v.s1 else v.s0
def PadSt.note (v : PadSt) (set1 : Bool) (n : Nat) : PadSt :=
  let m (o : Option Nat) : Option Nat := some (match o with | some k => min k n | none => n)
  if set1 then { v with s1 := m v.s1 } else { v with s0 := m v.s0 }

/-- One operation, its replay beginning at `base`. A drain or row operation that reads a set takes pads where a product
cycle of the set issued at least the reference latency before it. -/
def PadSt.op (v : PadSt) (base : Nat) (q : Placed) : PadSt :=
  let c := base + q.cycle
  let product (o : OuterSlot) : PadSt :=
    { v.note v.act (c + visible2 o.colFmt) with run := some (c + o.cycles, visible2 o.colFmt) }
  let reads (shadow : Bool) : PadSt :=
    match v.first (v.act ^^ shadow) with
    | some n => if n ≤ c ∧ v.pads.contains q.cycle = false then { v with pads := v.pads ++ [q.cycle] } else v
    | none => v
  match q.slot with
  | .outer o => product o
  | .chain o => product o.outer
  | .roles =>
    let v' := { v with act := !v.act }
    match v.run with
    | some r => if c + 1 < r.1 then v'.note v'.act (c + 1 + r.2) else v'
    | none => v'
  | .drain o => reads o.shadow
  | .row o => reads o.shadow
  | _ => v

/-- The Wilum cycles of a virtual core's bundles that pads stand before, in `n` replays. -/
def padCycles (n body : Nat) (ps : List Placed) : List Nat :=
  ((List.range 3).flatMap fun e =>
    let ops := engineOps ps e
    let run := (List.range n).foldl (fun (v : PadSt) r => ops.foldl (fun (v : PadSt) q => v.op (r * (body + 8)) q) v)
      ⟨false, none, none, none, []⟩
    run.pads).eraseDups

/-- The native cycle of a bundle. -/
def padded (pads : List Nat) (c : Nat) : Nat := c + 2 * (pads.filter fun q => decide (q ≤ c)).length

/-- A moved catch, drain, load or row operation that changes its offset from a product in progress (R157). -/
def padMove (pads : List Nat) (ps : List Placed) : Option Nat :=
  let prods := ps.filter fun q => match q.slot with | .outer _ => true | .chain _ => true | _ => false
  let moved := ps.filter fun q =>
    match q.slot with | .roles => true | .drain _ => true | .load _ => true | .row _ => true | _ => false
  moved.findSome? fun q =>
    if prods.any fun o => o.bit / 2 == q.bit / 2 && decide (o.cycle ≤ q.cycle) &&
        decide (q.cycle ≤ (o.spans.map fun v => v.2.2).foldl max 0) &&
        padded pads q.cycle - padded pads o.cycle != q.cycle - o.cycle then some q.bundle else none

/-! ### Static accesses with immediate addresses (R104) -/

/-- The walk of a descriptor that takes nothing from a PRM. -/
def State.fixedWalk (s : State) (o : Opnd) : Option Walk :=
  match o with
  | .desc w => if bitsOf w.toNat 125 3 = 0 then s.localDesc 0 w else none
  | _ => none

/-- The banks `n` steps of an operand need from step t on. -/
def Walk.stepBanks (w : Walk) (f : Fmt) (t n : Nat) : Nat :=
  let st := stepPlace f t
  banksOf ((List.range n).flatMap fun i => vecAddrs f (w.runBase st.1) st.2.1 ((st.2.2 + i) % 64) w.col)

/-- A static access: its bundle, its cycle, whether it writes, its banks. -/
structure Touch where
  bundle : Nat
  cycle : Nat
  write : Bool
  banks : Nat
deriving DecidableEq, Repr

/-- The static accesses of a product that begins in native cycle c. -/
def State.productTouches (s : State) (b c : Nat) (o : OuterSlot) : List Touch :=
  let four := o.colFmt == .fp32
  let n := o.colFmt.fold
  let rd (ow : Option Walk) (f : Fmt) (k t : Nat) : List Touch :=
    match ow with
    | some w => [⟨b, c + k, false, w.stepBanks f t n⟩]
    | none => []
  let col := s.fixedWalk o.col
  let row := s.fixedWalk o.row
  if o.en = .imm 0 then []
  else (List.range o.cycles).flatMap fun k =>
    if four && k % 4 != 0 then []
    else
      let t := if four then k / 4 else k * n
      let rows := if !o.slide then rd row o.rowFmt k t
        else if k = 0 then rd row o.rowFmt 0 0 ++ (if 1 < o.len / n then rd row o.rowFmt 0 n else [])
        else []
      rd col o.colFmt k t ++ rows

/-- The static accesses of a slot that issues in native cycle c. -/
def State.touches (s : State) (b c : Nat) (v : Slot) : List Touch :=
  let kib (w : W128) (write : Bool) (at_ : Nat) : List Touch :=
    match s.fixedWalk (.desc w) with
    | some k => [⟨b, at_, write, banksOf ((List.range 1024).map (k.runBase 0 + ·))⟩]
    | none => []
  let vector (o : Opnd) : List Touch :=
    match s.fixedWalk o with
    | some w => [⟨b, c, false, w.stepBanks w.fmt 0 1⟩]
    | none => []
  match v with
  | .outer o => s.productTouches b c o
  | .chain o => s.productTouches b c o.outer
  | .drain o =>
    match s.fixedWalk o.dst with
    | some w => (List.range 64).filterMap fun r =>
        if r < w.count then
          some ⟨b, c + r + 3, true, banksOf ((rowBytes o.ofmt (w.runBase 0) 0 r (List.replicate 64 0)).map (·.1))⟩
        else none
    | none => []
  | .load o =>
    match s.fixedWalk o.src with
    | some w => (List.range 64).map fun r => ⟨b, c + r, false, w.stepBanks o.ifmt r 1⟩
    | none => []
  | .row o => vector o.v1 ++ vector o.v2
  | .vec _ rd wr => (rd.map fun w => kib w false c).getD [] ++ (wr.map fun w => kib w true (c + 5)).getD []
  | _ => []

/-- Two accesses of one direction that need one bank in one cycle: the later bundle. -/
def touchClash : List Touch → Option Nat
  | [] => none
  | a :: r =>
    match r.find? fun b => a.cycle == b.cycle && a.write == b.write && (a.banks &&& b.banks) != 0 with
    | some b => some b.bundle
    | none => touchClash r

def State.bodyClash (s : State) (pads : List Nat) (ps : List Placed) : Option Nat :=
  touchClash (ps.flatMap fun q => s.touches q.bundle (padded pads q.cycle) q.slot)

/-- The CVU cycles of a chain: eight rows make a register, whose epilogue follows them (R124). -/
def chainCvu (q : Placed) : List Nat :=
  match q.slot with
  | .chain o =>
    let t := (o.reads q.cycle).1
    let p := chainPeriod o.epilogue
    let e := (o.epilogue.map EpiOp.cost).sum
    (List.range 8).flatMap fun k => (List.range e).map fun i => t + 8 * p * (k + 1) + i
  | _ => []

/-- A vector operation in a cycle a chain uses. -/
def chainClash (ps : List Placed) : Option Nat :=
  let used := ps.flatMap chainCvu
  (ps.find? fun q => match q.slot with
    | .vec n _ _ => (List.range n).any fun i => used.contains (q.cycle + i)
    | _ => false).map (·.bundle)

/-! ### One HEAT section -/

/-- A HEAT section read: its heat, its streams decoded, and the size of each stream. -/
structure HeatParse where
  heat : HeatDef
  slots : List (List Placed)
  strips : List (List Byte)
deriving DecidableEq, Repr

/-- The most replays a variant of the module that runs this body makes (R62, R163), up to three: the roles and modes of the
sets recur from then on. -/
def bodyReplays (hs : List HeatParse) (h : HeatParse) : Nat :=
  let runs (q : HeatParse) : List Nat := (q.heat.variants.filter fun v => v.body == h.heat.no).map fun v =>
    if v.replays = 0 then 2 ^ 32 else v.replays
  min 3 (((hs.filter fun q => q.heat.vdie == h.heat.vdie).flatMap runs).foldl max 1)

/-- A status at each virtual core's slots, the first that fails. -/
def coreFail (h : HeatDef) (cs : List (List Placed)) (status : Nat) (chk : List Placed → Option Nat) : Option TransErr :=
  cs.zipIdx.findSome? fun q => (chk q.1).map fun b => ⟨status, h.vdie, h.no, q.2, b⟩

/-- The checks of a body on its own, the revision-2 pads among them. -/
def State.bodyFail (s : State) (rev2 sr : Bool) (n : Nat) (h : HeatDef) (cs : List (List Placed)) : Option TransErr :=
  let find (p : Placed → Bool) (ps : List Placed) : Option Nat := (ps.find? p).map (·.bundle)
  firstFail [
    coreFail h cs tSLOT (overrun h.body),
    coreFail h cs tSLOT pathClash,
    coreFail h cs tSLOT (find fun q => !queuesOk h.tqs q.slot),
    coreFail h cs tFORMAT (modeClash n),
    coreFail h cs tSTOCHASTIC (find fun q => match q.slot with | .drain o => o.stochastic && !sr | _ => false),
    coreFail h cs tCONFLICT (s.bodyClash []),
    coreFail h cs tCONFLICT chainClash,
    if rev2 then coreFail h cs tPAD (fun ps => padMove (padCycles n h.body ps) ps) else none,
    if rev2 then coreFail h cs tPAD (fun ps => s.bodyClash (padCycles n h.body ps) ps) else none]

/-- Read a HEAT section: its layout, its streams' rules and its slot words (R135). -/
def readHeat (m : List Byte) (ds : List W128) (q : Sect) : Except TransErr HeatParse :=
  let b := slice m q.off q.size
  let no := fieldAt b 0 2
  match parseHeat b q.vdie with
  | none => .error ⟨tCONTAINER, q.vdie, no, 0, 0⟩
  | some h =>
    let st := heatStreams b
    match st.zipIdx.findSome? fun c => c.1.2.map fun i => (c.2, i) with
    | some (v, i) => .error ⟨tCONTAINER, q.vdie, no, v, i⟩
    | none =>
      let dec := st.map fun c => decodeStream ds c.1
      match dec.zipIdx.findSome? fun c => match c.1 with | .error e => some (e, c.2) | .ok _ => none with
      | some (e, v) => .error ⟨e.1, q.vdie, no, v, e.2⟩
      | none =>
        .ok ⟨h, dec.map fun c => (match c with | .ok l => l | .error _ => []),
          st.mapIdx fun v c => slice b (bitsOf (fieldAt b (0x20 + 8 * v) 8) 0 32) (streamBytes c.1)⟩

/-! ### The module -/

/-- The cores a variant's body may take on a die (R155). -/
def State.variantCores (s : State) (d : Nat) (v : Variant) : List Nat :=
  let cl := s.variantClusters d v
  (s.wideCores d).filter fun p => cl.contains (p / 8 % 4)

/-- A far word whose REL is 0b01, and the target of a CONST section: has its virtual die and core a counterpart? -/
def State.mapped (s : State) (vdies : Nat) (phys : Nat → Nat) (a : Nat) : Bool :=
  let sp := kSpace a
  let o := kOff a
  if sp = 2 then true
  else
    let e := if sp = 0 then bitsOf o 38 3 else if sp = 1 then bitsOf o 28 3 else bitsOf o 18 3
    let v := if sp = 1 then bitsOf o 23 5 else bitsOf o 13 5
    decide (e < vdies) && (sp == 0 || decide (v < (s.wideCores (phys e)).length))

/-- A relocated address (R142): NODE is the own node's, and the virtual die and core give way to their counterparts. -/
def State.relocate (s : State) (phys : Nat → Nat) (a : Nat) : Nat :=
  let sp := kSpace a
  let o := kOff a
  let at_ (dlo clo : Nat) : Nat :=
    let d := phys (bitsOf o dlo 3)
    let c := (s.wideCores d).getD (bitsOf o clo 5) (32 * d) % 32
    putBits (putBits o dlo 3 d) clo 5 c
  kAddr s.node sp (match sp with
    | 0 => putBits o 38 3 (phys (bitsOf o 38 3))
    | 1 => at_ 28 23
    | 2 => o
    | _ => at_ 18 13)

/-- A first descriptor of a virtual die whose mapping has no counterpart. -/
def State.descFail (s : State) (vdies : Nat) (phys : Nat → Nat) (e : Nat) (ds : List W128) : Option TransErr :=
  (ds.zipIdx.find? fun w =>
    bitsOf w.1.toNat 0 2 == 1 && bitsOf w.1.toNat 6 2 == 1 && !s.mapped vdies phys (bitsOf w.1.toNat 8 64)).map
    fun w => ⟨tCORES, e, 0, 0, w.2⟩

/-- Bytes of strip memory of a core (R158). -/
def stripRoom : Nat := 524288

/-- The strips each core would hold: core, body and bytes, each strip once. -/
def State.stripLoads (s : State) (phys : Nat → Nat) (hs : List HeatParse) : List (Nat × Nat × Nat × Nat) :=
  (hs.flatMap fun h => h.heat.variants.flatMap fun v =>
    match hs.find? fun k => k.heat.no == v.body && k.heat.vdie == h.heat.vdie with
    | none => []
    | some k =>
      ((s.variantCores (phys h.heat.vdie) v).take k.heat.vcores).zipIdx.map fun c =>
        let st := k.strips.getD c.2 []
        (c.1, k.heat.no, c.2, min (Config.stripBytes st) (st.length + 4096))).eraseDups

/-- The checks over the heats of a module: their numbers, variants, queues under a variant, cores, gates, rulings. -/
def State.heatFail (s : State) (phys : Nat → Nat) (hs : List HeatParse) (h : HeatParse) : Option TransErr :=
  let k := h.heat
  let d := phys k.vdie
  let err (status vcore bundle : Nat) : TransErr := ⟨status, k.vdie, k.no, vcore, bundle⟩
  let body (v : Variant) : Option HeatParse := hs.find? fun q => q.heat.no == v.body && q.heat.vdie == k.vdie
  firstFail [
    if (hs.filter fun q => q.heat.no == k.no && q.heat.vdie == k.vdie).length = 1 then none else some (err tCONTAINER 0 0),
    if k.variants.all fun v => (body v).isSome then none else some (err tCONTAINER 0 0),
    k.variants.findSome? fun v => (body v).bind fun q =>
      coreFail k q.slots tSLOT fun ps => (ps.find? fun x => !queuesOk k.tqs x.slot).map (·.bundle),
    match k.variants with
    | v :: _ => if k.vcores ≤ (s.variantCores d v).length then none else some (err tCORES 0 0)
    | [] => none,
    (k.gates.find? fun g => decide ((s.wideCores d).length ≤ g.vcore)).map fun g => err tCORES g.vcore 0,
    ((List.range 32).find? fun v => decide (64 < (k.ruling.filter fun r => r.ty == 1 && r.vcore == v).length)).map
      fun v => err tRULING v 0]

/-- A heat as loaded: its variants that fit, its contexts moved to the tenancy's range (R306), its pads. -/
def State.loadedHeat (s : State) (rev2 : Bool) (phys : Nat → Nat) (ctxBase : Nat) (hs : List HeatParse) (h : HeatParse) :
    HeatDef :=
  let k := h.heat
  let fit (v : Variant) : Variant :=
    let n := match hs.find? fun q => q.heat.no == v.body && q.heat.vdie == k.vdie with
      | some q => q.heat.vcores
      | none => 33
    { v with usable := decide (n ≤ (s.variantCores (phys k.vdie) v).length) }
  let pads := if rev2 then h.slots.zipIdx.flatMap fun c => (padCycles (bodyReplays hs h) k.body c.1).map fun x => (c.2, x) else []
  let longest := ((List.range k.vcores).map fun v => (pads.filter fun q => q.1 == v).length).foldl max 0
  { k with
    variants := k.variants.map fit
    pinCtx := if k.pin then (k.pinCtx + ctxBase) % 2 ^ 20 else 0
    gates := k.gates.map fun g => if g.kind = 3 ∨ g.kind = 6 then { g with ctx := (g.ctx + ctxBase) % 2 ^ 20 } else g
    body := k.body + 2 * longest
    pads := pads }

/-- Read every HEAT section, or its first failure. -/
def readHeats (m : List Byte) (desc : Nat → List W128) : List Sect → Except TransErr (List HeatParse)
  | [] => .ok []
  | q :: r =>
    match readHeat m (desc q.vdie) q with
    | .error e => .error e
    | .ok h => match readHeats m desc r with
      | .ok l => .ok (h :: l)
      | .error e => .error e

/-- Translate a module whose container, digest and signature hold (R135, R155). `phys` gives the physical die of a
virtual die, `ctxBase` the tenancy's first context. -/
def State.translate (s : State) (phys : Nat → Nat) (ctxBase : Nat) (m : List Byte) : Except TransErr Module :=
  let ss := sectionsOf m
  let rev := fieldAt m 6 1
  let vdies := fieldAt m 0x30 1
  let dsOf (e : Nat) : List W128 := descsOf m ss e
  let sr (e : Nat) : Bool := (s.wideCores (phys e)).all fun p => s.f (R.ENG_COMPAT p) F.ENG_COMPAT_SR_DRAIN == 1
  if rev ≠ 2 ∧ rev ≠ 3 then .error (TransErr.mk' tREF)
  else if ss.any fun q => (q.ty == 2 && decide (32768 < q.size)) || (q.ty == 3 && decide (65532 < q.size)) then
    .error (TransErr.mk' tCOX)
  else match readHeats m dsOf (ss.filter fun q => q.ty == 1) with
    | .error e => .error e
    | .ok hs =>
      let strips := s.stripLoads phys hs
      let fail : Option TransErr := firstFail (
        (hs.map fun h => s.bodyFail (rev == 2) (sr h.heat.vdie) (bodyReplays hs h) h.heat h.slots) ++
        (hs.map fun h => s.heatFail phys hs h) ++
        ((List.range vdies).map fun e => s.descFail vdies phys e (dsOf e)) ++
        [(ss.zipIdx.find? fun q => q.1.ty == 5 && !s.mapped vdies phys q.1.target).map fun q => ⟨tCORES, 0, 0, 0, q.2⟩,
         ((List.range 256).find? fun p =>
            decide (stripRoom < ((strips.filter fun x => x.1 == p).map fun x => x.2.2.2).sum)).map fun _ => TransErr.mk' tSTRIP])
      match fail with
      | some e => .error e
      | none =>
        .ok { vdies := vdies, entry := fieldAt m 0x36 2, tcSlots := fieldAt m 0x34 2
              cox := (ss.filter fun q => q.ty == 2 || q.ty == 3).map fun q =>
                ⟨q.ty == 2, q.vdie, q.vcore, slice m q.off q.size⟩
              heats := hs.map fun h => s.loadedHeat (rev == 2) phys ctxBase hs h }

/-! ### What a core receives (R152) -/

/-- The image that names a core most closely. -/
def coxImage (imgs : List CoxImage) (text : Bool) (e v : Nat) : Option CoxImage :=
  let pick (a b : Nat) : Option CoxImage := imgs.find? fun i => i.text == text && i.vdie == a && i.vcore == b
  (pick e v).orElse fun _ => (pick e 255).orElse fun _ => (pick 255 v).orElse fun _ => pick 255 255

end Sys2Proof.Machine
end

