-- ==== Sys2Proof/Machine/Job.lean ====
section
/-! DEFINITION. Jobs (R302 to R310): packages and their admission, granule reservations, a job's start and its reset. -/

namespace Sys2Proof.Machine

open Sys2Proof

/-! ### Packages (R304) -/

/-- A request of a package for granules. -/
structure GranReq where
  vdie : Nat
  ni : Bool
  purpose : Nat
  first : Nat
  count : Nat
deriving DecidableEq, Repr

def parseReq (w : Nat) : GranReq := ⟨bitsOf w 0 3, bitOf w 3, bitsOf w 4 2, bitsOf w 8 8, bitsOf w 16 8 + 1⟩

/-- Zero bits and PURPOSE of a request. -/
def reqOk (w : Nat) : Bool := bitsOf w 6 2 == 0 && bitsOf w 24 8 == 0 && bitsOf w 4 2 != 3

def pkgReqs (b : List Byte) : List GranReq :=
  (List.range (fieldAt b 6 2)).map fun i => parseReq (fieldAt b (0x80 + 4 * i) 4)

/-- The colophon's offset: it ends the package, and its length is 72 or 216 bytes (R134). -/
def pkgColophon (b : List Byte) : Nat :=
  let n := b.length
  if colophonOk b (n - 72) then n - 72 else n - 216

def pkgModule (b : List Byte) : List Byte := slice b (fieldAt b 0x10 8) (fieldAt b 0x18 8)

/-- Check 1 of R305, over the bytes the doorbell names. -/
def pkgOk (b : List Byte) : Bool :=
  let n := fieldAt b 6 2
  let off := fieldAt b 0x10 8
  let col := pkgColophon b
  decide (0x100 + 72 ≤ b.length) && asciiIs b 0 [0x41, 0x58, 0x4A, 0x50] && fieldAt b 4 2 == 1 && decide (n ≤ 32) &&
    fieldAt b 8 8 == b.length && off % 64 == 0 && decide (0x100 ≤ off) && colophonOk b col &&
    decide (off + fieldAt b 0x18 8 ≤ col) && allZero b 0x28 8 && allZero b 0x40 64 &&
    ((List.range 32).all fun i =>
      let w := fieldAt b (0x80 + 4 * i) 4
      if i < n then reqOk w else w == 0)

/-- The physical dies a package's DIEMAP and the defaults give the eight virtual dies (R305). -/
def dieMap (dies : List Nat) (map : Nat) : List (Option Nat) :=
  (List.range 8).map fun e => if bitsOf map (4 * e) 4 = 0xF then dies[e]? else some (bitsOf map (4 * e) 4)

/-- Check 4 of R305. -/
def dieMapOk (dies : List Nat) (map vdies : Nat) : Bool :=
  let given := ((List.range 8).map fun e => bitsOf map (4 * e) 4).filter fun n => n != 0xF
  let used := (dieMap dies map).take vdies
  (given.all fun d => dies.contains d) && allDistinct given && decide (vdies ≤ dies.length) &&
    (used.all fun o => o.isSome) && allDistinct used

/-! ### Seals (R134, R135, R305) -/

/-- A signature check of an object of R366: does it hold? A failure, or one injected, is recorded. -/
def State.sealCheck (s : State) (t obj : Nat) (m : List Byte) (off : Nat) (required : Bool) : Bool × State :=
  let signed := colophonSigned m off
  if !signed && !required then (true, s)
  else
    let armed := s.f (R.INJ_P_CTL 0x4A) F.INJ_P_CTL_SYN == obj
    let i : Option Nat × State := if armed then s.inject 0x4A kTen t else (none, s)
    let key := s.ten.keys.find? fun k => k.ten == t && k.id == colophonKey m off
    let good := signed && (match key with | some k => colophonVerify m off k.key | none => false)
    if good && i.1.isNone then (true, i.2)
    else
      let o := occ 0x4A kTen t obj (if signed then colophonKey m off else 0)
      (false, i.2.record (if i.1.isSome then i.2.injected o else o))

/-! ### Granules (R130, R295, R302) -/

/-- A group the device holds on a die (R295). -/
def heldGroup (d j : Nat) : Bool := j == 63 || (j == 62 && (d == 0 || d == 7))

/-- A die's save granule (R302). -/
def saveGranule (d : Nat) : Nat := if d = 0 ∨ d = 7 then 247 else 251

/-- Does a granule lie in a mailbox? -/
def State.mailboxAt (s : State) (t d i : Nat) : Bool :=
  let m := s.mailbox t
  let g := m.2 / 2 ^ 30
  m.1 == d && decide (g ≤ i) && decide (i < g + s.f (R.TEN_T_CFG t) F.TEN_T_CFG_MBOX_GIB + 1)

def Grant.covers (g : Grant) (d i : Nat) : Bool := g.die == d && decide (g.first ≤ i) && decide (i < g.first + g.count)

/-- The grants of a tenancy's jobs. -/
def State.grantsOf (s : State) (t : Nat) : List Grant :=
  [0, 1].flatMap fun slot => match s.job t slot with | some j => j.grants | none => []

/-- Is a granule free for a request of a tenancy? -/
def State.granuleFree (s : State) (t d : Nat) (taken : List (Nat × Nat)) (i : Nat) : Bool :=
  decide (i < 256) && !heldGroup d (i / 4) && i != saveGranule d && !s.mailboxAt t d i && !s.ten.hosted.contains (d, i) &&
    !((s.grantsOf t).any fun g => g.covers d i) && !taken.contains (d, i)

/-- Is a granule, in a mode, on a fenced stack? -/
def State.granuleFenced (s : State) (d i : Nat) (ni : Bool) : Bool :=
  if ni then s.stackFenced (4 * d + i % 4) else (List.range 4).any fun k => s.stackFenced (4 * d + k)

/-- What requests met so far take: granules by die, the modes of dies' groups, the grants. -/
structure Fit where
  taken : List (Nat × Nat)
  modes : NMap Nat
  grants : List Grant
deriving DecidableEq, Repr

def State.fitMode (s : State) (f : Fit) (d : Nat) : Nat :=
  match f.modes.look d with
  | some m => m
  | none => (s.rd (R.HBM_NI_MASK (4 * d))).toNat

/-- One granule: it must be free, and its group in the mode asked for or wholly free (R111). -/
def State.fitGranule (s : State) (t d : Nat) (ni : Bool) (f : Fit) (i : Nat) : Option Fit :=
  let j := i / 4
  let mask := s.fitMode f d
  let whole := (List.range 4).all fun k => s.granuleFree t d f.taken (4 * j + k)
  if !s.granuleFree t d f.taken i || s.granuleFenced d i ni then none
  else if bitOf mask j == ni then some { f with taken := (d, i) :: f.taken }
  else if whole then some { f with
    taken := (d, i) :: f.taken, modes := f.modes.ins d (putBits mask j 1 (if ni then 1 else 0)) }
  else none

def State.fitGranules (s : State) (t d : Nat) (ni : Bool) : Fit → List Nat → Option Fit
  | f, [] => some f
  | f, i :: l => match s.fitGranule t d ni f i with
    | none => none
    | some f => s.fitGranules t d ni f l

/-- Check 7 of R305: every request is met, or none. -/
def State.fitRequests (s : State) (t : Nat) (map : List (Option Nat)) : Fit → List GranReq → Option Fit
  | f, [] => some f
  | f, q :: l => match map.getD q.vdie none with
    | none => none
    | some d => match s.fitGranules t d q.ni f ((List.range q.count).map (q.first + ·)) with
      | none => none
      | some f => s.fitRequests t map { f with grants := f.grants ++ [⟨d, q.first, q.count, q.ni, q.purpose⟩] } l

/-- A die's groups take their modes in all four stack controllers (R111). -/
def State.setModes (s : State) (d mask : Nat) : State :=
  (List.range 4).foldl (fun (s : State) k => s.wr (R.HBM_NI_MASK (4 * d + k)) (BitVec.ofNat 64 mask)) s

/-! ### Admission (R305, R308, R309) -/

abbrev adBadPackage := 0x20
abbrev adDieMap := 0x21
abbrev adSlotBusy := 0x22
abbrev adNoContexts := 0x23
abbrev adNoHbm := 0x24

/-- Checks 1 to 7 in order: the first failure's status, or the physical dies and what the requests take. -/
def State.takePackage (s : State) (t len : Nat) (b : List Byte) : Except Nat (List Nat × Fit) × State :=
  if s.packageRoom t < len ∨ ¬ pkgOk b then (.error adBadPackage, s)
  else
    let col := pkgColophon b
    if ¬ colophonDigest b col then (.error tDIGEST, s)
    else
      let g := s.sealCheck t 5 b col (s.f (R.TEN_T_CFG t) F.TEN_T_CFG_SIG_REQ == 1)
      let s := g.2
      let dies := s.diesOf t
      let vdies := fieldAt (pkgModule b) 0x30 1
      let map := dieMap dies (fieldAt b 0x24 4)
      if ¬ g.1 then (.error tSIGNATURE, s)
      else if ¬ dieMapOk dies (fieldAt b 0x24 4) vdies then (.error adDieMap, s)
      else if s.hasJob t 1 then (.error adSlotBusy, s)
      else if s.f (R.TEN_T_CTX t) F.TEN_T_CTX_CTX_COUNT < fieldAt b 0x20 4 then (.error adNoContexts, s)
      else match s.fitRequests t map ⟨[], [], []⟩ (pkgReqs b) with
        | none => (.error adNoHbm, s)
        | some f => (.ok ((map.take vdies).filterMap id, f), s)

/-- What a LOAD answers: the slot's record, and what an admitted job takes (R305, R308). -/
def State.settleLoad (s : State) (t seq : Nat) (slot : Option Nat) (b : List Byte) (a : Except Nat (List Nat × Fit)) : State :=
  let job (phase status : Nat) : Job :=
    ⟨seq, phase, status, (0, 0, 0, 0), none, if status = adBadPackage then [] else slice b 0x30 16, fieldAt b 0x20 4, [], [],
      pkgModule b⟩
  let status := match a with | .error e => e | .ok _ => tOK
  let s := s.setF (R.TEN_T_STAT t) F.TEN_T_STAT_STATUS status
  match slot, a with
  | some k, .error e => s.putJob t k (job phRejected e)
  | some k, .ok (dies, f) =>
    let s := f.modes.foldl (fun (s : State) e => s.setModes e.1 e.2) s
    s.putJob t k { job phAdmitted tOK with dies := dies, grants := f.grants }
  | none, _ => s

/-- A LOAD that is accepted: the package is read, checked and admitted or refused. The record passes through RECEIVED and
CHECKING within this step (log 25). -/
def State.doLoad (s : State) (t seq len : Nat) : State :=
  let m := s.mailbox t
  let slot : Option Nat := if !s.hasJob t 0 then some 0 else if !s.hasJob t 1 then some 1 else none
  let b := if s.packageRoom t < len then [] else s.dieBytes m.1 (m.2 + 0x10000) len
  let a := s.takePackage t len b
  a.2.settleLoad t seq slot b a.1

/-! ### Translation and loading (R135, R152, R155, R306) -/

/-- The physical die of a virtual one. -/
def Job.phys (j : Job) (e : Nat) : Nat := j.dies.getD e 0

/-- A module is checked and translated (R135). -/
def State.translateJob (s : State) (t : Nat) (j : Job) : Except TransErr Module × State :=
  let m := j.code
  let col := moduleColophon m
  if ¬ containerOk m then (.error (TransErr.mk' tCONTAINER), s)
  else if ¬ colophonDigest m col then (.error (TransErr.mk' tDIGEST), s)
  else
    let g := s.sealCheck t 4 m col (s.f (R.TEN_T_CFG t) F.TEN_T_CFG_SIG_REQ == 1)
    if ¬ g.1 then (.error (TransErr.mk' tSIGNATURE), g.2)
    else (g.2.translate j.phys (s.f (R.TEN_T_CTX t) F.TEN_T_CTX_CTX_BASE) m, g.2)

/-- Bytes into a sparse byte table from key 0. -/
def byteTable (bs : List Byte) : NMap Byte := (bs.zipIdx.filter fun e => e.1 != 0).map fun e => (e.2, e.1)

/-- An armed strip point reports the strips a core loads next (R342). -/
def State.stripInject (s : State) (p : Nat) : State :=
  let s : State := match s.inject 0x0A kCore p with
    | (some syn, s) => s.record (s.injected (occ 0x0A kCore p 0 (syn % 256)))
    | (none, s) => s
  match s.inject 0x0B kCore p with
  | (some syn, s) => s.record (s.injected (occ 0x0B kCore p 0 (syn % 65536)))
  | (none, s) => s

/-- The cox memories of a core and its numbers (R152, R306). `data` says whether DMEM is loaded. -/
def State.loadCore (s : State) (m : Module) (ctxBase e v p : Nat) (data : Bool) : State :=
  let c := s.cox p
  let text := coxImage m.cox true e v
  let dmem := match coxImage m.cox false e v with | some i => i.bytes | none => []
  let d : NMap Byte := if data then
      ((leBytes 4 ctxBase).zipIdx).foldl (fun (t : NMap Byte) q => t.set (fun _ => 0) (0xFFFC + q.2) q.1) (byteTable dmem)
    else c.dmem
  let s := s.setCox p { c with imem := byteTable (match text with | some i => i.bytes | none => []), dmem := d }
  let a := R.COX_SELF p
  let s := ((s.setF a F.COX_SELF_VDIE e).setF a F.COX_SELF_VCORE v).setF a F.COX_SELF_MAPPED 1
  let ae := s.ae p
  (s.setAe p { ae with tcSlots := m.tcSlots, cache := [] }).stripInject p

/-- Cores no module maps. -/
def State.unmapCores (s : State) (t : Nat) : State :=
  (s.coresOf t).foldl (fun (s : State) p =>
    let a := R.COX_SELF p
    ((s.setF a F.COX_SELF_VDIE 0).setF a F.COX_SELF_VCORE 0).setF a F.COX_SELF_MAPPED 0) s

/-- Every core of a module's die-wide mappings: virtual die, virtual core, core. -/
def State.mappedCores (s : State) (j : Job) (m : Module) : List (Nat × Nat × Nat) :=
  (List.range m.vdies).flatMap fun e => (s.wideCores (j.phys e)).zipIdx.map fun c => (e, c.2, c.1)

/-- A translated module takes effect: strips, images, numbers. -/
def State.installModule (s : State) (t : Nat) (j : Job) (m : Module) (data : Bool) : State :=
  let base := s.f (R.TEN_T_CTX t) F.TEN_T_CTX_CTX_BASE
  let s := { s with mods := s.mods.ins t m }.unmapCores t
  (s.mappedCores j m).foldl (fun (s : State) q => s.loadCore m base q.1 q.2.1 q.2.2 data) s

/-- Mapped cores that have a text image begin to run it (R152). `fresh` coxes begin at address 0. -/
def State.runCoxes (s : State) (j : Job) (m : Module) (fresh : Bool) : State :=
  (s.mappedCores j m).foldl (fun (s : State) q =>
    if (coxImage m.cox true q.1 q.2.1).isSome then
      let c := s.cox q.2.2
      let c := if fresh then { Cox.init with imem := c.imem, dmem := c.dmem } else { c with halted := false }
      (s.setCox q.2.2 c).setF (R.COX_CTL q.2.2) F.COX_CTL_RUN 1
    else s) s

/-- Pseudo-channels fenced on a tenancy's dies are served from the repair group from now on (R295). -/
def State.redirect (s : State) (t : Nat) : State :=
  ((s.diesOf t).flatMap fun d => (List.range 4).map (4 * d + ·)).foldl (fun (s : State) k =>
    match (List.range 64).find? fun i => s.pcFenced k i with
    | some i =>
      let a := R.HBM_PC_REDIR k
      if s.f a F.HBM_PC_REDIR_EN = 1 ∧ s.f a F.HBM_PC_REDIR_PC = i then s
      else ((s.setF a F.HBM_PC_REDIR_PC i).setF a F.HBM_PC_REDIR_EN 1).palPut true a
    | none => s) s

/-- Every poisoned flag of a tenancy's dies returns to use with state 0 (R206). -/
def State.unpoisonAll (s : State) (t : Nat) : State :=
  (s.coresOf t).foldl (fun (s : State) p =>
    (List.range 16).foldl (fun (s : State) n => s.unpoison p n (2 ^ 64 - 1)) s) s

/-- A module that is to run owns every flag (R205). -/
def State.ownFlags (s : State) (t : Nat) : State :=
  (s.coresOf t).foldl (fun (s : State) p =>
    (List.range 256).foldl (fun (s : State) n => s.wr (R.FLG_OWNER p n) (BitVec.allOnes 64)) s) s

/-- Contexts CTX_BASE on are allocated (R196, R306). -/
def State.allocCtxs (s : State) (t n : Nat) : State :=
  let base := s.f (R.TEN_T_CTX t) F.TEN_T_CTX_CTX_BASE
  (List.range n).foldl (fun (s : State) i =>
    s.setCtx (base + i) { s.ctx (base + i) with alloc := true, ten := t, count := 0, sat := false, under := false }) s

/-- A CONST section is written to its target (R132): byte for byte, or as stores of 8 B. -/
def State.writeConst (s : State) (ctl : State → Nat → Word → State) (a : Nat) (bs : List Byte) : State :=
  let sp := kSpace a
  if sp < 2 then s.memWrite sp (kOff a) bs
  else (List.range (bs.length / 8)).foldl (fun (s : State) i =>
    let v := fieldAt bs (8 * i) 8
    let off := kOff a + 8 * i
    if sp = 2 then (match targetOf 2 off 8 with | .ctl o => ctl s o (BitVec.ofNat 64 v) | _ => s)
    else match targetOf 3 off 8 with
      | .flag p n => s.storeFlag p n (s.die (dieOf p)).now 2 v
      | _ => s) s

def State.writeConsts (s : State) (ctl : State → Nat → Word → State) (j : Job) : State :=
  ((sectionsOf j.code).filter fun q => q.ty == 5).foldl (fun (s : State) q =>
    s.writeConst ctl (s.relocate j.phys q.target) (slice j.code q.off q.size)) s

/-- The admitted job of a tenancy starts: translation, loading, CONST writes and the posts of ENTRY_HEAT (R308); a
failure releases its reservations, and a staged job takes its place. -/
def State.doJobStart (s : State) (ctl : State → Nat → Word → State) (t : Nat) (j : Job) : State :=
  let s := s.redirect t
  let r := s.translateJob t j
  let s := r.2
  match r.1 with
  | .error e =>
    let s := s.setF (R.TEN_T_STAT t) F.TEN_T_STAT_STATUS e.status
    let s := s.putJob t 0 { j with
      phase := phRejected, status := e.status, err := (e.vdie, e.heat, e.vcore, e.bundle), grants := [], dies := [] }
    match s.job t 1 with
    | some k => if k.phase = phAdmitted then (s.emptySlot t 1 0).putJob t 0 k else s
    | none => s
  | .ok m =>
    let s := s.putJob t 0 { j with phase := phLoaded }
    let s := ((s.allocCtxs t j.ctxUsed).unpoisonAll t).ownFlags t
    let s := s.installModule t j m true
    let s := s.writeConsts ctl j
    let s := s.runCoxes j m true
    let s := s.setF (R.SNP_T_STAT t) F.SNP_T_STAT_JOB_STATE jRunning
    let s := (List.range m.vdies).foldl (fun (s : State) e =>
      s.doPost (32 * j.phys e) m.entry (s.die (j.phys e)).now false) s
    s.putJob t 0 { j with phase := phRunning }

/-- The dies of a tenancy can be reached: powered, with their clocks running. -/
def State.diesAwake (s : State) (t : Nat) : Bool :=
  (s.diesOf t).all fun d => !s.dieDown d && s.f (R.CLK_STAT d) F.CLK_STAT_STOPPED == 0

/-- May a job of a tenancy start? -/
def State.startable (s : State) (t : Nat) : Option Job :=
  match s.job t 0 with
  | some j => if j.phase = phAdmitted ∧ s.bhUp = true ∧ s.diesAwake t = true then some j else none
  | none => none

/-! ### Job reset (R280) -/

/-- Contexts a tenancy holds that are allocated. -/
def State.ctxsOf (s : State) (t : Nat) : List Nat := (s.ctxs.recs.filter fun e => e.2.alloc && e.2.ten == t).map (·.1)

/-- A core's commands without a slot are discarded, the others lose their effects, and its cox stops. -/
def State.resetCore (s : State) (p : Nat) : State :=
  let a := s.ae p
  let cmds := (a.cmds.filter fun c => c.slot).map fun (c : AeCmd) => { c with suppress := true }
  (s.setAe p { a with cmds := cmds }).setF (R.COX_CTL p) F.COX_CTL_RUN 0

/-- The sending streams of some contexts are dropped; commands that waited for their packets' answers end. -/
def State.dropStreams (s : State) (xs : List Nat) : State :=
  let gone := s.fab.tx.filter fun v => xs.contains v.ctx
  let s := { s with fab := { s.fab with tx := s.fab.tx.filter fun v => !xs.contains v.ctx } }
  (gone.flatMap fun v => v.pkts).foldl (fun (s : State) q => match q.owner with
    | .ae p id _ => s.delCmd p id
    | _ => s) s

/-- A job's reset (R280). -/
def State.resetJob (s : State) (t : Nat) : State :=
  let s := (s.coresOf t).foldl (fun (s : State) p => s.poisonCore p) s
  let s := (s.diesOf t).foldl (fun (s : State) d => s.releasePoisoned d) s
  let xs := s.ctxsOf t
  let s := xs.foldl (fun (s : State) x => s.collCancel x) s
  let s := (s.scribesOf t).foldl (fun (s : State) k => s.cancelScribe k) s
  let s := (s.coresOf t).foldl (fun (s : State) p => s.resetCore p) s
  s.dropStreams xs

/-- JOB_RESET (R280): the last heat of a job that is stopping has ended. -/
def State.doJobReset (s : State) (t : Nat) : State :=
  (s.resetJob t).setF (R.SNP_T_STAT t) F.SNP_T_STAT_JOB_STATE jHeld

def execJobReset (t : Ten) (s : State) : Res :=
  State.when (s.jobState t == jStopping && !s.tenRuns t) "no job is stopping, or a heat of it runs" (s.doJobReset t)

/-! ### Doorbells (R308) -/

def dbWord (op seq len : Nat) : Word := fields [(op, 0), (seq % 256, 8), (len % 2 ^ 40, 16)]

def State.dbBusy (s : State) (t : Nat) : State := s.setBit R.TEN_EVENT t true

def State.admitted (s : State) (t : Nat) : Bool := s.f (R.TEN_T_CFG t) F.TEN_T_CFG_VALID == 1

/-- A LOAD doorbell. -/
def State.doorLoad (s : State) (t seq len : Nat) : State :=
  if s.admitted t then s.doLoad t seq len else s.dbBusy t

/-- Contexts and granules of a job are freed, and the slot reads PHASE NONE. -/
def State.freeJob (s : State) (t seq : Nat) : State :=
  let xs := s.ctxsOf t
  let c := s.ctxs
  let s := { s with
    ctxs := { c with
      recs := c.recs.filter fun e => !xs.contains e.1
      lru := c.lru.filter fun x => !xs.contains x
      regattas := c.regattas.filter fun e => !xs.contains e.1 }
    mods := s.mods.del t
    snaps := s.snaps.del t
    ten := { s.ten with images := s.ten.images.del t, drains := s.ten.drains.filter fun q => q.t != t } }
  let s := s.unmapCores t
  let s := (s.diesOf t).foldl (fun (s : State) d => s.setDie d { s.die d with ready := [], postWait := [] }) s
  let s := s.setF (R.SNP_T_STAT t) F.SNP_T_STAT_JOB_STATE jNone
  s.emptySlot t 0 seq

/-- A RELEASE doorbell: the ended or held job is reset, what it holds is freed, and a staged job takes its slot. -/
def State.doorRelease (s : State) (t seq : Nat) : State :=
  match s.job t 0 with
  | some j =>
    if s.admitted t && (j.phase == phEnded || (j.phase == phRunning && s.jobState t == jHeld)) then
      let s := ((s.abandonSnap t).resetJob t).freeJob t seq
      match s.job t 1 with
      | some k => if k.phase = phAdmitted then (s.emptySlot t 1 0).putJob t 0 k else s
      | none => s
    else s.dbBusy t
  | none => s.dbBusy t

/-- LOAD. -/
def execLoad (iss : Issuer) (t : Ten) (seq len : Nat) (s : State) : Res :=
  .next (s.ctlIn iss (R.TEN_T_DOORBELL t) 8 (dbWord 1 seq len) fun s => s.doorLoad t (seq % 256) (len % 2 ^ 40))

/-- RELEASE. -/
def execRelease (iss : Issuer) (t : Ten) (seq : Nat) (s : State) : Res :=
  .next (s.ctlIn iss (R.TEN_T_DOORBELL t) 8 (dbWord 2 seq 0) fun s => s.doorRelease t (seq % 256))

/-- JOB_END. -/
def execJobEnd (iss : Issuer) (t : Ten) (code : W32) (s : State) : Res :=
  .next (s.ctlIn iss (R.TEN_T_JOB_END t) 8 (code.setWidth 64) fun s => s.doJobEnd t code.toNat)

end Sys2Proof.Machine
end

