-- ==== Sys2Proof/Machine/Power.lean ====
section
/-! DEFINITION. Power and clocks (R169, R173 to R187, R365): allocations, the bucket, operating points, package limits and the
reserve, pinned heats, the power model and its calibration, attribution, droop, sleep and the die clock. -/

namespace Sys2Proof.Machine

open Sys2Proof

/-! ### The power model (R179, R365) -/

/-- The die rail's set point in mV: that of the operating point, raised while the die is armed (R173, R175). -/
def State.vdie (s : State) (d : Nat) : Nat :=
  oppMv (s.f (R.CLK_STAT d) F.CLK_STAT_OPP_NOW) +
    (if s.f (R.CLK_STAT d) F.CLK_STAT_ARMED = 1 then s.f (R.CLK_CTL d) F.CLK_CTL_ARM_MV else 0)

/-- The static factor of class 15 in hundredths, at the points of its table. -/
def staticRows : List (Nat × List Nat) :=
  [(850, [70, 85, 100, 112]), (810, [60, 73, 86, 96]), (770, [51, 62, 73, 82]), (730, [43, 52, 62, 69]),
    (680, [35, 42, 50, 56]), (620, [27, 33, 39, 44])]

/-- A row of the table at a temperature, times 20 hundredths: linear between 50, 70, 90 and 100 °C. -/
def staticAt (r : List Nat) (t : Nat) : Nat :=
  let g (i : Nat) : Nat := r.getD i 0
  if t ≤ 50 then 20 * g 0
  else if t ≤ 70 then 20 * g 0 + (t - 50) * (g 1 - g 0)
  else if t ≤ 90 then 20 * g 1 + (t - 70) * (g 2 - g 1)
  else if t < 100 then 20 * g 2 + 2 * (t - 90) * (g 3 - g 2)
  else 20 * g 3

/-- The static factor at a rail voltage and temperature as a fraction (R179): linear in both, the top two rows extended
above 0.85 V. -/
def staticFactor (mv t : Nat) : Nat × Nat :=
  let pair (a b : Nat × List Nat) : Nat × Nat :=
    (staticAt b.2 t * (a.1 - b.1) + (staticAt a.2 t - staticAt b.2 t) * (mv - b.1), 2000 * (a.1 - b.1))
  let rec go : List (Nat × List Nat) → Nat × Nat
    | a :: b :: r => if b.1 ≤ mv then pair a b else go (b :: r)
    | [a] => (staticAt a.2 t, 2000)
    | [] => (0, 1)
  go staticRows

/-- The clusters of a die whose clock runs in a heat, and those not in RETAIN or OFF. -/
def State.clustersIn (s : State) (d : Nat) (p : Nat → Bool) : Nat := ((List.range 4).filter fun c => p (s.cluster d c)).length

/-- Modelled energy of a die in a 1 µs window, in pJ (R179). -/
def State.diePj (s : State) (d : Nat) : Nat :=
  let v := s.die d
  let coef (k : Nat) : Nat := s.f (R.PWR_COEF d k) F.PWR_COEF_COEF
  let n (k : Nat) : Nat := v.counts.get (fun _ => 0) k
  let unit (k : Nat) : Nat := if k = 9 ∨ k = 10 then n k * coef k / 128 else n k * coef k
  let stopped := s.f (R.CLK_STAT d) F.CLK_STAT_STOPPED = 1
  let cycles := if stopped then 0 else if s.f (R.CLK_STAT d) F.CLK_STAT_STRETCH = 1 then s.mhz d / 2 else s.mhz d
  let active := cycles * s.clustersIn d (fun c => c == 0) * coef 14
  let dyn := ((List.range 14).map unit).sum + active
  let mv := s.vdie d
  let sf := staticFactor mv (s.f (R.PWR_DIE_STAT d) F.PWR_DIE_STAT_TMAX)
  let stat := coef 15 * sf.1 * s.clustersIn d (fun c => decide (c < 2)) / (sf.2 * 4)
  dyn * (mv * mv) / (850 * 850) + stat

/-- Modelled energy of the link dies and the always-on domain in a window, in pJ (R365). -/
def State.pkgPj (s : State) (frames : Nat) : Nat :=
  let coef (j : Nat) : Nat := s.f (R.PWR_LCOEF j) F.PWR_LCOEF_COEF
  let lds := ((List.range 2).filter fun l => s.power.ld.toNat.testBit l).length
  coef 0 + lds * coef 1 + (s.die 8).counts.get (fun _ => 0) 2 * coef 2 + frames * coef 3

/-- The same draw in W over the last 100 windows, or with nothing sent where none has passed. -/
def State.pkgW (s : State) : Nat :=
  match (s.die 8).hist with
  | [] => s.pkgPj 0 / 1000000
  | l => l.sum / (l.length * 1000000)

/-! ### Steps (R174, R176 to R178) -/

/-- The controller may step a die no sooner than 20 µs after its last step. -/
def State.mayStep (s : State) (d : Nat) : Bool :=
  match (s.die d).lastStep with
  | some t => decide (t + ticksUs 20 ≤ s.time)
  | none => true

/-- The die reaches an operating point. -/
def State.stepTo (s : State) (d opp : Nat) : State :=
  (s.setDie d { s.die d with lastStep := some s.time }).setF (R.CLK_STAT d) F.CLK_STAT_OPP_NOW opp

/-- A step down in a pinned heat is forced (R177, R178): the point is held until the heat ends, and the first tells the
members of the context. -/
def State.forceStep (s : State) (d opp : Nat) (r : RunHeat) (inj : Bool) : State :=
  let s := s.setDie d { s.die d with forced := some opp, run := some { r with slowSent := true } }
  let s := (s.setF (R.STR_EVENT d) F.STR_EVENT_PIN_THROTTLE 1).bump (R.STR_CNT_PIN_THROTTLE d) 1
  let o := occ 0x3D kDie d r.heat r.pinCtx
  let s := s.record (if inj then s.injected o else o)
  if r.slowSent then s else (s.setSlow r.pinCtx).sendCtrl r.pinCtx 1 0 0

/-- A protective step down of one index (R176, R177, R183, R184). -/
def State.stepDown (s : State) (d : Nat) (inj : Bool := false) : State :=
  let now := s.f (R.CLK_STAT d) F.CLK_STAT_OPP_NOW
  if 5 ≤ now ∨ s.mayStep d = false then s
  else
    let s := s.stepTo d (now + 1)
    let v := s.die d
    let s := s.setDie d { v with throttle := max v.throttle (now + 1) }
    match v.run with
    | some r => if r.pin then s.forceStep d (now + 1) r inj else s
    | none => s

/-- The throttle level as the controller sets it when it may step (R174, R177). -/
def State.throttleNext (s : State) (d : Nat) : Nat :=
  let v := s.die d
  let now := s.f (R.CLK_STAT d) F.CLK_STAT_OPP_NOW
  match v.run with
  | some r =>
    if r.pin then (if v.bucket < 0 ∧ now + 1 ≤ r.opp then now + 1 else v.throttle)
    else if v.bucket < 0 then min 5 (now + 1)
    else if ((s.ceilingOf d : Nat) : Int) < 4 * v.bucket then v.throttle - 1 else v.throttle
  | none =>
    if v.bucket < 0 then min 5 (now + 1)
    else if ((s.ceilingOf d : Nat) : Int) < 4 * v.bucket then v.throttle - 1 else v.throttle

/-- OPP_STEP (R174): the throttle level is set, and the die moves one index toward its target. A move slower than a pinned
heat's own point is forced (R177). -/
def State.doOppStep (s : State) (d : Nat) : State :=
  let s := s.setDie d { s.die d with throttle := s.throttleNext d }
  let now := s.f (R.CLK_STAT d) F.CLK_STAT_OPP_NOW
  let t := s.oppTarget d
  if t = now then s
  else if t < now then s.stepTo d (now - 1)
  else
    let s := s.stepTo d (now + 1)
    match (s.die d).run with
    | some r => if r.pin && decide (r.opp < now + 1) then s.forceStep d (now + 1) r false else s
    | none => s

def execOppStep (d : Die) (s : State) : Res :=
  State.when (!s.dieDown d && s.mayStep d && (s.throttleNext d != (s.die d).throttle || s.oppTarget d !=
      s.f (R.CLK_STAT d) F.CLK_STAT_OPP_NOW)) "the die may not step, or is at its target" (s.doOppStep d)

/-! ### Allocations (R169) -/

/-- The power a variant declares, in W. -/
def State.variantW (s : State) (d : Nat) (v : Variant) : Nat := v.energy * oppMhz v.opp / (s.bodyLen d v + 8)

/-- A die's demand in W (R169, item 3): 25 W, its running variant, V0 of its first eligible ready heat, and its open
forecasts. -/
def State.demand (s : State) (d : Nat) : Nat :=
  let v := s.die d
  let run := match v.run with
    | some r => match s.heatDef d r.heat with
      | some h => match h.variants[r.variant]? with
        | some x => s.variantW d x
        | none => 0
      | none => 0
    | none => 0
  let next := match v.ready.find? fun e => e.eligible with
    | some e => match s.heatDef d e.heat with
      | some h => match h.variants with
        | x :: _ => s.variantW d x
        | [] => 0
      | none => 0
    | none => 0
  let cast := ((v.forecasts.filter fun e => decide (e.start ≤ s.time) && decide (s.time < e.stop)).map fun e =>
    1000 * e.mj * 25 / (e.stop - e.start)).sum
  max 25 (max run next) + cast

/-- A tenancy's share, in 1/256. -/
def State.shareOf (s : State) (t : Nat) : Nat :=
  let v := s.f (R.TEN_T_CFG t) F.TEN_T_CFG_SHARE
  if v = 0 then 256 else v

/-- The admitted tenancies that are not pre-empted. -/
def State.liveTens (s : State) : List Nat :=
  (List.range 8).filter fun t => s.f (R.TEN_T_CFG t) F.TEN_T_CFG_VALID == 1 && s.jobState t != jPreempted

/-- GRANT_RECOMPUTE (R169). Watts are rounded down (log 22). -/
def State.doGrant169 (s : State) : State :=
  let avail := s.f R.PWR_CAP F.PWR_CAP_CAP_W - s.pkgW
  let held := ((List.range 8).filter fun t => s.f (R.TEN_T_CFG t) F.TEN_T_CFG_VALID == 1).map s.shareOf
  let live := (s.liveTens.map s.shareOf).sum
  s.liveTens.foldl (fun (s : State) t =>
    let w := avail * held.sum * s.shareOf t / (256 * live)
    let ds := (s.diesOf t).filter fun d => !s.dieDown d
    let dem := (ds.map s.demand).sum
    ds.foldl (fun (s : State) d =>
      let k := s.thermOf d
      (s.setDie d { s.die d with alloc := w * s.demand d * k.1 / (dem * k.2) }).cutBucket d) s) s

def execGrantRecompute (s : State) : Res := .next s.doGrant169

/-! ### The 1 µs window (R169, R175 to R177, R179, R182) -/

/-- Is a heat pending on a die (R187)? -/
def State.heatPending (s : State) (d : Nat) : Bool :=
  let v := s.die d
  v.run.isSome || v.ready.any (fun e => s.jobState e.ten != jPreempted) ||
    (List.range 32).any fun c =>
      let p := 32 * d + c
      !(s.ae p).cmds.isEmpty || !(s.core p).patches.isEmpty ||
        (s.f (R.COX_CTL p) F.COX_CTL_RUN == 1 && !(s.cox p).halted && !(s.cox p).wfi)

/-- A limit of the package is reached (R176): its event, and a record. -/
def State.powerLimit (s : State) (what w : Nat) (inj : Bool) : State :=
  let f := match what with | 1 => F.PWR_EVENT_EXC_LIMIT | 2 => F.PWR_EVENT_HARD_LIMIT | _ => F.PWR_EVENT_RESERVE_EMPTY
  let o := occ 0x3E kPackage 0 what w
  let s := s.setF R.PWR_EVENT f 1
  s.record (if inj then s.injected o else o)

/-- A die's bucket takes P_die µJ and gives `u` (R169); a pinned heat's deficit falls on the reserve (R177). -/
def State.bucketDie (s : State) (d u : Nat) : State :=
  let v := s.die d
  let g := v.bucket + v.alloc - u
  let c := ((s.ceilingOf d : Nat) : Int)
  let g := if c < g then c else g
  match v.run with
  | some r =>
    if r.pin ∧ g < 0 then
      let i := s.inject 0x3D kDie d
      let s := i.2
      let lack := (-g).toNat
      let level := if i.1.isSome then 0 else s.f R.PWR_RESERVE F.PWR_RESERVE_LEVEL
      let s := s.setF R.PWR_RESERVE F.PWR_RESERVE_LEVEL (if i.1.isSome then s.f R.PWR_RESERVE F.PWR_RESERVE_LEVEL else level - lack)
      let rest := lack - level
      let s := s.setDie d { s.die d with bucket := -(rest : Int) }
      if level < lack then
        let s : State := if v.forced.isNone then s.powerLimit 3 0 false
          else s.setF R.PWR_EVENT F.PWR_EVENT_RESERVE_EMPTY 1
        s.stepDown d i.1.isSome
      else s
    else s.setDie d { s.die d with bucket := g }
  | none => s.setDie d { v with bucket := g }

/-- One die's part of a 1 µs window: its energy, counters, attribution and bucket. -/
def State.windowDie (s : State) (d : Nat) : State :=
  let e := s.diePj d
  let v := s.die d
  let seen := (List.range 14).foldl (fun m k => if v.counts.get (fun _ => 0) k = 0 then m else m ||| 2 ^ k) (v.classes ||| 0xC000)
  let u := (v.pj + e) / 1000000
  let on := s.inService d
  let running := match v.run with | some r => r.start.isSome | none => false
  let hist := (v.hist ++ [e]).drop (v.hist.length + 1 - 100)
  let waiting := v.run.isNone && v.ready.any fun q => q.eligible
  let armed := v.forecasts.any fun q => decide (q.start ≤ s.time + ticksUs 20) && decide (s.time < q.stop)
  let s := s.setDie d { v with
    pj := (v.pj + e) % 1000000, counts := [], classes := seen, hist := hist, interval := v.interval + e
    heatPj := v.heatPj + (if on && running then e else 0)
    idleFrom := if s.heatPending d then s.time else v.idleFrom }
  let s := s.setF (R.PWR_DIE_STAT d) F.PWR_DIE_STAT_MODEL_W (hist.sum / (hist.length * 1000000))
  let s := s.setF (R.CLK_STAT d) F.CLK_STAT_ARMED (if armed then 1 else 0)
  let s := s.bump (R.CLK_CNT_OPP_US d (s.f (R.CLK_STAT d) F.CLK_STAT_OPP_NOW)) 1
  let s := if waiting then s.bump (R.STR_CNT_GRANT_WAIT_US d) 1 else s
  let s := if on then s.bump (R.PWR_DIE_MODEL_UJ d) u else s
  let s : State := if on then match s.tenOfDie d with
      | some t => s.bump (R.PWR_TEN_UJ t) u
      | none => s.bump R.PWR_OVERHEAD_UJ u
    else s
  s.bucketDie d u

/-- Payload bytes of a tenancy's contexts and queue pairs, in all (R182). -/
def State.tenBytes (s : State) (t : Nat) : Nat :=
  ((s.ctxs.recs.filter fun e => e.2.alloc && e.2.ten == t).map fun e => e.2.bytesTx + e.2.bytesRx).sum +
    (s.netBytes.get (fun _ => (0, 0)) t).2

/-- The link-die and always-on energy goes to tenancies by their bytes of this window, the rest to overhead (R182). -/
def State.attributeNet (s : State) (u : Nat) : State :=
  let got (t : Nat) : Nat := s.tenBytes t - (s.netBytes.get (fun _ => (0, 0)) t).1
  let all := ((List.range 8).map got).sum
  let part (t : Nat) : Nat := if all = 0 then 0 else u * got t / all
  let parts := (List.range 8).map part
  let s0 := s
  let s := (List.range 8).foldl (fun (s : State) t =>
    let s := s.bump (R.PWR_TEN_UJ t) (part t)
    let n := s.netBytes.get (fun _ => (0, 0)) t
    { s with netBytes := s.netBytes.set (fun _ => (0, 0)) t (s0.tenBytes t, n.2) }) s
  s.bump R.PWR_OVERHEAD_UJ (u - parts.sum)

/-- µs above the cap within the last 120 ms. -/
def State.overUs (s : State) : Nat :=
  (s.overCap.map fun e => (e.2 - max e.1 (s.time - ticksMs 120)) / 25).sum

/-- A window above the cap joins the history, which keeps 120 ms. -/
def State.noteOver (s : State) : State :=
  let old := s.overCap.filter fun e => decide (s.time < e.2 + ticksMs 120)
  let l := match old.getLast? with
    | some e => if s.time ≤ e.2 then old.dropLast ++ [(e.1, s.time + 25)] else old ++ [(s.time, s.time + 25)]
    | none => [(s.time, s.time + 25)]
  { s with overCap := l }

/-- The package limits of a 1 µs window whose power is `w` (R176). -/
def State.packageLimits (s : State) (w : Nat) (inj : Bool) : State :=
  let cap := s.f R.PWR_CAP F.PWR_CAP_CAP_W
  let up := (List.range 8).filter fun d => !s.dieDown d
  let s := s.setF R.PWR_STAT F.PWR_STAT_OVER_CAP (if cap < w then 1 else 0)
  let s := if cap < w then s.noteOver.bump R.PWR_OVER_CAP_US 1 else s
  let before := s.f R.PWR_RESERVE F.PWR_RESERVE_OVER_MS
  let ms := min 20 (s.overUs / 1000)
  let s := s.setF R.PWR_RESERVE F.PWR_RESERVE_OVER_MS ms
  let s := if 20 ≤ ms ∧ cap < w then
      let s := if before < 20 then s.powerLimit 1 w inj else s.setF R.PWR_EVENT F.PWR_EVENT_EXC_LIMIT 1
      (up.filter fun d => decide ((s.die d).bucket < 0)).foldl (fun (s : State) d => s.stepDown d) s
    else s
  if 8600 ≤ w then
    let s := s.powerLimit 2 w inj
    (up.filter fun d => (s.die d).run.isSome).foldl (fun (s : State) d => s.stepDown d) s
  else s

/-- BUCKET_WINDOW (R169, R176, R177, R179, R182): a 1 µs window of every powered die, and of the package. -/
def State.doBucketWindow (s : State) (frames : Nat) : State :=
  let up := (List.range 8).filter fun d => !s.dieDown d
  let dies := (up.map s.diePj).sum
  let pkg := s.pkgPj frames
  let v := s.die 8
  let u := (v.pj + pkg) / 1000000
  let hist := (v.hist ++ [pkg]).drop (v.hist.length + 1 - 100)
  let s := s.setDie 8 { v with pj := (v.pj + pkg) % 1000000, counts := [], hist := hist, interval := v.interval + dies + pkg }
  let s := up.foldl (fun (s : State) d => s.windowDie d) s
  let s := if s.ready then (s.attributeNet u).bump R.PWR_PKG_MODEL_UJ ((dies + pkg) / 1000000) else s
  let i := s.inject 0x3E kPackage 0
  let s := i.2
  let model := (dies + pkg) / 1000000
  let drifted := (List.range 9).any fun d => (s.die d).drifted
  let w := match i.1 with
    | some syn => syn
    | none => if drifted then max model (s.f R.PWR_STAT F.PWR_STAT_PIN_W) else model
  s.packageLimits w i.1.isSome

def execBucketWindow (frames : Nat) (s : State) : Res := .next (s.doBucketWindow frames)

/-- RESERVE_REFILL (R176): one thousandth of the capacity, while no die draws on the reserve. -/
def execReserveRefill (s : State) : Res :=
  let drawn := (List.range 8).any fun d => (match (s.die d).run with | some r => r.pin | none => false) && decide ((s.die d).bucket ≤ 0)
  let mj := s.f R.PWR_POLICY F.PWR_POLICY_RESERVE_MJ
  State.when (!drawn) "a die draws on the reserve"
    (s.setF R.PWR_RESERVE F.PWR_RESERVE_LEVEL (min (1000 * mj) (s.f R.PWR_RESERVE F.PWR_RESERVE_LEVEL + mj)))

/-! ### Droop (R183) -/

/-- DROOP_TRIP: a cluster's detector trips and the die clock stretches. -/
def execDroopTrip (d : Die) (cl : Fin 4) (s : State) : Res :=
  State.when (!s.dieDown d) "the die has no power"
    (((s.setDie d { s.die d with droop := some ((s.die d).droop.getD cl) }).setF (R.CLK_STAT d) F.CLK_STAT_STRETCH 1).bump
      (R.CLK_CNT_DROOP d) 1)

/-- DROOP_END: stretching ends after `cycles` stretched cycles, each a period longer. -/
def execDroopEnd (d : Die) (cycles : Nat) (s : State) : Res :=
  State.when (s.f (R.CLK_STAT d) F.CLK_STAT_STRETCH == 1 && decide (32 ≤ cycles)) "the clock is not stretched"
    (((s.setDie d { s.die d with droop := none }).setF (R.CLK_STAT d) F.CLK_STAT_STRETCH 0).bump
      (R.CLK_CNT_STRETCH_PS d) (cycles * 1000000 / s.mhz d))

/-- DROOP_SUSTAINED: stretching has lasted `us` µs, more than 100; one step down is requested. An armed point holds a
cluster's detector tripped for 101 µs. -/
def State.doDroopSustained (s : State) (d us : Nat) : State :=
  let i := s.inject 0x39 kDie d
  let s := i.2
  let o := match i.1 with
    | some syn => s.injected (occ 0x39 kDie d 101 (syn % 4))
    | none => occ 0x39 kDie d us ((s.die d).droop.getD 0)
  let s := s.setF (R.CLK_EVENT d) F.CLK_EVENT_DROOP_SUSTAINED 1
  (s.record o).stepDown d

def execDroopSustained (d : Die) (us : Nat) (s : State) : Res :=
  State.when (!s.dieDown d && ((s.f (R.CLK_STAT d) F.CLK_STAT_STRETCH == 1 && decide (100 < us)) ||
      (s.inject 0x39 kDie d).1.isSome)) "the clock has not been stretched for more than 100 µs" (s.doDroopSustained d us)

/-! ### Calibration and drift (R180, R181) -/

/-- A coefficient as a calibration leaves it: between half and twice its default, changed by at most 10%. -/
def fitted (old dflt fit : Nat) : Nat :=
  let v := max (ceilDiv dflt 2) (min (2 * dflt) fit)
  max (ceilDiv (9 * old) 10) (min (11 * old / 10) v)

/-- The coefficients of every powered die and of the package are fitted anew, written and retained (R180). A class without
an event keeps its coefficient. -/
def State.refit (s : State) : State :=
  let up := (List.range 8).filter fun d => !s.dieDown d
  let s := up.foldl (fun (s : State) d =>
    let seen := (s.die d).classes
    let s := (List.range 16).foldl (fun (s : State) k =>
      if bitOf seen k then
        let a := R.PWR_COEF d k
        let old := s.f a F.PWR_COEF_COEF
        let fit := Config.calibrationFit d k (BitVec.ofNat 32 old) s.free
        (s.setF a F.PWR_COEF_COEF (fitted old (defaultCoef k) fit)).palPut false a
      else s) s
    s.setDie d { s.die d with classes := 0 }) s
  let s := (List.range 4).foldl (fun (s : State) j =>
    let a := R.PWR_LCOEF j
    let old := s.f a F.PWR_LCOEF_COEF
    let fit := Config.calibrationFit 8 j (BitVec.ofNat 32 old) s.free
    (s.setF a F.PWR_LCOEF_COEF (fitted old (defaultLcoef j) fit)).palPut false a) s
  { s with free := s.free + 1 }.setF R.PWR_CAL F.PWR_CAL_CAL_COUNT (s.f R.PWR_CAL F.PWR_CAL_CAL_COUNT + 1)

/-- CALIBRATION (R180): a maintenance activity under the arbiter; one that is deferred leaves the coefficients as they
are. -/
def State.doCalibration (s : State) : State :=
  let q : MaintReq := { act := 4, scope := 0, arg := 0, iss := .boathouse, asked := s.time, started := s.time, image := none }
  let r := s.maintRequest q
  if r.1 = 0 then (r.2.refit).maintEnd (r.2.maint.running.length - 1) true else r.2

def execCalibration (s : State) : Res :=
  State.when (s.f R.PWR_POLICY F.PWR_POLICY_CAL_EN == 1) "recalibration is off" s.doCalibration

/-- One die's or the package's disagreement in a 100 ms interval, in whole percent, from model pJ and measured W. -/
def disagreement (pj w : Nat) : Nat :=
  let m := w * 10 ^ 11
  let gap := if pj < m then m - pj else pj - m
  if m = 0 then (if gap = 0 then 0 else 255) else gap * 100 / m

def aboveEight (pj w : Nat) : Bool :=
  let m := w * 10 ^ 11
  let gap := if pj < m then m - pj else pj - m
  decide (8 * m < 100 * gap)

/-- The interval of unit d (8 for the package): runs above and at or below 8%, and drift after ten (R181). -/
def State.driftUnit (s : State) (d w : Nat) : State :=
  let kind := if d = 8 then kPackage else kDie
  let idx := if d = 8 then 0 else d
  let i := s.inject 0x38 kind idx
  let s := i.2
  let v := s.die d
  let force := if i.1.isSome then 10 else v.forceDrift
  let bad := decide (0 < force) || aboveEight v.interval w
  let drift := if bad then v.drift + 1 else 0
  let calm := if bad then 0 else v.calm + 1
  let model := v.interval / 10 ^ 11
  let s := s.setDie d { v with
    interval := 0, drift := drift, calm := calm, forceDrift := force - 1
    drifted := if 10 ≤ drift then true else if 10 ≤ calm then false else v.drifted }
  if drift = 10 then
    let s := if d = 8 then s.setF R.PWR_EVENT F.PWR_EVENT_POWER_MODEL_DRIFT 1
      else s.setF (R.PWR_DIE_EVENT d) F.PWR_DIE_EVENT_POWER_MODEL_DRIFT 1
    let o := occ 0x38 kind idx model w
    s.record (if 0 < force then s.injected o else o)
  else s

/-- The voltage and current samples taken with a power sample: free values, the voltage within the range of R351 unless a
sample lay outside it (log 4). -/
def State.inputSample (s : State) : State :=
  let n := s.tick
  let s := n.2
  let s := if s.pins.range then s else s.setF R.PWR_STAT F.PWR_STAT_VIN_MV (34200 + Config.freeBits n.1 % 3601)
  let n := s.tick
  n.2.setF R.PWR_STAT F.PWR_STAT_IIN_DA (Config.freeBits n.1)

/-- DRIFT_INTERVAL (R181): the measured power of each die and of the package over 100 ms is set beside the model's. The
measured sample of the package meets the limits of R176 too. -/
def State.doDriftInterval (s : State) (measured : List Nat) (pkg : Nat) : State :=
  let up := (List.range 8).filter fun d => !s.dieDown d
  let s := up.foldl (fun (s : State) d =>
    let w := measured.getD d 0
    let s := (s.setF (R.PWR_DIE_STAT d) F.PWR_DIE_STAT_MEAS_W w).bump (R.PWR_DIE_MEAS_UJ d) (w * 100000)
    s.driftUnit d w) s
  let pct := disagreement (s.die 8).interval pkg
  let s := (s.inputSample.setF R.PWR_STAT F.PWR_STAT_PIN_W pkg).bump R.PWR_PKG_MEAS_UJ (pkg * 100000)
  let s := s.driftUnit 8 pkg
  let s := s.setF R.PWR_CAL F.PWR_CAL_ERR_PCT (min 255 pct)
  let s := s.setF R.PWR_CAL F.PWR_CAL_DRIFT_RUN (min 255 (s.die 8).drift)
  if 8600 ≤ pkg then
    let s := s.powerLimit 2 pkg false
    (up.filter fun d => (s.die d).run.isSome).foldl (fun (s : State) d => s.stepDown d) s
  else s

def execDriftInterval (measured : List Nat) (pkg : Nat) (s : State) : Res :=
  State.whenWf (measured.length == 8) s.power.ao "the always-on domain has no power" (s.doDriftInterval measured pkg)

/-! ### Sleep (R186, R187) -/

/-- Does a ready heat, or the running one, use a cluster? -/
def State.clusterUsed (s : State) (d c : Nat) : Bool :=
  let v := s.die d
  (match v.run with | some r => r.clusters.contains c | none => false) ||
    v.ready.any fun e => match s.heatDef d e.heat with
      | some h => h.variants.any fun x => (s.variantClusters d x).contains c
      | none => false

/-- Are a cluster's cores quiet: empty command lists and patch queues, and every cox in WFI or stopped? -/
def State.clusterQuiet (s : State) (d c : Nat) : Bool :=
  (List.range 8).all fun i =>
    let p := 32 * d + 8 * c + i
    (s.ae p).cmds.isEmpty && (s.core p).patches.isEmpty &&
      (s.f (R.COX_CTL p) F.COX_CTL_RUN == 0 || (s.cox p).halted || (s.cox p).wfi)

/-- Is the tenancy of a die pre-empted? -/
def State.diePreempted (s : State) (d : Nat) : Bool :=
  match s.tenOfDie d with
  | some t => s.jobState t == jPreempted
  | none => false

/-- CLUSTER_RETAIN (R186). -/
def execClusterRetain (d : Die) (cl : Fin 4) (s : State) : Res :=
  let since := (s.die d).idleClusters.get (fun _ => 0) cl
  let idle := !s.clusterUsed d cl && decide (since + ticksUs (s.f (R.STR_CTL d) F.STR_CTL_RETAIN_IDLE) ≤ s.time)
  State.when (!s.dieDown d && decide (s.cluster d cl < 2) && (idle || s.diePreempted d) && s.clusterQuiet d cl &&
      !(match (s.die d).run with | some r => r.clusters.contains cl.val | none => false))
    "the cluster is in use, or not quiet" (s.setCluster d cl 2)

/-- PLL_STOP (R187): no heat has been pending for 50 µs; every cluster not in RETAIN or OFF is gated. -/
def State.doPllStop (s : State) (d : Nat) : State :=
  let s := (s.setF (R.CLK_STAT d) F.CLK_STAT_STOPPED 1).setF (R.CLK_STAT d) F.CLK_STAT_LOCKED 0
  let s := (List.range 4).foldl (fun (s : State) c => if s.cluster d c = 0 then s.setCluster d c 1 else s) s
  s.bump (R.CLK_CNT_PLL_STOPS d) 1

def execPllStop (d : Die) (s : State) : Res :=
  State.when (!s.dieDown d && s.f (R.CLK_STAT d) F.CLK_STAT_STOPPED == 0 && !s.heatPending d &&
      decide ((s.die d).idleFrom + ticksUs 50 ≤ s.time)) "a heat is pending, or the PLL is stopped" (s.doPllStop d)

end Sys2Proof.Machine
end

