-- ==== Sys2Proof/Machine/Snap.lean ====
section
/-! DEFINITION. Snapshots, drains, restores, pre-emption and shipping (R280 to R293). -/

namespace Sys2Proof.Machine

open Sys2Proof

/-! ### Images as bytes (R284, R288) -/

/-- A core's record: 266,240 B. -/
def CoreImage.bytes (c : CoreImage) : List Byte :=
  let b := c.acc ++ NMap.dense (fun _ => 0) c.dmem 0 65536 ++ leBytes 4 c.pc.toNat ++
    ((List.range 31).flatMap fun i => leBytes 4 (c.xs.get (fun _ => 0) (i + 1)).toNat) ++ c.regs.flatMap fun w => leBytes 8 w.toNat
  b ++ List.replicate (266240 - b.length) 0

/-- A die's record: the heats of its ready set in post order, and its scribes' words (log 26). -/
def Image.dieRecord (m : Image) (d : Nat) : List Byte :=
  let es := match m.ready.find? fun e => e.1 == d with | some e => e.2 | none => []
  let sc := m.scribes.filter fun e => e.1 / 4 == d
  let b := (es.flatMap fun e => leBytes 8 e.heat) ++ List.replicate (8 * (64 - es.length)) 0 ++
    (sc.flatMap fun e => leBytes 8 e.2.1.toNat) ++ sc.flatMap fun e => leBytes 8 e.2.2.toNat
  b ++ List.replicate (4096 - b.length) 0

def Image.ctxBytes (m : Image) : List Byte :=
  m.ctxs.flatMap fun e => (List.range 8).flatMap fun k => leBytes 8 (e.2.word k).toNat

/-- What a die's part of the image holds: its declared ranges, its records, and with the first die the contexts. -/
def Image.dieBytes (m : Image) (d : Nat) : List Byte :=
  ((m.ranges.filter fun q => q.2.1 == d).flatMap fun q => q.2.2.2) ++
    ((m.cores.filter fun c => c.pos / 32 == d).flatMap fun c => c.bytes) ++ m.dieRecord d ++
    (if m.ready.head?.any (fun e => e.1 == d) then m.ctxBytes else [])

/-- SHA-512 over every GiB and over the whole. -/
def digests (b : List Byte) : List Byte :=
  ((List.range (ceilDiv b.length (2 ^ 30))).flatMap fun i => leBytes 64 (Config.sha512 (slice b (2 ^ 30 * i) (2 ^ 30))).toNat) ++
    leBytes 64 (Config.sha512 b).toNat

/-- The image as a layer or a receiver holds it: header, records, ranges, digest trailer. -/
def Image.bytes (m : Image) (t node : Nat) : List Byte :=
  let head := leBytes 4 0x4E535841 ++ (List.range 4092).map fun i => Config.imageHeader t node m.gen m.manifest (i + 4)
  let body := (m.cores.flatMap fun c => c.bytes) ++ (m.ready.flatMap fun e => m.dieRecord e.1) ++ m.ctxBytes ++
    m.ranges.flatMap fun q => q.2.2.2
  head ++ body ++ digests (head ++ body)

/-! ### Accumulator save images (R88) -/

def State.accImage (s : State) (p : Nat) : List Byte :=
  ((List.range 3).flatMap fun e =>
    let g := s.eng (engId p e)
    (g.setCells false ++ g.setCells true).flatMap fun w => leBytes 8 w.toNat) ++
  (List.range 3).flatMap fun e =>
    let g := s.eng (engId p e)
    let st := s.rd (R.ENG_TILE_STAT p e)
    leBytes 8 (b2n g.active1 + 2 * b2n g.int0 + 4 * b2n g.int1 + 8 * bitsOf st.toNat 0 2)

/-- The saved state is written back to a core. -/
def State.loadAcc (s : State) (p : Nat) (b : List Byte) : State :=
  (List.range 3).foldl (fun (s : State) e =>
    let cells := (nums 8 (slice b (65536 * e) 65536)).map fun n => BitVec.ofNat 64 n
    let w := fieldAt b (196608 + 8 * e) 8
    let g := s.eng (engId p e)
    let g := ((g.setSet false (cells.take 4096)).setSet true (cells.drop 4096))
    let s := s.setEng (engId p e) { g with active1 := bitOf w 0, int0 := bitOf w 1, int1 := bitOf w 2 }
    (s.setF (R.ENG_TILE_STAT p e) F.ENG_TILE_STAT_SAT0 (bitsOf w 3 1)).setF (R.ENG_TILE_STAT p e) F.ENG_TILE_STAT_SAT1 (bitsOf w 4 1)) s

def accBytes : Nat := 196632

/-- Where a core's save image lies in its die's save granule (log 26). -/
def saveOff (p : Nat) : Nat := saveGranule (dieOf p) * 2 ^ 30 + p % 32 * 0x32000

/-- The accumulators of a tenancy's cores are saved, and written back (R88, R282). -/
def State.saveAccs (s : State) (t : Nat) : State :=
  (s.coresOf t).foldl (fun (s : State) p => s.hbmWrite (dieOf p) (saveOff p) (s.accImage p)) s

def State.loadAccs (s : State) (t : Nat) : State :=
  (s.coresOf t).foldl (fun (s : State) p =>
    let r := s.hbmRead (dieOf p) (saveOff p) accBytes
    r.2.loadAcc p r.1) s

/-! ### The manifest (R283) -/

structure ManEntry where
  space : Nat
  die : Nat
  off : Nat
  len : Nat
  repl : Bool
  ctx : Nat
  ok : Bool
deriving DecidableEq, Repr

/-- A manifest entry; scratchpad offsets are held within the die. -/
def parseMan (b : List Byte) : ManEntry :=
  let a := fieldAt b 0 8
  let n := fieldAt b 8 8
  let fl := fieldAt b 16 4
  let rc := fieldAt b 20 4
  let o := kOff a
  let sp := kSpace a
  let bits := if sp = 0 then 38 else 28
  { space := sp, die := bitsOf o bits 3, off := o % 2 ^ bits, len := n, repl := bitOf fl 0, ctx := rc % 2 ^ 20
    ok := sp < 2 && o % 8192 == 0 && n % 8192 == 0 && (targetOf sp o n != .bad) && decide (fl < 2) && decide (rc < 2 ^ 20) &&
      fieldAt b 24 8 == 0 }

/-- The manifest's bytes, where its address lies in this node's memory. -/
def State.manifest (s : State) (t : Nat) : Option (List Byte) :=
  let a := (s.rd (R.SNP_T_MANIFEST t)).toNat
  if 2 ≤ kSpace a ∨ a % 64 ≠ 0 ∨ targetOf (kSpace a) (kOff a) 8 = .bad then none
  else
    let n := leNat (s.memRead (kSpace a) (kOff a) 8).1
    if n < 1 ∨ 4096 < n ∨ targetOf (kSpace a) (kOff a) (8 + 32 * n) = .bad then none
    else some (s.memRead (kSpace a) (kOff a) (8 + 32 * n)).1

def manEntries (b : List Byte) : List ManEntry :=
  (List.range (fieldAt b 0 8)).map fun i => parseMan (slice b (8 + 32 * i) 32)

/-- The granules of a purpose that a tenancy's running job holds on a die. -/
def State.area (s : State) (t d purpose : Nat) : List Nat :=
  match s.job t 0 with
  | some j => (j.grants.filter fun g => g.die == d && g.purpose == purpose).flatMap fun g => (List.range g.count).map (g.first + ·)
  | none => []

/-- Does a manifest keep R283? -/
def State.manifestOk (s : State) (t : Nat) (es : List ManEntry) : Bool :=
  (es.all fun e => e.ok && (s.diesOf t).contains e.die) &&
    (s.diesOf t).all fun d =>
      decide (((es.filter fun e => e.die == d).map fun e => e.len).sum ≤ 2 ^ 30 * (s.area t d 1).length)

/-! ### Building an image (R284, R285) -/

/-- The registers a core's record holds, in its order. -/
def coreRegs (p : Nat) : List Nat :=
  (List.range 64).map (R.PRM p) ++ [R.COX_GATE p] ++ (List.range 16).map (R.FLG_STATE p) ++ (List.range 16).map (R.FLG_LEVEL p) ++
    (List.range 16).map (R.FLG_POISON p) ++ (List.range 256).map (R.FLG_OWNER p)

def State.coreImage (s : State) (p : Nat) : CoreImage :=
  let c := s.cox p
  ⟨p, (s.hbmRead (dieOf p) (saveOff p) accBytes).1, c.dmem, c.pc, c.xs, (coreRegs p).map fun a => s.rd a⟩

/-- The bytes of a declared range. -/
def State.rangeBytes (s : State) (e : ManEntry) : List Byte :=
  if e.space = 0 then s.dieBytes e.die e.off e.len
  else (s.memRead 1 (e.die * 2 ^ 28 + e.off) e.len).1

def State.passOpen (s : State) (t : Nat) : Bool := (s.scribesOf t).any fun k => (s.scribe k).op == 2

def State.buildImage (s : State) (t gen : Nat) (man : List Byte) : Image :=
  let es := manEntries man
  { gen := gen
    passOpen := s.passOpen t
    dies := match s.job t 0 with | some j => j.dies | none => []
    manifest := man
    ranges := es.map fun e => (e.space, e.die, e.off, s.rangeBytes e)
    flags := es.map fun e => (e.repl, e.ctx)
    cores := (s.coresOf t).map fun p => s.coreImage p
    ready := (s.diesOf t).map fun d => (d, (s.die d).ready)
    scribes := (s.scribesOf t).map fun k => (k, s.rd (R.SCB_TABLE k), s.rd (R.SCB_STAT k))
    ctxs := (s.ctxsOf t).map fun x => (x, s.ctx x) }

/-- Bytes into the granules of an area, in order; what does not fit is not written. -/
def State.areaWrite (s : State) (d : Nat) : List Nat → List Byte → State
  | [], _ => s
  | g :: gs, b => if b.isEmpty then s else (s.hbmWrite d (2 ^ 30 * g) (b.take (2 ^ 30))).areaWrite d gs (b.drop (2 ^ 30))

/-- Does an area of a die still hold some bytes, and can it be reached? -/
def State.areaHolds (s : State) (d : Nat) : List Nat → List Byte → Bool
  | [], _ => true
  | g :: gs, b =>
    b.isEmpty || (let n := min b.length (2 ^ 30)
      !s.fencedTarget (.hbm d (2 ^ 30 * g)) n && s.dieBytes d (2 ^ 30 * g) n == b.take n && s.areaHolds d gs (b.drop n))

/-- The local area's image, if its digests hold: what was copied there is there still (R290). -/
def State.localImage (s : State) (t : Nat) : Option Image :=
  match s.ten.images.look t, s.snaps.look t with
  | some m, none => if m.ready.all fun e => s.areaHolds e.1 (s.area t e.1 1) (m.dieBytes e.1) then some m else none
  | _, _ => none

/-! ### A snapshot's course (R285 to R287) -/

def State.snapRun (s : State) (t : Nat) : Option SnapRun := s.snaps.look t
def State.setSnap (s : State) (t : Nat) (r : SnapRun) : State := { s with snaps := s.snaps.ins t r }

/-- The arbiter's snapshot activity of a tenancy ends. -/
def State.snapMaintEnd (s : State) (t : Nat) (ok : Bool) : State :=
  match s.maint.running.findIdx? fun r => r.act == 6 && r.scope == t with
  | some i => s.maintEnd i ok
  | none => s

def State.snapRecord (s : State) (t code layer : Nat) (inj : Bool) : State :=
  let o := occ 0x50 kTen t code layer
  s.record (if inj then s.injected o else o)

/-- An armed point of detector 0x50 with a code fires (R345). -/
def State.snapInject (s : State) (t code : Nat) : Option Nat × State :=
  if s.f (R.INJ_P_CTL 0x50) F.INJ_P_CTL_SYN = code then s.inject 0x50 kTen t else (none, s)

/-- Scribes that the stop held go on. -/
def State.freeScribes (s : State) (t : Nat) : State := (s.scribesOf t).foldl (fun (s : State) k => s.freeScribe k) s

/-- A snapshot or pre-emption ends without success. -/
def State.snapFail (s : State) (t status : Nat) (r : SnapRun) : State :=
  let s := ({ s with snaps := s.snaps.del t }.freeScribes t).setLastStatus t status
  let s := if r.what = 1 then s.bump R.SNP_CNT_FAILED 1 else s
  if r.maint then s.snapMaintEnd t false else s

/-- The records and ranges are taken, and the copy begins (R285, step 4). -/
def State.beginCopy (s : State) (t : Nat) (r : SnapRun) : State :=
  match s.manifest t with
  | none => s.snapFail t 4 r
  | some man =>
    let m := s.buildImage t (s.f (R.SNP_T_GEN t) F.SNP_T_GEN_LOCAL + 1) man
    let i := s.snapInject t 1
    let s := i.2
    let s := { s with ten := { s.ten with images := s.ten.images.ins t m } }
    s.setSnap t { r with
      phase := 4, torn := i.1.isSome
      ranges := (manEntries man).map fun e => (e.space, e.die, e.off, e.len) }

/-- A snapshot starts: at its boundary, or, of a pre-empted tenancy, at its copy (R282, R285). -/
def State.startSnap (s : State) (t what : Nat) (maint : Bool) : State :=
  let r : SnapRun := ⟨what, 1, s.time, s.time, [], false, maint⟩
  if s.jobState t = jPreempted then s.beginCopy t r else s.setSnap t r

def snpWord (op t src dest : Nat) (host : Bool) (gen : Nat) : Word :=
  fields [(op, 0), (t, 4), (src % 8, 7), (dest, 10), (b2n host, 13), (gen % 2 ^ 32, 32)]

/-- SNAPSHOT is requested: its manifest is checked before anything stops, and the arbiter runs it. A previous image that
is not yet complete at the partner defers it (R289). -/
def State.doSnapshot (s : State) (t : Nat) : State :=
  if ¬ (s.jobState t = jRunning ∨ s.jobState t = jPreempted) ∨ (s.snapRun t).isSome = true then s.setLastStatus t 10
  else
    let good : Bool := match s.manifest t with | some m => s.manifestOk t (manEntries m) | none => false
    if ¬ good then (s.setLastStatus t 4).bump R.SNP_CNT_FAILED 1
    else
      let q : MaintReq := ⟨6, t, 1, .boathouse, s.time, s.time, none⟩
      let a := s.maintRequest q (s.ten.drains.any fun l => l.t == t && l.layer == 1)
      match a.1 with
      | 0 => a.2.startSnap t 1 true
      | 1 => a.2
      | _ => a.2.bump R.SNP_CNT_FAILED 1

def execSnapshot (iss : Issuer) (t : Ten) (s : State) : Res :=
  .next (s.ctlIn iss R.SNP_CMD 8 (snpWord 1 t 0 0 false 0) fun s => s.doSnapshot t)

/-- SNAPSHOT_STOP (R285): the last heat of the tenancy has ended. -/
def State.doSnapStop (s : State) (t : Nat) (r : SnapRun) : State :=
  let s := (s.scribesOf t).foldl (fun (s : State) k => s.holdScribe k) s
  s.setSnap t { r with phase := 2, stopAt := s.time }

def execSnapshotStop (t : Ten) (s : State) : Res :=
  match s.snapRun t with
  | some r => State.when (r.phase == 1 && !s.tenRuns t) "a heat of the tenancy runs, or the stop has begun" (s.doSnapStop t r)
  | none => .refused (.notEnabled "no snapshot of the tenancy is in progress")

/-- BOUNDARY_TIMEOUT (R285). -/
def State.doBoundaryTimeout (s : State) (t : Nat) (r : SnapRun) (inj : Bool) : State :=
  ((s.snapFail t 3 r).setF R.SNP_EVENT F.SNP_EVENT_BOUNDARY_TIMEOUT 1).snapRecord t 3 0 inj

def execBoundaryTimeout (t : Ten) (s : State) : Res :=
  match s.snapRun t with
  | some r =>
    let i := s.snapInject t 3
    State.when (r.phase == 1 && (i.1.isSome ||
        (s.tenRuns t && decide (r.asked + ticksMs (s.f R.SNP_CTL F.SNP_CTL_BOUNDARY_MS) < s.time))))
      "the boundary's limit has not passed" (i.2.doBoundaryTimeout t r i.1.isSome)
  | none => .refused (.notEnabled "no snapshot of the tenancy is in progress")

/-- A core is quiet: no command, no patch, its cox in WFI or stopped, and nothing moves in its engines (R88, R285). -/
def State.coreQuiet (s : State) (p : Nat) : Bool :=
  let c := s.cox p
  (s.ae p).cmds.isEmpty && (s.core p).patches.isEmpty && (c.wfi || c.halted || s.f (R.COX_CTL p) F.COX_CTL_RUN == 0) &&
    (List.range 3).all fun e =>
      let g := s.eng (engId p e)
      g.outer.isNone && g.chain.isNone && g.drain.isNone && g.load.isNone && g.row.isNone && g.flight.isEmpty && g.writes.isEmpty

def State.quiesced (s : State) (t : Nat) : Bool :=
  (s.coresOf t).all (fun p => s.coreQuiet p) && (s.scribesOf t).all fun k => (s.scribe k).op == 0 || (s.scribe k).held

/-- QUIESCE_TIMEOUT (R285): the stop ends at once. -/
def State.doQuiesceTimeout (s : State) (t : Nat) (r : SnapRun) (inj : Bool) : State :=
  ((s.snapFail t 2 r).setF R.SNP_EVENT F.SNP_EVENT_QUIESCE_TIMEOUT 1).snapRecord t 2 0 inj

def execQuiesceTimeout (t : Ten) (s : State) : Res :=
  match s.snapRun t with
  | some r =>
    let i := s.snapInject t 2
    State.when (r.phase == 2 && (i.1.isSome ||
        (!s.quiesced t && decide (r.stopAt + ticksUs (s.f R.SNP_CTL F.SNP_CTL_QUIESCE_US) < s.time))))
      "the quiesce's limit has not passed" (i.2.doQuiesceTimeout t r i.1.isSome)
  | none => .refused (.notEnabled "no snapshot of the tenancy is in progress")

/-- QUIESCE_COMPLETE (R282, R285): the accumulators are saved; the copy begins, or the tenancy is pre-empted. An armed
point may abandon the snapshot here. -/
def State.doQuiesced (s : State) (t : Nat) (r : SnapRun) : State :=
  let i := s.snapInject t 5
  let s := i.2
  if i.1.isSome then
    ((s.snapFail t 9 r).setF R.SNP_EVENT F.SNP_EVENT_ABORTED 1).snapRecord t 5 0 true
  else
    let s := s.saveAccs t
    if r.what = 5 then
      let s := ({ s with snaps := s.snaps.del t }.freeScribes t).setLastStatus t 0
      (s.setF (R.SNP_T_STAT t) F.SNP_T_STAT_JOB_STATE jPreempted).settleEnd t
    else s.beginCopy t r

def execQuiesceComplete (t : Ten) (s : State) : Res :=
  match s.snapRun t with
  | some r => State.when (r.phase == 2 && s.quiesced t) "the tenancy is not quiet" (s.doQuiesced t r)
  | none => .refused (.notEnabled "no snapshot of the tenancy is in progress")

/-! ### The copy's end and the drain (R285 to R289) -/

/-- A generation is recorded in the palimpsest, and a mirror is due (R331, R334). -/
def State.recordGen (s : State) (a : Nat) (fld : Nat × Nat) (gen : Nat) : State :=
  { (s.setF a fld gen).palPut false a with mirrorDue := true }

/-- The layers a tenancy's policy names. -/
def State.layers (s : State) (t : Nat) : List Nat :=
  match s.ten.policies.look t with
  | none => []
  | some p => (if p.partner < 2 ^ 18 then [1] else []) ++ (if p.nsid ≠ 0 then [2] else []) ++ (if p.slen ≠ 0 then [3] else [])

/-- The flash slot a generation goes to: the two are written by turns. -/
def flashKey (t gen : Nat) : Nat := 2 * t + gen % 2

/-- The drains of a complete image begin; the slots they are to write are invalid from now on (R289). -/
def State.beginDrains (s : State) (t : Nat) (m : Image) : State :=
  let ls := s.layers t
  let s := { s with ten := { s.ten with
    drains := s.ten.drains ++ ls.map fun l => ⟨t, l, m⟩
    partner := if ls.contains 1 then s.ten.partner.del t else s.ten.partner
    flash := if ls.contains 2 then s.ten.flash.del (flashKey t m.gen) else s.ten.flash } }
  if ls.contains 1 then s else s.snapMaintEnd t true

/-- The stop's length is recorded. -/
def State.recordStop (s : State) (t us : Nat) : State :=
  let a := R.SNP_T_STOP t
  (s.setF a F.SNP_T_STOP_LAST_US us).setF a F.SNP_T_STOP_MAX_US (max us (s.f a F.SNP_T_STOP_MAX_US))

/-- The drain of an image to a layer. -/
def State.drain (s : State) (t layer : Nat) : Option LayerRun := s.ten.drains.find? fun l => l.t == t && l.layer == layer

def State.dropDrain (s : State) (t layer : Nat) : State :=
  { s with ten := { s.ten with drains := s.ten.drains.filter fun l => !(l.t == t && l.layer == layer) } }

/-- DRAIN_FAILED (R289). -/
def State.doDrainFailed (s : State) (t layer : Nat) : State :=
  let s := ((s.dropDrain t layer).setF R.SNP_EVENT F.SNP_EVENT_DRAIN_FAILED 1).snapRecord t 4 layer false
  if layer = 1 then s.snapMaintEnd t false else s

/-- SNAPSHOT_COPY_COMPLETE (R285, R287). -/
def State.doCopied (s : State) (t : Nat) (r : SnapRun) (m : Image) : State :=
  let s := m.ready.foldl (fun (s : State) e => s.areaWrite e.1 (s.area t e.1 1) (m.dieBytes e.1)) { s with snaps := s.snaps.del t }
  let s := (s.freeScribes t).recordStop t ((s.time - r.stopAt) / 25)
  if r.torn then
    let s := { s with ten := { s.ten with images := s.ten.images.del t } }
    let s := ((s.setLastStatus t 1).setF R.SNP_EVENT F.SNP_EVENT_TORN 1).bump R.SNP_CNT_FAILED 1
    (s.snapRecord t 1 0 false).snapMaintEnd t false
  else
    let s := s.recordGen (R.SNP_T_GEN t) F.SNP_T_GEN_LOCAL m.gen
    let s := s.setF (R.SNP_T_STAT t) F.SNP_T_STAT_PASS_OPEN (b2n m.passOpen)
    let s := ((s.setLastStatus t 0).bump R.SNP_CNT_TAKEN 1).beginDrains t m
    if (s.drain t 2).isSome && !s.pins.pcie then s.doDrainFailed t 2 else s

def execSnapshotCopyComplete (t : Ten) (s : State) : Res :=
  match s.snapRun t, s.ten.images.look t with
  | some r, some m => State.when (r.phase == 4) "no copy runs" (s.doCopied t r m)
  | _, _ => .refused (.notEnabled "no copy runs")

/-- What the flash drive sends back meets an armed PCIe point (R342): a TLP taken as bad is replayed, and a completion taken
as poisoned fails its drain. The statuses are PCIe's Bad TLP and Poisoned TLP bits (log 12). -/
def State.pcieReceive (s : State) : Bool × State :=
  let s : State := match s.inject 0x42 kFp0 0 with
    | (some _, s) => s.record (s.injected (occ 0x42 kFp0 0 0x40))
    | (none, s) => s
  match s.inject 0x43 kFp0 0 with
  | (some _, s) =>
    let n := s.tick
    (true, n.2.record (n.2.injected (occ 0x43 kFp0 0 0x1000 (Config.freeBits n.1 % 2 ^ 32))))
  | (none, s) => (false, s)

/-- DRAIN_LAYER_COMPLETE (R289): the layer holds the image COMPLETE. -/
def State.doDrained (s : State) (t : Nat) (l : LayerRun) : State :=
  let s := s.dropDrain t l.layer
  let bs := l.image.bytes t s.node
  let s := s.bump R.SNP_CNT_DRAIN_BYTES bs.length
  match l.layer with
  | 1 =>
    let s := { s with ten := { s.ten with partner := s.ten.partner.ins t l.image } }
    (s.recordGen (R.SNP_T_GEN t) F.SNP_T_GEN_PARTNER l.image.gen).snapMaintEnd t true
  | 2 =>
    let s := { s with ten := { s.ten with flash := s.ten.flash.ins (flashKey t l.image.gen) l.image } }
    s.recordGen (R.SNP_T_GEN2 t) F.SNP_T_GEN2_FLASH l.image.gen
  | _ =>
    let s := { s with ten := { s.ten with shared := s.ten.shared.ins t l.image } }
    let qp := match s.ten.policies.look t with | some p => p.sharedQp | none => 0
    (s.emit (.eth (qp / 256) qp 6 bs)).recordGen (R.SNP_T_GEN2 t) F.SNP_T_GEN2_SHARED l.image.gen

def execDrainLayerComplete (t : Ten) (layer : Fin 3) (s : State) : Res :=
  match s.drain t (layer + 1) with
  | some l =>
    let r := if l.layer = 2 then s.pcieReceive else (false, s)
    State.when s.bhUp "the boathouse does not serve" (if r.1 then r.2.doDrainFailed t 2 else r.2.doDrained t l)
  | none => .refused (.notEnabled "no drain to the layer runs")

def execDrainFailed (t : Ten) (layer : Fin 3) (s : State) : Res :=
  State.when (s.drain t (layer + 1)).isSome "no drain to the layer runs" (s.doDrainFailed t (layer + 1))

/-! ### Restoring (R290 to R292, R296) -/

/-- The complete images within reach, in the order of R290: layer and image. The flash is out of reach while its link is
down (R358). -/
def State.sources (s : State) (t : Nat) : List (Nat × Image) :=
  let fl := [s.ten.flash.look (2 * t), s.ten.flash.look (2 * t + 1)].filterMap id
  let fl := match fl with | [a, b] => if a.gen < b.gen then [b, a] else [a, b] | l => l
  let fl := if s.pins.pcie then fl else []
  let one (k : Nat) (o : Option Image) : List (Nat × Image) := match o with | some m => [(k, m)] | none => []
  one 1 (s.localImage t) ++ one 2 (s.ten.partner.look t) ++ fl.map (fun m => (3, m)) ++ one 4 (s.ten.shared.look t)

/-- The image a command names: of a generation, or the newest, from a layer, or the first that holds it. -/
def State.imageOf (s : State) (t src gen : Nat) : Option Image :=
  let l := (s.sources t).filter fun q => src == 0 || q.1 == src
  let g := if gen = 0 then (l.map fun q => q.2.gen).foldl max 0 else gen
  (l.find? fun q => q.2.gen == g).map (·.2)

/-- Has a die lost a stack? -/
def State.stackLost (s : State) (d : Nat) : Bool := (List.range 4).any fun k => s.stackFenced (4 * d + k)

/-- Virtual dies whose die lost a stack move to spare dies; none where a spare is wanting (R296). -/
def State.spareMap (s : State) (t : Nat) : (spares : List Nat) → List Nat → Option (List Nat)
  | _, [] => some []
  | sp, d :: l =>
    if s.stackLost d then match sp with
      | [] => none
      | e :: sp => (s.spareMap t sp l).map (e :: ·)
    else (s.spareMap t sp l).map (d :: ·)

/-- Where a die's part of an image goes: to the die its virtual die now stands on. -/
def movedDie (old new : List Nat) (d : Nat) : Nat :=
  match old.findIdx? (· == d) with
  | some e => new.getD e d
  | none => d

/-- Reservations move with their virtual dies, and with them the modes of the groups. -/
def State.moveGrants (s : State) (t : Nat) (j : Job) (dies : List Nat) : State :=
  let mv := movedDie j.dies dies
  let s := (j.grants.filter fun g => mv g.die != g.die).foldl (fun (s : State) g =>
    let d := mv g.die
    let mask := (s.rd (R.HBM_NI_MASK (4 * d))).toNat
    s.setModes d ((List.range g.count).foldl (fun m i => putBits m ((g.first + i) / 4) 1 (b2n g.ni)) mask)) s
  s.setJob t 0 { j with dies := dies, grants := j.grants.map fun (g : Grant) => { g with die := mv g.die } }

/-- A declared range is written to its address. -/
def State.restoreRange (s : State) (mv : Nat → Nat) (q : Nat × Nat × Nat × List Byte) : State :=
  let d := mv q.2.1
  if q.1 = 0 then s.hbmWrite d q.2.2.1 q.2.2.2
  else (tilePieces (q.2.2.2.length / 8192 + 2) q.2.2.1 q.2.2.2.length).foldl (fun (s : State) (w : Nat × Nat) =>
    let p := 32 * d + w.1 / 2 ^ 23
    if s.coreClosed p then s else s.spadWrite p (w.1 % 2 ^ 23) (slice q.2.2.2 (w.1 - q.2.2.1) w.2)) s

/-- A core's record is loaded; its queues, tile cache and regulator are as a new configuration leaves them (R284). -/
def State.restoreCore (s : State) (mv : Nat → Nat) (c : CoreImage) : State :=
  let p := 32 * mv (c.pos / 32) + c.pos % 32
  if s.coreClosed p then s
  else
    let s := ((List.range 3).foldl (fun (s : State) e =>
      let g := s.eng (engId p e)
      s.setEng (engId p e) { Engine.init with seed := g.seed, draws := g.draws }) s).loadAcc p c.acc
    let x := s.cox p
    let s := s.setCox p { x with dmem := c.dmem, pc := c.pc, xs := c.xs, inTrap := false, halted := false, wfi := false }
    let s := ((coreRegs p).zip c.regs).foldl (fun (s : State) e => s.wr e.1 e.2) s
    let a := s.ae p
    let s := s.setAe p { a with tqs := AccessEngine.init.tqs, cache := [], rate := 0, burst := 0, level := 0 }
    s.setCore p { s.core p with patches := [], patchWait := [] }

/-- The words of a scribe are loaded; no pass is resumed (R287). -/
def State.restoreScribe (s : State) (mv : Nat → Nat) (q : Nat × Word × Word) : State :=
  let k := 4 * mv (q.1 / 4) + q.1 % 4
  if s.scribeFenced k || s.stackFenced k then s
  else
    let s := (s.wr (R.SCB_TABLE k) q.2.1).wr (R.SCB_STAT k) q.2.2
    ((s.setF (R.SCB_STAT k) F.SCB_STAT_BUSY 0).setF (R.SCB_STAT k) F.SCB_STAT_HELD 0).setF (R.SCB_STAT k) F.SCB_STAT_WAIT_RELEASE 0

/-- The image is written to the tenancy's dies (R290). -/
def State.restoreImage (s : State) (t : Nat) (m : Image) (dies : List Nat) : State :=
  let mv := movedDie m.dies dies
  let s := m.ranges.foldl (fun (s : State) q => s.restoreRange mv q) s
  let s := m.cores.foldl (fun (s : State) c => s.restoreCore mv c) s
  let s := m.scribes.foldl (fun (s : State) q => s.restoreScribe mv q) s
  let s := m.ready.foldl (fun (s : State) e => s.setDie (mv e.1) { s.die (mv e.1) with ready := e.2, postWait := [] }) s
  let s := m.ctxs.foldl (fun (s : State) e => s.setCtx e.1 e.2) s
  s.unpoisonAll t

/-- Every range has passed (R292): the ready sets are posted again, the coxes run, the job runs. -/
def State.restored (s : State) (t : Nat) : State :=
  let s := (s.diesOf t).foldl (fun (s : State) d =>
    let es := (s.die d).ready
    let s := s.setDie d { s.die d with ready := [] }
    es.foldl (fun (s : State) e => match s.heatDef d e.heat with
      | some h => s.enterReady (32 * d + e.poster % 32) e.heat (s.die d).now h
      | none => s) s) s
  let s : State := match s.job t 0, s.mods.look t with
    | some j, some m => s.runCoxes j m false
    | _, _ => s
  let s := (s.setF (R.SNP_T_STAT t) F.SNP_T_STAT_JOB_STATE jRunning).bump R.SNP_CNT_RESTORES 1
  (s.setLastStatus t 0).settleEnd t

/-- The restore of an image: the mapping, the translation, the writes; then its replicated ranges are to be verified, or
the job runs again. -/
def State.restoreTo (s : State) (t : Nat) (j : Job) (m : Image) : State :=
  let spares := (s.diesOf t).filter fun d => !j.dies.contains d && !s.stackLost d && !s.dieDown d
  match s.spareMap t spares j.dies with
  | none => (s.setLastStatus t 8).setF R.SNP_EVENT F.SNP_EVENT_NO_SPARE 1
  | some dies =>
    let s := (s.redirect t).moveGrants t j dies
    let j := { j with dies := dies, grants := match s.job t 0 with | some k => k.grants | none => j.grants }
    let r := (s.unmapCores t).translateJob t j
    match r.1 with
    | .error e => r.2.setLastStatus t (0x80 + e.status)
    | .ok w =>
      let s := (r.2.installModule t j w false).restoreImage t m dies
      let s := s.setF (R.SNP_T_STAT t) F.SNP_T_STAT_PASS_OPEN (b2n m.passOpen)
      if m.flags.any fun f => f.1 then
        let s := s.setF (R.SNP_T_STAT t) F.SNP_T_STAT_JOB_STATE jVerifying
        { s with ten := { s.ten with images := s.ten.images.ins t m } }
      else s.restored t

/-- RESTORE acts on a held job (R281, R290). -/
def State.doRestore (s : State) (t src gen : Nat) : State :=
  match s.job t 0 with
  | none => s.setLastStatus t 10
  | some j =>
    if s.jobState t ≠ jHeld then s.setLastStatus t 10
    else match s.imageOf t src gen with
      | none => s.setLastStatus t 5
      | some m => s.restoreTo t j m

def execRestore (iss : Issuer) (t : Ten) (src gen : Nat) (s : State) : Res :=
  .next (s.ctlIn iss R.SNP_CMD 8 (snpWord 2 t src 0 false gen) fun s => s.doRestore t (src % 8) (gen % 2 ^ 32))

/-- AUTO_RESTORE (R281): the boathouse restores a held job itself. -/
def execAutoRestore (t : Ten) (s : State) : Res :=
  State.when (s.jobState t == jHeld && s.bhUp && s.diesAwake t &&
      (match s.ten.policies.look t with | some p => p.auto_ | none => false)) "no held job is to be restored" (s.doRestore t 0 0)

/-! #### Verification (R291) -/

/-- What a member reports of a range: digest and generation. -/
abbrev Reply := BitVec 512 × Nat

/-- The reply a strict majority of the members agrees on. -/
def majority (rs : List Reply) : Option Reply := rs.find? fun r => decide (rs.length < 2 * (rs.filter fun q => q == r).length)

/-- The image whose ranges are being verified. -/
def State.verifying (s : State) (t : Nat) : Option Image := if s.jobState t = jVerifying then s.ten.images.look t else none

/-- The replicated entries of an image: entry, context, range. -/
def Image.replicas (m : Image) : List (Nat × Nat × (Nat × Nat × Nat × List Byte)) :=
  ((m.flags.zip m.ranges).zipIdx.filter fun e => e.1.1.1).map fun e => (e.2, e.1.1.2, e.1.2)

/-- A differing reply: the event, the record of the entry and rank, and the error record. -/
def State.mismatch (s : State) (t entry rank : Nat) (inj : Bool) : State :=
  let s := s.setF R.SNP_EVENT F.SNP_EVENT_RESTORE_MISMATCH 1
  let a := R.SNP_T_MISMATCH t
  let s := if s.f a F.SNP_T_MISMATCH_VALID = 1 then s else s.wr a (fields [(entry, 0), (rank, 12), (1, 30)])
  let o := occ 0x51 kTen t entry rank
  s.record (if inj then s.injected o else o) 9

/-- One range: it passes, is fetched from the majority, or fails. The replies are those of the members by rank, with the
bytes a fetch returns. -/
def State.verifyRange (s : State) (t : Nat) (m : Image) (e : Nat × Nat × (Nat × Nat × Nat × List Byte)) (q : List Reply × List Byte) :
    Bool × State :=
  let armed := s.f (R.INJ_P_CTL 0x51) F.INJ_P_CTL_SYN = e.1
  let i : Option Nat × State := if armed then s.inject 0x51 kTen t else (none, s)
  let s := i.2
  let own : Reply := (if i.1.isSome then Config.sha512 e.2.2.2.2.2 + 1 else Config.sha512 e.2.2.2.2.2, m.gen)
  match q.1.findIdx? fun r => r != own with
  | none => (true, s)
  | some rank =>
    let s := s.mismatch t e.1 rank i.1.isSome
    let adopt := match s.ten.policies.look t with | some p => p.adopt | none => false
    match adopt, majority q.1 with
    | true, some r =>
      if r = own then (true, s)
      else
        let dies := match s.job t 0 with | some j => j.dies | none => []
        let s := s.restoreRange (movedDie m.dies dies) (e.2.2.1, e.2.2.2.1, e.2.2.2.2.1, q.2)
        (decide ((Config.sha512 q.2, m.gen) = r), s)
    | _, _ => (false, s)

def State.verifyAll (s : State) (t : Nat) (m : Image) :
    List (Nat × Nat × (Nat × Nat × Nat × List Byte)) → List (List Reply × List Byte) → Bool × State
  | e :: es, q :: qs =>
    let r := s.verifyRange t m e q
    if r.1 then r.2.verifyAll t m es qs else r
  | _, _ => (true, s)

/-- RESTORE_VERIFY (R291, R292). -/
def State.doVerify (s : State) (t : Nat) (m : Image) (replies : List (List Reply × List Byte)) : State :=
  let r := s.verifyAll t m m.replicas replies
  if r.1 then r.2.restored t
  else (r.2.setF (R.SNP_T_STAT t) F.SNP_T_STAT_JOB_STATE jHeld).setF (R.SNP_T_STAT t) F.SNP_T_STAT_CAUSE 9

/-- Are there replies of every member for every replicated range, and fetched bytes of its length? -/
def State.repliesFit (s : State) (m : Image) (replies : List (List Reply × List Byte)) : Bool :=
  replies.length == m.replicas.length && (m.replicas.zip replies).all fun e =>
    e.2.1.length == (s.mset (s.ctx e.1.2.1).mset).members && e.2.2.length == e.1.2.2.2.2.2.length

def execRestoreVerify (t : Ten) (replies : List (List Reply × List Byte)) (s : State) : Res :=
  match s.verifying t with
  | some m => State.when (s.bhUp && s.repliesFit m replies) "the members have not all answered" (s.doVerify t m replies)
  | none => .refused (.notEnabled "no restore is being verified")

/-! ### Shipping, recovery and pre-emption (R280, R282, R293) -/

/-- SHIP: a complete image goes to the policy's host, or into another tenancy's receive area. -/
def State.doShip (s : State) (t dest : Nat) (toHost : Bool) (gen : Nat) : State :=
  match s.imageOf t 0 gen with
  | none => s.setLastStatus t 5
  | some m =>
    let bs := m.bytes t s.node
    if toHost then match s.ten.policies.look t with
      | some p => ((s.emit (.eth (p.sharedQp / 256) p.sharedQp 7 bs)).bump R.SNP_CNT_SHIPPED 1).setLastStatus t 0
      | none => s.setLastStatus t 6
    else
      let rooms := (s.diesOf dest).flatMap fun d => (s.area dest d 2).map fun g => (d, g)
      if rooms.isEmpty ∨ 2 ^ 30 * rooms.length < bs.length then s.setLastStatus t 6
      else
        let s := rooms.zipIdx.foldl (fun (s : State) q =>
          s.hbmWrite q.1.1 (2 ^ 30 * q.1.2) (slice bs (2 ^ 30 * q.2) (2 ^ 30))) s
        (s.bump R.SNP_CNT_SHIPPED 1).setLastStatus t 0

def execShip (iss : Issuer) (t dest : Ten) (toHost : Bool) (gen : Nat) (s : State) : Res :=
  .next (s.ctlIn iss R.SNP_CMD 8 (snpWord 3 t 0 dest toHost gen) fun s => s.doShip t dest toHost (gen % 2 ^ 32))

/-- RECOVER (R280): a host's request. -/
def execRecover (iss : Issuer) (t : Ten) (s : State) : Res :=
  .next (s.ctlIn iss R.SNP_CMD 8 (snpWord 4 t 0 0 false 0) fun s => s.recover t 8)

/-- PREEMPT acts on a running job (R282). -/
def State.doPreempt (s : State) (t : Nat) : State :=
  if s.jobState t = jRunning ∧ (s.snapRun t).isNone = true then s.startSnap t 5 false else s.setLastStatus t 10

def execPreempt (iss : Issuer) (t : Ten) (s : State) : Res :=
  .next (s.ctlIn iss R.SNP_CMD 8 (snpWord 5 t 0 0 false 0) fun s => s.doPreempt t)

/-- RESUME acts on a pre-empted job (R282): its clusters wake and its accumulators are restored. -/
def State.doResume (s : State) (t : Nat) : State :=
  if s.jobState t = jPreempted ∧ (s.snapRun t).isNone = true then
    let s := (s.diesOf t).foldl (fun (s : State) d =>
      (List.range 4).foldl (fun (s : State) c => if s.cluster d c = 2 then s.setCluster d c 1 else s) s) s
    ((s.loadAccs t).setF (R.SNP_T_STAT t) F.SNP_T_STAT_JOB_STATE jRunning).setLastStatus t 0
  else s.setLastStatus t 10

def execResume (iss : Issuer) (t : Ten) (s : State) : Res :=
  .next (s.ctlIn iss R.SNP_CMD 8 (snpWord 6 t 0 0 false 0) fun s => s.doResume t)

/-- A write of SNP_CMD, by its fields (R280 to R293); other operations have no effect. -/
def State.snpCommand (s : State) (v : Word) : State :=
  let n := v.toNat
  let t := bitsOf n 4 3
  match bitsOf n 0 4 with
  | 1 => s.doSnapshot t
  | 2 => s.doRestore t (bitsOf n 7 3) (bitsOf n 32 32)
  | 3 => s.doShip t (bitsOf n 10 3) (bitOf n 13) (bitsOf n 32 32)
  | 4 => s.recover t 8
  | 5 => s.doPreempt t
  | 6 => s.doResume t
  | _ => s

end Sys2Proof.Machine
end

