-- ==== Sys2Proof/Machine/Maint.lean ====
section
/-! DEFINITION. Fences on request, firmware images, and what the arbiter's activities do (R294 to R300, R317, R338). -/

namespace Sys2Proof.Machine

open Sys2Proof

/-! ### Firmware images (R317) -/

/-- Is an image of a kind fit to run: its Precharas signature holds, and its SVN is not below the floor? -/
def State.fwOk (s : State) (kind : Nat) (i : FwImage) : Bool :=
  i.kind == kind && i.keyId == 0 && Config.ecdsaVerify Config.precharasKey (fwBytes i) i.sigR i.sigS &&
    decide (s.f (R.BH_FW (kind - 1)) F.BH_FW_MIN_SVN ≤ i.svn)

/-- A check of an image, with its record where it fails or is made to (R342). -/
def State.fwCheck (s : State) (kind : Nat) (i : FwImage) : Bool × State :=
  let armed := s.f (R.INJ_P_CTL 0x4A) F.INJ_P_CTL_SYN = kind
  let q : Option Nat × State := if armed then s.inject 0x4A kPackage 0 else (none, s)
  if s.fwOk kind i && q.1.isNone then (true, q.2)
  else
    let o := occ 0x4A kPackage 0 kind i.keyId
    (false, q.2.record (if q.1.isSome then q.2.injected o else o))

/-- The version and SVN in force. -/
def State.showFw (s : State) (kind : Nat) (i : FwImage) : State :=
  (s.setF (R.BH_FW (kind - 1)) F.BH_FW_VERSION i.version).setF (R.BH_FW (kind - 1)) F.BH_FW_SVN i.svn

/-- Governing selector record: the highest SEQ with a valid CRC; without one, slot A for every kind. -/
def selected (l : List SlotRecord) : SlotRecord :=
  (l.filter fun r => r.crcOk).foldl (fun m r => if m.seq ≤ r.seq then r else m) ⟨0, 0, true⟩

/-- Write an image to a slot of the flash: slot A or B of a kind. -/
def norPut (n : Nor) (slotB : Bool) (kind : Nat) (i : FwImage) : Nor :=
  if slotB then { n with slotB := n.slotB.set (kind - 1) (some i) } else { n with slotA := n.slotA.set (kind - 1) (some i) }

def norSlot (n : Nor) (slotB : Bool) (kind : Nat) : Option FwImage :=
  ((if slotB then n.slotB else n.slotA)[kind - 1]?).bind id

def slotFld (kind : Nat) : Nat × Nat :=
  match kind with | 1 => F.BH_FW_SLOT_BH_SLOT | 2 => F.BH_FW_SLOT_TR_SLOT | _ => F.BH_FW_SLOT_SC_SLOT

def State.setNor (s : State) (n : Nor) : State := { s with bh := { s.bh with nor := n } }

/-- The image goes to the inactive slot of its kind (R338). -/
def State.stageFw (s : State) (i : FwImage) : State :=
  s.setNor (norPut s.bh.nor (!bitOf (selected s.bh.nor.selector).slotB.toNat (i.kind - 1)) i.kind i)

/-- A selector record makes the slot that was inactive the active one (R338). -/
def State.selectFw (s : State) (kind : Nat) : State :=
  let n := s.bh.nor
  let r := selected n.selector
  let r : SlotRecord := ⟨r.seq + 1, r.slotB ^^^ BitVec.ofNat 3 (2 ^ (kind - 1)), true⟩
  (s.setNor { n with selector := n.selector ++ [r] }).setF R.BH_FW_SLOT (slotFld kind) (bitsOf r.slotB.toNat (kind - 1) 1)

/-! ### Fences on request (R294, R297) -/

/-- The kind of R340 that a KIND of MNT_FENCE_REQ names, with the number of its units. -/
def fenceKind (k : Nat) : Option (Nat × Nat) :=
  match k with
  | 1 => some (kCore, 256)
  | 2 => some (kCluster, 32)
  | 3 => some (kPc, 2048)
  | 4 => some (kStack, 32)
  | 5 => some (kScribe, 32)
  | 6 => some (kLane, 64)
  | 7 => some (kSublink, 56)
  | 8 => some (kPort, 16)
  | _ => none

/-- Is a unit itself fenced? -/
def State.unitFenced (s : State) (kind i : Nat) : Bool :=
  match kind with
  | 2 => bitOf (s.f R.MNT_FENCE_UNIT F.MNT_FENCE_UNIT_CLUSTER) i
  | 3 => s.bit (R.MNT_FENCE_CORE (i / 64)) (i % 64)
  | 5 => s.stackFenced i
  | 6 => s.pcFenced (i / 64) (i % 64)
  | 7 => s.scribeFenced i
  | 9 => bitOf (s.f R.MNT_FENCE_STACK F.MNT_FENCE_STACK_PORT) i
  | 10 => bitOf (s.f (R.FAB_PORT_CTL (i / 4)) F.FAB_PORT_CTL_LG_FENCE) (i % 4)
  | 11 => s.sublinkFenced i
  | _ => false

/-- What a core holds is not specified when its fence is lifted (R34): its scratchpad, flags, PRMs, accumulators and vector
registers are free values. -/
def State.forgetCore (s : State) (p : Nat) : State :=
  let n := s.tick
  let s := { n.2 with spad := NMap.clearRange n.2.spad (spadKey p 0) (2 ^ 23), liftedCores := n.2.liftedCores.ins p n.1 }
  let s := s.setAe p { s.ae p with zconf := [] }
  let word (k : Nat) : Word := BitVec.ofNat 64 (Config.freeByte n.1 (2 ^ 40 + k)).toNat
  let wide (k : Nat) : Word := (List.range 8).foldl (fun v i => v * 256 + word (8 * k + i)) 0
  let s := (List.range 16).foldl (fun (s : State) k => s.wr (R.FLG_STATE p k) (wide k)) s
  let s := (List.range 64).foldl (fun (s : State) k => s.setF (R.PRM p k) F.PRM_VALUE (wide (16 + k)).toNat) s
  let s := (List.range 3).foldl (fun (s : State) e =>
    let g := s.eng (engId p e)
    s.setEng (engId p e) ((g.setSet false ((List.range 4096).map fun i => wide (80 + 8192 * e + i))).setSet true
      ((List.range 4096).map fun i => wide (4176 + 8192 * e + i)))) s
  let c := s.cvu p
  s.setCvu p { c with regs := (List.range 16384).foldl (fun (m : NMap W32) i => m.set (fun _ => 0) i ((wide (25000 + i)).setWidth 32)) c.regs }

/-- What a pseudo-channel holds is not specified when its fence is lifted. -/
def State.forgetPc (s : State) (k pc : Nat) : State :=
  let n := s.tick
  let inPc (a : Nat) : Bool := a / 2 ^ 36 == k && pcOf (a % 2 ^ 36) == pc
  let s := { n.2 with hbm := NMap.drop inPc n.2.hbm, liftedPcs := n.2.liftedPcs.ins (64 * k + pc) n.1 }
  let v := s.stk k
  s.setStk k { v with zmap := NMap.drop (fun t => pcOf (t * 8192) == pc) v.zmap, bad := NMap.drop (fun w => pcOf (w * 32) == pc) v.bad }

/-- A port that is no longer fenced trains again on its unfenced lane groups. -/
def State.portBack (s : State) (p : Nat) : State :=
  let a := R.FAB_PORT_STAT p
  let groups := 15 - s.f (R.FAB_PORT_CTL p) F.FAB_PORT_CTL_LG_FENCE
  if s.portFenced p || groups == 0 then s
  else
    let on := s.f (R.FAB_PORT_CTL p) F.FAB_PORT_CTL_EN = 1
    (s.setF a F.FAB_PORT_STAT_LG_ACTIVE (if on then groups else 0)).setF a F.FAB_PORT_STAT_STATE (if on then 1 else 0)

/-- The ports of a link die whose edge links are not all down any more return (R27). -/
def State.linkDieBack (s : State) (ld : Nat) : State :=
  if bitOf (s.f R.MNT_FENCE_STACK F.MNT_FENCE_STACK_LINKDIE) ld && (s.linkUp (10 + 2 * ld) || s.linkUp (11 + 2 * ld)) then
    let s := (s.setBit R.MNT_FENCE_STACK (32 + ld) false).palPut true R.MNT_FENCE_STACK
    (List.range 8).foldl (fun (s : State) i => s.portBack (8 * ld + i)) s
  else s

/-- A fence is lifted (R297). -/
def State.unfenceUnit (s : State) (kind i : Nat) : State :=
  match kind with
  | 2 =>
    let s := (s.setBit R.MNT_FENCE_UNIT i false).palPut true R.MNT_FENCE_UNIT
    (List.range 8).foldl (fun (s : State) c => s.forgetCore (8 * i + c)) s
  | 3 =>
    let a := R.MNT_FENCE_CORE (i / 64)
    ((s.setBit a (i % 64) false).palPut true a).forgetCore i
  | 5 =>
    let s := (s.setBit R.MNT_FENCE_STACK i false).palPut true R.MNT_FENCE_STACK
    (List.range 64).foldl (fun (s : State) pc => s.forgetPc i pc) s
  | 6 =>
    let k := i / 64
    let a := R.HBM_PC_FENCE k
    let s := (s.setBit a (i % 64) false).palPut true a
    let s := s.setF (R.HBM_STAT k) F.HBM_STAT_PC_FENCED (s.pcFencedCount k)
    if s.f (R.HBM_PC_REDIR k) F.HBM_PC_REDIR_EN = 1 ∧ s.f (R.HBM_PC_REDIR k) F.HBM_PC_REDIR_PC = i % 64 then s
    else s.forgetPc k (i % 64)
  | 7 => (s.setBit R.MNT_FENCE_UNIT (32 + i) false).palPut true R.MNT_FENCE_UNIT
  | 9 => ((s.setBit R.MNT_FENCE_STACK (34 + i) false).palPut true R.MNT_FENCE_STACK).portBack i
  | 10 =>
    let a := R.FAB_PORT_CTL (i / 4)
    ((s.setF a F.FAB_PORT_CTL_LG_FENCE (s.f a F.FAB_PORT_CTL_LG_FENCE - 2 ^ (i % 4))).palPut true a).portBack (i / 4)
  | 11 => (((s.setBit R.MNT_FENCE_SUBLINK i false).palPut true R.MNT_FENCE_SUBLINK).linkDieBack 0).linkDieBack 1
  | _ => s

/-- A request at MNT_FENCE_REQ; a KIND that names no unit, or an INDEX beyond its units, has no effect. -/
def State.fenceRequest (s : State) (kind i : Nat) (lift : Bool) : State :=
  match fenceKind kind with
  | none => s
  | some (k, n) =>
    if n ≤ i then s
    else if lift then (if s.unitFenced k i then s.unfenceUnit k i else s)
    else if s.unitFenced k i then s else s.fenceUnit k i

def fenceWord (kind i : Nat) (lift : Bool) : Word := fields [(kind % 16, 0), (b2n lift, 4), (i % 4096, 8)]

/-- FENCE. -/
def execFence (iss : Issuer) (kind index : Nat) (s : State) : Res :=
  .next (s.ctlIn iss R.MNT_FENCE_REQ 8 (fenceWord kind index false) fun s => s.fenceRequest (kind % 16) (index % 4096) false)

/-- UNFENCE. -/
def execUnfence (iss : Issuer) (kind index : Nat) (s : State) : Res :=
  .next (s.ctlIn iss R.MNT_FENCE_REQ 8 (fenceWord kind index true) fun s => s.fenceRequest (kind % 16) (index % 4096) true)

/-! ### Activities begin (R298 to R300) -/

/-- An activity that was granted begins. A patch's signature is checked before anything changes; its image is written to
the flash, and boathouse firmware starts its takeover (R300, R338). -/
def State.maintBegin (s : State) (r : MaintReq) : State :=
  let last := s.maint.running.length - 1
  match r.act with
  | 5 =>
    match r.image with
    | none => s.maintEnd last false
    | some i =>
      let known := decide (1 ≤ i.kind) && decide (i.kind ≤ 3)
      let c := if known then s.fwCheck i.kind i else (false, s)
      let s := c.2
      if ¬ c.1 then s.maintEnd last false
      else
        let s := s.stageFw i
        match i.kind with
        | 1 =>
          let old := (s.bh.fw[0]?).bind id
          { s with bh := { s.bh with
            takeover := true, trial := some ⟨s.time + 1500000000, i, old⟩, fw := s.bh.fw.set 0 (some i) } }.showFw 1 i
        | 3 =>
          if s.f (R.SCB_STAT r.scope) F.SCB_STAT_BUSY = 0 then s.setScribe r.scope { s.scribe r.scope with patching := true } else s
        | _ => s
  | 6 =>
    if s.jobState r.scope = jRunning ∨ s.jobState r.scope = jPreempted then s.startSnap r.scope 1 true
    else (s.snapMaintEnd r.scope false).setLastStatus r.scope 10
  | _ => s

/-- A request to the arbiter, which begins where it is not deferred or refused. -/
def State.maintAsk (s : State) (r : MaintReq) : State :=
  let a := s.maintRequest r
  if a.1 = 0 then a.2.maintBegin r else a.2

/-- Does a request's scope name a unit of its kind? -/
def scopeOk (act scope : Nat) : Bool :=
  match act with
  | 1 => decide (scope < 32)
  | 2 => decide (scope < 32)
  | 3 => decide (scope < 16)
  | 5 => decide (scope < 32)
  | _ => true

/-- A write of MNT_REQ: codes 0, 6 and 7 have no effect, nor has a scope that names no unit (log 9). -/
def State.maintWrite (s : State) (iss : Issuer) (act scope arg : Nat) (img : Option FwImage) : State :=
  if 1 ≤ act ∧ act ≤ 5 ∧ scopeOk act scope = true then
    s.maintAsk ⟨act, if act = 4 then 0 else scope, arg, iss, s.time, s.time, img⟩
  else s

def maintWord (act scope arg : Nat) : Word := fields [(act, 0), (scope % 256, 8), (arg % 2 ^ 48, 16)]

/-- SCRUB. -/
def execScrub (iss : Issuer) (k : Stk) (s : State) : Res :=
  .next (s.ctlIn iss R.MNT_REQ 8 (maintWord 1 k 0) fun s => s.maintWrite iss 1 k 0 none)

/-- REPAIR. -/
def execRepair (iss : Issuer) (k : Stk) (s : State) : Res :=
  .next (s.ctlIn iss R.MNT_REQ 8 (maintWord 2 k 0) fun s => s.maintWrite iss 2 k 0 none)

/-- REEQ. -/
def execReeq (iss : Issuer) (scope : Nat) (s : State) : Res :=
  .next (s.ctlIn iss R.MNT_REQ 8 (maintWord 3 scope 0) fun s => s.maintWrite iss 3 (scope % 256) 0 none)

/-- CAL. -/
def execCal (iss : Issuer) (s : State) : Res :=
  .next (s.ctlIn iss R.MNT_REQ 8 (maintWord 4 0 0) fun s => s.maintWrite iss 4 0 0 none)

/-- PATCH: `img` is the image at ARG. -/
def execPatch (iss : Issuer) (scope arg : Nat) (img : FwImage) (s : State) : Res :=
  .next (s.ctlIn iss R.MNT_REQ 8 (maintWord 5 scope arg) (fun s => s.maintWrite iss 5 (scope % 256) (arg % 2 ^ 48) (some img)) (some img))

/-- SCRUB_PERIOD: SCRUB_HOURS after a stack's last request, the next is made. -/
def State.doScrubPeriod (s : State) (k : Nat) : State :=
  { s with maint := { s.maint with scrubbed := s.maint.scrubbed.set (fun _ => 0) k s.time } }.maintAsk
    ⟨1, k, 0, .boathouse, s.time, s.time, none⟩

def execScrubPeriod (k : Stk) (s : State) : Res :=
  let hours := s.f R.MNT_CTL F.MNT_CTL_SCRUB_HOURS
  State.when (s.f R.MNT_CTL F.MNT_CTL_SCRUB_EN == 1 && s.bhUp &&
      decide (s.maint.scrubbed.get (fun _ => 0) k + hours * 3600 * 25000000 ≤ s.time)) "no patrol scrub is due" (s.doScrubPeriod k)

/-- MAINT_START (R299): a queued request starts. -/
def State.doMaintStart (s : State) (i : Nat) (r : MaintReq) : State :=
  let m := s.maint
  let s := { s with maint := { m with running := m.running ++ [{ r with started := s.time }], queue := m.queue.eraseIdx i } }
  (s.setMaintLast 0).maintBegin r

def execMaintStart (i : Nat) (s : State) : Res :=
  match s.maint.queue[i]? with
  | none => .refused (.notEnabled "no such request is queued")
  | some r => State.when (s.bhUp && s.maintReady i && !(r.act == 6 && s.ten.drains.any fun l => l.t == r.scope && l.layer == 1))
      "the request still conflicts, or an image of the tenancy drains to its partner" (s.doMaintStart i r)

/-! ### Activities end -/

/-- A patrol scrub reads the stack: corrected words are reported and written back, others reported (R342). -/
def State.doScrub (s : State) (k : Nat) : State :=
  let s := (s.stk k).bad.foldl (fun (s : State) w => (s.eccRead k (w.1 * 32) 32).2) s
  let v := s.stk k
  s.setStk k { v with bad := v.bad.filter fun w => w.2 / 65536 == 3 }

/-- A soft repair takes a spare row. -/
def State.doRepair (s : State) (k : Nat) : State :=
  let a := R.HBM_SOFT_REPAIRS k
  ((s.setF a F.HBM_SOFT_REPAIRS_ROWS (s.f a F.HBM_SOFT_REPAIRS_ROWS + 1)).setF a F.HBM_SOFT_REPAIRS_SPARE
    (s.f a F.HBM_SOFT_REPAIRS_SPARE - 1)).palPut true a

/-- A re-equalisation that succeeds lifts the fences of a port's lane groups and of a link's sublinks (R297, log 27). -/
def State.doReeq (s : State) (n : Nat) : State :=
  let s := (List.range 4).foldl (fun (s : State) g => if s.unitFenced 10 (4 * n + g) then s.unfenceUnit 10 (4 * n + g) else s) s
  if n < 14 then
    (List.range 4).foldl (fun (s : State) j => if s.unitFenced 11 (4 * n + j) then s.unfenceUnit 11 (4 * n + j) else s) s
  else s

/-- A translator or scribe patch is applied (R300, R338). -/
def State.applyPatchFw (s : State) (r : MaintReq) (i : FwImage) : State :=
  if i.kind = 2 then ({ s with bh := { s.bh with fw := s.bh.fw.set 1 (some i) } }.showFw 2 i).selectFw 2
  else
    let s := { s with bh := { s.bh with scFw := s.bh.scFw.set r.scope (some i) } }
    let c := s.scribe r.scope
    let s := s.setScribe r.scope { c with patching := false, queued := none }
    let s : State := match c.queued with
      | some q => s.beginPass r.scope q.1 q.2
      | none => s
    if s.bh.scFw.all fun o => o == some i then (s.showFw 3 i).selectFw 3 else s

/-- The effect of an activity that succeeds. -/
def State.maintEffect (s : State) (r : MaintReq) : State :=
  match r.act with
  | 1 => s.doScrub r.scope
  | 2 => s.doRepair r.scope
  | 3 => s.doReeq r.scope
  | 4 => s.refit
  | 5 => match r.image with
    | some i => { s.applyPatchFw r i with mirrorDue := true }
    | none => s
  | _ => s

/-- MAINT_COMPLETE (R299). -/
def State.doMaintComplete (s : State) (i : Nat) (r : MaintReq) (ok : Bool) : State :=
  let s := s.maintEnd i ok
  if ok then s.maintEffect r
  else if r.act = 5 then s.setScribe r.scope { s.scribe r.scope with patching := false } else s

/-- Can a running activity end so? A snapshot ends with its drain, a boathouse patch with its commit or rollback; a repair
succeeds only with a spare row; a scribe's patch waits until it is not busy. -/
def State.maintMayEnd (s : State) (r : MaintReq) (ok : Bool) : Bool :=
  match r.act with
  | 2 => !ok || decide (0 < s.f (R.HBM_SOFT_REPAIRS r.scope) F.HBM_SOFT_REPAIRS_SPARE)
  | 5 => r.imageKind != 1 && (r.imageKind != 3 || s.f (R.SCB_STAT r.scope) F.SCB_STAT_BUSY == 0)
  | 6 => false
  | _ => true

def execMaintComplete (i : Nat) (ok : Bool) (s : State) : Res :=
  match s.maint.running[i]? with
  | none => .refused (.notEnabled "no such activity runs")
  | some r => State.when (s.bhUp && s.maintMayEnd r ok) "the activity cannot end so" (s.doMaintComplete i r ok)

/-- SNAP_DEFER_TIMEOUT (R299). -/
def State.doDeferTimeout (s : State) (i : Nat) (r : MaintReq) : State :=
  let s := { s with maint := { s.maint with queue := s.maint.queue.eraseIdx i } }
  ((s.setMaintLast 4).setLastStatus r.scope 7).bump R.SNP_CNT_FAILED 1

def execSnapDeferTimeout (i : Nat) (s : State) : Res :=
  match s.maint.queue[i]? with
  | none => .refused (.notEnabled "no such request is queued")
  | some r => State.when (r.act == 6 && decide (r.asked + ticksMs (s.f R.MNT_CTL F.MNT_CTL_SNAP_DEFER_MS) < s.time))
      "the snapshot's wait has not run out" (s.doDeferTimeout i r)

/-! ### A boathouse patch's trial (R300) -/

/-- The arbiter's boathouse patch ends. -/
def State.trialEnd (s : State) (ok : Bool) : State :=
  match s.maint.running.findIdx? fun r => r.act == 5 && r.imageKind == 1 with
  | some i => s.maintEnd i ok
  | none => s

/-- PATCH_COMMIT: the heartbeat has held for 60 s. -/
def State.doPatchCommit (s : State) : State :=
  let s := { s with bh := { s.bh with trial := none }, mirrorDue := true }
  (s.selectFw 1).trialEnd true

def execPatchCommit (s : State) : Res :=
  match s.bh.trial with
  | none => .refused (.notEnabled "no boathouse patch is on trial")
  | some t => State.when (s.bhUp && decide (t.until_ ≤ s.time)) "the trial's 60 s have not passed" s.doPatchCommit

/-- The former pair, which holds the old image, takes over again. -/
def State.rollback (s : State) (t : PatchTrial) : State :=
  let s := { s with bh := { s.bh with trial := none, fw := s.bh.fw.set 0 t.old } }
  let s := match t.old with | some i => s.showFw 1 i | none => s
  (s.setF R.MNT_EVENT F.MNT_EVENT_PATCH_ROLLBACK 1).trialEnd false

end Sys2Proof.Machine
end

