-- ==== Sys2Proof/Machine/Book.lean ====
section
/-! DEFINITION. The copybook: its layout, checks and sections, and how they are applied (R302, R303, R321 to R329). -/

namespace Sys2Proof.Machine

open Sys2Proof

/-! ### Layout (R321, R322) -/

/-- A section: its type and value. -/
structure BookSec where
  ty : Nat
  val : List Byte
deriving DecidableEq, Repr

/-- The sections that tile a byte string; none where they do not, or a zero field or padding is not zero. -/
def bookSecs : (fuel : Nat) → List Byte → Option (List BookSec)
  | _, [] => some []
  | 0, _ :: _ => none
  | k + 1, b =>
    let n := fieldAt b 4 4
    let p := ceilDiv n 8 * 8
    if b.length < 8 + p ∨ fieldAt b 2 2 ≠ 0 ∨ allZero b (8 + n) (p - n) = false then none
    else (bookSecs k (b.drop (8 + p))).map (⟨fieldAt b 0 2, slice b 8 n⟩ :: ·)

def bookLen (b : List Byte) : Nat := fieldAt b 8 4

/-- The sections of a copybook. -/
def bookSections (b : List Byte) : Option (List BookSec) := bookSecs 32768 (slice b 0x20 (bookLen b - 200 - 0x20))

/-- The value of a section of a type, if the copybook holds one. -/
def bookVal (b : List Byte) (ty : Nat) : Option (List Byte) :=
  ((bookSections b).getD []).findSome? fun q => if q.ty = ty then some q.val else none

def bookValue (b : List Byte) (ty : Nat) : List Byte := (bookVal b ty).getD []

/-- Entries of one size. -/
def rowsOf (n : Nat) (v : List Byte) : List (List Byte) := (List.range (v.length / n)).map fun i => slice v (n * i) n

/-- Entries whose first byte, KIND, gives their size; none where one has no size or is cut short. -/
def kindRows (size : Nat → Nat) : (fuel : Nat) → List Byte → Option (List (List Byte))
  | _, [] => some []
  | 0, _ :: _ => none
  | k + 1, v =>
    let n := size (fieldAt v 0 1)
    if n = 0 ∨ v.length < n then none else (kindRows size k (v.drop n)).map (v.take n :: ·)

def hostSize (k : Nat) : Nat := match k with | 1 => 152 | 2 => 48 | 3 => 24 | _ => 0
def ckptSize (k : Nat) : Nat := match k with | 1 => 56 | 2 => 24 | _ => 0

def hostRows (v : List Byte) : Option (List (List Byte)) := kindRows hostSize (v.length + 1) v
def ckptRows (v : List Byte) : Option (List (List Byte)) := kindRows ckptSize (v.length + 1) v

/-- The zero fields of a section's value, entry by entry. -/
def zerosAt (l : List (Nat × Nat)) (v : List Byte) : Bool := l.all fun q => allZero v q.1 q.2

def bookZeros (q : BookSec) : Bool :=
  match q.ty with
  | 0x0001 => zerosAt [(14, 2)] q.val
  | 0x0002 => (rowsOf 32 q.val).all (zerosAt [(5, 3), (16, 16)])
  | 0x0003 => ((hostRows q.val).getD []).all fun e => match fieldAt e 0 1 with
    | 1 => zerosAt [(2, 6), (149, 3)] e
    | 2 => zerosAt [(3, 1), (37, 11)] e
    | _ => zerosAt [(1, 1), (4, 4)] e
  | 0x0004 => zerosAt [(2, 6), (74, 6), (146, 6), (218, 6), (289, 7)] q.val &&
      (rowsOf 24 (q.val.drop 296)).all (zerosAt [(17, 7)])
  | 0x0005 => zerosAt [(6, 2)] q.val
  | 0x0007 => ((ckptRows q.val).getD []).all fun e => match fieldAt e 0 1 with
    | 1 => zerosAt [(3, 1), (6, 2), (20, 4)] e
    | _ => zerosAt [(1, 3)] e
  | 0x0008 => (rowsOf 16 q.val).all (zerosAt [(3, 1), (12, 4)])
  | 0x0009 => (rowsOf 16 q.val).all (zerosAt [(2, 2), (8, 8)])
  | 0x000A => (rowsOf 24 q.val).all (zerosAt [(1, 1), (4, 4)])
  | 0x000B => zerosAt [(133, 3)] q.val
  | _ => true

/-! ### Sections -/

/-- An entry of TENANCY. -/
structure TenEntry where
  ten : Nat
  dies : Nat
  share : Nat
  sig : Bool
  adopt : Bool
  gib : Nat
  base : Nat
  count : Nat
deriving DecidableEq, Repr

def tenEntry (e : List Byte) : TenEntry :=
  ⟨fieldAt e 0 1, fieldAt e 1 1, fieldAt e 2 1, bitOf (fieldAt e 3 1) 0, bitOf (fieldAt e 3 1) 1, fieldAt e 4 1,
    fieldAt e 8 4, fieldAt e 12 4⟩

def tenEntries (b : List Byte) : List TenEntry := (rowsOf 32 (bookValue b 2)).map tenEntry

def bookHosts (b : List Byte) : List (List Byte) := (hostRows (bookValue b 3)).getD []
def bookCkpt (b : List Byte) : List (List Byte) := (ckptRows (bookValue b 7)).getD []

/-- The tenancy an entry of HOSTS belongs to: TEN of a key or queue pair, OWNER of a window. -/
def hostTenOf (e : List Byte) : Nat :=
  if fieldAt e 0 1 = 3 then bitsOf (fieldAt e 8 8) 1 3 else fieldAt e 1 1

/-- What a copybook holds of tenancy t: its entries of TENANCY, COMPAT, HOSTS and CHECKPOINT. -/
def bookTen (b : List Byte) (t : Nat) : List (List Byte) :=
  ((rowsOf 32 (bookValue b 2)).filter fun e => fieldAt e 0 1 == t) ++
    ((rowsOf 16 (bookValue b 9)).filter fun e => fieldAt e 0 1 == t) ++ ((bookHosts b).filter fun e => hostTenOf e == t) ++
    ((bookCkpt b).filter fun e => fieldAt e 0 1 == 1 && fieldAt e 1 1 == t)

def bookOwner (b : List Byte) : Option Nat := (bookVal b 0xB).map fun v => beNat (v.take 133)

/-! ### Values (check 5 of R323) -/

/-- May a field take a value: is it in the field's range? -/
def fieldTakes (a : Nat) (fld : Nat × Nat) (v : Nat) : Bool :=
  match regRow a with
  | some (_, _, _, r, _) => r.fields.any fun f => f.lo == fld.1 && f.width == fld.2 && decide (f.least ≤ v) && decide (v ≤ f.most)
  | none => false

def nodeOk (v : List Byte) : Bool :=
  let d (i : Nat) : Nat := fieldAt v (4 + i) 1
  let n := d 0 * d 1 * d 2 * d 3
  v.length == 16 && ((List.range 4).all fun i => decide (1 ≤ d i) && decide (d i ≤ 64)) && decide (n ≤ 262144) &&
    decide (fieldAt v 0 4 < n) && decide (fieldAt v 8 4 < 2 ^ 18)

def tenEntryOk (e : TenEntry) : Bool :=
  decide (e.ten < 8) && e.dies != 0 && decide (1 ≤ e.gib) && decide (e.gib ≤ 4) && e.base % 1024 == 0 &&
    decide (e.base < 2 ^ 20) && e.count % 1024 == 0 && decide (e.count < 2 ^ 21)

def tenancyOk (v : List Byte) : Bool :=
  let es := (rowsOf 32 v).map tenEntry
  v.length % 32 == 0 && es.all tenEntryOk && allDistinct (es.map fun e => e.ten)

def hostOk (e : List Byte) : Bool :=
  match fieldAt e 0 1 with
  | 1 => decide (fieldAt e 1 1 < 8) && fieldAt e 8 8 != 0
  | 2 => decide (fieldAt e 1 1 < 8) && decide (fieldAt e 2 1 < 8) && decide (fieldAt e 4 4 < 2 ^ 24) &&
      decide (fieldAt e 8 4 < 2 ^ 24) && decide (fieldAt e 12 4 < 2 ^ 24) && decide (fieldAt e 16 4 < 2 ^ 24) &&
      decide (fieldAt e 36 1 < 64)
  | _ => decide (fieldAt e 2 2 < 1024) && (fieldAt e 2 2 != 0 || bitOf (fieldAt e 8 8) 9 == false)

/-- Queue pairs within R313: 256 per port, at most 64 of a tenancy per port; key identifiers unique. -/
def hostsOk (v : List Byte) : Bool :=
  match hostRows v with
  | none => false
  | some es =>
    let qps := es.filter fun e => fieldAt e 0 1 == 2
    let on (p : Nat) : List (List Byte) := qps.filter fun e => fieldAt e 2 1 % 4 == p
    es.all hostOk && allDistinct ((es.filter fun e => fieldAt e 0 1 == 1).map fun e => fieldAt e 8 8) &&
      (List.range 4).all fun p => decide ((on p).length ≤ 256) &&
        (List.range 8).all fun t => decide (((on p).filter fun e => fieldAt e 1 1 == t).length ≤ 64)

def ethernetOk (v : List Byte) : Bool :=
  v.length == 296 + 24 * fieldAt v 288 1 &&
    (List.range 4).all fun p => decide (fieldAt v (72 * p) 1 < 3) && decide (fieldAt v (72 * p + 1) 1 < 8)

def powerOk (v : List Byte) : Bool :=
  v.length == 16 && fieldTakes R.PWR_CAP F.PWR_CAP_CAP_W (fieldAt v 0 2) &&
    fieldTakes R.PWR_POLICY F.PWR_POLICY_RESERVE_MJ (fieldAt v 2 2) &&
    fieldTakes R.PWR_POLICY F.PWR_POLICY_SLOW_FACTOR (fieldAt v 4 1) &&
    (List.range 8).all fun d => fieldTakes (R.CLK_CTL d) F.CLK_CTL_OPP_LIMIT (fieldAt v (8 + d) 1)

/-- The gate and fence default from 25,000 to 1,500,000,000 ticks (R203), or 0; REL_WD within its register's range. -/
def watchdogsOk (v : List Byte) : Bool :=
  let w := fieldAt v 0 8
  v.length == 16 && (w == 0 || (decide (25000 ≤ w) && decide (w ≤ 1500000000))) &&
    fieldTakes (R.SCB_REL_WD 0) F.SCB_REL_WD_LIMIT (fieldAt v 8 8)

/-- Entries of CHECKPOINT; `tens` are the tenancies of TENANCY. -/
def ckptOk (tens : List Nat) (v : List Byte) : Bool :=
  match ckptRows v with
  | none => false
  | some es => es.all fun e => match fieldAt e 0 1 with
    | 1 => tens.contains (fieldAt e 1 1) && decide (fieldAt e 4 2 < 1024) &&
        (decide (fieldAt e 12 4 < 2 ^ 18) || fieldAt e 12 4 == 0xFFFFFFFF) && decide (fieldAt e 24 8 < 2 ^ 41)
    | _ => decide (fieldAt e 4 4 < 2 ^ 18) && fieldAt e 8 8 % 2 ^ 30 == 0 && fieldAt e 16 8 % 2 ^ 30 == 0 &&
        decide (fieldAt e 8 8 + fieldAt e 16 8 ≤ 2 ^ 41)

/-- The unit kinds of a detector (R342). -/
def detectorKinds (k : Nat) : List Nat :=
  if k < 4 then [6]
  else if k < 0x0C then [3]
  else if k < 0x0E then [4]
  else match k with
  | 0x10 => [10]
  | 0x11 => [9]
  | 0x12 => [9]
  | 0x13 => [9]
  | 0x14 => [14]
  | 0x15 => [11]
  | 0x18 => [14]
  | 0x19 => [9]
  | 0x1A => [14]
  | 0x1B => [14]
  | 0x1C => [9]
  | 0x1D => [15, 0]
  | 0x1E => [3]
  | 0x20 => [14]
  | 0x21 => [14]
  | 0x22 => [3]
  | 0x23 => [3]
  | 0x24 => [1, 8, 0]
  | 0x28 => [3]
  | 0x29 => [3]
  | 0x2A => [1]
  | 0x2B => [4]
  | 0x30 => [3]
  | 0x31 => [7]
  | 0x32 => [7]
  | 0x33 => [14]
  | 0x38 => [1, 0]
  | 0x39 => [1]
  | 0x3A => [1]
  | 0x3B => [1]
  | 0x3C => [1]
  | 0x3D => [1]
  | 0x40 => [12]
  | 0x41 => [12]
  | 0x42 => [13]
  | 0x43 => [13]
  | 0x4A => [0, 15]
  | 0x4B => [8]
  | 0x4C => [15, 0]
  | 0x50 => [15]
  | 0x51 => [15]
  | _ => [0]

/-- A THRESHOLDS entry (R344). -/
def thresholdOk (e : List Byte) : Bool :=
  let k := fieldAt e 0 2
  let act := fieldAt e 2 1
  let w := fieldAt e 8 4
  (detector k).isSome && decide (1 ≤ fieldAt e 4 4) && decide (1 ≤ w) && decide (w ≤ 2592000) && decide (act < 3) &&
    (act != 1 || (detectorKinds k).all fun n => [3, 4, 6, 7, 9, 10, 11].contains n) &&
    (act != 2 || (detectorKinds k).any fun n => [1, 2, 3, 4, 5, 6, 7, 14, 15].contains n)

/-! ### REGDEFAULT (R325) -/

/-- The sub-block a BLOCK names. -/
def defBlk (b : Nat) : Option Blk :=
  [none, some .eng, some .ae, some .cox, some .flg, some .cvu, some .str, some .clk, some .pwrd, some .scb, some .hbm,
    some .fab, some .col, some .mnt, some .snp, some .pwr, some .tel, some .inj].getD b none

/-- Bits of a register's (C) fields that no other section sets. -/
def defCopy (b : Blk) (off : Nat) : Nat :=
  match b, off with
  | .eng, 0 => 1
  | .eng, 0x400 => 1
  | .eng, 0x800 => 1
  | .ae, 0 => 0xFFFF0003
  | .cox, 0 => 0xFFFF0006
  | .flg, 0 => 1
  | .str, 0 => 0xFFFF0000
  | .clk, 0 => 0xFF0000
  | .pwrd, 0 => 0xFF
  | .scb, 0 => 0xFFFFFFFF00000002
  | .hbm, 0 => 0xFFFF
  | .fab, 0 => 2 ^ 40 - 1
  | .col, 0 => 0x3FF
  | .mnt, 0 => 0xFFFFFF03
  | .snp, 0 => 0xFFFFFFFF
  | .snp, 8 => 2 ^ 36 - 1
  | .tel, 0 => 0x17FFF
  | .tel, 0x10 => 2 ^ 64 - 1
  | .tel, 0x18 => 2 ^ 56 - 1
  | .inj, 0 => 1
  | _, _ => 0

/-- Bits of a register's tunable (P) fields (R331). -/
def defTune (b : Blk) (off : Nat) : Nat :=
  match b with
  | .clk => if off = 0 then 0xFF00 else 0
  | .pwrd => if 0x200 ≤ off ∧ off < 0x280 ∧ off % 8 = 0 then 2 ^ 32 - 1 else 0
  | .pwr => if 0x200 ≤ off ∧ off < 0x220 ∧ off % 8 = 0 then 2 ^ 32 - 1 else 0
  | .snp => if 0x108 ≤ off ∧ off < 0x300 ∧ (off % 0x40 = 0x08 ∨ off % 0x40 = 0x10) then 2 ^ 64 - 1 else 0
  | _ => 0

/-- Bits of a register's health (P) fields: they take the palimpsest's value or the one shown, whatever a copybook says
(R14). -/
def defHealth (b : Blk) (off : Nat) : Nat :=
  match b with
  | .hbm => if off = 0x18 then 2 ^ 64 - 1 else if off = 0x20 then 0x7F else if off = 0x28 then 2 ^ 32 - 1 else 0
  | .fab => if 0x1000 ≤ off ∧ off < 0x2000 ∧ off % 0x100 = 0 then 0x1E else 0
  | .mnt => if 0x100 ≤ off ∧ off < 0x120 ∧ off % 8 = 0 then 2 ^ 64 - 1
    else if off = 0x120 then 2 ^ 64 - 1 else if off = 0x128 then 2 ^ 50 - 1 else if off = 0x130 then 2 ^ 56 - 1 else 0
  | _ => 0

def defMay (b : Blk) (off : Nat) : Nat := defCopy b off ||| defTune b off ||| defHealth b off

/-- An entry covers whole fields, marked (C) or (P) and set by no other section, with values in their ranges. -/
def regDefaultOk (e : List Byte) : Bool :=
  let off := fieldAt e 2 2
  let m := fieldAt e 8 8
  let v := fieldAt e 16 8
  match defBlk (fieldAt e 0 1) with
  | none => false
  | some b => match rowAt b.rows off with
    | none => false
    | some (r, _) => (m &&& defMay b off) == m && r.fields.all fun f =>
        let c := bitsOf m f.lo f.width
        c == 0 || (c == 2 ^ f.width - 1 && decide (f.least ≤ bitsOf v f.lo f.width) && decide (bitsOf v f.lo f.width ≤ f.most))

/-- Control-space offsets of a sub-block's instances. -/
def blkBases (b : Blk) : List Nat :=
  match b with
  | .str => (List.range 8).map (b.base ·)
  | .clk => (List.range 8).map (b.base ·)
  | .pwrd => (List.range 8).map (b.base ·)
  | .scb => (List.range 32).map (b.base ·)
  | .hbm => (List.range 32).map (b.base ·)
  | b => if coreBlk b then (List.range 256).map (b.base ·) else [b.base 0]

/-- Disarm every injection point (R345). -/
def State.disarmAll (s : State) : State :=
  ((List.range 128).foldl (fun (s : State) k =>
    if s.f (R.INJ_P_CTL k) F.INJ_P_CTL_ARM = 0 then s else s.setF (R.INJ_P_CTL k) F.INJ_P_CTL_ARM 0) s).setF
      R.INJ_STAT F.INJ_STAT_ARMED 0

/-- Apply an entry. A tunable field in service keeps its value, and only what a later reset gives it changes (R329). -/
def State.regDefault (s : State) (inService : Bool) (e : List Byte) : State :=
  let code := fieldAt e 0 1
  let off := fieldAt e 2 2
  let v := fieldAt e 16 8
  match defBlk code with
  | none => s
  | some b =>
    let m := fieldAt e 8 8 &&& (defCopy b off ||| defTune b off)
    let offs := if code = 1 ∧ off < 0x400 then [off, off + 0x400, off + 0x800] else [off]
    let keep := if inService then defTune b off else 0
    let s := ((blkBases b).flatMap fun a => offs.map (a + ·)).foldl (fun (s : State) a =>
      let old := (s.rd a).toNat &&& keep
      (s.cbSet a m v).wrMask a (m &&& keep) old) s
    if code = 17 ∧ s.f R.INJ_CTL F.INJ_CTL_EN = 0 then s.disarmAll else s

/-- Every value of a section within its range. -/
def bookValuesOk (tens : List Nat) (q : BookSec) : Bool :=
  match q.ty with
  | 0x0001 => nodeOk q.val
  | 0x0002 => tenancyOk q.val
  | 0x0003 => hostsOk q.val
  | 0x0004 => ethernetOk q.val
  | 0x0005 => powerOk q.val
  | 0x0006 => watchdogsOk q.val
  | 0x0007 => ckptOk tens q.val
  | 0x0008 => q.val.length % 16 == 0 && (rowsOf 16 q.val).all thresholdOk
  | 0x0009 => q.val.length % 16 == 0 && (rowsOf 16 q.val).all fun e => tens.contains (fieldAt e 0 1)
  | 0x000A => q.val.length % 24 == 0 && (rowsOf 24 q.val).all regDefaultOk
  | 0x000B => q.val.length == 136
  | _ => true

/-! ### The checks (R323, R324) -/

abbrev bkOK := 0x00
abbrev bkFormat := 0x02
abbrev bkDigest := 0x03
abbrev bkSignature := 0x04
abbrev bkSection := 0x05
abbrev bkValue := 0x06
abbrev bkOwnerFull := 0x07

/-- Check 1. -/
def bookFormatOk (b : List Byte) : Bool :=
  let n := bookLen b
  asciiIs b 0 [0x41, 0x58, 0x43, 0x42] && fieldAt b 4 2 == 1 && allZero b 6 2 && allZero b 0x18 8 && decide (n ≤ 262144) &&
    decide (n ≤ b.length) && decide (0x20 + 200 ≤ n) && allZero b (n - 4) 4 && (match bookSections b with
      | none => false
      | some l => l.length == fieldAt b 0x0C 4 && l.all bookZeros)

/-- Check 4. -/
def bookTypesOk (l : List BookSec) : Bool :=
  let n (ty : Nat) : Nat := (l.filter fun q => q.ty == ty).length
  (l.all fun q => decide (0x8000 ≤ q.ty) || (decide (1 ≤ q.ty) && decide (q.ty ≤ 0x0B))) && n 1 == 1 && n 4 == 1 &&
    [2, 3, 5, 6, 7, 8, 9, 0xA, 0xB].all fun ty => decide (n ty ≤ 1)

/-- Check 5. -/
def bookContentOk (l : List BookSec) : Bool :=
  let tens := (l.filter fun q => q.ty == 2).flatMap fun q => (rowsOf 32 q.val).map fun e => fieldAt e 0 1
  l.all (bookValuesOk tens)

def bookDigestOk (b : List Byte) : Bool := BitVec.ofNat 512 (fieldAt b (bookLen b - 200) 64) == Config.sha512 (slice b 0 (bookLen b - 200))

/-- The signature holds under the owner key in force, or, with no slot programmed, under the key the copybook carries. -/
def bookSigned (owners : List Nat) (b : List Byte) : Bool :=
  let n := bookLen b
  match (match owners.getLast? with | some k => some k | none => bookOwner b) with
  | none => false
  | some k => Config.ecdsaVerify k (slice b 0 (n - 200)) (beNat (slice b (n - 136) 66)) (beNat (slice b (n - 70) 66))

/-- The status of a copybook; `sigFails` where its signature check is made to fail. -/
def bookStatus (owners : List Nat) (sigFails : Bool) (b : List Byte) : Nat :=
  if ¬ bookFormatOk b then bkFormat
  else if ¬ bookDigestOk b then bkDigest
  else if sigFails || !bookSigned owners b then bkSignature
  else if ¬ bookTypesOk ((bookSections b).getD []) then bkSection
  else if ¬ bookContentOk ((bookSections b).getD []) then bkValue
  else match bookOwner b with
    | some k => if owners.getLast? ≠ some k ∧ owners.length = 4 then bkOwnerFull else bkOK
    | none => bkOK

/-- A check of a copybook: the primary (0), the alternate (1) or the staged image (2), with the records of a failure. -/
def State.checkBook (s : State) (b : List Byte) (part : Nat) (inService : Bool) : Nat × State :=
  let j : Option Nat × State := if inService then s.inject 0x48 kPackage 0 else (none, s)
  let s := j.2
  let armed := s.f (R.INJ_P_CTL 0x4A) F.INJ_P_CTL_SYN == 6
  let reached := bookFormatOk b && bookDigestOk b && j.1.isNone
  let g : Option Nat × State := if armed && reached then s.inject 0x4A kPackage 0 else (none, s)
  let s := g.2
  let st := match j.1 with
    | some syn => syn % 256
    | none => bookStatus s.bh.owners g.1.isSome b
  if st = bkOK then (st, s)
  else
    let o6 := occ 0x4A kPackage 0 6 0
    let s := if st = bkSignature ∧ j.1.isNone = true then s.record (if g.1.isSome then s.injected o6 else o6) else s
    let o := occ 0x48 kPackage 0 st part
    (st, s.record (if j.1.isSome then s.injected o else o))

/-! ### Applying the sections -/

/-- NODE: the node ID, the torus, the root and the ports in use. -/
def State.applyNode (s : State) (v : List Byte) : State :=
  let n := fieldAt v 0 4 % 2 ^ 18
  let d (i : Nat) : Nat := fieldAt v (4 + i) 1
  let dims := d 0 % 64 + d 1 % 64 * 64 + d 2 % 64 * 4096 + d 3 % 64 * 262144
  let s := { s with node := n }
  let s := (List.range 256).foldl (fun (s : State) p => s.cbField (R.COX_SELF p) F.COX_SELF_NODE n) s
  let s := s.cbField R.FAB_TOPO F.FAB_TOPO_DIMS dims
  let x (i : Nat) : Nat := s.coord n i
  let s := s.cbField R.FAB_TOPO F.FAB_TOPO_COORD (x 0 + x 1 * 64 + x 2 * 4096 + x 3 * 262144)
  let s := s.cbField R.FAB_UPDOWN F.FAB_UPDOWN_ROOT (fieldAt v 8 4)
  (List.range 16).foldl (fun (s : State) p =>
    s.cbField (R.FAB_PORT_CTL p) F.FAB_PORT_CTL_EN (bitsOf (fieldAt v 12 2) p 1)) s

def ethSub (v : List Byte) (off : Nat) : EthSub :=
  ⟨beNat (slice v off 6), beNat (slice v (off + 6) 6), beNat (slice v (off + 12) 4), beNat (slice v (off + 16) 16)⟩

/-- ETHERNET: port modes and addresses, and the management hosts (an IPv4-mapped one adds 2¹²⁸). -/
def State.applyEthernet (s : State) (v : List Byte) : State :=
  let s := (List.range 4).foldl (fun (s : State) p =>
    let s := s.cbField (R.ETH_P_CTL p) F.ETH_P_CTL_MODE (fieldAt v (72 * p) 1)
    s.cbField (R.ETH_P_CTL p) F.ETH_P_CTL_PFC_PRIO (fieldAt v (72 * p + 1) 1)) s
  let subs := (List.range 8).foldl (fun (m : NMap EthSub) i => m.ins i (ethSub v (72 * (i / 2) + 8 + 32 * (i % 2)))) []
  let mgmt := (rowsOf 24 (v.drop 296)).map fun e => beNat (e.take 16) + fieldAt e 16 1 % 2 * 2 ^ 128
  { s with ten := { s.ten with subs := subs, mgmt := mgmt } }

/-- POWER. A reserve whose capacity falls holds no more than it. -/
def State.applyPower (s : State) (v : List Byte) : State :=
  let s := s.cbField R.PWR_CAP F.PWR_CAP_CAP_W (fieldAt v 0 2)
  let s := s.cbField R.PWR_POLICY F.PWR_POLICY_RESERVE_MJ (fieldAt v 2 2)
  let s := s.cbField R.PWR_POLICY F.PWR_POLICY_SLOW_FACTOR (fieldAt v 4 1)
  let s := s.cbField R.PWR_POLICY F.PWR_POLICY_CAL_EN (fieldAt v 5 1 % 2)
  let s := s.setF R.PWR_RESERVE F.PWR_RESERVE_LEVEL (min (s.f R.PWR_RESERVE F.PWR_RESERVE_LEVEL) (1000 * fieldAt v 2 2))
  (List.range 8).foldl (fun (s : State) d => s.cbField (R.CLK_CTL d) F.CLK_CTL_OPP_LIMIT (fieldAt v (8 + d) 1)) s

/-- WATCHDOGS. -/
def State.applyWatchdogs (s : State) (v : List Byte) : State :=
  let w := fieldAt v 0 8
  let s := { s with wdDefault := if w = 0 then 12500000 else w }
  (List.range 32).foldl (fun (s : State) k => s.cbField (R.SCB_REL_WD k) F.SCB_REL_WD_LIMIT (fieldAt v 8 8)) s

/-- THRESHOLDS: a code with no entry has the default of R342. -/
def State.applyThresholds (s : State) (v : List Byte) : State :=
  let m := (rowsOf 16 v).foldl (fun (m : NMap (Nat × Nat × Nat)) e =>
    m.ins (fieldAt e 0 2) (fieldAt e 4 4, fieldAt e 8 4, fieldAt e 2 1)) []
  { s with errs := { s.errs with thresholds := m } }

/-- OWNER_KEY: a key other than the one in force takes the next slot (R324). -/
def State.applyOwner (s : State) (b : List Byte) : State :=
  match bookOwner b with
  | none => s
  | some k =>
    if s.bh.owners.getLast? = some k then s
    else
      let l := s.bh.owners ++ [k]
      let s := { s with bh := { s.bh with owners := l } }
      (s.setF R.BH_OWNER F.BH_OWNER_SLOTS_USED l.length).setF R.BH_EVENT F.BH_EVENT_OWNER_CHANGED 1

/-- The sections that take effect at once (R329). -/
def State.applyCommon (s : State) (b : List Byte) (inService : Bool) : State :=
  let s := match bookVal b 5 with | some v => s.applyPower v | none => s
  let s := match bookVal b 6 with | some v => s.applyWatchdogs v | none => { s with wdDefault := 12500000 }
  let s := s.applyThresholds (bookValue b 8)
  let s := (rowsOf 24 (bookValue b 0xA)).foldl (fun (s : State) e => s.regDefault inService e) s
  s.applyOwner b

/-- What the device shows of the copybook it applied. -/
def State.showBook (s : State) (b : List Byte) : State :=
  let s := { s with bh := { s.bh with book := slice b 0 (bookLen b) } }
  let s := s.wr R.BH_CB_SERIAL (BitVec.ofNat 64 (fieldAt b 0x10 8))
  (List.range 8).foldl (fun (s : State) n => s.wr (R.BH_CB_DIGEST n) (BitVec.ofNat 64 (fieldAt b (bookLen b - 200 + 8 * n) 8))) s

/-! ### Tenancies (R302, R303) -/

/-- Do entries form a layout: no die twice, shares of at most 256 in all, context ranges apart and below 1,048,576? -/
def layoutOk (es : List TenEntry) : Bool :=
  let share (e : TenEntry) : Nat := if e.share = 0 then 256 else e.share
  let apart (a b : TenEntry) : Bool := (a.dies &&& b.dies) == 0 && (decide (a.base + a.count ≤ b.base) ||
    decide (b.base + b.count ≤ a.base) || a.count == 0 || b.count == 0)
  let rec pairs : List TenEntry → Bool
    | [] => true
    | a :: r => r.all (apart a) && pairs r
  pairs es && decide ((es.map share).sum ≤ 256) && es.all fun e => decide (e.base + e.count ≤ 1048576)

def maskDies (m : Nat) : List Nat := (List.range 8).filter (bitOf m)

/-- The clusters of a die that no tenancy holds are off (R36, R302). -/
def State.offDie (s : State) (d : Nat) : State :=
  let s := s.clearCores (32 * d) 32
  let s := (List.range 4).foldl (fun (s : State) c => s.resetRegs (clusterDomain (4 * d + c))) s
  s.setF (R.CLK_STAT d) F.CLK_STAT_CLSTATE 0xFF

/-- The clusters of a die wake from OFF, and are gated until a heat uses them. -/
def State.onDie (s : State) (d : Nat) : State :=
  if s.f (R.CLK_STAT d) F.CLK_STAT_CLSTATE = 0xFF then
    ((List.range 4).foldl (fun (s : State) c => s.resetCluster (4 * d + c)) s).setF (R.CLK_STAT d) F.CLK_STAT_CLSTATE 0x55
  else s

/-- What a tenancy's numbers give its dies: ENG_COMPAT, SKEW_ADOPT, FLG_CTL.TEN (R303). -/
def State.markDies (s : State) (t : Nat) (on : Bool) (dies compat adopt : Nat) : State :=
  (maskDies dies).foldl (fun (s : State) d =>
    let s := (List.range 32).foldl (fun (s : State) c =>
      let p := 32 * d + c
      let s := s.cbSet (R.ENG_COMPAT p) (fieldMask 0 1 ||| fieldMask 1 1 ||| fieldMask 32 32) compat
      let s := s.cbField (R.FLG_CTL p) F.FLG_CTL_TEN (if on then t else 0)
      s.cbField (R.FLG_CTL p) F.FLG_CTL_TEN_VALID (b2n on)) s
    let s := (List.range 4).foldl (fun (s : State) j => s.cbField (R.SCB_CTL (4 * d + j)) F.SCB_CTL_SKEW_ADOPT adopt) s
    s.seedEngines (32 * d) 32) s

/-- Admit a tenancy (R302, R303). Its mailbox reads zero, its stacks keep no redirection of a pseudo-channel that is no
longer fenced (R297). -/
def State.admitTen (s : State) (b : List Byte) (e : TenEntry) : State :=
  let t := e.ten
  let c := ((rowsOf 16 (bookValue b 9)).filter fun r => fieldAt r 0 1 == t).getLast?.getD []
  let fl := fieldAt c 1 1
  let seed := fieldAt c 4 4
  let cfg := fields [(e.dies, 0), (e.share, 8), (1, 16), (b2n e.sig, 17), (fl % 2, 18), (fl / 2 % 2, 19), (b2n e.adopt, 20),
    (e.gib - 1, 21), (seed, 32)]
  let s := s.cbSet (R.TEN_T_CFG t) (2 ^ 64 - 1) cfg.toNat
  let s := s.cbSet (R.TEN_T_CTX t) (2 ^ 64 - 1) (e.base + e.count * 2 ^ 20)
  let d := (maskDies e.dies).headD 0
  let off := (saveGranule d - e.gib) * 2 ^ 30
  let s := s.wr (R.TEN_T_MBOX t) (fields [(off, 0), (d, 38)])
  let s := (maskDies e.dies).foldl (fun (s : State) d => s.onDie d) s
  let s := s.markDies t true e.dies (fl % 4 + seed * 2 ^ 32) (b2n e.adopt)
  let s := ((maskDies e.dies).flatMap fun d => (List.range 4).map (4 * d + ·)).foldl (fun (s : State) k =>
    let a := R.HBM_PC_REDIR k
    if s.f a F.HBM_PC_REDIR_EN = 1 ∧ ¬ s.pcFenced k (s.f a F.HBM_PC_REDIR_PC) then
      (s.setF a F.HBM_PC_REDIR_EN 0).palPut true a else s) s
  let s := s.setF (R.SNP_T_STAT t) F.SNP_T_STAT_JOB_STATE jNone
  s.dieWrite d off (List.replicate 65536 0)

/-- Withdraw a tenancy: its numbers read zero and its dies' clusters are off. -/
def State.withdrawTen (s : State) (t : Nat) : State :=
  let dies := s.f (R.TEN_T_CFG t) F.TEN_T_CFG_DIES
  let s := s.markDies t false dies 0 0
  let s := (s.cbSet (R.TEN_T_CFG t) (2 ^ 64 - 1) 0).cbSet (R.TEN_T_CTX t) (2 ^ 64 - 1) 0
  let s := s.wr (R.TEN_T_MBOX t) 0
  (maskDies dies).foldl (fun (s : State) d => s.offDie d) s

/-- The lowest index of a port without a queue pair. -/
def freeQp (m : NMap QueuePair) (p : Nat) : Nat :=
  256 * p + (((List.range 256).find? fun i => (m.look (256 * p + i)).isNone).getD 255)

/-- A HOSTS entry is applied: a key, a queue pair at its port's next index, or a window. -/
def State.applyHost (s : State) (e : List Byte) : State :=
  match fieldAt e 0 1 with
  | 1 => { s with ten := { s.ten with keys := s.ten.keys ++ [⟨fieldAt e 1 1, fieldAt e 8 8, beNat (slice e 16 133)⟩] } }
  | 2 =>
    let p := fieldAt e 2 1 % 4
    let q : QueuePair := ⟨fieldAt e 1 1, fieldAt e 2 1 / 4 % 2, fieldAt e 4 4, fieldAt e 8 4, fieldAt e 12 4, fieldAt e 16 4,
      beNat (slice e 20 16), fieldAt e 36 1, if s.f (R.ETH_P_CTL p) F.ETH_P_CTL_MODE = 1 then 400000 else 800000⟩
    { s with ten := { s.ten with qps := s.ten.qps.ins (freeQp s.ten.qps p) q } }
  | _ =>
    let w : Word × Word := (BitVec.ofNat 64 (fieldAt e 8 8 % 2 ^ 35), BitVec.ofNat 64 (fieldAt e 16 8))
    { s with wins := s.wins.set (fun _ => (0, 0)) (fieldAt e 2 2) w }

/-- A tenancy's HOSTS and CHECKPOINT entries are forgotten. -/
def State.dropHosts (s : State) (t : Nat) : State :=
  { s with
    wins := s.wins.filter (fun w => winF w.2 F.TEN_WIN_ENT0_OWNER != t)
    ten := { s.ten with
      keys := s.ten.keys.filter (fun k => k.ten != t)
      qps := s.ten.qps.filter (fun q => q.2.ten != t)
      policies := s.ten.policies.del t } }

def State.applyPolicy (s : State) (e : List Byte) : State :=
  let p : Policy := ⟨bitOf (fieldAt e 2 1) 0, bitOf (fieldAt e 2 1) 1, fieldAt e 4 2, fieldAt e 8 4, fieldAt e 12 4, fieldAt e 16 4,
    fieldAt e 24 8, fieldAt e 32 8, fieldAt e 40 8, fieldAt e 48 8⟩
  { s with ten := { s.ten with policies := s.ten.policies.ins (fieldAt e 1 1) p } }

/-- ETH_Pp_STAT shows how many queue pairs a port has. -/
def State.showQps (s : State) : State :=
  (List.range 4).foldl (fun (s : State) p => s.setF (R.ETH_P_STAT p) F.ETH_P_STAT_QPS
    (s.ten.qps.filter fun q => q.1 / 256 == p).length) s

/-- The granules held for partner images (R322). -/
def bookHosted (b : List Byte) : List (Nat × Nat) :=
  ((bookCkpt b).filter fun e => fieldAt e 0 1 == 2).flatMap fun e =>
    (List.range (fieldAt e 16 8 / 2 ^ 30)).map fun i =>
      let g := fieldAt e 8 8 / 2 ^ 30 + i
      (g / 256, g % 256)

/-- Does a tenancy hold a job? -/
def State.tenBusy (s : State) (t : Nat) : Bool := s.hasJob t 0 || s.hasJob t 1

/-- A layout event, with its record (R302, R303). -/
def State.layoutBad (s : State) : State :=
  (s.setF R.TEN_EVENT F.TEN_EVENT_LAYOUT_BAD 1).record (occ 0x4C kPackage 0 1)

def State.layoutRej (s : State) (t : Nat) (inj : Bool) : State :=
  let s := s.setBit R.TEN_EVENT (8 + t) true
  let o := occ 0x4C kTen t 2
  s.record (if inj then s.injected o else o)

/-- The entries of HOSTS, CHECKPOINT and TENANCY of some tenancies are applied, the tenancies admitted. -/
def State.applyTens (s : State) (b : List Byte) (ts : List Nat) : State :=
  let s := ((tenEntries b).filter fun e => ts.contains e.ten).foldl (fun (s : State) e => s.admitTen b e) s
  let s := ((bookHosts b).filter fun e => ts.contains (hostTenOf e)).foldl (fun (s : State) e => s.applyHost e) s
  ((bookCkpt b).filter fun e => fieldAt e 0 1 == 1 && ts.contains (fieldAt e 1 1)).foldl (fun (s : State) e => s.applyPolicy e) s

/-- The tenancies of a start-up: all of a good layout, or none. Dies that none holds are off. -/
def State.admitAll (s : State) (b : List Byte) : State :=
  let s := if layoutOk (tenEntries b) then s.applyTens b (List.range 8) else s.layoutBad
  let s := { s with ten := { s.ten with hosted := bookHosted b } }
  let s := (List.range 8).foldl (fun (s : State) d => if (s.tenOfDie d).isNone then s.offDie d else s) s
  s.showQps

/-- The tenancies of a RELOAD (R303): those whose entries changed and that hold no job are withdrawn and admitted anew,
where the layout that results is good. An armed point makes one count as changed and busy. -/
def State.reloadTens (s : State) (old b : List Byte) : State :=
  let syn := s.f (R.INJ_P_CTL 0x4C) F.INJ_P_CTL_SYN % 8
  let i := s.inject 0x4C kTen syn
  let s := i.2
  let forced (t : Nat) : Bool := i.1.isSome && t == syn
  let changed := (List.range 8).filter fun t => bookTen old t != bookTen b t
  let held := (List.range 8).filter fun t => forced t || (changed.contains t && s.tenBusy t)
  let go := changed.filter fun t => !held.contains t
  let s := held.foldl (fun (s : State) t => s.layoutRej t (forced t)) s
  let stay := (tenEntries old).filter fun e => !go.contains e.ten && s.admitted e.ten
  let come := (tenEntries b).filter fun e => go.contains e.ten
  if ¬ (layoutOk (tenEntries b) ∧ layoutOk (stay ++ come)) then s.layoutBad
  else
    let s := go.foldl (fun (s : State) t => (if s.admitted t then s.withdrawTen t else s).dropHosts t) s
    let s := s.applyTens b go
    State.showQps { s with ten := { s.ten with hosted := bookHosted b } }

/-- Copybook values that sections other than POWER, WATCHDOGS and REGDEFAULT set stay what a reset gives. -/
def keptDefault (e : Nat × (Nat × Nat)) : Option (Nat × (Nat × Nat)) :=
  let m := match ctlDecode e.1 with
    | some (.cox, _, off) => if off = 0x18 then 2 ^ 64 - 1 else 0
    | some (.fab, _, off) => if off = 8 ∨ off = 0x10 then 2 ^ 64 - 1 else if 0x1000 ≤ off then 1 else 0
    | some (.eth, _, _) => 2 ^ 64 - 1
    | some (.ten, _, _) => 2 ^ 64 - 1
    | some (.eng, _, off) => if off = 0xC08 then 2 ^ 64 - 1 else 0
    | some (.flg, _, _) => fieldMask 8 4
    | some (.scb, _, off) => if off = 0 then 1 else 0
    | _ => 0
  if e.2.1 &&& m = 0 then none else some (e.1, (e.2.1 &&& m, e.2.2 &&& m))

/-- A valid copybook is applied in service (R329): NODE and ETHERNET wait for the next start-up. -/
def State.reloadBook (s : State) (b : List Byte) : State :=
  let old := s.bh.book
  let later := bookVal old 1 != bookVal b 1 || bookVal old 4 != bookVal b 4
  let s := s.reloadTens old b
  let s := { s with defaults := s.defaults.filterMap keptDefault }
  let s := (s.applyCommon b true).showBook b
  if later then s.setF R.BH_STAT F.BH_STAT_RESTART_PENDING 1 else s

end Sys2Proof.Machine
end

