-- ==== Sys2Proof/Machine/Boot.lean ====
section
/-! DEFINITION. The palimpsest and its mirrors, start-up, supply and clocks, takeover, and the commands of BH_
(R23, R24, R301, R316 to R334, R347 to R357). -/

namespace Sys2Proof.Machine

open Sys2Proof

/-! ### The palimpsest and its mirrors (R330 to R334) -/

/-- The package's serial (R335). -/
def packageSerial : Nat := identityNat 0x10 16

/-- A copy of the palimpsest is valid (R332). -/
def palOk (p : Palimpsest) : Bool := p.crcOk && p.serial == packageSerial

/-- The copies there are, by the place codes of R366: 2 and 3 in SRAM, 0 and 1 the mirror slots. -/
def State.palCopies (s : State) : List (Nat × Palimpsest) :=
  let one (k : Nat) (o : Option Palimpsest) : List (Nat × Palimpsest) := match o with | some p => [(k, p)] | none => []
  one 2 ((s.pals[0]?).bind id) ++ one 3 ((s.pals[1]?).bind id) ++ one 0 s.bh.nor.mirror0 ++ one 1 s.bh.nor.mirror1

/-- The copy with the highest SEQ, the first of several. -/
def newestPal (l : List (Nat × Palimpsest)) : Option (Nat × Palimpsest) :=
  l.foldl (fun m q => match m with
    | none => some q
    | some n => if n.2.seq < q.2.seq then some q else m) none

/-- An indication of the palimpsest, with its record. -/
def State.palEvent (s : State) (fld : Nat × Nat) (code slot : Nat) : State :=
  (s.setF R.BH_EVENT fld 1).record (occ 0x49 kPackage 0 code slot)

/-- PAL_SRC of a place. -/
def palSrc (k : Nat) : Nat := if 2 ≤ k then 1 else k + 2

/-- Step 5 of R318: the palimpsest is selected, its values are in force under R333, and it is written anew with the next
SEQ and the applied copybook's digest (R23). -/
def State.choosePal (s : State) : State :=
  let s := s.palCopies.foldl (fun (s : State) q =>
    if ¬ q.2.crcOk then s.palEvent F.BH_EVENT_PAL_CRC 1 q.1
    else if q.2.serial ≠ packageSerial then s.palEvent F.BH_EVENT_PAL_FOREIGN 2 q.1
    else s) s
  let mirrors := s.palCopies.filter fun q => decide (q.1 < 2) && palOk q.2
  let s := match newestPal mirrors with
    | some q => (s.wr R.BH_PAL_MSEQ (BitVec.ofNat 64 q.2.seq)).setF R.BH_PAL_MSTAT F.BH_PAL_MSTAT_SLOT q.1
    | none => s
  let dg := bookDigest s.bh.book
  let r : Palimpsest × State := match newestPal (s.palCopies.filter fun q => palOk q.2) with
    | some q =>
      let same : Bool := q.2.cbDigest == dg && !s.bh.book.isEmpty
      let s := s.setF R.BH_STAT F.BH_STAT_PAL_SRC (palSrc q.1)
      let s := s.setF R.BH_STAT F.BH_STAT_PAL_MATCH (b2n same)
      let s := if same then s else s.palEvent F.BH_EVENT_PAL_MISMATCH 3 q.1
      ({ q.2 with seq := q.2.seq + 1, cbDigest := dg, tunable := if same then q.2.tunable else [] }, s)
    | none =>
      let s := (s.setF R.BH_STAT F.BH_STAT_PAL_SRC 0).setF R.BH_STAT F.BH_STAT_PAL_MATCH 0
      (⟨1, packageSerial, dg, [], [], true⟩, s)
  let s := r.2.wr R.BH_PAL_SEQ (BitVec.ofNat 64 r.1.seq)
  let s := { s with pals := [some r.1, some r.1] }
  s.reapply fun _ _ => true

def Nor.setMirror (n : Nor) (slot : Nat) (p : Palimpsest) : Nor :=
  if slot = 0 then { n with mirror0 := some p } else { n with mirror1 := some p }

/-- A mirror begins: it takes the palimpsest as it stands, and the slot that does not hold the newest complete mirror,
which fails its CRC until the write is complete (R334). -/
def State.startMirror (s : State) : State :=
  match s.pal with
  | none => s
  | some p =>
    let slot := if (s.rd R.BH_PAL_MSEQ) = 0 then 0 else 1 - s.f R.BH_PAL_MSTAT F.BH_PAL_MSTAT_SLOT
    let s := s.setNor (Nor.setMirror s.bh.nor slot { p with crcOk := false })
    let s := { s with mirrorDue := false, bh := { s.bh with mirror := some (slot, p), mirrorTick := s.time } }
    s.setF R.BH_PAL_MSTAT F.BH_PAL_MSTAT_BUSY 1

/-- A mirror falls due: it begins, or waits for the one that runs. -/
def State.askMirror (s : State) : State := if s.bh.mirror.isSome then { s with mirrorDue := true } else s.startMirror

/-- The boathouse serves, and the always-on domain has power. -/
def State.bhOn (s : State) : Bool := s.power.ao && s.bhUp && !s.bh.rom

/-- MIRROR_PERIODIC. -/
def execMirrorPeriodic (s : State) : Res :=
  State.when (s.bhOn && s.pal.isSome && (decide (s.bh.mirrorTick + 1500000000 ≤ s.time) || (s.mirrorDue && s.bh.mirror.isNone)))
    "no mirror is due" s.askMirror

/-- MIRROR_COMPLETE. -/
def State.doMirrored (s : State) (slot : Nat) (p : Palimpsest) (ok : Bool) : State :=
  let i := s.inject 0x49 kPackage 0
  let s := i.2
  let s := { s with bh := { s.bh with mirror := none } }.setF R.BH_PAL_MSTAT F.BH_PAL_MSTAT_BUSY 0
  let s :=
    if ok && i.1.isNone then
      let s := s.setNor (Nor.setMirror s.bh.nor slot p)
      (s.wr R.BH_PAL_MSEQ (BitVec.ofNat 64 p.seq)).setF R.BH_PAL_MSTAT F.BH_PAL_MSTAT_SLOT slot
    else
      let o := occ 0x49 kPackage 0 4 slot
      (s.setF R.BH_EVENT F.BH_EVENT_MIRROR_FAIL 1).record (if i.1.isSome then s.injected o else o)
  if s.mirrorDue then s.startMirror else s

def execMirrorComplete (ok : Bool) (s : State) : Res :=
  match s.bh.mirror with
  | none => .refused (.notEnabled "no mirror is being written")
  | some m => State.when s.bhOn "the boathouse does not serve" (s.doMirrored m.1 m.2 ok)

/-! ### Commands of BH_CMD (R317, R328, R329) -/

/-- A command's outcome. -/
def State.bhDone (s : State) (op status : Nat) : State :=
  ((s.setF R.BH_CMD_STAT F.BH_CMD_STAT_OP op).setF R.BH_CMD_STAT F.BH_CMD_STAT_BUSY 0).setF R.BH_CMD_STAT F.BH_CMD_STAT_STATUS status

/-- RELOAD: the primary is checked and, if valid, applied; its digest is a change of the palimpsest, and a mirror starts. -/
def State.doReload (s : State) : State :=
  let b := s.bh.nor.primary
  let c := s.checkBook b 0 true
  let s := (c.2.setF R.BH_CB_CHECK F.BH_CB_CHECK_PRIMARY c.1).setF R.BH_CB_CHECK F.BH_CB_CHECK_ALTERNATE 0xFF
  if c.1 ≠ bkOK then s.bhDone 1 c.1
  else
    let s := s.reloadBook b
    let s := if s.pals.any (·.isSome) then s.bump R.BH_PAL_SEQ 1 else s
    let dg := bookDigest s.bh.book
    let up (pl : Palimpsest) : Palimpsest := { pl with seq := pl.seq + 1, cbDigest := dg }
    let s : State := { s with pals := s.pals.map (Option.map up) }
    s.askMirror.bhDone 1 bkOK

/-- The first `len` bytes of BH_STAGE. -/
def State.staged (s : State) (len : Nat) : List Byte :=
  ((List.range (ceilDiv (min len 262144) 8)).flatMap fun i => leBytes 8 (s.rd (R.BH_STAGE i)).toNat).take len

/-- COPYBOOK_WRITE: a valid staged copybook becomes the primary; a valid primary that differs becomes the alternate. -/
def State.doBookWrite (s : State) (len : Nat) : State :=
  let b := s.staged len
  let c := s.checkBook b 2 true
  let s := c.2
  if c.1 ≠ bkOK then s.bhDone 2 c.1
  else
    let n := s.bh.nor
    let keep := bookStatus s.bh.owners false n.primary == bkOK && n.primary != n.alternate
    let s := s.setNor { n with primary := b, alternate := if keep then n.primary else n.alternate }
    s.bhDone 2 bkOK

/-- COMMIT_SVN: MIN_SVN of a kind rises to the SVN in force. -/
def State.doCommitSvn (s : State) (kind : Nat) : State :=
  if 1 ≤ kind ∧ kind ≤ 3 then
    let a := R.BH_FW (kind - 1)
    (s.setF a F.BH_FW_MIN_SVN (max (s.f a F.BH_FW_MIN_SVN) (s.f a F.BH_FW_SVN))).bhDone 4 bkOK
  else s.bhDone 4 bkOK

/-- A write of BH_CMD: other values of OP have no effect. -/
def State.bhCommand (s : State) (v : Word) : State :=
  match bitsOf v.toNat 0 4 with
  | 1 => s.doReload
  | 2 => s.doBookWrite (bitsOf v.toNat 32 32)
  | 3 => s.askMirror.bhDone 3 bkOK
  | 4 => s.doCommitSvn (bitsOf v.toNat 4 2)
  | _ => s

def bhWord (op kind len : Nat) : Word := fields [(op, 0), (kind % 4, 4), (len % 2 ^ 32, 32)]

/-- RELOAD. -/
def execReload (iss : Issuer) (s : State) : Res := .next (s.ctlIn iss R.BH_CMD 8 (bhWord 1 0 0) State.doReload)

/-- COPYBOOK_WRITE. -/
def execCopybookWrite (iss : Issuer) (len : Nat) (s : State) : Res :=
  .next (s.ctlIn iss R.BH_CMD 8 (bhWord 2 0 len) fun s => s.doBookWrite (len % 2 ^ 32))

/-- MIRROR. -/
def execMirror (iss : Issuer) (s : State) : Res :=
  .next (s.ctlIn iss R.BH_CMD 8 (bhWord 3 0 0) fun s => s.askMirror.bhDone 3 bkOK)

/-- COMMIT_SVN. -/
def execCommitSvn (iss : Issuer) (kind : Nat) (s : State) : Res :=
  .next (s.ctlIn iss R.BH_CMD 8 (bhWord 4 kind 0) fun s => s.doCommitSvn (kind % 4))

/-! ### Start-up (R318 to R320, R326, R327) -/

/-- The image of a kind that comes into force: of the active slot, or, where that fails, of the other. -/
def State.bootImage (s : State) (kind : Nat) : Option FwImage × State :=
  let n := s.bh.nor
  let b := bitOf (selected n.selector).slotB.toNat (kind - 1)
  let s := s.setF R.BH_FW_SLOT (slotFld kind) (b2n b)
  let try_ (s : State) (slot : Bool) : Option FwImage × State :=
    match norSlot n slot kind with
    | none => (none, s)
    | some i => let c := s.fwCheck kind i; (if c.1 then some i else none, c.2)
  let a := try_ s b
  match a.1 with
  | some i => (some i, a.2)
  | none =>
    let o := try_ a.2 (!b)
    match o.1 with
    | some i => (some i, o.2.setF R.BH_EVENT F.BH_EVENT_FW_FALLBACK 1)
    | none => (none, o.2)

/-- Step 4: the copybook in use, and none where neither partition is valid. -/
def State.bootBook (s : State) : List Byte × State :=
  let p := s.checkBook s.bh.nor.primary 0 false
  let s := (p.2.setF R.BH_CB_CHECK F.BH_CB_CHECK_PRIMARY p.1).setF R.BH_CB_CHECK F.BH_CB_CHECK_ALTERNATE 0xFF
  if p.1 = bkOK then (s.bh.nor.primary, s.setF R.BH_STAT F.BH_STAT_CB_SRC 1)
  else
    let a := s.checkBook s.bh.nor.alternate 1 false
    let s := a.2.setF R.BH_CB_CHECK F.BH_CB_CHECK_ALTERNATE a.1
    if a.1 = bkOK then
      (s.bh.nor.alternate, (s.setF R.BH_STAT F.BH_STAT_CB_SRC 2).setF R.BH_EVENT F.BH_EVENT_CB_PRIMARY_BAD 1)
    else ([], (s.setF R.BH_STAT F.BH_STAT_CB_SRC 0).setF R.BH_EVENT F.BH_EVENT_CB_NONE 1)

/-- The SerDes clock of a fabric port, and of an Ethernet port (R354). -/
def portClk (p : Nat) : Nat := if p < 8 then 0 else 2
def ethClk (p : Nat) : Nat := if p < 2 then 1 else 3

/-- The sub-ports a port's MODE has (R313). -/
def State.subPorts (s : State) (p : Nat) : List Nat :=
  match s.f (R.ETH_P_CTL p) F.ETH_P_CTL_MODE with
  | 0 => [0]
  | 1 => [0, 1]
  | _ => []

def State.ethUp (s : State) (p sub : Nat) : Bool := bitOf (s.f (R.ETH_P_STAT p) F.ETH_P_STAT_LINK) sub

/-- The fabric port trains (R212, R211): it is in service, it goes on training, or it stays as it is. -/
def State.trainPort (s : State) (on : Bool) (trained : Bool) (peer : Option Nat) (p : Nat) : State :=
  let a := R.FAB_PORT_STAT p
  let s := s.setF a F.FAB_PORT_STAT_DATELINE (b2n (s.dateline p))
  if s.portFenced p || s.f (R.FAB_PORT_CTL p) F.FAB_PORT_CTL_LG_FENCE == 15 then s.setF a F.FAB_PORT_STAT_STATE 3
  else if !on || s.f (R.FAB_PORT_CTL p) F.FAB_PORT_CTL_EN == 0 || !bitOf s.pins.srefclk.toNat (portClk p) then
    s.setF a F.FAB_PORT_STAT_STATE 0
  else
    let s := s.setF a F.FAB_PORT_STAT_LG_ACTIVE (15 - s.f (R.FAB_PORT_CTL p) F.FAB_PORT_CTL_LG_FENCE)
    let s := s.setF a F.FAB_PORT_STAT_STATE (if trained then 2 else 1)
    match peer with
    | some n => if trained then (s.setF a F.FAB_PORT_STAT_PEER n).setF a F.FAB_PORT_STAT_PEER_VALID 1 else s
    | none => s

/-- Does an operation on a fence map unit concern one not yet fenced? -/
def State.failUnit (s : State) (kind i : Nat) (failed : Bool) : State :=
  if failed && !s.unitFenced kind i then s.fenceUnit kind i else s

/-- Step 6, the units: domains have power, stacks, links and ports train, and what fails is fenced; units of the fence map
are not trained (R318). -/
def State.trainUnits (s : State) (t : Training) (on : Bool) : State :=
  let s := { s with power := ⟨true, 3, 255, BitVec.allOnes 32⟩ }
  let s := (List.range 8).foldl (fun (s : State) d => (s.setF (R.CLK_STAT d) F.CLK_STAT_LOCKED 1).seedEngines (32 * d) 32) s
  let s := (List.range 32).foldl (fun (s : State) k =>
    let s := s.failUnit kStack k (bitOf t.stackFail.toNat k)
    let s := s.setF (R.HBM_STAT k) F.HBM_STAT_PC_FENCED (s.pcFencedCount k)
    if s.stackFenced k then s else s.setF (R.HBM_STAT k) F.HBM_STAT_TRAINED 1) s
  let s := (List.range 56).foldl (fun (s : State) i => s.failUnit kSublink i (bitOf t.sublinkFail.toNat i)) s
  let s := (List.range 64).foldl (fun (s : State) i =>
    s.failUnit kLane i (on && s.f (R.FAB_PORT_CTL (i / 4)) F.FAB_PORT_CTL_EN == 1 && bitOf t.groupFail.toNat i)) s
  let peer (p : Nat) : Option Nat := (t.peers.find? fun q => q.1 == p).map (·.2)
  let s := (List.range 16).foldl (fun (s : State) p => s.trainPort on (bitOf t.ports.toNat p) (peer p) p) s
  let s := (s.setF R.FAB_UPDOWN F.FAB_UPDOWN_RANK t.rank).setF R.FAB_UPDOWN F.FAB_UPDOWN_UP_PORTS t.upPorts.toNat
  { s with pins := { s.pins with pcie := t.pcie && bitOf s.pins.srefclk.toNat 1 } }

/-- The Ethernet ports train (step 7). -/
def State.trainEth (s : State) (eth : Nat) (on : Bool) : State :=
  (List.range 4).foldl (fun (s : State) p =>
    let up := (s.subPorts p).filter fun j => on && bitOf eth (2 * p + j) && bitOf s.pins.srefclk.toNat (ethClk p)
    s.setF (R.ETH_P_STAT p) F.ETH_P_STAT_LINK (up.map fun j => 2 ^ j).sum) s

/-- What a frame sent on a sub-port counts and shows: 1 an announcement, 2 an ARP answer, 3 a neighbour advertisement, 4 a
CNP, 6 and 7 image data. -/
def State.sendEth (s : State) (p sub what : Nat) (body : List Byte) : State :=
  (s.bump (R.ETH_CNT_FRAMES_TX p) 1).emit (.eth p sub what body)

/-- The announcement (R319). -/
def State.announcement (s : State) : List Byte :=
  leBytes 4 0x44525841 ++ leBytes 2 1 ++ leBytes 1 (if s.bh.book.isEmpty then 1 else 0) ++ leBytes 1 0 ++ leBytes 4 s.node ++
    leBytes 4 (s.f R.BH_BOOT F.BH_BOOT_READY_MS) ++ identityBytes' 0x10 16 ++ leBytes 8 (s.rd R.BH_CB_SERIAL).toNat ++
    List.replicate 24 0
where
  /-- Bytes of the identity store from an offset. -/
  identityBytes' (off n : Nat) : List Byte := (List.range n).map fun i => Config.identityByte (off + i)

/-- It goes to every management host from every sub-port that is up: the host's address stands before it. -/
def State.announce (s : State) : State :=
  let ups := (List.range 4).flatMap fun p => ((s.subPorts p).filter (s.ethUp p)).map fun j => (p, j)
  let body := s.announcement
  (ups.flatMap fun u => s.ten.mgmt.map fun m => (u, m)).foldl (fun (s : State) q =>
    s.sendEth q.1.1 q.1.2 1 (leBytes 17 q.2 ++ body)) s

/-- Step 7: readiness, at `ms` after the start (R319, R326, R327). -/
def State.becomeReady (s : State) (t : Training) : State :=
  let on := !s.bh.book.isEmpty
  let s := s.trainEth t.eth.toNat on
  let s := (s.setF R.BH_BOOT F.BH_BOOT_READY_MS t.readyMs).setF R.BH_BOOT F.BH_BOOT_TRAIN_MS t.trainMs
  let s := { s with time := s.time + ticksMs t.readyMs }
  let due := s.time + s.f R.TEL_CAP_CFG F.TEL_CAP_CFG_PERIOD
  let s := { s with bh := { s.bh with ready := some s.time, sent := 0, mirrorTick := s.time, capDue := due }, pins := { s.pins with pwrgood := true } }
  let s := (s.setF R.BH_STAT F.BH_STAT_READY 1).setF R.BH_STAT F.BH_STAT_PHASE (if on then 6 else 7)
  if on then (s.setF R.BH_LOCK F.BH_LOCK_LOCK 1).announce else s

/-- Are the times of a start-up within R318's: `pre` ms of the steps before training, with or without a valid palimpsest? -/
def State.timesOk (s : State) (t : Training) (pre : Nat) : Bool :=
  let warm := s.palCopies.any fun q => palOk q.2
  let train := if warm then 1900 else 10900
  decide (t.trainMs ≤ train) && decide (t.readyMs ≤ pre + train + 300) && decide (t.trainMs ≤ t.readyMs)

/-- Steps 2 to 7 of a device that starts afresh. Without a boathouse image the ROM waits for one (R320). -/
def State.startFrom2 (s : State) (t : Training) : State :=
  let f := s.bootImage 1
  let s := f.2
  match f.1 with
  | none => { s with bh := { s.bh with rom := true } }
  | some i =>
    let s := { s with bh := { s.bh with rom := false, fw := [some i, none] } }.showFw 1 i
    let s := if t.lockstepFail then
        (s.setF R.BH_STAT F.BH_STAT_ACTIVE_LD 1).record (occ 0x4B kLinkDie 0 0 0)
      else s.setF R.BH_STAT F.BH_STAT_STANDBY_OK 1
    let s := if identityValid then s else s.record (occ 0x4A kPackage 0 7 0)
    let b := s.bootBook
    let s := b.2
    let on := !b.1.isEmpty
    let s := if on then ((s.applyNode (bookValue b.1 1)).applyEthernet (bookValue b.1 4)).showBook b.1 else s
    let s := if on then s.applyCommon b.1 false else s
    let s := s.setF R.PWR_RESERVE F.PWR_RESERVE_LEVEL (1000 * s.f R.PWR_POLICY F.PWR_POLICY_RESERVE_MJ)
    let s := s.choosePal.trainUnits t on
    let tr := s.bootImage 2
    let s := match tr.1 with
      | some i => { tr.2 with bh := { tr.2.bh with fw := tr.2.bh.fw.set 1 (some i) } }.showFw 2 i
      | none => tr.2
    let sc := s.bootImage 3
    let s := match sc.1 with
      | some i => { sc.2 with bh := { sc.2.bh with scFw := List.replicate 32 (some i) } }.showFw 3 i
      | none => sc.2
    let s := if on then s.admitAll b.1 else (List.range 8).foldl (fun (s : State) d => s.offDie d) s
    s.becomeReady t

/-- Step 1 and on, with the flash as the board holds it now. -/
def State.startUp (s : State) (t : Training) : State :=
  let s := { s with power := ⟨true, 0, 0, 0⟩, pins := { s.pins with vin := true, under := false } }
  let s := match t.flash with | some n => s.setNor n | none => s
  s.startFrom2 t

/-- With that flash, are the start-up's times those of R318? -/
def State.mayStart (s : State) (t : Training) : Bool :=
  State.timesOk (match t.flash with | some n => s.setNor n | none => s) t 280

/-- VIN36_IN_RANGE. While RESET_N is low the start waits for its release (R353). -/
def execVin36InRange (t : Training) (s : State) : Res :=
  if s.pins.resetN then
    State.when (!s.pins.vin) "VIN36 is already applied" { s with pins := { s.pins with vin := true }, power := ⟨true, 0, 0, 0⟩ }
  else State.when (!s.pins.vin && s.pins.refclk && s.mayStart t) "VIN36 is already applied, or the start-up cannot be so"
    ((s.resetAll false).startUp t)

/-- ANNOUNCEMENT_RESEND: 1 s and 3 s after readiness. -/
def execAnnouncementResend (s : State) : Res :=
  match s.bh.ready with
  | none => .refused (.notEnabled "the device is not ready")
  | some r =>
    let wait := if s.bh.sent = 0 then 1 else 3
    State.when (decide (s.bh.sent < 2) && s.bhOn && !s.bh.book.isEmpty && decide (r + wait * 25000000 ≤ s.time))
      "no announcement is due" ({ s with bh := { s.bh with sent := s.bh.sent + 1 } }.announce)

/-- ROM_RECOVERY_IMAGE: a verified image goes to slot A, and the start goes on from step 2. -/
def State.doRecovery (s : State) (img : FwImage) (t : Training) : State :=
  let c := s.fwCheck 1 img
  if c.1 then (c.2.setNor (norPut c.2.bh.nor false 1 img)).startFrom2 t else c.2

def execRomRecoveryImage (img : FwImage) (t : Training) (s : State) : Res :=
  State.when (s.power.ao && s.bh.rom && !s.pins.resetN && s.timesOk t 280) "the ROM does not wait for an image" (s.doRecovery img t)

/-! ### Supply (R351, R352) -/

/-- VIN_RANGE: a sample of `mv`. An injected reading is recorded and takes no protective response (R345). -/
def State.doVinRange (s : State) (mv : Nat) : State :=
  let i := s.inject 0x3F kPackage 0
  let s := i.2
  let v := i.1.getD mv
  if 34200 ≤ v ∧ v ≤ 37800 then s
  else
    let o := occ 0x3F kPackage 0 v 0
    let s := (s.setF R.PWR_EVENT F.PWR_EVENT_VIN_RANGE 1).record (if i.1.isSome then s.injected o else o)
    if i.1.isSome then s else { s with pins := { s.pins with range := true } }.setF R.PWR_STAT F.PWR_STAT_VIN_MV v

def execVinRange (mv : Nat) (s : State) : Res :=
  if 40000 < mv then .fault .beyondRatings
  else State.when (s.power.ao && !s.pins.under && ((decide (33000 ≤ mv) && decide (mv < 34200)) ||
      (decide (37800 < mv) && decide (mv ≤ 39000)) || (s.inject 0x3F kPackage 0).1.isSome))
    "the sample lies within the range, or beyond a comparator" (s.doVinRange mv)

/-- VIN_RANGE_RELEASE. -/
def execVinRangeRelease (s : State) : Res :=
  State.when s.pins.range "the dies are not held at operating point 5" { s with pins := { s.pins with range := false } }

/-- Every job that runs is HELD with CAUSE 7, its snapshot abandoned, its local image gone (R352). -/
def State.holdJobs (s : State) : State :=
  (List.range 8).foldl (fun (s : State) t =>
    match s.job t 0 with
    | some j =>
      if j.phase = phRunning then
        let s := s.abandonSnap t
        let s := (s.setF (R.SNP_T_STAT t) F.SNP_T_STAT_JOB_STATE jHeld).setF (R.SNP_T_STAT t) F.SNP_T_STAT_CAUSE 7
        { s with ten := { s.ten with images := s.ten.images.del t } }
      else s
    | none => s) s

/-- Every drain fails: the local area it reads is lost. -/
def State.failDrains (s : State) : State := s.ten.drains.foldl (fun (s : State) l => s.doDrainFailed l.t l.layer) s

/-- Dies, stacks and link dies lose power. -/
def State.powerOff (s : State) : State :=
  let s := (List.range 8).foldl (fun (s : State) d => s.powerDie d false) s
  let s := (List.range 32).foldl (fun (s : State) k => s.powerStack k false) s
  let s := { s.resetLink with power := ⟨true, 0, 0, 0⟩ }
  s.copyCheck

/-- UNDERVOLTAGE_SHUTDOWN. -/
def State.doUnder (s : State) : State :=
  let s := (s.holdJobs.failDrains).powerOff
  let s := { s with pins := { s.pins with under := true, pwrgood := false, pcie := false }, bh := { s.bh with ready := none } }
  (s.setF R.BH_STAT F.BH_STAT_READY 0).setF R.BH_STAT F.BH_STAT_PHASE 1

def execUndervoltageShutdown (s : State) : Res :=
  State.when (s.power.ao && s.pins.vin && !s.pins.under) "there is no supply, or a shutdown is in force" s.doUnder

/-- A held job's mailbox records are written again: HBM has lost them. -/
def State.rewriteRecords (s : State) : State :=
  (List.range 8).foldl (fun (s : State) t =>
    let again (s : State) (slot : Nat) : State := match s.job t slot with | some j => s.putJob t slot j | none => s
    if s.admitted t then again (again s 0) 1 else s) s

/-- UNDERVOLTAGE_RECOVERY: steps 3 to 7 run again (R352). -/
def State.doUnderRecovery (s : State) (t : Training) : State :=
  let s := { s with pins := { s.pins with under := false, range := false } }
  let old := s.bh.book
  let b := s.bootBook
  let s := b.2
  let on := !b.1.isEmpty
  let s := if on then ((s.applyNode (bookValue b.1 1)).applyEthernet (bookValue b.1 4)) else s
  let s := s.reloadTens old b.1
  let s := if on then ({ s with defaults := s.defaults.filterMap keptDefault }.applyCommon b.1 false).showBook b.1
    else { s with bh := { s.bh with book := [] } }
  let s := s.choosePal.trainUnits t on
  let s := (List.range 8).foldl (fun (s : State) d =>
    let s := s.setF (R.TEL_RESETS d) F.TEL_RESETS_DIE (s.f (R.TEL_RESETS d) F.TEL_RESETS_DIE + 1)
    let s := s.setF (R.TEL_RESETS d) F.TEL_RESETS_STACK (s.f (R.TEL_RESETS d) F.TEL_RESETS_STACK + 4)
    if (s.tenOfDie d).isNone then s.offDie d else s) s
  (s.showQps.rewriteRecords).becomeReady t

def execUndervoltageRecovery (t : Training) (s : State) : Res :=
  State.when (s.power.ao && s.pins.vin && s.pins.under && !s.pins.resetN && s.pins.refclk && !s.bh.lost && !s.bh.rom && s.timesOk t 195)
    "no undervoltage shutdown is in force, or the start-up cannot be so" (s.doUnderRecovery t)

/-- OVERVOLTAGE_SHUTDOWN: every domain loses power. -/
def execOvervoltageShutdown (mv : Nat) (s : State) : Res :=
  if 40000 < mv then .fault .beyondRatings
  else
    let s' := s.resetAll false
    State.when (decide (39000 < mv) && s.pins.vin) "there is no supply, or it is not above 39 V"
      { s' with power := Power.init, pins := { s.pins with vin := false, range := false, under := true, pwrgood := false, pcie := false } }

/-- ALWAYS_ON_STOP: below 24 V the always-on domain stops too, and its SRAM is lost. -/
def execAlwaysOnStop (s : State) : Res :=
  let s' := s.resetAll false
  State.when s.pins.vin "there is no supply"
    { s' with power := Power.init, pins := { s.pins with vin := false, range := false, under := false, pwrgood := false, pcie := false } }

/-! ### RESET_N and the clocks (R353, R355) -/

/-- RESET_N_ASSERT. -/
def execResetNAssert (s : State) : Res :=
  let s' := s.resetAll s.pins.vin
  State.when (!s.pins.resetN) "RESET_N is low already"
    { s' with
      power := ⟨s.power.ao, 0, 0, 0⟩
      pins := { s.pins with resetN := true, range := false, under := false, pwrgood := false, pcie := false } }

/-- RESET_N_RELEASE. -/
def execResetNRelease (t : Training) (s : State) : Res :=
  let s' := { s with pins := { s.pins with resetN := false } }
  if s.pins.vin then State.when (s.pins.resetN && s.pins.refclk && s.mayStart t) "RESET_N is high, or the start-up cannot be so" (s'.startUp t)
  else State.when s.pins.resetN "RESET_N is high" s'

/-- A die's PLL loses lock: the event, the record, and the job that holds the die enters recovery (R342). A chosen heat that
has not started does not start. -/
def State.losePll (s : State) (d : Nat) (inj : Bool) : State :=
  let s := (s.setF (R.CLK_STAT d) F.CLK_STAT_LOCKED 0).setF (R.CLK_EVENT d) F.CLK_EVENT_PLL_UNLOCK 1
  let o := occ 0x3C kDie d (s.f (R.CLK_STAT d) F.CLK_STAT_OPP_NOW) 0
  let v := s.die d
  let s := match v.run with | some r => if r.start.isNone then s.setDie d { v with run := none } else s | none => s
  s.record (if inj then s.injected o else o)

/-- PLL_UNLOCK. -/
def execPllUnlock (d : Die) (s : State) : Res :=
  let i := s.inject 0x3C kDie d
  State.when (!s.dieDown d && s.f (R.CLK_STAT d) F.CLK_STAT_LOCKED == 1 && s.f (R.CLK_STAT d) F.CLK_STAT_STOPPED == 0)
    "the die's PLL is not locked" (i.2.losePll d i.1.isSome)

/-- AO_REFCLK_LOSS. -/
def State.doRefclkLoss (s : State) : State :=
  let s := { s with pins := { s.pins with refclk := false } }
  ((List.range 8).filter fun d => !s.dieDown d).foldl (fun (s : State) d => s.losePll d false) s

def execAoRefclkLoss (s : State) : Res := State.when s.pins.refclk "AO_REFCLK is missing already" s.doRefclkLoss

/-- AO_REFCLK_RETURN. -/
def execAoRefclkReturn (s : State) : Res :=
  State.when (!s.pins.refclk) "AO_REFCLK is present" { s with pins := { s.pins with refclk := true, refAt := s.time } }

/-- A fabric port goes down without being fenced. -/
def State.portLost (s : State) (p : Nat) : State :=
  let a := R.FAB_PORT_STAT p
  if s.f a F.FAB_PORT_STAT_STATE = 1 ∨ s.f a F.FAB_PORT_STAT_STATE = 2 then
    let s := (s.setF a F.FAB_PORT_STAT_STATE 0).setF a F.FAB_PORT_STAT_LG_ACTIVE 0
    (s.setF R.FAB_EVENT F.FAB_EVENT_PORT_DOWN 1).prunePort p
  else s

/-- A sub-port loses its link (R342). -/
def State.ethLost (s : State) (p sub : Nat) (inj : Bool) : State :=
  if s.ethUp p sub then
    let a := R.ETH_P_STAT p
    let s := s.setF a F.ETH_P_STAT_LINK (s.f a F.ETH_P_STAT_LINK - 2 ^ sub)
    let s := s.setF (R.ETH_P_EVENT p) F.ETH_P_EVENT_LINK_DOWN 1
    let o := occ 0x41 kEth p sub 0
    s.record (if inj then s.injected o else o)
  else s

/-- The link to the flash drive goes down: drains to it fail (R289, R358). -/
def State.pcieDown (s : State) : State :=
  let s := { s with pins := { s.pins with pcie := false } }
  (s.ten.drains.filter fun l => l.layer == 2).foldl (fun (s : State) l => s.doDrainFailed l.t 2) s

/-- The ports a SerDes clock feeds (R354). -/
def clkPorts (k : Nat) : List Nat := (List.range 16).filter fun p => portClk p == k
def clkEths (k : Nat) : List Nat := (List.range 4).filter fun p => ethClk p == k

/-- SREFCLK_LOSS. -/
def State.doSrefLoss (s : State) (k : Nat) : State :=
  let s := { s with pins := { s.pins with srefclk := s.pins.srefclk &&& ~~~ BitVec.ofNat 4 (2 ^ k) } }
  let s := (clkPorts k).foldl (fun (s : State) p => s.portLost p) s
  let s := (clkEths k).foldl (fun (s : State) p => (s.ethLost p 0 false).ethLost p 1 false) s
  if k = 1 ∧ s.pins.pcie = true then s.pcieDown else s

def execSrefclkLoss (k : Fin 4) (s : State) : Res :=
  State.when (bitOf s.pins.srefclk.toNat k) "the clock is missing already" (s.doSrefLoss k)

/-- SREFCLK_RETURN: its ports train again, those given with success. -/
def State.doSrefReturn (s : State) (k ports eth : Nat) : State :=
  let s := { s with pins := { s.pins with srefclk := s.pins.srefclk ||| BitVec.ofNat 4 (2 ^ k) } }
  if s.f R.BH_LOCK F.BH_LOCK_LOCK = 0 then s
  else
    let s := (clkPorts k).foldl (fun (s : State) p =>
      if s.f (R.FAB_PORT_STAT p) F.FAB_PORT_STAT_STATE = 0 then s.trainPort true (bitOf ports p) none p else s) s
    let s := (clkEths k).foldl (fun (s : State) p =>
      let up := (s.subPorts p).filter fun j => bitOf eth (2 * p + j)
      s.setF (R.ETH_P_STAT p) F.ETH_P_STAT_LINK (up.map fun j => 2 ^ j).sum) s
    if k = 1 then { s with pins := { s.pins with pcie := true } } else s

def execSrefclkReturn (k : Fin 4) (ports : BitVec 16) (eth : BitVec 8) (s : State) : Res :=
  State.when (!bitOf s.pins.srefclk.toNat k) "the clock is present" (s.doSrefReturn k ports.toNat eth.toNat)

/-- PCIE_LINK_DOWN: the link goes down by surprise; while it is down, the same event is its return (log 28). -/
def execPcieLinkDown (s : State) : Res :=
  State.when (s.power.ld != 0) "the link die has no power"
    (if s.pins.pcie then s.pcieDown else { s with pins := { s.pins with pcie := bitOf s.pins.srefclk.toNat 1 } })

/-- ETH_LINK: the sub-port loses its link and trains again at once. -/
def execEthLink (port : Fin 4) (sub : Fin 2) (s : State) : Res :=
  let i := s.inject 0x41 kEth port
  let s' := i.2.ethLost port sub i.1.isSome
  State.when (s.ethUp port sub) "the sub-port is down"
    (s'.setF (R.ETH_P_STAT port) F.ETH_P_STAT_LINK (s.f (R.ETH_P_STAT port) F.ETH_P_STAT_LINK))

/-- ETH_FCS. -/
def execEthFcs (port : Fin 4) (sub : Fin 2) (s : State) : Res :=
  let i := s.inject 0x40 kEth port
  let s' := (i.2.bump (R.ETH_CNT_FCS_ERR port) 1).setF (R.ETH_P_EVENT port) F.ETH_P_EVENT_FCS 1
  let o := occ 0x40 kEth port 1 sub
  State.when (s.ethUp port sub) "the sub-port is down" (s'.record (if i.1.isSome then s'.injected o else o))

/-! ### Takeover (R23, R24, R301) -/

/-- The standby pair begins a takeover: what the boathouse was writing to the flash is as after a power loss (R356). A
boathouse patch on trial is rolled back (R300). -/
def State.beginTakeover (s : State) (missed inj : Bool) : State :=
  let ld := s.f R.BH_STAT F.BH_STAT_ACTIVE_LD
  let o := occ 0x4B kLinkDie ld ld (b2n missed + 2)
  let s := s.record (if inj then s.injected o else o)
  let s := match s.bh.trial with | some t => s.rollback t | none => s.setF R.BH_STAT F.BH_STAT_STANDBY_OK 0
  let s := { s with bh := { s.bh with takeover := true, mirror := none }, mirrorDue := s.mirrorDue || s.bh.mirror.isSome }
  s.setF R.BH_PAL_MSTAT F.BH_PAL_MSTAT_BUSY 0

def State.mayTakeover (s : State) : Bool := s.bhOn && s.f R.BH_STAT F.BH_STAT_STANDBY_OK == 1

/-- LOCKSTEP_MISMATCH. -/
def execLockstepMismatch (s : State) : Res :=
  let i := s.inject 0x4B kLinkDie (s.f R.BH_STAT F.BH_STAT_ACTIVE_LD)
  State.when s.mayTakeover "there is no active pair with a standby" (i.2.beginTakeover false i.1.isSome)

/-- HEARTBEAT_MISS. -/
def execHeartbeatMiss (s : State) : Res :=
  State.when s.mayTakeover "there is no active pair with a standby" (s.beginTakeover true false)

/-- The standby pair is the active one, from the palimpsest copy of its own link die; counts of thresholds start anew
(R343). -/
def State.doTakeover (s : State) : State :=
  let ld := s.f R.BH_STAT F.BH_STAT_ACTIVE_LD
  let pl := (s.pals[1 - ld]?).bind id
  let s := { s with
    bh := { s.bh with takeover := false }
    pals := [pl, pl]
    errs := { s.errs with wins := [] } }
  (s.setF R.BH_STAT F.BH_STAT_ACTIVE_LD (1 - ld)).setF R.BH_EVENT F.BH_EVENT_TAKEOVER 1

/-- BOATHOUSE_LOST. -/
def execBoathouseLost (s : State) : Res :=
  State.when (s.power.ao && !s.bh.lost) "the always-on domain has no power, or both pairs are lost"
    ({ s with bh := { s.bh with lost := true, takeover := false } }.setF R.BH_STAT F.BH_STAT_STANDBY_OK 0)

/-! ### JTAG (R357) -/

/-- JTAG_INSTRUCTION: 0 BYPASS, 1 SAMPLE/PRELOAD, others drive contacts or test, and once the lock is set select BYPASS. -/
def execJtagInstruction (code : Nat) (s : State) : Res :=
  let c := if s.f R.BH_LOCK F.BH_LOCK_LOCK = 1 ∧ 1 < code then 0 else code
  State.when s.power.ao "the always-on domain has no power" { s with bh := { s.bh with jtag := c } }

/-- JTAG_TEST_LOGIC_RESET. -/
def execJtagTestLogicReset (s : State) : Res :=
  State.when s.power.ao "the always-on domain has no power" { s with bh := { s.bh with jtag := 0 } }

end Sys2Proof.Machine
end

