-- ==== Sys2Proof/Machine/Mgmt.lean ====
section
/-! DEFINITION. Attestation (R335 to R337), the I3C target (R358), and what an Ethernet port does with frames that are no
RDMA operation (R313, R322). -/

namespace Sys2Proof.Machine

open Sys2Proof

/-! ### SPDM (R336, R337) -/

/-- Response codes of DSP0274 (log 12). -/
abbrev spVersion := 0x04
abbrev spDigests := 0x01
abbrev spCertificate := 0x02
abbrev spChallengeAuth := 0x03
abbrev spMeasurements := 0x60
abbrev spCapabilities := 0x61
abbrev spAlgorithms := 0x63
abbrev spError := 0x7F

/-- The responder answers: the boathouse serves and the device is ready. -/
def State.spdmOn (s : State) : Bool := s.bhOn && s.ready

/-- An ERROR response with its code. -/
def State.spdmErr (s : State) (code : Nat) : State := s.emit (.spdm spError (leBytes 1 code))

/-- An answer joins the exchange so far, which later signatures cover. -/
def State.spdmSay (s : State) (code : Nat) (req body : List Byte) : State :=
  { s with bh := { s.bh with spdmLog := s.bh.spdmLog ++ req ++ body } }.emit (.spdm code body)

/-- A request at stage `need` of the exchange or later: an invalid identity store answers every request with an error, whose
code R335 leaves open; an earlier stage is UnexpectedRequest. -/
def State.spdmAsk (s : State) (need : Nat) (act : State → State) : State :=
  if ¬ identityValid then
    let t := s.tick
    t.2.spdmErr (Config.freeBits t.1 % 256)
  else if s.bh.spdm < need then s.spdmErr 0x04
  else act s

def State.spdmStage (s : State) (n : Nat) : State := { s with bh := { s.bh with spdm := n } }

/-- The bytes of the certificate chain. -/
def certChain : List Byte := (List.range (identityNat 0x358 4)).map fun i => Config.identityByte (0x360 + i)

/-- The signature of the exchange so far with a request and an answer, as its bytes. -/
def State.spdmSign (s : State) (req body : List Byte) : List Byte :=
  leBytes 132 (Config.attestationSign (s.bh.spdmLog ++ req ++ body))

/-- GET_VERSION begins an exchange. -/
def State.doGetVersion (s : State) (req : List Byte) : State :=
  s.spdmAsk 0 fun s =>
    let s := { s with bh := { s.bh with spdmLog := [] } }.spdmStage 1
    s.spdmSay spVersion req (Config.spdmBody spVersion req [])

def execGetVersion (req : List Byte) (s : State) : Res :=
  State.when s.spdmOn "the boathouse does not serve" (s.doGetVersion req)

/-- GET_CAPABILITIES. -/
def State.doGetCapabilities (s : State) (req : List Byte) : State :=
  s.spdmAsk 1 fun s => (s.spdmStage 2).spdmSay spCapabilities req (Config.spdmBody spCapabilities req [])

def execGetCapabilities (req : List Byte) (s : State) : Res :=
  State.when s.spdmOn "the boathouse does not serve" (s.doGetCapabilities req)

/-- NEGOTIATE_ALGORITHMS settles on P-521 and SHA-512 where the requester offers both; else InvalidRequest. -/
def State.doNegotiate (s : State) (req : List Byte) (offered : Bool) : State :=
  s.spdmAsk 2 fun s =>
    if offered then (s.spdmStage 3).spdmSay spAlgorithms req (Config.spdmBody spAlgorithms req []) else s.spdmErr 0x01

def execNegotiateAlgorithms (req : List Byte) (p521 sha512 : Bool) (s : State) : Res :=
  State.when s.spdmOn "the boathouse does not serve" (s.doNegotiate req (p521 && sha512))

/-- GET_DIGESTS: the SHA-512 digest of the chain of slot 0. -/
def State.doGetDigests (s : State) (req : List Byte) : State :=
  s.spdmAsk 3 fun s =>
    s.spdmSay spDigests req (Config.spdmBody spDigests req (leBytes 64 (Config.sha512 certChain).toNat))

def execGetDigests (req : List Byte) (s : State) : Res :=
  State.when s.spdmOn "the boathouse does not serve" (s.doGetDigests req)

/-- GET_CERTIFICATE: a part of the chain of slot 0, the only one. -/
def State.doGetCertificate (s : State) (req : List Byte) (slot off len : Nat) : State :=
  s.spdmAsk 3 fun s =>
    if slot = 0 ∧ off < certChain.length then
      s.spdmSay spCertificate req (Config.spdmBody spCertificate req (slice certChain off len))
    else s.spdmErr 0x01

def execGetCertificate (req : List Byte) (slot off len : Nat) (s : State) : Res :=
  State.when s.spdmOn "the boathouse does not serve" (s.doGetCertificate req slot off len)

/-- CHALLENGE: the answer and its signature by the attestation key. -/
def State.doChallenge (s : State) (req : List Byte) (slot : Nat) : State :=
  s.spdmAsk 3 fun s =>
    if slot = 0 then
      let body := Config.spdmBody spChallengeAuth req (leBytes 64 (Config.sha512 certChain).toNat)
      s.spdmSay spChallengeAuth req (body ++ s.spdmSign req body)
    else s.spdmErr 0x01

def execChallenge (req : List Byte) (slot : Nat) (s : State) : Res :=
  State.when s.spdmOn "the boathouse does not serve" (s.doChallenge req slot)

/-- GET_MEASUREMENTS of an index: 0 the number of blocks, 0xFF all of them, else one of the four, as raw digests in force
now, and the signature. -/
def State.doGetMeasurements (s : State) (req : List Byte) (index : Nat) : State :=
  s.spdmAsk 3 fun s =>
    let block (i : Nat) : List Byte := leBytes 64 (s.measurement i).toNat
    let say (m : List Byte) : State :=
      let body := Config.spdmBody spMeasurements req m
      s.spdmSay spMeasurements req (body ++ s.spdmSign req body)
    if index = 0 then say [4]
    else if index = 0xFF then say (block 1 ++ block 2 ++ block 3 ++ block 4)
    else if index ≤ 4 then say (block index)
    else s.spdmErr 0x01

def execGetMeasurements (req : List Byte) (index : Nat) (s : State) : Res :=
  State.when s.spdmOn "the boathouse does not serve" (s.doGetMeasurements req index)

/-- The request codes the device supports. -/
def spdmKnown (code : Nat) : Bool := [0x81, 0x82, 0x83, 0xE0, 0xE1, 0xE3, 0x84].contains code

/-- UNSUPPORTED_REQUEST: any other request. -/
def State.doUnsupported (s : State) : State := s.spdmAsk 0 fun s => s.spdmErr 0x07

def execUnsupportedRequest (code : Nat) (s : State) : Res :=
  State.when (s.spdmOn && !spdmKnown code) "the boathouse does not serve, or the request is supported" s.doUnsupported

/-! ### I3C (R358) -/

/-- Only the target of the active pair answers, but for the ROM recovery of R320. -/
def State.i3cAnswers (s : State) (ld : Nat) : Bool := s.bh.rom || (s.bhUp && s.f R.BH_STAT F.BH_STAT_ACTIVE_LD == ld)

def State.i3cTake (s : State) (ld addr : Nat) : State :=
  { s with bh := { s.bh with i3c := s.bh.i3c.set ld (some addr) } }.emit (.i3c ld addr)

/-- ENTDAA: a target without a dynamic address takes part. -/
def execEntdaa (ld : LDie) (addr : BitVec 7) (s : State) : Res :=
  State.when s.power.ao "the always-on domain has no power"
    (if s.i3cAnswers ld && ((s.bh.i3c[ld.val]?).bind id).isNone then s.i3cTake ld addr.toNat else s)

/-- SETDASA: from static address 0x3A, to a target without a dynamic address. -/
def execSetdasa (ld : LDie) (static addr : BitVec 7) (s : State) : Res :=
  State.when s.power.ao "the always-on domain has no power"
    (if s.i3cAnswers ld && static == 0x3A && ((s.bh.i3c[ld.val]?).bind id).isNone then s.i3cTake ld addr.toNat else s)

/-! ### Ethernet (R313, R322) -/

def qpPort (qp : Nat) : Nat := qp / 256 % 4

/-- A frame is received intact. -/
def State.frameIn (s : State) (p : Nat) : State := s.bump (R.ETH_CNT_FRAMES_RX p) 1

/-- A queue pair that exists and whose sub-port is up. -/
def State.qpUp (s : State) (qp : Nat) : Option QueuePair :=
  match s.ten.qps.look qp with
  | some q => if s.ethUp (qpPort qp) q.sub then some q else none
  | none => none

/-- A NAK on a queue pair: 1 invalid request, 2 remote access error. -/
def State.nak (s : State) (qp psn code : Nat) : State :=
  ((s.bump (R.ETH_CNT_NAK (qpPort qp)) 1).bump (R.ETH_CNT_FRAMES_TX (qpPort qp)) 1).emit (.rdmaNak qp psn code)

def State.setQp (s : State) (qp : Nat) (q : QueuePair) : State := { s with ten := { s.ten with qps := s.ten.qps.ins qp q } }

/-- INVALID_REQUEST. -/
def execInvalidRequest (qp : Nat) (s : State) : Res :=
  match s.qpUp qp with
  | none => .refused (.notEnabled "no such queue pair is up")
  | some q => .next ((s.frameIn (qpPort qp)).nak qp q.rqPsn 1)

/-- CNP_RECEIVE: the queue pair's rate falls as Annex A17 has it. -/
def execCnpReceive (qp : Nat) (s : State) : Res :=
  match s.qpUp qp with
  | none => .refused (.notEnabled "no such queue pair is up")
  | some q => .next (((s.frameIn (qpPort qp)).bump (R.ETH_CNT_CNP_RX (qpPort qp)) 1).setQp qp { q with rate := Config.cnpRate q.rate })

/-- ECN_MARK_RECEIVE: a CNP goes back to the peer. -/
def execEcnMarkReceive (qp : Nat) (s : State) : Res :=
  match s.qpUp qp with
  | none => .refused (.notEnabled "no such queue pair is up")
  | some q =>
    let s := (s.frameIn (qpPort qp)).bump (R.ETH_CNT_CNP_TX (qpPort qp)) 1
    .next (s.sendEth (qpPort qp) q.sub 4 (leBytes 4 q.peer))

/-- PFC_PAUSE: a pause frame on the port's priority is counted. -/
def execPfcPause (port : Fin 4) (prio : Fin 8) (s : State) : Res :=
  State.when (s.f (R.ETH_P_STAT port) F.ETH_P_STAT_LINK != 0) "the port is down"
    (let s := s.frameIn port
     if s.f (R.ETH_P_CTL port) F.ETH_P_CTL_PFC_PRIO = prio.val then s.bump (R.ETH_CNT_PFC_RX port) 1 else s)

def State.sub (s : State) (p j : Nat) : EthSub := s.ten.subs.get (fun _ => ⟨0, 0, 0, 0⟩) (2 * p + j)

/-- ARP_REQUEST: answered for the sub-port's own address. -/
def execArpRequest (port : Fin 4) (sub : Fin 2) (ip : W32) (s : State) : Res :=
  State.when (s.ethUp port sub) "the sub-port is down"
    (let s := s.frameIn port
     if ip.toNat ≠ 0 ∧ (s.sub port sub).ip4 = ip.toNat then
       s.sendEth port sub 2 (leBytes 6 (s.sub port sub).mac ++ leBytes 4 ip.toNat)
     else s)

/-- NEIGHBOUR_SOLICITATION. -/
def execNeighbourSolicitation (port : Fin 4) (sub : Fin 2) (ip : BitVec 128) (s : State) : Res :=
  State.when (s.ethUp port sub) "the sub-port is down"
    (let s := s.frameIn port
     if ip.toNat ≠ 0 ∧ (s.sub port sub).ip6 = ip.toNat then
       s.sendEth port sub 3 (leBytes 6 (s.sub port sub).mac ++ leBytes 16 ip.toNat)
     else s)

end Sys2Proof.Machine
end

