-- ==== Sys2Proof/Machine/Thermal.lean ====
section
/-! DEFINITION. Temperature (R184, R185) and the wake of clusters (R186). -/

namespace Sys2Proof.Machine

open Sys2Proof

/-! ### Sensors (R184) -/

/-- Requests of other dies' cores that wait at a stack are answered FENCED (R185). -/
def State.refuseQueues (s : State) (k : Nat) : State :=
  (s.stk k).queues.foldl (fun (s : State) e =>
    e.2.foldl (fun (s : State) (q : BankReq) =>
      if dieOf q.pos = k / 4 then s
      else match q.wr with
        | some _ => s.aeWritten q.pos q.cmd q.part sFENCED
        | none => s.aeData q.pos q.cmd q.part (s.die (dieOf q.pos)).now sFENCED [] none false) s) s

/-- The registers of a die that the boathouse writes again when power returns: which virtual cores its cores are, and the
modes of its stacks' groups. They are kept as they were; nothing reads them while the die is off. -/
def keptRegs (d : Nat) : List Nat :=
  ((List.range 32).map fun c => R.COX_SELF (32 * d + c)) ++ (List.range 4).map fun j => R.HBM_NI_MASK (4 * d + j)

/-- A thermal shutdown (R184, R185, R279): the error record, the job's recovery, the passes of the die's scribes, and the
power of the die. The stacks keep their contents. -/
def State.thermalStop (s : State) (d t core : Nat) (inj : Bool) : State :=
  let o := occ 0x3B kDie d t core
  let s := s.record (if inj then s.injected o else o)
  let s := s.recoverDie d 5
  let s := (List.range 4).foldl (fun (s : State) j => (s.refuseQueues (4 * d + j)).killScribe (4 * d + j)) s
  let kept := (keptRegs d).map fun a => (a, s.rd a)
  let s := s.powerDie d false
  let s := kept.foldl (fun (s : State) e => s.wr e.1 e.2) s
  let s := (List.range 4).foldl (fun (s : State) j => s.setF (R.HBM_STAT (4 * d + j)) F.HBM_STAT_SELF_REFRESH 1) s
  (s.setDie d { s.die d with thermalOff := true }).copyCheck

/-- From 100 °C the die steps down every millisecond; the first sample there is recorded. -/
def State.thermalThrottle (s : State) (d t core : Nat) (inj : Bool) : State :=
  if t < 100 then (s.setDie d { s.die d with thermStep := none }).setF (R.PWR_DIE_STAT d) F.PWR_DIE_STAT_THROTTLE 0
  else
    let onset := (s.die d).thermStep.isNone
    let s := (s.setF (R.PWR_DIE_STAT d) F.PWR_DIE_STAT_THROTTLE 1).setF (R.PWR_DIE_EVENT d) F.PWR_DIE_EVENT_THERMAL_THROTTLE 1
    let o := occ 0x3A kDie d t core
    let s := if onset then s.record (if inj then s.injected o else o) else s
    let due := match (s.die d).thermStep with
      | some k => decide (k + ticksMs 1 ≤ s.time)
      | none => true
    if due then (s.setDie d { s.die d with thermStep := some s.time }).stepDown d else s

/-- The readings of a die's sensors, with those an injection replaces. -/
def State.sensed (s : State) (d : Nat) (temps : List Nat) (once : Option Nat) : List Nat :=
  let l := match (s.die d).hotUntil with
    | some h => if s.time < h.2.2 then temps.set h.1 h.2.1 else temps
    | none => temps
  match once with
  | some core => l.set core 110
  | none => l

/-- THERMAL_SAMPLE. -/
def State.doThermalSample (s : State) (d : Nat) (temps : List Nat) : State :=
  let a := s.inject 0x3A kDie d
  let s := a.2
  let s := match a.1 with
    | some syn => s.setDie d { s.die d with hotUntil := some (syn % 32, bitsOf syn 8 8, s.time + ticksMs 10) }
    | none => s
  let b := s.inject 0x3B kDie d
  let s := b.2
  let l := s.sensed d temps (b.1.map (· % 32))
  let t := l.foldl max 0
  let core := l.findIdx fun v => v == t
  let hot := match (s.die d).hotUntil with | some h => decide (s.time < h.2.2) && h.1 == core | none => false
  let s := (s.setF (R.PWR_DIE_STAT d) F.PWR_DIE_STAT_TMAX (min 255 t)).setF (R.PWR_DIE_STAT d) F.PWR_DIE_STAT_TMAX_CORE core
  let s := (List.range 32).foldl (fun (s : State) n => s.setF (R.PWR_CORE_TEMP d n) F.PWR_CORE_TEMP_TEMP (min 255 (l.getD n 0))) s
  if s.dieDown d then s
  else
    let s := s.thermalThrottle d t core (hot || b.1.isSome)
    if 110 ≤ t then s.thermalStop d t core (b.1.isSome || hot) else s

def execThermalSample (d : Die) (temps : List Nat) (s : State) : Res :=
  State.whenWf (temps.length == 32) s.power.ao "the always-on domain has no power" (s.doThermalSample d temps)

/-! ### Wakes (R186) -/

/-- The strips and cox images of some cores of a die are loaded again, where a job of the die's tenancy maps them. -/
def State.reloadCores (s : State) (d : Nat) (which : Nat → Bool) : State :=
  match s.tenOfDie d with
  | none => s
  | some t =>
    match s.mods.look t, s.job t 0 with
    | some m, some j =>
      let base := s.f (R.TEN_T_CTX t) F.TEN_T_CTX_CTX_BASE
      ((s.mappedCores j m).filter fun q => which q.2.2).foldl (fun (s : State) q => s.loadCore m base q.1 q.2.1 q.2.2 true) s
    | _, _ => s

/-- THERMAL_RESTORE: power returns, strips and images are loaded, and the stacks leave self-refresh. -/
def State.doThermalRestore (s : State) (d : Nat) : State :=
  let kept := (keptRegs d).map fun a => (a, s.rd a)
  let s := s.powerDie d true
  let s := kept.foldl (fun (s : State) e => s.wr e.1 e.2) s
  let s := (s.setDie d { s.die d with idleFrom := s.time }).setF (R.CLK_STAT d) F.CLK_STAT_LOCKED 1
  let s := (List.range 4).foldl (fun (s : State) j =>
    let k := 4 * d + j
    let s := s.setF (R.HBM_STAT k) F.HBM_STAT_PC_FENCED (s.pcFencedCount k)
    if s.stackFenced k then s else s.setF (R.HBM_STAT k) F.HBM_STAT_TRAINED 1) s
  if (s.tenOfDie d).isSome then s.reloadCores d fun p => decide (p / 32 = d) else s.offDie d

def execThermalRestore (d : Die) (s : State) : Res :=
  State.when ((s.die d).thermalOff && s.bhUp && decide (s.f (R.PWR_DIE_STAT d) F.PWR_DIE_STAT_TMAX < 90))
    "no sensor-driven shutdown is in force, or a sensor reads 90 °C or more" (s.doThermalRestore d)

/-- CLUSTER_WAKE: a wake the starter asked for completes; a cluster that was off has its images loaded again. -/
def State.doClusterWake (s : State) (d cl x : Nat) (r : RunHeat) : State :=
  let s := if s.cluster d cl = 3 then
      (s.resetCluster (4 * d + cl)).reloadCores d fun p => decide (p / 8 = 4 * d + cl)
    else s
  let s := s.setDie d { s.die d with
    run := some { r with waking := r.waking.erase cl, wakeDone := some (max x (r.wakeDone.getD 0)) } }
  (s.setCluster d cl 0).clock d x

def execClusterWake (d : Die) (cl : Fin 4) (x : Nat) (s : State) : Res :=
  match (s.die d).run with
  | none => .refused (.notEnabled "no wake was asked for")
  | some r => State.when (r.waking.contains cl.val && decide (r.chosen < x)) "no wake of the cluster was asked for"
      (s.doClusterWake d cl x r)

end Sys2Proof.Machine
end

