-- ==== Sys2Proof/Machine/Telem.lean ====
section
/-! DEFINITION. Threshold windows (R343), injection points (R345) and captures (R346). -/

namespace Sys2Proof.Machine

open Sys2Proof

/-- A register takes a written value field by field, as its access codes say (R11, R12). -/
def State.plainWrite (s : State) (open_ : Bool) (off : Nat) (v : Word) : State :=
  match regRow off with
  | some q => s.wr off (BitVec.ofNat 64 (rowWrite q.2.2.2.1.fields open_ (s.rd off).toNat v.toNat))
  | none => s

/-! ### Threshold windows (R343) -/

/-- THRESHOLD_WINDOW_CLOSE: WINDOW_S have passed since the window opened. -/
def execThresholdWindowClose (det kind index : Nat) (s : State) : Res :=
  State.when (s.power.ao && s.errs.wins.any fun w => w.det == det && w.kind == kind && w.index == index &&
      decide (w.opened + (s.threshold det).2.1 * 25000000 ≤ s.time))
    "no such window has run out" (s.dropWindow det kind index)

/-! ### Injection (R345) -/

/-- A write of INJ_Pk_CTL arms or disarms the point; arming is ignored while EN is 0. A code without a detector has none. -/
def State.injWrite (s : State) (k : Nat) (v : Word) : State :=
  match detector k with
  | none => s
  | some _ =>
    let c := R.INJ_P_CTL k
    let was := s.f c F.INJ_P_CTL_ARM
    let s := s.plainWrite true c v
    let s := if was = 0 ∧ s.f R.INJ_CTL F.INJ_CTL_EN = 0 then s.setF c F.INJ_P_CTL_ARM 0 else s
    let now := s.f c F.INJ_P_CTL_ARM
    let n := s.f R.INJ_STAT F.INJ_STAT_ARMED
    if was = 0 ∧ now = 1 then
      let due := s.time + s.f (R.INJ_P_PERIOD k) F.INJ_P_PERIOD_PERIOD
      let s := s.setF R.INJ_STAT F.INJ_STAT_ARMED (n + 1)
      { s with errs := { s.errs with nextFire := s.errs.nextFire.set (fun _ => 0) k due } }
    else if was = 1 ∧ now = 0 then s.setF R.INJ_STAT F.INJ_STAT_ARMED (n - 1)
    else s

/-- INJECT_ARM. -/
def execInjectArm (iss : Issuer) (k : Fin 128) (v : Word) (s : State) : Res :=
  .next (s.ctlIn iss (R.INJ_P_CTL k) 8 v fun s => s.injWrite k v)

/-- A write of INJ_CTL: with EN 0 every point is disarmed. -/
def State.injCtl (s : State) (v : Word) : State :=
  let s := s.plainWrite true R.INJ_CTL v
  if s.f R.INJ_CTL F.INJ_CTL_EN = 0 then s.disarmAll else s

/-- INJECT_DISABLE. -/
def execInjectDisable (iss : Issuer) (s : State) : Res := .next (s.ctlIn iss R.INJ_CTL 8 0 fun s => s.injCtl 0)

/-! ### Captures (R346) -/

/-- `n` consecutive counter words from an offset, or all ones where nothing can be read. -/
def State.counters (s : State) (gone : Bool) (off n : Nat) : List Byte :=
  (List.range n).flatMap fun i => if gone then List.replicate 8 0xFF else leBytes 8 (s.view (off + 8 * i)).toNat

/-- One group's counters, in ascending instance and offset. Counters of a die without power are written as those of a
cluster that is off. -/
def State.captureGroup (s : State) (g : Nat) : List Byte :=
  let c (p off n : Nat) : List Byte := s.counters (s.coreClosed p) off n
  let cores (f : Nat → List Byte) : List Byte := (List.range 256).flatMap f
  match g with
  | 0 => cores fun p => (List.range 3).flatMap fun e => c p (Blk.base .eng p + 0x400 * e + 0x40) 8
  | 1 => cores fun p => c p (Blk.base .cvu p + 0x40) 3
  | 2 => cores fun p => c p (Blk.base .ae p + 0x100) 19 ++ c p (Blk.base .ae p + 0x200) 8
  | 3 => cores fun p => c p (Blk.base .cox p + 0x118) 1 ++ c p (Blk.base .cox p + 0x140) 3
  | 4 => cores fun p => c p (Blk.base .flg p + 0x40) 9
  | 5 => (List.range 8).flatMap fun d =>
      s.counters (s.dieDown d) (Blk.base .str d + 0x40) 9 ++ s.counters (s.dieDown d) (Blk.base .clk d + 0x40) 4 ++
        s.counters (s.dieDown d) (Blk.base .clk d + 0x80) 6
  | 6 => (List.range 8).flatMap (fun d => s.counters false (Blk.base .pwrd d + 0x40) 2) ++
      s.counters false (Blk.base .pwr 0 + 0x40) 4 ++ s.counters false (Blk.base .pwr 0 + 0x100) 8
  | 7 => (List.range 32).flatMap fun k => s.counters (s.dieDown (k / 4) || s.stackFenced k) (Blk.base .hbm k + 0x100) 10
  | 8 => (List.range 32).flatMap fun k =>
      s.counters (s.dieDown (k / 4) || s.scribeFenced k || s.stackFenced k) (Blk.base .scb k + 0x100) 9
  | 9 => s.counters false (Blk.base .fab 0 + 0x40) 12 ++
      (List.range 16).flatMap fun p => s.counters (s.portFenced p) (Blk.base .fab 0 + 0x1040 + 0x100 * p) 7
  | 10 => s.counters false (Blk.base .ctx 0 + 0x40) 6
  | 11 => s.counters false (Blk.base .col 0 + 0x100) 8
  | 12 => (List.range 4).flatMap fun p => s.counters false (Blk.base .eth 0 + 0x40 + 0x100 * p) 7
  | 13 => s.counters false (R.MNT_CNT_RUN 0) 6 ++ s.counters false (R.MNT_CNT_DEFER 0) 6 ++ s.counters false R.SNP_CNT_TAKEN 5
  | _ => s.counters false (R.ERR_CNT 0) 128

/-- The record of a capture at a tick: its header, the selected groups, and the padding. LENGTH counts all of it. -/
def State.captureRecord (s : State) (tick : Nat) : List Byte :=
  let mask := s.f R.TEL_CTL F.TEL_CTL_MASK
  let body := ((List.range 15).filter (bitOf mask)).flatMap s.captureGroup
  let pad := (64 - body.length % 64) % 64
  let n := 64 + body.length + pad
  let resets := (List.range 8).flatMap fun d => leBytes 1 (s.f (R.TEL_RESETS d) F.TEL_RESETS_DIE)
  [0x41, 0x58, 0x54, 0x43] ++ leBytes 2 1 ++ leBytes 2 0 ++ leBytes 4 n ++ leBytes 4 mask ++
    leBytes 8 ((s.rd R.TEL_CAP_SEQ).toNat + 1) ++ leBytes 8 tick ++ resets ++ leBytes 4 s.node ++ List.replicate 20 0 ++
    body ++ List.replicate pad 0

/-- A trigger falls due at a tick: a capture begins, or, while another runs, it is dropped, unless both fall on that tick. -/
def State.captureAsk (s : State) (tick : Nat) : State :=
  match s.bh.capture with
  | some q =>
    if q.1 = tick then s else (s.setF R.TEL_CAP_STAT F.TEL_CAP_STAT_MISSED 1).bump R.TEL_CNT_MISSED 1
  | none => { s with bh := { s.bh with capture := some (tick, s.captureRecord tick) } }.setF R.TEL_CAP_STAT F.TEL_CAP_STAT_BUSY 1

/-- A write of TEL_CAP_TRIG: with GO the counters are latched at the next tick. -/
def State.trigWrite (s : State) (v : Word) : State := if bitOf v.toNat 0 then s.captureAsk (s.time + 1) else s

/-- CAPTURE_GO. -/
def execCaptureGo (iss : Issuer) (s : State) : Res := .next (s.ctlIn iss R.TEL_CAP_TRIG 8 1 fun s => s.trigWrite 1)

/-- CAPTURE_PERIODIC: the timer falls due. -/
def State.doPeriodic (s : State) : State :=
  let s := s.captureAsk s.time
  { s with bh := { s.bh with capDue := s.bh.capDue + s.f R.TEL_CAP_CFG F.TEL_CAP_CFG_PERIOD } }

def execCapturePeriodic (s : State) : Res :=
  State.when (s.power.ao && s.f R.TEL_CTL F.TEL_CTL_PERIODIC_EN == 1 && decide (s.bh.capDue ≤ s.time)) "no periodic capture is due"
    s.doPeriodic

/-- Where a record goes: the address of its buffer. -/
def State.captureAddr (s : State) (seq : Nat) : Nat :=
  let one (n : Nat) : Nat := if n = 0 then 1 else n
  let n := one (s.f R.TEL_CAP_CFG F.TEL_CAP_CFG_NBUF)
  let st := one (s.f R.TEL_CAP_CFG F.TEL_CAP_CFG_STRIDE)
  (s.rd R.TEL_CAP_DEST).toNat + seq % n * st * 65536

/-- CAPTURE_COMPLETE: the record is written, or refused for its length or its destination. -/
def State.doCaptured (s : State) (bs : List Byte) : State :=
  let s := { s with bh := { s.bh with capture := none } }.setF R.TEL_CAP_STAT F.TEL_CAP_STAT_BUSY 0
  let st := s.f R.TEL_CAP_CFG F.TEL_CAP_CFG_STRIDE
  if (if st = 0 then 1 else st) * 65536 < bs.length then s.setF R.TEL_CAP_STAT F.TEL_CAP_STAT_TOO_LONG 1
  else
    let a := s.captureAddr ((s.rd R.TEL_CAP_SEQ).toNat + 1)
    match targetOf (kSpace a) (kOff a) bs.length with
    | .hbm d l =>
      if kOff a % 65536 ≠ 0 ∨ s.fencedTarget (.hbm d l) bs.length = true then s.setF R.TEL_CAP_STAT F.TEL_CAP_STAT_DEST_ERR 1
      else
        let s := (s.hbmWrite d l bs).bump R.TEL_CAP_SEQ 1
        (s.setF R.TEL_CAP_STAT F.TEL_CAP_STAT_LENGTH bs.length).bump R.TEL_CNT_CAPTURES 1
    | _ => s.setF R.TEL_CAP_STAT F.TEL_CAP_STAT_DEST_ERR 1

def execCaptureComplete (s : State) : Res :=
  match s.bh.capture with
  | none => .refused (.notEnabled "no capture is running")
  | some q => State.when (decide (q.1 ≤ s.time)) "the capture's tick has not come" (s.doCaptured q.2)

end Sys2Proof.Machine
end

