-- ==== Sys2Proof/Machine/Control.lean ====
section
/-! DEFINITION. What a write of each control register does (R10 to R13, R154, R165, R194, R206, R231, R235 to R240), and the
commands that are such writes. -/

namespace Sys2Proof.Machine

open Sys2Proof

/-! ### Write-one-to-clear bits (R12, R13, R194) -/

/-- The bits of a row that a write of ones clears. -/
def w1cMask (r : RegRow) : Nat := ((r.fields.filter fun f => f.acc == .w1c).map fun f => fieldMask f.lo f.width).sum

/-- The unit that a race in a register outside the core blocks is recorded for. -/
def raceUnit (off : Nat) : Nat × Nat :=
  match ctlDecode off with
  | some (.str, d, _) | some (.clk, d, _) | some (.pwrd, d, _) => (kDie, d)
  | some (.hbm, k, _) | some (.scb, k, _) => (kDie, k / 4)
  | some (.fab, _, o) => (kLinkDie, if 0x1000 ≤ o ∧ o < 0x2000 then (o - 0x1000) / 0x800 else 0)
  | some (.eth, _, o) => (kLinkDie, if o < 0x400 then o / 0x200 else 0)
  | some (.ctx, _, _) | some (.col, _, _) => (kLinkDie, 0)
  | _ => (kPackage, 0)

/-- A clear of W1C bits outside the core blocks that an armed point makes race a set: the set wins (R345). -/
def State.raceInject (s : State) (off bits : Nat) : Bool × State :=
  let u := raceUnit off
  let core := match ctlDecode off with | some (b, _, _) => coreBlk b | none => true
  if bits = 0 ∨ core = true then (false, s)
  else
    let i := s.inject 0x24 u.1 u.2
    if i.1.isSome then
      (true, i.2.record (i.2.injected (occ 0x24 u.1 u.2 off (((List.range 64).find? (bitOf bits)).getD 0))))
    else (false, i.2)

/-- A register takes a written value as its access codes say, unless the clear loses to an injected set. -/
def State.fieldsWrite (s : State) (open_ : Bool) (off : Nat) (v : Word) : State :=
  match regRow off with
  | none => s
  | some q =>
    let m := w1cMask q.2.2.2.1
    let bits := (s.rd off).toNat &&& v.toNat &&& m
    let r := s.raceInject off bits
    if r.1 then r.2.plainWrite open_ off (BitVec.ofNat 64 (v.toNat - (v.toNat &&& m))) else r.2.plainWrite open_ off v

/-! ### PRMs and patches (R154) -/

/-- Does a write of a PRM apply at once: no heat runs on the core, and nothing is queued? -/
def State.patchNow (s : State) (p : Nat) : Bool :=
  !s.heatOn p && (s.core p).patches.isEmpty && (s.core p).patchWait.isEmpty

/-- A SET or ADD is applied at once, staged, or waits for a full queue. -/
def State.stagePatch (s : State) (p x prm : Nat) (add : Bool) (v : Nat) : State :=
  let e : Patch := ⟨prm, add, v % 2 ^ 48, x⟩
  let c := s.core p
  if s.patchNow p then s.applyPatch p x e
  else if c.patches.length < 8 then s.setCore p { c with patches := c.patches ++ [e] }
  else (s.setCore p { c with patchWait := c.patchWait ++ [e] }).setF (R.COX_EVENT p) F.COX_EVENT_PATCH_STALL 1

/-- Would a patch wait for a full queue? -/
def State.patchFull (s : State) (p : Nat) : Bool := !s.patchNow p && decide (8 ≤ (s.core p).patches.length)

/-- The die cycle a control write acts in. -/
def State.nowOf (s : State) (p : Nat) : Nat := (s.die (dieOf p)).now

/-- A write of COX_CTL: with RUN going to 1 the cox executes from IMEM address 0. -/
def State.coxCtl (s : State) (p : Nat) (v : Word) : State :=
  let was := s.f (R.COX_CTL p) F.COX_CTL_RUN
  let s := s.plainWrite true (R.COX_CTL p) v
  if was = 0 ∧ s.f (R.COX_CTL p) F.COX_CTL_RUN = 1 then
    s.setCox p { s.cox p with pc := 0, halted := false, wfi := false, inTrap := false, latch := none, half := none }
  else s

/-- A write in a core's COX block, in cycle x. -/
def State.coxBlock (s : State) (p x o : Nat) (v : Word) (cox : Bool) : State :=
  let n := v.toNat
  if o = 0 then s.coxCtl p v
  else if o = 0x20 then s.doPost p (bitsOf n 0 16) x cox
  else if o = 0x30 then s.stagePatch p x (bitsOf n 48 6) (bitOf n 54) (bitsOf n 0 48)
  else s.plainWrite true (Blk.base .cox p + o) v

/-- A write in a core's FLG block. -/
def State.flgBlock (s : State) (p o : Nat) (v : Word) : State :=
  if 0x200 ≤ o ∧ o < 0x280 then s.unpoison p ((o - 0x200) / 8) v.toNat else s.plainWrite true (Blk.base .flg p + o) v

/-! ### Fabric, contexts and collectives -/

/-- EN of a port goes to 0 or 1 (R212). -/
def State.portCtl (s : State) (open_ : Bool) (p : Nat) (v : Word) : State :=
  let a := R.FAB_PORT_CTL p
  let was := s.f a F.FAB_PORT_CTL_EN
  let s := s.plainWrite open_ a v
  let en := s.f a F.FAB_PORT_CTL_EN
  if was = 1 ∧ en = 0 then s.portLost p
  else if was = 0 ∧ en = 1 ∧ s.f (R.FAB_PORT_STAT p) F.FAB_PORT_STAT_STATE = 0 then s.trainPort true false none p
  else s

/-- A write of FAB_MC_ENT (R235, R236): the ports pruned return. -/
def State.mcEnt (s : State) (v : Word) : State :=
  let n := v.toNat
  let k := s.f R.FAB_MC_SEL F.FAB_MC_SEL_TREE
  let t := s.tree k
  s.setTree k { t with out := bitsOf n 0 16, deliver := bitOf n 16, valid := bitOf n 17, pruned := 0, leaves := bitsOf n 34 19 }

def State.mcDesc (s : State) (p : Nat) (v : Word) : State :=
  let k := s.f R.FAB_MC_SEL F.FAB_MC_SEL_TREE
  let t := s.tree k
  s.setTree k { t with desc := t.desc.set p (bitsOf v.toNat 0 19) }

/-- A write of a context record's word (R231, R232): COUNT, the signal core and request flag, and W1C of SAT and UNDER. The
record is brought into its cache where it can be. -/
def State.recWrite (s : State) (w k : Nat) (v : Word) : State :=
  let n := v.toNat
  let x := s.f (R.CTX_WIN_SEL w) F.CTX_WIN_SEL_CTX
  let s := (s.ctxNeed x).getD s
  let r := s.ctx x
  match k with
  | 0 => s.setCtx x { r with
      sigDie := bitsOf n 13 3, sigCore := bitsOf n 16 5, reqFlag := bitsOf n 21 10, reqEn := bitOf n 31
      sat := r.sat && !bitOf n 34, under := r.under && !bitOf n 35 }
  | 1 => s.setCtx x { r with count := bitsOf n 0 32 }
  | _ => s

/-- A write to a busy entry or context is ignored (R239). -/
def State.msBusy (s : State) : State := s.setF R.COL_EVENT F.COL_EVENT_MS_BUSY 1

/-- A write of COL_MS_ORIG. -/
def State.msOrig (s : State) (v : Word) : State :=
  let k := s.f R.COL_MS_SEL F.COL_MS_SEL_MS
  if s.msetBusy k then s.msBusy
  else s.setMset k { s.mset k with orig := bitsOf v.toNat 0 24, step := bitsOf v.toNat 24 24 }

/-- Is a box well shaped (R237), and, for a tree, does it keep every path inside (R240)? -/
def State.msShape (s : State) (m : MemberSet) : Bool :=
  (List.range 4).all fun i =>
    (m.e i == 1 || decide (m.e i * m.st i ≤ s.dim i)) &&
      (!m.tree || (m.st i == 1 && (m.e i == s.dim i || decide (2 * m.e i ≤ s.dim i))))

/-- Does this node lie on the dimension-order path from a to b (R218)? -/
def State.onPath (s : State) (a b : Nat) : Bool :=
  let c (n i : Nat) : Nat := s.coord n i
  let v := s.node
  let between (i : Nat) : Bool :=
    let whole := s.plusSteps i (c a i) (c b i)
    let part := s.plusSteps i (c a i) (c v i)
    if 2 * whole ≤ s.dim i then decide (part ≤ whole) else decide (whole ≤ part) || part == 0
  (List.range 4).any fun i =>
    between i && (List.range i).all (fun j => c v j == c b j) && ((List.range 4).filter fun j => decide (i < j)).all fun j => c v j == c a j

/-- The tree of an entry at this node (R240): the union of the paths from the root to every other member. A direction takes
the port of one link die, which of the two the rules leave open (log 4). -/
def State.buildTree (s : State) (m : MemberSet) : McTree × State :=
  let root := s.memberNode m m.root
  let others := ((List.range m.members).filter fun r => decide (r ≠ m.root % m.members)).map fun r => s.memberNode m r
  let reached (dir : Nat × Bool) : Nat :=
    (others.filter fun b => b != s.node && s.onPath root b && s.nextHop b == some dir).length
  let dirs : List (Nat × Bool) := (List.range 8).map fun i => (i / 2, i % 2 == 1)
  let t := s.tick
  let port (i : Nat) : Nat := i + 8 * (Config.freeBits t.1 / 2 ^ i % 2)
  let used := (dirs.zipIdx.map fun q => (port q.2, reached q.1)).filter fun q => decide (0 < q.2)
  let out := (used.map fun q => 2 ^ q.1).sum
  let desc := used.foldl (fun (l : List Nat) q => l.set q.1 q.2) (List.replicate 16 0)
  (⟨out, others.contains s.node, true, 0, if root = s.node then others.length else 0, desc⟩, t.2)

/-- A write of COL_MS_EXT (R237 to R240). -/
def State.msExt (s : State) (v : Word) : State :=
  let k := s.f R.COL_MS_SEL F.COL_MS_SEL_MS
  if s.msetBusy k then s.msBusy
  else
    let n := v.toNat
    let old := s.mset k
    let m : MemberSet := { old with ext := bitsOf n 0 24, root := bitsOf n 24 18, tree := bitOf n 42, valid := bitOf n 43 }
    let good := s.msShape m
    let m := { m with valid := m.valid && good }
    let s := if bitOf n 43 && !good then s.setF R.COL_EVENT F.COL_EVENT_SHAPE 1 else s
    let s := s.setMset k m
    if m.valid && m.tree then
      let t := s.buildTree m
      t.2.setTree k t.1
    else if old.valid && old.tree then s.setTree k { s.tree k with valid := false }
    else s

/-- A write of COL_BIND (R238, R239). -/
def State.bind (s : State) (v : Word) : State :=
  let x := bitsOf v.toNat 0 20
  let r := s.ctx x
  if !r.alloc then s
  else if s.ctxBusy x then s.msBusy
  else s.setCtx x { r with mset := bitsOf v.toNat 20 12 }

def State.vtBase (s : State) (v : Word) : State :=
  let k := s.f R.COL_VT_SEL F.COL_VT_SEL_ENTRY
  s.setVt k { s.vtEntry k with base := bitsOf v.toNat 0 22, die := bitsOf v.toNat 22 3, len := bitsOf v.toNat 25 22 }

/-- A write of COL_VT_VER (R252). -/
def State.vtVer (s : State) (v : Word) : State :=
  let k := s.f R.COL_VT_SEL F.COL_VT_SEL_ENTRY
  s.setVt k { s.vtEntry k with version := bitsOf v.toNat 0 32 }

/-! ### Power, windows, ports, telemetry -/

/-- A write of PWR_POLICY: the reserve holds no more than its capacity. -/
def State.policyWrite (s : State) (v : Word) : State :=
  let s := s.plainWrite true R.PWR_POLICY v
  s.setF R.PWR_RESERVE F.PWR_RESERVE_LEVEL
    (min (s.f R.PWR_RESERVE F.PWR_RESERVE_LEVEL) (1000 * s.f R.PWR_POLICY F.PWR_POLICY_RESERVE_MJ))

/-- A write of TEN_WIN_ENT0: window 0 holds GKIND 0 only (R312). -/
def State.winEnt0 (s : State) (v : Word) : State :=
  let k := s.f R.TEN_WIN_SEL F.TEN_WIN_SEL_WIN
  let old := s.win k
  let n := v.toNat % 2 ^ 35
  let n := if k = 0 ∧ bitOf n 9 = true then putBits n 9 1 (bitsOf old.1.toNat 9 1) else n
  { s with wins := s.wins.set (fun _ => (0, 0)) k (BitVec.ofNat 64 n, old.2) }

def State.winEnt1 (s : State) (v : Word) : State :=
  let k := s.f R.TEN_WIN_SEL F.TEN_WIN_SEL_WIN
  { s with wins := s.wins.set (fun _ => (0, 0)) k ((s.win k).1, v) }

/-- A write of ETH_Pp_CTL: sub-ports the mode has no longer go down. -/
def State.ethCtl (s : State) (open_ : Bool) (p : Nat) (v : Word) : State :=
  let s := s.plainWrite open_ (R.ETH_P_CTL p) v
  (([0, 1] : List Nat).filter fun j => !(s.subPorts p).contains j).foldl (fun (s : State) j => s.ethLost p j false) s

/-- A write of TEL_CTL: periodic captures are due each PERIOD from when they are enabled. -/
def State.telCtl (s : State) (v : Word) : State :=
  let was := s.f R.TEL_CTL F.TEL_CTL_PERIODIC_EN
  let s := s.plainWrite true R.TEL_CTL v
  if was = 0 ∧ s.f R.TEL_CTL F.TEL_CTL_PERIODIC_EN = 1 then
    { s with bh := { s.bh with capDue := s.time + s.f R.TEL_CAP_CFG F.TEL_CAP_CFG_PERIOD } }
  else s

/-- A doorbell (R308): 1 LOAD, 2 RELEASE. -/
def State.doorbell (s : State) (t : Nat) (v : Word) : State :=
  let n := v.toNat
  match bitsOf n 0 3 with
  | 1 => s.doorLoad t (bitsOf n 8 8) (bitsOf n 16 40)
  | 2 => s.doorRelease t (bitsOf n 8 8)
  | _ => s

/-- A write in the block of the injection points. -/
def State.injBlock (s : State) (o : Nat) (v : Word) : State :=
  if o = 0 then s.injCtl v
  else if 0x1000 ≤ o ∧ o < 0x2000 then
    let k := (o - 0x1000) / 0x20
    if o % 0x20 = 0 then s.injWrite k v
    else if (detector k).isSome then s.plainWrite true (Blk.base .inj 0 + o) v
    else s
  else s

/-! ### The effect of a write -/

/-- What a write that was let in does. -/
def State.ctlEffect (s : State) (iss : Issuer) (off : Nat) (v : Word) : State :=
  let open_ := s.lockOpen iss
  let n := v.toNat
  let plain := s.fieldsWrite open_ off v
  match ctlDecode off with
  | none => s
  | some (.cox, p, o) => s.coxBlock p (s.nowOf p) o v false
  | some (.prm, p, o) => if o < 0x200 ∧ o % 8 = 0 then s.stagePatch p (s.nowOf p) (o / 8) false (n % 2 ^ 48) else plain
  | some (.flg, p, o) => s.flgBlock p o v
  | some (.pwrd, d, _) => if s.dieDown d then s else plain
  | some (.pwr, _, o) => if o = 8 then s.policyWrite v else plain
  | some (.fab, _, o) =>
    if 0x1000 ≤ o ∧ o < 0x2000 ∧ o % 0x100 = 0 then s.portCtl open_ ((o - 0x1000) / 0x100) v
    else if o = 0x2008 then s.mcEnt v
    else if 0x2040 ≤ o ∧ o < 0x20C0 then s.mcDesc ((o - 0x2040) / 8) v
    else plain
  | some (.ctx, _, o) =>
    if 0x1000 ≤ o ∧ o < 0x1800 ∧ 8 ≤ o % 0x100 ∧ o % 0x100 < 0x48 then s.recWrite ((o - 0x1000) / 0x100) ((o % 0x100 - 8) / 8) v
    else plain
  | some (.col, _, o) =>
    if o = 0x20 then s.msOrig v else if o = 0x28 then s.msExt v else if o = 0x38 then s.bind v
    else if o = 0x48 then s.vtBase v else if o = 0x50 then s.vtVer v else plain
  | some (.scb, k, o) =>
    if o = 8 then s.plainWrite open_ off (BitVec.ofNat 64 (n - n % 64))
    else if o = 0x10 then
      let op := bitsOf n 36 2
      if op = 1 ∨ op = 2 then s.passCommand k op (bitsOf n 0 36) else s
    else plain
  | some (.mnt, _, o) =>
    if o = 8 then s.maintWrite iss (bitsOf n 0 3) (bitsOf n 8 8) (bitsOf n 16 48) none
    else if o = 0x140 then s.fenceRequest (bitsOf n 0 4) (bitsOf n 8 12) (bitOf n 4)
    else plain
  | some (.snp, _, o) => if o = 0x10 then s.snpCommand v else plain
  | some (.ten, _, o) =>
    if o = 0x1008 then s.winEnt0 v else if o = 0x1010 then s.winEnt1 v
    else if 0x100 ≤ o ∧ o < 0x300 ∧ o % 0x40 = 0x18 then s.doorbell ((o - 0x100) / 0x40) v
    else if 0x100 ≤ o ∧ o < 0x300 ∧ o % 0x40 = 0x20 then s.doJobEnd ((o - 0x100) / 0x40) (n % 2 ^ 32)
    else plain
  | some (.eth, _, o) => if o < 0x400 ∧ o % 0x100 = 0 then s.ethCtl open_ (o / 0x100) v else plain
  | some (.bh, _, o) => if o = 0x10 then s.bhCommand v else plain
  | some (.err, _, o) =>
    if 0x100 ≤ o ∧ o < 0x1A0 ∧ o % 0x10 = 8 then
      (if n % 2 ^ 40 ≤ s.f (R.ERR_RING_WSEQ ((o - 0x100) / 0x10)) F.ERR_RING_WSEQ_SEQ then plain else s)
    else plain
  | some (.inj, _, o) => s.injBlock o v
  | some (.tel, _, o) => if o = 0 then s.telCtl v else if o = 8 then s.trigWrite v else plain
  | some _ => plain

/-- The write of a packet, a core or a host once its status is OK: it may wait for a clock or a takeover. -/
def State.ctlServe (s : State) (iss : Issuer) (off : Nat) (v : Word) : State :=
  match s.waitsFor off with
  | some d => s.joinWait d iss off 8 (some v)
  | none => s.ctlEffect iss off v

/-- The same, as the operations on packets and AE commands take it. -/
def ctlPacket (s : State) (off : Nat) (v : Word) : State := s.ctlServe (.packet 0 0 0) off v

/-- The accesses that waited for a die's clock, or, as 8, for a takeover, are served in order. -/
def State.serveWaits (s : State) (d : Nat) : State :=
  let l := s.waits.filter fun w => w.die == d
  l.foldl (fun (s : State) (w : WaitAccess) =>
    match w.v with
    | some v => (match w.img with
        | some img => s.maintWrite w.iss (bitsOf v.toNat 0 3) (bitsOf v.toNat 8 8) (bitsOf v.toNat 16 48) (some img)
        | none => s.ctlEffect w.iss w.off v).emit (.answer w.iss w.off sOK 0)
    | none => s.emit (.answer w.iss w.off sOK (s.view w.off)))
    { s with waits := s.waits.filter fun w => w.die != d }

/-! ### The commands that are writes -/

/-- REGISTER_WRITE. -/
def execRegisterWrite (iss : Issuer) (off size : Nat) (v : Word) (s : State) : Res :=
  .next (s.ctlIn iss off size v fun s => s.ctlEffect iss off v)

/-- A write in a die cycle x that has not passed. -/
def State.atCycle (s : State) (p x : Nat) (t : State) : Res :=
  State.when (decide (s.nowOf p ≤ x)) "the cycle has passed" (t.clock (dieOf p) x)

/-- HEAT_POST (R165). -/
def execHeatPost (iss : Issuer) (p : Pos) (x : Nat) (heat : Nat) (s : State) : Res :=
  s.atCycle p x (s.ctlIn iss (R.COX_HEAT_POST p) 8 (BitVec.ofNat 64 (heat % 65536)) fun s => s.doPost p (heat % 65536) x false)

def patchWord (add : Bool) (prm v : Nat) : Word := fields [(v % 2 ^ 48, 0), (prm, 48), (b2n add, 54)]

/-- COX_PATCH_WRITE (R154). -/
def execCoxPatchWrite (iss : Issuer) (p : Pos) (x : Nat) (add : Bool) (prm : Fin 64) (v : Nat) (s : State) : Res :=
  s.atCycle p x (s.ctlIn iss (R.COX_PATCH p) 8 (patchWord add prm v) fun s => s.stagePatch p x prm add (v % 2 ^ 48))

/-- PRM_WRITE (R154). -/
def execPrmWrite (iss : Issuer) (p : Pos) (x : Nat) (prm : Fin 64) (v : Word) (s : State) : Res :=
  s.atCycle p x (s.ctlIn iss (R.PRM p prm) 8 v fun s => s.stagePatch p x prm false (v.toNat % 2 ^ 48))

/-- FLAG_STORE (R189): an 8 B store to a flag word sets or clears it. SRC tells a remote node's store from one of this
node. -/
def State.flagStoreIn (s : State) (iss : Issuer) (p n x : Nat) (v : Word) : State :=
  let off := p * 2 ^ 13 + 8 * n
  let a := s.accessStatus iss (s.hostTen iss) aWrite 3 off 8 v
  if a.1 ≠ sOK then a.2.emit (.answer iss off a.1 0)
  else (a.2.storeFlag p n x (match iss with | .packet _ _ src => if src = s.node then 2 else 3 | _ => 2) v.toNat).emit
    (.answer iss off sOK 0)

def execFlagStore (iss : Issuer) (p : Pos) (n : Fin 1024) (x : Nat) (v : Word) (s : State) : Res :=
  s.atCycle p x (s.flagStoreIn iss p n x v)

/-- FLAG_UNPOISON (R206): 1 is written to the flag's bit of FLG_POISON. -/
def execFlagUnpoison (iss : Issuer) (p : Pos) (n : Fin 1024) (x : Nat) (s : State) : Res :=
  s.atCycle p x (s.ctlIn iss (R.FLG_POISON p (n / 64)) 8 (BitVec.ofNat 64 (2 ^ (n.val % 64))) fun s =>
    s.unpoison p (n / 64) (2 ^ (n.val % 64)))

/-- CTX_REC_WRITE (R232). -/
def execCtxRecWrite (iss : Issuer) (w : Fin 8) (k : Fin 8) (v : Word) (s : State) : Res :=
  .next (s.ctlIn iss (R.CTX_WIN_REC w k) 8 v fun s => s.recWrite w k v)

/-- FAB_MC_ENT write (R235). -/
def execFabMcEntWrite (iss : Issuer) (v : Word) (s : State) : Res := .next (s.ctlIn iss R.FAB_MC_ENT 8 v fun s => s.mcEnt v)

/-- COL_MS_ORIG write (R239). -/
def execColMsOrigWrite (iss : Issuer) (v : Word) (s : State) : Res := .next (s.ctlIn iss R.COL_MS_ORIG 8 v fun s => s.msOrig v)

/-- COL_MS_EXT write (R237, R239, R240). -/
def execColMsExtWrite (iss : Issuer) (v : Word) (s : State) : Res := .next (s.ctlIn iss R.COL_MS_EXT 8 v fun s => s.msExt v)

/-- COL_BIND (R238). -/
def execColBind (iss : Issuer) (v : Word) (s : State) : Res := .next (s.ctlIn iss R.COL_BIND 8 v fun s => s.bind v)

/-- COL_VT_VER write (R252). -/
def execColVtVerWrite (iss : Issuer) (v : Word) (s : State) : Res := .next (s.ctlIn iss R.COL_VT_VER 8 v fun s => s.vtVer v)

/-! ### Waking accesses and the end of waits (R24, R36, R187) -/

/-- CORE_REGISTER_WAKE (R36): a register of a core whose cluster is in GATED or RETAIN is read or written; the cluster's state
stays. -/
def State.doCoreWake (s : State) (off : Nat) (iss : Issuer) (v : Option Word) : State :=
  match v with
  | some v => s.ctlIn iss off 8 v fun s => s.ctlEffect iss off v
  | none =>
    let a := s.accessStatus iss (s.hostTen iss) aRead 2 off 8 0
    let s := a.2
    if a.1 ≠ sOK then s.emit (.answer iss off a.1 0)
    else match s.waitsFor off with
      | some d => s.joinWait d iss off 8 none
      | none => s.emit (.answer iss off sOK (s.view off))

def execCoreRegisterWake (p : Pos) (iss : Issuer) (off : Nat) (v : Option Word) (s : State) : Res :=
  let here := match ctlDecode off with | some (b, i, _) => coreBlk b && i == p.val | none => false
  let c := s.cluster (dieOf p) (p.val / 8 % 4)
  State.when (here && !s.dieDown (dieOf p) && (c == 1 || c == 2)) "the core's cluster is not in GATED or RETAIN"
    (s.doCoreWake off iss v)

/-- PLL_RELOCK (R36, R187): the clock is back within 15 µs, and the accesses that waited for it are served. -/
def State.doRelock (s : State) (d ns : Nat) : State :=
  let s := ((s.setF (R.CLK_STAT d) F.CLK_STAT_STOPPED 0).setF (R.CLK_STAT d) F.CLK_STAT_LOCKED 1).bump (R.CLK_CNT_RELOCK_NS d) ns
  (s.setDie d { s.die d with idleFrom := s.time }).serveWaits d

def execPllRelock (d : Die) (ns : Nat) (s : State) : Res :=
  State.when (!s.dieDown d && s.f (R.CLK_STAT d) F.CLK_STAT_LOCKED == 0 && s.pins.refclk && decide (ns ≤ 15000))
    "the die's PLL is locked, or cannot lock" (s.doRelock d ns)

/-- TAKEOVER_COMPLETE (R24): the waiting accesses are served by the new active pair. -/
def execTakeoverComplete (s : State) : Res :=
  State.when s.bh.takeover "no takeover is in progress" (s.doTakeover.serveWaits 8)

end Sys2Proof.Machine
end

