-- ==== Sys2Proof/Machine/Host.lean ====
section
/-! DEFINITION. The commands whose effect may be a write of a control register: slots and pieces of the access engine, puts
that arrive, job starts, and the RDMA operations of hosts (R104, R119, R222, R235, R246, R308, R314, R315). -/

namespace Sys2Proof.Machine

open Sys2Proof

/-! ### Access engine -/

/-- AE_SLOT_GRANT (R115, R117 to R119). -/
def execAeSlotGrant (p : Pos) (x : Nat) (s : State) : Res :=
  match s.grantee p x with
  | none => .refused (.notEnabled "no command can take a slot")
  | some c => State.when (decide (s.aeSlots p < 48) && decide (c.issue < x)) "no slot is free"
      ((s.doGrant ctlPacket p x c).clock (dieOf p) x)

/-- SCRATCH_PIECE (R104). -/
def execScratchPiece (p : Pos) (x : Nat) (s : State) : Res :=
  let s := s.settle p x
  match s.nextPiece p x with
  | none => .refused (.notEnabled "no piece can move in this cycle")
  | some q => .next ((s.doPiece ctlPacket p x q).clock (dieOf p) x)

/-- TILE_LAND (R116): a tile lands, or a put that found no room for its signal is offered again (R200). -/
def execTileLand (p : Pos) (x : Nat) (id : Nat) (s : State) : Res :=
  match s.aeCmd p id with
  | none => .refused (.notEnabled "no such command")
  | some c => State.when (c.phase == .moved && decide (c.rdy ≤ x)) "the command's data is not in place"
      ((if c.kind.isPut then s.putGo ctlPacket p x id else s.doTileLand p x c).clock (dieOf p) x)

/-! ### Puts that arrive -/

/-- PUT (R195, R222). -/
def execPut (k : Packet) (s : State) : Res :=
  State.whenWf k.wf (decide (k.op ≤ 0x01) && k.dst == s.node && !isPiece k) "not a put for this node" (s.doPutPacket ctlPacket k)

/-- PERMUTE_PIECE (R246). -/
def execPermutePiece (k : Packet) (s : State) : Res :=
  State.whenWf k.wf (decide (k.op ≤ 0x01) && k.dst == s.node && isPiece k) "not a permute piece for this node"
    (s.doPutPacket ctlPacket k)

/-- PUT_MC (R235). -/
def execPutMc (k : Packet) (s : State) : Res :=
  State.whenWf k.wf (k.op == 0x02 && k.mcast) "not a multicast put" (s.doPutMc ctlPacket k)

/-! ### Jobs -/

/-- JOB_START (R308). -/
def execJobStart (t : Ten) (s : State) : Res :=
  match s.startable t with
  | none => .refused (.notEnabled "no admitted job can start")
  | some j => .next (s.doJobStart ctlPacket t j)

/-! ### RDMA (R309, R314, R315) -/

/-- Packets of a message of `n` bytes, at a path MTU of 4,096 B. -/
def psnSpan (n : Nat) : Nat := max 1 (ceilDiv n 4096)

/-- Payload bytes of a tenancy's queue pairs are counted for attribution (R182). -/
def State.hostBytes (s : State) (t n : Nat) : State :=
  let b := s.netBytes.get (fun _ => (0, 0)) t
  { s with netBytes := s.netBytes.set (fun _ => (0, 0)) t (b.1, b.2 + n) }

/-- An earlier write of a queue pair still waits: what must come after it waits too (R315). -/
def State.hostWaits (s : State) (qp : Nat) : Bool :=
  s.waits.any fun w => match w.iss with | .host q _ => q == qp | _ => false

/-- A remote access error NAK (R309, R311). -/
def State.accessNak (s : State) (qp psn : Nat) : State :=
  (s.setF (R.ETH_P_EVENT (qpPort qp)) F.ETH_P_EVENT_NAK_ACCESS 1).nak qp psn 2

/-- The status of an RDMA operation: that of its access, of a locked package area, and of the way to its target. -/
def State.hostAccess (s : State) (iss : Issuer) (qp kind space off len : Nat) (v : Word) : Nat × State :=
  let g := s.accessStatus iss (s.hostTen iss) kind space off len v
  if g.1 ≠ sOK then g
  else
    let t := targetOf space off len
    let locked := match t with | .hbm d l => kind == aWrite && g.2.packageLocked d l len | _ => false
    if locked then (sDENIED, g.2.reject iss space off sDENIED t false)
    else
      let w := g.2.reachable (qpPort qp / 2) t
      (if w.1 then sOK else sNOROUTE, w.2)

/-- RDMA_WRITE. A write of a register that must wait for its die's clock is acknowledged when it is served. -/
def State.doRdmaWrite (s : State) (qp : Nat) (q : QueuePair) (rkey : W32) (a : Nat) (bs : List Byte) : State :=
  let n := psnSpan bs.length
  let s := s.bump (R.ETH_CNT_FRAMES_RX (qpPort qp)) n
  let iss := Issuer.host qp rkey
  let g := s.hostAccess iss qp aWrite (kSpace a) (kOff a) bs.length (BitVec.ofNat 64 (leNat (bs.take 8)))
  if g.1 ≠ sOK then g.2.accessNak qp q.rqPsn
  else
    let s := (g.2.hostBytes q.ten bs.length).setQp qp { q with rqPsn := (q.rqPsn + n) % 2 ^ 24 }
    let ack (s : State) : State :=
      (s.bump (R.ETH_CNT_FRAMES_TX (qpPort qp)) 1).emit (.rdmaAck qp ((q.rqPsn + n - 1) % 2 ^ 24))
    match targetOf (kSpace a) (kOff a) bs.length with
    | .hbm d l => ack (s.hbmWrite d l bs)
    | .spad p off => ack (s.spadWrite p off bs)
    | .flag p m => ack (s.storeFlag p m (s.dieNow p) 2 (leNat bs))
    | .ctl o =>
      let wait := (s.waitsFor o).isSome
      let s := s.ctlServe iss o (BitVec.ofNat 64 (leNat bs))
      if wait then s else ack s
    | .bad => s

def execRdmaWrite (qp : Nat) (rkey : W32) (addr : Word) (data : List Byte) (s : State) : Res :=
  match s.qpUp qp with
  | none => .refused (.notEnabled "no such queue pair is up")
  | some q => State.whenWf (decide (data.length ≤ 2 ^ 31)) (kSpace addr.toNat != 2 || !s.hostWaits qp)
      "an earlier write of the queue pair still waits" (s.doRdmaWrite qp q rkey addr.toNat data)

/-- RDMA_READ. -/
def State.doRdmaRead (s : State) (qp : Nat) (q : QueuePair) (rkey : W32) (a len : Nat) : State :=
  let n := psnSpan len
  let s := s.frameIn (qpPort qp)
  let iss := Issuer.host qp rkey
  let g := s.hostAccess iss qp aRead (kSpace a) (kOff a) len 0
  if g.1 ≠ sOK then g.2.accessNak qp q.rqPsn
  else
    let s := (g.2.hostBytes q.ten len).setQp qp { q with rqPsn := (q.rqPsn + n) % 2 ^ 24 }
    let give (s : State) (bs : List Byte) : State := (s.bump (R.ETH_CNT_FRAMES_TX (qpPort qp)) n).emit (.rdmaData qp q.rqPsn bs)
    match targetOf (kSpace a) (kOff a) len with
    | .hbm d l => let r := s.hbmRead d l len; give r.2 r.1
    | .spad p off => give s (s.spadBytes p off len)
    | .flag p m => give s (s.flagWord p m)
    | .ctl o => match s.waitsFor o with
      | some d => s.joinWait d iss o 8 none
      | none => give s (leBytes 8 (s.view o).toNat)
    | .bad => s

def execRdmaRead (qp : Nat) (rkey : W32) (addr : Word) (len : Nat) (s : State) : Res :=
  match s.qpUp qp with
  | none => .refused (.notEnabled "no such queue pair is up")
  | some q => State.whenWf (decide (len ≤ 2 ^ 31)) (!s.hostWaits qp) "an earlier write of the queue pair still waits"
      (s.doRdmaRead qp q rkey addr.toNat len)

end Sys2Proof.Machine
end

