-- ==== Sys2Proof/Machine/CoxExec.lean ====
section
/-! DEFINITION. The cox (R151, R152): an RV32IMC processor in machine mode, its memories, its window onto its core block,
traps, interrupts and WFI. The control and status registers are those of the RISC-V machine mode (log 11). -/

namespace Sys2Proof.Machine

open Sys2Proof

/-! ### Compressed instructions -/

/-- An `n`-bit number read as signed, in 32 bits. -/
def sx (n v : Nat) : Nat := if bitOf v (n - 1) then v % 2 ^ n + 2 ^ 32 - 2 ^ n else v % 2 ^ n

def encR (f7 rs2 rs1 f3 rd op : Nat) : Nat := f7 * 2 ^ 25 + rs2 * 2 ^ 20 + rs1 * 2 ^ 15 + f3 * 2 ^ 12 + rd * 2 ^ 7 + op
def encI (imm rs1 f3 rd op : Nat) : Nat := imm % 4096 * 2 ^ 20 + rs1 * 2 ^ 15 + f3 * 2 ^ 12 + rd * 2 ^ 7 + op
def encS (imm rs2 rs1 f3 : Nat) : Nat := encR (bitsOf imm 5 7) rs2 rs1 f3 (bitsOf imm 0 5) 0x23
def encB (imm rs1 f3 : Nat) : Nat :=
  encR (bitsOf imm 12 1 * 64 + bitsOf imm 5 6) 0 rs1 f3 (bitsOf imm 1 4 * 2 + bitsOf imm 11 1) 0x63
def encJ (imm rd : Nat) : Nat :=
  (bitsOf imm 20 1 * 2 ^ 19 + bitsOf imm 1 10 * 2 ^ 9 + bitsOf imm 11 1 * 2 ^ 8 + bitsOf imm 12 8) * 2 ^ 12 + rd * 2 ^ 7 + 0x6F

/-- The 32-bit instruction a compressed one of RV32C stands for. -/
def expandC (h : Nat) : Option Nat :=
  let b (i n : Nat) : Nat := bitsOf h i n
  let f3 := b 13 3
  let rd := b 7 5
  let rs2 := b 2 5
  let r1 := 8 + b 7 3
  let r2 := 8 + b 2 3
  let imm6 := sx 6 (b 12 1 * 32 + b 2 5)
  let lw := b 5 1 * 64 + b 10 3 * 8 + b 6 1 * 4
  let jimm := sx 12 (b 12 1 * 2048 + b 8 1 * 1024 + b 9 2 * 256 + b 6 1 * 128 + b 7 1 * 64 + b 2 1 * 32 + b 11 1 * 16 + b 3 3 * 2)
  let bimm := sx 9 (b 12 1 * 256 + b 5 2 * 64 + b 2 1 * 32 + b 10 2 * 8 + b 3 2 * 2)
  match b 0 2, f3 with
  | 0, 0 =>
    let n := b 7 4 * 64 + b 11 2 * 16 + b 5 1 * 8 + b 6 1 * 4
    if n = 0 then none else some (encI n 2 0 r2 0x13)
  | 0, 2 => some (encI lw r1 2 r2 0x03)
  | 0, 6 => some (encS lw r2 r1 2)
  | 1, 0 => some (encI imm6 rd 0 rd 0x13)
  | 1, 1 => some (encJ jimm 1)
  | 1, 2 => some (encI imm6 0 0 rd 0x13)
  | 1, 3 =>
    if rd = 2 then
      let n := sx 10 (b 12 1 * 512 + b 3 2 * 128 + b 5 1 * 64 + b 2 1 * 32 + b 6 1 * 16)
      if n = 0 then none else some (encI n 2 0 2 0x13)
    else if imm6 = 0 then none
    else some (imm6 % 2 ^ 20 * 2 ^ 12 + rd * 2 ^ 7 + 0x37)
  | 1, 4 =>
    let sh := b 12 1 * 32 + b 2 5
    match b 10 2 with
    | 0 => if 32 ≤ sh then none else some (encI sh r1 5 r1 0x13)
    | 1 => if 32 ≤ sh then none else some (encI (1024 + sh) r1 5 r1 0x13)
    | 2 => some (encI imm6 r1 7 r1 0x13)
    | _ =>
      if b 12 1 = 1 then none
      else match b 5 2 with
        | 0 => some (encR 32 r2 r1 0 r1 0x33)
        | 1 => some (encR 0 r2 r1 4 r1 0x33)
        | 2 => some (encR 0 r2 r1 6 r1 0x33)
        | _ => some (encR 0 r2 r1 7 r1 0x33)
  | 1, 5 => some (encJ jimm 0)
  | 1, 6 => some (encB bimm r1 0)
  | 1, 7 => some (encB bimm r1 1)
  | 2, 0 => if b 12 1 = 1 then none else some (encI rs2 rd 1 rd 0x13)
  | 2, 2 =>
    if rd = 0 then none else some (encI (b 2 2 * 64 + b 12 1 * 32 + b 4 3 * 4) 2 2 rd 0x03)
  | 2, 4 =>
    if b 12 1 = 0 then
      if rs2 = 0 then (if rd = 0 then none else some (encI 0 rd 0 0 0x67)) else some (encR 0 rs2 0 0 rd 0x33)
    else if rs2 = 0 then (if rd = 0 then some 0x00100073 else some (encI 0 rd 0 1 0x67))
    else some (encR 0 rs2 rd 0 rd 0x33)
  | 2, 6 => some (encS (b 7 2 * 64 + b 9 4 * 4) rs2 2 2)
  | _, _ => none

/-! ### Registers and arithmetic -/

def Cox.x (c : Cox) (n : Nat) : W32 := if n = 0 then 0 else c.xs.get (fun _ => 0) n
def Cox.setX (c : Cox) (n : Nat) (v : W32) : Cox := if n = 0 then c else { c with xs := c.xs.set (fun _ => 0) n v }

def b32 (c : Bool) : W32 := if c then 1 else 0

/-- The operations of OP and OP-IMM; `alt` is SUB or an arithmetic shift. -/
def aluOp (f3 : Nat) (alt : Bool) (a b : W32) : W32 :=
  match f3 with
  | 0 => if alt then a - b else a + b
  | 1 => a <<< (b.toNat % 32)
  | 2 => b32 (a.slt b)
  | 3 => b32 (a.ult b)
  | 4 => a ^^^ b
  | 5 => if alt then a.sshiftRight (b.toNat % 32) else a >>> (b.toNat % 32)
  | 6 => a ||| b
  | _ => a &&& b

/-- The operations of M, with its results for a divisor of zero and for overflow. -/
def mulOp (f3 : Nat) (a b : W32) : W32 :=
  match f3 with
  | 0 => a * b
  | 1 => BitVec.ofInt 32 (a.toInt * b.toInt / 2 ^ 32)
  | 2 => BitVec.ofInt 32 (a.toInt * (b.toNat : Int) / 2 ^ 32)
  | 3 => BitVec.ofNat 32 (a.toNat * b.toNat / 2 ^ 32)
  | 4 => if b = 0 then BitVec.allOnes 32 else BitVec.ofInt 32 (a.toInt.tdiv b.toInt)
  | 5 => if b = 0 then BitVec.allOnes 32 else BitVec.ofNat 32 (a.toNat / b.toNat)
  | 6 => if b = 0 then a else BitVec.ofInt 32 (a.toInt.tmod b.toInt)
  | _ => if b = 0 then a else BitVec.ofNat 32 (a.toNat % b.toNat)

/-- Is a branch taken? None for a code RV32 does not define. -/
def branchTaken (f3 : Nat) (a b : W32) : Option Bool :=
  match f3 with
  | 0 => some (a == b)
  | 1 => some (a != b)
  | 4 => some (a.slt b)
  | 5 => some (!a.slt b)
  | 6 => some (a.ult b)
  | 7 => some (!a.ult b)
  | _ => none

/-! ### Control and status registers (log 11) -/

/-- A STAT bit that is set and enabled raises the machine external interrupt. -/
def State.coxIrq (s : State) (p : Nat) : Bool := (s.rd (R.COX_IRQ_STAT p)).toNat &&& (s.rd (R.COX_IRQ_EN p)).toNat != 0

def meiMask : W32 := 0x800

/-- A register's value; none where there is no such register. -/
def State.csr (s : State) (p n : Nat) : Option W32 :=
  let c := s.cox p
  match n with
  | 0x300 => some (c.mstatus ||| 0x1800)
  | 0x301 => some 0x40001104
  | 0x304 => some c.mie
  | 0x305 => some c.mtvec
  | 0x340 => some c.mscratch
  | 0x341 => some c.mepc
  | 0x342 => some c.mcause
  | 0x343 => some c.mtval
  | 0x344 => some (if s.coxIrq p then meiMask else 0)
  | 0xF11 | 0xF12 | 0xF13 | 0xF14 | 0xF15 => some 0
  | _ => none

def Cox.setCsr (c : Cox) (n : Nat) (v : W32) : Cox :=
  match n with
  | 0x300 => { c with mstatus := v &&& 0x88 }
  | 0x304 => { c with mie := v &&& meiMask }
  | 0x305 => { c with mtvec := if v.toNat % 4 < 2 then v else v &&& ~~~ 3 }
  | 0x340 => { c with mscratch := v }
  | 0x341 => { c with mepc := v &&& ~~~ 1 }
  | 0x342 => { c with mcause := v }
  | 0x343 => { c with mtval := v }
  | _ => c

/-! ### Memory (R151) -/

/-- The size in bytes of a load or store, by the low bits of its function code. -/
def widthOf (f3 : Nat) : Nat := 2 ^ (f3 % 4)

/-- The bytes of a memory. -/
def memWord (m : NMap Byte) (a n : Nat) : Nat := leNat ((List.range n).map fun i => m.get (fun _ => 0) (a + i))

def memPut (m : NMap Byte) (a n v : Nat) : NMap Byte :=
  ((leBytes n v).zipIdx).foldl (fun (m : NMap Byte) q => m.set (fun _ => 0) (a + q.2) q.1) m

/-- A register's offset in the core block, and whether an address is its upper half. -/
def coxReg (a : Nat) : Nat × Bool := (a % 0x4000 / 8 * 8, a % 8 == 4)

/-- A write of a register of the cox's own core block, in cycle x. -/
def State.coxWrite (s : State) (p x reg : Nat) (v : Word) : State :=
  if reg < 0x800 then s.coxBlock p x reg v true
  else if reg < 0xA00 then s.stagePatch p x ((reg - 0x800) / 8) false (v.toNat % 2 ^ 48)
  else if 0x3000 ≤ reg then s.flgBlock p (reg - 0x3000) v
  else s.plainWrite true (Blk.base .cox p + reg) v

/-- A register with one half replaced and the other unchanged: W1C bits of the other half are not written. -/
def State.halfWord (s : State) (p reg : Nat) (upper : Bool) (v : W32) : Word :=
  let a := Blk.base .cox p + reg
  let m := match regRow a with | some q => w1cMask q.2.2.2.1 | none => 0
  let old := (s.view a).toNat - ((s.view a).toNat &&& m)
  BitVec.ofNat 64 (if upper then v.toNat * 2 ^ 32 + old % 2 ^ 32 else old / 2 ^ 32 * 2 ^ 32 + v.toNat)

/-- A held lower half that an access other than the store of its upper half follows applies alone. -/
def State.flushHalf (s : State) (p x : Nat) : State :=
  match (s.cox p).half with
  | none => s
  | some h => (s.setCox p { s.cox p with half := none }).coxWrite p x h.1 (s.halfWord p h.1 false h.2)

/-- Does a write of a register meet a full patch queue (R154)? -/
def State.patchStall (s : State) (p reg : Nat) : Bool :=
  (reg == 0x30 || (decide (0x800 ≤ reg) && decide (reg < 0xA00))) && s.patchFull p

/-- A load of the core block: a lower half latches the upper one. -/
def State.blockLoad (s : State) (p x a : Nat) : W32 × State :=
  let s := s.flushHalf p x
  let r := coxReg a
  let v := (s.view (Blk.base .cox p + r.1)).toNat
  if r.2 then
    let hi := match (s.cox p).latch with
      | some l => if l.1 = r.1 then l.2 else BitVec.ofNat 32 (v / 2 ^ 32)
      | none => BitVec.ofNat 32 (v / 2 ^ 32)
    (hi, s.setCox p { s.cox p with latch := none })
  else (BitVec.ofNat 32 v, s.setCox p { s.cox p with latch := some (r.1, BitVec.ofNat 32 (v / 2 ^ 32)) })

/-- A store to the core block: a lower half is held for its upper one. -/
def State.blockStore (s : State) (p x a : Nat) (v : W32) : State :=
  let r := coxReg a
  let s := s.setCox p { s.cox p with latch := none }
  if r.2 then
    match (s.cox p).half with
    | some h =>
      if h.1 = r.1 then
        (s.setCox p { s.cox p with half := none }).coxWrite p x r.1 (BitVec.ofNat 64 (v.toNat * 2 ^ 32 + h.2.toNat))
      else
        let s := s.flushHalf p x
        s.coxWrite p x r.1 (s.halfWord p r.1 true v)
    | none => s.coxWrite p x r.1 (s.halfWord p r.1 true v)
  else
    let s := s.flushHalf p x
    s.setCox p { s.cox p with half := some (r.1, v) }

/-- Would an access to the core block write to a full patch queue? -/
def State.blockStall (s : State) (p a : Nat) (store : Bool) : Bool :=
  let r := coxReg a
  let c := s.cox p
  let own := match c.half with | some h => h.1 == r.1 && r.2 && store | none => false
  let flush := match c.half with | some h => !own && s.patchStall p h.1 | none => false
  flush || (store && r.2 && s.patchStall p r.1)

/-! ### One instruction -/

/-- What an instruction comes to: it retires, with a register's new value and the next pc; it traps, with a cause and value;
or its store waits for a full patch queue. -/
inductive CoxRes where
  | ok (s : State) (rd : Nat) (v : W32) (pc : W32)
  | trap (s : State) (cause : Nat) (val : W32)
  | stall

/-- The kind of place an address range lies in: 0 IMEM, 1 DMEM, 2 the core block. -/
def coxPlace (a n : Nat) : Option Nat :=
  if a + n ≤ 0x8000 then some 0
  else if 0x10000000 ≤ a ∧ a + n ≤ 0x10010000 then some 1
  else if 0x20000000 ≤ a ∧ a + n ≤ 0x20004000 then some 2
  else none

/-- A loaded value extended to 32 bits. -/
def loadExt (f3 v : Nat) : W32 :=
  match f3 with
  | 0 => BitVec.ofNat 32 (sx 8 v)
  | 1 => BitVec.ofNat 32 (sx 16 v)
  | _ => BitVec.ofNat 32 v

def State.coxLoad (s : State) (p x f3 rd : Nat) (a pc : W32) : CoxRes :=
  let n := widthOf f3
  let c := s.cox p
  if f3 = 3 ∨ 5 < f3 then .trap s 2 0
  else if a.toNat % n ≠ 0 then .trap s 4 a
  else match coxPlace a.toNat n with
    | some 0 => .ok s rd (loadExt f3 (memWord c.imem a.toNat n)) pc
    | some 1 => .ok s rd (loadExt f3 (memWord c.dmem (a.toNat - 0x10000000) n)) pc
    | some _ =>
      if n ≠ 4 then .trap s 5 a
      else if s.blockStall p a.toNat false then .stall
      else let r := s.blockLoad p x a.toNat; .ok r.2 rd r.1 pc
    | none => .trap s 5 a

def State.coxStore (s : State) (p x f3 : Nat) (a v pc : W32) : CoxRes :=
  let n := widthOf f3
  let c := s.cox p
  if 2 < f3 then .trap s 2 0
  else if a.toNat % n ≠ 0 then .trap s 6 a
  else match coxPlace a.toNat n with
    | some 1 => .ok (s.setCox p { c with dmem := memPut c.dmem (a.toNat - 0x10000000) n v.toNat }) 0 0 pc
    | some 2 =>
      if n ≠ 4 then .trap s 7 a
      else if s.blockStall p a.toNat true then .stall
      else .ok (s.blockStore p x a.toNat v) 0 0 pc
    | _ => .trap s 7 a

/-- ECALL, EBREAK, MRET, WFI and the CSR instructions. -/
def State.coxSystem (s : State) (p i : Nat) (next : W32) : CoxRes :=
  let c := s.cox p
  let rd := bitsOf i 7 5
  let rs1 := bitsOf i 15 5
  let n := bitsOf i 20 12
  let f3 := bitsOf i 12 3
  let ill : CoxRes := .trap s 2 (BitVec.ofNat 32 i)
  if f3 = 0 then
    if i = 0x00000073 then .trap s 11 0
    else if i = 0x00100073 then .trap s 3 c.pc
    else if i = 0x30200073 then
      let mie : W32 := (c.mstatus >>> 4) &&& 0x8
      .ok (s.setCox p { c with mstatus := mie ||| 0x80, inTrap := false }) 0 0 c.mepc
    else if i = 0x10500073 then .ok (s.setCox p { c with wfi := !(s.coxIrq p && c.mie &&& meiMask != 0) }) 0 0 next
    else ill
  else if f3 = 4 then ill
  else match s.csr p n with
    | none => ill
    | some old =>
      let src : W32 := if 4 ≤ f3 then BitVec.ofNat 32 rs1 else c.x rs1
      let writes := f3 % 4 == 1 || rs1 != 0
      let v : W32 := match f3 % 4 with | 1 => src | 2 => old ||| src | _ => old &&& ~~~ src
      if writes && decide (0xC00 ≤ n) then ill
      else .ok (if writes then s.setCox p (c.setCsr n v) else s) rd old next

/-- One 32-bit instruction at pc, `len` bytes long as fetched. -/
def State.coxInsn (s : State) (p x i len : Nat) : CoxRes :=
  let c := s.cox p
  let pc := c.pc
  let next := pc + BitVec.ofNat 32 len
  let rd := bitsOf i 7 5
  let f3 := bitsOf i 12 3
  let a := c.x (bitsOf i 15 5)
  let b := c.x (bitsOf i 20 5)
  let f7 := bitsOf i 25 7
  let w (n : Nat) : W32 := BitVec.ofNat 32 n
  let immI := w (sx 12 (bitsOf i 20 12))
  let immS := w (sx 12 (f7 * 32 + rd))
  let immB := w (sx 13 (bitsOf i 31 1 * 4096 + bitsOf i 7 1 * 2048 + bitsOf i 25 6 * 32 + bitsOf i 8 4 * 2))
  let immU := w (bitsOf i 12 20 * 4096)
  let immJ := w (sx 21 (bitsOf i 31 1 * 2 ^ 20 + bitsOf i 12 8 * 4096 + bitsOf i 20 1 * 2048 + bitsOf i 21 10 * 2))
  let ill : CoxRes := .trap s 2 (w i)
  match bitsOf i 0 7 with
  | 0x37 => .ok s rd immU next
  | 0x17 => .ok s rd (pc + immU) next
  | 0x6F => .ok s rd next (pc + immJ)
  | 0x67 => if f3 = 0 then .ok s rd next ((a + immI) &&& ~~~ 1) else ill
  | 0x63 => match branchTaken f3 a b with
    | some t => .ok s 0 0 (if t then pc + immB else next)
    | none => ill
  | 0x03 => match s.coxLoad p x f3 rd (a + immI) next with
    | .trap s 2 _ => .trap s 2 (w i)
    | r => r
  | 0x23 => match s.coxStore p x f3 (a + immS) b next with
    | .trap s 2 _ => .trap s 2 (w i)
    | r => r
  | 0x13 =>
    if f3 = 1 ∧ f7 ≠ 0 then ill
    else if f3 = 5 ∧ f7 ≠ 0 ∧ f7 ≠ 32 then ill
    else .ok s rd (aluOp f3 (f3 == 5 && f7 == 32) a immI) next
  | 0x33 =>
    if f7 = 1 then .ok s rd (mulOp f3 a b) next
    else if f7 = 0 then .ok s rd (aluOp f3 false a b) next
    else if f7 = 32 ∧ (f3 = 0 ∨ f3 = 5) then .ok s rd (aluOp f3 true a b) next
    else ill
  | 0x0F => if f3 = 0 then .ok s 0 0 next else ill
  | 0x73 => s.coxSystem p i next
  | _ => ill

/-- The instruction at pc: its bytes lie in IMEM, a compressed one stands for a longer one. -/
def State.coxFetch (s : State) (p x : Nat) : CoxRes :=
  let c := s.cox p
  let a := c.pc.toNat
  if ¬ a + 2 ≤ 0x8000 then .trap s 1 c.pc
  else
    let h := memWord c.imem a 2
    if h % 4 = 3 then
      if ¬ a + 4 ≤ 0x8000 then .trap s 1 c.pc else s.coxInsn p x (memWord c.imem a 4) 4
    else match expandC h with
      | some i => s.coxInsn p x i 2
      | none => .trap s 2 (BitVec.ofNat 32 h)

/-! ### Traps and interrupts (R152) -/

/-- A trap is taken: a second one before the first handler's MRET halts the cox. -/
def State.coxTrap (s : State) (p cause : Nat) (val : W32) (irq second inj : Bool) : State :=
  let c := s.cox p
  if c.inTrap || second then
    let s := s.setCox p { c with halted := true, wfi := false }
    let s := s.wr (R.COX_TRAP p) (fields [(c.pc.toNat, 0), (cause % 32, 32)])
    let s := s.setF (R.COX_EVENT p) F.COX_EVENT_TRAP 1
    let o := occ 0x29 kCore p c.pc.toNat cause
    s.record (if inj then s.injected o else o)
  else
    let base : W32 := c.mtvec &&& ~~~ 3
    let target := if irq ∧ c.mtvec.toNat % 4 = 1 then base + BitVec.ofNat 32 (4 * cause) else base
    let mpie : W32 := (c.mstatus &&& 0x8) <<< 4
    s.setCox p { c with
      mepc := c.pc, mcause := BitVec.ofNat 32 (cause + (if irq then 2 ^ 31 else 0)), mtval := val, mstatus := mpie
      pc := target, inTrap := true, wfi := false }

/-- One step of a cox in cycle x: it wakes, takes an interrupt, or executes an instruction. -/
def State.doCox (s : State) (p x : Nat) : State :=
  let s := s.setCox p { s.cox p with next := x + 1 }
  let i := s.inject 0x29 kCore p
  let s := i.2
  match i.1 with
  | some syn => s.coxTrap p (syn % 32) 0 false true true
  | none =>
    let c := s.cox p
    let irq := s.coxIrq p && c.mie &&& meiMask != 0
    if irq && c.mstatus &&& 0x8 != 0 then s.coxTrap p 11 0 true false false
    else
      let s := if c.wfi then s.setCox p { c with wfi := false } else s
      match s.coxFetch p x with
      | .ok s rd v pc => (s.setCox p { (s.cox p).setX rd v with pc := pc }).bump (R.COX_CNT_INSTR p) 1
      | .trap s cause val => s.coxTrap p cause val false false false
      | .stall => s.setF (R.COX_EVENT p) F.COX_EVENT_PATCH_STALL 1

/-- May a cox complete an instruction in cycle x: it runs, its die is clocked, it waits neither for an interrupt nor for a
post of its own? -/
def State.coxReady (s : State) (p x : Nat) : Bool :=
  let c := s.cox p
  let d := dieOf p
  s.f (R.COX_CTL p) F.COX_CTL_RUN == 1 && !c.halted && !s.coreClosed p && decide (s.cluster d (p / 8 % 4) < 2) &&
    s.f (R.CLK_STAT d) F.CLK_STAT_STOPPED == 0 && decide (c.next ≤ x) && decide ((s.die d).now ≤ x) &&
    (!c.wfi || (s.coxIrq p && c.mie &&& meiMask != 0)) &&
    !(s.die d).postWait.any fun w => w.1 == p && w.2.2

/-- COX_INSTRUCTION. -/
def execCoxInstruction (p : Pos) (x : Nat) (s : State) : Res :=
  State.when (s.coxReady p x) "the cox does not execute in this cycle" ((s.doCox p x).clock (dieOf p) x)

end Sys2Proof.Machine
end

