-- ==== Sys2Proof/Machine/Dispatch.lean ====
section
/-! DEFINITION. Every command to its meaning. -/

namespace Sys2Proof.Machine

open Sys2Proof

/-- A command's effect on everything but the queue. -/
def exec (i : Instr) (s : State) : Host.Outcome State Fault Refusal :=
  match i with
  | .vin36InRange t => Sys2Proof.Machine.execVin36InRange t s
  | .announcementResend => Sys2Proof.Machine.execAnnouncementResend s
  | .romRecoveryImage img t => Sys2Proof.Machine.execRomRecoveryImage img t s
  | .vinRange mv => Sys2Proof.Machine.execVinRange mv s
  | .vinRangeRelease => Sys2Proof.Machine.execVinRangeRelease s
  | .undervoltageShutdown => Sys2Proof.Machine.execUndervoltageShutdown s
  | .undervoltageRecovery t => Sys2Proof.Machine.execUndervoltageRecovery t s
  | .overvoltageShutdown mv => Sys2Proof.Machine.execOvervoltageShutdown mv s
  | .alwaysOnStop => Sys2Proof.Machine.execAlwaysOnStop s
  | .resetNAssert => Sys2Proof.Machine.execResetNAssert s
  | .resetNRelease t => Sys2Proof.Machine.execResetNRelease t s
  | .aoRefclkLoss => Sys2Proof.Machine.execAoRefclkLoss s
  | .aoRefclkReturn => Sys2Proof.Machine.execAoRefclkReturn s
  | .srefclkLoss k => Sys2Proof.Machine.execSrefclkLoss k s
  | .srefclkReturn k ports eth => Sys2Proof.Machine.execSrefclkReturn k ports eth s
  | .lockstepMismatch => Sys2Proof.Machine.execLockstepMismatch s
  | .heartbeatMiss => Sys2Proof.Machine.execHeartbeatMiss s
  | .takeoverComplete => Sys2Proof.Machine.execTakeoverComplete s
  | .boathouseLost => Sys2Proof.Machine.execBoathouseLost s
  | .registerWrite iss off size v => Sys2Proof.Machine.execRegisterWrite iss off size v s
  | .coreRegisterWake p iss off v => Sys2Proof.Machine.execCoreRegisterWake p iss off v s
  | .opOuter p e x o => Sys2Proof.Machine.execOpOuter p e x o s
  | .productCycle p e x => Sys2Proof.Machine.execProductCycle p e x s
  | .productCycleLand p e x => Sys2Proof.Machine.execProductCycleLand p e x s
  | .opCatch p e x => Sys2Proof.Machine.execOpCatch p e x s
  | .opDrain p e x o => Sys2Proof.Machine.execOpDrain p e x o s
  | .drainRow p e x => Sys2Proof.Machine.execDrainRow p e x s
  | .drainTileComplete p e x => Sys2Proof.Machine.execDrainTileComplete p e x s
  | .opLoad p e x o => Sys2Proof.Machine.execOpLoad p e x o s
  | .loadRow p e x => Sys2Proof.Machine.execLoadRow p e x s
  | .opRow p e x o => Sys2Proof.Machine.execOpRow p e x o s
  | .rowOpRow p e x => Sys2Proof.Machine.execRowOpRow p e x s
  | .opChain p e x o => Sys2Proof.Machine.execOpChain p e x o s
  | .chainRow p e x => Sys2Proof.Machine.execChainRow p e x s
  | .vecArith p x op dst a b c => Sys2Proof.Machine.execVecArith p x op dst a b c s
  | .vecCvt p x dst src fromF toF => Sys2Proof.Machine.execVecCvt p x dst src fromF toF s
  | .vecTranscendental p x op dst src => Sys2Proof.Machine.execVecTranscendental p x op dst src s
  | .vecReduce p x op dst src base => Sys2Proof.Machine.execVecReduce p x op dst src base s
  | .vecLd p x reg desc => Sys2Proof.Machine.execVecLd p x reg desc s
  | .vecSt p x reg desc => Sys2Proof.Machine.execVecSt p x reg desc s
  | .vecResultLand p x => Sys2Proof.Machine.execVecResultLand p x s
  | .scratchPiece p x => Sys2Proof.Machine.execScratchPiece p x s
  | .tileFetch p x o => Sys2Proof.Machine.execTileFetch p x o s
  | .tilePut p x o => Sys2Proof.Machine.execTilePut p x o s
  | .tileGather p x o => Sys2Proof.Machine.execTileGather p x o s
  | .tileRelay p x o => Sys2Proof.Machine.execTileRelay p x o s
  | .tileDrop p x o => Sys2Proof.Machine.execTileDrop p x o s
  | .tileUnpin p x o => Sys2Proof.Machine.execTileUnpin p x o s
  | .aeSlotGrant p x => Sys2Proof.Machine.execAeSlotGrant p x s
  | .tokenRefill p x => Sys2Proof.Machine.execTokenRefill p x s
  | .quotaRelease p x id => Sys2Proof.Machine.execQuotaRelease p x id s
  | .mergeTimeout p x => Sys2Proof.Machine.execMergeTimeout p x s
  | .pcServe k pc x => Sys2Proof.Machine.execPcServe k pc x s
  | .bankqRetry p x id => Sys2Proof.Machine.execBankqRetry p x id s
  | .tileLand p x id => Sys2Proof.Machine.execTileLand p x id s
  | .relayHop p x => Sys2Proof.Machine.execRelayHop p x s
  | .zeroProbeResult p x id => Sys2Proof.Machine.execZeroProbeResult p x id s
  | .flagSet p x a => Sys2Proof.Machine.execFlagSet p x a s
  | .flagClear p x a => Sys2Proof.Machine.execFlagClear p x a s
  | .fenceLocal p x => Sys2Proof.Machine.execFenceLocal p x s
  | .fenceFabric p x => Sys2Proof.Machine.execFenceFabric p x s
  | .fenceRelease p x => Sys2Proof.Machine.execFenceRelease p x s
  | .fenceWatchdogExpire p => Sys2Proof.Machine.execFenceWatchdogExpire p s
  | .heatForecast p remove mj leadUs lenUs => Sys2Proof.Machine.execHeatForecast p remove mj leadUs lenUs s
  | .forecastLapse d => Sys2Proof.Machine.execForecastLapse d s
  | .atomAdd p x o => Sys2Proof.Machine.execAtomAdd p x o s
  | .atomAnd p x o => Sys2Proof.Machine.execAtomAnd p x o s
  | .atomOr p x o => Sys2Proof.Machine.execAtomOr p x o s
  | .atomXor p x o => Sys2Proof.Machine.execAtomXor p x o s
  | .atomUmax p x o => Sys2Proof.Machine.execAtomUmax p x o s
  | .atomUmin p x o => Sys2Proof.Machine.execAtomUmin p x o s
  | .atomSwap p x o => Sys2Proof.Machine.execAtomSwap p x o s
  | .atomCas p x o => Sys2Proof.Machine.execAtomCas p x o s
  | .collAllreduce p x o => Sys2Proof.Machine.execCollAllreduce p x o s
  | .collRscatter p x o => Sys2Proof.Machine.execCollRscatter p x o s
  | .collAllgather p x o => Sys2Proof.Machine.execCollAllgather p x o s
  | .collBcast p x o => Sys2Proof.Machine.execCollBcast p x o s
  | .collPermute p x o => Sys2Proof.Machine.execCollPermute p x o s
  | .collEpoch p x o => Sys2Proof.Machine.execCollEpoch p x o s
  | .collStart ctx => Sys2Proof.Machine.execCollStart ctx s
  | .epochFenceDrained ctx => Sys2Proof.Machine.execEpochFenceDrained ctx s
  | .collComplete ctx => Sys2Proof.Machine.execCollComplete ctx s
  | .coxInstruction p x => Sys2Proof.Machine.execCoxInstruction p x s
  | .heatPost iss p x heat => Sys2Proof.Machine.execHeatPost iss p x heat s
  | .coxPatchWrite iss p x add prm v => Sys2Proof.Machine.execCoxPatchWrite iss p x add prm v s
  | .prmWrite iss p x prm v => Sys2Proof.Machine.execPrmWrite iss p x prm v s
  | .patchWindow p x => Sys2Proof.Machine.execPatchWindow p x s
  | .replayNear d x => Sys2Proof.Machine.execReplayNear d x s
  | .heatChoice d x => Sys2Proof.Machine.execHeatChoice d x s
  | .heatStart d x => Sys2Proof.Machine.execHeatStart d x s
  | .heatEnd d x => Sys2Proof.Machine.execHeatEnd d x s
  | .gateWatchdogExpire d entry gate => Sys2Proof.Machine.execGateWatchdogExpire d entry gate s
  | .grantRecompute => Sys2Proof.Machine.execGrantRecompute s
  | .bucketWindow frames => Sys2Proof.Machine.execBucketWindow frames s
  | .reserveRefill => Sys2Proof.Machine.execReserveRefill s
  | .oppStep d => Sys2Proof.Machine.execOppStep d s
  | .droopTrip d cl => Sys2Proof.Machine.execDroopTrip d cl s
  | .droopEnd d cycles => Sys2Proof.Machine.execDroopEnd d cycles s
  | .droopSustained d us => Sys2Proof.Machine.execDroopSustained d us s
  | .thermalSample d temps => Sys2Proof.Machine.execThermalSample d temps s
  | .thermalRestore d => Sys2Proof.Machine.execThermalRestore d s
  | .calibration => Sys2Proof.Machine.execCalibration s
  | .driftInterval measured pkg => Sys2Proof.Machine.execDriftInterval measured pkg s
  | .clusterRetain d cl => Sys2Proof.Machine.execClusterRetain d cl s
  | .clusterWake d cl x => Sys2Proof.Machine.execClusterWake d cl x s
  | .pllStop d => Sys2Proof.Machine.execPllStop d s
  | .pllRelock d ns => Sys2Proof.Machine.execPllRelock d ns s
  | .flagStore iss p n x v => Sys2Proof.Machine.execFlagStore iss p n x v s
  | .flagUnpoison iss p n x => Sys2Proof.Machine.execFlagUnpoison iss p n x s
  | .signalApply ctx n => Sys2Proof.Machine.execSignalApply ctx n s
  | .linkGroupReceive port g => Sys2Proof.Machine.execLinkGroupReceive port g s
  | .packetForward port k => Sys2Proof.Machine.execPacketForward port k s
  | .escWaitExpire port k => Sys2Proof.Machine.execEscWaitExpire port k s
  | .tailTimeout port vc => Sys2Proof.Machine.execTailTimeout port vc s
  | .cutEndReceive port vc => Sys2Proof.Machine.execCutEndReceive port vc s
  | .put k => Sys2Proof.Machine.execPut k s
  | .permutePiece k => Sys2Proof.Machine.execPermutePiece k s
  | .putMc k => Sys2Proof.Machine.execPutMc k s
  | .loadReq k => Sys2Proof.Machine.execLoadReq k s
  | .loadRsp k => Sys2Proof.Machine.execLoadRsp k s
  | .atomic k => Sys2Proof.Machine.execAtomic k s
  | .atomicRsp k => Sys2Proof.Machine.execAtomicRsp k s
  | .completion k => Sys2Proof.Machine.execCompletion k s
  | .ctrl k => Sys2Proof.Machine.execCtrl k s
  | .mgmt k => Sys2Proof.Machine.execMgmt k s
  | .collData k => Sys2Proof.Machine.execCollData k s
  | .collReady k => Sys2Proof.Machine.execCollReady k s
  | .epochClose k => Sys2Proof.Machine.execEpochClose k s
  | .retryTimeout ctx dst seq => Sys2Proof.Machine.execRetryTimeout ctx dst seq s
  | .resendDelay ctx dst seq => Sys2Proof.Machine.execResendDelay ctx dst seq s
  | .rxStreamFree ctx src => Sys2Proof.Machine.execRxStreamFree ctx src s
  | .txStreamFree ctx dst => Sys2Proof.Machine.execTxStreamFree ctx dst s
  | .ctxRecordLoad ctx => Sys2Proof.Machine.execCtxRecordLoad ctx s
  | .ctxCopyResync copy => Sys2Proof.Machine.execCtxCopyResync copy s
  | .ctxRecWrite iss w k v => Sys2Proof.Machine.execCtxRecWrite iss w k v s
  | .portRetrain port lost failed => Sys2Proof.Machine.execPortRetrain port lost failed s
  | .portRetrainDone port => Sys2Proof.Machine.execPortRetrainDone port s
  | .fabMcEntWrite iss v => Sys2Proof.Machine.execFabMcEntWrite iss v s
  | .colMsOrigWrite iss v => Sys2Proof.Machine.execColMsOrigWrite iss v s
  | .colMsExtWrite iss v => Sys2Proof.Machine.execColMsExtWrite iss v s
  | .colBind iss v => Sys2Proof.Machine.execColBind iss v s
  | .colVtVerWrite iss v => Sys2Proof.Machine.execColVtVerWrite iss v s
  | .pass1 iss k rec => Sys2Proof.Machine.execPass1 iss k rec s
  | .pass2 iss k rec => Sys2Proof.Machine.execPass2 iss k rec s
  | .scribeEntryStart k => Sys2Proof.Machine.execScribeEntryStart k s
  | .releaseWatchdogExpire k => Sys2Proof.Machine.execReleaseWatchdogExpire k s
  | .scribePassComplete k => Sys2Proof.Machine.execScribePassComplete k s
  | .jobReset t => Sys2Proof.Machine.execJobReset t s
  | .autoRestore t => Sys2Proof.Machine.execAutoRestore t s
  | .snapshot iss t => Sys2Proof.Machine.execSnapshot iss t s
  | .restore iss t src gen => Sys2Proof.Machine.execRestore iss t src gen s
  | .ship iss t dest toHost gen => Sys2Proof.Machine.execShip iss t dest toHost gen s
  | .recover iss t => Sys2Proof.Machine.execRecover iss t s
  | .preempt iss t => Sys2Proof.Machine.execPreempt iss t s
  | .resume iss t => Sys2Proof.Machine.execResume iss t s
  | .snapshotStop t => Sys2Proof.Machine.execSnapshotStop t s
  | .boundaryTimeout t => Sys2Proof.Machine.execBoundaryTimeout t s
  | .quiesceTimeout t => Sys2Proof.Machine.execQuiesceTimeout t s
  | .quiesceComplete t => Sys2Proof.Machine.execQuiesceComplete t s
  | .snapshotCopyComplete t => Sys2Proof.Machine.execSnapshotCopyComplete t s
  | .drainLayerComplete t layer => Sys2Proof.Machine.execDrainLayerComplete t layer s
  | .drainFailed t layer => Sys2Proof.Machine.execDrainFailed t layer s
  | .restoreVerify t replies => Sys2Proof.Machine.execRestoreVerify t replies s
  | .fence iss kind index => Sys2Proof.Machine.execFence iss kind index s
  | .unfence iss kind index => Sys2Proof.Machine.execUnfence iss kind index s
  | .scrub iss k => Sys2Proof.Machine.execScrub iss k s
  | .repair iss k => Sys2Proof.Machine.execRepair iss k s
  | .reeq iss scope => Sys2Proof.Machine.execReeq iss scope s
  | .cal iss => Sys2Proof.Machine.execCal iss s
  | .patch iss scope arg img => Sys2Proof.Machine.execPatch iss scope arg img s
  | .scrubPeriod k => Sys2Proof.Machine.execScrubPeriod k s
  | .maintStart n => Sys2Proof.Machine.execMaintStart n s
  | .maintComplete n ok => Sys2Proof.Machine.execMaintComplete n ok s
  | .snapDeferTimeout n => Sys2Proof.Machine.execSnapDeferTimeout n s
  | .patchCommit => Sys2Proof.Machine.execPatchCommit s
  | .load iss t seq len => Sys2Proof.Machine.execLoad iss t seq len s
  | .release iss t seq => Sys2Proof.Machine.execRelease iss t seq s
  | .jobStart t => Sys2Proof.Machine.execJobStart t s
  | .jobEnd iss t code => Sys2Proof.Machine.execJobEnd iss t code s
  | .rdmaWrite qp rkey addr data => Sys2Proof.Machine.execRdmaWrite qp rkey addr data s
  | .rdmaRead qp rkey addr len => Sys2Proof.Machine.execRdmaRead qp rkey addr len s
  | .invalidRequest qp => Sys2Proof.Machine.execInvalidRequest qp s
  | .cnpReceive qp => Sys2Proof.Machine.execCnpReceive qp s
  | .ecnMarkReceive qp => Sys2Proof.Machine.execEcnMarkReceive qp s
  | .pfcPause port prio => Sys2Proof.Machine.execPfcPause port prio s
  | .arpRequest port sub ip => Sys2Proof.Machine.execArpRequest port sub ip s
  | .neighbourSolicitation port sub ip => Sys2Proof.Machine.execNeighbourSolicitation port sub ip s
  | .ethLink port sub => Sys2Proof.Machine.execEthLink port sub s
  | .getVersion req => Sys2Proof.Machine.execGetVersion req s
  | .getCapabilities req => Sys2Proof.Machine.execGetCapabilities req s
  | .negotiateAlgorithms req p521 sha512 => Sys2Proof.Machine.execNegotiateAlgorithms req p521 sha512 s
  | .getDigests req => Sys2Proof.Machine.execGetDigests req s
  | .getCertificate req slot off len => Sys2Proof.Machine.execGetCertificate req slot off len s
  | .challenge req slot => Sys2Proof.Machine.execChallenge req slot s
  | .getMeasurements req index => Sys2Proof.Machine.execGetMeasurements req index s
  | .unsupportedRequest code => Sys2Proof.Machine.execUnsupportedRequest code s
  | .entdaa ld addr => Sys2Proof.Machine.execEntdaa ld addr s
  | .setdasa ld static addr => Sys2Proof.Machine.execSetdasa ld static addr s
  | .reload iss => Sys2Proof.Machine.execReload iss s
  | .copybookWrite iss len => Sys2Proof.Machine.execCopybookWrite iss len s
  | .mirror iss => Sys2Proof.Machine.execMirror iss s
  | .commitSvn iss kind => Sys2Proof.Machine.execCommitSvn iss kind s
  | .mirrorPeriodic => Sys2Proof.Machine.execMirrorPeriodic s
  | .mirrorComplete ok => Sys2Proof.Machine.execMirrorComplete ok s
  | .thresholdWindowClose det kind index => Sys2Proof.Machine.execThresholdWindowClose det kind index s
  | .injectArm iss k v => Sys2Proof.Machine.execInjectArm iss k v s
  | .injectDisable iss => Sys2Proof.Machine.execInjectDisable iss s
  | .captureGo iss => Sys2Proof.Machine.execCaptureGo iss s
  | .capturePeriodic => Sys2Proof.Machine.execCapturePeriodic s
  | .captureComplete => Sys2Proof.Machine.execCaptureComplete s
  | .jtagInstruction code => Sys2Proof.Machine.execJtagInstruction code s
  | .jtagTestLogicReset => Sys2Proof.Machine.execJtagTestLogicReset s
  | .pcieLinkDown => Sys2Proof.Machine.execPcieLinkDown s
  | .pllUnlock d => Sys2Proof.Machine.execPllUnlock d s
  | .ethFcs port sub => Sys2Proof.Machine.execEthFcs port sub s

end Sys2Proof.Machine
end

