-- ==== Sys2Proof/Machine/Step.lean ====
section
/-! DEFINITION. One step: the command at the front of the queue runs, or one AO tick passes (log 1). -/

namespace Sys2Proof.Machine

open Sys2Proof

/-- With nothing commanded, one tick of the always-on clock passes (log 1). -/
def State.idle (s : State) : State := { s with time := s.time + 1 }

/-- The command at the front of the queue runs on the state with the queue's rest; on an empty queue a tick passes. -/
def step (s : State) : Host.Outcome State Fault Refusal :=
  match s.pending with
  | [] => .next s.idle
  | c :: rest => exec c { s with pending := rest }

/-- No row of the opcode table gives bits, so no word spells a command: the state is unchanged (log 5). -/
def State.withFetchWord (s : State) (nbits w : Nat) : State :=
  match decodeTableWord nbits w with
  | some c => { s with pending := c :: s.pending }
  | none => s

end Sys2Proof.Machine
end

