-- ==== Sys2Proof/Safety.lean ====
section
/-! DEFINITION. What the statements mean by a sound state and by a command that completes: the memories keep their canonical
form, the queue is served first in, first out, and a step answers a next state; and the parts of the state a command may change. -/

namespace Sys2Proof.Machine

open Sys2Proof

/-- The canonical form of the memories: every listed byte stands once, in rising order of its address, and none equals what
an unlisted address reads as (log 2). -/
def Memory.wf (s : State) : Bool := NMap.wf s.hbmRest s.hbm && NMap.wf s.spadRest s.spad

/-- A step's answer is the next state given. -/
abbrev Completes (i : Instr) (s t : State) : Prop := exec i s = .next t

/-- The machine goes on from a state. -/
def Runs (s : State) : Prop := ∃ t, step s = .next t

/-! ### The parts of the state -/

/-- The parts of the state, one per field. -/
inductive Part where
  | pending | out | time | free | regs | spad | hbm | liftedCores | liftedPcs | engines | cvus | aes | coxes | cores
  | dies | hbmCtls | ctxs | errs | snaps | mods | pals | mirrorDue | node | fab | colls | maint | wins | power
  | wdDefault | overCap | netBytes | waits | defaults | scribes | ten | bh | pins
deriving DecidableEq, Repr

/-- Is a part the same in two states? -/
def Part.same (f : Part) (s t : State) : Prop :=
  match f with
  | .pending => t.pending = s.pending
  | .out => t.out = s.out
  | .time => t.time = s.time
  | .free => t.free = s.free
  | .regs => t.regs = s.regs
  | .spad => t.spad = s.spad
  | .hbm => t.hbm = s.hbm
  | .liftedCores => t.liftedCores = s.liftedCores
  | .liftedPcs => t.liftedPcs = s.liftedPcs
  | .engines => t.engines = s.engines
  | .cvus => t.cvus = s.cvus
  | .aes => t.aes = s.aes
  | .coxes => t.coxes = s.coxes
  | .cores => t.cores = s.cores
  | .dies => t.dies = s.dies
  | .hbmCtls => t.hbmCtls = s.hbmCtls
  | .ctxs => t.ctxs = s.ctxs
  | .errs => t.errs = s.errs
  | .snaps => t.snaps = s.snaps
  | .mods => t.mods = s.mods
  | .pals => t.pals = s.pals
  | .mirrorDue => t.mirrorDue = s.mirrorDue
  | .node => t.node = s.node
  | .fab => t.fab = s.fab
  | .colls => t.colls = s.colls
  | .maint => t.maint = s.maint
  | .wins => t.wins = s.wins
  | .power => t.power = s.power
  | .wdDefault => t.wdDefault = s.wdDefault
  | .overCap => t.overCap = s.overCap
  | .netBytes => t.netBytes = s.netBytes
  | .waits => t.waits = s.waits
  | .defaults => t.defaults = s.defaults
  | .scribes => t.scribes = s.scribes
  | .ten => t.ten = s.ten
  | .bh => t.bh = s.bh
  | .pins => t.pins = s.pins

/-- What recording an occurrence, with the fence or recovery it may bring, may change (R280, R294, R339 to R343). -/
def Part.reported : List Part :=
  [.regs, .dies, .ctxs, .errs, .snaps, .pals, .mirrorDue, .fab, .maint, .scribes, .ten]

/-- What a write of a control register may change besides. -/
def Part.written : List Part :=
  [.out, .free, .spad, .hbm, .liftedCores, .liftedPcs, .engines, .cvus, .aes, .coxes, .cores, .hbmCtls, .mods,
   .colls, .wins, .wdDefault, .defaults, .bh]

/-- The parts of the state each command may change. -/
def touches (c : Instr) : List Part :=
  match c with
  | .vin36InRange .. =>
    Part.reported ++ [.out, .time, .spad, .hbm, .liftedCores, .liftedPcs, .engines, .cvus, .aes, .coxes,
      .cores, .hbmCtls, .mods, .node, .colls, .wins, .power, .wdDefault, .overCap, .netBytes, .waits, .defaults, .bh, .pins]
  | .announcementResend => [.out, .regs, .bh]
  | .romRecoveryImage .. =>
    Part.reported ++ [.out, .time, .spad, .hbm, .liftedCores, .engines, .cvus, .aes, .coxes, .cores,
      .hbmCtls, .node, .wins, .power, .wdDefault, .defaults, .bh, .pins]
  | .vinRange .. => Part.reported ++ [.pins]
  | .vinRangeRelease => [.pins]
  | .undervoltageShutdown =>
    Part.reported ++ [.out, .spad, .hbm, .liftedCores, .liftedPcs, .engines, .cvus, .aes, .coxes, .cores,
      .hbmCtls, .colls, .power, .waits, .bh, .pins]
  | .undervoltageRecovery .. =>
    Part.reported ++ [.out, .time, .spad, .hbm, .liftedCores, .engines, .cvus, .aes, .coxes, .cores,
      .hbmCtls, .node, .wins, .power, .wdDefault, .defaults, .bh, .pins]
  | .overvoltageShutdown .. =>
    Part.reported ++ [.time, .spad, .hbm, .liftedCores, .liftedPcs, .engines, .cvus, .aes, .coxes, .cores,
      .hbmCtls, .mods, .node, .colls, .wins, .power, .wdDefault, .overCap, .netBytes, .waits, .defaults, .bh, .pins]
  | .alwaysOnStop =>
    Part.reported ++ [.time, .spad, .hbm, .liftedCores, .liftedPcs, .engines, .cvus, .aes, .coxes, .cores,
      .hbmCtls, .mods, .node, .colls, .wins, .power, .wdDefault, .overCap, .netBytes, .waits, .defaults, .bh, .pins]
  | .resetNAssert =>
    Part.reported ++ [.time, .spad, .hbm, .liftedCores, .liftedPcs, .engines, .cvus, .aes, .coxes, .cores,
      .hbmCtls, .mods, .node, .colls, .wins, .power, .wdDefault, .overCap, .netBytes, .waits, .defaults, .bh, .pins]
  | .resetNRelease .. =>
    Part.reported ++ [.out, .time, .spad, .hbm, .liftedCores, .engines, .cvus, .aes, .coxes, .cores,
      .hbmCtls, .node, .wins, .power, .wdDefault, .defaults, .bh, .pins]
  | .aoRefclkLoss => Part.reported ++ [.pins]
  | .aoRefclkReturn => [.pins]
  | .srefclkLoss .. => Part.reported ++ [.pins]
  | .srefclkReturn .. => [.regs, .pins]
  | .lockstepMismatch => Part.reported ++ [.bh]
  | .heartbeatMiss => Part.reported ++ [.bh]
  | .takeoverComplete => Part.reported ++ Part.written ++ [.waits]
  | .boathouseLost => [.regs, .bh]
  | .registerWrite .. => Part.reported ++ Part.written ++ [.waits]
  | .coreRegisterWake .. => Part.reported ++ Part.written ++ [.waits]
  | .opOuter .. => [.engines, .dies]
  | .productCycle .. => Part.reported ++ [.spad, .engines, .aes, .cores]
  | .productCycleLand .. => Part.reported ++ [.engines]
  | .opCatch .. => [.regs, .engines, .dies]
  | .opDrain .. => Part.reported ++ [.engines, .aes]
  | .drainRow .. => Part.reported ++ [.engines, .aes]
  | .drainTileComplete .. => Part.reported ++ [.spad, .engines, .aes, .cores]
  | .opLoad .. => [.engines, .dies]
  | .loadRow .. => Part.reported ++ [.spad, .engines, .aes, .cores]
  | .opRow .. => Part.reported ++ [.spad, .engines, .aes, .cores]
  | .rowOpRow .. => Part.reported ++ [.engines]
  | .opChain .. => [.engines, .dies]
  | .chainRow .. => Part.reported ++ [.engines, .cvus, .aes]
  | .vecArith .. => [.regs, .cvus, .dies]
  | .vecCvt .. => [.regs, .cvus, .dies]
  | .vecTranscendental .. => [.regs, .cvus, .dies]
  | .vecReduce .. => [.regs, .cvus, .dies]
  | .vecLd .. => Part.reported ++ [.free, .spad, .cvus, .aes, .cores]
  | .vecSt .. => [.aes, .dies]
  | .vecResultLand .. => [.regs, .cvus, .dies]
  | .scratchPiece .. => Part.reported ++ Part.written ++ [.waits]
  | .tileFetch .. => Part.reported ++ [.aes]
  | .tilePut .. => Part.reported ++ [.aes]
  | .tileGather .. => Part.reported ++ [.aes]
  | .tileRelay .. => Part.reported ++ [.aes]
  | .tileDrop .. => Part.reported ++ [.aes]
  | .tileUnpin .. => Part.reported ++ [.aes]
  | .aeSlotGrant .. => Part.reported ++ Part.written ++ [.waits]
  | .tokenRefill .. => [.regs, .aes, .dies]
  | .quotaRelease .. => [.aes, .dies]
  | .mergeTimeout .. => [.aes, .dies]
  | .pcServe .. => Part.reported ++ [.out, .free, .hbm, .aes, .cores, .hbmCtls]
  | .bankqRetry .. => [.regs, .aes, .dies, .hbmCtls]
  | .tileLand .. => Part.reported ++ Part.written ++ [.waits]
  | .relayHop .. => Part.reported ++ [.spad, .aes, .cores]
  | .zeroProbeResult .. => [.regs, .aes, .dies]
  | .flagSet .. => Part.reported ++ [.out, .free, .aes, .cores, .colls]
  | .flagClear .. => Part.reported ++ [.out, .free, .aes, .cores, .colls]
  | .fenceLocal .. => Part.reported ++ [.aes]
  | .fenceFabric .. => Part.reported ++ [.aes]
  | .fenceRelease .. => Part.reported ++ [.out, .free, .aes, .cores, .colls]
  | .fenceWatchdogExpire .. => Part.reported ++ [.aes, .colls]
  | .heatForecast .. => [.dies]
  | .forecastLapse .. => [.dies]
  | .atomAdd .. => Part.reported ++ [.aes]
  | .atomAnd .. => Part.reported ++ [.aes]
  | .atomOr .. => Part.reported ++ [.aes]
  | .atomXor .. => Part.reported ++ [.aes]
  | .atomUmax .. => Part.reported ++ [.aes]
  | .atomUmin .. => Part.reported ++ [.aes]
  | .atomSwap .. => Part.reported ++ [.aes]
  | .atomCas .. => Part.reported ++ [.aes]
  | .collAllreduce .. => Part.reported ++ [.out, .free, .aes, .cores, .colls]
  | .collRscatter .. => Part.reported ++ [.out, .free, .aes, .cores, .colls]
  | .collAllgather .. => Part.reported ++ [.out, .free, .aes, .cores, .colls]
  | .collBcast .. => Part.reported ++ [.out, .free, .aes, .cores, .colls]
  | .collPermute .. => Part.reported ++ [.out, .free, .aes, .cores, .colls]
  | .collEpoch .. => Part.reported ++ [.out, .free, .aes, .cores, .colls]
  | .collStart .. => Part.reported ++ [.out, .free, .spad, .hbm, .aes, .cores, .hbmCtls, .colls]
  | .epochFenceDrained .. => Part.reported ++ [.out, .free, .cores, .colls]
  | .collComplete .. => Part.reported ++ [.cores, .colls]
  | .coxInstruction .. => Part.reported ++ [.out, .free, .aes, .coxes, .cores, .colls]
  | .heatPost .. => Part.reported ++ [.out, .free, .aes, .colls, .waits]
  | .coxPatchWrite .. => Part.reported ++ [.out, .cores, .waits]
  | .prmWrite .. => Part.reported ++ [.out, .cores, .waits]
  | .patchWindow .. => Part.reported ++ [.aes, .cores]
  | .replayNear .. => [.regs, .dies]
  | .heatChoice .. => Part.reported ++ [.out, .free, .aes, .cores, .colls]
  | .heatStart .. => [.regs, .cores, .dies]
  | .heatEnd .. => Part.reported ++ [.out, .free, .hbm, .aes, .cores, .hbmCtls, .colls]
  | .gateWatchdogExpire .. => Part.reported ++ [.out, .free, .aes, .colls]
  | .grantRecompute => [.dies]
  | .bucketWindow .. => Part.reported ++ [.out, .free, .aes, .colls, .overCap, .netBytes]
  | .reserveRefill => [.regs]
  | .oppStep .. => Part.reported ++ [.out, .free, .aes, .colls]
  | .droopTrip .. => [.regs, .dies]
  | .droopEnd .. => [.regs, .dies]
  | .droopSustained .. => Part.reported ++ [.out, .free, .aes, .colls]
  | .thermalSample .. =>
    Part.reported ++ [.out, .free, .spad, .liftedCores, .engines, .cvus, .aes, .coxes, .cores, .hbmCtls,
      .colls, .power, .waits]
  | .thermalRestore .. =>
    Part.reported ++ [.out, .spad, .liftedCores, .engines, .cvus, .aes, .coxes, .cores, .hbmCtls, .power, .waits]
  | .calibration => Part.reported ++ [.free]
  | .driftInterval .. => Part.reported ++ [.out, .free, .aes, .colls]
  | .clusterRetain .. => [.regs]
  | .clusterWake .. => Part.reported ++ [.spad, .liftedCores, .engines, .cvus, .aes, .coxes, .cores]
  | .pllStop .. => [.regs]
  | .pllRelock .. => Part.reported ++ Part.written ++ [.waits]
  | .flagStore .. => Part.reported ++ [.out, .cores]
  | .flagUnpoison .. => Part.reported ++ [.out, .waits]
  | .signalApply .. => Part.reported ++ [.cores]
  | .linkGroupReceive .. => Part.reported ++ [.out]
  | .packetForward .. => Part.reported ++ [.out, .free, .spad, .hbm, .aes, .cores, .hbmCtls, .colls]
  | .escWaitExpire .. => Part.reported ++ [.out, .free, .spad, .hbm, .aes, .cores, .hbmCtls, .colls]
  | .tailTimeout .. => Part.reported ++ [.out, .free, .spad, .hbm, .aes, .cores, .hbmCtls, .colls]
  | .cutEndReceive .. => Part.reported ++ [.out, .free, .spad, .hbm, .aes, .cores, .hbmCtls, .colls]
  | .put .. => Part.reported ++ Part.written ++ [.waits]
  | .permutePiece .. => Part.reported ++ Part.written ++ [.waits]
  | .putMc .. => Part.reported ++ Part.written ++ [.waits]
  | .loadReq .. => Part.reported ++ [.out, .free]
  | .loadRsp .. => Part.reported ++ [.out, .free, .spad, .hbm, .aes, .cores, .hbmCtls, .colls]
  | .atomic .. => Part.reported ++ [.out, .free, .spad, .hbm, .aes, .cores, .hbmCtls]
  | .atomicRsp .. => Part.reported ++ [.out, .free, .spad, .hbm, .aes, .cores, .hbmCtls, .colls]
  | .completion .. => Part.reported ++ [.out, .free, .spad, .hbm, .aes, .cores, .hbmCtls, .colls]
  | .ctrl .. => Part.reported ++ [.out, .free, .aes, .colls]
  | .mgmt .. => Part.reported
  | .collData .. => Part.reported ++ [.out, .free, .spad, .hbm, .aes, .hbmCtls, .colls]
  | .collReady .. => Part.reported ++ [.out, .free, .spad, .hbm, .aes, .hbmCtls, .colls]
  | .epochClose .. => Part.reported ++ [.out, .free, .cores, .colls]
  | .retryTimeout .. => Part.reported ++ [.out, .free, .spad, .hbm, .aes, .cores, .hbmCtls, .colls]
  | .resendDelay .. => Part.reported ++ [.out, .free, .spad, .hbm, .aes, .cores, .hbmCtls, .colls]
  | .rxStreamFree .. => Part.reported
  | .txStreamFree .. => [.fab]
  | .ctxRecordLoad .. => [.regs, .ctxs]
  | .ctxCopyResync .. => [.ctxs]
  | .ctxRecWrite .. => Part.reported ++ [.out, .waits]
  | .portRetrain .. => Part.reported
  | .portRetrainDone .. => [.out, .regs, .dies, .fab]
  | .fabMcEntWrite .. => Part.reported ++ [.out, .waits]
  | .colMsOrigWrite .. => Part.reported ++ [.out, .colls, .waits]
  | .colMsExtWrite .. => Part.reported ++ [.out, .free, .colls, .waits]
  | .colBind .. => Part.reported ++ [.out, .waits]
  | .colVtVerWrite .. => Part.reported ++ [.out, .colls, .waits]
  | .pass1 .. => Part.reported ++ [.out, .spad, .hbm, .aes, .hbmCtls, .waits]
  | .pass2 .. => Part.reported ++ [.out, .spad, .hbm, .aes, .hbmCtls, .waits]
  | .scribeEntryStart .. => Part.reported ++ [.hbm, .cores, .hbmCtls, .colls]
  | .releaseWatchdogExpire .. => Part.reported
  | .scribePassComplete .. => Part.reported ++ [.spad, .hbm, .aes, .cores, .hbmCtls]
  | .jobReset .. => Part.reported ++ [.free, .hbm, .aes, .hbmCtls, .colls]
  | .autoRestore .. =>
    Part.reported ++ [.out, .free, .spad, .hbm, .engines, .aes, .coxes, .cores, .hbmCtls, .mods, .colls]
  | .snapshot .. => Part.reported ++ [.out, .waits]
  | .restore .. =>
    Part.reported ++ [.out, .free, .spad, .hbm, .engines, .aes, .coxes, .cores, .hbmCtls, .mods, .colls, .waits]
  | .ship .. => Part.reported ++ [.out, .hbm, .hbmCtls, .waits]
  | .recover .. => Part.reported ++ [.out, .waits]
  | .preempt .. => Part.reported ++ [.out, .waits]
  | .resume .. => Part.reported ++ [.out, .engines, .waits]
  | .snapshotStop .. => Part.reported ++ [.hbm, .hbmCtls]
  | .boundaryTimeout .. => Part.reported
  | .quiesceTimeout .. => Part.reported
  | .quiesceComplete .. => Part.reported ++ [.hbm, .hbmCtls]
  | .snapshotCopyComplete .. => Part.reported ++ [.hbm, .hbmCtls]
  | .drainLayerComplete .. => Part.reported ++ [.out, .free]
  | .drainFailed .. => Part.reported
  | .restoreVerify .. => Part.reported ++ [.out, .free, .spad, .hbm, .aes, .coxes, .hbmCtls, .colls]
  | .fence .. =>
    Part.reported ++ [.out, .free, .spad, .hbm, .liftedCores, .liftedPcs, .engines, .cvus, .aes, .hbmCtls, .waits]
  | .unfence .. =>
    Part.reported ++ [.out, .free, .spad, .hbm, .liftedCores, .liftedPcs, .engines, .cvus, .aes, .hbmCtls, .waits]
  | .scrub .. => Part.reported ++ [.out, .waits, .bh]
  | .repair .. => Part.reported ++ [.out, .waits, .bh]
  | .reeq .. => Part.reported ++ [.out, .waits, .bh]
  | .cal .. => Part.reported ++ [.out, .waits, .bh]
  | .patch .. => Part.reported ++ [.out, .waits, .bh]
  | .scrubPeriod .. => Part.reported ++ [.bh]
  | .maintStart .. => Part.reported ++ [.bh]
  | .maintComplete .. =>
    Part.reported ++ [.free, .spad, .hbm, .liftedCores, .liftedPcs, .engines, .cvus, .aes, .hbmCtls, .bh]
  | .snapDeferTimeout .. => [.regs, .maint]
  | .patchCommit => [.regs, .mirrorDue, .maint, .bh]
  | .load .. => Part.reported ++ [.out, .hbm, .hbmCtls, .waits]
  | .release .. => Part.reported ++ [.out, .free, .hbm, .aes, .hbmCtls, .mods, .colls, .waits]
  | .jobStart .. => Part.reported ++ Part.written ++ [.waits]
  | .jobEnd .. => Part.reported ++ [.out, .hbm, .hbmCtls, .waits]
  | .rdmaWrite .. => Part.reported ++ Part.written ++ [.netBytes, .waits]
  | .rdmaRead .. => Part.reported ++ [.out, .netBytes, .waits]
  | .invalidRequest .. => [.out, .regs]
  | .cnpReceive .. => [.regs, .ten]
  | .ecnMarkReceive .. => [.out, .regs]
  | .pfcPause .. => [.regs]
  | .arpRequest .. => [.out, .regs]
  | .neighbourSolicitation .. => [.out, .regs]
  | .ethLink .. => Part.reported
  | .getVersion .. => [.out, .free, .bh]
  | .getCapabilities .. => [.out, .free, .bh]
  | .negotiateAlgorithms .. => [.out, .free, .bh]
  | .getDigests .. => [.out, .free, .bh]
  | .getCertificate .. => [.out, .free, .bh]
  | .challenge .. => [.out, .free, .bh]
  | .getMeasurements .. => [.out, .free, .bh]
  | .unsupportedRequest .. => [.out, .free]
  | .entdaa .. => [.out, .bh]
  | .setdasa .. => [.out, .bh]
  | .reload .. =>
    Part.reported ++ [.out, .spad, .hbm, .liftedCores, .engines, .cvus, .aes, .coxes, .cores, .hbmCtls,
      .wins, .wdDefault, .waits, .defaults, .bh]
  | .copybookWrite .. => Part.reported ++ [.out, .waits, .bh]
  | .mirror .. => Part.reported ++ [.out, .waits, .bh]
  | .commitSvn .. => Part.reported ++ [.out, .waits]
  | .mirrorPeriodic => [.regs, .mirrorDue, .bh]
  | .mirrorComplete .. => Part.reported ++ [.bh]
  | .thresholdWindowClose .. => [.errs]
  | .injectArm .. => Part.reported ++ [.out, .waits]
  | .injectDisable .. => Part.reported ++ [.out, .waits]
  | .captureGo .. => Part.reported ++ [.out, .waits, .bh]
  | .capturePeriodic => [.regs, .bh]
  | .captureComplete => [.regs, .hbm, .dies, .hbmCtls, .errs, .snaps, .bh]
  | .jtagInstruction .. => [.bh]
  | .jtagTestLogicReset => [.bh]
  | .pcieLinkDown => Part.reported ++ [.pins]
  | .pllUnlock .. => Part.reported
  | .ethFcs .. => Part.reported

/-! ### Frames -/

/-- Cycle x of die d is named: the die's cycle counter takes it where it is later, and nothing else of any die changes. -/
def ClockedTo (s t : State) (d x : Nat) : Prop :=
  t.die d = { s.die d with now := max (s.die d).now x } ∧ ∀ j, j ≠ d → t.die j = s.die j

/-- An operation of engine e of core p in cycle x leaves that engine as g; every other engine stays, the die's cycle is
named, every register but those listed keeps its value, and no other part of the state changes: no byte of memory does. -/
def EngineFrame (s t : State) (p : Pos) (e : Eng) (x : Nat) (g : Engine) (regs : List Nat) : Prop :=
  t.eng (engId p e) = g ∧ (∀ j, j ≠ engId p e → t.eng j = s.eng j) ∧ ClockedTo s t (dieOf p) x ∧
    (∀ a, a ∉ regs → t.rd a = s.rd a) ∧ t = { s with regs := t.regs, engines := t.engines, dies := t.dies }

/-- The injection point of a detector is not armed. -/
def Unarmed (s : State) (k : Nat) : Prop := s.f (R.INJ_P_CTL k) F.INJ_P_CTL_ARM = 0


/-- A vector operation of core p has issued in cycle x: its result is in flight, no register has changed, and besides the
vector unit only its counters, the die's event counts and the die's cycle have. -/
def CvuIssued (s t : State) (p : Pos) (x : Nat) (r : CvuResult) : Prop :=
  (t.cvu p).flight = (s.cvu p).flight ++ [r] ∧ (t.cvu p).regs = (s.cvu p).regs ∧ (∀ j, j ≠ p.val → t.cvu j = s.cvu j) ∧
    (∀ a, a ∉ [R.CVU_CNT_BUSY p, R.CVU_CNT_LANE_OPS p, R.CVU_CNT_TRANS p] → t.rd a = s.rd a) ∧
    (t.die (dieOf p)).now = max (s.die (dieOf p)).now x ∧ (∀ j, j ≠ dieOf p → t.die j = s.die j) ∧
    t = { s with regs := t.regs, cvus := t.cvus, dies := t.dies }

/-- A command has joined core p's list in cycle x as c, at its end and with the next number; the commands before it keep
their numbers and the engine its cache, its tokens, its pieces and its static writes; besides the access engine, the count
of prefetches and the die's cycle, nothing changes. -/
def Joined (s t : State) (p : Pos) (x : Nat) (c : AeCmd) : Prop :=
  (t.ae p).cmds.map (·.id) = (s.ae p).cmds.map (·.id) ++ [(s.ae p).nextId] ∧ (t.ae p).cmds.getLast? = some c ∧
    c.id = (s.ae p).nextId ∧ c.issue = x ∧ (t.ae p).nextId = (s.ae p).nextId + 1 ∧ (t.ae p).cache = (s.ae p).cache ∧
    (t.ae p).level = (s.ae p).level ∧ (t.ae p).pieces = (s.ae p).pieces ∧ (t.ae p).writes = (s.ae p).writes ∧
    (∀ j, j ≠ p.val → t.ae j = s.ae j) ∧ (∀ a, a ≠ R.AE_PF_ISSUED p → t.rd a = s.rd a) ∧
    ClockedTo s t (dieOf p) x ∧ t = { s with regs := t.regs, aes := t.aes, dies := t.dies }

/-- Core p's list has room, and no command in it waits for partners to merge with. -/
def ListReady (s : State) (p : Pos) : Prop := (s.ae p).cmds.length < 512 ∧ ∀ c ∈ (s.ae p).cmds, c.phase ≠ .merge

/-- Core p's list has room, and every command in it takes a slot and has a number of its own below the next. -/
def ListSlotted (s : State) (p : Pos) : Prop :=
  ListReady s p ∧ ∀ c ∈ (s.ae p).cmds, c.kind.slotted = true ∧ c.id < (s.ae p).nextId

/-- A control-register write of an issuer is let in at once: the block has power, the register exists and is the issuer's
to write, its unit is not fenced, nothing it would wait for is away, and the access point is not armed. -/
def Admitted (s : State) (iss : Issuer) (off : Nat) (v : Word) : Prop :=
  s.power.ao = true ∧ Unarmed s 0x1D ∧ targetOf 2 off 8 = .ctl off ∧
    s.entitled iss (s.hostTen iss) aWrite 2 off 8 (.ctl off) v = true ∧ s.fencedTarget (.ctl off) 8 = false ∧
    s.waitsFor off = none

/-- Every register but those listed keeps its value. -/
def RegsBut (s t : State) (regs : List Nat) : Prop := ∀ a, a ∉ regs → t.rd a = s.rd a

/-- A packet with these marks has left by a port, or waits for one. -/
def Sent (t : State) (f : Packet → Prop) : Prop :=
  (∃ p k, Out.packet (some p) k ∈ t.out ∧ f k) ∨ ∃ h ∈ t.fab.heads, f h.k

/-- An answer to packet k has a way back: its source is another node of the torus, and some port is in service; the heads
that wait name ports there are. -/
def Answerable (s : State) (k : Packet) : Prop :=
  k.src < s.nodes ∧ k.src ≠ s.node ∧ s.upDownPorts 5 none ≠ [] ∧ ∀ h ∈ s.fab.heads, ∀ p, h.out = some p → p < 16

/-- A packet of this node whose head and payload are whole, and whose context is allocated, cached and of its epoch; the
points on its way are not armed. -/
def Arrives (s : State) (k : Packet) : Prop :=
  k.wf = true ∧ headGood k = true ∧ k.ctx ∈ s.ctxs.lru ∧ (s.ctx k.ctx).alloc = true ∧ (s.ctx k.ctx).epoch = k.epoch ∧
    (k.payload ≠ [] → crc32c k.payload = k.pcrc) ∧ Unarmed s 0x14 ∧ Unarmed s 0x1A ∧ Unarmed s 0x1D

/-- The access of an arriving packet to a core's scratchpad is let in and reaches it. -/
def Reaches (s : State) (k : Packet) (kind n : Nat) (v : Word) (p o : Nat) : Prop :=
  targetOf k.space k.offset n = .spad p o ∧
    s.entitled (.packet k.ctx k.win k.src) none kind k.space k.offset n (.spad p o) v = true ∧ s.coreClosed p = false ∧
    (s.innerPath (8 + k.seq % 2) (p / 32)).isSome = true ∧ Unarmed s 0x15 ∧ Unarmed s 0x08 ∧ Unarmed s 0x09

/-- A stack reads and writes without errors: no byte of it is corrupted, and no HBM point is armed. -/
def StackSound (s : State) (k : Nat) : Prop := (s.stk k).bad = [] ∧ Unarmed s 0x01 ∧ Unarmed s 0x02 ∧ Unarmed s 0x03

end Sys2Proof.Machine
end

