-- ==== Sys2Proof/Certificates/Slice0/Obligations.lean ====
section
/-! DEFINITION. The statements for the provers: what the spec's rules say of the block's commands, family by family. -/

open Sys2Proof Sys2Proof.Machine

/-- A step runs the command at the front of the queue. With a command at the front of the queue a step is that command on the
state with the queue's rest; with an empty queue one tick of the always-on clock passes and nothing else (log 1). (R37) -/
def Obligations.StepRunsTheFrontCommand : Prop :=
  (∀ (c : Instr) (rest : List Instr) (s : State), s.pending = c :: rest → step s = exec c { s with pending := rest }) ∧
  ∀ (s : State), s.pending = [] → step s = .next { s with time := s.time + 1 }

/-- What reset leaves. After reset nothing is queued, sent or stored, every register reads the reset values of its fields, an
offset that no register occupies reads zero, no domain has power, and the memories have their canonical form. That no supply
is applied at reset, and what unwritten memory reads as, are the model's choices (logs 2 and 6). (R10, R14, R22) -/
def Obligations.ResetLeaves : Prop :=
  let s := State.reset
  s.pending = [] ∧ s.out = [] ∧ s.waits = [] ∧ Memory.wf s = true ∧ s.power = ⟨false, 0, 0, 0⟩ ∧ s.pins.vin = false ∧
    s.f R.BH_STAT F.BH_STAT_READY = 0 ∧ s.f R.BH_LOCK F.BH_LOCK_LOCK = 0 ∧
    (∀ (p : Pos) (a : Nat), s.spadByte p a = 0) ∧ (∀ (k : Stk) (a : Nat), s.hbmByte k a = 0) ∧
    (∀ a, regRow a = none → s.rd a = 0) ∧
    ∀ a b i o r n, regRow a = some (b, i, o, r, n) → s.rd a = BitVec.ofNat 64 (rowReset r + regFixed b i o)

/-- Every step keeps the memories canonical and takes nothing back. Whatever a step does, from any state, with any command:
memories in canonical form stay so (log 2), only the front command leaves the queue and nothing enters it, what has been
sent stays sent in its order, a free value is never used again (log 4), and a programmed owner slot keeps its key. (R37,
R324) -/
def Obligations.EveryStepKeepsTheMachine : Prop :=
  ∀ (s t : State), step s = .next t →
    (Memory.wf s = true → Memory.wf t = true) ∧ t.pending = s.pending.tail ∧ s.out <+: t.out ∧ s.free ≤ t.free ∧
      s.bh.owners <+: t.bh.owners

/-- A command leaves every part of the state but its own. Every command leaves each part of the state (a field of State) that is
not among those listed for it exactly as it was: no command of an engine or a vector unit changes the HBM, the windows, the
boathouse or the power domains, none of attestation changes a register or a memory, and so on for all rows of the table.
(R14, R22, R24, R35) -/
def Obligations.CommandsKeepToTheirParts : Prop :=
  ∀ (c : Instr) (s t : State) (f : Part), exec c s = .next t → f ∉ touches c → f.same s t

/-- An engine operation begins. Where its path is free and its operands are well formed, op.outer, op.chain, op.load and
op.drain begin: the run is recorded with the formats, places and lengths of its fields, at its first row or product cycle,
EN and the set of its role as they are now; a drain samples the SAT bit of its set for SATF. Nothing else of the engine, no
other engine and, but for a drain into a tile queue, no other part of the state changes; in particular no byte of memory.
(R45, R48, R49, R51, R55, R60, R61, R124) -/
def Obligations.EngineOperationBegins : Prop :=
  ∀ (p : Pos) (e : Eng) (x : Nat) (s : State),
    let g := s.eng (engId p e)
    (∀ (o : OuterSlot) (col row : Place), o.wf = true → s.place p o.col = some col → s.place p o.row = some row →
      g.outer = none →
      ∃ t r, exec (.opOuter p e x o) s = .next t ∧ EngineFrame s t p e x { g with outer := some r } [] ∧
        r.k = 0 ∧ r.len = o.len ∧ r.colFmt = o.colFmt ∧ r.rowFmt = o.rowFmt ∧ r.init = o.init ∧ r.slide = o.slide ∧
        r.col = col ∧ r.row = row ∧ r.en = s.bitOpnd p o.en) ∧
    (∀ (o : ChainSlot) (col row : Place), o.wf = true → s.place p o.outer.col = some col →
      s.place p o.outer.row = some row → g.outer = none → g.chain = none →
      ∃ t r c, exec (.opChain p e x o) s = .next t ∧
        EngineFrame s t p e x { g with outer := some r, chain := some c } [] ∧
        r.k = 0 ∧ r.len = o.outer.len ∧ r.col = col ∧ r.row = row ∧ r.en = s.bitOpnd p o.outer.en ∧
        c.ofmt = o.ofmt ∧ c.epilogue = o.epilogue ∧ c.period = chainPeriod o.epilogue ∧ c.put = o.put ∧
        c.drain = none ∧ c.row = 0 ∧ c.ctx = s.value p o.put.d % 2 ^ 20) ∧
    (∀ (o : LoadSlot) (pl : Place), o.wf = true → s.place p o.src = some pl → g.load = none →
      ∃ t, exec (.opLoad p e x o) s = .next t ∧
        EngineFrame s t p e x { g with load := some ⟨g.active1 ^^ o.shadow, o.ifmt, pl, x, 0, s.heatTag p x⟩ } []) ∧
    (∀ (o : DrainSlot) (pl : Place), o.wf = true → s.place p o.dst = some pl →
      (o.stochastic = true → s.f (R.ENG_COMPAT p) F.ENG_COMPAT_SR_DRAIN = 1) → g.drain = none → g.row = none →
      ∃ t d, exec (.opDrain p e x o) s = .next t ∧ t.eng (engId p e) = { g with drain := some d } ∧
        (∀ j, j ≠ engId p e → t.eng j = s.eng j) ∧ t.spad = s.spad ∧ t.hbm = s.hbm ∧
        d.set1 = (g.active1 ^^ o.shadow) ∧ d.ofmt = o.ofmt ∧ d.stochastic = o.stochastic ∧ d.clr = o.clr ∧ d.dst = pl ∧
        d.issue = x ∧ d.row = 0 ∧
        d.flag = (if s.f (R.ENG_TILE_STAT p e) (satFld d.set1) = 1 then o.satf else none) ∧
        ((∃ w, pl = .walk w) → EngineFrame s t p e x { g with drain := some d } []))

/-- op.catch swaps the roles of the two sets. op.catch, once in a cycle, swaps the roles of the two sets of its engine and
counts itself; it moves no cell, product cycles already issued keep the set they are tagged with, and nothing else changes.
A second catch in the same cycle is not accepted; one in a later cycle restores the roles. A product cycle issued in the
cycle of the catch is tagged with the set that was active before it, and one issued later with the set that is active after
it; with a catch in the cycle that follows, the product cycles of that cycle alone are tagged with the other set. (R46) -/
def Obligations.CatchSwapsTheSets : Prop :=
  ∀ (p : Pos) (e : Eng) (x : Nat) (s : State), (s.eng (engId p e)).catchAt ≠ some x →
    let g := s.eng (engId p e)
    let tagged (u : State) (y : Nat) (b : Bool) : Prop :=
      ∀ r, g.outer = some r → r.en = true → (r.colFmt = .fp32 → r.k % 4 = 0) → s.f (R.ENG_CTL p e) F.ENG_CTL_ZGATE_EN = 0 →
        ∃ v pr, exec (.productCycle p e y) u = .next v ∧ (v.eng (engId p e)).flight = g.flight ++ [pr] ∧ pr.set1 = b
    ∃ t, exec (.opCatch p e x) s = .next t ∧
      EngineFrame s t p e x { g with active1 := !g.active1, catchAt := some x } [R.ENG_CNT_CATCH p e] ∧
      t.rd (R.ENG_CNT_CATCH p e) = s.rd (R.ENG_CNT_CATCH p e) + 1 ∧
      (∃ why, exec (.opCatch p e x) t = .refused (.notEnabled why)) ∧
      tagged t x g.active1 ∧ (∀ y, x < y → tagged t y (!g.active1)) ∧
      ∀ y, y ≠ x → ∃ u, exec (.opCatch p e y) t = .next u ∧
        u.eng (engId p e) = { g with catchAt := some y } ∧
        tagged u y (!g.active1) ∧ ∀ z, y < z → tagged u z g.active1

/-- op.row begins. Where no drain or row operation is in progress and its operands suit the set, op.row begins on the set of its
role: its scalars are the 48 bits of their PRMs as it issues. Nothing else of the engine and no other engine changes, and
with scalar operands nothing else at all but the die cycle. (R45, R50, R51, R75) -/
def Obligations.RowOperationBegins : Prop :=
  ∀ (p : Pos) (e : Eng) (x : Nat) (o : RowSlot) (s : State),
    let g := s.eng (engId p e)
    o.wf = true → (g.intMode (g.active1 ^^ o.shadow) = true → o.op = .add ∨ o.op = .clamp) → g.drain = none → g.row = none →
    ∃ t r, exec (.opRow p e x o) s = .next t ∧ t.eng (engId p e) = { g with row := some r } ∧
      (∀ j, j ≠ engId p e → t.eng j = s.eng j) ∧ t.hbm = s.hbm ∧
      r.set1 = (g.active1 ^^ o.shadow) ∧ r.op = o.op ∧ r.issue = x ∧ r.row = 0 ∧
      (∀ n b, o.v1 = .prm n b → r.v1 = .scalar (s.prm p n.val)) ∧
      (∀ n b, o.v2 = .prm n b → (∃ k c, o.v1 = .prm k c) → r.v2 = .scalar (s.prm p n.val)) ∧
      ((∃ n b, o.v1 = .prm n b) → (o.v2 = .none ∨ ∃ n b, o.v2 = .prm n b) →
        EngineFrame s t p e x { g with row := some r } [])

/-- A product cycle issues. PRODUCT_CYCLE issues the next product cycle of the running op.outer, which ends when it was the
last. It is tagged with the set that was active before a catch of the same cycle, and lands at the end of the cycle 10
later, or 13 later at FP32, where the first of four carries the step. With EN 0 nothing is to land. No cell changes as it
issues, no other engine changes, and the memories keep every byte where no earlier static write was still to land. (R39,
R44, R46, R59, R60, R61) -/
def Obligations.ProductCycleIssues : Prop :=
  ∀ (p : Pos) (e : Eng) (x : Nat) (s : State) (r : OuterRun),
    let g := s.eng (engId p e)
    g.outer = some r →
    ∃ t, exec (.productCycle p e x) s = .next t ∧
      (t.eng (engId p e)).outer = (if r.total ≤ r.k + 1 then none else some { r with k := r.k + 1 }) ∧
      (t.eng (engId p e)).acc = g.acc ∧ (t.eng (engId p e)).active1 = g.active1 ∧
      (∀ j, j ≠ engId p e → t.eng j = s.eng j) ∧ t.hbm = s.hbm ∧
      ((∀ w ∈ (s.ae p).writes, x ≤ w.land) → t.spad = s.spad) ∧
      ((r.en = false ∨ (r.colFmt = .fp32 ∧ r.k % 4 ≠ 0)) → (t.eng (engId p e)).flight = g.flight) ∧
      ((t.eng (engId p e)).flight = g.flight ∨
        ∃ pr, (t.eng (engId p e)).flight = g.flight ++ [pr] ∧ pr.issue = x ∧
          pr.set1 = (if g.catchAt = some x then !g.active1 else g.active1) ∧
          pr.land = (if r.colFmt = .fp32 then x + 13 else x + 10) ∧ pr.init = (r.init && r.k == 0) ∧
          pr.colFmt = r.colFmt ∧ pr.rowFmt = r.rowFmt) ∧
      (r.en = true → (r.colFmt = .fp32 → r.k % 4 = 0) → t.f (R.ENG_CTL p e) F.ENG_CTL_ZGATE_EN = 0 →
        (t.eng (engId p e)).flight ≠ g.flight)

/-- A product cycle lands. PRODUCT_CYCLE_LAND lands the product cycle of cycle x: it leaves the flight. Where no row write is
still to land by then and no injection point of the engine is armed, every cell of the set it is tagged with becomes what
the product makes of it, no cell of the other set changes, INIT sets the set's mode, and where nothing saturates nothing
outside the engine changes but the die cycle. (R38, R44, R45, R52, R55, R62) -/
def Obligations.ProductCycleLands : Prop :=
  ∀ (p : Pos) (e : Eng) (x : Nat) (s : State) (pr : Prod),
    let g := s.eng (engId p e)
    (g.flight.find? fun q => q.land == x) = some pr →
    ∃ t, exec (.productCycleLand p e x) s = .next t ∧ (t.eng (engId p e)).flight = g.flight.erase pr ∧
      (∀ j, j ≠ engId p e → t.eng j = s.eng j) ∧ t.spad = s.spad ∧ t.hbm = s.hbm ∧
      ((∀ w ∈ g.writes, x < w.land) → Unarmed s 0x2B → Unarmed s 0x0C → Unarmed s 0x0D →
        s.f (R.ENG_COMPAT p) F.ENG_COMPAT_SR_ACC = 0 →
        let new := (g.setCells pr.set1).mapIdx fun k w => pr.land1 w (k / 64) (k % 64) none
        new.any (·.2) = false →
        (t.eng (engId p e)).setCells pr.set1 = new.map (·.1) ∧
          (t.eng (engId p e)).setCells (!pr.set1) = g.setCells (!pr.set1) ∧
          (t.eng (engId p e)).intMode pr.set1 = (if pr.init then pr.isInt else g.intMode pr.set1) ∧
          EngineFrame s t p e x (t.eng (engId p e)) [])

/-- A drain reads its rows, and its tile completes. DRAIN_ROW reads the next row of a drain; the 64th ends it, and its tile
completes 66 cycles after its issue, with the flag its SATF names. Where no row write is still to land before cycle x, CLR
zeroes the row read and otherwise no cell changes, and a row inside the walk, of a format without side-band, is to be
written to the scratchpad as its format lays it out, landing in cycle x + 3; where it misses no product cycle, no register
changes but the row counter, by one, and the engine's status. DRAIN_TILE_COMPLETE leaves the engine but for the completed
tile; where no static write is still to land before cycle x it sets the flag, unless that is poisoned, and without a flag
changes nothing else but the die cycle. Neither changes another engine or a byte of HBM, and a drain row changes no byte of
the scratchpad yet. (R48, R54, R55, R68, R77, R105, R190) -/
def Obligations.DrainReadsItsRows : Prop :=
  ∀ (p : Pos) (e : Eng) (x : Nat) (s : State),
    let i := engId p e
    let g := s.eng i
    (∀ d, g.drain = some d → x = d.issue + d.row →
      ∃ t, exec (.drainRow p e x) s = .next t ∧
        (t.eng i).drain = (if 63 ≤ d.row then none else some { d with row := d.row + 1 }) ∧
        (t.eng i).done = (if 63 ≤ d.row then g.done ++ [(d.issue + 66, d.flag)] else g.done) ∧
        (t.eng i).active1 = g.active1 ∧ (t.eng i).flight = g.flight ∧ (∀ j, j ≠ i → t.eng j = s.eng j) ∧
        t.spad = s.spad ∧ t.hbm = s.hbm ∧
        ((∀ w ∈ g.writes, x ≤ w.land) → (t.eng i).writes = g.writes ∧
          (t.eng i).acc = (if d.clr then (g.setRow d.set1 d.row (List.replicate 64 0)).acc else g.acc) ∧
          (∀ w, d.dst = .walk w → d.row < w.count → d.ofmt.isMx = false →
            ∃ v, (t.ae p).writes = insertWrite v (s.ae p).writes ∧ v.land = x + 3 ∧
              v.bytes = rowBytes d.ofmt (w.runBase 0) 0 d.row
                (drainRowBits d.ofmt (g.intMode d.set1) (g.drainRnd d.stochastic i) (g.rowCells d.set1 d.row)).1) ∧
          (g.misses d.set1 x (d.issue + 63) (if d.clr then some d.issue else none) = false →
            t.rd (R.ENG_CNT_DRAIN_ROWS p e) = s.rd (R.ENG_CNT_DRAIN_ROWS p e) + 1 ∧
            ∀ a, a ≠ R.ENG_CNT_DRAIN_ROWS p e → a ≠ R.ENG_TILE_STAT p e → t.rd a = s.rd a))) ∧
    (∀ d, (g.done.find? fun q => q.1 == x) = some d →
      ∃ t, exec (.drainTileComplete p e x) s = .next t ∧ t.eng i = { g with done := g.done.erase d } ∧
        (∀ j, j ≠ i → t.eng j = s.eng j) ∧ t.hbm = s.hbm ∧
        ((∀ w ∈ (s.ae p).writes, x ≤ w.land) → t.spad = s.spad ∧
          (d.2 = none → EngineFrame s t p e x { g with done := g.done.erase d } []) ∧
          (∀ n, d.2 = some n → s.poisoned p n = false → t.flag p n = true)))

/-- Loads and row operations take their rows. LOAD_ROW takes the next element row of a load, each element the cell R76 makes of
it, and ROW_OP_ROW computes the next row of a row operation from the cells it reads; both write the row of their set one
cycle later, and end with the 64th. The first row of a load sets its set's mode. A load changes no cell yet, neither changes
another engine or a byte of HBM, and where no static write is still to land before cycle x neither changes a byte of the
scratchpad. Where no row write is still to land before cycle x the row operation changes no cell yet; where besides no
product cycle is missed it computes from the cells as they stand (without SR_ACC), and no register changes but the row
counter, by one. (R49, R50, R62, R75, R76) -/
def Obligations.LoadAndRowOperationRows : Prop :=
  ∀ (p : Pos) (e : Eng) (x : Nat) (s : State),
    let i := engId p e
    let g := s.eng i
    (∀ l, g.load = some l → x = l.issue + l.row →
      ∃ t w, exec (.loadRow p e x) s = .next t ∧
        (t.eng i).load = (if 63 ≤ l.row then none else some { l with row := l.row + 1 }) ∧
        (t.eng i).writes = g.writes ++ [w] ∧ w.land = x + 1 ∧ w.set1 = l.set1 ∧ w.row = l.row ∧ w.isLoad = true ∧
        w.cells = (s.readOperand p x e l.src l.ifmt l.row 1).1.els.map (loadCell l.ifmt) ∧
        (t.eng i).acc = g.acc ∧ (t.eng i).flight = g.flight ∧
        (t.eng i).intMode l.set1 = (if l.row = 0 then l.ifmt == .raw64i else g.intMode l.set1) ∧
        (t.eng i).intMode (!l.set1) = g.intMode (!l.set1) ∧
        (∀ j, j ≠ i → t.eng j = s.eng j) ∧ t.hbm = s.hbm ∧ ((∀ w ∈ (s.ae p).writes, x ≤ w.land) → t.spad = s.spad)) ∧
    (∀ r, g.row = some r → x = r.issue + r.row →
      ∃ t w, exec (.rowOpRow p e x) s = .next t ∧
        (t.eng i).row = (if 63 ≤ r.row then none else some { r with row := r.row + 1 }) ∧
        w ∈ (t.eng i).writes ∧ w.land = x + 1 ∧ w.set1 = r.set1 ∧ w.row = r.row ∧ w.isLoad = false ∧
        (∀ j, j ≠ i → t.eng j = s.eng j) ∧ t.spad = s.spad ∧ t.hbm = s.hbm ∧
        ((∀ w ∈ g.writes, x ≤ w.land) → (t.eng i).acc = g.acc ∧ (t.eng i).writes = g.writes ++ [w] ∧
          (g.misses r.set1 x (r.issue + 64) none = false →
            (s.f (R.ENG_COMPAT p) F.ENG_COMPAT_SR_ACC = 0 →
              w.cells = (g.rowCells r.set1 r.row).mapIdx fun j c =>
                (rowCell r.op (g.intMode r.set1) c (r.v1.at j) (r.v2.at j) none).1) ∧
            t.rd (R.ENG_CNT_ROWOP_ROWS p e) = s.rd (R.ENG_CNT_ROWOP_ROWS p e) + 1 ∧
            ∀ a, a ≠ R.ENG_CNT_ROWOP_ROWS p e → t.rd a = s.rd a)))

/-- A chain reads its rows. Where its next row is due, P cycles after the one before, CHAIN_ROW reads it. Seven rows of eight
are only held; the eighth hands all eight on as finished rows of the chain, and only then the vector unit takes part. The
64th row ends the chain. A chain that was short stays short. No cell changes where no row write is still to land before
cycle x, no other engine does, and no byte of memory. (R124, R63) -/
def Obligations.ChainReadsItsRows : Prop :=
  ∀ (p : Pos) (e : Eng) (x : Nat) (s : State) (c : ChainRun) (set1 : Bool) (y : Nat),
    let i := engId p e
    let g := s.eng i
    g.chain = some c → c.drain = some (set1, y) → x = y + c.period * c.row →
    ∃ t, exec (.chainRow p e x) s = .next t ∧
      ((t.eng i).chain = none ↔ 63 ≤ c.row) ∧
      (∀ k, (t.eng i).chain = some k → k.row = c.row + 1 ∧ k.period = c.period ∧ k.drain = c.drain ∧ k.put = c.put ∧
        k.rows.length = (if c.rows.length < 7 then c.rows.length + 1 else 0) ∧
        k.out.length = (if c.rows.length < 7 then c.out.length else c.out.length + 8) ∧
        (c.short = true → k.short = true)) ∧
      (c.rows.length < 7 → t.cvus = s.cvus) ∧ (c.rows.length < 7 → c.row < 63 → t.aes = s.aes) ∧
      (t.eng i).outer = g.outer ∧ (t.eng i).flight = g.flight ∧
      ((∀ w ∈ g.writes, x ≤ w.land) → (t.eng i).acc = g.acc) ∧
      (∀ j, j ≠ i → t.eng j = s.eng j) ∧ t.spad = s.spad ∧ t.hbm = s.hbm

/-- A vector operation issues. A vec.* operation reads its source registers as it issues, and its result becomes usable 4 cycles
later for arithmetic and conversion, 15 for a transcendental (12 after its fourth group), 8 for a reduction. Until then no
vector register changes, and nor does CVU_EXC. Arithmetic and conversion count 512 lane operations, a transcendental 512
transcendental ones; besides these counters, the busy counter and the die's event counts, no other unit, no byte of memory
and no register of the device changes. (R63, R64, R82, R86) -/
def Obligations.VectorOperationIssues : Prop :=
  ∀ (p : Pos) (x : Nat) (dst src : Fin 32) (s : State),
    let c := s.cvu p
    (∀ op a b k, ∃ t r, exec (.vecArith p x op dst a b k) s = .next t ∧ CvuIssued s t p x r ∧ r.usable = x + 4 ∧
      r.reg = dst.val ∧ t.rd (R.CVU_CNT_LANE_OPS p) = s.rd (R.CVU_CNT_LANE_OPS p) + 512 ∧
      r.lanes = (List.range 512).map fun i =>
        (laneArith op ((c.reg a).getD i 0) ((c.reg b).getD i 0) ((c.reg k).getD i 0)).1) ∧
    (∀ f g, f.cls ≠ .raw → g.cls ≠ .raw → ∃ t r, exec (.vecCvt p x dst src f g) s = .next t ∧ CvuIssued s t p x r ∧
      r.usable = x + 4 ∧ r.reg = dst.val ∧ t.rd (R.CVU_CNT_LANE_OPS p) = s.rd (R.CVU_CNT_LANE_OPS p) + 512 ∧
      r.lanes = encLanes g ((c.reg src).map (laneVal f))) ∧
    (∀ op, ∃ t r, exec (.vecTranscendental p x op dst src) s = .next t ∧ CvuIssued s t p x r ∧ r.usable = x + 15 ∧
      r.reg = dst.val ∧ t.rd (R.CVU_CNT_TRANS p) = s.rd (R.CVU_CNT_TRANS p) + 512 ∧
      r.lanes = (c.reg src).map fun w => (laneTrans op w).1) ∧
    (∀ op base, ∃ t r, exec (.vecReduce p x op dst src base) s = .next t ∧ CvuIssued s t p x r ∧ r.usable = x + 8 ∧
      r.reg = dst.val ∧ r.lanes = reduceLanes op (s.value p base) (c.reg src) (c.reg dst) ∧
      t.rd (R.CVU_CNT_LANE_OPS p) = s.rd (R.CVU_CNT_LANE_OPS p) ∧ t.rd (R.CVU_CNT_TRANS p) = s.rd (R.CVU_CNT_TRANS p))

/-- Vector loads and stores. vec.ld reads the first run of its walk, 1 KiB, in cycle x and its register is usable in cycle x +
6; vec.st reads its register in cycle x and its bytes land at the end of cycle x + 5. Where no earlier static write is still
to land, a load changes no byte of the scratchpad, and its lanes hold the codes of the run's elements, as far as the walk
counts, where no other read of the cycle took a bank. A store leaves everything but the static writes to land and the die
cycle. (R63, R104, R105, R141) -/
def Obligations.VectorLoadsAndStores : Prop :=
  ∀ (p : Pos) (x : Nat) (reg : Fin 32) (desc : W128) (w : Walk) (s : State),
    s.localDesc p desc = some w → w.col = false → w.fmt.cls ≠ .raw →
    (∃ t r, exec (.vecLd p x reg desc) s = .next t ∧ (t.cvu p).flight = (s.cvu p).flight ++ [r] ∧
      (t.cvu p).regs = (s.cvu p).regs ∧ r.usable = x + 6 ∧ r.reg = reg.val ∧ r.lanes.length = 512 ∧
      (∀ j, j ≠ p.val → t.cvu j = s.cvu j) ∧ t.engines = s.engines ∧ t.hbm = s.hbm ∧
      ((∀ v ∈ (s.ae p).writes, x ≤ v.land) → t.spad = s.spad ∧
        ((s.ae p).rdAt ≠ x → w.fmt.isMx = false → ∀ i, i < runElems w.fmt → i < w.count * 64 →
          r.lanes[i]? = some (BitVec.ofNat 32 (runElem (s.spadByte p) w.fmt (w.runBase 0) i))))) ∧
    (∃ t v, exec (.vecSt p x reg desc) s = .next t ∧ t.ae p = { s.ae p with writes := insertWrite v (s.ae p).writes } ∧
      v.land = x + 5 ∧ (∀ j, j ≠ p.val → t.ae j = s.ae j) ∧ ClockedTo s t (dieOf p) x ∧
      t = { s with aes := t.aes, dies := t.dies } ∧
      (w.fmt.isMx = false → v.bytes = ((packLanes w.fmt ((s.cvu p).reg reg)).take (w.count * 8 * w.fmt.width)).mapIdx
        fun i y => ((w.runBase 0 + i) % 2 ^ 23, y)))

/-- A vector result lands. VEC_RESULT_LAND gives a register the result that becomes usable in cycle x and sets in CVU_EXC the
exceptions it raised, keeping those there. The other registers, every other unit, every other register of the device and
every byte of memory keep what they hold. (R63, R64) -/
def Obligations.VectorResultLands : Prop :=
  ∀ (p : Pos) (x : Nat) (r : CvuResult) (s : State),
    ((s.cvu p).flight.find? fun q => q.usable == x) = some r → r.lanes.length = 512 →
    ∃ t, exec (.vecResultLand p x) s = .next t ∧ (t.cvu p).flight = (s.cvu p).flight.erase r ∧
      (t.cvu p).reg r.reg = r.lanes ∧ (∀ k, k ≠ r.reg → (t.cvu p).reg k = (s.cvu p).reg k) ∧
      (∀ j, j ≠ p.val → t.cvu j = s.cvu j) ∧
      t.rd (R.CVU_EXC p) = BitVec.ofNat 64 ((s.rd (R.CVU_EXC p)).toNat ||| r.exc) ∧
      (∀ a, a ≠ R.CVU_EXC p → t.rd a = s.rd a) ∧ ClockedTo s t (dieOf p) x ∧
      t = { s with regs := t.regs, cvus := t.cvus, dies := t.dies }

/-- Tile commands join the access engine's list. Where the list has room, nothing in it waits for partners and the destination
can be had, tile.fetch, tile.put, tile.gather and tile.relay join the list at its end, with the address, length, place,
context, flag and count of their operands as they are now; a tile-queue destination is the tail slot, which is reserved, and
a put's queue slot is the next one not yet claimed. Nothing moves yet. A command that finds the list full, or its queue
without a free slot, is discarded with CMD_OVERFLOW and joins nothing. (R113, R114, R116, R122, R125, R198) -/
def Obligations.TileCommandsJoin : Prop :=
  ∀ (p : Pos) (x : Nat) (o : AeSlot) (s : State), s.aeOk p o = true →
    (ListReady s p → ∀ d u, s.takeDest p o o.b = some (d, u) →
      (o.fetchWf = true → ∃ t c, exec (.tileFetch p x o) s = .next t ∧ Joined s t p x c ∧ c.kind = .fetch ∧
        c.far = BitVec.ofNat 64 (s.farOf p o.a).addr ∧ c.len = (s.farOf p o.a).len ∧ c.q = d.q ∧ c.ring = d.ring ∧
        c.loc = d.loc ∧ c.flag = o.flag ∧ c.cnt = o.cnt ∧ c.ctx = s.ctxOf p o.d ∧ c.cache = o.cache ∧
        (s.f (R.AE_CTL p) F.AE_CTL_MERGE_EN = 0 → c.phase = .wait) ∧
        (∀ q, o.tq = some q → (s.ae p).tqs.length = 8 → (t.tq p q).reserved = (s.tq p q).reserved + 1)) ∧
      (o.gatherWf = true → ∃ t c, exec (.tileGather p x o) s = .next t ∧ Joined s t p x c ∧ c.kind = .gather ∧
        c.len = 8192 ∧ c.sbLoc = (s.locOf p o.a).1 ∧ c.last = min 128 ((s.farOf p o.c).len / 64) ∧ c.q = d.q ∧
        c.loc = d.loc ∧ c.flag = o.flag ∧ c.cnt = o.cnt ∧ c.phase = .wait) ∧
      (o.relayWf = true → ∃ t c, exec (.tileRelay p x o) s = .next t ∧ Joined s t p x c ∧ c.kind = .relay ∧
        c.far = BitVec.ofNat 64 (s.farOf p o.a).addr ∧ c.len = (s.farOf p o.a).len ∧ c.q = d.q ∧ c.ring = d.ring ∧
        c.flag = o.flag ∧ c.cnt = o.cnt ∧ c.phase = .wait)) ∧
    (ListReady s p → o.putWf = true → (∀ q, o.tq = some q → (s.tq p q).depth ≠ 0 ∧ (s.tq p q).outbound = true) →
      ∃ t c, exec (.tilePut p x o) s = .next t ∧ Joined s t p x c ∧ c.kind = .put ∧
        c.far = BitVec.ofNat 64 (s.farOf p o.b).addr ∧ c.len = (s.farOf p o.b).len ∧ c.exp = s.expOf p o ∧
        c.flag = o.flag ∧ c.cnt = o.cnt ∧ c.ctx = s.ctxOf p o.d ∧ (o.tq = none → c.loc = (s.locOf p o.a).1) ∧
        (∀ q, o.tq = some q → c.q = some q.val ∧ c.ring = ((s.tq p q).head + (s.tq p q).claimed) % (s.tq p q).depth)) ∧
    ((s.heatTag p x).on = false →
      (o.fetchWf = true → (s.listFull p = true ∨ s.takeDest p o o.b = none) →
        ∃ t, exec (.tileFetch p x o) s = .next t ∧ t.f (R.AE_EVENT p) F.AE_EVENT_CMD_OVERFLOW = 1 ∧
          (t.ae p).cmds.map (·.id) = (s.ae p).cmds.map (·.id)) ∧
      (o.putWf = true → s.listFull p = true →
        ∃ t, exec (.tilePut p x o) s = .next t ∧ t.f (R.AE_EVENT p) F.AE_EVENT_CMD_OVERFLOW = 1 ∧
          (t.ae p).cmds.map (·.id) = (s.ae p).cmds.map (·.id)))

/-- Remote atomics join the list. Where the list has room and nothing in it waits for partners, each remote atomic joins it at
its end, with its operation, the far word's address, its operand (sign-extended for atom.add; the compare and the new word
of atom.cas from two PRMs), whether and where its old value is returned, its context, flag and count. No word changes yet.
(R113, R114, R227, R228) -/
def Obligations.RemoteAtomicsJoin : Prop :=
  ∀ (p : Pos) (x : Nat) (o : AeSlot) (s : State), ListReady s p → s.aeOk p o = true →
    (∀ q ∈ [(Instr.atomAdd p x o, 0), (.atomAnd p x o, 1), (.atomOr p x o, 2), (.atomXor p x o, 3),
        (.atomUmax p x o, 4), (.atomUmin p x o, 5), (.atomSwap p x o, 6)], o.atomWf false = true →
      ∃ t c, exec q.1 s = .next t ∧ Joined s t p x c ∧ c.kind = .atomic q.2 ∧ c.phase = .wait ∧
        c.far = BitVec.ofNat 64 (s.farOf p o.a).addr ∧ c.len = 8 ∧ c.loc = (s.locOf p o.b).1 ∧
        (c.last = 1 ↔ o.b.isLocal = true) ∧ c.flag = o.flag ∧ c.cnt = o.cnt ∧ c.ctx = s.ctxOf p o.d ∧
        c.va = (if q.2 = 0 then signExt48 (s.value p o.c) else BitVec.ofNat 64 (s.value p o.c))) ∧
    (o.atomWf true = true → ∃ t c, exec (.atomCas p x o) s = .next t ∧ Joined s t p x c ∧ c.kind = .atomic 7 ∧
      c.phase = .wait ∧ c.far = BitVec.ofNat 64 (s.farOf p o.a).addr ∧ c.flag = o.flag ∧ c.cnt = o.cnt ∧
      ∀ n b, o.c = .prm n b → c.va = BitVec.ofNat 64 (s.prm p n) ∧ c.vb = BitVec.ofNat 64 (s.prm p (n.val + 1)))

/-- Fences, tile.drop and tile.unpin. Where the list has room and nothing in it waits for partners, a fence joins it at its end;
tile.drop removes from the tile cache every entry whose key lies in its range, counts those not yet read, and lets commands
in flight with such a key insert nothing; tile.unpin leaves the entries of its range unpinned. Nothing else changes but the
die cycle. (R129, R150, R128) -/
def Obligations.FencesAndKeysIssue : Prop :=
  ∀ (p : Pos) (x : Nat) (o : AeSlot) (s : State), ListReady s p →
    (∃ t c, exec (.fenceLocal p x) s = .next t ∧ Joined s t p x c ∧ c.kind = .fenceLocal) ∧
    (∃ t c, exec (.fenceFabric p x) s = .next t ∧ Joined s t p x c ∧ c.kind = .fenceFabric) ∧
    (o.keysWf = true → s.aeOk p o = true →
      (∃ t, exec (.tileDrop p x o) s = .next t ∧
        t.ae p = { s.ae p with
          cache := (s.ae p).cache.filter fun e => !s.keyRange p o e.key
          cmds := (s.ae p).cmds.map fun c => if c.cache && s.keyRange p o c.key then { c with noInsert := true } else c } ∧
        t.rd (R.AE_PF_EVICTED_UNUSED p) = s.rd (R.AE_PF_EVICTED_UNUSED p) +
          BitVec.ofNat 64 ((s.ae p).cache.filter fun e => s.keyRange p o e.key && !e.used).length ∧
        (∀ a, a ≠ R.AE_PF_EVICTED_UNUSED p → t.rd a = s.rd a) ∧ (∀ j, j ≠ p.val → t.ae j = s.ae j) ∧
        ClockedTo s t (dieOf p) x ∧ t = { s with regs := t.regs, aes := t.aes, dies := t.dies }) ∧
      (∃ t, exec (.tileUnpin p x o) s = .next t ∧
        t.ae p = { s.ae p with
          cache := (s.ae p).cache.map fun e => if s.keyRange p o e.key then { e with pin := false } else e } ∧
        (∀ j, j ≠ p.val → t.ae j = s.ae j) ∧ ClockedTo s t (dieOf p) x ∧ t = { s with aes := t.aes, dies := t.dies }))

/-- flag.set and flag.clear. An own flag that nothing holds back is set or cleared in the cycle after flag.set or flag.clear,
and the command leaves the list; where no clear or set of the flag has landed in that cycle, the flag is clear or a level
flag as it is set, and the flag point is not armed, no register changes but the flag's word and the counters of sets or of
clears. While a fence holds it the command only waits in the list. The command completes on every operand R189 gives it.
(R189, R190, R193, R206, R150) -/
def Obligations.FlagCommandsLand : Prop :=
  ∀ (p : Pos) (x : Nat) (n : Nat) (s : State), n < 1024 →
    (ListSlotted s p → s.poisoned p n = false →
      (∃ t, exec (.flagSet p x (.imm n)) s = .next t ∧ t.flag p n = true ∧ (t.ae p).cmds = (s.ae p).cmds ∧
        t.spad = s.spad ∧ t.hbm = s.hbm ∧
        (Unarmed s 0x22 → (s.landsAt p (x + 1)).all (fun l => l.1 != n || l.2.1) = true →
          (s.flag p n = false ∨ s.level p n = true) → t.rd (R.FLG_CNT_SET p) = s.rd (R.FLG_CNT_SET p) + 1 ∧
          (∀ a, a ≠ R.FLG_CNT_SET p → a ≠ R.FLG_STATE p (n / 64) → t.rd a = s.rd a) ∧
          ∀ m, m < 1024 → m ≠ n → t.flag p m = s.flag p m)) ∧
      (∃ t, exec (.flagClear p x (.imm n)) s = .next t ∧ (t.ae p).cmds = (s.ae p).cmds ∧
        t.flag p n = (s.flag p n && (s.landsAt p (x + 1)).any fun l => l.1 == n && l.2.1) ∧
        t.spad = s.spad ∧ t.hbm = s.hbm ∧
        ((s.landsAt p (x + 1)).any (fun l => l.1 == n && l.2.1) = false →
          t.rd (R.FLG_CNT_CLEAR p) = s.rd (R.FLG_CNT_CLEAR p) + 1 ∧
          (∀ a, a ≠ R.FLG_CNT_CLEAR p → a ≠ R.FLG_STATE p (n / 64) → t.rd a = s.rd a) ∧
          ∀ m, m < 1024 → m ≠ n → t.flag p m = s.flag p m))) ∧
    (ListReady s p → (∃ c ∈ (s.ae p).cmds, c.kind.isFence = true ∧ c.id < (s.ae p).nextId) →
      (∀ c ∈ (s.ae p).cmds, c.kind.slotted = true ∨ c.kind.isFence = true) →
      (∃ t c, exec (.flagSet p x (.imm n)) s = .next t ∧ Joined s t p x c ∧ c.kind = .flagOwn true ∧ c.last = n) ∧
      (∃ t c, exec (.flagClear p x (.imm n)) s = .next t ∧ Joined s t p x c ∧ c.kind = .flagOwn false ∧ c.last = n)) ∧
    (∀ a, s.flagOpnd p a = true →
      (∃ t, exec (.flagSet p x a) s = .next t) ∧ ∃ t, exec (.flagClear p x a) s = .next t)

/-- A granted slot starts its command. AE_SLOT_GRANT gives the slot to the command R119 picks, with its deadline. A put starts
to read its source as dynamic pieces, and takes no tokens. A command whose tile is in the cache copies it, without tokens
and without a request at a stack. One whose context is not its tenancy's fails with no request. A fetch of up to a tile from
its own die's HBM, in one tile, takes its bytes from the bucket and joins its bank's queue with its deadline, where that has
room. (R111, R113, R115, R117, R118, R119, R129, R231) -/
def Obligations.SlotGrantsStart : Prop :=
  ∀ (p : Pos) (x : Nat) (c : AeCmd) (s : State), s.grantee p x = some c → s.aeSlots p < 48 → c.issue < x →
    ∃ t, exec (.aeSlotGrant p x) s = .next t ∧
      (c.kind = .put → s.ctxStatus c.ctx (dieOf p) = sOK → c.sb = none →
        ∃ k, t.aeCmd p c.id = some k ∧ k.slot = true ∧ k.phase = .move ∧ k.deadline = some (s.deadlineOf p x c) ∧
          k.need = (spadPieces (c.len / 1024 + 2) c.loc c.len).length ∧ k.data = [] ∧
          (t.ae p).pieces = (s.ae p).pieces ++ (spadPieces (c.len / 1024 + 2) c.loc c.len).map
            (fun q => ⟨x, 3, c.id, q.1 % 2 ^ 23, q.2, none⟩) ∧
          (t.ae p).level = (s.ae p).level ∧ t.spad = s.spad ∧ t.hbm = s.hbm ∧ t.hbmCtls = s.hbmCtls) ∧
      ((c.kind = .fetch ∨ c.kind = .gather ∨ c.kind = .relay) → s.ctxStatus c.ctx (dieOf p) ≠ sOK →
        ∃ k, t.aeCmd p c.id = some k ∧ k.phase = .moved ∧ k.status = s.ctxStatus c.ctx (dieOf p) ∧
          t.hbmCtls = s.hbmCtls ∧ t.spad = s.spad ∧ t.hbm = s.hbm) ∧
      ((c.kind = .fetch ∨ c.kind = .gather ∨ c.kind = .relay) → s.ctxStatus c.ctx (dieOf p) = sOK →
        ∀ e, s.cacheHit p c = some e →
        ∃ k, t.aeCmd p c.id = some k ∧ k.phase = .moved ∧ k.rdy = x + 64 ∧
          k.data = s.spadBytes p ((s.ae p).cacheBase e.slot) 8192 ∧
          t.rd (R.AE_CNT_TC_HIT p) = s.rd (R.AE_CNT_TC_HIT p) + 1 ∧ (t.ae p).level = (s.ae p).level ∧
          t.hbmCtls = s.hbmCtls ∧ t.spad = s.spad ∧ t.hbm = s.hbm) ∧
      (c.kind = .fetch → s.ctxStatus c.ctx (dieOf p) = sOK → c.cache = false → c.zprobe = false → c.sb = none →
        Unarmed s 0x1D → kNode c.far.toNat = s.node → ∀ l, 0 < c.len → l % 8192 + c.len ≤ 8192 →
        kSpace c.far.toNat = 0 → targetOf 0 (kOff c.far.toNat) c.len = .hbm (dieOf p) l →
        s.entitled (.core p) none aRead 0 (kOff c.far.toNat) c.len (.hbm (dieOf p) l) 0 = true →
        s.fencedTarget (.hbm (dieOf p) l) c.len = false → (s.hbmPlace (dieOf p) l).1 / 4 = dieOf p →
        let b := s.bankOfFar c.far
        (s.bankQueue b.1 b.2.2).length < 16 →
        ∃ q, t.bankQueue b.1 b.2.2 = s.bankQueue b.1 b.2.2 ++ [q] ∧ q.pos = p.val ∧ q.cmd = c.id ∧ q.len = c.len ∧
          q.addr = b.2.1 ∧ q.wr = none ∧ q.deadline = s.deadlineOf p x c ∧
          (t.ae p).level = (if (s.ae p).rate = 0 then (s.ae p).level else (s.ae p).level - c.len) ∧
          t.spad = s.spad ∧ t.hbm = s.hbm)

/-- A dynamic piece moves. SCRATCH_PIECE moves the first piece in the order of R104 whose ports are free. Where no static write
is still to land before cycle x, a piece that writes leaves its bytes in the scratchpad, and with no confirmed zero line and
no armed scratchpad point every other byte as it was; a piece of a put that is not its last adds the bytes it reads to the
put's data and writes nothing. The piece leaves the queue, and its command needs one fewer. (R104, R108, R113) -/
def Obligations.PiecesMove : Prop :=
  ∀ (p : Pos) (x : Nat) (q : Piece) (c : AeCmd) (s : State), (∀ w ∈ (s.ae p).writes, x ≤ w.land) →
    s.nextPiece p x = some q → s.aeCmd p q.cmd = some c →
    ∃ t, exec (.scratchPiece p x) s = .next t ∧
      (∀ bs, q.wr = some bs → Unarmed s 0x08 → Unarmed s 0x09 → q.off + bs.length ≤ 2 ^ 23 →
        (∀ i (h : i < bs.length), t.spadByte p (q.off + i) = bs[i]) ∧
        ((s.ae p).zconf = [] → ∀ (r : Pos) (off : Nat), off < 2 ^ 23 →
          (r = p → off < q.off ∨ q.off + bs.length ≤ off) → t.spadByte r off = s.spadByte r off) ∧
        t.hbm = s.hbm ∧ (t.ae p).pieces = (s.ae p).pieces.erase q ∧
        ∃ k, t.aeCmd p q.cmd = some k ∧ k.need = c.need - 1 ∧
          k.phase = (if c.need ≤ 1 ∧ c.allDone = true then .moved else c.phase)) ∧
      (q.wr = none → 1 < c.need →
        (t.ae p).pieces = (s.ae p).pieces.erase q ∧ t.spad = s.spad ∧ t.hbm = s.hbm ∧
        ∃ k, t.aeCmd p q.cmd = some k ∧ k.need = c.need - 1 ∧ k.data = c.data ++ s.spadBytes p q.off q.len)

/-- A pseudo-channel serves its next request. PC_SERVE serves the request R120 picks at a pseudo-channel that is free: it leaves
its bank's queue and the channel is busy for the time of its transfer. A read delivers the bytes of the stack to the part of
the command that asked; a write leaves its bytes in the stack and, physically, no other byte of HBM changes (where nothing
there is corrupted, no HBM point is armed and its put neither counts nor signals). A request a full bank queue refused is
offered again by BANKQ_RETRY, and joins the queue where it has room by then; otherwise it waits another 16 cycles. (R109,
R111, R112, R115, R120) -/
def Obligations.PseudoChannelsServe : Prop :=
  (∀ (k : Stk) (pc : Fin 64) (x b : Nat) (q : BankReq) (s : State), s.pcPick k pc = some (b, q) →
    (s.stk k).busyTo.get (fun _ => 0) pc ≤ x → s.stackClosed k q.addr = false → s.dieDown (k.val / 4) = false →
    (s.stk k).bad = [] →
    ∃ t, exec (.pcServe k pc x) s = .next t ∧ t.spad = s.spad ∧ (t.stk k).busyTo.get (fun _ => 0) pc = x + s.pcCycles (k.val / 4) q.len ∧
      (∀ c r, q.wr = none → s.aeCmd q.pos q.cmd = some c → c.kind = .fetch → c.version = 0 → c.req q.part = some r →
        t.hbm = s.hbm ∧ t.bankQueue k (32 * pc + b) = (s.bankQueue k (32 * pc + b)).erase q ∧
        ∃ g u, t.aeCmd q.pos q.cmd = some g ∧ g.req q.part = some u ∧ u.st = 2 ∧ u.data = s.hbmBytes k q.addr q.len) ∧
      (∀ bs, q.wr = some bs → Unarmed s 0x01 → Unarmed s 0x02 → Unarmed s 0x03 → bs ≠ [] → q.addr + bs.length ≤ 2 ^ 36 →
        (∀ c, s.aeCmd q.pos q.cmd = some c → c.cnt = false ∧ c.flag = none ∧ c.merged = []) →
        (∀ i (_ : i < bs.length) j (_ : j < bs.length), i ≠ j → s.phys k (q.addr + i) ≠ s.phys k (q.addr + j)) →
        (∀ i (h : i < bs.length), t.hbmByte k (q.addr + i) = bs[i]) ∧
        ∀ (j : Stk) (a : Nat), a < 2 ^ 36 → (j = k → ∀ i, i < bs.length → s.phys k a ≠ s.phys k (q.addr + i)) →
          t.hbmByte j a = s.hbmByte j a)) ∧
  ∀ (p : Pos) (x : Nat) (e : Nat × Nat × Nat) (c : AeCmd) (r : AeReq) (s : State),
    ((s.ae p).retries.find? fun e => e.1 == c.id && decide (e.2.2 ≤ x)) = some e → s.aeCmd p c.id = some c →
    c.req e.2.1 = some r →
    let b := s.bankOfFar r.far
    ∃ t, exec (.bankqRetry p x c.id) s = .next t ∧ t.spad = s.spad ∧ t.hbm = s.hbm ∧
      ((s.bankQueue b.1 b.2.2).length < 16 → (t.ae p).retries = (s.ae p).retries.erase e ∧
        ∃ q, t.bankQueue b.1 b.2.2 = s.bankQueue b.1 b.2.2 ++ [q] ∧ q.pos = p.val ∧ q.cmd = c.id ∧ q.part = r.part ∧
          q.wr = (if c.kind.isPut then some (slice c.data r.off r.len) else none)) ∧
      (16 ≤ (s.bankQueue b.1 b.2.2).length →
        (t.ae p).retries = (s.ae p).retries.erase e ++ [(c.id, r.part, x + 16)] ∧ t.hbmCtls = s.hbmCtls ∧
        t.rd (R.AE_CNT_BANKQ_BP p) = s.rd (R.AE_CNT_BANKQ_BP p) + 1)

/-- Tiles land, hop and are probed. TILE_LAND ends a command whose data is in place. A failed one leaves the list with nothing
done. A fetch into a tile queue whose data is all right, merged with nothing and not cached, lands its slot and is counted;
its flag is then set unless poisoned, and its context counts one unless the counter is full. RELAY_HOP lands a copy in the
next core's queue and moves the chain on. ZERO_PROBE_RESULT lands a confirmed zero tile, which reads as zeros though no byte
was written, or a miss, which competes again for a slot. (R108, R116, R122, R126, R127, R195, R198) -/
def Obligations.TilesLand : Prop :=
  (∀ (p : Pos) (x : Nat) (c : AeCmd) (s : State), s.aeCmd p c.id = some c → c.phase = .moved → c.rdy ≤ x →
    ∃ t, exec (.tileLand p x c.id) s = .next t ∧
      (c.kind.isPut = false → c.status ≠ 0 → t.aeCmd p c.id = none ∧ ClockedTo s t (dieOf p) x ∧
        t = { s with aes := t.aes, dies := t.dies }) ∧
      (∀ q, c.kind = .fetch → c.status = 0 → c.found = none → c.cache = false → c.merged = [] → c.suppress = false →
        c.q = some q → q < (s.ae p).tqs.length → (s.tq p q).gen = c.qgen →
        t.aeCmd p c.id = none ∧ bitOf (t.tq p q).landed c.ring = true ∧ t.spad = s.spad ∧ t.hbm = s.hbm ∧
        (c.cnt = false → c.flag = none → t.rd (R.AE_CNT_FETCH_TILES p) = s.rd (R.AE_CNT_FETCH_TILES p) + 1 ∧
          ∀ a, a ≠ R.AE_CNT_FETCH_TILES p → t.rd a = s.rd a) ∧
        (∀ n, c.cnt = false → c.flag = some n → s.poisoned p n = false → t.flag p n = true) ∧
        (∀ k, c.cnt = true → c.ctx = some k → c.flag = none → Unarmed s 0x20 → (s.ctx k).count ≠ 2 ^ 32 - 1 →
          (t.ctx k).count = (s.ctx k).count + 1))) ∧
  (∀ (p : Pos) (x n : Nat) (r : RelayTile) (l : List RelayTile) (s : State), (s.ae p).hop = r :: l →
    s.nextCore p = some n → s.relayFree p r = true → r.landed + 64 * (n - p.val) ≤ x → (s.ae n).tqs.length = 8 → r.q < 8 →
    ∃ t, exec (.relayHop p x) s = .next t ∧ (t.ae p).hop.length = l.length ∧
      (t.tq n r.q).reserved = (s.tq n r.q).reserved + 1 ∧ bitOf (t.tq n r.q).landed (s.tq n r.q).tail = true ∧
      t.hbm = s.hbm ∧ (n < r.last → (t.ae n).hop = (s.ae n).hop ++ [{ r with landed := x }]) ∧
      (r.last ≤ n → (t.ae n).hop = (s.ae n).hop)) ∧
  ∀ (p : Pos) (x : Nat) (c : AeCmd) (s : State), s.aeCmd p c.id = some c → c.zprobe = true → c.phase = .move →
    ∃ t, exec (.zeroProbeResult p x c.id) s = .next t ∧ t.spad = s.spad ∧ t.hbm = s.hbm ∧
      (s.zmapBit (s.bankOfFar c.far).1 ((s.bankOfFar c.far).2.1 / 8192) = true →
        (∃ k, t.aeCmd p c.id = some k ∧ k.phase = .moved ∧ k.zero = true) ∧
        t.rd (R.AE_CNT_ZP_HIT p) = s.rd (R.AE_CNT_ZP_HIT p) + 1 ∧
        (c.loc % 8192 = 0 → ∀ i, i < 8192 → c.loc + i < 2 ^ 23 → t.spadByte p (c.loc + i) = 0)) ∧
      (s.zmapBit (s.bankOfFar c.far).1 ((s.bankOfFar c.far).2.1 / 8192) = false →
        (∃ k, t.aeCmd p c.id = some k ∧ k.phase = .wait ∧ k.slot = false ∧ k.zprobe = false) ∧
        t.rd (R.AE_CNT_ZP_MISS p) = s.rd (R.AE_CNT_ZP_MISS p) + 1)

/-- Tokens, bank quota and merging. TOKEN_REFILL adds RATE bytes to a core's bucket, up to its burst, and changes nothing but
the engine's list, its stall counters and the die cycle. QUOTA_RELEASE returns a held command to contention where its bank
has quota for it. MERGE_TIMEOUT ends every wait for partners of the core, once a command has waited 32 cycles, and changes
nothing else. (R115, R117, R121) -/
def Obligations.TokensQuotaAndMerging : Prop :=
  ∀ (p : Pos) (x : Nat) (s : State),
    (∃ t, exec (.tokenRefill p x) s = .next t ∧
      (t.ae p).level = min ((s.ae p).burst * 8192) ((s.ae p).level + (s.ae p).rate) ∧
      (t.ae p).cmds.map (·.id) = (s.ae p).cmds.map (·.id) ∧ (∀ j, j ≠ p.val → t.ae j = s.ae j) ∧
      (∀ a, a ∉ [R.AE_CNT_QUOTA_STALL p, R.AE_CNT_REG_STALL p, R.AE_CNT_RELAY_STALL p] → t.rd a = s.rd a) ∧
      ClockedTo s t (dieOf p) x ∧ t = { s with regs := t.regs, aes := t.aes, dies := t.dies }) ∧
    (∀ c, s.aeCmd p c.id = some c → c.phase = .hold → s.quotaAllows p c = true →
      ∃ t, exec (.quotaRelease p x c.id) s = .next t ∧ t.aeCmd p c.id = some { c with phase := .wait } ∧
        (∀ i, i ≠ c.id → t.aeCmd p i = s.aeCmd p i) ∧ (∀ j, j ≠ p.val → t.ae j = s.ae j) ∧ ClockedTo s t (dieOf p) x ∧
        t = { s with aes := t.aes, dies := t.dies }) ∧
    ((∃ c ∈ (s.ae p).cmds, c.phase = .merge ∧ c.issue + 32 ≤ x) →
      ∃ t, exec (.mergeTimeout p x) s = .next t ∧
        t.ae p = { s.ae p with cmds := (s.ae p).cmds.map fun c => if c.phase = .merge then { c with phase := .wait } else c } ∧
        (∀ j, j ≠ p.val → t.ae j = s.ae j) ∧ ClockedTo s t (dieOf p) x ∧ t = { s with aes := t.aes, dies := t.dies })

/-- Fences release, and their watchdogs expire. FENCE_RELEASE takes the first fence from the list once it holds no longer; where
every other command in the list takes a slot, they all stay. A fence whose watchdog runs out goes on holding its commands:
WAIT_TIMEOUT is set and counted at its core, the wait record is filled with kind 15 where it was free, and a job that was
running on the die stops for recovery. (R150, R203, R204, R280) -/
def Obligations.FencesReleaseAndExpire : Prop :=
  ∀ (p : Pos) (x : Nat) (f : AeCmd) (s : State),
    (s.openFence p = some f → (∀ c ∈ (s.ae p).cmds, c.id = f.id ∨ c.kind.slotted = true) →
      ∃ t, exec (.fenceRelease p x) s = .next t ∧ (t.ae p).cmds = (s.ae p).cmds.filter (fun c => c.id != f.id) ∧
        (∀ j, j ≠ p.val → t.ae j = s.ae j) ∧ ClockedTo s t (dieOf p) x ∧ t = { s with aes := t.aes, dies := t.dies }) ∧
    (s.fenceLate p = some f →
      ∃ t, exec (.fenceWatchdogExpire p) s = .next t ∧ (t.ae p).cmds.map (·.id) = (s.ae p).cmds.map (·.id) ∧
        t.f (R.FLG_EVENT p) F.FLG_EVENT_WAIT_TIMEOUT = 1 ∧
        t.rd (R.FLG_CNT_TIMEOUT p) = s.rd (R.FLG_CNT_TIMEOUT p) + 1 ∧
        (s.f (R.FLG_WAIT_REC0 p) F.FLG_WAIT_REC0_VALID = 0 →
          t.f (R.FLG_WAIT_REC0 p) F.FLG_WAIT_REC0_VALID = 1 ∧ t.f (R.FLG_WAIT_REC0 p) F.FLG_WAIT_REC0_KIND = 15) ∧
        (∀ u, s.tenOfDie (dieOf p) = some u → s.jobState u = jRunning → t.jobState u = jStopping) ∧
        t.spad = s.spad ∧ t.hbm = s.hbm)

/-- Collectives and re-shard fences join their contexts' queues. Where the core's list has room, holds nothing but commands that
take slots, and nothing in it waits for partners, each of the six collective operations leaves the list at once and joins
the end of the node's queue as the next instance of the context its operand names, with its opcode, descriptor address, flag
and count; nothing else changes but the access engine's numbers and the die's cycle. With 1,024 commands queued on the node
it waits in the core's list instead. (R237, R242, R250) -/
def Obligations.CollectivesIssue : Prop :=
  ∀ (p : Pos) (x : Nat) (o : AeSlot) (s : State), ListSlotted s p → s.aeOk p o = true →
    ∀ q ∈ [(Instr.collAllreduce p x o, 0x48), (.collRscatter p x o, 0x49), (.collAllgather p x o, 0x4A),
        (.collBcast p x o, 0x4B), (.collPermute p x o, 0x4C), (.collEpoch p x o, 0x4D)], o.collWf (q.2 == 0x4D) = true →
      ∃ t, exec q.1 s = .next t ∧
        (s.colls.queue.length < 1024 → ∃ e,
          t.colls = { s.colls with
            queue := s.colls.queue ++ [e]
            joined := s.colls.joined.set (fun _ => 0) e.ctx (s.colls.joined.get (fun _ => 0) e.ctx + 1) } ∧
          e.op = q.2 ∧ e.pos = p.val ∧ e.ctx = s.value p o.d % 2 ^ 20 ∧ e.flag = o.flag ∧ e.cnt = o.cnt ∧
          e.inst = s.colls.joined.get (fun _ => 0) e.ctx % 65536 ∧
          (q.2 ≠ 0x4D → e.far = BitVec.ofNat 64 (s.farOf p o.a).addr) ∧ (t.ae p).cmds = (s.ae p).cmds ∧
          (∀ j, j ≠ p.val → t.ae j = s.ae j) ∧ ClockedTo s t (dieOf p) x ∧
          t = { s with aes := t.aes, dies := t.dies, colls := t.colls }) ∧
        (1024 ≤ s.colls.queue.length → ∃ c, Joined s t p x c ∧ c.kind = .coll q.2 ∧ c.ctx = some (s.value p o.d % 2 ^ 20))

/-- Collectives and re-shard fences start, drain and complete. COLL_START takes the first command queued on a context on which
nothing runs. A re-shard fence of a member runs from then on, with the last SEQ of each of its context's streams that has a
packet outstanding; on a node that is no member of the context's set the command fails with SHAPE. EPOCH_FENCE_DRAINED in a
context of one member switches it to the next epoch and completes the fence. COLL_COMPLETE ends a collective that has done
all it must: it is counted, its flag is set unless poisoned and its context, below 2,147,483,647, counts one. (R242, R243,
R248, R250) -/
def Obligations.CollectivesStartAndEnd : Prop :=
  (∀ (x : Nat) (c : CollCmd) (s : State), s.collNext x = some c → Unarmed s 0x33 → c.op = 0x4D →
    (∀ (p : Pos), ∀ e ∈ (s.ae p).cmds, ∀ op, e.kind ≠ .coll op) →
    let m := s.mset (s.ctx x).mset
    ∃ t, exec (.collStart x) s = .next t ∧ t.colls.queue = s.colls.queue.erase c ∧
      t.rd R.COL_CNT_STARTED = s.rd R.COL_CNT_STARTED + 1 ∧ t.colls.joined = s.colls.joined ∧
      t = { s with regs := t.regs, colls := t.colls } ∧
      (m.valid = true → (s.rankIn m s.node).isSome = true → (s.ctx x).alloc = true →
        (∃ r, t.colls.runs = s.colls.runs ++ [r] ∧ r.cmd = c ∧ r.drained = false ∧ r.marks = s.fenceMarks x) ∧
        RegsBut s t [R.COL_CNT_STARTED]) ∧
      ((m.valid = false ∨ s.rankIn m s.node = none ∨ (s.ctx x).alloc = false) →
        t.collRun x = none ∧ t.rd R.COL_CNT_FAILED = s.rd R.COL_CNT_FAILED + 1 ∧
        t.f R.COL_EVENT F.COL_EVENT_SHAPE = 1 ∧ RegsBut s t [R.COL_CNT_STARTED, R.COL_CNT_FAILED, R.COL_EVENT])) ∧
  (∀ (x : Nat) (r : CollRun) (s : State), s.collRun x = some r → r.cmd.op = 0x4D → r.drained = false →
    s.fenceClear r = true → s.ctxMembers x = [s.node] → r.cmd.flag = none → r.cmd.cnt = false →
    ∃ t, exec (.epochFenceDrained x) s = .next t ∧ t.ctx x = { s.ctx x with epoch := ((s.ctx x).epoch + 1) % 256 } ∧
      (∀ y, y ≠ x → t.ctx y = s.ctx y) ∧ t.collRun x = none ∧ t.rd R.COL_CNT_EPOCH = s.rd R.COL_CNT_EPOCH + 1 ∧
      t.rd R.COL_CNT_DONE = s.rd R.COL_CNT_DONE + 1 ∧ RegsBut s t [R.COL_CNT_EPOCH, R.COL_CNT_DONE] ∧
      t = { s with regs := t.regs, ctxs := t.ctxs, colls := t.colls }) ∧
  ∀ (x : Nat) (r : CollRun) (s : State), s.collRun x = some r → s.collDone r = true →
    ∃ t, exec (.collComplete x) s = .next t ∧ t.collRun x = none ∧
      (r.cmd.flag = none → r.cmd.cnt = false →
        t.rd R.COL_CNT_DONE = s.rd R.COL_CNT_DONE + 1 ∧ RegsBut s t [R.COL_CNT_DONE] ∧
        t = { s with regs := t.regs, colls := t.colls }) ∧
      (∀ n, r.cmd.flag = some n → n < 1024 → r.cmd.pos < 256 → r.cmd.cnt = false → s.poisoned r.cmd.pos n = false →
        t.flag r.cmd.pos n = true) ∧
      (r.cmd.flag = none → r.cmd.cnt = true → Unarmed s 0x20 → (s.ctx x).count < 2 ^ 31 - 1 →
        t.ctx x = { s.ctx x with count := (s.ctx x).count + 1 } ∧ (∀ y, y ≠ x → t.ctx y = s.ctx y) ∧
        RegsBut s t [R.COL_CNT_DONE])

/-- The cox executes, traps and halts. COX_INSTRUCTION of a cox that is ready and takes no interrupt executes the word at its
pc: an immediate operation other than a shift writes its register and the pc moves on by 4, a store of a word to DMEM writes
those 4 bytes and no other, and ECALL enters the handler, in machine mode with interrupts off; inside the handler a second
trap halts the cox instead, with COX_TRAP telling pc and cause. An enabled interrupt enters the handler in place of an
instruction. The machine-mode registers are those of the RISC-V privileged architecture (log 11). (R151, R152) -/
def Obligations.CoxRuns : Prop :=
  ∀ (p : Pos) (x : Nat) (s : State), s.coxReady p x = true → Unarmed s 0x29 →
    let c := s.cox p
    let w := memWord c.imem c.pc.toNat 4
    let int := s.coxIrq p && c.mie &&& meiMask != 0 && c.mstatus &&& 0x8 != 0
    let entry : W32 := c.mtvec &&& ~~~ 3
    ∃ t, exec (.coxInstruction p x) s = .next t ∧
      (int = true → c.inTrap = false → RegsBut s t [] ∧ (t.cox p).mepc = c.pc ∧ (t.cox p).mcause = 0x8000000B ∧
        (t.cox p).inTrap = true ∧ (t.cox p).mstatus &&& 0x8 = 0 ∧ (t.cox p).xs = c.xs ∧
        (c.mtvec.toNat % 4 = 0 → (t.cox p).pc = entry) ∧ (c.mtvec.toNat % 4 = 1 → (t.cox p).pc = entry + 44)) ∧
      (int = false → c.pc.toNat + 4 ≤ 0x8000 → w % 4 = 3 →
        (w % 128 = 0x13 → bitsOf w 12 3 ≠ 1 → bitsOf w 12 3 ≠ 5 →
          t.cox p = { c.setX (bitsOf w 7 5) (aluOp (bitsOf w 12 3) false (c.x (bitsOf w 15 5))
              (BitVec.ofNat 32 (sx 12 (bitsOf w 20 12)))) with pc := c.pc + 4, next := x + 1, wfi := false } ∧
            (∀ j, j ≠ p.val → t.cox j = s.cox j) ∧ ClockedTo s t (dieOf p) x ∧
            t.rd (R.COX_CNT_INSTR p) = s.rd (R.COX_CNT_INSTR p) + 1 ∧ RegsBut s t [R.COX_CNT_INSTR p] ∧
            t = { s with regs := t.regs, coxes := t.coxes, dies := t.dies }) ∧
        (w % 128 = 0x23 → bitsOf w 12 3 = 2 →
          let a := (c.x (bitsOf w 15 5) + BitVec.ofNat 32 (sx 12 (bitsOf w 25 7 * 32 + bitsOf w 7 5))).toNat
          a % 4 = 0 → 0x10000000 ≤ a → a + 4 ≤ 0x10010000 →
          t.cox p = { c with
            dmem := memPut c.dmem (a - 0x10000000) 4 (c.x (bitsOf w 20 5)).toNat
            pc := c.pc + 4, next := x + 1, wfi := false } ∧
          memWord (t.cox p).dmem (a - 0x10000000) 4 = (c.x (bitsOf w 20 5)).toNat ∧
          (∀ b n, (b + n ≤ a - 0x10000000 ∨ a - 0x10000000 + 4 ≤ b) → memWord (t.cox p).dmem b n = memWord c.dmem b n) ∧
          RegsBut s t [R.COX_CNT_INSTR p] ∧ t = { s with regs := t.regs, coxes := t.coxes, dies := t.dies }) ∧
        (w = 0x73 → c.inTrap = false →
          (t.cox p).mepc = c.pc ∧ (t.cox p).mcause = 11 ∧ (t.cox p).pc = entry ∧ (t.cox p).inTrap = true ∧
            (t.cox p).mstatus &&& 0x8 = 0 ∧ (t.cox p).xs = c.xs ∧ (t.cox p).dmem = c.dmem ∧ RegsBut s t []) ∧
        (w = 0x73 → c.inTrap = true →
          (t.cox p).halted = true ∧ (t.rd (R.COX_TRAP p)).toNat = c.pc.toNat + 11 * 2 ^ 32 ∧
            t.f (R.COX_EVENT p) F.COX_EVENT_TRAP = 1 ∧ (t.cox p).xs = c.xs))

/-- A post enters the ready set. A post of a heat that is admitted enters its die's ready set, at its end, with its class, its
core and its cycle and with a watch for each gate, where the set has room, nothing waits for room, and no gate is a
regatta's and none of the set names a poisoned flag. With 64 entries it waits for room, with POST_STALL. A heat number the
module does not define for the die sets BAD_POST. The writer has its answer. (R165, R166, R203) -/
def Obligations.PostsEnterTheReadySet : Prop :=
  ∀ (iss : Issuer) (p : Pos) (x n : Nat) (s : State), n < 65536 → (s.die (dieOf p)).now ≤ x →
    Admitted s iss (R.COX_HEAT_POST p) (BitVec.ofNat 64 n) → Unarmed s 0x2A →
    let d := dieOf p
    let answer := Out.answer iss (R.COX_HEAT_POST p) sOK 0
    ∃ t, exec (.heatPost iss p x n) s = .next t ∧
      (∀ h, s.heatDef d n = some h → (s.die d).postWait = [] → (s.die d).ready.length < 64 → (∀ g ∈ h.gates, g.kind ≠ 6) →
        (∀ e : ReadyEntry, e.heat = n ∨ e ∈ (s.die d).ready → s.poisonedGate d e = none) →
        ∃ e, (t.die d).ready = (s.die d).ready ++ [e] ∧ e.heat = n ∧ e.cls = h.cls ∧ e.poster = p.val ∧ e.cycle = x ∧
          e.tick = s.time ∧ e.watch.length = h.gates.length ∧ (∀ w ∈ e.watch, w.on = true) ∧
          (t.die d).now = max (s.die d).now x ∧ (∀ j, j ≠ d → t.die j = s.die j) ∧
          t = { s with dies := t.dies, out := s.out ++ [answer] }) ∧
      (∀ h, s.heatDef d n = some h → (s.die d).postWait = [] → 64 ≤ (s.die d).ready.length →
        (t.die d).ready = (s.die d).ready ∧ (t.die d).postWait = [(p.val, n, false)] ∧
        t.f (R.STR_EVENT d) F.STR_EVENT_POST_STALL = 1 ∧ RegsBut s t [R.STR_EVENT d] ∧
        t = { s with regs := t.regs, dies := t.dies, out := s.out ++ [answer] }) ∧
      (s.heatDef d n = none → t.f (R.STR_EVENT d) F.STR_EVENT_BAD_POST = 1)

/-- PRM writes are staged. A write of a PRM register, or a SET or ADD through COX_PATCH, that is admitted: with no heat on the
core's die and nothing queued on the core it applies at once, to that PRM modulo 2^48 and to no other; with entries queued
and room in the queue it joins the end of it, and no PRM changes; with eight queued it waits for room, with PATCH_STALL. The
writer has its answer. (R153, R154) -/
def Obligations.PatchesStage : Prop :=
  ∀ (iss : Issuer) (p : Pos) (x : Nat) (prm : Fin 64) (s : State), (s.die (dieOf p)).now ≤ x →
    ∀ i off w add v, ((∃ n, i = Instr.coxPatchWrite iss p x add prm n ∧ off = R.COX_PATCH p ∧ w = patchWord add prm n ∧
        v = n % 2 ^ 48) ∨
      (∃ n : Word, i = .prmWrite iss p x prm n ∧ off = R.PRM p prm ∧ w = n ∧ add = false ∧ v = n.toNat % 2 ^ 48)) →
    Admitted s iss off w →
    ∃ t, exec i s = .next t ∧ t.out = s.out ++ [.answer iss off sOK 0] ∧
      ((s.die (dieOf p)).run = none → (s.core p).patches = [] → (s.core p).patchWait = [] →
        t.prm p prm = (if add = true then s.prm p prm + v else v) % 2 ^ 48 ∧
        t.rd (R.COX_CNT_PATCH p) = s.rd (R.COX_CNT_PATCH p) + 1 ∧ RegsBut s t [R.PRM p prm, R.COX_CNT_PATCH p] ∧
        ClockedTo s t (dieOf p) x ∧ t = { s with regs := t.regs, dies := t.dies, out := t.out }) ∧
      ((s.core p).patches ≠ [] → (s.core p).patches.length < 8 →
        t.core p = { s.core p with patches := (s.core p).patches ++ [⟨prm, add, v, x⟩] } ∧ RegsBut s t [] ∧
        ClockedTo s t (dieOf p) x ∧ t = { s with cores := t.cores, dies := t.dies, out := t.out }) ∧
      (8 ≤ (s.core p).patches.length →
        t.core p = { s.core p with patchWait := (s.core p).patchWait ++ [⟨prm, add, v, x⟩] } ∧
        t.f (R.COX_EVENT p) F.COX_EVENT_PATCH_STALL = 1 ∧ RegsBut s t [R.COX_EVENT p])

/-- Patch windows and their warning. In the patch window of a replay the entries staged before it apply, in order, one a cycle,
and the queue is empty after it: each PRM takes what its own entries make of it, modulo 2^48, and no other register of the
core's PRMs changes; the core sees the window, and the replay is counted. With no heat on the core the oldest entry applies
at once. REPLAY_NEAR warns exactly the cores whose lead falls in that cycle. (R153, R154, R171) -/
def Obligations.PatchWindowsApply : Prop :=
  (∀ (p : Pos) (x : Nat) (s : State), s.windowAtCycle p x = true → (s.core p).patchWait = [] →
    (s.core p).patches.length ≤ 8 → (∀ e ∈ (s.core p).patches, e.at_ < x ∧ e.prm < 64) → (∀ n, s.rulingFor p n = []) →
    ∃ t, exec (.patchWindow p x) s = .next t ∧ (t.core p).patches = [] ∧ (t.core p).window = some x ∧
      (∀ n : Fin 64, t.prm p n = (s.core p).patches.foldl (fun v e =>
        if e.prm = n.val then (if e.add = true then v + e.value else e.value) % 2 ^ 48 else v) (s.prm p n)) ∧
      t.f (R.COX_IRQ_STAT p) F.COX_IRQ_STAT_WINDOW = 1 ∧ t.rd (R.COX_CNT_REPLAY p) = s.rd (R.COX_CNT_REPLAY p) + 1 ∧
      t.rd (R.COX_CNT_PATCH p) = s.rd (R.COX_CNT_PATCH p) + BitVec.ofNat 64 (s.core p).patches.length ∧
      t.spad = s.spad ∧ t.hbm = s.hbm ∧ ClockedTo s t (dieOf p) x) ∧
  (∀ (p : Pos) (x : Nat) (e : Patch) (l : List Patch) (s : State), (s.die (dieOf p)).run = none →
    (s.core p).patches = e :: l → e.prm < 64 →
    ∃ t, exec (.patchWindow p x) s = .next t ∧ t.prm p e.prm = (if e.add = true then s.prm p e.prm + e.value else e.value) % 2 ^ 48 ∧
      RegsBut s t [R.PRM p e.prm, R.COX_CNT_PATCH p] ∧ ∃ m, (t.core p).patches = l ++ m) ∧
  ∀ (d : Die) (x : Nat) (r : RunHeat) (s : State), (s.die d).run = some r → s.nearCores d x r ≠ [] →
    ∃ t, exec (.replayNear d x) s = .next t ∧ ClockedTo s t d x ∧ t = { s with regs := t.regs, dies := t.dies } ∧
      (∀ p : Pos, dieOf p = d.val →
        t.f (R.COX_IRQ_STAT p) F.COX_IRQ_STAT_REPLAY_NEAR =
          if (s.nearCores d x r).contains p.val then 1 else s.f (R.COX_IRQ_STAT p) F.COX_IRQ_STAT_REPLAY_NEAR) ∧
      RegsBut s t ((s.nearCores d x r).map fun p => R.COX_IRQ_STAT p)

/-- Heats are chosen, start and end. HEAT_CHOICE on a die with nothing to settle first runs the choice of R170: with a choice
the entry leaves the ready set and its heat, variant, replays and operating point become the die's heat, not yet started,
and every consuming gate's flag is clear; with none only the entries' marks of being eligible change. HEAT_START starts
replay 0 in the cycle R171 gives: the clusters it uses are ACTIVE and the other active ones GATED, and the counters of
starts and of the variant step. HEAT_END ends it: the die has no heat, each of its cores sees HEAT_END and STR_LAST tells
heat, variant and replays. (R153, R163, R167, R170, R171, R172, R191) -/
def Obligations.HeatsRunTheirCourse : Prop :=
  (∀ (d : Die) (x : Nat) (s : State), (s.die d).run = none → s.strBlocked d = false → s.dieDown d = false →
    (s.die d).now < x → s.clockGood d = true → (s.die d).postWait = [] →
    (∀ e ∈ (s.die d).ready, s.poisonedGate d e = none) →
    (s.choose d x = none → ∃ t, exec (.heatChoice d x) s = .next t ∧ (t.die d).run = none ∧
      t.die d = { s.die d with now := x, ready := (s.die d).ready.map fun e => { e with eligible := s.eligible d x e } } ∧
      (∀ j, j ≠ d.val → t.die j = s.die j) ∧ t = { s with dies := t.dies }) ∧
    (∀ c, s.choose d x = some c → (∀ g ∈ c.heat.gates, g.sel < 1024) →
      ∃ t r, exec (.heatChoice d x) s = .next t ∧ (t.die d).run = some r ∧ r.heat = c.heat.no ∧ r.variant = c.no ∧
        r.bodyNo = c.variant.body ∧ r.replays = c.variant.count ∧ r.opp = c.variant.opp ∧ r.chosen = x ∧ r.start = none ∧
        r.clusters = s.variantClusters d c.variant ∧ (t.die d).ready.length + 1 = (s.die d).ready.length ∧
        t.spad = s.spad ∧ t.hbm = s.hbm ∧ t.engines = s.engines ∧
        ((∀ p, s.landsAt p x = []) →
          ∀ g ∈ c.heat.gates, g.kind = 1 → t.flag (s.gateCore d g) g.sel = false))) ∧
  (∀ (d : Die) (x : Nat) (r : RunHeat) (s : State), (s.die d).run = some r → r.start = none → r.waking = [] →
    x = r.startAt → s.clockGood d = true → (∀ p ∈ s.runCores d r, (s.core p).patches = []) → r.variant < 4 →
    ∃ t, exec (.heatStart d x) s = .next t ∧ (t.die d).run = some { r with start := some x } ∧
      (∀ c : Fin 4, t.cluster d c = if r.clusters.contains c.val then 0 else if s.cluster d c = 0 then 1 else s.cluster d c) ∧
      (∀ p : Pos, p.val ∈ s.runCores d r →
        t.f (R.COX_IRQ_STAT p) F.COX_IRQ_STAT_HEAT_START = 1 ∧ (t.core p).window = none) ∧
      t.rd (R.STR_CNT_STARTS d) = s.rd (R.STR_CNT_STARTS d) + 1 ∧
      t.rd (R.STR_CNT_VAR d r.variant) = s.rd (R.STR_CNT_VAR d r.variant) + 1 ∧
      t = { s with regs := t.regs, dies := t.dies, cores := t.cores }) ∧
  ∀ (d : Die) (x : Nat) (r : RunHeat) (s : State), (s.die d).run = some r → r.lastCycle = some x →
    (∀ p ∈ s.runCores d r, (s.core p).window = some (x - 7)) → r.slowSent = false →
    (∀ k, s.tenOfDie d = some k → ∀ j, s.job k 0 = some j → j.endCode = none) → r.heat < 65536 → r.variant < 4 →
    ∃ t, exec (.heatEnd d x) s = .next t ∧ (t.die d).run = none ∧ (t.die d).lastOpp = some r.opp ∧
      (∀ p : Pos, p.val ∈ s.runCores d r → t.f (R.COX_IRQ_STAT p) F.COX_IRQ_STAT_HEAT_END = 1) ∧
      t.f (R.STR_LAST d) F.STR_LAST_HEAT_NO = r.heat ∧ t.f (R.STR_LAST d) F.STR_LAST_VARIANT = r.variant ∧
      t.f (R.STR_LAST d) F.STR_LAST_REPLAYS = r.replays % 2 ^ 32 ∧ t.spad = s.spad ∧ t.hbm = s.hbm ∧
      t = { s with regs := t.regs, dies := t.dies, cores := t.cores }

/-- Gate watchdogs, flag stores, signals and forecasts. A gate's watchdog that runs out while its gate does not hold sets
WAIT_TIMEOUT for the gate's core; while it holds, it is spent and nothing else changes. An admitted store to a flag's word
sets or clears it by bit 0; an admitted write of 1 to its bit of FLG_POISON returns a poisoned flag with state 0 and leaves
the other flags of its word. A pending signal whose count has been reached sets its flag and is gone. A forecast is held,
the one that ends first giving way to a ninth, and a removal or a lapse takes out its entries; the bucket is cut to the
ceiling then in force. (R169, R175, R189, R190, R199, R203, R204, R206) -/
def Obligations.WatchdogsFlagsAndForecasts : Prop :=
  (∀ (d : Die) (n k : Nat) (e : ReadyEntry) (h : HeatDef) (w : GateWatch) (g : Gate) (s : State),
    (s.die d).ready[n]? = some e → s.heatDef d e.heat = some h → e.watch[k]? = some w → h.gates[k]? = some g →
    w.on = true → e.tick + w.limit ≤ s.time → Unarmed s 0x23 →
    (s.gateHolds d g w.gen = true → ∃ t, exec (.gateWatchdogExpire d n k) s = .next t ∧
      t.die d = { s.die d with ready := (s.die d).ready.map fun q =>
        if q = e then { q with watch := q.watch.set k { w with on := false } } else q } ∧
      (∀ j, j ≠ d.val → t.die j = s.die j) ∧ t = { s with dies := t.dies }) ∧
    (s.gateHolds d g w.gen = false → s.gateCore d g < 256 → (s.die d).postWait = [] →
      ∃ t, exec (.gateWatchdogExpire d n k) s = .next t ∧
        t.f (R.FLG_EVENT (s.gateCore d g)) F.FLG_EVENT_WAIT_TIMEOUT = 1)) ∧
  (∀ (iss : Issuer) (p : Pos) (n : Fin 1024) (x : Nat) (v : Word) (s : State), (s.die (dieOf p)).now ≤ x →
    Unarmed s 0x1D → s.coreClosed p = false → s.poisoned p n = false →
    s.entitled iss (s.hostTen iss) aWrite 3 (p.val * 2 ^ 13 + 8 * n.val) 8 (.flag p n) v = true →
    ∃ t, exec (.flagStore iss p n x v) s = .next t ∧
      (v.toNat % 2 = 1 → t.flag p n = true) ∧
      (v.toNat % 2 = 0 → (s.landsAt p x) = [] → t.flag p n = false ∧ t.out = s.out ++ [.answer iss (p.val * 2 ^ 13 + 8 * n.val) sOK 0] ∧
        RegsBut s t [R.FLG_STATE p (n / 64), R.FLG_CNT_CLEAR p] ∧
        (∀ m : Fin 1024, m ≠ n → t.flag p m = s.flag p m))) ∧
  (∀ (iss : Issuer) (p : Pos) (n : Fin 1024) (x : Nat) (s : State), (s.die (dieOf p)).now ≤ x → s.poisoned p n = true →
    Admitted s iss (R.FLG_POISON p (n / 64)) (BitVec.ofNat 64 (2 ^ (n.val % 64))) →
    ∃ t, exec (.flagUnpoison iss p n x) s = .next t ∧ t.poisoned p n = false ∧ t.flag p n = false ∧
      (∀ m : Fin 1024, m ≠ n → t.poisoned p m = s.poisoned p m ∧ t.flag p m = s.flag p m) ∧
      RegsBut s t [R.FLG_POISON p (n / 64), R.FLG_STATE p (n / 64)] ∧ ClockedTo s t (dieOf p) x ∧
      t = { s with regs := t.regs, dies := t.dies, out := s.out ++ [.answer iss (R.FLG_POISON p (n / 64)) sOK 0] }) ∧
  (∀ (x i : Nat) (g : Signal) (s : State), s.signalAt x i = some g → g.due = true → g.pos < 256 → g.flag < 1024 →
    s.poisoned g.pos g.flag = false →
    ∃ t, exec (.signalApply x i) s = .next t ∧ t.flag g.pos g.flag = true ∧
      (s.flag g.pos g.flag = false → Unarmed s 0x22 → t.ctxs = { s.ctxs with sigs := s.ctxs.sigs.erase g } ∧
        RegsBut s t [R.FLG_STATE g.pos (g.flag / 64), R.FLG_CNT_SET g.pos, R.FLG_CLR_RACE g.pos (g.flag / 64),
          R.FLG_CNT_CLR_RACE g.pos])) ∧
  (∀ (p : Pos) (r : Bool) (mj lead len : Nat) (s : State), forecastOk r mj lead len = true →
    let d := dieOf p
    let l := (s.die d).forecasts
    let e : Forecast := ⟨p, mj, s.time + ticksUs lead, s.time + ticksUs lead + ticksUs len⟩
    ∃ t, exec (.heatForecast p r mj lead len) s = .next t ∧ t = { s with dies := t.dies } ∧
      (∀ j, j ≠ d → t.die j = s.die j) ∧
      (t.die d).bucket = min (s.die d).bucket ((t.ceilingOf d : Nat) : Int) ∧
      (r = true → (t.die d).forecasts = l.filter fun q => q.core != p.val) ∧
      (r = false → l.length < 8 → (t.die d).forecasts = l ++ [e]) ∧
      (r = false → 8 ≤ l.length → ∀ f ∈ l, (∀ q ∈ l, q ≠ f → f.stop < q.stop) → (t.die d).forecasts = l.erase f ++ [e])) ∧
  ∀ (d : Die) (s : State), (∃ e ∈ (s.die d).forecasts, e.stop ≤ s.time) →
    ∃ t, exec (.forecastLapse d) s = .next t ∧ t = { s with dies := t.dies } ∧
      (t.die d).forecasts = ((s.die d).forecasts.filter fun e => decide (s.time < e.stop)) ∧
      (t.die d).bucket = min (s.die d).bucket ((t.ceilingOf d : Nat) : Int)

/-- Grants divide the cap among the dies. GRANT_RECOMPUTE gives every powered die of an admitted tenancy that is not pre-empted
its part of the cap less the package's own draw, by the tenancies' shares and then by the demands of their dies, derated by
temperature, in whole watts, and cuts its bucket to the ceiling that follows. Nothing but these changes. (R169, R184) -/
def Obligations.GrantsDivideTheCap : Prop :=
  ∀ (s : State), ∃ t, exec .grantRecompute s = .next t ∧ t = { s with dies := t.dies } ∧
    ∀ (u : Ten) (d : Die), u.val ∈ s.liveTens → d.val ∈ s.diesOf u → (∀ v ∈ s.liveTens, v ≠ u.val → d.val ∉ s.diesOf v) →
      s.dieDown d = false →
      let avail := s.f R.PWR_CAP F.PWR_CAP_CAP_W - s.pkgW
      let held := (((List.range 8).filter fun v => s.f (R.TEN_T_CFG v) F.TEN_T_CFG_VALID == 1).map s.shareOf).sum
      let live := (s.liveTens.map s.shareOf).sum
      let dem := (((s.diesOf u).filter fun e => !s.dieDown e).map s.demand).sum
      let a := avail * held * s.shareOf u / (256 * live) * s.demand d * (s.thermOf d).1 / (dem * (s.thermOf d).2)
      t.die d = { s.die d with alloc := a, bucket := min (s.die d).bucket ((t.ceilingOf d : Nat) : Int) }

/-- The buckets fill and drain by the modelled energy. In a 1 µs window with no heat running, no unit in drift and a modelled
power within the cap and below 8,600 W, the bucket of every powered die takes its allocation and gives the whole microjoules
of its modelled energy, up to its ceiling; the fraction of a microjoule is carried, the counts of events start again and, in
service, the energy is counted. RESERVE_REFILL adds a thousandth of the reserve's capacity, up to it. (R169, R176, R179,
R182) -/
def Obligations.BucketsFillAndDrain : Prop :=
  (∀ (frames : Nat) (s : State), Unarmed s 0x3E →
    (∀ d : Fin 8, (s.die d).run = none ∧ (s.die d).drifted = false) → (s.die 8).drifted = false →
    let pj := (((List.range 8).filter fun d => !s.dieDown d).map s.diePj).sum + s.pkgPj frames
    pj < 1000000 * (s.f R.PWR_CAP F.PWR_CAP_CAP_W + 1) → pj < 8600000000 →
    ∃ t, exec (.bucketWindow frames) s = .next t ∧ t.spad = s.spad ∧ t.hbm = s.hbm ∧
      ∀ d : Die, s.dieDown d = false →
        let e := (s.die d).pj + s.diePj d
        (t.die d).bucket = min ((s.die d).bucket + (s.die d).alloc - (e / 1000000 : Nat)) ((s.ceilingOf d : Nat) : Int) ∧
        (t.die d).pj = e % 1000000 ∧ (t.die d).counts = [] ∧ (t.die d).alloc = (s.die d).alloc ∧
        (s.inService d = true → t.rd (R.PWR_DIE_MODEL_UJ d) = s.rd (R.PWR_DIE_MODEL_UJ d) + BitVec.ofNat 64 (e / 1000000))) ∧
  ∀ (s : State), (∀ d : Fin 8, ∀ r, (s.die d).run = some r → r.pin = true → 0 < (s.die d).bucket) →
    ∃ t, exec .reserveRefill s = .next t ∧ RegsBut s t [R.PWR_RESERVE] ∧ t = { s with regs := t.regs } ∧
      t.f R.PWR_RESERVE F.PWR_RESERVE_LEVEL = (min (1000 * s.f R.PWR_POLICY F.PWR_POLICY_RESERVE_MJ)
        (s.f R.PWR_RESERVE F.PWR_RESERVE_LEVEL + s.f R.PWR_POLICY F.PWR_POLICY_RESERVE_MJ)) % 2 ^ 32

/-- Operating points, droop and the die clock. OPP_STEP sets the throttle level of R174 and moves the die one index toward its
target, outside a pinned heat, and notes the time of a move. A droop trip stretches the clock and counts; its end counts the
time; after 100 µs the die steps down one index where it may. The PLL stops with every ACTIVE cluster GATED, and at relock
it runs and is locked; nothing but the registers of the die's clock and the time its idleness counts from changes. (R173,
R174, R183, R187) -/
def Obligations.OperatingPointsMove : Prop :=
  (∀ (d : Die) (s : State), s.dieDown d = false → s.mayStep d = true → s.f (R.CLK_STAT d) F.CLK_STAT_OPP_NOW ≤ 5 →
    (∀ r, (s.die d).run = some r → r.pin = false) →
    (s.throttleNext d ≠ (s.die d).throttle ∨ s.oppTarget d ≠ s.f (R.CLK_STAT d) F.CLK_STAT_OPP_NOW) →
    let now := s.f (R.CLK_STAT d) F.CLK_STAT_OPP_NOW
    ∃ t, exec (.oppStep d) s = .next t ∧ (t.die d).throttle = s.throttleNext d ∧ RegsBut s t [R.CLK_STAT d] ∧
      t.f (R.CLK_STAT d) F.CLK_STAT_OPP_NOW =
        (if t.oppTarget d < now then now - 1 else if now < t.oppTarget d then now + 1 else now) ∧
      (t.oppTarget d ≠ now → (t.die d).lastStep = some s.time) ∧ t = { s with regs := t.regs, dies := t.dies }) ∧
  (∀ (d : Die) (cl : Fin 4) (s : State), s.dieDown d = false →
    ∃ t, exec (.droopTrip d cl) s = .next t ∧ t.f (R.CLK_STAT d) F.CLK_STAT_STRETCH = 1 ∧
      t.rd (R.CLK_CNT_DROOP d) = s.rd (R.CLK_CNT_DROOP d) + 1 ∧ RegsBut s t [R.CLK_STAT d, R.CLK_CNT_DROOP d]) ∧
  (∀ (d : Die) (n : Nat) (s : State), s.f (R.CLK_STAT d) F.CLK_STAT_STRETCH = 1 → 32 ≤ n →
    ∃ t, exec (.droopEnd d n) s = .next t ∧ t.f (R.CLK_STAT d) F.CLK_STAT_STRETCH = 0 ∧
      t.rd (R.CLK_CNT_STRETCH_PS d) = s.rd (R.CLK_CNT_STRETCH_PS d) + BitVec.ofNat 64 (n * 1000000 / s.mhz d) ∧
      RegsBut s t [R.CLK_STAT d, R.CLK_CNT_STRETCH_PS d]) ∧
  (∀ (d : Die) (us : Nat) (s : State), s.dieDown d = false → s.f (R.CLK_STAT d) F.CLK_STAT_STRETCH = 1 → 100 < us →
    Unarmed s 0x39 → s.mayStep d = true → s.f (R.CLK_STAT d) F.CLK_STAT_OPP_NOW < 5 → (s.die d).run = none →
    ∃ t, exec (.droopSustained d us) s = .next t ∧ t.f (R.CLK_EVENT d) F.CLK_EVENT_DROOP_SUSTAINED = 1 ∧
      t.f (R.CLK_STAT d) F.CLK_STAT_OPP_NOW = s.f (R.CLK_STAT d) F.CLK_STAT_OPP_NOW + 1) ∧
  (∀ (d : Die) (s : State), s.dieDown d = false → s.f (R.CLK_STAT d) F.CLK_STAT_STOPPED = 0 → s.heatPending d = false →
    (s.die d).idleFrom + ticksUs 50 ≤ s.time →
    ∃ t, exec (.pllStop d) s = .next t ∧ t.f (R.CLK_STAT d) F.CLK_STAT_STOPPED = 1 ∧
      t.f (R.CLK_STAT d) F.CLK_STAT_LOCKED = 0 ∧
      (∀ c : Fin 4, t.cluster d c = if s.cluster d c = 0 then 1 else s.cluster d c) ∧
      t.rd (R.CLK_CNT_PLL_STOPS d) = s.rd (R.CLK_CNT_PLL_STOPS d) + 1 ∧ RegsBut s t [R.CLK_STAT d, R.CLK_CNT_PLL_STOPS d] ∧
      t = { s with regs := t.regs }) ∧
  ∀ (d : Die) (ns : Nat) (s : State), s.dieDown d = false → s.f (R.CLK_STAT d) F.CLK_STAT_LOCKED = 0 → s.pins.refclk = true →
    ns ≤ 15000 → (∀ w ∈ s.waits, w.die ≠ d.val) →
    ∃ t, exec (.pllRelock d ns) s = .next t ∧ t.f (R.CLK_STAT d) F.CLK_STAT_STOPPED = 0 ∧
      t.f (R.CLK_STAT d) F.CLK_STAT_LOCKED = 1 ∧ t.die d = { s.die d with idleFrom := s.time } ∧
      t.rd (R.CLK_CNT_RELOCK_NS d) = s.rd (R.CLK_CNT_RELOCK_NS d) + BitVec.ofNat 64 ns ∧
      RegsBut s t [R.CLK_STAT d, R.CLK_CNT_RELOCK_NS d] ∧ t = { s with regs := t.regs, dies := t.dies }

/-- Temperature and the sleep of clusters. THERMAL_SAMPLE keeps the highest of a die's 32 readings; below 100 °C the throttle is
off, from there it is on with THERMAL_THROTTLE, and from 110 °C the die is shut down. THERMAL_RESTORE powers it again.
CLUSTER_RETAIN puts an idle, quiet cluster in RETAIN and changes nothing else; CLUSTER_WAKE of a cluster that keeps its
state makes it ACTIVE and ends the heat's wait for it. (R171, R184, R185, R186) -/
def Obligations.HeatAndSleep : Prop :=
  (∀ (d : Die) (l : List Nat) (s : State), l.length = 32 → s.power.ao = true → Unarmed s 0x3A → Unarmed s 0x3B →
    (s.die d).hotUntil = none → s.dieDown d = false →
    ∃ t, exec (.thermalSample d l) s = .next t ∧
      (l.foldl max 0 < 100 → t.f (R.PWR_DIE_STAT d) F.PWR_DIE_STAT_TMAX = l.foldl max 0 ∧
        t.f (R.PWR_DIE_STAT d) F.PWR_DIE_STAT_THROTTLE = 0 ∧
        (∀ n : Fin 32, t.f (R.PWR_CORE_TEMP d n) F.PWR_CORE_TEMP_TEMP = l.getD n 0) ∧
        RegsBut s t (R.PWR_DIE_STAT d :: (List.range 32).map fun n => R.PWR_CORE_TEMP d n) ∧
        t = { s with regs := t.regs, dies := t.dies }) ∧
      (100 ≤ l.foldl max 0 → l.foldl max 0 < 110 → (s.die d).thermStep.isSome = true → (s.die d).run = none →
        t.f (R.PWR_DIE_STAT d) F.PWR_DIE_STAT_TMAX = l.foldl max 0 ∧ t.f (R.PWR_DIE_STAT d) F.PWR_DIE_STAT_THROTTLE = 1 ∧
        t.f (R.PWR_DIE_EVENT d) F.PWR_DIE_EVENT_THERMAL_THROTTLE = 1) ∧
      (110 ≤ l.foldl max 0 → t.dieDown d = true ∧ (t.die d).thermalOff = true)) ∧
  (∀ (d : Die) (s : State), (s.die d).thermalOff = true → s.bhUp = true → s.f (R.PWR_DIE_STAT d) F.PWR_DIE_STAT_TMAX < 90 →
    s.tenOfDie d = none →
    ∃ t, exec (.thermalRestore d) s = .next t ∧ t.dieDown d = false ∧ (t.die d).idleFrom = s.time) ∧
  (∀ (d : Die) (cl : Fin 4) (s : State), s.dieDown d = false → s.cluster d cl < 2 → s.clusterQuiet d cl = true →
    (s.diePreempted d = true ∨ (s.clusterUsed d cl = false ∧
      (s.die d).idleClusters.get (fun _ => 0) cl + ticksUs (s.f (R.STR_CTL d) F.STR_CTL_RETAIN_IDLE) ≤ s.time)) →
    (∀ r, (s.die d).run = some r → r.clusters.contains cl.val = false) →
    ∃ t, exec (.clusterRetain d cl) s = .next t ∧ t.cluster d cl = 2 ∧ (∀ c : Fin 4, c ≠ cl → t.cluster d c = s.cluster d c) ∧
      RegsBut s t [R.CLK_STAT d] ∧ t = { s with regs := t.regs }) ∧
  ∀ (d : Die) (cl : Fin 4) (x : Nat) (r : RunHeat) (s : State), (s.die d).run = some r → r.waking.contains cl.val = true →
    r.chosen < x → s.cluster d cl ≠ 3 →
    ∃ t, exec (.clusterWake d cl x) s = .next t ∧ t.cluster d cl = 0 ∧
      (t.die d).run = some { r with waking := r.waking.erase cl, wakeDone := some (max x (r.wakeDone.getD 0)) } ∧
      (∀ c : Fin 4, c ≠ cl → t.cluster d c = s.cluster d c) ∧ RegsBut s t [R.CLK_STAT d] ∧
      t = { s with regs := t.regs, dies := t.dies }

/-- Calibration and drift of the power model. A recalibration that starts fits the coefficient of every class a powered die has
seen an event of, within half and twice its default and within 10% of what it was, and no other of that die; one that
conflicts leaves every coefficient. A measured interval counts each powered die's measured energy, starts its modelled
energy again and counts the intervals in a row that disagree by more than 8%; the tenth sets POWER_MODEL_DRIFT. What a fit
comes to is a free value (log 4). (R180, R181) -/
def Obligations.ModelsAreFitted : Prop :=
  (∀ (s : State), s.f R.PWR_POLICY F.PWR_POLICY_CAL_EN = 1 → Unarmed s 0x52 →
    let q : MaintReq := { act := 4, scope := 0, arg := 0, iss := .boathouse, asked := s.time, started := s.time, image := none }
    let free := ∀ m ∈ s.maint.running ++ s.maint.queue, s.maintConflict q m = false
    ∃ t, exec .calibration s = .next t ∧
      (free → t.maint = s.maint ∧ t.rd (R.MNT_CNT_RUN 3) = s.rd (R.MNT_CNT_RUN 3) + 1 ∧ ∀ (d : Die) (k : Fin 16),
        s.dieDown d = false →
        let old := s.f (R.PWR_COEF d k) F.PWR_COEF_COEF
        (bitOf (s.die d).classes k = true → t.f (R.PWR_COEF d k) F.PWR_COEF_COEF =
          fitted old (defaultCoef k) (Config.calibrationFit d k (BitVec.ofNat 32 old) s.free) % 2 ^ 32) ∧
        (bitOf (s.die d).classes k = false → t.rd (R.PWR_COEF d k) = s.rd (R.PWR_COEF d k)) ∧ (t.die d).classes = 0) ∧
      (¬ free → s.maint.queue.length < 64 → t.maint.queue = s.maint.queue ++ [q] ∧
        RegsBut s t [R.MNT_STAT, R.MNT_CNT_DEFER 3])) ∧
  ∀ (l : List Nat) (w : Nat) (s : State), l.length = 8 → s.power.ao = true → Unarmed s 0x38 → w < 8600 →
    (∀ d : Fin 9, (s.die d).forceDrift = 0) →
    ∃ t, exec (.driftInterval l w) s = .next t ∧
      ∀ d : Die, s.dieDown d = false →
        let bad := aboveEight (s.die d).interval (l.getD d 0)
        t.rd (R.PWR_DIE_MEAS_UJ d) = s.rd (R.PWR_DIE_MEAS_UJ d) + BitVec.ofNat 64 (l.getD d 0 * 100000) ∧
        (bad = true → (s.die d).drift = 9 → t.f (R.PWR_DIE_EVENT d) F.PWR_DIE_EVENT_POWER_MODEL_DRIFT = 1) ∧
        ((∀ j : Fin 9, (s.die j).drift < 9) → (t.die d).interval = 0 ∧
          (t.die d).drift = (if bad = true then (s.die d).drift + 1 else 0) ∧
          t.rd (R.PWR_DIE_EVENT d) = s.rd (R.PWR_DIE_EVENT d))

/-- Puts, permute pieces and multicast puts arrive. A put that meets no refusal is written where it says: its bytes stand in the
scratchpad it names, every other byte of the scratchpads, where the core holds no confirmed zero tile, and of HBM is as
before, and the answer OK goes back. It counts one on its context where it says so and the counter is below 2,147,483,647;
its signal sets the flag of the core it writes to where the count has been reached and the flag is not poisoned. A piece of
a permute is counted for its instance. At a leaf of its tree a multicast put does the same. A copy whose number is done is
answered DUP and writes nothing. (R195, R199, R216, R220, R221, R222, R235, R246) -/
def Obligations.PutsArrive : Prop :=
  ∀ (k : Packet) (i : Instr) (s : State), Arrives s k → Answerable s k →
    ((i = .put k ∧ k.op ≤ 1 ∧ k.dst = s.node ∧ isPiece k = false) ∨
      (i = .permutePiece k ∧ k.op ≤ 1 ∧ k.dst = s.node ∧ isPiece k = true) ∨
      (i = .putMc k ∧ k.op = 2 ∧ k.mcast = true ∧ isPiece k = false ∧ (s.tree k.tree).valid = true ∧
        (s.tree k.tree).deliver = true ∧ (s.tree k.tree).out = 0)) →
    let answered (t : State) (st : Nat) : Prop :=
      Sent t fun a => a.op = 6 ∧ a.dst = k.src ∧ a.ctx = k.ctx ∧ a.seq = k.seq ∧ a.status = st
    (((s.clearTransit k).rxFind k).1 = .dup →
      ∃ t, exec i s = .next t ∧ answered t sDUP ∧ t.spad = s.spad ∧ t.hbm = s.hbm ∧ t.ctxs.recs = s.ctxs.recs ∧
        t.aes = s.aes) ∧
    (((s.clearTransit k).rxFind k).1 = .fresh →
      ∀ p o, Reaches s k aWrite k.payload.length (BitVec.ofNat 64 (leNat (k.payload.take 8))) p o → k.payload ≠ [] →
        s.signalFull (some k.ctx) k.cntEn (if k.flagEn then some k.flag else none) k.exp = false →
        ∃ t, exec i s = .next t ∧ answered t sOK ∧ (∀ j (h : j < k.payload.length), t.spadByte p (o + j) = k.payload[j]) ∧
          t.hbm = s.hbm ∧
          ((s.ae p).zconf = [] → ∀ (q : Pos) (a : Nat), a < 2 ^ 23 → (q.val = p → a < o ∨ o + k.payload.length ≤ a) →
            t.spadByte q a = s.spadByte q a) ∧
          (isPiece k = false → k.cntEn = true → k.flagEn = false → Unarmed s 0x20 → (s.ctx k.ctx).count < 2 ^ 31 - 1 →
            (t.ctx k.ctx).count = (s.ctx k.ctx).count + 1) ∧
          (isPiece k = false → k.flagEn = true → k.cntEn = false → k.exp ≤ (s.ctx k.ctx).count → s.poisoned p k.flag = false →
            t.flag p k.flag = true) ∧
          (isPiece k = true → t.colls.moved.get (fun _ => 0) (65536 * k.ctx + bitsOf k.opnd0.toNat 0 16) =
            s.colls.moved.get (fun _ => 0) (65536 * k.ctx + bitsOf k.opnd0.toNat 0 16) + k.payload.length))

/-- Load requests and atomics arrive. A load request that meets no refusal sends back the bytes it names and changes no memory.
An atomic that meets none replaces its word by its operation's result, applied to the word as it was, sends that word back,
and changes no other byte of HBM or, where the core holds no confirmed zero tile, of a scratchpad; a copy of it whose number
is done is answered DUP and changes none. (R216, R222, R226, R227, R228) -/
def Obligations.LoadsAndAtomicsArrive : Prop :=
  (∀ (k : Packet) (s : State), Arrives s k → Answerable s k → k.op = 3 → k.dst = s.node →
    ∀ p o, Reaches s k aRead (k.len + 1) 0 p o →
    ∃ t, exec (.loadReq k) s = .next t ∧ t.spad = s.spad ∧ t.hbm = s.hbm ∧ t.ctxs.recs = s.ctxs.recs ∧
      Sent t fun a => a.op = 4 ∧ a.dst = k.src ∧ a.ctx = k.ctx ∧ a.seq = k.seq ∧ a.status = sOK ∧
        a.payload = s.spadBytes p o (k.len + 1)) ∧
  ∀ (k : Packet) (s : State), Arrives s k → Answerable s k → 0x20 ≤ k.op → k.op ≤ 0x27 → k.dst = s.node →
    (((s.clearTransit k).rxFind k).1 = .dup →
      ∃ t, exec (.atomic k) s = .next t ∧ t.spad = s.spad ∧ t.hbm = s.hbm ∧
        Sent t fun a => a.op = 5 ∧ a.dst = k.src ∧ a.ctx = k.ctx ∧ a.seq = k.seq ∧ a.status = sDUP) ∧
    (((s.clearTransit k).rxFind k).1 = .fresh → k.offset % 8 = 0 → ∀ p o, Reaches s k aAtomic 8 k.opnd0 p o →
      let old := BitVec.ofNat 64 (leNat (s.spadBytes p o 8))
      ∃ t, exec (.atomic k) s = .next t ∧ t.spadBytes p o 8 = leBytes 8 (atomicNew (k.op - 0x20) old k.opnd0 k.opnd1).toNat ∧
        t.hbm = s.hbm ∧
        ((s.ae p).zconf = [] → ∀ (q : Pos) (a : Nat), a < 2 ^ 23 → (q.val = p → a < o ∨ o + 8 ≤ a) →
          t.spadByte q a = s.spadByte q a) ∧
        Sent t fun a => a.op = 5 ∧ a.dst = k.src ∧ a.ctx = k.ctx ∧ a.seq = k.seq ∧ a.status = sOK ∧ a.opnd0 = old)

/-- Answers reach their senders, and packets are sent again. A load response's bytes reach the part of the fetch that asked. An
atomic's old value is written where its command says, and the command leaves the list. A final completion takes a notice's
packet from its stream, and one that asks for time marks it to be sent again 1 µs later. A packet whose timer runs out, or
whose delay has passed, is sent again and counted in its record while it has resends left; a notice without any left leaves
its stream. (R216, R222, R223, R224, R226, R228) -/
def Obligations.AnswersReachTheirSenders : Prop :=
  (∀ (k : Packet) (e : TxPkt) (p id part : Nat) (c : AeCmd) (r : AeReq) (s : State), k.wf = true → headGood k = true →
    k.op = 4 → k.dst = s.node → k.status = sOK → (k.payload ≠ [] → crc32c k.payload = k.pcrc) → Unarmed s 0x14 →
    s.txPkt k.ctx k.src k.seq = some e → e.k.mcast = false → e.owner = .ae p id part → s.aeCmd p id = some c →
    c.kind = .fetch → c.version = 0 → c.req part = some r →
    ∃ t g u, exec (.loadRsp k) s = .next t ∧ t.aeCmd p id = some g ∧ g.req part = some u ∧ u.st = 2 ∧ u.data = k.payload) ∧
  (∀ (k : Packet) (e : TxPkt) (p : Pos) (id part op : Nat) (c : AeCmd) (s : State), k.wf = true → headGood k = true →
    k.op = 5 → k.dst = s.node → k.status = sOK → s.txPkt k.ctx k.src k.seq = some e → e.k.mcast = false →
    e.owner = .ae p id part → s.aeCmd p id = some c → c.kind = .atomic op → Unarmed s 0x1E → Unarmed s 0x08 →
    Unarmed s 0x09 → c.loc + 8 ≤ 2 ^ 23 →
    ∃ t, exec (.atomicRsp k) s = .next t ∧ t.aeCmd p id = none ∧ t.hbm = s.hbm ∧
      (c.last = 1 → t.spadBytes p c.loc 8 = leBytes 8 k.opnd0.toNat) ∧ (c.last ≠ 1 → t.spad = s.spad)) ∧
  (∀ (k : Packet) (e : TxPkt) (s : State), k.wf = true → headGood k = true → k.op = 6 → k.dst = s.node → k.mcast = false →
    s.txPkt k.ctx k.src k.seq = some e → e.k.mcast = false → e.owner = .notice →
    ∃ t, exec (.completion k) s = .next t ∧
      (k.status ≤ sDUP → t.txPkt k.ctx k.src k.seq = none ∧ t = { s with fab := t.fab }) ∧
      ((k.status = sSIGFULL ∨ k.status = sAHEAD ∨ k.status = sTRACK ∨ k.status = sPENDING) →
        (∃ f, t.txPkt k.ctx k.src k.seq = some f ∧ f.again = some (s.time + ticksUs 1) ∧ f.resends = e.resends) ∧
        t = { s with fab := t.fab })) ∧
  ∀ (x d n : Nat) (e : TxPkt) (i : Instr) (s : State), s.txPkt x d n = some e →
    ((i = .retryTimeout x d n ∧ e.again = none ∧
        ∃ t0, e.sent = some t0 ∧ t0 + ticksMs (s.f R.FAB_CTL F.FAB_CTL_RETRY_MS) ≤ s.time) ∨
      (i = .resendDelay x d n ∧ ∃ t0, e.again = some t0 ∧ t0 ≤ s.time)) →
    (e.resends < s.f R.FAB_CTL F.FAB_CTL_RETRY_LIMIT → Unarmed s 0x1B → e.k.mcast = false → e.k.ctx = x → e.k.dst < s.nodes →
      e.k.dst ≠ s.node → s.upDownPorts 5 none ≠ [] →
      ∃ t f, exec i s = .next t ∧ t.txPkt x d n = some f ∧ f.resends = e.resends + 1 ∧ f.sent = some s.time ∧ f.again = none ∧
        Sent t fun a => a.op = e.k.op ∧ a.dst = e.k.dst ∧ a.ctx = x ∧ a.seq = n ∧ a.payload = e.k.payload) ∧
    (s.f R.FAB_CTL F.FAB_CTL_RETRY_LIMIT ≤ e.resends → e.owner = .notice →
      ∃ t, exec i s = .next t ∧ t.txPkt x d n = none)

/-- Notices, management messages and collective packets arrive. A CTRL packet of kind 1 sets COLLECTIVE_SLOW in its context's
record and one of kind 2 clears it (the encoding is the model's, log 14); the sender is answered OK. A management message is
counted and changes nothing else of the state but the input it came by. Data for a broadcast that runs are written to its
destination at their place; data for an instance that does not run are not. A READY, and an EPOCH_CLOSE, on a context on
which nothing runs is held. (R178, R214, R222, R245, R246, R247, R250) -/
def Obligations.NoticesArrive : Prop :=
  (∀ (k : Packet) (s : State), Arrives s k → Answerable s k → k.dst = s.node → ((s.clearTransit k).rxFind k).1 = .fresh →
    let answered (t : State) : Prop := Sent t fun a => a.op = 6 ∧ a.dst = k.src ∧ a.ctx = k.ctx ∧ a.seq = k.seq ∧ a.status = sOK
    (k.op = 7 → bitsOf k.opnd0.toNat 0 2 = 1 ∨ bitsOf k.opnd0.toNat 0 2 = 2 →
      ∃ t, exec (.ctrl k) s = .next t ∧ answered t ∧ (t.ctx k.ctx).slow = (bitsOf k.opnd0.toNat 0 2 == 1) ∧
        t.spad = s.spad ∧ t.hbm = s.hbm) ∧
    (k.op = 8 → k.mcast = false →
      (s.collRun k.ctx = none → ∃ t, exec (.collData k) s = .next t ∧ answered t ∧ t.spad = s.spad ∧ t.hbm = s.hbm ∧
        t.colls = s.colls) ∧
      (∀ r p o, s.collRun k.ctx = some r → r.cmd.op = 0x4B → r.cmd.inst = bitsOf k.opnd0.toNat 0 16 → k.payload ≠ [] →
        targetOf (kSpace r.dst) (kOff r.dst + k.opnd1.toNat * etyBytes r.ety) k.payload.length = .spad p o →
        Unarmed s 0x08 → Unarmed s 0x09 →
        ∃ t, exec (.collData k) s = .next t ∧ answered t ∧
          (∀ j (h : j < k.payload.length), t.spadByte p (o + j) = k.payload[j]) ∧ t.hbm = s.hbm)) ∧
    (k.op = 9 → s.collRun k.ctx = none → ∃ t, exec (.collReady k) s = .next t ∧ answered t ∧
      t.colls = { s.colls with ready := s.colls.ready ++
        [(k.ctx, bitsOf k.opnd0.toNat 0 16, k.src, bitsOf k.opnd0.toNat 16 8, k.opnd1.toNat)] }) ∧
    (k.op = 10 → s.collRun k.ctx = none → ∃ t, exec (.epochClose k) s = .next t ∧ answered t ∧
      t.colls = { s.colls with closes := s.colls.closes ++ [(k.ctx, k.src, bitsOf k.opnd0.toNat 16 8)] })) ∧
  ∀ (k : Packet) (s : State), k.wf = true → headGood k = true → k.op = 16 → k.dst = s.node →
    (k.payload ≠ [] → crc32c k.payload = k.pcrc) → Unarmed s 0x14 →
    ∃ t, exec (.mgmt k) s = .next t ∧ t.rd R.FAB_CNT_PKT_RX = s.rd R.FAB_CNT_PKT_RX + 1 ∧
      t.rd R.FAB_CNT_BYTES_RX = s.rd R.FAB_CNT_BYTES_RX + BitVec.ofNat 64 k.payload.length ∧
      RegsBut s t [R.FAB_CNT_PKT_RX, R.FAB_CNT_BYTES_RX] ∧ t = { s with regs := t.regs, fab := (s.clearTransit k).fab }

/-- Link groups, routers and retraining. A group that is whole and in order is taken: its number is acknowledged, its credits
are added, its flits counted. One that cannot be corrected is refused. A head for this node with payload to come holds its
input; a whole young head for another node goes on or waits for a port; a damaged one goes nowhere. A C0 head that has
waited long enough moves to the escape channel. A packet whose tail is late is cut, and the cut passed on; a cut that
arrives ends the packet at its input, passes on, and at its destination is answered CUT. A port that loses groups without a
failed one trains on the rest; once trained it is in service. (R212, R213, R215, R218, R219, R234) -/
def Obligations.LinksAndRouters : Prop :=
  (∀ (p : PortId) (g : LinkGroup) (s : State), g.slots.length = 80 → s.f (R.FAB_PORT_STAT p) F.FAB_PORT_STAT_STATE = 2 →
    g.corrected = 0 → Unarmed s 0x10 → Unarmed s 0x11 → Unarmed s 0x12 →
    let c := g.control.toNat
    (g.fecOk = true → bitsOf c 488 24 = linkCrc g → bitsOf c 464 11 = ((s.port p).rxSeq + 1) % 2048 → bitOf c 486 = false →
      s.fab.heads = [] →
      ∃ t, exec (.linkGroupReceive p g) s = .next t ∧ (t.port p).rxSeq = bitsOf c 464 11 ∧ (t.port p).nakked = false ∧
        (t.port p).txSeq = (s.port p).txSeq ∧
        (t.port p).credit = (s.port p).credit.mapIdx (fun i n => n + (bitsOf c (400 + 8 * i) 8 : Int)) ∧
        t.out = s.out ++ [.linkAck p (bitsOf c 464 11)] ∧ RegsBut s t [R.FAB_PORT_FLITS_RX p] ∧
        t.rd (R.FAB_PORT_FLITS_RX p) = s.rd (R.FAB_PORT_FLITS_RX p) + BitVec.ofNat 64
          (((List.range 80).map (linkMark g)).filter fun m => m.2 == 1 || m.2 == 2).length) ∧
    (g.fecOk = false → ∃ t n, exec (.linkGroupReceive p g) s = .next t ∧ (t.port p).nakked = true ∧
      t.out = s.out ++ [.linkNak p n])) ∧
  (∀ (p : PortId) (k : Packet) (s : State), k.wf = true → s.f (R.FAB_PORT_STAT p) F.FAB_PORT_STAT_STATE = 2 →
    Unarmed s 0x13 → Unarmed s 0x1C → Unarmed s 0x19 →
    (k.hcrc ≠ k.headCrc → ∃ t, exec (.packetForward p k) s = .next t ∧ t.out = s.out ∧ t.spad = s.spad ∧ t.hbm = s.hbm) ∧
    (k.hcrc = k.headCrc → k.age < 5000 → k.dst = s.node → opKnown k.op = true → k.body ≠ 0 →
      ∃ t, exec (.packetForward p k) s = .next t ∧
        t = { s with fab := { s.fab with transits := s.fab.transits ++ [⟨p, k.vc, k, none, k.body, s.time, false⟩] } }) ∧
    (k.hcrc = k.headCrc → k.age < 5000 → k.dst ≠ s.node → k.mcast = false → k.dst < s.nodes →
      s.upDownPorts k.vc (some p) ≠ [] →
      ∃ t, exec (.packetForward p k) s = .next t ∧ t.spad = s.spad ∧ t.hbm = s.hbm ∧
        Sent t fun a => a.op = k.op ∧ a.src = k.src ∧ a.dst = k.dst ∧ a.ctx = k.ctx ∧ a.seq = k.seq ∧ a.payload = k.payload)) ∧
  (∀ (p : PortId) (h : HeadWait) (s : State), h.k.wf = true →
    (s.fab.heads.find? fun e => e.k.vc == 4 && (e.inp == some p.val || e.inp.isNone) && e.k.ctx == h.k.ctx &&
      e.k.seq == h.k.seq && e.k.src == h.k.src && e.k.dst == h.k.dst && e.k.op == h.k.op) = some h →
    s.f R.FAB_CTL F.FAB_CTL_ESC_WAIT_NS ≤ 40 * (s.time - h.since) → s.upDownPorts 4 h.inp ≠ [] →
    ∃ t, exec (.escWaitExpire p h.k) s = .next t ∧
      Sent t fun a => a.vc = 6 ∧ a.op = h.k.op ∧ a.dst = h.k.dst ∧ a.ctx = h.k.ctx ∧ a.seq = h.k.seq) ∧
  (∀ (p : PortId) (vc : Fin 8) (u : Transit) (q : Nat) (s : State),
    (s.fab.transits.find? fun e => e.port == p.val && e.vc == vc.val && !e.cut && decide (e.remain ≠ 0)) = some u →
    u.last + ticksUs (s.f R.FAB_CTL F.FAB_CTL_TAIL_US) ≤ s.time → u.out = some q →
    ∃ t, exec (.tailTimeout p vc) s = .next t ∧ t.out = s.out ++ [.cutEnd q u.k.vc]) ∧
  (∀ (p : PortId) (vc : Fin 8) (u : Transit) (s : State),
    (s.fab.transits.find? fun e => e.port == p.val && e.vc == vc.val && decide (e.remain ≠ 0)) = some u →
    ∃ t, exec (.cutEndReceive p vc) s = .next t ∧
      (u.cut = true → t = s.dropTransit u) ∧
      (∀ q, u.cut = false → u.out = some q → t = (s.dropTransit u).emit (.cutEnd q u.k.vc)) ∧
      (u.cut = false → u.out = none → u.k.op ≤ 2 → Answerable s u.k →
        t.fab.transits = s.fab.transits.erase u ∧
        Sent t fun a => a.op = 6 ∧ a.dst = u.k.src ∧ a.ctx = u.k.ctx ∧ a.seq = u.k.seq ∧ a.status = sCUT)) ∧
  ∀ (p : PortId) (lost : BitVec 4) (s : State),
    let st := R.FAB_PORT_STAT p
    (s.f st F.FAB_PORT_STAT_STATE = 2 → lost ≠ 0 → s.f R.MNT_CTL F.MNT_CTL_REEQ_AUTO = 0 →
      ∃ t, exec (.portRetrain p lost 0) s = .next t ∧ t.f st F.FAB_PORT_STAT_STATE = 1 ∧
        t.f st F.FAB_PORT_STAT_LG_ACTIVE = s.f st F.FAB_PORT_STAT_LG_ACTIVE - (s.f st F.FAB_PORT_STAT_LG_ACTIVE &&& lost.toNat) ∧
        RegsBut s t [st] ∧ t = { s with regs := t.regs }) ∧
    (s.f st F.FAB_PORT_STAT_STATE = 1 → s.f st F.FAB_PORT_STAT_LG_ACTIVE ≠ 0 → s.fab.heads = [] →
      ∃ t, exec (.portRetrainDone p) s = .next t ∧ t.f st F.FAB_PORT_STAT_STATE = 2 ∧ RegsBut s t [st] ∧
        t = { s with regs := t.regs })

/-- Streams are freed, context records cached, copies brought up to date. A receiving stream without a packet for 1.61 s and one
sending for 2 s with none without a final answer are forgotten, the first without a report where it has no gap, and nothing
else changes then. A context record is brought into its cache where there is room: it is the most recent, and the miss is
counted. A copy of the records within reach again is brought up to date. (R222, R230) -/
def Obligations.StreamsAndRecords : Prop :=
  (∀ (x src : Nat) (r : RxStream) (s : State), s.rxStream x src = some r → r.last + ticksMs 1610 ≤ s.time →
    s.fab.transits = [] → Unarmed s 0x18 →
    ∃ t, exec (.rxStreamFree x src) s = .next t ∧ (r.done = [] → t = { s with fab := { s.fab with
      rx := s.fab.rx.filter fun u => !(u.ctx == x && u.src == src) } })) ∧
  (∀ (x dst : Nat) (r : TxStream) (s : State), s.txStream x dst = some r → r.pkts = [] → r.last + ticksMs 2000 ≤ s.time →
    exec (.txStreamFree x dst) s = .next { s with fab := { s.fab with
      tx := s.fab.tx.filter fun u => !(u.ctx == x && u.dst == dst) } }) ∧
  (∀ (x : Nat) (s : State), x < 2 ^ 20 → s.ctxs.lru.contains x = false → (s.ctxs.copyOk.1 = true ∨ s.ctxs.copyOk.2 = true) →
    (s.cachedOn (x % 2)).length < 65536 →
    ∃ t, exec (.ctxRecordLoad x) s = .next t ∧ t.ctxs = { s.ctxs with lru := x :: s.ctxs.lru } ∧
      t.rd (R.CTX_CNT_MISS (x % 2)) = s.rd (R.CTX_CNT_MISS (x % 2)) + 1 ∧ RegsBut s t [R.CTX_CNT_MISS (x % 2)] ∧
      t = { s with regs := t.regs, ctxs := t.ctxs }) ∧
  ∀ (s : State), (s.ctxs.copyOk = (false, true) → s.copyReach 0 = true →
      exec (.ctxCopyResync 0) s = .next { s with ctxs := { s.ctxs with copyOk := (true, true) } }) ∧
    (s.ctxs.copyOk = (true, false) → s.copyReach 1 = true →
      exec (.ctxCopyResync 1) s = .next { s with ctxs := { s.ctxs with copyOk := (true, true) } })

/-- Writes of registers, context records, trees, member sets, bindings and versions. Each of these admitted register writes is
answered OK. A context record's word 0 takes its signal core and request flag and clears SAT and UNDER where written 1, word
1 its count, the others nothing. FAB_MC_ENT sets the selected tree, with its pruned ports back. COL_MS_ORIG and COL_MS_EXT
set the selected set unless it is busy, a badly shaped one staying invalid with SHAPE; COL_BIND binds an allocated context
that is not busy; COL_VT_VER sets the entry's version. No other record, tree, set or entry changes. A write of a register of
the engine, vector, access-engine, starter, clock or stack-controller blocks, where no race is injected, gives its fields
the values their access codes say and changes no other register; one at an offset that no register occupies changes nothing.
A register of a core in GATED or RETAIN is read and written so too, and its cluster keeps its state. (R10, R12, R36, R231,
R232, R235, R236, R237, R238, R239, R252) -/
def Obligations.TableWritesAct : Prop :=
  (∀ (iss : Issuer) (v : Word) (s : State),
    let n := v.toNat
    let answered (t : State) (off : Nat) : Prop := t.out = s.out ++ [.answer iss off sOK 0]
    (∀ (w k : Fin 8), Admitted s iss (R.CTX_WIN_REC w k) v →
      let x := s.f (R.CTX_WIN_SEL w) F.CTX_WIN_SEL_CTX
      let r := s.ctx x
      ∃ t, exec (.ctxRecWrite iss w k v) s = .next t ∧ answered t (R.CTX_WIN_REC w k) ∧ (∀ y, y ≠ x → t.ctx y = s.ctx y) ∧
        (k = 0 → t.ctx x = { r with
          sigDie := bitsOf n 13 3, sigCore := bitsOf n 16 5, reqFlag := bitsOf n 21 10, reqEn := bitOf n 31
          sat := r.sat && !bitOf n 34, under := r.under && !bitOf n 35 }) ∧
        (k = 1 → t.ctx x = { r with count := bitsOf n 0 32 }) ∧ (2 ≤ k.val → t.ctx x = r)) ∧
    (Admitted s iss R.FAB_MC_ENT v → ∃ t, exec (.fabMcEntWrite iss v) s = .next t ∧ answered t R.FAB_MC_ENT ∧
      (let k := s.f R.FAB_MC_SEL F.FAB_MC_SEL_TREE
       t.tree k = { s.tree k with out := bitsOf n 0 16, deliver := bitOf n 16, valid := bitOf n 17, pruned := 0,
                                  leaves := bitsOf n 34 19 } ∧ ∀ j, j ≠ k → t.tree j = s.tree j) ∧
      t = { s with fab := t.fab, out := t.out }) ∧
    (let k := s.f R.COL_MS_SEL F.COL_MS_SEL_MS
     (Admitted s iss R.COL_MS_ORIG v → ∃ t, exec (.colMsOrigWrite iss v) s = .next t ∧ answered t R.COL_MS_ORIG ∧
       (s.msetBusy k = true → t.f R.COL_EVENT F.COL_EVENT_MS_BUSY = 1 ∧ t.colls = s.colls) ∧
       (s.msetBusy k = false → t.mset k = { s.mset k with orig := bitsOf n 0 24, step := bitsOf n 24 24 } ∧
         (∀ j, j ≠ k → t.mset j = s.mset j) ∧ t = { s with colls := t.colls, out := t.out })) ∧
     (Admitted s iss R.COL_MS_EXT v → ∃ t, exec (.colMsExtWrite iss v) s = .next t ∧ answered t R.COL_MS_EXT ∧
       (s.msetBusy k = true → t.f R.COL_EVENT F.COL_EVENT_MS_BUSY = 1 ∧ t.colls = s.colls ∧ t.fab = s.fab) ∧
       (s.msetBusy k = false →
         let m : MemberSet := { s.mset k with ext := bitsOf n 0 24, root := bitsOf n 24 18, tree := bitOf n 42, valid := bitOf n 43 }
         t.mset k = { m with valid := bitOf n 43 && s.msShape m } ∧ (∀ j, j ≠ k → t.mset j = s.mset j) ∧
         (bitOf n 43 = true → s.msShape m = false → t.f R.COL_EVENT F.COL_EVENT_SHAPE = 1) ∧
         (bitOf n 43 = true → s.msShape m = true → bitOf n 42 = true →
           (t.tree k).valid = true ∧ ∀ j, j ≠ k → t.tree j = s.tree j)))) ∧
    (Admitted s iss R.COL_BIND v → ∃ t, exec (.colBind iss v) s = .next t ∧ answered t R.COL_BIND ∧
      (let x := bitsOf n 0 20
       (∀ y, y ≠ x → t.ctx y = s.ctx y) ∧ ((s.ctx x).alloc = false → t = { s with out := t.out }) ∧
       ((s.ctx x).alloc = true → s.ctxBusy x = true → t.f R.COL_EVENT F.COL_EVENT_MS_BUSY = 1 ∧ t.ctx x = s.ctx x) ∧
       ((s.ctx x).alloc = true → s.ctxBusy x = false → t.ctx x = { s.ctx x with mset := bitsOf n 20 12 }))) ∧
    (Admitted s iss R.COL_VT_VER v → ∃ t, exec (.colVtVerWrite iss v) s = .next t ∧ answered t R.COL_VT_VER ∧
      (let k := s.f R.COL_VT_SEL F.COL_VT_SEL_ENTRY
       t.vtEntry k = { s.vtEntry k with version := bitsOf n 0 32 } ∧ ∀ j, j ≠ k → t.vtEntry j = s.vtEntry j) ∧
      t = { s with colls := t.colls, out := t.out })) ∧
  ∀ (iss : Issuer) (v : Word) (off : Nat) (s : State),
    let simple (bs : List Blk) : Prop := ∃ b i o, ctlDecode off = some (b, i, o) ∧ b ∈ bs
    let written (t : State) : Prop :=
      t.out = s.out ++ [.answer iss off sOK 0] ∧ t = { s with regs := t.regs, out := t.out } ∧ RegsBut s t [off] ∧
      (∀ q, regRow off = some q →
        t.rd off = BitVec.ofNat 64 (rowWrite q.2.2.2.1.fields (s.lockOpen iss) (s.rd off).toNat v.toNat)) ∧
      (regRow off = none → t.regs = s.regs)
    (Admitted s iss off v → simple [.ae, .eng, .cvu, .str, .clk, .hbm] → Unarmed s 0x24 →
      ∃ t, exec (.registerWrite iss off 8 v) s = .next t ∧ written t) ∧
    ∀ (p : Pos), (∃ b o, ctlDecode off = some (b, p.val, o) ∧ coreBlk b = true) → s.dieDown (dieOf p) = false →
      (s.cluster (dieOf p) (p.val / 8 % 4) = 1 ∨ s.cluster (dieOf p) (p.val / 8 % 4) = 2) →
      (Admitted s iss off v → simple [.ae, .eng, .cvu] →
        ∃ t, exec (.coreRegisterWake p iss off (some v)) s = .next t ∧ written t ∧
          t.cluster (dieOf p) (p.val / 8 % 4) = s.cluster (dieOf p) (p.val / 8 % 4)) ∧
      (s.entitled iss (s.hostTen iss) aRead 2 off 8 (.ctl off) 0 = true → targetOf 2 off 8 = .ctl off → Unarmed s 0x1D →
        s.fencedTarget (.ctl off) 8 = false → s.waitsFor off = none →
        exec (.coreRegisterWake p iss off none) s = .next { s with out := s.out ++ [.answer iss off sOK (s.view off)] })

/-- Optimizer passes begin, or say why not. An admitted pass command to a busy scribe is rejected and changes nothing else but
its event; while the scribe is being patched it waits. Otherwise the scribe is busy with it: PASS_2 without a valid PASS_1
ends in ORDER, a step record off its alignment in BAD_RECORD, a PASS_2 that finds a shard in error in SHARD_ERROR; a PASS_1
whose store is empty ends OK with the step marks of a scribe that has no entry. No byte of HBM changes in these. (R261,
R264, R267, R268, R269, R272, R279) -/
def Obligations.ScribePassesBegin : Prop :=
  ∀ (iss : Issuer) (k : Stk) (rec : Nat) (s : State), rec < 2 ^ 36 →
    ∀ q ∈ [(Instr.pass1 iss k rec, 1), (.pass2 iss k rec, 2)], Admitted s iss (R.SCB_PASS k) (passWord q.2 rec) →
      ∃ t, exec q.1 s = .next t ∧ t.out = s.out ++ [.answer iss (R.SCB_PASS k) sOK 0] ∧
        (let a := R.SCB_STAT k
         let r := parseRec (s.hbmBytes k rec 128)
         (s.f a F.SCB_STAT_BUSY = 1 → t.f (R.SCB_EVENT k) F.SCB_EVENT_PASS_REJECT = 1 ∧ RegsBut s t [R.SCB_EVENT k] ∧
           t = { s with regs := t.regs, out := t.out }) ∧
         (s.f a F.SCB_STAT_BUSY = 0 → (s.scribe k).patching = true →
           t.scribe k = { s.scribe k with queued := some (q.2, rec) } ∧ t = { s with scribes := t.scribes, out := t.out }) ∧
         (s.f a F.SCB_STAT_BUSY = 0 → (s.scribe k).patching = false → StackSound s k → Unarmed s 0x32 → Unarmed s 0x31 →
           (q.2 = 2 → s.f a F.SCB_STAT_P1_VALID = 0 → (t.scribe k).result = some pORDER ∧ (t.scribe k).op = 2 ∧
             t.f a F.SCB_STAT_BUSY = 1 ∧ t.hbm = s.hbm) ∧
           ((q.2 = 1 ∨ s.f a F.SCB_STAT_P1_VALID = 1) → rec % 64 ≠ 0 →
             (t.scribe k).result = some pBADREC ∧ t.hbm = s.hbm) ∧
           (q.2 = 2 → s.f a F.SCB_STAT_P1_VALID = 1 → rec % 64 = 0 → s.recOk k (s.hbmBytes k rec 128) r = true →
             (∃ p o, targetOf (kSpace r.sumsIn) (kOff r.sumsIn) (31 * r.stride + r.slice_) = .spad p o ∧ s.coreClosed p = false) →
             ∀ p o j, targetOf (kSpace r.stepsIn) (kOff r.stepsIn) 768 = .spad p o → s.coreClosed p = false → j < 32 →
               fieldAt (s.spadBytes p o 768) (24 * j + 16) 8 = 0 →
               (t.scribe k).result = some pSHARD ∧ t.f (R.SCB_EVENT k) F.SCB_EVENT_SHARD_ERROR = 1 ∧
                 t.f a F.SCB_STAT_BUSY = 1 ∧ t.hbm = s.hbm) ∧
           (q.2 = 1 → rec % 64 = 0 → s.recOk k (s.hbmBytes k rec 128) r = true → s.f (R.SCB_TABLE k) F.SCB_TABLE_NENT = 0 →
             Unarmed s 0x08 → Unarmed s 0x09 →
             (∃ p o, targetOf (kSpace (r.sumsOut + k * r.stride)) (kOff (r.sumsOut + k * r.stride)) r.slice_ = .spad p o) →
             ∀ p o, targetOf (kSpace (r.stepsOut + 24 * k)) (kOff (r.stepsOut + 24 * k)) 24 = .spad p o →
               s.coreClosed p = false →
               (t.scribe k).result = some pOK ∧ t.f a F.SCB_STAT_BUSY = 1 ∧ t.hbm = s.hbm ∧
                 t.spadBytes p o 24 = leBytes 8 (2 ^ 64 - 1) ++ leBytes 8 (2 ^ 64 - 1) ++ leBytes 8 2)))

/-- Entries start on their release, and passes complete. SCRIBE_ENTRY_START with no entry in progress takes the lowest entry not
yet done whose release holds: its release flags are cleared, where no set of them lands in that cycle, the version of its
parameters advances, 0 never among its values once past its end, and no memory changes; with none released it begins to
wait. A wait that reaches its limit ends the pass in TIMEOUT (where no threshold of its detector acts first).
SCRIBE_PASS_COMPLETE writes the completion word and the last-pass register, frees the scribe and counts the pass. (R252,
R270, R271, R273, R274, R275) -/
def Obligations.ScribeEntriesReleaseAndComplete : Prop :=
  (∀ (k : Stk) (s : State), (s.scribe k).op = 2 → (s.scribe k).result = none → (s.scribe k).held = false →
    (s.scribe k).left ≠ [] → (s.scribe k).cur = none → (s.scribe k).waits = none →
    (∀ i e, s.nextEntry k = some (i, e) → (∀ p, s.landsAt p (s.die (k / 4)).now = []) →
      ∃ t, exec (.scribeEntryStart k) s = .next t ∧ (t.scribe k).cur = some i ∧
        (t.scribe k).left = (s.scribe k).left.filter (· != i) ∧
        ((t.scribe k).result.isSome = ((s.scribe k).left.filter (· != i)).isEmpty) ∧
        (∀ j : Fin 64, bitOf e.relMask j = true →
          t.flag (32 * (k / 4) + bitsOf e.rel 0 5) (64 * bitsOf e.rel 5 4 + j) = false) ∧
        (e.vt ≠ 0xFFFF → t.vtEntry e.vt = { s.vtEntry e.vt with
          version := if (s.vtEntry e.vt).version = 2 ^ 32 - 1 then 1 else (s.vtEntry e.vt).version + 1 }) ∧
        (∀ n, n ≠ e.vt → t.vtEntry n = s.vtEntry n) ∧ t.spad = s.spad ∧ t.hbm = s.hbm) ∧
    (s.nextEntry k = none →
      ∃ t, exec (.scribeEntryStart k) s = .next t ∧ t.scribe k = { s.scribe k with waits := some s.time } ∧
        t.f (R.SCB_STAT k) F.SCB_STAT_WAIT_RELEASE = 1 ∧ RegsBut s t [R.SCB_STAT k] ∧
        t = { s with regs := t.regs, scribes := t.scribes })) ∧
  (∀ (k : Stk) (t0 : Nat) (s : State), (s.scribe k).op = 2 → (s.scribe k).result = none → (s.scribe k).waits = some t0 →
    t0 + s.f (R.SCB_REL_WD k) F.SCB_REL_WD_LIMIT ≤ s.time → s.nextEntry k = none → Unarmed s 0x32 →
    (s.threshold 0x32).1 = 0 →
    ∃ t, exec (.releaseWatchdogExpire k) s = .next t ∧ (t.scribe k).result = some pTIMEOUT ∧ (t.scribe k).left = [] ∧
      t.spad = s.spad ∧ t.hbm = s.hbm) ∧
  ∀ (k : Stk) (st : Nat) (s : State), (s.scribe k).result = some st → (s.scribe k).held = false → (s.scribe k).cur = none →
    (s.scribe k).op = 1 ∨ (s.scribe k).op = 2 → st < 16 → (s.scribe k).done < 2 ^ 32 → bitOf (s.stepRec k).doneCtx 31 = false →
    let c := s.scribe k
    let r := s.stepRec k
    let w := st + (c.op - 1) * 2 ^ 8 + c.done * 2 ^ 32
    ∃ t, exec (.scribePassComplete k) s = .next t ∧ t.scribe k = { c with op := 0, result := none } ∧
      t.f (R.SCB_STAT k) F.SCB_STAT_BUSY = 0 ∧ (c.op = 1 → st ≠ pBADREC → t.f (R.SCB_STAT k) F.SCB_STAT_P1_VALID = 1) ∧
      (s.doneOk k r = false → t = { s with regs := t.regs, scribes := t.scribes } ∧
        (t.rd (R.SCB_LAST k)).toNat = w + 2 ^ 9 ∧
        (let n := if c.op = 1 then R.SCB_CNT_PASS1 k else R.SCB_CNT_PASS2 k
         t.rd n = s.rd n + 1 ∧ RegsBut s t [R.SCB_LAST k, R.SCB_STAT k, n])) ∧
      (s.doneOk k r = true → Unarmed s 0x08 → Unarmed s 0x09 →
        ∀ p o, targetOf (kSpace (r.doneAt + 8 * k)) (kOff (r.doneAt + 8 * k)) 8 = .spad p o → s.coreClosed p = false →
          t.spadBytes p o 8 = leBytes 8 w ∧ t.hbm = s.hbm)

/-- Jobs are recovered, reset and restored. RECOVER sends a running or pre-empted job, with no snapshot under way, to stopping
with cause HOST, and each of its running heats ends with its present replay; any other job is left as it is. Once no heat of
it runs JOB_RESET holds it: every flag of its cores is poisoned and their coxes stop (with no collective, scribe pass or
ready heat to end). RESTORE and AUTO_RESTORE of a held job with an image in reach whose module translates on the dies it
comes back to make it run, or verify its replicated ranges first; RESTORE_VERIFY lets it run where every member's reply
agrees, and holds it where one does not and no majority is to be adopted. (R280, R281, R290, R291, R292, R296) -/
def Obligations.JobsStopAndComeBack : Prop :=
  (∀ (iss : Issuer) (u : Ten) (s : State), Admitted s iss R.SNP_CMD (snpWord 4 u 0 0 false 0) →
    let answer := Out.answer iss R.SNP_CMD sOK 0
    ∃ t, exec (.recover iss u) s = .next t ∧ t.out = s.out ++ [answer] ∧
      ((s.jobState u = jRunning ∨ s.jobState u = jPreempted) → s.snapRun u = none →
        t.jobState u = jStopping ∧ t.f (R.SNP_T_STAT u) F.SNP_T_STAT_CAUSE = 8 ∧ RegsBut s t [R.SNP_T_STAT u] ∧
        (∀ d ∈ s.diesOf u, ∀ r, (s.die d).run = some r →
          (t.die d).run = some { r with replays := min r.replays (r.replayAt (s.die d).now + 1) }) ∧
        t = { s with regs := t.regs, dies := t.dies, out := t.out }) ∧
      (s.jobState u ≠ jRunning → s.jobState u ≠ jPreempted → t = { s with out := t.out })) ∧
  (∀ (u : Ten) (s : State), s.jobState u = jStopping → s.tenRuns u = false → s.colls.queue = [] → s.colls.runs = [] →
    (∀ k, (s.scribe k).op = 0) → (∀ d, (s.die d).ready = []) → s.fab.tx = [] → s.ctxs.sigs = [] →
    ∃ t, exec (.jobReset u) s = .next t ∧ t.jobState u = jHeld ∧ t.spad = s.spad ∧ t.hbm = s.hbm ∧
      (∀ p : Pos, p.val ∈ s.coresOf u → t.f (R.COX_CTL p) F.COX_CTL_RUN = 0 ∧
        (∀ c ∈ (t.ae p).cmds, c.suppress = true) ∧ ∀ n : Fin 1024, t.poisoned p n = true ∧ t.flag p n = false)) ∧
  (∀ (u : Ten) (i : Instr) (src gen : Nat) (s : State),
    ((∃ iss, i = .restore iss u src gen ∧ src < 8 ∧ gen < 2 ^ 32 ∧ Admitted s iss R.SNP_CMD (snpWord 2 u src 0 false gen)) ∨
      (i = .autoRestore u ∧ src = 0 ∧ gen = 0 ∧ s.bhUp = true ∧ s.diesAwake u = true ∧
        ∃ p, s.ten.policies.look u = some p ∧ p.auto_ = true)) →
    ∀ j m dies, s.jobState u = jHeld → s.job u 0 = some j → j.endCode = none → s.imageOf u src gen = some m →
      s.spareMap u ((s.diesOf u).filter fun d => !j.dies.contains d && !s.stackLost d && !s.dieDown d) j.dies = some dies →
      let s1 := (s.redirect u).moveGrants u j dies
      let j1 := { j with dies := dies, grants := match s1.job u 0 with | some k => k.grants | none => j.grants }
      ∃ t, exec i s = .next t ∧ match ((s1.unmapCores u).translateJob u j1).1 with
        | .ok w => t.mods.look u = some w ∧
            ((m.flags.any fun f => f.1) = false → t.jobState u = jRunning) ∧
            ((m.flags.any fun f => f.1) = true → t.jobState u = jVerifying ∧ t.ten.images.look u = some m)
        | .error e => t.jobState u = jHeld ∧ t.f (R.SNP_T_STAT u) F.SNP_T_STAT_LAST_STATUS = (0x80 + e.status) % 256) ∧
  ∀ (u : Ten) (m : Image) (l : List (List (BitVec 512 × Nat) × List Byte)) (s : State), s.verifying u = some m →
    s.bhUp = true → s.repliesFit m l = true → Unarmed s 0x51 → (∀ j, s.job u 0 = some j → j.endCode = none) →
    ((∀ e ∈ m.replicas.zip l, ∀ r ∈ e.2.1, r = (Config.sha512 e.1.2.2.2.2.2, m.gen)) →
      ∃ t, exec (.restoreVerify u l) s = .next t ∧ t.jobState u = jRunning) ∧
    ((∃ e ∈ m.replicas.zip l, ∃ r ∈ e.2.1, r ≠ (Config.sha512 e.1.2.2.2.2.2, m.gen)) →
      (∀ p, s.ten.policies.look u = some p → p.adopt = false) →
      ∃ t, exec (.restoreVerify u l) s = .next t ∧ t.jobState u = jHeld ∧ t.f (R.SNP_T_STAT u) F.SNP_T_STAT_CAUSE = 9)

/-- Snapshots, pre-emption and resumption. An admitted SNAPSHOT of a running job, with a manifest that holds and nothing in its
way, waits for the boundary and no further heat of the tenancy is chosen; one with a bad manifest ends with status 4.
PREEMPT does the same without a copy, and RESUME lets a pre-empted job run with its retained clusters gated. Once no heat
runs the stop begins; when the tenancy is quiet a pre-emption is done. A boundary or a quiesce that takes too long ends the
attempt. When the copy is done the snapshot ends with status 0 and its generation is the local one, unless the copy was
torn: then it is no image. (R282, R283, R285, R286, R287) -/
def Obligations.SnapshotsRunTheirCourse : Prop :=
  (∀ (iss : Issuer) (u : Ten) (s : State), Admitted s iss R.SNP_CMD (snpWord 1 u 0 0 false 0) → s.jobState u = jRunning →
    s.snapRun u = none → Unarmed s 0x52 →
    (∀ b, s.manifest u = some b → s.manifestOk u (manEntries b) = true →
      (s.ten.drains.any fun l => l.t == u.val && l.layer == 1) = false →
      (∀ q ∈ s.maint.running ++ s.maint.queue, s.maintConflict ⟨6, u, 1, .boathouse, s.time, s.time, none⟩ q = false) →
      ∃ t, exec (.snapshot iss u) s = .next t ∧ t.snapRun u = some ⟨1, 1, s.time, s.time, [], false, true⟩ ∧
        t.choiceOpen u = false ∧ RegsBut s t [R.MNT_STAT] ∧ t.spad = s.spad ∧ t.hbm = s.hbm) ∧
    ((∀ b, s.manifest u = some b → s.manifestOk u (manEntries b) = false) →
      ∃ t, exec (.snapshot iss u) s = .next t ∧ t.f (R.SNP_T_STAT u) F.SNP_T_STAT_LAST_STATUS = 4 ∧
        t.rd R.SNP_CNT_FAILED = s.rd R.SNP_CNT_FAILED + 1 ∧ RegsBut s t [R.SNP_T_STAT u, R.SNP_CNT_FAILED] ∧
        t = { s with regs := t.regs, out := t.out })) ∧
  (∀ (iss : Issuer) (u : Ten) (s : State), Admitted s iss R.SNP_CMD (snpWord 5 u 0 0 false 0) → s.jobState u = jRunning →
    s.snapRun u = none →
    ∃ t, exec (.preempt iss u) s = .next t ∧ t.snapRun u = some ⟨5, 1, s.time, s.time, [], false, false⟩ ∧
      t.choiceOpen u = false ∧ t = { s with snaps := t.snaps, out := t.out }) ∧
  (∀ (iss : Issuer) (u : Ten) (s : State), Admitted s iss R.SNP_CMD (snpWord 6 u 0 0 false 0) → s.jobState u = jPreempted →
    s.snapRun u = none →
    ∃ t, exec (.resume iss u) s = .next t ∧ t.jobState u = jRunning ∧
      t.f (R.SNP_T_STAT u) F.SNP_T_STAT_LAST_STATUS = 0 ∧
      ∀ (d : Die) (c : Fin 4), d.val ∈ s.diesOf u → s.cluster d c = 2 → t.cluster d c = 1) ∧
  (∀ (u : Ten) (r : SnapRun) (s : State), s.snapRun u = some r → r.phase = 1 →
    (s.tenRuns u = false →
      ∃ t, exec (.snapshotStop u) s = .next t ∧ t.snapRun u = some { r with phase := 2, stopAt := s.time }) ∧
    (s.tenRuns u = true → r.asked + ticksMs (s.f R.SNP_CTL F.SNP_CTL_BOUNDARY_MS) < s.time → Unarmed s 0x50 →
      ∃ t, exec (.boundaryTimeout u) s = .next t ∧ t.snapRun u = none)) ∧
  (∀ (u : Ten) (r : SnapRun) (s : State), s.snapRun u = some r → r.phase = 2 → Unarmed s 0x50 →
    (s.quiesced u = false → r.stopAt + ticksUs (s.f R.SNP_CTL F.SNP_CTL_QUIESCE_US) < s.time →
      ∃ t, exec (.quiesceTimeout u) s = .next t ∧ t.snapRun u = none) ∧
    (s.quiesced u = true → r.what = 5 → (∀ j, s.job u 0 = some j → j.endCode = none) →
      ∃ t, exec (.quiesceComplete u) s = .next t ∧ t.snapRun u = none ∧ t.jobState u = jPreempted)) ∧
  ∀ (u : Ten) (r : SnapRun) (m : Image) (s : State), s.snapRun u = some r → r.phase = 4 → s.ten.images.look u = some m →
    s.pins.pcie = true →
    ∃ t, exec (.snapshotCopyComplete u) s = .next t ∧ t.snapRun u = none ∧
      (r.torn = false → t.f (R.SNP_T_GEN u) F.SNP_T_GEN_LOCAL = m.gen % 2 ^ 32 ∧ t.ten.images.look u = some m ∧
        t.f (R.SNP_T_STAT u) F.SNP_T_STAT_LAST_STATUS = 0) ∧
      (r.torn = true → t.ten.images.look u = none)

/-- Images drain to their layers and are shipped. When a layer holds an image COMPLETE it is the partner's, one of the two of
the flash, or the shared store's, by the layer, its generation is recorded, a mirror is due and the drain is over; a drain
that fails is over too. SHIP of an image in reach to a host sends the image's bytes on the policy's queue pair, counts it
and ends with status 0. (R284, R288, R289, R293) -/
def Obligations.ImagesDrainAndShip : Prop :=
  (∀ (u : Ten) (k : Fin 3) (l : LayerRun) (s : State), s.drain u (k.val + 1) = some l → s.bhUp = true → Unarmed s 0x42 →
    Unarmed s 0x43 →
    ∃ t, exec (.drainLayerComplete u k) s = .next t ∧ t.drain u (k.val + 1) = none ∧ t.mirrorDue = true ∧ t.spad = s.spad ∧
      t.hbm = s.hbm ∧
      (k = 0 → t.ten.partner.look u = some l.image ∧ t.f (R.SNP_T_GEN u) F.SNP_T_GEN_PARTNER = l.image.gen % 2 ^ 32 ∧
        t.ten.flash = s.ten.flash ∧ t.ten.shared = s.ten.shared ∧ t.out = s.out) ∧
      (k = 1 → t.ten.flash.look (flashKey u l.image.gen) = some l.image ∧
        t.f (R.SNP_T_GEN2 u) F.SNP_T_GEN2_FLASH = l.image.gen % 2 ^ 32 ∧ t.ten.partner = s.ten.partner ∧ t.out = s.out) ∧
      (k = 2 → t.ten.shared.look u = some l.image ∧ t.f (R.SNP_T_GEN2 u) F.SNP_T_GEN2_SHARED = l.image.gen % 2 ^ 32 ∧
        ∃ port qp, t.out = s.out ++ [.eth port qp 6 (l.image.bytes u s.node)])) ∧
  (∀ (u : Ten) (k : Fin 3) (l : LayerRun) (s : State), s.drain u (k.val + 1) = some l →
    ∃ t, exec (.drainFailed u k) s = .next t ∧ t.drain u (k.val + 1) = none ∧ t.ten.partner = s.ten.partner ∧
      t.ten.flash = s.ten.flash ∧ t.ten.shared = s.ten.shared) ∧
  ∀ (iss : Issuer) (u dest : Ten) (gen : Nat) (m : Image) (p : Policy) (s : State), gen < 2 ^ 32 →
    Admitted s iss R.SNP_CMD (snpWord 3 u 0 dest true gen) → s.imageOf u 0 gen = some m → s.ten.policies.look u = some p →
    ∃ t, exec (.ship iss u dest true gen) s = .next t ∧
      t.out = s.out ++ [.eth (p.sharedQp / 256) p.sharedQp 7 (m.bytes u s.node), .answer iss R.SNP_CMD sOK 0] ∧
      t.rd R.SNP_CNT_SHIPPED = s.rd R.SNP_CNT_SHIPPED + 1 ∧ t.f (R.SNP_T_STAT u) F.SNP_T_STAT_LAST_STATUS = 0 ∧
      RegsBut s t [R.SNP_CNT_SHIPPED, R.SNP_T_STAT u] ∧ t = { s with regs := t.regs, out := t.out }

/-- Fences are set and lifted. An admitted FENCE of a unit (core, cluster, pseudo-channel, stack, scribe, lane group, sublink or
port) leaves it fenced, with FENCE_ADDED set where it was not, and leaves every byte of memory and every engine, vector unit
and access engine; the running job of a mapped core so fenced enters recovery with cause UNIT_FENCED. A unit that is fenced
already is left as it is. UNFENCE leaves the unit not fenced; of a scribe, port, lane group or sublink it changes no byte of
memory, of a core it changes no byte of another core's scratchpad and none of the HBM; of a unit that is not fenced it
changes nothing. (R294, R297) -/
def Obligations.FencesComeAndGo : Prop :=
  ∀ (iss : Issuer) (k i u n : Nat) (s : State), k < 16 → fenceKind k = some (u, n) → i < n →
    (Admitted s iss R.MNT_FENCE_REQ (fenceWord k i false) →
      ∃ t, exec (.fence iss k i) s = .next t ∧ t.unitFenced u i = true ∧ t.spad = s.spad ∧ t.hbm = s.hbm ∧
        t.engines = s.engines ∧ t.cvus = s.cvus ∧ t.aes = s.aes ∧
        t.out = s.out ++ [.answer iss R.MNT_FENCE_REQ sOK 0] ∧
        (s.unitFenced u i = true → t = { s with out := t.out }) ∧
        (s.unitFenced u i = false → t.f R.MNT_EVENT F.MNT_EVENT_FENCE_ADDED = 1 ∧
          ∀ j, u = 3 → s.coreMapped i = true → s.tenOfDie (i / 32) = some j → s.jobState j = jRunning →
            t.jobState j = jStopping ∧ t.f (R.SNP_T_STAT j) F.SNP_T_STAT_CAUSE = 6)) ∧
    (Admitted s iss R.MNT_FENCE_REQ (fenceWord k i true) →
      ∃ t, exec (.unfence iss k i) s = .next t ∧ t.unitFenced u i = false ∧
        t.out = s.out ++ [.answer iss R.MNT_FENCE_REQ sOK 0] ∧
        (s.unitFenced u i = false → t = { s with out := t.out }) ∧
        (u = 7 ∨ 9 ≤ u → t.spad = s.spad ∧ t.hbm = s.hbm ∧ t.engines = s.engines ∧ t.cvus = s.cvus ∧ t.aes = s.aes) ∧
        (u = 3 → t.hbm = s.hbm ∧ (∀ p o, p ≠ i → t.spadByte p o = s.spadByte p o) ∧
          ∀ p, p ≠ i → t.cvu p = s.cvu p ∧ t.ae p = s.ae p))

/-- Maintenance activities are asked for, start and end. An admitted SCRUB, REPAIR, REEQ or CAL, and a patrol scrub that is due,
starts at once where nothing running or queued conflicts with it; where something does and the queue has room, it is queued
and counted DEFERRED. A PATCH that meets no conflict puts an image that holds in the inactive slot of its kind, a boathouse
image beginning the takeover, and changes nothing of the boathouse for one that does not. A queued activity that conflicts
with nothing ahead of it starts. An activity that completes leaves those running and is counted: a repair adds a repaired
row and takes a spare one, a re-equalisation lifts the fences of the port's lane groups, a calibration is counted, and a
scrub leaves only words that cannot be corrected. A snapshot that has waited too long fails with DEFERRED. A boathouse patch
whose trial has run makes its slot the active one. (R298, R299, R300) -/
def Obligations.MaintenanceIsArbitrated : Prop :=
  (∀ (iss : Issuer) (k : Stk) (n act : Nat) (scope : Nat) (i : Instr) (s : State),
    ((i = .scrub iss k ∧ act = 1 ∧ scope = k) ∨ (i = .repair iss k ∧ act = 2 ∧ scope = k) ∨
      (i = .reeq iss n ∧ act = 3 ∧ scope = n ∧ n < 16) ∨ (i = .cal iss ∧ act = 4 ∧ scope = 0)) →
    Admitted s iss R.MNT_REQ (maintWord act scope 0) → Unarmed s 0x52 →
    let r : MaintReq := ⟨act, scope, 0, iss, s.time, s.time, none⟩
    let answer := Out.answer iss R.MNT_REQ sOK 0
    ((∀ q ∈ s.maint.running ++ s.maint.queue, s.maintConflict r q = false) →
      ∃ t, exec i s = .next t ∧ t.maint = { s.maint with running := s.maint.running ++ [r] } ∧
        t.f R.MNT_STAT F.MNT_STAT_LAST = 0 ∧ RegsBut s t [R.MNT_STAT] ∧ t.out = s.out ++ [answer] ∧
        t = { s with maint := t.maint, regs := t.regs, out := t.out }) ∧
    ((∃ q ∈ s.maint.running ++ s.maint.queue, s.maintConflict r q = true) → s.maint.queue.length < 64 →
      ∃ t, exec i s = .next t ∧ t.maint = { s.maint with queue := s.maint.queue ++ [r] } ∧
        t.f R.MNT_STAT F.MNT_STAT_LAST = 1 ∧ t.rd (R.MNT_CNT_DEFER (act - 1)) = s.rd (R.MNT_CNT_DEFER (act - 1)) + 1 ∧
        RegsBut s t [R.MNT_STAT, R.MNT_CNT_DEFER (act - 1)] ∧ t = { s with maint := t.maint, regs := t.regs, out := t.out })) ∧
  (∀ (k : Stk) (s : State), s.f R.MNT_CTL F.MNT_CTL_SCRUB_EN = 1 → s.bhUp = true → Unarmed s 0x52 →
    s.maint.scrubbed.get (fun _ => 0) k + s.f R.MNT_CTL F.MNT_CTL_SCRUB_HOURS * 3600 * 25000000 ≤ s.time →
    let r : MaintReq := ⟨1, k, 0, .boathouse, s.time, s.time, none⟩
    (∀ q ∈ s.maint.running ++ s.maint.queue, s.maintConflict r q = false) →
    ∃ t, exec (.scrubPeriod k) s = .next t ∧ t.maint.running = s.maint.running ++ [r] ∧
      t.maint.scrubbed.get (fun _ => 0) k = s.time ∧ RegsBut s t [R.MNT_STAT]) ∧
  (∀ (iss : Issuer) (scope arg : Nat) (g : FwImage) (s : State), scope < 32 → arg < 2 ^ 48 → 1 ≤ g.kind → g.kind ≤ 3 →
    Admitted s iss R.MNT_REQ (maintWord 5 scope arg) → Unarmed s 0x52 → Unarmed s 0x4A →
    s.bh.nor.slotA.length = 3 → s.bh.nor.slotB.length = 3 →
    let r : MaintReq := ⟨5, scope, arg, iss, s.time, s.time, some g⟩
    (∀ q ∈ s.maint.running ++ s.maint.queue, s.maintConflict r q = false) →
    ∃ t, exec (.patch iss scope arg g) s = .next t ∧ t.spad = s.spad ∧ t.hbm = s.hbm ∧
      t.bh.nor.selector = s.bh.nor.selector ∧
      if s.fwOk g.kind g = true then
        t.maint.running = s.maint.running ++ [r] ∧ (g.kind = 1 → t.bh.takeover = true) ∧
          norSlot t.bh.nor (!bitOf (selected s.bh.nor.selector).slotB.toNat (g.kind - 1)) g.kind = some g
      else t.bh = s.bh) ∧
  (∀ (i : Nat) (r : MaintReq) (s : State), s.maint.queue[i]? = some r → s.bhUp = true → s.maintReady i = true → r.act < 5 →
    ∃ t, exec (.maintStart i) s = .next t ∧ t.maint.running = s.maint.running ++ [{ r with started := s.time }] ∧
      t.maint.queue = s.maint.queue.eraseIdx i ∧ RegsBut s t [R.MNT_STAT]) ∧
  (∀ (i : Nat) (r : MaintReq) (ok : Bool) (s : State), s.maint.running[i]? = some r → s.bhUp = true →
    s.maintMayEnd r ok = true → 1 ≤ r.act → r.act ≤ 4 → r.scope < 32 → (r.act = 3 → r.scope < 16) →
    ∃ t, exec (.maintComplete i ok) s = .next t ∧
      (ok = false → t.maint.running = s.maint.running.eraseIdx i ∧ t.f R.MNT_STAT F.MNT_STAT_LAST = 4 ∧
        RegsBut s t [R.MNT_STAT]) ∧
      (ok = true →
        (r.act = 1 → ∀ w ∈ (t.stk r.scope).bad, w.2 / 65536 = 3) ∧
        (r.act ≠ 1 → t.maint.running = s.maint.running.eraseIdx i ∧ t.f R.MNT_STAT F.MNT_STAT_LAST = 3 ∧
          t.rd (R.MNT_CNT_RUN (r.act - 1)) = s.rd (R.MNT_CNT_RUN (r.act - 1)) + 1) ∧
        (r.act = 2 → t.f (R.HBM_SOFT_REPAIRS r.scope) F.HBM_SOFT_REPAIRS_SPARE + 1 =
            s.f (R.HBM_SOFT_REPAIRS r.scope) F.HBM_SOFT_REPAIRS_SPARE ∧
          t.f (R.HBM_SOFT_REPAIRS r.scope) F.HBM_SOFT_REPAIRS_ROWS =
            (s.f (R.HBM_SOFT_REPAIRS r.scope) F.HBM_SOFT_REPAIRS_ROWS + 1) % 2 ^ F.HBM_SOFT_REPAIRS_ROWS.2) ∧
        (r.act = 3 → ∀ g < 4, t.unitFenced 10 (4 * r.scope + g) = false) ∧
        (r.act = 4 → t.f R.PWR_CAL F.PWR_CAL_CAL_COUNT =
          (s.f R.PWR_CAL F.PWR_CAL_CAL_COUNT + 1) % 2 ^ F.PWR_CAL_CAL_COUNT.2))) ∧
  (∀ (i : Nat) (r : MaintReq) (s : State), s.maint.queue[i]? = some r → r.act = 6 → r.scope < 8 →
    r.asked + ticksMs (s.f R.MNT_CTL F.MNT_CTL_SNAP_DEFER_MS) < s.time →
    ∃ t, exec (.snapDeferTimeout i) s = .next t ∧ t.maint.queue = s.maint.queue.eraseIdx i ∧
      t.f (R.SNP_T_STAT r.scope) F.SNP_T_STAT_LAST_STATUS = 7 ∧ t.rd R.SNP_CNT_FAILED = s.rd R.SNP_CNT_FAILED + 1 ∧
      RegsBut s t [R.MNT_STAT, R.SNP_T_STAT r.scope, R.SNP_CNT_FAILED]) ∧
  ∀ (w : PatchTrial) (s : State), s.bh.trial = some w → s.bhUp = true → w.until_ ≤ s.time →
    ∃ t, exec .patchCommit s = .next t ∧ t.bh.trial = none ∧ t.mirrorDue = true ∧ t.bh.fw = s.bh.fw ∧
      bitOf (selected t.bh.nor.selector).slotB.toNat 0 = !bitOf (selected s.bh.nor.selector).slotB.toNat 0

/-- Jobs are loaded, start, end and are released. An admitted LOAD of a tenancy with a free slot whose package passes the checks
leaves an admitted job there with the doorbell's SEQ, the dies and the granules the checks gave, and status OK; a package
that fails leaves a rejected one with the check's status that holds nothing; where both slots hold jobs neither changes. An
admitted job whose module translates starts: it is RUNNING, with that module (where no CONST section of it acts on jobs),
and its state is RUNNING, or STOPPING where an error of its first posts ends it; one whose module does not is REJECTED and
holds nothing. A write of JOB_END ends a running job at once where no heat of it runs; else its heats end with their present
replays and no further heat is chosen. RELEASE of a job that is ended or held leaves the tenancy with no running job,
module, snapshot or context, and the staged job moves up. (R304, R305, R306, R307, R308, R310) -/
def Obligations.JobsLoadStartAndEnd : Prop :=
  (∀ (iss : Issuer) (u : Ten) (seq len : Nat) (s : State), seq < 256 → len < 2 ^ 40 → s.admitted u = true →
    Admitted s iss (R.TEN_T_DOORBELL u) (dbWord 1 seq len) →
    let m := s.mailbox u
    let b := if s.packageRoom u < len then [] else s.dieBytes m.1 (m.2 + 0x10000) len
    (∀ k, (k = 0 ∧ s.hasJob u 0 = false) ∨ (k = 1 ∧ s.hasJob u 0 = true ∧ s.hasJob u 1 = false) →
      ∃ t j, exec (.load iss u seq len) s = .next t ∧ t.job u k = some j ∧ j.seq = seq ∧
        t.f (R.TEN_T_STAT u) (phaseFld k) = j.phase ∧
        match (s.takePackage u len b).1 with
        | .ok a => j.phase = phAdmitted ∧ j.dies = a.1 ∧ j.grants = a.2.grants ∧ j.code = pkgModule b ∧
            t.f (R.TEN_T_STAT u) F.TEN_T_STAT_STATUS = tOK
        | .error e => j.phase = phRejected ∧ j.status = e ∧ j.dies = [] ∧ j.grants = []) ∧
    (s.hasJob u 0 = true → s.hasJob u 1 = true →
      ∃ t, exec (.load iss u seq len) s = .next t ∧ t.ten.jobs = s.ten.jobs)) ∧
  (∀ (u : Ten) (j : Job) (s : State), s.startable u = some j →
    ∃ t, exec (.jobStart u) s = .next t ∧ match ((s.redirect u).translateJob u j).1 with
      | .ok m => t.job u 0 = some { j with phase := phRunning } ∧
          t.f (R.TEN_T_STAT u) F.TEN_T_STAT_PHASE0 = phRunning ∧ (t.jobState u = jRunning ∨ t.jobState u = jStopping) ∧
          (((sectionsOf j.code).filter fun q => q.ty == 5) = [] → t.mods.look u = some m)
      | .error e => s.job u 1 = none → ∃ k, t.job u 0 = some k ∧ k.phase = phRejected ∧ k.status = e.status ∧
          k.grants = [] ∧ t.f (R.TEN_T_STAT u) F.TEN_T_STAT_PHASE0 = phRejected) ∧
  (∀ (iss : Issuer) (u : Ten) (code : W32) (j : Job) (s : State), Admitted s iss (R.TEN_T_JOB_END u) (code.setWidth 64) →
    s.job u 0 = some j → j.phase = phRunning → j.endCode = none →
    (s.tenRuns u = false → (s.jobState u = jRunning ∨ s.jobState u = jPreempted) →
      ∃ t, exec (.jobEnd iss u code) s = .next t ∧
        t.job u 0 = some { j with phase := phEnded, endCode := some code.toNat } ∧
        t.f (R.TEN_T_STAT u) F.TEN_T_STAT_PHASE0 = phEnded) ∧
    (s.tenRuns u = true →
      ∃ t, exec (.jobEnd iss u code) s = .next t ∧ t.job u 0 = some { j with endCode := some code.toNat } ∧
        t.choiceOpen u = false ∧
        (∀ d ∈ s.diesOf u, ∀ r, (s.die d).run = some r →
          (t.die d).run = some { r with replays := min r.replays (r.replayAt (s.die d).now + 1) }) ∧
        t = { s with ten := t.ten, dies := t.dies, out := t.out })) ∧
  ∀ (iss : Issuer) (u : Ten) (seq : Nat) (j : Job) (s : State), seq < 256 → s.admitted u = true →
    Admitted s iss (R.TEN_T_DOORBELL u) (dbWord 2 seq 0) → s.job u 0 = some j →
    (j.phase = phEnded ∨ (j.phase = phRunning ∧ s.jobState u = jHeld)) →
    ∃ t, exec (.release iss u seq) s = .next t ∧ t.jobState u = jNone ∧ t.mods.look u = none ∧ t.snapRun u = none ∧
      t.ctxsOf u = [] ∧
      (s.job u 1 = none → t.job u 0 = none ∧ t.f (R.TEN_T_STAT u) F.TEN_T_STAT_PHASE0 = phNone) ∧
      ∀ k, s.job u 1 = some k → k.phase = phAdmitted → t.job u 0 = some k ∧ t.job u 1 = none

/-- Hosts read and write by RDMA, and ports answer frames. An RDMA WRITE that meets no refusal stands in the scratchpad it names
and is acknowledged with the PSN of its last packet; an RDMA READ sends back the bytes it names and changes no memory; one
whose window does not admit it is answered with a remote access error NAK and changes no memory, nor does an invalid
request, which is answered with its NAK. A CNP lowers its queue pair's rate and an ECN mark sends one back; a pause frame is
counted on the port's own priority; ARP and neighbour requests are answered for the sub-port's own address and no other; a
sub-port that loses its link trains again at once. (R309, R311, R312, R313, R314, R315, R322) -/
def Obligations.HostsReachTheDevice : Prop :=
  (∀ (qp : Nat) (q : QueuePair) (rkey : W32) (addr : Word) (data : List Byte) (p o : Nat) (s : State), s.qpUp qp = some q →
    data.length ≤ 2 ^ 31 → kSpace addr.toNat = 1 → targetOf 1 (kOff addr.toNat) data.length = .spad p o → Unarmed s 0x1D →
    let v : Word := BitVec.ofNat 64 (leNat (data.take 8))
    (s.entitled (.host qp rkey) (some q.ten) aWrite 1 (kOff addr.toNat) data.length (.spad p o) v = true →
      s.coreClosed p = false → (s.innerPath (8 + qpPort qp / 2) (p / 32)).isSome = true → Unarmed s 0x15 → Unarmed s 0x08 →
      Unarmed s 0x09 →
      ∃ t, exec (.rdmaWrite qp rkey addr data) s = .next t ∧
        t.out = s.out ++ [.rdmaAck qp ((q.rqPsn + psnSpan data.length - 1) % 2 ^ 24)] ∧
        (∀ j (h : j < data.length), t.spadByte p (o + j) = data[j]) ∧ t.hbm = s.hbm ∧
        ((s.ae p).zconf = [] → ∀ (r : Pos) (a : Nat), a < 2 ^ 23 → (r.val = p → a < o ∨ o + data.length ≤ a) →
          t.spadByte r a = s.spadByte r a)) ∧
    (s.entitled (.host qp rkey) (some q.ten) aWrite 1 (kOff addr.toNat) data.length (.spad p o) v = false →
      ∃ t, exec (.rdmaWrite qp rkey addr data) s = .next t ∧ t.out = s.out ++ [.rdmaNak qp q.rqPsn 2] ∧ t.spad = s.spad ∧
        t.hbm = s.hbm)) ∧
  (∀ (qp : Nat) (q : QueuePair) (rkey : W32) (addr : Word) (len p o : Nat) (s : State), s.qpUp qp = some q →
    len ≤ 2 ^ 31 → kSpace addr.toNat = 1 → targetOf 1 (kOff addr.toNat) len = .spad p o → s.hostWaits qp = false →
    s.entitled (.host qp rkey) (some q.ten) aRead 1 (kOff addr.toNat) len (.spad p o) 0 = true → s.coreClosed p = false →
    (s.innerPath (8 + qpPort qp / 2) (p / 32)).isSome = true → Unarmed s 0x1D → Unarmed s 0x15 →
    ∃ t, exec (.rdmaRead qp rkey addr len) s = .next t ∧ t.out = s.out ++ [.rdmaData qp q.rqPsn (s.spadBytes p o len)] ∧
      t.spad = s.spad ∧ t.hbm = s.hbm) ∧
  (∀ (qp : Nat) (q : QueuePair) (s : State), s.qpUp qp = some q →
    let port := qpPort qp
    (∃ t, exec (.invalidRequest qp) s = .next t ∧ t.out = s.out ++ [.rdmaNak qp q.rqPsn 1] ∧
      t.rd (R.ETH_CNT_NAK port) = s.rd (R.ETH_CNT_NAK port) + 1 ∧
      RegsBut s t [R.ETH_CNT_FRAMES_RX port, R.ETH_CNT_FRAMES_TX port, R.ETH_CNT_NAK port] ∧
      t = { s with regs := t.regs, out := t.out }) ∧
    (∃ t, exec (.cnpReceive qp) s = .next t ∧ t.ten.qps.look qp = some { q with rate := Config.cnpRate q.rate } ∧
      t.rd (R.ETH_CNT_CNP_RX port) = s.rd (R.ETH_CNT_CNP_RX port) + 1 ∧
      RegsBut s t [R.ETH_CNT_FRAMES_RX port, R.ETH_CNT_CNP_RX port] ∧ t = { s with regs := t.regs, ten := t.ten }) ∧
    ∃ t, exec (.ecnMarkReceive qp) s = .next t ∧ t.out = s.out ++ [.eth port q.sub 4 (leBytes 4 q.peer)] ∧
      t.rd (R.ETH_CNT_CNP_TX port) = s.rd (R.ETH_CNT_CNP_TX port) + 1 ∧
      RegsBut s t [R.ETH_CNT_FRAMES_RX port, R.ETH_CNT_FRAMES_TX port, R.ETH_CNT_CNP_TX port] ∧
      t = { s with regs := t.regs, out := t.out }) ∧
  (∀ (port : Fin 4) (prio : Fin 8) (s : State), s.f (R.ETH_P_STAT port) F.ETH_P_STAT_LINK ≠ 0 →
    ∃ t, exec (.pfcPause port prio) s = .next t ∧
      t.rd (R.ETH_CNT_PFC_RX port) = (if s.f (R.ETH_P_CTL port) F.ETH_P_CTL_PFC_PRIO = prio.val then
        s.rd (R.ETH_CNT_PFC_RX port) + 1 else s.rd (R.ETH_CNT_PFC_RX port)) ∧
      RegsBut s t [R.ETH_CNT_FRAMES_RX port, R.ETH_CNT_PFC_RX port] ∧ t = { s with regs := t.regs }) ∧
  ∀ (port : Fin 4) (sub : Fin 2) (s : State), s.ethUp port sub = true →
    let e := s.sub port sub
    (∀ ip : W32, ∃ t, exec (.arpRequest port sub ip) s = .next t ∧
      t.out = (if ip ≠ 0 ∧ e.ip4 = ip.toNat then s.out ++ [.eth port sub 2 (leBytes 6 e.mac ++ leBytes 4 e.ip4)] else s.out) ∧
      RegsBut s t [R.ETH_CNT_FRAMES_RX port, R.ETH_CNT_FRAMES_TX port] ∧ t = { s with regs := t.regs, out := t.out }) ∧
    (∀ ip : BitVec 128, ∃ t, exec (.neighbourSolicitation port sub ip) s = .next t ∧
      t.out = (if ip ≠ 0 ∧ e.ip6 = ip.toNat then s.out ++ [.eth port sub 3 (leBytes 6 e.mac ++ leBytes 16 e.ip6)] else s.out) ∧
      RegsBut s t [R.ETH_CNT_FRAMES_RX port, R.ETH_CNT_FRAMES_TX port] ∧ t = { s with regs := t.regs, out := t.out }) ∧
    ∃ t, exec (.ethLink port sub) s = .next t ∧ t.ethUp port sub = true ∧
      t.f (R.ETH_P_EVENT port) F.ETH_P_EVENT_LINK_DOWN = 1 ∧ t.spad = s.spad ∧ t.hbm = s.hbm

/-- Attestation requests and I3C address assignment are answered. While the boathouse serves and the device is ready, each
request of SPDM is answered: GET_VERSION begins an exchange, a request before its stage is answered UnexpectedRequest, one
at its stage or later with its response, which joins the exchange; negotiation without P-521 and SHA-512 and a slot, offset
or index that does not exist are InvalidRequest, any other request UnsupportedRequest. With an identity store that is not
valid every request is answered with an error, whose code is a free value (log 4). Nothing else changes. A target of the
active link die without a dynamic address takes the one ENTDAA, or SETDASA to its static address, gives it. (R335, R336,
R337, R358) -/
def Obligations.AttestationAnswers : Prop :=
  (∀ (req : List Byte) (s : State), s.spdmOn = true →
    let log0 := s.bh.spdmLog
    let err (c : Nat) : State := { s with out := s.out ++ [.spdm 0x7F (leBytes 1 c)] }
    let said (n code : Nat) (log body : List Byte) : State :=
      { s with bh := { s.bh with spdm := n, spdmLog := log ++ req ++ body }, out := s.out ++ [.spdm code body] }
    let answer (i : Instr) (need : Nat) (t' : State) : Prop :=
      exec i s = .next (if identityValid = false then
          { s with free := s.free + 1, out := s.out ++ [.spdm 0x7F (leBytes 1 (Config.freeBits s.free % 256))] }
        else if s.bh.spdm < need then err 4 else t')
    let signed (body : List Byte) : List Byte := body ++ leBytes 132 (Config.attestationSign (log0 ++ req ++ body))
    let digest := leBytes 64 (Config.sha512 certChain).toNat
    let measure (i : Nat) : List Byte := leBytes 64 (s.measurement i).toNat
    answer (.getVersion req) 0 (said 1 4 [] (Config.spdmBody 4 req [])) ∧
    answer (.getCapabilities req) 1 (said 2 0x61 log0 (Config.spdmBody 0x61 req [])) ∧
    answer (.negotiateAlgorithms req true true) 2 (said 3 0x63 log0 (Config.spdmBody 0x63 req [])) ∧
    (∀ p q, (p && q) = false → answer (.negotiateAlgorithms req p q) 2 (err 1)) ∧
    answer (.getDigests req) 3 (said s.bh.spdm 1 log0 (Config.spdmBody 1 req digest)) ∧
    (∀ slot off len, answer (.getCertificate req slot off len) 3
      (if slot = 0 ∧ off < certChain.length then
        said s.bh.spdm 2 log0 (Config.spdmBody 2 req ((certChain.drop off).take len)) else err 1)) ∧
    answer (.challenge req 0) 3 (said s.bh.spdm 3 log0 (signed (Config.spdmBody 3 req digest))) ∧
    (∀ slot, slot ≠ 0 → answer (.challenge req slot) 3 (err 1)) ∧
    answer (.getMeasurements req 0) 3 (said s.bh.spdm 0x60 log0 (signed (Config.spdmBody 0x60 req [4]))) ∧
    answer (.getMeasurements req 0xFF) 3 (said s.bh.spdm 0x60 log0
      (signed (Config.spdmBody 0x60 req (measure 1 ++ measure 2 ++ measure 3 ++ measure 4)))) ∧
    (∀ i, 1 ≤ i → i ≤ 4 →
      answer (.getMeasurements req i) 3 (said s.bh.spdm 0x60 log0 (signed (Config.spdmBody 0x60 req (measure i))))) ∧
    (∀ i, 4 < i → i ≠ 0xFF → answer (.getMeasurements req i) 3 (err 1)) ∧
    ∀ code, code ∉ [0x81, 0x82, 0x83, 0xE0, 0xE1, 0xE3, 0x84] → answer (.unsupportedRequest code) 0 (err 7)) ∧
  ∀ (ld : LDie) (static addr : BitVec 7) (s : State), s.power.ao = true → s.bh.i3c.length = 2 →
    let taken : State :=
      { s with bh := { s.bh with i3c := s.bh.i3c.set ld (some addr.toNat) }, out := s.out ++ [.i3c ld addr.toNat] }
    (s.i3cAnswers ld = true → s.bh.i3c[ld.val]? = some none →
      exec (.entdaa ld addr) s = .next taken ∧
      exec (.setdasa ld static addr) s = .next (if static = 0x3A then taken else s)) ∧
    ((s.i3cAnswers ld = false ∨ s.bh.i3c[ld.val]? ≠ some none) →
      exec (.entdaa ld addr) s = .next s ∧ exec (.setdasa ld static addr) s = .next s)

/-- Copybooks are staged and reloaded, SVNs committed and the palimpsest mirrored. COPYBOOK_WRITE makes a staged copybook that
passes its checks the primary and leaves the one in use, and RELOAD puts the primary in use and its digest into the
palimpsest; one that fails leaves the copybook in use and the flash as they are; the status of the command is the check's.
COMMIT_SVN raises the floor of a kind to the SVN in force. MIRROR, and the mirror that is due, take the palimpsest as it
stands into the slot that does not hold the newest complete mirror, which reads damaged until the write ends, or wait for
the mirror that runs; a mirror that completes stands in its slot and is the newest, and one that fails leaves the slot
damaged and sets MIRROR_FAIL. (R317, R321, R323, R328, R329, R332, R334) -/
def Obligations.CopybooksAndMirrorsAreKept : Prop :=
  (∀ (iss : Issuer) (len : Nat) (s : State), len < 2 ^ 32 → Admitted s iss R.BH_CMD (bhWord 2 0 len) → Unarmed s 0x48 →
    Unarmed s 0x4A →
    let st := bookStatus s.bh.owners false (s.staged len)
    ∃ t, exec (.copybookWrite iss len) s = .next t ∧ t.bh.book = s.bh.book ∧ t.f R.BH_CMD_STAT F.BH_CMD_STAT_OP = 2 ∧
      t.f R.BH_CMD_STAT F.BH_CMD_STAT_STATUS = st ∧ t.spad = s.spad ∧ t.hbm = s.hbm ∧
      (if st = bkOK then t.bh.nor.primary = s.staged len ∧
          (t.bh.nor.alternate = s.bh.nor.alternate ∨ t.bh.nor.alternate = s.bh.nor.primary) else t.bh.nor = s.bh.nor)) ∧
  (∀ (iss : Issuer) (s : State), Admitted s iss R.BH_CMD (bhWord 1 0 0) → Unarmed s 0x48 → Unarmed s 0x4A →
    let b := s.bh.nor.primary
    let st := bookStatus s.bh.owners false b
    ∃ t, exec (.reload iss) s = .next t ∧ t.f R.BH_CMD_STAT F.BH_CMD_STAT_OP = 1 ∧
      t.f R.BH_CMD_STAT F.BH_CMD_STAT_STATUS = st ∧ t.bh.nor.primary = b ∧ t.bh.nor.alternate = s.bh.nor.alternate ∧
      (if st = bkOK then t.bh.book = b.take (bookLen b) ∧ ∀ p, some p ∈ t.pals → p.cbDigest = bookDigest (b.take (bookLen b))
        else t.bh = s.bh ∧ t.pals = s.pals ∧ t.f R.BH_CB_CHECK F.BH_CB_CHECK_PRIMARY = st)) ∧
  (∀ (iss : Issuer) (k : Nat) (s : State), 1 ≤ k → k ≤ 3 → Admitted s iss R.BH_CMD (bhWord 4 k 0) →
    ∃ t, exec (.commitSvn iss k) s = .next t ∧
      t.f (R.BH_FW (k - 1)) F.BH_FW_MIN_SVN =
        max (s.f (R.BH_FW (k - 1)) F.BH_FW_MIN_SVN) (s.f (R.BH_FW (k - 1)) F.BH_FW_SVN) ∧
      t.f (R.BH_FW (k - 1)) F.BH_FW_SVN = s.f (R.BH_FW (k - 1)) F.BH_FW_SVN ∧
      t.f R.BH_CMD_STAT F.BH_CMD_STAT_STATUS = bkOK ∧ RegsBut s t [R.BH_FW (k - 1), R.BH_CMD_STAT] ∧
      t = { s with regs := t.regs, out := t.out }) ∧
  (∀ (i : Instr) (p : Palimpsest) (s : State), s.pal = some p →
    ((∃ iss, i = .mirror iss ∧ Admitted s iss R.BH_CMD (bhWord 3 0 0)) ∨
      (i = .mirrorPeriodic ∧ s.bhOn = true ∧
        (s.bh.mirrorTick + 1500000000 ≤ s.time ∨ (s.mirrorDue = true ∧ s.bh.mirror = none)))) →
    (s.bh.mirror = none →
      ∃ t slot, exec i s = .next t ∧ slot ≤ 1 ∧ t.bh.mirror = some (slot, p) ∧ t.mirrorDue = false ∧
        t.f R.BH_PAL_MSTAT F.BH_PAL_MSTAT_BUSY = 1 ∧ RegsBut s t [R.BH_PAL_MSTAT, R.BH_CMD_STAT] ∧
        (s.rd R.BH_PAL_MSEQ ≠ 0 → slot ≠ s.f R.BH_PAL_MSTAT F.BH_PAL_MSTAT_SLOT) ∧
        t.bh.nor = (if slot = 0 then { s.bh.nor with mirror0 := some { p with crcOk := false } }
          else { s.bh.nor with mirror1 := some { p with crcOk := false } }) ∧ t.pals = s.pals) ∧
    (s.bh.mirror ≠ none →
      ∃ t, exec i s = .next t ∧ t.mirrorDue = true ∧ t.bh = s.bh ∧ t.pals = s.pals ∧ RegsBut s t [R.BH_CMD_STAT])) ∧
  ∀ (slot : Nat) (p : Palimpsest) (s : State), s.bh.mirror = some (slot, p) → s.bhOn = true → s.mirrorDue = false → slot ≤ 1 →
    p.seq < 2 ^ 64 → Unarmed s 0x49 →
    (∃ t, exec (.mirrorComplete true) s = .next t ∧ t.bh.mirror = none ∧ t.f R.BH_PAL_MSTAT F.BH_PAL_MSTAT_BUSY = 0 ∧
      t.f R.BH_PAL_MSTAT F.BH_PAL_MSTAT_SLOT = slot ∧ (t.rd R.BH_PAL_MSEQ).toNat = p.seq ∧
      t.bh.nor = (if slot = 0 then { s.bh.nor with mirror0 := some p } else { s.bh.nor with mirror1 := some p }) ∧
      RegsBut s t [R.BH_PAL_MSTAT, R.BH_PAL_MSEQ] ∧ t = { s with regs := t.regs, bh := t.bh }) ∧
    ∃ t, exec (.mirrorComplete false) s = .next t ∧ t.bh.mirror = none ∧ t.bh.nor = s.bh.nor ∧
      t.f R.BH_EVENT F.BH_EVENT_MIRROR_FAIL = 1 ∧ t.f R.BH_PAL_MSTAT F.BH_PAL_MSTAT_BUSY = 0

/-- Threshold windows close, injection points are armed, and captures are made. A threshold window whose time has passed closes,
and no other does. A write that arms an injection point while EN is 1 arms and counts it, and while EN is 0 does not;
INJECT_DISABLE clears EN and disarms every point. GO and the periodic timer latch the record of the counters selected, at
the next tick and at this one, or, while another capture runs, are dropped and counted MISSED. A capture whose tick has come
and whose record fits its buffer and may go there writes it there and counts itself; one that is too long sets TOO_LONG and
changes no memory. (R343, R345, R346) -/
def Obligations.ThresholdsInjectionsAndCaptures : Prop :=
  (∀ (det kind index : Nat) (w : ThrWin) (s : State), s.power.ao = true → w ∈ s.errs.wins → w.det = det → w.kind = kind →
    w.index = index → w.opened + (s.threshold det).2.1 * 25000000 ≤ s.time →
    ∃ t, exec (.thresholdWindowClose det kind index) s = .next t ∧ t = { s with errs := t.errs } ∧
      t.errs = { s.errs with wins := t.errs.wins } ∧
      ∀ q, q ∈ t.errs.wins ↔ q ∈ s.errs.wins ∧ ¬ (q.det = det ∧ q.kind = kind ∧ q.index = index)) ∧
  (∀ (iss : Issuer) (k : Fin 128) (v : Word) (s : State), Admitted s iss (R.INJ_P_CTL k) v → (detector k).isSome = true →
    Unarmed s k → bitOf v.toNat 0 = true → s.f R.INJ_STAT F.INJ_STAT_ARMED < 127 →
    ∃ t, exec (.injectArm iss k v) s = .next t ∧ RegsBut s t [R.INJ_P_CTL k, R.INJ_STAT] ∧
      t.f (R.INJ_P_CTL k) F.INJ_P_CTL_SYN = bitsOf v.toNat 8 24 ∧ t.f (R.INJ_P_CTL k) F.INJ_P_CTL_COUNT = bitsOf v.toNat 32 32 ∧
      (s.f R.INJ_CTL F.INJ_CTL_EN = 1 → t.f (R.INJ_P_CTL k) F.INJ_P_CTL_ARM = 1 ∧
        t.f R.INJ_STAT F.INJ_STAT_ARMED = s.f R.INJ_STAT F.INJ_STAT_ARMED + 1) ∧
      (s.f R.INJ_CTL F.INJ_CTL_EN = 0 → Unarmed t k ∧ t.rd R.INJ_STAT = s.rd R.INJ_STAT)) ∧
  (∀ (iss : Issuer) (s : State), Admitted s iss R.INJ_CTL 0 →
    ∃ t, exec (.injectDisable iss) s = .next t ∧ t.f R.INJ_CTL F.INJ_CTL_EN = 0 ∧ t.f R.INJ_STAT F.INJ_STAT_ARMED = 0 ∧
      (∀ k < 128, Unarmed t k) ∧ t = { s with regs := t.regs, out := t.out }) ∧
  (∀ (i : Instr) (tick : Nat) (s : State),
    ((∃ iss, i = .captureGo iss ∧ tick = s.time + 1 ∧ Admitted s iss R.TEL_CAP_TRIG 1) ∨
      (i = .capturePeriodic ∧ tick = s.time ∧ s.power.ao = true ∧ s.f R.TEL_CTL F.TEL_CTL_PERIODIC_EN = 1 ∧
        s.bh.capDue ≤ s.time)) →
    (s.bh.capture = none →
      ∃ t, exec i s = .next t ∧ t.bh.capture = some (tick, s.captureRecord tick) ∧
        t.f R.TEL_CAP_STAT F.TEL_CAP_STAT_BUSY = 1 ∧ RegsBut s t [R.TEL_CAP_STAT] ∧ t.spad = s.spad ∧ t.hbm = s.hbm) ∧
    ∀ q, s.bh.capture = some q → q.1 ≠ tick →
      ∃ t, exec i s = .next t ∧ t.bh.capture = some q ∧ t.f R.TEL_CAP_STAT F.TEL_CAP_STAT_MISSED = 1 ∧
        t.rd R.TEL_CNT_MISSED = s.rd R.TEL_CNT_MISSED + 1 ∧ RegsBut s t [R.TEL_CAP_STAT, R.TEL_CNT_MISSED]) ∧
  ∀ (tick : Nat) (bs : List Byte) (s : State), s.bh.capture = some (tick, bs) → tick ≤ s.time →
    let stride := s.f R.TEL_CAP_CFG F.TEL_CAP_CFG_STRIDE
    let a := s.captureAddr ((s.rd R.TEL_CAP_SEQ).toNat + 1)
    let s1 := { s with bh := { s.bh with capture := none } }.setF R.TEL_CAP_STAT F.TEL_CAP_STAT_BUSY 0
    (bs.length ≤ (if stride = 0 then 1 else stride) * 65536 → kSpace a = 0 → kOff a % 65536 = 0 →
      ∀ d l, targetOf 0 (kOff a) bs.length = .hbm d l → s.fencedTarget (.hbm d l) bs.length = false →
        ∃ t, exec .captureComplete s = .next t ∧ t.bh.capture = none ∧ t.hbm = (s1.hbmWrite d l bs).hbm ∧ t.spad = s.spad ∧
          t.rd R.TEL_CAP_SEQ = s.rd R.TEL_CAP_SEQ + 1 ∧ t.rd R.TEL_CNT_CAPTURES = s.rd R.TEL_CNT_CAPTURES + 1 ∧
          t.f R.TEL_CAP_STAT F.TEL_CAP_STAT_LENGTH = bs.length % 2 ^ F.TEL_CAP_STAT_LENGTH.2 ∧
          t.f R.TEL_CAP_STAT F.TEL_CAP_STAT_BUSY = 0) ∧
    ((if stride = 0 then 1 else stride) * 65536 < bs.length →
      ∃ t, exec .captureComplete s = .next t ∧ t.bh.capture = none ∧ t.f R.TEL_CAP_STAT F.TEL_CAP_STAT_TOO_LONG = 1 ∧
        RegsBut s t [R.TEL_CAP_STAT] ∧ t = { s with regs := t.regs, bh := t.bh })

/-- The supply, shutdowns and RESET_N. VIN36 coming into range, and RESET_N released with it applied, start the device: it
becomes READY, with PWRGOOD, or waits in its ROM where no boathouse image is fit to run; with RESET_N low the start waits. A
sample out of range sets VIN_RANGE and holds the dies at operating point 5 until it is released. An undervoltage shutdown
takes the power of dies, stacks and link dies, asserts FAULT_N, holds every running job with CAUSE 7 and leaves HBM as
before anything was written (log 2); its recovery makes the device READY again. An overvoltage shutdown, a supply below 24 V
and RESET_N reset every domain: only RESET_N keeps the palimpsest copies of the link dies, and all keep the flash and the
owner keys. (R318, R319, R320, R326, R351, R352, R353) -/
def Obligations.SupplyAndResetsAct : Prop :=
  let ready (t : State) : Prop :=
    t.f R.BH_STAT F.BH_STAT_READY = 1 ∧ t.pins.pwrgood = true ∧ t.bh.ready = some t.time ∧ t.power.ao = true ∧
      t.power.die = 255 ∧ t.f R.BH_STAT F.BH_STAT_PHASE = (if t.bh.book = [] then 7 else 6)
  (∀ (tr : Training) (i : Instr) (s s0 : State), s.pins.refclk = true → s.mayStart tr = true →
    ((i = .vin36InRange tr ∧ s.pins.resetN = false ∧ s.pins.vin = false ∧ s0 = s.resetAll false) ∨
      (i = .resetNRelease tr ∧ s.pins.resetN = true ∧ s.pins.vin = true ∧
        s0 = { s with pins := { s.pins with resetN := false } })) →
    let s1 := { s0 with power := ⟨true, 0, 0, 0⟩, pins := { s0.pins with vin := true, under := false } }
    let s2 := match tr.flash with | some n => s1.setNor n | none => s1
    ∃ t, exec i s = .next t ∧ t.pins.vin = true ∧ t.pins.resetN = false ∧ t.bh.rom = (s2.bootImage 1).1.isNone ∧
      (t.bh.rom = false → ready t)) ∧
  (∀ (tr : Training) (s : State),
    (s.pins.resetN = true → s.pins.vin = false →
      exec (.vin36InRange tr) s = .next { s with pins := { s.pins with vin := true }, power := ⟨true, 0, 0, 0⟩ } ∧
      exec (.resetNRelease tr) s = .next { s with pins := { s.pins with resetN := false } }) ∧
    (s.power.ao = true → s.pins.vin = true → s.pins.under = true → s.pins.resetN = false → s.pins.refclk = true →
      s.bh.lost = false → s.bh.rom = false → s.timesOk tr 195 = true →
      ∃ t, exec (.undervoltageRecovery tr) s = .next t ∧ t.pins.under = false ∧ ready t)) ∧
  (∀ (mv : Nat) (s : State), s.power.ao = true → s.pins.under = false → Unarmed s 0x3F →
    ((33000 ≤ mv ∧ mv < 34200) ∨ (37800 < mv ∧ mv ≤ 39000)) →
    ∃ t, exec (.vinRange mv) s = .next t ∧ t.f R.PWR_EVENT F.PWR_EVENT_VIN_RANGE = 1 ∧
      t.f R.PWR_STAT F.PWR_STAT_VIN_MV = mv ∧ t.pins = { s.pins with range := true } ∧ t.spad = s.spad ∧ t.hbm = s.hbm) ∧
  (∀ (s : State), s.pins.range = true →
    exec .vinRangeRelease s = .next { s with pins := { s.pins with range := false } }) ∧
  (∀ (s : State), s.power.ao = true → s.pins.vin = true → s.pins.under = false →
    ∃ t, exec .undervoltageShutdown s = .next t ∧ t.power = ⟨true, 0, 0, 0⟩ ∧ t.faultN = true ∧ t.pins.pwrgood = false ∧
      t.f R.BH_STAT F.BH_STAT_READY = 0 ∧ (∀ (p : Pos) (a : Nat), t.spadByte p a = 0) ∧
      (∀ (k : Stk) (a : Nat), t.hbmByte k a = 0) ∧
      ∀ (u : Ten) j, s.job u 0 = some j → j.phase = phRunning →
        t.jobState u = jHeld ∧ t.f (R.SNP_T_STAT u) F.SNP_T_STAT_CAUSE = 7 ∧ t.snapRun u = none ∧ t.ten.images.look u = none) ∧
  ∀ (s : State),
    let gone (t : State) : Prop :=
      t.spad = [] ∧ t.hbm = [] ∧ t.f R.BH_STAT F.BH_STAT_READY = 0 ∧ t.pins.pwrgood = false ∧ t.bh.nor = s.bh.nor ∧
        t.bh.owners = s.bh.owners ∧ t.ten.jobs = [] ∧ t.waits = [] ∧ t.out = s.out
    (s.pins.vin = true →
      (∀ mv, 39000 < mv → mv ≤ 40000 → ∃ t, exec (.overvoltageShutdown mv) s = .next t ∧ gone t ∧ t.power = Power.init ∧
        t.pals = [none, none] ∧ t.faultN = true) ∧
      ∃ t, exec .alwaysOnStop s = .next t ∧ gone t ∧ t.power = Power.init ∧ t.pals = [none, none] ∧ t.pins.vin = false) ∧
    (s.pins.resetN = false →
      ∃ t, exec .resetNAssert s = .next t ∧ gone t ∧ t.pins.resetN = true ∧
        t.pals = (if s.pins.vin then s.pals else [none, none]) ∧ t.power = ⟨s.power.ao, 0, 0, 0⟩)

/-- Clocks, PLLs, links and JTAG, and the boathouse pairs. Loss of AO_REFCLK unlocks every powered die and asserts FAULT_N until
it returns; a PLL that loses lock sends the die's running job into recovery. Loss of a SerDes clock takes down the ports it
feeds, and with its return they train. The PCIe link goes down, its drains with it, and comes back (log 28). An FCS error is
counted. A JTAG code beyond SAMPLE selects BYPASS once the lock is set (log 57), and test-logic reset does. A lock-step
mismatch or a missed heartbeat begins a takeover, which stops the mirror and rolls a patch on trial back, and the standby
pair then serves from its own copy of the palimpsest, counts of thresholds starting anew; with both pairs lost FAULT_N is
asserted and nothing is served. Announcements go again to every management host from every sub-port; the ROM takes a fit
image into slot A and starts it. (R23, R24, R300, R301, R319, R320, R342, R343, R353, R354, R355, R357) -/
def Obligations.ClocksLinksAndPairs : Prop :=
  (∀ (s : State), s.pins.refclk = true →
    ∃ t, exec .aoRefclkLoss s = .next t ∧ t.pins.refclk = false ∧ t.faultN = true ∧ t.spad = s.spad ∧ t.hbm = s.hbm ∧
      ∀ d : Die, s.dieDown d = false → t.f (R.CLK_STAT d) F.CLK_STAT_LOCKED = 0) ∧
  (∀ (s : State), s.pins.refclk = false →
    exec .aoRefclkReturn s = .next { s with pins := { s.pins with refclk := true, refAt := s.time } }) ∧
  (∀ (d : Die) (s : State), s.dieDown d = false → s.f (R.CLK_STAT d) F.CLK_STAT_LOCKED = 1 →
    s.f (R.CLK_STAT d) F.CLK_STAT_STOPPED = 0 → Unarmed s 0x3C →
    ∃ t, exec (.pllUnlock d) s = .next t ∧ t.f (R.CLK_STAT d) F.CLK_STAT_LOCKED = 0 ∧
      t.f (R.CLK_EVENT d) F.CLK_EVENT_PLL_UNLOCK = 1 ∧ t.spad = s.spad ∧ t.hbm = s.hbm ∧
      ∀ u, s.tenOfDie d = some u → s.jobState u = jRunning →
        t.jobState u = jStopping ∧ t.f (R.SNP_T_STAT u) F.SNP_T_STAT_CAUSE = 7) ∧
  (∀ (k : Fin 4) (s : State),
    (bitOf s.pins.srefclk.toNat k = true →
      ∃ t, exec (.srefclkLoss k) s = .next t ∧ bitOf t.pins.srefclk.toNat k = false ∧
        (∀ p ∈ clkPorts k, t.f (R.FAB_PORT_STAT p) F.FAB_PORT_STAT_STATE ≠ 1 ∧
          t.f (R.FAB_PORT_STAT p) F.FAB_PORT_STAT_STATE ≠ 2) ∧
        ∀ p ∈ clkEths k, t.ethUp p 0 = false ∧ t.ethUp p 1 = false) ∧
    (∀ (ports : BitVec 16) (eth : BitVec 8), bitOf s.pins.srefclk.toNat k = false →
      ∃ t, exec (.srefclkReturn k ports eth) s = .next t ∧ bitOf t.pins.srefclk.toNat k = true ∧
        (s.f R.BH_LOCK F.BH_LOCK_LOCK = 1 → ∀ p ∈ clkPorts k, s.f (R.FAB_PORT_STAT p) F.FAB_PORT_STAT_STATE = 0 →
          s.portFenced p = false → s.f (R.FAB_PORT_CTL p) F.FAB_PORT_CTL_LG_FENCE ≠ 15 →
          s.f (R.FAB_PORT_CTL p) F.FAB_PORT_CTL_EN = 1 →
          t.f (R.FAB_PORT_STAT p) F.FAB_PORT_STAT_STATE = if bitOf ports.toNat p then 2 else 1))) ∧
  (∀ (s : State), s.power.ld ≠ 0 →
    (s.pins.pcie = true → ∃ t, exec .pcieLinkDown s = .next t ∧ t.pins.pcie = false ∧ (∀ l ∈ t.ten.drains, l.layer ≠ 2) ∧
      t.spad = s.spad ∧ t.hbm = s.hbm) ∧
    (s.pins.pcie = false → exec .pcieLinkDown s =
      .next { s with pins := { s.pins with pcie := bitOf s.pins.srefclk.toNat 1 } })) ∧
  (∀ (port : Fin 4) (sub : Fin 2) (s : State), s.ethUp port sub = true → Unarmed s 0x40 →
    ∃ t, exec (.ethFcs port sub) s = .next t ∧ t.rd (R.ETH_CNT_FCS_ERR port) = s.rd (R.ETH_CNT_FCS_ERR port) + 1 ∧
      t.f (R.ETH_P_EVENT port) F.ETH_P_EVENT_FCS = 1 ∧ t.spad = s.spad ∧ t.hbm = s.hbm) ∧
  (∀ (code : Nat) (s : State), s.power.ao = true →
    exec (.jtagInstruction code) s = .next { s with bh := { s.bh with
      jtag := if s.f R.BH_LOCK F.BH_LOCK_LOCK = 1 ∧ 1 < code then 0 else code } } ∧
    exec .jtagTestLogicReset s = .next { s with bh := { s.bh with jtag := 0 } }) ∧
  (∀ (i : Instr) (s : State), (i = .heartbeatMiss ∨ (i = .lockstepMismatch ∧ Unarmed s 0x4B)) → s.mayTakeover = true →
    ∃ t, exec i s = .next t ∧ t.bh.takeover = true ∧ t.bhUp = false ∧ t.bh.mirror = none ∧ t.bh.trial = none ∧
      (s.bh.mirror ≠ none → t.mirrorDue = true) ∧ t.f R.BH_PAL_MSTAT F.BH_PAL_MSTAT_BUSY = 0 ∧
      (s.bh.trial = none → t.f R.BH_STAT F.BH_STAT_STANDBY_OK = 0 ∧ t.bh.fw = s.bh.fw) ∧
      ∀ w, s.bh.trial = some w → t.bh.fw = s.bh.fw.set 0 w.old ∧ t.f R.MNT_EVENT F.MNT_EVENT_PATCH_ROLLBACK = 1) ∧
  (∀ (s : State), s.bh.takeover = true → (∀ w ∈ s.waits, w.die ≠ 8) →
    let ld := s.f R.BH_STAT F.BH_STAT_ACTIVE_LD
    ∃ t, exec .takeoverComplete s = .next t ∧ t.bh = { s.bh with takeover := false } ∧
      t.f R.BH_STAT F.BH_STAT_ACTIVE_LD = 1 - ld ∧ t.f R.BH_EVENT F.BH_EVENT_TAKEOVER = 1 ∧ t.errs.wins = [] ∧
      t.pals = [(s.pals[1 - ld]?).bind id, (s.pals[1 - ld]?).bind id] ∧ t.out = s.out ∧ t.waits = s.waits ∧
      RegsBut s t [R.BH_STAT, R.BH_EVENT]) ∧
  (∀ (s : State), s.power.ao = true → s.bh.lost = false →
    ∃ t, exec .boathouseLost s = .next t ∧ t.bh = { s.bh with lost := true, takeover := false } ∧ t.faultN = true ∧
      t.bhUp = false ∧ RegsBut s t [R.BH_STAT] ∧ t = { s with regs := t.regs, bh := t.bh }) ∧
  (∀ (r : Nat) (s : State), s.bh.ready = some r → s.bh.sent < 2 → s.bhOn = true → s.bh.book ≠ [] →
    r + (if s.bh.sent = 0 then 1 else 3) * 25000000 ≤ s.time →
    ∃ t, exec .announcementResend s = .next t ∧ t.bh = { s.bh with sent := s.bh.sent + 1 } ∧
      t.out = s.out ++ ((List.range 4).flatMap fun p => ((s.subPorts p).filter (s.ethUp p)).flatMap fun j =>
        s.ten.mgmt.map fun m => .eth p j 1 (leBytes 17 m ++ s.announcement)) ∧
      RegsBut s t ((List.range 4).map R.ETH_CNT_FRAMES_TX)) ∧
  ∀ (img : FwImage) (tr : Training) (s : State), s.power.ao = true → s.bh.rom = true → s.pins.resetN = false →
    s.timesOk tr 280 = true → Unarmed s 0x4A → s.bh.nor.slotA.length = 3 →
    ∃ t, exec (.romRecoveryImage img tr) s = .next t ∧ norSlot t.bh.nor false 1 =
        (if s.fwOk 1 img = true then some img else norSlot s.bh.nor false 1) ∧
      (s.fwOk 1 img = true → t.bh.rom = false ∧ t.f R.BH_STAT F.BH_STAT_READY = 1) ∧
      (s.fwOk 1 img = false → t.bh = s.bh)

/-- The copybook lock, and what it protects. A start-up or recovery that makes the device READY with a copybook leaves LOCK set.
While LOCK is set, a write of a field that is RWL (EN of a fabric port, MODE and PFC_PRIO of an Ethernet port) from any
issuer but the boathouse leaves it as it is; before, and from the boathouse, the field takes the value written. (R327) -/
def Obligations.LockedFieldsIgnoreWrites : Prop :=
  (∀ (tr : Training) (i : Instr) (s : State),
    (i = .vin36InRange tr ∨ i = .resetNRelease tr ∨ i = .undervoltageRecovery tr ∨ ∃ img, i = .romRecoveryImage img tr) →
    s.f R.BH_STAT F.BH_STAT_READY = 0 →
    match exec i s with
    | .next t => t.f R.BH_STAT F.BH_STAT_READY = 1 → t.bh.book ≠ [] → t.f R.BH_LOCK F.BH_LOCK_LOCK = 1
    | _ => s.f R.BH_STAT F.BH_STAT_READY = 0) ∧
  ∀ (iss : Issuer) (v : Word) (s : State),
    let locked := s.f R.BH_LOCK F.BH_LOCK_LOCK = 1 ∧ iss ≠ .boathouse
    (∀ p : Fin 16, Admitted s iss (R.FAB_PORT_CTL p) v →
      ∃ t, exec (.registerWrite iss (R.FAB_PORT_CTL p) 8 v) s = .next t ∧
        (locked → t.f (R.FAB_PORT_CTL p) F.FAB_PORT_CTL_EN = s.f (R.FAB_PORT_CTL p) F.FAB_PORT_CTL_EN) ∧
        (¬ locked → t.f (R.FAB_PORT_CTL p) F.FAB_PORT_CTL_EN = bitsOf v.toNat 0 1)) ∧
    ∀ p : Fin 4, Admitted s iss (R.ETH_P_CTL p) v →
      ∃ t, exec (.registerWrite iss (R.ETH_P_CTL p) 8 v) s = .next t ∧
        (locked → t.rd (R.ETH_P_CTL p) = s.rd (R.ETH_P_CTL p)) ∧
        (¬ locked → t.f (R.ETH_P_CTL p) F.ETH_P_CTL_PFC_PRIO = bitsOf v.toNat 2 3 ∧
          (bitsOf v.toNat 0 2 ≤ 2 → t.f (R.ETH_P_CTL p) F.ETH_P_CTL_MODE = bitsOf v.toNat 0 2))
end

