-- ==== Sys2Proof/Laws/NMap.lean ====
section
/-! SUPPORT. Sparse tables: what an update reads as, and that every update keeps the canonical form. -/

namespace Sys2Proof.Machine

set_option Elab.async false

open Sys2Proof

variable {α : Type}

/-! ### Reading after writing -/

theorem NMap.look_cons (j : Nat) (w : α) (m : NMap α) (k : Nat) :
    NMap.look ((j, w) :: m) k = if j = k then some w else m.look k := rfl

theorem NMap.look_ins (m : NMap α) (a k : Nat) (v : α) : (m.ins a v).look k = if k = a then some v else m.look k := by
  induction m with
  | nil => simp only [NMap.ins, NMap.look_cons, eq_comm]
  | cons x m ih =>
    obtain ⟨j, w⟩ := x
    simp only [NMap.ins]
    split
    · simp only [NMap.look_cons]
      by_cases h : a = k
      · simp [h]
      · simp [h, Ne.symm h]
    · split
      · simp only [NMap.look_cons]
        subst_vars
        by_cases h : j = k
        · simp [h]
        · simp [h, Ne.symm h]
      · simp only [NMap.look_cons, ih]
        by_cases h : j = k
        · subst_vars; simp_all [eq_comm]
        · simp [h]

theorem NMap.look_filter (p : Nat → Bool) (m : NMap α) (k : Nat) :
    NMap.look (m.filter fun e => p e.1) k = if p k then m.look k else none := by
  induction m with
  | nil => simp [NMap.look]
  | cons x m ih =>
    obtain ⟨j, w⟩ := x
    by_cases hj : p j
    · simp only [List.filter, hj, NMap.look, ih]
      by_cases h : j = k <;> simp_all
    · simp only [List.filter, hj, NMap.look, ih]
      by_cases h : j = k <;> simp_all

/-! ### The canonical form -/

theorem NMap.rising_cons (k : Nat) (v : α) (m : NMap α) :
    NMap.rising ((k, v) :: m) = true ↔ (∀ x ∈ m, k < x.1) ∧ m.rising = true := by
  induction m generalizing k v with
  | nil => simp [NMap.rising]
  | cons x m ih =>
    obtain ⟨l, w⟩ := x
    have e := ih l w
    simp only [NMap.rising, Bool.and_eq_true, decide_eq_true_eq, List.mem_cons, forall_eq_or_imp] at *
    constructor
    · rintro ⟨h1, h2⟩
      exact ⟨⟨h1, fun y hy => Nat.lt_trans h1 ((e.1 h2).1 y hy)⟩, h2⟩
    · rintro ⟨⟨h1, -⟩, h2⟩
      exact ⟨h1, h2⟩

theorem NMap.mem_ins (m : NMap α) (a : Nat) (v : α) (x : Nat × α) (h : x ∈ m.ins a v) : x = (a, v) ∨ x ∈ m := by
  induction m with
  | nil => simpa [NMap.ins] using h
  | cons y m ih =>
    obtain ⟨k, w⟩ := y
    simp only [NMap.ins] at h
    split at h
    · simpa using h
    · split at h
      · rcases List.mem_cons.1 h with h | h <;> simp [h]
      · rcases List.mem_cons.1 h with h | h
        · simp [h]
        · rcases ih h with h | h <;> simp [h]

theorem NMap.rising_ins (m : NMap α) (a : Nat) (v : α) (h : m.rising = true) : (m.ins a v).rising = true := by
  induction m with
  | nil => rfl
  | cons y m ih =>
    obtain ⟨k, w⟩ := y
    have hk := (NMap.rising_cons k w m).1 h
    simp only [NMap.ins]
    split
    · exact (NMap.rising_cons _ _ _).2 ⟨by
        intro x hx
        rcases List.mem_cons.1 hx with rfl | hx
        · assumption
        · exact Nat.lt_trans ‹_› (hk.1 x hx), h⟩
    · split
      · exact (NMap.rising_cons _ _ _).2 ⟨by subst_vars; exact hk.1, hk.2⟩
      · exact (NMap.rising_cons _ _ _).2 ⟨by
          intro x hx
          rcases NMap.mem_ins m a v x hx with rfl | hx
          · show k < a; omega
          · exact hk.1 x hx, ih hk.2⟩

theorem NMap.rising_filter (p : Nat × α → Bool) (m : NMap α) (h : m.rising = true) : NMap.rising (m.filter p) = true := by
  induction m with
  | nil => rfl
  | cons y m ih =>
    obtain ⟨k, w⟩ := y
    have hk := (NMap.rising_cons k w m).1 h
    by_cases hp : p (k, w)
    · rw [List.filter_cons_of_pos hp]
      exact (NMap.rising_cons _ _ _).2 ⟨fun x hx => hk.1 x (List.mem_of_mem_filter hx), ih hk.2⟩
    · rw [List.filter_cons_of_neg hp]
      exact ih hk.2

theorem NMap.mem_del (m : NMap α) (a : Nat) (x : Nat × α) (h : x ∈ m.del a) : x ∈ m := List.mem_of_mem_filter h

theorem NMap.rising_del (m : NMap α) (a : Nat) (h : m.rising = true) : (m.del a).rising = true := NMap.rising_filter _ m h

theorem NMap.look_del (m : NMap α) (a k : Nat) : (m.del a).look k = if k = a then none else m.look k := by
  rw [NMap.del, NMap.look_filter fun k => decide (k ≠ a)]
  by_cases h : k = a <;> simp [h]

variable [DecidableEq α]

theorem NMap.wf_iff (d : Nat → α) (m : NMap α) : NMap.wf d m = true ↔ m.rising = true ∧ ∀ x ∈ m, x.2 ≠ d x.1 := by
  simp [NMap.wf, List.all_eq_true]

theorem NMap.wf_set (d : Nat → α) (m : NMap α) (k : Nat) (v : α) (h : NMap.wf d m = true) : NMap.wf d (m.set d k v) = true := by
  rw [NMap.wf_iff] at *
  unfold NMap.set
  split
  · exact ⟨NMap.rising_del m k h.1, fun x hx => h.2 x (NMap.mem_del m k x hx)⟩
  · refine ⟨NMap.rising_ins m k v h.1, fun x hx => ?_⟩
    rcases NMap.mem_ins m k v x hx with rfl | hx
    · assumption
    · exact h.2 x hx

/-- A filtered table is canonical for any reading that agrees with the old one on the keys that stay. -/
theorem NMap.wf_filter (d d' : Nat → α) (p : Nat × α → Bool) (m : NMap α) (h : NMap.wf d m = true)
    (e : ∀ x ∈ m, p x = true → d' x.1 = d x.1) : NMap.wf d' (m.filter p) = true := by
  rw [NMap.wf_iff] at *
  refine ⟨NMap.rising_filter p m h.1, fun x hx => ?_⟩
  have := List.mem_filter.1 hx
  rw [e x this.1 this.2]
  exact h.2 x this.1

/-- Reading after writing. -/
theorem NMap.get_set (d : Nat → α) (m : NMap α) (k j : Nat) (v : α) :
    NMap.get d (m.set d k v) j = if j = k then v else NMap.get d m j := by
  unfold NMap.set NMap.get
  split
  · rw [NMap.look_del]; split
    · subst_vars; rfl
    · rfl
  · rw [NMap.look_ins]; split <;> rfl

@[simp] theorem NMap.get_set_self (d : Nat → α) (m : NMap α) (k : Nat) (v : α) : NMap.get d (m.set d k v) k = v := by
  simp [NMap.get_set]

theorem NMap.get_set_ne (d : Nat → α) (m : NMap α) (k j : Nat) (v : α) (h : j ≠ k) : NMap.get d (m.set d k v) j = NMap.get d m j := by
  simp [NMap.get_set, h]

/-! ### Runs of consecutive entries -/

theorem NMap.go_sparse (d : Nat → α) : ∀ (vs : List α) (k : Nat), NMap.dense.go d vs.length k (NMap.sparse d k vs) = vs := by
  have ge : ∀ (vs : List α) (k : Nat), ∀ x ∈ NMap.sparse d k vs, k ≤ x.1 := by
    intro vs; induction vs with
    | nil => intro k x h; simp [NMap.sparse] at h
    | cons v vs ih => 
      intro k x h; unfold NMap.sparse at h; split at h
      · exact Nat.le_of_succ_le (ih _ _ h)
      · rcases List.mem_cons.1 h with rfl | h
        · exact Nat.le_refl _
        · exact Nat.le_of_succ_le (ih _ _ h)
  intro vs; induction vs with
  | nil => intro k; simp [NMap.dense.go]
  | cons v vs ih =>
    intro k; unfold NMap.sparse
    split
    · rename_i h
      have e : ∀ m : NMap α, (∀ x ∈ m, k + 1 ≤ x.1) → NMap.dense.go d (vs.length + 1) k m = d k :: NMap.dense.go d vs.length (k+1) m := by
        intro m hm
        match m with
        | [] => simp [NMap.dense.go]
        | (j, w) :: r =>
          have := hm (j, w) (by simp)
          simp only [NMap.dense.go]; rw [if_neg]; simp at this; omega
      rw [List.length_cons, e _ (ge vs (k+1)), ih, ← h]
    · simp [NMap.dense.go, ih]

theorem NMap.sparse_range (d : Nat → α) : ∀ (vs : List α) (k : Nat), ∀ x ∈ NMap.sparse d k vs, k ≤ x.1 ∧ x.1 < k + vs.length := by
  intro vs; induction vs with
  | nil => intro k x h; simp [NMap.sparse] at h
  | cons v vs ih => 
    intro k x h; unfold NMap.sparse at h; split at h
    · have := ih _ _ h; simp; omega
    · rcases List.mem_cons.1 h with rfl | h
      · simp
      · have := ih _ _ h; simp; omega

/-- A run of entries reads as it was written. -/
theorem NMap.dense_setRange (d : Nat → α) (m : NMap α) (b : Nat) (vs : List α) (n : Nat) (h : vs.length = n) :
    NMap.dense d (NMap.setRange d m b vs) b n = vs := by
  subst h
  unfold NMap.dense NMap.setRange
  rw [List.filter_append, List.filter_append, List.filter_filter, List.filter_filter]
  have e1 : (m.filter fun x => (decide (b ≤ x.1) && decide (x.1 < b + vs.length)) && decide (x.1 < b)) = [] := by
    rw [List.filter_eq_nil_iff]; intro x _; simp; omega
  have e2 : (m.filter fun x => (decide (b ≤ x.1) && decide (x.1 < b + vs.length)) && decide (b + vs.length ≤ x.1)) = [] := by
    rw [List.filter_eq_nil_iff]; intro x _; simp
  rw [e1, e2, List.filter_eq_self.2]
  · simp [NMap.go_sparse]
  · intro x hx; have := NMap.sparse_range d vs b x hx; simp; omega

/-- And other entries as before. -/
theorem NMap.dense_setRange_ne (d : Nat → α) (m : NMap α) (b : Nat) (vs : List α) (c n : Nat) (h : c + n ≤ b ∨ b + vs.length ≤ c) :
    NMap.dense d (NMap.setRange d m b vs) c n = NMap.dense d m c n := by
  unfold NMap.dense NMap.setRange
  rw [List.filter_append, List.filter_append, List.filter_filter, List.filter_filter]
  have e2 : List.filter (fun x => decide (c ≤ x.1) && decide (x.1 < c + n)) (NMap.sparse d b vs) = [] := by
    rw [List.filter_eq_nil_iff]; intro x hx; have := NMap.sparse_range d vs b x hx; simp; omega
  rw [e2, List.append_nil]
  rcases h with h | h
  · have e1 : (m.filter fun x => (decide (c ≤ x.1) && decide (x.1 < c + n)) && decide (x.1 < b)) = m.filter fun x => decide (c ≤ x.1) && decide (x.1 < c + n) := by
      apply List.filter_congr; intro x _; rw [Bool.eq_iff_iff]; simp; omega
    have e3 : (m.filter fun x => (decide (c ≤ x.1) && decide (x.1 < c + n)) && decide (b + vs.length ≤ x.1)) = [] := by
      rw [List.filter_eq_nil_iff]; intro x _; simp; omega
    rw [e1, e3, List.append_nil]
  · have e1 : (m.filter fun x => (decide (c ≤ x.1) && decide (x.1 < c + n)) && decide (b + vs.length ≤ x.1)) = m.filter fun x => decide (c ≤ x.1) && decide (x.1 < c + n) := by
      apply List.filter_congr; intro x _; rw [Bool.eq_iff_iff]; simp; omega
    have e3 : (m.filter fun x => (decide (c ≤ x.1) && decide (x.1 < c + n)) && decide (x.1 < b)) = [] := by
      rw [List.filter_eq_nil_iff]; intro x _; simp; omega
    rw [e1, e3, List.nil_append]

end Sys2Proof.Machine
end

