-- ==== Sys2Proof/Laws/State.lean ====
section
/-! SUPPORT. What each update of the state leaves alone, field by field and reading by reading, and what it reads as after. -/

namespace Sys2Proof.Machine

set_option Elab.async false

open Sys2Proof

/-! ### `wr` -/

@[simp] theorem State.wr_pending (s : State) a v : (s.wr a v).pending = s.pending := rfl
@[simp] theorem State.wr_out (s : State) a v : (s.wr a v).out = s.out := rfl
@[simp] theorem State.wr_time (s : State) a v : (s.wr a v).time = s.time := rfl
@[simp] theorem State.wr_free (s : State) a v : (s.wr a v).free = s.free := rfl
@[simp] theorem State.wr_spad (s : State) a v : (s.wr a v).spad = s.spad := rfl
@[simp] theorem State.wr_hbm (s : State) a v : (s.wr a v).hbm = s.hbm := rfl
@[simp] theorem State.wr_liftedCores (s : State) a v : (s.wr a v).liftedCores = s.liftedCores := rfl
@[simp] theorem State.wr_liftedPcs (s : State) a v : (s.wr a v).liftedPcs = s.liftedPcs := rfl
@[simp] theorem State.wr_engines (s : State) a v : (s.wr a v).engines = s.engines := rfl
@[simp] theorem State.wr_cvus (s : State) a v : (s.wr a v).cvus = s.cvus := rfl
@[simp] theorem State.wr_aes (s : State) a v : (s.wr a v).aes = s.aes := rfl
@[simp] theorem State.wr_coxes (s : State) a v : (s.wr a v).coxes = s.coxes := rfl
@[simp] theorem State.wr_cores (s : State) a v : (s.wr a v).cores = s.cores := rfl
@[simp] theorem State.wr_dies (s : State) a v : (s.wr a v).dies = s.dies := rfl
@[simp] theorem State.wr_hbmCtls (s : State) a v : (s.wr a v).hbmCtls = s.hbmCtls := rfl
@[simp] theorem State.wr_ctxs (s : State) a v : (s.wr a v).ctxs = s.ctxs := rfl
@[simp] theorem State.wr_errs (s : State) a v : (s.wr a v).errs = s.errs := rfl
@[simp] theorem State.wr_snaps (s : State) a v : (s.wr a v).snaps = s.snaps := rfl
@[simp] theorem State.wr_mods (s : State) a v : (s.wr a v).mods = s.mods := rfl
@[simp] theorem State.wr_pals (s : State) a v : (s.wr a v).pals = s.pals := rfl
@[simp] theorem State.wr_mirrorDue (s : State) a v : (s.wr a v).mirrorDue = s.mirrorDue := rfl
@[simp] theorem State.wr_node (s : State) a v : (s.wr a v).node = s.node := rfl
@[simp] theorem State.wr_fab (s : State) a v : (s.wr a v).fab = s.fab := rfl
@[simp] theorem State.wr_colls (s : State) a v : (s.wr a v).colls = s.colls := rfl
@[simp] theorem State.wr_maint (s : State) a v : (s.wr a v).maint = s.maint := rfl
@[simp] theorem State.wr_wins (s : State) a v : (s.wr a v).wins = s.wins := rfl
@[simp] theorem State.wr_power (s : State) a v : (s.wr a v).power = s.power := rfl
@[simp] theorem State.wr_wdDefault (s : State) a v : (s.wr a v).wdDefault = s.wdDefault := rfl
@[simp] theorem State.wr_overCap (s : State) a v : (s.wr a v).overCap = s.overCap := rfl
@[simp] theorem State.wr_netBytes (s : State) a v : (s.wr a v).netBytes = s.netBytes := rfl
@[simp] theorem State.wr_waits (s : State) a v : (s.wr a v).waits = s.waits := rfl
@[simp] theorem State.wr_defaults (s : State) a v : (s.wr a v).defaults = s.defaults := rfl
@[simp] theorem State.wr_scribes (s : State) a v : (s.wr a v).scribes = s.scribes := rfl
@[simp] theorem State.wr_ten (s : State) a v : (s.wr a v).ten = s.ten := rfl
@[simp] theorem State.wr_bh (s : State) a v : (s.wr a v).bh = s.bh := rfl
@[simp] theorem State.wr_pins (s : State) a v : (s.wr a v).pins = s.pins := rfl
@[simp] theorem State.eng_wr (s : State) a v z : (s.wr a v).eng z = s.eng z := rfl
@[simp] theorem State.cvu_wr (s : State) a v z : (s.wr a v).cvu z = s.cvu z := rfl
@[simp] theorem State.ae_wr (s : State) a v z : (s.wr a v).ae z = s.ae z := rfl
@[simp] theorem State.tq_wr (s : State) a v z w : (s.wr a v).tq z w = s.tq z w := rfl
@[simp] theorem State.cox_wr (s : State) a v z : (s.wr a v).cox z = s.cox z := rfl
@[simp] theorem State.core_wr (s : State) a v z : (s.wr a v).core z = s.core z := rfl
@[simp] theorem State.die_wr (s : State) a v z : (s.wr a v).die z = s.die z := rfl
@[simp] theorem State.stk_wr (s : State) a v z : (s.wr a v).stk z = s.stk z := rfl
@[simp] theorem State.ctx_wr (s : State) a v z : (s.wr a v).ctx z = s.ctx z := rfl
@[simp] theorem State.scribe_wr (s : State) a v z : (s.wr a v).scribe z = s.scribe z := rfl
@[simp] theorem State.spadByte_wr (s : State) a v z w : (s.wr a v).spadByte z w = s.spadByte z w := rfl

/-! ### `setF` -/

@[simp] theorem State.setF_pending (s : State) a g v : (s.setF a g v).pending = s.pending := rfl
@[simp] theorem State.setF_out (s : State) a g v : (s.setF a g v).out = s.out := rfl
@[simp] theorem State.setF_time (s : State) a g v : (s.setF a g v).time = s.time := rfl
@[simp] theorem State.setF_free (s : State) a g v : (s.setF a g v).free = s.free := rfl
@[simp] theorem State.setF_spad (s : State) a g v : (s.setF a g v).spad = s.spad := rfl
@[simp] theorem State.setF_hbm (s : State) a g v : (s.setF a g v).hbm = s.hbm := rfl
@[simp] theorem State.setF_liftedCores (s : State) a g v : (s.setF a g v).liftedCores = s.liftedCores := rfl
@[simp] theorem State.setF_liftedPcs (s : State) a g v : (s.setF a g v).liftedPcs = s.liftedPcs := rfl
@[simp] theorem State.setF_engines (s : State) a g v : (s.setF a g v).engines = s.engines := rfl
@[simp] theorem State.setF_cvus (s : State) a g v : (s.setF a g v).cvus = s.cvus := rfl
@[simp] theorem State.setF_aes (s : State) a g v : (s.setF a g v).aes = s.aes := rfl
@[simp] theorem State.setF_coxes (s : State) a g v : (s.setF a g v).coxes = s.coxes := rfl
@[simp] theorem State.setF_cores (s : State) a g v : (s.setF a g v).cores = s.cores := rfl
@[simp] theorem State.setF_dies (s : State) a g v : (s.setF a g v).dies = s.dies := rfl
@[simp] theorem State.setF_hbmCtls (s : State) a g v : (s.setF a g v).hbmCtls = s.hbmCtls := rfl
@[simp] theorem State.setF_ctxs (s : State) a g v : (s.setF a g v).ctxs = s.ctxs := rfl
@[simp] theorem State.setF_errs (s : State) a g v : (s.setF a g v).errs = s.errs := rfl
@[simp] theorem State.setF_snaps (s : State) a g v : (s.setF a g v).snaps = s.snaps := rfl
@[simp] theorem State.setF_mods (s : State) a g v : (s.setF a g v).mods = s.mods := rfl
@[simp] theorem State.setF_pals (s : State) a g v : (s.setF a g v).pals = s.pals := rfl
@[simp] theorem State.setF_mirrorDue (s : State) a g v : (s.setF a g v).mirrorDue = s.mirrorDue := rfl
@[simp] theorem State.setF_node (s : State) a g v : (s.setF a g v).node = s.node := rfl
@[simp] theorem State.setF_fab (s : State) a g v : (s.setF a g v).fab = s.fab := rfl
@[simp] theorem State.setF_colls (s : State) a g v : (s.setF a g v).colls = s.colls := rfl
@[simp] theorem State.setF_maint (s : State) a g v : (s.setF a g v).maint = s.maint := rfl
@[simp] theorem State.setF_wins (s : State) a g v : (s.setF a g v).wins = s.wins := rfl
@[simp] theorem State.setF_power (s : State) a g v : (s.setF a g v).power = s.power := rfl
@[simp] theorem State.setF_wdDefault (s : State) a g v : (s.setF a g v).wdDefault = s.wdDefault := rfl
@[simp] theorem State.setF_overCap (s : State) a g v : (s.setF a g v).overCap = s.overCap := rfl
@[simp] theorem State.setF_netBytes (s : State) a g v : (s.setF a g v).netBytes = s.netBytes := rfl
@[simp] theorem State.setF_waits (s : State) a g v : (s.setF a g v).waits = s.waits := rfl
@[simp] theorem State.setF_defaults (s : State) a g v : (s.setF a g v).defaults = s.defaults := rfl
@[simp] theorem State.setF_scribes (s : State) a g v : (s.setF a g v).scribes = s.scribes := rfl
@[simp] theorem State.setF_ten (s : State) a g v : (s.setF a g v).ten = s.ten := rfl
@[simp] theorem State.setF_bh (s : State) a g v : (s.setF a g v).bh = s.bh := rfl
@[simp] theorem State.setF_pins (s : State) a g v : (s.setF a g v).pins = s.pins := rfl
@[simp] theorem State.eng_setF (s : State) a g v z : (s.setF a g v).eng z = s.eng z := rfl
@[simp] theorem State.cvu_setF (s : State) a g v z : (s.setF a g v).cvu z = s.cvu z := rfl
@[simp] theorem State.ae_setF (s : State) a g v z : (s.setF a g v).ae z = s.ae z := rfl
@[simp] theorem State.tq_setF (s : State) a g v z w : (s.setF a g v).tq z w = s.tq z w := rfl
@[simp] theorem State.cox_setF (s : State) a g v z : (s.setF a g v).cox z = s.cox z := rfl
@[simp] theorem State.core_setF (s : State) a g v z : (s.setF a g v).core z = s.core z := rfl
@[simp] theorem State.die_setF (s : State) a g v z : (s.setF a g v).die z = s.die z := rfl
@[simp] theorem State.stk_setF (s : State) a g v z : (s.setF a g v).stk z = s.stk z := rfl
@[simp] theorem State.ctx_setF (s : State) a g v z : (s.setF a g v).ctx z = s.ctx z := rfl
@[simp] theorem State.scribe_setF (s : State) a g v z : (s.setF a g v).scribe z = s.scribe z := rfl
@[simp] theorem State.spadByte_setF (s : State) a g v z w : (s.setF a g v).spadByte z w = s.spadByte z w := rfl

/-! ### `setBit` -/

@[simp] theorem State.setBit_pending (s : State) a i v : (s.setBit a i v).pending = s.pending := rfl
@[simp] theorem State.setBit_out (s : State) a i v : (s.setBit a i v).out = s.out := rfl
@[simp] theorem State.setBit_time (s : State) a i v : (s.setBit a i v).time = s.time := rfl
@[simp] theorem State.setBit_free (s : State) a i v : (s.setBit a i v).free = s.free := rfl
@[simp] theorem State.setBit_spad (s : State) a i v : (s.setBit a i v).spad = s.spad := rfl
@[simp] theorem State.setBit_hbm (s : State) a i v : (s.setBit a i v).hbm = s.hbm := rfl
@[simp] theorem State.setBit_liftedCores (s : State) a i v : (s.setBit a i v).liftedCores = s.liftedCores := rfl
@[simp] theorem State.setBit_liftedPcs (s : State) a i v : (s.setBit a i v).liftedPcs = s.liftedPcs := rfl
@[simp] theorem State.setBit_engines (s : State) a i v : (s.setBit a i v).engines = s.engines := rfl
@[simp] theorem State.setBit_cvus (s : State) a i v : (s.setBit a i v).cvus = s.cvus := rfl
@[simp] theorem State.setBit_aes (s : State) a i v : (s.setBit a i v).aes = s.aes := rfl
@[simp] theorem State.setBit_coxes (s : State) a i v : (s.setBit a i v).coxes = s.coxes := rfl
@[simp] theorem State.setBit_cores (s : State) a i v : (s.setBit a i v).cores = s.cores := rfl
@[simp] theorem State.setBit_dies (s : State) a i v : (s.setBit a i v).dies = s.dies := rfl
@[simp] theorem State.setBit_hbmCtls (s : State) a i v : (s.setBit a i v).hbmCtls = s.hbmCtls := rfl
@[simp] theorem State.setBit_ctxs (s : State) a i v : (s.setBit a i v).ctxs = s.ctxs := rfl
@[simp] theorem State.setBit_errs (s : State) a i v : (s.setBit a i v).errs = s.errs := rfl
@[simp] theorem State.setBit_snaps (s : State) a i v : (s.setBit a i v).snaps = s.snaps := rfl
@[simp] theorem State.setBit_mods (s : State) a i v : (s.setBit a i v).mods = s.mods := rfl
@[simp] theorem State.setBit_pals (s : State) a i v : (s.setBit a i v).pals = s.pals := rfl
@[simp] theorem State.setBit_mirrorDue (s : State) a i v : (s.setBit a i v).mirrorDue = s.mirrorDue := rfl
@[simp] theorem State.setBit_node (s : State) a i v : (s.setBit a i v).node = s.node := rfl
@[simp] theorem State.setBit_fab (s : State) a i v : (s.setBit a i v).fab = s.fab := rfl
@[simp] theorem State.setBit_colls (s : State) a i v : (s.setBit a i v).colls = s.colls := rfl
@[simp] theorem State.setBit_maint (s : State) a i v : (s.setBit a i v).maint = s.maint := rfl
@[simp] theorem State.setBit_wins (s : State) a i v : (s.setBit a i v).wins = s.wins := rfl
@[simp] theorem State.setBit_power (s : State) a i v : (s.setBit a i v).power = s.power := rfl
@[simp] theorem State.setBit_wdDefault (s : State) a i v : (s.setBit a i v).wdDefault = s.wdDefault := rfl
@[simp] theorem State.setBit_overCap (s : State) a i v : (s.setBit a i v).overCap = s.overCap := rfl
@[simp] theorem State.setBit_netBytes (s : State) a i v : (s.setBit a i v).netBytes = s.netBytes := rfl
@[simp] theorem State.setBit_waits (s : State) a i v : (s.setBit a i v).waits = s.waits := rfl
@[simp] theorem State.setBit_defaults (s : State) a i v : (s.setBit a i v).defaults = s.defaults := rfl
@[simp] theorem State.setBit_scribes (s : State) a i v : (s.setBit a i v).scribes = s.scribes := rfl
@[simp] theorem State.setBit_ten (s : State) a i v : (s.setBit a i v).ten = s.ten := rfl
@[simp] theorem State.setBit_bh (s : State) a i v : (s.setBit a i v).bh = s.bh := rfl
@[simp] theorem State.setBit_pins (s : State) a i v : (s.setBit a i v).pins = s.pins := rfl
@[simp] theorem State.eng_setBit (s : State) a i v z : (s.setBit a i v).eng z = s.eng z := rfl
@[simp] theorem State.cvu_setBit (s : State) a i v z : (s.setBit a i v).cvu z = s.cvu z := rfl
@[simp] theorem State.ae_setBit (s : State) a i v z : (s.setBit a i v).ae z = s.ae z := rfl
@[simp] theorem State.tq_setBit (s : State) a i v z w : (s.setBit a i v).tq z w = s.tq z w := rfl
@[simp] theorem State.cox_setBit (s : State) a i v z : (s.setBit a i v).cox z = s.cox z := rfl
@[simp] theorem State.core_setBit (s : State) a i v z : (s.setBit a i v).core z = s.core z := rfl
@[simp] theorem State.die_setBit (s : State) a i v z : (s.setBit a i v).die z = s.die z := rfl
@[simp] theorem State.stk_setBit (s : State) a i v z : (s.setBit a i v).stk z = s.stk z := rfl
@[simp] theorem State.ctx_setBit (s : State) a i v z : (s.setBit a i v).ctx z = s.ctx z := rfl
@[simp] theorem State.scribe_setBit (s : State) a i v z : (s.setBit a i v).scribe z = s.scribe z := rfl
@[simp] theorem State.spadByte_setBit (s : State) a i v z w : (s.setBit a i v).spadByte z w = s.spadByte z w := rfl

/-! ### `bump` -/

@[simp] theorem State.bump_pending (s : State) a n : (s.bump a n).pending = s.pending := by simp only [State.bump]; split <;> rfl
@[simp] theorem State.bump_out (s : State) a n : (s.bump a n).out = s.out := by simp only [State.bump]; split <;> rfl
@[simp] theorem State.bump_time (s : State) a n : (s.bump a n).time = s.time := by simp only [State.bump]; split <;> rfl
@[simp] theorem State.bump_free (s : State) a n : (s.bump a n).free = s.free := by simp only [State.bump]; split <;> rfl
@[simp] theorem State.bump_spad (s : State) a n : (s.bump a n).spad = s.spad := by simp only [State.bump]; split <;> rfl
@[simp] theorem State.bump_hbm (s : State) a n : (s.bump a n).hbm = s.hbm := by simp only [State.bump]; split <;> rfl
@[simp] theorem State.bump_liftedCores (s : State) a n : (s.bump a n).liftedCores = s.liftedCores := by simp only [State.bump]; split <;> rfl
@[simp] theorem State.bump_liftedPcs (s : State) a n : (s.bump a n).liftedPcs = s.liftedPcs := by simp only [State.bump]; split <;> rfl
@[simp] theorem State.bump_engines (s : State) a n : (s.bump a n).engines = s.engines := by simp only [State.bump]; split <;> rfl
@[simp] theorem State.bump_cvus (s : State) a n : (s.bump a n).cvus = s.cvus := by simp only [State.bump]; split <;> rfl
@[simp] theorem State.bump_aes (s : State) a n : (s.bump a n).aes = s.aes := by simp only [State.bump]; split <;> rfl
@[simp] theorem State.bump_coxes (s : State) a n : (s.bump a n).coxes = s.coxes := by simp only [State.bump]; split <;> rfl
@[simp] theorem State.bump_cores (s : State) a n : (s.bump a n).cores = s.cores := by simp only [State.bump]; split <;> rfl
@[simp] theorem State.bump_dies (s : State) a n : (s.bump a n).dies = s.dies := by simp only [State.bump]; split <;> rfl
@[simp] theorem State.bump_hbmCtls (s : State) a n : (s.bump a n).hbmCtls = s.hbmCtls := by simp only [State.bump]; split <;> rfl
@[simp] theorem State.bump_ctxs (s : State) a n : (s.bump a n).ctxs = s.ctxs := by simp only [State.bump]; split <;> rfl
@[simp] theorem State.bump_errs (s : State) a n : (s.bump a n).errs = s.errs := by simp only [State.bump]; split <;> rfl
@[simp] theorem State.bump_snaps (s : State) a n : (s.bump a n).snaps = s.snaps := by simp only [State.bump]; split <;> rfl
@[simp] theorem State.bump_mods (s : State) a n : (s.bump a n).mods = s.mods := by simp only [State.bump]; split <;> rfl
@[simp] theorem State.bump_pals (s : State) a n : (s.bump a n).pals = s.pals := by simp only [State.bump]; split <;> rfl
@[simp] theorem State.bump_mirrorDue (s : State) a n : (s.bump a n).mirrorDue = s.mirrorDue := by simp only [State.bump]; split <;> rfl
@[simp] theorem State.bump_node (s : State) a n : (s.bump a n).node = s.node := by simp only [State.bump]; split <;> rfl
@[simp] theorem State.bump_fab (s : State) a n : (s.bump a n).fab = s.fab := by simp only [State.bump]; split <;> rfl
@[simp] theorem State.bump_colls (s : State) a n : (s.bump a n).colls = s.colls := by simp only [State.bump]; split <;> rfl
@[simp] theorem State.bump_maint (s : State) a n : (s.bump a n).maint = s.maint := by simp only [State.bump]; split <;> rfl
@[simp] theorem State.bump_wins (s : State) a n : (s.bump a n).wins = s.wins := by simp only [State.bump]; split <;> rfl
@[simp] theorem State.bump_power (s : State) a n : (s.bump a n).power = s.power := by simp only [State.bump]; split <;> rfl
@[simp] theorem State.bump_wdDefault (s : State) a n : (s.bump a n).wdDefault = s.wdDefault := by simp only [State.bump]; split <;> rfl
@[simp] theorem State.bump_overCap (s : State) a n : (s.bump a n).overCap = s.overCap := by simp only [State.bump]; split <;> rfl
@[simp] theorem State.bump_netBytes (s : State) a n : (s.bump a n).netBytes = s.netBytes := by simp only [State.bump]; split <;> rfl
@[simp] theorem State.bump_waits (s : State) a n : (s.bump a n).waits = s.waits := by simp only [State.bump]; split <;> rfl
@[simp] theorem State.bump_defaults (s : State) a n : (s.bump a n).defaults = s.defaults := by simp only [State.bump]; split <;> rfl
@[simp] theorem State.bump_scribes (s : State) a n : (s.bump a n).scribes = s.scribes := by simp only [State.bump]; split <;> rfl
@[simp] theorem State.bump_ten (s : State) a n : (s.bump a n).ten = s.ten := by simp only [State.bump]; split <;> rfl
@[simp] theorem State.bump_bh (s : State) a n : (s.bump a n).bh = s.bh := by simp only [State.bump]; split <;> rfl
@[simp] theorem State.bump_pins (s : State) a n : (s.bump a n).pins = s.pins := by simp only [State.bump]; split <;> rfl
@[simp] theorem State.eng_bump (s : State) a n z : (s.bump a n).eng z = s.eng z := by simp only [State.bump]; split <;> rfl
@[simp] theorem State.cvu_bump (s : State) a n z : (s.bump a n).cvu z = s.cvu z := by simp only [State.bump]; split <;> rfl
@[simp] theorem State.ae_bump (s : State) a n z : (s.bump a n).ae z = s.ae z := by simp only [State.bump]; split <;> rfl
@[simp] theorem State.tq_bump (s : State) a n z w : (s.bump a n).tq z w = s.tq z w := by simp only [State.bump]; split <;> rfl
@[simp] theorem State.cox_bump (s : State) a n z : (s.bump a n).cox z = s.cox z := by simp only [State.bump]; split <;> rfl
@[simp] theorem State.core_bump (s : State) a n z : (s.bump a n).core z = s.core z := by simp only [State.bump]; split <;> rfl
@[simp] theorem State.die_bump (s : State) a n z : (s.bump a n).die z = s.die z := by simp only [State.bump]; split <;> rfl
@[simp] theorem State.stk_bump (s : State) a n z : (s.bump a n).stk z = s.stk z := by simp only [State.bump]; split <;> rfl
@[simp] theorem State.ctx_bump (s : State) a n z : (s.bump a n).ctx z = s.ctx z := by simp only [State.bump]; split <;> rfl
@[simp] theorem State.scribe_bump (s : State) a n z : (s.bump a n).scribe z = s.scribe z := by simp only [State.bump]; split <;> rfl
@[simp] theorem State.spadByte_bump (s : State) a n z w : (s.bump a n).spadByte z w = s.spadByte z w := by simp only [State.bump]; split <;> rfl

/-! ### `setEng` -/

@[simp] theorem State.setEng_pending (s : State) i v : (s.setEng i v).pending = s.pending := rfl
@[simp] theorem State.setEng_out (s : State) i v : (s.setEng i v).out = s.out := rfl
@[simp] theorem State.setEng_time (s : State) i v : (s.setEng i v).time = s.time := rfl
@[simp] theorem State.setEng_free (s : State) i v : (s.setEng i v).free = s.free := rfl
@[simp] theorem State.setEng_regs (s : State) i v : (s.setEng i v).regs = s.regs := rfl
@[simp] theorem State.setEng_spad (s : State) i v : (s.setEng i v).spad = s.spad := rfl
@[simp] theorem State.setEng_hbm (s : State) i v : (s.setEng i v).hbm = s.hbm := rfl
@[simp] theorem State.setEng_liftedCores (s : State) i v : (s.setEng i v).liftedCores = s.liftedCores := rfl
@[simp] theorem State.setEng_liftedPcs (s : State) i v : (s.setEng i v).liftedPcs = s.liftedPcs := rfl
@[simp] theorem State.setEng_cvus (s : State) i v : (s.setEng i v).cvus = s.cvus := rfl
@[simp] theorem State.setEng_aes (s : State) i v : (s.setEng i v).aes = s.aes := rfl
@[simp] theorem State.setEng_coxes (s : State) i v : (s.setEng i v).coxes = s.coxes := rfl
@[simp] theorem State.setEng_cores (s : State) i v : (s.setEng i v).cores = s.cores := rfl
@[simp] theorem State.setEng_dies (s : State) i v : (s.setEng i v).dies = s.dies := rfl
@[simp] theorem State.setEng_hbmCtls (s : State) i v : (s.setEng i v).hbmCtls = s.hbmCtls := rfl
@[simp] theorem State.setEng_ctxs (s : State) i v : (s.setEng i v).ctxs = s.ctxs := rfl
@[simp] theorem State.setEng_errs (s : State) i v : (s.setEng i v).errs = s.errs := rfl
@[simp] theorem State.setEng_snaps (s : State) i v : (s.setEng i v).snaps = s.snaps := rfl
@[simp] theorem State.setEng_mods (s : State) i v : (s.setEng i v).mods = s.mods := rfl
@[simp] theorem State.setEng_pals (s : State) i v : (s.setEng i v).pals = s.pals := rfl
@[simp] theorem State.setEng_mirrorDue (s : State) i v : (s.setEng i v).mirrorDue = s.mirrorDue := rfl
@[simp] theorem State.setEng_node (s : State) i v : (s.setEng i v).node = s.node := rfl
@[simp] theorem State.setEng_fab (s : State) i v : (s.setEng i v).fab = s.fab := rfl
@[simp] theorem State.setEng_colls (s : State) i v : (s.setEng i v).colls = s.colls := rfl
@[simp] theorem State.setEng_maint (s : State) i v : (s.setEng i v).maint = s.maint := rfl
@[simp] theorem State.setEng_wins (s : State) i v : (s.setEng i v).wins = s.wins := rfl
@[simp] theorem State.setEng_power (s : State) i v : (s.setEng i v).power = s.power := rfl
@[simp] theorem State.setEng_wdDefault (s : State) i v : (s.setEng i v).wdDefault = s.wdDefault := rfl
@[simp] theorem State.setEng_overCap (s : State) i v : (s.setEng i v).overCap = s.overCap := rfl
@[simp] theorem State.setEng_netBytes (s : State) i v : (s.setEng i v).netBytes = s.netBytes := rfl
@[simp] theorem State.setEng_waits (s : State) i v : (s.setEng i v).waits = s.waits := rfl
@[simp] theorem State.setEng_defaults (s : State) i v : (s.setEng i v).defaults = s.defaults := rfl
@[simp] theorem State.setEng_scribes (s : State) i v : (s.setEng i v).scribes = s.scribes := rfl
@[simp] theorem State.setEng_ten (s : State) i v : (s.setEng i v).ten = s.ten := rfl
@[simp] theorem State.setEng_bh (s : State) i v : (s.setEng i v).bh = s.bh := rfl
@[simp] theorem State.setEng_pins (s : State) i v : (s.setEng i v).pins = s.pins := rfl
@[simp] theorem State.rd_setEng (s : State) i v z : (s.setEng i v).rd z = s.rd z := rfl
@[simp] theorem State.f_setEng (s : State) i v z w : (s.setEng i v).f z w = s.f z w := rfl
@[simp] theorem State.bit_setEng (s : State) i v z w : (s.setEng i v).bit z w = s.bit z w := rfl
@[simp] theorem State.cvu_setEng (s : State) i v z : (s.setEng i v).cvu z = s.cvu z := rfl
@[simp] theorem State.ae_setEng (s : State) i v z : (s.setEng i v).ae z = s.ae z := rfl
@[simp] theorem State.tq_setEng (s : State) i v z w : (s.setEng i v).tq z w = s.tq z w := rfl
@[simp] theorem State.cox_setEng (s : State) i v z : (s.setEng i v).cox z = s.cox z := rfl
@[simp] theorem State.core_setEng (s : State) i v z : (s.setEng i v).core z = s.core z := rfl
@[simp] theorem State.die_setEng (s : State) i v z : (s.setEng i v).die z = s.die z := rfl
@[simp] theorem State.stk_setEng (s : State) i v z : (s.setEng i v).stk z = s.stk z := rfl
@[simp] theorem State.ctx_setEng (s : State) i v z : (s.setEng i v).ctx z = s.ctx z := rfl
@[simp] theorem State.scribe_setEng (s : State) i v z : (s.setEng i v).scribe z = s.scribe z := rfl
@[simp] theorem State.hbmByte_setEng (s : State) i v z w : (s.setEng i v).hbmByte z w = s.hbmByte z w := rfl
@[simp] theorem State.spadByte_setEng (s : State) i v z w : (s.setEng i v).spadByte z w = s.spadByte z w := rfl

/-! ### `setCvu` -/

@[simp] theorem State.setCvu_pending (s : State) i v : (s.setCvu i v).pending = s.pending := rfl
@[simp] theorem State.setCvu_out (s : State) i v : (s.setCvu i v).out = s.out := rfl
@[simp] theorem State.setCvu_time (s : State) i v : (s.setCvu i v).time = s.time := rfl
@[simp] theorem State.setCvu_free (s : State) i v : (s.setCvu i v).free = s.free := rfl
@[simp] theorem State.setCvu_regs (s : State) i v : (s.setCvu i v).regs = s.regs := rfl
@[simp] theorem State.setCvu_spad (s : State) i v : (s.setCvu i v).spad = s.spad := rfl
@[simp] theorem State.setCvu_hbm (s : State) i v : (s.setCvu i v).hbm = s.hbm := rfl
@[simp] theorem State.setCvu_liftedCores (s : State) i v : (s.setCvu i v).liftedCores = s.liftedCores := rfl
@[simp] theorem State.setCvu_liftedPcs (s : State) i v : (s.setCvu i v).liftedPcs = s.liftedPcs := rfl
@[simp] theorem State.setCvu_engines (s : State) i v : (s.setCvu i v).engines = s.engines := rfl
@[simp] theorem State.setCvu_aes (s : State) i v : (s.setCvu i v).aes = s.aes := rfl
@[simp] theorem State.setCvu_coxes (s : State) i v : (s.setCvu i v).coxes = s.coxes := rfl
@[simp] theorem State.setCvu_cores (s : State) i v : (s.setCvu i v).cores = s.cores := rfl
@[simp] theorem State.setCvu_dies (s : State) i v : (s.setCvu i v).dies = s.dies := rfl
@[simp] theorem State.setCvu_hbmCtls (s : State) i v : (s.setCvu i v).hbmCtls = s.hbmCtls := rfl
@[simp] theorem State.setCvu_ctxs (s : State) i v : (s.setCvu i v).ctxs = s.ctxs := rfl
@[simp] theorem State.setCvu_errs (s : State) i v : (s.setCvu i v).errs = s.errs := rfl
@[simp] theorem State.setCvu_snaps (s : State) i v : (s.setCvu i v).snaps = s.snaps := rfl
@[simp] theorem State.setCvu_mods (s : State) i v : (s.setCvu i v).mods = s.mods := rfl
@[simp] theorem State.setCvu_pals (s : State) i v : (s.setCvu i v).pals = s.pals := rfl
@[simp] theorem State.setCvu_mirrorDue (s : State) i v : (s.setCvu i v).mirrorDue = s.mirrorDue := rfl
@[simp] theorem State.setCvu_node (s : State) i v : (s.setCvu i v).node = s.node := rfl
@[simp] theorem State.setCvu_fab (s : State) i v : (s.setCvu i v).fab = s.fab := rfl
@[simp] theorem State.setCvu_colls (s : State) i v : (s.setCvu i v).colls = s.colls := rfl
@[simp] theorem State.setCvu_maint (s : State) i v : (s.setCvu i v).maint = s.maint := rfl
@[simp] theorem State.setCvu_wins (s : State) i v : (s.setCvu i v).wins = s.wins := rfl
@[simp] theorem State.setCvu_power (s : State) i v : (s.setCvu i v).power = s.power := rfl
@[simp] theorem State.setCvu_wdDefault (s : State) i v : (s.setCvu i v).wdDefault = s.wdDefault := rfl
@[simp] theorem State.setCvu_overCap (s : State) i v : (s.setCvu i v).overCap = s.overCap := rfl
@[simp] theorem State.setCvu_netBytes (s : State) i v : (s.setCvu i v).netBytes = s.netBytes := rfl
@[simp] theorem State.setCvu_waits (s : State) i v : (s.setCvu i v).waits = s.waits := rfl
@[simp] theorem State.setCvu_defaults (s : State) i v : (s.setCvu i v).defaults = s.defaults := rfl
@[simp] theorem State.setCvu_scribes (s : State) i v : (s.setCvu i v).scribes = s.scribes := rfl
@[simp] theorem State.setCvu_ten (s : State) i v : (s.setCvu i v).ten = s.ten := rfl
@[simp] theorem State.setCvu_bh (s : State) i v : (s.setCvu i v).bh = s.bh := rfl
@[simp] theorem State.setCvu_pins (s : State) i v : (s.setCvu i v).pins = s.pins := rfl
@[simp] theorem State.rd_setCvu (s : State) i v z : (s.setCvu i v).rd z = s.rd z := rfl
@[simp] theorem State.f_setCvu (s : State) i v z w : (s.setCvu i v).f z w = s.f z w := rfl
@[simp] theorem State.bit_setCvu (s : State) i v z w : (s.setCvu i v).bit z w = s.bit z w := rfl
@[simp] theorem State.eng_setCvu (s : State) i v z : (s.setCvu i v).eng z = s.eng z := rfl
@[simp] theorem State.ae_setCvu (s : State) i v z : (s.setCvu i v).ae z = s.ae z := rfl
@[simp] theorem State.tq_setCvu (s : State) i v z w : (s.setCvu i v).tq z w = s.tq z w := rfl
@[simp] theorem State.cox_setCvu (s : State) i v z : (s.setCvu i v).cox z = s.cox z := rfl
@[simp] theorem State.core_setCvu (s : State) i v z : (s.setCvu i v).core z = s.core z := rfl
@[simp] theorem State.die_setCvu (s : State) i v z : (s.setCvu i v).die z = s.die z := rfl
@[simp] theorem State.stk_setCvu (s : State) i v z : (s.setCvu i v).stk z = s.stk z := rfl
@[simp] theorem State.ctx_setCvu (s : State) i v z : (s.setCvu i v).ctx z = s.ctx z := rfl
@[simp] theorem State.scribe_setCvu (s : State) i v z : (s.setCvu i v).scribe z = s.scribe z := rfl
@[simp] theorem State.hbmByte_setCvu (s : State) i v z w : (s.setCvu i v).hbmByte z w = s.hbmByte z w := rfl
@[simp] theorem State.spadByte_setCvu (s : State) i v z w : (s.setCvu i v).spadByte z w = s.spadByte z w := rfl

/-! ### `setAe` -/

@[simp] theorem State.setAe_pending (s : State) i v : (s.setAe i v).pending = s.pending := rfl
@[simp] theorem State.setAe_out (s : State) i v : (s.setAe i v).out = s.out := rfl
@[simp] theorem State.setAe_time (s : State) i v : (s.setAe i v).time = s.time := rfl
@[simp] theorem State.setAe_free (s : State) i v : (s.setAe i v).free = s.free := rfl
@[simp] theorem State.setAe_regs (s : State) i v : (s.setAe i v).regs = s.regs := rfl
@[simp] theorem State.setAe_spad (s : State) i v : (s.setAe i v).spad = s.spad := rfl
@[simp] theorem State.setAe_hbm (s : State) i v : (s.setAe i v).hbm = s.hbm := rfl
@[simp] theorem State.setAe_liftedCores (s : State) i v : (s.setAe i v).liftedCores = s.liftedCores := rfl
@[simp] theorem State.setAe_liftedPcs (s : State) i v : (s.setAe i v).liftedPcs = s.liftedPcs := rfl
@[simp] theorem State.setAe_engines (s : State) i v : (s.setAe i v).engines = s.engines := rfl
@[simp] theorem State.setAe_cvus (s : State) i v : (s.setAe i v).cvus = s.cvus := rfl
@[simp] theorem State.setAe_coxes (s : State) i v : (s.setAe i v).coxes = s.coxes := rfl
@[simp] theorem State.setAe_cores (s : State) i v : (s.setAe i v).cores = s.cores := rfl
@[simp] theorem State.setAe_dies (s : State) i v : (s.setAe i v).dies = s.dies := rfl
@[simp] theorem State.setAe_hbmCtls (s : State) i v : (s.setAe i v).hbmCtls = s.hbmCtls := rfl
@[simp] theorem State.setAe_ctxs (s : State) i v : (s.setAe i v).ctxs = s.ctxs := rfl
@[simp] theorem State.setAe_errs (s : State) i v : (s.setAe i v).errs = s.errs := rfl
@[simp] theorem State.setAe_snaps (s : State) i v : (s.setAe i v).snaps = s.snaps := rfl
@[simp] theorem State.setAe_mods (s : State) i v : (s.setAe i v).mods = s.mods := rfl
@[simp] theorem State.setAe_pals (s : State) i v : (s.setAe i v).pals = s.pals := rfl
@[simp] theorem State.setAe_mirrorDue (s : State) i v : (s.setAe i v).mirrorDue = s.mirrorDue := rfl
@[simp] theorem State.setAe_node (s : State) i v : (s.setAe i v).node = s.node := rfl
@[simp] theorem State.setAe_fab (s : State) i v : (s.setAe i v).fab = s.fab := rfl
@[simp] theorem State.setAe_colls (s : State) i v : (s.setAe i v).colls = s.colls := rfl
@[simp] theorem State.setAe_maint (s : State) i v : (s.setAe i v).maint = s.maint := rfl
@[simp] theorem State.setAe_wins (s : State) i v : (s.setAe i v).wins = s.wins := rfl
@[simp] theorem State.setAe_power (s : State) i v : (s.setAe i v).power = s.power := rfl
@[simp] theorem State.setAe_wdDefault (s : State) i v : (s.setAe i v).wdDefault = s.wdDefault := rfl
@[simp] theorem State.setAe_overCap (s : State) i v : (s.setAe i v).overCap = s.overCap := rfl
@[simp] theorem State.setAe_netBytes (s : State) i v : (s.setAe i v).netBytes = s.netBytes := rfl
@[simp] theorem State.setAe_waits (s : State) i v : (s.setAe i v).waits = s.waits := rfl
@[simp] theorem State.setAe_defaults (s : State) i v : (s.setAe i v).defaults = s.defaults := rfl
@[simp] theorem State.setAe_scribes (s : State) i v : (s.setAe i v).scribes = s.scribes := rfl
@[simp] theorem State.setAe_ten (s : State) i v : (s.setAe i v).ten = s.ten := rfl
@[simp] theorem State.setAe_bh (s : State) i v : (s.setAe i v).bh = s.bh := rfl
@[simp] theorem State.setAe_pins (s : State) i v : (s.setAe i v).pins = s.pins := rfl
@[simp] theorem State.rd_setAe (s : State) i v z : (s.setAe i v).rd z = s.rd z := rfl
@[simp] theorem State.f_setAe (s : State) i v z w : (s.setAe i v).f z w = s.f z w := rfl
@[simp] theorem State.bit_setAe (s : State) i v z w : (s.setAe i v).bit z w = s.bit z w := rfl
@[simp] theorem State.eng_setAe (s : State) i v z : (s.setAe i v).eng z = s.eng z := rfl
@[simp] theorem State.cvu_setAe (s : State) i v z : (s.setAe i v).cvu z = s.cvu z := rfl
@[simp] theorem State.cox_setAe (s : State) i v z : (s.setAe i v).cox z = s.cox z := rfl
@[simp] theorem State.core_setAe (s : State) i v z : (s.setAe i v).core z = s.core z := rfl
@[simp] theorem State.die_setAe (s : State) i v z : (s.setAe i v).die z = s.die z := rfl
@[simp] theorem State.stk_setAe (s : State) i v z : (s.setAe i v).stk z = s.stk z := rfl
@[simp] theorem State.ctx_setAe (s : State) i v z : (s.setAe i v).ctx z = s.ctx z := rfl
@[simp] theorem State.scribe_setAe (s : State) i v z : (s.setAe i v).scribe z = s.scribe z := rfl
@[simp] theorem State.hbmByte_setAe (s : State) i v z w : (s.setAe i v).hbmByte z w = s.hbmByte z w := rfl

/-! ### `setTq` -/

@[simp] theorem State.setTq_pending (s : State) i q v : (s.setTq i q v).pending = s.pending := rfl
@[simp] theorem State.setTq_out (s : State) i q v : (s.setTq i q v).out = s.out := rfl
@[simp] theorem State.setTq_time (s : State) i q v : (s.setTq i q v).time = s.time := rfl
@[simp] theorem State.setTq_free (s : State) i q v : (s.setTq i q v).free = s.free := rfl
@[simp] theorem State.setTq_regs (s : State) i q v : (s.setTq i q v).regs = s.regs := rfl
@[simp] theorem State.setTq_spad (s : State) i q v : (s.setTq i q v).spad = s.spad := rfl
@[simp] theorem State.setTq_hbm (s : State) i q v : (s.setTq i q v).hbm = s.hbm := rfl
@[simp] theorem State.setTq_liftedCores (s : State) i q v : (s.setTq i q v).liftedCores = s.liftedCores := rfl
@[simp] theorem State.setTq_liftedPcs (s : State) i q v : (s.setTq i q v).liftedPcs = s.liftedPcs := rfl
@[simp] theorem State.setTq_engines (s : State) i q v : (s.setTq i q v).engines = s.engines := rfl
@[simp] theorem State.setTq_cvus (s : State) i q v : (s.setTq i q v).cvus = s.cvus := rfl
@[simp] theorem State.setTq_coxes (s : State) i q v : (s.setTq i q v).coxes = s.coxes := rfl
@[simp] theorem State.setTq_cores (s : State) i q v : (s.setTq i q v).cores = s.cores := rfl
@[simp] theorem State.setTq_dies (s : State) i q v : (s.setTq i q v).dies = s.dies := rfl
@[simp] theorem State.setTq_hbmCtls (s : State) i q v : (s.setTq i q v).hbmCtls = s.hbmCtls := rfl
@[simp] theorem State.setTq_ctxs (s : State) i q v : (s.setTq i q v).ctxs = s.ctxs := rfl
@[simp] theorem State.setTq_errs (s : State) i q v : (s.setTq i q v).errs = s.errs := rfl
@[simp] theorem State.setTq_snaps (s : State) i q v : (s.setTq i q v).snaps = s.snaps := rfl
@[simp] theorem State.setTq_mods (s : State) i q v : (s.setTq i q v).mods = s.mods := rfl
@[simp] theorem State.setTq_pals (s : State) i q v : (s.setTq i q v).pals = s.pals := rfl
@[simp] theorem State.setTq_mirrorDue (s : State) i q v : (s.setTq i q v).mirrorDue = s.mirrorDue := rfl
@[simp] theorem State.setTq_node (s : State) i q v : (s.setTq i q v).node = s.node := rfl
@[simp] theorem State.setTq_fab (s : State) i q v : (s.setTq i q v).fab = s.fab := rfl
@[simp] theorem State.setTq_colls (s : State) i q v : (s.setTq i q v).colls = s.colls := rfl
@[simp] theorem State.setTq_maint (s : State) i q v : (s.setTq i q v).maint = s.maint := rfl
@[simp] theorem State.setTq_wins (s : State) i q v : (s.setTq i q v).wins = s.wins := rfl
@[simp] theorem State.setTq_power (s : State) i q v : (s.setTq i q v).power = s.power := rfl
@[simp] theorem State.setTq_wdDefault (s : State) i q v : (s.setTq i q v).wdDefault = s.wdDefault := rfl
@[simp] theorem State.setTq_overCap (s : State) i q v : (s.setTq i q v).overCap = s.overCap := rfl
@[simp] theorem State.setTq_netBytes (s : State) i q v : (s.setTq i q v).netBytes = s.netBytes := rfl
@[simp] theorem State.setTq_waits (s : State) i q v : (s.setTq i q v).waits = s.waits := rfl
@[simp] theorem State.setTq_defaults (s : State) i q v : (s.setTq i q v).defaults = s.defaults := rfl
@[simp] theorem State.setTq_scribes (s : State) i q v : (s.setTq i q v).scribes = s.scribes := rfl
@[simp] theorem State.setTq_ten (s : State) i q v : (s.setTq i q v).ten = s.ten := rfl
@[simp] theorem State.setTq_bh (s : State) i q v : (s.setTq i q v).bh = s.bh := rfl
@[simp] theorem State.setTq_pins (s : State) i q v : (s.setTq i q v).pins = s.pins := rfl
@[simp] theorem State.rd_setTq (s : State) i q v z : (s.setTq i q v).rd z = s.rd z := rfl
@[simp] theorem State.f_setTq (s : State) i q v z w : (s.setTq i q v).f z w = s.f z w := rfl
@[simp] theorem State.bit_setTq (s : State) i q v z w : (s.setTq i q v).bit z w = s.bit z w := rfl
@[simp] theorem State.eng_setTq (s : State) i q v z : (s.setTq i q v).eng z = s.eng z := rfl
@[simp] theorem State.cvu_setTq (s : State) i q v z : (s.setTq i q v).cvu z = s.cvu z := rfl
@[simp] theorem State.cox_setTq (s : State) i q v z : (s.setTq i q v).cox z = s.cox z := rfl
@[simp] theorem State.core_setTq (s : State) i q v z : (s.setTq i q v).core z = s.core z := rfl
@[simp] theorem State.die_setTq (s : State) i q v z : (s.setTq i q v).die z = s.die z := rfl
@[simp] theorem State.stk_setTq (s : State) i q v z : (s.setTq i q v).stk z = s.stk z := rfl
@[simp] theorem State.ctx_setTq (s : State) i q v z : (s.setTq i q v).ctx z = s.ctx z := rfl
@[simp] theorem State.scribe_setTq (s : State) i q v z : (s.setTq i q v).scribe z = s.scribe z := rfl
@[simp] theorem State.hbmByte_setTq (s : State) i q v z w : (s.setTq i q v).hbmByte z w = s.hbmByte z w := rfl

/-! ### `setCmd` -/

@[simp] theorem State.setCmd_pending (s : State) i c : (s.setCmd i c).pending = s.pending := rfl
@[simp] theorem State.setCmd_out (s : State) i c : (s.setCmd i c).out = s.out := rfl
@[simp] theorem State.setCmd_time (s : State) i c : (s.setCmd i c).time = s.time := rfl
@[simp] theorem State.setCmd_free (s : State) i c : (s.setCmd i c).free = s.free := rfl
@[simp] theorem State.setCmd_regs (s : State) i c : (s.setCmd i c).regs = s.regs := rfl
@[simp] theorem State.setCmd_spad (s : State) i c : (s.setCmd i c).spad = s.spad := rfl
@[simp] theorem State.setCmd_hbm (s : State) i c : (s.setCmd i c).hbm = s.hbm := rfl
@[simp] theorem State.setCmd_liftedCores (s : State) i c : (s.setCmd i c).liftedCores = s.liftedCores := rfl
@[simp] theorem State.setCmd_liftedPcs (s : State) i c : (s.setCmd i c).liftedPcs = s.liftedPcs := rfl
@[simp] theorem State.setCmd_engines (s : State) i c : (s.setCmd i c).engines = s.engines := rfl
@[simp] theorem State.setCmd_cvus (s : State) i c : (s.setCmd i c).cvus = s.cvus := rfl
@[simp] theorem State.setCmd_coxes (s : State) i c : (s.setCmd i c).coxes = s.coxes := rfl
@[simp] theorem State.setCmd_cores (s : State) i c : (s.setCmd i c).cores = s.cores := rfl
@[simp] theorem State.setCmd_dies (s : State) i c : (s.setCmd i c).dies = s.dies := rfl
@[simp] theorem State.setCmd_hbmCtls (s : State) i c : (s.setCmd i c).hbmCtls = s.hbmCtls := rfl
@[simp] theorem State.setCmd_ctxs (s : State) i c : (s.setCmd i c).ctxs = s.ctxs := rfl
@[simp] theorem State.setCmd_errs (s : State) i c : (s.setCmd i c).errs = s.errs := rfl
@[simp] theorem State.setCmd_snaps (s : State) i c : (s.setCmd i c).snaps = s.snaps := rfl
@[simp] theorem State.setCmd_mods (s : State) i c : (s.setCmd i c).mods = s.mods := rfl
@[simp] theorem State.setCmd_pals (s : State) i c : (s.setCmd i c).pals = s.pals := rfl
@[simp] theorem State.setCmd_mirrorDue (s : State) i c : (s.setCmd i c).mirrorDue = s.mirrorDue := rfl
@[simp] theorem State.setCmd_node (s : State) i c : (s.setCmd i c).node = s.node := rfl
@[simp] theorem State.setCmd_fab (s : State) i c : (s.setCmd i c).fab = s.fab := rfl
@[simp] theorem State.setCmd_colls (s : State) i c : (s.setCmd i c).colls = s.colls := rfl
@[simp] theorem State.setCmd_maint (s : State) i c : (s.setCmd i c).maint = s.maint := rfl
@[simp] theorem State.setCmd_wins (s : State) i c : (s.setCmd i c).wins = s.wins := rfl
@[simp] theorem State.setCmd_power (s : State) i c : (s.setCmd i c).power = s.power := rfl
@[simp] theorem State.setCmd_wdDefault (s : State) i c : (s.setCmd i c).wdDefault = s.wdDefault := rfl
@[simp] theorem State.setCmd_overCap (s : State) i c : (s.setCmd i c).overCap = s.overCap := rfl
@[simp] theorem State.setCmd_netBytes (s : State) i c : (s.setCmd i c).netBytes = s.netBytes := rfl
@[simp] theorem State.setCmd_waits (s : State) i c : (s.setCmd i c).waits = s.waits := rfl
@[simp] theorem State.setCmd_defaults (s : State) i c : (s.setCmd i c).defaults = s.defaults := rfl
@[simp] theorem State.setCmd_scribes (s : State) i c : (s.setCmd i c).scribes = s.scribes := rfl
@[simp] theorem State.setCmd_ten (s : State) i c : (s.setCmd i c).ten = s.ten := rfl
@[simp] theorem State.setCmd_bh (s : State) i c : (s.setCmd i c).bh = s.bh := rfl
@[simp] theorem State.setCmd_pins (s : State) i c : (s.setCmd i c).pins = s.pins := rfl
@[simp] theorem State.rd_setCmd (s : State) i c z : (s.setCmd i c).rd z = s.rd z := rfl
@[simp] theorem State.f_setCmd (s : State) i c z w : (s.setCmd i c).f z w = s.f z w := rfl
@[simp] theorem State.bit_setCmd (s : State) i c z w : (s.setCmd i c).bit z w = s.bit z w := rfl
@[simp] theorem State.eng_setCmd (s : State) i c z : (s.setCmd i c).eng z = s.eng z := rfl
@[simp] theorem State.cvu_setCmd (s : State) i c z : (s.setCmd i c).cvu z = s.cvu z := rfl
@[simp] theorem State.cox_setCmd (s : State) i c z : (s.setCmd i c).cox z = s.cox z := rfl
@[simp] theorem State.core_setCmd (s : State) i c z : (s.setCmd i c).core z = s.core z := rfl
@[simp] theorem State.die_setCmd (s : State) i c z : (s.setCmd i c).die z = s.die z := rfl
@[simp] theorem State.stk_setCmd (s : State) i c z : (s.setCmd i c).stk z = s.stk z := rfl
@[simp] theorem State.ctx_setCmd (s : State) i c z : (s.setCmd i c).ctx z = s.ctx z := rfl
@[simp] theorem State.scribe_setCmd (s : State) i c z : (s.setCmd i c).scribe z = s.scribe z := rfl
@[simp] theorem State.hbmByte_setCmd (s : State) i c z w : (s.setCmd i c).hbmByte z w = s.hbmByte z w := rfl

/-! ### `delCmd` -/

@[simp] theorem State.delCmd_pending (s : State) i c : (s.delCmd i c).pending = s.pending := rfl
@[simp] theorem State.delCmd_out (s : State) i c : (s.delCmd i c).out = s.out := rfl
@[simp] theorem State.delCmd_time (s : State) i c : (s.delCmd i c).time = s.time := rfl
@[simp] theorem State.delCmd_free (s : State) i c : (s.delCmd i c).free = s.free := rfl
@[simp] theorem State.delCmd_regs (s : State) i c : (s.delCmd i c).regs = s.regs := rfl
@[simp] theorem State.delCmd_spad (s : State) i c : (s.delCmd i c).spad = s.spad := rfl
@[simp] theorem State.delCmd_hbm (s : State) i c : (s.delCmd i c).hbm = s.hbm := rfl
@[simp] theorem State.delCmd_liftedCores (s : State) i c : (s.delCmd i c).liftedCores = s.liftedCores := rfl
@[simp] theorem State.delCmd_liftedPcs (s : State) i c : (s.delCmd i c).liftedPcs = s.liftedPcs := rfl
@[simp] theorem State.delCmd_engines (s : State) i c : (s.delCmd i c).engines = s.engines := rfl
@[simp] theorem State.delCmd_cvus (s : State) i c : (s.delCmd i c).cvus = s.cvus := rfl
@[simp] theorem State.delCmd_coxes (s : State) i c : (s.delCmd i c).coxes = s.coxes := rfl
@[simp] theorem State.delCmd_cores (s : State) i c : (s.delCmd i c).cores = s.cores := rfl
@[simp] theorem State.delCmd_dies (s : State) i c : (s.delCmd i c).dies = s.dies := rfl
@[simp] theorem State.delCmd_hbmCtls (s : State) i c : (s.delCmd i c).hbmCtls = s.hbmCtls := rfl
@[simp] theorem State.delCmd_ctxs (s : State) i c : (s.delCmd i c).ctxs = s.ctxs := rfl
@[simp] theorem State.delCmd_errs (s : State) i c : (s.delCmd i c).errs = s.errs := rfl
@[simp] theorem State.delCmd_snaps (s : State) i c : (s.delCmd i c).snaps = s.snaps := rfl
@[simp] theorem State.delCmd_mods (s : State) i c : (s.delCmd i c).mods = s.mods := rfl
@[simp] theorem State.delCmd_pals (s : State) i c : (s.delCmd i c).pals = s.pals := rfl
@[simp] theorem State.delCmd_mirrorDue (s : State) i c : (s.delCmd i c).mirrorDue = s.mirrorDue := rfl
@[simp] theorem State.delCmd_node (s : State) i c : (s.delCmd i c).node = s.node := rfl
@[simp] theorem State.delCmd_fab (s : State) i c : (s.delCmd i c).fab = s.fab := rfl
@[simp] theorem State.delCmd_colls (s : State) i c : (s.delCmd i c).colls = s.colls := rfl
@[simp] theorem State.delCmd_maint (s : State) i c : (s.delCmd i c).maint = s.maint := rfl
@[simp] theorem State.delCmd_wins (s : State) i c : (s.delCmd i c).wins = s.wins := rfl
@[simp] theorem State.delCmd_power (s : State) i c : (s.delCmd i c).power = s.power := rfl
@[simp] theorem State.delCmd_wdDefault (s : State) i c : (s.delCmd i c).wdDefault = s.wdDefault := rfl
@[simp] theorem State.delCmd_overCap (s : State) i c : (s.delCmd i c).overCap = s.overCap := rfl
@[simp] theorem State.delCmd_netBytes (s : State) i c : (s.delCmd i c).netBytes = s.netBytes := rfl
@[simp] theorem State.delCmd_waits (s : State) i c : (s.delCmd i c).waits = s.waits := rfl
@[simp] theorem State.delCmd_defaults (s : State) i c : (s.delCmd i c).defaults = s.defaults := rfl
@[simp] theorem State.delCmd_scribes (s : State) i c : (s.delCmd i c).scribes = s.scribes := rfl
@[simp] theorem State.delCmd_ten (s : State) i c : (s.delCmd i c).ten = s.ten := rfl
@[simp] theorem State.delCmd_bh (s : State) i c : (s.delCmd i c).bh = s.bh := rfl
@[simp] theorem State.delCmd_pins (s : State) i c : (s.delCmd i c).pins = s.pins := rfl
@[simp] theorem State.rd_delCmd (s : State) i c z : (s.delCmd i c).rd z = s.rd z := rfl
@[simp] theorem State.f_delCmd (s : State) i c z w : (s.delCmd i c).f z w = s.f z w := rfl
@[simp] theorem State.bit_delCmd (s : State) i c z w : (s.delCmd i c).bit z w = s.bit z w := rfl
@[simp] theorem State.eng_delCmd (s : State) i c z : (s.delCmd i c).eng z = s.eng z := rfl
@[simp] theorem State.cvu_delCmd (s : State) i c z : (s.delCmd i c).cvu z = s.cvu z := rfl
@[simp] theorem State.cox_delCmd (s : State) i c z : (s.delCmd i c).cox z = s.cox z := rfl
@[simp] theorem State.core_delCmd (s : State) i c z : (s.delCmd i c).core z = s.core z := rfl
@[simp] theorem State.die_delCmd (s : State) i c z : (s.delCmd i c).die z = s.die z := rfl
@[simp] theorem State.stk_delCmd (s : State) i c z : (s.delCmd i c).stk z = s.stk z := rfl
@[simp] theorem State.ctx_delCmd (s : State) i c z : (s.delCmd i c).ctx z = s.ctx z := rfl
@[simp] theorem State.scribe_delCmd (s : State) i c z : (s.delCmd i c).scribe z = s.scribe z := rfl
@[simp] theorem State.hbmByte_delCmd (s : State) i c z w : (s.delCmd i c).hbmByte z w = s.hbmByte z w := rfl

/-! ### `setCox` -/

@[simp] theorem State.setCox_pending (s : State) i v : (s.setCox i v).pending = s.pending := rfl
@[simp] theorem State.setCox_out (s : State) i v : (s.setCox i v).out = s.out := rfl
@[simp] theorem State.setCox_time (s : State) i v : (s.setCox i v).time = s.time := rfl
@[simp] theorem State.setCox_free (s : State) i v : (s.setCox i v).free = s.free := rfl
@[simp] theorem State.setCox_regs (s : State) i v : (s.setCox i v).regs = s.regs := rfl
@[simp] theorem State.setCox_spad (s : State) i v : (s.setCox i v).spad = s.spad := rfl
@[simp] theorem State.setCox_hbm (s : State) i v : (s.setCox i v).hbm = s.hbm := rfl
@[simp] theorem State.setCox_liftedCores (s : State) i v : (s.setCox i v).liftedCores = s.liftedCores := rfl
@[simp] theorem State.setCox_liftedPcs (s : State) i v : (s.setCox i v).liftedPcs = s.liftedPcs := rfl
@[simp] theorem State.setCox_engines (s : State) i v : (s.setCox i v).engines = s.engines := rfl
@[simp] theorem State.setCox_cvus (s : State) i v : (s.setCox i v).cvus = s.cvus := rfl
@[simp] theorem State.setCox_aes (s : State) i v : (s.setCox i v).aes = s.aes := rfl
@[simp] theorem State.setCox_cores (s : State) i v : (s.setCox i v).cores = s.cores := rfl
@[simp] theorem State.setCox_dies (s : State) i v : (s.setCox i v).dies = s.dies := rfl
@[simp] theorem State.setCox_hbmCtls (s : State) i v : (s.setCox i v).hbmCtls = s.hbmCtls := rfl
@[simp] theorem State.setCox_ctxs (s : State) i v : (s.setCox i v).ctxs = s.ctxs := rfl
@[simp] theorem State.setCox_errs (s : State) i v : (s.setCox i v).errs = s.errs := rfl
@[simp] theorem State.setCox_snaps (s : State) i v : (s.setCox i v).snaps = s.snaps := rfl
@[simp] theorem State.setCox_mods (s : State) i v : (s.setCox i v).mods = s.mods := rfl
@[simp] theorem State.setCox_pals (s : State) i v : (s.setCox i v).pals = s.pals := rfl
@[simp] theorem State.setCox_mirrorDue (s : State) i v : (s.setCox i v).mirrorDue = s.mirrorDue := rfl
@[simp] theorem State.setCox_node (s : State) i v : (s.setCox i v).node = s.node := rfl
@[simp] theorem State.setCox_fab (s : State) i v : (s.setCox i v).fab = s.fab := rfl
@[simp] theorem State.setCox_colls (s : State) i v : (s.setCox i v).colls = s.colls := rfl
@[simp] theorem State.setCox_maint (s : State) i v : (s.setCox i v).maint = s.maint := rfl
@[simp] theorem State.setCox_wins (s : State) i v : (s.setCox i v).wins = s.wins := rfl
@[simp] theorem State.setCox_power (s : State) i v : (s.setCox i v).power = s.power := rfl
@[simp] theorem State.setCox_wdDefault (s : State) i v : (s.setCox i v).wdDefault = s.wdDefault := rfl
@[simp] theorem State.setCox_overCap (s : State) i v : (s.setCox i v).overCap = s.overCap := rfl
@[simp] theorem State.setCox_netBytes (s : State) i v : (s.setCox i v).netBytes = s.netBytes := rfl
@[simp] theorem State.setCox_waits (s : State) i v : (s.setCox i v).waits = s.waits := rfl
@[simp] theorem State.setCox_defaults (s : State) i v : (s.setCox i v).defaults = s.defaults := rfl
@[simp] theorem State.setCox_scribes (s : State) i v : (s.setCox i v).scribes = s.scribes := rfl
@[simp] theorem State.setCox_ten (s : State) i v : (s.setCox i v).ten = s.ten := rfl
@[simp] theorem State.setCox_bh (s : State) i v : (s.setCox i v).bh = s.bh := rfl
@[simp] theorem State.setCox_pins (s : State) i v : (s.setCox i v).pins = s.pins := rfl
@[simp] theorem State.rd_setCox (s : State) i v z : (s.setCox i v).rd z = s.rd z := rfl
@[simp] theorem State.f_setCox (s : State) i v z w : (s.setCox i v).f z w = s.f z w := rfl
@[simp] theorem State.bit_setCox (s : State) i v z w : (s.setCox i v).bit z w = s.bit z w := rfl
@[simp] theorem State.eng_setCox (s : State) i v z : (s.setCox i v).eng z = s.eng z := rfl
@[simp] theorem State.cvu_setCox (s : State) i v z : (s.setCox i v).cvu z = s.cvu z := rfl
@[simp] theorem State.ae_setCox (s : State) i v z : (s.setCox i v).ae z = s.ae z := rfl
@[simp] theorem State.tq_setCox (s : State) i v z w : (s.setCox i v).tq z w = s.tq z w := rfl
@[simp] theorem State.core_setCox (s : State) i v z : (s.setCox i v).core z = s.core z := rfl
@[simp] theorem State.die_setCox (s : State) i v z : (s.setCox i v).die z = s.die z := rfl
@[simp] theorem State.stk_setCox (s : State) i v z : (s.setCox i v).stk z = s.stk z := rfl
@[simp] theorem State.ctx_setCox (s : State) i v z : (s.setCox i v).ctx z = s.ctx z := rfl
@[simp] theorem State.scribe_setCox (s : State) i v z : (s.setCox i v).scribe z = s.scribe z := rfl
@[simp] theorem State.hbmByte_setCox (s : State) i v z w : (s.setCox i v).hbmByte z w = s.hbmByte z w := rfl
@[simp] theorem State.spadByte_setCox (s : State) i v z w : (s.setCox i v).spadByte z w = s.spadByte z w := rfl

/-! ### `setCore` -/

@[simp] theorem State.setCore_pending (s : State) i v : (s.setCore i v).pending = s.pending := rfl
@[simp] theorem State.setCore_out (s : State) i v : (s.setCore i v).out = s.out := rfl
@[simp] theorem State.setCore_time (s : State) i v : (s.setCore i v).time = s.time := rfl
@[simp] theorem State.setCore_free (s : State) i v : (s.setCore i v).free = s.free := rfl
@[simp] theorem State.setCore_regs (s : State) i v : (s.setCore i v).regs = s.regs := rfl
@[simp] theorem State.setCore_spad (s : State) i v : (s.setCore i v).spad = s.spad := rfl
@[simp] theorem State.setCore_hbm (s : State) i v : (s.setCore i v).hbm = s.hbm := rfl
@[simp] theorem State.setCore_liftedCores (s : State) i v : (s.setCore i v).liftedCores = s.liftedCores := rfl
@[simp] theorem State.setCore_liftedPcs (s : State) i v : (s.setCore i v).liftedPcs = s.liftedPcs := rfl
@[simp] theorem State.setCore_engines (s : State) i v : (s.setCore i v).engines = s.engines := rfl
@[simp] theorem State.setCore_cvus (s : State) i v : (s.setCore i v).cvus = s.cvus := rfl
@[simp] theorem State.setCore_aes (s : State) i v : (s.setCore i v).aes = s.aes := rfl
@[simp] theorem State.setCore_coxes (s : State) i v : (s.setCore i v).coxes = s.coxes := rfl
@[simp] theorem State.setCore_dies (s : State) i v : (s.setCore i v).dies = s.dies := rfl
@[simp] theorem State.setCore_hbmCtls (s : State) i v : (s.setCore i v).hbmCtls = s.hbmCtls := rfl
@[simp] theorem State.setCore_ctxs (s : State) i v : (s.setCore i v).ctxs = s.ctxs := rfl
@[simp] theorem State.setCore_errs (s : State) i v : (s.setCore i v).errs = s.errs := rfl
@[simp] theorem State.setCore_snaps (s : State) i v : (s.setCore i v).snaps = s.snaps := rfl
@[simp] theorem State.setCore_mods (s : State) i v : (s.setCore i v).mods = s.mods := rfl
@[simp] theorem State.setCore_pals (s : State) i v : (s.setCore i v).pals = s.pals := rfl
@[simp] theorem State.setCore_mirrorDue (s : State) i v : (s.setCore i v).mirrorDue = s.mirrorDue := rfl
@[simp] theorem State.setCore_node (s : State) i v : (s.setCore i v).node = s.node := rfl
@[simp] theorem State.setCore_fab (s : State) i v : (s.setCore i v).fab = s.fab := rfl
@[simp] theorem State.setCore_colls (s : State) i v : (s.setCore i v).colls = s.colls := rfl
@[simp] theorem State.setCore_maint (s : State) i v : (s.setCore i v).maint = s.maint := rfl
@[simp] theorem State.setCore_wins (s : State) i v : (s.setCore i v).wins = s.wins := rfl
@[simp] theorem State.setCore_power (s : State) i v : (s.setCore i v).power = s.power := rfl
@[simp] theorem State.setCore_wdDefault (s : State) i v : (s.setCore i v).wdDefault = s.wdDefault := rfl
@[simp] theorem State.setCore_overCap (s : State) i v : (s.setCore i v).overCap = s.overCap := rfl
@[simp] theorem State.setCore_netBytes (s : State) i v : (s.setCore i v).netBytes = s.netBytes := rfl
@[simp] theorem State.setCore_waits (s : State) i v : (s.setCore i v).waits = s.waits := rfl
@[simp] theorem State.setCore_defaults (s : State) i v : (s.setCore i v).defaults = s.defaults := rfl
@[simp] theorem State.setCore_scribes (s : State) i v : (s.setCore i v).scribes = s.scribes := rfl
@[simp] theorem State.setCore_ten (s : State) i v : (s.setCore i v).ten = s.ten := rfl
@[simp] theorem State.setCore_bh (s : State) i v : (s.setCore i v).bh = s.bh := rfl
@[simp] theorem State.setCore_pins (s : State) i v : (s.setCore i v).pins = s.pins := rfl
@[simp] theorem State.rd_setCore (s : State) i v z : (s.setCore i v).rd z = s.rd z := rfl
@[simp] theorem State.f_setCore (s : State) i v z w : (s.setCore i v).f z w = s.f z w := rfl
@[simp] theorem State.bit_setCore (s : State) i v z w : (s.setCore i v).bit z w = s.bit z w := rfl
@[simp] theorem State.eng_setCore (s : State) i v z : (s.setCore i v).eng z = s.eng z := rfl
@[simp] theorem State.cvu_setCore (s : State) i v z : (s.setCore i v).cvu z = s.cvu z := rfl
@[simp] theorem State.ae_setCore (s : State) i v z : (s.setCore i v).ae z = s.ae z := rfl
@[simp] theorem State.tq_setCore (s : State) i v z w : (s.setCore i v).tq z w = s.tq z w := rfl
@[simp] theorem State.cox_setCore (s : State) i v z : (s.setCore i v).cox z = s.cox z := rfl
@[simp] theorem State.die_setCore (s : State) i v z : (s.setCore i v).die z = s.die z := rfl
@[simp] theorem State.stk_setCore (s : State) i v z : (s.setCore i v).stk z = s.stk z := rfl
@[simp] theorem State.ctx_setCore (s : State) i v z : (s.setCore i v).ctx z = s.ctx z := rfl
@[simp] theorem State.scribe_setCore (s : State) i v z : (s.setCore i v).scribe z = s.scribe z := rfl
@[simp] theorem State.hbmByte_setCore (s : State) i v z w : (s.setCore i v).hbmByte z w = s.hbmByte z w := rfl
@[simp] theorem State.spadByte_setCore (s : State) i v z w : (s.setCore i v).spadByte z w = s.spadByte z w := rfl

/-! ### `setDie` -/

@[simp] theorem State.setDie_pending (s : State) i v : (s.setDie i v).pending = s.pending := rfl
@[simp] theorem State.setDie_out (s : State) i v : (s.setDie i v).out = s.out := rfl
@[simp] theorem State.setDie_time (s : State) i v : (s.setDie i v).time = s.time := rfl
@[simp] theorem State.setDie_free (s : State) i v : (s.setDie i v).free = s.free := rfl
@[simp] theorem State.setDie_regs (s : State) i v : (s.setDie i v).regs = s.regs := rfl
@[simp] theorem State.setDie_spad (s : State) i v : (s.setDie i v).spad = s.spad := rfl
@[simp] theorem State.setDie_hbm (s : State) i v : (s.setDie i v).hbm = s.hbm := rfl
@[simp] theorem State.setDie_liftedCores (s : State) i v : (s.setDie i v).liftedCores = s.liftedCores := rfl
@[simp] theorem State.setDie_liftedPcs (s : State) i v : (s.setDie i v).liftedPcs = s.liftedPcs := rfl
@[simp] theorem State.setDie_engines (s : State) i v : (s.setDie i v).engines = s.engines := rfl
@[simp] theorem State.setDie_cvus (s : State) i v : (s.setDie i v).cvus = s.cvus := rfl
@[simp] theorem State.setDie_aes (s : State) i v : (s.setDie i v).aes = s.aes := rfl
@[simp] theorem State.setDie_coxes (s : State) i v : (s.setDie i v).coxes = s.coxes := rfl
@[simp] theorem State.setDie_cores (s : State) i v : (s.setDie i v).cores = s.cores := rfl
@[simp] theorem State.setDie_hbmCtls (s : State) i v : (s.setDie i v).hbmCtls = s.hbmCtls := rfl
@[simp] theorem State.setDie_ctxs (s : State) i v : (s.setDie i v).ctxs = s.ctxs := rfl
@[simp] theorem State.setDie_errs (s : State) i v : (s.setDie i v).errs = s.errs := rfl
@[simp] theorem State.setDie_snaps (s : State) i v : (s.setDie i v).snaps = s.snaps := rfl
@[simp] theorem State.setDie_mods (s : State) i v : (s.setDie i v).mods = s.mods := rfl
@[simp] theorem State.setDie_pals (s : State) i v : (s.setDie i v).pals = s.pals := rfl
@[simp] theorem State.setDie_mirrorDue (s : State) i v : (s.setDie i v).mirrorDue = s.mirrorDue := rfl
@[simp] theorem State.setDie_node (s : State) i v : (s.setDie i v).node = s.node := rfl
@[simp] theorem State.setDie_fab (s : State) i v : (s.setDie i v).fab = s.fab := rfl
@[simp] theorem State.setDie_colls (s : State) i v : (s.setDie i v).colls = s.colls := rfl
@[simp] theorem State.setDie_maint (s : State) i v : (s.setDie i v).maint = s.maint := rfl
@[simp] theorem State.setDie_wins (s : State) i v : (s.setDie i v).wins = s.wins := rfl
@[simp] theorem State.setDie_power (s : State) i v : (s.setDie i v).power = s.power := rfl
@[simp] theorem State.setDie_wdDefault (s : State) i v : (s.setDie i v).wdDefault = s.wdDefault := rfl
@[simp] theorem State.setDie_overCap (s : State) i v : (s.setDie i v).overCap = s.overCap := rfl
@[simp] theorem State.setDie_netBytes (s : State) i v : (s.setDie i v).netBytes = s.netBytes := rfl
@[simp] theorem State.setDie_waits (s : State) i v : (s.setDie i v).waits = s.waits := rfl
@[simp] theorem State.setDie_defaults (s : State) i v : (s.setDie i v).defaults = s.defaults := rfl
@[simp] theorem State.setDie_scribes (s : State) i v : (s.setDie i v).scribes = s.scribes := rfl
@[simp] theorem State.setDie_ten (s : State) i v : (s.setDie i v).ten = s.ten := rfl
@[simp] theorem State.setDie_bh (s : State) i v : (s.setDie i v).bh = s.bh := rfl
@[simp] theorem State.setDie_pins (s : State) i v : (s.setDie i v).pins = s.pins := rfl
@[simp] theorem State.rd_setDie (s : State) i v z : (s.setDie i v).rd z = s.rd z := rfl
@[simp] theorem State.f_setDie (s : State) i v z w : (s.setDie i v).f z w = s.f z w := rfl
@[simp] theorem State.bit_setDie (s : State) i v z w : (s.setDie i v).bit z w = s.bit z w := rfl
@[simp] theorem State.eng_setDie (s : State) i v z : (s.setDie i v).eng z = s.eng z := rfl
@[simp] theorem State.cvu_setDie (s : State) i v z : (s.setDie i v).cvu z = s.cvu z := rfl
@[simp] theorem State.ae_setDie (s : State) i v z : (s.setDie i v).ae z = s.ae z := rfl
@[simp] theorem State.tq_setDie (s : State) i v z w : (s.setDie i v).tq z w = s.tq z w := rfl
@[simp] theorem State.cox_setDie (s : State) i v z : (s.setDie i v).cox z = s.cox z := rfl
@[simp] theorem State.core_setDie (s : State) i v z : (s.setDie i v).core z = s.core z := rfl
@[simp] theorem State.stk_setDie (s : State) i v z : (s.setDie i v).stk z = s.stk z := rfl
@[simp] theorem State.ctx_setDie (s : State) i v z : (s.setDie i v).ctx z = s.ctx z := rfl
@[simp] theorem State.scribe_setDie (s : State) i v z : (s.setDie i v).scribe z = s.scribe z := rfl
@[simp] theorem State.hbmByte_setDie (s : State) i v z w : (s.setDie i v).hbmByte z w = s.hbmByte z w := rfl
@[simp] theorem State.spadByte_setDie (s : State) i v z w : (s.setDie i v).spadByte z w = s.spadByte z w := rfl

/-! ### `clock` -/

@[simp] theorem State.clock_pending (s : State) d x : (s.clock d x).pending = s.pending := by simp only [State.clock]; split <;> rfl
@[simp] theorem State.clock_out (s : State) d x : (s.clock d x).out = s.out := by simp only [State.clock]; split <;> rfl
@[simp] theorem State.clock_time (s : State) d x : (s.clock d x).time = s.time := by simp only [State.clock]; split <;> rfl
@[simp] theorem State.clock_free (s : State) d x : (s.clock d x).free = s.free := by simp only [State.clock]; split <;> rfl
@[simp] theorem State.clock_regs (s : State) d x : (s.clock d x).regs = s.regs := by simp only [State.clock]; split <;> rfl
@[simp] theorem State.clock_spad (s : State) d x : (s.clock d x).spad = s.spad := by simp only [State.clock]; split <;> rfl
@[simp] theorem State.clock_hbm (s : State) d x : (s.clock d x).hbm = s.hbm := by simp only [State.clock]; split <;> rfl
@[simp] theorem State.clock_liftedCores (s : State) d x : (s.clock d x).liftedCores = s.liftedCores := by simp only [State.clock]; split <;> rfl
@[simp] theorem State.clock_liftedPcs (s : State) d x : (s.clock d x).liftedPcs = s.liftedPcs := by simp only [State.clock]; split <;> rfl
@[simp] theorem State.clock_engines (s : State) d x : (s.clock d x).engines = s.engines := by simp only [State.clock]; split <;> rfl
@[simp] theorem State.clock_cvus (s : State) d x : (s.clock d x).cvus = s.cvus := by simp only [State.clock]; split <;> rfl
@[simp] theorem State.clock_aes (s : State) d x : (s.clock d x).aes = s.aes := by simp only [State.clock]; split <;> rfl
@[simp] theorem State.clock_coxes (s : State) d x : (s.clock d x).coxes = s.coxes := by simp only [State.clock]; split <;> rfl
@[simp] theorem State.clock_cores (s : State) d x : (s.clock d x).cores = s.cores := by simp only [State.clock]; split <;> rfl
@[simp] theorem State.clock_hbmCtls (s : State) d x : (s.clock d x).hbmCtls = s.hbmCtls := by simp only [State.clock]; split <;> rfl
@[simp] theorem State.clock_ctxs (s : State) d x : (s.clock d x).ctxs = s.ctxs := by simp only [State.clock]; split <;> rfl
@[simp] theorem State.clock_errs (s : State) d x : (s.clock d x).errs = s.errs := by simp only [State.clock]; split <;> rfl
@[simp] theorem State.clock_snaps (s : State) d x : (s.clock d x).snaps = s.snaps := by simp only [State.clock]; split <;> rfl
@[simp] theorem State.clock_mods (s : State) d x : (s.clock d x).mods = s.mods := by simp only [State.clock]; split <;> rfl
@[simp] theorem State.clock_pals (s : State) d x : (s.clock d x).pals = s.pals := by simp only [State.clock]; split <;> rfl
@[simp] theorem State.clock_mirrorDue (s : State) d x : (s.clock d x).mirrorDue = s.mirrorDue := by simp only [State.clock]; split <;> rfl
@[simp] theorem State.clock_node (s : State) d x : (s.clock d x).node = s.node := by simp only [State.clock]; split <;> rfl
@[simp] theorem State.clock_fab (s : State) d x : (s.clock d x).fab = s.fab := by simp only [State.clock]; split <;> rfl
@[simp] theorem State.clock_colls (s : State) d x : (s.clock d x).colls = s.colls := by simp only [State.clock]; split <;> rfl
@[simp] theorem State.clock_maint (s : State) d x : (s.clock d x).maint = s.maint := by simp only [State.clock]; split <;> rfl
@[simp] theorem State.clock_wins (s : State) d x : (s.clock d x).wins = s.wins := by simp only [State.clock]; split <;> rfl
@[simp] theorem State.clock_power (s : State) d x : (s.clock d x).power = s.power := by simp only [State.clock]; split <;> rfl
@[simp] theorem State.clock_wdDefault (s : State) d x : (s.clock d x).wdDefault = s.wdDefault := by simp only [State.clock]; split <;> rfl
@[simp] theorem State.clock_overCap (s : State) d x : (s.clock d x).overCap = s.overCap := by simp only [State.clock]; split <;> rfl
@[simp] theorem State.clock_netBytes (s : State) d x : (s.clock d x).netBytes = s.netBytes := by simp only [State.clock]; split <;> rfl
@[simp] theorem State.clock_waits (s : State) d x : (s.clock d x).waits = s.waits := by simp only [State.clock]; split <;> rfl
@[simp] theorem State.clock_defaults (s : State) d x : (s.clock d x).defaults = s.defaults := by simp only [State.clock]; split <;> rfl
@[simp] theorem State.clock_scribes (s : State) d x : (s.clock d x).scribes = s.scribes := by simp only [State.clock]; split <;> rfl
@[simp] theorem State.clock_ten (s : State) d x : (s.clock d x).ten = s.ten := by simp only [State.clock]; split <;> rfl
@[simp] theorem State.clock_bh (s : State) d x : (s.clock d x).bh = s.bh := by simp only [State.clock]; split <;> rfl
@[simp] theorem State.clock_pins (s : State) d x : (s.clock d x).pins = s.pins := by simp only [State.clock]; split <;> rfl
@[simp] theorem State.rd_clock (s : State) d x z : (s.clock d x).rd z = s.rd z := by simp only [State.clock]; split <;> rfl
@[simp] theorem State.f_clock (s : State) d x z w : (s.clock d x).f z w = s.f z w := by simp only [State.clock]; split <;> rfl
@[simp] theorem State.bit_clock (s : State) d x z w : (s.clock d x).bit z w = s.bit z w := by simp only [State.clock]; split <;> rfl
@[simp] theorem State.eng_clock (s : State) d x z : (s.clock d x).eng z = s.eng z := by simp only [State.clock]; split <;> rfl
@[simp] theorem State.cvu_clock (s : State) d x z : (s.clock d x).cvu z = s.cvu z := by simp only [State.clock]; split <;> rfl
@[simp] theorem State.ae_clock (s : State) d x z : (s.clock d x).ae z = s.ae z := by simp only [State.clock]; split <;> rfl
@[simp] theorem State.tq_clock (s : State) d x z w : (s.clock d x).tq z w = s.tq z w := by simp only [State.clock]; split <;> rfl
@[simp] theorem State.cox_clock (s : State) d x z : (s.clock d x).cox z = s.cox z := by simp only [State.clock]; split <;> rfl
@[simp] theorem State.core_clock (s : State) d x z : (s.clock d x).core z = s.core z := by simp only [State.clock]; split <;> rfl
@[simp] theorem State.stk_clock (s : State) d x z : (s.clock d x).stk z = s.stk z := by simp only [State.clock]; split <;> rfl
@[simp] theorem State.ctx_clock (s : State) d x z : (s.clock d x).ctx z = s.ctx z := by simp only [State.clock]; split <;> rfl
@[simp] theorem State.scribe_clock (s : State) d x z : (s.clock d x).scribe z = s.scribe z := by simp only [State.clock]; split <;> rfl
@[simp] theorem State.hbmByte_clock (s : State) d x z w : (s.clock d x).hbmByte z w = s.hbmByte z w := by simp only [State.clock]; split <;> rfl
@[simp] theorem State.spadByte_clock (s : State) d x z w : (s.clock d x).spadByte z w = s.spadByte z w := by simp only [State.clock]; split <;> rfl

/-! ### `energy` -/

@[simp] theorem State.energy_pending (s : State) d k n : (s.energy d k n).pending = s.pending := rfl
@[simp] theorem State.energy_out (s : State) d k n : (s.energy d k n).out = s.out := rfl
@[simp] theorem State.energy_time (s : State) d k n : (s.energy d k n).time = s.time := rfl
@[simp] theorem State.energy_free (s : State) d k n : (s.energy d k n).free = s.free := rfl
@[simp] theorem State.energy_regs (s : State) d k n : (s.energy d k n).regs = s.regs := rfl
@[simp] theorem State.energy_spad (s : State) d k n : (s.energy d k n).spad = s.spad := rfl
@[simp] theorem State.energy_hbm (s : State) d k n : (s.energy d k n).hbm = s.hbm := rfl
@[simp] theorem State.energy_liftedCores (s : State) d k n : (s.energy d k n).liftedCores = s.liftedCores := rfl
@[simp] theorem State.energy_liftedPcs (s : State) d k n : (s.energy d k n).liftedPcs = s.liftedPcs := rfl
@[simp] theorem State.energy_engines (s : State) d k n : (s.energy d k n).engines = s.engines := rfl
@[simp] theorem State.energy_cvus (s : State) d k n : (s.energy d k n).cvus = s.cvus := rfl
@[simp] theorem State.energy_aes (s : State) d k n : (s.energy d k n).aes = s.aes := rfl
@[simp] theorem State.energy_coxes (s : State) d k n : (s.energy d k n).coxes = s.coxes := rfl
@[simp] theorem State.energy_cores (s : State) d k n : (s.energy d k n).cores = s.cores := rfl
@[simp] theorem State.energy_hbmCtls (s : State) d k n : (s.energy d k n).hbmCtls = s.hbmCtls := rfl
@[simp] theorem State.energy_ctxs (s : State) d k n : (s.energy d k n).ctxs = s.ctxs := rfl
@[simp] theorem State.energy_errs (s : State) d k n : (s.energy d k n).errs = s.errs := rfl
@[simp] theorem State.energy_snaps (s : State) d k n : (s.energy d k n).snaps = s.snaps := rfl
@[simp] theorem State.energy_mods (s : State) d k n : (s.energy d k n).mods = s.mods := rfl
@[simp] theorem State.energy_pals (s : State) d k n : (s.energy d k n).pals = s.pals := rfl
@[simp] theorem State.energy_mirrorDue (s : State) d k n : (s.energy d k n).mirrorDue = s.mirrorDue := rfl
@[simp] theorem State.energy_node (s : State) d k n : (s.energy d k n).node = s.node := rfl
@[simp] theorem State.energy_fab (s : State) d k n : (s.energy d k n).fab = s.fab := rfl
@[simp] theorem State.energy_colls (s : State) d k n : (s.energy d k n).colls = s.colls := rfl
@[simp] theorem State.energy_maint (s : State) d k n : (s.energy d k n).maint = s.maint := rfl
@[simp] theorem State.energy_wins (s : State) d k n : (s.energy d k n).wins = s.wins := rfl
@[simp] theorem State.energy_power (s : State) d k n : (s.energy d k n).power = s.power := rfl
@[simp] theorem State.energy_wdDefault (s : State) d k n : (s.energy d k n).wdDefault = s.wdDefault := rfl
@[simp] theorem State.energy_overCap (s : State) d k n : (s.energy d k n).overCap = s.overCap := rfl
@[simp] theorem State.energy_netBytes (s : State) d k n : (s.energy d k n).netBytes = s.netBytes := rfl
@[simp] theorem State.energy_waits (s : State) d k n : (s.energy d k n).waits = s.waits := rfl
@[simp] theorem State.energy_defaults (s : State) d k n : (s.energy d k n).defaults = s.defaults := rfl
@[simp] theorem State.energy_scribes (s : State) d k n : (s.energy d k n).scribes = s.scribes := rfl
@[simp] theorem State.energy_ten (s : State) d k n : (s.energy d k n).ten = s.ten := rfl
@[simp] theorem State.energy_bh (s : State) d k n : (s.energy d k n).bh = s.bh := rfl
@[simp] theorem State.energy_pins (s : State) d k n : (s.energy d k n).pins = s.pins := rfl
@[simp] theorem State.rd_energy (s : State) d k n z : (s.energy d k n).rd z = s.rd z := rfl
@[simp] theorem State.f_energy (s : State) d k n z w : (s.energy d k n).f z w = s.f z w := rfl
@[simp] theorem State.bit_energy (s : State) d k n z w : (s.energy d k n).bit z w = s.bit z w := rfl
@[simp] theorem State.eng_energy (s : State) d k n z : (s.energy d k n).eng z = s.eng z := rfl
@[simp] theorem State.cvu_energy (s : State) d k n z : (s.energy d k n).cvu z = s.cvu z := rfl
@[simp] theorem State.ae_energy (s : State) d k n z : (s.energy d k n).ae z = s.ae z := rfl
@[simp] theorem State.tq_energy (s : State) d k n z w : (s.energy d k n).tq z w = s.tq z w := rfl
@[simp] theorem State.cox_energy (s : State) d k n z : (s.energy d k n).cox z = s.cox z := rfl
@[simp] theorem State.core_energy (s : State) d k n z : (s.energy d k n).core z = s.core z := rfl
@[simp] theorem State.stk_energy (s : State) d k n z : (s.energy d k n).stk z = s.stk z := rfl
@[simp] theorem State.ctx_energy (s : State) d k n z : (s.energy d k n).ctx z = s.ctx z := rfl
@[simp] theorem State.scribe_energy (s : State) d k n z : (s.energy d k n).scribe z = s.scribe z := rfl
@[simp] theorem State.hbmByte_energy (s : State) d k n z w : (s.energy d k n).hbmByte z w = s.hbmByte z w := rfl
@[simp] theorem State.spadByte_energy (s : State) d k n z w : (s.energy d k n).spadByte z w = s.spadByte z w := rfl

/-! ### `setStk` -/

@[simp] theorem State.setStk_pending (s : State) i v : (s.setStk i v).pending = s.pending := rfl
@[simp] theorem State.setStk_out (s : State) i v : (s.setStk i v).out = s.out := rfl
@[simp] theorem State.setStk_time (s : State) i v : (s.setStk i v).time = s.time := rfl
@[simp] theorem State.setStk_free (s : State) i v : (s.setStk i v).free = s.free := rfl
@[simp] theorem State.setStk_regs (s : State) i v : (s.setStk i v).regs = s.regs := rfl
@[simp] theorem State.setStk_spad (s : State) i v : (s.setStk i v).spad = s.spad := rfl
@[simp] theorem State.setStk_hbm (s : State) i v : (s.setStk i v).hbm = s.hbm := rfl
@[simp] theorem State.setStk_liftedCores (s : State) i v : (s.setStk i v).liftedCores = s.liftedCores := rfl
@[simp] theorem State.setStk_liftedPcs (s : State) i v : (s.setStk i v).liftedPcs = s.liftedPcs := rfl
@[simp] theorem State.setStk_engines (s : State) i v : (s.setStk i v).engines = s.engines := rfl
@[simp] theorem State.setStk_cvus (s : State) i v : (s.setStk i v).cvus = s.cvus := rfl
@[simp] theorem State.setStk_aes (s : State) i v : (s.setStk i v).aes = s.aes := rfl
@[simp] theorem State.setStk_coxes (s : State) i v : (s.setStk i v).coxes = s.coxes := rfl
@[simp] theorem State.setStk_cores (s : State) i v : (s.setStk i v).cores = s.cores := rfl
@[simp] theorem State.setStk_dies (s : State) i v : (s.setStk i v).dies = s.dies := rfl
@[simp] theorem State.setStk_ctxs (s : State) i v : (s.setStk i v).ctxs = s.ctxs := rfl
@[simp] theorem State.setStk_errs (s : State) i v : (s.setStk i v).errs = s.errs := rfl
@[simp] theorem State.setStk_snaps (s : State) i v : (s.setStk i v).snaps = s.snaps := rfl
@[simp] theorem State.setStk_mods (s : State) i v : (s.setStk i v).mods = s.mods := rfl
@[simp] theorem State.setStk_pals (s : State) i v : (s.setStk i v).pals = s.pals := rfl
@[simp] theorem State.setStk_mirrorDue (s : State) i v : (s.setStk i v).mirrorDue = s.mirrorDue := rfl
@[simp] theorem State.setStk_node (s : State) i v : (s.setStk i v).node = s.node := rfl
@[simp] theorem State.setStk_fab (s : State) i v : (s.setStk i v).fab = s.fab := rfl
@[simp] theorem State.setStk_colls (s : State) i v : (s.setStk i v).colls = s.colls := rfl
@[simp] theorem State.setStk_maint (s : State) i v : (s.setStk i v).maint = s.maint := rfl
@[simp] theorem State.setStk_wins (s : State) i v : (s.setStk i v).wins = s.wins := rfl
@[simp] theorem State.setStk_power (s : State) i v : (s.setStk i v).power = s.power := rfl
@[simp] theorem State.setStk_wdDefault (s : State) i v : (s.setStk i v).wdDefault = s.wdDefault := rfl
@[simp] theorem State.setStk_overCap (s : State) i v : (s.setStk i v).overCap = s.overCap := rfl
@[simp] theorem State.setStk_netBytes (s : State) i v : (s.setStk i v).netBytes = s.netBytes := rfl
@[simp] theorem State.setStk_waits (s : State) i v : (s.setStk i v).waits = s.waits := rfl
@[simp] theorem State.setStk_defaults (s : State) i v : (s.setStk i v).defaults = s.defaults := rfl
@[simp] theorem State.setStk_scribes (s : State) i v : (s.setStk i v).scribes = s.scribes := rfl
@[simp] theorem State.setStk_ten (s : State) i v : (s.setStk i v).ten = s.ten := rfl
@[simp] theorem State.setStk_bh (s : State) i v : (s.setStk i v).bh = s.bh := rfl
@[simp] theorem State.setStk_pins (s : State) i v : (s.setStk i v).pins = s.pins := rfl
@[simp] theorem State.rd_setStk (s : State) i v z : (s.setStk i v).rd z = s.rd z := rfl
@[simp] theorem State.f_setStk (s : State) i v z w : (s.setStk i v).f z w = s.f z w := rfl
@[simp] theorem State.bit_setStk (s : State) i v z w : (s.setStk i v).bit z w = s.bit z w := rfl
@[simp] theorem State.eng_setStk (s : State) i v z : (s.setStk i v).eng z = s.eng z := rfl
@[simp] theorem State.cvu_setStk (s : State) i v z : (s.setStk i v).cvu z = s.cvu z := rfl
@[simp] theorem State.ae_setStk (s : State) i v z : (s.setStk i v).ae z = s.ae z := rfl
@[simp] theorem State.tq_setStk (s : State) i v z w : (s.setStk i v).tq z w = s.tq z w := rfl
@[simp] theorem State.cox_setStk (s : State) i v z : (s.setStk i v).cox z = s.cox z := rfl
@[simp] theorem State.core_setStk (s : State) i v z : (s.setStk i v).core z = s.core z := rfl
@[simp] theorem State.die_setStk (s : State) i v z : (s.setStk i v).die z = s.die z := rfl
@[simp] theorem State.ctx_setStk (s : State) i v z : (s.setStk i v).ctx z = s.ctx z := rfl
@[simp] theorem State.scribe_setStk (s : State) i v z : (s.setStk i v).scribe z = s.scribe z := rfl
@[simp] theorem State.hbmByte_setStk (s : State) i v z w : (s.setStk i v).hbmByte z w = s.hbmByte z w := rfl
@[simp] theorem State.spadByte_setStk (s : State) i v z w : (s.setStk i v).spadByte z w = s.spadByte z w := rfl

/-! ### `setCtx` -/

@[simp] theorem State.setCtx_pending (s : State) i v : (s.setCtx i v).pending = s.pending := rfl
@[simp] theorem State.setCtx_out (s : State) i v : (s.setCtx i v).out = s.out := rfl
@[simp] theorem State.setCtx_time (s : State) i v : (s.setCtx i v).time = s.time := rfl
@[simp] theorem State.setCtx_free (s : State) i v : (s.setCtx i v).free = s.free := rfl
@[simp] theorem State.setCtx_regs (s : State) i v : (s.setCtx i v).regs = s.regs := rfl
@[simp] theorem State.setCtx_spad (s : State) i v : (s.setCtx i v).spad = s.spad := rfl
@[simp] theorem State.setCtx_hbm (s : State) i v : (s.setCtx i v).hbm = s.hbm := rfl
@[simp] theorem State.setCtx_liftedCores (s : State) i v : (s.setCtx i v).liftedCores = s.liftedCores := rfl
@[simp] theorem State.setCtx_liftedPcs (s : State) i v : (s.setCtx i v).liftedPcs = s.liftedPcs := rfl
@[simp] theorem State.setCtx_engines (s : State) i v : (s.setCtx i v).engines = s.engines := rfl
@[simp] theorem State.setCtx_cvus (s : State) i v : (s.setCtx i v).cvus = s.cvus := rfl
@[simp] theorem State.setCtx_aes (s : State) i v : (s.setCtx i v).aes = s.aes := rfl
@[simp] theorem State.setCtx_coxes (s : State) i v : (s.setCtx i v).coxes = s.coxes := rfl
@[simp] theorem State.setCtx_cores (s : State) i v : (s.setCtx i v).cores = s.cores := rfl
@[simp] theorem State.setCtx_dies (s : State) i v : (s.setCtx i v).dies = s.dies := rfl
@[simp] theorem State.setCtx_hbmCtls (s : State) i v : (s.setCtx i v).hbmCtls = s.hbmCtls := rfl
@[simp] theorem State.setCtx_errs (s : State) i v : (s.setCtx i v).errs = s.errs := rfl
@[simp] theorem State.setCtx_snaps (s : State) i v : (s.setCtx i v).snaps = s.snaps := rfl
@[simp] theorem State.setCtx_mods (s : State) i v : (s.setCtx i v).mods = s.mods := rfl
@[simp] theorem State.setCtx_pals (s : State) i v : (s.setCtx i v).pals = s.pals := rfl
@[simp] theorem State.setCtx_mirrorDue (s : State) i v : (s.setCtx i v).mirrorDue = s.mirrorDue := rfl
@[simp] theorem State.setCtx_node (s : State) i v : (s.setCtx i v).node = s.node := rfl
@[simp] theorem State.setCtx_fab (s : State) i v : (s.setCtx i v).fab = s.fab := rfl
@[simp] theorem State.setCtx_colls (s : State) i v : (s.setCtx i v).colls = s.colls := rfl
@[simp] theorem State.setCtx_maint (s : State) i v : (s.setCtx i v).maint = s.maint := rfl
@[simp] theorem State.setCtx_wins (s : State) i v : (s.setCtx i v).wins = s.wins := rfl
@[simp] theorem State.setCtx_power (s : State) i v : (s.setCtx i v).power = s.power := rfl
@[simp] theorem State.setCtx_wdDefault (s : State) i v : (s.setCtx i v).wdDefault = s.wdDefault := rfl
@[simp] theorem State.setCtx_overCap (s : State) i v : (s.setCtx i v).overCap = s.overCap := rfl
@[simp] theorem State.setCtx_netBytes (s : State) i v : (s.setCtx i v).netBytes = s.netBytes := rfl
@[simp] theorem State.setCtx_waits (s : State) i v : (s.setCtx i v).waits = s.waits := rfl
@[simp] theorem State.setCtx_defaults (s : State) i v : (s.setCtx i v).defaults = s.defaults := rfl
@[simp] theorem State.setCtx_scribes (s : State) i v : (s.setCtx i v).scribes = s.scribes := rfl
@[simp] theorem State.setCtx_ten (s : State) i v : (s.setCtx i v).ten = s.ten := rfl
@[simp] theorem State.setCtx_bh (s : State) i v : (s.setCtx i v).bh = s.bh := rfl
@[simp] theorem State.setCtx_pins (s : State) i v : (s.setCtx i v).pins = s.pins := rfl
@[simp] theorem State.rd_setCtx (s : State) i v z : (s.setCtx i v).rd z = s.rd z := rfl
@[simp] theorem State.f_setCtx (s : State) i v z w : (s.setCtx i v).f z w = s.f z w := rfl
@[simp] theorem State.bit_setCtx (s : State) i v z w : (s.setCtx i v).bit z w = s.bit z w := rfl
@[simp] theorem State.eng_setCtx (s : State) i v z : (s.setCtx i v).eng z = s.eng z := rfl
@[simp] theorem State.cvu_setCtx (s : State) i v z : (s.setCtx i v).cvu z = s.cvu z := rfl
@[simp] theorem State.ae_setCtx (s : State) i v z : (s.setCtx i v).ae z = s.ae z := rfl
@[simp] theorem State.tq_setCtx (s : State) i v z w : (s.setCtx i v).tq z w = s.tq z w := rfl
@[simp] theorem State.cox_setCtx (s : State) i v z : (s.setCtx i v).cox z = s.cox z := rfl
@[simp] theorem State.core_setCtx (s : State) i v z : (s.setCtx i v).core z = s.core z := rfl
@[simp] theorem State.die_setCtx (s : State) i v z : (s.setCtx i v).die z = s.die z := rfl
@[simp] theorem State.stk_setCtx (s : State) i v z : (s.setCtx i v).stk z = s.stk z := rfl
@[simp] theorem State.scribe_setCtx (s : State) i v z : (s.setCtx i v).scribe z = s.scribe z := rfl
@[simp] theorem State.hbmByte_setCtx (s : State) i v z w : (s.setCtx i v).hbmByte z w = s.hbmByte z w := rfl
@[simp] theorem State.spadByte_setCtx (s : State) i v z w : (s.setCtx i v).spadByte z w = s.spadByte z w := rfl

/-! ### `setScribe` -/

@[simp] theorem State.setScribe_pending (s : State) i v : (s.setScribe i v).pending = s.pending := rfl
@[simp] theorem State.setScribe_out (s : State) i v : (s.setScribe i v).out = s.out := rfl
@[simp] theorem State.setScribe_time (s : State) i v : (s.setScribe i v).time = s.time := rfl
@[simp] theorem State.setScribe_free (s : State) i v : (s.setScribe i v).free = s.free := rfl
@[simp] theorem State.setScribe_regs (s : State) i v : (s.setScribe i v).regs = s.regs := rfl
@[simp] theorem State.setScribe_spad (s : State) i v : (s.setScribe i v).spad = s.spad := rfl
@[simp] theorem State.setScribe_hbm (s : State) i v : (s.setScribe i v).hbm = s.hbm := rfl
@[simp] theorem State.setScribe_liftedCores (s : State) i v : (s.setScribe i v).liftedCores = s.liftedCores := rfl
@[simp] theorem State.setScribe_liftedPcs (s : State) i v : (s.setScribe i v).liftedPcs = s.liftedPcs := rfl
@[simp] theorem State.setScribe_engines (s : State) i v : (s.setScribe i v).engines = s.engines := rfl
@[simp] theorem State.setScribe_cvus (s : State) i v : (s.setScribe i v).cvus = s.cvus := rfl
@[simp] theorem State.setScribe_aes (s : State) i v : (s.setScribe i v).aes = s.aes := rfl
@[simp] theorem State.setScribe_coxes (s : State) i v : (s.setScribe i v).coxes = s.coxes := rfl
@[simp] theorem State.setScribe_cores (s : State) i v : (s.setScribe i v).cores = s.cores := rfl
@[simp] theorem State.setScribe_dies (s : State) i v : (s.setScribe i v).dies = s.dies := rfl
@[simp] theorem State.setScribe_hbmCtls (s : State) i v : (s.setScribe i v).hbmCtls = s.hbmCtls := rfl
@[simp] theorem State.setScribe_ctxs (s : State) i v : (s.setScribe i v).ctxs = s.ctxs := rfl
@[simp] theorem State.setScribe_errs (s : State) i v : (s.setScribe i v).errs = s.errs := rfl
@[simp] theorem State.setScribe_snaps (s : State) i v : (s.setScribe i v).snaps = s.snaps := rfl
@[simp] theorem State.setScribe_mods (s : State) i v : (s.setScribe i v).mods = s.mods := rfl
@[simp] theorem State.setScribe_pals (s : State) i v : (s.setScribe i v).pals = s.pals := rfl
@[simp] theorem State.setScribe_mirrorDue (s : State) i v : (s.setScribe i v).mirrorDue = s.mirrorDue := rfl
@[simp] theorem State.setScribe_node (s : State) i v : (s.setScribe i v).node = s.node := rfl
@[simp] theorem State.setScribe_fab (s : State) i v : (s.setScribe i v).fab = s.fab := rfl
@[simp] theorem State.setScribe_colls (s : State) i v : (s.setScribe i v).colls = s.colls := rfl
@[simp] theorem State.setScribe_maint (s : State) i v : (s.setScribe i v).maint = s.maint := rfl
@[simp] theorem State.setScribe_wins (s : State) i v : (s.setScribe i v).wins = s.wins := rfl
@[simp] theorem State.setScribe_power (s : State) i v : (s.setScribe i v).power = s.power := rfl
@[simp] theorem State.setScribe_wdDefault (s : State) i v : (s.setScribe i v).wdDefault = s.wdDefault := rfl
@[simp] theorem State.setScribe_overCap (s : State) i v : (s.setScribe i v).overCap = s.overCap := rfl
@[simp] theorem State.setScribe_netBytes (s : State) i v : (s.setScribe i v).netBytes = s.netBytes := rfl
@[simp] theorem State.setScribe_waits (s : State) i v : (s.setScribe i v).waits = s.waits := rfl
@[simp] theorem State.setScribe_defaults (s : State) i v : (s.setScribe i v).defaults = s.defaults := rfl
@[simp] theorem State.setScribe_ten (s : State) i v : (s.setScribe i v).ten = s.ten := rfl
@[simp] theorem State.setScribe_bh (s : State) i v : (s.setScribe i v).bh = s.bh := rfl
@[simp] theorem State.setScribe_pins (s : State) i v : (s.setScribe i v).pins = s.pins := rfl
@[simp] theorem State.rd_setScribe (s : State) i v z : (s.setScribe i v).rd z = s.rd z := rfl
@[simp] theorem State.f_setScribe (s : State) i v z w : (s.setScribe i v).f z w = s.f z w := rfl
@[simp] theorem State.bit_setScribe (s : State) i v z w : (s.setScribe i v).bit z w = s.bit z w := rfl
@[simp] theorem State.eng_setScribe (s : State) i v z : (s.setScribe i v).eng z = s.eng z := rfl
@[simp] theorem State.cvu_setScribe (s : State) i v z : (s.setScribe i v).cvu z = s.cvu z := rfl
@[simp] theorem State.ae_setScribe (s : State) i v z : (s.setScribe i v).ae z = s.ae z := rfl
@[simp] theorem State.tq_setScribe (s : State) i v z w : (s.setScribe i v).tq z w = s.tq z w := rfl
@[simp] theorem State.cox_setScribe (s : State) i v z : (s.setScribe i v).cox z = s.cox z := rfl
@[simp] theorem State.core_setScribe (s : State) i v z : (s.setScribe i v).core z = s.core z := rfl
@[simp] theorem State.die_setScribe (s : State) i v z : (s.setScribe i v).die z = s.die z := rfl
@[simp] theorem State.stk_setScribe (s : State) i v z : (s.setScribe i v).stk z = s.stk z := rfl
@[simp] theorem State.ctx_setScribe (s : State) i v z : (s.setScribe i v).ctx z = s.ctx z := rfl
@[simp] theorem State.hbmByte_setScribe (s : State) i v z w : (s.setScribe i v).hbmByte z w = s.hbmByte z w := rfl
@[simp] theorem State.spadByte_setScribe (s : State) i v z w : (s.setScribe i v).spadByte z w = s.spadByte z w := rfl

/-! ### `setQp` -/

@[simp] theorem State.setQp_pending (s : State) q v : (s.setQp q v).pending = s.pending := rfl
@[simp] theorem State.setQp_out (s : State) q v : (s.setQp q v).out = s.out := rfl
@[simp] theorem State.setQp_time (s : State) q v : (s.setQp q v).time = s.time := rfl
@[simp] theorem State.setQp_free (s : State) q v : (s.setQp q v).free = s.free := rfl
@[simp] theorem State.setQp_regs (s : State) q v : (s.setQp q v).regs = s.regs := rfl
@[simp] theorem State.setQp_spad (s : State) q v : (s.setQp q v).spad = s.spad := rfl
@[simp] theorem State.setQp_hbm (s : State) q v : (s.setQp q v).hbm = s.hbm := rfl
@[simp] theorem State.setQp_liftedCores (s : State) q v : (s.setQp q v).liftedCores = s.liftedCores := rfl
@[simp] theorem State.setQp_liftedPcs (s : State) q v : (s.setQp q v).liftedPcs = s.liftedPcs := rfl
@[simp] theorem State.setQp_engines (s : State) q v : (s.setQp q v).engines = s.engines := rfl
@[simp] theorem State.setQp_cvus (s : State) q v : (s.setQp q v).cvus = s.cvus := rfl
@[simp] theorem State.setQp_aes (s : State) q v : (s.setQp q v).aes = s.aes := rfl
@[simp] theorem State.setQp_coxes (s : State) q v : (s.setQp q v).coxes = s.coxes := rfl
@[simp] theorem State.setQp_cores (s : State) q v : (s.setQp q v).cores = s.cores := rfl
@[simp] theorem State.setQp_dies (s : State) q v : (s.setQp q v).dies = s.dies := rfl
@[simp] theorem State.setQp_hbmCtls (s : State) q v : (s.setQp q v).hbmCtls = s.hbmCtls := rfl
@[simp] theorem State.setQp_ctxs (s : State) q v : (s.setQp q v).ctxs = s.ctxs := rfl
@[simp] theorem State.setQp_errs (s : State) q v : (s.setQp q v).errs = s.errs := rfl
@[simp] theorem State.setQp_snaps (s : State) q v : (s.setQp q v).snaps = s.snaps := rfl
@[simp] theorem State.setQp_mods (s : State) q v : (s.setQp q v).mods = s.mods := rfl
@[simp] theorem State.setQp_pals (s : State) q v : (s.setQp q v).pals = s.pals := rfl
@[simp] theorem State.setQp_mirrorDue (s : State) q v : (s.setQp q v).mirrorDue = s.mirrorDue := rfl
@[simp] theorem State.setQp_node (s : State) q v : (s.setQp q v).node = s.node := rfl
@[simp] theorem State.setQp_fab (s : State) q v : (s.setQp q v).fab = s.fab := rfl
@[simp] theorem State.setQp_colls (s : State) q v : (s.setQp q v).colls = s.colls := rfl
@[simp] theorem State.setQp_maint (s : State) q v : (s.setQp q v).maint = s.maint := rfl
@[simp] theorem State.setQp_wins (s : State) q v : (s.setQp q v).wins = s.wins := rfl
@[simp] theorem State.setQp_power (s : State) q v : (s.setQp q v).power = s.power := rfl
@[simp] theorem State.setQp_wdDefault (s : State) q v : (s.setQp q v).wdDefault = s.wdDefault := rfl
@[simp] theorem State.setQp_overCap (s : State) q v : (s.setQp q v).overCap = s.overCap := rfl
@[simp] theorem State.setQp_netBytes (s : State) q v : (s.setQp q v).netBytes = s.netBytes := rfl
@[simp] theorem State.setQp_waits (s : State) q v : (s.setQp q v).waits = s.waits := rfl
@[simp] theorem State.setQp_defaults (s : State) q v : (s.setQp q v).defaults = s.defaults := rfl
@[simp] theorem State.setQp_scribes (s : State) q v : (s.setQp q v).scribes = s.scribes := rfl
@[simp] theorem State.setQp_bh (s : State) q v : (s.setQp q v).bh = s.bh := rfl
@[simp] theorem State.setQp_pins (s : State) q v : (s.setQp q v).pins = s.pins := rfl
@[simp] theorem State.rd_setQp (s : State) q v z : (s.setQp q v).rd z = s.rd z := rfl
@[simp] theorem State.f_setQp (s : State) q v z w : (s.setQp q v).f z w = s.f z w := rfl
@[simp] theorem State.bit_setQp (s : State) q v z w : (s.setQp q v).bit z w = s.bit z w := rfl
@[simp] theorem State.eng_setQp (s : State) q v z : (s.setQp q v).eng z = s.eng z := rfl
@[simp] theorem State.cvu_setQp (s : State) q v z : (s.setQp q v).cvu z = s.cvu z := rfl
@[simp] theorem State.ae_setQp (s : State) q v z : (s.setQp q v).ae z = s.ae z := rfl
@[simp] theorem State.tq_setQp (s : State) q v z w : (s.setQp q v).tq z w = s.tq z w := rfl
@[simp] theorem State.cox_setQp (s : State) q v z : (s.setQp q v).cox z = s.cox z := rfl
@[simp] theorem State.core_setQp (s : State) q v z : (s.setQp q v).core z = s.core z := rfl
@[simp] theorem State.die_setQp (s : State) q v z : (s.setQp q v).die z = s.die z := rfl
@[simp] theorem State.stk_setQp (s : State) q v z : (s.setQp q v).stk z = s.stk z := rfl
@[simp] theorem State.ctx_setQp (s : State) q v z : (s.setQp q v).ctx z = s.ctx z := rfl
@[simp] theorem State.scribe_setQp (s : State) q v z : (s.setQp q v).scribe z = s.scribe z := rfl
@[simp] theorem State.hbmByte_setQp (s : State) q v z w : (s.setQp q v).hbmByte z w = s.hbmByte z w := rfl
@[simp] theorem State.spadByte_setQp (s : State) q v z w : (s.setQp q v).spadByte z w = s.spadByte z w := rfl

/-! ### `emit` -/

@[simp] theorem State.emit_pending (s : State) o : (s.emit o).pending = s.pending := rfl
@[simp] theorem State.emit_time (s : State) o : (s.emit o).time = s.time := rfl
@[simp] theorem State.emit_free (s : State) o : (s.emit o).free = s.free := rfl
@[simp] theorem State.emit_regs (s : State) o : (s.emit o).regs = s.regs := rfl
@[simp] theorem State.emit_spad (s : State) o : (s.emit o).spad = s.spad := rfl
@[simp] theorem State.emit_hbm (s : State) o : (s.emit o).hbm = s.hbm := rfl
@[simp] theorem State.emit_liftedCores (s : State) o : (s.emit o).liftedCores = s.liftedCores := rfl
@[simp] theorem State.emit_liftedPcs (s : State) o : (s.emit o).liftedPcs = s.liftedPcs := rfl
@[simp] theorem State.emit_engines (s : State) o : (s.emit o).engines = s.engines := rfl
@[simp] theorem State.emit_cvus (s : State) o : (s.emit o).cvus = s.cvus := rfl
@[simp] theorem State.emit_aes (s : State) o : (s.emit o).aes = s.aes := rfl
@[simp] theorem State.emit_coxes (s : State) o : (s.emit o).coxes = s.coxes := rfl
@[simp] theorem State.emit_cores (s : State) o : (s.emit o).cores = s.cores := rfl
@[simp] theorem State.emit_dies (s : State) o : (s.emit o).dies = s.dies := rfl
@[simp] theorem State.emit_hbmCtls (s : State) o : (s.emit o).hbmCtls = s.hbmCtls := rfl
@[simp] theorem State.emit_ctxs (s : State) o : (s.emit o).ctxs = s.ctxs := rfl
@[simp] theorem State.emit_errs (s : State) o : (s.emit o).errs = s.errs := rfl
@[simp] theorem State.emit_snaps (s : State) o : (s.emit o).snaps = s.snaps := rfl
@[simp] theorem State.emit_mods (s : State) o : (s.emit o).mods = s.mods := rfl
@[simp] theorem State.emit_pals (s : State) o : (s.emit o).pals = s.pals := rfl
@[simp] theorem State.emit_mirrorDue (s : State) o : (s.emit o).mirrorDue = s.mirrorDue := rfl
@[simp] theorem State.emit_node (s : State) o : (s.emit o).node = s.node := rfl
@[simp] theorem State.emit_fab (s : State) o : (s.emit o).fab = s.fab := rfl
@[simp] theorem State.emit_colls (s : State) o : (s.emit o).colls = s.colls := rfl
@[simp] theorem State.emit_maint (s : State) o : (s.emit o).maint = s.maint := rfl
@[simp] theorem State.emit_wins (s : State) o : (s.emit o).wins = s.wins := rfl
@[simp] theorem State.emit_power (s : State) o : (s.emit o).power = s.power := rfl
@[simp] theorem State.emit_wdDefault (s : State) o : (s.emit o).wdDefault = s.wdDefault := rfl
@[simp] theorem State.emit_overCap (s : State) o : (s.emit o).overCap = s.overCap := rfl
@[simp] theorem State.emit_netBytes (s : State) o : (s.emit o).netBytes = s.netBytes := rfl
@[simp] theorem State.emit_waits (s : State) o : (s.emit o).waits = s.waits := rfl
@[simp] theorem State.emit_defaults (s : State) o : (s.emit o).defaults = s.defaults := rfl
@[simp] theorem State.emit_scribes (s : State) o : (s.emit o).scribes = s.scribes := rfl
@[simp] theorem State.emit_ten (s : State) o : (s.emit o).ten = s.ten := rfl
@[simp] theorem State.emit_bh (s : State) o : (s.emit o).bh = s.bh := rfl
@[simp] theorem State.emit_pins (s : State) o : (s.emit o).pins = s.pins := rfl
@[simp] theorem State.rd_emit (s : State) o z : (s.emit o).rd z = s.rd z := rfl
@[simp] theorem State.f_emit (s : State) o z w : (s.emit o).f z w = s.f z w := rfl
@[simp] theorem State.bit_emit (s : State) o z w : (s.emit o).bit z w = s.bit z w := rfl
@[simp] theorem State.eng_emit (s : State) o z : (s.emit o).eng z = s.eng z := rfl
@[simp] theorem State.cvu_emit (s : State) o z : (s.emit o).cvu z = s.cvu z := rfl
@[simp] theorem State.ae_emit (s : State) o z : (s.emit o).ae z = s.ae z := rfl
@[simp] theorem State.tq_emit (s : State) o z w : (s.emit o).tq z w = s.tq z w := rfl
@[simp] theorem State.cox_emit (s : State) o z : (s.emit o).cox z = s.cox z := rfl
@[simp] theorem State.core_emit (s : State) o z : (s.emit o).core z = s.core z := rfl
@[simp] theorem State.die_emit (s : State) o z : (s.emit o).die z = s.die z := rfl
@[simp] theorem State.stk_emit (s : State) o z : (s.emit o).stk z = s.stk z := rfl
@[simp] theorem State.ctx_emit (s : State) o z : (s.emit o).ctx z = s.ctx z := rfl
@[simp] theorem State.scribe_emit (s : State) o z : (s.emit o).scribe z = s.scribe z := rfl
@[simp] theorem State.hbmByte_emit (s : State) o z w : (s.emit o).hbmByte z w = s.hbmByte z w := rfl
@[simp] theorem State.spadByte_emit (s : State) o z w : (s.emit o).spadByte z w = s.spadByte z w := rfl

/-! ### `emits` -/

@[simp] theorem State.emits_pending (s : State) o : (s.emits o).pending = s.pending := rfl
@[simp] theorem State.emits_time (s : State) o : (s.emits o).time = s.time := rfl
@[simp] theorem State.emits_free (s : State) o : (s.emits o).free = s.free := rfl
@[simp] theorem State.emits_regs (s : State) o : (s.emits o).regs = s.regs := rfl
@[simp] theorem State.emits_spad (s : State) o : (s.emits o).spad = s.spad := rfl
@[simp] theorem State.emits_hbm (s : State) o : (s.emits o).hbm = s.hbm := rfl
@[simp] theorem State.emits_liftedCores (s : State) o : (s.emits o).liftedCores = s.liftedCores := rfl
@[simp] theorem State.emits_liftedPcs (s : State) o : (s.emits o).liftedPcs = s.liftedPcs := rfl
@[simp] theorem State.emits_engines (s : State) o : (s.emits o).engines = s.engines := rfl
@[simp] theorem State.emits_cvus (s : State) o : (s.emits o).cvus = s.cvus := rfl
@[simp] theorem State.emits_aes (s : State) o : (s.emits o).aes = s.aes := rfl
@[simp] theorem State.emits_coxes (s : State) o : (s.emits o).coxes = s.coxes := rfl
@[simp] theorem State.emits_cores (s : State) o : (s.emits o).cores = s.cores := rfl
@[simp] theorem State.emits_dies (s : State) o : (s.emits o).dies = s.dies := rfl
@[simp] theorem State.emits_hbmCtls (s : State) o : (s.emits o).hbmCtls = s.hbmCtls := rfl
@[simp] theorem State.emits_ctxs (s : State) o : (s.emits o).ctxs = s.ctxs := rfl
@[simp] theorem State.emits_errs (s : State) o : (s.emits o).errs = s.errs := rfl
@[simp] theorem State.emits_snaps (s : State) o : (s.emits o).snaps = s.snaps := rfl
@[simp] theorem State.emits_mods (s : State) o : (s.emits o).mods = s.mods := rfl
@[simp] theorem State.emits_pals (s : State) o : (s.emits o).pals = s.pals := rfl
@[simp] theorem State.emits_mirrorDue (s : State) o : (s.emits o).mirrorDue = s.mirrorDue := rfl
@[simp] theorem State.emits_node (s : State) o : (s.emits o).node = s.node := rfl
@[simp] theorem State.emits_fab (s : State) o : (s.emits o).fab = s.fab := rfl
@[simp] theorem State.emits_colls (s : State) o : (s.emits o).colls = s.colls := rfl
@[simp] theorem State.emits_maint (s : State) o : (s.emits o).maint = s.maint := rfl
@[simp] theorem State.emits_wins (s : State) o : (s.emits o).wins = s.wins := rfl
@[simp] theorem State.emits_power (s : State) o : (s.emits o).power = s.power := rfl
@[simp] theorem State.emits_wdDefault (s : State) o : (s.emits o).wdDefault = s.wdDefault := rfl
@[simp] theorem State.emits_overCap (s : State) o : (s.emits o).overCap = s.overCap := rfl
@[simp] theorem State.emits_netBytes (s : State) o : (s.emits o).netBytes = s.netBytes := rfl
@[simp] theorem State.emits_waits (s : State) o : (s.emits o).waits = s.waits := rfl
@[simp] theorem State.emits_defaults (s : State) o : (s.emits o).defaults = s.defaults := rfl
@[simp] theorem State.emits_scribes (s : State) o : (s.emits o).scribes = s.scribes := rfl
@[simp] theorem State.emits_ten (s : State) o : (s.emits o).ten = s.ten := rfl
@[simp] theorem State.emits_bh (s : State) o : (s.emits o).bh = s.bh := rfl
@[simp] theorem State.emits_pins (s : State) o : (s.emits o).pins = s.pins := rfl
@[simp] theorem State.rd_emits (s : State) o z : (s.emits o).rd z = s.rd z := rfl
@[simp] theorem State.f_emits (s : State) o z w : (s.emits o).f z w = s.f z w := rfl
@[simp] theorem State.bit_emits (s : State) o z w : (s.emits o).bit z w = s.bit z w := rfl
@[simp] theorem State.eng_emits (s : State) o z : (s.emits o).eng z = s.eng z := rfl
@[simp] theorem State.cvu_emits (s : State) o z : (s.emits o).cvu z = s.cvu z := rfl
@[simp] theorem State.ae_emits (s : State) o z : (s.emits o).ae z = s.ae z := rfl
@[simp] theorem State.tq_emits (s : State) o z w : (s.emits o).tq z w = s.tq z w := rfl
@[simp] theorem State.cox_emits (s : State) o z : (s.emits o).cox z = s.cox z := rfl
@[simp] theorem State.core_emits (s : State) o z : (s.emits o).core z = s.core z := rfl
@[simp] theorem State.die_emits (s : State) o z : (s.emits o).die z = s.die z := rfl
@[simp] theorem State.stk_emits (s : State) o z : (s.emits o).stk z = s.stk z := rfl
@[simp] theorem State.ctx_emits (s : State) o z : (s.emits o).ctx z = s.ctx z := rfl
@[simp] theorem State.scribe_emits (s : State) o z : (s.emits o).scribe z = s.scribe z := rfl
@[simp] theorem State.hbmByte_emits (s : State) o z w : (s.emits o).hbmByte z w = s.hbmByte z w := rfl
@[simp] theorem State.spadByte_emits (s : State) o z w : (s.emits o).spadByte z w = s.spadByte z w := rfl

/-! ### Reading after writing -/

theorem State.rd_wr (s : State) a v z : (s.wr a v).rd z = if z = a then v else s.rd z := NMap.get_set ..
@[simp] theorem State.rd_wr_self (s : State) a v : (s.wr a v).rd a = v := by simp [State.rd_wr]
theorem State.rd_wr_ne (s : State) a v z (h : z ≠ a) : (s.wr a v).rd z = s.rd z := by simp [State.rd_wr, h]
theorem State.rd_setF_ne (s : State) a g v z (h : z ≠ a) : (s.setF a g v).rd z = s.rd z := State.rd_wr_ne _ _ _ _ h
theorem State.f_setF_ne (s : State) a g v z w (h : z ≠ a) : (s.setF a g v).f z w = s.f z w := by
  unfold State.f; rw [State.rd_setF_ne _ _ _ _ _ h]
theorem State.rd_bump_ne (s : State) a n z (h : z ≠ a) : (s.bump a n).rd z = s.rd z := by
  unfold State.bump; split
  · rfl
  · exact State.rd_wr_ne _ _ _ _ h
theorem State.rd_bump_self (s : State) a n : (s.bump a n).rd a = s.rd a + BitVec.ofNat 64 n := by
  unfold State.bump; split
  · subst_vars; simp
  · simp
theorem State.f_bump_ne (s : State) a n z w (h : z ≠ a) : (s.bump a n).f z w = s.f z w := by
  unfold State.f; rw [State.rd_bump_ne _ _ _ _ h]

theorem State.eng_setEng (s : State) i v z : (s.setEng i v).eng z = if z = i then v else s.eng z := NMap.get_set ..
@[simp] theorem State.eng_setEng_self (s : State) i v : (s.setEng i v).eng i = v := by simp [State.eng_setEng]
theorem State.eng_setEng_ne (s : State) i v z (h : z ≠ i) : (s.setEng i v).eng z = s.eng z := by simp [State.eng_setEng, h]
theorem State.cvu_setCvu (s : State) i v z : (s.setCvu i v).cvu z = if z = i then v else s.cvu z := NMap.get_set ..
@[simp] theorem State.cvu_setCvu_self (s : State) i v : (s.setCvu i v).cvu i = v := by simp [State.cvu_setCvu]
theorem State.cvu_setCvu_ne (s : State) i v z (h : z ≠ i) : (s.setCvu i v).cvu z = s.cvu z := by simp [State.cvu_setCvu, h]
theorem State.ae_setAe (s : State) i v z : (s.setAe i v).ae z = if z = i then v else s.ae z := NMap.get_set ..
@[simp] theorem State.ae_setAe_self (s : State) i v : (s.setAe i v).ae i = v := by simp [State.ae_setAe]
theorem State.ae_setAe_ne (s : State) i v z (h : z ≠ i) : (s.setAe i v).ae z = s.ae z := by simp [State.ae_setAe, h]
theorem State.cox_setCox (s : State) i v z : (s.setCox i v).cox z = if z = i then v else s.cox z := NMap.get_set ..
@[simp] theorem State.cox_setCox_self (s : State) i v : (s.setCox i v).cox i = v := by simp [State.cox_setCox]
theorem State.cox_setCox_ne (s : State) i v z (h : z ≠ i) : (s.setCox i v).cox z = s.cox z := by simp [State.cox_setCox, h]
theorem State.core_setCore (s : State) i v z : (s.setCore i v).core z = if z = i then v else s.core z := NMap.get_set ..
@[simp] theorem State.core_setCore_self (s : State) i v : (s.setCore i v).core i = v := by simp [State.core_setCore]
theorem State.core_setCore_ne (s : State) i v z (h : z ≠ i) : (s.setCore i v).core z = s.core z := by simp [State.core_setCore, h]
theorem State.die_setDie (s : State) i v z : (s.setDie i v).die z = if z = i then v else s.die z := NMap.get_set ..
@[simp] theorem State.die_setDie_self (s : State) i v : (s.setDie i v).die i = v := by simp [State.die_setDie]
theorem State.die_setDie_ne (s : State) i v z (h : z ≠ i) : (s.setDie i v).die z = s.die z := by simp [State.die_setDie, h]
theorem State.stk_setStk (s : State) i v z : (s.setStk i v).stk z = if z = i then v else s.stk z := NMap.get_set ..
@[simp] theorem State.stk_setStk_self (s : State) i v : (s.setStk i v).stk i = v := by simp [State.stk_setStk]
theorem State.stk_setStk_ne (s : State) i v z (h : z ≠ i) : (s.setStk i v).stk z = s.stk z := by simp [State.stk_setStk, h]
theorem State.ctx_setCtx (s : State) i v z : (s.setCtx i v).ctx z = if z = i then v else s.ctx z := NMap.get_set ..
@[simp] theorem State.ctx_setCtx_self (s : State) i v : (s.setCtx i v).ctx i = v := by simp [State.ctx_setCtx]
theorem State.ctx_setCtx_ne (s : State) i v z (h : z ≠ i) : (s.setCtx i v).ctx z = s.ctx z := by simp [State.ctx_setCtx, h]
theorem State.scribe_setScribe (s : State) i v z : (s.setScribe i v).scribe z = if z = i then v else s.scribe z := NMap.get_set ..
@[simp] theorem State.scribe_setScribe_self (s : State) i v : (s.setScribe i v).scribe i = v := by simp [State.scribe_setScribe]
theorem State.scribe_setScribe_ne (s : State) i v z (h : z ≠ i) : (s.setScribe i v).scribe z = s.scribe z := by simp [State.scribe_setScribe, h]

/-- The cycle a die has reached. -/
theorem State.die_clock_now (s : State) d x : ((s.clock d x).die d).now = max (s.die d).now x := by
  simp only [State.clock]; split
  · simp; omega
  · omega
theorem State.die_clock_ne (s : State) d x z (h : z ≠ d) : (s.clock d x).die z = s.die z := by
  simp only [State.clock]; split
  · exact State.die_setDie_ne _ _ _ _ h
  · rfl
/-- The clock moves nothing else of its die. -/
theorem State.die_clock (s : State) d x : (s.clock d x).die d = { s.die d with now := max (s.die d).now x } := by
  simp only [State.clock]; split
  · simp; omega
  · have e : max (s.die d).now x = (s.die d).now := by omega
    simp [e]

end Sys2Proof.Machine
end

