-- ==== Sys2Proof/Laws/Control.lean ====
section
/-! SUPPORT. What a guarded command, an access and a control-register write that is let in come to, once for all commands. -/

namespace Sys2Proof.Machine

set_option Elab.async false

open Sys2Proof

/-- An event whose guard holds has its effect. -/
theorem State.when_true {g : Bool} (why : String) (t : State) (h : g = true) : State.when g why t = .next t := by
  simp [State.when, h]

/-- An event whose guard fails is refused by name. -/
theorem State.when_false {g : Bool} (why : String) (t : State) (h : g = false) :
    State.when g why t = .refused (.notEnabled why) := by simp [State.when, h]

theorem State.whenWf_true {w g : Bool} (why : String) (t : State) (hw : w = true) (h : g = true) :
    State.whenWf w g why t = .next t := by simp [State.whenWf, State.when, hw, h]

/-- An event that answers a next state had its guard, and the state is its effect. -/
theorem State.when_next {g : Bool} {why : String} {t u : State} (h : State.when g why t = .next u) : g = true ∧ u = t := by
  unfold State.when at h
  split at h
  · rename_i c; exact ⟨c, (Host.Outcome.next.inj h).symm⟩
  · cases h

theorem State.whenWf_next {w g : Bool} {why : String} {t u : State} (h : State.whenWf w g why t = .next u) :
    w = true ∧ g = true ∧ u = t := by
  unfold State.whenWf at h
  split at h
  · rename_i c; exact ⟨c, State.when_next h⟩
  · cases h

/-- A point that is not armed fires nothing and changes nothing (R345). -/
theorem State.inject_unarmed {s : State} {k : Nat} (h : Unarmed s k) (kind idx : Nat) (addr : Nat := 0) :
    s.inject k kind idx addr = (none, s) := by
  unfold State.inject
  exact if_pos h

/-- An access that names a target, is entitled to it and finds it not fenced is served, and nothing is recorded. -/
theorem State.accessStatus_ok {s : State} {iss : Issuer} {ten : Option Nat} {kind space off len : Nat} {v : Word} {t : Target}
    (ht : targetOf space off len = t) (hb : t ≠ .bad) (ha : ¬ (kind = aAtomic ∧ 2 ≤ space)) (hi : Unarmed s 0x1D)
    (he : s.entitled iss ten kind space off len t v = true) (hf : s.fencedTarget t len = false) :
    s.accessStatus iss ten kind space off len v = (sOK, s) := by
  unfold State.accessStatus
  simp only [ht]
  have c : (kind == aAtomic && decide (2 ≤ space)) = false := by
    by_cases h : kind = aAtomic
    · simp [h] at ha; simp [h, ha]
    · simp [h]
  have i : ∀ x y z, s.inject 0x1D x y z = (none, s) := fun x y z => State.inject_unarmed hi x y z
  rcases targetDie t with _ | d
  · simp [i, hb, c, he, hf]
  · rcases hd : s.tenOfDie d <;> simp [hd, i, hb, c, he, hf]

/-- A control-register write that is let in has its effect at once and is answered OK. -/
theorem State.ctlIn_admitted {s : State} {iss : Issuer} {off : Nat} {v : Word} (h : Admitted s iss off v) (act : State → State)
    (img : Option FwImage := none) : s.ctlIn iss off 8 v act img = (act s).emit (.answer iss off sOK 0) := by
  obtain ⟨ao, hi, ht, he, hf, hw⟩ := h
  have a := State.accessStatus_ok ht (by simp) (by simp) hi he hf
  unfold State.ctlIn
  simp [ao, a, hw]

end Sys2Proof.Machine
end

