-- ==== Sys2Proof/Laws/Kept.lean ====
section
/-! SUPPORT. What a command may disturb. Whatever it is, the queue is left alone, the memories keep their canonical form, free
values are never used again, nothing sent is taken back, and a programmed owner slot stays; and each leaves every part of the
state but its own as it was. A set of parts is a number with a bit per part, in the order of State. -/

namespace Sys2Proof.Machine

set_option Elab.async false

open Sys2Proof

/-- Is one set of parts inside another? -/
structure Sub (a b : Nat) : Prop where
  meet : a &&& b = a

theorem Sub.le {a b c : Nat} (k : Sub b c) (h : a &&& b = a) : Sub a c := ⟨by rw [← h, Nat.and_assoc, k.meet]⟩

theorem Sub.nope {a m i : Nat} {p : Prop} (k : Sub a m) (h : a.testBit i = true) (n : m.testBit i = false) : p := by
  have e : (a &&& m).testBit i = true := by rw [k.meet, h]
  simp [n] at e

/-- Every part outside a set is the same. -/
def Same (m : Nat) (r s : State) : Prop := ∀ f : Part, m.testBit f.ctorIdx = false → f.same r s

theorem Same.mk {m : Nat} {r s : State}
    (e0 : m.testBit 0 = false → s.pending = r.pending := by first | exact fun _ => rfl | exact Sub.nope (by assumption) (by decide))
    (e1 : m.testBit 1 = false → s.out = r.out := by first | exact fun _ => rfl | exact Sub.nope (by assumption) (by decide))
    (e2 : m.testBit 2 = false → s.time = r.time := by first | exact fun _ => rfl | exact Sub.nope (by assumption) (by decide))
    (e3 : m.testBit 3 = false → s.free = r.free := by first | exact fun _ => rfl | exact Sub.nope (by assumption) (by decide))
    (e4 : m.testBit 4 = false → s.regs = r.regs := by first | exact fun _ => rfl | exact Sub.nope (by assumption) (by decide))
    (e5 : m.testBit 5 = false → s.spad = r.spad := by first | exact fun _ => rfl | exact Sub.nope (by assumption) (by decide))
    (e6 : m.testBit 6 = false → s.hbm = r.hbm := by first | exact fun _ => rfl | exact Sub.nope (by assumption) (by decide))
    (e7 : m.testBit 7 = false → s.liftedCores = r.liftedCores := by first | exact fun _ => rfl | exact Sub.nope (by assumption) (by decide))
    (e8 : m.testBit 8 = false → s.liftedPcs = r.liftedPcs := by first | exact fun _ => rfl | exact Sub.nope (by assumption) (by decide))
    (e9 : m.testBit 9 = false → s.engines = r.engines := by first | exact fun _ => rfl | exact Sub.nope (by assumption) (by decide))
    (e10 : m.testBit 10 = false → s.cvus = r.cvus := by first | exact fun _ => rfl | exact Sub.nope (by assumption) (by decide))
    (e11 : m.testBit 11 = false → s.aes = r.aes := by first | exact fun _ => rfl | exact Sub.nope (by assumption) (by decide))
    (e12 : m.testBit 12 = false → s.coxes = r.coxes := by first | exact fun _ => rfl | exact Sub.nope (by assumption) (by decide))
    (e13 : m.testBit 13 = false → s.cores = r.cores := by first | exact fun _ => rfl | exact Sub.nope (by assumption) (by decide))
    (e14 : m.testBit 14 = false → s.dies = r.dies := by first | exact fun _ => rfl | exact Sub.nope (by assumption) (by decide))
    (e15 : m.testBit 15 = false → s.hbmCtls = r.hbmCtls := by first | exact fun _ => rfl | exact Sub.nope (by assumption) (by decide))
    (e16 : m.testBit 16 = false → s.ctxs = r.ctxs := by first | exact fun _ => rfl | exact Sub.nope (by assumption) (by decide))
    (e17 : m.testBit 17 = false → s.errs = r.errs := by first | exact fun _ => rfl | exact Sub.nope (by assumption) (by decide))
    (e18 : m.testBit 18 = false → s.snaps = r.snaps := by first | exact fun _ => rfl | exact Sub.nope (by assumption) (by decide))
    (e19 : m.testBit 19 = false → s.mods = r.mods := by first | exact fun _ => rfl | exact Sub.nope (by assumption) (by decide))
    (e20 : m.testBit 20 = false → s.pals = r.pals := by first | exact fun _ => rfl | exact Sub.nope (by assumption) (by decide))
    (e21 : m.testBit 21 = false → s.mirrorDue = r.mirrorDue := by first | exact fun _ => rfl | exact Sub.nope (by assumption) (by decide))
    (e22 : m.testBit 22 = false → s.node = r.node := by first | exact fun _ => rfl | exact Sub.nope (by assumption) (by decide))
    (e23 : m.testBit 23 = false → s.fab = r.fab := by first | exact fun _ => rfl | exact Sub.nope (by assumption) (by decide))
    (e24 : m.testBit 24 = false → s.colls = r.colls := by first | exact fun _ => rfl | exact Sub.nope (by assumption) (by decide))
    (e25 : m.testBit 25 = false → s.maint = r.maint := by first | exact fun _ => rfl | exact Sub.nope (by assumption) (by decide))
    (e26 : m.testBit 26 = false → s.wins = r.wins := by first | exact fun _ => rfl | exact Sub.nope (by assumption) (by decide))
    (e27 : m.testBit 27 = false → s.power = r.power := by first | exact fun _ => rfl | exact Sub.nope (by assumption) (by decide))
    (e28 : m.testBit 28 = false → s.wdDefault = r.wdDefault := by first | exact fun _ => rfl | exact Sub.nope (by assumption) (by decide))
    (e29 : m.testBit 29 = false → s.overCap = r.overCap := by first | exact fun _ => rfl | exact Sub.nope (by assumption) (by decide))
    (e30 : m.testBit 30 = false → s.netBytes = r.netBytes := by first | exact fun _ => rfl | exact Sub.nope (by assumption) (by decide))
    (e31 : m.testBit 31 = false → s.waits = r.waits := by first | exact fun _ => rfl | exact Sub.nope (by assumption) (by decide))
    (e32 : m.testBit 32 = false → s.defaults = r.defaults := by first | exact fun _ => rfl | exact Sub.nope (by assumption) (by decide))
    (e33 : m.testBit 33 = false → s.scribes = r.scribes := by first | exact fun _ => rfl | exact Sub.nope (by assumption) (by decide))
    (e34 : m.testBit 34 = false → s.ten = r.ten := by first | exact fun _ => rfl | exact Sub.nope (by assumption) (by decide))
    (e35 : m.testBit 35 = false → s.bh = r.bh := by first | exact fun _ => rfl | exact Sub.nope (by assumption) (by decide))
    (e36 : m.testBit 36 = false → s.pins = r.pins := by first | exact fun _ => rfl | exact Sub.nope (by assumption) (by decide)) :
    Same m r s := by
  intro f; cases f
  all_goals assumption

theorem Same.trans {m : Nat} {r s t : State} (a : Same m r s) (b : Same m s t) : Same m r t := fun f h => by
  have x := a f h
  have y := b f h
  cases f <;> exact Eq.trans y x

theorem Same.weaken {m n : Nat} {r s : State} (a : Same m r s) (k : Sub m n) : Same n r s := fun f h => a f (by
  rcases e : m.testBit f.ctorIdx with _ | _
  · rfl
  · exact Sub.nope k e h)

/-- From r to s the queue is the same, a canonical memory stays canonical (log 2), free values move on only (log 4), what was
sent stays sent in its order, and the one-time owner slots only fill (R324); and only the parts in `m` may differ. -/
structure Kept (m : Nat) (r s : State) : Prop where
  pending : s.pending = r.pending
  memory : Memory.wf r = true → Memory.wf s = true
  free : r.free ≤ s.free
  out : r.out <+: s.out
  owners : r.bh.owners <+: s.bh.owners
  same : Same m r s

/-- The same of every next state an answer gives. -/
structure KeptRes (m : Nat) (r : State) (o : Res) : Prop where
  next : ∀ t, o = .next t → Kept m r t

/-! ### Putting it together -/

theorem Kept.refl (m : Nat) (r : State) : Kept m r r :=
  ⟨rfl, id, Nat.le_refl _, List.prefix_refl _, List.prefix_refl _, .mk⟩

theorem Kept.trans {m : Nat} {r s t : State} (a : Kept m r s) (b : Kept m s t) : Kept m r t :=
  ⟨b.pending.trans a.pending, fun h => b.memory (a.memory h), Nat.le_trans a.free b.free, a.out.trans b.out,
    a.owners.trans b.owners, a.same.trans b.same⟩

/-- A record update of the fields that `Kept` says nothing more of. -/
theorem Kept.upd {m : Nat} {r s : State} {x2 : Nat} {x4 : NMap Word} {x9 : NMap Engine} {x10 : NMap Cvu}
    {x11 : NMap AccessEngine} {x12 : NMap Cox} {x13 : NMap CoreMisc} {x14 : NMap DieState} {x15 : NMap StackState}
    {x16 : Contexts} {x17 : Errors} {x18 : NMap SnapRun} {x19 : NMap Module} {x20 : List (Option Palimpsest)}
    {x21 : Bool} {x22 : Nat} {x23 : Fabric} {x24 : Colls} {x25 : Maint} {x26 : NMap (Word × Word)}
    {x27 : Power} {x28 : Nat} {x29 : List (Nat × Nat)} {x30 : NMap (Nat × Nat)} {x31 : List WaitAccess}
    {x32 : NMap (Nat × Nat)} {x33 : NMap Scribe} {x34 : Tenancies} {x35 : Boathouse} {x36 : Pins} 
    (h : Kept m r s) (w : x35.owners = s.bh.owners)
    (e2 : m.testBit 2 = false → x2 = s.time := by first | with_reducible exact fun _ => rfl | exact Sub.nope (by assumption) (by decide))
    (e4 : m.testBit 4 = false → x4 = s.regs := by first | with_reducible exact fun _ => rfl | exact Sub.nope (by assumption) (by decide))
    (e9 : m.testBit 9 = false → x9 = s.engines := by first | with_reducible exact fun _ => rfl | exact Sub.nope (by assumption) (by decide))
    (e10 : m.testBit 10 = false → x10 = s.cvus := by first | with_reducible exact fun _ => rfl | exact Sub.nope (by assumption) (by decide))
    (e11 : m.testBit 11 = false → x11 = s.aes := by first | with_reducible exact fun _ => rfl | exact Sub.nope (by assumption) (by decide))
    (e12 : m.testBit 12 = false → x12 = s.coxes := by first | with_reducible exact fun _ => rfl | exact Sub.nope (by assumption) (by decide))
    (e13 : m.testBit 13 = false → x13 = s.cores := by first | with_reducible exact fun _ => rfl | exact Sub.nope (by assumption) (by decide))
    (e14 : m.testBit 14 = false → x14 = s.dies := by first | with_reducible exact fun _ => rfl | exact Sub.nope (by assumption) (by decide))
    (e15 : m.testBit 15 = false → x15 = s.hbmCtls := by first | with_reducible exact fun _ => rfl | exact Sub.nope (by assumption) (by decide))
    (e16 : m.testBit 16 = false → x16 = s.ctxs := by first | with_reducible exact fun _ => rfl | exact Sub.nope (by assumption) (by decide))
    (e17 : m.testBit 17 = false → x17 = s.errs := by first | with_reducible exact fun _ => rfl | exact Sub.nope (by assumption) (by decide))
    (e18 : m.testBit 18 = false → x18 = s.snaps := by first | with_reducible exact fun _ => rfl | exact Sub.nope (by assumption) (by decide))
    (e19 : m.testBit 19 = false → x19 = s.mods := by first | with_reducible exact fun _ => rfl | exact Sub.nope (by assumption) (by decide))
    (e20 : m.testBit 20 = false → x20 = s.pals := by first | with_reducible exact fun _ => rfl | exact Sub.nope (by assumption) (by decide))
    (e21 : m.testBit 21 = false → x21 = s.mirrorDue := by first | with_reducible exact fun _ => rfl | exact Sub.nope (by assumption) (by decide))
    (e22 : m.testBit 22 = false → x22 = s.node := by first | with_reducible exact fun _ => rfl | exact Sub.nope (by assumption) (by decide))
    (e23 : m.testBit 23 = false → x23 = s.fab := by first | with_reducible exact fun _ => rfl | exact Sub.nope (by assumption) (by decide))
    (e24 : m.testBit 24 = false → x24 = s.colls := by first | with_reducible exact fun _ => rfl | exact Sub.nope (by assumption) (by decide))
    (e25 : m.testBit 25 = false → x25 = s.maint := by first | with_reducible exact fun _ => rfl | exact Sub.nope (by assumption) (by decide))
    (e26 : m.testBit 26 = false → x26 = s.wins := by first | with_reducible exact fun _ => rfl | exact Sub.nope (by assumption) (by decide))
    (e27 : m.testBit 27 = false → x27 = s.power := by first | with_reducible exact fun _ => rfl | exact Sub.nope (by assumption) (by decide))
    (e28 : m.testBit 28 = false → x28 = s.wdDefault := by first | with_reducible exact fun _ => rfl | exact Sub.nope (by assumption) (by decide))
    (e29 : m.testBit 29 = false → x29 = s.overCap := by first | with_reducible exact fun _ => rfl | exact Sub.nope (by assumption) (by decide))
    (e30 : m.testBit 30 = false → x30 = s.netBytes := by first | with_reducible exact fun _ => rfl | exact Sub.nope (by assumption) (by decide))
    (e31 : m.testBit 31 = false → x31 = s.waits := by first | with_reducible exact fun _ => rfl | exact Sub.nope (by assumption) (by decide))
    (e32 : m.testBit 32 = false → x32 = s.defaults := by first | with_reducible exact fun _ => rfl | exact Sub.nope (by assumption) (by decide))
    (e33 : m.testBit 33 = false → x33 = s.scribes := by first | with_reducible exact fun _ => rfl | exact Sub.nope (by assumption) (by decide))
    (e34 : m.testBit 34 = false → x34 = s.ten := by first | with_reducible exact fun _ => rfl | exact Sub.nope (by assumption) (by decide))
    (e35 : m.testBit 35 = false → x35 = s.bh := by first | with_reducible exact fun _ => rfl | exact Sub.nope (by assumption) (by decide))
    (e36 : m.testBit 36 = false → x36 = s.pins := by first | with_reducible exact fun _ => rfl | exact Sub.nope (by assumption) (by decide)) :
    Kept m r ⟨s.pending, s.out, x2, s.free, x4, s.spad, s.hbm, s.liftedCores, s.liftedPcs, x9, x10, x11, x12, x13, x14, x15, x16, x17, x18, x19, x20, x21, x22, x23, x24, x25, x26, x27, x28, x29, x30, x31, x32, x33, x34, x35, x36⟩ :=
  h.trans ⟨rfl, id, Nat.le_refl _, List.prefix_refl _, by simp [w], .mk
    (e2 := e2) (e4 := e4) (e9 := e9) (e10 := e10) (e11 := e11) (e12 := e12) (e13 := e13) (e14 := e14)
    (e15 := e15) (e16 := e16) (e17 := e17) (e18 := e18) (e19 := e19) (e20 := e20) (e21 := e21) (e22 := e22)
    (e23 := e23) (e24 := e24) (e25 := e25) (e26 := e26) (e27 := e27) (e28 := e28) (e29 := e29) (e30 := e30)
    (e31 := e31) (e32 := e32) (e33 := e33) (e34 := e34) (e35 := e35) (e36 := e36)⟩

/-- The same, where free values move on too. -/
theorem Kept.updFree {m : Nat} {r s : State} {x2 : Nat} {x3 : Nat} {x4 : NMap Word} {x9 : NMap Engine}
    {x10 : NMap Cvu} {x11 : NMap AccessEngine} {x12 : NMap Cox} {x13 : NMap CoreMisc} {x14 : NMap DieState}
    {x15 : NMap StackState} {x16 : Contexts} {x17 : Errors} {x18 : NMap SnapRun} {x19 : NMap Module}
    {x20 : List (Option Palimpsest)} {x21 : Bool} {x22 : Nat} {x23 : Fabric} {x24 : Colls} {x25 : Maint}
    {x26 : NMap (Word × Word)} {x27 : Power} {x28 : Nat} {x29 : List (Nat × Nat)} {x30 : NMap (Nat × Nat)}
    {x31 : List WaitAccess} {x32 : NMap (Nat × Nat)} {x33 : NMap Scribe} {x34 : Tenancies} {x35 : Boathouse}
    {x36 : Pins} 
    (h : Kept m r s) (f : s.free ≤ x3) (w : x35.owners = s.bh.owners)
    (e2 : m.testBit 2 = false → x2 = s.time := by first | with_reducible exact fun _ => rfl | exact Sub.nope (by assumption) (by decide))
    (e3 : m.testBit 3 = false → x3 = s.free := by first | with_reducible exact fun _ => rfl | exact Sub.nope (by assumption) (by decide))
    (e4 : m.testBit 4 = false → x4 = s.regs := by first | with_reducible exact fun _ => rfl | exact Sub.nope (by assumption) (by decide))
    (e9 : m.testBit 9 = false → x9 = s.engines := by first | with_reducible exact fun _ => rfl | exact Sub.nope (by assumption) (by decide))
    (e10 : m.testBit 10 = false → x10 = s.cvus := by first | with_reducible exact fun _ => rfl | exact Sub.nope (by assumption) (by decide))
    (e11 : m.testBit 11 = false → x11 = s.aes := by first | with_reducible exact fun _ => rfl | exact Sub.nope (by assumption) (by decide))
    (e12 : m.testBit 12 = false → x12 = s.coxes := by first | with_reducible exact fun _ => rfl | exact Sub.nope (by assumption) (by decide))
    (e13 : m.testBit 13 = false → x13 = s.cores := by first | with_reducible exact fun _ => rfl | exact Sub.nope (by assumption) (by decide))
    (e14 : m.testBit 14 = false → x14 = s.dies := by first | with_reducible exact fun _ => rfl | exact Sub.nope (by assumption) (by decide))
    (e15 : m.testBit 15 = false → x15 = s.hbmCtls := by first | with_reducible exact fun _ => rfl | exact Sub.nope (by assumption) (by decide))
    (e16 : m.testBit 16 = false → x16 = s.ctxs := by first | with_reducible exact fun _ => rfl | exact Sub.nope (by assumption) (by decide))
    (e17 : m.testBit 17 = false → x17 = s.errs := by first | with_reducible exact fun _ => rfl | exact Sub.nope (by assumption) (by decide))
    (e18 : m.testBit 18 = false → x18 = s.snaps := by first | with_reducible exact fun _ => rfl | exact Sub.nope (by assumption) (by decide))
    (e19 : m.testBit 19 = false → x19 = s.mods := by first | with_reducible exact fun _ => rfl | exact Sub.nope (by assumption) (by decide))
    (e20 : m.testBit 20 = false → x20 = s.pals := by first | with_reducible exact fun _ => rfl | exact Sub.nope (by assumption) (by decide))
    (e21 : m.testBit 21 = false → x21 = s.mirrorDue := by first | with_reducible exact fun _ => rfl | exact Sub.nope (by assumption) (by decide))
    (e22 : m.testBit 22 = false → x22 = s.node := by first | with_reducible exact fun _ => rfl | exact Sub.nope (by assumption) (by decide))
    (e23 : m.testBit 23 = false → x23 = s.fab := by first | with_reducible exact fun _ => rfl | exact Sub.nope (by assumption) (by decide))
    (e24 : m.testBit 24 = false → x24 = s.colls := by first | with_reducible exact fun _ => rfl | exact Sub.nope (by assumption) (by decide))
    (e25 : m.testBit 25 = false → x25 = s.maint := by first | with_reducible exact fun _ => rfl | exact Sub.nope (by assumption) (by decide))
    (e26 : m.testBit 26 = false → x26 = s.wins := by first | with_reducible exact fun _ => rfl | exact Sub.nope (by assumption) (by decide))
    (e27 : m.testBit 27 = false → x27 = s.power := by first | with_reducible exact fun _ => rfl | exact Sub.nope (by assumption) (by decide))
    (e28 : m.testBit 28 = false → x28 = s.wdDefault := by first | with_reducible exact fun _ => rfl | exact Sub.nope (by assumption) (by decide))
    (e29 : m.testBit 29 = false → x29 = s.overCap := by first | with_reducible exact fun _ => rfl | exact Sub.nope (by assumption) (by decide))
    (e30 : m.testBit 30 = false → x30 = s.netBytes := by first | with_reducible exact fun _ => rfl | exact Sub.nope (by assumption) (by decide))
    (e31 : m.testBit 31 = false → x31 = s.waits := by first | with_reducible exact fun _ => rfl | exact Sub.nope (by assumption) (by decide))
    (e32 : m.testBit 32 = false → x32 = s.defaults := by first | with_reducible exact fun _ => rfl | exact Sub.nope (by assumption) (by decide))
    (e33 : m.testBit 33 = false → x33 = s.scribes := by first | with_reducible exact fun _ => rfl | exact Sub.nope (by assumption) (by decide))
    (e34 : m.testBit 34 = false → x34 = s.ten := by first | with_reducible exact fun _ => rfl | exact Sub.nope (by assumption) (by decide))
    (e35 : m.testBit 35 = false → x35 = s.bh := by first | with_reducible exact fun _ => rfl | exact Sub.nope (by assumption) (by decide))
    (e36 : m.testBit 36 = false → x36 = s.pins := by first | with_reducible exact fun _ => rfl | exact Sub.nope (by assumption) (by decide)) :
    Kept m r ⟨s.pending, s.out, x2, x3, x4, s.spad, s.hbm, s.liftedCores, s.liftedPcs, x9, x10, x11, x12, x13, x14, x15, x16, x17, x18, x19, x20, x21, x22, x23, x24, x25, x26, x27, x28, x29, x30, x31, x32, x33, x34, x35, x36⟩ :=
  h.trans ⟨rfl, id, f, List.prefix_refl _, by simp [w], .mk
    (e2 := e2) (e3 := e3) (e4 := e4) (e9 := e9) (e10 := e10) (e11 := e11) (e12 := e12) (e13 := e13)
    (e14 := e14) (e15 := e15) (e16 := e16) (e17 := e17) (e18 := e18) (e19 := e19) (e20 := e20) (e21 := e21)
    (e22 := e22) (e23 := e23) (e24 := e24) (e25 := e25) (e26 := e26) (e27 := e27) (e28 := e28) (e29 := e29)
    (e30 := e30) (e31 := e31) (e32 := e32) (e33 := e33) (e34 := e34) (e35 := e35) (e36 := e36)⟩

theorem Kept.cut {m : Nat} {r s t : State} (h : Kept m r s) (k : Kept m r s → Kept m r t) : Kept m r t := k h

theorem Kept.cut2 {m : Nat} {α : Type} {r t : State} {p : α × State} (h : Kept m r p.2) (k : Kept m r p.2 → Kept m r t) : Kept m r t := k h

theorem Kept.cut3 {m : Nat} {α β : Type} {r t : State} {p : α × β × State} (h : Kept m r p.2.2) (k : Kept m r p.2.2 → Kept m r t) : Kept m r t := k h

theorem Kept.snd {m : Nat} {α : Type} {r t : State} {p : α × State} {a : α} (e : p = (a, t)) (h : Kept m r p.2) : Kept m r t := by
  rw [e] at h; exact h

theorem Kept.foldl {m : Nat} {α : Type} {r s : State} {f : State → α → State} {l : List α} (h : Kept m r s)
    (k : ∀ s x, Kept m r s → Kept m r (f s x)) : Kept m r (l.foldl f s) := by
  induction l generalizing s with
  | nil => exact h
  | cons x l ih => exact ih (k s x h)

theorem Kept.foldl2 {m : Nat} {α β : Type} {r : State} {p : β × State} {f : β × State → α → β × State} {l : List α} (h : Kept m r p.2)
    (k : ∀ p x, Kept m r p.2 → Kept m r (f p x).2) : Kept m r (l.foldl f p).2 := by
  induction l generalizing p with
  | nil => exact h
  | cons x l ih => exact ih (k p x h)

theorem Kept.foldl1 {m : Nat} {α β : Type} {r : State} {p : State × β} {f : State × β → α → State × β} {l : List α} (h : Kept m r p.1)
    (k : ∀ p x, Kept m r p.1 → Kept m r (f p x).1) : Kept m r (l.foldl f p).1 := by
  induction l generalizing p with
  | nil => exact h
  | cons x l ih => exact ih (k p x h)

theorem Kept.foldlMem {m : Nat} {α : Type} {r s : State} {f : State → α → State} {l : List α} (h : Kept m r s)
    (k : ∀ s x, x ∈ l → Kept m r s → Kept m r (f s x)) : Kept m r (l.foldl f s) := by
  induction l generalizing s with
  | nil => exact h
  | cons x l ih => exact ih (k s x (by simp) h) fun s y hy => k s y (by simp [hy])

theorem Kept.foldlRange {m : Nat} {r s : State} {f : State → Nat → State} {n : Nat} (h : Kept m r s)
    (k : ∀ s i, i < n → Kept m r s → Kept m r (f s i)) : Kept m r ((List.range n).foldl f s) :=
  Kept.foldlMem h fun s i hi => k s i (List.mem_range.mp hi)

theorem KeptRes.of {m : Nat} {r s : State} (h : Kept m r s) : KeptRes m r (.next s) := ⟨fun _ e => Host.Outcome.next.inj e ▸ h⟩

theorem KeptRes.refused {m : Nat} {r : State} (why : Refusal) : KeptRes m r (.refused why) := ⟨fun _ e => nomatch e⟩

theorem KeptRes.fault {m : Nat} {r : State} (why : Fault) : KeptRes m r (.fault why) := ⟨fun _ e => nomatch e⟩

theorem KeptRes.when {m : Nat} {r s : State} (h : Kept m r s) (g : Bool) (why : String) : KeptRes m r (State.when g why s) := by
  unfold State.when; split
  · exact .of h
  · exact .refused _

theorem KeptRes.whenWf {m : Nat} {r s : State} (h : Kept m r s) (w g : Bool) (why : String) : KeptRes m r (State.whenWf w g why s) := by
  unfold State.whenWf; split
  · exact KeptRes.when h _ _
  · exact .refused _

theorem KeptRes.cut {m : Nat} {r s : State} {o : Res} (h : Kept m r s) (k : Kept m r s → KeptRes m r o) : KeptRes m r o := k h

theorem KeptRes.cut2 {m : Nat} {α : Type} {r : State} {p : α × State} {o : Res} (h : Kept m r p.2) (k : Kept m r p.2 → KeptRes m r o) :
    KeptRes m r o := k h

/-! ### What is sent, free values -/

theorem State.emit_kept {m : Nat} {r s : State} (h : Kept m r s) (o : Out) (hm : Sub 0x2 m := by exact Sub.le (by assumption) (by decide)) : Kept m r (s.emit o) :=
  h.trans ⟨rfl, id, Nat.le_refl _, List.prefix_append .., List.prefix_refl _, .mk⟩

theorem State.emits_kept {m : Nat} {r s : State} (h : Kept m r s) (os : List Out) (hm : Sub 0x2 m := by exact Sub.le (by assumption) (by decide)) : Kept m r (s.emits os) :=
  h.trans ⟨rfl, id, Nat.le_refl _, List.prefix_append .., List.prefix_refl _, .mk⟩

theorem State.tick_kept {m : Nat} {r s : State} (h : Kept m r s) (hm : Sub 0x8 m := by exact Sub.le (by assumption) (by decide)) : Kept m r s.tick.2 :=
  h.trans ⟨rfl, id, Nat.le_succ _, List.prefix_refl _, List.prefix_refl _, .mk⟩

/-! ### The memories -/

theorem State.setHbmByte_kept {m : Nat} {r s : State} (h : Kept m r s) (k a : Nat) (b : Byte) (hm : Sub 0x40 m := by exact Sub.le (by assumption) (by decide)) : Kept m r (s.setHbmByte k a b) :=
  h.trans ⟨rfl, fun e => by
    simp only [Memory.wf, Bool.and_eq_true] at e ⊢
    exact ⟨NMap.wf_set _ _ _ _ e.1, e.2⟩, Nat.le_refl _, List.prefix_refl _, List.prefix_refl _, .mk⟩

theorem State.setHbmBytes_kept {m : Nat} {r s : State} (h : Kept m r s) (k a : Nat) (bs : List Byte) (hm : Sub 0x40 m := by exact Sub.le (by assumption) (by decide)) : Kept m r (s.setHbmBytes k a bs) := by
  induction bs generalizing s a with
  | nil => exact h
  | cons b bs ih => exact ih (State.setHbmByte_kept h ..) _

theorem State.setAe_kept {m : Nat} {r s : State} (h : Kept m r s) (p : Nat) (v : AccessEngine) (hm : Sub 0x800 m := by exact Sub.le (by assumption) (by decide)) : Kept m r (s.setAe p v) :=
  .upd h rfl

theorem State.setSpadByte_kept {m : Nat} {r s : State} (h : Kept m r s) (p off : Nat) (b : Byte) (hm : Sub 0x820 m := by exact Sub.le (by assumption) (by decide)) : Kept m r (s.setSpadByte p off b) := by
  have put {s : State} (h : Kept m r s) : Kept m r { s with spad := NMap.set s.spadRest s.spad (spadKey p off) b } :=
    h.trans ⟨rfl, fun e => by
      simp only [Memory.wf, Bool.and_eq_true] at e ⊢
      exact ⟨e.1, NMap.wf_set _ _ _ _ e.2⟩, Nat.le_refl _, List.prefix_refl _, List.prefix_refl _, .mk⟩
  unfold State.setSpadByte
  extract_lets v line s'
  refine put ?_
  unfold s'
  split
  · exact State.setAe_kept h ..
  · exact h

theorem State.setSpadBytes_kept {m : Nat} {r s : State} (h : Kept m r s) (p off : Nat) (bs : List Byte) (hm : Sub 0x820 m := by exact Sub.le (by assumption) (by decide)) : Kept m r (s.setSpadBytes p off bs) := by
  induction bs generalizing s off with
  | nil => exact h
  | cons b bs ih => exact ih (State.setSpadByte_kept h ..) _

/-- What an unlisted byte of a unit reads as changes only where the unit joins or leaves those whose fence was lifted. -/
theorem restByte_clear (l : NMap Nat) (lo n u key : Nat) (h : ¬ (lo ≤ u ∧ u < lo + n)) :
    restByte (NMap.clearRange l lo n) u key = restByte l u key := by
  unfold restByte NMap.clearRange
  rw [NMap.look_filter (fun k => !(decide (lo ≤ k) && decide (k < lo + n)))]
  have : (!(decide (lo ≤ u) && decide (u < lo + n))) = true := by simp; omega
  rw [if_pos this]

theorem restByte_ins (l : NMap Nat) (u n v key : Nat) (h : v ≠ u) : restByte (l.ins u n) v key = restByte l v key := by
  unfold restByte
  rw [NMap.look_ins, if_neg h]

theorem State.clearCores_kept {m : Nat} {r s : State} (h : Kept m r s) (p n : Nat) (hm : Sub 0x3ea0 m := by exact Sub.le (by assumption) (by decide)) : Kept m r (s.clearCores p n) :=
  h.trans ⟨rfl, fun e => by
    simp only [Memory.wf, Bool.and_eq_true] at e ⊢
    refine ⟨e.1, NMap.wf_filter _ _ _ _ e.2 fun x _ hx => ?_⟩
    simp [spadKey] at hx
    exact restByte_clear _ _ _ _ _ (by omega), Nat.le_refl _, List.prefix_refl _, List.prefix_refl _, .mk⟩

theorem State.setStk_kept {m : Nat} {r s : State} (h : Kept m r s) (k : Nat) (v : StackState) (hm : Sub 0x8000 m := by exact Sub.le (by assumption) (by decide)) : Kept m r (s.setStk k v) :=
  .upd h rfl

theorem pcOf_lt (a : Nat) : pcOf a < 64 := by unfold pcOf bitsOf; omega

theorem State.loseStack_kept {m : Nat} {r s : State} (h : Kept m r s) (k : Nat) (hm : Sub 0x8140 m := by exact Sub.le (by assumption) (by decide)) : Kept m r (s.loseStack k) :=
  (State.setStk_kept h k StackState.init).trans ⟨rfl, fun e => by
    simp only [Memory.wf, Bool.and_eq_true] at e ⊢
    refine ⟨NMap.wf_filter _ _ _ _ e.1 fun x _ hx => ?_, e.2⟩
    simp [hbmKey] at hx
    have := pcOf_lt (x.1 % 2 ^ 36)
    exact restByte_clear _ _ _ _ _ (by omega), Nat.le_refl _, List.prefix_refl _, List.prefix_refl _, .mk⟩

/-- A core's scratchpad is forgotten (R34). -/
theorem Kept.forgetSpad {m : Nat} {r s : State} (h : Kept m r s) (p n : Nat)
    (hm : Sub 0xa0 m := by exact Sub.le (by assumption) (by decide)) :
    Kept m r { s with spad := NMap.clearRange s.spad (spadKey p 0) (2 ^ 23), liftedCores := s.liftedCores.ins p n } :=
  h.trans ⟨rfl, fun e => by
    simp only [Memory.wf, Bool.and_eq_true] at e ⊢
    refine ⟨e.1, NMap.wf_filter _ _ _ _ e.2 fun x _ hx => ?_⟩
    simp [spadKey] at hx
    exact restByte_ins _ _ _ _ _ (by omega), Nat.le_refl _, List.prefix_refl _, List.prefix_refl _, .mk⟩

/-- A pseudo-channel's cells are forgotten. -/
theorem Kept.forgetCells {m : Nat} {r s : State} (h : Kept m r s) (k pc n : Nat) (hp : pc < 64)
    (hm : Sub 0x140 m := by exact Sub.le (by assumption) (by decide)) :
    Kept m r { s with
      hbm := NMap.drop (fun a => a / 2 ^ 36 == k && pcOf (a % 2 ^ 36) == pc) s.hbm, liftedPcs := s.liftedPcs.ins (64 * k + pc) n } :=
  h.trans ⟨rfl, fun e => by
    simp only [Memory.wf, Bool.and_eq_true] at e ⊢
    refine ⟨NMap.wf_filter _ _ _ _ e.1 fun x _ hx => ?_, e.2⟩
    have hx : ¬ (x.1 / 2 ^ 36 = k ∧ pcOf (x.1 % 2 ^ 36) = pc) := by simpa [imp_iff_not_or] using hx
    have := pcOf_lt (x.1 % 2 ^ 36)
    exact restByte_ins _ _ _ _ _ (by omega), Nat.le_refl _, List.prefix_refl _, List.prefix_refl _, .mk⟩

/-- After a reset of everything the memories list nothing. -/
theorem Kept.cleared {m : Nat} {r s t : State} (p : t.pending = s.pending) (mh : t.hbm = []) (n : t.spad = []) (f : t.free = s.free)
    (o : t.out = s.out) (w : t.bh.owners = s.bh.owners) (sm : Same m s t) (h : Kept m r s) : Kept m r t :=
  h.trans ⟨p, fun _ => by simp [Memory.wf, mh, n, NMap.wf, NMap.rising], Nat.le_of_eq f.symm, by simp [o], by simp [w], sm⟩

end Sys2Proof.Machine
end

