-- ==== Sys2Proof/Laws/KeptOps.lean ====
section
/-! SUPPORT. What `Kept` says of the named operations, flags, memories, accesses and the fabric: one lemma per function, citing those of the functions it calls. -/

set_option linter.unreachableTactic false
set_option linter.unusedTactic false
set_option linter.tactic.unusedName false

namespace Sys2Proof.Machine

set_option Elab.async false

open Sys2Proof

theorem State.wr_kept {m : Nat} {r s : State} (h : Kept m r s) a b (hm : Sub 0x10 m := by exact Sub.le (by assumption) (by decide)) :
    Kept m r (s.wr a b) :=
  .upd h rfl

theorem State.setF_kept {m : Nat} {r s : State} (h : Kept m r s) a b c (hm : Sub 0x10 m := by exact Sub.le (by assumption) (by decide)) :
    Kept m r (s.setF a b c) :=
  State.wr_kept h ..

theorem State.setBit_kept {m : Nat} {r s : State} (h : Kept m r s) a b c (hm : Sub 0x10 m := by exact Sub.le (by assumption) (by decide)) :
    Kept m r (s.setBit a b c) :=
  State.setF_kept h ..

theorem State.bump_kept {m : Nat} {r s : State} (h : Kept m r s) a b (hm : Sub 0x10 m := by exact Sub.le (by assumption) (by decide)) :
    Kept m r (s.bump a b) := by
  unfold State.bump; split
  · exact h
  · exact State.wr_kept h ..

theorem State.setEng_kept {m : Nat} {r s : State} (h : Kept m r s) a b (hm : Sub 0x200 m := by exact Sub.le (by assumption) (by decide)) :
    Kept m r (s.setEng a b) :=
  .upd h rfl

theorem State.setCvu_kept {m : Nat} {r s : State} (h : Kept m r s) a b (hm : Sub 0x400 m := by exact Sub.le (by assumption) (by decide)) :
    Kept m r (s.setCvu a b) :=
  .upd h rfl

theorem State.setCox_kept {m : Nat} {r s : State} (h : Kept m r s) a b (hm : Sub 0x1000 m := by exact Sub.le (by assumption) (by decide)) :
    Kept m r (s.setCox a b) :=
  .upd h rfl

theorem State.setCore_kept {m : Nat} {r s : State} (h : Kept m r s) a b (hm : Sub 0x2000 m := by exact Sub.le (by assumption) (by decide)) :
    Kept m r (s.setCore a b) :=
  .upd h rfl

theorem State.setDie_kept {m : Nat} {r s : State} (h : Kept m r s) a b (hm : Sub 0x4000 m := by exact Sub.le (by assumption) (by decide)) :
    Kept m r (s.setDie a b) :=
  .upd h rfl

theorem State.setCtx_kept {m : Nat} {r s : State} (h : Kept m r s) a b (hm : Sub 0x10000 m := by exact Sub.le (by assumption) (by decide)) :
    Kept m r (s.setCtx a b) :=
  .upd h rfl

theorem State.clock_kept {m : Nat} {r s : State} (h : Kept m r s) a b (hm : Sub 0x4000 m := by exact Sub.le (by assumption) (by decide)) :
    Kept m r (s.clock a b) := by
  unfold State.clock
  repeat' first
    | with_reducible assumption
    | exact Sub.le (by assumption) (by decide)
    | (extract_lets +onlyGivenNames x; first
      | (have _t : State := by with_reducible apply x
         clear _t; (refine Kept.cut (s := x) ?_ fun _ => ?_) <;> [(unfold x; clear x); (clear_value x; rename' x => y)])
      | (have _t : State := by with_reducible apply x.2
         clear _t; (refine Kept.cut2 (p := x) ?_ fun _ => ?_) <;> [(unfold x; clear x); (clear_value x; rename' x => y)])
      | (clear_value x; rename' x => y)
      | rename' x => y)
    | with_reducible first
      | apply State.setDie_kept
    | split
    | (refine Kept.snd (by assumption) ?_)

theorem State.energy_kept {m : Nat} {r s : State} (h : Kept m r s) a b c (hm : Sub 0x4000 m := by exact Sub.le (by assumption) (by decide)) :
    Kept m r (s.energy a b c) :=
  State.setDie_kept h ..

theorem State.setZmap_kept {m : Nat} {r s : State} (h : Kept m r s) a b c (hm : Sub 0x8000 m := by exact Sub.le (by assumption) (by decide)) :
    Kept m r (s.setZmap a b c) :=
  State.setStk_kept h ..

theorem State.stackWrite_kept {m : Nat} {r s : State} (h : Kept m r s) a b c (hm : Sub 0x8040 m := by exact Sub.le (by assumption) (by decide)) :
    Kept m r (s.stackWrite a b c) := by
  unfold State.stackWrite
  repeat' first
    | with_reducible assumption
    | exact Sub.le (by assumption) (by decide)
    | (extract_lets +onlyGivenNames x; first
      | (have _t : State := by with_reducible apply x
         clear _t; (refine Kept.cut (s := x) ?_ fun _ => ?_) <;> [(unfold x; clear x); (clear_value x; rename' x => y)])
      | (have _t : State := by with_reducible apply x.2
         clear _t; (refine Kept.cut2 (p := x) ?_ fun _ => ?_) <;> [(unfold x; clear x); (clear_value x; rename' x => y)])
      | (clear_value x; rename' x => y)
      | rename' x => y)
    | with_reducible first
      | apply State.setHbmBytes_kept | apply State.setZmap_kept | apply State.setStk_kept
    | split
    | (refine Kept.snd (by assumption) ?_)

theorem State.dieWrite_kept {m : Nat} {r s : State} (h : Kept m r s) a b c (hm : Sub 0x8040 m := by exact Sub.le (by assumption) (by decide)) :
    Kept m r (s.dieWrite a b c) :=
  .foldl h fun _ _ h => State.stackWrite_kept h ..

theorem State.setLastStatus_kept {m : Nat} {r s : State} (h : Kept m r s) a b (hm : Sub 0x10 m := by exact Sub.le (by assumption) (by decide)) :
    Kept m r (s.setLastStatus a b) :=
  State.setF_kept h ..

theorem State.endHeats_kept {m : Nat} {r s : State} (h : Kept m r s) a (hm : Sub 0x4000 m := by exact Sub.le (by assumption) (by decide)) :
    Kept m r (s.endHeats a) :=
  .foldl h fun _ _ h => State.setDie_kept h ..

theorem State.palPut_kept {m : Nat} {r s : State} (h : Kept m r s) a b (hm : Sub 0x300010 m := by exact Sub.le (by assumption) (by decide)) :
    Kept m r (s.palPut a b) := by
  unfold State.palPut
  repeat' first
    | with_reducible assumption
    | exact Sub.le (by assumption) (by decide)
    | (extract_lets +onlyGivenNames x; first
      | (have _t : State := by with_reducible apply x
         clear _t; (refine Kept.cut (s := x) ?_ fun _ => ?_) <;> [(unfold x; clear x); (clear_value x; rename' x => y)])
      | (have _t : State := by with_reducible apply x.2
         clear _t; (refine Kept.cut2 (p := x) ?_ fun _ => ?_) <;> [(unfold x; clear x); (clear_value x; rename' x => y)])
      | (clear_value x; rename' x => y)
      | rename' x => y)
    | with_reducible first
      | apply State.bump_kept
    | split
    | (refine Kept.snd (by assumption) ?_)
    | (fail_if_no_progress with_reducible refine Kept.upd ?_ (by rfl))

theorem State.ringWrite_kept {m : Nat} {r s : State} (h : Kept m r s) a b (hm : Sub 0x20010 m := by exact Sub.le (by assumption) (by decide)) :
    Kept m r (s.ringWrite a b) := by
  unfold State.ringWrite
  repeat' first
    | with_reducible assumption
    | exact Sub.le (by assumption) (by decide)
    | (extract_lets +onlyGivenNames x; first
      | (have _t : State := by with_reducible apply x
         clear _t; (refine Kept.cut (s := x) ?_ fun _ => ?_) <;> [(unfold x; clear x); (clear_value x; rename' x => y)])
      | (have _t : State := by with_reducible apply x.2
         clear _t; (refine Kept.cut2 (p := x) ?_ fun _ => ?_) <;> [(unfold x; clear x); (clear_value x; rename' x => y)])
      | (clear_value x; rename' x => y)
      | rename' x => y)
    | with_reducible first
      | apply State.setF_kept | apply State.setBit_kept
    | split
    | (refine Kept.snd (by assumption) ?_)
    | (fail_if_no_progress with_reducible refine Kept.upd ?_ (by rfl))

theorem State.abandonSnap_kept {m : Nat} {r s : State} (h : Kept m r s) a (hm : Sub 0x402060010 m := by exact Sub.le (by assumption) (by decide)) :
    Kept m r (s.abandonSnap a) := by
  unfold State.abandonSnap
  repeat' first
    | with_reducible assumption
    | exact Sub.le (by assumption) (by decide)
    | (extract_lets +onlyGivenNames x; first
      | (have _t : State := by with_reducible apply x
         clear _t; (refine Kept.cut (s := x) ?_ fun _ => ?_) <;> [(unfold x; clear x); (clear_value x; rename' x => y)])
      | (have _t : State := by with_reducible apply x.2
         clear _t; (refine Kept.cut2 (p := x) ?_ fun _ => ?_) <;> [(unfold x; clear x); (clear_value x; rename' x => y)])
      | (clear_value x; rename' x => y)
      | rename' x => y)
    | with_reducible first
      | apply State.bump_kept | apply State.setF_kept | apply State.setLastStatus_kept | apply State.ringWrite_kept
    | split
    | (refine Kept.snd (by assumption) ?_)
    | (fail_if_no_progress with_reducible refine Kept.upd ?_ (by rfl))

theorem State.recover_kept {m : Nat} {r s : State} (h : Kept m r s) a b (hm : Sub 0x402064010 m := by exact Sub.le (by assumption) (by decide)) :
    Kept m r (s.recover a b) := by
  unfold State.recover
  repeat' first
    | with_reducible assumption
    | exact Sub.le (by assumption) (by decide)
    | (extract_lets +onlyGivenNames x; first
      | (have _t : State := by with_reducible apply x
         clear _t; (refine Kept.cut (s := x) ?_ fun _ => ?_) <;> [(unfold x; clear x); (clear_value x; rename' x => y)])
      | (have _t : State := by with_reducible apply x.2
         clear _t; (refine Kept.cut2 (p := x) ?_ fun _ => ?_) <;> [(unfold x; clear x); (clear_value x; rename' x => y)])
      | (clear_value x; rename' x => y)
      | rename' x => y)
    | with_reducible first
      | apply State.setF_kept | apply State.abandonSnap_kept | apply State.endHeats_kept
    | split
    | (refine Kept.snd (by assumption) ?_)

theorem State.recoverDie_kept {m : Nat} {r s : State} (h : Kept m r s) a b (hm : Sub 0x402064010 m := by exact Sub.le (by assumption) (by decide)) :
    Kept m r (s.recoverDie a b) := by
  unfold State.recoverDie; split
  · exact State.recover_kept h ..
  · exact h

theorem State.setTree_kept {m : Nat} {r s : State} (h : Kept m r s) a b (hm : Sub 0x800000 m := by exact Sub.le (by assumption) (by decide)) :
    Kept m r (s.setTree a b) :=
  .upd h rfl

theorem State.prunePort_kept {m : Nat} {r s : State} (h : Kept m r s) a (hm : Sub 0x800000 m := by exact Sub.le (by assumption) (by decide)) :
    Kept m r (s.prunePort a) :=
  .upd h rfl

theorem State.portDown_kept {m : Nat} {r s : State} (h : Kept m r s) a (hm : Sub 0x800010 m := by exact Sub.le (by assumption) (by decide)) :
    Kept m r (s.portDown a) := by
  unfold State.portDown
  repeat' first
    | with_reducible assumption
    | exact Sub.le (by assumption) (by decide)
    | (extract_lets +onlyGivenNames x; first
      | (have _t : State := by with_reducible apply x
         clear _t; (refine Kept.cut (s := x) ?_ fun _ => ?_) <;> [(unfold x; clear x); (clear_value x; rename' x => y)])
      | (have _t : State := by with_reducible apply x.2
         clear _t; (refine Kept.cut2 (p := x) ?_ fun _ => ?_) <;> [(unfold x; clear x); (clear_value x; rename' x => y)])
      | (clear_value x; rename' x => y)
      | rename' x => y)
    | with_reducible first
      | apply State.setF_kept | apply State.prunePort_kept

theorem State.copyCheck_kept {m : Nat} {r s : State} (h : Kept m r s) (hm : Sub 0x10000 m := by exact Sub.le (by assumption) (by decide)) :
    Kept m r (s.copyCheck) :=
  .upd h rfl

theorem State.killScribe_kept {m : Nat} {r s : State} (h : Kept m r s) a (hm : Sub 0x200000010 m := by exact Sub.le (by assumption) (by decide)) :
    Kept m r (s.killScribe a) :=
  State.setF_kept (.upd h rfl) ..

theorem State.recoverUse_kept {m : Nat} {r s : State} (h : Kept m r s) a b (hm : Sub 0x402064010 m := by exact Sub.le (by assumption) (by decide)) :
    Kept m r (s.recoverUse a b) := by
  unfold State.recoverUse; split
  · exact State.recoverDie_kept h ..
  · exact h

theorem State.fenceUnit0_kept {m : Nat} {r s : State} (h : Kept m r s) a b (hm : Sub 0x602b64010 m := by exact Sub.le (by assumption) (by decide)) :
    Kept m r (s.fenceUnit0 a b) := by
  unfold State.fenceUnit0
  repeat' first
    | with_reducible assumption
    | exact Sub.le (by assumption) (by decide)
    | intro _
    | (extract_lets +onlyGivenNames x; first
      | (have _t : State := by with_reducible apply x
         clear _t; (refine Kept.cut (s := x) ?_ fun _ => ?_) <;> [(unfold x; clear x); (clear_value x; rename' x => y)])
      | (have _t : State := by with_reducible apply x.2
         clear _t; (refine Kept.cut2 (p := x) ?_ fun _ => ?_) <;> [(unfold x; clear x); (clear_value x; rename' x => y)])
      | (clear_value x; rename' x => y)
      | rename' x => y)
    | with_reducible first
      | apply State.setF_kept | apply State.palPut_kept | apply State.setBit_kept | apply State.recoverUse_kept
      | apply State.killScribe_kept | apply State.portDown_kept | apply Kept.foldl | apply Kept.foldl2
    | split
    | (refine Kept.snd (by assumption) ?_)

theorem State.fenceUnit_kept {m : Nat} {r s : State} (h : Kept m r s) a b (hm : Sub 0x602b74010 m := by exact Sub.le (by assumption) (by decide)) :
    Kept m r (s.fenceUnit a b) :=
  State.copyCheck_kept (State.fenceUnit0_kept h ..) ..

theorem State.takeAction_kept {m : Nat} {r s : State} (h : Kept m r s) a b c (hm : Sub 0x602b74010 m := by exact Sub.le (by assumption) (by decide)) :
    Kept m r (s.takeAction a b c) := by
  unfold State.takeAction
  repeat' first
    | with_reducible assumption
    | exact Sub.le (by assumption) (by decide)
    | with_reducible first
      | apply State.fenceUnit_kept | apply State.recover_kept
    | split
    | (refine Kept.snd (by assumption) ?_)

theorem State.dropWindow_kept {m : Nat} {r s : State} (h : Kept m r s) a b c (hm : Sub 0x20000 m := by exact Sub.le (by assumption) (by decide)) :
    Kept m r (s.dropWindow a b c) :=
  .upd h rfl

theorem State.record_kept {m : Nat} {r s : State} (h : Kept m r s) a b c (hm : Sub 0x602b74010 m := by exact Sub.le (by assumption) (by decide)) :
    Kept m r (s.record a b c) := by
  unfold State.record
  repeat' first
    | with_reducible assumption
    | exact Sub.le (by assumption) (by decide)
    | (extract_lets +onlyGivenNames x; first
      | (have _t : State := by with_reducible apply x
         clear _t; (refine Kept.cut (s := x) ?_ fun _ => ?_) <;> [(unfold x; clear x); (clear_value x; rename' x => y)])
      | (have _t : State := by with_reducible apply x.2
         clear _t; (refine Kept.cut2 (p := x) ?_ fun _ => ?_) <;> [(unfold x; clear x); (clear_value x; rename' x => y)])
      | (clear_value x; rename' x => y)
      | rename' x => y)
    | with_reducible first
      | apply State.bump_kept | apply State.dropWindow_kept | apply State.ringWrite_kept | apply State.setBit_kept
      | apply State.takeAction_kept
    | split
    | (refine Kept.snd (by assumption) ?_)
    | (fail_if_no_progress with_reducible refine Kept.upd ?_ (by rfl))

theorem State.inject_kept {m : Nat} {r s : State} (h : Kept m r s) a b c d (hm : Sub 0x20010 m := by exact Sub.le (by assumption) (by decide)) :
    Kept m r (s.inject a b c d).2 := by
  unfold State.inject
  repeat' first
    | with_reducible assumption
    | exact Sub.le (by assumption) (by decide)
    | (extract_lets +onlyGivenNames x; first
      | (have _t : State := by with_reducible apply x
         clear _t; (refine Kept.cut (s := x) ?_ fun _ => ?_) <;> [(unfold x; clear x); (clear_value x; rename' x => y)])
      | (have _t : State := by with_reducible apply x.2
         clear _t; (refine Kept.cut2 (p := x) ?_ fun _ => ?_) <;> [(unfold x; clear x); (clear_value x; rename' x => y)])
      | (clear_value x; rename' x => y)
      | rename' x => y)
    | with_reducible first
      | apply State.setF_kept | apply State.bump_kept
    | split
    | (refine Kept.snd (by assumption) ?_)
    | (fail_if_no_progress with_reducible refine Kept.upd ?_ (by rfl))

theorem State.setMaintLast_kept {m : Nat} {r s : State} (h : Kept m r s) a (hm : Sub 0x10 m := by exact Sub.le (by assumption) (by decide)) :
    Kept m r (s.setMaintLast a) :=
  State.setF_kept h ..

theorem State.maintRequest_kept {m : Nat} {r s : State} (h : Kept m r s) a b (hm : Sub 0x602b74010 m := by exact Sub.le (by assumption) (by decide)) :
    Kept m r (s.maintRequest a b).2 := by
  unfold State.maintRequest
  repeat' first
    | with_reducible assumption
    | exact Sub.le (by assumption) (by decide)
    | (extract_lets +onlyGivenNames x; first
      | (have _t : State := by with_reducible apply x
         clear _t; (refine Kept.cut (s := x) ?_ fun _ => ?_) <;> [(unfold x; clear x); (clear_value x; rename' x => y)])
      | (have _t : State := by with_reducible apply x.2
         clear _t; (refine Kept.cut2 (p := x) ?_ fun _ => ?_) <;> [(unfold x; clear x); (clear_value x; rename' x => y)])
      | (clear_value x; rename' x => y)
      | rename' x => y)
    | with_reducible first
      | apply State.inject_kept | apply State.setF_kept | apply State.setMaintLast_kept | apply State.record_kept
      | apply State.bump_kept
    | split
    | (refine Kept.snd (by assumption) ?_)
    | (fail_if_no_progress with_reducible refine Kept.upd ?_ (by rfl))

theorem State.maintEnd_kept {m : Nat} {r s : State} (h : Kept m r s) a b (hm : Sub 0x2000010 m := by exact Sub.le (by assumption) (by decide)) :
    Kept m r (s.maintEnd a b) := by
  unfold State.maintEnd
  repeat' first
    | with_reducible assumption
    | exact Sub.le (by assumption) (by decide)
    | (extract_lets +onlyGivenNames x; first
      | (have _t : State := by with_reducible apply x
         clear _t; (refine Kept.cut (s := x) ?_ fun _ => ?_) <;> [(unfold x; clear x); (clear_value x; rename' x => y)])
      | (have _t : State := by with_reducible apply x.2
         clear _t; (refine Kept.cut2 (p := x) ?_ fun _ => ?_) <;> [(unfold x; clear x); (clear_value x; rename' x => y)])
      | (clear_value x; rename' x => y)
      | rename' x => y)
    | with_reducible first
      | apply State.setMaintLast_kept | apply State.bump_kept
    | split
    | (refine Kept.snd (by assumption) ?_)
    | (fail_if_no_progress with_reducible refine Kept.upd ?_ (by rfl))

theorem State.setFlagBit_kept {m : Nat} {r s : State} (h : Kept m r s) a b c (hm : Sub 0x10 m := by exact Sub.le (by assumption) (by decide)) :
    Kept m r (s.setFlagBit a b c) :=
  State.setBit_kept h ..

theorem State.misuse_kept {m : Nat} {r s : State} (h : Kept m r s) a b c d (hm : Sub 0x602b74010 m := by exact Sub.le (by assumption) (by decide)) :
    Kept m r (s.misuse a b c d) := by
  unfold State.misuse
  repeat' first
    | with_reducible assumption
    | exact Sub.le (by assumption) (by decide)
    | (extract_lets +onlyGivenNames x; first
      | (have _t : State := by with_reducible apply x
         clear _t; (refine Kept.cut (s := x) ?_ fun _ => ?_) <;> [(unfold x; clear x); (clear_value x; rename' x => y)])
      | (have _t : State := by with_reducible apply x.2
         clear _t; (refine Kept.cut2 (p := x) ?_ fun _ => ?_) <;> [(unfold x; clear x); (clear_value x; rename' x => y)])
      | (clear_value x; rename' x => y)
      | rename' x => y)
    | with_reducible first
      | apply State.bump_kept | apply State.setF_kept | apply State.wr_kept | apply State.record_kept
    | split
    | (refine Kept.snd (by assumption) ?_)

theorem State.noteLand_kept {m : Nat} {r s : State} (h : Kept m r s) a b c d e (hm : Sub 0x2000 m := by exact Sub.le (by assumption) (by decide)) :
    Kept m r (s.noteLand a b c d e) :=
  State.setCore_kept h ..

theorem State.flagRace_kept {m : Nat} {r s : State} (h : Kept m r s) a b (hm : Sub 0x10 m := by exact Sub.le (by assumption) (by decide)) :
    Kept m r (s.flagRace a b) :=
  State.bump_kept (State.setBit_kept h ..) ..

theorem State.landSet_kept {m : Nat} {r s : State} (h : Kept m r s) a b c d (hm : Sub 0x602b76010 m := by exact Sub.le (by assumption) (by decide)) :
    Kept m r (s.landSet a b c d) := by
  unfold State.landSet
  repeat' first
    | with_reducible assumption
    | exact Sub.le (by assumption) (by decide)
    | (extract_lets +onlyGivenNames x; first
      | (have _t : State := by with_reducible apply x
         clear _t; (refine Kept.cut (s := x) ?_ fun _ => ?_) <;> [(unfold x; clear x); (clear_value x; rename' x => y)])
      | (have _t : State := by with_reducible apply x.2
         clear _t; (refine Kept.cut2 (p := x) ?_ fun _ => ?_) <;> [(unfold x; clear x); (clear_value x; rename' x => y)])
      | (clear_value x; rename' x => y)
      | rename' x => y)
    | with_reducible first
      | apply State.misuse_kept | apply State.bump_kept | apply State.flagRace_kept | apply State.inject_kept
      | apply State.record_kept | apply State.noteLand_kept | apply State.setFlagBit_kept
    | split
    | (refine Kept.snd (by assumption) ?_)

theorem State.landClear_kept {m : Nat} {r s : State} (h : Kept m r s) a b c d e (hm : Sub 0x602b76010 m := by exact Sub.le (by assumption) (by decide)) :
    Kept m r (s.landClear a b c d e) := by
  unfold State.landClear
  repeat' first
    | with_reducible assumption
    | exact Sub.le (by assumption) (by decide)
    | (extract_lets +onlyGivenNames x; first
      | (have _t : State := by with_reducible apply x
         clear _t; (refine Kept.cut (s := x) ?_ fun _ => ?_) <;> [(unfold x; clear x); (clear_value x; rename' x => y)])
      | (have _t : State := by with_reducible apply x.2
         clear _t; (refine Kept.cut2 (p := x) ?_ fun _ => ?_) <;> [(unfold x; clear x); (clear_value x; rename' x => y)])
      | (clear_value x; rename' x => y)
      | rename' x => y)
    | with_reducible first
      | apply State.misuse_kept | apply State.bump_kept | apply State.flagRace_kept | apply State.setFlagBit_kept
      | apply State.noteLand_kept
    | split
    | (refine Kept.snd (by assumption) ?_)

theorem State.dropSignals_kept {m : Nat} {r s : State} (h : Kept m r s) a (hm : Sub 0x602b74010 m := by exact Sub.le (by assumption) (by decide)) :
    Kept m r (s.dropSignals a) :=
  .foldl (.upd h rfl) fun _ _ h => State.misuse_kept h ..

theorem State.waitRecord_kept {m : Nat} {r s : State} (h : Kept m r s) a b c d e f g (hm : Sub 0x10 m := by exact Sub.le (by assumption) (by decide)) :
    Kept m r (s.waitRecord a b c d e f g) := by
  unfold State.waitRecord
  repeat' first
    | with_reducible assumption
    | exact Sub.le (by assumption) (by decide)
    | (extract_lets +onlyGivenNames x; first
      | (have _t : State := by with_reducible apply x
         clear _t; (refine Kept.cut (s := x) ?_ fun _ => ?_) <;> [(unfold x; clear x); (clear_value x; rename' x => y)])
      | (have _t : State := by with_reducible apply x.2
         clear _t; (refine Kept.cut2 (p := x) ?_ fun _ => ?_) <;> [(unfold x; clear x); (clear_value x; rename' x => y)])
      | (clear_value x; rename' x => y)
      | rename' x => y)
    | with_reducible first
      | apply State.wr_kept
    | split
    | (refine Kept.snd (by assumption) ?_)

theorem State.releasePoisoned_kept {m : Nat} {r s : State} (h : Kept m r s) a (hm : Sub 0x4010 m := by exact Sub.le (by assumption) (by decide)) :
    Kept m r (s.releasePoisoned a) := by
  unfold State.releasePoisoned
  repeat' first
    | with_reducible assumption
    | exact Sub.le (by assumption) (by decide)
    | intro _
    | (extract_lets +onlyGivenNames x; first
      | (have _t : State := by with_reducible apply x
         clear _t; (refine Kept.cut (s := x) ?_ fun _ => ?_) <;> [(unfold x; clear x); (clear_value x; rename' x => y)])
      | (have _t : State := by with_reducible apply x.2
         clear _t; (refine Kept.cut2 (p := x) ?_ fun _ => ?_) <;> [(unfold x; clear x); (clear_value x; rename' x => y)])
      | (clear_value x; rename' x => y)
      | rename' x => y)
    | with_reducible first
      | apply State.setDie_kept | apply State.setF_kept | apply State.waitRecord_kept | apply Kept.foldl | apply Kept.foldl2
    | split
    | (refine Kept.snd (by assumption) ?_)

theorem State.poisonFlag_kept {m : Nat} {r s : State} (h : Kept m r s) a b (hm : Sub 0x602b74010 m := by exact Sub.le (by assumption) (by decide)) :
    Kept m r (s.poisonFlag a b) := by
  unfold State.poisonFlag
  repeat' first
    | with_reducible assumption
    | exact Sub.le (by assumption) (by decide)
    | (extract_lets +onlyGivenNames x; first
      | (have _t : State := by with_reducible apply x
         clear _t; (refine Kept.cut (s := x) ?_ fun _ => ?_) <;> [(unfold x; clear x); (clear_value x; rename' x => y)])
      | (have _t : State := by with_reducible apply x.2
         clear _t; (refine Kept.cut2 (p := x) ?_ fun _ => ?_) <;> [(unfold x; clear x); (clear_value x; rename' x => y)])
      | (clear_value x; rename' x => y)
      | rename' x => y)
    | with_reducible first
      | apply State.setFlagBit_kept | apply State.setBit_kept | apply State.bump_kept | apply State.dropSignals_kept

theorem State.poisonCore_kept {m : Nat} {r s : State} (h : Kept m r s) a (hm : Sub 0x602b74010 m := by exact Sub.le (by assumption) (by decide)) :
    Kept m r (s.poisonCore a) := by
  unfold State.poisonCore
  repeat' first
    | with_reducible assumption
    | exact Sub.le (by assumption) (by decide)
    | intro _
    | (extract_lets +onlyGivenNames x; first
      | (have _t : State := by with_reducible apply x
         clear _t; (refine Kept.cut (s := x) ?_ fun _ => ?_) <;> [(unfold x; clear x); (clear_value x; rename' x => y)])
      | (have _t : State := by with_reducible apply x.2
         clear _t; (refine Kept.cut2 (p := x) ?_ fun _ => ?_) <;> [(unfold x; clear x); (clear_value x; rename' x => y)])
      | (clear_value x; rename' x => y)
      | rename' x => y)
    | with_reducible first
      | apply State.wr_kept | apply State.bump_kept | apply State.dropSignals_kept | apply Kept.foldl | apply Kept.foldl2

theorem State.poisonHeat_kept {m : Nat} {r s : State} (h : Kept m r s) a b (hm : Sub 0x602b74010 m := by exact Sub.le (by assumption) (by decide)) :
    Kept m r (s.poisonHeat a b) := by
  unfold State.poisonHeat
  repeat' first
    | with_reducible assumption
    | exact Sub.le (by assumption) (by decide)
    | intro _
    | with_reducible first
      | apply State.releasePoisoned_kept | apply State.poisonFlag_kept | apply Kept.foldl | apply Kept.foldl2

theorem State.unpoison_kept {m : Nat} {r s : State} (h : Kept m r s) a b c (hm : Sub 0x10 m := by exact Sub.le (by assumption) (by decide)) :
    Kept m r (s.unpoison a b c) :=
  State.wr_kept (State.wr_kept h ..) ..

theorem State.ctxLoad_kept {m : Nat} {r s t : State} {a b} (h : Kept m r s) (e : s.ctxLoad a b = some t) (hm : Sub 0x10010 m := by exact Sub.le (by assumption) (by decide)) : Kept m r t := by
  unfold State.ctxLoad at e
  extract_lets l at e
  split at e
  · cases e; exact State.bump_kept (Kept.upd h rfl) ..
  split at e
  · cases e
  split at e
  · cases e; exact State.bump_kept (Kept.upd h rfl) ..
  split at e
  · cases e
  · cases e; exact State.bump_kept (State.bump_kept (Kept.upd h rfl) ..) ..

theorem State.checkSignals_kept {m : Nat} {r s : State} (h : Kept m r s) a (hm : Sub 0x10000 m := by exact Sub.le (by assumption) (by decide)) :
    Kept m r (s.checkSignals a) :=
  .upd h rfl

theorem State.countCtx_kept {m : Nat} {r s : State} (h : Kept m r s) a (hm : Sub 0x602b76010 m := by exact Sub.le (by assumption) (by decide)) :
    Kept m r (s.countCtx a) := by
  unfold State.countCtx
  repeat' first
    | with_reducible assumption
    | exact Sub.le (by assumption) (by decide)
    | (extract_lets +onlyGivenNames x; first
      | (have _t : State := by with_reducible apply x
         clear _t; (refine Kept.cut (s := x) ?_ fun _ => ?_) <;> [(unfold x; clear x); (clear_value x; rename' x => y)])
      | (have _t : State := by with_reducible apply x.2
         clear _t; (refine Kept.cut2 (p := x) ?_ fun _ => ?_) <;> [(unfold x; clear x); (clear_value x; rename' x => y)])
      | (clear_value x; rename' x => y)
      | rename' x => y)
    | with_reducible first
      | apply State.inject_kept | apply State.setCtx_kept | apply State.record_kept | apply State.landSet_kept
      | apply State.checkSignals_kept
    | split
    | (refine Kept.snd (by assumption) ?_)

theorem State.ctxSub_kept {m : Nat} {r s : State} (h : Kept m r s) a b (hm : Sub 0x602b74010 m := by exact Sub.le (by assumption) (by decide)) :
    Kept m r (s.ctxSub a b) := by
  unfold State.ctxSub
  repeat' first
    | with_reducible assumption
    | exact Sub.le (by assumption) (by decide)
    | (extract_lets +onlyGivenNames x; first
      | (have _t : State := by with_reducible apply x
         clear _t; (refine Kept.cut (s := x) ?_ fun _ => ?_) <;> [(unfold x; clear x); (clear_value x; rename' x => y)])
      | (have _t : State := by with_reducible apply x.2
         clear _t; (refine Kept.cut2 (p := x) ?_ fun _ => ?_) <;> [(unfold x; clear x); (clear_value x; rename' x => y)])
      | (clear_value x; rename' x => y)
      | rename' x => y)
    | with_reducible first
      | apply State.inject_kept | apply State.setCtx_kept | apply State.record_kept
    | split
    | (refine Kept.snd (by assumption) ?_)

theorem State.putSignal_kept {m : Nat} {r s : State} (h : Kept m r s) a b c d (hm : Sub 0x602b76010 m := by exact Sub.le (by assumption) (by decide)) :
    Kept m r (s.putSignal a b c d) := by
  unfold State.putSignal
  repeat' first
    | with_reducible assumption
    | exact Sub.le (by assumption) (by decide)
    | (extract_lets +onlyGivenNames x; first
      | (have _t : State := by with_reducible apply x
         clear _t; (refine Kept.cut (s := x) ?_ fun _ => ?_) <;> [(unfold x; clear x); (clear_value x; rename' x => y)])
      | (have _t : State := by with_reducible apply x.2
         clear _t; (refine Kept.cut2 (p := x) ?_ fun _ => ?_) <;> [(unfold x; clear x); (clear_value x; rename' x => y)])
      | (clear_value x; rename' x => y)
      | rename' x => y)
    | with_reducible first
      | apply State.landSet_kept | apply State.bump_kept | apply State.misuse_kept
    | split
    | (refine Kept.snd (by assumption) ?_)
    | (fail_if_no_progress with_reducible refine Kept.upd ?_ (by rfl))

theorem State.dropSignal_kept {m : Nat} {r s : State} (h : Kept m r s) a (hm : Sub 0x10000 m := by exact Sub.le (by assumption) (by decide)) :
    Kept m r (s.dropSignal a) :=
  .upd h rfl

theorem State.noteWritten_kept {m : Nat} {r s : State} (h : Kept m r s) a b c d (hm : Sub 0x40000 m := by exact Sub.le (by assumption) (by decide)) :
    Kept m r (s.noteWritten a b c d) :=
  .upd h rfl

theorem State.countTransfer_kept {m : Nat} {r s : State} (h : Kept m r s) a b c d (hm : Sub 0x4010 m := by exact Sub.le (by assumption) (by decide)) :
    Kept m r (s.countTransfer a b c d) :=
  State.energy_kept (State.bump_kept h ..) ..

theorem State.noteCe_kept {m : Nat} {r s : State} (h : Kept m r s) a b (hm : Sub 0x602b74010 m := by exact Sub.le (by assumption) (by decide)) :
    Kept m r (s.noteCe a b) := by
  unfold State.noteCe
  repeat' first
    | with_reducible assumption
    | exact Sub.le (by assumption) (by decide)
    | (extract_lets +onlyGivenNames x; first
      | (have _t : State := by with_reducible apply x
         clear _t; (refine Kept.cut (s := x) ?_ fun _ => ?_) <;> [(unfold x; clear x); (clear_value x; rename' x => y)])
      | (have _t : State := by with_reducible apply x.2
         clear _t; (refine Kept.cut2 (p := x) ?_ fun _ => ?_) <;> [(unfold x; clear x); (clear_value x; rename' x => y)])
      | (clear_value x; rename' x => y)
      | rename' x => y)
    | with_reducible first
      | apply State.maintRequest_kept
    | split
    | (refine Kept.snd (by assumption) ?_)
    | (fail_if_no_progress with_reducible refine Kept.upd ?_ (by rfl))

theorem State.eccRead_kept {m : Nat} {r s : State} (h : Kept m r s) a b c (hm : Sub 0x602b74010 m := by exact Sub.le (by assumption) (by decide)) :
    Kept m r (s.eccRead a b c).2 := by
  unfold State.eccRead
  repeat' first
    | with_reducible assumption
    | exact Sub.le (by assumption) (by decide)
    | intro _
    | (extract_lets +onlyGivenNames x; first
      | (have _t : State := by with_reducible apply x
         clear _t; (refine Kept.cut (s := x) ?_ fun _ => ?_) <;> [(unfold x; clear x); (clear_value x; rename' x => y)])
      | (have _t : State := by with_reducible apply x.2
         clear _t; (refine Kept.cut2 (p := x) ?_ fun _ => ?_) <;> [(unfold x; clear x); (clear_value x; rename' x => y)])
      | (clear_value x; rename' x => y)
      | rename' x => y)
    | with_reducible first
      | apply State.record_kept | apply State.noteCe_kept | apply Kept.foldl | apply Kept.foldl2
    | split
    | (refine Kept.snd (by assumption) ?_)

theorem State.eccInject_kept {m : Nat} {r s : State} (h : Kept m r s) a b c d (hm : Sub 0x28010 m := by exact Sub.le (by assumption) (by decide)) :
    Kept m r (s.eccInject a b c d) := by
  unfold State.eccInject
  repeat' first
    | with_reducible assumption
    | exact Sub.le (by assumption) (by decide)
    | (extract_lets +onlyGivenNames x; first
      | (have _t : State := by with_reducible apply x
         clear _t; (refine Kept.cut (s := x) ?_ fun _ => ?_) <;> [(unfold x; clear x); (clear_value x; rename' x => y)])
      | (have _t : State := by with_reducible apply x.2
         clear _t; (refine Kept.cut2 (p := x) ?_ fun _ => ?_) <;> [(unfold x; clear x); (clear_value x; rename' x => y)])
      | (clear_value x; rename' x => y)
      | rename' x => y)
    | with_reducible first
      | apply State.inject_kept | apply State.setStk_kept
    | split
    | (refine Kept.snd (by assumption) ?_)

theorem State.eccWrite_kept {m : Nat} {r s : State} (h : Kept m r s) a b c (hm : Sub 0x68050 m := by exact Sub.le (by assumption) (by decide)) :
    Kept m r (s.eccWrite a b c) := by
  unfold State.eccWrite
  repeat' first
    | with_reducible assumption
    | exact Sub.le (by assumption) (by decide)
    | (extract_lets +onlyGivenNames x; first
      | (have _t : State := by with_reducible apply x
         clear _t; (refine Kept.cut (s := x) ?_ fun _ => ?_) <;> [(unfold x; clear x); (clear_value x; rename' x => y)])
      | (have _t : State := by with_reducible apply x.2
         clear _t; (refine Kept.cut2 (p := x) ?_ fun _ => ?_) <;> [(unfold x; clear x); (clear_value x; rename' x => y)])
      | (clear_value x; rename' x => y)
      | rename' x => y)
    | with_reducible first
      | apply State.stackWrite_kept | apply State.eccInject_kept | apply State.noteWritten_kept

theorem State.hbmRead_kept {m : Nat} {r s : State} (h : Kept m r s) a b c (hm : Sub 0x602b74010 m := by exact Sub.le (by assumption) (by decide)) :
    Kept m r (s.hbmRead a b c).2 := by
  unfold State.hbmRead
  repeat' first
    | with_reducible assumption
    | exact Sub.le (by assumption) (by decide)
    | intro _
    | (extract_lets +onlyGivenNames x; first
      | (have _t : State := by with_reducible apply x
         clear _t; (refine Kept.cut (s := x) ?_ fun _ => ?_) <;> [(unfold x; clear x); (clear_value x; rename' x => y)])
      | (have _t : State := by with_reducible apply x.2
         clear _t; (refine Kept.cut2 (p := x) ?_ fun _ => ?_) <;> [(unfold x; clear x); (clear_value x; rename' x => y)])
      | (clear_value x; rename' x => y)
      | rename' x => y)
    | with_reducible first
      | apply State.eccRead_kept | apply State.countTransfer_kept | apply Kept.foldl | apply Kept.foldl2

theorem State.hbmWrite_kept {m : Nat} {r s : State} (h : Kept m r s) a b c (hm : Sub 0x6c050 m := by exact Sub.le (by assumption) (by decide)) :
    Kept m r (s.hbmWrite a b c) :=
  .foldl h fun _ _ h => State.eccWrite_kept (State.countTransfer_kept h ..) ..

theorem State.spadInject_kept {m : Nat} {r s : State} (h : Kept m r s) a b c (hm : Sub 0x602b74830 m := by exact Sub.le (by assumption) (by decide)) :
    Kept m r (s.spadInject a b c) := by
  unfold State.spadInject
  repeat' first
    | with_reducible assumption
    | exact Sub.le (by assumption) (by decide)
    | (extract_lets +onlyGivenNames x; first
      | (have _t : State := by with_reducible apply x
         clear _t; (refine Kept.cut (s := x) ?_ fun _ => ?_) <;> [(unfold x; clear x); (clear_value x; rename' x => y)])
      | (have _t : State := by with_reducible apply x.2
         clear _t; (refine Kept.cut2 (p := x) ?_ fun _ => ?_) <;> [(unfold x; clear x); (clear_value x; rename' x => y)])
      | (clear_value x; rename' x => y)
      | rename' x => y)
    | with_reducible first
      | apply State.inject_kept | apply State.record_kept | apply State.setSpadBytes_kept
    | split
    | (refine Kept.snd (by assumption) ?_)

theorem State.spadWrite_kept {m : Nat} {r s : State} (h : Kept m r s) a b c (hm : Sub 0x602b74830 m := by exact Sub.le (by assumption) (by decide)) :
    Kept m r (s.spadWrite a b c) :=
  State.noteWritten_kept (State.spadInject_kept (State.setSpadBytes_kept h ..) ..) ..

theorem State.setVt_kept {m : Nat} {r s : State} (h : Kept m r s) a b (hm : Sub 0x1000000 m := by exact Sub.le (by assumption) (by decide)) :
    Kept m r (s.setVt a b) :=
  .upd h rfl

theorem State.reject_kept {m : Nat} {r s : State} (h : Kept m r s) a b c d e f (hm : Sub 0x602b74010 m := by exact Sub.le (by assumption) (by decide)) :
    Kept m r (s.reject a b c d e f) := by
  unfold State.reject
  repeat' first
    | with_reducible assumption
    | exact Sub.le (by assumption) (by decide)
    | (extract_lets +onlyGivenNames x; first
      | (have _t : State := by with_reducible apply x
         clear _t; (refine Kept.cut (s := x) ?_ fun _ => ?_) <;> [(unfold x; clear x); (clear_value x; rename' x => y)])
      | (have _t : State := by with_reducible apply x.2
         clear _t; (refine Kept.cut2 (p := x) ?_ fun _ => ?_) <;> [(unfold x; clear x); (clear_value x; rename' x => y)])
      | (clear_value x; rename' x => y)
      | rename' x => y)
    | with_reducible first
      | apply State.setF_kept | apply State.bump_kept | apply State.record_kept
    | split
    | (refine Kept.snd (by assumption) ?_)

theorem State.accessStatus_kept {m : Nat} {r s : State} (h : Kept m r s) a b c d e f g (hm : Sub 0x602b74010 m := by exact Sub.le (by assumption) (by decide)) :
    Kept m r (s.accessStatus a b c d e f g).2 := by
  unfold State.accessStatus
  repeat' first
    | with_reducible assumption
    | exact Sub.le (by assumption) (by decide)
    | (extract_lets +onlyGivenNames x; first
      | (have _t : State := by with_reducible apply x
         clear _t; (refine Kept.cut (s := x) ?_ fun _ => ?_) <;> [(unfold x; clear x); (clear_value x; rename' x => y)])
      | (have _t : State := by with_reducible apply x.2
         clear _t; (refine Kept.cut2 (p := x) ?_ fun _ => ?_) <;> [(unfold x; clear x); (clear_value x; rename' x => y)])
      | (clear_value x; rename' x => y)
      | rename' x => y)
    | with_reducible first
      | apply State.inject_kept | apply State.reject_kept
    | split
    | (refine Kept.snd (by assumption) ?_)

theorem State.pick_kept {m : Nat} {r s : State} {α : Type} (h : Kept m r s) (a : List α) (hm : Sub 0x8 m := by exact Sub.le (by assumption) (by decide)) : Kept m r (s.pick a).2 := by
  unfold State.pick; split
  · exact h
  · exact h
  · exact State.tick_kept h

theorem State.innerCross_kept {m : Nat} {r s : State} (h : Kept m r s) a b (hm : Sub 0x602b74010 m := by exact Sub.le (by assumption) (by decide)) :
    Kept m r (s.innerCross a b).2 := by
  unfold State.innerCross
  repeat' first
    | with_reducible assumption
    | exact Sub.le (by assumption) (by decide)
    | intro _
    | (extract_lets +onlyGivenNames x; first
      | (have _t : State := by with_reducible apply x
         clear _t; (refine Kept.cut (s := x) ?_ fun _ => ?_) <;> [(unfold x; clear x); (clear_value x; rename' x => y)])
      | (have _t : State := by with_reducible apply x.2
         clear _t; (refine Kept.cut2 (p := x) ?_ fun _ => ?_) <;> [(unfold x; clear x); (clear_value x; rename' x => y)])
      | (clear_value x; rename' x => y)
      | rename' x => y)
    | with_reducible first
      | apply State.inject_kept | apply State.record_kept | apply Kept.foldl | apply Kept.foldl2
    | split
    | (refine Kept.snd (by assumption) ?_)

theorem State.reachable_kept {m : Nat} {r s : State} (h : Kept m r s) a b (hm : Sub 0x602b74010 m := by exact Sub.le (by assumption) (by decide)) :
    Kept m r (s.reachable a b).2 := by
  unfold State.reachable
  repeat' first
    | with_reducible assumption
    | exact Sub.le (by assumption) (by decide)
    | with_reducible first
      | apply State.innerCross_kept
    | split
    | (refine Kept.snd (by assumption) ?_)

theorem State.setPort_kept {m : Nat} {r s : State} (h : Kept m r s) a b (hm : Sub 0x800000 m := by exact Sub.le (by assumption) (by decide)) :
    Kept m r (s.setPort a b) :=
  .upd h rfl

theorem State.portFlits_kept {m : Nat} {r s : State} (h : Kept m r s) a (hm : Sub 0x4000 m := by exact Sub.le (by assumption) (by decide)) :
    Kept m r (s.portFlits a) :=
  State.energy_kept h ..

theorem State.leave_kept {m : Nat} {r s : State} (h : Kept m r s) a b (hm : Sub 0x804012 m := by exact Sub.le (by assumption) (by decide)) :
    Kept m r (s.leave a b) := by
  unfold State.leave
  repeat' first
    | with_reducible assumption
    | exact Sub.le (by assumption) (by decide)
    | (extract_lets +onlyGivenNames x; first
      | (have _t : State := by with_reducible apply x
         clear _t; (refine Kept.cut (s := x) ?_ fun _ => ?_) <;> [(unfold x; clear x); (clear_value x; rename' x => y)])
      | (have _t : State := by with_reducible apply x.2
         clear _t; (refine Kept.cut2 (p := x) ?_ fun _ => ?_) <;> [(unfold x; clear x); (clear_value x; rename' x => y)])
      | (clear_value x; rename' x => y)
      | rename' x => y)
    | with_reducible first
      | apply State.emit_kept | apply State.setPort_kept | apply State.portFlits_kept | apply State.bump_kept
    | split
    | (refine Kept.snd (by assumption) ?_)

theorem State.pump_kept {m : Nat} {r s : State} (h : Kept m r s) (hm : Sub 0x804012 m := by exact Sub.le (by assumption) (by decide)) :
    Kept m r (s.pump) := by
  unfold State.pump
  repeat' first
    | with_reducible assumption
    | exact Sub.le (by assumption) (by decide)
    | intro _
    | (extract_lets +onlyGivenNames x; first
      | (have _t : State := by with_reducible apply x
         clear _t; (refine Kept.cut (s := x) ?_ fun _ => ?_) <;> [(unfold x; clear x); (clear_value x; rename' x => y)])
      | (have _t : State := by with_reducible apply x.2
         clear _t; (refine Kept.cut2 (p := x) ?_ fun _ => ?_) <;> [(unfold x; clear x); (clear_value x; rename' x => y)])
      | (clear_value x; rename' x => y)
      | rename' x => y)
    | with_reducible first
      | apply State.leave_kept | apply Kept.foldl | apply Kept.foldl2
    | split
    | (refine Kept.snd (by assumption) ?_)
    | (fail_if_no_progress with_reducible refine Kept.upd ?_ (by rfl))

theorem State.offer_kept {m : Nat} {r s : State} (h : Kept m r s) a (hm : Sub 0x804012 m := by exact Sub.le (by assumption) (by decide)) :
    Kept m r (s.offer a) :=
  State.pump_kept (.upd h rfl) ..

theorem State.depart_kept {m : Nat} {r s : State} (h : Kept m r s) a b (hm : Sub 0x80401a m := by exact Sub.le (by assumption) (by decide)) : Kept m r (s.depart a b).2 := by
  unfold State.depart
  split
  · exact h
  extract_lets y
  have k : ∀ v, Kept m r (y v).2 := by
    intro v; unfold y; split
    · exact State.offer_kept (Kept.snd (by assumption) (State.pick_kept h _)) ..
    · exact Kept.snd (by assumption) (State.pick_kept h _)
  split
  · split
    · exact State.offer_kept h ..
    · exact k _
  split
  · exact State.offer_kept h ..
  · exact k _

theorem State.ctxNeed_kept {m : Nat} {r s t : State} {a} (h : Kept m r s) (e : s.ctxNeed a = some t) (hm : Sub 0x10010 m := by exact Sub.le (by assumption) (by decide)) : Kept m r t :=
  State.ctxLoad_kept h e

theorem State.ctxNeedD_kept {m : Nat} {r s : State} (h : Kept m r s) a (hm : Sub 0x10010 m := by exact Sub.le (by assumption) (by decide)) : Kept m r ((s.ctxNeed a).getD s) := by
  cases e : s.ctxNeed a with
  | none => exact h
  | some t => exact State.ctxNeed_kept h e

theorem State.setTx_kept {m : Nat} {r s : State} (h : Kept m r s) a (hm : Sub 0x800000 m := by exact Sub.le (by assumption) (by decide)) :
    Kept m r (s.setTx a) :=
  .upd h rfl

theorem State.dropTx_kept {m : Nat} {r s : State} (h : Kept m r s) a b (hm : Sub 0x800000 m := by exact Sub.le (by assumption) (by decide)) :
    Kept m r (s.dropTx a b) :=
  .upd h rfl

theorem State.reserveSeq_kept {m : Nat} {r s : State} (h : Kept m r s) a b c (hm : Sub 0x800000 m := by exact Sub.le (by assumption) (by decide)) :
    Kept m r (s.reserveSeq a b c).2 :=
  State.setTx_kept h ..

theorem State.setTxPkt_kept {m : Nat} {r s : State} (h : Kept m r s) a b c (hm : Sub 0x800000 m := by exact Sub.le (by assumption) (by decide)) :
    Kept m r (s.setTxPkt a b c) := by
  unfold State.setTxPkt; split
  · exact State.setTx_kept h ..
  · exact h

theorem State.dropTxPkt_kept {m : Nat} {r s : State} (h : Kept m r s) a b c (hm : Sub 0x800000 m := by exact Sub.le (by assumption) (by decide)) :
    Kept m r (s.dropTxPkt a b c) := by
  unfold State.dropTxPkt; split
  · exact State.setTx_kept h ..
  · exact h

theorem State.mcCopies_kept {m : Nat} {r s : State} (h : Kept m r s) a b c (hm : Sub 0x804012 m := by exact Sub.le (by assumption) (by decide)) :
    Kept m r (s.mcCopies a b c) :=
  .foldl h fun _ _ h => State.offer_kept h ..

theorem State.mcPruned_kept {m : Nat} {r s : State} (h : Kept m r s) a b (hm : Sub 0x800010 m := by exact Sub.le (by assumption) (by decide)) :
    Kept m r (s.mcPruned a b).2 := by
  unfold State.mcPruned
  repeat' first
    | with_reducible assumption
    | exact Sub.le (by assumption) (by decide)
    | (extract_lets +onlyGivenNames x; first
      | (have _t : State := by with_reducible apply x
         clear _t; (refine Kept.cut (s := x) ?_ fun _ => ?_) <;> [(unfold x; clear x); (clear_value x; rename' x => y)])
      | (have _t : State := by with_reducible apply x.2
         clear _t; (refine Kept.cut2 (p := x) ?_ fun _ => ?_) <;> [(unfold x; clear x); (clear_value x; rename' x => y)])
      | (clear_value x; rename' x => y)
      | rename' x => y)
    | with_reducible first
      | apply State.setTxPkt_kept | apply State.bump_kept
    | split
    | (refine Kept.snd (by assumption) ?_)

theorem State.launch_kept {m : Nat} {r s : State} (h : Kept m r s) a b c (hm : Sub 0x602b7401a m := by exact Sub.le (by assumption) (by decide)) :
    Kept m r (s.launch a b c).2 := by
  unfold State.launch
  repeat' first
    | with_reducible assumption
    | exact Sub.le (by assumption) (by decide)
    | (extract_lets +onlyGivenNames x; first
      | (have _t : State := by with_reducible apply x
         clear _t; (refine Kept.cut (s := x) ?_ fun _ => ?_) <;> [(unfold x; clear x); (clear_value x; rename' x => y)])
      | (have _t : State := by with_reducible apply x.2
         clear _t; (refine Kept.cut2 (p := x) ?_ fun _ => ?_) <;> [(unfold x; clear x); (clear_value x; rename' x => y)])
      | (clear_value x; rename' x => y)
      | rename' x => y)
    | with_reducible first
      | apply State.inject_kept | apply State.setTxPkt_kept | apply State.setF_kept | apply State.record_kept
      | apply State.bump_kept | apply State.setCtx_kept | apply State.mcPruned_kept | apply State.mcCopies_kept
      | apply State.depart_kept
    | split
    | (refine Kept.snd (by assumption) ?_)

theorem State.relaunch_kept {m : Nat} {r s : State} (h : Kept m r s) a b (hm : Sub 0x602b7401a m := by exact Sub.le (by assumption) (by decide)) :
    Kept m r (s.relaunch a b).2 := by
  unfold State.relaunch
  repeat' first
    | with_reducible assumption
    | exact Sub.le (by assumption) (by decide)
    | (extract_lets +onlyGivenNames x; first
      | (have _t : State := by with_reducible apply x
         clear _t; (refine Kept.cut (s := x) ?_ fun _ => ?_) <;> [(unfold x; clear x); (clear_value x; rename' x => y)])
      | (have _t : State := by with_reducible apply x.2
         clear _t; (refine Kept.cut2 (p := x) ?_ fun _ => ?_) <;> [(unfold x; clear x); (clear_value x; rename' x => y)])
      | (clear_value x; rename' x => y)
      | rename' x => y)
    | with_reducible first
      | apply State.bump_kept | apply State.setCtx_kept | apply State.setTxPkt_kept | apply State.launch_kept

theorem State.setRx_kept {m : Nat} {r s : State} (h : Kept m r s) a (hm : Sub 0x800000 m := by exact Sub.le (by assumption) (by decide)) :
    Kept m r (s.setRx a) :=
  .upd h rfl

theorem State.rxFind_kept {m : Nat} {r s : State} (h : Kept m r s) a (hm : Sub 0x800000 m := by exact Sub.le (by assumption) (by decide)) :
    Kept m r (s.rxFind a).2 := by
  unfold State.rxFind
  repeat' first
    | with_reducible assumption
    | exact Sub.le (by assumption) (by decide)
    | (extract_lets +onlyGivenNames x; first
      | (have _t : State := by with_reducible apply x
         clear _t; (refine Kept.cut (s := x) ?_ fun _ => ?_) <;> [(unfold x; clear x); (clear_value x; rename' x => y)])
      | (have _t : State := by with_reducible apply x.2
         clear _t; (refine Kept.cut2 (p := x) ?_ fun _ => ?_) <;> [(unfold x; clear x); (clear_value x; rename' x => y)])
      | (clear_value x; rename' x => y)
      | rename' x => y)
    | with_reducible first
      | apply State.setRx_kept
    | split
    | (refine Kept.snd (by assumption) ?_)

theorem State.rxDone_kept {m : Nat} {r s : State} (h : Kept m r s) a (hm : Sub 0x800000 m := by exact Sub.le (by assumption) (by decide)) :
    Kept m r (s.rxDone a) := by
  unfold State.rxDone; split
  · exact State.setRx_kept h ..
  · exact h

theorem State.respond_kept {m : Nat} {r s : State} (h : Kept m r s) a b c d e (hm : Sub 0x80401a m := by exact Sub.le (by assumption) (by decide)) :
    Kept m r (s.respond a b c d e) :=
  State.depart_kept (State.bump_kept (State.bump_kept h ..) ..) ..

theorem State.answer_kept {m : Nat} {r s : State} (h : Kept m r s) a b (hm : Sub 0x80401a m := by exact Sub.le (by assumption) (by decide)) :
    Kept m r (s.answer a b) := by
  unfold State.answer
  repeat' first
    | with_reducible assumption
    | exact Sub.le (by assumption) (by decide)
    | (extract_lets +onlyGivenNames x; first
      | (have _t : State := by with_reducible apply x
         clear _t; (refine Kept.cut (s := x) ?_ fun _ => ?_) <;> [(unfold x; clear x); (clear_value x; rename' x => y)])
      | (have _t : State := by with_reducible apply x.2
         clear _t; (refine Kept.cut2 (p := x) ?_ fun _ => ?_) <;> [(unfold x; clear x); (clear_value x; rename' x => y)])
      | (clear_value x; rename' x => y)
      | rename' x => y)
    | with_reducible first
      | apply State.respond_kept
    | split
    | (refine Kept.snd (by assumption) ?_)

end Sys2Proof.Machine
end

