-- ==== Sys2Proof/Laws/KeptAe.lean ====
section
/-! SUPPORT. What `Kept` says of operands, engines, the vector unit and the access engine: one lemma per function, citing those of the functions it calls. -/

set_option linter.unreachableTactic false
set_option linter.unusedTactic false
set_option linter.tactic.unusedName false

namespace Sys2Proof.Machine

set_option Elab.async false

open Sys2Proof

theorem State.violate_kept {m : Nat} {r s : State} (h : Kept m r s) a b c d e f (hm : Sub 0x602b74010 m := by exact Sub.le (by assumption) (by decide)) :
    Kept m r (s.violate a b c d e f) := by
  unfold State.violate
  repeat' first
    | with_reducible assumption
    | exact Sub.le (by assumption) (by decide)
    | (extract_lets +onlyGivenNames x; first
      | (have _t : State := by with_reducible apply x
         clear _t; (refine Kept.cut (s := x) ?_ fun _ => ?_) <;> [(unfold x; clear x); (clear_value x; rename' x => y)])
      | (have _t : State := by with_reducible apply x.2
         clear _t; (refine Kept.cut2 (p := x) ?_ fun _ => ?_) <;> [(unfold x; clear x); (clear_value x; rename' x => y)])
      | (clear_value x; rename' x => y)
      | rename' x => y)
    | with_reducible first
      | apply State.bump_kept | apply State.wr_kept | apply State.setF_kept | apply State.setDie_kept
      | apply State.record_kept
    | split
    | (refine Kept.snd (by assumption) ?_)

theorem State.checkInject_kept {m : Nat} {r s : State} (h : Kept m r s) a b c d (hm : Sub 0x602b74010 m := by exact Sub.le (by assumption) (by decide)) :
    Kept m r (s.checkInject a b c d) := by
  unfold State.checkInject
  repeat' first
    | with_reducible assumption
    | exact Sub.le (by assumption) (by decide)
    | with_reducible first
      | apply State.inject_kept | apply State.violate_kept
    | split
    | (refine Kept.snd (by assumption) ?_)

theorem State.noteWrite_kept {m : Nat} {r s : State} (h : Kept m r s) a b c d e (hm : Sub 0x602b76010 m := by exact Sub.le (by assumption) (by decide)) : Kept m r (s.noteWrite a b c d e) := by
  unfold State.noteWrite
  extract_lets x y z w
  split
  · exact State.setCore_kept h ..
  refine Kept.foldl (State.setCore_kept h ..) fun s u h => ?_
  split
  · exact State.violate_kept h ..
  · exact h

theorem State.noteRead_kept {m : Nat} {r s : State} (h : Kept m r s) a b c d e (hm : Sub 0x602b74010 m := by exact Sub.le (by assumption) (by decide)) :
    Kept m r (s.noteRead a b c d e) := by
  unfold State.noteRead
  repeat' first
    | with_reducible assumption
    | exact Sub.le (by assumption) (by decide)
    | intro _
    | (extract_lets +onlyGivenNames x; first
      | (have _t : State := by with_reducible apply x
         clear _t; (refine Kept.cut (s := x) ?_ fun _ => ?_) <;> [(unfold x; clear x); (clear_value x; rename' x => y)])
      | (have _t : State := by with_reducible apply x.2
         clear _t; (refine Kept.cut2 (p := x) ?_ fun _ => ?_) <;> [(unfold x; clear x); (clear_value x; rename' x => y)])
      | (clear_value x; rename' x => y)
      | rename' x => y)
    | with_reducible first
      | apply State.violate_kept | apply Kept.foldl | apply Kept.foldl2
    | split
    | (refine Kept.snd (by assumption) ?_)

theorem State.expireWritten_kept {m : Nat} {r s : State} (h : Kept m r s) a b c (hm : Sub 0x2000 m := by exact Sub.le (by assumption) (by decide)) :
    Kept m r (s.expireWritten a b c) :=
  State.setCore_kept h ..

theorem State.bankConflict_kept {m : Nat} {r s : State} (h : Kept m r s) a b c d e (hm : Sub 0x602b74010 m := by exact Sub.le (by assumption) (by decide)) :
    Kept m r (s.bankConflict a b c d e) :=
  State.violate_kept (State.bump_kept (State.setF_kept h ..) ..) ..

theorem State.landStatic_kept {m : Nat} {r s : State} (h : Kept m r s) a b (hm : Sub 0x602b76830 m := by exact Sub.le (by assumption) (by decide)) :
    Kept m r (s.landStatic a b) := by
  unfold State.landStatic
  repeat' first
    | with_reducible assumption
    | exact Sub.le (by assumption) (by decide)
    | intro _
    | (extract_lets +onlyGivenNames x; first
      | (have _t : State := by with_reducible apply x
         clear _t; (refine Kept.cut (s := x) ?_ fun _ => ?_) <;> [(unfold x; clear x); (clear_value x; rename' x => y)])
      | (have _t : State := by with_reducible apply x.2
         clear _t; (refine Kept.cut2 (p := x) ?_ fun _ => ?_) <;> [(unfold x; clear x); (clear_value x; rename' x => y)])
      | (clear_value x; rename' x => y)
      | rename' x => y)
    | with_reducible first
      | apply State.setAe_kept | apply State.energy_kept | apply State.setSpadByte_kept | apply State.noteWrite_kept
      | apply State.noteWritten_kept | apply State.spadInject_kept | apply State.bankConflict_kept | apply Kept.foldl
      | apply Kept.foldl2
    | split
    | (refine Kept.snd (by assumption) ?_)

theorem State.settle_kept {m : Nat} {r s : State} (h : Kept m r s) a b (hm : Sub 0x602b76830 m := by exact Sub.le (by assumption) (by decide)) :
    Kept m r (s.settle a b) := by
  unfold State.settle
  repeat' first
    | with_reducible assumption
    | exact Sub.le (by assumption) (by decide)
    | intro _
    | (extract_lets +onlyGivenNames x; first
      | (have _t : State := by with_reducible apply x
         clear _t; (refine Kept.cut (s := x) ?_ fun _ => ?_) <;> [(unfold x; clear x); (clear_value x; rename' x => y)])
      | (have _t : State := by with_reducible apply x.2
         clear _t; (refine Kept.cut2 (p := x) ?_ fun _ => ?_) <;> [(unfold x; clear x); (clear_value x; rename' x => y)])
      | (clear_value x; rename' x => y)
      | rename' x => y)
    | with_reducible first
      | apply State.setAe_kept | apply State.landStatic_kept | apply Kept.foldl | apply Kept.foldl2
    | split
    | (refine Kept.snd (by assumption) ?_)

theorem State.staticWrite_kept {m : Nat} {r s : State} (h : Kept m r s) a b (hm : Sub 0x800 m := by exact Sub.le (by assumption) (by decide)) :
    Kept m r (s.staticWrite a b) :=
  State.setAe_kept h ..

theorem State.staticRead_kept {m : Nat} {r s : State} (h : Kept m r s) a b c d (hm : Sub 0x602b76830 m := by exact Sub.le (by assumption) (by decide)) :
    Kept m r (s.staticRead a b c d).2 := by
  unfold State.staticRead
  repeat' first
    | with_reducible assumption
    | exact Sub.le (by assumption) (by decide)
    | intro _
    | (extract_lets +onlyGivenNames x; first
      | (have _t : State := by with_reducible apply x
         clear _t; (refine Kept.cut (s := x) ?_ fun _ => ?_) <;> [(unfold x; clear x); (clear_value x; rename' x => y)])
      | (have _t : State := by with_reducible apply x.2
         clear _t; (refine Kept.cut2 (p := x) ?_ fun _ => ?_) <;> [(unfold x; clear x); (clear_value x; rename' x => y)])
      | (clear_value x; rename' x => y)
      | rename' x => y)
    | with_reducible first
      | apply State.settle_kept | apply State.setAe_kept | apply State.energy_kept | apply State.checkInject_kept
      | apply State.noteRead_kept | apply State.bankConflict_kept | apply Kept.foldl | apply Kept.foldl2
    | split
    | (refine Kept.snd (by assumption) ?_)

theorem State.setTq_kept {m : Nat} {r s : State} (h : Kept m r s) a b c (hm : Sub 0x800 m := by exact Sub.le (by assumption) (by decide)) :
    Kept m r (s.setTq a b c) :=
  State.setAe_kept h ..

theorem State.firstRead_kept {m : Nat} {r s : State} (h : Kept m r s) a b c d (hm : Sub 0x10 m := by exact Sub.le (by assumption) (by decide)) :
    Kept m r (s.firstRead a b c d) := by
  unfold State.firstRead
  repeat' first
    | with_reducible assumption
    | exact Sub.le (by assumption) (by decide)
    | (extract_lets +onlyGivenNames x; first
      | (have _t : State := by with_reducible apply x
         clear _t; (refine Kept.cut (s := x) ?_ fun _ => ?_) <;> [(unfold x; clear x); (clear_value x; rename' x => y)])
      | (have _t : State := by with_reducible apply x.2
         clear _t; (refine Kept.cut2 (p := x) ?_ fun _ => ?_) <;> [(unfold x; clear x); (clear_value x; rename' x => y)])
      | (clear_value x; rename' x => y)
      | rename' x => y)
    | with_reducible first
      | apply State.bump_kept
    | split
    | (refine Kept.snd (by assumption) ?_)

theorem State.tqRead_kept {m : Nat} {r s : State} (h : Kept m r s) a b c d e f (hm : Sub 0x602b74810 m := by exact Sub.le (by assumption) (by decide)) :
    Kept m r (s.tqRead a b c d e f).2.2 := by
  unfold State.tqRead
  repeat' first
    | with_reducible assumption
    | exact Sub.le (by assumption) (by decide)
    | intro _
    | (extract_lets +onlyGivenNames x; first
      | (have _t : State := by with_reducible apply x
         clear _t; (refine Kept.cut (s := x) ?_ fun _ => ?_) <;> [(unfold x; clear x); (clear_value x; rename' x => y)])
      | (have _t : State := by with_reducible apply x.2
         clear _t; (refine Kept.cut2 (p := x) ?_ fun _ => ?_) <;> [(unfold x; clear x); (clear_value x; rename' x => y)])
      | (clear_value x; rename' x => y)
      | rename' x => y)
    | with_reducible first
      | apply State.firstRead_kept | apply State.violate_kept | apply State.setTq_kept | apply Kept.foldl | apply Kept.foldl2
    | split
    | (refine Kept.snd (by assumption) ?_)

theorem State.tqFill_kept {m : Nat} {r s : State} (h : Kept m r s) a b c d e (hm : Sub 0x602b74810 m := by exact Sub.le (by assumption) (by decide)) :
    Kept m r (s.tqFill a b c d e).2 := by
  unfold State.tqFill
  repeat' first
    | with_reducible assumption
    | exact Sub.le (by assumption) (by decide)
    | intro _
    | (extract_lets +onlyGivenNames x; first
      | (have _t : State := by with_reducible apply x
         clear _t; (refine Kept.cut (s := x) ?_ fun _ => ?_) <;> [(unfold x; clear x); (clear_value x; rename' x => y)])
      | (have _t : State := by with_reducible apply x.2
         clear _t; (refine Kept.cut2 (p := x) ?_ fun _ => ?_) <;> [(unfold x; clear x); (clear_value x; rename' x => y)])
      | (clear_value x; rename' x => y)
      | rename' x => y)
    | with_reducible first
      | apply State.setTq_kept | apply State.violate_kept | apply Kept.foldl | apply Kept.foldl2
    | split
    | (refine Kept.snd (by assumption) ?_)

theorem State.readRun_kept {m : Nat} {r s : State} (h : Kept m r s) a b c d e f g i j k (hm : Sub 0x602b76830 m := by exact Sub.le (by assumption) (by decide)) :
    Kept m r (s.readRun a b c d e f g i j k).2 :=
  State.staticRead_kept h ..

theorem State.readOperand_kept {m : Nat} {r s : State} (h : Kept m r s) a b c d e f g (hm : Sub 0x602b76830 m := by exact Sub.le (by assumption) (by decide)) :
    Kept m r (s.readOperand a b c d e f g).2 := by
  unfold State.readOperand
  repeat' first
    | with_reducible assumption
    | exact Sub.le (by assumption) (by decide)
    | (extract_lets +onlyGivenNames x; first
      | (have _t : State := by with_reducible apply x
         clear _t; (refine Kept.cut (s := x) ?_ fun _ => ?_) <;> [(unfold x; clear x); (clear_value x; rename' x => y)])
      | (have _t : State := by with_reducible apply x.2
         clear _t; (refine Kept.cut2 (p := x) ?_ fun _ => ?_) <;> [(unfold x; clear x); (clear_value x; rename' x => y)])
      | (have _t : State := by with_reducible apply x.2.2
         clear _t; (refine Kept.cut3 (p := x) ?_ fun _ => ?_) <;> [(unfold x; clear x); (clear_value x; rename' x => y)])
      | (clear_value x; rename' x => y)
      | rename' x => y)
    | with_reducible first
      | apply State.readRun_kept | apply State.tqRead_kept
    | split
    | (refine Kept.snd (by assumption) ?_)

theorem State.saturate_kept {m : Nat} {r s : State} (h : Kept m r s) a b c d (hm : Sub 0x602b74010 m := by exact Sub.le (by assumption) (by decide)) :
    Kept m r (s.saturate a b c d) :=
  State.record_kept (State.setF_kept h ..) ..

theorem State.landRow_kept {m : Nat} {r s : State} (h : Kept m r s) a b c (hm : Sub 0x602b74210 m := by exact Sub.le (by assumption) (by decide)) :
    Kept m r (s.landRow a b c) := by
  unfold State.landRow
  repeat' first
    | with_reducible assumption
    | exact Sub.le (by assumption) (by decide)
    | (extract_lets +onlyGivenNames x; first
      | (have _t : State := by with_reducible apply x
         clear _t; (refine Kept.cut (s := x) ?_ fun _ => ?_) <;> [(unfold x; clear x); (clear_value x; rename' x => y)])
      | (have _t : State := by with_reducible apply x.2
         clear _t; (refine Kept.cut2 (p := x) ?_ fun _ => ?_) <;> [(unfold x; clear x); (clear_value x; rename' x => y)])
      | (clear_value x; rename' x => y)
      | rename' x => y)
    | with_reducible first
      | apply State.setEng_kept | apply State.violate_kept | apply State.bump_kept | apply State.saturate_kept
    | split
    | (refine Kept.snd (by assumption) ?_)

theorem State.settleRows_kept {m : Nat} {r s : State} (h : Kept m r s) a b c (hm : Sub 0x602b74210 m := by exact Sub.le (by assumption) (by decide)) :
    Kept m r (s.settleRows a b c) := by
  unfold State.settleRows
  repeat' first
    | with_reducible assumption
    | exact Sub.le (by assumption) (by decide)
    | intro _
    | (extract_lets +onlyGivenNames x; first
      | (have _t : State := by with_reducible apply x
         clear _t; (refine Kept.cut (s := x) ?_ fun _ => ?_) <;> [(unfold x; clear x); (clear_value x; rename' x => y)])
      | (have _t : State := by with_reducible apply x.2
         clear _t; (refine Kept.cut2 (p := x) ?_ fun _ => ?_) <;> [(unfold x; clear x); (clear_value x; rename' x => y)])
      | (clear_value x; rename' x => y)
      | rename' x => y)
    | with_reducible first
      | apply State.setEng_kept | apply State.landRow_kept | apply Kept.foldl | apply Kept.foldl2
    | split
    | (refine Kept.snd (by assumption) ?_)

theorem execOpOuter_kept {m : Nat} {r s : State} (h : Kept m r s) a b c d (hm : Sub 0x4200 m := by exact Sub.le (by assumption) (by decide)) :
    KeptRes m r (execOpOuter a b c d s) := by
  unfold execOpOuter
  repeat' first
    | with_reducible assumption
    | exact Sub.le (by assumption) (by decide)
    | (extract_lets +onlyGivenNames x; first
      | (have _t : State := by with_reducible apply x
         clear _t; (first | refine KeptRes.cut (s := x) ?_ fun _ => ?_ | refine Kept.cut (s := x) ?_ fun _ => ?_) <;> [(unfold x; clear x); (clear_value x; rename' x => y)])
      | (have _t : State := by with_reducible apply x.2
         clear _t; (first | refine KeptRes.cut2 (p := x) ?_ fun _ => ?_ | refine Kept.cut2 (p := x) ?_ fun _ => ?_) <;> [(unfold x; clear x); (clear_value x; rename' x => y)])
      | (clear_value x; rename' x => y)
      | rename' x => y)
    | with_reducible first
      | exact KeptRes.refused _ | apply KeptRes.whenWf | apply State.clock_kept | apply State.setEng_kept
    | split
    | (refine Kept.snd (by assumption) ?_)

theorem State.slideRow_kept {m : Nat} {r s : State} (h : Kept m r s) a b c d e f (hm : Sub 0x602b76a30 m := by exact Sub.le (by assumption) (by decide)) :
    Kept m r (s.slideRow a b c d e f).2 := by
  unfold State.slideRow
  repeat' first
    | with_reducible assumption
    | exact Sub.le (by assumption) (by decide)
    | (extract_lets +onlyGivenNames x; first
      | (have _t : State := by with_reducible apply x
         clear _t; (refine Kept.cut (s := x) ?_ fun _ => ?_) <;> [(unfold x; clear x); (clear_value x; rename' x => y)])
      | (have _t : State := by with_reducible apply x.2
         clear _t; (refine Kept.cut2 (p := x) ?_ fun _ => ?_) <;> [(unfold x; clear x); (clear_value x; rename' x => y)])
      | (clear_value x; rename' x => y)
      | rename' x => y)
    | with_reducible first
      | apply State.readOperand_kept | apply State.setEng_kept | apply State.violate_kept
    | split
    | (refine Kept.snd (by assumption) ?_)

theorem State.doProduct_kept {m : Nat} {r s : State} (h : Kept m r s) a b c d (hm : Sub 0x602b76a30 m := by exact Sub.le (by assumption) (by decide)) : Kept m r (s.doProduct a b c d) := by
  unfold State.doProduct
  extract_lets -underBinder i k four n s0 s1 adv s2 t x z z1 y s3 zg gated eng act pr s4
  have h0 : Kept m r s0 := State.bump_kept h ..
  have h1 : Kept m r s1 := by
    unfold s1; split
    · exact State.bump_kept h0 ..
    · exact h0
  have ha : ∀ s, Kept m r s → Kept m r (adv s) := fun s h => State.setEng_kept h ..
  have hx : Kept m r x.2 := State.readOperand_kept h1 ..
  have h3 : Kept m r s3 := by
    unfold s3 y; split
    · exact State.slideRow_kept hx ..
    · exact State.readOperand_kept hx ..
  split
  · refine ha _ ?_
    unfold s2; split
    · exact State.energy_kept h1 ..
    · exact State.energy_kept (State.bump_kept h1 ..) ..
  split
  · exact ha _ (State.energy_kept (State.bump_kept h3 ..) ..)
  · exact ha _ (State.energy_kept (State.setEng_kept h3 ..) ..)

theorem execProductCycle_kept {m : Nat} {r s : State} (h : Kept m r s) a b c (hm : Sub 0x602b76a30 m := by exact Sub.le (by assumption) (by decide)) :
    KeptRes m r (execProductCycle a b c s) := by
  unfold execProductCycle; split
  · exact .refused _
  · exact .of (State.clock_kept (State.doProduct_kept h ..) ..)

theorem State.doLand_kept {m : Nat} {r s : State} (h : Kept m r s) a b c d (hm : Sub 0x602b74210 m := by exact Sub.le (by assumption) (by decide)) :
    Kept m r (s.doLand a b c d) := by
  unfold State.doLand
  repeat' first
    | with_reducible assumption
    | exact Sub.le (by assumption) (by decide)
    | (extract_lets +onlyGivenNames x; first
      | (have _t : State := by with_reducible apply x
         clear _t; (refine Kept.cut (s := x) ?_ fun _ => ?_) <;> [(unfold x; clear x); (clear_value x; rename' x => y)])
      | (have _t : State := by with_reducible apply x.2
         clear _t; (refine Kept.cut2 (p := x) ?_ fun _ => ?_) <;> [(unfold x; clear x); (clear_value x; rename' x => y)])
      | (clear_value x; rename' x => y)
      | rename' x => y)
    | with_reducible first
      | apply State.settleRows_kept | apply State.setEng_kept | apply State.bump_kept | apply State.saturate_kept
      | apply State.inject_kept | apply State.record_kept
    | split
    | (refine Kept.snd (by assumption) ?_)

theorem execProductCycleLand_kept {m : Nat} {r s : State} (h : Kept m r s) a b c (hm : Sub 0x602b74210 m := by exact Sub.le (by assumption) (by decide)) :
    KeptRes m r (execProductCycleLand a b c s) := by
  unfold execProductCycleLand; split
  · exact .refused _
  · exact .of (State.clock_kept (State.doLand_kept h ..) ..)

theorem execOpCatch_kept {m : Nat} {r s : State} (h : Kept m r s) a b c (hm : Sub 0x4210 m := by exact Sub.le (by assumption) (by decide)) :
    KeptRes m r (execOpCatch a b c s) :=
  KeptRes.when (State.clock_kept (State.bump_kept (State.setEng_kept h ..) ..) ..) ..

theorem State.doDrain_kept {m : Nat} {r s : State} (h : Kept m r s) a b c d e (hm : Sub 0x602b74a10 m := by exact Sub.le (by assumption) (by decide)) :
    Kept m r (s.doDrain a b c d e) := by
  unfold State.doDrain
  repeat' first
    | with_reducible assumption
    | exact Sub.le (by assumption) (by decide)
    | (extract_lets +onlyGivenNames x; first
      | (have _t : State := by with_reducible apply x
         clear _t; (refine Kept.cut (s := x) ?_ fun _ => ?_) <;> [(unfold x; clear x); (clear_value x; rename' x => y)])
      | (have _t : State := by with_reducible apply x.2
         clear _t; (refine Kept.cut2 (p := x) ?_ fun _ => ?_) <;> [(unfold x; clear x); (clear_value x; rename' x => y)])
      | (clear_value x; rename' x => y)
      | rename' x => y)
    | with_reducible first
      | apply State.tqFill_kept | apply State.clock_kept | apply State.setEng_kept
    | split
    | (refine Kept.snd (by assumption) ?_)

theorem execOpDrain_kept {m : Nat} {r s : State} (h : Kept m r s) a b c d (hm : Sub 0x602b74a10 m := by exact Sub.le (by assumption) (by decide)) :
    KeptRes m r (execOpDrain a b c d s) := by
  unfold execOpDrain
  repeat' first
    | with_reducible assumption
    | exact Sub.le (by assumption) (by decide)
    | (extract_lets +onlyGivenNames x; first
      | (have _t : State := by with_reducible apply x
         clear _t; (first | refine KeptRes.cut (s := x) ?_ fun _ => ?_ | refine Kept.cut (s := x) ?_ fun _ => ?_) <;> [(unfold x; clear x); (clear_value x; rename' x => y)])
      | (have _t : State := by with_reducible apply x.2
         clear _t; (first | refine KeptRes.cut2 (p := x) ?_ fun _ => ?_ | refine Kept.cut2 (p := x) ?_ fun _ => ?_) <;> [(unfold x; clear x); (clear_value x; rename' x => y)])
      | (clear_value x; rename' x => y)
      | rename' x => y)
    | with_reducible first
      | exact KeptRes.refused _ | apply KeptRes.whenWf | apply State.doDrain_kept
    | split
    | (refine Kept.snd (by assumption) ?_)

theorem State.readRow_kept {m : Nat} {r s : State} (h : Kept m r s) a b c d e f g i (hm : Sub 0x602b74210 m := by exact Sub.le (by assumption) (by decide)) :
    Kept m r (s.readRow a b c d e f g i).2 := by
  unfold State.readRow
  repeat' first
    | with_reducible assumption
    | exact Sub.le (by assumption) (by decide)
    | (extract_lets +onlyGivenNames x; first
      | (have _t : State := by with_reducible apply x
         clear _t; (refine Kept.cut (s := x) ?_ fun _ => ?_) <;> [(unfold x; clear x); (clear_value x; rename' x => y)])
      | (have _t : State := by with_reducible apply x.2
         clear _t; (refine Kept.cut2 (p := x) ?_ fun _ => ?_) <;> [(unfold x; clear x); (clear_value x; rename' x => y)])
      | (clear_value x; rename' x => y)
      | rename' x => y)
    | with_reducible first
      | apply State.settleRows_kept | apply State.setEng_kept | apply State.violate_kept
    | split
    | (refine Kept.snd (by assumption) ?_)

theorem State.doDrainRow_kept {m : Nat} {r s : State} (h : Kept m r s) a b c d (hm : Sub 0x602b74a10 m := by exact Sub.le (by assumption) (by decide)) :
    Kept m r (s.doDrainRow a b c d) := by
  unfold State.doDrainRow
  repeat' first
    | with_reducible assumption
    | exact Sub.le (by assumption) (by decide)
    | (extract_lets +onlyGivenNames x; first
      | (have _t : State := by with_reducible apply x
         clear _t; (refine Kept.cut (s := x) ?_ fun _ => ?_) <;> [(unfold x; clear x); (clear_value x; rename' x => y)])
      | (have _t : State := by with_reducible apply x.2
         clear _t; (refine Kept.cut2 (p := x) ?_ fun _ => ?_) <;> [(unfold x; clear x); (clear_value x; rename' x => y)])
      | (clear_value x; rename' x => y)
      | rename' x => y)
    | with_reducible first
      | apply State.readRow_kept | apply State.staticWrite_kept | apply State.setEng_kept | apply State.bump_kept
      | apply State.energy_kept | apply State.setF_kept | apply State.clock_kept
    | split
    | (refine Kept.snd (by assumption) ?_)

theorem execDrainRow_kept {m : Nat} {r s : State} (h : Kept m r s) a b c (hm : Sub 0x602b74a10 m := by exact Sub.le (by assumption) (by decide)) :
    KeptRes m r (execDrainRow a b c s) := by
  unfold execDrainRow; split
  · exact .refused _
  · exact KeptRes.when (State.doDrainRow_kept h ..) ..

theorem execDrainTileComplete_kept {m : Nat} {r s : State} (h : Kept m r s) a b c (hm : Sub 0x602b76a30 m := by exact Sub.le (by assumption) (by decide)) :
    KeptRes m r (execDrainTileComplete a b c s) := by
  unfold execDrainTileComplete
  repeat' first
    | with_reducible assumption
    | exact Sub.le (by assumption) (by decide)
    | (extract_lets +onlyGivenNames x; first
      | (have _t : State := by with_reducible apply x
         clear _t; (first | refine KeptRes.cut (s := x) ?_ fun _ => ?_ | refine Kept.cut (s := x) ?_ fun _ => ?_) <;> [(unfold x; clear x); (clear_value x; rename' x => y)])
      | (have _t : State := by with_reducible apply x.2
         clear _t; (first | refine KeptRes.cut2 (p := x) ?_ fun _ => ?_ | refine Kept.cut2 (p := x) ?_ fun _ => ?_) <;> [(unfold x; clear x); (clear_value x; rename' x => y)])
      | (clear_value x; rename' x => y)
      | rename' x => y)
    | with_reducible first
      | exact KeptRes.refused _ | apply KeptRes.of | apply State.settle_kept | apply State.setEng_kept
      | apply State.landSet_kept | apply State.clock_kept
    | split
    | (refine Kept.snd (by assumption) ?_)

theorem execOpLoad_kept {m : Nat} {r s : State} (h : Kept m r s) a b c d (hm : Sub 0x4200 m := by exact Sub.le (by assumption) (by decide)) :
    KeptRes m r (execOpLoad a b c d s) := by
  unfold execOpLoad
  repeat' first
    | with_reducible assumption
    | exact Sub.le (by assumption) (by decide)
    | (extract_lets +onlyGivenNames x; first
      | (have _t : State := by with_reducible apply x
         clear _t; (first | refine KeptRes.cut (s := x) ?_ fun _ => ?_ | refine Kept.cut (s := x) ?_ fun _ => ?_) <;> [(unfold x; clear x); (clear_value x; rename' x => y)])
      | (have _t : State := by with_reducible apply x.2
         clear _t; (first | refine KeptRes.cut2 (p := x) ?_ fun _ => ?_ | refine Kept.cut2 (p := x) ?_ fun _ => ?_) <;> [(unfold x; clear x); (clear_value x; rename' x => y)])
      | (clear_value x; rename' x => y)
      | rename' x => y)
    | with_reducible first
      | exact KeptRes.refused _ | apply KeptRes.whenWf | apply State.clock_kept | apply State.setEng_kept
    | split
    | (refine Kept.snd (by assumption) ?_)

theorem State.doLoadRow_kept {m : Nat} {r s : State} (h : Kept m r s) a b c d (hm : Sub 0x602b76a30 m := by exact Sub.le (by assumption) (by decide)) :
    Kept m r (s.doLoadRow a b c d) := by
  unfold State.doLoadRow
  repeat' first
    | with_reducible assumption
    | exact Sub.le (by assumption) (by decide)
    | (extract_lets +onlyGivenNames x; first
      | (have _t : State := by with_reducible apply x
         clear _t; (refine Kept.cut (s := x) ?_ fun _ => ?_) <;> [(unfold x; clear x); (clear_value x; rename' x => y)])
      | (have _t : State := by with_reducible apply x.2
         clear _t; (refine Kept.cut2 (p := x) ?_ fun _ => ?_) <;> [(unfold x; clear x); (clear_value x; rename' x => y)])
      | (clear_value x; rename' x => y)
      | rename' x => y)
    | with_reducible first
      | apply State.readOperand_kept | apply State.bump_kept | apply State.setEng_kept | apply State.clock_kept
      | apply State.energy_kept
    | split
    | (refine Kept.snd (by assumption) ?_)

theorem execLoadRow_kept {m : Nat} {r s : State} (h : Kept m r s) a b c (hm : Sub 0x602b76a30 m := by exact Sub.le (by assumption) (by decide)) :
    KeptRes m r (execLoadRow a b c s) := by
  unfold execLoadRow; split
  · exact .refused _
  · exact KeptRes.when (State.doLoadRow_kept h ..) ..

theorem State.rowArg_kept {m : Nat} {r s : State} (h : Kept m r s) a b c d (hm : Sub 0x602b76830 m := by exact Sub.le (by assumption) (by decide)) :
    Kept m r (s.rowArg a b c d).2 := by
  unfold State.rowArg
  repeat' first
    | with_reducible assumption
    | exact Sub.le (by assumption) (by decide)
    | (extract_lets +onlyGivenNames x; first
      | (have _t : State := by with_reducible apply x
         clear _t; (refine Kept.cut (s := x) ?_ fun _ => ?_) <;> [(unfold x; clear x); (clear_value x; rename' x => y)])
      | (have _t : State := by with_reducible apply x.2
         clear _t; (refine Kept.cut2 (p := x) ?_ fun _ => ?_) <;> [(unfold x; clear x); (clear_value x; rename' x => y)])
      | (clear_value x; rename' x => y)
      | rename' x => y)
    | with_reducible first
      | apply State.readOperand_kept
    | split
    | (refine Kept.snd (by assumption) ?_)

theorem State.doRow_kept {m : Nat} {r s : State} (h : Kept m r s) a b c d (hm : Sub 0x602b76a30 m := by exact Sub.le (by assumption) (by decide)) :
    Kept m r (s.doRow a b c d) := by
  unfold State.doRow
  repeat' first
    | with_reducible assumption
    | exact Sub.le (by assumption) (by decide)
    | (extract_lets +onlyGivenNames x; first
      | (have _t : State := by with_reducible apply x
         clear _t; (refine Kept.cut (s := x) ?_ fun _ => ?_) <;> [(unfold x; clear x); (clear_value x; rename' x => y)])
      | (have _t : State := by with_reducible apply x.2
         clear _t; (refine Kept.cut2 (p := x) ?_ fun _ => ?_) <;> [(unfold x; clear x); (clear_value x; rename' x => y)])
      | (clear_value x; rename' x => y)
      | rename' x => y)
    | with_reducible first
      | apply State.rowArg_kept | apply State.clock_kept | apply State.setEng_kept

theorem execOpRow_kept {m : Nat} {r s : State} (h : Kept m r s) a b c d (hm : Sub 0x602b76a30 m := by exact Sub.le (by assumption) (by decide)) :
    KeptRes m r (execOpRow a b c d s) :=
  KeptRes.whenWf (State.doRow_kept h ..) ..

theorem State.doRowRow_kept {m : Nat} {r s : State} (h : Kept m r s) a b c d (hm : Sub 0x602b74210 m := by exact Sub.le (by assumption) (by decide)) :
    Kept m r (s.doRowRow a b c d) := by
  unfold State.doRowRow
  repeat' first
    | with_reducible assumption
    | exact Sub.le (by assumption) (by decide)
    | (extract_lets +onlyGivenNames x; first
      | (have _t : State := by with_reducible apply x
         clear _t; (refine Kept.cut (s := x) ?_ fun _ => ?_) <;> [(unfold x; clear x); (clear_value x; rename' x => y)])
      | (have _t : State := by with_reducible apply x.2
         clear _t; (refine Kept.cut2 (p := x) ?_ fun _ => ?_) <;> [(unfold x; clear x); (clear_value x; rename' x => y)])
      | (clear_value x; rename' x => y)
      | rename' x => y)
    | with_reducible first
      | apply State.readRow_kept | apply State.bump_kept | apply State.setEng_kept | apply State.clock_kept
      | apply State.energy_kept
    | split
    | (refine Kept.snd (by assumption) ?_)

theorem execRowOpRow_kept {m : Nat} {r s : State} (h : Kept m r s) a b c (hm : Sub 0x602b74210 m := by exact Sub.le (by assumption) (by decide)) :
    KeptRes m r (execRowOpRow a b c s) := by
  unfold execRowOpRow; split
  · exact .refused _
  · exact KeptRes.when (State.doRowRow_kept h ..) ..

theorem State.doChain_kept {m : Nat} {r s : State} (h : Kept m r s) a b c d e f (hm : Sub 0x4200 m := by exact Sub.le (by assumption) (by decide)) :
    Kept m r (s.doChain a b c d e f) :=
  State.clock_kept (State.setEng_kept h ..) ..

theorem execOpChain_kept {m : Nat} {r s : State} (h : Kept m r s) a b c d (hm : Sub 0x4200 m := by exact Sub.le (by assumption) (by decide)) :
    KeptRes m r (execOpChain a b c d s) := by
  unfold execOpChain
  repeat' first
    | with_reducible assumption
    | exact Sub.le (by assumption) (by decide)
    | (extract_lets +onlyGivenNames x; first
      | (have _t : State := by with_reducible apply x
         clear _t; (first | refine KeptRes.cut (s := x) ?_ fun _ => ?_ | refine Kept.cut (s := x) ?_ fun _ => ?_) <;> [(unfold x; clear x); (clear_value x; rename' x => y)])
      | (have _t : State := by with_reducible apply x.2
         clear _t; (first | refine KeptRes.cut2 (p := x) ?_ fun _ => ?_ | refine Kept.cut2 (p := x) ?_ fun _ => ?_) <;> [(unfold x; clear x); (clear_value x; rename' x => y)])
      | (clear_value x; rename' x => y)
      | rename' x => y)
    | with_reducible first
      | exact KeptRes.refused _ | apply KeptRes.whenWf | apply State.doChain_kept
    | split
    | (refine Kept.snd (by assumption) ?_)

theorem State.cvuIssue_kept {m : Nat} {r s : State} (h : Kept m r s) a b c (hm : Sub 0x410 m := by exact Sub.le (by assumption) (by decide)) :
    Kept m r (s.cvuIssue a b c) :=
  State.bump_kept (State.setCvu_kept h ..) ..

theorem execVecArith_kept {m : Nat} {r s : State} (h : Kept m r s) a b c d e f g (hm : Sub 0x4410 m := by exact Sub.le (by assumption) (by decide)) :
    KeptRes m r (execVecArith a b c d e f g s) := by
  unfold execVecArith
  repeat' first
    | with_reducible assumption
    | exact Sub.le (by assumption) (by decide)
    | (extract_lets +onlyGivenNames x; first
      | (have _t : State := by with_reducible apply x
         clear _t; (first | refine KeptRes.cut (s := x) ?_ fun _ => ?_ | refine Kept.cut (s := x) ?_ fun _ => ?_) <;> [(unfold x; clear x); (clear_value x; rename' x => y)])
      | (have _t : State := by with_reducible apply x.2
         clear _t; (first | refine KeptRes.cut2 (p := x) ?_ fun _ => ?_ | refine Kept.cut2 (p := x) ?_ fun _ => ?_) <;> [(unfold x; clear x); (clear_value x; rename' x => y)])
      | (clear_value x; rename' x => y)
      | rename' x => y)
    | with_reducible first
      | apply KeptRes.of | apply State.cvuIssue_kept | apply State.bump_kept | apply State.clock_kept
      | apply State.energy_kept

theorem execVecCvt_kept {m : Nat} {r s : State} (h : Kept m r s) a b c d e f (hm : Sub 0x4410 m := by exact Sub.le (by assumption) (by decide)) :
    KeptRes m r (execVecCvt a b c d e f s) := by
  unfold execVecCvt
  repeat' first
    | with_reducible assumption
    | exact Sub.le (by assumption) (by decide)
    | intro _
    | (extract_lets +onlyGivenNames x; first
      | (have _t : State := by with_reducible apply x
         clear _t; (first | refine KeptRes.cut (s := x) ?_ fun _ => ?_ | refine Kept.cut (s := x) ?_ fun _ => ?_) <;> [(unfold x; clear x); (clear_value x; rename' x => y)])
      | (have _t : State := by with_reducible apply x.2
         clear _t; (first | refine KeptRes.cut2 (p := x) ?_ fun _ => ?_ | refine Kept.cut2 (p := x) ?_ fun _ => ?_) <;> [(unfold x; clear x); (clear_value x; rename' x => y)])
      | (clear_value x; rename' x => y)
      | rename' x => y)
    | with_reducible first
      | apply KeptRes.whenWf | apply State.cvuIssue_kept | apply State.bump_kept | apply State.clock_kept
      | apply State.energy_kept | apply Kept.foldl | apply Kept.foldl2

theorem execVecTranscendental_kept {m : Nat} {r s : State} (h : Kept m r s) a b c d e (hm : Sub 0x4410 m := by exact Sub.le (by assumption) (by decide)) :
    KeptRes m r (execVecTranscendental a b c d e s) := by
  unfold execVecTranscendental
  repeat' first
    | with_reducible assumption
    | exact Sub.le (by assumption) (by decide)
    | (extract_lets +onlyGivenNames x; first
      | (have _t : State := by with_reducible apply x
         clear _t; (first | refine KeptRes.cut (s := x) ?_ fun _ => ?_ | refine Kept.cut (s := x) ?_ fun _ => ?_) <;> [(unfold x; clear x); (clear_value x; rename' x => y)])
      | (have _t : State := by with_reducible apply x.2
         clear _t; (first | refine KeptRes.cut2 (p := x) ?_ fun _ => ?_ | refine Kept.cut2 (p := x) ?_ fun _ => ?_) <;> [(unfold x; clear x); (clear_value x; rename' x => y)])
      | (clear_value x; rename' x => y)
      | rename' x => y)
    | with_reducible first
      | apply KeptRes.of | apply State.cvuIssue_kept | apply State.bump_kept | apply State.clock_kept
      | apply State.energy_kept

theorem execVecReduce_kept {m : Nat} {r s : State} (h : Kept m r s) a b c d e f (hm : Sub 0x4410 m := by exact Sub.le (by assumption) (by decide)) :
    KeptRes m r (execVecReduce a b c d e f s) :=
  .of (State.clock_kept (State.cvuIssue_kept h ..) ..)

theorem State.doVecLd_kept {m : Nat} {r s : State} (h : Kept m r s) a b c d (hm : Sub 0x602b76c38 m := by exact Sub.le (by assumption) (by decide)) :
    Kept m r (s.doVecLd a b c d) := by
  unfold State.doVecLd
  repeat' first
    | with_reducible assumption
    | exact Sub.le (by assumption) (by decide)
    | (extract_lets +onlyGivenNames x; first
      | (have _t : State := by with_reducible apply x
         clear _t; (refine Kept.cut (s := x) ?_ fun _ => ?_) <;> [(unfold x; clear x); (clear_value x; rename' x => y)])
      | (have _t : State := by with_reducible apply x.2
         clear _t; (refine Kept.cut2 (p := x) ?_ fun _ => ?_) <;> [(unfold x; clear x); (clear_value x; rename' x => y)])
      | (clear_value x; rename' x => y)
      | rename' x => y)
    | with_reducible first
      | apply State.staticRead_kept | apply State.clock_kept | apply State.cvuIssue_kept
    | split
    | (refine Kept.snd (by assumption) ?_)
    | (fail_if_no_progress with_reducible refine Kept.upd ?_ (by rfl))
    | (with_reducible refine Kept.updFree ?_ (by exact Nat.le_add_right ..) (by rfl))

theorem execVecLd_kept {m : Nat} {r s : State} (h : Kept m r s) a b c d (hm : Sub 0x602b76c38 m := by exact Sub.le (by assumption) (by decide)) :
    KeptRes m r (execVecLd a b c d s) := by
  unfold execVecLd; split
  · exact .refused _
  · exact KeptRes.whenWf (State.doVecLd_kept h ..) ..

theorem State.doVecSt_kept {m : Nat} {r s : State} (h : Kept m r s) a b c d (hm : Sub 0x4800 m := by exact Sub.le (by assumption) (by decide)) :
    Kept m r (s.doVecSt a b c d) :=
  State.clock_kept (State.staticWrite_kept h ..) ..

theorem execVecSt_kept {m : Nat} {r s : State} (h : Kept m r s) a b c d (hm : Sub 0x4800 m := by exact Sub.le (by assumption) (by decide)) :
    KeptRes m r (execVecSt a b c d s) := by
  unfold execVecSt; split
  · exact .refused _
  · exact KeptRes.whenWf (State.doVecSt_kept h ..) ..

theorem State.doVecLand_kept {m : Nat} {r s : State} (h : Kept m r s) a b c (hm : Sub 0x4410 m := by exact Sub.le (by assumption) (by decide)) :
    Kept m r (s.doVecLand a b c) :=
  State.clock_kept (State.wr_kept (State.setCvu_kept h ..) ..) ..

theorem execVecResultLand_kept {m : Nat} {r s : State} (h : Kept m r s) a b (hm : Sub 0x4410 m := by exact Sub.le (by assumption) (by decide)) :
    KeptRes m r (execVecResultLand a b s) := by
  unfold execVecResultLand; split
  · exact .refused _
  · exact .of (State.doVecLand_kept h ..)

theorem State.setMset_kept {m : Nat} {r s : State} (h : Kept m r s) a b (hm : Sub 0x1000000 m := by exact Sub.le (by assumption) (by decide)) :
    Kept m r (s.setMset a b) :=
  .upd h rfl

theorem State.setCmd_kept {m : Nat} {r s : State} (h : Kept m r s) a b (hm : Sub 0x800 m := by exact Sub.le (by assumption) (by decide)) :
    Kept m r (s.setCmd a b) :=
  State.setAe_kept h ..

theorem State.delCmd_kept {m : Nat} {r s : State} (h : Kept m r s) a b (hm : Sub 0x800 m := by exact Sub.le (by assumption) (by decide)) :
    Kept m r (s.delCmd a b) :=
  State.setAe_kept h ..

theorem State.aeDiscard_kept {m : Nat} {r s : State} (h : Kept m r s) a b (hm : Sub 0x602b74010 m := by exact Sub.le (by assumption) (by decide)) :
    Kept m r (s.aeDiscard a b) :=
  State.violate_kept (State.setF_kept h ..) ..

theorem State.mergeStop_kept {m : Nat} {r s : State} (h : Kept m r s) a (hm : Sub 0x800 m := by exact Sub.le (by assumption) (by decide)) :
    Kept m r (s.mergeStop a) :=
  State.setAe_kept h ..

theorem State.fenceWatch_kept {m : Nat} {r s : State} (h : Kept m r s) a (hm : Sub 0x800 m := by exact Sub.le (by assumption) (by decide)) :
    Kept m r (s.fenceWatch a) :=
  State.setAe_kept h ..

theorem State.aeAdd_kept {m : Nat} {r s : State} (h : Kept m r s) a b (hm : Sub 0x800 m := by exact Sub.le (by assumption) (by decide)) :
    Kept m r (s.aeAdd a b).2 :=
  State.fenceWatch_kept (State.setAe_kept h ..) ..

theorem State.aeEffects_kept {m : Nat} {r s : State} (h : Kept m r s) a b c (hm : Sub 0x602b76010 m := by exact Sub.le (by assumption) (by decide)) :
    Kept m r (s.aeEffects a b c) := by
  unfold State.aeEffects
  repeat' first
    | with_reducible assumption
    | exact Sub.le (by assumption) (by decide)
    | (extract_lets +onlyGivenNames x; first
      | (have _t : State := by with_reducible apply x
         clear _t; (refine Kept.cut (s := x) ?_ fun _ => ?_) <;> [(unfold x; clear x); (clear_value x; rename' x => y)])
      | (have _t : State := by with_reducible apply x.2
         clear _t; (refine Kept.cut2 (p := x) ?_ fun _ => ?_) <;> [(unfold x; clear x); (clear_value x; rename' x => y)])
      | (clear_value x; rename' x => y)
      | rename' x => y)
    | with_reducible first
      | apply State.countCtx_kept | apply State.landSet_kept
    | split
    | (refine Kept.snd (by assumption) ?_)

theorem State.putEffects_kept {m : Nat} {r s : State} (h : Kept m r s) a b c d e f (hm : Sub 0x602b76010 m := by exact Sub.le (by assumption) (by decide)) :
    Kept m r (s.putEffects a b c d e f) := by
  unfold State.putEffects
  repeat' first
    | with_reducible assumption
    | exact Sub.le (by assumption) (by decide)
    | (extract_lets +onlyGivenNames x; first
      | (have _t : State := by with_reducible apply x
         clear _t; (refine Kept.cut (s := x) ?_ fun _ => ?_) <;> [(unfold x; clear x); (clear_value x; rename' x => y)])
      | (have _t : State := by with_reducible apply x.2
         clear _t; (refine Kept.cut2 (p := x) ?_ fun _ => ?_) <;> [(unfold x; clear x); (clear_value x; rename' x => y)])
      | (clear_value x; rename' x => y)
      | rename' x => y)
    | with_reducible first
      | apply State.countCtx_kept | apply State.putSignal_kept
    | split
    | (refine Kept.snd (by assumption) ?_)

theorem State.aeRemove_kept {m : Nat} {r s : State} (h : Kept m r s) a b (hm : Sub 0x800 m := by exact Sub.le (by assumption) (by decide)) :
    Kept m r (s.aeRemove a b) :=
  .foldl h fun _ _ h => State.delCmd_kept h ..

theorem State.aeLandEnd_kept {m : Nat} {r s : State} (h : Kept m r s) a b c (hm : Sub 0x602b76810 m := by exact Sub.le (by assumption) (by decide)) :
    Kept m r (s.aeLandEnd a b c) := by
  unfold State.aeLandEnd
  repeat' first
    | with_reducible assumption
    | exact Sub.le (by assumption) (by decide)
    | intro _
    | (extract_lets +onlyGivenNames x; first
      | (have _t : State := by with_reducible apply x
         clear _t; (refine Kept.cut (s := x) ?_ fun _ => ?_) <;> [(unfold x; clear x); (clear_value x; rename' x => y)])
      | (have _t : State := by with_reducible apply x.2
         clear _t; (refine Kept.cut2 (p := x) ?_ fun _ => ?_) <;> [(unfold x; clear x); (clear_value x; rename' x => y)])
      | (clear_value x; rename' x => y)
      | rename' x => y)
    | with_reducible first
      | apply State.aeEffects_kept | apply State.aeRemove_kept | apply Kept.foldl | apply Kept.foldl2
    | split
    | (refine Kept.snd (by assumption) ?_)

theorem State.aePutEnd_kept {m : Nat} {r s : State} (h : Kept m r s) a b (hm : Sub 0x602b76810 m := by exact Sub.le (by assumption) (by decide)) :
    Kept m r (s.aePutEnd a b) := by
  unfold State.aePutEnd
  repeat' first
    | with_reducible assumption
    | exact Sub.le (by assumption) (by decide)
    | intro _
    | (extract_lets +onlyGivenNames x; first
      | (have _t : State := by with_reducible apply x
         clear _t; (refine Kept.cut (s := x) ?_ fun _ => ?_) <;> [(unfold x; clear x); (clear_value x; rename' x => y)])
      | (have _t : State := by with_reducible apply x.2
         clear _t; (refine Kept.cut2 (p := x) ?_ fun _ => ?_) <;> [(unfold x; clear x); (clear_value x; rename' x => y)])
      | (clear_value x; rename' x => y)
      | rename' x => y)
    | with_reducible first
      | apply State.putEffects_kept | apply State.aeRemove_kept | apply Kept.foldl | apply Kept.foldl2
    | split
    | (refine Kept.snd (by assumption) ?_)

theorem State.versionSkew_kept {m : Nat} {r s : State} (h : Kept m r s) a b c d e (hm : Sub 0x602b74010 m := by exact Sub.le (by assumption) (by decide)) :
    Kept m r (s.versionSkew a b c d e) := by
  unfold State.versionSkew
  repeat' first
    | with_reducible assumption
    | exact Sub.le (by assumption) (by decide)
    | (extract_lets +onlyGivenNames x; first
      | (have _t : State := by with_reducible apply x
         clear _t; (refine Kept.cut (s := x) ?_ fun _ => ?_) <;> [(unfold x; clear x); (clear_value x; rename' x => y)])
      | (have _t : State := by with_reducible apply x.2
         clear _t; (refine Kept.cut2 (p := x) ?_ fun _ => ?_) <;> [(unfold x; clear x); (clear_value x; rename' x => y)])
      | (clear_value x; rename' x => y)
      | rename' x => y)
    | with_reducible first
      | apply State.wr_kept | apply State.bump_kept | apply State.setF_kept | apply State.setDie_kept
      | apply State.poisonHeat_kept | apply State.record_kept
    | split
    | (refine Kept.snd (by assumption) ?_)

theorem State.cacheDrop_kept {m : Nat} {r s : State} (h : Kept m r s) a b (hm : Sub 0x810 m := by exact Sub.le (by assumption) (by decide)) :
    Kept m r (s.cacheDrop a b) :=
  State.bump_kept (State.setAe_kept h ..) ..

theorem State.cacheInsert_kept {m : Nat} {r s : State} (h : Kept m r s) a b c d (hm : Sub 0x602b74830 m := by exact Sub.le (by assumption) (by decide)) :
    Kept m r (s.cacheInsert a b c d).2 := by
  unfold State.cacheInsert
  repeat' first
    | with_reducible assumption
    | exact Sub.le (by assumption) (by decide)
    | (extract_lets +onlyGivenNames x; first
      | (have _t : State := by with_reducible apply x
         clear _t; (refine Kept.cut (s := x) ?_ fun _ => ?_) <;> [(unfold x; clear x); (clear_value x; rename' x => y)])
      | (have _t : State := by with_reducible apply x.2
         clear _t; (refine Kept.cut2 (p := x) ?_ fun _ => ?_) <;> [(unfold x; clear x); (clear_value x; rename' x => y)])
      | (clear_value x; rename' x => y)
      | rename' x => y)
    | with_reducible first
      | apply State.setF_kept | apply State.cacheDrop_kept | apply State.spadWrite_kept | apply State.setAe_kept
    | split
    | (refine Kept.snd (by assumption) ?_)

theorem State.setBankQueue_kept {m : Nat} {r s : State} (h : Kept m r s) a b c (hm : Sub 0x8000 m := by exact Sub.le (by assumption) (by decide)) :
    Kept m r (s.setBankQueue a b c) :=
  State.setStk_kept h ..

theorem State.addWrites_kept {m : Nat} {r s : State} (h : Kept m r s) a b c d e f (hm : Sub 0x800 m := by exact Sub.le (by assumption) (by decide)) :
    Kept m r (s.addWrites a b c d e f).2 :=
  State.setAe_kept h ..

theorem State.addReads_kept {m : Nat} {r s : State} (h : Kept m r s) a b c d e (hm : Sub 0x800 m := by exact Sub.le (by assumption) (by decide)) :
    Kept m r (s.addReads a b c d e).2 :=
  State.setAe_kept h ..

theorem State.aeGathered_kept {m : Nat} {r s : State} (h : Kept m r s) a b c (hm : Sub 0x800 m := by exact Sub.le (by assumption) (by decide)) :
    Kept m r (s.aeGathered a b c) := by
  unfold State.aeGathered
  repeat' first
    | with_reducible assumption
    | exact Sub.le (by assumption) (by decide)
    | (extract_lets +onlyGivenNames x; first
      | (have _t : State := by with_reducible apply x
         clear _t; (refine Kept.cut (s := x) ?_ fun _ => ?_) <;> [(unfold x; clear x); (clear_value x; rename' x => y)])
      | (have _t : State := by with_reducible apply x.2
         clear _t; (refine Kept.cut2 (p := x) ?_ fun _ => ?_) <;> [(unfold x; clear x); (clear_value x; rename' x => y)])
      | (clear_value x; rename' x => y)
      | rename' x => y)
    | with_reducible first
      | apply State.setCmd_kept | apply State.addWrites_kept
    | split
    | (refine Kept.snd (by assumption) ?_)

theorem State.aeRow_kept {m : Nat} {r s : State} (h : Kept m r s) a b c d (hm : Sub 0x800 m := by exact Sub.le (by assumption) (by decide)) :
    Kept m r (s.aeRow a b c d) := by
  unfold State.aeRow
  repeat' first
    | with_reducible assumption
    | exact Sub.le (by assumption) (by decide)
    | (extract_lets +onlyGivenNames x; first
      | (have _t : State := by with_reducible apply x
         clear _t; (refine Kept.cut (s := x) ?_ fun _ => ?_) <;> [(unfold x; clear x); (clear_value x; rename' x => y)])
      | (have _t : State := by with_reducible apply x.2
         clear _t; (refine Kept.cut2 (p := x) ?_ fun _ => ?_) <;> [(unfold x; clear x); (clear_value x; rename' x => y)])
      | (clear_value x; rename' x => y)
      | rename' x => y)
    | with_reducible first
      | apply State.setCmd_kept | apply State.addWrites_kept
    | split
    | (refine Kept.snd (by assumption) ?_)

theorem State.aeData_kept {m : Nat} {r s : State} (h : Kept m r s) a b c d e f g i (hm : Sub 0x20810 m := by exact Sub.le (by assumption) (by decide)) :
    Kept m r (s.aeData a b c d e f g i) := by
  unfold State.aeData
  repeat' first
    | with_reducible assumption
    | exact Sub.le (by assumption) (by decide)
    | (extract_lets +onlyGivenNames x; first
      | (have _t : State := by with_reducible apply x
         clear _t; (refine Kept.cut (s := x) ?_ fun _ => ?_) <;> [(unfold x; clear x); (clear_value x; rename' x => y)])
      | (have _t : State := by with_reducible apply x.2
         clear _t; (refine Kept.cut2 (p := x) ?_ fun _ => ?_) <;> [(unfold x; clear x); (clear_value x; rename' x => y)])
      | (clear_value x; rename' x => y)
      | rename' x => y)
    | with_reducible first
      | apply State.inject_kept | apply State.setCmd_kept | apply State.aeRow_kept | apply State.aeGathered_kept
    | split
    | (refine Kept.snd (by assumption) ?_)

theorem State.aeWritten_kept {m : Nat} {r s : State} (h : Kept m r s) a b c d (hm : Sub 0x602b76810 m := by exact Sub.le (by assumption) (by decide)) :
    Kept m r (s.aeWritten a b c d) := by
  unfold State.aeWritten
  repeat' first
    | with_reducible assumption
    | exact Sub.le (by assumption) (by decide)
    | (extract_lets +onlyGivenNames x; first
      | (have _t : State := by with_reducible apply x
         clear _t; (refine Kept.cut (s := x) ?_ fun _ => ?_) <;> [(unfold x; clear x); (clear_value x; rename' x => y)])
      | (have _t : State := by with_reducible apply x.2
         clear _t; (refine Kept.cut2 (p := x) ?_ fun _ => ?_) <;> [(unfold x; clear x); (clear_value x; rename' x => y)])
      | (clear_value x; rename' x => y)
      | rename' x => y)
    | with_reducible first
      | apply State.setCmd_kept | apply State.aePutEnd_kept
    | split
    | (refine Kept.snd (by assumption) ?_)

theorem State.bankOffer_kept {m : Nat} {r s : State} (h : Kept m r s) a b c d e (hm : Sub 0x8810 m := by exact Sub.le (by assumption) (by decide)) :
    Kept m r (s.bankOffer a b c d e) := by
  unfold State.bankOffer
  repeat' first
    | with_reducible assumption
    | exact Sub.le (by assumption) (by decide)
    | (extract_lets +onlyGivenNames x; first
      | (have _t : State := by with_reducible apply x
         clear _t; (refine Kept.cut (s := x) ?_ fun _ => ?_) <;> [(unfold x; clear x); (clear_value x; rename' x => y)])
      | (have _t : State := by with_reducible apply x.2
         clear _t; (refine Kept.cut2 (p := x) ?_ fun _ => ?_) <;> [(unfold x; clear x); (clear_value x; rename' x => y)])
      | (clear_value x; rename' x => y)
      | rename' x => y)
    | with_reducible first
      | apply State.bump_kept | apply State.setAe_kept | apply State.setCmd_kept | apply State.setBankQueue_kept
    | split
    | (refine Kept.snd (by assumption) ?_)

theorem State.aeAsk_kept {m : Nat} {r s : State} (h : Kept m r s) a b c d (hm : Sub 0x602b7c81a m := by exact Sub.le (by assumption) (by decide)) :
    Kept m r (s.aeAsk a b c d) := by
  unfold State.aeAsk
  repeat' first
    | with_reducible assumption
    | exact Sub.le (by assumption) (by decide)
    | (extract_lets +onlyGivenNames x; first
      | (have _t : State := by with_reducible apply x
         clear _t; (refine Kept.cut (s := x) ?_ fun _ => ?_) <;> [(unfold x; clear x); (clear_value x; rename' x => y)])
      | (have _t : State := by with_reducible apply x.2
         clear _t; (refine Kept.cut2 (p := x) ?_ fun _ => ?_) <;> [(unfold x; clear x); (clear_value x; rename' x => y)])
      | (clear_value x; rename' x => y)
      | rename' x => y)
    | with_reducible first
      | apply State.accessStatus_kept | apply State.aeData_kept | apply State.innerCross_kept | apply State.bankOffer_kept
      | apply State.reserveSeq_kept | apply State.setCmd_kept | apply State.launch_kept | apply State.dropTxPkt_kept
    | split
    | (refine Kept.snd (by assumption) ?_)

theorem State.aeAskAll_kept {m : Nat} {r s : State} (h : Kept m r s) a b c (hm : Sub 0x602b7c81a m := by exact Sub.le (by assumption) (by decide)) :
    Kept m r (s.aeAskAll a b c) := by
  unfold State.aeAskAll
  repeat' first
    | with_reducible assumption
    | exact Sub.le (by assumption) (by decide)
    | intro _
    | with_reducible first
      | apply State.aeAsk_kept | apply Kept.foldl | apply Kept.foldl2
    | split
    | (refine Kept.snd (by assumption) ?_)

theorem State.aeAskRows_kept {m : Nat} {r s : State} (h : Kept m r s) a b c (hm : Sub 0x602b7c81a m := by exact Sub.le (by assumption) (by decide)) :
    Kept m r (s.aeAskRows a b c) := by
  unfold State.aeAskRows
  repeat' first
    | with_reducible assumption
    | exact Sub.le (by assumption) (by decide)
    | intro _
    | with_reducible first
      | apply State.aeAsk_kept | apply Kept.foldl | apply Kept.foldl2
    | split
    | (refine Kept.snd (by assumption) ?_)

theorem State.storeFlag_kept {m : Nat} {r s : State} (h : Kept m r s) a b c d e (hm : Sub 0x602b76010 m := by exact Sub.le (by assumption) (by decide)) :
    Kept m r (s.storeFlag a b c d e) := by
  unfold State.storeFlag; split
  · exact State.landSet_kept h ..
  · exact State.landClear_kept h ..

theorem State.sendPut_kept {m : Nat} {r s : State} (h : Kept m r s) a b c d e f g (hm : Sub 0x602b7481a m := by exact Sub.le (by assumption) (by decide)) :
    Kept m r (s.sendPut a b c d e f g) := by
  unfold State.sendPut
  repeat' first
    | with_reducible assumption
    | exact Sub.le (by assumption) (by decide)
    | (extract_lets +onlyGivenNames x; first
      | (have _t : State := by with_reducible apply x
         clear _t; (refine Kept.cut (s := x) ?_ fun _ => ?_) <;> [(unfold x; clear x); (clear_value x; rename' x => y)])
      | (have _t : State := by with_reducible apply x.2
         clear _t; (refine Kept.cut2 (p := x) ?_ fun _ => ?_) <;> [(unfold x; clear x); (clear_value x; rename' x => y)])
      | (clear_value x; rename' x => y)
      | rename' x => y)
    | with_reducible first
      | apply State.reserveSeq_kept | apply State.launch_kept | apply State.delCmd_kept | apply State.dropTxPkt_kept
    | split
    | (refine Kept.snd (by assumption) ?_)

theorem State.putRead_kept {m : Nat} {r s : State} (h : Kept m r s) a b (hm : Sub 0x810 m := by exact Sub.le (by assumption) (by decide)) :
    Kept m r (s.putRead a b) := by
  unfold State.putRead
  repeat' first
    | with_reducible assumption
    | exact Sub.le (by assumption) (by decide)
    | (extract_lets +onlyGivenNames x; first
      | (have _t : State := by with_reducible apply x
         clear _t; (refine Kept.cut (s := x) ?_ fun _ => ?_) <;> [(unfold x; clear x); (clear_value x; rename' x => y)])
      | (have _t : State := by with_reducible apply x.2
         clear _t; (refine Kept.cut2 (p := x) ?_ fun _ => ?_) <;> [(unfold x; clear x); (clear_value x; rename' x => y)])
      | (clear_value x; rename' x => y)
      | rename' x => y)
    | with_reducible first
      | apply State.setTq_kept | apply State.bump_kept
    | split
    | (refine Kept.snd (by assumption) ?_)

theorem State.putGo_kept {m : Nat} {r s : State} (h : Kept m r s) (a : Sys2Proof.Machine.State → ℕ → Sys2Proof.Word → Sys2Proof.Machine.State) b c d (ha : ∀ (s : State) z1 z2, Kept m r s → Kept m r (a s z1 z2)) (hm : Sub 0x602b7e83a m := by exact Sub.le (by assumption) (by decide)) :
    Kept m r (s.putGo a b c d) := by
  unfold State.putGo
  repeat' first
    | with_reducible assumption
    | exact Sub.le (by assumption) (by decide)
    | intro _
    | (extract_lets +onlyGivenNames x; first
      | (have _t : State := by with_reducible apply x
         clear _t; (refine Kept.cut (s := x) ?_ fun _ => ?_) <;> [(unfold x; clear x); (clear_value x; rename' x => y)])
      | (have _t : State := by with_reducible apply x.2
         clear _t; (refine Kept.cut2 (p := x) ?_ fun _ => ?_) <;> [(unfold x; clear x); (clear_value x; rename' x => y)])
      | (clear_value x; rename' x => y)
      | rename' x => y)
    | with_reducible first
      | apply State.putRead_kept | apply State.setCmd_kept | apply State.accessStatus_kept | apply State.aeWritten_kept
      | apply State.innerCross_kept | apply State.reject_kept | apply State.bankOffer_kept | apply State.spadWrite_kept
      | apply State.storeFlag_kept | apply State.sendPut_kept | apply ha | apply Kept.foldl | apply Kept.foldl2
    | split
    | (refine Kept.snd (by assumption) ?_)

theorem State.putAnswer_kept {m : Nat} {r s : State} (h : Kept m r s) a b c d (hm : Sub 0x602b7481a m := by exact Sub.le (by assumption) (by decide)) :
    Kept m r (s.putAnswer a b c d) := by
  unfold State.putAnswer
  repeat' first
    | with_reducible assumption
    | exact Sub.le (by assumption) (by decide)
    | (extract_lets +onlyGivenNames x; first
      | (have _t : State := by with_reducible apply x
         clear _t; (refine Kept.cut (s := x) ?_ fun _ => ?_) <;> [(unfold x; clear x); (clear_value x; rename' x => y)])
      | (have _t : State := by with_reducible apply x.2
         clear _t; (refine Kept.cut2 (p := x) ?_ fun _ => ?_) <;> [(unfold x; clear x); (clear_value x; rename' x => y)])
      | (clear_value x; rename' x => y)
      | rename' x => y)
    | with_reducible first
      | apply State.sendPut_kept | apply State.setCmd_kept | apply State.delCmd_kept
    | split
    | (refine Kept.snd (by assumption) ?_)

theorem State.atomicDo_kept {m : Nat} {r s : State} (h : Kept m r s) a b c d (hm : Sub 0x602b7c870 m := by exact Sub.le (by assumption) (by decide)) :
    Kept m r (s.atomicDo a b c d).2 := by
  unfold State.atomicDo
  repeat' first
    | with_reducible assumption
    | exact Sub.le (by assumption) (by decide)
    | (extract_lets +onlyGivenNames x; first
      | (have _t : State := by with_reducible apply x
         clear _t; (refine Kept.cut (s := x) ?_ fun _ => ?_) <;> [(unfold x; clear x); (clear_value x; rename' x => y)])
      | (have _t : State := by with_reducible apply x.2
         clear _t; (refine Kept.cut2 (p := x) ?_ fun _ => ?_) <;> [(unfold x; clear x); (clear_value x; rename' x => y)])
      | (clear_value x; rename' x => y)
      | rename' x => y)
    | with_reducible first
      | apply State.hbmRead_kept | apply State.hbmWrite_kept | apply State.spadWrite_kept
    | split
    | (refine Kept.snd (by assumption) ?_)

theorem State.atomicLand_kept {m : Nat} {r s : State} (h : Kept m r s) a b c d (hm : Sub 0x602b76830 m := by exact Sub.le (by assumption) (by decide)) :
    Kept m r (s.atomicLand a b c d) := by
  unfold State.atomicLand
  repeat' first
    | with_reducible assumption
    | exact Sub.le (by assumption) (by decide)
    | (extract_lets +onlyGivenNames x; first
      | (have _t : State := by with_reducible apply x
         clear _t; (refine Kept.cut (s := x) ?_ fun _ => ?_) <;> [(unfold x; clear x); (clear_value x; rename' x => y)])
      | (have _t : State := by with_reducible apply x.2
         clear _t; (refine Kept.cut2 (p := x) ?_ fun _ => ?_) <;> [(unfold x; clear x); (clear_value x; rename' x => y)])
      | (clear_value x; rename' x => y)
      | rename' x => y)
    | with_reducible first
      | apply State.spadWrite_kept | apply State.landSet_kept | apply State.delCmd_kept
    | split
    | (refine Kept.snd (by assumption) ?_)

theorem State.atomicLost_kept {m : Nat} {r s : State} (h : Kept m r s) a b c (hm : Sub 0x602b74810 m := by exact Sub.le (by assumption) (by decide)) :
    Kept m r (s.atomicLost a b c) :=
  State.delCmd_kept (State.record_kept h ..) ..

theorem State.takeDest_kept {m : Nat} {r s t : State} {a b c d} (h : Kept m r s) (e : s.takeDest a b c = some (d, t)) (hm : Sub 0x800 m := by exact Sub.le (by assumption) (by decide)) : Kept m r t := by
  unfold State.takeDest at e
  split at e
  · cases e; exact h
  extract_lets l at e
  split at e
  · cases e
  split at e
  · cases e
  · cases e; exact State.setTq_kept h ..

theorem State.predictFor_kept {m : Nat} {r s : State} (h : Kept m r s) a b (hm : Sub 0x800 m := by exact Sub.le (by assumption) (by decide)) :
    Kept m r (s.predictFor a b).2 := by
  unfold State.predictFor
  repeat' first
    | with_reducible assumption
    | exact Sub.le (by assumption) (by decide)
    | (extract_lets +onlyGivenNames x; first
      | (have _t : State := by with_reducible apply x
         clear _t; (refine Kept.cut (s := x) ?_ fun _ => ?_) <;> [(unfold x; clear x); (clear_value x; rename' x => y)])
      | (have _t : State := by with_reducible apply x.2
         clear _t; (refine Kept.cut2 (p := x) ?_ fun _ => ?_) <;> [(unfold x; clear x); (clear_value x; rename' x => y)])
      | (clear_value x; rename' x => y)
      | rename' x => y)
    | with_reducible first
      | apply State.setTq_kept
    | split
    | (refine Kept.snd (by assumption) ?_)

theorem State.aeIssue_kept {m : Nat} {r s : State} (h : Kept m r s) a b (hm : Sub 0x810 m := by exact Sub.le (by assumption) (by decide)) :
    Kept m r (s.aeIssue a b) := by
  unfold State.aeIssue
  repeat' first
    | with_reducible assumption
    | exact Sub.le (by assumption) (by decide)
    | (extract_lets +onlyGivenNames x; first
      | (have _t : State := by with_reducible apply x
         clear _t; (refine Kept.cut (s := x) ?_ fun _ => ?_) <;> [(unfold x; clear x); (clear_value x; rename' x => y)])
      | (have _t : State := by with_reducible apply x.2
         clear _t; (refine Kept.cut2 (p := x) ?_ fun _ => ?_) <;> [(unfold x; clear x); (clear_value x; rename' x => y)])
      | (clear_value x; rename' x => y)
      | rename' x => y)
    | with_reducible first
      | apply State.aeAdd_kept | apply State.bump_kept | apply State.setCmd_kept | apply State.mergeStop_kept
    | split
    | (refine Kept.snd (by assumption) ?_)

theorem State.doTileFetch_kept {m : Nat} {r s : State} (h : Kept m r s) a b c (hm : Sub 0x602b74810 m := by exact Sub.le (by assumption) (by decide)) :
    Kept m r (s.doTileFetch a b c) := by
  unfold State.doTileFetch
  repeat' first
    | with_reducible assumption
    | exact Sub.le (by assumption) (by decide)
    | (extract_lets +onlyGivenNames x; first
      | (have _t : State := by with_reducible apply x
         clear _t; (refine Kept.cut (s := x) ?_ fun _ => ?_) <;> [(unfold x; clear x); (clear_value x; rename' x => y)])
      | (have _t : State := by with_reducible apply x.2
         clear _t; (refine Kept.cut2 (p := x) ?_ fun _ => ?_) <;> [(unfold x; clear x); (clear_value x; rename' x => y)])
      | (clear_value x; rename' x => y)
      | rename' x => y)
    | with_reducible first
      | apply State.aeDiscard_kept | apply State.mergeStop_kept | refine State.takeDest_kept ?_ (by assumption)
      | apply State.predictFor_kept | apply State.bump_kept | apply State.aeIssue_kept
    | split
    | (refine Kept.snd (by assumption) ?_)

theorem execTileFetch_kept {m : Nat} {r s : State} (h : Kept m r s) a b c (hm : Sub 0x602b74810 m := by exact Sub.le (by assumption) (by decide)) :
    KeptRes m r (execTileFetch a b c s) :=
  KeptRes.whenWf (State.clock_kept (State.doTileFetch_kept h ..) ..) ..

theorem State.doTilePut_kept {m : Nat} {r s : State} (h : Kept m r s) a b c (hm : Sub 0x602b74810 m := by exact Sub.le (by assumption) (by decide)) :
    Kept m r (s.doTilePut a b c) := by
  unfold State.doTilePut
  repeat' first
    | with_reducible assumption
    | exact Sub.le (by assumption) (by decide)
    | (extract_lets +onlyGivenNames x; first
      | (have _t : State := by with_reducible apply x
         clear _t; (refine Kept.cut (s := x) ?_ fun _ => ?_) <;> [(unfold x; clear x); (clear_value x; rename' x => y)])
      | (have _t : State := by with_reducible apply x.2
         clear _t; (refine Kept.cut2 (p := x) ?_ fun _ => ?_) <;> [(unfold x; clear x); (clear_value x; rename' x => y)])
      | (clear_value x; rename' x => y)
      | rename' x => y)
    | with_reducible first
      | apply State.aeDiscard_kept | apply State.mergeStop_kept | apply State.aeIssue_kept | apply State.setTq_kept
    | split
    | (refine Kept.snd (by assumption) ?_)

theorem execTilePut_kept {m : Nat} {r s : State} (h : Kept m r s) a b c (hm : Sub 0x602b74810 m := by exact Sub.le (by assumption) (by decide)) :
    KeptRes m r (execTilePut a b c s) :=
  KeptRes.whenWf (State.clock_kept (State.doTilePut_kept h ..) ..) ..

theorem State.doTileGather_kept {m : Nat} {r s : State} (h : Kept m r s) a b c (hm : Sub 0x602b74810 m := by exact Sub.le (by assumption) (by decide)) :
    Kept m r (s.doTileGather a b c) := by
  unfold State.doTileGather
  repeat' first
    | with_reducible assumption
    | exact Sub.le (by assumption) (by decide)
    | (extract_lets +onlyGivenNames x; first
      | (have _t : State := by with_reducible apply x
         clear _t; (refine Kept.cut (s := x) ?_ fun _ => ?_) <;> [(unfold x; clear x); (clear_value x; rename' x => y)])
      | (have _t : State := by with_reducible apply x.2
         clear _t; (refine Kept.cut2 (p := x) ?_ fun _ => ?_) <;> [(unfold x; clear x); (clear_value x; rename' x => y)])
      | (clear_value x; rename' x => y)
      | rename' x => y)
    | with_reducible first
      | apply State.aeDiscard_kept | apply State.mergeStop_kept | refine State.takeDest_kept ?_ (by assumption)
      | apply State.bump_kept | apply State.aeIssue_kept
    | split
    | (refine Kept.snd (by assumption) ?_)

theorem execTileGather_kept {m : Nat} {r s : State} (h : Kept m r s) a b c (hm : Sub 0x602b74810 m := by exact Sub.le (by assumption) (by decide)) :
    KeptRes m r (execTileGather a b c s) :=
  KeptRes.whenWf (State.clock_kept (State.doTileGather_kept h ..) ..) ..

theorem State.doTileRelay_kept {m : Nat} {r s : State} (h : Kept m r s) a b c (hm : Sub 0x602b74810 m := by exact Sub.le (by assumption) (by decide)) :
    Kept m r (s.doTileRelay a b c) := by
  unfold State.doTileRelay
  repeat' first
    | with_reducible assumption
    | exact Sub.le (by assumption) (by decide)
    | (extract_lets +onlyGivenNames x; first
      | (have _t : State := by with_reducible apply x
         clear _t; (refine Kept.cut (s := x) ?_ fun _ => ?_) <;> [(unfold x; clear x); (clear_value x; rename' x => y)])
      | (have _t : State := by with_reducible apply x.2
         clear _t; (refine Kept.cut2 (p := x) ?_ fun _ => ?_) <;> [(unfold x; clear x); (clear_value x; rename' x => y)])
      | (clear_value x; rename' x => y)
      | rename' x => y)
    | with_reducible first
      | apply State.aeDiscard_kept | apply State.mergeStop_kept | refine State.takeDest_kept ?_ (by assumption)
      | apply State.predictFor_kept | apply State.aeIssue_kept | apply State.bump_kept
    | split
    | (refine Kept.snd (by assumption) ?_)

theorem execTileRelay_kept {m : Nat} {r s : State} (h : Kept m r s) a b c (hm : Sub 0x602b74810 m := by exact Sub.le (by assumption) (by decide)) :
    KeptRes m r (execTileRelay a b c s) :=
  KeptRes.whenWf (State.clock_kept (State.doTileRelay_kept h ..) ..) ..

theorem State.doTileDrop_kept {m : Nat} {r s : State} (h : Kept m r s) a b c (hm : Sub 0x602b74810 m := by exact Sub.le (by assumption) (by decide)) :
    Kept m r (s.doTileDrop a b c) := by
  unfold State.doTileDrop
  repeat' first
    | with_reducible assumption
    | exact Sub.le (by assumption) (by decide)
    | (extract_lets +onlyGivenNames x; first
      | (have _t : State := by with_reducible apply x
         clear _t; (refine Kept.cut (s := x) ?_ fun _ => ?_) <;> [(unfold x; clear x); (clear_value x; rename' x => y)])
      | (have _t : State := by with_reducible apply x.2
         clear _t; (refine Kept.cut2 (p := x) ?_ fun _ => ?_) <;> [(unfold x; clear x); (clear_value x; rename' x => y)])
      | (clear_value x; rename' x => y)
      | rename' x => y)
    | with_reducible first
      | apply State.aeDiscard_kept | apply State.mergeStop_kept | apply State.cacheDrop_kept | apply State.setAe_kept
    | split
    | (refine Kept.snd (by assumption) ?_)

theorem execTileDrop_kept {m : Nat} {r s : State} (h : Kept m r s) a b c (hm : Sub 0x602b74810 m := by exact Sub.le (by assumption) (by decide)) :
    KeptRes m r (execTileDrop a b c s) :=
  KeptRes.whenWf (State.clock_kept (State.doTileDrop_kept h ..) ..) ..

theorem State.doTileUnpin_kept {m : Nat} {r s : State} (h : Kept m r s) a b c (hm : Sub 0x602b74810 m := by exact Sub.le (by assumption) (by decide)) :
    Kept m r (s.doTileUnpin a b c) := by
  unfold State.doTileUnpin
  repeat' first
    | with_reducible assumption
    | exact Sub.le (by assumption) (by decide)
    | (extract_lets +onlyGivenNames x; first
      | (have _t : State := by with_reducible apply x
         clear _t; (refine Kept.cut (s := x) ?_ fun _ => ?_) <;> [(unfold x; clear x); (clear_value x; rename' x => y)])
      | (have _t : State := by with_reducible apply x.2
         clear _t; (refine Kept.cut2 (p := x) ?_ fun _ => ?_) <;> [(unfold x; clear x); (clear_value x; rename' x => y)])
      | (clear_value x; rename' x => y)
      | rename' x => y)
    | with_reducible first
      | apply State.aeDiscard_kept | apply State.mergeStop_kept | apply State.setAe_kept
    | split
    | (refine Kept.snd (by assumption) ?_)

theorem execTileUnpin_kept {m : Nat} {r s : State} (h : Kept m r s) a b c (hm : Sub 0x602b74810 m := by exact Sub.le (by assumption) (by decide)) :
    KeptRes m r (execTileUnpin a b c s) :=
  KeptRes.whenWf (State.clock_kept (State.doTileUnpin_kept h ..) ..) ..

theorem State.doAtom_kept {m : Nat} {r s : State} (h : Kept m r s) a b c d (hm : Sub 0x602b74810 m := by exact Sub.le (by assumption) (by decide)) :
    Kept m r (s.doAtom a b c d) := by
  unfold State.doAtom
  repeat' first
    | with_reducible assumption
    | exact Sub.le (by assumption) (by decide)
    | (extract_lets +onlyGivenNames x; first
      | (have _t : State := by with_reducible apply x
         clear _t; (refine Kept.cut (s := x) ?_ fun _ => ?_) <;> [(unfold x; clear x); (clear_value x; rename' x => y)])
      | (have _t : State := by with_reducible apply x.2
         clear _t; (refine Kept.cut2 (p := x) ?_ fun _ => ?_) <;> [(unfold x; clear x); (clear_value x; rename' x => y)])
      | (clear_value x; rename' x => y)
      | rename' x => y)
    | with_reducible first
      | apply State.aeDiscard_kept | apply State.mergeStop_kept | apply State.aeIssue_kept
    | split
    | (refine Kept.snd (by assumption) ?_)

theorem State.atomRes_kept {m : Nat} {r s : State} (h : Kept m r s) a b c d (hm : Sub 0x602b74810 m := by exact Sub.le (by assumption) (by decide)) :
    KeptRes m r (s.atomRes a b c d) :=
  KeptRes.whenWf (State.clock_kept (State.doAtom_kept h ..) ..) ..

theorem execAtomAdd_kept {m : Nat} {r s : State} (h : Kept m r s) a b c (hm : Sub 0x602b74810 m := by exact Sub.le (by assumption) (by decide)) :
    KeptRes m r (execAtomAdd a b c s) :=
  State.atomRes_kept h ..

theorem execAtomAnd_kept {m : Nat} {r s : State} (h : Kept m r s) a b c (hm : Sub 0x602b74810 m := by exact Sub.le (by assumption) (by decide)) :
    KeptRes m r (execAtomAnd a b c s) :=
  State.atomRes_kept h ..

theorem execAtomOr_kept {m : Nat} {r s : State} (h : Kept m r s) a b c (hm : Sub 0x602b74810 m := by exact Sub.le (by assumption) (by decide)) :
    KeptRes m r (execAtomOr a b c s) :=
  State.atomRes_kept h ..

theorem execAtomXor_kept {m : Nat} {r s : State} (h : Kept m r s) a b c (hm : Sub 0x602b74810 m := by exact Sub.le (by assumption) (by decide)) :
    KeptRes m r (execAtomXor a b c s) :=
  State.atomRes_kept h ..

theorem execAtomUmax_kept {m : Nat} {r s : State} (h : Kept m r s) a b c (hm : Sub 0x602b74810 m := by exact Sub.le (by assumption) (by decide)) :
    KeptRes m r (execAtomUmax a b c s) :=
  State.atomRes_kept h ..

theorem execAtomUmin_kept {m : Nat} {r s : State} (h : Kept m r s) a b c (hm : Sub 0x602b74810 m := by exact Sub.le (by assumption) (by decide)) :
    KeptRes m r (execAtomUmin a b c s) :=
  State.atomRes_kept h ..

theorem execAtomSwap_kept {m : Nat} {r s : State} (h : Kept m r s) a b c (hm : Sub 0x602b74810 m := by exact Sub.le (by assumption) (by decide)) :
    KeptRes m r (execAtomSwap a b c s) :=
  State.atomRes_kept h ..

theorem execAtomCas_kept {m : Nat} {r s : State} (h : Kept m r s) a b c (hm : Sub 0x602b74810 m := by exact Sub.le (by assumption) (by decide)) :
    KeptRes m r (execAtomCas a b c s) :=
  State.atomRes_kept h ..

theorem State.sendFlag_kept {m : Nat} {r s : State} (h : Kept m r s) a b c d (hm : Sub 0x602b7681a m := by exact Sub.le (by assumption) (by decide)) :
    Kept m r (s.sendFlag a b c d) := by
  unfold State.sendFlag
  repeat' first
    | with_reducible assumption
    | exact Sub.le (by assumption) (by decide)
    | (extract_lets +onlyGivenNames x; first
      | (have _t : State := by with_reducible apply x
         clear _t; (refine Kept.cut (s := x) ?_ fun _ => ?_) <;> [(unfold x; clear x); (clear_value x; rename' x => y)])
      | (have _t : State := by with_reducible apply x.2
         clear _t; (refine Kept.cut2 (p := x) ?_ fun _ => ?_) <;> [(unfold x; clear x); (clear_value x; rename' x => y)])
      | (clear_value x; rename' x => y)
      | rename' x => y)
    | with_reducible first
      | apply State.accessStatus_kept | apply State.delCmd_kept | apply State.storeFlag_kept | apply State.setCmd_kept
      | apply State.sendPut_kept
    | split
    | (refine Kept.snd (by assumption) ?_)

theorem State.collJoin_kept {m : Nat} {r s : State} (h : Kept m r s) a b c (hm : Sub 0x1000800 m := by exact Sub.le (by assumption) (by decide)) :
    Kept m r (s.collJoin a b c) := by
  unfold State.collJoin
  repeat' first
    | with_reducible assumption
    | exact Sub.le (by assumption) (by decide)
    | (extract_lets +onlyGivenNames x; first
      | (have _t : State := by with_reducible apply x
         clear _t; (refine Kept.cut (s := x) ?_ fun _ => ?_) <;> [(unfold x; clear x); (clear_value x; rename' x => y)])
      | (have _t : State := by with_reducible apply x.2
         clear _t; (refine Kept.cut2 (p := x) ?_ fun _ => ?_) <;> [(unfold x; clear x); (clear_value x; rename' x => y)])
      | (clear_value x; rename' x => y)
      | rename' x => y)
    | with_reducible first
      | apply State.delCmd_kept
    | split
    | (refine Kept.snd (by assumption) ?_)
    | (fail_if_no_progress with_reducible refine Kept.upd ?_ (by rfl))

theorem State.runSlotless_kept {m : Nat} {r s : State} (h : Kept m r s) a b c (hm : Sub 0x603b7681a m := by exact Sub.le (by assumption) (by decide)) :
    Kept m r (s.runSlotless a b c) := by
  unfold State.runSlotless
  repeat' first
    | with_reducible assumption
    | exact Sub.le (by assumption) (by decide)
    | (extract_lets +onlyGivenNames x; first
      | (have _t : State := by with_reducible apply x
         clear _t; (refine Kept.cut (s := x) ?_ fun _ => ?_) <;> [(unfold x; clear x); (clear_value x; rename' x => y)])
      | (have _t : State := by with_reducible apply x.2
         clear _t; (refine Kept.cut2 (p := x) ?_ fun _ => ?_) <;> [(unfold x; clear x); (clear_value x; rename' x => y)])
      | (clear_value x; rename' x => y)
      | rename' x => y)
    | with_reducible first
      | apply State.delCmd_kept | apply State.landSet_kept | apply State.landClear_kept | apply State.sendFlag_kept
      | apply State.collJoin_kept
    | split
    | (refine Kept.snd (by assumption) ?_)

theorem State.runUnheld_kept {m : Nat} {r s : State} (h : Kept m r s) a b (hm : Sub 0x603b7681a m := by exact Sub.le (by assumption) (by decide)) :
    Kept m r (s.runUnheld a b) :=
  .foldl h fun _ _ h => State.runSlotless_kept h ..

theorem State.doFlagCmd_kept {m : Nat} {r s : State} (h : Kept m r s) a b c d (hm : Sub 0x603b7681a m := by exact Sub.le (by assumption) (by decide)) :
    Kept m r (s.doFlagCmd a b c d) := by
  unfold State.doFlagCmd
  repeat' first
    | with_reducible assumption
    | exact Sub.le (by assumption) (by decide)
    | (extract_lets +onlyGivenNames x; first
      | (have _t : State := by with_reducible apply x
         clear _t; (refine Kept.cut (s := x) ?_ fun _ => ?_) <;> [(unfold x; clear x); (clear_value x; rename' x => y)])
      | (have _t : State := by with_reducible apply x.2
         clear _t; (refine Kept.cut2 (p := x) ?_ fun _ => ?_) <;> [(unfold x; clear x); (clear_value x; rename' x => y)])
      | (clear_value x; rename' x => y)
      | rename' x => y)
    | with_reducible first
      | apply State.aeDiscard_kept | apply State.mergeStop_kept | apply State.runUnheld_kept | apply State.aeAdd_kept
    | split
    | (refine Kept.snd (by assumption) ?_)

theorem execFlagSet_kept {m : Nat} {r s : State} (h : Kept m r s) a b c (hm : Sub 0x603b7681a m := by exact Sub.le (by assumption) (by decide)) :
    KeptRes m r (execFlagSet a b c s) :=
  KeptRes.whenWf (State.clock_kept (State.doFlagCmd_kept h ..) ..) ..

theorem execFlagClear_kept {m : Nat} {r s : State} (h : Kept m r s) a b c (hm : Sub 0x603b7681a m := by exact Sub.le (by assumption) (by decide)) :
    KeptRes m r (execFlagClear a b c s) :=
  KeptRes.whenWf (State.clock_kept (State.doFlagCmd_kept h ..) ..) ..

theorem State.doFence_kept {m : Nat} {r s : State} (h : Kept m r s) a b c (hm : Sub 0x602b74810 m := by exact Sub.le (by assumption) (by decide)) :
    Kept m r (s.doFence a b c) := by
  unfold State.doFence
  repeat' first
    | with_reducible assumption
    | exact Sub.le (by assumption) (by decide)
    | with_reducible first
      | apply State.aeDiscard_kept | apply State.mergeStop_kept | apply State.aeAdd_kept
    | split
    | (refine Kept.snd (by assumption) ?_)

theorem execFenceLocal_kept {m : Nat} {r s : State} (h : Kept m r s) a b (hm : Sub 0x602b74810 m := by exact Sub.le (by assumption) (by decide)) :
    KeptRes m r (execFenceLocal a b s) := by
  unfold execFenceLocal
  repeat' first
    | with_reducible assumption
    | exact Sub.le (by assumption) (by decide)
    | with_reducible first
      | apply KeptRes.of | apply State.clock_kept | apply State.doFence_kept

theorem execFenceFabric_kept {m : Nat} {r s : State} (h : Kept m r s) a b (hm : Sub 0x602b74810 m := by exact Sub.le (by assumption) (by decide)) :
    KeptRes m r (execFenceFabric a b s) := by
  unfold execFenceFabric
  repeat' first
    | with_reducible assumption
    | exact Sub.le (by assumption) (by decide)
    | with_reducible first
      | apply KeptRes.of | apply State.clock_kept | apply State.doFence_kept

theorem execFenceRelease_kept {m : Nat} {r s : State} (h : Kept m r s) a b (hm : Sub 0x603b7681a m := by exact Sub.le (by assumption) (by decide)) :
    KeptRes m r (execFenceRelease a b s) := by
  unfold execFenceRelease
  repeat' first
    | with_reducible assumption
    | exact Sub.le (by assumption) (by decide)
    | with_reducible first
      | exact KeptRes.refused _ | apply KeptRes.of | apply State.clock_kept | apply State.runUnheld_kept
      | apply State.delCmd_kept
    | split
    | (refine Kept.snd (by assumption) ?_)

theorem State.waitTimeout_kept {m : Nat} {r s : State} (h : Kept m r s) a b c d e f g i (hm : Sub 0x602b74010 m := by exact Sub.le (by assumption) (by decide)) :
    Kept m r (s.waitTimeout a b c d e f g i) := by
  unfold State.waitTimeout
  repeat' first
    | with_reducible assumption
    | exact Sub.le (by assumption) (by decide)
    | (extract_lets +onlyGivenNames x; first
      | (have _t : State := by with_reducible apply x
         clear _t; (refine Kept.cut (s := x) ?_ fun _ => ?_) <;> [(unfold x; clear x); (clear_value x; rename' x => y)])
      | (have _t : State := by with_reducible apply x.2
         clear _t; (refine Kept.cut2 (p := x) ?_ fun _ => ?_) <;> [(unfold x; clear x); (clear_value x; rename' x => y)])
      | (clear_value x; rename' x => y)
      | rename' x => y)
    | with_reducible first
      | apply State.setF_kept | apply State.bump_kept | apply State.waitRecord_kept | apply State.record_kept
    | split
    | (refine Kept.snd (by assumption) ?_)

theorem State.doFenceExpire_kept {m : Nat} {r s : State} (h : Kept m r s) a b (hm : Sub 0x602b74810 m := by exact Sub.le (by assumption) (by decide)) :
    Kept m r (s.doFenceExpire a b) := by
  unfold State.doFenceExpire
  repeat' first
    | with_reducible assumption
    | exact Sub.le (by assumption) (by decide)
    | (extract_lets +onlyGivenNames x; first
      | (have _t : State := by with_reducible apply x
         clear _t; (refine Kept.cut (s := x) ?_ fun _ => ?_) <;> [(unfold x; clear x); (clear_value x; rename' x => y)])
      | (have _t : State := by with_reducible apply x.2
         clear _t; (refine Kept.cut2 (p := x) ?_ fun _ => ?_) <;> [(unfold x; clear x); (clear_value x; rename' x => y)])
      | (clear_value x; rename' x => y)
      | rename' x => y)
    | with_reducible first
      | apply State.waitTimeout_kept | apply State.setCmd_kept
    | split
    | (refine Kept.snd (by assumption) ?_)

theorem State.doTokenRefill_kept {m : Nat} {r s : State} (h : Kept m r s) a (hm : Sub 0x810 m := by exact Sub.le (by assumption) (by decide)) :
    Kept m r (s.doTokenRefill a) := by
  unfold State.doTokenRefill
  repeat' first
    | with_reducible assumption
    | exact Sub.le (by assumption) (by decide)
    | (extract_lets +onlyGivenNames x; first
      | (have _t : State := by with_reducible apply x
         clear _t; (refine Kept.cut (s := x) ?_ fun _ => ?_) <;> [(unfold x; clear x); (clear_value x; rename' x => y)])
      | (have _t : State := by with_reducible apply x.2
         clear _t; (refine Kept.cut2 (p := x) ?_ fun _ => ?_) <;> [(unfold x; clear x); (clear_value x; rename' x => y)])
      | (clear_value x; rename' x => y)
      | rename' x => y)
    | with_reducible first
      | apply State.setAe_kept | apply State.bump_kept
    | split
    | (refine Kept.snd (by assumption) ?_)

theorem State.relayStall_kept {m : Nat} {r s : State} (h : Kept m r s) a (hm : Sub 0x10 m := by exact Sub.le (by assumption) (by decide)) :
    Kept m r (s.relayStall a) := by
  unfold State.relayStall
  repeat' first
    | with_reducible assumption
    | exact Sub.le (by assumption) (by decide)
    | with_reducible first
      | apply State.bump_kept
    | split
    | (refine Kept.snd (by assumption) ?_)

theorem execTokenRefill_kept {m : Nat} {r s : State} (h : Kept m r s) a b (hm : Sub 0x4810 m := by exact Sub.le (by assumption) (by decide)) :
    KeptRes m r (execTokenRefill a b s) :=
  .of (State.clock_kept (State.relayStall_kept (State.doTokenRefill_kept h ..) ..) ..)

theorem execQuotaRelease_kept {m : Nat} {r s : State} (h : Kept m r s) a b c (hm : Sub 0x4800 m := by exact Sub.le (by assumption) (by decide)) :
    KeptRes m r (execQuotaRelease a b c s) := by
  unfold execQuotaRelease; split
  · exact .refused _
  · exact KeptRes.when (State.clock_kept (State.setCmd_kept h ..) ..) ..

theorem execMergeTimeout_kept {m : Nat} {r s : State} (h : Kept m r s) a b (hm : Sub 0x4800 m := by exact Sub.le (by assumption) (by decide)) :
    KeptRes m r (execMergeTimeout a b s) :=
  KeptRes.when (State.clock_kept (State.mergeStop_kept h ..) ..) ..

theorem State.gatherGo_kept {m : Nat} {r s : State} (h : Kept m r s) a b c (hm : Sub 0x602b7c81a m := by exact Sub.le (by assumption) (by decide)) :
    Kept m r (s.gatherGo a b c) := by
  unfold State.gatherGo
  repeat' first
    | with_reducible assumption
    | exact Sub.le (by assumption) (by decide)
    | (extract_lets +onlyGivenNames x; first
      | (have _t : State := by with_reducible apply x
         clear _t; (refine Kept.cut (s := x) ?_ fun _ => ?_) <;> [(unfold x; clear x); (clear_value x; rename' x => y)])
      | (have _t : State := by with_reducible apply x.2
         clear _t; (refine Kept.cut2 (p := x) ?_ fun _ => ?_) <;> [(unfold x; clear x); (clear_value x; rename' x => y)])
      | (clear_value x; rename' x => y)
      | rename' x => y)
    | with_reducible first
      | apply State.energy_kept | apply State.addWrites_kept | apply State.aeAskRows_kept | apply State.setCmd_kept
    | split
    | (refine Kept.snd (by assumption) ?_)

theorem State.atomicHere_kept {m : Nat} {r s : State} (h : Kept m r s) a b c d (hm : Sub 0x602b7e870 m := by exact Sub.le (by assumption) (by decide)) :
    Kept m r (s.atomicHere a b c d) := by
  unfold State.atomicHere
  repeat' first
    | with_reducible assumption
    | exact Sub.le (by assumption) (by decide)
    | (extract_lets +onlyGivenNames x; first
      | (have _t : State := by with_reducible apply x
         clear _t; (refine Kept.cut (s := x) ?_ fun _ => ?_) <;> [(unfold x; clear x); (clear_value x; rename' x => y)])
      | (have _t : State := by with_reducible apply x.2
         clear _t; (refine Kept.cut2 (p := x) ?_ fun _ => ?_) <;> [(unfold x; clear x); (clear_value x; rename' x => y)])
      | (clear_value x; rename' x => y)
      | rename' x => y)
    | with_reducible first
      | apply State.accessStatus_kept | apply State.delCmd_kept | apply State.atomicDo_kept | apply State.countCtx_kept
      | apply State.atomicLand_kept
    | split
    | (refine Kept.snd (by assumption) ?_)

theorem State.atomicSend_kept {m : Nat} {r s : State} (h : Kept m r s) a b c d (hm : Sub 0x602b7481a m := by exact Sub.le (by assumption) (by decide)) :
    Kept m r (s.atomicSend a b c d) := by
  unfold State.atomicSend
  repeat' first
    | with_reducible assumption
    | exact Sub.le (by assumption) (by decide)
    | (extract_lets +onlyGivenNames x; first
      | (have _t : State := by with_reducible apply x
         clear _t; (refine Kept.cut (s := x) ?_ fun _ => ?_) <;> [(unfold x; clear x); (clear_value x; rename' x => y)])
      | (have _t : State := by with_reducible apply x.2
         clear _t; (refine Kept.cut2 (p := x) ?_ fun _ => ?_) <;> [(unfold x; clear x); (clear_value x; rename' x => y)])
      | (clear_value x; rename' x => y)
      | rename' x => y)
    | with_reducible first
      | apply State.reserveSeq_kept | apply State.setCmd_kept | apply State.launch_kept | apply State.clock_kept
      | apply State.delCmd_kept | apply State.dropTxPkt_kept
    | split
    | (refine Kept.snd (by assumption) ?_)

theorem State.cacheCopy_kept {m : Nat} {r s : State} (h : Kept m r s) a b c d (hm : Sub 0x810 m := by exact Sub.le (by assumption) (by decide)) :
    Kept m r (s.cacheCopy a b c d) :=
  State.setCmd_kept (State.bump_kept (State.setAe_kept h ..) ..) ..

theorem State.fetchGo_kept {m : Nat} {r s : State} (h : Kept m r s) a b c (hm : Sub 0x602b7c81a m := by exact Sub.le (by assumption) (by decide)) :
    Kept m r (s.fetchGo a b c) := by
  unfold State.fetchGo
  repeat' first
    | with_reducible assumption
    | exact Sub.le (by assumption) (by decide)
    | (extract_lets +onlyGivenNames x; first
      | (have _t : State := by with_reducible apply x
         clear _t; (refine Kept.cut (s := x) ?_ fun _ => ?_) <;> [(unfold x; clear x); (clear_value x; rename' x => y)])
      | (have _t : State := by with_reducible apply x.2
         clear _t; (refine Kept.cut2 (p := x) ?_ fun _ => ?_) <;> [(unfold x; clear x); (clear_value x; rename' x => y)])
      | (clear_value x; rename' x => y)
      | rename' x => y)
    | with_reducible first
      | apply State.accessStatus_kept | apply State.setCmd_kept | apply State.bump_kept | apply State.aeAskAll_kept
    | split
    | (refine Kept.snd (by assumption) ?_)

theorem State.doGrant_kept {m : Nat} {r s : State} (h : Kept m r s) (a : Sys2Proof.Machine.State → ℕ → Sys2Proof.Word → Sys2Proof.Machine.State) b c d (ha : ∀ (s : State) z1 z2, Kept m r s → Kept m r (a s z1 z2)) (hm : Sub 0x602b7e87a m := by exact Sub.le (by assumption) (by decide)) :
    Kept m r (s.doGrant a b c d) := by
  unfold State.doGrant
  repeat' first
    | with_reducible assumption
    | exact Sub.le (by assumption) (by decide)
    | intro _
    | (extract_lets +onlyGivenNames x; first
      | (have _t : State := by with_reducible apply x
         clear _t; (refine Kept.cut (s := x) ?_ fun _ => ?_) <;> [(unfold x; clear x); (clear_value x; rename' x => y)])
      | (have _t : State := by with_reducible apply x.2
         clear _t; (refine Kept.cut2 (p := x) ?_ fun _ => ?_) <;> [(unfold x; clear x); (clear_value x; rename' x => y)])
      | (clear_value x; rename' x => y)
      | rename' x => y)
    | with_reducible first
      | apply State.setAe_kept | apply State.setCmd_kept | refine State.ctxNeed_kept ?_ (by assumption)
      | apply State.ctxNeedD_kept | apply State.cacheCopy_kept | apply State.bump_kept | apply State.gatherGo_kept
      | apply State.fetchGo_kept | apply State.aePutEnd_kept | apply State.addReads_kept | apply State.putGo_kept
      | apply State.delCmd_kept | apply State.atomicHere_kept | apply State.atomicSend_kept | apply ha
    | split
    | (refine Kept.snd (by assumption) ?_)

theorem State.doPiece_kept {m : Nat} {r s : State} (h : Kept m r s) (a : Sys2Proof.Machine.State → ℕ → Sys2Proof.Word → Sys2Proof.Machine.State) b c d (ha : ∀ (s : State) z1 z2, Kept m r s → Kept m r (a s z1 z2)) (hm : Sub 0x602b7e83a m := by exact Sub.le (by assumption) (by decide)) :
    Kept m r (s.doPiece a b c d) := by
  unfold State.doPiece
  repeat' first
    | with_reducible assumption
    | exact Sub.le (by assumption) (by decide)
    | intro _
    | (extract_lets +onlyGivenNames x; first
      | (have _t : State := by with_reducible apply x
         clear _t; (refine Kept.cut (s := x) ?_ fun _ => ?_) <;> [(unfold x; clear x); (clear_value x; rename' x => y)])
      | (have _t : State := by with_reducible apply x.2
         clear _t; (refine Kept.cut2 (p := x) ?_ fun _ => ?_) <;> [(unfold x; clear x); (clear_value x; rename' x => y)])
      | (clear_value x; rename' x => y)
      | rename' x => y)
    | with_reducible first
      | apply State.setAe_kept | apply State.energy_kept | apply State.noteWrite_kept | apply State.spadWrite_kept
      | apply State.setCmd_kept | apply State.putGo_kept | apply ha
    | split
    | (refine Kept.snd (by assumption) ?_)

theorem State.doPcServe_kept {m : Nat} {r s : State} (h : Kept m r s) a b c d (hm : Sub 0x602b7e85a m := by exact Sub.le (by assumption) (by decide)) :
    Kept m r (s.doPcServe a b c d) := by
  unfold State.doPcServe
  repeat' first
    | with_reducible assumption
    | exact Sub.le (by assumption) (by decide)
    | (extract_lets +onlyGivenNames x; first
      | (have _t : State := by with_reducible apply x
         clear _t; (refine Kept.cut (s := x) ?_ fun _ => ?_) <;> [(unfold x; clear x); (clear_value x; rename' x => y)])
      | (have _t : State := by with_reducible apply x.2
         clear _t; (refine Kept.cut2 (p := x) ?_ fun _ => ?_) <;> [(unfold x; clear x); (clear_value x; rename' x => y)])
      | (clear_value x; rename' x => y)
      | rename' x => y)
    | with_reducible first
      | apply State.setBankQueue_kept | apply State.aeWritten_kept | apply State.aeData_kept | apply State.bump_kept
      | apply State.energy_kept | apply State.setStk_kept | apply State.countTransfer_kept | apply State.eccWrite_kept
      | apply State.eccRead_kept | apply State.aeAskRows_kept
    | split
    | (refine Kept.snd (by assumption) ?_)

theorem execPcServe_kept {m : Nat} {r s : State} (h : Kept m r s) a b c (hm : Sub 0x602b7e85a m := by exact Sub.le (by assumption) (by decide)) :
    KeptRes m r (execPcServe a b c s) := by
  unfold execPcServe; split
  · exact .refused _
  · exact KeptRes.when (State.clock_kept (State.doPcServe_kept h ..) ..) ..

theorem State.doBankqRetry_kept {m : Nat} {r s : State} (h : Kept m r s) a b c (hm : Sub 0x8810 m := by exact Sub.le (by assumption) (by decide)) :
    Kept m r (s.doBankqRetry a b c) := by
  unfold State.doBankqRetry
  repeat' first
    | with_reducible assumption
    | exact Sub.le (by assumption) (by decide)
    | (extract_lets +onlyGivenNames x; first
      | (have _t : State := by with_reducible apply x
         clear _t; (refine Kept.cut (s := x) ?_ fun _ => ?_) <;> [(unfold x; clear x); (clear_value x; rename' x => y)])
      | (have _t : State := by with_reducible apply x.2
         clear _t; (refine Kept.cut2 (p := x) ?_ fun _ => ?_) <;> [(unfold x; clear x); (clear_value x; rename' x => y)])
      | (clear_value x; rename' x => y)
      | rename' x => y)
    | with_reducible first
      | apply State.setAe_kept | apply State.bankOffer_kept
    | split
    | (refine Kept.snd (by assumption) ?_)

theorem execBankqRetry_kept {m : Nat} {r s : State} (h : Kept m r s) a b c (hm : Sub 0xc810 m := by exact Sub.le (by assumption) (by decide)) :
    KeptRes m r (execBankqRetry a b c s) := by
  unfold execBankqRetry; split
  · exact .refused _
  · exact .of (State.clock_kept (State.doBankqRetry_kept h ..) ..)

theorem State.landSlot_kept {m : Nat} {r s : State} (h : Kept m r s) a b c (hm : Sub 0x800 m := by exact Sub.le (by assumption) (by decide)) :
    Kept m r (s.landSlot a b c) := by
  unfold State.landSlot
  repeat' first
    | with_reducible assumption
    | exact Sub.le (by assumption) (by decide)
    | (extract_lets +onlyGivenNames x; first
      | (have _t : State := by with_reducible apply x
         clear _t; (refine Kept.cut (s := x) ?_ fun _ => ?_) <;> [(unfold x; clear x); (clear_value x; rename' x => y)])
      | (have _t : State := by with_reducible apply x.2
         clear _t; (refine Kept.cut2 (p := x) ?_ fun _ => ?_) <;> [(unfold x; clear x); (clear_value x; rename' x => y)])
      | (clear_value x; rename' x => y)
      | rename' x => y)
    | with_reducible first
      | apply State.setTq_kept
    | split
    | (refine Kept.snd (by assumption) ?_)

theorem State.countLand_kept {m : Nat} {r s : State} (h : Kept m r s) a b (hm : Sub 0x10 m := by exact Sub.le (by assumption) (by decide)) :
    Kept m r (s.countLand a b) := by
  unfold State.countLand
  repeat' first
    | with_reducible assumption
    | exact Sub.le (by assumption) (by decide)
    | with_reducible first
      | apply State.bump_kept
    | split
    | (refine Kept.snd (by assumption) ?_)

theorem State.doTileLand_kept {m : Nat} {r s : State} (h : Kept m r s) a b c (hm : Sub 0x602b76830 m := by exact Sub.le (by assumption) (by decide)) :
    Kept m r (s.doTileLand a b c) := by
  unfold State.doTileLand
  repeat' first
    | with_reducible assumption
    | exact Sub.le (by assumption) (by decide)
    | (extract_lets +onlyGivenNames x; first
      | (have _t : State := by with_reducible apply x
         clear _t; (refine Kept.cut (s := x) ?_ fun _ => ?_) <;> [(unfold x; clear x); (clear_value x; rename' x => y)])
      | (have _t : State := by with_reducible apply x.2
         clear _t; (refine Kept.cut2 (p := x) ?_ fun _ => ?_) <;> [(unfold x; clear x); (clear_value x; rename' x => y)])
      | (clear_value x; rename' x => y)
      | rename' x => y)
    | with_reducible first
      | apply State.aeLandEnd_kept | apply State.versionSkew_kept | apply State.cacheInsert_kept | apply State.noteWrite_kept
      | apply State.spadWrite_kept | apply State.countLand_kept | apply State.landSlot_kept | apply State.setAe_kept
    | split
    | (refine Kept.snd (by assumption) ?_)

theorem State.doRelayHop_kept {m : Nat} {r s : State} (h : Kept m r s) a b c d (hm : Sub 0x602b76830 m := by exact Sub.le (by assumption) (by decide)) :
    Kept m r (s.doRelayHop a b c d) := by
  unfold State.doRelayHop
  repeat' first
    | with_reducible assumption
    | exact Sub.le (by assumption) (by decide)
    | (extract_lets +onlyGivenNames x; first
      | (have _t : State := by with_reducible apply x
         clear _t; (refine Kept.cut (s := x) ?_ fun _ => ?_) <;> [(unfold x; clear x); (clear_value x; rename' x => y)])
      | (have _t : State := by with_reducible apply x.2
         clear _t; (refine Kept.cut2 (p := x) ?_ fun _ => ?_) <;> [(unfold x; clear x); (clear_value x; rename' x => y)])
      | (clear_value x; rename' x => y)
      | rename' x => y)
    | with_reducible first
      | apply State.setAe_kept | apply State.spadWrite_kept | apply State.setTq_kept | apply State.energy_kept
      | apply State.noteWrite_kept | apply State.bump_kept
    | split
    | (refine Kept.snd (by assumption) ?_)

theorem execRelayHop_kept {m : Nat} {r s : State} (h : Kept m r s) a b (hm : Sub 0x602b76830 m := by exact Sub.le (by assumption) (by decide)) :
    KeptRes m r (execRelayHop a b s) := by
  unfold execRelayHop; split
  · exact KeptRes.when (State.clock_kept (State.doRelayHop_kept h ..) ..) ..
  · exact .refused _

theorem State.doProbe_kept {m : Nat} {r s : State} (h : Kept m r s) a b c (hm : Sub 0x810 m := by exact Sub.le (by assumption) (by decide)) :
    Kept m r (s.doProbe a b c) := by
  unfold State.doProbe
  repeat' first
    | with_reducible assumption
    | exact Sub.le (by assumption) (by decide)
    | (extract_lets +onlyGivenNames x; first
      | (have _t : State := by with_reducible apply x
         clear _t; (refine Kept.cut (s := x) ?_ fun _ => ?_) <;> [(unfold x; clear x); (clear_value x; rename' x => y)])
      | (have _t : State := by with_reducible apply x.2
         clear _t; (refine Kept.cut2 (p := x) ?_ fun _ => ?_) <;> [(unfold x; clear x); (clear_value x; rename' x => y)])
      | (clear_value x; rename' x => y)
      | rename' x => y)
    | with_reducible first
      | apply State.bump_kept | apply State.setAe_kept | apply State.setCmd_kept | apply State.setTq_kept
    | split
    | (refine Kept.snd (by assumption) ?_)

theorem execZeroProbeResult_kept {m : Nat} {r s : State} (h : Kept m r s) a b c (hm : Sub 0x4810 m := by exact Sub.le (by assumption) (by decide)) :
    KeptRes m r (execZeroProbeResult a b c s) := by
  unfold execZeroProbeResult; split
  · exact .refused _
  · exact KeptRes.when (State.clock_kept (State.doProbe_kept h ..) ..) ..

theorem State.chainPut_kept {m : Nat} {r s : State} (h : Kept m r s) a b c d (hm : Sub 0x602b74810 m := by exact Sub.le (by assumption) (by decide)) :
    Kept m r (s.chainPut a b c d) := by
  unfold State.chainPut
  repeat' first
    | with_reducible assumption
    | exact Sub.le (by assumption) (by decide)
    | intro _
    | (extract_lets +onlyGivenNames x; first
      | (have _t : State := by with_reducible apply x
         clear _t; (refine Kept.cut (s := x) ?_ fun _ => ?_) <;> [(unfold x; clear x); (clear_value x; rename' x => y)])
      | (have _t : State := by with_reducible apply x.2
         clear _t; (refine Kept.cut2 (p := x) ?_ fun _ => ?_) <;> [(unfold x; clear x); (clear_value x; rename' x => y)])
      | (clear_value x; rename' x => y)
      | rename' x => y)
    | with_reducible first
      | apply State.aeDiscard_kept | apply State.aeAdd_kept | apply Kept.foldl | apply Kept.foldl2
    | split
    | (refine Kept.snd (by assumption) ?_)

theorem State.doChainRow_kept {m : Nat} {r s : State} (h : Kept m r s) a b c d e (hm : Sub 0x602b74e10 m := by exact Sub.le (by assumption) (by decide)) :
    Kept m r (s.doChainRow a b c d e) := by
  unfold State.doChainRow
  repeat' first
    | with_reducible assumption
    | exact Sub.le (by assumption) (by decide)
    | intro _
    | (extract_lets +onlyGivenNames x; first
      | (have _t : State := by with_reducible apply x
         clear _t; (refine Kept.cut (s := x) ?_ fun _ => ?_) <;> [(unfold x; clear x); (clear_value x; rename' x => y)])
      | (have _t : State := by with_reducible apply x.2
         clear _t; (refine Kept.cut2 (p := x) ?_ fun _ => ?_) <;> [(unfold x; clear x); (clear_value x; rename' x => y)])
      | (clear_value x; rename' x => y)
      | rename' x => y)
    | with_reducible first
      | apply State.readRow_kept | apply State.energy_kept | apply State.bump_kept | apply State.setCvu_kept
      | apply State.setF_kept | apply State.chainPut_kept | apply State.setEng_kept | apply Kept.foldl | apply Kept.foldl2
    | split
    | (refine Kept.snd (by assumption) ?_)

theorem execChainRow_kept {m : Nat} {r s : State} (h : Kept m r s) a b c (hm : Sub 0x602b74e10 m := by exact Sub.le (by assumption) (by decide)) :
    KeptRes m r (execChainRow a b c s) := by
  unfold execChainRow
  repeat' first
    | with_reducible assumption
    | exact Sub.le (by assumption) (by decide)
    | with_reducible first
      | exact KeptRes.refused _ | apply KeptRes.when | apply State.clock_kept | apply State.doChainRow_kept
    | split
    | (refine Kept.snd (by assumption) ?_)

theorem State.doColl_kept {m : Nat} {r s : State} (h : Kept m r s) a b c d (hm : Sub 0x603b7681a m := by exact Sub.le (by assumption) (by decide)) :
    Kept m r (s.doColl a b c d) := by
  unfold State.doColl
  repeat' first
    | with_reducible assumption
    | exact Sub.le (by assumption) (by decide)
    | (extract_lets +onlyGivenNames x; first
      | (have _t : State := by with_reducible apply x
         clear _t; (refine Kept.cut (s := x) ?_ fun _ => ?_) <;> [(unfold x; clear x); (clear_value x; rename' x => y)])
      | (have _t : State := by with_reducible apply x.2
         clear _t; (refine Kept.cut2 (p := x) ?_ fun _ => ?_) <;> [(unfold x; clear x); (clear_value x; rename' x => y)])
      | (clear_value x; rename' x => y)
      | rename' x => y)
    | with_reducible first
      | apply State.aeDiscard_kept | apply State.mergeStop_kept | apply State.runUnheld_kept | apply State.aeAdd_kept
    | split
    | (refine Kept.snd (by assumption) ?_)

theorem State.collRes_kept {m : Nat} {r s : State} (h : Kept m r s) a b c d (hm : Sub 0x603b7681a m := by exact Sub.le (by assumption) (by decide)) :
    KeptRes m r (s.collRes a b c d) :=
  KeptRes.whenWf (State.clock_kept (State.doColl_kept h ..) ..) ..

theorem execCollAllreduce_kept {m : Nat} {r s : State} (h : Kept m r s) a b c (hm : Sub 0x603b7681a m := by exact Sub.le (by assumption) (by decide)) :
    KeptRes m r (execCollAllreduce a b c s) :=
  State.collRes_kept h ..

theorem execCollRscatter_kept {m : Nat} {r s : State} (h : Kept m r s) a b c (hm : Sub 0x603b7681a m := by exact Sub.le (by assumption) (by decide)) :
    KeptRes m r (execCollRscatter a b c s) :=
  State.collRes_kept h ..

theorem execCollAllgather_kept {m : Nat} {r s : State} (h : Kept m r s) a b c (hm : Sub 0x603b7681a m := by exact Sub.le (by assumption) (by decide)) :
    KeptRes m r (execCollAllgather a b c s) :=
  State.collRes_kept h ..

theorem execCollBcast_kept {m : Nat} {r s : State} (h : Kept m r s) a b c (hm : Sub 0x603b7681a m := by exact Sub.le (by assumption) (by decide)) :
    KeptRes m r (execCollBcast a b c s) :=
  State.collRes_kept h ..

theorem execCollPermute_kept {m : Nat} {r s : State} (h : Kept m r s) a b c (hm : Sub 0x603b7681a m := by exact Sub.le (by assumption) (by decide)) :
    KeptRes m r (execCollPermute a b c s) :=
  State.collRes_kept h ..

theorem execCollEpoch_kept {m : Nat} {r s : State} (h : Kept m r s) a b c (hm : Sub 0x603b7681a m := by exact Sub.le (by assumption) (by decide)) :
    KeptRes m r (execCollEpoch a b c s) :=
  State.collRes_kept h ..

end Sys2Proof.Machine
end

