-- ==== Sys2Proof/Laws/KeptColl.lean ====
section
/-! SUPPORT. What `Kept` says of collectives, links, arriving packets and job records: one lemma per function, citing those of the functions it calls. -/

set_option linter.unreachableTactic false
set_option linter.unusedTactic false
set_option linter.tactic.unusedName false

namespace Sys2Proof.Machine

set_option Elab.async false

open Sys2Proof

theorem State.memRead_kept {m : Nat} {r s : State} (h : Kept m r s) a b c (hm : Sub 0x602b74010 m := by exact Sub.le (by assumption) (by decide)) :
    Kept m r (s.memRead a b c).2 := by
  unfold State.memRead
  repeat' first
    | with_reducible assumption
    | exact Sub.le (by assumption) (by decide)
    | with_reducible first
      | apply State.hbmRead_kept
    | split
    | (refine Kept.snd (by assumption) ?_)

theorem State.memWrite_kept {m : Nat} {r s : State} (h : Kept m r s) a b c (hm : Sub 0x602b7c870 m := by exact Sub.le (by assumption) (by decide)) :
    Kept m r (s.memWrite a b c) := by
  unfold State.memWrite
  repeat' first
    | with_reducible assumption
    | exact Sub.le (by assumption) (by decide)
    | with_reducible first
      | apply State.hbmWrite_kept | apply State.spadWrite_kept
    | split
    | (refine Kept.snd (by assumption) ?_)

theorem State.setRun_kept {m : Nat} {r s : State} (h : Kept m r s) a (hm : Sub 0x1000000 m := by exact Sub.le (by assumption) (by decide)) :
    Kept m r (s.setRun a) :=
  .upd h rfl

theorem State.dropRun_kept {m : Nat} {r s : State} (h : Kept m r s) a (hm : Sub 0x1000000 m := by exact Sub.le (by assumption) (by decide)) :
    Kept m r (s.dropRun a) :=
  .upd h rfl

theorem State.collForget_kept {m : Nat} {r s : State} (h : Kept m r s) a b (hm : Sub 0x1000000 m := by exact Sub.le (by assumption) (by decide)) :
    Kept m r (s.collForget a b) :=
  .upd h rfl

theorem State.collFail_kept {m : Nat} {r s : State} (h : Kept m r s) a b c d (hm : Sub 0x603b74010 m := by exact Sub.le (by assumption) (by decide)) :
    Kept m r (s.collFail a b c d) := by
  unfold State.collFail
  repeat' first
    | with_reducible assumption
    | exact Sub.le (by assumption) (by decide)
    | (extract_lets +onlyGivenNames x; first
      | (have _t : State := by with_reducible apply x
         clear _t; (refine Kept.cut (s := x) ?_ fun _ => ?_) <;> [(unfold x; clear x); (clear_value x; rename' x => y)])
      | (have _t : State := by with_reducible apply x.2
         clear _t; (refine Kept.cut2 (p := x) ?_ fun _ => ?_) <;> [(unfold x; clear x); (clear_value x; rename' x => y)])
      | (clear_value x; rename' x => y)
      | rename' x => y)
    | with_reducible first
      | apply State.collForget_kept | apply State.dropRun_kept | apply State.bump_kept | apply State.setF_kept
      | apply State.record_kept
    | split
    | (refine Kept.snd (by assumption) ?_)

theorem State.collSucceed_kept {m : Nat} {r s : State} (h : Kept m r s) a (hm : Sub 0x603b76010 m := by exact Sub.le (by assumption) (by decide)) :
    Kept m r (s.collSucceed a) := by
  unfold State.collSucceed
  repeat' first
    | with_reducible assumption
    | exact Sub.le (by assumption) (by decide)
    | (extract_lets +onlyGivenNames x; first
      | (have _t : State := by with_reducible apply x
         clear _t; (refine Kept.cut (s := x) ?_ fun _ => ?_) <;> [(unfold x; clear x); (clear_value x; rename' x => y)])
      | (have _t : State := by with_reducible apply x.2
         clear _t; (refine Kept.cut2 (p := x) ?_ fun _ => ?_) <;> [(unfold x; clear x); (clear_value x; rename' x => y)])
      | (clear_value x; rename' x => y)
      | rename' x => y)
    | with_reducible first
      | apply State.collForget_kept | apply State.dropRun_kept | apply State.bump_kept | apply State.countCtx_kept
      | apply State.landSet_kept
    | split
    | (refine Kept.snd (by assumption) ?_)

theorem State.collCancel_kept {m : Nat} {r s : State} (h : Kept m r s) a (hm : Sub 0x603b74010 m := by exact Sub.le (by assumption) (by decide)) :
    Kept m r (s.collCancel a) := by
  unfold State.collCancel
  repeat' first
    | with_reducible assumption
    | exact Sub.le (by assumption) (by decide)
    | intro _
    | (extract_lets +onlyGivenNames x; first
      | (have _t : State := by with_reducible apply x
         clear _t; (refine Kept.cut (s := x) ?_ fun _ => ?_) <;> [(unfold x; clear x); (clear_value x; rename' x => y)])
      | (have _t : State := by with_reducible apply x.2
         clear _t; (refine Kept.cut2 (p := x) ?_ fun _ => ?_) <;> [(unfold x; clear x); (clear_value x; rename' x => y)])
      | (clear_value x; rename' x => y)
      | rename' x => y)
    | with_reducible first
      | apply State.collFail_kept | apply Kept.foldl | apply Kept.foldl2
    | split
    | (refine Kept.snd (by assumption) ?_)
    | (fail_if_no_progress with_reducible refine Kept.upd ?_ (by rfl))

theorem State.collPacket_kept {m : Nat} {r s : State} (h : Kept m r s) a b c d e f g i j (hm : Sub 0x602b7401a m := by exact Sub.le (by assumption) (by decide)) :
    Kept m r (s.collPacket a b c d e f g i j).2 := by
  unfold State.collPacket
  repeat' first
    | with_reducible assumption
    | exact Sub.le (by assumption) (by decide)
    | (extract_lets +onlyGivenNames x; first
      | (have _t : State := by with_reducible apply x
         clear _t; (refine Kept.cut (s := x) ?_ fun _ => ?_) <;> [(unfold x; clear x); (clear_value x; rename' x => y)])
      | (have _t : State := by with_reducible apply x.2
         clear _t; (refine Kept.cut2 (p := x) ?_ fun _ => ?_) <;> [(unfold x; clear x); (clear_value x; rename' x => y)])
      | (clear_value x; rename' x => y)
      | rename' x => y)
    | with_reducible first
      | apply State.reserveSeq_kept | apply State.bump_kept | apply State.launch_kept | apply State.dropTxPkt_kept
    | split
    | (refine Kept.snd (by assumption) ?_)

theorem State.collSend1_kept {m : Nat} {r s : State} (h : Kept m r s) a b (hm : Sub 0x603b7401a m := by exact Sub.le (by assumption) (by decide)) :
    Kept m r (s.collSend1 a b).2 := by
  unfold State.collSend1
  repeat' first
    | with_reducible assumption
    | exact Sub.le (by assumption) (by decide)
    | (extract_lets +onlyGivenNames x; first
      | (have _t : State := by with_reducible apply x
         clear _t; (refine Kept.cut (s := x) ?_ fun _ => ?_) <;> [(unfold x; clear x); (clear_value x; rename' x => y)])
      | (have _t : State := by with_reducible apply x.2
         clear _t; (refine Kept.cut2 (p := x) ?_ fun _ => ?_) <;> [(unfold x; clear x); (clear_value x; rename' x => y)])
      | (clear_value x; rename' x => y)
      | rename' x => y)
    | with_reducible first
      | apply State.reserveSeq_kept | apply State.bump_kept | apply State.launch_kept | apply State.dropTxPkt_kept
      | apply State.collPacket_kept | apply State.collFail_kept
    | split
    | (refine Kept.snd (by assumption) ?_)
    | (fail_if_no_progress with_reducible refine Kept.upd ?_ (by rfl))

theorem State.collFlush_kept {m : Nat} {r s : State} (h : Kept m r s) a (hm : Sub 0x603b7401a m := by exact Sub.le (by assumption) (by decide)) : Kept m r (s.collFlush a) := by
  unfold State.collFlush
  split
  · exact h
  refine Kept.foldl1 h fun p e h => ?_
  split
  · exact h
  · exact State.collSend1_kept h ..

theorem State.collWrite_kept {m : Nat} {r s : State} (h : Kept m r s) a b c (hm : Sub 0x602b7c870 m := by exact Sub.le (by assumption) (by decide)) :
    Kept m r (s.collWrite a b c) :=
  State.memWrite_kept h ..

theorem State.phaseBegin_kept {m : Nat} {r s : State} (h : Kept m r s) a (hm : Sub 0x603b7c87a m := by exact Sub.le (by assumption) (by decide)) :
    Kept m r (s.phaseBegin a) := by
  unfold State.phaseBegin
  repeat' first
    | with_reducible assumption
    | exact Sub.le (by assumption) (by decide)
    | (extract_lets +onlyGivenNames x; first
      | (have _t : State := by with_reducible apply x
         clear _t; (refine Kept.cut (s := x) ?_ fun _ => ?_) <;> [(unfold x; clear x); (clear_value x; rename' x => y)])
      | (have _t : State := by with_reducible apply x.2
         clear _t; (refine Kept.cut2 (p := x) ?_ fun _ => ?_) <;> [(unfold x; clear x); (clear_value x; rename' x => y)])
      | (clear_value x; rename' x => y)
      | rename' x => y)
    | with_reducible first
      | apply State.collWrite_kept | apply State.setRun_kept | apply State.collFlush_kept
    | split
    | (refine Kept.snd (by assumption) ?_)

theorem State.phaseTake_kept {m : Nat} {r s : State} (h : Kept m r s) a b c d e f (hm : Sub 0x602b7c870 m := by exact Sub.le (by assumption) (by decide)) :
    Kept m r (s.phaseTake a b c d e f).2 := by
  unfold State.phaseTake
  repeat' first
    | with_reducible assumption
    | exact Sub.le (by assumption) (by decide)
    | intro _
    | (extract_lets +onlyGivenNames x; first
      | (have _t : State := by with_reducible apply x
         clear _t; (refine Kept.cut (s := x) ?_ fun _ => ?_) <;> [(unfold x; clear x); (clear_value x; rename' x => y)])
      | (have _t : State := by with_reducible apply x.2
         clear _t; (refine Kept.cut2 (p := x) ?_ fun _ => ?_) <;> [(unfold x; clear x); (clear_value x; rename' x => y)])
      | (clear_value x; rename' x => y)
      | rename' x => y)
    | with_reducible first
      | apply State.bump_kept | apply State.collWrite_kept | apply Kept.foldl | apply Kept.foldl2
    | split
    | (refine Kept.snd (by assumption) ?_)

theorem State.collTake_kept {m : Nat} {r s : State} (h : Kept m r s) a b (hm : Sub 0x603b7c87a m := by exact Sub.le (by assumption) (by decide)) :
    Kept m r (s.collTake a b) := by
  unfold State.collTake
  repeat' first
    | with_reducible assumption
    | exact Sub.le (by assumption) (by decide)
    | (extract_lets +onlyGivenNames x; first
      | (have _t : State := by with_reducible apply x
         clear _t; (refine Kept.cut (s := x) ?_ fun _ => ?_) <;> [(unfold x; clear x); (clear_value x; rename' x => y)])
      | (have _t : State := by with_reducible apply x.2
         clear _t; (refine Kept.cut2 (p := x) ?_ fun _ => ?_) <;> [(unfold x; clear x); (clear_value x; rename' x => y)])
      | (clear_value x; rename' x => y)
      | rename' x => y)
    | with_reducible first
      | apply State.setRun_kept | apply State.memWrite_kept | apply State.phaseTake_kept | apply State.collFlush_kept
    | split
    | (refine Kept.snd (by assumption) ?_)

theorem State.collAdvance_kept {m : Nat} {r s : State} (h : Kept m r s) a b (hm : Sub 0x603b7c87a m := by exact Sub.le (by assumption) (by decide)) : Kept m r (s.collAdvance a b) := by
  induction b generalizing s with
  | zero => exact h
  | succ n ih =>
    unfold State.collAdvance
    split
    · exact h
    split
    · exact ih (Kept.foldl (State.phaseBegin_kept (State.setRun_kept h ..) ..) fun s k h => State.collTake_kept h ..)
    · exact h

theorem State.permuteBegin_kept {m : Nat} {r s : State} (h : Kept m r s) a b (hm : Sub 0x603b7c87a m := by exact Sub.le (by assumption) (by decide)) :
    Kept m r (s.permuteBegin a b) := by
  unfold State.permuteBegin
  repeat' first
    | with_reducible assumption
    | exact Sub.le (by assumption) (by decide)
    | intro _
    | (extract_lets +onlyGivenNames x; first
      | (have _t : State := by with_reducible apply x
         clear _t; (refine Kept.cut (s := x) ?_ fun _ => ?_) <;> [(unfold x; clear x); (clear_value x; rename' x => y)])
      | (have _t : State := by with_reducible apply x.2
         clear _t; (refine Kept.cut2 (p := x) ?_ fun _ => ?_) <;> [(unfold x; clear x); (clear_value x; rename' x => y)])
      | (clear_value x; rename' x => y)
      | rename' x => y)
    | with_reducible first
      | apply State.collFail_kept | apply State.memRead_kept | apply State.memWrite_kept | apply State.collFlush_kept
      | apply State.setRun_kept | apply Kept.foldl | apply Kept.foldl2
    | split
    | (refine Kept.snd (by assumption) ?_)
    | (fail_if_no_progress with_reducible refine Kept.upd ?_ (by rfl))

theorem State.bcastBegin_kept {m : Nat} {r s : State} (h : Kept m r s) a (hm : Sub 0x603b7c87a m := by exact Sub.le (by assumption) (by decide)) :
    Kept m r (s.bcastBegin a) := by
  unfold State.bcastBegin
  repeat' first
    | with_reducible assumption
    | exact Sub.le (by assumption) (by decide)
    | (extract_lets +onlyGivenNames x; first
      | (have _t : State := by with_reducible apply x
         clear _t; (refine Kept.cut (s := x) ?_ fun _ => ?_) <;> [(unfold x; clear x); (clear_value x; rename' x => y)])
      | (have _t : State := by with_reducible apply x.2
         clear _t; (refine Kept.cut2 (p := x) ?_ fun _ => ?_) <;> [(unfold x; clear x); (clear_value x; rename' x => y)])
      | (clear_value x; rename' x => y)
      | rename' x => y)
    | with_reducible first
      | apply State.memRead_kept | apply State.memWrite_kept | apply State.setRun_kept | apply State.collFlush_kept
    | split
    | (refine Kept.snd (by assumption) ?_)

theorem State.collBegin_kept {m : Nat} {r s : State} (h : Kept m r s) a b (hm : Sub 0x603b7c87a m := by exact Sub.le (by assumption) (by decide)) :
    Kept m r (s.collBegin a b) := by
  unfold State.collBegin
  repeat' first
    | with_reducible assumption
    | exact Sub.le (by assumption) (by decide)
    | intro _
    | (extract_lets +onlyGivenNames x; first
      | (have _t : State := by with_reducible apply x
         clear _t; (refine Kept.cut (s := x) ?_ fun _ => ?_) <;> [(unfold x; clear x); (clear_value x; rename' x => y)])
      | (have _t : State := by with_reducible apply x.2
         clear _t; (refine Kept.cut2 (p := x) ?_ fun _ => ?_) <;> [(unfold x; clear x); (clear_value x; rename' x => y)])
      | (clear_value x; rename' x => y)
      | rename' x => y)
    | with_reducible first
      | apply State.collPacket_kept | apply State.collFail_kept | apply State.bcastBegin_kept | apply State.permuteBegin_kept
      | apply State.collAdvance_kept | apply State.phaseBegin_kept | apply Kept.foldl | apply Kept.foldl2
    | split
    | (refine Kept.snd (by assumption) ?_)

theorem State.doCollStart_kept {m : Nat} {r s : State} (h : Kept m r s) a (hm : Sub 0x603b7c87a m := by exact Sub.le (by assumption) (by decide)) :
    Kept m r (s.doCollStart a) := by
  unfold State.doCollStart
  repeat' first
    | with_reducible assumption
    | exact Sub.le (by assumption) (by decide)
    | (extract_lets +onlyGivenNames x; first
      | (have _t : State := by with_reducible apply x
         clear _t; (refine Kept.cut (s := x) ?_ fun _ => ?_) <;> [(unfold x; clear x); (clear_value x; rename' x => y)])
      | (have _t : State := by with_reducible apply x.2
         clear _t; (refine Kept.cut2 (p := x) ?_ fun _ => ?_) <;> [(unfold x; clear x); (clear_value x; rename' x => y)])
      | (clear_value x; rename' x => y)
      | rename' x => y)
    | with_reducible first
      | apply State.bump_kept | apply State.memRead_kept | apply State.inject_kept | apply State.collFail_kept
      | apply State.setRun_kept | apply State.collBegin_kept
    | split
    | (refine Kept.snd (by assumption) ?_)
    | (fail_if_no_progress with_reducible refine Kept.upd ?_ (by rfl))

theorem State.collRefill_kept {m : Nat} {r s : State} (h : Kept m r s) (hm : Sub 0x603b7681a m := by exact Sub.le (by assumption) (by decide)) :
    Kept m r (s.collRefill) := by
  unfold State.collRefill
  repeat' first
    | with_reducible assumption
    | exact Sub.le (by assumption) (by decide)
    | intro _
    | with_reducible first
      | apply State.runUnheld_kept | apply Kept.foldl | apply Kept.foldl2
    | split
    | (refine Kept.snd (by assumption) ?_)

theorem execCollStart_kept {m : Nat} {r s : State} (h : Kept m r s) a (hm : Sub 0x603b7e87a m := by exact Sub.le (by assumption) (by decide)) :
    KeptRes m r (execCollStart a s) := by
  unfold execCollStart; split
  · exact .refused _
  · exact .of (State.collRefill_kept (State.doCollStart_kept h ..) ..)

theorem State.collDataIn_kept {m : Nat} {r s : State} (h : Kept m r s) a (hm : Sub 0x603b7c87a m := by exact Sub.le (by assumption) (by decide)) :
    Kept m r (s.collDataIn a) := by
  unfold State.collDataIn
  repeat' first
    | with_reducible assumption
    | exact Sub.le (by assumption) (by decide)
    | (extract_lets +onlyGivenNames x; first
      | (have _t : State := by with_reducible apply x
         clear _t; (refine Kept.cut (s := x) ?_ fun _ => ?_) <;> [(unfold x; clear x); (clear_value x; rename' x => y)])
      | (have _t : State := by with_reducible apply x.2
         clear _t; (refine Kept.cut2 (p := x) ?_ fun _ => ?_) <;> [(unfold x; clear x); (clear_value x; rename' x => y)])
      | (clear_value x; rename' x => y)
      | rename' x => y)
    | with_reducible first
      | apply State.bump_kept | apply State.collAdvance_kept | apply State.collTake_kept
    | split
    | (refine Kept.snd (by assumption) ?_)

theorem State.collReadyIn_kept {m : Nat} {r s : State} (h : Kept m r s) a (hm : Sub 0x603b7c87a m := by exact Sub.le (by assumption) (by decide)) :
    Kept m r (s.collReadyIn a) := by
  unfold State.collReadyIn
  repeat' first
    | with_reducible assumption
    | exact Sub.le (by assumption) (by decide)
    | (extract_lets +onlyGivenNames x; first
      | (have _t : State := by with_reducible apply x
         clear _t; (refine Kept.cut (s := x) ?_ fun _ => ?_) <;> [(unfold x; clear x); (clear_value x; rename' x => y)])
      | (have _t : State := by with_reducible apply x.2
         clear _t; (refine Kept.cut2 (p := x) ?_ fun _ => ?_) <;> [(unfold x; clear x); (clear_value x; rename' x => y)])
      | (clear_value x; rename' x => y)
      | rename' x => y)
    | with_reducible first
      | apply State.collFail_kept | apply State.collAdvance_kept | apply State.collFlush_kept
    | split
    | (refine Kept.snd (by assumption) ?_)
    | (fail_if_no_progress with_reducible refine Kept.upd ?_ (by rfl))

theorem State.permuteIn_kept {m : Nat} {r s : State} (h : Kept m r s) a b c (hm : Sub 0x1000010 m := by exact Sub.le (by assumption) (by decide)) :
    Kept m r (s.permuteIn a b c) := by
  unfold State.permuteIn
  repeat' first
    | with_reducible assumption
    | exact Sub.le (by assumption) (by decide)
    | (extract_lets +onlyGivenNames x; first
      | (have _t : State := by with_reducible apply x
         clear _t; (refine Kept.cut (s := x) ?_ fun _ => ?_) <;> [(unfold x; clear x); (clear_value x; rename' x => y)])
      | (have _t : State := by with_reducible apply x.2
         clear _t; (refine Kept.cut2 (p := x) ?_ fun _ => ?_) <;> [(unfold x; clear x); (clear_value x; rename' x => y)])
      | (clear_value x; rename' x => y)
      | rename' x => y)
    | with_reducible first
      | apply State.bump_kept
    | (fail_if_no_progress with_reducible refine Kept.upd ?_ (by rfl))

theorem State.epochSwitch_kept {m : Nat} {r s : State} (h : Kept m r s) a (hm : Sub 0x603b76010 m := by exact Sub.le (by assumption) (by decide)) :
    Kept m r (s.epochSwitch a) := by
  unfold State.epochSwitch
  repeat' first
    | with_reducible assumption
    | exact Sub.le (by assumption) (by decide)
    | (extract_lets +onlyGivenNames x; first
      | (have _t : State := by with_reducible apply x
         clear _t; (refine Kept.cut (s := x) ?_ fun _ => ?_) <;> [(unfold x; clear x); (clear_value x; rename' x => y)])
      | (have _t : State := by with_reducible apply x.2
         clear _t; (refine Kept.cut2 (p := x) ?_ fun _ => ?_) <;> [(unfold x; clear x); (clear_value x; rename' x => y)])
      | (clear_value x; rename' x => y)
      | rename' x => y)
    | with_reducible first
      | apply State.setCtx_kept | apply State.collSucceed_kept | apply State.bump_kept
    | split
    | (refine Kept.snd (by assumption) ?_)
    | (fail_if_no_progress with_reducible refine Kept.upd ?_ (by rfl))

theorem State.epochCloseIn_kept {m : Nat} {r s : State} (h : Kept m r s) a (hm : Sub 0x603b76010 m := by exact Sub.le (by assumption) (by decide)) :
    Kept m r (s.epochCloseIn a) :=
  State.epochSwitch_kept (.upd h rfl) ..

theorem State.doEpochDrained_kept {m : Nat} {r s : State} (h : Kept m r s) a (hm : Sub 0x603b7601a m := by exact Sub.le (by assumption) (by decide)) :
    Kept m r (s.doEpochDrained a) := by
  unfold State.doEpochDrained
  repeat' first
    | with_reducible assumption
    | exact Sub.le (by assumption) (by decide)
    | intro _
    | (extract_lets +onlyGivenNames x; first
      | (have _t : State := by with_reducible apply x
         clear _t; (refine Kept.cut (s := x) ?_ fun _ => ?_) <;> [(unfold x; clear x); (clear_value x; rename' x => y)])
      | (have _t : State := by with_reducible apply x.2
         clear _t; (refine Kept.cut2 (p := x) ?_ fun _ => ?_) <;> [(unfold x; clear x); (clear_value x; rename' x => y)])
      | (clear_value x; rename' x => y)
      | rename' x => y)
    | with_reducible first
      | apply State.setRun_kept | apply State.collPacket_kept | apply State.epochSwitch_kept | apply Kept.foldl
      | apply Kept.foldl2
    | (fail_if_no_progress with_reducible refine Kept.upd ?_ (by rfl))

theorem execEpochFenceDrained_kept {m : Nat} {r s : State} (h : Kept m r s) a (hm : Sub 0x603b7601a m := by exact Sub.le (by assumption) (by decide)) :
    KeptRes m r (execEpochFenceDrained a s) := by
  unfold execEpochFenceDrained; split
  · exact .refused _
  · exact KeptRes.when (State.doEpochDrained_kept h ..) ..

theorem execCollComplete_kept {m : Nat} {r s : State} (h : Kept m r s) a (hm : Sub 0x603b76010 m := by exact Sub.le (by assumption) (by decide)) :
    KeptRes m r (execCollComplete a s) := by
  unfold execCollComplete; split
  · exact .refused _
  · exact KeptRes.when (State.collSucceed_kept h ..) ..

theorem State.collAnswer_kept {m : Nat} {r s : State} (h : Kept m r s) a b c (hm : Sub 0x603b7c87a m := by exact Sub.le (by assumption) (by decide)) :
    Kept m r (s.collAnswer a b c) := by
  unfold State.collAnswer
  repeat' first
    | with_reducible assumption
    | exact Sub.le (by assumption) (by decide)
    | with_reducible first
      | apply State.collAdvance_kept | apply State.collFlush_kept | apply State.collFail_kept
    | split
    | (refine Kept.snd (by assumption) ?_)

theorem State.extendWatches_kept {m : Nat} {r s : State} (h : Kept m r s) a (hm : Sub 0x1004800 m := by exact Sub.le (by assumption) (by decide)) :
    Kept m r (s.extendWatches a) := by
  unfold State.extendWatches
  repeat' first
    | with_reducible assumption
    | exact Sub.le (by assumption) (by decide)
    | (extract_lets +onlyGivenNames x; first
      | (have _t : State := by with_reducible apply x
         clear _t; (refine Kept.cut (s := x) ?_ fun _ => ?_) <;> [(unfold x; clear x); (clear_value x; rename' x => y)])
      | (have _t : State := by with_reducible apply x.2
         clear _t; (refine Kept.cut2 (p := x) ?_ fun _ => ?_) <;> [(unfold x; clear x); (clear_value x; rename' x => y)])
      | (clear_value x; rename' x => y)
      | rename' x => y)
    | split
    | (refine Kept.snd (by assumption) ?_)
    | (fail_if_no_progress with_reducible refine Kept.upd ?_ (by rfl))

theorem State.setSlow_kept {m : Nat} {r s : State} (h : Kept m r s) a (hm : Sub 0x1014800 m := by exact Sub.le (by assumption) (by decide)) :
    Kept m r (s.setSlow a) :=
  State.extendWatches_kept (State.setCtx_kept h ..) ..

theorem State.clearSlow_kept {m : Nat} {r s : State} (h : Kept m r s) a (hm : Sub 0x1014800 m := by exact Sub.le (by assumption) (by decide)) :
    Kept m r (s.clearSlow a) := by
  unfold State.clearSlow
  repeat' first
    | with_reducible assumption
    | exact Sub.le (by assumption) (by decide)
    | (extract_lets +onlyGivenNames x; first
      | (have _t : State := by with_reducible apply x
         clear _t; (refine Kept.cut (s := x) ?_ fun _ => ?_) <;> [(unfold x; clear x); (clear_value x; rename' x => y)])
      | (have _t : State := by with_reducible apply x.2
         clear _t; (refine Kept.cut2 (p := x) ?_ fun _ => ?_) <;> [(unfold x; clear x); (clear_value x; rename' x => y)])
      | (clear_value x; rename' x => y)
      | rename' x => y)
    | with_reducible first
      | apply State.extendWatches_kept | apply State.setCtx_kept
    | split
    | (refine Kept.snd (by assumption) ?_)

theorem State.doEpochExpire_kept {m : Nat} {r s : State} (h : Kept m r s) a b (hm : Sub 0x603b74010 m := by exact Sub.le (by assumption) (by decide)) :
    Kept m r (s.doEpochExpire a b) :=
  State.waitTimeout_kept (State.setRun_kept h ..) ..

theorem execFenceWatchdogExpire_kept {m : Nat} {r s : State} (h : Kept m r s) a (hm : Sub 0x603b74810 m := by exact Sub.le (by assumption) (by decide)) :
    KeptRes m r (execFenceWatchdogExpire a s) := by
  unfold execFenceWatchdogExpire
  repeat' first
    | with_reducible assumption
    | exact Sub.le (by assumption) (by decide)
    | with_reducible first
      | exact KeptRes.refused _ | apply KeptRes.of | apply State.doFenceExpire_kept | apply State.doEpochExpire_kept
    | split
    | (refine Kept.snd (by assumption) ?_)

theorem State.deliver_kept {m : Nat} {r s : State} (h : Kept m r s) a b c d (hm : Sub 0x603b7e87a m := by exact Sub.le (by assumption) (by decide)) :
    Kept m r (s.deliver a b c d) := by
  unfold State.deliver
  repeat' first
    | with_reducible assumption
    | exact Sub.le (by assumption) (by decide)
    | (extract_lets +onlyGivenNames x; first
      | (have _t : State := by with_reducible apply x
         clear _t; (refine Kept.cut (s := x) ?_ fun _ => ?_) <;> [(unfold x; clear x); (clear_value x; rename' x => y)])
      | (have _t : State := by with_reducible apply x.2
         clear _t; (refine Kept.cut2 (p := x) ?_ fun _ => ?_) <;> [(unfold x; clear x); (clear_value x; rename' x => y)])
      | (clear_value x; rename' x => y)
      | rename' x => y)
    | with_reducible first
      | apply State.aeData_kept | apply State.aeAskRows_kept | apply State.inject_kept | apply State.atomicLost_kept
      | apply State.atomicLand_kept | apply State.delCmd_kept | apply State.putAnswer_kept | apply State.collAnswer_kept
    | split
    | (refine Kept.snd (by assumption) ?_)

theorem State.txFinal_kept {m : Nat} {r s : State} (h : Kept m r s) a b c d e f (hm : Sub 0x603b7e87a m := by exact Sub.le (by assumption) (by decide)) :
    Kept m r (s.txFinal a b c d e f) :=
  State.deliver_kept (State.dropTxPkt_kept h ..) ..

theorem State.resendPkt_kept {m : Nat} {r s : State} (h : Kept m r s) a b c (hm : Sub 0x603b7e87a m := by exact Sub.le (by assumption) (by decide)) :
    Kept m r (s.resendPkt a b c) := by
  unfold State.resendPkt
  repeat' first
    | with_reducible assumption
    | exact Sub.le (by assumption) (by decide)
    | (extract_lets +onlyGivenNames x; first
      | (have _t : State := by with_reducible apply x
         clear _t; (refine Kept.cut (s := x) ?_ fun _ => ?_) <;> [(unfold x; clear x); (clear_value x; rename' x => y)])
      | (have _t : State := by with_reducible apply x.2
         clear _t; (refine Kept.cut2 (p := x) ?_ fun _ => ?_) <;> [(unfold x; clear x); (clear_value x; rename' x => y)])
      | (clear_value x; rename' x => y)
      | rename' x => y)
    | with_reducible first
      | apply State.setF_kept | apply State.record_kept | apply State.txFinal_kept | apply State.relaunch_kept
    | split
    | (refine Kept.snd (by assumption) ?_)

theorem State.answered_kept {m : Nat} {r s : State} (h : Kept m r s) a b c d e f g (hm : Sub 0x603b7e87a m := by exact Sub.le (by assumption) (by decide)) :
    Kept m r (s.answered a b c d e f g) := by
  unfold State.answered
  repeat' first
    | with_reducible assumption
    | exact Sub.le (by assumption) (by decide)
    | (extract_lets +onlyGivenNames x; first
      | (have _t : State := by with_reducible apply x
         clear _t; (refine Kept.cut (s := x) ?_ fun _ => ?_) <;> [(unfold x; clear x); (clear_value x; rename' x => y)])
      | (have _t : State := by with_reducible apply x.2
         clear _t; (refine Kept.cut2 (p := x) ?_ fun _ => ?_) <;> [(unfold x; clear x); (clear_value x; rename' x => y)])
      | (clear_value x; rename' x => y)
      | rename' x => y)
    | with_reducible first
      | apply State.resendPkt_kept | apply State.setTxPkt_kept | apply State.txFinal_kept
    | split
    | (refine Kept.snd (by assumption) ?_)

theorem execRetryTimeout_kept {m : Nat} {r s : State} (h : Kept m r s) a b c (hm : Sub 0x603b7e87a m := by exact Sub.le (by assumption) (by decide)) :
    KeptRes m r (execRetryTimeout a b c s) := by
  unfold execRetryTimeout; split
  · exact .refused _
  · exact KeptRes.when (State.resendPkt_kept h ..) ..

theorem execResendDelay_kept {m : Nat} {r s : State} (h : Kept m r s) a b c (hm : Sub 0x603b7e87a m := by exact Sub.le (by assumption) (by decide)) :
    KeptRes m r (execResendDelay a b c s) := by
  unfold execResendDelay; split
  · exact .refused _
  · exact KeptRes.when (State.resendPkt_kept h ..) ..

theorem State.doRxFree_kept {m : Nat} {r s : State} (h : Kept m r s) a (hm : Sub 0x602b74010 m := by exact Sub.le (by assumption) (by decide)) :
    Kept m r (s.doRxFree a) := by
  unfold State.doRxFree
  repeat' first
    | with_reducible assumption
    | exact Sub.le (by assumption) (by decide)
    | (extract_lets +onlyGivenNames x; first
      | (have _t : State := by with_reducible apply x
         clear _t; (refine Kept.cut (s := x) ?_ fun _ => ?_) <;> [(unfold x; clear x); (clear_value x; rename' x => y)])
      | (have _t : State := by with_reducible apply x.2
         clear _t; (refine Kept.cut2 (p := x) ?_ fun _ => ?_) <;> [(unfold x; clear x); (clear_value x; rename' x => y)])
      | (clear_value x; rename' x => y)
      | rename' x => y)
    | with_reducible first
      | apply State.inject_kept | apply State.record_kept
    | split
    | (refine Kept.snd (by assumption) ?_)
    | (fail_if_no_progress with_reducible refine Kept.upd ?_ (by rfl))

theorem execRxStreamFree_kept {m : Nat} {r s : State} (h : Kept m r s) a b (hm : Sub 0x602b74010 m := by exact Sub.le (by assumption) (by decide)) :
    KeptRes m r (execRxStreamFree a b s) := by
  unfold execRxStreamFree; split
  · exact .refused _
  · exact KeptRes.when (State.doRxFree_kept h ..) ..

theorem execTxStreamFree_kept {m : Nat} {r s : State} (h : Kept m r s) a b (hm : Sub 0x800000 m := by exact Sub.le (by assumption) (by decide)) :
    KeptRes m r (execTxStreamFree a b s) := by
  unfold execTxStreamFree; split
  · exact .refused _
  · exact KeptRes.when (State.dropTx_kept h ..) ..

theorem execCtxRecordLoad_kept {m : Nat} {r s : State} (h : Kept m r s) a (hm : Sub 0x10010 m := by exact Sub.le (by assumption) (by decide)) :
    KeptRes m r (execCtxRecordLoad a s) := by
  unfold execCtxRecordLoad
  repeat' first
    | with_reducible assumption
    | exact Sub.le (by assumption) (by decide)
    | with_reducible first
      | exact KeptRes.refused _ | apply KeptRes.when | refine State.ctxNeed_kept ?_ (by assumption)
      | apply State.ctxNeedD_kept
    | split
    | (refine Kept.snd (by assumption) ?_)

theorem execCtxCopyResync_kept {m : Nat} {r s : State} (h : Kept m r s) a (hm : Sub 0x10000 m := by exact Sub.le (by assumption) (by decide)) :
    KeptRes m r (execCtxCopyResync a s) :=
  KeptRes.when (.upd h rfl) ..

theorem State.bodyFlit_kept {m : Nat} {r s : State} (h : Kept m r s) a b (hm : Sub 0x800000 m := by exact Sub.le (by assumption) (by decide)) :
    Kept m r (s.bodyFlit a b) :=
  .upd h rfl

theorem State.groupBad_kept {m : Nat} {r s : State} (h : Kept m r s) a (hm : Sub 0x800002 m := by exact Sub.le (by assumption) (by decide)) :
    Kept m r (s.groupBad a) :=
  State.emit_kept (State.setPort_kept h ..) ..

theorem State.groupGood_kept {m : Nat} {r s : State} (h : Kept m r s) a b (hm : Sub 0x804012 m := by exact Sub.le (by assumption) (by decide)) :
    Kept m r (s.groupGood a b) := by
  unfold State.groupGood
  repeat' first
    | with_reducible assumption
    | exact Sub.le (by assumption) (by decide)
    | intro _
    | (extract_lets +onlyGivenNames x; first
      | (have _t : State := by with_reducible apply x
         clear _t; (refine Kept.cut (s := x) ?_ fun _ => ?_) <;> [(unfold x; clear x); (clear_value x; rename' x => y)])
      | (have _t : State := by with_reducible apply x.2
         clear _t; (refine Kept.cut2 (p := x) ?_ fun _ => ?_) <;> [(unfold x; clear x); (clear_value x; rename' x => y)])
      | (clear_value x; rename' x => y)
      | rename' x => y)
    | with_reducible first
      | apply State.bump_kept | apply State.bodyFlit_kept | apply State.emit_kept | apply State.setPort_kept
      | apply State.pump_kept | apply Kept.foldl | apply Kept.foldl2
    | split
    | (refine Kept.snd (by assumption) ?_)

theorem State.doGroup_kept {m : Nat} {r s : State} (h : Kept m r s) a b (hm : Sub 0x602b74012 m := by exact Sub.le (by assumption) (by decide)) :
    Kept m r (s.doGroup a b) := by
  unfold State.doGroup
  repeat' first
    | with_reducible assumption
    | exact Sub.le (by assumption) (by decide)
    | intro _
    | (extract_lets +onlyGivenNames x; first
      | (have _t : State := by with_reducible apply x
         clear _t; (refine Kept.cut (s := x) ?_ fun _ => ?_) <;> [(unfold x; clear x); (clear_value x; rename' x => y)])
      | (have _t : State := by with_reducible apply x.2
         clear _t; (refine Kept.cut2 (p := x) ?_ fun _ => ?_) <;> [(unfold x; clear x); (clear_value x; rename' x => y)])
      | (clear_value x; rename' x => y)
      | rename' x => y)
    | with_reducible first
      | apply State.record_kept | apply State.bump_kept | apply State.inject_kept | apply State.groupBad_kept
      | apply State.groupGood_kept | apply Kept.foldl | apply Kept.foldl2
    | split
    | (refine Kept.snd (by assumption) ?_)

theorem execLinkGroupReceive_kept {m : Nat} {r s : State} (h : Kept m r s) a b (hm : Sub 0x602b74012 m := by exact Sub.le (by assumption) (by decide)) :
    KeptRes m r (execLinkGroupReceive a b s) :=
  KeptRes.whenWf (State.doGroup_kept h ..) ..

theorem State.addTransit_kept {m : Nat} {r s : State} (h : Kept m r s) a (hm : Sub 0x800000 m := by exact Sub.le (by assumption) (by decide)) :
    Kept m r (s.addTransit a) :=
  .upd h rfl

theorem State.dropTransit_kept {m : Nat} {r s : State} (h : Kept m r s) a (hm : Sub 0x800000 m := by exact Sub.le (by assumption) (by decide)) :
    Kept m r (s.dropTransit a) :=
  .upd h rfl

theorem State.answerUnless_kept {m : Nat} {r s : State} (h : Kept m r s) a b (hm : Sub 0x80401a m := by exact Sub.le (by assumption) (by decide)) :
    Kept m r (s.answerUnless a b) := by
  unfold State.answerUnless; split
  · exact h
  · exact State.answer_kept h ..

theorem State.noRoute_kept {m : Nat} {r s : State} (h : Kept m r s) a (hm : Sub 0x603b7e87a m := by exact Sub.le (by assumption) (by decide)) :
    Kept m r (s.noRoute a) := by
  unfold State.noRoute
  repeat' first
    | with_reducible assumption
    | exact Sub.le (by assumption) (by decide)
    | (extract_lets +onlyGivenNames x; first
      | (have _t : State := by with_reducible apply x
         clear _t; (refine Kept.cut (s := x) ?_ fun _ => ?_) <;> [(unfold x; clear x); (clear_value x; rename' x => y)])
      | (have _t : State := by with_reducible apply x.2
         clear _t; (refine Kept.cut2 (p := x) ?_ fun _ => ?_) <;> [(unfold x; clear x); (clear_value x; rename' x => y)])
      | (clear_value x; rename' x => y)
      | rename' x => y)
    | with_reducible first
      | apply State.setF_kept | apply State.record_kept | apply State.answered_kept | apply State.answerUnless_kept
    | split
    | (refine Kept.snd (by assumption) ?_)

theorem State.cutHere_kept {m : Nat} {r s : State} (h : Kept m r s) a (hm : Sub 0x603b7e87a m := by exact Sub.le (by assumption) (by decide)) :
    Kept m r (s.cutHere a) := by
  unfold State.cutHere
  repeat' first
    | with_reducible assumption
    | exact Sub.le (by assumption) (by decide)
    | (extract_lets +onlyGivenNames x; first
      | (have _t : State := by with_reducible apply x
         clear _t; (refine Kept.cut (s := x) ?_ fun _ => ?_) <;> [(unfold x; clear x); (clear_value x; rename' x => y)])
      | (have _t : State := by with_reducible apply x.2
         clear _t; (refine Kept.cut2 (p := x) ?_ fun _ => ?_) <;> [(unfold x; clear x); (clear_value x; rename' x => y)])
      | (clear_value x; rename' x => y)
      | rename' x => y)
    | with_reducible first
      | apply State.bump_kept | apply State.dropTransit_kept | apply State.answered_kept | apply State.answerUnless_kept
    | split
    | (refine Kept.snd (by assumption) ?_)

theorem State.cutTransit_kept {m : Nat} {r s : State} (h : Kept m r s) a b (hm : Sub 0x603b7e87a m := by exact Sub.le (by assumption) (by decide)) :
    Kept m r (s.cutTransit a b) := by
  unfold State.cutTransit
  repeat' first
    | with_reducible assumption
    | exact Sub.le (by assumption) (by decide)
    | (extract_lets +onlyGivenNames x; first
      | (have _t : State := by with_reducible apply x
         clear _t; (refine Kept.cut (s := x) ?_ fun _ => ?_) <;> [(unfold x; clear x); (clear_value x; rename' x => y)])
      | (have _t : State := by with_reducible apply x.2
         clear _t; (refine Kept.cut2 (p := x) ?_ fun _ => ?_) <;> [(unfold x; clear x); (clear_value x; rename' x => y)])
      | (clear_value x; rename' x => y)
      | rename' x => y)
    | with_reducible first
      | apply State.bump_kept | apply State.record_kept | apply State.cutHere_kept | apply State.emit_kept
    | split
    | (refine Kept.snd (by assumption) ?_)
    | (fail_if_no_progress with_reducible refine Kept.upd ?_ (by rfl))

theorem State.doForward_kept {m : Nat} {r s : State} (h : Kept m r s) a b (hm : Sub 0x603b7e87a m := by exact Sub.le (by assumption) (by decide)) :
    Kept m r (s.doForward a b) := by
  unfold State.doForward
  repeat' first
    | with_reducible assumption
    | exact Sub.le (by assumption) (by decide)
    | (extract_lets +onlyGivenNames x; first
      | (have _t : State := by with_reducible apply x
         clear _t; (refine Kept.cut (s := x) ?_ fun _ => ?_) <;> [(unfold x; clear x); (clear_value x; rename' x => y)])
      | (have _t : State := by with_reducible apply x.2
         clear _t; (refine Kept.cut2 (p := x) ?_ fun _ => ?_) <;> [(unfold x; clear x); (clear_value x; rename' x => y)])
      | (clear_value x; rename' x => y)
      | rename' x => y)
    | with_reducible first
      | apply State.inject_kept | apply State.record_kept | apply State.bump_kept | apply State.setF_kept
      | apply State.answerUnless_kept | apply State.depart_kept | apply State.answer_kept | apply State.noRoute_kept
      | apply State.addTransit_kept | apply State.cutTransit_kept
    | split
    | (refine Kept.snd (by assumption) ?_)

theorem execPacketForward_kept {m : Nat} {r s : State} (h : Kept m r s) a b (hm : Sub 0x603b7e87a m := by exact Sub.le (by assumption) (by decide)) :
    KeptRes m r (execPacketForward a b s) :=
  KeptRes.whenWf (State.doForward_kept h ..) ..

theorem State.doEscape_kept {m : Nat} {r s : State} (h : Kept m r s) a (hm : Sub 0x603b7e87a m := by exact Sub.le (by assumption) (by decide)) :
    Kept m r (s.doEscape a) := by
  unfold State.doEscape
  repeat' first
    | with_reducible assumption
    | exact Sub.le (by assumption) (by decide)
    | (extract_lets +onlyGivenNames x; first
      | (have _t : State := by with_reducible apply x
         clear _t; (refine Kept.cut (s := x) ?_ fun _ => ?_) <;> [(unfold x; clear x); (clear_value x; rename' x => y)])
      | (have _t : State := by with_reducible apply x.2
         clear _t; (refine Kept.cut2 (p := x) ?_ fun _ => ?_) <;> [(unfold x; clear x); (clear_value x; rename' x => y)])
      | (clear_value x; rename' x => y)
      | rename' x => y)
    | with_reducible first
      | apply State.bump_kept | apply State.pick_kept | apply State.offer_kept | apply State.noRoute_kept
    | split
    | (refine Kept.snd (by assumption) ?_)
    | (fail_if_no_progress with_reducible refine Kept.upd ?_ (by rfl))

theorem execEscWaitExpire_kept {m : Nat} {r s : State} (h : Kept m r s) a b (hm : Sub 0x603b7e87a m := by exact Sub.le (by assumption) (by decide)) :
    KeptRes m r (execEscWaitExpire a b s) := by
  unfold execEscWaitExpire; split
  · exact .refused _
  · exact KeptRes.whenWf (State.doEscape_kept h ..) ..

theorem execTailTimeout_kept {m : Nat} {r s : State} (h : Kept m r s) a b (hm : Sub 0x603b7e87a m := by exact Sub.le (by assumption) (by decide)) :
    KeptRes m r (execTailTimeout a b s) := by
  unfold execTailTimeout; split
  · exact .refused _
  · exact KeptRes.when (State.cutTransit_kept h ..) ..

theorem State.doCutEnd_kept {m : Nat} {r s : State} (h : Kept m r s) a (hm : Sub 0x603b7e87a m := by exact Sub.le (by assumption) (by decide)) :
    Kept m r (s.doCutEnd a) := by
  unfold State.doCutEnd
  repeat' first
    | with_reducible assumption
    | exact Sub.le (by assumption) (by decide)
    | with_reducible first
      | apply State.dropTransit_kept | apply State.cutHere_kept | apply State.emit_kept
    | split
    | (refine Kept.snd (by assumption) ?_)

theorem execCutEndReceive_kept {m : Nat} {r s : State} (h : Kept m r s) a b (hm : Sub 0x603b7e87a m := by exact Sub.le (by assumption) (by decide)) :
    KeptRes m r (execCutEndReceive a b s) := by
  unfold execCutEndReceive; split
  · exact .refused _
  · exact .of (State.doCutEnd_kept h ..)

theorem State.doRetrain_kept {m : Nat} {r s : State} (h : Kept m r s) a b c (hm : Sub 0x602b74010 m := by exact Sub.le (by assumption) (by decide)) :
    Kept m r (s.doRetrain a b c) := by
  unfold State.doRetrain
  repeat' first
    | with_reducible assumption
    | exact Sub.le (by assumption) (by decide)
    | intro _
    | (extract_lets +onlyGivenNames x; first
      | (have _t : State := by with_reducible apply x
         clear _t; (refine Kept.cut (s := x) ?_ fun _ => ?_) <;> [(unfold x; clear x); (clear_value x; rename' x => y)])
      | (have _t : State := by with_reducible apply x.2
         clear _t; (refine Kept.cut2 (p := x) ?_ fun _ => ?_) <;> [(unfold x; clear x); (clear_value x; rename' x => y)])
      | (clear_value x; rename' x => y)
      | rename' x => y)
    | with_reducible first
      | apply State.fenceUnit_kept | apply State.setF_kept | apply State.maintRequest_kept | apply Kept.foldl
      | apply Kept.foldl2
    | split
    | (refine Kept.snd (by assumption) ?_)

theorem execPortRetrain_kept {m : Nat} {r s : State} (h : Kept m r s) a b c (hm : Sub 0x602b74010 m := by exact Sub.le (by assumption) (by decide)) :
    KeptRes m r (execPortRetrain a b c s) :=
  KeptRes.when (State.doRetrain_kept h ..) ..

theorem execPortRetrainDone_kept {m : Nat} {r s : State} (h : Kept m r s) a (hm : Sub 0x804012 m := by exact Sub.le (by assumption) (by decide)) :
    KeptRes m r (execPortRetrainDone a s) :=
  KeptRes.when (State.pump_kept (State.setF_kept h ..) ..) ..

theorem execSignalApply_kept {m : Nat} {r s : State} (h : Kept m r s) a b (hm : Sub 0x602b76010 m := by exact Sub.le (by assumption) (by decide)) :
    KeptRes m r (execSignalApply a b s) := by
  unfold execSignalApply; split
  · exact .refused _
  · exact KeptRes.when (State.landSet_kept (State.dropSignal_kept h ..) ..) ..

theorem State.sendCtrl_kept {m : Nat} {r s : State} (h : Kept m r s) a b c d (hm : Sub 0x602b7401a m := by exact Sub.le (by assumption) (by decide)) :
    Kept m r (s.sendCtrl a b c d) := by
  unfold State.sendCtrl
  repeat' first
    | with_reducible assumption
    | exact Sub.le (by assumption) (by decide)
    | intro _
    | (extract_lets +onlyGivenNames x; first
      | (have _t : State := by with_reducible apply x
         clear _t; (refine Kept.cut (s := x) ?_ fun _ => ?_) <;> [(unfold x; clear x); (clear_value x; rename' x => y)])
      | (have _t : State := by with_reducible apply x.2
         clear _t; (refine Kept.cut2 (p := x) ?_ fun _ => ?_) <;> [(unfold x; clear x); (clear_value x; rename' x => y)])
      | (clear_value x; rename' x => y)
      | rename' x => y)
    | with_reducible first
      | apply State.reserveSeq_kept | apply State.launch_kept | apply State.dropTxPkt_kept | apply Kept.foldl
      | apply Kept.foldl2
    | split
    | (refine Kept.snd (by assumption) ?_)

theorem State.setRegatta_kept {m : Nat} {r s : State} (h : Kept m r s) a b (hm : Sub 0x10000 m := by exact Sub.le (by assumption) (by decide)) :
    Kept m r (s.setRegatta a b) :=
  .upd h rfl

theorem State.regattaCheck_kept {m : Nat} {r s : State} (h : Kept m r s) a (hm : Sub 0x603b74810 m := by exact Sub.le (by assumption) (by decide)) :
    Kept m r (s.regattaCheck a) := by
  unfold State.regattaCheck
  repeat' first
    | with_reducible assumption
    | exact Sub.le (by assumption) (by decide)
    | intro _
    | (extract_lets +onlyGivenNames x; first
      | (have _t : State := by with_reducible apply x
         clear _t; (refine Kept.cut (s := x) ?_ fun _ => ?_) <;> [(unfold x; clear x); (clear_value x; rename' x => y)])
      | (have _t : State := by with_reducible apply x.2
         clear _t; (refine Kept.cut2 (p := x) ?_ fun _ => ?_) <;> [(unfold x; clear x); (clear_value x; rename' x => y)])
      | (clear_value x; rename' x => y)
      | rename' x => y)
    | with_reducible first
      | apply State.setRegatta_kept | apply State.clearSlow_kept | apply State.ctxSub_kept | apply State.setCtx_kept
      | apply State.checkSignals_kept | apply Kept.foldl | apply Kept.foldl2
    | split
    | (refine Kept.snd (by assumption) ?_)
    | (fail_if_no_progress with_reducible refine Kept.upd ?_ (by rfl))

theorem State.regattaOpen_kept {m : Nat} {r s : State} (h : Kept m r s) a (hm : Sub 0x603b7481a m := by exact Sub.le (by assumption) (by decide)) :
    Kept m r (s.regattaOpen a).2 := by
  unfold State.regattaOpen
  repeat' first
    | with_reducible assumption
    | exact Sub.le (by assumption) (by decide)
    | (extract_lets +onlyGivenNames x; first
      | (have _t : State := by with_reducible apply x
         clear _t; (refine Kept.cut (s := x) ?_ fun _ => ?_) <;> [(unfold x; clear x); (clear_value x; rename' x => y)])
      | (have _t : State := by with_reducible apply x.2
         clear _t; (refine Kept.cut2 (p := x) ?_ fun _ => ?_) <;> [(unfold x; clear x); (clear_value x; rename' x => y)])
      | (clear_value x; rename' x => y)
      | rename' x => y)
    | with_reducible first
      | apply State.setCtx_kept | apply State.setRegatta_kept | apply State.sendCtrl_kept | apply State.regattaCheck_kept
    | split
    | (refine Kept.snd (by assumption) ?_)

theorem State.clearTransit_kept {m : Nat} {r s : State} (h : Kept m r s) a (hm : Sub 0x800000 m := by exact Sub.le (by assumption) (by decide)) :
    Kept m r (s.clearTransit a) :=
  .upd h rfl

theorem State.payloadGood_kept {m : Nat} {r s : State} (h : Kept m r s) a (hm : Sub 0x602b74010 m := by exact Sub.le (by assumption) (by decide)) :
    Kept m r (s.payloadGood a).2 := by
  unfold State.payloadGood
  repeat' first
    | with_reducible assumption
    | exact Sub.le (by assumption) (by decide)
    | (extract_lets +onlyGivenNames x; first
      | (have _t : State := by with_reducible apply x
         clear _t; (refine Kept.cut (s := x) ?_ fun _ => ?_) <;> [(unfold x; clear x); (clear_value x; rename' x => y)])
      | (have _t : State := by with_reducible apply x.2
         clear _t; (refine Kept.cut2 (p := x) ?_ fun _ => ?_) <;> [(unfold x; clear x); (clear_value x; rename' x => y)])
      | (clear_value x; rename' x => y)
      | rename' x => y)
    | with_reducible first
      | apply State.inject_kept | apply State.record_kept
    | split
    | (refine Kept.snd (by assumption) ?_)

theorem State.epochStatus_kept {m : Nat} {r s : State} (h : Kept m r s) a (hm : Sub 0x602b74010 m := by exact Sub.le (by assumption) (by decide)) :
    Kept m r (s.epochStatus a).2 := by
  unfold State.epochStatus
  repeat' first
    | with_reducible assumption
    | exact Sub.le (by assumption) (by decide)
    | (extract_lets +onlyGivenNames x; first
      | (have _t : State := by with_reducible apply x
         clear _t; (refine Kept.cut (s := x) ?_ fun _ => ?_) <;> [(unfold x; clear x); (clear_value x; rename' x => y)])
      | (have _t : State := by with_reducible apply x.2
         clear _t; (refine Kept.cut2 (p := x) ?_ fun _ => ?_) <;> [(unfold x; clear x); (clear_value x; rename' x => y)])
      | (clear_value x; rename' x => y)
      | rename' x => y)
    | with_reducible first
      | apply State.inject_kept | apply State.bump_kept | apply State.record_kept | apply State.setF_kept
    | split
    | (refine Kept.snd (by assumption) ?_)

theorem State.trackFull_kept {m : Nat} {r s : State} (h : Kept m r s) (hm : Sub 0x10 m := by exact Sub.le (by assumption) (by decide)) :
    Kept m r (s.trackFull) :=
  State.setF_kept (State.bump_kept h ..) ..

theorem State.screen_kept {m : Nat} {r s : State} (h : Kept m r s) a b c (hm : Sub 0x602b74010 m := by exact Sub.le (by assumption) (by decide)) :
    Kept m r (s.screen a b c).2 := by
  unfold State.screen
  repeat' first
    | with_reducible assumption
    | exact Sub.le (by assumption) (by decide)
    | (extract_lets +onlyGivenNames x; first
      | (have _t : State := by with_reducible apply x
         clear _t; (refine Kept.cut (s := x) ?_ fun _ => ?_) <;> [(unfold x; clear x); (clear_value x; rename' x => y)])
      | (have _t : State := by with_reducible apply x.2
         clear _t; (refine Kept.cut2 (p := x) ?_ fun _ => ?_) <;> [(unfold x; clear x); (clear_value x; rename' x => y)])
      | (clear_value x; rename' x => y)
      | rename' x => y)
    | with_reducible first
      | refine State.ctxNeed_kept ?_ (by assumption) | apply State.ctxNeedD_kept | apply State.trackFull_kept
      | apply State.rxFind_kept | apply State.bump_kept | apply State.payloadGood_kept | apply State.epochStatus_kept
    | split
    | (refine Kept.snd (by assumption) ?_)

theorem State.applied_kept {m : Nat} {r s : State} (h : Kept m r s) a b (hm : Sub 0x810010 m := by exact Sub.le (by assumption) (by decide)) :
    Kept m r (s.applied a b) := by
  unfold State.applied
  repeat' first
    | with_reducible assumption
    | exact Sub.le (by assumption) (by decide)
    | (extract_lets +onlyGivenNames x; first
      | (have _t : State := by with_reducible apply x
         clear _t; (refine Kept.cut (s := x) ?_ fun _ => ?_) <;> [(unfold x; clear x); (clear_value x; rename' x => y)])
      | (have _t : State := by with_reducible apply x.2
         clear _t; (refine Kept.cut2 (p := x) ?_ fun _ => ?_) <;> [(unfold x; clear x); (clear_value x; rename' x => y)])
      | (clear_value x; rename' x => y)
      | rename' x => y)
    | with_reducible first
      | apply State.bump_kept | apply State.setCtx_kept | apply State.rxDone_kept
    | split
    | (refine Kept.snd (by assumption) ?_)

theorem State.packetAccess_kept {m : Nat} {r s : State} (h : Kept m r s) a b c d (hm : Sub 0x602b74010 m := by exact Sub.le (by assumption) (by decide)) :
    Kept m r (s.packetAccess a b c d).2 := by
  unfold State.packetAccess
  repeat' first
    | with_reducible assumption
    | exact Sub.le (by assumption) (by decide)
    | (extract_lets +onlyGivenNames x; first
      | (have _t : State := by with_reducible apply x
         clear _t; (refine Kept.cut (s := x) ?_ fun _ => ?_) <;> [(unfold x; clear x); (clear_value x; rename' x => y)])
      | (have _t : State := by with_reducible apply x.2
         clear _t; (refine Kept.cut2 (p := x) ?_ fun _ => ?_) <;> [(unfold x; clear x); (clear_value x; rename' x => y)])
      | (clear_value x; rename' x => y)
      | rename' x => y)
    | with_reducible first
      | apply State.accessStatus_kept | apply State.reachable_kept
    | split
    | (refine Kept.snd (by assumption) ?_)

theorem State.putWrite_kept {m : Nat} {r s : State} (h : Kept m r s) (a : Sys2Proof.Machine.State → ℕ → Sys2Proof.Word → Sys2Proof.Machine.State) b (ha : ∀ (s : State) z1 z2, Kept m r s → Kept m r (a s z1 z2)) (hm : Sub 0x602b7e870 m := by exact Sub.le (by assumption) (by decide)) :
    Kept m r (s.putWrite a b) := by
  unfold State.putWrite
  repeat' first
    | with_reducible assumption
    | exact Sub.le (by assumption) (by decide)
    | intro _
    | with_reducible first
      | apply State.hbmWrite_kept | apply State.spadWrite_kept | apply State.storeFlag_kept | apply ha
    | split
    | (refine Kept.snd (by assumption) ?_)

theorem State.putApply_kept {m : Nat} {r s : State} (h : Kept m r s) (a : Sys2Proof.Machine.State → ℕ → Sys2Proof.Word → Sys2Proof.Machine.State) b (ha : ∀ (s : State) z1 z2, Kept m r s → Kept m r (a s z1 z2)) (hm : Sub 0x603b7e870 m := by exact Sub.le (by assumption) (by decide)) :
    Kept m r (s.putApply a b) := by
  unfold State.putApply
  repeat' first
    | with_reducible assumption
    | exact Sub.le (by assumption) (by decide)
    | intro _
    | (extract_lets +onlyGivenNames x; first
      | (have _t : State := by with_reducible apply x
         clear _t; (refine Kept.cut (s := x) ?_ fun _ => ?_) <;> [(unfold x; clear x); (clear_value x; rename' x => y)])
      | (have _t : State := by with_reducible apply x.2
         clear _t; (refine Kept.cut2 (p := x) ?_ fun _ => ?_) <;> [(unfold x; clear x); (clear_value x; rename' x => y)])
      | (clear_value x; rename' x => y)
      | rename' x => y)
    | with_reducible first
      | apply State.applied_kept | apply State.putWrite_kept | apply State.permuteIn_kept | apply State.putEffects_kept
      | apply ha
    | split
    | (refine Kept.snd (by assumption) ?_)

theorem State.putArrive_kept {m : Nat} {r s : State} (h : Kept m r s) (a : Sys2Proof.Machine.State → ℕ → Sys2Proof.Word → Sys2Proof.Machine.State) b (ha : ∀ (s : State) z1 z2, Kept m r s → Kept m r (a s z1 z2)) (hm : Sub 0x603b7e870 m := by exact Sub.le (by assumption) (by decide)) :
    Kept m r (s.putArrive a b).2 := by
  unfold State.putArrive
  repeat' first
    | with_reducible assumption
    | exact Sub.le (by assumption) (by decide)
    | intro _
    | (extract_lets +onlyGivenNames x; first
      | (have _t : State := by with_reducible apply x
         clear _t; (refine Kept.cut (s := x) ?_ fun _ => ?_) <;> [(unfold x; clear x); (clear_value x; rename' x => y)])
      | (have _t : State := by with_reducible apply x.2
         clear _t; (refine Kept.cut2 (p := x) ?_ fun _ => ?_) <;> [(unfold x; clear x); (clear_value x; rename' x => y)])
      | (clear_value x; rename' x => y)
      | rename' x => y)
    | with_reducible first
      | apply State.screen_kept | apply State.packetAccess_kept | apply State.reject_kept | apply State.putApply_kept
      | apply ha
    | split
    | (refine Kept.snd (by assumption) ?_)

theorem State.doPutPacket_kept {m : Nat} {r s : State} (h : Kept m r s) (a : Sys2Proof.Machine.State → ℕ → Sys2Proof.Word → Sys2Proof.Machine.State) b (ha : ∀ (s : State) z1 z2, Kept m r s → Kept m r (a s z1 z2)) (hm : Sub 0x603b7e87a m := by exact Sub.le (by assumption) (by decide)) :
    Kept m r (s.doPutPacket a b) := by
  unfold State.doPutPacket
  repeat' first
    | with_reducible assumption
    | exact Sub.le (by assumption) (by decide)
    | intro _
    | (extract_lets +onlyGivenNames x; first
      | (have _t : State := by with_reducible apply x
         clear _t; (refine Kept.cut (s := x) ?_ fun _ => ?_) <;> [(unfold x; clear x); (clear_value x; rename' x => y)])
      | (have _t : State := by with_reducible apply x.2
         clear _t; (refine Kept.cut2 (p := x) ?_ fun _ => ?_) <;> [(unfold x; clear x); (clear_value x; rename' x => y)])
      | (clear_value x; rename' x => y)
      | rename' x => y)
    | with_reducible first
      | apply State.clearTransit_kept | apply State.putArrive_kept | apply State.answer_kept | apply ha
    | split
    | (refine Kept.snd (by assumption) ?_)

theorem State.doPutMc_kept {m : Nat} {r s : State} (h : Kept m r s) (a : Sys2Proof.Machine.State → ℕ → Sys2Proof.Word → Sys2Proof.Machine.State) b (ha : ∀ (s : State) z1 z2, Kept m r s → Kept m r (a s z1 z2)) (hm : Sub 0x603b7e87a m := by exact Sub.le (by assumption) (by decide)) :
    Kept m r (s.doPutMc a b) := by
  unfold State.doPutMc
  repeat' first
    | with_reducible assumption
    | exact Sub.le (by assumption) (by decide)
    | intro _
    | (extract_lets +onlyGivenNames x; first
      | (have _t : State := by with_reducible apply x
         clear _t; (refine Kept.cut (s := x) ?_ fun _ => ?_) <;> [(unfold x; clear x); (clear_value x; rename' x => y)])
      | (have _t : State := by with_reducible apply x.2
         clear _t; (refine Kept.cut2 (p := x) ?_ fun _ => ?_) <;> [(unfold x; clear x); (clear_value x; rename' x => y)])
      | (clear_value x; rename' x => y)
      | rename' x => y)
    | with_reducible first
      | apply State.clearTransit_kept | apply State.mcCopies_kept | apply State.respond_kept | apply State.bump_kept
      | apply State.putArrive_kept | apply State.answer_kept | apply ha | apply Kept.foldl | apply Kept.foldl2
    | split
    | (refine Kept.snd (by assumption) ?_)

theorem State.loadBytes_kept {m : Nat} {r s : State} (h : Kept m r s) a b (hm : Sub 0x602b74010 m := by exact Sub.le (by assumption) (by decide)) :
    Kept m r (s.loadBytes a b).2.2 := by
  unfold State.loadBytes
  repeat' first
    | with_reducible assumption
    | exact Sub.le (by assumption) (by decide)
    | (extract_lets +onlyGivenNames x; first
      | (have _t : State := by with_reducible apply x
         clear _t; (refine Kept.cut (s := x) ?_ fun _ => ?_) <;> [(unfold x; clear x); (clear_value x; rename' x => y)])
      | (have _t : State := by with_reducible apply x.2
         clear _t; (refine Kept.cut2 (p := x) ?_ fun _ => ?_) <;> [(unfold x; clear x); (clear_value x; rename' x => y)])
      | (clear_value x; rename' x => y)
      | rename' x => y)
    | with_reducible first
      | apply State.hbmRead_kept
    | split
    | (refine Kept.snd (by assumption) ?_)

theorem State.doLoadReq_kept {m : Nat} {r s : State} (h : Kept m r s) a (hm : Sub 0x602b7401a m := by exact Sub.le (by assumption) (by decide)) :
    Kept m r (s.doLoadReq a) := by
  unfold State.doLoadReq
  repeat' first
    | with_reducible assumption
    | exact Sub.le (by assumption) (by decide)
    | (extract_lets +onlyGivenNames x; first
      | (have _t : State := by with_reducible apply x
         clear _t; (refine Kept.cut (s := x) ?_ fun _ => ?_) <;> [(unfold x; clear x); (clear_value x; rename' x => y)])
      | (have _t : State := by with_reducible apply x.2
         clear _t; (refine Kept.cut2 (p := x) ?_ fun _ => ?_) <;> [(unfold x; clear x); (clear_value x; rename' x => y)])
      | (have _t : State := by with_reducible apply x.2.2
         clear _t; (refine Kept.cut3 (p := x) ?_ fun _ => ?_) <;> [(unfold x; clear x); (clear_value x; rename' x => y)])
      | (clear_value x; rename' x => y)
      | rename' x => y)
    | with_reducible first
      | apply State.clearTransit_kept | apply State.screen_kept | apply State.answer_kept | apply State.packetAccess_kept
      | apply State.loadBytes_kept | apply State.bump_kept | apply State.respond_kept
    | split
    | (refine Kept.snd (by assumption) ?_)

theorem execLoadReq_kept {m : Nat} {r s : State} (h : Kept m r s) a (hm : Sub 0x602b7401a m := by exact Sub.le (by assumption) (by decide)) :
    KeptRes m r (execLoadReq a s) :=
  KeptRes.whenWf (State.doLoadReq_kept h ..) ..

theorem State.doLoadRsp_kept {m : Nat} {r s : State} (h : Kept m r s) a (hm : Sub 0x603b7e87a m := by exact Sub.le (by assumption) (by decide)) :
    Kept m r (s.doLoadRsp a) := by
  unfold State.doLoadRsp
  repeat' first
    | with_reducible assumption
    | exact Sub.le (by assumption) (by decide)
    | (extract_lets +onlyGivenNames x; first
      | (have _t : State := by with_reducible apply x
         clear _t; (refine Kept.cut (s := x) ?_ fun _ => ?_) <;> [(unfold x; clear x); (clear_value x; rename' x => y)])
      | (have _t : State := by with_reducible apply x.2
         clear _t; (refine Kept.cut2 (p := x) ?_ fun _ => ?_) <;> [(unfold x; clear x); (clear_value x; rename' x => y)])
      | (clear_value x; rename' x => y)
      | rename' x => y)
    | with_reducible first
      | apply State.clearTransit_kept | apply State.payloadGood_kept | apply State.answered_kept
    | split
    | (refine Kept.snd (by assumption) ?_)

theorem execLoadRsp_kept {m : Nat} {r s : State} (h : Kept m r s) a (hm : Sub 0x603b7e87a m := by exact Sub.le (by assumption) (by decide)) :
    KeptRes m r (execLoadRsp a s) :=
  KeptRes.whenWf (State.doLoadRsp_kept h ..) ..

theorem State.doAtomicPacket_kept {m : Nat} {r s : State} (h : Kept m r s) a (hm : Sub 0x602b7e87a m := by exact Sub.le (by assumption) (by decide)) :
    Kept m r (s.doAtomicPacket a) := by
  unfold State.doAtomicPacket
  repeat' first
    | with_reducible assumption
    | exact Sub.le (by assumption) (by decide)
    | (extract_lets +onlyGivenNames x; first
      | (have _t : State := by with_reducible apply x
         clear _t; (refine Kept.cut (s := x) ?_ fun _ => ?_) <;> [(unfold x; clear x); (clear_value x; rename' x => y)])
      | (have _t : State := by with_reducible apply x.2
         clear _t; (refine Kept.cut2 (p := x) ?_ fun _ => ?_) <;> [(unfold x; clear x); (clear_value x; rename' x => y)])
      | (clear_value x; rename' x => y)
      | rename' x => y)
    | with_reducible first
      | apply State.clearTransit_kept | apply State.screen_kept | apply State.answer_kept | apply State.packetAccess_kept
      | apply State.atomicDo_kept | apply State.applied_kept | apply State.countCtx_kept | apply State.respond_kept
    | split
    | (refine Kept.snd (by assumption) ?_)

theorem execAtomic_kept {m : Nat} {r s : State} (h : Kept m r s) a (hm : Sub 0x602b7e87a m := by exact Sub.le (by assumption) (by decide)) :
    KeptRes m r (execAtomic a s) :=
  KeptRes.whenWf (State.doAtomicPacket_kept h ..) ..

theorem State.doAtomicRsp_kept {m : Nat} {r s : State} (h : Kept m r s) a (hm : Sub 0x603b7e87a m := by exact Sub.le (by assumption) (by decide)) :
    Kept m r (s.doAtomicRsp a) := by
  unfold State.doAtomicRsp
  repeat' first
    | with_reducible assumption
    | exact Sub.le (by assumption) (by decide)
    | (extract_lets +onlyGivenNames x; first
      | (have _t : State := by with_reducible apply x
         clear _t; (refine Kept.cut (s := x) ?_ fun _ => ?_) <;> [(unfold x; clear x); (clear_value x; rename' x => y)])
      | (have _t : State := by with_reducible apply x.2
         clear _t; (refine Kept.cut2 (p := x) ?_ fun _ => ?_) <;> [(unfold x; clear x); (clear_value x; rename' x => y)])
      | (clear_value x; rename' x => y)
      | rename' x => y)
    | with_reducible first
      | apply State.clearTransit_kept | apply State.answered_kept
    | split
    | (refine Kept.snd (by assumption) ?_)

theorem execAtomicRsp_kept {m : Nat} {r s : State} (h : Kept m r s) a (hm : Sub 0x603b7e87a m := by exact Sub.le (by assumption) (by decide)) :
    KeptRes m r (execAtomicRsp a s) :=
  KeptRes.whenWf (State.doAtomicRsp_kept h ..) ..

theorem State.doCompletion_kept {m : Nat} {r s : State} (h : Kept m r s) a (hm : Sub 0x603b7e87a m := by exact Sub.le (by assumption) (by decide)) :
    Kept m r (s.doCompletion a) := by
  unfold State.doCompletion
  repeat' first
    | with_reducible assumption
    | exact Sub.le (by assumption) (by decide)
    | (extract_lets +onlyGivenNames x; first
      | (have _t : State := by with_reducible apply x
         clear _t; (refine Kept.cut (s := x) ?_ fun _ => ?_) <;> [(unfold x; clear x); (clear_value x; rename' x => y)])
      | (have _t : State := by with_reducible apply x.2
         clear _t; (refine Kept.cut2 (p := x) ?_ fun _ => ?_) <;> [(unfold x; clear x); (clear_value x; rename' x => y)])
      | (clear_value x; rename' x => y)
      | rename' x => y)
    | with_reducible first
      | apply State.clearTransit_kept | apply State.answered_kept
    | split
    | (refine Kept.snd (by assumption) ?_)

theorem execCompletion_kept {m : Nat} {r s : State} (h : Kept m r s) a (hm : Sub 0x603b7e87a m := by exact Sub.le (by assumption) (by decide)) :
    KeptRes m r (execCompletion a s) :=
  KeptRes.whenWf (State.doCompletion_kept h ..) ..

theorem State.ctrlApply_kept {m : Nat} {r s : State} (h : Kept m r s) a (hm : Sub 0x603b74810 m := by exact Sub.le (by assumption) (by decide)) :
    Kept m r (s.ctrlApply a) := by
  unfold State.ctrlApply
  repeat' first
    | with_reducible assumption
    | exact Sub.le (by assumption) (by decide)
    | (extract_lets +onlyGivenNames x; first
      | (have _t : State := by with_reducible apply x
         clear _t; (refine Kept.cut (s := x) ?_ fun _ => ?_) <;> [(unfold x; clear x); (clear_value x; rename' x => y)])
      | (have _t : State := by with_reducible apply x.2
         clear _t; (refine Kept.cut2 (p := x) ?_ fun _ => ?_) <;> [(unfold x; clear x); (clear_value x; rename' x => y)])
      | (clear_value x; rename' x => y)
      | rename' x => y)
    | with_reducible first
      | apply State.regattaCheck_kept | apply State.setRegatta_kept | apply State.setSlow_kept | apply State.clearSlow_kept
    | split
    | (refine Kept.snd (by assumption) ?_)

theorem State.doCtrl_kept {m : Nat} {r s : State} (h : Kept m r s) a (hm : Sub 0x603b7481a m := by exact Sub.le (by assumption) (by decide)) :
    Kept m r (s.doCtrl a) := by
  unfold State.doCtrl
  repeat' first
    | with_reducible assumption
    | exact Sub.le (by assumption) (by decide)
    | (extract_lets +onlyGivenNames x; first
      | (have _t : State := by with_reducible apply x
         clear _t; (refine Kept.cut (s := x) ?_ fun _ => ?_) <;> [(unfold x; clear x); (clear_value x; rename' x => y)])
      | (have _t : State := by with_reducible apply x.2
         clear _t; (refine Kept.cut2 (p := x) ?_ fun _ => ?_) <;> [(unfold x; clear x); (clear_value x; rename' x => y)])
      | (clear_value x; rename' x => y)
      | rename' x => y)
    | with_reducible first
      | apply State.clearTransit_kept | apply State.screen_kept | apply State.answer_kept | apply State.applied_kept
      | apply State.ctrlApply_kept
    | split
    | (refine Kept.snd (by assumption) ?_)

theorem execCtrl_kept {m : Nat} {r s : State} (h : Kept m r s) a (hm : Sub 0x603b7481a m := by exact Sub.le (by assumption) (by decide)) :
    KeptRes m r (execCtrl a s) :=
  KeptRes.whenWf (State.doCtrl_kept h ..) ..

theorem State.doMgmt_kept {m : Nat} {r s : State} (h : Kept m r s) a (hm : Sub 0x602b74010 m := by exact Sub.le (by assumption) (by decide)) :
    Kept m r (s.doMgmt a) := by
  unfold State.doMgmt
  repeat' first
    | with_reducible assumption
    | exact Sub.le (by assumption) (by decide)
    | (extract_lets +onlyGivenNames x; first
      | (have _t : State := by with_reducible apply x
         clear _t; (refine Kept.cut (s := x) ?_ fun _ => ?_) <;> [(unfold x; clear x); (clear_value x; rename' x => y)])
      | (have _t : State := by with_reducible apply x.2
         clear _t; (refine Kept.cut2 (p := x) ?_ fun _ => ?_) <;> [(unfold x; clear x); (clear_value x; rename' x => y)])
      | (clear_value x; rename' x => y)
      | rename' x => y)
    | with_reducible first
      | apply State.clearTransit_kept | apply State.payloadGood_kept | apply State.bump_kept
    | split
    | (refine Kept.snd (by assumption) ?_)

theorem execMgmt_kept {m : Nat} {r s : State} (h : Kept m r s) a (hm : Sub 0x602b74010 m := by exact Sub.le (by assumption) (by decide)) :
    KeptRes m r (execMgmt a s) :=
  KeptRes.whenWf (State.doMgmt_kept h ..) ..

theorem State.doCollPacket_kept {m : Nat} {r s : State} (h : Kept m r s) a b (c : Sys2Proof.Machine.State → Sys2Proof.Machine.State) (hc : ∀ (s : State), Kept m r s → Kept m r (c s)) (hm : Sub 0x602b7401a m := by exact Sub.le (by assumption) (by decide)) :
    Kept m r (s.doCollPacket a b c) := by
  unfold State.doCollPacket
  repeat' first
    | with_reducible assumption
    | exact Sub.le (by assumption) (by decide)
    | intro _
    | (extract_lets +onlyGivenNames x; first
      | (have _t : State := by with_reducible apply x
         clear _t; (refine Kept.cut (s := x) ?_ fun _ => ?_) <;> [(unfold x; clear x); (clear_value x; rename' x => y)])
      | (have _t : State := by with_reducible apply x.2
         clear _t; (refine Kept.cut2 (p := x) ?_ fun _ => ?_) <;> [(unfold x; clear x); (clear_value x; rename' x => y)])
      | (clear_value x; rename' x => y)
      | rename' x => y)
    | with_reducible first
      | apply State.clearTransit_kept | apply State.screen_kept | apply State.answer_kept | apply State.applied_kept
      | apply hc
    | split
    | (refine Kept.snd (by assumption) ?_)

theorem State.doCollData_kept {m : Nat} {r s : State} (h : Kept m r s) a (hm : Sub 0x603b7c87a m := by exact Sub.le (by assumption) (by decide)) :
    Kept m r (s.doCollData a) := by
  unfold State.doCollData
  repeat' first
    | with_reducible assumption
    | exact Sub.le (by assumption) (by decide)
    | intro _
    | (extract_lets +onlyGivenNames x; first
      | (have _t : State := by with_reducible apply x
         clear _t; (refine Kept.cut (s := x) ?_ fun _ => ?_) <;> [(unfold x; clear x); (clear_value x; rename' x => y)])
      | (have _t : State := by with_reducible apply x.2
         clear _t; (refine Kept.cut2 (p := x) ?_ fun _ => ?_) <;> [(unfold x; clear x); (clear_value x; rename' x => y)])
      | (clear_value x; rename' x => y)
      | rename' x => y)
    | with_reducible first
      | apply State.doCollPacket_kept | apply State.collDataIn_kept | apply State.clearTransit_kept
      | apply State.mcCopies_kept | apply State.respond_kept | apply State.bump_kept | apply Kept.foldl | apply Kept.foldl2
    | split
    | (refine Kept.snd (by assumption) ?_)

theorem execCollData_kept {m : Nat} {r s : State} (h : Kept m r s) a (hm : Sub 0x603b7c87a m := by exact Sub.le (by assumption) (by decide)) :
    KeptRes m r (execCollData a s) :=
  KeptRes.whenWf (State.doCollData_kept h ..) ..

theorem execCollReady_kept {m : Nat} {r s : State} (h : Kept m r s) a (hm : Sub 0x603b7c87a m := by exact Sub.le (by assumption) (by decide)) :
    KeptRes m r (execCollReady a s) :=
  KeptRes.whenWf (State.doCollPacket_kept h _ _ _ fun _ h => State.collReadyIn_kept h ..) ..

theorem execEpochClose_kept {m : Nat} {r s : State} (h : Kept m r s) a (hm : Sub 0x603b7601a m := by exact Sub.le (by assumption) (by decide)) :
    KeptRes m r (execEpochClose a s) :=
  KeptRes.whenWf (State.doCollPacket_kept h _ _ _ fun _ h => State.epochCloseIn_kept h ..) ..

theorem State.setJob_kept {m : Nat} {r s : State} (h : Kept m r s) a b c (hm : Sub 0x400000000 m := by exact Sub.le (by assumption) (by decide)) :
    Kept m r (s.setJob a b c) :=
  .upd h rfl

theorem State.dropJob_kept {m : Nat} {r s : State} (h : Kept m r s) a b (hm : Sub 0x400000000 m := by exact Sub.le (by assumption) (by decide)) :
    Kept m r (s.dropJob a b) :=
  .upd h rfl

theorem State.writeRecord_kept {m : Nat} {r s : State} (h : Kept m r s) a b c d (hm : Sub 0x6c050 m := by exact Sub.le (by assumption) (by decide)) :
    Kept m r (s.writeRecord a b c d) :=
  State.setF_kept (State.hbmWrite_kept (State.hbmWrite_kept h ..) ..) ..

theorem State.putJob_kept {m : Nat} {r s : State} (h : Kept m r s) a b c (hm : Sub 0x40006c050 m := by exact Sub.le (by assumption) (by decide)) :
    Kept m r (s.putJob a b c) :=
  State.writeRecord_kept (State.setJob_kept h ..) ..

theorem State.emptySlot_kept {m : Nat} {r s : State} (h : Kept m r s) a b c (hm : Sub 0x40006c050 m := by exact Sub.le (by assumption) (by decide)) :
    Kept m r (s.emptySlot a b c) :=
  State.writeRecord_kept (State.dropJob_kept h ..) ..

theorem State.settleEnd_kept {m : Nat} {r s : State} (h : Kept m r s) a (hm : Sub 0x40006c050 m := by exact Sub.le (by assumption) (by decide)) :
    Kept m r (s.settleEnd a) := by
  unfold State.settleEnd
  repeat' first
    | with_reducible assumption
    | exact Sub.le (by assumption) (by decide)
    | with_reducible first
      | apply State.putJob_kept
    | split
    | (refine Kept.snd (by assumption) ?_)

theorem State.settleDie_kept {m : Nat} {r s : State} (h : Kept m r s) a (hm : Sub 0x40006c050 m := by exact Sub.le (by assumption) (by decide)) :
    Kept m r (s.settleDie a) := by
  unfold State.settleDie; split
  · exact State.settleEnd_kept h ..
  · exact h

theorem State.doJobEnd_kept {m : Nat} {r s : State} (h : Kept m r s) a b (hm : Sub 0x40006c050 m := by exact Sub.le (by assumption) (by decide)) :
    Kept m r (s.doJobEnd a b) := by
  unfold State.doJobEnd
  repeat' first
    | with_reducible assumption
    | exact Sub.le (by assumption) (by decide)
    | with_reducible first
      | apply State.settleEnd_kept | apply State.endHeats_kept | apply State.setJob_kept
    | split
    | (refine Kept.snd (by assumption) ?_)

end Sys2Proof.Machine
end

