-- ==== Sys2Proof/Laws/KeptPower.lean ====
section
/-! SUPPORT. What `Kept` says of heats, power, programs and resets: one lemma per function, citing those of the functions it calls. -/

set_option linter.unreachableTactic false
set_option linter.unusedTactic false
set_option linter.tactic.unusedName false

namespace Sys2Proof.Machine

set_option Elab.async false

open Sys2Proof

theorem State.gateWatches_kept {m : Nat} {r s : State} (h : Kept m r s) a (hm : Sub 0x603b7481a m := by exact Sub.le (by assumption) (by decide)) :
    Kept m r (s.gateWatches a).2 := by
  unfold State.gateWatches
  repeat' first
    | with_reducible assumption
    | exact Sub.le (by assumption) (by decide)
    | intro _
    | (extract_lets +onlyGivenNames x; first
      | (have _t : State := by with_reducible apply x
         clear _t; (refine Kept.cut (s := x) ?_ fun _ => ?_) <;> [(unfold x; clear x); (clear_value x; rename' x => y)])
      | (have _t : State := by with_reducible apply x.2
         clear _t; (refine Kept.cut2 (p := x) ?_ fun _ => ?_) <;> [(unfold x; clear x); (clear_value x; rename' x => y)])
      | (clear_value x; rename' x => y)
      | rename' x => y)
    | with_reducible first
      | apply State.regattaOpen_kept | apply Kept.foldl | apply Kept.foldl2
    | split
    | (refine Kept.snd (by assumption) ?_)

theorem State.enterReady_kept {m : Nat} {r s : State} (h : Kept m r s) a b c d (hm : Sub 0x603b7481a m := by exact Sub.le (by assumption) (by decide)) :
    Kept m r (s.enterReady a b c d) :=
  State.releasePoisoned_kept (State.setDie_kept (State.gateWatches_kept h ..) ..) ..

theorem State.admitPosts_kept {m : Nat} {r s : State} (h : Kept m r s) a b (hm : Sub 0x603b7481a m := by exact Sub.le (by assumption) (by decide)) :
    Kept m r (s.admitPosts a b) := by
  unfold State.admitPosts
  repeat' first
    | with_reducible assumption
    | exact Sub.le (by assumption) (by decide)
    | intro _
    | (extract_lets +onlyGivenNames x; first
      | (have _t : State := by with_reducible apply x
         clear _t; (refine Kept.cut (s := x) ?_ fun _ => ?_) <;> [(unfold x; clear x); (clear_value x; rename' x => y)])
      | (have _t : State := by with_reducible apply x.2
         clear _t; (refine Kept.cut2 (p := x) ?_ fun _ => ?_) <;> [(unfold x; clear x); (clear_value x; rename' x => y)])
      | (clear_value x; rename' x => y)
      | rename' x => y)
    | with_reducible first
      | apply State.setDie_kept | apply State.enterReady_kept | apply Kept.foldl | apply Kept.foldl2
    | split
    | (refine Kept.snd (by assumption) ?_)

theorem State.doPost_kept {m : Nat} {r s : State} (h : Kept m r s) a b c d (hm : Sub 0x603b7481a m := by exact Sub.le (by assumption) (by decide)) : Kept m r (s.doPost a b c d) := by
  unfold State.doPost
  extract_lets -underBinder i j s1 bad
  have h1 : Kept m r s1 := State.inject_kept h ..
  have hb : ∀ v, Kept m r (bad v) := fun v => State.record_kept (State.setF_kept h1 ..) ..
  split
  · exact hb _
  split
  · exact hb _
  extract_lets s2 v
  have h2 : Kept m r s2 := State.admitPosts_kept h1 ..
  split
  · exact State.setF_kept (State.setDie_kept h2 ..) ..
  · exact State.enterReady_kept h2 ..

theorem State.setCluster_kept {m : Nat} {r s : State} (h : Kept m r s) a b c (hm : Sub 0x10 m := by exact Sub.le (by assumption) (by decide)) :
    Kept m r (s.setCluster a b c) :=
  State.setF_kept h ..

theorem State.takeFlags_kept {m : Nat} {r s : State} (h : Kept m r s) a b c (hm : Sub 0x602b76010 m := by exact Sub.le (by assumption) (by decide)) :
    Kept m r (s.takeFlags a b c) := by
  unfold State.takeFlags
  repeat' first
    | with_reducible assumption
    | exact Sub.le (by assumption) (by decide)
    | intro _
    | (extract_lets +onlyGivenNames x; first
      | (have _t : State := by with_reducible apply x
         clear _t; (refine Kept.cut (s := x) ?_ fun _ => ?_) <;> [(unfold x; clear x); (clear_value x; rename' x => y)])
      | (have _t : State := by with_reducible apply x.2
         clear _t; (refine Kept.cut2 (p := x) ?_ fun _ => ?_) <;> [(unfold x; clear x); (clear_value x; rename' x => y)])
      | (clear_value x; rename' x => y)
      | rename' x => y)
    | with_reducible first
      | apply State.bump_kept | apply State.landClear_kept | apply State.setCore_kept | apply Kept.foldl | apply Kept.foldl2
    | split
    | (refine Kept.snd (by assumption) ?_)

theorem State.loadHeat_kept {m : Nat} {r s : State} (h : Kept m r s) a b (hm : Sub 0x800 m := by exact Sub.le (by assumption) (by decide)) :
    Kept m r (s.loadHeat a b) :=
  State.setAe_kept h ..

theorem State.doChosen_kept {m : Nat} {r s : State} (h : Kept m r s) a b c (hm : Sub 0x603b7681a m := by exact Sub.le (by assumption) (by decide)) :
    Kept m r (s.doChosen a b c) := by
  unfold State.doChosen
  repeat' first
    | with_reducible assumption
    | exact Sub.le (by assumption) (by decide)
    | intro _
    | (extract_lets +onlyGivenNames x; first
      | (have _t : State := by with_reducible apply x
         clear _t; (refine Kept.cut (s := x) ?_ fun _ => ?_) <;> [(unfold x; clear x); (clear_value x; rename' x => y)])
      | (have _t : State := by with_reducible apply x.2
         clear _t; (refine Kept.cut2 (p := x) ?_ fun _ => ?_) <;> [(unfold x; clear x); (clear_value x; rename' x => y)])
      | (clear_value x; rename' x => y)
      | rename' x => y)
    | with_reducible first
      | apply State.setDie_kept | apply State.takeFlags_kept | apply State.bump_kept | apply State.setF_kept
      | apply State.loadHeat_kept | apply State.admitPosts_kept | apply Kept.foldl | apply Kept.foldl2
    | split
    | (refine Kept.snd (by assumption) ?_)

theorem State.doHeatChoice_kept {m : Nat} {r s : State} (h : Kept m r s) a b (hm : Sub 0x603b7681a m := by exact Sub.le (by assumption) (by decide)) :
    Kept m r (s.doHeatChoice a b) := by
  unfold State.doHeatChoice
  repeat' first
    | with_reducible assumption
    | exact Sub.le (by assumption) (by decide)
    | (extract_lets +onlyGivenNames x; first
      | (have _t : State := by with_reducible apply x
         clear _t; (refine Kept.cut (s := x) ?_ fun _ => ?_) <;> [(unfold x; clear x); (clear_value x; rename' x => y)])
      | (have _t : State := by with_reducible apply x.2
         clear _t; (refine Kept.cut2 (p := x) ?_ fun _ => ?_) <;> [(unfold x; clear x); (clear_value x; rename' x => y)])
      | (clear_value x; rename' x => y)
      | rename' x => y)
    | with_reducible first
      | apply State.admitPosts_kept | apply State.releasePoisoned_kept | apply State.setDie_kept | apply State.doChosen_kept
      | apply State.clock_kept
    | split
    | (refine Kept.snd (by assumption) ?_)

theorem execHeatChoice_kept {m : Nat} {r s : State} (h : Kept m r s) a b (hm : Sub 0x603b7681a m := by exact Sub.le (by assumption) (by decide)) :
    KeptRes m r (execHeatChoice a b s) :=
  KeptRes.when (State.doHeatChoice_kept h ..) ..

theorem State.doHeatStart_kept {m : Nat} {r s : State} (h : Kept m r s) a b c (hm : Sub 0x6010 m := by exact Sub.le (by assumption) (by decide)) :
    Kept m r (s.doHeatStart a b c) := by
  unfold State.doHeatStart
  repeat' first
    | with_reducible assumption
    | exact Sub.le (by assumption) (by decide)
    | intro _
    | (extract_lets +onlyGivenNames x; first
      | (have _t : State := by with_reducible apply x
         clear _t; (refine Kept.cut (s := x) ?_ fun _ => ?_) <;> [(unfold x; clear x); (clear_value x; rename' x => y)])
      | (have _t : State := by with_reducible apply x.2
         clear _t; (refine Kept.cut2 (p := x) ?_ fun _ => ?_) <;> [(unfold x; clear x); (clear_value x; rename' x => y)])
      | (clear_value x; rename' x => y)
      | rename' x => y)
    | with_reducible first
      | apply State.setDie_kept | apply State.setCluster_kept | apply State.setF_kept | apply State.setCore_kept
      | apply State.bump_kept | apply State.clock_kept | apply Kept.foldl | apply Kept.foldl2
    | split
    | (refine Kept.snd (by assumption) ?_)

theorem execHeatStart_kept {m : Nat} {r s : State} (h : Kept m r s) a b (hm : Sub 0x6010 m := by exact Sub.le (by assumption) (by decide)) :
    KeptRes m r (execHeatStart a b s) := by
  unfold execHeatStart; split
  · exact .refused _
  · exact KeptRes.when (State.doHeatStart_kept h ..) ..

theorem execReplayNear_kept {m : Nat} {r s : State} (h : Kept m r s) a b (hm : Sub 0x4010 m := by exact Sub.le (by assumption) (by decide)) :
    KeptRes m r (execReplayNear a b s) := by
  unfold execReplayNear
  repeat' first
    | with_reducible assumption
    | exact Sub.le (by assumption) (by decide)
    | intro _
    | (extract_lets +onlyGivenNames x; first
      | (have _t : State := by with_reducible apply x
         clear _t; (first | refine KeptRes.cut (s := x) ?_ fun _ => ?_ | refine Kept.cut (s := x) ?_ fun _ => ?_) <;> [(unfold x; clear x); (clear_value x; rename' x => y)])
      | (have _t : State := by with_reducible apply x.2
         clear _t; (first | refine KeptRes.cut2 (p := x) ?_ fun _ => ?_ | refine Kept.cut2 (p := x) ?_ fun _ => ?_) <;> [(unfold x; clear x); (clear_value x; rename' x => y)])
      | (clear_value x; rename' x => y)
      | rename' x => y)
    | with_reducible first
      | exact KeptRes.refused _ | apply KeptRes.when | apply State.clock_kept | apply State.setF_kept | apply Kept.foldl
      | apply Kept.foldl2
    | split
    | (refine Kept.snd (by assumption) ?_)

theorem State.applyPatch_kept {m : Nat} {r s : State} (h : Kept m r s) a b c (hm : Sub 0x602b74010 m := by exact Sub.le (by assumption) (by decide)) :
    Kept m r (s.applyPatch a b c) := by
  unfold State.applyPatch
  repeat' first
    | with_reducible assumption
    | exact Sub.le (by assumption) (by decide)
    | (extract_lets +onlyGivenNames x; first
      | (have _t : State := by with_reducible apply x
         clear _t; (refine Kept.cut (s := x) ?_ fun _ => ?_) <;> [(unfold x; clear x); (clear_value x; rename' x => y)])
      | (have _t : State := by with_reducible apply x.2
         clear _t; (refine Kept.cut2 (p := x) ?_ fun _ => ?_) <;> [(unfold x; clear x); (clear_value x; rename' x => y)])
      | (clear_value x; rename' x => y)
      | rename' x => y)
    | with_reducible first
      | apply State.bump_kept | apply State.setF_kept | apply State.violate_kept
    | split
    | (refine Kept.snd (by assumption) ?_)

theorem State.admitPatches_kept {m : Nat} {r s : State} (h : Kept m r s) a b (hm : Sub 0x2000 m := by exact Sub.le (by assumption) (by decide)) :
    Kept m r (s.admitPatches a b) :=
  State.setCore_kept h ..

theorem State.applyOne_kept {m : Nat} {r s : State} (h : Kept m r s) a b (hm : Sub 0x602b76010 m := by exact Sub.le (by assumption) (by decide)) :
    Kept m r (s.applyOne a b) := by
  unfold State.applyOne
  repeat' first
    | with_reducible assumption
    | exact Sub.le (by assumption) (by decide)
    | (extract_lets +onlyGivenNames x; first
      | (have _t : State := by with_reducible apply x
         clear _t; (refine Kept.cut (s := x) ?_ fun _ => ?_) <;> [(unfold x; clear x); (clear_value x; rename' x => y)])
      | (have _t : State := by with_reducible apply x.2
         clear _t; (refine Kept.cut2 (p := x) ?_ fun _ => ?_) <;> [(unfold x; clear x); (clear_value x; rename' x => y)])
      | (clear_value x; rename' x => y)
      | rename' x => y)
    | with_reducible first
      | apply State.admitPatches_kept | apply State.applyPatch_kept | apply State.setCore_kept
    | split
    | (refine Kept.snd (by assumption) ?_)

theorem State.turnPredictions_kept {m : Nat} {r s : State} (h : Kept m r s) a (hm : Sub 0x800 m := by exact Sub.le (by assumption) (by decide)) :
    Kept m r (s.turnPredictions a) :=
  State.setAe_kept h ..

theorem State.doWindow_kept {m : Nat} {r s : State} (h : Kept m r s) a b (hm : Sub 0x602b76810 m := by exact Sub.le (by assumption) (by decide)) :
    Kept m r (s.doWindow a b) := by
  unfold State.doWindow
  repeat' first
    | with_reducible assumption
    | exact Sub.le (by assumption) (by decide)
    | intro _
    | (extract_lets +onlyGivenNames x; first
      | (have _t : State := by with_reducible apply x
         clear _t; (refine Kept.cut (s := x) ?_ fun _ => ?_) <;> [(unfold x; clear x); (clear_value x; rename' x => y)])
      | (have _t : State := by with_reducible apply x.2
         clear _t; (refine Kept.cut2 (p := x) ?_ fun _ => ?_) <;> [(unfold x; clear x); (clear_value x; rename' x => y)])
      | (clear_value x; rename' x => y)
      | rename' x => y)
    | with_reducible first
      | apply State.setCore_kept | apply State.setF_kept | apply State.applyOne_kept | apply State.bump_kept
      | apply State.turnPredictions_kept | apply Kept.foldl | apply Kept.foldl2

theorem State.doIdlePatch_kept {m : Nat} {r s : State} (h : Kept m r s) a b (hm : Sub 0x602b76010 m := by exact Sub.le (by assumption) (by decide)) :
    Kept m r (s.doIdlePatch a b) :=
  State.setDie_kept (State.applyOne_kept h ..) ..

theorem execPatchWindow_kept {m : Nat} {r s : State} (h : Kept m r s) a b (hm : Sub 0x602b76810 m := by exact Sub.le (by assumption) (by decide)) :
    KeptRes m r (execPatchWindow a b s) := by
  unfold execPatchWindow
  repeat' first
    | with_reducible assumption
    | exact Sub.le (by assumption) (by decide)
    | with_reducible first
      | apply KeptRes.of | apply KeptRes.when | apply State.clock_kept | apply State.doWindow_kept
      | apply State.doIdlePatch_kept
    | split
    | (refine Kept.snd (by assumption) ?_)

theorem State.doHeatEnd_kept {m : Nat} {r s : State} (h : Kept m r s) a b c (hm : Sub 0x603b7e85a m := by exact Sub.le (by assumption) (by decide)) :
    Kept m r (s.doHeatEnd a b c) := by
  unfold State.doHeatEnd
  repeat' first
    | with_reducible assumption
    | exact Sub.le (by assumption) (by decide)
    | intro _
    | (extract_lets +onlyGivenNames x; first
      | (have _t : State := by with_reducible apply x
         clear _t; (refine Kept.cut (s := x) ?_ fun _ => ?_) <;> [(unfold x; clear x); (clear_value x; rename' x => y)])
      | (have _t : State := by with_reducible apply x.2
         clear _t; (refine Kept.cut2 (p := x) ?_ fun _ => ?_) <;> [(unfold x; clear x); (clear_value x; rename' x => y)])
      | (clear_value x; rename' x => y)
      | rename' x => y)
    | with_reducible first
      | apply State.setF_kept | apply State.expireWritten_kept | apply State.wr_kept | apply State.setDie_kept
      | apply State.setCluster_kept | apply State.sendCtrl_kept | apply State.clearSlow_kept | apply State.settleDie_kept
      | apply State.clock_kept | apply Kept.foldl | apply Kept.foldl2
    | split
    | (refine Kept.snd (by assumption) ?_)

theorem execHeatEnd_kept {m : Nat} {r s : State} (h : Kept m r s) a b (hm : Sub 0x603b7e85a m := by exact Sub.le (by assumption) (by decide)) :
    KeptRes m r (execHeatEnd a b s) := by
  unfold execHeatEnd; split
  · exact .refused _
  · exact KeptRes.when (State.doHeatEnd_kept h ..) ..

theorem State.doGateExpire_kept {m : Nat} {r s : State} (h : Kept m r s) a b c d e (hm : Sub 0x603b7481a m := by exact Sub.le (by assumption) (by decide)) :
    Kept m r (s.doGateExpire a b c d e) := by
  unfold State.doGateExpire
  repeat' first
    | with_reducible assumption
    | exact Sub.le (by assumption) (by decide)
    | (extract_lets +onlyGivenNames x; first
      | (have _t : State := by with_reducible apply x
         clear _t; (refine Kept.cut (s := x) ?_ fun _ => ?_) <;> [(unfold x; clear x); (clear_value x; rename' x => y)])
      | (have _t : State := by with_reducible apply x.2
         clear _t; (refine Kept.cut2 (p := x) ?_ fun _ => ?_) <;> [(unfold x; clear x); (clear_value x; rename' x => y)])
      | (clear_value x; rename' x => y)
      | rename' x => y)
    | with_reducible first
      | apply State.inject_kept | apply State.setDie_kept | apply State.waitTimeout_kept | apply State.admitPosts_kept
    | split
    | (refine Kept.snd (by assumption) ?_)

theorem execGateWatchdogExpire_kept {m : Nat} {r s : State} (h : Kept m r s) a b c (hm : Sub 0x603b7481a m := by exact Sub.le (by assumption) (by decide)) :
    KeptRes m r (execGateWatchdogExpire a b c s) := by
  unfold execGateWatchdogExpire
  repeat' first
    | with_reducible assumption
    | exact Sub.le (by assumption) (by decide)
    | with_reducible first
      | exact KeptRes.refused _ | apply KeptRes.when | apply State.doGateExpire_kept
    | split
    | (refine Kept.snd (by assumption) ?_)

theorem State.cutBucket_kept {m : Nat} {r s : State} (h : Kept m r s) a (hm : Sub 0x4000 m := by exact Sub.le (by assumption) (by decide)) :
    Kept m r (s.cutBucket a) := by
  unfold State.cutBucket
  repeat' first
    | with_reducible assumption
    | exact Sub.le (by assumption) (by decide)
    | (extract_lets +onlyGivenNames x; first
      | (have _t : State := by with_reducible apply x
         clear _t; (refine Kept.cut (s := x) ?_ fun _ => ?_) <;> [(unfold x; clear x); (clear_value x; rename' x => y)])
      | (have _t : State := by with_reducible apply x.2
         clear _t; (refine Kept.cut2 (p := x) ?_ fun _ => ?_) <;> [(unfold x; clear x); (clear_value x; rename' x => y)])
      | (clear_value x; rename' x => y)
      | rename' x => y)
    | with_reducible first
      | apply State.setDie_kept
    | split
    | (refine Kept.snd (by assumption) ?_)

theorem State.doForecast_kept {m : Nat} {r s : State} (h : Kept m r s) a b c d e (hm : Sub 0x4000 m := by exact Sub.le (by assumption) (by decide)) :
    Kept m r (s.doForecast a b c d e) := by
  unfold State.doForecast
  repeat' first
    | with_reducible assumption
    | exact Sub.le (by assumption) (by decide)
    | intro _
    | (extract_lets +onlyGivenNames x; first
      | (have _t : State := by with_reducible apply x
         clear _t; (refine Kept.cut (s := x) ?_ fun _ => ?_) <;> [(unfold x; clear x); (clear_value x; rename' x => y)])
      | (have _t : State := by with_reducible apply x.2
         clear _t; (refine Kept.cut2 (p := x) ?_ fun _ => ?_) <;> [(unfold x; clear x); (clear_value x; rename' x => y)])
      | (clear_value x; rename' x => y)
      | rename' x => y)
    | with_reducible first
      | apply State.cutBucket_kept | apply State.setDie_kept | apply Kept.foldl | apply Kept.foldl2
    | split
    | (refine Kept.snd (by assumption) ?_)

theorem execHeatForecast_kept {m : Nat} {r s : State} (h : Kept m r s) a b c d e (hm : Sub 0x4000 m := by exact Sub.le (by assumption) (by decide)) :
    KeptRes m r (execHeatForecast a b c d e s) :=
  KeptRes.whenWf (State.doForecast_kept h ..) ..

theorem execForecastLapse_kept {m : Nat} {r s : State} (h : Kept m r s) a (hm : Sub 0x4000 m := by exact Sub.le (by assumption) (by decide)) :
    KeptRes m r (execForecastLapse a s) :=
  KeptRes.when (State.cutBucket_kept (State.setDie_kept h ..) ..) ..

theorem State.stepTo_kept {m : Nat} {r s : State} (h : Kept m r s) a b (hm : Sub 0x4010 m := by exact Sub.le (by assumption) (by decide)) :
    Kept m r (s.stepTo a b) :=
  State.setF_kept (State.setDie_kept h ..) ..

theorem State.forceStep_kept {m : Nat} {r s : State} (h : Kept m r s) a b c d (hm : Sub 0x603b7481a m := by exact Sub.le (by assumption) (by decide)) :
    Kept m r (s.forceStep a b c d) := by
  unfold State.forceStep
  repeat' first
    | with_reducible assumption
    | exact Sub.le (by assumption) (by decide)
    | (extract_lets +onlyGivenNames x; first
      | (have _t : State := by with_reducible apply x
         clear _t; (refine Kept.cut (s := x) ?_ fun _ => ?_) <;> [(unfold x; clear x); (clear_value x; rename' x => y)])
      | (have _t : State := by with_reducible apply x.2
         clear _t; (refine Kept.cut2 (p := x) ?_ fun _ => ?_) <;> [(unfold x; clear x); (clear_value x; rename' x => y)])
      | (clear_value x; rename' x => y)
      | rename' x => y)
    | with_reducible first
      | apply State.setDie_kept | apply State.bump_kept | apply State.setF_kept | apply State.record_kept
      | apply State.sendCtrl_kept | apply State.setSlow_kept
    | split
    | (refine Kept.snd (by assumption) ?_)

theorem State.stepDown_kept {m : Nat} {r s : State} (h : Kept m r s) a b (hm : Sub 0x603b7481a m := by exact Sub.le (by assumption) (by decide)) :
    Kept m r (s.stepDown a b) := by
  unfold State.stepDown
  repeat' first
    | with_reducible assumption
    | exact Sub.le (by assumption) (by decide)
    | (extract_lets +onlyGivenNames x; first
      | (have _t : State := by with_reducible apply x
         clear _t; (refine Kept.cut (s := x) ?_ fun _ => ?_) <;> [(unfold x; clear x); (clear_value x; rename' x => y)])
      | (have _t : State := by with_reducible apply x.2
         clear _t; (refine Kept.cut2 (p := x) ?_ fun _ => ?_) <;> [(unfold x; clear x); (clear_value x; rename' x => y)])
      | (clear_value x; rename' x => y)
      | rename' x => y)
    | with_reducible first
      | apply State.stepTo_kept | apply State.setDie_kept | apply State.forceStep_kept
    | split
    | (refine Kept.snd (by assumption) ?_)

theorem State.doOppStep_kept {m : Nat} {r s : State} (h : Kept m r s) a (hm : Sub 0x603b7481a m := by exact Sub.le (by assumption) (by decide)) :
    Kept m r (s.doOppStep a) := by
  unfold State.doOppStep
  repeat' first
    | with_reducible assumption
    | exact Sub.le (by assumption) (by decide)
    | (extract_lets +onlyGivenNames x; first
      | (have _t : State := by with_reducible apply x
         clear _t; (refine Kept.cut (s := x) ?_ fun _ => ?_) <;> [(unfold x; clear x); (clear_value x; rename' x => y)])
      | (have _t : State := by with_reducible apply x.2
         clear _t; (refine Kept.cut2 (p := x) ?_ fun _ => ?_) <;> [(unfold x; clear x); (clear_value x; rename' x => y)])
      | (clear_value x; rename' x => y)
      | rename' x => y)
    | with_reducible first
      | apply State.setDie_kept | apply State.stepTo_kept | apply State.forceStep_kept
    | split
    | (refine Kept.snd (by assumption) ?_)

theorem execOppStep_kept {m : Nat} {r s : State} (h : Kept m r s) a (hm : Sub 0x603b7481a m := by exact Sub.le (by assumption) (by decide)) :
    KeptRes m r (execOppStep a s) :=
  KeptRes.when (State.doOppStep_kept h ..) ..

theorem State.doGrant169_kept {m : Nat} {r s : State} (h : Kept m r s) (hm : Sub 0x4000 m := by exact Sub.le (by assumption) (by decide)) :
    Kept m r (s.doGrant169) := by
  unfold State.doGrant169
  repeat' first
    | with_reducible assumption
    | exact Sub.le (by assumption) (by decide)
    | intro _
    | (extract_lets +onlyGivenNames x; first
      | (have _t : State := by with_reducible apply x
         clear _t; (refine Kept.cut (s := x) ?_ fun _ => ?_) <;> [(unfold x; clear x); (clear_value x; rename' x => y)])
      | (have _t : State := by with_reducible apply x.2
         clear _t; (refine Kept.cut2 (p := x) ?_ fun _ => ?_) <;> [(unfold x; clear x); (clear_value x; rename' x => y)])
      | (clear_value x; rename' x => y)
      | rename' x => y)
    | with_reducible first
      | apply State.cutBucket_kept | apply State.setDie_kept | apply Kept.foldl | apply Kept.foldl2

theorem execGrantRecompute_kept {m : Nat} {r s : State} (h : Kept m r s) (hm : Sub 0x4000 m := by exact Sub.le (by assumption) (by decide)) :
    KeptRes m r (execGrantRecompute s) :=
  .of (State.doGrant169_kept h ..)

theorem State.powerLimit_kept {m : Nat} {r s : State} (h : Kept m r s) a b c (hm : Sub 0x602b74010 m := by exact Sub.le (by assumption) (by decide)) :
    Kept m r (s.powerLimit a b c) :=
  State.record_kept (State.setF_kept h ..) ..

theorem State.bucketDie_kept {m : Nat} {r s : State} (h : Kept m r s) a b (hm : Sub 0x603b7481a m := by exact Sub.le (by assumption) (by decide)) :
    Kept m r (s.bucketDie a b) := by
  unfold State.bucketDie
  repeat' first
    | with_reducible assumption
    | exact Sub.le (by assumption) (by decide)
    | (extract_lets +onlyGivenNames x; first
      | (have _t : State := by with_reducible apply x
         clear _t; (refine Kept.cut (s := x) ?_ fun _ => ?_) <;> [(unfold x; clear x); (clear_value x; rename' x => y)])
      | (have _t : State := by with_reducible apply x.2
         clear _t; (refine Kept.cut2 (p := x) ?_ fun _ => ?_) <;> [(unfold x; clear x); (clear_value x; rename' x => y)])
      | (clear_value x; rename' x => y)
      | rename' x => y)
    | with_reducible first
      | apply State.inject_kept | apply State.setF_kept | apply State.setDie_kept | apply State.powerLimit_kept
      | apply State.stepDown_kept
    | split
    | (refine Kept.snd (by assumption) ?_)

theorem State.windowDie_kept {m : Nat} {r s : State} (h : Kept m r s) a (hm : Sub 0x603b7481a m := by exact Sub.le (by assumption) (by decide)) :
    Kept m r (s.windowDie a) := by
  unfold State.windowDie
  repeat' first
    | with_reducible assumption
    | exact Sub.le (by assumption) (by decide)
    | intro _
    | (extract_lets +onlyGivenNames x; first
      | (have _t : State := by with_reducible apply x
         clear _t; (refine Kept.cut (s := x) ?_ fun _ => ?_) <;> [(unfold x; clear x); (clear_value x; rename' x => y)])
      | (have _t : State := by with_reducible apply x.2
         clear _t; (refine Kept.cut2 (p := x) ?_ fun _ => ?_) <;> [(unfold x; clear x); (clear_value x; rename' x => y)])
      | (clear_value x; rename' x => y)
      | rename' x => y)
    | with_reducible first
      | apply State.setDie_kept | apply State.setF_kept | apply State.bump_kept | apply State.bucketDie_kept
      | apply Kept.foldl | apply Kept.foldl2
    | split
    | (refine Kept.snd (by assumption) ?_)

theorem State.attributeNet_kept {m : Nat} {r s : State} (h : Kept m r s) a (hm : Sub 0x40000010 m := by exact Sub.le (by assumption) (by decide)) :
    Kept m r (s.attributeNet a) := by
  unfold State.attributeNet
  repeat' first
    | with_reducible assumption
    | exact Sub.le (by assumption) (by decide)
    | intro _
    | (extract_lets +onlyGivenNames x; first
      | (have _t : State := by with_reducible apply x
         clear _t; (refine Kept.cut (s := x) ?_ fun _ => ?_) <;> [(unfold x; clear x); (clear_value x; rename' x => y)])
      | (have _t : State := by with_reducible apply x.2
         clear _t; (refine Kept.cut2 (p := x) ?_ fun _ => ?_) <;> [(unfold x; clear x); (clear_value x; rename' x => y)])
      | (clear_value x; rename' x => y)
      | rename' x => y)
    | with_reducible first
      | apply State.bump_kept | apply Kept.foldl | apply Kept.foldl2
    | split
    | (refine Kept.snd (by assumption) ?_)
    | (fail_if_no_progress with_reducible refine Kept.upd ?_ (by rfl))

theorem State.noteOver_kept {m : Nat} {r s : State} (h : Kept m r s) (hm : Sub 0x20000000 m := by exact Sub.le (by assumption) (by decide)) :
    Kept m r (s.noteOver) :=
  .upd h rfl

theorem State.packageLimits_kept {m : Nat} {r s : State} (h : Kept m r s) a b (hm : Sub 0x623b7481a m := by exact Sub.le (by assumption) (by decide)) :
    Kept m r (s.packageLimits a b) := by
  unfold State.packageLimits
  repeat' first
    | with_reducible assumption
    | exact Sub.le (by assumption) (by decide)
    | intro _
    | (extract_lets +onlyGivenNames x; first
      | (have _t : State := by with_reducible apply x
         clear _t; (refine Kept.cut (s := x) ?_ fun _ => ?_) <;> [(unfold x; clear x); (clear_value x; rename' x => y)])
      | (have _t : State := by with_reducible apply x.2
         clear _t; (refine Kept.cut2 (p := x) ?_ fun _ => ?_) <;> [(unfold x; clear x); (clear_value x; rename' x => y)])
      | (clear_value x; rename' x => y)
      | rename' x => y)
    | with_reducible first
      | apply State.setF_kept | apply State.bump_kept | apply State.noteOver_kept | apply State.powerLimit_kept
      | apply State.stepDown_kept | apply Kept.foldl | apply Kept.foldl2
    | split
    | (refine Kept.snd (by assumption) ?_)

theorem State.doBucketWindow_kept {m : Nat} {r s : State} (h : Kept m r s) a (hm : Sub 0x663b7481a m := by exact Sub.le (by assumption) (by decide)) :
    Kept m r (s.doBucketWindow a) := by
  unfold State.doBucketWindow
  repeat' first
    | with_reducible assumption
    | exact Sub.le (by assumption) (by decide)
    | intro _
    | (extract_lets +onlyGivenNames x; first
      | (have _t : State := by with_reducible apply x
         clear _t; (refine Kept.cut (s := x) ?_ fun _ => ?_) <;> [(unfold x; clear x); (clear_value x; rename' x => y)])
      | (have _t : State := by with_reducible apply x.2
         clear _t; (refine Kept.cut2 (p := x) ?_ fun _ => ?_) <;> [(unfold x; clear x); (clear_value x; rename' x => y)])
      | (clear_value x; rename' x => y)
      | rename' x => y)
    | with_reducible first
      | apply State.setDie_kept | apply State.windowDie_kept | apply State.bump_kept | apply State.attributeNet_kept
      | apply State.inject_kept | apply State.packageLimits_kept | apply Kept.foldl | apply Kept.foldl2
    | split
    | (refine Kept.snd (by assumption) ?_)

theorem execBucketWindow_kept {m : Nat} {r s : State} (h : Kept m r s) a (hm : Sub 0x663b7481a m := by exact Sub.le (by assumption) (by decide)) :
    KeptRes m r (execBucketWindow a s) :=
  .of (State.doBucketWindow_kept h ..)

theorem execReserveRefill_kept {m : Nat} {r s : State} (h : Kept m r s) (hm : Sub 0x10 m := by exact Sub.le (by assumption) (by decide)) :
    KeptRes m r (execReserveRefill s) :=
  KeptRes.when (State.setF_kept h ..) ..

theorem execDroopTrip_kept {m : Nat} {r s : State} (h : Kept m r s) a b (hm : Sub 0x4010 m := by exact Sub.le (by assumption) (by decide)) :
    KeptRes m r (execDroopTrip a b s) :=
  KeptRes.when (State.bump_kept (State.setF_kept (State.setDie_kept h ..) ..) ..) ..

theorem execDroopEnd_kept {m : Nat} {r s : State} (h : Kept m r s) a b (hm : Sub 0x4010 m := by exact Sub.le (by assumption) (by decide)) :
    KeptRes m r (execDroopEnd a b s) :=
  KeptRes.when (State.bump_kept (State.setF_kept (State.setDie_kept h ..) ..) ..) ..

theorem State.doDroopSustained_kept {m : Nat} {r s : State} (h : Kept m r s) a b (hm : Sub 0x603b7481a m := by exact Sub.le (by assumption) (by decide)) :
    Kept m r (s.doDroopSustained a b) := by
  unfold State.doDroopSustained
  repeat' first
    | with_reducible assumption
    | exact Sub.le (by assumption) (by decide)
    | (extract_lets +onlyGivenNames x; first
      | (have _t : State := by with_reducible apply x
         clear _t; (refine Kept.cut (s := x) ?_ fun _ => ?_) <;> [(unfold x; clear x); (clear_value x; rename' x => y)])
      | (have _t : State := by with_reducible apply x.2
         clear _t; (refine Kept.cut2 (p := x) ?_ fun _ => ?_) <;> [(unfold x; clear x); (clear_value x; rename' x => y)])
      | (clear_value x; rename' x => y)
      | rename' x => y)
    | with_reducible first
      | apply State.inject_kept | apply State.setF_kept | apply State.stepDown_kept | apply State.record_kept
    | split
    | (refine Kept.snd (by assumption) ?_)

theorem execDroopSustained_kept {m : Nat} {r s : State} (h : Kept m r s) a b (hm : Sub 0x603b7481a m := by exact Sub.le (by assumption) (by decide)) :
    KeptRes m r (execDroopSustained a b s) :=
  KeptRes.when (State.doDroopSustained_kept h ..) ..

theorem State.refit_kept {m : Nat} {r s : State} (h : Kept m r s) (hm : Sub 0x304018 m := by exact Sub.le (by assumption) (by decide)) :
    Kept m r (s.refit) := by
  unfold State.refit
  repeat' first
    | with_reducible assumption
    | exact Sub.le (by assumption) (by decide)
    | intro _
    | (extract_lets +onlyGivenNames x; first
      | (have _t : State := by with_reducible apply x
         clear _t; (refine Kept.cut (s := x) ?_ fun _ => ?_) <;> [(unfold x; clear x); (clear_value x; rename' x => y)])
      | (have _t : State := by with_reducible apply x.2
         clear _t; (refine Kept.cut2 (p := x) ?_ fun _ => ?_) <;> [(unfold x; clear x); (clear_value x; rename' x => y)])
      | (clear_value x; rename' x => y)
      | rename' x => y)
    | with_reducible first
      | apply State.palPut_kept | apply State.setF_kept | apply State.setDie_kept | apply Kept.foldl | apply Kept.foldl2
    | split
    | (refine Kept.snd (by assumption) ?_)
    | (fail_if_no_progress with_reducible refine Kept.upd ?_ (by rfl))
    | (with_reducible refine Kept.updFree ?_ (by exact Nat.le_add_right ..) (by rfl))

theorem State.doCalibration_kept {m : Nat} {r s : State} (h : Kept m r s) (hm : Sub 0x602b74018 m := by exact Sub.le (by assumption) (by decide)) :
    Kept m r (s.doCalibration) := by
  unfold State.doCalibration
  repeat' first
    | with_reducible assumption
    | exact Sub.le (by assumption) (by decide)
    | (extract_lets +onlyGivenNames x; first
      | (have _t : State := by with_reducible apply x
         clear _t; (refine Kept.cut (s := x) ?_ fun _ => ?_) <;> [(unfold x; clear x); (clear_value x; rename' x => y)])
      | (have _t : State := by with_reducible apply x.2
         clear _t; (refine Kept.cut2 (p := x) ?_ fun _ => ?_) <;> [(unfold x; clear x); (clear_value x; rename' x => y)])
      | (clear_value x; rename' x => y)
      | rename' x => y)
    | with_reducible first
      | apply State.maintRequest_kept | apply State.maintEnd_kept | apply State.refit_kept
    | split
    | (refine Kept.snd (by assumption) ?_)

theorem execCalibration_kept {m : Nat} {r s : State} (h : Kept m r s) (hm : Sub 0x602b74018 m := by exact Sub.le (by assumption) (by decide)) :
    KeptRes m r (execCalibration s) :=
  KeptRes.when (State.doCalibration_kept h ..) ..

theorem State.driftUnit_kept {m : Nat} {r s : State} (h : Kept m r s) a b (hm : Sub 0x602b74010 m := by exact Sub.le (by assumption) (by decide)) :
    Kept m r (s.driftUnit a b) := by
  unfold State.driftUnit
  repeat' first
    | with_reducible assumption
    | exact Sub.le (by assumption) (by decide)
    | (extract_lets +onlyGivenNames x; first
      | (have _t : State := by with_reducible apply x
         clear _t; (refine Kept.cut (s := x) ?_ fun _ => ?_) <;> [(unfold x; clear x); (clear_value x; rename' x => y)])
      | (have _t : State := by with_reducible apply x.2
         clear _t; (refine Kept.cut2 (p := x) ?_ fun _ => ?_) <;> [(unfold x; clear x); (clear_value x; rename' x => y)])
      | (clear_value x; rename' x => y)
      | rename' x => y)
    | with_reducible first
      | apply State.inject_kept | apply State.setDie_kept | apply State.setF_kept | apply State.record_kept
    | split
    | (refine Kept.snd (by assumption) ?_)

theorem State.inputSample_kept {m : Nat} {r s : State} (h : Kept m r s) (hm : Sub 0x18 m := by exact Sub.le (by assumption) (by decide)) :
    Kept m r (s.inputSample) := by
  unfold State.inputSample
  repeat' first
    | with_reducible assumption
    | exact Sub.le (by assumption) (by decide)
    | (extract_lets +onlyGivenNames x; first
      | (have _t : State := by with_reducible apply x
         clear _t; (refine Kept.cut (s := x) ?_ fun _ => ?_) <;> [(unfold x; clear x); (clear_value x; rename' x => y)])
      | (have _t : State := by with_reducible apply x.2
         clear _t; (refine Kept.cut2 (p := x) ?_ fun _ => ?_) <;> [(unfold x; clear x); (clear_value x; rename' x => y)])
      | (clear_value x; rename' x => y)
      | rename' x => y)
    | with_reducible first
      | apply State.tick_kept | apply State.setF_kept
    | split
    | (refine Kept.snd (by assumption) ?_)

theorem State.doDriftInterval_kept {m : Nat} {r s : State} (h : Kept m r s) a b (hm : Sub 0x603b7481a m := by exact Sub.le (by assumption) (by decide)) :
    Kept m r (s.doDriftInterval a b) := by
  unfold State.doDriftInterval
  repeat' first
    | with_reducible assumption
    | exact Sub.le (by assumption) (by decide)
    | intro _
    | (extract_lets +onlyGivenNames x; first
      | (have _t : State := by with_reducible apply x
         clear _t; (refine Kept.cut (s := x) ?_ fun _ => ?_) <;> [(unfold x; clear x); (clear_value x; rename' x => y)])
      | (have _t : State := by with_reducible apply x.2
         clear _t; (refine Kept.cut2 (p := x) ?_ fun _ => ?_) <;> [(unfold x; clear x); (clear_value x; rename' x => y)])
      | (clear_value x; rename' x => y)
      | rename' x => y)
    | with_reducible first
      | apply State.bump_kept | apply State.setF_kept | apply State.driftUnit_kept | apply State.inputSample_kept
      | apply State.powerLimit_kept | apply State.stepDown_kept | apply Kept.foldl | apply Kept.foldl2
    | split
    | (refine Kept.snd (by assumption) ?_)

theorem execDriftInterval_kept {m : Nat} {r s : State} (h : Kept m r s) a b (hm : Sub 0x603b7481a m := by exact Sub.le (by assumption) (by decide)) :
    KeptRes m r (execDriftInterval a b s) :=
  KeptRes.whenWf (State.doDriftInterval_kept h ..) ..

theorem execClusterRetain_kept {m : Nat} {r s : State} (h : Kept m r s) a b (hm : Sub 0x10 m := by exact Sub.le (by assumption) (by decide)) :
    KeptRes m r (execClusterRetain a b s) :=
  KeptRes.when (State.setCluster_kept h ..) ..

theorem State.doPllStop_kept {m : Nat} {r s : State} (h : Kept m r s) a (hm : Sub 0x10 m := by exact Sub.le (by assumption) (by decide)) :
    Kept m r (s.doPllStop a) := by
  unfold State.doPllStop
  repeat' first
    | with_reducible assumption
    | exact Sub.le (by assumption) (by decide)
    | intro _
    | (extract_lets +onlyGivenNames x; first
      | (have _t : State := by with_reducible apply x
         clear _t; (refine Kept.cut (s := x) ?_ fun _ => ?_) <;> [(unfold x; clear x); (clear_value x; rename' x => y)])
      | (have _t : State := by with_reducible apply x.2
         clear _t; (refine Kept.cut2 (p := x) ?_ fun _ => ?_) <;> [(unfold x; clear x); (clear_value x; rename' x => y)])
      | (clear_value x; rename' x => y)
      | rename' x => y)
    | with_reducible first
      | apply State.setF_kept | apply State.setCluster_kept | apply State.bump_kept | apply Kept.foldl | apply Kept.foldl2
    | split
    | (refine Kept.snd (by assumption) ?_)

theorem execPllStop_kept {m : Nat} {r s : State} (h : Kept m r s) a (hm : Sub 0x10 m := by exact Sub.le (by assumption) (by decide)) :
    KeptRes m r (execPllStop a s) :=
  KeptRes.when (State.doPllStop_kept h ..) ..

theorem State.wrMask_kept {m : Nat} {r s : State} (h : Kept m r s) a b c (hm : Sub 0x10 m := by exact Sub.le (by assumption) (by decide)) :
    Kept m r (s.wrMask a b c) :=
  State.wr_kept h ..

theorem State.cbSet_kept {m : Nat} {r s : State} (h : Kept m r s) a b c (hm : Sub 0x100000010 m := by exact Sub.le (by assumption) (by decide)) :
    Kept m r (s.cbSet a b c) := by
  unfold State.cbSet
  repeat' first
    | with_reducible assumption
    | exact Sub.le (by assumption) (by decide)
    | (extract_lets +onlyGivenNames x; first
      | (have _t : State := by with_reducible apply x
         clear _t; (refine Kept.cut (s := x) ?_ fun _ => ?_) <;> [(unfold x; clear x); (clear_value x; rename' x => y)])
      | (have _t : State := by with_reducible apply x.2
         clear _t; (refine Kept.cut2 (p := x) ?_ fun _ => ?_) <;> [(unfold x; clear x); (clear_value x; rename' x => y)])
      | (clear_value x; rename' x => y)
      | rename' x => y)
    | with_reducible first
      | apply State.wrMask_kept
    | (fail_if_no_progress with_reducible refine Kept.upd ?_ (by rfl))

theorem State.cbField_kept {m : Nat} {r s : State} (h : Kept m r s) a b c (hm : Sub 0x100000010 m := by exact Sub.le (by assumption) (by decide)) :
    Kept m r (s.cbField a b c) :=
  State.cbSet_kept h ..

theorem State.spareRows_kept {m : Nat} {r s : State} (h : Kept m r s) a (hm : Sub 0x10 m := by exact Sub.le (by assumption) (by decide)) :
    Kept m r (s.spareRows a) :=
  State.setF_kept h ..

theorem State.reapply_kept {m : Nat} {r s : State} (h : Kept m r s) a (hm : Sub 0x10 m := by exact Sub.le (by assumption) (by decide)) : Kept m r (s.reapply a) := by
  unfold State.reapply
  extract_lets -underBinder s1
  have h1 : Kept m r s1 := Kept.foldl h fun s e h => State.wrMask_kept h ..
  split
  · exact h1
  extract_lets -underBinder put s2 s3
  have hp : ∀ s e, Kept m r s → Kept m r (put s e) := by
    intro s e h; unfold put; split
    · exact State.wrMask_kept h ..
    · exact h
  have h2 : Kept m r s2 := by
    unfold s2; split
    · exact Kept.foldl h1 hp
    · exact h1
  refine Kept.foldl (Kept.foldl h2 hp) fun s k h => ?_
  split
  · exact State.spareRows_kept h ..
  · exact h

theorem State.resetRegs_kept {m : Nat} {r s : State} (h : Kept m r s) a (hm : Sub 0x10 m := by exact Sub.le (by assumption) (by decide)) :
    Kept m r (s.resetRegs a) :=
  State.reapply_kept (.upd h rfl) ..

theorem State.seedEngines_kept {m : Nat} {r s : State} (h : Kept m r s) a b (hm : Sub 0x200 m := by exact Sub.le (by assumption) (by decide)) :
    Kept m r (s.seedEngines a b) := by
  unfold State.seedEngines
  repeat' first
    | with_reducible assumption
    | exact Sub.le (by assumption) (by decide)
    | intro _
    | (extract_lets +onlyGivenNames x; first
      | (have _t : State := by with_reducible apply x
         clear _t; (refine Kept.cut (s := x) ?_ fun _ => ?_) <;> [(unfold x; clear x); (clear_value x; rename' x => y)])
      | (have _t : State := by with_reducible apply x.2
         clear _t; (refine Kept.cut2 (p := x) ?_ fun _ => ?_) <;> [(unfold x; clear x); (clear_value x; rename' x => y)])
      | (clear_value x; rename' x => y)
      | rename' x => y)
    | with_reducible first
      | apply State.setEng_kept | apply Kept.foldl | apply Kept.foldl2

theorem State.resetCluster_kept {m : Nat} {r s : State} (h : Kept m r s) a (hm : Sub 0x3eb0 m := by exact Sub.le (by assumption) (by decide)) :
    Kept m r (s.resetCluster a) :=
  State.seedEngines_kept (State.resetRegs_kept (State.clearCores_kept h ..) ..) ..

theorem State.dropWaits_kept {m : Nat} {r s : State} (h : Kept m r s) a (hm : Sub 0x80000002 m := by exact Sub.le (by assumption) (by decide)) :
    Kept m r (s.dropWaits a) :=
  State.emits_kept (.upd h rfl) ..

theorem State.resetDie_kept {m : Nat} {r s : State} (h : Kept m r s) a (hm : Sub 0x8000feb2 m := by exact Sub.le (by assumption) (by decide)) :
    Kept m r (s.resetDie a) := by
  unfold State.resetDie
  repeat' first
    | with_reducible assumption
    | exact Sub.le (by assumption) (by decide)
    | intro _
    | (extract_lets +onlyGivenNames x; first
      | (have _t : State := by with_reducible apply x
         clear _t; (refine Kept.cut (s := x) ?_ fun _ => ?_) <;> [(unfold x; clear x); (clear_value x; rename' x => y)])
      | (have _t : State := by with_reducible apply x.2
         clear _t; (refine Kept.cut2 (p := x) ?_ fun _ => ?_) <;> [(unfold x; clear x); (clear_value x; rename' x => y)])
      | (clear_value x; rename' x => y)
      | rename' x => y)
    | with_reducible first
      | apply State.clearCores_kept | apply State.setDie_kept | apply State.setStk_kept | apply State.resetRegs_kept
      | apply State.dropWaits_kept | apply State.seedEngines_kept | apply Kept.foldl | apply Kept.foldl2

theorem State.setScribe_kept {m : Nat} {r s : State} (h : Kept m r s) a b (hm : Sub 0x200000000 m := by exact Sub.le (by assumption) (by decide)) :
    Kept m r (s.setScribe a b) :=
  .upd h rfl

theorem State.resetStack_kept {m : Nat} {r s : State} (h : Kept m r s) a (hm : Sub 0x200000010 m := by exact Sub.le (by assumption) (by decide)) :
    Kept m r (s.resetStack a) :=
  State.resetRegs_kept (State.setScribe_kept h ..) ..

theorem State.resetLink_kept {m : Nat} {r s : State} (h : Kept m r s) (hm : Sub 0x1810010 m := by exact Sub.le (by assumption) (by decide)) :
    Kept m r (s.resetLink) :=
  State.resetRegs_kept (.upd h rfl) ..

theorem State.resetAll_kept {m : Nat} {r s : State} (h : Kept m r s) a (hm : Sub 0x1ffffffff4 m := by exact Sub.le (by assumption) (by decide)) : Kept m r (s.resetAll a) := by
  unfold State.resetAll
  extract_lets -underBinder init otp regs lost e n bh p t
  have ht : Kept m r t := Kept.cleared (s := s) rfl rfl rfl rfl rfl rfl .mk h
  split
  · exact State.setF_kept ht ..
  · exact ht

theorem State.powerDie_kept {m : Nat} {r s : State} (h : Kept m r s) a b (hm : Sub 0x8800feb2 m := by exact Sub.le (by assumption) (by decide)) :
    Kept m r (s.powerDie a b) := by
  unfold State.powerDie
  repeat' first
    | with_reducible assumption
    | exact Sub.le (by assumption) (by decide)
    | (extract_lets +onlyGivenNames x; first
      | (have _t : State := by with_reducible apply x
         clear _t; (refine Kept.cut (s := x) ?_ fun _ => ?_) <;> [(unfold x; clear x); (clear_value x; rename' x => y)])
      | (have _t : State := by with_reducible apply x.2
         clear _t; (refine Kept.cut2 (p := x) ?_ fun _ => ?_) <;> [(unfold x; clear x); (clear_value x; rename' x => y)])
      | (clear_value x; rename' x => y)
      | rename' x => y)
    | with_reducible first
      | apply State.resetDie_kept | apply State.setF_kept
    | split
    | (refine Kept.snd (by assumption) ?_)
    | (fail_if_no_progress with_reducible refine Kept.upd ?_ (by rfl))

theorem State.powerStack_kept {m : Nat} {r s : State} (h : Kept m r s) a b (hm : Sub 0x208008150 m := by exact Sub.le (by assumption) (by decide)) :
    Kept m r (s.powerStack a b) := by
  unfold State.powerStack
  repeat' first
    | with_reducible assumption
    | exact Sub.le (by assumption) (by decide)
    | (extract_lets +onlyGivenNames x; first
      | (have _t : State := by with_reducible apply x
         clear _t; (refine Kept.cut (s := x) ?_ fun _ => ?_) <;> [(unfold x; clear x); (clear_value x; rename' x => y)])
      | (have _t : State := by with_reducible apply x.2
         clear _t; (refine Kept.cut2 (p := x) ?_ fun _ => ?_) <;> [(unfold x; clear x); (clear_value x; rename' x => y)])
      | (clear_value x; rename' x => y)
      | rename' x => y)
    | with_reducible first
      | apply State.resetStack_kept | apply State.setF_kept | apply State.loseStack_kept
    | split
    | (refine Kept.snd (by assumption) ?_)
    | (fail_if_no_progress with_reducible refine Kept.upd ?_ (by rfl))

theorem State.joinWait_kept {m : Nat} {r s : State} (h : Kept m r s) a b c d e f (hm : Sub 0x80000000 m := by exact Sub.le (by assumption) (by decide)) :
    Kept m r (s.joinWait a b c d e f) :=
  .upd h rfl

theorem State.ctlIn_kept {m : Nat} {r s : State} (h : Kept m r s) a b c d (e : Sys2Proof.Machine.State → Sys2Proof.Machine.State) f (he : ∀ (s : State), Kept m r s → Kept m r (e s)) (hm : Sub 0x682b74012 m := by exact Sub.le (by assumption) (by decide)) :
    Kept m r (s.ctlIn a b c d e f) := by
  unfold State.ctlIn
  repeat' first
    | with_reducible assumption
    | exact Sub.le (by assumption) (by decide)
    | intro _
    | (extract_lets +onlyGivenNames x; first
      | (have _t : State := by with_reducible apply x
         clear _t; (refine Kept.cut (s := x) ?_ fun _ => ?_) <;> [(unfold x; clear x); (clear_value x; rename' x => y)])
      | (have _t : State := by with_reducible apply x.2
         clear _t; (refine Kept.cut2 (p := x) ?_ fun _ => ?_) <;> [(unfold x; clear x); (clear_value x; rename' x => y)])
      | (clear_value x; rename' x => y)
      | rename' x => y)
    | with_reducible first
      | apply State.accessStatus_kept | apply State.emit_kept | apply State.joinWait_kept | apply he
    | split
    | (refine Kept.snd (by assumption) ?_)

end Sys2Proof.Machine
end

