-- ==== Sys2Proof/Laws/KeptScribe.lean ====
section
/-! SUPPORT. What `Kept` says of scribes, jobs, snapshots and maintenance: one lemma per function, citing those of the functions it calls. -/

set_option linter.unreachableTactic false
set_option linter.unusedTactic false
set_option linter.tactic.unusedName false

namespace Sys2Proof.Machine

set_option Elab.async false

open Sys2Proof

theorem State.stkRead_kept {m : Nat} {r s : State} (h : Kept m r s) a b c (hm : Sub 0x602b74010 m := by exact Sub.le (by assumption) (by decide)) :
    Kept m r (s.stkRead a b c).2 := by
  unfold State.stkRead
  repeat' first
    | with_reducible assumption
    | exact Sub.le (by assumption) (by decide)
    | intro _
    | (extract_lets +onlyGivenNames x; first
      | (have _t : State := by with_reducible apply x
         clear _t; (refine Kept.cut (s := x) ?_ fun _ => ?_) <;> [(unfold x; clear x); (clear_value x; rename' x => y)])
      | (have _t : State := by with_reducible apply x.2
         clear _t; (refine Kept.cut2 (p := x) ?_ fun _ => ?_) <;> [(unfold x; clear x); (clear_value x; rename' x => y)])
      | (clear_value x; rename' x => y)
      | rename' x => y)
    | with_reducible first
      | apply State.bump_kept | apply State.eccRead_kept | apply State.countTransfer_kept | apply Kept.foldl
      | apply Kept.foldl2

theorem State.stkWrite_kept {m : Nat} {r s : State} (h : Kept m r s) a b c (hm : Sub 0x6c050 m := by exact Sub.le (by assumption) (by decide)) :
    Kept m r (s.stkWrite a b c) :=
  .foldl (State.bump_kept h ..) fun _ _ h => State.eccWrite_kept (State.countTransfer_kept h ..) ..

theorem State.nodeWrite_kept {m : Nat} {r s : State} (h : Kept m r s) a b (hm : Sub 0x602b7c870 m := by exact Sub.le (by assumption) (by decide)) :
    Kept m r (s.nodeWrite a b) := by
  unfold State.nodeWrite
  repeat' first
    | with_reducible assumption
    | exact Sub.le (by assumption) (by decide)
    | (extract_lets +onlyGivenNames x; first
      | (have _t : State := by with_reducible apply x
         clear _t; (refine Kept.cut (s := x) ?_ fun _ => ?_) <;> [(unfold x; clear x); (clear_value x; rename' x => y)])
      | (have _t : State := by with_reducible apply x.2
         clear _t; (refine Kept.cut2 (p := x) ?_ fun _ => ?_) <;> [(unfold x; clear x); (clear_value x; rename' x => y)])
      | (clear_value x; rename' x => y)
      | rename' x => y)
    | with_reducible first
      | apply State.hbmWrite_kept | apply State.spadWrite_kept
    | split
    | (refine Kept.snd (by assumption) ?_)

theorem State.nodeRead_kept {m : Nat} {r s : State} (h : Kept m r s) a b (hm : Sub 0x602b74010 m := by exact Sub.le (by assumption) (by decide)) :
    Kept m r (s.nodeRead a b).2 := by
  unfold State.nodeRead
  repeat' first
    | with_reducible assumption
    | exact Sub.le (by assumption) (by decide)
    | (extract_lets +onlyGivenNames x; first
      | (have _t : State := by with_reducible apply x
         clear _t; (refine Kept.cut (s := x) ?_ fun _ => ?_) <;> [(unfold x; clear x); (clear_value x; rename' x => y)])
      | (have _t : State := by with_reducible apply x.2
         clear _t; (refine Kept.cut2 (p := x) ?_ fun _ => ?_) <;> [(unfold x; clear x); (clear_value x; rename' x => y)])
      | (clear_value x; rename' x => y)
      | rename' x => y)
    | with_reducible first
      | apply State.hbmRead_kept
    | split
    | (refine Kept.snd (by assumption) ?_)

theorem State.runs_kept {m : Nat} {r s : State} (h : Kept m r s) a b c (hm : Sub 0x602b74010 m := by exact Sub.le (by assumption) (by decide)) :
    Kept m r (s.runs a b c).2 := by
  unfold State.runs
  repeat' first
    | with_reducible assumption
    | exact Sub.le (by assumption) (by decide)
    | intro _
    | (extract_lets +onlyGivenNames x; first
      | (have _t : State := by with_reducible apply x
         clear _t; (refine Kept.cut (s := x) ?_ fun _ => ?_) <;> [(unfold x; clear x); (clear_value x; rename' x => y)])
      | (have _t : State := by with_reducible apply x.2
         clear _t; (refine Kept.cut2 (p := x) ?_ fun _ => ?_) <;> [(unfold x; clear x); (clear_value x; rename' x => y)])
      | (clear_value x; rename' x => y)
      | rename' x => y)
    | with_reducible first
      | apply State.stkRead_kept | apply State.bump_kept | apply Kept.foldl | apply Kept.foldl2
    | split
    | (refine Kept.snd (by assumption) ?_)

theorem State.updateRun_kept {m : Nat} {r s : State} (h : Kept m r s) a b c d e f g (hm : Sub 0x602b74010 m := by exact Sub.le (by assumption) (by decide)) : Kept m r (s.updateRun a b c d e f g).2 := by
  unfold State.updateRun
  extract_lets -underBinder word x w eb arr mo v b1 b2
  have hw : Kept m r w.2 := by
    unfold w; split
    · exact State.stkRead_kept h ..
    · exact h
  have ha : ∀ s i, Kept m r s → Kept m r (arr s i).2 := fun s i h => State.stkRead_kept (State.stkRead_kept h ..) ..
  exact ha _ _ (ha _ _ hw)

theorem State.vecOps_kept {m : Nat} {r s : State} (h : Kept m r s) a b (hm : Sub 0x4010 m := by exact Sub.le (by assumption) (by decide)) :
    Kept m r (s.vecOps a b) :=
  State.energy_kept (State.bump_kept h ..) ..

theorem State.writeRun_kept {m : Nat} {r s : State} (h : Kept m r s) a b c d (hm : Sub 0x20006c050 m := by exact Sub.le (by assumption) (by decide)) : Kept m r (s.writeRun a b c d) := by
  unfold State.writeRun
  extract_lets -underBinder eb n s1 f s2 sr enc
  have h2 : Kept m r s2 := by
    unfold s2; split
    · exact State.stkWrite_kept h ..
    · exact State.stkWrite_kept (State.stkWrite_kept h ..) ..
  have he : ∀ s i l, Kept m r s → Kept m r (enc s i l) := fun s i l h =>
    State.stkWrite_kept (State.stkWrite_kept (State.setScribe_kept h ..) ..) ..
  exact he _ _ _ (he _ _ _ h2)

theorem State.updateEntry_kept {m : Nat} {r s : State} (h : Kept m r s) a b c d e (hm : Sub 0x602b7c050 m := by exact Sub.le (by assumption) (by decide)) : Kept m r (s.updateEntry a b c d e) := by
  unfold State.updateEntry
  extract_lets -underBinder g t ratio rs step s1
  have hr : Kept m r rs.2 := State.runs_kept h ..
  have hs : ∀ p q, Kept m r p.1 → Kept m r (step p q).1 := by
    intro p q h
    unfold step
    extract_lets left n u s2 s3 s4
    split
    · exact h
    have h3 : Kept m r s3 := State.bump_kept (State.vecOps_kept (State.writeRun_kept (State.updateRun_kept h ..) ..) ..) ..
    change Kept m r s4
    unfold s4; split
    · exact State.bump_kept (State.stkWrite_kept h3 ..) ..
    · exact h3
  have h1 : Kept m r s1 := Kept.foldl1 hr hs
  split
  · exact h1
  · exact State.stkWrite_kept h1 ..

theorem State.measure_kept {m : Nat} {r s : State} (h : Kept m r s) a b c d (hm : Sub 0x602b74010 m := by exact Sub.le (by assumption) (by decide)) :
    Kept m r (s.measure a b c d).2 := by
  unfold State.measure
  repeat' first
    | with_reducible assumption
    | exact Sub.le (by assumption) (by decide)
    | intro _
    | (extract_lets +onlyGivenNames x; first
      | (have _t : State := by with_reducible apply x
         clear _t; (refine Kept.cut (s := x) ?_ fun _ => ?_) <;> [(unfold x; clear x); (clear_value x; rename' x => y)])
      | (have _t : State := by with_reducible apply x.2
         clear _t; (refine Kept.cut2 (p := x) ?_ fun _ => ?_) <;> [(unfold x; clear x); (clear_value x; rename' x => y)])
      | (clear_value x; rename' x => y)
      | rename' x => y)
    | with_reducible first
      | apply State.runs_kept | apply State.updateRun_kept | apply State.vecOps_kept | apply Kept.foldl | apply Kept.foldl2
    | split
    | (refine Kept.snd (by assumption) ?_)

theorem State.scribeErr_kept {m : Nat} {r s : State} (h : Kept m r s) a b c (hm : Sub 0x10 m := by exact Sub.le (by assumption) (by decide)) :
    Kept m r (s.scribeErr a b c) := by
  unfold State.scribeErr
  repeat' first
    | with_reducible assumption
    | exact Sub.le (by assumption) (by decide)
    | (extract_lets +onlyGivenNames x; first
      | (have _t : State := by with_reducible apply x
         clear _t; (refine Kept.cut (s := x) ?_ fun _ => ?_) <;> [(unfold x; clear x); (clear_value x; rename' x => y)])
      | (have _t : State := by with_reducible apply x.2
         clear _t; (refine Kept.cut2 (p := x) ?_ fun _ => ?_) <;> [(unfold x; clear x); (clear_value x; rename' x => y)])
      | (clear_value x; rename' x => y)
      | rename' x => y)
    | with_reducible first
      | apply State.setF_kept
    | split
    | (refine Kept.snd (by assumption) ?_)

theorem State.scribeRecord_kept {m : Nat} {r s : State} (h : Kept m r s) a b c d e (hm : Sub 0x602b74010 m := by exact Sub.le (by assumption) (by decide)) :
    Kept m r (s.scribeRecord a b c d e) :=
  State.record_kept h ..

theorem State.passEnd_kept {m : Nat} {r s : State} (h : Kept m r s) a b (hm : Sub 0x200000000 m := by exact Sub.le (by assumption) (by decide)) :
    Kept m r (s.passEnd a b) :=
  State.setScribe_kept h ..

theorem State.runPass1_kept {m : Nat} {r s : State} (h : Kept m r s) a b (hm : Sub 0x602b7c870 m := by exact Sub.le (by assumption) (by decide)) :
    Kept m r (s.runPass1 a b) := by
  unfold State.runPass1
  repeat' first
    | with_reducible assumption
    | exact Sub.le (by assumption) (by decide)
    | intro _
    | (extract_lets +onlyGivenNames x; first
      | (have _t : State := by with_reducible apply x
         clear _t; (refine Kept.cut (s := x) ?_ fun _ => ?_) <;> [(unfold x; clear x); (clear_value x; rename' x => y)])
      | (have _t : State := by with_reducible apply x.2
         clear _t; (refine Kept.cut2 (p := x) ?_ fun _ => ?_) <;> [(unfold x; clear x); (clear_value x; rename' x => y)])
      | (clear_value x; rename' x => y)
      | rename' x => y)
    | with_reducible first
      | apply State.stkRead_kept | apply State.setScribe_kept | apply State.inject_kept | apply State.scribeRecord_kept
      | apply State.scribeErr_kept | apply State.setF_kept | apply State.measure_kept | apply State.nodeWrite_kept
      | apply State.passEnd_kept | apply Kept.foldl | apply Kept.foldl2
    | split
    | (refine Kept.snd (by assumption) ?_)

theorem State.runPass2_kept {m : Nat} {r s : State} (h : Kept m r s) a b (hm : Sub 0x602b74010 m := by exact Sub.le (by assumption) (by decide)) : Kept m r (s.runPass2 a b) := by
  unfold State.runPass2
  extract_lets -underBinder x y s0 st least tmin tmax e sum ls n fin s1 ev skewed adopt s2 s3 clip c left
  have h1 : Kept m r s1 := State.wr_kept (State.nodeRead_kept (State.nodeRead_kept h ..) ..) ..
  have hv : ∀ f s, Kept m r s → Kept m r (ev f s) := fun f s h => State.setF_kept h ..
  have hb : ∀ f, Kept m r ((ev f s1).bump (R.SCB_CNT_SKEW a) 1) := fun f => State.bump_kept (hv _ _ h1) ..
  split
  · exact State.passEnd_kept (hv _ _ h1) ..
  split
  · exact State.passEnd_kept (State.scribeRecord_kept (hv _ _ h1) ..) ..
  split
  · exact State.passEnd_kept (State.record_kept (hb _) ..) ..
  have h3 : Kept m r s3 := by
    unfold s3; split
    · exact hb _
    · exact h1
  split
  · exact State.passEnd_kept (State.setScribe_kept h3 ..) ..
  · exact State.setScribe_kept h3 ..

theorem State.beginPass_kept {m : Nat} {r s : State} (h : Kept m r s) a b c (hm : Sub 0x602b7c870 m := by exact Sub.le (by assumption) (by decide)) :
    Kept m r (s.beginPass a b c) := by
  unfold State.beginPass
  repeat' first
    | with_reducible assumption
    | exact Sub.le (by assumption) (by decide)
    | (extract_lets +onlyGivenNames x; first
      | (have _t : State := by with_reducible apply x
         clear _t; (refine Kept.cut (s := x) ?_ fun _ => ?_) <;> [(unfold x; clear x); (clear_value x; rename' x => y)])
      | (have _t : State := by with_reducible apply x.2
         clear _t; (refine Kept.cut2 (p := x) ?_ fun _ => ?_) <;> [(unfold x; clear x); (clear_value x; rename' x => y)])
      | (clear_value x; rename' x => y)
      | rename' x => y)
    | with_reducible first
      | apply State.stkRead_kept | apply State.setF_kept | apply State.setScribe_kept | apply State.passEnd_kept
      | apply State.inject_kept | apply State.scribeRecord_kept | apply State.runPass1_kept | apply State.runPass2_kept
    | split
    | (refine Kept.snd (by assumption) ?_)

theorem State.passCommand_kept {m : Nat} {r s : State} (h : Kept m r s) a b c (hm : Sub 0x602b7c870 m := by exact Sub.le (by assumption) (by decide)) :
    Kept m r (s.passCommand a b c) := by
  unfold State.passCommand
  repeat' first
    | with_reducible assumption
    | exact Sub.le (by assumption) (by decide)
    | (extract_lets +onlyGivenNames x; first
      | (have _t : State := by with_reducible apply x
         clear _t; (refine Kept.cut (s := x) ?_ fun _ => ?_) <;> [(unfold x; clear x); (clear_value x; rename' x => y)])
      | (have _t : State := by with_reducible apply x.2
         clear _t; (refine Kept.cut2 (p := x) ?_ fun _ => ?_) <;> [(unfold x; clear x); (clear_value x; rename' x => y)])
      | (clear_value x; rename' x => y)
      | rename' x => y)
    | with_reducible first
      | apply State.setF_kept | apply State.setScribe_kept | apply State.beginPass_kept
    | split
    | (refine Kept.snd (by assumption) ?_)

theorem execPass1_kept {m : Nat} {r s : State} (h : Kept m r s) a b c (hm : Sub 0x682b7c872 m := by exact Sub.le (by assumption) (by decide)) :
    KeptRes m r (execPass1 a b c s) :=
  .of (State.ctlIn_kept h _ _ _ _ _ _ fun _ h => State.passCommand_kept h ..)

theorem execPass2_kept {m : Nat} {r s : State} (h : Kept m r s) a b c (hm : Sub 0x682b7c872 m := by exact Sub.le (by assumption) (by decide)) :
    KeptRes m r (execPass2 a b c s) :=
  .of (State.ctlIn_kept h _ _ _ _ _ _ fun _ h => State.passCommand_kept h ..)

theorem State.finishEntry_kept {m : Nat} {r s : State} (h : Kept m r s) a (hm : Sub 0x602b7c050 m := by exact Sub.le (by assumption) (by decide)) :
    Kept m r (s.finishEntry a) := by
  unfold State.finishEntry
  repeat' first
    | with_reducible assumption
    | exact Sub.le (by assumption) (by decide)
    | (extract_lets +onlyGivenNames x; first
      | (have _t : State := by with_reducible apply x
         clear _t; (refine Kept.cut (s := x) ?_ fun _ => ?_) <;> [(unfold x; clear x); (clear_value x; rename' x => y)])
      | (have _t : State := by with_reducible apply x.2
         clear _t; (refine Kept.cut2 (p := x) ?_ fun _ => ?_) <;> [(unfold x; clear x); (clear_value x; rename' x => y)])
      | (clear_value x; rename' x => y)
      | rename' x => y)
    | with_reducible first
      | apply State.updateEntry_kept | apply State.setScribe_kept | apply State.setF_kept
    | split
    | (refine Kept.snd (by assumption) ?_)

theorem State.endWait_kept {m : Nat} {r s : State} (h : Kept m r s) a (hm : Sub 0x200000010 m := by exact Sub.le (by assumption) (by decide)) :
    Kept m r (s.endWait a) := by
  unfold State.endWait
  repeat' first
    | with_reducible assumption
    | exact Sub.le (by assumption) (by decide)
    | (extract_lets +onlyGivenNames x; first
      | (have _t : State := by with_reducible apply x
         clear _t; (refine Kept.cut (s := x) ?_ fun _ => ?_) <;> [(unfold x; clear x); (clear_value x; rename' x => y)])
      | (have _t : State := by with_reducible apply x.2
         clear _t; (refine Kept.cut2 (p := x) ?_ fun _ => ?_) <;> [(unfold x; clear x); (clear_value x; rename' x => y)])
      | (clear_value x; rename' x => y)
      | rename' x => y)
    | with_reducible first
      | apply State.setF_kept | apply State.setScribe_kept | apply State.bump_kept
    | split
    | (refine Kept.snd (by assumption) ?_)

theorem State.startEntry_kept {m : Nat} {r s : State} (h : Kept m r s) a b c (hm : Sub 0x603b76010 m := by exact Sub.le (by assumption) (by decide)) :
    Kept m r (s.startEntry a b c) := by
  unfold State.startEntry
  repeat' first
    | with_reducible assumption
    | exact Sub.le (by assumption) (by decide)
    | intro _
    | (extract_lets +onlyGivenNames x; first
      | (have _t : State := by with_reducible apply x
         clear _t; (refine Kept.cut (s := x) ?_ fun _ => ?_) <;> [(unfold x; clear x); (clear_value x; rename' x => y)])
      | (have _t : State := by with_reducible apply x.2
         clear _t; (refine Kept.cut2 (p := x) ?_ fun _ => ?_) <;> [(unfold x; clear x); (clear_value x; rename' x => y)])
      | (clear_value x; rename' x => y)
      | rename' x => y)
    | with_reducible first
      | apply State.endWait_kept | apply State.landClear_kept | apply State.setVt_kept | apply State.setScribe_kept
      | apply State.setF_kept | apply Kept.foldl | apply Kept.foldl2
    | split
    | (refine Kept.snd (by assumption) ?_)

theorem State.doEntry_kept {m : Nat} {r s : State} (h : Kept m r s) a (hm : Sub 0x603b7e050 m := by exact Sub.le (by assumption) (by decide)) :
    Kept m r (s.doEntry a) := by
  unfold State.doEntry
  repeat' first
    | with_reducible assumption
    | exact Sub.le (by assumption) (by decide)
    | (extract_lets +onlyGivenNames x; first
      | (have _t : State := by with_reducible apply x
         clear _t; (refine Kept.cut (s := x) ?_ fun _ => ?_) <;> [(unfold x; clear x); (clear_value x; rename' x => y)])
      | (have _t : State := by with_reducible apply x.2
         clear _t; (refine Kept.cut2 (p := x) ?_ fun _ => ?_) <;> [(unfold x; clear x); (clear_value x; rename' x => y)])
      | (clear_value x; rename' x => y)
      | rename' x => y)
    | with_reducible first
      | apply State.finishEntry_kept | apply State.startEntry_kept | apply State.setF_kept | apply State.setScribe_kept
    | split
    | (refine Kept.snd (by assumption) ?_)

theorem execScribeEntryStart_kept {m : Nat} {r s : State} (h : Kept m r s) a (hm : Sub 0x603b7e050 m := by exact Sub.le (by assumption) (by decide)) :
    KeptRes m r (execScribeEntryStart a s) :=
  KeptRes.when (State.doEntry_kept h ..) ..

theorem State.doReleaseExpire_kept {m : Nat} {r s : State} (h : Kept m r s) a b (hm : Sub 0x602b74010 m := by exact Sub.le (by assumption) (by decide)) :
    Kept m r (s.doReleaseExpire a b) := by
  unfold State.doReleaseExpire
  repeat' first
    | with_reducible assumption
    | exact Sub.le (by assumption) (by decide)
    | (extract_lets +onlyGivenNames x; first
      | (have _t : State := by with_reducible apply x
         clear _t; (refine Kept.cut (s := x) ?_ fun _ => ?_) <;> [(unfold x; clear x); (clear_value x; rename' x => y)])
      | (have _t : State := by with_reducible apply x.2
         clear _t; (refine Kept.cut2 (p := x) ?_ fun _ => ?_) <;> [(unfold x; clear x); (clear_value x; rename' x => y)])
      | (clear_value x; rename' x => y)
      | rename' x => y)
    | with_reducible first
      | apply State.setF_kept | apply State.endWait_kept | apply State.scribeRecord_kept | apply State.passEnd_kept
      | apply State.scribeErr_kept

theorem execReleaseWatchdogExpire_kept {m : Nat} {r s : State} (h : Kept m r s) a (hm : Sub 0x602b74010 m := by exact Sub.le (by assumption) (by decide)) :
    KeptRes m r (execReleaseWatchdogExpire a s) := by
  unfold execReleaseWatchdogExpire
  repeat' first
    | with_reducible assumption
    | exact Sub.le (by assumption) (by decide)
    | (extract_lets +onlyGivenNames x; first
      | (have _t : State := by with_reducible apply x
         clear _t; (first | refine KeptRes.cut (s := x) ?_ fun _ => ?_ | refine Kept.cut (s := x) ?_ fun _ => ?_) <;> [(unfold x; clear x); (clear_value x; rename' x => y)])
      | (have _t : State := by with_reducible apply x.2
         clear _t; (first | refine KeptRes.cut2 (p := x) ?_ fun _ => ?_ | refine Kept.cut2 (p := x) ?_ fun _ => ?_) <;> [(unfold x; clear x); (clear_value x; rename' x => y)])
      | (clear_value x; rename' x => y)
      | rename' x => y)
    | with_reducible first
      | apply KeptRes.when | apply State.inject_kept | apply State.doReleaseExpire_kept
    | split
    | (refine Kept.snd (by assumption) ?_)

theorem State.doPassComplete_kept {m : Nat} {r s : State} (h : Kept m r s) a b (hm : Sub 0x602b7e870 m := by exact Sub.le (by assumption) (by decide)) :
    Kept m r (s.doPassComplete a b) := by
  unfold State.doPassComplete
  repeat' first
    | with_reducible assumption
    | exact Sub.le (by assumption) (by decide)
    | (extract_lets +onlyGivenNames x; first
      | (have _t : State := by with_reducible apply x
         clear _t; (refine Kept.cut (s := x) ?_ fun _ => ?_) <;> [(unfold x; clear x); (clear_value x; rename' x => y)])
      | (have _t : State := by with_reducible apply x.2
         clear _t; (refine Kept.cut2 (p := x) ?_ fun _ => ?_) <;> [(unfold x; clear x); (clear_value x; rename' x => y)])
      | (clear_value x; rename' x => y)
      | rename' x => y)
    | with_reducible first
      | apply State.finishEntry_kept | apply State.nodeWrite_kept | apply State.countCtx_kept | apply State.wr_kept
      | apply State.setF_kept | apply State.bump_kept | apply State.setScribe_kept
    | split
    | (refine Kept.snd (by assumption) ?_)

theorem State.passCtx_kept {m : Nat} {r s t : State} {a} (h : Kept m r s) (e : s.passCtx a = some t) (hm : Sub 0x10010 m := by exact Sub.le (by assumption) (by decide)) : Kept m r t := by
  unfold State.passCtx at e
  extract_lets l at e
  split at e
  · exact State.ctxNeed_kept h e
  · cases e; exact h

theorem execScribePassComplete_kept {m : Nat} {r s : State} (h : Kept m r s) a (hm : Sub 0x602b7e870 m := by exact Sub.le (by assumption) (by decide)) :
    KeptRes m r (execScribePassComplete a s) := by
  unfold execScribePassComplete
  repeat' first
    | with_reducible assumption
    | exact Sub.le (by assumption) (by decide)
    | with_reducible first
      | exact KeptRes.refused _ | apply KeptRes.when | refine State.passCtx_kept ?_ (by assumption)
      | apply State.doPassComplete_kept
    | split
    | (refine Kept.snd (by assumption) ?_)

theorem State.cancelScribe_kept {m : Nat} {r s : State} (h : Kept m r s) a (hm : Sub 0x602b7c058 m := by exact Sub.le (by assumption) (by decide)) :
    Kept m r (s.cancelScribe a) := by
  unfold State.cancelScribe
  repeat' first
    | with_reducible assumption
    | exact Sub.le (by assumption) (by decide)
    | (extract_lets +onlyGivenNames x; first
      | (have _t : State := by with_reducible apply x
         clear _t; (refine Kept.cut (s := x) ?_ fun _ => ?_) <;> [(unfold x; clear x); (clear_value x; rename' x => y)])
      | (have _t : State := by with_reducible apply x.2
         clear _t; (refine Kept.cut2 (p := x) ?_ fun _ => ?_) <;> [(unfold x; clear x); (clear_value x; rename' x => y)])
      | (clear_value x; rename' x => y)
      | rename' x => y)
    | with_reducible first
      | apply State.tick_kept | apply State.updateEntry_kept | apply State.endWait_kept | apply State.setF_kept
      | apply State.wr_kept | apply State.setScribe_kept
    | split
    | (refine Kept.snd (by assumption) ?_)

theorem State.holdScribe_kept {m : Nat} {r s : State} (h : Kept m r s) a (hm : Sub 0x602b7c050 m := by exact Sub.le (by assumption) (by decide)) :
    Kept m r (s.holdScribe a) := by
  unfold State.holdScribe
  repeat' first
    | with_reducible assumption
    | exact Sub.le (by assumption) (by decide)
    | (extract_lets +onlyGivenNames x; first
      | (have _t : State := by with_reducible apply x
         clear _t; (refine Kept.cut (s := x) ?_ fun _ => ?_) <;> [(unfold x; clear x); (clear_value x; rename' x => y)])
      | (have _t : State := by with_reducible apply x.2
         clear _t; (refine Kept.cut2 (p := x) ?_ fun _ => ?_) <;> [(unfold x; clear x); (clear_value x; rename' x => y)])
      | (clear_value x; rename' x => y)
      | rename' x => y)
    | with_reducible first
      | apply State.finishEntry_kept | apply State.setF_kept | apply State.setScribe_kept
    | split
    | (refine Kept.snd (by assumption) ?_)

theorem State.freeScribe_kept {m : Nat} {r s : State} (h : Kept m r s) a (hm : Sub 0x200000010 m := by exact Sub.le (by assumption) (by decide)) :
    Kept m r (s.freeScribe a) :=
  State.setF_kept (State.setScribe_kept h ..) ..

theorem State.sealCheck_kept {m : Nat} {r s : State} (h : Kept m r s) a b c d e (hm : Sub 0x602b74010 m := by exact Sub.le (by assumption) (by decide)) :
    Kept m r (s.sealCheck a b c d e).2 := by
  unfold State.sealCheck
  repeat' first
    | with_reducible assumption
    | exact Sub.le (by assumption) (by decide)
    | (extract_lets +onlyGivenNames x; first
      | (have _t : State := by with_reducible apply x
         clear _t; (refine Kept.cut (s := x) ?_ fun _ => ?_) <;> [(unfold x; clear x); (clear_value x; rename' x => y)])
      | (have _t : State := by with_reducible apply x.2
         clear _t; (refine Kept.cut2 (p := x) ?_ fun _ => ?_) <;> [(unfold x; clear x); (clear_value x; rename' x => y)])
      | (clear_value x; rename' x => y)
      | rename' x => y)
    | with_reducible first
      | apply State.inject_kept | apply State.record_kept
    | split
    | (refine Kept.snd (by assumption) ?_)

theorem State.setModes_kept {m : Nat} {r s : State} (h : Kept m r s) a b (hm : Sub 0x10 m := by exact Sub.le (by assumption) (by decide)) :
    Kept m r (s.setModes a b) :=
  .foldl h fun _ _ h => State.wr_kept h ..

theorem State.takePackage_kept {m : Nat} {r s : State} (h : Kept m r s) a b c (hm : Sub 0x602b74010 m := by exact Sub.le (by assumption) (by decide)) :
    Kept m r (s.takePackage a b c).2 := by
  unfold State.takePackage
  repeat' first
    | with_reducible assumption
    | exact Sub.le (by assumption) (by decide)
    | (extract_lets +onlyGivenNames x; first
      | (have _t : State := by with_reducible apply x
         clear _t; (refine Kept.cut (s := x) ?_ fun _ => ?_) <;> [(unfold x; clear x); (clear_value x; rename' x => y)])
      | (have _t : State := by with_reducible apply x.2
         clear _t; (refine Kept.cut2 (p := x) ?_ fun _ => ?_) <;> [(unfold x; clear x); (clear_value x; rename' x => y)])
      | (clear_value x; rename' x => y)
      | rename' x => y)
    | with_reducible first
      | apply State.sealCheck_kept
    | split
    | (refine Kept.snd (by assumption) ?_)

theorem State.settleLoad_kept {m : Nat} {r s : State} (h : Kept m r s) a b c d e (hm : Sub 0x40006c050 m := by exact Sub.le (by assumption) (by decide)) : Kept m r (s.settleLoad a b c d e) := by
  unfold State.settleLoad
  extract_lets -underBinder job status s2
  have h2 : Kept m r s2 := State.setF_kept h ..
  split
  · exact State.putJob_kept h2 ..
  · exact State.putJob_kept (Kept.foldl h2 fun _ _ h => State.setModes_kept h ..) ..
  · exact h2

theorem State.doLoad_kept {m : Nat} {r s : State} (h : Kept m r s) a b c (hm : Sub 0x602b7c050 m := by exact Sub.le (by assumption) (by decide)) : Kept m r (s.doLoad a b c) :=
  State.settleLoad_kept (State.takePackage_kept h ..) ..

theorem State.translateJob_kept {m : Nat} {r s : State} (h : Kept m r s) a b (hm : Sub 0x602b74010 m := by exact Sub.le (by assumption) (by decide)) :
    Kept m r (s.translateJob a b).2 := by
  unfold State.translateJob
  repeat' first
    | with_reducible assumption
    | exact Sub.le (by assumption) (by decide)
    | (extract_lets +onlyGivenNames x; first
      | (have _t : State := by with_reducible apply x
         clear _t; (refine Kept.cut (s := x) ?_ fun _ => ?_) <;> [(unfold x; clear x); (clear_value x; rename' x => y)])
      | (have _t : State := by with_reducible apply x.2
         clear _t; (refine Kept.cut2 (p := x) ?_ fun _ => ?_) <;> [(unfold x; clear x); (clear_value x; rename' x => y)])
      | (clear_value x; rename' x => y)
      | rename' x => y)
    | with_reducible first
      | apply State.sealCheck_kept
    | split
    | (refine Kept.snd (by assumption) ?_)

theorem State.stripInject_kept {m : Nat} {r s : State} (h : Kept m r s) a (hm : Sub 0x602b74010 m := by exact Sub.le (by assumption) (by decide)) :
    Kept m r (s.stripInject a) := by
  unfold State.stripInject
  repeat' first
    | with_reducible assumption
    | exact Sub.le (by assumption) (by decide)
    | (extract_lets +onlyGivenNames x; first
      | (have _t : State := by with_reducible apply x
         clear _t; (refine Kept.cut (s := x) ?_ fun _ => ?_) <;> [(unfold x; clear x); (clear_value x; rename' x => y)])
      | (have _t : State := by with_reducible apply x.2
         clear _t; (refine Kept.cut2 (p := x) ?_ fun _ => ?_) <;> [(unfold x; clear x); (clear_value x; rename' x => y)])
      | (clear_value x; rename' x => y)
      | rename' x => y)
    | with_reducible first
      | apply State.inject_kept | apply State.record_kept
    | split
    | (refine Kept.snd (by assumption) ?_)

theorem State.loadCore_kept {m : Nat} {r s : State} (h : Kept m r s) a b c d e f (hm : Sub 0x602b75810 m := by exact Sub.le (by assumption) (by decide)) :
    Kept m r (s.loadCore a b c d e f) := by
  unfold State.loadCore
  repeat' first
    | with_reducible assumption
    | exact Sub.le (by assumption) (by decide)
    | intro _
    | (extract_lets +onlyGivenNames x; first
      | (have _t : State := by with_reducible apply x
         clear _t; (refine Kept.cut (s := x) ?_ fun _ => ?_) <;> [(unfold x; clear x); (clear_value x; rename' x => y)])
      | (have _t : State := by with_reducible apply x.2
         clear _t; (refine Kept.cut2 (p := x) ?_ fun _ => ?_) <;> [(unfold x; clear x); (clear_value x; rename' x => y)])
      | (clear_value x; rename' x => y)
      | rename' x => y)
    | with_reducible first
      | apply State.setCox_kept | apply State.setF_kept | apply State.stripInject_kept | apply State.setAe_kept
      | apply Kept.foldl | apply Kept.foldl2
    | split
    | (refine Kept.snd (by assumption) ?_)

theorem State.unmapCores_kept {m : Nat} {r s : State} (h : Kept m r s) a (hm : Sub 0x10 m := by exact Sub.le (by assumption) (by decide)) :
    Kept m r (s.unmapCores a) := by
  unfold State.unmapCores
  repeat' first
    | with_reducible assumption
    | exact Sub.le (by assumption) (by decide)
    | intro _
    | (extract_lets +onlyGivenNames x; first
      | (have _t : State := by with_reducible apply x
         clear _t; (refine Kept.cut (s := x) ?_ fun _ => ?_) <;> [(unfold x; clear x); (clear_value x; rename' x => y)])
      | (have _t : State := by with_reducible apply x.2
         clear _t; (refine Kept.cut2 (p := x) ?_ fun _ => ?_) <;> [(unfold x; clear x); (clear_value x; rename' x => y)])
      | (clear_value x; rename' x => y)
      | rename' x => y)
    | with_reducible first
      | apply State.setF_kept | apply Kept.foldl | apply Kept.foldl2

theorem State.installModule_kept {m : Nat} {r s : State} (h : Kept m r s) a b c d (hm : Sub 0x602bf5810 m := by exact Sub.le (by assumption) (by decide)) :
    Kept m r (s.installModule a b c d) := by
  unfold State.installModule
  repeat' first
    | with_reducible assumption
    | exact Sub.le (by assumption) (by decide)
    | intro _
    | (extract_lets +onlyGivenNames x; first
      | (have _t : State := by with_reducible apply x
         clear _t; (refine Kept.cut (s := x) ?_ fun _ => ?_) <;> [(unfold x; clear x); (clear_value x; rename' x => y)])
      | (have _t : State := by with_reducible apply x.2
         clear _t; (refine Kept.cut2 (p := x) ?_ fun _ => ?_) <;> [(unfold x; clear x); (clear_value x; rename' x => y)])
      | (clear_value x; rename' x => y)
      | rename' x => y)
    | with_reducible first
      | apply State.unmapCores_kept | apply State.loadCore_kept | apply Kept.foldl | apply Kept.foldl2
    | (fail_if_no_progress with_reducible refine Kept.upd ?_ (by rfl))

theorem State.runCoxes_kept {m : Nat} {r s : State} (h : Kept m r s) a b c (hm : Sub 0x1010 m := by exact Sub.le (by assumption) (by decide)) :
    Kept m r (s.runCoxes a b c) := by
  unfold State.runCoxes
  repeat' first
    | with_reducible assumption
    | exact Sub.le (by assumption) (by decide)
    | intro _
    | (extract_lets +onlyGivenNames x; first
      | (have _t : State := by with_reducible apply x
         clear _t; (refine Kept.cut (s := x) ?_ fun _ => ?_) <;> [(unfold x; clear x); (clear_value x; rename' x => y)])
      | (have _t : State := by with_reducible apply x.2
         clear _t; (refine Kept.cut2 (p := x) ?_ fun _ => ?_) <;> [(unfold x; clear x); (clear_value x; rename' x => y)])
      | (clear_value x; rename' x => y)
      | rename' x => y)
    | with_reducible first
      | apply State.setF_kept | apply State.setCox_kept | apply Kept.foldl | apply Kept.foldl2
    | split
    | (refine Kept.snd (by assumption) ?_)

theorem State.redirect_kept {m : Nat} {r s : State} (h : Kept m r s) a (hm : Sub 0x300010 m := by exact Sub.le (by assumption) (by decide)) :
    Kept m r (s.redirect a) := by
  unfold State.redirect
  repeat' first
    | with_reducible assumption
    | exact Sub.le (by assumption) (by decide)
    | intro _
    | (extract_lets +onlyGivenNames x; first
      | (have _t : State := by with_reducible apply x
         clear _t; (refine Kept.cut (s := x) ?_ fun _ => ?_) <;> [(unfold x; clear x); (clear_value x; rename' x => y)])
      | (have _t : State := by with_reducible apply x.2
         clear _t; (refine Kept.cut2 (p := x) ?_ fun _ => ?_) <;> [(unfold x; clear x); (clear_value x; rename' x => y)])
      | (clear_value x; rename' x => y)
      | rename' x => y)
    | with_reducible first
      | apply State.palPut_kept | apply State.setF_kept | apply Kept.foldl | apply Kept.foldl2
    | split
    | (refine Kept.snd (by assumption) ?_)

theorem State.unpoisonAll_kept {m : Nat} {r s : State} (h : Kept m r s) a (hm : Sub 0x10 m := by exact Sub.le (by assumption) (by decide)) :
    Kept m r (s.unpoisonAll a) := by
  unfold State.unpoisonAll
  repeat' first
    | with_reducible assumption
    | exact Sub.le (by assumption) (by decide)
    | intro _
    | with_reducible first
      | apply State.unpoison_kept | apply Kept.foldl | apply Kept.foldl2

theorem State.ownFlags_kept {m : Nat} {r s : State} (h : Kept m r s) a (hm : Sub 0x10 m := by exact Sub.le (by assumption) (by decide)) :
    Kept m r (s.ownFlags a) := by
  unfold State.ownFlags
  repeat' first
    | with_reducible assumption
    | exact Sub.le (by assumption) (by decide)
    | intro _
    | with_reducible first
      | apply State.wr_kept | apply Kept.foldl | apply Kept.foldl2

theorem State.allocCtxs_kept {m : Nat} {r s : State} (h : Kept m r s) a b (hm : Sub 0x10000 m := by exact Sub.le (by assumption) (by decide)) :
    Kept m r (s.allocCtxs a b) :=
  .foldl h fun _ _ h => State.setCtx_kept h ..

theorem State.writeConst_kept {m : Nat} {r s : State} (h : Kept m r s) (a : Sys2Proof.Machine.State → ℕ → Sys2Proof.Word → Sys2Proof.Machine.State) b c (ha : ∀ (s : State) z1 z2, Kept m r s → Kept m r (a s z1 z2)) (hm : Sub 0x602b7e870 m := by exact Sub.le (by assumption) (by decide)) :
    Kept m r (s.writeConst a b c) := by
  unfold State.writeConst
  repeat' first
    | with_reducible assumption
    | exact Sub.le (by assumption) (by decide)
    | intro _
    | (extract_lets +onlyGivenNames x; first
      | (have _t : State := by with_reducible apply x
         clear _t; (refine Kept.cut (s := x) ?_ fun _ => ?_) <;> [(unfold x; clear x); (clear_value x; rename' x => y)])
      | (have _t : State := by with_reducible apply x.2
         clear _t; (refine Kept.cut2 (p := x) ?_ fun _ => ?_) <;> [(unfold x; clear x); (clear_value x; rename' x => y)])
      | (clear_value x; rename' x => y)
      | rename' x => y)
    | with_reducible first
      | apply State.memWrite_kept | apply State.storeFlag_kept | apply ha | apply Kept.foldl | apply Kept.foldl2
    | split
    | (refine Kept.snd (by assumption) ?_)

theorem State.writeConsts_kept {m : Nat} {r s : State} (h : Kept m r s) (a : Sys2Proof.Machine.State → ℕ → Sys2Proof.Word → Sys2Proof.Machine.State) b (ha : ∀ (s : State) z1 z2, Kept m r s → Kept m r (a s z1 z2)) (hm : Sub 0x602b7e870 m := by exact Sub.le (by assumption) (by decide)) :
    Kept m r (s.writeConsts a b) := by
  unfold State.writeConsts
  repeat' first
    | with_reducible assumption
    | exact Sub.le (by assumption) (by decide)
    | intro _
    | with_reducible first
      | apply State.writeConst_kept | apply ha | apply Kept.foldl | apply Kept.foldl2

theorem State.doJobStart_kept {m : Nat} {r s : State} (h : Kept m r s) (a : Sys2Proof.Machine.State → ℕ → Sys2Proof.Word → Sys2Proof.Machine.State) b c (ha : ∀ (s : State) z1 z2, Kept m r s → Kept m r (a s z1 z2)) (hm : Sub 0x603bff87a m := by exact Sub.le (by assumption) (by decide)) :
    Kept m r (s.doJobStart a b c) := by
  unfold State.doJobStart
  repeat' first
    | with_reducible assumption
    | exact Sub.le (by assumption) (by decide)
    | intro _
    | (extract_lets +onlyGivenNames x; first
      | (have _t : State := by with_reducible apply x
         clear _t; (refine Kept.cut (s := x) ?_ fun _ => ?_) <;> [(unfold x; clear x); (clear_value x; rename' x => y)])
      | (have _t : State := by with_reducible apply x.2
         clear _t; (refine Kept.cut2 (p := x) ?_ fun _ => ?_) <;> [(unfold x; clear x); (clear_value x; rename' x => y)])
      | (clear_value x; rename' x => y)
      | rename' x => y)
    | with_reducible first
      | apply State.redirect_kept | apply State.translateJob_kept | apply State.setF_kept | apply State.putJob_kept
      | apply State.emptySlot_kept | apply State.ownFlags_kept | apply State.unpoisonAll_kept | apply State.allocCtxs_kept
      | apply State.installModule_kept | apply State.writeConsts_kept | apply State.runCoxes_kept | apply State.doPost_kept
      | apply ha | apply Kept.foldl | apply Kept.foldl2
    | split
    | (refine Kept.snd (by assumption) ?_)

theorem State.resetCore_kept {m : Nat} {r s : State} (h : Kept m r s) a (hm : Sub 0x810 m := by exact Sub.le (by assumption) (by decide)) :
    Kept m r (s.resetCore a) :=
  State.setF_kept (State.setAe_kept h ..) ..

theorem State.dropStreams_kept {m : Nat} {r s : State} (h : Kept m r s) a (hm : Sub 0x800800 m := by exact Sub.le (by assumption) (by decide)) :
    Kept m r (s.dropStreams a) := by
  unfold State.dropStreams
  repeat' first
    | with_reducible assumption
    | exact Sub.le (by assumption) (by decide)
    | intro _
    | (extract_lets +onlyGivenNames x; first
      | (have _t : State := by with_reducible apply x
         clear _t; (refine Kept.cut (s := x) ?_ fun _ => ?_) <;> [(unfold x; clear x); (clear_value x; rename' x => y)])
      | (have _t : State := by with_reducible apply x.2
         clear _t; (refine Kept.cut2 (p := x) ?_ fun _ => ?_) <;> [(unfold x; clear x); (clear_value x; rename' x => y)])
      | (clear_value x; rename' x => y)
      | rename' x => y)
    | with_reducible first
      | apply State.delCmd_kept | apply Kept.foldl | apply Kept.foldl2
    | split
    | (refine Kept.snd (by assumption) ?_)
    | (fail_if_no_progress with_reducible refine Kept.upd ?_ (by rfl))

theorem State.resetJob_kept {m : Nat} {r s : State} (h : Kept m r s) a (hm : Sub 0x603b7c858 m := by exact Sub.le (by assumption) (by decide)) :
    Kept m r (s.resetJob a) := by
  unfold State.resetJob
  repeat' first
    | with_reducible assumption
    | exact Sub.le (by assumption) (by decide)
    | intro _
    | (extract_lets +onlyGivenNames x; first
      | (have _t : State := by with_reducible apply x
         clear _t; (refine Kept.cut (s := x) ?_ fun _ => ?_) <;> [(unfold x; clear x); (clear_value x; rename' x => y)])
      | (have _t : State := by with_reducible apply x.2
         clear _t; (refine Kept.cut2 (p := x) ?_ fun _ => ?_) <;> [(unfold x; clear x); (clear_value x; rename' x => y)])
      | (clear_value x; rename' x => y)
      | rename' x => y)
    | with_reducible first
      | apply State.poisonCore_kept | apply State.releasePoisoned_kept | apply State.collCancel_kept
      | apply State.cancelScribe_kept | apply State.resetCore_kept | apply State.dropStreams_kept | apply Kept.foldl
      | apply Kept.foldl2

theorem State.doJobReset_kept {m : Nat} {r s : State} (h : Kept m r s) a (hm : Sub 0x603b7c858 m := by exact Sub.le (by assumption) (by decide)) :
    Kept m r (s.doJobReset a) :=
  State.setF_kept (State.resetJob_kept h ..) ..

theorem execJobReset_kept {m : Nat} {r s : State} (h : Kept m r s) a (hm : Sub 0x603b7c858 m := by exact Sub.le (by assumption) (by decide)) :
    KeptRes m r (execJobReset a s) :=
  KeptRes.when (State.doJobReset_kept h ..) ..

theorem State.dbBusy_kept {m : Nat} {r s : State} (h : Kept m r s) a (hm : Sub 0x10 m := by exact Sub.le (by assumption) (by decide)) :
    Kept m r (s.dbBusy a) :=
  State.setBit_kept h ..

theorem State.doorLoad_kept {m : Nat} {r s : State} (h : Kept m r s) a b c (hm : Sub 0x602b7c050 m := by exact Sub.le (by assumption) (by decide)) :
    Kept m r (s.doorLoad a b c) := by
  unfold State.doorLoad; split
  · exact State.doLoad_kept h ..
  · exact State.dbBusy_kept h ..

theorem State.freeJob_kept {m : Nat} {r s : State} (h : Kept m r s) a b (hm : Sub 0x4000fc050 m := by exact Sub.le (by assumption) (by decide)) :
    Kept m r (s.freeJob a b) := by
  unfold State.freeJob
  repeat' first
    | with_reducible assumption
    | exact Sub.le (by assumption) (by decide)
    | intro _
    | (extract_lets +onlyGivenNames x; first
      | (have _t : State := by with_reducible apply x
         clear _t; (refine Kept.cut (s := x) ?_ fun _ => ?_) <;> [(unfold x; clear x); (clear_value x; rename' x => y)])
      | (have _t : State := by with_reducible apply x.2
         clear _t; (refine Kept.cut2 (p := x) ?_ fun _ => ?_) <;> [(unfold x; clear x); (clear_value x; rename' x => y)])
      | (clear_value x; rename' x => y)
      | rename' x => y)
    | with_reducible first
      | apply State.unmapCores_kept | apply State.setDie_kept | apply State.setF_kept | apply State.emptySlot_kept
      | apply Kept.foldl | apply Kept.foldl2
    | (fail_if_no_progress with_reducible refine Kept.upd ?_ (by rfl))

theorem State.doorRelease_kept {m : Nat} {r s : State} (h : Kept m r s) a b (hm : Sub 0x603bfc858 m := by exact Sub.le (by assumption) (by decide)) :
    Kept m r (s.doorRelease a b) := by
  unfold State.doorRelease
  repeat' first
    | with_reducible assumption
    | exact Sub.le (by assumption) (by decide)
    | (extract_lets +onlyGivenNames x; first
      | (have _t : State := by with_reducible apply x
         clear _t; (refine Kept.cut (s := x) ?_ fun _ => ?_) <;> [(unfold x; clear x); (clear_value x; rename' x => y)])
      | (have _t : State := by with_reducible apply x.2
         clear _t; (refine Kept.cut2 (p := x) ?_ fun _ => ?_) <;> [(unfold x; clear x); (clear_value x; rename' x => y)])
      | (clear_value x; rename' x => y)
      | rename' x => y)
    | with_reducible first
      | apply State.freeJob_kept | apply State.resetJob_kept | apply State.abandonSnap_kept | apply State.putJob_kept
      | apply State.emptySlot_kept | apply State.dbBusy_kept
    | split
    | (refine Kept.snd (by assumption) ?_)

theorem execLoad_kept {m : Nat} {r s : State} (h : Kept m r s) a b c d (hm : Sub 0x682b7c052 m := by exact Sub.le (by assumption) (by decide)) :
    KeptRes m r (execLoad a b c d s) :=
  .of (State.ctlIn_kept h _ _ _ _ _ _ fun _ h => State.doorLoad_kept h ..)

theorem execRelease_kept {m : Nat} {r s : State} (h : Kept m r s) a b c (hm : Sub 0x683bfc85a m := by exact Sub.le (by assumption) (by decide)) :
    KeptRes m r (execRelease a b c s) :=
  .of (State.ctlIn_kept h _ _ _ _ _ _ fun _ h => State.doorRelease_kept h ..)

theorem execJobEnd_kept {m : Nat} {r s : State} (h : Kept m r s) a b c (hm : Sub 0x682b7c052 m := by exact Sub.le (by assumption) (by decide)) :
    KeptRes m r (execJobEnd a b c s) :=
  .of (State.ctlIn_kept h _ _ _ _ _ _ fun _ h => State.doJobEnd_kept h ..)

theorem State.loadAcc_kept {m : Nat} {r s : State} (h : Kept m r s) a b (hm : Sub 0x210 m := by exact Sub.le (by assumption) (by decide)) :
    Kept m r (s.loadAcc a b) := by
  unfold State.loadAcc
  repeat' first
    | with_reducible assumption
    | exact Sub.le (by assumption) (by decide)
    | intro _
    | (extract_lets +onlyGivenNames x; first
      | (have _t : State := by with_reducible apply x
         clear _t; (refine Kept.cut (s := x) ?_ fun _ => ?_) <;> [(unfold x; clear x); (clear_value x; rename' x => y)])
      | (have _t : State := by with_reducible apply x.2
         clear _t; (refine Kept.cut2 (p := x) ?_ fun _ => ?_) <;> [(unfold x; clear x); (clear_value x; rename' x => y)])
      | (clear_value x; rename' x => y)
      | rename' x => y)
    | with_reducible first
      | apply State.setEng_kept | apply State.setF_kept | apply Kept.foldl | apply Kept.foldl2

theorem State.saveAccs_kept {m : Nat} {r s : State} (h : Kept m r s) a (hm : Sub 0x6c050 m := by exact Sub.le (by assumption) (by decide)) :
    Kept m r (s.saveAccs a) :=
  .foldl h fun _ _ h => State.hbmWrite_kept h ..

theorem State.loadAccs_kept {m : Nat} {r s : State} (h : Kept m r s) a (hm : Sub 0x602b74210 m := by exact Sub.le (by assumption) (by decide)) : Kept m r (s.loadAccs a) :=
  Kept.foldl h fun s p h => State.loadAcc_kept (State.hbmRead_kept h ..) ..

theorem State.areaWrite_kept {m : Nat} {r s : State} (h : Kept m r s) a b c (hm : Sub 0x6c050 m := by exact Sub.le (by assumption) (by decide)) : Kept m r (s.areaWrite a b c) := by
  induction b generalizing s c with
  | nil => exact h
  | cons g gs ih =>
    unfold State.areaWrite
    split
    · exact h
    · exact ih (State.hbmWrite_kept h ..) _

theorem State.setSnap_kept {m : Nat} {r s : State} (h : Kept m r s) a b (hm : Sub 0x40000 m := by exact Sub.le (by assumption) (by decide)) :
    Kept m r (s.setSnap a b) :=
  .upd h rfl

theorem State.snapMaintEnd_kept {m : Nat} {r s : State} (h : Kept m r s) a b (hm : Sub 0x2000010 m := by exact Sub.le (by assumption) (by decide)) :
    Kept m r (s.snapMaintEnd a b) := by
  unfold State.snapMaintEnd; split
  · exact State.maintEnd_kept h ..
  · exact h

theorem State.snapRecord_kept {m : Nat} {r s : State} (h : Kept m r s) a b c d (hm : Sub 0x602b74010 m := by exact Sub.le (by assumption) (by decide)) :
    Kept m r (s.snapRecord a b c d) :=
  State.record_kept h ..

theorem State.snapInject_kept {m : Nat} {r s : State} (h : Kept m r s) a b (hm : Sub 0x20010 m := by exact Sub.le (by assumption) (by decide)) :
    Kept m r (s.snapInject a b).2 := by
  unfold State.snapInject; split
  · exact State.inject_kept h ..
  · exact h

theorem State.freeScribes_kept {m : Nat} {r s : State} (h : Kept m r s) a (hm : Sub 0x200000010 m := by exact Sub.le (by assumption) (by decide)) :
    Kept m r (s.freeScribes a) :=
  .foldl h fun _ _ h => State.freeScribe_kept h ..

theorem State.snapFail_kept {m : Nat} {r s : State} (h : Kept m r s) a b c (hm : Sub 0x202040010 m := by exact Sub.le (by assumption) (by decide)) :
    Kept m r (s.snapFail a b c) := by
  unfold State.snapFail
  repeat' first
    | with_reducible assumption
    | exact Sub.le (by assumption) (by decide)
    | (extract_lets +onlyGivenNames x; first
      | (have _t : State := by with_reducible apply x
         clear _t; (refine Kept.cut (s := x) ?_ fun _ => ?_) <;> [(unfold x; clear x); (clear_value x; rename' x => y)])
      | (have _t : State := by with_reducible apply x.2
         clear _t; (refine Kept.cut2 (p := x) ?_ fun _ => ?_) <;> [(unfold x; clear x); (clear_value x; rename' x => y)])
      | (clear_value x; rename' x => y)
      | rename' x => y)
    | with_reducible first
      | apply State.setLastStatus_kept | apply State.freeScribes_kept | apply State.bump_kept | apply State.snapMaintEnd_kept
    | split
    | (refine Kept.snd (by assumption) ?_)
    | (fail_if_no_progress with_reducible refine Kept.upd ?_ (by rfl))

theorem State.beginCopy_kept {m : Nat} {r s : State} (h : Kept m r s) a b (hm : Sub 0x602060010 m := by exact Sub.le (by assumption) (by decide)) :
    Kept m r (s.beginCopy a b) := by
  unfold State.beginCopy
  repeat' first
    | with_reducible assumption
    | exact Sub.le (by assumption) (by decide)
    | (extract_lets +onlyGivenNames x; first
      | (have _t : State := by with_reducible apply x
         clear _t; (refine Kept.cut (s := x) ?_ fun _ => ?_) <;> [(unfold x; clear x); (clear_value x; rename' x => y)])
      | (have _t : State := by with_reducible apply x.2
         clear _t; (refine Kept.cut2 (p := x) ?_ fun _ => ?_) <;> [(unfold x; clear x); (clear_value x; rename' x => y)])
      | (clear_value x; rename' x => y)
      | rename' x => y)
    | with_reducible first
      | apply State.snapFail_kept | apply State.snapInject_kept | apply State.setSnap_kept
    | split
    | (refine Kept.snd (by assumption) ?_)
    | (fail_if_no_progress with_reducible refine Kept.upd ?_ (by rfl))

theorem State.startSnap_kept {m : Nat} {r s : State} (h : Kept m r s) a b c (hm : Sub 0x602060010 m := by exact Sub.le (by assumption) (by decide)) :
    Kept m r (s.startSnap a b c) := by
  unfold State.startSnap
  repeat' first
    | with_reducible assumption
    | exact Sub.le (by assumption) (by decide)
    | (extract_lets +onlyGivenNames x; first
      | (have _t : State := by with_reducible apply x
         clear _t; (refine Kept.cut (s := x) ?_ fun _ => ?_) <;> [(unfold x; clear x); (clear_value x; rename' x => y)])
      | (have _t : State := by with_reducible apply x.2
         clear _t; (refine Kept.cut2 (p := x) ?_ fun _ => ?_) <;> [(unfold x; clear x); (clear_value x; rename' x => y)])
      | (clear_value x; rename' x => y)
      | rename' x => y)
    | with_reducible first
      | apply State.beginCopy_kept | apply State.setSnap_kept
    | split
    | (refine Kept.snd (by assumption) ?_)

theorem State.doSnapshot_kept {m : Nat} {r s : State} (h : Kept m r s) a (hm : Sub 0x602b74010 m := by exact Sub.le (by assumption) (by decide)) :
    Kept m r (s.doSnapshot a) := by
  unfold State.doSnapshot
  repeat' first
    | with_reducible assumption
    | exact Sub.le (by assumption) (by decide)
    | (extract_lets +onlyGivenNames x; first
      | (have _t : State := by with_reducible apply x
         clear _t; (refine Kept.cut (s := x) ?_ fun _ => ?_) <;> [(unfold x; clear x); (clear_value x; rename' x => y)])
      | (have _t : State := by with_reducible apply x.2
         clear _t; (refine Kept.cut2 (p := x) ?_ fun _ => ?_) <;> [(unfold x; clear x); (clear_value x; rename' x => y)])
      | (clear_value x; rename' x => y)
      | rename' x => y)
    | with_reducible first
      | apply State.setLastStatus_kept | apply State.bump_kept | apply State.maintRequest_kept | apply State.startSnap_kept
    | split
    | (refine Kept.snd (by assumption) ?_)

theorem execSnapshot_kept {m : Nat} {r s : State} (h : Kept m r s) a b (hm : Sub 0x682b74012 m := by exact Sub.le (by assumption) (by decide)) :
    KeptRes m r (execSnapshot a b s) :=
  .of (State.ctlIn_kept h _ _ _ _ _ _ fun _ h => State.doSnapshot_kept h ..)

theorem State.doSnapStop_kept {m : Nat} {r s : State} (h : Kept m r s) a b (hm : Sub 0x602b7c050 m := by exact Sub.le (by assumption) (by decide)) :
    Kept m r (s.doSnapStop a b) := by
  unfold State.doSnapStop
  repeat' first
    | with_reducible assumption
    | exact Sub.le (by assumption) (by decide)
    | intro _
    | (extract_lets +onlyGivenNames x; first
      | (have _t : State := by with_reducible apply x
         clear _t; (refine Kept.cut (s := x) ?_ fun _ => ?_) <;> [(unfold x; clear x); (clear_value x; rename' x => y)])
      | (have _t : State := by with_reducible apply x.2
         clear _t; (refine Kept.cut2 (p := x) ?_ fun _ => ?_) <;> [(unfold x; clear x); (clear_value x; rename' x => y)])
      | (clear_value x; rename' x => y)
      | rename' x => y)
    | with_reducible first
      | apply State.holdScribe_kept | apply State.setSnap_kept | apply Kept.foldl | apply Kept.foldl2

theorem execSnapshotStop_kept {m : Nat} {r s : State} (h : Kept m r s) a (hm : Sub 0x602b7c050 m := by exact Sub.le (by assumption) (by decide)) :
    KeptRes m r (execSnapshotStop a s) := by
  unfold execSnapshotStop; split
  · exact KeptRes.when (State.doSnapStop_kept h ..) ..
  · exact .refused _

theorem State.doBoundaryTimeout_kept {m : Nat} {r s : State} (h : Kept m r s) a b c (hm : Sub 0x602b74010 m := by exact Sub.le (by assumption) (by decide)) :
    Kept m r (s.doBoundaryTimeout a b c) :=
  State.snapRecord_kept (State.setF_kept (State.snapFail_kept h ..) ..) ..

theorem execBoundaryTimeout_kept {m : Nat} {r s : State} (h : Kept m r s) a (hm : Sub 0x602b74010 m := by exact Sub.le (by assumption) (by decide)) :
    KeptRes m r (execBoundaryTimeout a s) := by
  unfold execBoundaryTimeout
  repeat' first
    | with_reducible assumption
    | exact Sub.le (by assumption) (by decide)
    | (extract_lets +onlyGivenNames x; first
      | (have _t : State := by with_reducible apply x
         clear _t; (first | refine KeptRes.cut (s := x) ?_ fun _ => ?_ | refine Kept.cut (s := x) ?_ fun _ => ?_) <;> [(unfold x; clear x); (clear_value x; rename' x => y)])
      | (have _t : State := by with_reducible apply x.2
         clear _t; (first | refine KeptRes.cut2 (p := x) ?_ fun _ => ?_ | refine Kept.cut2 (p := x) ?_ fun _ => ?_) <;> [(unfold x; clear x); (clear_value x; rename' x => y)])
      | (clear_value x; rename' x => y)
      | rename' x => y)
    | with_reducible first
      | exact KeptRes.refused _ | apply KeptRes.when | apply State.snapInject_kept | apply State.doBoundaryTimeout_kept
    | split
    | (refine Kept.snd (by assumption) ?_)

theorem State.doQuiesceTimeout_kept {m : Nat} {r s : State} (h : Kept m r s) a b c (hm : Sub 0x602b74010 m := by exact Sub.le (by assumption) (by decide)) :
    Kept m r (s.doQuiesceTimeout a b c) :=
  State.snapRecord_kept (State.setF_kept (State.snapFail_kept h ..) ..) ..

theorem execQuiesceTimeout_kept {m : Nat} {r s : State} (h : Kept m r s) a (hm : Sub 0x602b74010 m := by exact Sub.le (by assumption) (by decide)) :
    KeptRes m r (execQuiesceTimeout a s) := by
  unfold execQuiesceTimeout
  repeat' first
    | with_reducible assumption
    | exact Sub.le (by assumption) (by decide)
    | (extract_lets +onlyGivenNames x; first
      | (have _t : State := by with_reducible apply x
         clear _t; (first | refine KeptRes.cut (s := x) ?_ fun _ => ?_ | refine Kept.cut (s := x) ?_ fun _ => ?_) <;> [(unfold x; clear x); (clear_value x; rename' x => y)])
      | (have _t : State := by with_reducible apply x.2
         clear _t; (first | refine KeptRes.cut2 (p := x) ?_ fun _ => ?_ | refine Kept.cut2 (p := x) ?_ fun _ => ?_) <;> [(unfold x; clear x); (clear_value x; rename' x => y)])
      | (clear_value x; rename' x => y)
      | rename' x => y)
    | with_reducible first
      | exact KeptRes.refused _ | apply KeptRes.when | apply State.snapInject_kept | apply State.doQuiesceTimeout_kept
    | split
    | (refine Kept.snd (by assumption) ?_)

theorem State.doQuiesced_kept {m : Nat} {r s : State} (h : Kept m r s) a b (hm : Sub 0x602b7c050 m := by exact Sub.le (by assumption) (by decide)) :
    Kept m r (s.doQuiesced a b) := by
  unfold State.doQuiesced
  repeat' first
    | with_reducible assumption
    | exact Sub.le (by assumption) (by decide)
    | (extract_lets +onlyGivenNames x; first
      | (have _t : State := by with_reducible apply x
         clear _t; (refine Kept.cut (s := x) ?_ fun _ => ?_) <;> [(unfold x; clear x); (clear_value x; rename' x => y)])
      | (have _t : State := by with_reducible apply x.2
         clear _t; (refine Kept.cut2 (p := x) ?_ fun _ => ?_) <;> [(unfold x; clear x); (clear_value x; rename' x => y)])
      | (clear_value x; rename' x => y)
      | rename' x => y)
    | with_reducible first
      | apply State.snapInject_kept | apply State.snapRecord_kept | apply State.setF_kept | apply State.snapFail_kept
      | apply State.saveAccs_kept | apply State.setLastStatus_kept | apply State.freeScribes_kept
      | apply State.settleEnd_kept | apply State.beginCopy_kept
    | split
    | (refine Kept.snd (by assumption) ?_)
    | (fail_if_no_progress with_reducible refine Kept.upd ?_ (by rfl))

theorem execQuiesceComplete_kept {m : Nat} {r s : State} (h : Kept m r s) a (hm : Sub 0x602b7c050 m := by exact Sub.le (by assumption) (by decide)) :
    KeptRes m r (execQuiesceComplete a s) := by
  unfold execQuiesceComplete; split
  · exact KeptRes.when (State.doQuiesced_kept h ..) ..
  · exact .refused _

theorem State.recordGen_kept {m : Nat} {r s : State} (h : Kept m r s) a b c (hm : Sub 0x300010 m := by exact Sub.le (by assumption) (by decide)) :
    Kept m r (s.recordGen a b c) := by
  unfold State.recordGen
  repeat' first
    | with_reducible assumption
    | exact Sub.le (by assumption) (by decide)
    | (extract_lets +onlyGivenNames x; first
      | (have _t : State := by with_reducible apply x
         clear _t; (refine Kept.cut (s := x) ?_ fun _ => ?_) <;> [(unfold x; clear x); (clear_value x; rename' x => y)])
      | (have _t : State := by with_reducible apply x.2
         clear _t; (refine Kept.cut2 (p := x) ?_ fun _ => ?_) <;> [(unfold x; clear x); (clear_value x; rename' x => y)])
      | (clear_value x; rename' x => y)
      | rename' x => y)
    | with_reducible first
      | apply State.palPut_kept | apply State.setF_kept
    | (fail_if_no_progress with_reducible refine Kept.upd ?_ (by rfl))

theorem State.beginDrains_kept {m : Nat} {r s : State} (h : Kept m r s) a b (hm : Sub 0x402000010 m := by exact Sub.le (by assumption) (by decide)) :
    Kept m r (s.beginDrains a b) := by
  unfold State.beginDrains
  repeat' first
    | with_reducible assumption
    | exact Sub.le (by assumption) (by decide)
    | (extract_lets +onlyGivenNames x; first
      | (have _t : State := by with_reducible apply x
         clear _t; (refine Kept.cut (s := x) ?_ fun _ => ?_) <;> [(unfold x; clear x); (clear_value x; rename' x => y)])
      | (have _t : State := by with_reducible apply x.2
         clear _t; (refine Kept.cut2 (p := x) ?_ fun _ => ?_) <;> [(unfold x; clear x); (clear_value x; rename' x => y)])
      | (clear_value x; rename' x => y)
      | rename' x => y)
    | with_reducible first
      | apply State.snapMaintEnd_kept
    | split
    | (refine Kept.snd (by assumption) ?_)
    | (fail_if_no_progress with_reducible refine Kept.upd ?_ (by rfl))

theorem State.recordStop_kept {m : Nat} {r s : State} (h : Kept m r s) a b (hm : Sub 0x10 m := by exact Sub.le (by assumption) (by decide)) :
    Kept m r (s.recordStop a b) :=
  State.setF_kept (State.setF_kept h ..) ..

theorem State.dropDrain_kept {m : Nat} {r s : State} (h : Kept m r s) a b (hm : Sub 0x400000000 m := by exact Sub.le (by assumption) (by decide)) :
    Kept m r (s.dropDrain a b) :=
  .upd h rfl

theorem State.doDrainFailed_kept {m : Nat} {r s : State} (h : Kept m r s) a b (hm : Sub 0x602b74010 m := by exact Sub.le (by assumption) (by decide)) :
    Kept m r (s.doDrainFailed a b) := by
  unfold State.doDrainFailed
  repeat' first
    | with_reducible assumption
    | exact Sub.le (by assumption) (by decide)
    | (extract_lets +onlyGivenNames x; first
      | (have _t : State := by with_reducible apply x
         clear _t; (refine Kept.cut (s := x) ?_ fun _ => ?_) <;> [(unfold x; clear x); (clear_value x; rename' x => y)])
      | (have _t : State := by with_reducible apply x.2
         clear _t; (refine Kept.cut2 (p := x) ?_ fun _ => ?_) <;> [(unfold x; clear x); (clear_value x; rename' x => y)])
      | (clear_value x; rename' x => y)
      | rename' x => y)
    | with_reducible first
      | apply State.snapRecord_kept | apply State.setF_kept | apply State.dropDrain_kept | apply State.snapMaintEnd_kept
    | split
    | (refine Kept.snd (by assumption) ?_)

theorem State.doCopied_kept {m : Nat} {r s : State} (h : Kept m r s) a b c (hm : Sub 0x602b7c050 m := by exact Sub.le (by assumption) (by decide)) :
    Kept m r (s.doCopied a b c) := by
  unfold State.doCopied
  repeat' first
    | with_reducible assumption
    | exact Sub.le (by assumption) (by decide)
    | intro _
    | (extract_lets +onlyGivenNames x; first
      | (have _t : State := by with_reducible apply x
         clear _t; (refine Kept.cut (s := x) ?_ fun _ => ?_) <;> [(unfold x; clear x); (clear_value x; rename' x => y)])
      | (have _t : State := by with_reducible apply x.2
         clear _t; (refine Kept.cut2 (p := x) ?_ fun _ => ?_) <;> [(unfold x; clear x); (clear_value x; rename' x => y)])
      | (clear_value x; rename' x => y)
      | rename' x => y)
    | with_reducible first
      | apply State.areaWrite_kept | apply State.recordStop_kept | apply State.freeScribes_kept | apply State.bump_kept
      | apply State.setF_kept | apply State.setLastStatus_kept | apply State.snapMaintEnd_kept | apply State.snapRecord_kept
      | apply State.recordGen_kept | apply State.beginDrains_kept | apply State.doDrainFailed_kept | apply Kept.foldl
      | apply Kept.foldl2
    | split
    | (refine Kept.snd (by assumption) ?_)
    | (fail_if_no_progress with_reducible refine Kept.upd ?_ (by rfl))

theorem execSnapshotCopyComplete_kept {m : Nat} {r s : State} (h : Kept m r s) a (hm : Sub 0x602b7c050 m := by exact Sub.le (by assumption) (by decide)) :
    KeptRes m r (execSnapshotCopyComplete a s) := by
  unfold execSnapshotCopyComplete; split
  · exact KeptRes.when (State.doCopied_kept h ..) ..
  · exact .refused _

theorem State.pcieReceive_kept {m : Nat} {r s : State} (h : Kept m r s) (hm : Sub 0x602b74018 m := by exact Sub.le (by assumption) (by decide)) :
    Kept m r (s.pcieReceive).2 := by
  unfold State.pcieReceive
  repeat' first
    | with_reducible assumption
    | exact Sub.le (by assumption) (by decide)
    | (extract_lets +onlyGivenNames x; first
      | (have _t : State := by with_reducible apply x
         clear _t; (refine Kept.cut (s := x) ?_ fun _ => ?_) <;> [(unfold x; clear x); (clear_value x; rename' x => y)])
      | (have _t : State := by with_reducible apply x.2
         clear _t; (refine Kept.cut2 (p := x) ?_ fun _ => ?_) <;> [(unfold x; clear x); (clear_value x; rename' x => y)])
      | (clear_value x; rename' x => y)
      | rename' x => y)
    | with_reducible first
      | apply State.inject_kept | apply State.record_kept | apply State.tick_kept
    | split
    | (refine Kept.snd (by assumption) ?_)

theorem State.doDrained_kept {m : Nat} {r s : State} (h : Kept m r s) a b (hm : Sub 0x402300012 m := by exact Sub.le (by assumption) (by decide)) :
    Kept m r (s.doDrained a b) := by
  unfold State.doDrained
  repeat' first
    | with_reducible assumption
    | exact Sub.le (by assumption) (by decide)
    | (extract_lets +onlyGivenNames x; first
      | (have _t : State := by with_reducible apply x
         clear _t; (refine Kept.cut (s := x) ?_ fun _ => ?_) <;> [(unfold x; clear x); (clear_value x; rename' x => y)])
      | (have _t : State := by with_reducible apply x.2
         clear _t; (refine Kept.cut2 (p := x) ?_ fun _ => ?_) <;> [(unfold x; clear x); (clear_value x; rename' x => y)])
      | (clear_value x; rename' x => y)
      | rename' x => y)
    | with_reducible first
      | apply State.dropDrain_kept | apply State.bump_kept | apply State.snapMaintEnd_kept | apply State.recordGen_kept
      | apply State.emit_kept
    | split
    | (refine Kept.snd (by assumption) ?_)
    | (fail_if_no_progress with_reducible refine Kept.upd ?_ (by rfl))

theorem execDrainLayerComplete_kept {m : Nat} {r s : State} (h : Kept m r s) a b (hm : Sub 0x602b7401a m := by exact Sub.le (by assumption) (by decide)) :
    KeptRes m r (execDrainLayerComplete a b s) := by
  unfold execDrainLayerComplete
  repeat' first
    | with_reducible assumption
    | exact Sub.le (by assumption) (by decide)
    | (extract_lets +onlyGivenNames x; first
      | (have _t : State := by with_reducible apply x
         clear _t; (first | refine KeptRes.cut (s := x) ?_ fun _ => ?_ | refine Kept.cut (s := x) ?_ fun _ => ?_) <;> [(unfold x; clear x); (clear_value x; rename' x => y)])
      | (have _t : State := by with_reducible apply x.2
         clear _t; (first | refine KeptRes.cut2 (p := x) ?_ fun _ => ?_ | refine Kept.cut2 (p := x) ?_ fun _ => ?_) <;> [(unfold x; clear x); (clear_value x; rename' x => y)])
      | (clear_value x; rename' x => y)
      | rename' x => y)
    | with_reducible first
      | exact KeptRes.refused _ | apply KeptRes.when | apply State.pcieReceive_kept | apply State.doDrainFailed_kept
      | apply State.doDrained_kept
    | split
    | (refine Kept.snd (by assumption) ?_)

theorem execDrainFailed_kept {m : Nat} {r s : State} (h : Kept m r s) a b (hm : Sub 0x602b74010 m := by exact Sub.le (by assumption) (by decide)) :
    KeptRes m r (execDrainFailed a b s) :=
  KeptRes.when (State.doDrainFailed_kept h ..) ..

theorem State.moveGrants_kept {m : Nat} {r s : State} (h : Kept m r s) a b c (hm : Sub 0x400000010 m := by exact Sub.le (by assumption) (by decide)) :
    Kept m r (s.moveGrants a b c) := by
  unfold State.moveGrants
  repeat' first
    | with_reducible assumption
    | exact Sub.le (by assumption) (by decide)
    | intro _
    | (extract_lets +onlyGivenNames x; first
      | (have _t : State := by with_reducible apply x
         clear _t; (refine Kept.cut (s := x) ?_ fun _ => ?_) <;> [(unfold x; clear x); (clear_value x; rename' x => y)])
      | (have _t : State := by with_reducible apply x.2
         clear _t; (refine Kept.cut2 (p := x) ?_ fun _ => ?_) <;> [(unfold x; clear x); (clear_value x; rename' x => y)])
      | (clear_value x; rename' x => y)
      | rename' x => y)
    | with_reducible first
      | apply State.setModes_kept | apply State.setJob_kept | apply Kept.foldl | apply Kept.foldl2

theorem State.restoreRange_kept {m : Nat} {r s : State} (h : Kept m r s) a b (hm : Sub 0x602b7c870 m := by exact Sub.le (by assumption) (by decide)) :
    Kept m r (s.restoreRange a b) := by
  unfold State.restoreRange
  repeat' first
    | with_reducible assumption
    | exact Sub.le (by assumption) (by decide)
    | intro _
    | (extract_lets +onlyGivenNames x; first
      | (have _t : State := by with_reducible apply x
         clear _t; (refine Kept.cut (s := x) ?_ fun _ => ?_) <;> [(unfold x; clear x); (clear_value x; rename' x => y)])
      | (have _t : State := by with_reducible apply x.2
         clear _t; (refine Kept.cut2 (p := x) ?_ fun _ => ?_) <;> [(unfold x; clear x); (clear_value x; rename' x => y)])
      | (clear_value x; rename' x => y)
      | rename' x => y)
    | with_reducible first
      | apply State.hbmWrite_kept | apply State.spadWrite_kept | apply Kept.foldl | apply Kept.foldl2
    | split
    | (refine Kept.snd (by assumption) ?_)

theorem State.restoreCore_kept {m : Nat} {r s : State} (h : Kept m r s) a b (hm : Sub 0x3a10 m := by exact Sub.le (by assumption) (by decide)) :
    Kept m r (s.restoreCore a b) := by
  unfold State.restoreCore
  repeat' first
    | with_reducible assumption
    | exact Sub.le (by assumption) (by decide)
    | intro _
    | (extract_lets +onlyGivenNames x; first
      | (have _t : State := by with_reducible apply x
         clear _t; (refine Kept.cut (s := x) ?_ fun _ => ?_) <;> [(unfold x; clear x); (clear_value x; rename' x => y)])
      | (have _t : State := by with_reducible apply x.2
         clear _t; (refine Kept.cut2 (p := x) ?_ fun _ => ?_) <;> [(unfold x; clear x); (clear_value x; rename' x => y)])
      | (clear_value x; rename' x => y)
      | rename' x => y)
    | with_reducible first
      | apply State.loadAcc_kept | apply State.setEng_kept | apply State.setCox_kept | apply State.wr_kept
      | apply State.setAe_kept | apply State.setCore_kept | apply Kept.foldl | apply Kept.foldl2
    | split
    | (refine Kept.snd (by assumption) ?_)

theorem State.restoreScribe_kept {m : Nat} {r s : State} (h : Kept m r s) a b (hm : Sub 0x10 m := by exact Sub.le (by assumption) (by decide)) :
    Kept m r (s.restoreScribe a b) := by
  unfold State.restoreScribe
  repeat' first
    | with_reducible assumption
    | exact Sub.le (by assumption) (by decide)
    | (extract_lets +onlyGivenNames x; first
      | (have _t : State := by with_reducible apply x
         clear _t; (refine Kept.cut (s := x) ?_ fun _ => ?_) <;> [(unfold x; clear x); (clear_value x; rename' x => y)])
      | (have _t : State := by with_reducible apply x.2
         clear _t; (refine Kept.cut2 (p := x) ?_ fun _ => ?_) <;> [(unfold x; clear x); (clear_value x; rename' x => y)])
      | (clear_value x; rename' x => y)
      | rename' x => y)
    | with_reducible first
      | apply State.wr_kept | apply State.setF_kept
    | split
    | (refine Kept.snd (by assumption) ?_)

theorem State.restoreImage_kept {m : Nat} {r s : State} (h : Kept m r s) a b c (hm : Sub 0x602b7fa70 m := by exact Sub.le (by assumption) (by decide)) :
    Kept m r (s.restoreImage a b c) := by
  unfold State.restoreImage
  repeat' first
    | with_reducible assumption
    | exact Sub.le (by assumption) (by decide)
    | intro _
    | (extract_lets +onlyGivenNames x; first
      | (have _t : State := by with_reducible apply x
         clear _t; (refine Kept.cut (s := x) ?_ fun _ => ?_) <;> [(unfold x; clear x); (clear_value x; rename' x => y)])
      | (have _t : State := by with_reducible apply x.2
         clear _t; (refine Kept.cut2 (p := x) ?_ fun _ => ?_) <;> [(unfold x; clear x); (clear_value x; rename' x => y)])
      | (clear_value x; rename' x => y)
      | rename' x => y)
    | with_reducible first
      | apply State.restoreRange_kept | apply State.restoreCore_kept | apply State.restoreScribe_kept
      | apply State.setDie_kept | apply State.setCtx_kept | apply State.unpoisonAll_kept | apply Kept.foldl
      | apply Kept.foldl2

theorem State.restored_kept {m : Nat} {r s : State} (h : Kept m r s) a (hm : Sub 0x603b7d85a m := by exact Sub.le (by assumption) (by decide)) :
    Kept m r (s.restored a) := by
  unfold State.restored
  repeat' first
    | with_reducible assumption
    | exact Sub.le (by assumption) (by decide)
    | intro _
    | (extract_lets +onlyGivenNames x; first
      | (have _t : State := by with_reducible apply x
         clear _t; (refine Kept.cut (s := x) ?_ fun _ => ?_) <;> [(unfold x; clear x); (clear_value x; rename' x => y)])
      | (have _t : State := by with_reducible apply x.2
         clear _t; (refine Kept.cut2 (p := x) ?_ fun _ => ?_) <;> [(unfold x; clear x); (clear_value x; rename' x => y)])
      | (clear_value x; rename' x => y)
      | rename' x => y)
    | with_reducible first
      | apply State.setDie_kept | apply State.enterReady_kept | apply State.runCoxes_kept | apply State.bump_kept
      | apply State.setF_kept | apply State.settleEnd_kept | apply State.setLastStatus_kept | apply Kept.foldl
      | apply Kept.foldl2
    | split
    | (refine Kept.snd (by assumption) ?_)

theorem State.restoreTo_kept {m : Nat} {r s : State} (h : Kept m r s) a b c (hm : Sub 0x603bffa7a m := by exact Sub.le (by assumption) (by decide)) :
    Kept m r (s.restoreTo a b c) := by
  unfold State.restoreTo
  repeat' first
    | with_reducible assumption
    | exact Sub.le (by assumption) (by decide)
    | (extract_lets +onlyGivenNames x; first
      | (have _t : State := by with_reducible apply x
         clear _t; (refine Kept.cut (s := x) ?_ fun _ => ?_) <;> [(unfold x; clear x); (clear_value x; rename' x => y)])
      | (have _t : State := by with_reducible apply x.2
         clear _t; (refine Kept.cut2 (p := x) ?_ fun _ => ?_) <;> [(unfold x; clear x); (clear_value x; rename' x => y)])
      | (clear_value x; rename' x => y)
      | rename' x => y)
    | with_reducible first
      | apply State.setF_kept | apply State.setLastStatus_kept | apply State.moveGrants_kept | apply State.redirect_kept
      | apply State.translateJob_kept | apply State.unmapCores_kept | apply State.restoreImage_kept
      | apply State.installModule_kept | apply State.restored_kept
    | split
    | (refine Kept.snd (by assumption) ?_)
    | (fail_if_no_progress with_reducible refine Kept.upd ?_ (by rfl))

theorem State.doRestore_kept {m : Nat} {r s : State} (h : Kept m r s) a b c (hm : Sub 0x603bffa7a m := by exact Sub.le (by assumption) (by decide)) :
    Kept m r (s.doRestore a b c) := by
  unfold State.doRestore
  repeat' first
    | with_reducible assumption
    | exact Sub.le (by assumption) (by decide)
    | with_reducible first
      | apply State.setLastStatus_kept | apply State.restoreTo_kept
    | split
    | (refine Kept.snd (by assumption) ?_)

theorem execRestore_kept {m : Nat} {r s : State} (h : Kept m r s) a b c d (hm : Sub 0x683bffa7a m := by exact Sub.le (by assumption) (by decide)) :
    KeptRes m r (execRestore a b c d s) :=
  .of (State.ctlIn_kept h _ _ _ _ _ _ fun _ h => State.doRestore_kept h ..)

theorem execAutoRestore_kept {m : Nat} {r s : State} (h : Kept m r s) a (hm : Sub 0x603bffa7a m := by exact Sub.le (by assumption) (by decide)) :
    KeptRes m r (execAutoRestore a s) :=
  KeptRes.when (State.doRestore_kept h ..) ..

theorem State.mismatch_kept {m : Nat} {r s : State} (h : Kept m r s) a b c d (hm : Sub 0x602b74010 m := by exact Sub.le (by assumption) (by decide)) :
    Kept m r (s.mismatch a b c d) := by
  unfold State.mismatch
  repeat' first
    | with_reducible assumption
    | exact Sub.le (by assumption) (by decide)
    | (extract_lets +onlyGivenNames x; first
      | (have _t : State := by with_reducible apply x
         clear _t; (refine Kept.cut (s := x) ?_ fun _ => ?_) <;> [(unfold x; clear x); (clear_value x; rename' x => y)])
      | (have _t : State := by with_reducible apply x.2
         clear _t; (refine Kept.cut2 (p := x) ?_ fun _ => ?_) <;> [(unfold x; clear x); (clear_value x; rename' x => y)])
      | (clear_value x; rename' x => y)
      | rename' x => y)
    | with_reducible first
      | apply State.setF_kept | apply State.wr_kept | apply State.record_kept
    | split
    | (refine Kept.snd (by assumption) ?_)

theorem State.verifyRange_kept {m : Nat} {r s : State} (h : Kept m r s) a b c d (hm : Sub 0x602b7c870 m := by exact Sub.le (by assumption) (by decide)) :
    Kept m r (s.verifyRange a b c d).2 := by
  unfold State.verifyRange
  repeat' first
    | with_reducible assumption
    | exact Sub.le (by assumption) (by decide)
    | (extract_lets +onlyGivenNames x; first
      | (have _t : State := by with_reducible apply x
         clear _t; (refine Kept.cut (s := x) ?_ fun _ => ?_) <;> [(unfold x; clear x); (clear_value x; rename' x => y)])
      | (have _t : State := by with_reducible apply x.2
         clear _t; (refine Kept.cut2 (p := x) ?_ fun _ => ?_) <;> [(unfold x; clear x); (clear_value x; rename' x => y)])
      | (clear_value x; rename' x => y)
      | rename' x => y)
    | with_reducible first
      | apply State.inject_kept | apply State.mismatch_kept | apply State.restoreRange_kept
    | split
    | (refine Kept.snd (by assumption) ?_)

theorem State.verifyAll_kept {m : Nat} {r s : State} (h : Kept m r s) a b c d (hm : Sub 0x602b7c870 m := by exact Sub.le (by assumption) (by decide)) : Kept m r (s.verifyAll a b c d).2 := by
  induction c generalizing s d with
  | nil => exact h
  | cons e es ih =>
    cases d with
    | nil => exact h
    | cons q qs =>
      have hv : Kept m r (s.verifyRange a b e q).2 := State.verifyRange_kept h ..
      unfold State.verifyAll
      extract_lets x
      split
      · exact ih hv _
      · exact hv

theorem State.doVerify_kept {m : Nat} {r s : State} (h : Kept m r s) a b c (hm : Sub 0x603b7d87a m := by exact Sub.le (by assumption) (by decide)) :
    Kept m r (s.doVerify a b c) := by
  unfold State.doVerify
  repeat' first
    | with_reducible assumption
    | exact Sub.le (by assumption) (by decide)
    | (extract_lets +onlyGivenNames x; first
      | (have _t : State := by with_reducible apply x
         clear _t; (refine Kept.cut (s := x) ?_ fun _ => ?_) <;> [(unfold x; clear x); (clear_value x; rename' x => y)])
      | (have _t : State := by with_reducible apply x.2
         clear _t; (refine Kept.cut2 (p := x) ?_ fun _ => ?_) <;> [(unfold x; clear x); (clear_value x; rename' x => y)])
      | (clear_value x; rename' x => y)
      | rename' x => y)
    | with_reducible first
      | apply State.verifyAll_kept | apply State.restored_kept | apply State.setF_kept
    | split
    | (refine Kept.snd (by assumption) ?_)

theorem execRestoreVerify_kept {m : Nat} {r s : State} (h : Kept m r s) a b (hm : Sub 0x603b7d87a m := by exact Sub.le (by assumption) (by decide)) :
    KeptRes m r (execRestoreVerify a b s) := by
  unfold execRestoreVerify; split
  · exact KeptRes.when (State.doVerify_kept h ..) ..
  · exact .refused _

theorem State.doShip_kept {m : Nat} {r s : State} (h : Kept m r s) a b c d (hm : Sub 0x6c052 m := by exact Sub.le (by assumption) (by decide)) :
    Kept m r (s.doShip a b c d) := by
  unfold State.doShip
  repeat' first
    | with_reducible assumption
    | exact Sub.le (by assumption) (by decide)
    | intro _
    | (extract_lets +onlyGivenNames x; first
      | (have _t : State := by with_reducible apply x
         clear _t; (refine Kept.cut (s := x) ?_ fun _ => ?_) <;> [(unfold x; clear x); (clear_value x; rename' x => y)])
      | (have _t : State := by with_reducible apply x.2
         clear _t; (refine Kept.cut2 (p := x) ?_ fun _ => ?_) <;> [(unfold x; clear x); (clear_value x; rename' x => y)])
      | (clear_value x; rename' x => y)
      | rename' x => y)
    | with_reducible first
      | apply State.setLastStatus_kept | apply State.bump_kept | apply State.emit_kept | apply State.hbmWrite_kept
      | apply Kept.foldl | apply Kept.foldl2
    | split
    | (refine Kept.snd (by assumption) ?_)

theorem execShip_kept {m : Nat} {r s : State} (h : Kept m r s) a b c d e (hm : Sub 0x682b7c052 m := by exact Sub.le (by assumption) (by decide)) :
    KeptRes m r (execShip a b c d e s) :=
  .of (State.ctlIn_kept h _ _ _ _ _ _ fun _ h => State.doShip_kept h ..)

theorem execRecover_kept {m : Nat} {r s : State} (h : Kept m r s) a b (hm : Sub 0x682b74012 m := by exact Sub.le (by assumption) (by decide)) :
    KeptRes m r (execRecover a b s) :=
  .of (State.ctlIn_kept h _ _ _ _ _ _ fun _ h => State.recover_kept h ..)

theorem State.doPreempt_kept {m : Nat} {r s : State} (h : Kept m r s) a (hm : Sub 0x602060010 m := by exact Sub.le (by assumption) (by decide)) :
    Kept m r (s.doPreempt a) := by
  unfold State.doPreempt; split
  · exact State.startSnap_kept h ..
  · exact State.setLastStatus_kept h ..

theorem execPreempt_kept {m : Nat} {r s : State} (h : Kept m r s) a b (hm : Sub 0x682b74012 m := by exact Sub.le (by assumption) (by decide)) :
    KeptRes m r (execPreempt a b s) :=
  .of (State.ctlIn_kept h _ _ _ _ _ _ fun _ h => State.doPreempt_kept h ..)

theorem State.doResume_kept {m : Nat} {r s : State} (h : Kept m r s) a (hm : Sub 0x602b74210 m := by exact Sub.le (by assumption) (by decide)) :
    Kept m r (s.doResume a) := by
  unfold State.doResume
  repeat' first
    | with_reducible assumption
    | exact Sub.le (by assumption) (by decide)
    | intro _
    | (extract_lets +onlyGivenNames x; first
      | (have _t : State := by with_reducible apply x
         clear _t; (refine Kept.cut (s := x) ?_ fun _ => ?_) <;> [(unfold x; clear x); (clear_value x; rename' x => y)])
      | (have _t : State := by with_reducible apply x.2
         clear _t; (refine Kept.cut2 (p := x) ?_ fun _ => ?_) <;> [(unfold x; clear x); (clear_value x; rename' x => y)])
      | (clear_value x; rename' x => y)
      | rename' x => y)
    | with_reducible first
      | apply State.setCluster_kept | apply State.setLastStatus_kept | apply State.setF_kept | apply State.loadAccs_kept
      | apply Kept.foldl | apply Kept.foldl2
    | split
    | (refine Kept.snd (by assumption) ?_)

theorem execResume_kept {m : Nat} {r s : State} (h : Kept m r s) a b (hm : Sub 0x682b74212 m := by exact Sub.le (by assumption) (by decide)) :
    KeptRes m r (execResume a b s) :=
  .of (State.ctlIn_kept h _ _ _ _ _ _ fun _ h => State.doResume_kept h ..)

theorem State.snpCommand_kept {m : Nat} {r s : State} (h : Kept m r s) a (hm : Sub 0x603bffa7a m := by exact Sub.le (by assumption) (by decide)) :
    Kept m r (s.snpCommand a) := by
  unfold State.snpCommand
  repeat' first
    | with_reducible assumption
    | exact Sub.le (by assumption) (by decide)
    | (extract_lets +onlyGivenNames x; first
      | (have _t : State := by with_reducible apply x
         clear _t; (refine Kept.cut (s := x) ?_ fun _ => ?_) <;> [(unfold x; clear x); (clear_value x; rename' x => y)])
      | (have _t : State := by with_reducible apply x.2
         clear _t; (refine Kept.cut2 (p := x) ?_ fun _ => ?_) <;> [(unfold x; clear x); (clear_value x; rename' x => y)])
      | (clear_value x; rename' x => y)
      | rename' x => y)
    | with_reducible first
      | apply State.doSnapshot_kept | apply State.doRestore_kept | apply State.doShip_kept | apply State.recover_kept
      | apply State.doPreempt_kept | apply State.doResume_kept
    | split
    | (refine Kept.snd (by assumption) ?_)

theorem State.fwCheck_kept {m : Nat} {r s : State} (h : Kept m r s) a b (hm : Sub 0x602b74010 m := by exact Sub.le (by assumption) (by decide)) :
    Kept m r (s.fwCheck a b).2 := by
  unfold State.fwCheck
  repeat' first
    | with_reducible assumption
    | exact Sub.le (by assumption) (by decide)
    | (extract_lets +onlyGivenNames x; first
      | (have _t : State := by with_reducible apply x
         clear _t; (refine Kept.cut (s := x) ?_ fun _ => ?_) <;> [(unfold x; clear x); (clear_value x; rename' x => y)])
      | (have _t : State := by with_reducible apply x.2
         clear _t; (refine Kept.cut2 (p := x) ?_ fun _ => ?_) <;> [(unfold x; clear x); (clear_value x; rename' x => y)])
      | (clear_value x; rename' x => y)
      | rename' x => y)
    | with_reducible first
      | apply State.inject_kept | apply State.record_kept
    | split
    | (refine Kept.snd (by assumption) ?_)

theorem State.showFw_kept {m : Nat} {r s : State} (h : Kept m r s) a b (hm : Sub 0x10 m := by exact Sub.le (by assumption) (by decide)) :
    Kept m r (s.showFw a b) :=
  State.setF_kept (State.setF_kept h ..) ..

theorem State.setNor_kept {m : Nat} {r s : State} (h : Kept m r s) a (hm : Sub 0x800000000 m := by exact Sub.le (by assumption) (by decide)) :
    Kept m r (s.setNor a) :=
  .upd h rfl

theorem State.stageFw_kept {m : Nat} {r s : State} (h : Kept m r s) a (hm : Sub 0x800000000 m := by exact Sub.le (by assumption) (by decide)) :
    Kept m r (s.stageFw a) :=
  State.setNor_kept h ..

theorem State.selectFw_kept {m : Nat} {r s : State} (h : Kept m r s) a (hm : Sub 0x800000010 m := by exact Sub.le (by assumption) (by decide)) :
    Kept m r (s.selectFw a) :=
  State.setF_kept (State.setNor_kept h ..) ..

theorem State.forgetCore_kept {m : Nat} {r s : State} (h : Kept m r s) a (hm : Sub 0xeb8 m := by exact Sub.le (by assumption) (by decide)) : Kept m r (s.forgetCore a) := by
  unfold State.forgetCore
  extract_lets -underBinder n s1 s2 word wide s3 s4 s5 c
  refine State.setCvu_kept ?_ ..
  refine Kept.foldl ?_ fun s e h => State.setEng_kept h ..
  refine Kept.foldl ?_ fun s e h => State.setF_kept h ..
  refine Kept.foldl ?_ fun s e h => State.wr_kept h ..
  exact State.setAe_kept (Kept.forgetSpad (State.tick_kept h) ..) ..

theorem State.forgetPc_kept {m : Nat} {r s : State} (h : Kept m r s) a b (hb : b < 64) (hm : Sub 0x8148 m := by exact Sub.le (by assumption) (by decide)) : Kept m r (s.forgetPc a b) :=
  State.setStk_kept (Kept.forgetCells (State.tick_kept h) a b _ hb) ..

theorem State.portBack_kept {m : Nat} {r s : State} (h : Kept m r s) a (hm : Sub 0x10 m := by exact Sub.le (by assumption) (by decide)) :
    Kept m r (s.portBack a) := by
  unfold State.portBack
  repeat' first
    | with_reducible assumption
    | exact Sub.le (by assumption) (by decide)
    | (extract_lets +onlyGivenNames x; first
      | (have _t : State := by with_reducible apply x
         clear _t; (refine Kept.cut (s := x) ?_ fun _ => ?_) <;> [(unfold x; clear x); (clear_value x; rename' x => y)])
      | (have _t : State := by with_reducible apply x.2
         clear _t; (refine Kept.cut2 (p := x) ?_ fun _ => ?_) <;> [(unfold x; clear x); (clear_value x; rename' x => y)])
      | (clear_value x; rename' x => y)
      | rename' x => y)
    | with_reducible first
      | apply State.setF_kept
    | split
    | (refine Kept.snd (by assumption) ?_)

theorem State.linkDieBack_kept {m : Nat} {r s : State} (h : Kept m r s) a (hm : Sub 0x300010 m := by exact Sub.le (by assumption) (by decide)) :
    Kept m r (s.linkDieBack a) := by
  unfold State.linkDieBack
  repeat' first
    | with_reducible assumption
    | exact Sub.le (by assumption) (by decide)
    | intro _
    | (extract_lets +onlyGivenNames x; first
      | (have _t : State := by with_reducible apply x
         clear _t; (refine Kept.cut (s := x) ?_ fun _ => ?_) <;> [(unfold x; clear x); (clear_value x; rename' x => y)])
      | (have _t : State := by with_reducible apply x.2
         clear _t; (refine Kept.cut2 (p := x) ?_ fun _ => ?_) <;> [(unfold x; clear x); (clear_value x; rename' x => y)])
      | (clear_value x; rename' x => y)
      | rename' x => y)
    | with_reducible first
      | apply State.palPut_kept | apply State.setBit_kept | apply State.portBack_kept | apply Kept.foldl | apply Kept.foldl2
    | split
    | (refine Kept.snd (by assumption) ?_)

theorem State.unfenceUnit_kept {m : Nat} {r s : State} (h : Kept m r s) a b (hm : Sub 0x308ff8 m := by exact Sub.le (by assumption) (by decide)) : Kept m r (s.unfenceUnit a b) := by
  have put {s : State} (h : Kept m r s) (x y z) (v : Bool) (k : Bool) : Kept m r ((s.setBit x y v).palPut k z) :=
    State.palPut_kept (State.setBit_kept h ..) ..
  unfold State.unfenceUnit
  split
  · exact Kept.foldl (put h ..) fun s c h => State.forgetCore_kept h ..
  · exact State.forgetCore_kept (put h ..) ..
  · exact Kept.foldlRange (put h ..) fun s c hc h => State.forgetPc_kept h _ _ hc
  · have hs := State.setF_kept (put h (R.HBM_PC_FENCE (b / 64)) (b % 64) (R.HBM_PC_FENCE (b / 64)) false true)
    extract_lets k a s1 s2
    split
    · exact hs ..
    · exact State.forgetPc_kept (hs ..) _ _ (Nat.mod_lt _ (by decide))
  · exact put h ..
  · exact State.portBack_kept (put h ..) ..
  · exact State.portBack_kept (State.palPut_kept (State.setF_kept h ..) ..) ..
  · exact State.linkDieBack_kept (State.linkDieBack_kept (put h ..) ..) ..
  · exact h

theorem State.fenceRequest_kept {m : Nat} {r s : State} (h : Kept m r s) a b c (hm : Sub 0x602b7cff8 m := by exact Sub.le (by assumption) (by decide)) :
    Kept m r (s.fenceRequest a b c) := by
  unfold State.fenceRequest
  repeat' first
    | with_reducible assumption
    | exact Sub.le (by assumption) (by decide)
    | with_reducible first
      | apply State.unfenceUnit_kept | apply State.fenceUnit_kept
    | split
    | (refine Kept.snd (by assumption) ?_)

theorem execFence_kept {m : Nat} {r s : State} (h : Kept m r s) a b c (hm : Sub 0x682b7cffa m := by exact Sub.le (by assumption) (by decide)) :
    KeptRes m r (execFence a b c s) :=
  .of (State.ctlIn_kept h _ _ _ _ _ _ fun _ h => State.fenceRequest_kept h ..)

theorem execUnfence_kept {m : Nat} {r s : State} (h : Kept m r s) a b c (hm : Sub 0x682b7cffa m := by exact Sub.le (by assumption) (by decide)) :
    KeptRes m r (execUnfence a b c s) :=
  .of (State.ctlIn_kept h _ _ _ _ _ _ fun _ h => State.fenceRequest_kept h ..)

theorem State.maintBegin_kept {m : Nat} {r s : State} (h : Kept m r s) a (hm : Sub 0xe02b74010 m := by exact Sub.le (by assumption) (by decide)) :
    Kept m r (s.maintBegin a) := by
  unfold State.maintBegin
  repeat' first
    | with_reducible assumption
    | exact Sub.le (by assumption) (by decide)
    | (extract_lets +onlyGivenNames x; first
      | (have _t : State := by with_reducible apply x
         clear _t; (refine Kept.cut (s := x) ?_ fun _ => ?_) <;> [(unfold x; clear x); (clear_value x; rename' x => y)])
      | (have _t : State := by with_reducible apply x.2
         clear _t; (refine Kept.cut2 (p := x) ?_ fun _ => ?_) <;> [(unfold x; clear x); (clear_value x; rename' x => y)])
      | rename' x => y)
    | with_reducible first
      | apply State.maintEnd_kept | apply State.fwCheck_kept | apply State.stageFw_kept | apply State.showFw_kept
      | apply State.setScribe_kept | apply State.startSnap_kept | apply State.setLastStatus_kept
      | apply State.snapMaintEnd_kept
    | split
    | (refine Kept.snd (by assumption) ?_)
    | (fail_if_no_progress with_reducible refine Kept.upd ?_ (by rfl))

theorem State.maintAsk_kept {m : Nat} {r s : State} (h : Kept m r s) a (hm : Sub 0xe02b74010 m := by exact Sub.le (by assumption) (by decide)) :
    Kept m r (s.maintAsk a) := by
  unfold State.maintAsk
  repeat' first
    | with_reducible assumption
    | exact Sub.le (by assumption) (by decide)
    | (extract_lets +onlyGivenNames x; first
      | (have _t : State := by with_reducible apply x
         clear _t; (refine Kept.cut (s := x) ?_ fun _ => ?_) <;> [(unfold x; clear x); (clear_value x; rename' x => y)])
      | (have _t : State := by with_reducible apply x.2
         clear _t; (refine Kept.cut2 (p := x) ?_ fun _ => ?_) <;> [(unfold x; clear x); (clear_value x; rename' x => y)])
      | (clear_value x; rename' x => y)
      | rename' x => y)
    | with_reducible first
      | apply State.maintRequest_kept | apply State.maintBegin_kept
    | split
    | (refine Kept.snd (by assumption) ?_)

theorem State.maintWrite_kept {m : Nat} {r s : State} (h : Kept m r s) a b c d e (hm : Sub 0xe02b74010 m := by exact Sub.le (by assumption) (by decide)) :
    Kept m r (s.maintWrite a b c d e) := by
  unfold State.maintWrite; split
  · exact State.maintAsk_kept h ..
  · exact h

theorem execScrub_kept {m : Nat} {r s : State} (h : Kept m r s) a b (hm : Sub 0xe82b74012 m := by exact Sub.le (by assumption) (by decide)) :
    KeptRes m r (execScrub a b s) :=
  .of (State.ctlIn_kept h _ _ _ _ _ _ fun _ h => State.maintWrite_kept h ..)

theorem execRepair_kept {m : Nat} {r s : State} (h : Kept m r s) a b (hm : Sub 0xe82b74012 m := by exact Sub.le (by assumption) (by decide)) :
    KeptRes m r (execRepair a b s) :=
  .of (State.ctlIn_kept h _ _ _ _ _ _ fun _ h => State.maintWrite_kept h ..)

theorem execReeq_kept {m : Nat} {r s : State} (h : Kept m r s) a b (hm : Sub 0xe82b74012 m := by exact Sub.le (by assumption) (by decide)) :
    KeptRes m r (execReeq a b s) :=
  .of (State.ctlIn_kept h _ _ _ _ _ _ fun _ h => State.maintWrite_kept h ..)

theorem execCal_kept {m : Nat} {r s : State} (h : Kept m r s) a (hm : Sub 0xe82b74012 m := by exact Sub.le (by assumption) (by decide)) :
    KeptRes m r (execCal a s) :=
  .of (State.ctlIn_kept h _ _ _ _ _ _ fun _ h => State.maintWrite_kept h ..)

theorem execPatch_kept {m : Nat} {r s : State} (h : Kept m r s) a b c d (hm : Sub 0xe82b74012 m := by exact Sub.le (by assumption) (by decide)) :
    KeptRes m r (execPatch a b c d s) :=
  .of (State.ctlIn_kept h _ _ _ _ _ _ fun _ h => State.maintWrite_kept h ..)

theorem State.doScrubPeriod_kept {m : Nat} {r s : State} (h : Kept m r s) a (hm : Sub 0xe02b74010 m := by exact Sub.le (by assumption) (by decide)) :
    Kept m r (s.doScrubPeriod a) :=
  State.maintAsk_kept (.upd h rfl) ..

theorem execScrubPeriod_kept {m : Nat} {r s : State} (h : Kept m r s) a (hm : Sub 0xe02b74010 m := by exact Sub.le (by assumption) (by decide)) :
    KeptRes m r (execScrubPeriod a s) :=
  KeptRes.when (State.doScrubPeriod_kept h ..) ..

theorem State.doMaintStart_kept {m : Nat} {r s : State} (h : Kept m r s) a b (hm : Sub 0xe02b74010 m := by exact Sub.le (by assumption) (by decide)) :
    Kept m r (s.doMaintStart a b) :=
  State.maintBegin_kept (.upd h rfl) ..

theorem execMaintStart_kept {m : Nat} {r s : State} (h : Kept m r s) a (hm : Sub 0xe02b74010 m := by exact Sub.le (by assumption) (by decide)) :
    KeptRes m r (execMaintStart a s) := by
  unfold execMaintStart; split
  · exact .refused _
  · exact KeptRes.when (State.doMaintStart_kept h ..) ..

theorem State.doScrub_kept {m : Nat} {r s : State} (h : Kept m r s) a (hm : Sub 0x602b7c010 m := by exact Sub.le (by assumption) (by decide)) :
    Kept m r (s.doScrub a) := by
  unfold State.doScrub
  repeat' first
    | with_reducible assumption
    | exact Sub.le (by assumption) (by decide)
    | intro _
    | (extract_lets +onlyGivenNames x; first
      | (have _t : State := by with_reducible apply x
         clear _t; (refine Kept.cut (s := x) ?_ fun _ => ?_) <;> [(unfold x; clear x); (clear_value x; rename' x => y)])
      | (have _t : State := by with_reducible apply x.2
         clear _t; (refine Kept.cut2 (p := x) ?_ fun _ => ?_) <;> [(unfold x; clear x); (clear_value x; rename' x => y)])
      | (clear_value x; rename' x => y)
      | rename' x => y)
    | with_reducible first
      | apply State.eccRead_kept | apply State.setStk_kept | apply Kept.foldl | apply Kept.foldl2

theorem State.doRepair_kept {m : Nat} {r s : State} (h : Kept m r s) a (hm : Sub 0x300010 m := by exact Sub.le (by assumption) (by decide)) :
    Kept m r (s.doRepair a) :=
  State.palPut_kept (State.setF_kept (State.setF_kept h ..) ..) ..

theorem State.doReeq_kept {m : Nat} {r s : State} (h : Kept m r s) a (hm : Sub 0x308ff8 m := by exact Sub.le (by assumption) (by decide)) :
    Kept m r (s.doReeq a) := by
  unfold State.doReeq
  repeat' first
    | with_reducible assumption
    | exact Sub.le (by assumption) (by decide)
    | intro _
    | (extract_lets +onlyGivenNames x; first
      | (have _t : State := by with_reducible apply x
         clear _t; (refine Kept.cut (s := x) ?_ fun _ => ?_) <;> [(unfold x; clear x); (clear_value x; rename' x => y)])
      | (have _t : State := by with_reducible apply x.2
         clear _t; (refine Kept.cut2 (p := x) ?_ fun _ => ?_) <;> [(unfold x; clear x); (clear_value x; rename' x => y)])
      | (clear_value x; rename' x => y)
      | rename' x => y)
    | with_reducible first
      | apply State.unfenceUnit_kept | apply Kept.foldl | apply Kept.foldl2
    | split
    | (refine Kept.snd (by assumption) ?_)

theorem State.applyPatchFw_kept {m : Nat} {r s : State} (h : Kept m r s) a b (hm : Sub 0xe02b7c870 m := by exact Sub.le (by assumption) (by decide)) :
    Kept m r (s.applyPatchFw a b) := by
  unfold State.applyPatchFw
  repeat' first
    | with_reducible assumption
    | exact Sub.le (by assumption) (by decide)
    | (extract_lets +onlyGivenNames x; first
      | (have _t : State := by with_reducible apply x
         clear _t; (refine Kept.cut (s := x) ?_ fun _ => ?_) <;> [(unfold x; clear x); (clear_value x; rename' x => y)])
      | (have _t : State := by with_reducible apply x.2
         clear _t; (refine Kept.cut2 (p := x) ?_ fun _ => ?_) <;> [(unfold x; clear x); (clear_value x; rename' x => y)])
      | rename' x => y)
    | with_reducible first
      | apply State.selectFw_kept | apply State.showFw_kept | apply State.setScribe_kept | apply State.beginPass_kept
    | split
    | (refine Kept.snd (by assumption) ?_)
    | (fail_if_no_progress with_reducible refine Kept.upd ?_ (by rfl))

theorem State.maintEffect_kept {m : Nat} {r s : State} (h : Kept m r s) a (hm : Sub 0xe02b7cff8 m := by exact Sub.le (by assumption) (by decide)) :
    Kept m r (s.maintEffect a) := by
  unfold State.maintEffect
  repeat' first
    | with_reducible assumption
    | exact Sub.le (by assumption) (by decide)
    | (extract_lets +onlyGivenNames x; first
      | (have _t : State := by with_reducible apply x
         clear _t; (refine Kept.cut (s := x) ?_ fun _ => ?_) <;> [(unfold x; clear x); (clear_value x; rename' x => y)])
      | (have _t : State := by with_reducible apply x.2
         clear _t; (refine Kept.cut2 (p := x) ?_ fun _ => ?_) <;> [(unfold x; clear x); (clear_value x; rename' x => y)])
      | (clear_value x; rename' x => y)
      | rename' x => y)
    | with_reducible first
      | apply State.doScrub_kept | apply State.doRepair_kept | apply State.doReeq_kept | apply State.refit_kept
      | apply State.applyPatchFw_kept
    | split
    | (refine Kept.snd (by assumption) ?_)
    | (fail_if_no_progress with_reducible refine Kept.upd ?_ (by rfl))

theorem State.doMaintComplete_kept {m : Nat} {r s : State} (h : Kept m r s) a b c (hm : Sub 0xe02b7cff8 m := by exact Sub.le (by assumption) (by decide)) :
    Kept m r (s.doMaintComplete a b c) := by
  unfold State.doMaintComplete
  repeat' first
    | with_reducible assumption
    | exact Sub.le (by assumption) (by decide)
    | (extract_lets +onlyGivenNames x; first
      | (have _t : State := by with_reducible apply x
         clear _t; (refine Kept.cut (s := x) ?_ fun _ => ?_) <;> [(unfold x; clear x); (clear_value x; rename' x => y)])
      | (have _t : State := by with_reducible apply x.2
         clear _t; (refine Kept.cut2 (p := x) ?_ fun _ => ?_) <;> [(unfold x; clear x); (clear_value x; rename' x => y)])
      | (clear_value x; rename' x => y)
      | rename' x => y)
    | with_reducible first
      | apply State.maintEnd_kept | apply State.maintEffect_kept | apply State.setScribe_kept
    | split
    | (refine Kept.snd (by assumption) ?_)

theorem execMaintComplete_kept {m : Nat} {r s : State} (h : Kept m r s) a b (hm : Sub 0xe02b7cff8 m := by exact Sub.le (by assumption) (by decide)) :
    KeptRes m r (execMaintComplete a b s) := by
  unfold execMaintComplete; split
  · exact .refused _
  · exact KeptRes.when (State.doMaintComplete_kept h ..) ..

theorem State.doDeferTimeout_kept {m : Nat} {r s : State} (h : Kept m r s) a b (hm : Sub 0x2000010 m := by exact Sub.le (by assumption) (by decide)) :
    Kept m r (s.doDeferTimeout a b) := by
  unfold State.doDeferTimeout
  repeat' first
    | with_reducible assumption
    | exact Sub.le (by assumption) (by decide)
    | (extract_lets +onlyGivenNames x; first
      | (have _t : State := by with_reducible apply x
         clear _t; (refine Kept.cut (s := x) ?_ fun _ => ?_) <;> [(unfold x; clear x); (clear_value x; rename' x => y)])
      | (have _t : State := by with_reducible apply x.2
         clear _t; (refine Kept.cut2 (p := x) ?_ fun _ => ?_) <;> [(unfold x; clear x); (clear_value x; rename' x => y)])
      | (clear_value x; rename' x => y)
      | rename' x => y)
    | with_reducible first
      | apply State.bump_kept | apply State.setLastStatus_kept | apply State.setMaintLast_kept
    | (fail_if_no_progress with_reducible refine Kept.upd ?_ (by rfl))

theorem execSnapDeferTimeout_kept {m : Nat} {r s : State} (h : Kept m r s) a (hm : Sub 0x2000010 m := by exact Sub.le (by assumption) (by decide)) :
    KeptRes m r (execSnapDeferTimeout a s) := by
  unfold execSnapDeferTimeout; split
  · exact .refused _
  · exact KeptRes.when (State.doDeferTimeout_kept h ..) ..

theorem State.trialEnd_kept {m : Nat} {r s : State} (h : Kept m r s) a (hm : Sub 0x2000010 m := by exact Sub.le (by assumption) (by decide)) :
    Kept m r (s.trialEnd a) := by
  unfold State.trialEnd; split
  · exact State.maintEnd_kept h ..
  · exact h

theorem State.doPatchCommit_kept {m : Nat} {r s : State} (h : Kept m r s) (hm : Sub 0x802200010 m := by exact Sub.le (by assumption) (by decide)) :
    Kept m r (s.doPatchCommit) := by
  unfold State.doPatchCommit
  repeat' first
    | with_reducible assumption
    | exact Sub.le (by assumption) (by decide)
    | (extract_lets +onlyGivenNames x; first
      | (have _t : State := by with_reducible apply x
         clear _t; (refine Kept.cut (s := x) ?_ fun _ => ?_) <;> [(unfold x; clear x); (clear_value x; rename' x => y)])
      | (have _t : State := by with_reducible apply x.2
         clear _t; (refine Kept.cut2 (p := x) ?_ fun _ => ?_) <;> [(unfold x; clear x); (clear_value x; rename' x => y)])
      | rename' x => y)
    | with_reducible first
      | apply State.trialEnd_kept | apply State.selectFw_kept
    | (fail_if_no_progress with_reducible refine Kept.upd ?_ (by rfl))

theorem execPatchCommit_kept {m : Nat} {r s : State} (h : Kept m r s) (hm : Sub 0x802200010 m := by exact Sub.le (by assumption) (by decide)) :
    KeptRes m r (execPatchCommit s) := by
  unfold execPatchCommit; split
  · exact .refused _
  · exact KeptRes.when (State.doPatchCommit_kept h ..) ..

theorem State.rollback_kept {m : Nat} {r s : State} (h : Kept m r s) a (hm : Sub 0x802000010 m := by exact Sub.le (by assumption) (by decide)) :
    Kept m r (s.rollback a) := by
  unfold State.rollback
  repeat' first
    | with_reducible assumption
    | exact Sub.le (by assumption) (by decide)
    | (extract_lets +onlyGivenNames x; first
      | (have _t : State := by with_reducible apply x
         clear _t; (refine Kept.cut (s := x) ?_ fun _ => ?_) <;> [(unfold x; clear x); (clear_value x; rename' x => y)])
      | (have _t : State := by with_reducible apply x.2
         clear _t; (refine Kept.cut2 (p := x) ?_ fun _ => ?_) <;> [(unfold x; clear x); (clear_value x; rename' x => y)])
      | rename' x => y)
    | with_reducible first
      | apply State.showFw_kept | apply State.trialEnd_kept | apply State.setF_kept
    | split
    | (refine Kept.snd (by assumption) ?_)
    | (fail_if_no_progress with_reducible refine Kept.upd ?_ (by rfl))

end Sys2Proof.Machine
end

