-- ==== Sys2Proof/Laws/KeptBoot.lean ====
section
/-! SUPPORT. What `Kept` says of the copybook, start-up, management, temperature and telemetry: one lemma per function, citing those of the functions it calls. -/

set_option linter.unreachableTactic false
set_option linter.unusedTactic false
set_option linter.tactic.unusedName false

namespace Sys2Proof.Machine

set_option Elab.async false

open Sys2Proof

theorem State.disarmAll_kept {m : Nat} {r s : State} (h : Kept m r s) (hm : Sub 0x10 m := by exact Sub.le (by assumption) (by decide)) :
    Kept m r (s.disarmAll) := by
  unfold State.disarmAll
  repeat' first
    | with_reducible assumption
    | exact Sub.le (by assumption) (by decide)
    | intro _
    | with_reducible first
      | apply State.setF_kept | apply Kept.foldl | apply Kept.foldl2
    | split
    | (refine Kept.snd (by assumption) ?_)

theorem State.regDefault_kept {m : Nat} {r s : State} (h : Kept m r s) a b (hm : Sub 0x100000010 m := by exact Sub.le (by assumption) (by decide)) :
    Kept m r (s.regDefault a b) := by
  unfold State.regDefault
  repeat' first
    | with_reducible assumption
    | exact Sub.le (by assumption) (by decide)
    | intro _
    | (extract_lets +onlyGivenNames x; first
      | (have _t : State := by with_reducible apply x
         clear _t; (refine Kept.cut (s := x) ?_ fun _ => ?_) <;> [(unfold x; clear x); (clear_value x; rename' x => y)])
      | (have _t : State := by with_reducible apply x.2
         clear _t; (refine Kept.cut2 (p := x) ?_ fun _ => ?_) <;> [(unfold x; clear x); (clear_value x; rename' x => y)])
      | (clear_value x; rename' x => y)
      | rename' x => y)
    | with_reducible first
      | apply State.wrMask_kept | apply State.cbSet_kept | apply State.disarmAll_kept | apply Kept.foldl | apply Kept.foldl2
    | split
    | (refine Kept.snd (by assumption) ?_)

theorem State.checkBook_kept {m : Nat} {r s : State} (h : Kept m r s) a b c (hm : Sub 0x602b74010 m := by exact Sub.le (by assumption) (by decide)) :
    Kept m r (s.checkBook a b c).2 := by
  unfold State.checkBook
  repeat' first
    | with_reducible assumption
    | exact Sub.le (by assumption) (by decide)
    | (extract_lets +onlyGivenNames x; first
      | (have _t : State := by with_reducible apply x
         clear _t; (refine Kept.cut (s := x) ?_ fun _ => ?_) <;> [(unfold x; clear x); (clear_value x; rename' x => y)])
      | (have _t : State := by with_reducible apply x.2
         clear _t; (refine Kept.cut2 (p := x) ?_ fun _ => ?_) <;> [(unfold x; clear x); (clear_value x; rename' x => y)])
      | (clear_value x; rename' x => y)
      | rename' x => y)
    | with_reducible first
      | apply State.inject_kept | apply State.record_kept
    | split
    | (refine Kept.snd (by assumption) ?_)

theorem State.applyNode_kept {m : Nat} {r s : State} (h : Kept m r s) a (hm : Sub 0x100400010 m := by exact Sub.le (by assumption) (by decide)) :
    Kept m r (s.applyNode a) := by
  unfold State.applyNode
  repeat' first
    | with_reducible assumption
    | exact Sub.le (by assumption) (by decide)
    | intro _
    | (extract_lets +onlyGivenNames x; first
      | (have _t : State := by with_reducible apply x
         clear _t; (refine Kept.cut (s := x) ?_ fun _ => ?_) <;> [(unfold x; clear x); (clear_value x; rename' x => y)])
      | (have _t : State := by with_reducible apply x.2
         clear _t; (refine Kept.cut2 (p := x) ?_ fun _ => ?_) <;> [(unfold x; clear x); (clear_value x; rename' x => y)])
      | (clear_value x; rename' x => y)
      | rename' x => y)
    | with_reducible first
      | apply State.cbField_kept | apply Kept.foldl | apply Kept.foldl2
    | (fail_if_no_progress with_reducible refine Kept.upd ?_ (by rfl))

theorem State.applyEthernet_kept {m : Nat} {r s : State} (h : Kept m r s) a (hm : Sub 0x500000010 m := by exact Sub.le (by assumption) (by decide)) :
    Kept m r (s.applyEthernet a) := by
  unfold State.applyEthernet
  repeat' first
    | with_reducible assumption
    | exact Sub.le (by assumption) (by decide)
    | intro _
    | (extract_lets +onlyGivenNames x; first
      | (have _t : State := by with_reducible apply x
         clear _t; (refine Kept.cut (s := x) ?_ fun _ => ?_) <;> [(unfold x; clear x); (clear_value x; rename' x => y)])
      | (have _t : State := by with_reducible apply x.2
         clear _t; (refine Kept.cut2 (p := x) ?_ fun _ => ?_) <;> [(unfold x; clear x); (clear_value x; rename' x => y)])
      | (clear_value x; rename' x => y)
      | rename' x => y)
    | with_reducible first
      | apply State.cbField_kept | apply Kept.foldl | apply Kept.foldl2
    | (fail_if_no_progress with_reducible refine Kept.upd ?_ (by rfl))

theorem State.applyPower_kept {m : Nat} {r s : State} (h : Kept m r s) a (hm : Sub 0x100000010 m := by exact Sub.le (by assumption) (by decide)) :
    Kept m r (s.applyPower a) := by
  unfold State.applyPower
  repeat' first
    | with_reducible assumption
    | exact Sub.le (by assumption) (by decide)
    | intro _
    | (extract_lets +onlyGivenNames x; first
      | (have _t : State := by with_reducible apply x
         clear _t; (refine Kept.cut (s := x) ?_ fun _ => ?_) <;> [(unfold x; clear x); (clear_value x; rename' x => y)])
      | (have _t : State := by with_reducible apply x.2
         clear _t; (refine Kept.cut2 (p := x) ?_ fun _ => ?_) <;> [(unfold x; clear x); (clear_value x; rename' x => y)])
      | (clear_value x; rename' x => y)
      | rename' x => y)
    | with_reducible first
      | apply State.cbField_kept | apply State.setF_kept | apply Kept.foldl | apply Kept.foldl2

theorem State.applyWatchdogs_kept {m : Nat} {r s : State} (h : Kept m r s) a (hm : Sub 0x110000010 m := by exact Sub.le (by assumption) (by decide)) :
    Kept m r (s.applyWatchdogs a) :=
  .foldl (.upd h rfl) fun _ _ h => State.cbField_kept h ..

theorem State.applyThresholds_kept {m : Nat} {r s : State} (h : Kept m r s) a (hm : Sub 0x20000 m := by exact Sub.le (by assumption) (by decide)) :
    Kept m r (s.applyThresholds a) :=
  .upd h rfl

theorem State.applyOwner_kept {m : Nat} {r s : State} (h : Kept m r s) a (hm : Sub 0x800000010 m := by exact Sub.le (by assumption) (by decide)) : Kept m r (s.applyOwner a) := by
  unfold State.applyOwner
  split
  · exact h
  split
  · exact h
  refine State.setF_kept (State.setF_kept ?_ ..) ..
  exact h.trans ⟨rfl, id, Nat.le_refl _, List.prefix_refl _, List.prefix_append .., .mk⟩

theorem State.applyCommon_kept {m : Nat} {r s : State} (h : Kept m r s) a b (hm : Sub 0x910020010 m := by exact Sub.le (by assumption) (by decide)) : Kept m r (s.applyCommon a b) := by
  unfold State.applyCommon
  extract_lets -underBinder s1 s2
  have h1 : Kept m r s1 := by
    unfold s1; split
    · exact State.applyPower_kept h ..
    · exact h
  clear_value s1
  have h2 : Kept m r s2 := by
    unfold s2; split
    · exact State.applyWatchdogs_kept h1 ..
    · exact .upd h1 rfl
  exact State.applyOwner_kept (Kept.foldl (State.applyThresholds_kept h2 ..) fun _ _ h => State.regDefault_kept h ..) ..

theorem State.showBook_kept {m : Nat} {r s : State} (h : Kept m r s) a (hm : Sub 0x800000010 m := by exact Sub.le (by assumption) (by decide)) :
    Kept m r (s.showBook a) := by
  unfold State.showBook
  repeat' first
    | with_reducible assumption
    | exact Sub.le (by assumption) (by decide)
    | intro _
    | (extract_lets +onlyGivenNames x; first
      | (have _t : State := by with_reducible apply x
         clear _t; (refine Kept.cut (s := x) ?_ fun _ => ?_) <;> [(unfold x; clear x); (clear_value x; rename' x => y)])
      | (have _t : State := by with_reducible apply x.2
         clear _t; (refine Kept.cut2 (p := x) ?_ fun _ => ?_) <;> [(unfold x; clear x); (clear_value x; rename' x => y)])
      | rename' x => y)
    | with_reducible first
      | apply State.wr_kept | apply Kept.foldl | apply Kept.foldl2
    | (fail_if_no_progress with_reducible refine Kept.upd ?_ (by rfl))

theorem State.offDie_kept {m : Nat} {r s : State} (h : Kept m r s) a (hm : Sub 0x3eb0 m := by exact Sub.le (by assumption) (by decide)) :
    Kept m r (s.offDie a) := by
  unfold State.offDie
  repeat' first
    | with_reducible assumption
    | exact Sub.le (by assumption) (by decide)
    | intro _
    | (extract_lets +onlyGivenNames x; first
      | (have _t : State := by with_reducible apply x
         clear _t; (refine Kept.cut (s := x) ?_ fun _ => ?_) <;> [(unfold x; clear x); (clear_value x; rename' x => y)])
      | (have _t : State := by with_reducible apply x.2
         clear _t; (refine Kept.cut2 (p := x) ?_ fun _ => ?_) <;> [(unfold x; clear x); (clear_value x; rename' x => y)])
      | (clear_value x; rename' x => y)
      | rename' x => y)
    | with_reducible first
      | apply State.clearCores_kept | apply State.resetRegs_kept | apply State.setF_kept | apply Kept.foldl
      | apply Kept.foldl2

theorem State.onDie_kept {m : Nat} {r s : State} (h : Kept m r s) a (hm : Sub 0x3eb0 m := by exact Sub.le (by assumption) (by decide)) :
    Kept m r (s.onDie a) := by
  unfold State.onDie
  repeat' first
    | with_reducible assumption
    | exact Sub.le (by assumption) (by decide)
    | intro _
    | with_reducible first
      | apply State.setF_kept | apply State.resetCluster_kept | apply Kept.foldl | apply Kept.foldl2
    | split
    | (refine Kept.snd (by assumption) ?_)

theorem State.markDies_kept {m : Nat} {r s : State} (h : Kept m r s) a b c d e (hm : Sub 0x100000210 m := by exact Sub.le (by assumption) (by decide)) :
    Kept m r (s.markDies a b c d e) := by
  unfold State.markDies
  repeat' first
    | with_reducible assumption
    | exact Sub.le (by assumption) (by decide)
    | intro _
    | (extract_lets +onlyGivenNames x; first
      | (have _t : State := by with_reducible apply x
         clear _t; (refine Kept.cut (s := x) ?_ fun _ => ?_) <;> [(unfold x; clear x); (clear_value x; rename' x => y)])
      | (have _t : State := by with_reducible apply x.2
         clear _t; (refine Kept.cut2 (p := x) ?_ fun _ => ?_) <;> [(unfold x; clear x); (clear_value x; rename' x => y)])
      | (clear_value x; rename' x => y)
      | rename' x => y)
    | with_reducible first
      | apply State.cbSet_kept | apply State.cbField_kept | apply State.seedEngines_kept | apply Kept.foldl
      | apply Kept.foldl2
    | split
    | (refine Kept.snd (by assumption) ?_)

theorem State.admitTen_kept {m : Nat} {r s : State} (h : Kept m r s) a b (hm : Sub 0x10030bef0 m := by exact Sub.le (by assumption) (by decide)) :
    Kept m r (s.admitTen a b) := by
  unfold State.admitTen
  repeat' first
    | with_reducible assumption
    | exact Sub.le (by assumption) (by decide)
    | intro _
    | (extract_lets +onlyGivenNames x; first
      | (have _t : State := by with_reducible apply x
         clear _t; (refine Kept.cut (s := x) ?_ fun _ => ?_) <;> [(unfold x; clear x); (clear_value x; rename' x => y)])
      | (have _t : State := by with_reducible apply x.2
         clear _t; (refine Kept.cut2 (p := x) ?_ fun _ => ?_) <;> [(unfold x; clear x); (clear_value x; rename' x => y)])
      | (clear_value x; rename' x => y)
      | rename' x => y)
    | with_reducible first
      | apply State.cbSet_kept | apply State.wr_kept | apply State.onDie_kept | apply State.markDies_kept
      | apply State.palPut_kept | apply State.setF_kept | apply State.dieWrite_kept | apply Kept.foldl | apply Kept.foldl2
    | split
    | (refine Kept.snd (by assumption) ?_)

theorem State.withdrawTen_kept {m : Nat} {r s : State} (h : Kept m r s) a (hm : Sub 0x100003eb0 m := by exact Sub.le (by assumption) (by decide)) :
    Kept m r (s.withdrawTen a) := by
  unfold State.withdrawTen
  repeat' first
    | with_reducible assumption
    | exact Sub.le (by assumption) (by decide)
    | intro _
    | (extract_lets +onlyGivenNames x; first
      | (have _t : State := by with_reducible apply x
         clear _t; (refine Kept.cut (s := x) ?_ fun _ => ?_) <;> [(unfold x; clear x); (clear_value x; rename' x => y)])
      | (have _t : State := by with_reducible apply x.2
         clear _t; (refine Kept.cut2 (p := x) ?_ fun _ => ?_) <;> [(unfold x; clear x); (clear_value x; rename' x => y)])
      | (clear_value x; rename' x => y)
      | rename' x => y)
    | with_reducible first
      | apply State.markDies_kept | apply State.cbSet_kept | apply State.wr_kept | apply State.offDie_kept | apply Kept.foldl
      | apply Kept.foldl2

theorem State.applyHost_kept {m : Nat} {r s : State} (h : Kept m r s) a (hm : Sub 0x404000000 m := by exact Sub.le (by assumption) (by decide)) :
    Kept m r (s.applyHost a) := by
  unfold State.applyHost
  repeat' first
    | with_reducible assumption
    | exact Sub.le (by assumption) (by decide)
    | (extract_lets +onlyGivenNames x; first
      | (have _t : State := by with_reducible apply x
         clear _t; (refine Kept.cut (s := x) ?_ fun _ => ?_) <;> [(unfold x; clear x); (clear_value x; rename' x => y)])
      | (have _t : State := by with_reducible apply x.2
         clear _t; (refine Kept.cut2 (p := x) ?_ fun _ => ?_) <;> [(unfold x; clear x); (clear_value x; rename' x => y)])
      | (clear_value x; rename' x => y)
      | rename' x => y)
    | split
    | (refine Kept.snd (by assumption) ?_)
    | (fail_if_no_progress with_reducible refine Kept.upd ?_ (by rfl))

theorem State.dropHosts_kept {m : Nat} {r s : State} (h : Kept m r s) a (hm : Sub 0x404000000 m := by exact Sub.le (by assumption) (by decide)) :
    Kept m r (s.dropHosts a) :=
  .upd h rfl

theorem State.applyPolicy_kept {m : Nat} {r s : State} (h : Kept m r s) a (hm : Sub 0x400000000 m := by exact Sub.le (by assumption) (by decide)) :
    Kept m r (s.applyPolicy a) :=
  .upd h rfl

theorem State.showQps_kept {m : Nat} {r s : State} (h : Kept m r s) (hm : Sub 0x10 m := by exact Sub.le (by assumption) (by decide)) :
    Kept m r (s.showQps) :=
  .foldl h fun _ _ h => State.setF_kept h ..

theorem State.layoutBad_kept {m : Nat} {r s : State} (h : Kept m r s) (hm : Sub 0x602b74010 m := by exact Sub.le (by assumption) (by decide)) :
    Kept m r (s.layoutBad) :=
  State.record_kept (State.setF_kept h ..) ..

theorem State.layoutRej_kept {m : Nat} {r s : State} (h : Kept m r s) a b (hm : Sub 0x602b74010 m := by exact Sub.le (by assumption) (by decide)) :
    Kept m r (s.layoutRej a b) :=
  State.record_kept (State.setBit_kept h ..) ..

theorem State.applyTens_kept {m : Nat} {r s : State} (h : Kept m r s) a b (hm : Sub 0x50430bef0 m := by exact Sub.le (by assumption) (by decide)) :
    Kept m r (s.applyTens a b) := by
  unfold State.applyTens
  repeat' first
    | with_reducible assumption
    | exact Sub.le (by assumption) (by decide)
    | intro _
    | (extract_lets +onlyGivenNames x; first
      | (have _t : State := by with_reducible apply x
         clear _t; (refine Kept.cut (s := x) ?_ fun _ => ?_) <;> [(unfold x; clear x); (clear_value x; rename' x => y)])
      | (have _t : State := by with_reducible apply x.2
         clear _t; (refine Kept.cut2 (p := x) ?_ fun _ => ?_) <;> [(unfold x; clear x); (clear_value x; rename' x => y)])
      | (clear_value x; rename' x => y)
      | rename' x => y)
    | with_reducible first
      | apply State.admitTen_kept | apply State.applyHost_kept | apply State.applyPolicy_kept | apply Kept.foldl
      | apply Kept.foldl2

theorem State.admitAll_kept {m : Nat} {r s : State} (h : Kept m r s) a (hm : Sub 0x706b7fef0 m := by exact Sub.le (by assumption) (by decide)) :
    Kept m r (s.admitAll a) := by
  unfold State.admitAll
  repeat' first
    | with_reducible assumption
    | exact Sub.le (by assumption) (by decide)
    | intro _
    | (extract_lets +onlyGivenNames x; first
      | (have _t : State := by with_reducible apply x
         clear _t; (refine Kept.cut (s := x) ?_ fun _ => ?_) <;> [(unfold x; clear x); (clear_value x; rename' x => y)])
      | (have _t : State := by with_reducible apply x.2
         clear _t; (refine Kept.cut2 (p := x) ?_ fun _ => ?_) <;> [(unfold x; clear x); (clear_value x; rename' x => y)])
      | (clear_value x; rename' x => y)
      | rename' x => y)
    | with_reducible first
      | apply State.applyTens_kept | apply State.layoutBad_kept | apply State.offDie_kept | apply State.showQps_kept
      | apply Kept.foldl | apply Kept.foldl2
    | split
    | (refine Kept.snd (by assumption) ?_)
    | (fail_if_no_progress with_reducible refine Kept.upd ?_ (by rfl))

theorem State.reloadTens_kept {m : Nat} {r s : State} (h : Kept m r s) a b (hm : Sub 0x706b7fef0 m := by exact Sub.le (by assumption) (by decide)) :
    Kept m r (s.reloadTens a b) := by
  unfold State.reloadTens
  repeat' first
    | with_reducible assumption
    | exact Sub.le (by assumption) (by decide)
    | intro _
    | (extract_lets +onlyGivenNames x; first
      | (have _t : State := by with_reducible apply x
         clear _t; (refine Kept.cut (s := x) ?_ fun _ => ?_) <;> [(unfold x; clear x); (clear_value x; rename' x => y)])
      | (have _t : State := by with_reducible apply x.2
         clear _t; (refine Kept.cut2 (p := x) ?_ fun _ => ?_) <;> [(unfold x; clear x); (clear_value x; rename' x => y)])
      | (clear_value x; rename' x => y)
      | rename' x => y)
    | with_reducible first
      | apply State.inject_kept | apply State.layoutRej_kept | apply State.layoutBad_kept | apply State.dropHosts_kept
      | apply State.withdrawTen_kept | apply State.applyTens_kept | apply State.showQps_kept | apply Kept.foldl
      | apply Kept.foldl2
    | split
    | (refine Kept.snd (by assumption) ?_)
    | (fail_if_no_progress with_reducible refine Kept.upd ?_ (by rfl))

theorem State.reloadBook_kept {m : Nat} {r s : State} (h : Kept m r s) a (hm : Sub 0xf16b7fef0 m := by exact Sub.le (by assumption) (by decide)) :
    Kept m r (s.reloadBook a) := by
  unfold State.reloadBook
  repeat' first
    | with_reducible assumption
    | exact Sub.le (by assumption) (by decide)
    | (extract_lets +onlyGivenNames x; first
      | (have _t : State := by with_reducible apply x
         clear _t; (refine Kept.cut (s := x) ?_ fun _ => ?_) <;> [(unfold x; clear x); (clear_value x; rename' x => y)])
      | (have _t : State := by with_reducible apply x.2
         clear _t; (refine Kept.cut2 (p := x) ?_ fun _ => ?_) <;> [(unfold x; clear x); (clear_value x; rename' x => y)])
      | (clear_value x; rename' x => y)
      | rename' x => y)
    | with_reducible first
      | apply State.reloadTens_kept | apply State.showBook_kept | apply State.applyCommon_kept | apply State.setF_kept
    | split
    | (refine Kept.snd (by assumption) ?_)
    | (fail_if_no_progress with_reducible refine Kept.upd ?_ (by rfl))

theorem State.palEvent_kept {m : Nat} {r s : State} (h : Kept m r s) a b c (hm : Sub 0x602b74010 m := by exact Sub.le (by assumption) (by decide)) :
    Kept m r (s.palEvent a b c) :=
  State.record_kept (State.setF_kept h ..) ..

theorem State.choosePal_kept {m : Nat} {r s : State} (h : Kept m r s) (hm : Sub 0x602b74010 m := by exact Sub.le (by assumption) (by decide)) :
    Kept m r (s.choosePal) := by
  unfold State.choosePal
  repeat' first
    | with_reducible assumption
    | exact Sub.le (by assumption) (by decide)
    | intro _
    | (extract_lets +onlyGivenNames x; first
      | (have _t : State := by with_reducible apply x
         clear _t; (refine Kept.cut (s := x) ?_ fun _ => ?_) <;> [(unfold x; clear x); (clear_value x; rename' x => y)])
      | (have _t : State := by with_reducible apply x.2
         clear _t; (refine Kept.cut2 (p := x) ?_ fun _ => ?_) <;> [(unfold x; clear x); (clear_value x; rename' x => y)])
      | (clear_value x; rename' x => y)
      | rename' x => y)
    | with_reducible first
      | apply State.palEvent_kept | apply State.setF_kept | apply State.wr_kept | apply State.reapply_kept | apply Kept.foldl
      | apply Kept.foldl2
    | split
    | (refine Kept.snd (by assumption) ?_)
    | (fail_if_no_progress with_reducible refine Kept.upd ?_ (by rfl))

theorem State.startMirror_kept {m : Nat} {r s : State} (h : Kept m r s) (hm : Sub 0x800200010 m := by exact Sub.le (by assumption) (by decide)) :
    Kept m r (s.startMirror) := by
  unfold State.startMirror
  repeat' first
    | with_reducible assumption
    | exact Sub.le (by assumption) (by decide)
    | (extract_lets +onlyGivenNames x; first
      | (have _t : State := by with_reducible apply x
         clear _t; (refine Kept.cut (s := x) ?_ fun _ => ?_) <;> [(unfold x; clear x); (clear_value x; rename' x => y)])
      | (have _t : State := by with_reducible apply x.2
         clear _t; (refine Kept.cut2 (p := x) ?_ fun _ => ?_) <;> [(unfold x; clear x); (clear_value x; rename' x => y)])
      | rename' x => y)
    | with_reducible first
      | apply State.setNor_kept | apply State.setF_kept
    | split
    | (refine Kept.snd (by assumption) ?_)
    | (fail_if_no_progress with_reducible refine Kept.upd ?_ (by rfl))

theorem State.askMirror_kept {m : Nat} {r s : State} (h : Kept m r s) (hm : Sub 0x800200010 m := by exact Sub.le (by assumption) (by decide)) :
    Kept m r (s.askMirror) := by
  unfold State.askMirror; split
  · exact .upd h rfl
  · exact State.startMirror_kept h ..

theorem execMirrorPeriodic_kept {m : Nat} {r s : State} (h : Kept m r s) (hm : Sub 0x800200010 m := by exact Sub.le (by assumption) (by decide)) :
    KeptRes m r (execMirrorPeriodic s) :=
  KeptRes.when (State.askMirror_kept h ..) ..

theorem State.doMirrored_kept {m : Nat} {r s : State} (h : Kept m r s) a b c (hm : Sub 0xe02b74010 m := by exact Sub.le (by assumption) (by decide)) :
    Kept m r (s.doMirrored a b c) := by
  unfold State.doMirrored
  repeat' first
    | with_reducible assumption
    | exact Sub.le (by assumption) (by decide)
    | (extract_lets +onlyGivenNames x; first
      | (have _t : State := by with_reducible apply x
         clear _t; (refine Kept.cut (s := x) ?_ fun _ => ?_) <;> [(unfold x; clear x); (clear_value x; rename' x => y)])
      | (have _t : State := by with_reducible apply x.2
         clear _t; (refine Kept.cut2 (p := x) ?_ fun _ => ?_) <;> [(unfold x; clear x); (clear_value x; rename' x => y)])
      | rename' x => y)
    | with_reducible first
      | apply State.inject_kept | apply State.setF_kept | apply State.setNor_kept | apply State.wr_kept
      | apply State.record_kept | apply State.startMirror_kept
    | split
    | (refine Kept.snd (by assumption) ?_)
    | (fail_if_no_progress with_reducible refine Kept.upd ?_ (by rfl))

theorem execMirrorComplete_kept {m : Nat} {r s : State} (h : Kept m r s) a (hm : Sub 0xe02b74010 m := by exact Sub.le (by assumption) (by decide)) :
    KeptRes m r (execMirrorComplete a s) := by
  unfold execMirrorComplete; split
  · exact .refused _
  · exact KeptRes.when (State.doMirrored_kept h ..) ..

theorem State.bhDone_kept {m : Nat} {r s : State} (h : Kept m r s) a b (hm : Sub 0x10 m := by exact Sub.le (by assumption) (by decide)) :
    Kept m r (s.bhDone a b) :=
  State.setF_kept (State.setF_kept (State.setF_kept h ..) ..) ..

theorem State.doReload_kept {m : Nat} {r s : State} (h : Kept m r s) (hm : Sub 0xf16b7fef0 m := by exact Sub.le (by assumption) (by decide)) :
    Kept m r (s.doReload) := by
  unfold State.doReload
  repeat' first
    | with_reducible assumption
    | exact Sub.le (by assumption) (by decide)
    | (extract_lets +onlyGivenNames x; first
      | (have _t : State := by with_reducible apply x
         clear _t; (refine Kept.cut (s := x) ?_ fun _ => ?_) <;> [(unfold x; clear x); (clear_value x; rename' x => y)])
      | (have _t : State := by with_reducible apply x.2
         clear _t; (refine Kept.cut2 (p := x) ?_ fun _ => ?_) <;> [(unfold x; clear x); (clear_value x; rename' x => y)])
      | (clear_value x; rename' x => y)
      | rename' x => y)
    | with_reducible first
      | apply State.checkBook_kept | apply State.setF_kept | apply State.bhDone_kept | apply State.reloadBook_kept
      | apply State.bump_kept | apply State.askMirror_kept
    | split
    | (refine Kept.snd (by assumption) ?_)
    | (fail_if_no_progress with_reducible refine Kept.upd ?_ (by rfl))

theorem State.doBookWrite_kept {m : Nat} {r s : State} (h : Kept m r s) a (hm : Sub 0xe02b74010 m := by exact Sub.le (by assumption) (by decide)) :
    Kept m r (s.doBookWrite a) := by
  unfold State.doBookWrite
  repeat' first
    | with_reducible assumption
    | exact Sub.le (by assumption) (by decide)
    | (extract_lets +onlyGivenNames x; first
      | (have _t : State := by with_reducible apply x
         clear _t; (refine Kept.cut (s := x) ?_ fun _ => ?_) <;> [(unfold x; clear x); (clear_value x; rename' x => y)])
      | (have _t : State := by with_reducible apply x.2
         clear _t; (refine Kept.cut2 (p := x) ?_ fun _ => ?_) <;> [(unfold x; clear x); (clear_value x; rename' x => y)])
      | (clear_value x; rename' x => y)
      | rename' x => y)
    | with_reducible first
      | apply State.checkBook_kept | apply State.bhDone_kept | apply State.setNor_kept
    | split
    | (refine Kept.snd (by assumption) ?_)

theorem State.doCommitSvn_kept {m : Nat} {r s : State} (h : Kept m r s) a (hm : Sub 0x10 m := by exact Sub.le (by assumption) (by decide)) :
    Kept m r (s.doCommitSvn a) := by
  unfold State.doCommitSvn
  repeat' first
    | with_reducible assumption
    | exact Sub.le (by assumption) (by decide)
    | (extract_lets +onlyGivenNames x; first
      | (have _t : State := by with_reducible apply x
         clear _t; (refine Kept.cut (s := x) ?_ fun _ => ?_) <;> [(unfold x; clear x); (clear_value x; rename' x => y)])
      | (have _t : State := by with_reducible apply x.2
         clear _t; (refine Kept.cut2 (p := x) ?_ fun _ => ?_) <;> [(unfold x; clear x); (clear_value x; rename' x => y)])
      | (clear_value x; rename' x => y)
      | rename' x => y)
    | with_reducible first
      | apply State.bhDone_kept | apply State.setF_kept
    | split
    | (refine Kept.snd (by assumption) ?_)

theorem State.bhCommand_kept {m : Nat} {r s : State} (h : Kept m r s) a (hm : Sub 0xf16b7fef0 m := by exact Sub.le (by assumption) (by decide)) :
    Kept m r (s.bhCommand a) := by
  unfold State.bhCommand
  repeat' first
    | with_reducible assumption
    | exact Sub.le (by assumption) (by decide)
    | with_reducible first
      | apply State.doReload_kept | apply State.doBookWrite_kept | apply State.bhDone_kept | apply State.askMirror_kept
      | apply State.doCommitSvn_kept
    | split
    | (refine Kept.snd (by assumption) ?_)

theorem execReload_kept {m : Nat} {r s : State} (h : Kept m r s) a (hm : Sub 0xf96b7fef2 m := by exact Sub.le (by assumption) (by decide)) :
    KeptRes m r (execReload a s) :=
  .of (State.ctlIn_kept h _ _ _ _ _ _ fun _ h => State.doReload_kept h ..)

theorem execCopybookWrite_kept {m : Nat} {r s : State} (h : Kept m r s) a b (hm : Sub 0xe82b74012 m := by exact Sub.le (by assumption) (by decide)) :
    KeptRes m r (execCopybookWrite a b s) :=
  .of (State.ctlIn_kept h _ _ _ _ _ _ fun _ h => State.doBookWrite_kept h ..)

theorem execMirror_kept {m : Nat} {r s : State} (h : Kept m r s) a (hm : Sub 0xe82b74012 m := by exact Sub.le (by assumption) (by decide)) :
    KeptRes m r (execMirror a s) :=
  .of (State.ctlIn_kept h _ _ _ _ _ _ fun _ h => State.bhDone_kept (State.askMirror_kept h ..) ..)

theorem execCommitSvn_kept {m : Nat} {r s : State} (h : Kept m r s) a b (hm : Sub 0x682b74012 m := by exact Sub.le (by assumption) (by decide)) :
    KeptRes m r (execCommitSvn a b s) :=
  .of (State.ctlIn_kept h _ _ _ _ _ _ fun _ h => State.doCommitSvn_kept h ..)

theorem State.bootImage_kept {m : Nat} {r s : State} (h : Kept m r s) a (hm : Sub 0x602b74010 m := by exact Sub.le (by assumption) (by decide)) : Kept m r (s.bootImage a).2 := by
  unfold State.bootImage
  extract_lets -underBinder n b s1 try_ p
  have ht : ∀ s b, Kept m r s → Kept m r (try_ s b).2 := by
    intro s b h; unfold try_; split
    · exact h
    · exact State.fwCheck_kept h ..
  have hp : Kept m r p.2 := ht _ _ (State.setF_kept h ..)
  split
  · exact hp
  extract_lets o
  have ho : Kept m r o.2 := ht _ _ hp
  split
  · exact State.setF_kept ho ..
  · exact ho

theorem State.bootBook_kept {m : Nat} {r s : State} (h : Kept m r s) (hm : Sub 0x602b74010 m := by exact Sub.le (by assumption) (by decide)) :
    Kept m r (s.bootBook).2 := by
  unfold State.bootBook
  repeat' first
    | with_reducible assumption
    | exact Sub.le (by assumption) (by decide)
    | (extract_lets +onlyGivenNames x; first
      | (have _t : State := by with_reducible apply x
         clear _t; (refine Kept.cut (s := x) ?_ fun _ => ?_) <;> [(unfold x; clear x); (clear_value x; rename' x => y)])
      | (have _t : State := by with_reducible apply x.2
         clear _t; (refine Kept.cut2 (p := x) ?_ fun _ => ?_) <;> [(unfold x; clear x); (clear_value x; rename' x => y)])
      | (clear_value x; rename' x => y)
      | rename' x => y)
    | with_reducible first
      | apply State.checkBook_kept | apply State.setF_kept
    | split
    | (refine Kept.snd (by assumption) ?_)

theorem State.trainPort_kept {m : Nat} {r s : State} (h : Kept m r s) a b c d (hm : Sub 0x10 m := by exact Sub.le (by assumption) (by decide)) :
    Kept m r (s.trainPort a b c d) := by
  unfold State.trainPort
  repeat' first
    | with_reducible assumption
    | exact Sub.le (by assumption) (by decide)
    | (extract_lets +onlyGivenNames x; first
      | (have _t : State := by with_reducible apply x
         clear _t; (refine Kept.cut (s := x) ?_ fun _ => ?_) <;> [(unfold x; clear x); (clear_value x; rename' x => y)])
      | (have _t : State := by with_reducible apply x.2
         clear _t; (refine Kept.cut2 (p := x) ?_ fun _ => ?_) <;> [(unfold x; clear x); (clear_value x; rename' x => y)])
      | (clear_value x; rename' x => y)
      | rename' x => y)
    | with_reducible first
      | apply State.setF_kept
    | split
    | (refine Kept.snd (by assumption) ?_)

theorem State.failUnit_kept {m : Nat} {r s : State} (h : Kept m r s) a b c (hm : Sub 0x602b74010 m := by exact Sub.le (by assumption) (by decide)) :
    Kept m r (s.failUnit a b c) := by
  unfold State.failUnit; split
  · exact State.fenceUnit_kept h ..
  · exact h

theorem State.trainUnits_kept {m : Nat} {r s : State} (h : Kept m r s) a b (hm : Sub 0x160ab74210 m := by exact Sub.le (by assumption) (by decide)) :
    Kept m r (s.trainUnits a b) := by
  unfold State.trainUnits
  repeat' first
    | with_reducible assumption
    | exact Sub.le (by assumption) (by decide)
    | intro _
    | (extract_lets +onlyGivenNames x; first
      | (have _t : State := by with_reducible apply x
         clear _t; (refine Kept.cut (s := x) ?_ fun _ => ?_) <;> [(unfold x; clear x); (clear_value x; rename' x => y)])
      | (have _t : State := by with_reducible apply x.2
         clear _t; (refine Kept.cut2 (p := x) ?_ fun _ => ?_) <;> [(unfold x; clear x); (clear_value x; rename' x => y)])
      | (clear_value x; rename' x => y)
      | rename' x => y)
    | with_reducible first
      | apply State.seedEngines_kept | apply State.setF_kept | apply State.failUnit_kept | apply State.trainPort_kept
      | apply Kept.foldl | apply Kept.foldl2
    | split
    | (refine Kept.snd (by assumption) ?_)
    | (fail_if_no_progress with_reducible refine Kept.upd ?_ (by rfl))

theorem State.trainEth_kept {m : Nat} {r s : State} (h : Kept m r s) a b (hm : Sub 0x10 m := by exact Sub.le (by assumption) (by decide)) :
    Kept m r (s.trainEth a b) :=
  .foldl h fun _ _ h => State.setF_kept h ..

theorem State.sendEth_kept {m : Nat} {r s : State} (h : Kept m r s) a b c d (hm : Sub 0x12 m := by exact Sub.le (by assumption) (by decide)) :
    Kept m r (s.sendEth a b c d) :=
  State.emit_kept (State.bump_kept h ..) ..

theorem State.announce_kept {m : Nat} {r s : State} (h : Kept m r s) (hm : Sub 0x12 m := by exact Sub.le (by assumption) (by decide)) :
    Kept m r (s.announce) :=
  .foldl h fun _ _ h => State.sendEth_kept h ..

theorem State.becomeReady_kept {m : Nat} {r s : State} (h : Kept m r s) a (hm : Sub 0x1800000016 m := by exact Sub.le (by assumption) (by decide)) :
    Kept m r (s.becomeReady a) := by
  unfold State.becomeReady
  repeat' first
    | with_reducible assumption
    | exact Sub.le (by assumption) (by decide)
    | (extract_lets +onlyGivenNames x; first
      | (have _t : State := by with_reducible apply x
         clear _t; (refine Kept.cut (s := x) ?_ fun _ => ?_) <;> [(unfold x; clear x); (clear_value x; rename' x => y)])
      | (have _t : State := by with_reducible apply x.2
         clear _t; (refine Kept.cut2 (p := x) ?_ fun _ => ?_) <;> [(unfold x; clear x); (clear_value x; rename' x => y)])
      | rename' x => y)
    | with_reducible first
      | apply State.trainEth_kept | apply State.setF_kept | apply State.announce_kept
    | split
    | (refine Kept.snd (by assumption) ?_)
    | (fail_if_no_progress with_reducible refine Kept.upd ?_ (by rfl))

theorem State.startFrom2_kept {m : Nat} {r s : State} (h : Kept m r s) a (hm : Sub 0x1f1ef7fef6 m := by exact Sub.le (by assumption) (by decide)) : Kept m r (s.startFrom2 a) := by
  have raw {s : State} (h : Kept m r s) {t : State} (p : t = { s with bh := t.bh }) (w : t.bh.owners = s.bh.owners) : Kept m r t := by
    rw [p]; exact Kept.upd h w
  have hf : Kept m r (s.bootImage 1).2 := State.bootImage_kept h ..
  unfold State.startFrom2
  extract_lets -underBinder f s1
  split
  · exact raw hf rfl rfl
  extract_lets -underBinder bh s2 s3 s4 b s5 on s6 s7 s8 s9 tr s10 sc s11 s12
  have h2 : Kept m r s2 := by unfold s2; refine State.showFw_kept ?_ ..; exact raw hf rfl rfl
  have h3 : Kept m r s3 := by
    unfold s3; split
    · exact State.record_kept (State.setF_kept h2 ..) ..
    · exact State.setF_kept h2 ..
  have h4 : Kept m r s4 := by
    unfold s4; split
    · exact h3
    · exact State.record_kept h3 ..
  have h5 : Kept m r s5 := State.bootBook_kept h4
  have h6 : Kept m r s6 := by
    unfold s6; split
    · exact State.showBook_kept (State.applyEthernet_kept (State.applyNode_kept h5 ..) ..) ..
    · exact h5
  have h7 : Kept m r s7 := by
    unfold s7; split
    · exact State.applyCommon_kept h6 ..
    · exact h6
  have h9 : Kept m r s9 := State.trainUnits_kept (State.choosePal_kept (State.setF_kept h7 ..)) ..
  have ht : Kept m r tr.2 := State.bootImage_kept h9 ..
  have h10 : Kept m r s10 := by
    unfold s10; split
    · refine State.showFw_kept ?_ ..; exact raw ht rfl rfl
    · exact ht
  have hc : Kept m r sc.2 := State.bootImage_kept h10 ..
  have h11 : Kept m r s11 := by
    unfold s11; split
    · refine State.showFw_kept ?_ ..; exact raw hc rfl rfl
    · exact hc
  refine State.becomeReady_kept ?_ ..
  unfold s12; split
  · exact State.admitAll_kept h11 ..
  · exact Kept.foldl h11 fun _ _ h => State.offDie_kept h ..

theorem State.startUp_kept {m : Nat} {r s : State} (h : Kept m r s) a (hm : Sub 0x1f1ef7fef6 m := by exact Sub.le (by assumption) (by decide)) :
    Kept m r (s.startUp a) := by
  unfold State.startUp
  repeat' first
    | with_reducible assumption
    | exact Sub.le (by assumption) (by decide)
    | (extract_lets +onlyGivenNames x; first
      | (have _t : State := by with_reducible apply x
         clear _t; (refine Kept.cut (s := x) ?_ fun _ => ?_) <;> [(unfold x; clear x); (clear_value x; rename' x => y)])
      | (have _t : State := by with_reducible apply x.2
         clear _t; (refine Kept.cut2 (p := x) ?_ fun _ => ?_) <;> [(unfold x; clear x); (clear_value x; rename' x => y)])
      | (clear_value x; rename' x => y)
      | rename' x => y)
    | with_reducible first
      | apply State.setNor_kept | apply State.startFrom2_kept
    | split
    | (refine Kept.snd (by assumption) ?_)
    | (fail_if_no_progress with_reducible refine Kept.upd ?_ (by rfl))

theorem execVin36InRange_kept {m : Nat} {r s : State} (h : Kept m r s) a (hm : Sub 0x1ffffffff6 m := by exact Sub.le (by assumption) (by decide)) :
    KeptRes m r (execVin36InRange a s) := by
  unfold execVin36InRange
  repeat' first
    | with_reducible assumption
    | exact Sub.le (by assumption) (by decide)
    | (extract_lets +onlyGivenNames x; first
      | (have _t : State := by with_reducible apply x
         clear _t; (first | refine KeptRes.cut (s := x) ?_ fun _ => ?_ | refine Kept.cut (s := x) ?_ fun _ => ?_) <;> [(unfold x; clear x); (clear_value x; rename' x => y)])
      | (have _t : State := by with_reducible apply x.2
         clear _t; (first | refine KeptRes.cut2 (p := x) ?_ fun _ => ?_ | refine Kept.cut2 (p := x) ?_ fun _ => ?_) <;> [(unfold x; clear x); (clear_value x; rename' x => y)])
      | (clear_value x; rename' x => y)
      | rename' x => y)
    | with_reducible first
      | apply KeptRes.when | apply State.startUp_kept | apply State.resetAll_kept
    | split
    | (refine Kept.snd (by assumption) ?_)
    | (fail_if_no_progress with_reducible refine Kept.upd ?_ (by rfl))

theorem execAnnouncementResend_kept {m : Nat} {r s : State} (h : Kept m r s) (hm : Sub 0x800000012 m := by exact Sub.le (by assumption) (by decide)) :
    KeptRes m r (execAnnouncementResend s) := by
  unfold execAnnouncementResend
  repeat' first
    | with_reducible assumption
    | exact Sub.le (by assumption) (by decide)
    | (extract_lets +onlyGivenNames x; first
      | (have _t : State := by with_reducible apply x
         clear _t; (first | refine KeptRes.cut (s := x) ?_ fun _ => ?_ | refine Kept.cut (s := x) ?_ fun _ => ?_) <;> [(unfold x; clear x); (clear_value x; rename' x => y)])
      | (have _t : State := by with_reducible apply x.2
         clear _t; (first | refine KeptRes.cut2 (p := x) ?_ fun _ => ?_ | refine Kept.cut2 (p := x) ?_ fun _ => ?_) <;> [(unfold x; clear x); (clear_value x; rename' x => y)])
      | rename' x => y)
    | with_reducible first
      | exact KeptRes.refused _ | apply KeptRes.when | apply State.announce_kept
    | split
    | (refine Kept.snd (by assumption) ?_)
    | (fail_if_no_progress with_reducible refine Kept.upd ?_ (by rfl))

theorem State.doRecovery_kept {m : Nat} {r s : State} (h : Kept m r s) a b (hm : Sub 0x1f1ef7fef6 m := by exact Sub.le (by assumption) (by decide)) :
    Kept m r (s.doRecovery a b) := by
  unfold State.doRecovery
  repeat' first
    | with_reducible assumption
    | exact Sub.le (by assumption) (by decide)
    | (extract_lets +onlyGivenNames x; first
      | (have _t : State := by with_reducible apply x
         clear _t; (refine Kept.cut (s := x) ?_ fun _ => ?_) <;> [(unfold x; clear x); (clear_value x; rename' x => y)])
      | (have _t : State := by with_reducible apply x.2
         clear _t; (refine Kept.cut2 (p := x) ?_ fun _ => ?_) <;> [(unfold x; clear x); (clear_value x; rename' x => y)])
      | (clear_value x; rename' x => y)
      | rename' x => y)
    | with_reducible first
      | apply State.fwCheck_kept | apply State.startFrom2_kept | apply State.setNor_kept
    | split
    | (refine Kept.snd (by assumption) ?_)

theorem execRomRecoveryImage_kept {m : Nat} {r s : State} (h : Kept m r s) a b (hm : Sub 0x1f1ef7fef6 m := by exact Sub.le (by assumption) (by decide)) :
    KeptRes m r (execRomRecoveryImage a b s) :=
  KeptRes.when (State.doRecovery_kept h ..) ..

theorem State.doVinRange_kept {m : Nat} {r s : State} (h : Kept m r s) a (hm : Sub 0x1602b74010 m := by exact Sub.le (by assumption) (by decide)) :
    Kept m r (s.doVinRange a) := by
  unfold State.doVinRange
  repeat' first
    | with_reducible assumption
    | exact Sub.le (by assumption) (by decide)
    | (extract_lets +onlyGivenNames x; first
      | (have _t : State := by with_reducible apply x
         clear _t; (refine Kept.cut (s := x) ?_ fun _ => ?_) <;> [(unfold x; clear x); (clear_value x; rename' x => y)])
      | (have _t : State := by with_reducible apply x.2
         clear _t; (refine Kept.cut2 (p := x) ?_ fun _ => ?_) <;> [(unfold x; clear x); (clear_value x; rename' x => y)])
      | (clear_value x; rename' x => y)
      | rename' x => y)
    | with_reducible first
      | apply State.inject_kept | apply State.record_kept | apply State.setF_kept
    | split
    | (refine Kept.snd (by assumption) ?_)
    | (fail_if_no_progress with_reducible refine Kept.upd ?_ (by rfl))

theorem execVinRange_kept {m : Nat} {r s : State} (h : Kept m r s) a (hm : Sub 0x1602b74010 m := by exact Sub.le (by assumption) (by decide)) :
    KeptRes m r (execVinRange a s) := by
  unfold execVinRange
  repeat' first
    | with_reducible assumption
    | exact Sub.le (by assumption) (by decide)
    | with_reducible first
      | exact KeptRes.fault _ | apply KeptRes.when | apply State.inject_kept | apply State.doVinRange_kept
    | split
    | (refine Kept.snd (by assumption) ?_)

theorem execVinRangeRelease_kept {m : Nat} {r s : State} (h : Kept m r s) (hm : Sub 0x1000000000 m := by exact Sub.le (by assumption) (by decide)) :
    KeptRes m r (execVinRangeRelease s) :=
  KeptRes.when (.upd h rfl) ..

theorem State.holdJobs_kept {m : Nat} {r s : State} (h : Kept m r s) (hm : Sub 0x402060010 m := by exact Sub.le (by assumption) (by decide)) :
    Kept m r (s.holdJobs) := by
  unfold State.holdJobs
  repeat' first
    | with_reducible assumption
    | exact Sub.le (by assumption) (by decide)
    | intro _
    | (extract_lets +onlyGivenNames x; first
      | (have _t : State := by with_reducible apply x
         clear _t; (refine Kept.cut (s := x) ?_ fun _ => ?_) <;> [(unfold x; clear x); (clear_value x; rename' x => y)])
      | (have _t : State := by with_reducible apply x.2
         clear _t; (refine Kept.cut2 (p := x) ?_ fun _ => ?_) <;> [(unfold x; clear x); (clear_value x; rename' x => y)])
      | (clear_value x; rename' x => y)
      | rename' x => y)
    | with_reducible first
      | apply State.abandonSnap_kept | apply State.setF_kept | apply Kept.foldl | apply Kept.foldl2
    | split
    | (refine Kept.snd (by assumption) ?_)
    | (fail_if_no_progress with_reducible refine Kept.upd ?_ (by rfl))

theorem State.failDrains_kept {m : Nat} {r s : State} (h : Kept m r s) (hm : Sub 0x602b74010 m := by exact Sub.le (by assumption) (by decide)) :
    Kept m r (s.failDrains) :=
  .foldl h fun _ _ h => State.doDrainFailed_kept h ..

theorem State.powerOff_kept {m : Nat} {r s : State} (h : Kept m r s) (hm : Sub 0x28981fff2 m := by exact Sub.le (by assumption) (by decide)) :
    Kept m r (s.powerOff) := by
  unfold State.powerOff
  repeat' first
    | with_reducible assumption
    | exact Sub.le (by assumption) (by decide)
    | intro _
    | (extract_lets +onlyGivenNames x; first
      | (have _t : State := by with_reducible apply x
         clear _t; (refine Kept.cut (s := x) ?_ fun _ => ?_) <;> [(unfold x; clear x); (clear_value x; rename' x => y)])
      | (have _t : State := by with_reducible apply x.2
         clear _t; (refine Kept.cut2 (p := x) ?_ fun _ => ?_) <;> [(unfold x; clear x); (clear_value x; rename' x => y)])
      | (clear_value x; rename' x => y)
      | rename' x => y)
    | with_reducible first
      | apply State.powerDie_kept | apply State.powerStack_kept | apply State.resetLink_kept | apply State.copyCheck_kept
      | apply Kept.foldl | apply Kept.foldl2
    | (fail_if_no_progress with_reducible refine Kept.upd ?_ (by rfl))

theorem State.doUnder_kept {m : Nat} {r s : State} (h : Kept m r s) (hm : Sub 0x1e8bb7fff2 m := by exact Sub.le (by assumption) (by decide)) :
    Kept m r (s.doUnder) := by
  unfold State.doUnder
  repeat' first
    | with_reducible assumption
    | exact Sub.le (by assumption) (by decide)
    | (extract_lets +onlyGivenNames x; first
      | (have _t : State := by with_reducible apply x
         clear _t; (refine Kept.cut (s := x) ?_ fun _ => ?_) <;> [(unfold x; clear x); (clear_value x; rename' x => y)])
      | (have _t : State := by with_reducible apply x.2
         clear _t; (refine Kept.cut2 (p := x) ?_ fun _ => ?_) <;> [(unfold x; clear x); (clear_value x; rename' x => y)])
      | rename' x => y)
    | with_reducible first
      | apply State.powerOff_kept | apply State.failDrains_kept | apply State.holdJobs_kept | apply State.setF_kept
    | (fail_if_no_progress with_reducible refine Kept.upd ?_ (by rfl))

theorem execUndervoltageShutdown_kept {m : Nat} {r s : State} (h : Kept m r s) (hm : Sub 0x1e8bb7fff2 m := by exact Sub.le (by assumption) (by decide)) :
    KeptRes m r (execUndervoltageShutdown s) :=
  KeptRes.when (State.doUnder_kept h ..) ..

theorem State.rewriteRecords_kept {m : Nat} {r s : State} (h : Kept m r s) (hm : Sub 0x40006c050 m := by exact Sub.le (by assumption) (by decide)) : Kept m r s.rewriteRecords := by
  refine Kept.foldl h fun s t h => ?_
  extract_lets again
  have ha : ∀ s k, Kept m r s → Kept m r (again s k) := by
    intro s k h; unfold again; split
    · exact State.putJob_kept h ..
    · exact h
  split
  · exact ha _ _ (ha _ _ h)
  · exact h

theorem State.doUnderRecovery_kept {m : Nat} {r s : State} (h : Kept m r s) a (hm : Sub 0x1f1ef7fef6 m := by exact Sub.le (by assumption) (by decide)) :
    Kept m r (s.doUnderRecovery a) := by
  unfold State.doUnderRecovery
  repeat' first
    | with_reducible assumption
    | exact Sub.le (by assumption) (by decide)
    | intro _
    | (extract_lets +onlyGivenNames x; first
      | (have _t : State := by with_reducible apply x
         clear _t; (refine Kept.cut (s := x) ?_ fun _ => ?_) <;> [(unfold x; clear x); (clear_value x; rename' x => y)])
      | (have _t : State := by with_reducible apply x.2
         clear _t; (refine Kept.cut2 (p := x) ?_ fun _ => ?_) <;> [(unfold x; clear x); (clear_value x; rename' x => y)])
      | rename' x => y)
    | with_reducible first
      | apply State.bootBook_kept | apply State.applyEthernet_kept | apply State.applyNode_kept | apply State.reloadTens_kept
      | apply State.showBook_kept | apply State.applyCommon_kept | apply State.trainUnits_kept | apply State.choosePal_kept
      | apply State.setF_kept | apply State.offDie_kept | apply State.becomeReady_kept | apply State.rewriteRecords_kept
      | apply State.showQps_kept | apply Kept.foldl | apply Kept.foldl2
    | split
    | (refine Kept.snd (by assumption) ?_)
    | (fail_if_no_progress with_reducible refine Kept.upd ?_ (by rfl))

theorem execUndervoltageRecovery_kept {m : Nat} {r s : State} (h : Kept m r s) a (hm : Sub 0x1f1ef7fef6 m := by exact Sub.le (by assumption) (by decide)) :
    KeptRes m r (execUndervoltageRecovery a s) :=
  KeptRes.when (State.doUnderRecovery_kept h ..) ..

theorem execOvervoltageShutdown_kept {m : Nat} {r s : State} (h : Kept m r s) a (hm : Sub 0x1ffffffff4 m := by exact Sub.le (by assumption) (by decide)) :
    KeptRes m r (execOvervoltageShutdown a s) := by
  unfold execOvervoltageShutdown
  repeat' first
    | with_reducible assumption
    | exact Sub.le (by assumption) (by decide)
    | (extract_lets +onlyGivenNames x; first
      | (have _t : State := by with_reducible apply x
         clear _t; (first | refine KeptRes.cut (s := x) ?_ fun _ => ?_ | refine Kept.cut (s := x) ?_ fun _ => ?_) <;> [(unfold x; clear x); (clear_value x; rename' x => y)])
      | (have _t : State := by with_reducible apply x.2
         clear _t; (first | refine KeptRes.cut2 (p := x) ?_ fun _ => ?_ | refine Kept.cut2 (p := x) ?_ fun _ => ?_) <;> [(unfold x; clear x); (clear_value x; rename' x => y)])
      | (clear_value x; rename' x => y)
      | rename' x => y)
    | with_reducible first
      | exact KeptRes.fault _ | apply KeptRes.when | apply State.resetAll_kept
    | split
    | (refine Kept.snd (by assumption) ?_)
    | (fail_if_no_progress with_reducible refine Kept.upd ?_ (by rfl))

theorem execAlwaysOnStop_kept {m : Nat} {r s : State} (h : Kept m r s) (hm : Sub 0x1ffffffff4 m := by exact Sub.le (by assumption) (by decide)) :
    KeptRes m r (execAlwaysOnStop s) := by
  unfold execAlwaysOnStop
  repeat' first
    | with_reducible assumption
    | exact Sub.le (by assumption) (by decide)
    | (extract_lets +onlyGivenNames x; first
      | (have _t : State := by with_reducible apply x
         clear _t; (first | refine KeptRes.cut (s := x) ?_ fun _ => ?_ | refine Kept.cut (s := x) ?_ fun _ => ?_) <;> [(unfold x; clear x); (clear_value x; rename' x => y)])
      | (have _t : State := by with_reducible apply x.2
         clear _t; (first | refine KeptRes.cut2 (p := x) ?_ fun _ => ?_ | refine Kept.cut2 (p := x) ?_ fun _ => ?_) <;> [(unfold x; clear x); (clear_value x; rename' x => y)])
      | (clear_value x; rename' x => y)
      | rename' x => y)
    | with_reducible first
      | apply KeptRes.when | apply State.resetAll_kept
    | (fail_if_no_progress with_reducible refine Kept.upd ?_ (by rfl))

theorem execResetNAssert_kept {m : Nat} {r s : State} (h : Kept m r s) (hm : Sub 0x1ffffffff4 m := by exact Sub.le (by assumption) (by decide)) :
    KeptRes m r (execResetNAssert s) := by
  unfold execResetNAssert
  repeat' first
    | with_reducible assumption
    | exact Sub.le (by assumption) (by decide)
    | (extract_lets +onlyGivenNames x; first
      | (have _t : State := by with_reducible apply x
         clear _t; (first | refine KeptRes.cut (s := x) ?_ fun _ => ?_ | refine Kept.cut (s := x) ?_ fun _ => ?_) <;> [(unfold x; clear x); (clear_value x; rename' x => y)])
      | (have _t : State := by with_reducible apply x.2
         clear _t; (first | refine KeptRes.cut2 (p := x) ?_ fun _ => ?_ | refine Kept.cut2 (p := x) ?_ fun _ => ?_) <;> [(unfold x; clear x); (clear_value x; rename' x => y)])
      | (clear_value x; rename' x => y)
      | rename' x => y)
    | with_reducible first
      | apply KeptRes.when | apply State.resetAll_kept
    | (fail_if_no_progress with_reducible refine Kept.upd ?_ (by rfl))

theorem execResetNRelease_kept {m : Nat} {r s : State} (h : Kept m r s) a (hm : Sub 0x1f1ef7fef6 m := by exact Sub.le (by assumption) (by decide)) :
    KeptRes m r (execResetNRelease a s) := by
  unfold execResetNRelease
  repeat' first
    | with_reducible assumption
    | exact Sub.le (by assumption) (by decide)
    | (extract_lets +onlyGivenNames x; first
      | (have _t : State := by with_reducible apply x
         clear _t; (first | refine KeptRes.cut (s := x) ?_ fun _ => ?_ | refine Kept.cut (s := x) ?_ fun _ => ?_) <;> [(unfold x; clear x); (clear_value x; rename' x => y)])
      | (have _t : State := by with_reducible apply x.2
         clear _t; (first | refine KeptRes.cut2 (p := x) ?_ fun _ => ?_ | refine Kept.cut2 (p := x) ?_ fun _ => ?_) <;> [(unfold x; clear x); (clear_value x; rename' x => y)])
      | (clear_value x; rename' x => y)
      | rename' x => y)
    | with_reducible first
      | apply KeptRes.when | apply State.startUp_kept
    | split
    | (refine Kept.snd (by assumption) ?_)
    | (fail_if_no_progress with_reducible refine Kept.upd ?_ (by rfl))

theorem State.losePll_kept {m : Nat} {r s : State} (h : Kept m r s) a b (hm : Sub 0x602b74010 m := by exact Sub.le (by assumption) (by decide)) :
    Kept m r (s.losePll a b) := by
  unfold State.losePll
  repeat' first
    | with_reducible assumption
    | exact Sub.le (by assumption) (by decide)
    | (extract_lets +onlyGivenNames x; first
      | (have _t : State := by with_reducible apply x
         clear _t; (refine Kept.cut (s := x) ?_ fun _ => ?_) <;> [(unfold x; clear x); (clear_value x; rename' x => y)])
      | (have _t : State := by with_reducible apply x.2
         clear _t; (refine Kept.cut2 (p := x) ?_ fun _ => ?_) <;> [(unfold x; clear x); (clear_value x; rename' x => y)])
      | (clear_value x; rename' x => y)
      | rename' x => y)
    | with_reducible first
      | apply State.setF_kept | apply State.setDie_kept | apply State.record_kept
    | split
    | (refine Kept.snd (by assumption) ?_)

theorem execPllUnlock_kept {m : Nat} {r s : State} (h : Kept m r s) a (hm : Sub 0x602b74010 m := by exact Sub.le (by assumption) (by decide)) :
    KeptRes m r (execPllUnlock a s) :=
  KeptRes.when (State.losePll_kept (State.inject_kept h ..) ..) ..

theorem State.doRefclkLoss_kept {m : Nat} {r s : State} (h : Kept m r s) (hm : Sub 0x1602b74010 m := by exact Sub.le (by assumption) (by decide)) :
    Kept m r (s.doRefclkLoss) :=
  .foldl (.upd h rfl) fun _ _ h => State.losePll_kept h ..

theorem execAoRefclkLoss_kept {m : Nat} {r s : State} (h : Kept m r s) (hm : Sub 0x1602b74010 m := by exact Sub.le (by assumption) (by decide)) :
    KeptRes m r (execAoRefclkLoss s) :=
  KeptRes.when (State.doRefclkLoss_kept h ..) ..

theorem execAoRefclkReturn_kept {m : Nat} {r s : State} (h : Kept m r s) (hm : Sub 0x1000000000 m := by exact Sub.le (by assumption) (by decide)) :
    KeptRes m r (execAoRefclkReturn s) :=
  KeptRes.when (.upd h rfl) ..

theorem State.portLost_kept {m : Nat} {r s : State} (h : Kept m r s) a (hm : Sub 0x800010 m := by exact Sub.le (by assumption) (by decide)) :
    Kept m r (s.portLost a) := by
  unfold State.portLost
  repeat' first
    | with_reducible assumption
    | exact Sub.le (by assumption) (by decide)
    | (extract_lets +onlyGivenNames x; first
      | (have _t : State := by with_reducible apply x
         clear _t; (refine Kept.cut (s := x) ?_ fun _ => ?_) <;> [(unfold x; clear x); (clear_value x; rename' x => y)])
      | (have _t : State := by with_reducible apply x.2
         clear _t; (refine Kept.cut2 (p := x) ?_ fun _ => ?_) <;> [(unfold x; clear x); (clear_value x; rename' x => y)])
      | (clear_value x; rename' x => y)
      | rename' x => y)
    | with_reducible first
      | apply State.setF_kept | apply State.prunePort_kept
    | split
    | (refine Kept.snd (by assumption) ?_)

theorem State.ethLost_kept {m : Nat} {r s : State} (h : Kept m r s) a b c (hm : Sub 0x602b74010 m := by exact Sub.le (by assumption) (by decide)) :
    Kept m r (s.ethLost a b c) := by
  unfold State.ethLost
  repeat' first
    | with_reducible assumption
    | exact Sub.le (by assumption) (by decide)
    | (extract_lets +onlyGivenNames x; first
      | (have _t : State := by with_reducible apply x
         clear _t; (refine Kept.cut (s := x) ?_ fun _ => ?_) <;> [(unfold x; clear x); (clear_value x; rename' x => y)])
      | (have _t : State := by with_reducible apply x.2
         clear _t; (refine Kept.cut2 (p := x) ?_ fun _ => ?_) <;> [(unfold x; clear x); (clear_value x; rename' x => y)])
      | (clear_value x; rename' x => y)
      | rename' x => y)
    | with_reducible first
      | apply State.setF_kept | apply State.record_kept
    | split
    | (refine Kept.snd (by assumption) ?_)

theorem State.pcieDown_kept {m : Nat} {r s : State} (h : Kept m r s) (hm : Sub 0x1602b74010 m := by exact Sub.le (by assumption) (by decide)) :
    Kept m r (s.pcieDown) :=
  .foldl (.upd h rfl) fun _ _ h => State.doDrainFailed_kept h ..

theorem State.doSrefLoss_kept {m : Nat} {r s : State} (h : Kept m r s) a (hm : Sub 0x1602b74010 m := by exact Sub.le (by assumption) (by decide)) :
    Kept m r (s.doSrefLoss a) := by
  unfold State.doSrefLoss
  repeat' first
    | with_reducible assumption
    | exact Sub.le (by assumption) (by decide)
    | intro _
    | (extract_lets +onlyGivenNames x; first
      | (have _t : State := by with_reducible apply x
         clear _t; (refine Kept.cut (s := x) ?_ fun _ => ?_) <;> [(unfold x; clear x); (clear_value x; rename' x => y)])
      | (have _t : State := by with_reducible apply x.2
         clear _t; (refine Kept.cut2 (p := x) ?_ fun _ => ?_) <;> [(unfold x; clear x); (clear_value x; rename' x => y)])
      | (clear_value x; rename' x => y)
      | rename' x => y)
    | with_reducible first
      | apply State.portLost_kept | apply State.ethLost_kept | apply State.pcieDown_kept | apply Kept.foldl
      | apply Kept.foldl2
    | split
    | (refine Kept.snd (by assumption) ?_)
    | (fail_if_no_progress with_reducible refine Kept.upd ?_ (by rfl))

theorem execSrefclkLoss_kept {m : Nat} {r s : State} (h : Kept m r s) a (hm : Sub 0x1602b74010 m := by exact Sub.le (by assumption) (by decide)) :
    KeptRes m r (execSrefclkLoss a s) :=
  KeptRes.when (State.doSrefLoss_kept h ..) ..

theorem State.doSrefReturn_kept {m : Nat} {r s : State} (h : Kept m r s) a b c (hm : Sub 0x1000000010 m := by exact Sub.le (by assumption) (by decide)) :
    Kept m r (s.doSrefReturn a b c) := by
  unfold State.doSrefReturn
  repeat' first
    | with_reducible assumption
    | exact Sub.le (by assumption) (by decide)
    | intro _
    | (extract_lets +onlyGivenNames x; first
      | (have _t : State := by with_reducible apply x
         clear _t; (refine Kept.cut (s := x) ?_ fun _ => ?_) <;> [(unfold x; clear x); (clear_value x; rename' x => y)])
      | (have _t : State := by with_reducible apply x.2
         clear _t; (refine Kept.cut2 (p := x) ?_ fun _ => ?_) <;> [(unfold x; clear x); (clear_value x; rename' x => y)])
      | (clear_value x; rename' x => y)
      | rename' x => y)
    | with_reducible first
      | apply State.trainPort_kept | apply State.setF_kept | apply Kept.foldl | apply Kept.foldl2
    | split
    | (refine Kept.snd (by assumption) ?_)
    | (fail_if_no_progress with_reducible refine Kept.upd ?_ (by rfl))

theorem execSrefclkReturn_kept {m : Nat} {r s : State} (h : Kept m r s) a b c (hm : Sub 0x1000000010 m := by exact Sub.le (by assumption) (by decide)) :
    KeptRes m r (execSrefclkReturn a b c s) :=
  KeptRes.when (State.doSrefReturn_kept h ..) ..

theorem execPcieLinkDown_kept {m : Nat} {r s : State} (h : Kept m r s) (hm : Sub 0x1602b74010 m := by exact Sub.le (by assumption) (by decide)) :
    KeptRes m r (execPcieLinkDown s) := by
  unfold execPcieLinkDown
  repeat' first
    | with_reducible assumption
    | exact Sub.le (by assumption) (by decide)
    | (extract_lets +onlyGivenNames x; first
      | (have _t : State := by with_reducible apply x
         clear _t; (first | refine KeptRes.cut (s := x) ?_ fun _ => ?_ | refine Kept.cut (s := x) ?_ fun _ => ?_) <;> [(unfold x; clear x); (clear_value x; rename' x => y)])
      | (have _t : State := by with_reducible apply x.2
         clear _t; (first | refine KeptRes.cut2 (p := x) ?_ fun _ => ?_ | refine Kept.cut2 (p := x) ?_ fun _ => ?_) <;> [(unfold x; clear x); (clear_value x; rename' x => y)])
      | (clear_value x; rename' x => y)
      | rename' x => y)
    | with_reducible first
      | apply KeptRes.when | apply State.pcieDown_kept
    | split
    | (refine Kept.snd (by assumption) ?_)
    | (fail_if_no_progress with_reducible refine Kept.upd ?_ (by rfl))

theorem execEthLink_kept {m : Nat} {r s : State} (h : Kept m r s) a b (hm : Sub 0x602b74010 m := by exact Sub.le (by assumption) (by decide)) :
    KeptRes m r (execEthLink a b s) :=
  KeptRes.when (State.setF_kept (State.ethLost_kept (State.inject_kept h ..) ..) ..) ..

theorem execEthFcs_kept {m : Nat} {r s : State} (h : Kept m r s) a b (hm : Sub 0x602b74010 m := by exact Sub.le (by assumption) (by decide)) :
    KeptRes m r (execEthFcs a b s) := by
  unfold execEthFcs
  repeat' first
    | with_reducible assumption
    | exact Sub.le (by assumption) (by decide)
    | (extract_lets +onlyGivenNames x; first
      | (have _t : State := by with_reducible apply x
         clear _t; (first | refine KeptRes.cut (s := x) ?_ fun _ => ?_ | refine Kept.cut (s := x) ?_ fun _ => ?_) <;> [(unfold x; clear x); (clear_value x; rename' x => y)])
      | (have _t : State := by with_reducible apply x.2
         clear _t; (first | refine KeptRes.cut2 (p := x) ?_ fun _ => ?_ | refine Kept.cut2 (p := x) ?_ fun _ => ?_) <;> [(unfold x; clear x); (clear_value x; rename' x => y)])
      | (clear_value x; rename' x => y)
      | rename' x => y)
    | with_reducible first
      | apply KeptRes.when | apply State.inject_kept | apply State.setF_kept | apply State.bump_kept
      | apply State.record_kept
    | split
    | (refine Kept.snd (by assumption) ?_)

theorem State.beginTakeover_kept {m : Nat} {r s : State} (h : Kept m r s) a b (hm : Sub 0xe02b74010 m := by exact Sub.le (by assumption) (by decide)) :
    Kept m r (s.beginTakeover a b) := by
  unfold State.beginTakeover
  repeat' first
    | with_reducible assumption
    | exact Sub.le (by assumption) (by decide)
    | (extract_lets +onlyGivenNames x; first
      | (have _t : State := by with_reducible apply x
         clear _t; (refine Kept.cut (s := x) ?_ fun _ => ?_) <;> [(unfold x; clear x); (clear_value x; rename' x => y)])
      | (have _t : State := by with_reducible apply x.2
         clear _t; (refine Kept.cut2 (p := x) ?_ fun _ => ?_) <;> [(unfold x; clear x); (clear_value x; rename' x => y)])
      | rename' x => y)
    | with_reducible first
      | apply State.record_kept | apply State.rollback_kept | apply State.setF_kept
    | split
    | (refine Kept.snd (by assumption) ?_)
    | (fail_if_no_progress with_reducible refine Kept.upd ?_ (by rfl))

theorem execLockstepMismatch_kept {m : Nat} {r s : State} (h : Kept m r s) (hm : Sub 0xe02b74010 m := by exact Sub.le (by assumption) (by decide)) :
    KeptRes m r (execLockstepMismatch s) :=
  KeptRes.when (State.beginTakeover_kept (State.inject_kept h ..) ..) ..

theorem execHeartbeatMiss_kept {m : Nat} {r s : State} (h : Kept m r s) (hm : Sub 0xe02b74010 m := by exact Sub.le (by assumption) (by decide)) :
    KeptRes m r (execHeartbeatMiss s) :=
  KeptRes.when (State.beginTakeover_kept h ..) ..

theorem State.doTakeover_kept {m : Nat} {r s : State} (h : Kept m r s) (hm : Sub 0x800120010 m := by exact Sub.le (by assumption) (by decide)) :
    Kept m r (s.doTakeover) := by
  unfold State.doTakeover
  repeat' first
    | with_reducible assumption
    | exact Sub.le (by assumption) (by decide)
    | (extract_lets +onlyGivenNames x; first
      | (have _t : State := by with_reducible apply x
         clear _t; (refine Kept.cut (s := x) ?_ fun _ => ?_) <;> [(unfold x; clear x); (clear_value x; rename' x => y)])
      | (have _t : State := by with_reducible apply x.2
         clear _t; (refine Kept.cut2 (p := x) ?_ fun _ => ?_) <;> [(unfold x; clear x); (clear_value x; rename' x => y)])
      | rename' x => y)
    | with_reducible first
      | apply State.setF_kept
    | (fail_if_no_progress with_reducible refine Kept.upd ?_ (by rfl))

theorem execBoathouseLost_kept {m : Nat} {r s : State} (h : Kept m r s) (hm : Sub 0x800000010 m := by exact Sub.le (by assumption) (by decide)) :
    KeptRes m r (execBoathouseLost s) := by
  unfold execBoathouseLost
  repeat' first
    | with_reducible assumption
    | exact Sub.le (by assumption) (by decide)
    | (extract_lets +onlyGivenNames x; first
      | (have _t : State := by with_reducible apply x
         clear _t; (first | refine KeptRes.cut (s := x) ?_ fun _ => ?_ | refine Kept.cut (s := x) ?_ fun _ => ?_) <;> [(unfold x; clear x); (clear_value x; rename' x => y)])
      | (have _t : State := by with_reducible apply x.2
         clear _t; (first | refine KeptRes.cut2 (p := x) ?_ fun _ => ?_ | refine Kept.cut2 (p := x) ?_ fun _ => ?_) <;> [(unfold x; clear x); (clear_value x; rename' x => y)])
      | rename' x => y)
    | with_reducible first
      | apply KeptRes.when | apply State.setF_kept
    | (fail_if_no_progress with_reducible refine Kept.upd ?_ (by rfl))

theorem execJtagInstruction_kept {m : Nat} {r s : State} (h : Kept m r s) a (hm : Sub 0x800000000 m := by exact Sub.le (by assumption) (by decide)) :
    KeptRes m r (execJtagInstruction a s) := by
  unfold execJtagInstruction
  repeat' first
    | with_reducible assumption
    | exact Sub.le (by assumption) (by decide)
    | (extract_lets +onlyGivenNames x; first
      | (have _t : State := by with_reducible apply x
         clear _t; (first | refine KeptRes.cut (s := x) ?_ fun _ => ?_ | refine Kept.cut (s := x) ?_ fun _ => ?_) <;> [(unfold x; clear x); (clear_value x; rename' x => y)])
      | (have _t : State := by with_reducible apply x.2
         clear _t; (first | refine KeptRes.cut2 (p := x) ?_ fun _ => ?_ | refine Kept.cut2 (p := x) ?_ fun _ => ?_) <;> [(unfold x; clear x); (clear_value x; rename' x => y)])
      | rename' x => y)
    | with_reducible first
      | apply KeptRes.when
    | split
    | (refine Kept.snd (by assumption) ?_)
    | (fail_if_no_progress with_reducible refine Kept.upd ?_ (by rfl))

theorem execJtagTestLogicReset_kept {m : Nat} {r s : State} (h : Kept m r s) (hm : Sub 0x800000000 m := by exact Sub.le (by assumption) (by decide)) :
    KeptRes m r (execJtagTestLogicReset s) := by
  unfold execJtagTestLogicReset
  repeat' first
    | with_reducible assumption
    | exact Sub.le (by assumption) (by decide)
    | (extract_lets +onlyGivenNames x; first
      | (have _t : State := by with_reducible apply x
         clear _t; (first | refine KeptRes.cut (s := x) ?_ fun _ => ?_ | refine Kept.cut (s := x) ?_ fun _ => ?_) <;> [(unfold x; clear x); (clear_value x; rename' x => y)])
      | (have _t : State := by with_reducible apply x.2
         clear _t; (first | refine KeptRes.cut2 (p := x) ?_ fun _ => ?_ | refine Kept.cut2 (p := x) ?_ fun _ => ?_) <;> [(unfold x; clear x); (clear_value x; rename' x => y)])
      | rename' x => y)
    | with_reducible first
      | apply KeptRes.when
    | (fail_if_no_progress with_reducible refine Kept.upd ?_ (by rfl))

theorem State.spdmErr_kept {m : Nat} {r s : State} (h : Kept m r s) a (hm : Sub 0x2 m := by exact Sub.le (by assumption) (by decide)) :
    Kept m r (s.spdmErr a) :=
  State.emit_kept h ..

theorem State.spdmSay_kept {m : Nat} {r s : State} (h : Kept m r s) a b c (hm : Sub 0x800000002 m := by exact Sub.le (by assumption) (by decide)) :
    Kept m r (s.spdmSay a b c) := by
  unfold State.spdmSay
  repeat' first
    | with_reducible assumption
    | exact Sub.le (by assumption) (by decide)
    | (extract_lets +onlyGivenNames x; first
      | (have _t : State := by with_reducible apply x
         clear _t; (refine Kept.cut (s := x) ?_ fun _ => ?_) <;> [(unfold x; clear x); (clear_value x; rename' x => y)])
      | (have _t : State := by with_reducible apply x.2
         clear _t; (refine Kept.cut2 (p := x) ?_ fun _ => ?_) <;> [(unfold x; clear x); (clear_value x; rename' x => y)])
      | rename' x => y)
    | with_reducible first
      | apply State.emit_kept
    | (fail_if_no_progress with_reducible refine Kept.upd ?_ (by rfl))

theorem State.spdmAsk_kept {m : Nat} {r s : State} (h : Kept m r s) a (b : Sys2Proof.Machine.State → Sys2Proof.Machine.State) (hb : ∀ (s : State), Kept m r s → Kept m r (b s)) (hm : Sub 0xa m := by exact Sub.le (by assumption) (by decide)) :
    Kept m r (s.spdmAsk a b) := by
  unfold State.spdmAsk
  repeat' first
    | with_reducible assumption
    | exact Sub.le (by assumption) (by decide)
    | intro _
    | (extract_lets +onlyGivenNames x; first
      | (have _t : State := by with_reducible apply x
         clear _t; (refine Kept.cut (s := x) ?_ fun _ => ?_) <;> [(unfold x; clear x); (clear_value x; rename' x => y)])
      | (have _t : State := by with_reducible apply x.2
         clear _t; (refine Kept.cut2 (p := x) ?_ fun _ => ?_) <;> [(unfold x; clear x); (clear_value x; rename' x => y)])
      | (clear_value x; rename' x => y)
      | rename' x => y)
    | with_reducible first
      | apply State.tick_kept | apply State.spdmErr_kept | apply hb
    | split
    | (refine Kept.snd (by assumption) ?_)

theorem State.spdmStage_kept {m : Nat} {r s : State} (h : Kept m r s) a (hm : Sub 0x800000000 m := by exact Sub.le (by assumption) (by decide)) :
    Kept m r (s.spdmStage a) :=
  .upd h rfl

theorem State.doGetVersion_kept {m : Nat} {r s : State} (h : Kept m r s) a (hm : Sub 0x80000000a m := by exact Sub.le (by assumption) (by decide)) :
    Kept m r (s.doGetVersion a) := by
  unfold State.doGetVersion
  repeat' first
    | with_reducible assumption
    | exact Sub.le (by assumption) (by decide)
    | intro _
    | (extract_lets +onlyGivenNames x; first
      | (have _t : State := by with_reducible apply x
         clear _t; (refine Kept.cut (s := x) ?_ fun _ => ?_) <;> [(unfold x; clear x); (clear_value x; rename' x => y)])
      | (have _t : State := by with_reducible apply x.2
         clear _t; (refine Kept.cut2 (p := x) ?_ fun _ => ?_) <;> [(unfold x; clear x); (clear_value x; rename' x => y)])
      | rename' x => y)
    | with_reducible first
      | apply State.spdmAsk_kept | apply State.spdmStage_kept | apply State.spdmSay_kept
    | (fail_if_no_progress with_reducible refine Kept.upd ?_ (by rfl))

theorem execGetVersion_kept {m : Nat} {r s : State} (h : Kept m r s) a (hm : Sub 0x80000000a m := by exact Sub.le (by assumption) (by decide)) :
    KeptRes m r (execGetVersion a s) :=
  KeptRes.when (State.doGetVersion_kept h ..) ..

theorem State.doGetCapabilities_kept {m : Nat} {r s : State} (h : Kept m r s) a (hm : Sub 0x80000000a m := by exact Sub.le (by assumption) (by decide)) :
    Kept m r (s.doGetCapabilities a) :=
  State.spdmAsk_kept h _ _ fun _ h => State.spdmSay_kept (State.spdmStage_kept h ..) ..

theorem execGetCapabilities_kept {m : Nat} {r s : State} (h : Kept m r s) a (hm : Sub 0x80000000a m := by exact Sub.le (by assumption) (by decide)) :
    KeptRes m r (execGetCapabilities a s) :=
  KeptRes.when (State.doGetCapabilities_kept h ..) ..

theorem State.doNegotiate_kept {m : Nat} {r s : State} (h : Kept m r s) a b (hm : Sub 0x80000000a m := by exact Sub.le (by assumption) (by decide)) :
    Kept m r (s.doNegotiate a b) := by
  unfold State.doNegotiate
  repeat' first
    | with_reducible assumption
    | exact Sub.le (by assumption) (by decide)
    | intro _
    | with_reducible first
      | apply State.spdmAsk_kept | apply State.spdmSay_kept | apply State.spdmStage_kept | apply State.spdmErr_kept
    | split
    | (refine Kept.snd (by assumption) ?_)

theorem execNegotiateAlgorithms_kept {m : Nat} {r s : State} (h : Kept m r s) a b c (hm : Sub 0x80000000a m := by exact Sub.le (by assumption) (by decide)) :
    KeptRes m r (execNegotiateAlgorithms a b c s) :=
  KeptRes.when (State.doNegotiate_kept h ..) ..

theorem State.doGetDigests_kept {m : Nat} {r s : State} (h : Kept m r s) a (hm : Sub 0x80000000a m := by exact Sub.le (by assumption) (by decide)) :
    Kept m r (s.doGetDigests a) :=
  State.spdmAsk_kept h _ _ fun _ h => State.spdmSay_kept h ..

theorem execGetDigests_kept {m : Nat} {r s : State} (h : Kept m r s) a (hm : Sub 0x80000000a m := by exact Sub.le (by assumption) (by decide)) :
    KeptRes m r (execGetDigests a s) :=
  KeptRes.when (State.doGetDigests_kept h ..) ..

theorem State.doGetCertificate_kept {m : Nat} {r s : State} (h : Kept m r s) a b c d (hm : Sub 0x80000000a m := by exact Sub.le (by assumption) (by decide)) :
    Kept m r (s.doGetCertificate a b c d) := by
  unfold State.doGetCertificate
  repeat' first
    | with_reducible assumption
    | exact Sub.le (by assumption) (by decide)
    | intro _
    | with_reducible first
      | apply State.spdmAsk_kept | apply State.spdmSay_kept | apply State.spdmErr_kept
    | split
    | (refine Kept.snd (by assumption) ?_)

theorem execGetCertificate_kept {m : Nat} {r s : State} (h : Kept m r s) a b c d (hm : Sub 0x80000000a m := by exact Sub.le (by assumption) (by decide)) :
    KeptRes m r (execGetCertificate a b c d s) :=
  KeptRes.when (State.doGetCertificate_kept h ..) ..

theorem State.doChallenge_kept {m : Nat} {r s : State} (h : Kept m r s) a b (hm : Sub 0x80000000a m := by exact Sub.le (by assumption) (by decide)) :
    Kept m r (s.doChallenge a b) := by
  unfold State.doChallenge
  repeat' first
    | with_reducible assumption
    | exact Sub.le (by assumption) (by decide)
    | intro _
    | (extract_lets +onlyGivenNames x; first
      | (have _t : State := by with_reducible apply x
         clear _t; (refine Kept.cut (s := x) ?_ fun _ => ?_) <;> [(unfold x; clear x); (clear_value x; rename' x => y)])
      | (have _t : State := by with_reducible apply x.2
         clear _t; (refine Kept.cut2 (p := x) ?_ fun _ => ?_) <;> [(unfold x; clear x); (clear_value x; rename' x => y)])
      | (clear_value x; rename' x => y)
      | rename' x => y)
    | with_reducible first
      | apply State.spdmAsk_kept | apply State.spdmSay_kept | apply State.spdmErr_kept
    | split
    | (refine Kept.snd (by assumption) ?_)

theorem execChallenge_kept {m : Nat} {r s : State} (h : Kept m r s) a b (hm : Sub 0x80000000a m := by exact Sub.le (by assumption) (by decide)) :
    KeptRes m r (execChallenge a b s) :=
  KeptRes.when (State.doChallenge_kept h ..) ..

theorem State.doGetMeasurements_kept {m : Nat} {r s : State} (h : Kept m r s) a b (hm : Sub 0x80000000a m := by exact Sub.le (by assumption) (by decide)) : Kept m r (s.doGetMeasurements a b) := by
  refine State.spdmAsk_kept h _ _ fun s h => ?_
  extract_lets -underBinder block say
  have hs : ∀ w, Kept m r (say w) := fun w => State.spdmSay_kept h ..
  split
  · exact hs _
  split
  · exact hs _
  split
  · exact hs _
  · exact State.spdmErr_kept h ..

theorem execGetMeasurements_kept {m : Nat} {r s : State} (h : Kept m r s) a b (hm : Sub 0x80000000a m := by exact Sub.le (by assumption) (by decide)) :
    KeptRes m r (execGetMeasurements a b s) :=
  KeptRes.when (State.doGetMeasurements_kept h ..) ..

theorem State.doUnsupported_kept {m : Nat} {r s : State} (h : Kept m r s) (hm : Sub 0xa m := by exact Sub.le (by assumption) (by decide)) :
    Kept m r (s.doUnsupported) :=
  State.spdmAsk_kept h _ _ fun _ h => State.spdmErr_kept h ..

theorem execUnsupportedRequest_kept {m : Nat} {r s : State} (h : Kept m r s) a (hm : Sub 0xa m := by exact Sub.le (by assumption) (by decide)) :
    KeptRes m r (execUnsupportedRequest a s) :=
  KeptRes.when (State.doUnsupported_kept h ..) ..

theorem State.i3cTake_kept {m : Nat} {r s : State} (h : Kept m r s) a b (hm : Sub 0x800000002 m := by exact Sub.le (by assumption) (by decide)) :
    Kept m r (s.i3cTake a b) := by
  unfold State.i3cTake
  repeat' first
    | with_reducible assumption
    | exact Sub.le (by assumption) (by decide)
    | (extract_lets +onlyGivenNames x; first
      | (have _t : State := by with_reducible apply x
         clear _t; (refine Kept.cut (s := x) ?_ fun _ => ?_) <;> [(unfold x; clear x); (clear_value x; rename' x => y)])
      | (have _t : State := by with_reducible apply x.2
         clear _t; (refine Kept.cut2 (p := x) ?_ fun _ => ?_) <;> [(unfold x; clear x); (clear_value x; rename' x => y)])
      | rename' x => y)
    | with_reducible first
      | apply State.emit_kept
    | (fail_if_no_progress with_reducible refine Kept.upd ?_ (by rfl))

theorem execEntdaa_kept {m : Nat} {r s : State} (h : Kept m r s) a b (hm : Sub 0x800000002 m := by exact Sub.le (by assumption) (by decide)) :
    KeptRes m r (execEntdaa a b s) := by
  unfold execEntdaa
  repeat' first
    | with_reducible assumption
    | exact Sub.le (by assumption) (by decide)
    | with_reducible first
      | apply KeptRes.when | apply State.i3cTake_kept
    | split
    | (refine Kept.snd (by assumption) ?_)

theorem execSetdasa_kept {m : Nat} {r s : State} (h : Kept m r s) a b c (hm : Sub 0x800000002 m := by exact Sub.le (by assumption) (by decide)) :
    KeptRes m r (execSetdasa a b c s) := by
  unfold execSetdasa
  repeat' first
    | with_reducible assumption
    | exact Sub.le (by assumption) (by decide)
    | with_reducible first
      | apply KeptRes.when | apply State.i3cTake_kept
    | split
    | (refine Kept.snd (by assumption) ?_)

theorem State.frameIn_kept {m : Nat} {r s : State} (h : Kept m r s) a (hm : Sub 0x10 m := by exact Sub.le (by assumption) (by decide)) :
    Kept m r (s.frameIn a) :=
  State.bump_kept h ..

theorem State.nak_kept {m : Nat} {r s : State} (h : Kept m r s) a b c (hm : Sub 0x12 m := by exact Sub.le (by assumption) (by decide)) :
    Kept m r (s.nak a b c) :=
  State.emit_kept (State.bump_kept (State.bump_kept h ..) ..) ..

theorem State.setQp_kept {m : Nat} {r s : State} (h : Kept m r s) a b (hm : Sub 0x400000000 m := by exact Sub.le (by assumption) (by decide)) :
    Kept m r (s.setQp a b) :=
  .upd h rfl

theorem execInvalidRequest_kept {m : Nat} {r s : State} (h : Kept m r s) a (hm : Sub 0x12 m := by exact Sub.le (by assumption) (by decide)) :
    KeptRes m r (execInvalidRequest a s) := by
  unfold execInvalidRequest; split
  · exact .refused _
  · exact .of (State.nak_kept (State.frameIn_kept h ..) ..)

theorem execCnpReceive_kept {m : Nat} {r s : State} (h : Kept m r s) a (hm : Sub 0x400000010 m := by exact Sub.le (by assumption) (by decide)) :
    KeptRes m r (execCnpReceive a s) := by
  unfold execCnpReceive
  repeat' first
    | with_reducible assumption
    | exact Sub.le (by assumption) (by decide)
    | with_reducible first
      | exact KeptRes.refused _ | apply KeptRes.of | apply State.setQp_kept | apply State.bump_kept
      | apply State.frameIn_kept
    | split
    | (refine Kept.snd (by assumption) ?_)

theorem execEcnMarkReceive_kept {m : Nat} {r s : State} (h : Kept m r s) a (hm : Sub 0x12 m := by exact Sub.le (by assumption) (by decide)) :
    KeptRes m r (execEcnMarkReceive a s) := by
  unfold execEcnMarkReceive
  repeat' first
    | with_reducible assumption
    | exact Sub.le (by assumption) (by decide)
    | (extract_lets +onlyGivenNames x; first
      | (have _t : State := by with_reducible apply x
         clear _t; (first | refine KeptRes.cut (s := x) ?_ fun _ => ?_ | refine Kept.cut (s := x) ?_ fun _ => ?_) <;> [(unfold x; clear x); (clear_value x; rename' x => y)])
      | (have _t : State := by with_reducible apply x.2
         clear _t; (first | refine KeptRes.cut2 (p := x) ?_ fun _ => ?_ | refine Kept.cut2 (p := x) ?_ fun _ => ?_) <;> [(unfold x; clear x); (clear_value x; rename' x => y)])
      | (clear_value x; rename' x => y)
      | rename' x => y)
    | with_reducible first
      | exact KeptRes.refused _ | apply KeptRes.of | apply State.bump_kept | apply State.frameIn_kept
      | apply State.sendEth_kept
    | split
    | (refine Kept.snd (by assumption) ?_)

theorem execPfcPause_kept {m : Nat} {r s : State} (h : Kept m r s) a b (hm : Sub 0x10 m := by exact Sub.le (by assumption) (by decide)) :
    KeptRes m r (execPfcPause a b s) := by
  unfold execPfcPause
  repeat' first
    | with_reducible assumption
    | exact Sub.le (by assumption) (by decide)
    | (extract_lets +onlyGivenNames x; first
      | (have _t : State := by with_reducible apply x
         clear _t; (first | refine KeptRes.cut (s := x) ?_ fun _ => ?_ | refine Kept.cut (s := x) ?_ fun _ => ?_) <;> [(unfold x; clear x); (clear_value x; rename' x => y)])
      | (have _t : State := by with_reducible apply x.2
         clear _t; (first | refine KeptRes.cut2 (p := x) ?_ fun _ => ?_ | refine Kept.cut2 (p := x) ?_ fun _ => ?_) <;> [(unfold x; clear x); (clear_value x; rename' x => y)])
      | (clear_value x; rename' x => y)
      | rename' x => y)
    | with_reducible first
      | apply KeptRes.when | apply State.frameIn_kept | apply State.bump_kept
    | split
    | (refine Kept.snd (by assumption) ?_)

theorem execArpRequest_kept {m : Nat} {r s : State} (h : Kept m r s) a b c (hm : Sub 0x12 m := by exact Sub.le (by assumption) (by decide)) :
    KeptRes m r (execArpRequest a b c s) := by
  unfold execArpRequest
  repeat' first
    | with_reducible assumption
    | exact Sub.le (by assumption) (by decide)
    | (extract_lets +onlyGivenNames x; first
      | (have _t : State := by with_reducible apply x
         clear _t; (first | refine KeptRes.cut (s := x) ?_ fun _ => ?_ | refine Kept.cut (s := x) ?_ fun _ => ?_) <;> [(unfold x; clear x); (clear_value x; rename' x => y)])
      | (have _t : State := by with_reducible apply x.2
         clear _t; (first | refine KeptRes.cut2 (p := x) ?_ fun _ => ?_ | refine Kept.cut2 (p := x) ?_ fun _ => ?_) <;> [(unfold x; clear x); (clear_value x; rename' x => y)])
      | (clear_value x; rename' x => y)
      | rename' x => y)
    | with_reducible first
      | apply KeptRes.when | apply State.frameIn_kept | apply State.sendEth_kept
    | split
    | (refine Kept.snd (by assumption) ?_)

theorem execNeighbourSolicitation_kept {m : Nat} {r s : State} (h : Kept m r s) a b c (hm : Sub 0x12 m := by exact Sub.le (by assumption) (by decide)) :
    KeptRes m r (execNeighbourSolicitation a b c s) := by
  unfold execNeighbourSolicitation
  repeat' first
    | with_reducible assumption
    | exact Sub.le (by assumption) (by decide)
    | (extract_lets +onlyGivenNames x; first
      | (have _t : State := by with_reducible apply x
         clear _t; (first | refine KeptRes.cut (s := x) ?_ fun _ => ?_ | refine Kept.cut (s := x) ?_ fun _ => ?_) <;> [(unfold x; clear x); (clear_value x; rename' x => y)])
      | (have _t : State := by with_reducible apply x.2
         clear _t; (first | refine KeptRes.cut2 (p := x) ?_ fun _ => ?_ | refine Kept.cut2 (p := x) ?_ fun _ => ?_) <;> [(unfold x; clear x); (clear_value x; rename' x => y)])
      | (clear_value x; rename' x => y)
      | rename' x => y)
    | with_reducible first
      | apply KeptRes.when | apply State.frameIn_kept | apply State.sendEth_kept
    | split
    | (refine Kept.snd (by assumption) ?_)

theorem State.refuseQueues_kept {m : Nat} {r s : State} (h : Kept m r s) a (hm : Sub 0x602b76810 m := by exact Sub.le (by assumption) (by decide)) :
    Kept m r (s.refuseQueues a) := by
  unfold State.refuseQueues
  repeat' first
    | with_reducible assumption
    | exact Sub.le (by assumption) (by decide)
    | intro _
    | with_reducible first
      | apply State.aeWritten_kept | apply State.aeData_kept | apply Kept.foldl | apply Kept.foldl2
    | split
    | (refine Kept.snd (by assumption) ?_)

theorem State.thermalStop_kept {m : Nat} {r s : State} (h : Kept m r s) a b c d (hm : Sub 0x68ab7feb2 m := by exact Sub.le (by assumption) (by decide)) :
    Kept m r (s.thermalStop a b c d) := by
  unfold State.thermalStop
  repeat' first
    | with_reducible assumption
    | exact Sub.le (by assumption) (by decide)
    | intro _
    | (extract_lets +onlyGivenNames x; first
      | (have _t : State := by with_reducible apply x
         clear _t; (refine Kept.cut (s := x) ?_ fun _ => ?_) <;> [(unfold x; clear x); (clear_value x; rename' x => y)])
      | (have _t : State := by with_reducible apply x.2
         clear _t; (refine Kept.cut2 (p := x) ?_ fun _ => ?_) <;> [(unfold x; clear x); (clear_value x; rename' x => y)])
      | (clear_value x; rename' x => y)
      | rename' x => y)
    | with_reducible first
      | apply State.record_kept | apply State.recoverDie_kept | apply State.killScribe_kept | apply State.refuseQueues_kept
      | apply State.powerDie_kept | apply State.wr_kept | apply State.setF_kept | apply State.copyCheck_kept
      | apply State.setDie_kept | apply Kept.foldl | apply Kept.foldl2
    | split
    | (refine Kept.snd (by assumption) ?_)

theorem State.thermalThrottle_kept {m : Nat} {r s : State} (h : Kept m r s) a b c d (hm : Sub 0x603b7481a m := by exact Sub.le (by assumption) (by decide)) :
    Kept m r (s.thermalThrottle a b c d) := by
  unfold State.thermalThrottle
  repeat' first
    | with_reducible assumption
    | exact Sub.le (by assumption) (by decide)
    | (extract_lets +onlyGivenNames x; first
      | (have _t : State := by with_reducible apply x
         clear _t; (refine Kept.cut (s := x) ?_ fun _ => ?_) <;> [(unfold x; clear x); (clear_value x; rename' x => y)])
      | (have _t : State := by with_reducible apply x.2
         clear _t; (refine Kept.cut2 (p := x) ?_ fun _ => ?_) <;> [(unfold x; clear x); (clear_value x; rename' x => y)])
      | (clear_value x; rename' x => y)
      | rename' x => y)
    | with_reducible first
      | apply State.setF_kept | apply State.setDie_kept | apply State.record_kept | apply State.stepDown_kept
    | split
    | (refine Kept.snd (by assumption) ?_)

theorem State.doThermalSample_kept {m : Nat} {r s : State} (h : Kept m r s) a b (hm : Sub 0x68bb7feba m := by exact Sub.le (by assumption) (by decide)) :
    Kept m r (s.doThermalSample a b) := by
  unfold State.doThermalSample
  repeat' first
    | with_reducible assumption
    | exact Sub.le (by assumption) (by decide)
    | intro _
    | (extract_lets +onlyGivenNames x; first
      | (have _t : State := by with_reducible apply x
         clear _t; (refine Kept.cut (s := x) ?_ fun _ => ?_) <;> [(unfold x; clear x); (clear_value x; rename' x => y)])
      | (have _t : State := by with_reducible apply x.2
         clear _t; (refine Kept.cut2 (p := x) ?_ fun _ => ?_) <;> [(unfold x; clear x); (clear_value x; rename' x => y)])
      | (clear_value x; rename' x => y)
      | rename' x => y)
    | with_reducible first
      | apply State.inject_kept | apply State.setDie_kept | apply State.setF_kept | apply State.thermalThrottle_kept
      | apply State.thermalStop_kept | apply Kept.foldl | apply Kept.foldl2
    | split
    | (refine Kept.snd (by assumption) ?_)

theorem execThermalSample_kept {m : Nat} {r s : State} (h : Kept m r s) a b (hm : Sub 0x68bb7feba m := by exact Sub.le (by assumption) (by decide)) :
    KeptRes m r (execThermalSample a b s) :=
  KeptRes.whenWf (State.doThermalSample_kept h ..) ..

theorem State.reloadCores_kept {m : Nat} {r s : State} (h : Kept m r s) a b (hm : Sub 0x602b75810 m := by exact Sub.le (by assumption) (by decide)) :
    Kept m r (s.reloadCores a b) := by
  unfold State.reloadCores
  repeat' first
    | with_reducible assumption
    | exact Sub.le (by assumption) (by decide)
    | intro _
    | (extract_lets +onlyGivenNames x; first
      | (have _t : State := by with_reducible apply x
         clear _t; (refine Kept.cut (s := x) ?_ fun _ => ?_) <;> [(unfold x; clear x); (clear_value x; rename' x => y)])
      | (have _t : State := by with_reducible apply x.2
         clear _t; (refine Kept.cut2 (p := x) ?_ fun _ => ?_) <;> [(unfold x; clear x); (clear_value x; rename' x => y)])
      | (clear_value x; rename' x => y)
      | rename' x => y)
    | with_reducible first
      | apply State.loadCore_kept | apply Kept.foldl | apply Kept.foldl2
    | split
    | (refine Kept.snd (by assumption) ?_)

theorem State.doThermalRestore_kept {m : Nat} {r s : State} (h : Kept m r s) a (hm : Sub 0x68ab7feb2 m := by exact Sub.le (by assumption) (by decide)) :
    Kept m r (s.doThermalRestore a) := by
  unfold State.doThermalRestore
  repeat' first
    | with_reducible assumption
    | exact Sub.le (by assumption) (by decide)
    | intro _
    | (extract_lets +onlyGivenNames x; first
      | (have _t : State := by with_reducible apply x
         clear _t; (refine Kept.cut (s := x) ?_ fun _ => ?_) <;> [(unfold x; clear x); (clear_value x; rename' x => y)])
      | (have _t : State := by with_reducible apply x.2
         clear _t; (refine Kept.cut2 (p := x) ?_ fun _ => ?_) <;> [(unfold x; clear x); (clear_value x; rename' x => y)])
      | (clear_value x; rename' x => y)
      | rename' x => y)
    | with_reducible first
      | apply State.powerDie_kept | apply State.wr_kept | apply State.setF_kept | apply State.setDie_kept
      | apply State.reloadCores_kept | apply State.offDie_kept | apply Kept.foldl | apply Kept.foldl2
    | split
    | (refine Kept.snd (by assumption) ?_)

theorem execThermalRestore_kept {m : Nat} {r s : State} (h : Kept m r s) a (hm : Sub 0x68ab7feb2 m := by exact Sub.le (by assumption) (by decide)) :
    KeptRes m r (execThermalRestore a s) :=
  KeptRes.when (State.doThermalRestore_kept h ..) ..

theorem State.doClusterWake_kept {m : Nat} {r s : State} (h : Kept m r s) a b c d (hm : Sub 0x602b77eb0 m := by exact Sub.le (by assumption) (by decide)) :
    Kept m r (s.doClusterWake a b c d) := by
  unfold State.doClusterWake
  repeat' first
    | with_reducible assumption
    | exact Sub.le (by assumption) (by decide)
    | (extract_lets +onlyGivenNames x; first
      | (have _t : State := by with_reducible apply x
         clear _t; (refine Kept.cut (s := x) ?_ fun _ => ?_) <;> [(unfold x; clear x); (clear_value x; rename' x => y)])
      | (have _t : State := by with_reducible apply x.2
         clear _t; (refine Kept.cut2 (p := x) ?_ fun _ => ?_) <;> [(unfold x; clear x); (clear_value x; rename' x => y)])
      | (clear_value x; rename' x => y)
      | rename' x => y)
    | with_reducible first
      | apply State.reloadCores_kept | apply State.resetCluster_kept | apply State.setDie_kept | apply State.clock_kept
      | apply State.setCluster_kept
    | split
    | (refine Kept.snd (by assumption) ?_)

theorem execClusterWake_kept {m : Nat} {r s : State} (h : Kept m r s) a b c (hm : Sub 0x602b77eb0 m := by exact Sub.le (by assumption) (by decide)) :
    KeptRes m r (execClusterWake a b c s) := by
  unfold execClusterWake; split
  · exact .refused _
  · exact KeptRes.when (State.doClusterWake_kept h ..) ..

theorem State.plainWrite_kept {m : Nat} {r s : State} (h : Kept m r s) a b c (hm : Sub 0x10 m := by exact Sub.le (by assumption) (by decide)) :
    Kept m r (s.plainWrite a b c) := by
  unfold State.plainWrite; split
  · exact State.wr_kept h ..
  · exact h

theorem execThresholdWindowClose_kept {m : Nat} {r s : State} (h : Kept m r s) a b c (hm : Sub 0x20000 m := by exact Sub.le (by assumption) (by decide)) :
    KeptRes m r (execThresholdWindowClose a b c s) :=
  KeptRes.when (State.dropWindow_kept h ..) ..

theorem State.injWrite_kept {m : Nat} {r s : State} (h : Kept m r s) a b (hm : Sub 0x20010 m := by exact Sub.le (by assumption) (by decide)) :
    Kept m r (s.injWrite a b) := by
  unfold State.injWrite
  repeat' first
    | with_reducible assumption
    | exact Sub.le (by assumption) (by decide)
    | (extract_lets +onlyGivenNames x; first
      | (have _t : State := by with_reducible apply x
         clear _t; (refine Kept.cut (s := x) ?_ fun _ => ?_) <;> [(unfold x; clear x); (clear_value x; rename' x => y)])
      | (have _t : State := by with_reducible apply x.2
         clear _t; (refine Kept.cut2 (p := x) ?_ fun _ => ?_) <;> [(unfold x; clear x); (clear_value x; rename' x => y)])
      | (clear_value x; rename' x => y)
      | rename' x => y)
    | with_reducible first
      | apply State.plainWrite_kept | apply State.setF_kept
    | split
    | (refine Kept.snd (by assumption) ?_)
    | (fail_if_no_progress with_reducible refine Kept.upd ?_ (by rfl))

theorem execInjectArm_kept {m : Nat} {r s : State} (h : Kept m r s) a b c (hm : Sub 0x682b74012 m := by exact Sub.le (by assumption) (by decide)) :
    KeptRes m r (execInjectArm a b c s) :=
  .of (State.ctlIn_kept h _ _ _ _ _ _ fun _ h => State.injWrite_kept h ..)

theorem State.injCtl_kept {m : Nat} {r s : State} (h : Kept m r s) a (hm : Sub 0x10 m := by exact Sub.le (by assumption) (by decide)) :
    Kept m r (s.injCtl a) := by
  unfold State.injCtl
  repeat' first
    | with_reducible assumption
    | exact Sub.le (by assumption) (by decide)
    | (extract_lets +onlyGivenNames x; first
      | (have _t : State := by with_reducible apply x
         clear _t; (refine Kept.cut (s := x) ?_ fun _ => ?_) <;> [(unfold x; clear x); (clear_value x; rename' x => y)])
      | (have _t : State := by with_reducible apply x.2
         clear _t; (refine Kept.cut2 (p := x) ?_ fun _ => ?_) <;> [(unfold x; clear x); (clear_value x; rename' x => y)])
      | (clear_value x; rename' x => y)
      | rename' x => y)
    | with_reducible first
      | apply State.plainWrite_kept | apply State.disarmAll_kept
    | split
    | (refine Kept.snd (by assumption) ?_)

theorem execInjectDisable_kept {m : Nat} {r s : State} (h : Kept m r s) a (hm : Sub 0x682b74012 m := by exact Sub.le (by assumption) (by decide)) :
    KeptRes m r (execInjectDisable a s) :=
  .of (State.ctlIn_kept h _ _ _ _ _ _ fun _ h => State.injCtl_kept h ..)

theorem State.captureAsk_kept {m : Nat} {r s : State} (h : Kept m r s) a (hm : Sub 0x800000010 m := by exact Sub.le (by assumption) (by decide)) :
    Kept m r (s.captureAsk a) := by
  unfold State.captureAsk
  repeat' first
    | with_reducible assumption
    | exact Sub.le (by assumption) (by decide)
    | (extract_lets +onlyGivenNames x; first
      | (have _t : State := by with_reducible apply x
         clear _t; (refine Kept.cut (s := x) ?_ fun _ => ?_) <;> [(unfold x; clear x); (clear_value x; rename' x => y)])
      | (have _t : State := by with_reducible apply x.2
         clear _t; (refine Kept.cut2 (p := x) ?_ fun _ => ?_) <;> [(unfold x; clear x); (clear_value x; rename' x => y)])
      | rename' x => y)
    | with_reducible first
      | apply State.bump_kept | apply State.setF_kept
    | split
    | (refine Kept.snd (by assumption) ?_)
    | (fail_if_no_progress with_reducible refine Kept.upd ?_ (by rfl))

theorem State.trigWrite_kept {m : Nat} {r s : State} (h : Kept m r s) a (hm : Sub 0x800000010 m := by exact Sub.le (by assumption) (by decide)) :
    Kept m r (s.trigWrite a) := by
  unfold State.trigWrite; split
  · exact State.captureAsk_kept h ..
  · exact h

theorem execCaptureGo_kept {m : Nat} {r s : State} (h : Kept m r s) a (hm : Sub 0xe82b74012 m := by exact Sub.le (by assumption) (by decide)) :
    KeptRes m r (execCaptureGo a s) :=
  .of (State.ctlIn_kept h _ _ _ _ _ _ fun _ h => State.trigWrite_kept h ..)

theorem State.doPeriodic_kept {m : Nat} {r s : State} (h : Kept m r s) (hm : Sub 0x800000010 m := by exact Sub.le (by assumption) (by decide)) :
    Kept m r (s.doPeriodic) := by
  unfold State.doPeriodic
  repeat' first
    | with_reducible assumption
    | exact Sub.le (by assumption) (by decide)
    | (extract_lets +onlyGivenNames x; first
      | (have _t : State := by with_reducible apply x
         clear _t; (refine Kept.cut (s := x) ?_ fun _ => ?_) <;> [(unfold x; clear x); (clear_value x; rename' x => y)])
      | (have _t : State := by with_reducible apply x.2
         clear _t; (refine Kept.cut2 (p := x) ?_ fun _ => ?_) <;> [(unfold x; clear x); (clear_value x; rename' x => y)])
      | rename' x => y)
    | with_reducible first
      | apply State.captureAsk_kept
    | (fail_if_no_progress with_reducible refine Kept.upd ?_ (by rfl))

theorem execCapturePeriodic_kept {m : Nat} {r s : State} (h : Kept m r s) (hm : Sub 0x800000010 m := by exact Sub.le (by assumption) (by decide)) :
    KeptRes m r (execCapturePeriodic s) :=
  KeptRes.when (State.doPeriodic_kept h ..) ..

theorem State.doCaptured_kept {m : Nat} {r s : State} (h : Kept m r s) a (hm : Sub 0x80006c050 m := by exact Sub.le (by assumption) (by decide)) : Kept m r (s.doCaptured a) := by
  unfold State.doCaptured
  extract_lets -underBinder bh s1 st x
  have h1 : Kept m r s1 := by unfold s1; refine State.setF_kept ?_ ..; exact Kept.upd h rfl
  generalize (if st = 0 then 1 else st) = q
  split
  · exact State.setF_kept h1 ..
  split
  · split
    · exact State.setF_kept h1 ..
    · exact State.bump_kept (State.setF_kept (State.bump_kept (State.hbmWrite_kept h1 ..) ..) ..) ..
  · exact State.setF_kept h1 ..

theorem execCaptureComplete_kept {m : Nat} {r s : State} (h : Kept m r s) (hm : Sub 0x80006c050 m := by exact Sub.le (by assumption) (by decide)) :
    KeptRes m r (execCaptureComplete s) := by
  unfold execCaptureComplete; split
  · exact .refused _
  · exact KeptRes.when (State.doCaptured_kept h ..) ..

end Sys2Proof.Machine
end

