-- ==== Sys2Proof/Laws/KeptExec.lean ====
section
/-! SUPPORT. What `Kept` says of control writes, hosts and the cox: one lemma per function, citing those of the functions it calls. -/

set_option linter.unreachableTactic false
set_option linter.unusedTactic false
set_option linter.tactic.unusedName false

namespace Sys2Proof.Machine

set_option Elab.async false

open Sys2Proof

theorem State.raceInject_kept {m : Nat} {r s : State} (h : Kept m r s) a b (hm : Sub 0x602b74010 m := by exact Sub.le (by assumption) (by decide)) :
    Kept m r (s.raceInject a b).2 := by
  unfold State.raceInject
  repeat' first
    | with_reducible assumption
    | exact Sub.le (by assumption) (by decide)
    | (extract_lets +onlyGivenNames x; first
      | (have _t : State := by with_reducible apply x
         clear _t; (refine Kept.cut (s := x) ?_ fun _ => ?_) <;> [(unfold x; clear x); (clear_value x; rename' x => y)])
      | (have _t : State := by with_reducible apply x.2
         clear _t; (refine Kept.cut2 (p := x) ?_ fun _ => ?_) <;> [(unfold x; clear x); (clear_value x; rename' x => y)])
      | (clear_value x; rename' x => y)
      | rename' x => y)
    | with_reducible first
      | apply State.inject_kept | apply State.record_kept
    | split
    | (refine Kept.snd (by assumption) ?_)

theorem State.fieldsWrite_kept {m : Nat} {r s : State} (h : Kept m r s) a b c (hm : Sub 0x602b74010 m := by exact Sub.le (by assumption) (by decide)) :
    Kept m r (s.fieldsWrite a b c) := by
  unfold State.fieldsWrite
  repeat' first
    | with_reducible assumption
    | exact Sub.le (by assumption) (by decide)
    | (extract_lets +onlyGivenNames x; first
      | (have _t : State := by with_reducible apply x
         clear _t; (refine Kept.cut (s := x) ?_ fun _ => ?_) <;> [(unfold x; clear x); (clear_value x; rename' x => y)])
      | (have _t : State := by with_reducible apply x.2
         clear _t; (refine Kept.cut2 (p := x) ?_ fun _ => ?_) <;> [(unfold x; clear x); (clear_value x; rename' x => y)])
      | (clear_value x; rename' x => y)
      | rename' x => y)
    | with_reducible first
      | apply State.raceInject_kept | apply State.plainWrite_kept
    | split
    | (refine Kept.snd (by assumption) ?_)

theorem State.stagePatch_kept {m : Nat} {r s : State} (h : Kept m r s) a b c d e (hm : Sub 0x602b76010 m := by exact Sub.le (by assumption) (by decide)) :
    Kept m r (s.stagePatch a b c d e) := by
  unfold State.stagePatch
  repeat' first
    | with_reducible assumption
    | exact Sub.le (by assumption) (by decide)
    | (extract_lets +onlyGivenNames x; first
      | (have _t : State := by with_reducible apply x
         clear _t; (refine Kept.cut (s := x) ?_ fun _ => ?_) <;> [(unfold x; clear x); (clear_value x; rename' x => y)])
      | (have _t : State := by with_reducible apply x.2
         clear _t; (refine Kept.cut2 (p := x) ?_ fun _ => ?_) <;> [(unfold x; clear x); (clear_value x; rename' x => y)])
      | (clear_value x; rename' x => y)
      | rename' x => y)
    | with_reducible first
      | apply State.applyPatch_kept | apply State.setCore_kept | apply State.setF_kept
    | split
    | (refine Kept.snd (by assumption) ?_)

theorem State.coxCtl_kept {m : Nat} {r s : State} (h : Kept m r s) a b (hm : Sub 0x1010 m := by exact Sub.le (by assumption) (by decide)) :
    Kept m r (s.coxCtl a b) := by
  unfold State.coxCtl
  repeat' first
    | with_reducible assumption
    | exact Sub.le (by assumption) (by decide)
    | (extract_lets +onlyGivenNames x; first
      | (have _t : State := by with_reducible apply x
         clear _t; (refine Kept.cut (s := x) ?_ fun _ => ?_) <;> [(unfold x; clear x); (clear_value x; rename' x => y)])
      | (have _t : State := by with_reducible apply x.2
         clear _t; (refine Kept.cut2 (p := x) ?_ fun _ => ?_) <;> [(unfold x; clear x); (clear_value x; rename' x => y)])
      | (clear_value x; rename' x => y)
      | rename' x => y)
    | with_reducible first
      | apply State.plainWrite_kept | apply State.setCox_kept
    | split
    | (refine Kept.snd (by assumption) ?_)

theorem State.coxBlock_kept {m : Nat} {r s : State} (h : Kept m r s) a b c d e (hm : Sub 0x603b7781a m := by exact Sub.le (by assumption) (by decide)) :
    Kept m r (s.coxBlock a b c d e) := by
  unfold State.coxBlock
  repeat' first
    | with_reducible assumption
    | exact Sub.le (by assumption) (by decide)
    | (extract_lets +onlyGivenNames x; first
      | (have _t : State := by with_reducible apply x
         clear _t; (refine Kept.cut (s := x) ?_ fun _ => ?_) <;> [(unfold x; clear x); (clear_value x; rename' x => y)])
      | (have _t : State := by with_reducible apply x.2
         clear _t; (refine Kept.cut2 (p := x) ?_ fun _ => ?_) <;> [(unfold x; clear x); (clear_value x; rename' x => y)])
      | (clear_value x; rename' x => y)
      | rename' x => y)
    | with_reducible first
      | apply State.coxCtl_kept | apply State.doPost_kept | apply State.stagePatch_kept | apply State.plainWrite_kept
    | split
    | (refine Kept.snd (by assumption) ?_)

theorem State.flgBlock_kept {m : Nat} {r s : State} (h : Kept m r s) a b c (hm : Sub 0x10 m := by exact Sub.le (by assumption) (by decide)) :
    Kept m r (s.flgBlock a b c) := by
  unfold State.flgBlock; split
  · exact State.unpoison_kept h ..
  · exact State.plainWrite_kept h ..

theorem State.portCtl_kept {m : Nat} {r s : State} (h : Kept m r s) a b c (hm : Sub 0x800010 m := by exact Sub.le (by assumption) (by decide)) :
    Kept m r (s.portCtl a b c) := by
  unfold State.portCtl
  repeat' first
    | with_reducible assumption
    | exact Sub.le (by assumption) (by decide)
    | (extract_lets +onlyGivenNames x; first
      | (have _t : State := by with_reducible apply x
         clear _t; (refine Kept.cut (s := x) ?_ fun _ => ?_) <;> [(unfold x; clear x); (clear_value x; rename' x => y)])
      | (have _t : State := by with_reducible apply x.2
         clear _t; (refine Kept.cut2 (p := x) ?_ fun _ => ?_) <;> [(unfold x; clear x); (clear_value x; rename' x => y)])
      | (clear_value x; rename' x => y)
      | rename' x => y)
    | with_reducible first
      | apply State.plainWrite_kept | apply State.portLost_kept | apply State.trainPort_kept
    | split
    | (refine Kept.snd (by assumption) ?_)

theorem State.mcEnt_kept {m : Nat} {r s : State} (h : Kept m r s) a (hm : Sub 0x800000 m := by exact Sub.le (by assumption) (by decide)) :
    Kept m r (s.mcEnt a) :=
  State.setTree_kept h ..

theorem State.mcDesc_kept {m : Nat} {r s : State} (h : Kept m r s) a b (hm : Sub 0x800000 m := by exact Sub.le (by assumption) (by decide)) :
    Kept m r (s.mcDesc a b) :=
  State.setTree_kept h ..

theorem State.recWrite_kept {m : Nat} {r s : State} (h : Kept m r s) a b c (hm : Sub 0x10010 m := by exact Sub.le (by assumption) (by decide)) :
    Kept m r (s.recWrite a b c) := by
  unfold State.recWrite
  repeat' first
    | with_reducible assumption
    | exact Sub.le (by assumption) (by decide)
    | (extract_lets +onlyGivenNames x; first
      | (have _t : State := by with_reducible apply x
         clear _t; (refine Kept.cut (s := x) ?_ fun _ => ?_) <;> [(unfold x; clear x); (clear_value x; rename' x => y)])
      | (have _t : State := by with_reducible apply x.2
         clear _t; (refine Kept.cut2 (p := x) ?_ fun _ => ?_) <;> [(unfold x; clear x); (clear_value x; rename' x => y)])
      | (clear_value x; rename' x => y)
      | rename' x => y)
    | with_reducible first
      | refine State.ctxNeed_kept ?_ (by assumption) | apply State.ctxNeedD_kept | apply State.setCtx_kept
    | split
    | (refine Kept.snd (by assumption) ?_)

theorem State.msBusy_kept {m : Nat} {r s : State} (h : Kept m r s) (hm : Sub 0x10 m := by exact Sub.le (by assumption) (by decide)) :
    Kept m r (s.msBusy) :=
  State.setF_kept h ..

theorem State.msOrig_kept {m : Nat} {r s : State} (h : Kept m r s) a (hm : Sub 0x1000010 m := by exact Sub.le (by assumption) (by decide)) :
    Kept m r (s.msOrig a) := by
  unfold State.msOrig
  repeat' first
    | with_reducible assumption
    | exact Sub.le (by assumption) (by decide)
    | (extract_lets +onlyGivenNames x; first
      | (have _t : State := by with_reducible apply x
         clear _t; (refine Kept.cut (s := x) ?_ fun _ => ?_) <;> [(unfold x; clear x); (clear_value x; rename' x => y)])
      | (have _t : State := by with_reducible apply x.2
         clear _t; (refine Kept.cut2 (p := x) ?_ fun _ => ?_) <;> [(unfold x; clear x); (clear_value x; rename' x => y)])
      | (clear_value x; rename' x => y)
      | rename' x => y)
    | with_reducible first
      | apply State.msBusy_kept | apply State.setMset_kept
    | split
    | (refine Kept.snd (by assumption) ?_)

theorem State.buildTree_kept {m : Nat} {r s : State} (h : Kept m r s) a (hm : Sub 0x8 m := by exact Sub.le (by assumption) (by decide)) :
    Kept m r (s.buildTree a).2 :=
  State.tick_kept h ..

theorem State.msExt_kept {m : Nat} {r s : State} (h : Kept m r s) a (hm : Sub 0x1800018 m := by exact Sub.le (by assumption) (by decide)) :
    Kept m r (s.msExt a) := by
  unfold State.msExt
  repeat' first
    | with_reducible assumption
    | exact Sub.le (by assumption) (by decide)
    | (extract_lets +onlyGivenNames x; first
      | (have _t : State := by with_reducible apply x
         clear _t; (refine Kept.cut (s := x) ?_ fun _ => ?_) <;> [(unfold x; clear x); (clear_value x; rename' x => y)])
      | (have _t : State := by with_reducible apply x.2
         clear _t; (refine Kept.cut2 (p := x) ?_ fun _ => ?_) <;> [(unfold x; clear x); (clear_value x; rename' x => y)])
      | (clear_value x; rename' x => y)
      | rename' x => y)
    | with_reducible first
      | apply State.msBusy_kept | apply State.setF_kept | apply State.setMset_kept | apply State.buildTree_kept
      | apply State.setTree_kept
    | split
    | (refine Kept.snd (by assumption) ?_)

theorem State.bind_kept {m : Nat} {r s : State} (h : Kept m r s) a (hm : Sub 0x10010 m := by exact Sub.le (by assumption) (by decide)) :
    Kept m r (s.bind a) := by
  unfold State.bind
  repeat' first
    | with_reducible assumption
    | exact Sub.le (by assumption) (by decide)
    | (extract_lets +onlyGivenNames x; first
      | (have _t : State := by with_reducible apply x
         clear _t; (refine Kept.cut (s := x) ?_ fun _ => ?_) <;> [(unfold x; clear x); (clear_value x; rename' x => y)])
      | (have _t : State := by with_reducible apply x.2
         clear _t; (refine Kept.cut2 (p := x) ?_ fun _ => ?_) <;> [(unfold x; clear x); (clear_value x; rename' x => y)])
      | (clear_value x; rename' x => y)
      | rename' x => y)
    | with_reducible first
      | apply State.msBusy_kept | apply State.setCtx_kept
    | split
    | (refine Kept.snd (by assumption) ?_)

theorem State.vtBase_kept {m : Nat} {r s : State} (h : Kept m r s) a (hm : Sub 0x1000000 m := by exact Sub.le (by assumption) (by decide)) :
    Kept m r (s.vtBase a) :=
  State.setVt_kept h ..

theorem State.vtVer_kept {m : Nat} {r s : State} (h : Kept m r s) a (hm : Sub 0x1000000 m := by exact Sub.le (by assumption) (by decide)) :
    Kept m r (s.vtVer a) :=
  State.setVt_kept h ..

theorem State.policyWrite_kept {m : Nat} {r s : State} (h : Kept m r s) a (hm : Sub 0x10 m := by exact Sub.le (by assumption) (by decide)) :
    Kept m r (s.policyWrite a) :=
  State.setF_kept (State.plainWrite_kept h ..) ..

theorem State.winEnt0_kept {m : Nat} {r s : State} (h : Kept m r s) a (hm : Sub 0x4000000 m := by exact Sub.le (by assumption) (by decide)) :
    Kept m r (s.winEnt0 a) :=
  .upd h rfl

theorem State.winEnt1_kept {m : Nat} {r s : State} (h : Kept m r s) a (hm : Sub 0x4000000 m := by exact Sub.le (by assumption) (by decide)) :
    Kept m r (s.winEnt1 a) :=
  .upd h rfl

theorem State.ethCtl_kept {m : Nat} {r s : State} (h : Kept m r s) a b c (hm : Sub 0x602b74010 m := by exact Sub.le (by assumption) (by decide)) :
    Kept m r (s.ethCtl a b c) :=
  .foldl (State.plainWrite_kept h ..) fun _ _ h => State.ethLost_kept h ..

theorem State.telCtl_kept {m : Nat} {r s : State} (h : Kept m r s) a (hm : Sub 0x800000010 m := by exact Sub.le (by assumption) (by decide)) :
    Kept m r (s.telCtl a) := by
  unfold State.telCtl
  repeat' first
    | with_reducible assumption
    | exact Sub.le (by assumption) (by decide)
    | (extract_lets +onlyGivenNames x; first
      | (have _t : State := by with_reducible apply x
         clear _t; (refine Kept.cut (s := x) ?_ fun _ => ?_) <;> [(unfold x; clear x); (clear_value x; rename' x => y)])
      | (have _t : State := by with_reducible apply x.2
         clear _t; (refine Kept.cut2 (p := x) ?_ fun _ => ?_) <;> [(unfold x; clear x); (clear_value x; rename' x => y)])
      | rename' x => y)
    | with_reducible first
      | apply State.plainWrite_kept
    | split
    | (refine Kept.snd (by assumption) ?_)
    | (fail_if_no_progress with_reducible refine Kept.upd ?_ (by rfl))

theorem State.doorbell_kept {m : Nat} {r s : State} (h : Kept m r s) a b (hm : Sub 0x603bfc858 m := by exact Sub.le (by assumption) (by decide)) :
    Kept m r (s.doorbell a b) := by
  unfold State.doorbell
  repeat' first
    | with_reducible assumption
    | exact Sub.le (by assumption) (by decide)
    | (extract_lets +onlyGivenNames x; first
      | (have _t : State := by with_reducible apply x
         clear _t; (refine Kept.cut (s := x) ?_ fun _ => ?_) <;> [(unfold x; clear x); (clear_value x; rename' x => y)])
      | (have _t : State := by with_reducible apply x.2
         clear _t; (refine Kept.cut2 (p := x) ?_ fun _ => ?_) <;> [(unfold x; clear x); (clear_value x; rename' x => y)])
      | (clear_value x; rename' x => y)
      | rename' x => y)
    | with_reducible first
      | apply State.doorLoad_kept | apply State.doorRelease_kept
    | split
    | (refine Kept.snd (by assumption) ?_)

theorem State.injBlock_kept {m : Nat} {r s : State} (h : Kept m r s) a b (hm : Sub 0x20010 m := by exact Sub.le (by assumption) (by decide)) :
    Kept m r (s.injBlock a b) := by
  unfold State.injBlock
  repeat' first
    | with_reducible assumption
    | exact Sub.le (by assumption) (by decide)
    | (extract_lets +onlyGivenNames x; first
      | (have _t : State := by with_reducible apply x
         clear _t; (refine Kept.cut (s := x) ?_ fun _ => ?_) <;> [(unfold x; clear x); (clear_value x; rename' x => y)])
      | (have _t : State := by with_reducible apply x.2
         clear _t; (refine Kept.cut2 (p := x) ?_ fun _ => ?_) <;> [(unfold x; clear x); (clear_value x; rename' x => y)])
      | (clear_value x; rename' x => y)
      | rename' x => y)
    | with_reducible first
      | apply State.injCtl_kept | apply State.injWrite_kept | apply State.plainWrite_kept
    | split
    | (refine Kept.snd (by assumption) ?_)

theorem State.ctlEffect_kept {m : Nat} {r s : State} (h : Kept m r s) a b c (hm : Sub 0xf17bffffa m := by exact Sub.le (by assumption) (by decide)) :
    Kept m r (s.ctlEffect a b c) := by
  unfold State.ctlEffect
  repeat' first
    | with_reducible assumption
    | exact Sub.le (by assumption) (by decide)
    | (extract_lets +onlyGivenNames x; first
      | (have _t : State := by with_reducible apply x
         clear _t; (refine Kept.cut (s := x) ?_ fun _ => ?_) <;> [(unfold x; clear x); (clear_value x; rename' x => y)])
      | (have _t : State := by with_reducible apply x.2
         clear _t; (refine Kept.cut2 (p := x) ?_ fun _ => ?_) <;> [(unfold x; clear x); (clear_value x; rename' x => y)])
      | (clear_value x; rename' x => y)
      | rename' x => y)
    | with_reducible first
      | apply State.fieldsWrite_kept | apply State.coxBlock_kept | apply State.stagePatch_kept | apply State.flgBlock_kept
      | apply State.policyWrite_kept | apply State.portCtl_kept | apply State.mcEnt_kept | apply State.mcDesc_kept
      | apply State.recWrite_kept | apply State.msOrig_kept | apply State.msExt_kept | apply State.bind_kept
      | apply State.vtBase_kept | apply State.vtVer_kept | apply State.plainWrite_kept | apply State.passCommand_kept
      | apply State.maintWrite_kept | apply State.fenceRequest_kept | apply State.snpCommand_kept | apply State.winEnt0_kept
      | apply State.winEnt1_kept | apply State.doorbell_kept | apply State.doJobEnd_kept | apply State.ethCtl_kept
      | apply State.bhCommand_kept | apply State.injBlock_kept | apply State.telCtl_kept | apply State.trigWrite_kept
    | split
    | (refine Kept.snd (by assumption) ?_)

theorem State.ctlServe_kept {m : Nat} {r s : State} (h : Kept m r s) a b c (hm : Sub 0xf97bffffa m := by exact Sub.le (by assumption) (by decide)) :
    Kept m r (s.ctlServe a b c) := by
  unfold State.ctlServe; split
  · exact State.joinWait_kept h ..
  · exact State.ctlEffect_kept h ..

theorem ctlPacket_kept {m : Nat} {r s : State} (h : Kept m r s) a b (hm : Sub 0xf97bffffa m := by exact Sub.le (by assumption) (by decide)) :
    Kept m r (ctlPacket s a b) :=
  State.ctlServe_kept h ..

theorem State.serveWaits_kept {m : Nat} {r s : State} (h : Kept m r s) a (hm : Sub 0xf97bffffa m := by exact Sub.le (by assumption) (by decide)) :
    Kept m r (s.serveWaits a) := by
  unfold State.serveWaits
  repeat' first
    | with_reducible assumption
    | exact Sub.le (by assumption) (by decide)
    | intro _
    | (extract_lets +onlyGivenNames x; first
      | (have _t : State := by with_reducible apply x
         clear _t; (refine Kept.cut (s := x) ?_ fun _ => ?_) <;> [(unfold x; clear x); (clear_value x; rename' x => y)])
      | (have _t : State := by with_reducible apply x.2
         clear _t; (refine Kept.cut2 (p := x) ?_ fun _ => ?_) <;> [(unfold x; clear x); (clear_value x; rename' x => y)])
      | (clear_value x; rename' x => y)
      | rename' x => y)
    | with_reducible first
      | apply State.emit_kept | apply State.maintWrite_kept | apply State.ctlEffect_kept | apply Kept.foldl
      | apply Kept.foldl2
    | split
    | (refine Kept.snd (by assumption) ?_)
    | (fail_if_no_progress with_reducible refine Kept.upd ?_ (by rfl))

theorem execRegisterWrite_kept {m : Nat} {r s : State} (h : Kept m r s) a b c d (hm : Sub 0xf97bffffa m := by exact Sub.le (by assumption) (by decide)) :
    KeptRes m r (execRegisterWrite a b c d s) :=
  .of (State.ctlIn_kept h _ _ _ _ _ _ fun _ h => State.ctlEffect_kept h ..)

theorem State.atCycle_kept {m : Nat} {r s t : State} (h : Kept m r t) a b (hm : Sub 0x4000 m := by exact Sub.le (by assumption) (by decide)) : KeptRes m r (s.atCycle a b t) :=
  KeptRes.when (State.clock_kept h ..) ..

theorem execHeatPost_kept {m : Nat} {r s : State} (h : Kept m r s) a b c d (hm : Sub 0x683b7481a m := by exact Sub.le (by assumption) (by decide)) :
    KeptRes m r (execHeatPost a b c d s) :=
  State.atCycle_kept (State.ctlIn_kept h _ _ _ _ _ _ fun _ h => State.doPost_kept h ..) ..

theorem execCoxPatchWrite_kept {m : Nat} {r s : State} (h : Kept m r s) a b c d e f (hm : Sub 0x682b76012 m := by exact Sub.le (by assumption) (by decide)) :
    KeptRes m r (execCoxPatchWrite a b c d e f s) :=
  State.atCycle_kept (State.ctlIn_kept h _ _ _ _ _ _ fun _ h => State.stagePatch_kept h ..) ..

theorem execPrmWrite_kept {m : Nat} {r s : State} (h : Kept m r s) a b c d e (hm : Sub 0x682b76012 m := by exact Sub.le (by assumption) (by decide)) :
    KeptRes m r (execPrmWrite a b c d e s) :=
  State.atCycle_kept (State.ctlIn_kept h _ _ _ _ _ _ fun _ h => State.stagePatch_kept h ..) ..

theorem State.flagStoreIn_kept {m : Nat} {r s : State} (h : Kept m r s) a b c d e (hm : Sub 0x602b76012 m := by exact Sub.le (by assumption) (by decide)) :
    Kept m r (s.flagStoreIn a b c d e) := by
  unfold State.flagStoreIn
  repeat' first
    | with_reducible assumption
    | exact Sub.le (by assumption) (by decide)
    | (extract_lets +onlyGivenNames x; first
      | (have _t : State := by with_reducible apply x
         clear _t; (refine Kept.cut (s := x) ?_ fun _ => ?_) <;> [(unfold x; clear x); (clear_value x; rename' x => y)])
      | (have _t : State := by with_reducible apply x.2
         clear _t; (refine Kept.cut2 (p := x) ?_ fun _ => ?_) <;> [(unfold x; clear x); (clear_value x; rename' x => y)])
      | (clear_value x; rename' x => y)
      | rename' x => y)
    | with_reducible first
      | apply State.accessStatus_kept | apply State.emit_kept | apply State.storeFlag_kept
    | split
    | (refine Kept.snd (by assumption) ?_)

theorem execFlagStore_kept {m : Nat} {r s : State} (h : Kept m r s) a b c d e (hm : Sub 0x602b76012 m := by exact Sub.le (by assumption) (by decide)) :
    KeptRes m r (execFlagStore a b c d e s) :=
  State.atCycle_kept (State.flagStoreIn_kept h ..) ..

theorem execFlagUnpoison_kept {m : Nat} {r s : State} (h : Kept m r s) a b c d (hm : Sub 0x682b74012 m := by exact Sub.le (by assumption) (by decide)) :
    KeptRes m r (execFlagUnpoison a b c d s) :=
  State.atCycle_kept (State.ctlIn_kept h _ _ _ _ _ _ fun _ h => State.unpoison_kept h ..) ..

theorem execCtxRecWrite_kept {m : Nat} {r s : State} (h : Kept m r s) a b c d (hm : Sub 0x682b74012 m := by exact Sub.le (by assumption) (by decide)) :
    KeptRes m r (execCtxRecWrite a b c d s) :=
  .of (State.ctlIn_kept h _ _ _ _ _ _ fun _ h => State.recWrite_kept h ..)

theorem execFabMcEntWrite_kept {m : Nat} {r s : State} (h : Kept m r s) a b (hm : Sub 0x682b74012 m := by exact Sub.le (by assumption) (by decide)) :
    KeptRes m r (execFabMcEntWrite a b s) :=
  .of (State.ctlIn_kept h _ _ _ _ _ _ fun _ h => State.mcEnt_kept h ..)

theorem execColMsOrigWrite_kept {m : Nat} {r s : State} (h : Kept m r s) a b (hm : Sub 0x683b74012 m := by exact Sub.le (by assumption) (by decide)) :
    KeptRes m r (execColMsOrigWrite a b s) :=
  .of (State.ctlIn_kept h _ _ _ _ _ _ fun _ h => State.msOrig_kept h ..)

theorem execColMsExtWrite_kept {m : Nat} {r s : State} (h : Kept m r s) a b (hm : Sub 0x683b7401a m := by exact Sub.le (by assumption) (by decide)) :
    KeptRes m r (execColMsExtWrite a b s) :=
  .of (State.ctlIn_kept h _ _ _ _ _ _ fun _ h => State.msExt_kept h ..)

theorem execColBind_kept {m : Nat} {r s : State} (h : Kept m r s) a b (hm : Sub 0x682b74012 m := by exact Sub.le (by assumption) (by decide)) :
    KeptRes m r (execColBind a b s) :=
  .of (State.ctlIn_kept h _ _ _ _ _ _ fun _ h => State.bind_kept h ..)

theorem execColVtVerWrite_kept {m : Nat} {r s : State} (h : Kept m r s) a b (hm : Sub 0x683b74012 m := by exact Sub.le (by assumption) (by decide)) :
    KeptRes m r (execColVtVerWrite a b s) :=
  .of (State.ctlIn_kept h _ _ _ _ _ _ fun _ h => State.vtVer_kept h ..)

theorem State.doCoreWake_kept {m : Nat} {r s : State} (h : Kept m r s) a b c (hm : Sub 0xf97bffffa m := by exact Sub.le (by assumption) (by decide)) :
    Kept m r (s.doCoreWake a b c) := by
  unfold State.doCoreWake
  repeat' first
    | with_reducible assumption
    | exact Sub.le (by assumption) (by decide)
    | intro _
    | (extract_lets +onlyGivenNames x; first
      | (have _t : State := by with_reducible apply x
         clear _t; (refine Kept.cut (s := x) ?_ fun _ => ?_) <;> [(unfold x; clear x); (clear_value x; rename' x => y)])
      | (have _t : State := by with_reducible apply x.2
         clear _t; (refine Kept.cut2 (p := x) ?_ fun _ => ?_) <;> [(unfold x; clear x); (clear_value x; rename' x => y)])
      | (clear_value x; rename' x => y)
      | rename' x => y)
    | with_reducible first
      | apply State.ctlIn_kept | apply State.ctlEffect_kept | apply State.accessStatus_kept | apply State.emit_kept
      | apply State.joinWait_kept
    | split
    | (refine Kept.snd (by assumption) ?_)

theorem execCoreRegisterWake_kept {m : Nat} {r s : State} (h : Kept m r s) a b c d (hm : Sub 0xf97bffffa m := by exact Sub.le (by assumption) (by decide)) :
    KeptRes m r (execCoreRegisterWake a b c d s) :=
  KeptRes.when (State.doCoreWake_kept h ..) ..

theorem State.doRelock_kept {m : Nat} {r s : State} (h : Kept m r s) a b (hm : Sub 0xf97bffffa m := by exact Sub.le (by assumption) (by decide)) :
    Kept m r (s.doRelock a b) := by
  unfold State.doRelock
  repeat' first
    | with_reducible assumption
    | exact Sub.le (by assumption) (by decide)
    | (extract_lets +onlyGivenNames x; first
      | (have _t : State := by with_reducible apply x
         clear _t; (refine Kept.cut (s := x) ?_ fun _ => ?_) <;> [(unfold x; clear x); (clear_value x; rename' x => y)])
      | (have _t : State := by with_reducible apply x.2
         clear _t; (refine Kept.cut2 (p := x) ?_ fun _ => ?_) <;> [(unfold x; clear x); (clear_value x; rename' x => y)])
      | (clear_value x; rename' x => y)
      | rename' x => y)
    | with_reducible first
      | apply State.bump_kept | apply State.setF_kept | apply State.serveWaits_kept | apply State.setDie_kept

theorem execPllRelock_kept {m : Nat} {r s : State} (h : Kept m r s) a b (hm : Sub 0xf97bffffa m := by exact Sub.le (by assumption) (by decide)) :
    KeptRes m r (execPllRelock a b s) :=
  KeptRes.when (State.doRelock_kept h ..) ..

theorem execTakeoverComplete_kept {m : Nat} {r s : State} (h : Kept m r s) (hm : Sub 0xf97bffffa m := by exact Sub.le (by assumption) (by decide)) :
    KeptRes m r (execTakeoverComplete s) :=
  KeptRes.when (State.serveWaits_kept (State.doTakeover_kept h ..) ..) ..

theorem execAeSlotGrant_kept {m : Nat} {r s : State} (h : Kept m r s) a b (hm : Sub 0xf97bffffa m := by exact Sub.le (by assumption) (by decide)) :
    KeptRes m r (execAeSlotGrant a b s) := by
  unfold execAeSlotGrant
  repeat' first
    | with_reducible assumption
    | exact Sub.le (by assumption) (by decide)
    | intro _
    | with_reducible first
      | exact KeptRes.refused _ | apply KeptRes.when | apply State.clock_kept | apply State.doGrant_kept
      | apply ctlPacket_kept
    | split
    | (refine Kept.snd (by assumption) ?_)

theorem execScratchPiece_kept {m : Nat} {r s : State} (h : Kept m r s) a b (hm : Sub 0xf97bffffa m := by exact Sub.le (by assumption) (by decide)) :
    KeptRes m r (execScratchPiece a b s) := by
  unfold execScratchPiece
  repeat' first
    | with_reducible assumption
    | exact Sub.le (by assumption) (by decide)
    | intro _
    | (extract_lets +onlyGivenNames x; first
      | (have _t : State := by with_reducible apply x
         clear _t; (first | refine KeptRes.cut (s := x) ?_ fun _ => ?_ | refine Kept.cut (s := x) ?_ fun _ => ?_) <;> [(unfold x; clear x); (clear_value x; rename' x => y)])
      | (have _t : State := by with_reducible apply x.2
         clear _t; (first | refine KeptRes.cut2 (p := x) ?_ fun _ => ?_ | refine Kept.cut2 (p := x) ?_ fun _ => ?_) <;> [(unfold x; clear x); (clear_value x; rename' x => y)])
      | (clear_value x; rename' x => y)
      | rename' x => y)
    | with_reducible first
      | exact KeptRes.refused _ | apply KeptRes.of | apply State.settle_kept | apply State.clock_kept
      | apply State.doPiece_kept | apply ctlPacket_kept
    | split
    | (refine Kept.snd (by assumption) ?_)

theorem execTileLand_kept {m : Nat} {r s : State} (h : Kept m r s) a b c (hm : Sub 0xf97bffffa m := by exact Sub.le (by assumption) (by decide)) :
    KeptRes m r (execTileLand a b c s) := by
  unfold execTileLand
  repeat' first
    | with_reducible assumption
    | exact Sub.le (by assumption) (by decide)
    | intro _
    | with_reducible first
      | exact KeptRes.refused _ | apply KeptRes.when | apply State.clock_kept | apply State.putGo_kept | apply ctlPacket_kept
      | apply State.doTileLand_kept
    | split
    | (refine Kept.snd (by assumption) ?_)

theorem execPut_kept {m : Nat} {r s : State} (h : Kept m r s) a (hm : Sub 0xf97bffffa m := by exact Sub.le (by assumption) (by decide)) :
    KeptRes m r (execPut a s) := by
  unfold execPut
  repeat' first
    | with_reducible assumption
    | exact Sub.le (by assumption) (by decide)
    | intro _
    | with_reducible first
      | apply KeptRes.whenWf | apply State.doPutPacket_kept | apply ctlPacket_kept

theorem execPermutePiece_kept {m : Nat} {r s : State} (h : Kept m r s) a (hm : Sub 0xf97bffffa m := by exact Sub.le (by assumption) (by decide)) :
    KeptRes m r (execPermutePiece a s) := by
  unfold execPermutePiece
  repeat' first
    | with_reducible assumption
    | exact Sub.le (by assumption) (by decide)
    | intro _
    | with_reducible first
      | apply KeptRes.whenWf | apply State.doPutPacket_kept | apply ctlPacket_kept

theorem execPutMc_kept {m : Nat} {r s : State} (h : Kept m r s) a (hm : Sub 0xf97bffffa m := by exact Sub.le (by assumption) (by decide)) :
    KeptRes m r (execPutMc a s) := by
  unfold execPutMc
  repeat' first
    | with_reducible assumption
    | exact Sub.le (by assumption) (by decide)
    | intro _
    | with_reducible first
      | apply KeptRes.whenWf | apply State.doPutMc_kept | apply ctlPacket_kept

theorem execJobStart_kept {m : Nat} {r s : State} (h : Kept m r s) a (hm : Sub 0xf97bffffa m := by exact Sub.le (by assumption) (by decide)) :
    KeptRes m r (execJobStart a s) := by
  unfold execJobStart
  repeat' first
    | with_reducible assumption
    | exact Sub.le (by assumption) (by decide)
    | intro _
    | with_reducible first
      | exact KeptRes.refused _ | apply KeptRes.of | apply State.doJobStart_kept | apply ctlPacket_kept
    | split
    | (refine Kept.snd (by assumption) ?_)

theorem State.hostBytes_kept {m : Nat} {r s : State} (h : Kept m r s) a b (hm : Sub 0x40000000 m := by exact Sub.le (by assumption) (by decide)) :
    Kept m r (s.hostBytes a b) :=
  .upd h rfl

theorem State.accessNak_kept {m : Nat} {r s : State} (h : Kept m r s) a b (hm : Sub 0x12 m := by exact Sub.le (by assumption) (by decide)) :
    Kept m r (s.accessNak a b) :=
  State.nak_kept (State.setF_kept h ..) ..

theorem State.hostAccess_kept {m : Nat} {r s : State} (h : Kept m r s) a b c d e f g (hm : Sub 0x602b74010 m := by exact Sub.le (by assumption) (by decide)) :
    Kept m r (s.hostAccess a b c d e f g).2 := by
  unfold State.hostAccess
  repeat' first
    | with_reducible assumption
    | exact Sub.le (by assumption) (by decide)
    | (extract_lets +onlyGivenNames x; first
      | (have _t : State := by with_reducible apply x
         clear _t; (refine Kept.cut (s := x) ?_ fun _ => ?_) <;> [(unfold x; clear x); (clear_value x; rename' x => y)])
      | (have _t : State := by with_reducible apply x.2
         clear _t; (refine Kept.cut2 (p := x) ?_ fun _ => ?_) <;> [(unfold x; clear x); (clear_value x; rename' x => y)])
      | (clear_value x; rename' x => y)
      | rename' x => y)
    | with_reducible first
      | apply State.accessStatus_kept | apply State.reject_kept | apply State.reachable_kept
    | split
    | (refine Kept.snd (by assumption) ?_)

theorem State.doRdmaWrite_kept {m : Nat} {r s : State} (h : Kept m r s) a b c d e (hm : Sub 0xfd7bffffa m := by exact Sub.le (by assumption) (by decide)) : Kept m r (s.doRdmaWrite a b c d e) := by
  unfold State.doRdmaWrite
  extract_lets -underBinder n s1 iss g s2 ack
  have hg : Kept m r g.2 := State.hostAccess_kept (State.bump_kept h ..) ..
  have h2 : Kept m r s2 := State.setQp_kept (State.hostBytes_kept hg ..) ..
  have ha : ∀ s, Kept m r s → Kept m r (ack s) := fun s h => State.emit_kept (State.bump_kept h ..) ..
  split
  · exact State.accessNak_kept hg ..
  split
  · exact ha _ (State.hbmWrite_kept h2 ..)
  · exact ha _ (State.spadWrite_kept h2 ..)
  · exact ha _ (State.storeFlag_kept h2 ..)
  · extract_lets wait s3
    have h3 : Kept m r s3 := State.ctlServe_kept h2 ..
    split
    · exact h3
    · exact ha _ h3
  · exact h2

theorem execRdmaWrite_kept {m : Nat} {r s : State} (h : Kept m r s) a b c d (hm : Sub 0xfd7bffffa m := by exact Sub.le (by assumption) (by decide)) :
    KeptRes m r (execRdmaWrite a b c d s) := by
  unfold execRdmaWrite; split
  · exact .refused _
  · exact KeptRes.whenWf (State.doRdmaWrite_kept h ..) ..

theorem State.doRdmaRead_kept {m : Nat} {r s : State} (h : Kept m r s) a b c d e (hm : Sub 0x6c2b74012 m := by exact Sub.le (by assumption) (by decide)) : Kept m r (s.doRdmaRead a b c d e) := by
  unfold State.doRdmaRead
  extract_lets -underBinder n s1 iss g s2 give
  have hg : Kept m r g.2 := State.hostAccess_kept (State.frameIn_kept h ..) ..
  have h2 : Kept m r s2 := State.setQp_kept (State.hostBytes_kept hg ..) ..
  have ha : ∀ s l, Kept m r s → Kept m r (give s l) := fun s l h => State.emit_kept (State.bump_kept h ..) ..
  split
  · exact State.accessNak_kept hg ..
  split
  · exact ha _ _ (State.hbmRead_kept h2 ..)
  · exact ha _ _ h2
  · exact ha _ _ h2
  · split
    · exact State.joinWait_kept h2 ..
    · exact ha _ _ h2
  · exact h2

theorem execRdmaRead_kept {m : Nat} {r s : State} (h : Kept m r s) a b c d (hm : Sub 0x6c2b74012 m := by exact Sub.le (by assumption) (by decide)) :
    KeptRes m r (execRdmaRead a b c d s) := by
  unfold execRdmaRead; split
  · exact .refused _
  · exact KeptRes.whenWf (State.doRdmaRead_kept h ..) ..

theorem State.coxWrite_kept {m : Nat} {r s : State} (h : Kept m r s) a b c d (hm : Sub 0x603b7781a m := by exact Sub.le (by assumption) (by decide)) :
    Kept m r (s.coxWrite a b c d) := by
  unfold State.coxWrite
  repeat' first
    | with_reducible assumption
    | exact Sub.le (by assumption) (by decide)
    | with_reducible first
      | apply State.coxBlock_kept | apply State.stagePatch_kept | apply State.flgBlock_kept | apply State.plainWrite_kept
    | split
    | (refine Kept.snd (by assumption) ?_)

theorem State.flushHalf_kept {m : Nat} {r s : State} (h : Kept m r s) a b (hm : Sub 0x603b7781a m := by exact Sub.le (by assumption) (by decide)) :
    Kept m r (s.flushHalf a b) := by
  unfold State.flushHalf
  repeat' first
    | with_reducible assumption
    | exact Sub.le (by assumption) (by decide)
    | (extract_lets +onlyGivenNames x; first
      | (have _t : State := by with_reducible apply x
         clear _t; (refine Kept.cut (s := x) ?_ fun _ => ?_) <;> [(unfold x; clear x); (clear_value x; rename' x => y)])
      | (have _t : State := by with_reducible apply x.2
         clear _t; (refine Kept.cut2 (p := x) ?_ fun _ => ?_) <;> [(unfold x; clear x); (clear_value x; rename' x => y)])
      | (clear_value x; rename' x => y)
      | rename' x => y)
    | with_reducible first
      | apply State.coxWrite_kept | apply State.setCox_kept
    | split
    | (refine Kept.snd (by assumption) ?_)

theorem State.blockLoad_kept {m : Nat} {r s : State} (h : Kept m r s) a b c (hm : Sub 0x603b7781a m := by exact Sub.le (by assumption) (by decide)) :
    Kept m r (s.blockLoad a b c).2 := by
  unfold State.blockLoad
  repeat' first
    | with_reducible assumption
    | exact Sub.le (by assumption) (by decide)
    | (extract_lets +onlyGivenNames x; first
      | (have _t : State := by with_reducible apply x
         clear _t; (refine Kept.cut (s := x) ?_ fun _ => ?_) <;> [(unfold x; clear x); (clear_value x; rename' x => y)])
      | (have _t : State := by with_reducible apply x.2
         clear _t; (refine Kept.cut2 (p := x) ?_ fun _ => ?_) <;> [(unfold x; clear x); (clear_value x; rename' x => y)])
      | (clear_value x; rename' x => y)
      | rename' x => y)
    | with_reducible first
      | apply State.flushHalf_kept | apply State.setCox_kept
    | split
    | (refine Kept.snd (by assumption) ?_)

theorem State.blockStore_kept {m : Nat} {r s : State} (h : Kept m r s) a b c d (hm : Sub 0x603b7781a m := by exact Sub.le (by assumption) (by decide)) :
    Kept m r (s.blockStore a b c d) := by
  unfold State.blockStore
  repeat' first
    | with_reducible assumption
    | exact Sub.le (by assumption) (by decide)
    | (extract_lets +onlyGivenNames x; first
      | (have _t : State := by with_reducible apply x
         clear _t; (refine Kept.cut (s := x) ?_ fun _ => ?_) <;> [(unfold x; clear x); (clear_value x; rename' x => y)])
      | (have _t : State := by with_reducible apply x.2
         clear _t; (refine Kept.cut2 (p := x) ?_ fun _ => ?_) <;> [(unfold x; clear x); (clear_value x; rename' x => y)])
      | (clear_value x; rename' x => y)
      | rename' x => y)
    | with_reducible first
      | apply State.setCox_kept | apply State.coxWrite_kept | apply State.flushHalf_kept
    | split
    | (refine Kept.snd (by assumption) ?_)

theorem State.coxTrap_kept {m : Nat} {r s : State} (h : Kept m r s) a b c d e f (hm : Sub 0x602b75010 m := by exact Sub.le (by assumption) (by decide)) :
    Kept m r (s.coxTrap a b c d e f) := by
  unfold State.coxTrap
  repeat' first
    | with_reducible assumption
    | exact Sub.le (by assumption) (by decide)
    | (extract_lets +onlyGivenNames x; first
      | (have _t : State := by with_reducible apply x
         clear _t; (refine Kept.cut (s := x) ?_ fun _ => ?_) <;> [(unfold x; clear x); (clear_value x; rename' x => y)])
      | (have _t : State := by with_reducible apply x.2
         clear _t; (refine Kept.cut2 (p := x) ?_ fun _ => ?_) <;> [(unfold x; clear x); (clear_value x; rename' x => y)])
      | (clear_value x; rename' x => y)
      | rename' x => y)
    | with_reducible first
      | apply State.setCox_kept | apply State.wr_kept | apply State.setF_kept | apply State.record_kept
    | split
    | (refine Kept.snd (by assumption) ?_)

/-- The state an instruction's result holds. -/
def KeptCox (m : Nat) (r : State) : CoxRes → Prop
  | .ok s _ _ _ => Kept m r s
  | .trap s _ _ => Kept m r s
  | .stall => True

theorem State.coxLoad_kept {m : Nat} {r s : State} (h : Kept m r s) a b c d e f (hm : Sub 0x603b7781a m := by exact Sub.le (by assumption) (by decide)) : KeptCox m r (s.coxLoad a b c d e f) := by
  unfold State.coxLoad
  extract_lets n g
  repeat' split
  all_goals first | exact h | exact trivial | exact State.blockLoad_kept h ..

theorem State.coxStore_kept {m : Nat} {r s : State} (h : Kept m r s) a b c d e f (hm : Sub 0x603b7781a m := by exact Sub.le (by assumption) (by decide)) : KeptCox m r (s.coxStore a b c d e f) := by
  unfold State.coxStore
  extract_lets n g
  repeat' split
  all_goals first | exact h | exact trivial | exact State.blockStore_kept h .. | exact State.setCox_kept h ..

theorem State.coxSystem_kept {m : Nat} {r s : State} (h : Kept m r s) a b c (hm : Sub 0x603b7781a m := by exact Sub.le (by assumption) (by decide)) : KeptCox m r (s.coxSystem a b c) := by
  unfold State.coxSystem
  extract_lets -underBinder g rd rs1 n f3 ill
  have hi : KeptCox m r ill := h
  split
  · split
    · exact h
    split
    · exact h
    split
    · exact State.setCox_kept h ..
    split
    · exact State.setCox_kept h ..
    · exact hi
  split
  · exact hi
  split
  · exact hi
  extract_lets -underBinder src writes v
  split
  · exact hi
  · change Kept m r (if writes then s.setCox a _ else s)
    split
    · exact State.setCox_kept h ..
    · exact h

theorem State.coxInsn_kept {m : Nat} {r s : State} (h : Kept m r s) a b c d (hm : Sub 0x603b7781a m := by exact Sub.le (by assumption) (by decide)) : KeptCox m r (s.coxInsn a b c d) := by
  unfold State.coxInsn
  extract_lets -underBinder g pc next rd f3 x y f7 w immI immS immB immU immJ ill
  have hi : KeptCox m r ill := h
  split
  case h_6 => split <;> rename_i e <;> have k := State.coxLoad_kept h a b f3 rd (x + immI) next <;> first | (rw [e] at k; exact k) | exact k
  case h_7 => split <;> rename_i e <;> have k := State.coxStore_kept h a b f3 (x + immS) y next <;> first | (rw [e] at k; exact k) | exact k
  all_goals repeat' split
  all_goals first | exact hi | exact h | exact State.coxSystem_kept h ..

theorem State.coxFetch_kept {m : Nat} {r s : State} (h : Kept m r s) a b (hm : Sub 0x603b7781a m := by exact Sub.le (by assumption) (by decide)) : KeptCox m r (s.coxFetch a b) := by
  unfold State.coxFetch
  extract_lets -underBinder g n
  repeat' split
  all_goals first | exact h | exact State.coxInsn_kept h ..

theorem State.doCox_kept {m : Nat} {r s : State} (h : Kept m r s) a b (hm : Sub 0x603b7781a m := by exact Sub.le (by assumption) (by decide)) : Kept m r (s.doCox a b) := by
  unfold State.doCox
  extract_lets -underBinder g0 s1 i s2
  have h2 : Kept m r s2 := State.inject_kept (State.setCox_kept h ..) ..
  split
  · exact State.coxTrap_kept h2 ..
  extract_lets -underBinder g irq s3
  split
  · exact State.coxTrap_kept h2 ..
  have h3 : Kept m r s3 := by
    unfold s3; split
    · exact State.setCox_kept h2 ..
    · exact h2
  have k := State.coxFetch_kept h3 a b
  split <;> rename_i e <;> rw [e] at k
  · exact State.bump_kept (State.setCox_kept k ..) ..
  · exact State.coxTrap_kept k ..
  · exact State.setF_kept h3 ..

theorem execCoxInstruction_kept {m : Nat} {r s : State} (h : Kept m r s) a b (hm : Sub 0x603b7781a m := by exact Sub.le (by assumption) (by decide)) :
    KeptRes m r (execCoxInstruction a b s) :=
  KeptRes.when (State.clock_kept (State.doCox_kept h ..) ..) ..

end Sys2Proof.Machine
end

