-- ==== Sys2Proof/Laws/KeptStep.lean ====
section
/-! SUPPORT. What `Kept` says of every command, and of a step. -/

set_option linter.unusedVariables false

namespace Sys2Proof.Machine

set_option Elab.async false

open Sys2Proof

/-- A list of parts as a set. -/
def maskOf (l : List Part) : Nat := l.foldl (fun m f => m ||| 2 ^ f.ctorIdx) 0

theorem maskOf_aux (l : List Part) (f : Part) (m : Nat) :
    (l.foldl (fun m f => m ||| 2 ^ f.ctorIdx) m).testBit f.ctorIdx = (m.testBit f.ctorIdx || l.contains f) := by
  induction l generalizing m with
  | nil => simp
  | cons g l ih =>
    have e : (f.ctorIdx = g.ctorIdx) ↔ f = g := by cases f <;> cases g <;> simp [Part.ctorIdx]
    simp [ih, Nat.testBit_or, Nat.testBit_two_pow, Bool.or_assoc]
    rcases Decidable.em (f = g) with h | h
    · subst h; simp
    · have : ¬ g.ctorIdx = f.ctorIdx := fun x => h (e.mp x.symm)
      simp [h, this]

/-- A part's bit is set just where the part is listed. -/
theorem testBit_maskOf (l : List Part) (f : Part) : (maskOf l).testBit f.ctorIdx = l.contains f := by
  unfold maskOf; rw [maskOf_aux]; simp

/-- Whatever the command, it disturbs nothing that `Kept` names, and no part but its own. -/
theorem exec_kept {m : Nat} {r s : State} (h : Kept m r s) (c : Instr) (hm : Sub (maskOf (touches c)) m) : KeptRes m r (exec c s) := by
  cases c with
  | vin36InRange => exact execVin36InRange_kept (hm := hm) h ..
  | announcementResend => exact execAnnouncementResend_kept (hm := hm) h ..
  | romRecoveryImage => exact execRomRecoveryImage_kept (hm := hm) h ..
  | vinRange => exact execVinRange_kept (hm := hm) h ..
  | vinRangeRelease => exact execVinRangeRelease_kept (hm := hm) h ..
  | undervoltageShutdown => exact execUndervoltageShutdown_kept (hm := hm) h ..
  | undervoltageRecovery => exact execUndervoltageRecovery_kept (hm := hm) h ..
  | overvoltageShutdown => exact execOvervoltageShutdown_kept (hm := hm) h ..
  | alwaysOnStop => exact execAlwaysOnStop_kept (hm := hm) h ..
  | resetNAssert => exact execResetNAssert_kept (hm := hm) h ..
  | resetNRelease => exact execResetNRelease_kept (hm := hm) h ..
  | aoRefclkLoss => exact execAoRefclkLoss_kept (hm := hm) h ..
  | aoRefclkReturn => exact execAoRefclkReturn_kept (hm := hm) h ..
  | srefclkLoss => exact execSrefclkLoss_kept (hm := hm) h ..
  | srefclkReturn => exact execSrefclkReturn_kept (hm := hm) h ..
  | lockstepMismatch => exact execLockstepMismatch_kept (hm := hm) h ..
  | heartbeatMiss => exact execHeartbeatMiss_kept (hm := hm) h ..
  | takeoverComplete => exact execTakeoverComplete_kept (hm := hm) h ..
  | boathouseLost => exact execBoathouseLost_kept (hm := hm) h ..
  | registerWrite => exact execRegisterWrite_kept (hm := hm) h ..
  | coreRegisterWake => exact execCoreRegisterWake_kept (hm := hm) h ..
  | opOuter => exact execOpOuter_kept (hm := hm) h ..
  | productCycle => exact execProductCycle_kept (hm := hm) h ..
  | productCycleLand => exact execProductCycleLand_kept (hm := hm) h ..
  | opCatch => exact execOpCatch_kept (hm := hm) h ..
  | opDrain => exact execOpDrain_kept (hm := hm) h ..
  | drainRow => exact execDrainRow_kept (hm := hm) h ..
  | drainTileComplete => exact execDrainTileComplete_kept (hm := hm) h ..
  | opLoad => exact execOpLoad_kept (hm := hm) h ..
  | loadRow => exact execLoadRow_kept (hm := hm) h ..
  | opRow => exact execOpRow_kept (hm := hm) h ..
  | rowOpRow => exact execRowOpRow_kept (hm := hm) h ..
  | opChain => exact execOpChain_kept (hm := hm) h ..
  | chainRow => exact execChainRow_kept (hm := hm) h ..
  | vecArith => exact execVecArith_kept (hm := hm) h ..
  | vecCvt => exact execVecCvt_kept (hm := hm) h ..
  | vecTranscendental => exact execVecTranscendental_kept (hm := hm) h ..
  | vecReduce => exact execVecReduce_kept (hm := hm) h ..
  | vecLd => exact execVecLd_kept (hm := hm) h ..
  | vecSt => exact execVecSt_kept (hm := hm) h ..
  | vecResultLand => exact execVecResultLand_kept (hm := hm) h ..
  | scratchPiece => exact execScratchPiece_kept (hm := hm) h ..
  | tileFetch => exact execTileFetch_kept (hm := hm) h ..
  | tilePut => exact execTilePut_kept (hm := hm) h ..
  | tileGather => exact execTileGather_kept (hm := hm) h ..
  | tileRelay => exact execTileRelay_kept (hm := hm) h ..
  | tileDrop => exact execTileDrop_kept (hm := hm) h ..
  | tileUnpin => exact execTileUnpin_kept (hm := hm) h ..
  | aeSlotGrant => exact execAeSlotGrant_kept (hm := hm) h ..
  | tokenRefill => exact execTokenRefill_kept (hm := hm) h ..
  | quotaRelease => exact execQuotaRelease_kept (hm := hm) h ..
  | mergeTimeout => exact execMergeTimeout_kept (hm := hm) h ..
  | pcServe => exact execPcServe_kept (hm := hm) h ..
  | bankqRetry => exact execBankqRetry_kept (hm := hm) h ..
  | tileLand => exact execTileLand_kept (hm := hm) h ..
  | relayHop => exact execRelayHop_kept (hm := hm) h ..
  | zeroProbeResult => exact execZeroProbeResult_kept (hm := hm) h ..
  | flagSet => exact execFlagSet_kept (hm := hm) h ..
  | flagClear => exact execFlagClear_kept (hm := hm) h ..
  | fenceLocal => exact execFenceLocal_kept (hm := hm) h ..
  | fenceFabric => exact execFenceFabric_kept (hm := hm) h ..
  | fenceRelease => exact execFenceRelease_kept (hm := hm) h ..
  | fenceWatchdogExpire => exact execFenceWatchdogExpire_kept (hm := hm) h ..
  | heatForecast => exact execHeatForecast_kept (hm := hm) h ..
  | forecastLapse => exact execForecastLapse_kept (hm := hm) h ..
  | atomAdd => exact execAtomAdd_kept (hm := hm) h ..
  | atomAnd => exact execAtomAnd_kept (hm := hm) h ..
  | atomOr => exact execAtomOr_kept (hm := hm) h ..
  | atomXor => exact execAtomXor_kept (hm := hm) h ..
  | atomUmax => exact execAtomUmax_kept (hm := hm) h ..
  | atomUmin => exact execAtomUmin_kept (hm := hm) h ..
  | atomSwap => exact execAtomSwap_kept (hm := hm) h ..
  | atomCas => exact execAtomCas_kept (hm := hm) h ..
  | collAllreduce => exact execCollAllreduce_kept (hm := hm) h ..
  | collRscatter => exact execCollRscatter_kept (hm := hm) h ..
  | collAllgather => exact execCollAllgather_kept (hm := hm) h ..
  | collBcast => exact execCollBcast_kept (hm := hm) h ..
  | collPermute => exact execCollPermute_kept (hm := hm) h ..
  | collEpoch => exact execCollEpoch_kept (hm := hm) h ..
  | collStart => exact execCollStart_kept (hm := hm) h ..
  | epochFenceDrained => exact execEpochFenceDrained_kept (hm := hm) h ..
  | collComplete => exact execCollComplete_kept (hm := hm) h ..
  | coxInstruction => exact execCoxInstruction_kept (hm := hm) h ..
  | heatPost => exact execHeatPost_kept (hm := hm) h ..
  | coxPatchWrite => exact execCoxPatchWrite_kept (hm := hm) h ..
  | prmWrite => exact execPrmWrite_kept (hm := hm) h ..
  | patchWindow => exact execPatchWindow_kept (hm := hm) h ..
  | replayNear => exact execReplayNear_kept (hm := hm) h ..
  | heatChoice => exact execHeatChoice_kept (hm := hm) h ..
  | heatStart => exact execHeatStart_kept (hm := hm) h ..
  | heatEnd => exact execHeatEnd_kept (hm := hm) h ..
  | gateWatchdogExpire => exact execGateWatchdogExpire_kept (hm := hm) h ..
  | grantRecompute => exact execGrantRecompute_kept (hm := hm) h ..
  | bucketWindow => exact execBucketWindow_kept (hm := hm) h ..
  | reserveRefill => exact execReserveRefill_kept (hm := hm) h ..
  | oppStep => exact execOppStep_kept (hm := hm) h ..
  | droopTrip => exact execDroopTrip_kept (hm := hm) h ..
  | droopEnd => exact execDroopEnd_kept (hm := hm) h ..
  | droopSustained => exact execDroopSustained_kept (hm := hm) h ..
  | thermalSample => exact execThermalSample_kept (hm := hm) h ..
  | thermalRestore => exact execThermalRestore_kept (hm := hm) h ..
  | calibration => exact execCalibration_kept (hm := hm) h ..
  | driftInterval => exact execDriftInterval_kept (hm := hm) h ..
  | clusterRetain => exact execClusterRetain_kept (hm := hm) h ..
  | clusterWake => exact execClusterWake_kept (hm := hm) h ..
  | pllStop => exact execPllStop_kept (hm := hm) h ..
  | pllRelock => exact execPllRelock_kept (hm := hm) h ..
  | flagStore => exact execFlagStore_kept (hm := hm) h ..
  | flagUnpoison => exact execFlagUnpoison_kept (hm := hm) h ..
  | signalApply => exact execSignalApply_kept (hm := hm) h ..
  | linkGroupReceive => exact execLinkGroupReceive_kept (hm := hm) h ..
  | packetForward => exact execPacketForward_kept (hm := hm) h ..
  | escWaitExpire => exact execEscWaitExpire_kept (hm := hm) h ..
  | tailTimeout => exact execTailTimeout_kept (hm := hm) h ..
  | cutEndReceive => exact execCutEndReceive_kept (hm := hm) h ..
  | put => exact execPut_kept (hm := hm) h ..
  | permutePiece => exact execPermutePiece_kept (hm := hm) h ..
  | putMc => exact execPutMc_kept (hm := hm) h ..
  | loadReq => exact execLoadReq_kept (hm := hm) h ..
  | loadRsp => exact execLoadRsp_kept (hm := hm) h ..
  | atomic => exact execAtomic_kept (hm := hm) h ..
  | atomicRsp => exact execAtomicRsp_kept (hm := hm) h ..
  | completion => exact execCompletion_kept (hm := hm) h ..
  | ctrl => exact execCtrl_kept (hm := hm) h ..
  | mgmt => exact execMgmt_kept (hm := hm) h ..
  | collData => exact execCollData_kept (hm := hm) h ..
  | collReady => exact execCollReady_kept (hm := hm) h ..
  | epochClose => exact execEpochClose_kept (hm := hm) h ..
  | retryTimeout => exact execRetryTimeout_kept (hm := hm) h ..
  | resendDelay => exact execResendDelay_kept (hm := hm) h ..
  | rxStreamFree => exact execRxStreamFree_kept (hm := hm) h ..
  | txStreamFree => exact execTxStreamFree_kept (hm := hm) h ..
  | ctxRecordLoad => exact execCtxRecordLoad_kept (hm := hm) h ..
  | ctxCopyResync => exact execCtxCopyResync_kept (hm := hm) h ..
  | ctxRecWrite => exact execCtxRecWrite_kept (hm := hm) h ..
  | portRetrain => exact execPortRetrain_kept (hm := hm) h ..
  | portRetrainDone => exact execPortRetrainDone_kept (hm := hm) h ..
  | fabMcEntWrite => exact execFabMcEntWrite_kept (hm := hm) h ..
  | colMsOrigWrite => exact execColMsOrigWrite_kept (hm := hm) h ..
  | colMsExtWrite => exact execColMsExtWrite_kept (hm := hm) h ..
  | colBind => exact execColBind_kept (hm := hm) h ..
  | colVtVerWrite => exact execColVtVerWrite_kept (hm := hm) h ..
  | pass1 => exact execPass1_kept (hm := hm) h ..
  | pass2 => exact execPass2_kept (hm := hm) h ..
  | scribeEntryStart => exact execScribeEntryStart_kept (hm := hm) h ..
  | releaseWatchdogExpire => exact execReleaseWatchdogExpire_kept (hm := hm) h ..
  | scribePassComplete => exact execScribePassComplete_kept (hm := hm) h ..
  | jobReset => exact execJobReset_kept (hm := hm) h ..
  | autoRestore => exact execAutoRestore_kept (hm := hm) h ..
  | snapshot => exact execSnapshot_kept (hm := hm) h ..
  | restore => exact execRestore_kept (hm := hm) h ..
  | ship => exact execShip_kept (hm := hm) h ..
  | recover => exact execRecover_kept (hm := hm) h ..
  | preempt => exact execPreempt_kept (hm := hm) h ..
  | resume => exact execResume_kept (hm := hm) h ..
  | snapshotStop => exact execSnapshotStop_kept (hm := hm) h ..
  | boundaryTimeout => exact execBoundaryTimeout_kept (hm := hm) h ..
  | quiesceTimeout => exact execQuiesceTimeout_kept (hm := hm) h ..
  | quiesceComplete => exact execQuiesceComplete_kept (hm := hm) h ..
  | snapshotCopyComplete => exact execSnapshotCopyComplete_kept (hm := hm) h ..
  | drainLayerComplete => exact execDrainLayerComplete_kept (hm := hm) h ..
  | drainFailed => exact execDrainFailed_kept (hm := hm) h ..
  | restoreVerify => exact execRestoreVerify_kept (hm := hm) h ..
  | fence => exact execFence_kept (hm := hm) h ..
  | unfence => exact execUnfence_kept (hm := hm) h ..
  | scrub => exact execScrub_kept (hm := hm) h ..
  | repair => exact execRepair_kept (hm := hm) h ..
  | reeq => exact execReeq_kept (hm := hm) h ..
  | cal => exact execCal_kept (hm := hm) h ..
  | patch => exact execPatch_kept (hm := hm) h ..
  | scrubPeriod => exact execScrubPeriod_kept (hm := hm) h ..
  | maintStart => exact execMaintStart_kept (hm := hm) h ..
  | maintComplete => exact execMaintComplete_kept (hm := hm) h ..
  | snapDeferTimeout => exact execSnapDeferTimeout_kept (hm := hm) h ..
  | patchCommit => exact execPatchCommit_kept (hm := hm) h ..
  | load => exact execLoad_kept (hm := hm) h ..
  | release => exact execRelease_kept (hm := hm) h ..
  | jobStart => exact execJobStart_kept (hm := hm) h ..
  | jobEnd => exact execJobEnd_kept (hm := hm) h ..
  | rdmaWrite => exact execRdmaWrite_kept (hm := hm) h ..
  | rdmaRead => exact execRdmaRead_kept (hm := hm) h ..
  | invalidRequest => exact execInvalidRequest_kept (hm := hm) h ..
  | cnpReceive => exact execCnpReceive_kept (hm := hm) h ..
  | ecnMarkReceive => exact execEcnMarkReceive_kept (hm := hm) h ..
  | pfcPause => exact execPfcPause_kept (hm := hm) h ..
  | arpRequest => exact execArpRequest_kept (hm := hm) h ..
  | neighbourSolicitation => exact execNeighbourSolicitation_kept (hm := hm) h ..
  | ethLink => exact execEthLink_kept (hm := hm) h ..
  | getVersion => exact execGetVersion_kept (hm := hm) h ..
  | getCapabilities => exact execGetCapabilities_kept (hm := hm) h ..
  | negotiateAlgorithms => exact execNegotiateAlgorithms_kept (hm := hm) h ..
  | getDigests => exact execGetDigests_kept (hm := hm) h ..
  | getCertificate => exact execGetCertificate_kept (hm := hm) h ..
  | challenge => exact execChallenge_kept (hm := hm) h ..
  | getMeasurements => exact execGetMeasurements_kept (hm := hm) h ..
  | unsupportedRequest => exact execUnsupportedRequest_kept (hm := hm) h ..
  | entdaa => exact execEntdaa_kept (hm := hm) h ..
  | setdasa => exact execSetdasa_kept (hm := hm) h ..
  | reload => exact execReload_kept (hm := hm) h ..
  | copybookWrite => exact execCopybookWrite_kept (hm := hm) h ..
  | mirror => exact execMirror_kept (hm := hm) h ..
  | commitSvn => exact execCommitSvn_kept (hm := hm) h ..
  | mirrorPeriodic => exact execMirrorPeriodic_kept (hm := hm) h ..
  | mirrorComplete => exact execMirrorComplete_kept (hm := hm) h ..
  | thresholdWindowClose => exact execThresholdWindowClose_kept (hm := hm) h ..
  | injectArm => exact execInjectArm_kept (hm := hm) h ..
  | injectDisable => exact execInjectDisable_kept (hm := hm) h ..
  | captureGo => exact execCaptureGo_kept (hm := hm) h ..
  | capturePeriodic => exact execCapturePeriodic_kept (hm := hm) h ..
  | captureComplete => exact execCaptureComplete_kept (hm := hm) h ..
  | jtagInstruction => exact execJtagInstruction_kept (hm := hm) h ..
  | jtagTestLogicReset => exact execJtagTestLogicReset_kept (hm := hm) h ..
  | pcieLinkDown => exact execPcieLinkDown_kept (hm := hm) h ..
  | pllUnlock => exact execPllUnlock_kept (hm := hm) h ..
  | ethFcs => exact execEthFcs_kept (hm := hm) h ..

/-- What a command leaves alone. -/
theorem exec_same {c : Instr} {s t : State} (e : exec c s = .next t) (f : Part) (n : f ∉ touches c) : f.same s t :=
  ((exec_kept (.refl _ s) c ⟨Nat.and_self _⟩).next t e).same f (by rw [testBit_maskOf]; simpa using n)

end Sys2Proof.Machine
end

