-- ==== Sys2Proof/Laws/Record.lean ====
section
/-! SUPPORT. Recording an occurrence leaves the registers of the compute dies and of the cores alone: the rings, the job
states and the fence maps it writes lie elsewhere in control space. -/

namespace Sys2Proof.Machine

set_option Elab.async false

open Sys2Proof

/-- The registers of the compute dies and of their cores hold the same. -/
def UnitRegs (s t : State) : Prop := ∀ a, 0x100_0000 ≤ a → a < 0x300_0000 → t.rd a = s.rd a

theorem UnitRegs.refl (s : State) : UnitRegs s s := fun _ _ _ => rfl

theorem UnitRegs.wr {s t : State} (h : UnitRegs s t) {a : Nat} (v : Word) (n : a < 0x100_0000 ∨ 0x300_0000 ≤ a) :
    UnitRegs s (t.wr a v) := fun b x y => by rw [State.rd_wr_ne _ _ _ _ (by omega)]; exact h b x y

theorem UnitRegs.setF {s t : State} (h : UnitRegs s t) {a : Nat} (f : Nat × Nat) (v : Nat)
    (n : a < 0x100_0000 ∨ 0x300_0000 ≤ a) : UnitRegs s (t.setF a f v) := h.wr _ n

theorem UnitRegs.setBit {s t : State} (h : UnitRegs s t) {a : Nat} (i : Nat) (b : Bool)
    (n : a < 0x100_0000 ∨ 0x300_0000 ≤ a) : UnitRegs s (t.setBit a i b) := h.wr _ n

theorem UnitRegs.bump {s t : State} (h : UnitRegs s t) {a : Nat} (v : Nat)
    (n : a < 0x100_0000 ∨ 0x300_0000 ≤ a) : UnitRegs s (t.bump a v) := by
  unfold State.bump; split
  · exact h
  · exact h.wr _ n

theorem UnitRegs.same {s t u : State} (h : UnitRegs s t) (e : u.regs = t.regs) : UnitRegs s u := fun a x y => by
  rw [← h a x y]; unfold State.rd; rw [e]

theorem UnitRegs.ite {s u v : State} {c : Prop} [Decidable c] (hu : UnitRegs s u) (hv : UnitRegs s v) :
    UnitRegs s (if c then u else v) := by split <;> assumption

theorem UnitRegs.foldl {s : State} {α : Type} {f : State → α → State} (l : List α) {t : State} (h : UnitRegs s t)
    (k : ∀ u x, x ∈ l → UnitRegs s u → UnitRegs s (f u x)) : UnitRegs s (l.foldl f t) := by
  induction l generalizing t with
  | nil => exact h
  | cons x l ih => exact ih (k t x (by simp) h) fun u y m => k u y (List.mem_cons_of_mem _ m)

theorem detector_lt {k : Nat} {d : Detector} (h : detector k = some d) : k < 128 := by
  unfold detector at h
  split at h <;> first | omega | cases h

theorem unitRing_lt (k i : Nat) (h : ∀ l, k = 11 → i = l → l < 56) : unitRing k i < 10 := by
  unfold unitRing
  have u : ∀ d, d % 8 < 10 := by omega
  split
  · omega
  · omega
  · omega
  · have := h i rfl rfl
    dsimp only; split <;> try omega
    split <;> try omega
    split <;> try omega
    split <;> omega
  · omega
  · omega
  · split
    · omega
    · omega

theorem State.tenOfDie_lt {s : State} {d t : Nat} (h : s.tenOfDie d = some t) : t < 8 :=
  List.mem_range.1 (List.mem_of_find?_eq_some h)

theorem UnitRegs.ringWrite {s t : State} (h : UnitRegs s t) (o : Occ) (a : Nat) (hr : unitRing o.kind o.idx < 10) :
    UnitRegs s (t.ringWrite o a) := by
  unfold State.ringWrite
  extract_lets r wa seq lost b w0 ten heat w2 key rep w rec_ e u v x
  have hu : UnitRegs s u := h.same rfl
  have hv : UnitRegs s v := hu.setF _ _ (.inl (by simp only [wa, r, R.ERR_RING_WSEQ, Blk.base]; omega))
  have hx : UnitRegs s x := by
    unfold x; split
    · exact hv.setBit _ _ (.inl (by decide))
    · exact hv
  split
  · exact hx.setBit _ _ (.inl (by decide))
  · exact hx

theorem UnitRegs.abandonSnap {s t : State} (h : UnitRegs s t) (k : Nat) (hk : k < 8) : UnitRegs s (t.abandonSnap k) := by
  unfold State.abandonSnap
  split
  · extract_lets e1 e2 u v w
    have hu : UnitRegs s u := h.same rfl
    have hv : UnitRegs s v := by
      unfold v; split
      · exact (hu.setF _ _ (.inl (by decide))).bump _ (.inl (by decide))
      · exact hu
    have hw : UnitRegs s w := (hv.setF _ _ (.inl (by simp [R.SNP_T_STAT, Blk.base]; omega))).setF _ _ (.inl (by decide))
    exact (hw.bump _ (.inl (by decide))).ringWrite _ _ (by show unitRing 15 k < 10; simp [unitRing, unitDie])
  · exact h

theorem UnitRegs.recover {s t : State} (h : UnitRegs s t) (k c : Nat) (hk : k < 8) : UnitRegs s (t.recover k c) := by
  unfold State.recover
  split
  · extract_lets u v
    refine UnitRegs.abandonSnap (t := v.endHeats k) (UnitRegs.foldl _ ?_ fun u d _ hu => hu.same rfl) _ hk
    have n : R.SNP_T_STAT k < 0x100_0000 ∨ 0x300_0000 ≤ R.SNP_T_STAT k := .inl (by simp [R.SNP_T_STAT, Blk.base]; omega)
    exact (h.setF _ _ n).setF _ _ n
  · exact h

theorem UnitRegs.recoverUse {s t : State} (h : UnitRegs s t) (b : Bool) (d : Nat) : UnitRegs s (t.recoverUse b d) := by
  unfold State.recoverUse State.recoverDie
  split
  · split
    · exact h.recover _ _ (State.tenOfDie_lt ‹_›)
    · exact h
  · exact h

theorem UnitRegs.palPut {s t : State} (h : UnitRegs s t) (b : Bool) (a : Nat) : UnitRegs s (t.palPut b a) := by
  unfold State.palPut
  extract_lets u
  have hu : UnitRegs s u := by
    unfold u; split
    · exact h.bump _ (.inl (by decide))
    · exact h
  exact hu.same rfl

/-- Units a record may name here: the package, a die, a core, an engine, a stack, a pseudo-channel, a scribe, a sub-port or a
tenancy. -/
def CoreUnit (kind idx : Nat) : Prop :=
  kind = kDie ∨ (kind = kCore ∧ idx < 256) ∨ (kind = kEngine ∧ idx < 768) ∨ kind = kPackage ∨ (kind = kStack ∧ idx < 32) ∨
    (kind = kPc ∧ idx < 2048) ∨ (kind = kScribe ∧ idx < 32) ∨ kind = kTen ∨ kind = kEth

theorem UnitRegs.killScribe {s t : State} (h : UnitRegs s t) (k : Nat) : UnitRegs s (t.killScribe k) :=
  UnitRegs.setF (h.same rfl) _ _ (.inr (by simp [R.SCB_STAT, Blk.base]; omega))

theorem UnitRegs.fenceUnit {s t : State} (h : UnitRegs s t) (k i : Nat) (hk : CoreUnit k i) : UnitRegs s (t.fenceUnit k i) := by
  unfold State.fenceUnit
  refine UnitRegs.same (t := t.fenceUnit0 k i) ?_ rfl
  have he : ∀ u : State, UnitRegs s u → UnitRegs s (u.setF R.MNT_EVENT F.MNT_EVENT_FENCE_ADDED 1) :=
    fun u hu => hu.setF _ _ (.inl (by decide))
  have hs : ∀ (u : State) (k i : Nat), UnitRegs s u →
      UnitRegs s (((u.killScribe k).setBit R.MNT_FENCE_STACK i true).palPut true R.MNT_FENCE_STACK) :=
    fun u k i hu => ((hu.killScribe k).setBit _ _ (.inl (by decide))).palPut _ _
  rcases hk with rfl | ⟨rfl, hi⟩ | ⟨rfl, hi⟩ | rfl | ⟨rfl, hi⟩ | ⟨rfl, hi⟩ | ⟨rfl, hi⟩ | rfl | rfl
  · exact h
  · exact (((he _ h).setBit _ _ (.inl (by simp [R.MNT_FENCE_CORE, Blk.base]; omega))).palPut _ _).recoverUse _ _
  · exact (((he _ h).setBit _ _ (.inl (by simp [R.MNT_FENCE_CORE, Blk.base]; omega))).palPut _ _).recoverUse _ _
  · exact h
  · exact (hs _ _ _ (he _ h)).recoverUse _ _
  · simp only [State.fenceUnit0]
    have hw := ((he _ h).setBit (a := R.HBM_PC_FENCE (i / 64)) (i % 64) true
      (.inr (by simp [R.HBM_PC_FENCE, Blk.base]; omega))).palPut true (R.HBM_PC_FENCE (i / 64))
    have hx := hw.setF (a := R.HBM_STAT (i / 64)) F.HBM_STAT_PC_FENCED
      ((((t.setF R.MNT_EVENT F.MNT_EVENT_FENCE_ADDED 1).setBit (R.HBM_PC_FENCE (i / 64)) (i % 64) true).palPut true
        (R.HBM_PC_FENCE (i / 64))).pcFencedCount (i / 64)) (.inr (by simp [R.HBM_STAT, Blk.base]; omega))
    exact UnitRegs.recoverUse (UnitRegs.ite (hs _ _ _ hx) hx) _ _
  · exact (((UnitRegs.killScribe (he _ h) _).setBit _ _ (.inl (by decide))).palPut _ _).recoverUse _ _
  · exact h
  · exact h

theorem State.unitTen_lt {s : State} {k i t : Nat} (hk : CoreUnit k i) (h : s.unitTen k i = some t) : t < 8 := by
  unfold State.unitTen at h
  rcases hk with rfl | ⟨rfl, _⟩ | ⟨rfl, _⟩ | rfl | ⟨rfl, _⟩ | ⟨rfl, _⟩ | ⟨rfl, _⟩ | rfl | rfl
  · exact State.tenOfDie_lt h
  · exact State.tenOfDie_lt h
  · exact State.tenOfDie_lt h
  · cases h
  · exact State.tenOfDie_lt h
  · exact State.tenOfDie_lt h
  · exact State.tenOfDie_lt h
  · cases h; omega
  · cases h

theorem UnitRegs.takeAction {s t : State} (h : UnitRegs s t) (o : Occ) (a c : Nat) (hk : CoreUnit o.kind o.idx) :
    UnitRegs s (t.takeAction o a c) := by
  unfold State.takeAction
  split
  · exact h.fenceUnit _ _ hk
  split
  · split
    · exact h.recover _ _ (State.unitTen_lt hk ‹_›)
    · exact h
  · exact h

/-- Recording an occurrence at a die, a core, an engine or the package changes no register of the compute dies and cores. -/
theorem UnitRegs.record {s t : State} (h : UnitRegs s t) (o : Occ) (c w : Nat) (hk : CoreUnit o.kind o.idx) :
    UnitRegs s (t.record o c w) := by
  have hr : unitRing o.kind o.idx < 10 := unitRing_lt _ _ fun l e _ => by
    rcases hk with e' | ⟨e', _⟩ | ⟨e', _⟩ | e' | ⟨e', _⟩ | ⟨e', _⟩ | ⟨e', _⟩ | e' | e' <;> (rw [e'] at e; cases e)
  unfold State.record
  split
  · exact h
  rename_i d hd
  have hdet := detector_lt hd
  extract_lets u thr win n op v re e x pw act key e2 y z1 z2 z
  have hu : UnitRegs s u := h.bump _ (.inl (by simp [R.ERR_CNT, Blk.base]; omega))
  have hv : UnitRegs s v := hu.same rfl
  have hx : UnitRegs s x := by unfold x; split <;> exact hv
  have hy : UnitRegs s y := by
    unfold y; split
    · exact hx.same rfl
    · exact hx.ringWrite _ _ hr
  have hz : UnitRegs s z := by
    unfold z; split
    · exact UnitRegs.takeAction (t := z2) ((hy.ringWrite _ _ hr).setBit _ _ (.inl (by decide))) _ _ _ hk
    · exact hy
  split
  · exact hz.takeAction _ _ _ hk
  · exact hz

end Sys2Proof.Machine
end

