-- ==== Sys2Proof/Tests/Slice0.lean ====
section
/-! SUPPORT. Tests: ill-formed commands are refused, and for every statement a state and operands that meet its hypotheses. -/

namespace Sys2Proof.Tests

set_option Elab.async false

open Sys2Proof Sys2Proof.Machine

/-! ### Small states -/

/-- The device with every domain powered and nothing else done. -/
def dev : State := { State.reset with power := ⟨true, 3, 255, BitVec.allOnes 32⟩ }

/-- The state after a command, where it answers one. -/
def after (s : State) (i : Instr) : State := match exec i s with | .next t => t | _ => s

/-- Is a command refused as ill-formed? -/
def refusesForm (i : Instr) : Bool := match exec i dev with | .refused .illFormed => true | _ => false

/-! ### Form (R40, R61, R124, R175, R198, R214, R227, R241) -/

def locF : Opnd := .desc 0
def farF : Opnd := .desc 1
def goodOuter : OuterSlot := ⟨.fp32, .fp32, true, false, .imm 1, locF, locF, 4⟩
def goodAe : AeSlot := ⟨none, false, none, false, false, farF, locF, .none, .none⟩
def goodPut : AeSlot := ⟨none, false, none, false, false, locF, farF, .none, .none⟩
def goodAtom : AeSlot := ⟨none, false, none, false, false, .desc (1 + 7 * 2 ^ 72), .imm 0, .imm 5, .none⟩
def goodColl : AeSlot := ⟨none, false, none, false, false, .desc (1 + 63 * 2 ^ 72), .none, .none, .imm 0⟩
def goodKeys : AeSlot := ⟨none, false, none, false, false, farF, farF, .none, .none⟩
def goodPacket : Packet := { (default : Packet) with payload := [0] }

theorem test_wf_outer : goodOuter.wf = true ∧ refusesForm (.opOuter 0 0 0 { goodOuter with len := 0 }) = true ∧
    refusesForm (.opOuter 0 0 0 { goodOuter with en := .imm 2 }) = true ∧
    refusesForm (.opOuter 0 0 0 { goodOuter with rowFmt := .bf16 }) = true := by decide +kernel
theorem test_wf_drain : DrainSlot.wf ⟨false, .fp32, false, false, none, locF⟩ = true ∧
    refusesForm (.opDrain 0 0 0 ⟨false, .fp32, false, false, some 1024, locF⟩) = true ∧
    refusesForm (.opDrain 0 0 0 ⟨false, .fp32, false, false, none, .desc 64⟩) = true := by decide +kernel
theorem test_wf_load : LoadSlot.wf ⟨false, .fp32, locF⟩ = true ∧
    refusesForm (.opLoad 0 0 0 ⟨false, .int8, .tq 0 false⟩) = true ∧ refusesForm (.opLoad 0 0 0 ⟨false, .fp32, .imm 0⟩) = true := by decide +kernel
theorem test_wf_row : RowSlot.wf ⟨false, .clamp, .prm 0 0, .prm 1 0⟩ = true ∧
    refusesForm (.opRow 0 0 0 ⟨false, .clamp, .prm 0 0, locF⟩) = true ∧ refusesForm (.opRow 0 0 0 ⟨false, .scale, .prm 0 0, .prm 1 0⟩) = true := by
  decide +kernel
theorem test_wf_chain : ChainSlot.wf ⟨goodOuter, .fp32, [], goodPut⟩ = true ∧
    refusesForm (.opChain 0 0 0 ⟨goodOuter, .raw64f, [], goodPut⟩) = true ∧
    refusesForm (.opChain 0 0 0 ⟨goodOuter, .fp32, List.replicate 9 (.cvt 0 0 .fp32 .fp32), goodPut⟩) = true := by decide +kernel
theorem test_wf_tiles : goodAe.fetchWf = true ∧ goodPut.putWf = true ∧ refusesForm (.tileFetch 0 0 goodPut) = true ∧
    refusesForm (.tilePut 0 0 goodAe) = true ∧ refusesForm (.tilePut 0 0 { goodPut with flag := some 3 }) = true ∧
    refusesForm (.tileGather 0 0 goodAe) = true ∧ refusesForm (.tileRelay 0 0 goodAe) = true := by decide +kernel
theorem test_wf_keys : goodKeys.keysWf = true ∧ refusesForm (.tileDrop 0 0 goodAe) = true ∧
    refusesForm (.tileUnpin 0 0 { goodKeys with d := .imm 0 }) = true := by decide +kernel
theorem test_wf_atoms : goodAtom.atomWf false = true ∧ refusesForm (.atomAdd 0 0 { goodAtom with a := farF }) = true ∧
    refusesForm (.atomCas 0 0 goodAtom) = true ∧ refusesForm (.atomCas 0 0 { goodAtom with c := .prm 63 0 }) = true ∧
    refusesForm (.atomSwap 0 0 { goodAtom with tq := some 0 }) = true := by decide +kernel
theorem test_wf_colls : goodColl.collWf false = true ∧ refusesForm (.collEpoch 0 0 goodColl) = true ∧
    refusesForm (.collBcast 0 0 { goodColl with d := .none }) = true := by decide +kernel
theorem test_wf_forecast : refusesForm (.heatForecast 0 false 0 0 1) = true ∧ refusesForm (.heatForecast 0 false 1 10001 1) = true ∧
    forecastOk false 1 10000 10000 = true := by decide +kernel
theorem test_wf_packet : goodPacket.wf = true ∧ refusesForm (.put { goodPacket with payload := [] }) = true ∧
    refusesForm (.loadReq { goodPacket with op := 3, dst := 2 ^ 18 }) = true ∧
    refusesForm (.ctrl { goodPacket with seq := 2 ^ 32 }) = true := by decide +kernel

/-! ### Engines and vector units -/

def slotDrain : DrainSlot := ⟨false, .fp32, false, false, none, locF⟩
def slotRow : RowSlot := ⟨false, .add, .prm 0 0, .none⟩
def outerOn : State := after (dev.setF (R.ENG_CTL 0 0) F.ENG_CTL_ZGATE_EN 0) (.opOuter 0 0 0 goodOuter)

theorem witness_EngineOperationBegins :
    (goodOuter.wf = true ∧ (∃ c, dev.place 0 goodOuter.col = some c) ∧ (dev.eng (engId 0 0)).outer = none) ∧
    (ChainSlot.wf ⟨goodOuter, .fp32, [], goodPut⟩ = true ∧ (dev.eng (engId 0 0)).chain = none) ∧
    (LoadSlot.wf ⟨false, .fp32, locF⟩ = true ∧ (∃ c, dev.place 0 locF = some c) ∧ (dev.eng (engId 0 0)).load = none) ∧
    (slotDrain.wf = true ∧ slotDrain.stochastic ≠ true ∧ (dev.eng (engId 0 0)).drain = none ∧ (dev.eng (engId 0 0)).row = none) :=
  ⟨⟨by decide, ⟨_, rfl⟩, by decide +kernel⟩, ⟨by decide, by decide +kernel⟩, ⟨by decide, ⟨_, rfl⟩, by decide +kernel⟩, by decide +kernel⟩
theorem witness_CatchSwapsTheSets : (outerOn.eng (engId 0 0)).catchAt ≠ some 0 ∧
    (∃ r, (outerOn.eng (engId 0 0)).outer = some r ∧ r.en = true ∧ r.colFmt = .fp32 ∧ r.k % 4 = 0) ∧
    outerOn.f (R.ENG_CTL 0 0) F.ENG_CTL_ZGATE_EN = 0 := ⟨by decide, ⟨_, rfl, by decide +kernel⟩, by decide +kernel⟩
theorem witness_RowOperationBegins : slotRow.wf = true ∧ (dev.eng (engId 0 0)).intMode false ≠ true ∧
    (dev.eng (engId 0 0)).drain = none ∧ (dev.eng (engId 0 0)).row = none ∧ (∃ n b, slotRow.v1 = .prm n b) ∧ slotRow.v2 = .none :=
  ⟨by decide, by decide, by decide, by decide, ⟨_, _, rfl⟩, rfl⟩
theorem witness_ProductCycleIssues : ∃ r, (outerOn.eng (engId 0 0)).outer = some r ∧ r.en = true ∧ r.k % 4 = 0 ∧
    (outerOn.ae 0).writes = [] ∧ (after outerOn (.productCycle 0 0 0)).f (R.ENG_CTL 0 0) F.ENG_CTL_ZGATE_EN = 0 :=
  ⟨_, rfl, by decide +kernel⟩
def prod : Prod := ⟨false, true, .fp32, .fp32, [], [], [], [], 0, 13, ⟨false, 0, 0, 0⟩⟩
def prodOn : State := dev.setEng 0 { Engine.init with flight := [prod] }
theorem prod_term (i j : Nat) : prod.term i j = prod.term 0 0 := by simp [Prod.term, prod]
theorem witness_ProductCycleLands : (((prodOn.eng (engId 0 0)).flight.find? fun q => q.land == 13) = some prod ∧
    (∀ w ∈ (prodOn.eng (engId 0 0)).writes, 13 < w.land) ∧ Unarmed prodOn 0x2B ∧ Unarmed prodOn 0x0C ∧ Unarmed prodOn 0x0D ∧
    prodOn.f (R.ENG_COMPAT 0) F.ENG_COMPAT_SR_ACC = 0) ∧
    (((prodOn.eng (engId 0 0)).setCells prod.set1).mapIdx fun k w => prod.land1 w (k / 64) (k % 64) none).any (·.2) = false := by
  refine ⟨by unfold Unarmed; decide +kernel, List.any_eq_false.2 fun y h => ?_⟩
  obtain ⟨k, _, rfl⟩ := List.mem_mapIdx.1 h
  have : (prod.land1 0 0 0 none).2 = false := by decide +kernel
  simpa [Prod.land1, prod_term (k / 64) (k % 64), show prod.isInt = false from rfl, show prod.init = true from rfl] using this
def drainOn : State := after dev (.opDrain 0 0 0 slotDrain)
def drained : State := dev.setEng (engId 0 0) { Engine.init with done := [(66, some 5)] }
theorem witness_DrainReadsItsRows :
    (∃ d, (drainOn.eng (engId 0 0)).drain = some d ∧ 0 = d.issue + d.row ∧ (drainOn.eng (engId 0 0)).writes = [] ∧
      (∃ w, d.dst = .walk w ∧ d.row < w.count ∧ d.ofmt.isMx = false) ∧
      (drainOn.eng (engId 0 0)).misses d.set1 0 (d.issue + 63) none = false) ∧
    ∃ d, ((drained.eng (engId 0 0)).done.find? fun q => q.1 == 66) = some d ∧ (drained.ae 0).writes = [] ∧ d.2 = some 5 ∧
      drained.poisoned 0 5 = false := by
  refine ⟨⟨_, rfl, ?_, ?_, ⟨_, rfl, ?_⟩, ?_⟩, ⟨_, rfl, ?_⟩⟩ <;> decide +kernel
def loadOn : State := after dev (.opLoad 0 0 0 ⟨false, .fp32, locF⟩)
def rowOn : State := after dev (.opRow 0 0 0 slotRow)
theorem witness_LoadAndRowOperationRows :
    (∃ l, (loadOn.eng (engId 0 0)).load = some l ∧ 0 = l.issue + l.row) ∧
    ∃ r, (rowOn.eng (engId 0 0)).row = some r ∧ 0 = r.issue + r.row ∧ (rowOn.eng (engId 0 0)).writes = [] ∧
      (rowOn.eng (engId 0 0)).misses r.set1 0 (r.issue + 64) none = false ∧ rowOn.f (R.ENG_COMPAT 0) F.ENG_COMPAT_SR_ACC = 0 := by
  refine ⟨⟨_, rfl, ?_⟩, ⟨_, rfl, ?_⟩⟩ <;> decide +kernel
def chainRun : ChainRun := ⟨.fp32, [], 1, goodPut, 0, 0, some (false, 0), 0, [], [], false⟩
def chainOn : State := dev.setEng (engId 0 0) { Engine.init with chain := some chainRun }
theorem witness_ChainReadsItsRows : (chainOn.eng (engId 0 0)).chain = some chainRun ∧ chainRun.drain = some (false, 0) ∧
    0 = 0 + chainRun.period * chainRun.row ∧ chainRun.rows.length < 7 ∧ chainRun.row < 63 := by decide +kernel
theorem witness_VectorOperationIssues : Fmt.fp32.cls ≠ .raw ∧ Fmt.mxfp4.cls ≠ .raw := by decide
theorem witness_VectorLoadsAndStores : ∃ w, dev.localDesc 0 0 = some w ∧ w.col = false ∧ w.fmt.cls ≠ .raw ∧ w.fmt.isMx = false ∧
    (dev.ae 0).writes = [] ∧ (dev.ae 0).rdAt ≠ 1 ∧ 255 < runElems w.fmt ∧ 255 < w.count * 64 := by
  refine ⟨_, rfl, ?_⟩; decide +kernel
def vecDone : CvuResult := ⟨4, 0, List.replicate 512 0, 0, false⟩
def vecOn : State := dev.setCvu 0 { Cvu.init with flight := [vecDone] }
theorem witness_VectorResultLands : ((vecOn.cvu 0).flight.find? fun q => q.usable == 4) = some vecDone ∧ vecDone.lanes.length = 512 := by
  decide +kernel

/-! ### Access engine -/

def relaySlot : AeSlot := ⟨none, false, some 0, false, false, farF, .imm 31, .none, .none⟩
def gatherSlot : AeSlot := ⟨none, false, none, false, false, locF, locF, farF, .none⟩
def inQueue : State := dev.setTq 0 0 { TileQueue.init with depth := 4 }
def outQueue : State := dev.setTq 0 0 { TileQueue.init with depth := 4, outbound := true }
def listFilled : State := dev.setAe 0 { dev.ae 0 with
  cmds := ((after dev (.tileFetch 0 0 goodAe)).ae 0).cmds.flatMap (List.replicate 512), nextId := 512 }
theorem witness_TileCommandsJoin :
    (dev.aeOk 0 goodAe = true ∧ ListReady dev 0 ∧ (dev.takeDest 0 goodAe goodAe.b).isSome = true ∧ goodAe.fetchWf = true ∧
      dev.aeOk 0 gatherSlot = true ∧ (dev.takeDest 0 gatherSlot gatherSlot.b).isSome = true ∧ gatherSlot.gatherWf = true) ∧
    (inQueue.aeOk 0 relaySlot = true ∧ ListReady inQueue 0 ∧ (inQueue.takeDest 0 relaySlot relaySlot.b).isSome = true ∧
      relaySlot.relayWf = true ∧ (inQueue.ae 0).tqs.length = 8) ∧
    (dev.aeOk 0 goodPut = true ∧ goodPut.putWf = true ∧ goodPut.tq = none ∧
      (dev.setF (R.AE_CTL 0) F.AE_CTL_MERGE_EN 0).f (R.AE_CTL 0) F.AE_CTL_MERGE_EN = 0 ∧
      (dev.setF (R.AE_CTL 0) F.AE_CTL_MERGE_EN 0).aeOk 0 goodPut = true) ∧
    (({ goodPut with a := .none, tq := some 0 } : AeSlot).putWf = true ∧ (outQueue.tq 0 0).depth ≠ 0 ∧ (outQueue.tq 0 0).outbound = true) ∧
    ((listFilled.heatTag 0 0).on = false ∧ listFilled.listFull 0 = true ∧ listFilled.aeOk 0 goodAe = true) ∧
    (dev.heatTag 0 0).on = false ∧ ({ goodAe with b := .none, tq := some 0 } : AeSlot).fetchWf = true ∧
      (dev.takeDest 0 { goodAe with b := .none, tq := some 0 } .none).isNone = true := by
  unfold ListReady; decide +kernel
theorem witness_RemoteAtomicsJoin : ListReady dev 0 ∧ dev.aeOk 0 goodAtom = true ∧ goodAtom.atomWf false = true ∧
    dev.aeOk 0 { goodAtom with c := .prm 62 0 } = true ∧ ({ goodAtom with c := .prm 62 0 } : AeSlot).atomWf true = true := by
  unfold ListReady; decide +kernel
theorem witness_FencesAndKeysIssue : ListReady dev 0 ∧ goodKeys.keysWf = true ∧ dev.aeOk 0 goodKeys = true := by
  unfold ListReady; decide +kernel
def fenced : State := after dev (.fenceLocal 0 0)
theorem witness_FlagCommandsLand : (ListSlotted dev 0 ∧ dev.poisoned 0 1023 = false ∧ Unarmed dev 0x22 ∧ dev.flag 0 1023 = false ∧
      (dev.landsAt 0 1).all (fun l => l.1 != 1023 || l.2.1) = true ∧
      (dev.landsAt 0 1).any (fun l => l.1 == 1023 && l.2.1) = false) ∧
    (ListReady fenced 0 ∧ (∃ c ∈ (fenced.ae 0).cmds, c.kind.isFence = true ∧ c.id < (fenced.ae 0).nextId) ∧
      ∀ c ∈ (fenced.ae 0).cmds, c.kind.slotted = true ∨ c.kind.isFence = true) ∧ dev.flagOpnd 0 (.imm 1023) = true := by
  unfold ListSlotted ListReady Unarmed; decide +kernel

/-- Tenancy 1 holds the eight dies, and context 5. -/
def ten : State := ((dev.setF (R.TEN_T_CFG 1) F.TEN_T_CFG_VALID 1).setF (R.TEN_T_CFG 1) F.TEN_T_CFG_DIES 255).setCtx 5
  { CtxRec.init with alloc := true, ten := 1 }
def cmd (k : AeKind) : AeCmd := { AeCmd.new k 0 ⟨false, 0, 0, 0⟩ with far := 8192, len := 1024 }
/-- The access engine of core 0 holds a command. -/
def holds (c : AeCmd) : State := ten.setAe 0 { ten.ae 0 with cmds := [c], nextId := 9 }
def cached (s : State) : State := s.setAe 0 { s.ae 0 with cache := [⟨0, 8192, 0, false, 0, false⟩] }
theorem witness_SlotGrantsStart :
    ((holds (cmd .put)).grantee 0 1 = some (cmd .put) ∧ (holds (cmd .put)).aeSlots 0 < 48 ∧ (cmd .put).issue < 1 ∧
      (holds (cmd .put)).ctxStatus (cmd .put).ctx 0 = sOK ∧ (cmd .put).sb = none) ∧
    (let c := { cmd .fetch with ctx := some 6 }
     (holds c).grantee 0 1 = some c ∧ (holds c).ctxStatus c.ctx 0 ≠ sOK) ∧
    (let c := { cmd .fetch with ctx := some 5, cache := true, key := 8192 }
     (cached (holds c)).grantee 0 1 = some c ∧ (cached (holds c)).ctxStatus c.ctx 0 = sOK ∧ ((cached (holds c)).cacheHit 0 c).isSome = true) ∧
    let c := cmd .fetch
    let s := holds c
    let l := 8192
    s.grantee 0 1 = some c ∧ s.ctxStatus c.ctx 0 = sOK ∧ c.cache = false ∧ c.zprobe = false ∧ c.sb = none ∧ Unarmed s 0x1D ∧
      kNode c.far.toNat = s.node ∧ 0 < c.len ∧ l % 8192 + c.len ≤ 8192 ∧ kSpace c.far.toNat = 0 ∧
      targetOf 0 (kOff c.far.toNat) c.len = .hbm 0 l ∧ s.entitled (.core 0) none aRead 0 (kOff c.far.toNat) c.len (.hbm 0 l) 0 = true ∧
      s.fencedTarget (.hbm 0 l) c.len = false ∧ (s.hbmPlace 0 l).1 / 4 = 0 ∧
      (s.bankQueue (s.bankOfFar c.far).1 (s.bankOfFar c.far).2.2).length < 16 := by
  unfold Unarmed; decide +kernel

def moving (k : AeKind) (need : Nat) (q : Piece) : State := ten.setAe 0 { ten.ae 0 with
  cmds := [{ cmd k with phase := .move, need := need }], pieces := [q], zconf := [] }
def pieceIn : Piece := ⟨0, 3, 0, 2 ^ 23 - 2, 2, some [1, 2]⟩
def pieceOut : Piece := ⟨0, 3, 0, 2 ^ 23 - 2, 2, none⟩
theorem witness_PiecesMove :
    (let s := moving .fetch 1 pieceIn
     (∀ w ∈ (s.ae 0).writes, 1 ≤ w.land) ∧ s.nextPiece 0 1 = some pieceIn ∧ (s.aeCmd 0 0).isSome = true ∧ Unarmed s 0x08 ∧
      Unarmed s 0x09 ∧ 2 ^ 23 - 2 + 2 ≤ 2 ^ 23 ∧ (s.ae 0).zconf = []) ∧
    let s := moving .put 2 pieceOut
    s.nextPiece 0 1 = some pieceOut ∧ (s.aeCmd 0 0).map (·.need) = some 2 ∧ pieceOut.wr = none := by
  unfold Unarmed; decide +kernel

def bankReq (wr : Option (List Byte)) : BankReq := ⟨0, 0, 0, 8192, 1024, wr, 0, true⟩
def served (c : AeCmd) (wr : Option (List Byte)) : State :=
  (holds c).setBankQueue 0 ((holds c).bankKey 0 8192) [bankReq wr]
def asking : AeCmd := { cmd .fetch with phase := .move, slot := true, reqs := [⟨0, 0, 8192, 1024, 1, []⟩] }
def retrying (n : Nat) : State :=
  let s := (holds asking).setBankQueue ((holds asking).bankOfFar 8192).1 ((holds asking).bankOfFar 8192).2.2
    (List.replicate n (bankReq none))
  s.setAe 0 { s.ae 0 with retries := [(0, 0, 1)] }
theorem witness_PseudoChannelsServe :
    (let s := served asking none
     let pc := (s.bankKey 0 8192) / 32
     s.pcPick 0 pc = some ((s.bankKey 0 8192) % 32, bankReq none) ∧ (s.stk 0).busyTo.get (fun _ => 0) pc ≤ 1 ∧
      s.stackClosed 0 8192 = false ∧ s.dieDown 0 = false ∧ (s.stk 0).bad = [] ∧ s.aeCmd 0 0 = some asking ∧ asking.kind = .fetch ∧
      asking.version = 0 ∧ (asking.req 0).isSome = true) ∧
    (let bs : List Byte := [5, 6]
     let s := served (cmd .put) (some bs)
     let pc := (s.bankKey 0 8192) / 32
     (s.pcPick 0 pc).isSome = true ∧ Unarmed s 0x01 ∧ Unarmed s 0x02 ∧ Unarmed s 0x03 ∧ s.phys 0 8192 ≠ s.phys 0 8193 ∧
      (s.aeCmd 0 0).all (fun c => !c.cnt && c.flag.isNone && c.merged.isEmpty) = true) ∧
    ∀ n ∈ [15, 16], (((retrying n).ae 0).retries.find? fun e => e.1 == asking.id && decide (e.2.2 ≤ 1)) = some (0, 0, 1) ∧
      (retrying n).aeCmd 0 asking.id = some asking ∧ (asking.req 0).isSome = true ∧
      ((retrying n).bankQueue ((retrying n).bankOfFar 8192).1 ((retrying n).bankOfFar 8192).2.2).length = n := by
  unfold Unarmed; decide +kernel

def landing : AeCmd := { cmd .fetch with phase := .moved, q := some 7, cnt := true, ctx := some 5 }
def relayed : State :=
  let s := ten.setTq 1 7 { TileQueue.init with depth := 4, relay := true }
  s.setAe 0 { s.ae 0 with hop := [⟨1, 7, 31, []⟩] }
def probing : AeCmd := { cmd .fetch with phase := .move, slot := true, zprobe := true }
def zeroed (b : Bool) : State := (holds probing).setZmap 1 0 b
theorem witness_TilesLand :
    ((holds landing).aeCmd 0 0 = some landing ∧ landing.phase = .moved ∧ landing.rdy ≤ 0 ∧ landing.status = 0 ∧ landing.found = none ∧
      landing.merged = [] ∧ 7 < ((holds landing).ae 0).tqs.length ∧ ((holds landing).tq 0 7).gen = landing.qgen ∧
      Unarmed (holds landing) 0x20 ∧ ((holds landing).ctx 5).count ≠ 2 ^ 32 - 1 ∧ (holds landing).poisoned 0 1023 = false) ∧
    (let c := { landing with status := 3 }; (holds c).aeCmd 0 0 = some c) ∧
    ((relayed.ae 0).hop = [⟨1, 7, 31, []⟩] ∧ relayed.nextCore 0 = some 1 ∧ relayed.relayFree 0 ⟨1, 7, 31, []⟩ = true ∧
      (relayed.ae 1).tqs.length = 8) ∧
    ∀ b : Bool, (zeroed b).aeCmd 0 0 = some probing ∧ probing.zprobe = true ∧ probing.phase = .move ∧
      (zeroed b).zmapBit ((zeroed b).bankOfFar probing.far).1 (((zeroed b).bankOfFar probing.far).2.1 / 8192) = b := by unfold Unarmed; decide +kernel

theorem witness_TokensQuotaAndMerging :
    (let c := { cmd .fetch with phase := .hold }; (holds c).aeCmd 0 0 = some c ∧ (holds c).quotaAllows 0 c = true) ∧
    let c := { cmd .fetch with phase := .merge }; ∃ d ∈ ((holds c).ae 0).cmds, d.phase = .merge ∧ d.issue + 32 ≤ 32 := by
  decide +kernel
def openF : State := holds (AeCmd.new .fenceLocal 0 ⟨false, 0, 0, 0⟩)
def lateF : AeCmd := { AeCmd.new .fenceLocal 0 ⟨false, 0, 0, 0⟩ with watch := some 0, limit := 1 }
theorem witness_FencesReleaseAndExpire : (openF.openFence 0).isSome = true ∧ ({ holds lateF with time := 1 }).fenceLate 0 = some lateF ∧
    (openF.openFence 0).all (fun f => (openF.ae 0).cmds.all fun c => c.id == f.id || c.kind.slotted) = true ∧
    ({ holds lateF with time := 1 }).f (R.FLG_WAIT_REC0 0) F.FLG_WAIT_REC0_VALID = 0 := by decide +kernel

/-! ### Collectives -/

def epochSlot : AeSlot := ⟨none, false, none, false, false, .none, .none, .none, .imm 0⟩
theorem witness_CollectivesIssue : ListSlotted dev 0 ∧ dev.aeOk 0 goodColl = true ∧ dev.aeOk 0 epochSlot = true ∧
    goodColl.collWf false = true ∧ epochSlot.collWf true = true := by unfold ListSlotted ListReady; decide +kernel
def coll (op : Nat) : CollCmd := ⟨op, 0, 5, 0, 0, none, false, ⟨false, 0, 0, 0⟩⟩
def runOf (c : CollCmd) : CollRun := ⟨c, 0, 0, 0, 0, 0, 0, 0, 0, 0, 0, [], [], [], 0, false, [], 0, 0, false⟩
def oneSet : MemberSet := ⟨0, 0, 1 + 2 ^ 6 + 2 ^ 12 + 2 ^ 18, 0, false, true⟩
def fencing (m : MemberSet) : State := { ten.setMset 0 m with colls := { (ten.setMset 0 m).colls with queue := [coll 0x4D] } }
def running (c : CollCmd) : State := { ten.setMset 0 oneSet with colls := { (ten.setMset 0 oneSet).colls with runs := [runOf c] } }
theorem witness_CollectivesStartAndEnd :
    (∀ m ∈ [oneSet, MemberSet.init], (fencing m).collNext 5 = some (coll 0x4D) ∧ Unarmed (fencing m) 0x33 ∧
      (fencing m).mset ((fencing m).ctx 5).mset = m) ∧
    ((fencing oneSet).rankIn oneSet (fencing oneSet).node).isSome = true ∧ ((fencing oneSet).ctx 5).alloc = true ∧
    (let s := running (coll 0x4D)
     s.collRun 5 = some (runOf (coll 0x4D)) ∧ s.fenceClear (runOf (coll 0x4D)) = true ∧ s.ctxMembers 5 = [s.node]) ∧
    ∀ c ∈ [coll 0x4B, { coll 0x4B with flag := some 1023 }, { coll 0x4B with cnt := true }],
      (running c).collRun 5 = some (runOf c) ∧ (running c).collDone (runOf c) = true ∧ (running c).poisoned 0 1023 = false ∧
      Unarmed (running c) 0x20 ∧ ((running c).ctx 5).count < 2 ^ 31 - 1 := by unfold Unarmed; decide +kernel
theorem witness_CollectiveCores : ∀ (p : Pos), ∀ e ∈ ((fencing oneSet).ae p).cmds, ∀ op, e.kind ≠ .coll op := by
  have h : ∀ p : Pos, ((fencing oneSet).ae p).cmds = [] := by decide +kernel
  intro p e he; simp [h p] at he

/-! ### Cores, heats and flags -/

def coxOn (c : Cox) : State := ((dev.setF (R.COX_CTL 0) F.COX_CTL_RUN 1).setF (R.CLK_STAT 0) F.CLK_STAT_STOPPED 0).setCox 0 c
def fetching (w : List (Nat × Byte)) : Cox := { Cox.init with imem := w, xs := [(1, 0x1000FFFC)] }
def trapping : Cox := { fetching [(0, 0x73)] with inTrap := true }
def storing : Cox := fetching [(0, 0x23), (1, 0xA0), (2, 0x20)]
def irq : State := ((coxOn { Cox.init with mie := 0x800, mstatus := 8 }).setF (R.COX_IRQ_STAT 0) (0, 1) 1).setF (R.COX_IRQ_EN 0) (0, 1) 1
theorem witness_CoxRuns :
    (irq.coxReady 0 1 = true ∧ Unarmed irq 0x29 ∧
      (irq.coxIrq 0 && (irq.cox 0).mie &&& meiMask != 0 && (irq.cox 0).mstatus &&& 0x8 != 0) = true ∧ (irq.cox 0).inTrap = false) ∧
    (∀ q ∈ [(fetching [(0, 0x93), (2, 0x10)], 0x00100093), (storing, 0x0020A023), (fetching [(0, 0x73)], 0x73), (trapping, 0x73)],
      (coxOn q.1).coxReady 0 1 = true ∧ Unarmed (coxOn q.1) 0x29 ∧ (coxOn q.1).coxIrq 0 = false ∧
      memWord q.1.imem q.1.pc.toNat 4 = q.2) ∧
    0x00100093 % 128 = 0x13 ∧ bitsOf 0x00100093 12 3 = 0 ∧ 0x0020A023 % 128 = 0x23 ∧ bitsOf 0x0020A023 12 3 = 2 ∧
      ((storing.x (bitsOf 0x0020A023 15 5) + BitVec.ofNat 32 (sx 12 0)).toNat = 0x1000FFFC) := by
  unfold Unarmed; decide +kernel

def gate1 : Gate := ⟨1, 0, 1023, false, 0, 0, 0, 0⟩
def heat7 : HeatDef := ⟨7, 0, 1, false, 100, 1, false, 0, [], 0, [⟨7, 4, 0, 1, 3, true⟩], [gate1], [], []⟩
/-- Tenancy 1 runs a module of one heat. -/
def loaded : State := { ten.setF (R.SNP_T_STAT 1) F.SNP_T_STAT_JOB_STATE jRunning with
  mods := [(1, ⟨1, 0, 0, [], [heat7]⟩)], pins := { ten.pins with refclk := true } }
def locked : State := (loaded.setF (R.CLK_STAT 0) F.CLK_STAT_STOPPED 0).setF (R.CLK_STAT 0) F.CLK_STAT_LOCKED 1
def entry : ReadyEntry := ⟨7, 0, 1, 1, 0, 0, 0, [⟨1, true, false, 0⟩], false⟩
def readied (n : Nat) : State := locked.setDie 0 { locked.die 0 with ready := List.replicate n entry }
def post : Word := BitVec.ofNat 64 7
theorem witness_PostsEnterTheReadySet :
    (∀ s ∈ [loaded, readied 64, dev], (s.die (dieOf 0)).now ≤ 1 ∧ Admitted s .boathouse (R.COX_HEAT_POST 0) post ∧ Unarmed s 0x2A) ∧
    (loaded.heatDef 0 7 = some heat7 ∧ (loaded.die 0).postWait = [] ∧ (loaded.die 0).ready.length < 64 ∧
      (∀ g ∈ heat7.gates, g.kind ≠ 6) ∧ ∀ g ∈ heat7.gates, loaded.poisoned (loaded.gateCore 0 g) g.sel = false) ∧
    ((readied 64).heatDef 0 7 = some heat7 ∧ 64 ≤ ((readied 64).die 0).ready.length) ∧ dev.heatDef 0 7 = none := by
  unfold Admitted Unarmed; decide +kernel
theorem witness_NoPoisonedGate : ∀ e : ReadyEntry, loaded.poisonedGate 0 e = none := by
  have hp : loaded.poisoned (loaded.gateCore 0 gate1) 1023 = false := by decide +kernel
  intro e
  unfold State.poisonedGate
  cases h : loaded.heatDef 0 e.heat with
  | none => rfl
  | some d =>
    have ht : loaded.tenOfDie 0 = some 1 := by decide +kernel
    have : d = heat7 := by
      unfold State.heatDef at h
      rw [ht] at h
      have := List.mem_of_find?_eq_some h
      simpa using this
    subst this
    simp [heat7, gate1] at hp ⊢
    exact hp

def patched (n : Nat) : State := dev.setCore 0 { CoreMisc.init with patches := List.replicate n ⟨63, true, 1, 0⟩ }
theorem witness_PatchesStage : (∀ n ∈ [0, 1, 7, 8], ((patched n).core 0).patches.length = n ∧ ((patched n).core 0).patchWait = [] ∧
      ((patched n).die 0).run = none ∧ ((patched n).die 0).now ≤ 1 ∧
      Admitted (patched n) .boathouse (R.COX_PATCH 0) (patchWord true 63 1) ∧ Admitted (patched n) .boathouse (R.PRM 0 63) 1) := by
  unfold Admitted Unarmed; decide +kernel

def run7 (start : Option Nat) : RunHeat := ⟨7, 0, 1, 0, 7, 100, 3, 0, [0, 1, 2, 3], false, 0, 0, [], none, none, start, false⟩
def runs (start : Option Nat) : State := locked.setDie 0 { locked.die 0 with run := some (run7 start) }
def windowed : State := (runs (some 0)).setCore 0 { CoreMisc.init with patches := List.replicate 8 ⟨63, true, 1, 0⟩ }
theorem witness_PatchWindowsApply :
    (windowed.windowAtCycle 0 100 = true ∧ (windowed.core 0).patchWait = [] ∧ (windowed.core 0).patches.length ≤ 8 ∧
      ∀ e ∈ (windowed.core 0).patches, e.at_ < 100 ∧ e.prm < 64) ∧
    (((patched 1).die 0).run = none ∧ ((patched 1).core 0).patches = [⟨63, true, 1, 0⟩]) ∧
    ((runs (some 0)).die 0).run = some (run7 (some 0)) ∧
      (runs (some 0)).nearCores 0 (100 - (runs (some 0)).f (R.COX_CTL 0) F.COX_CTL_PATCH_LEAD) (run7 (some 0)) ≠ [] := by decide +kernel
theorem witness_NoRuling : ∀ n, windowed.rulingFor 0 n = [] := by
  have ht : windowed.tenOfDie 0 = some 1 := by decide +kernel
  have all : ∀ n h, windowed.heatDef (dieOf 0) n = some h → h.ruling = [] := by
    intro n h hh
    unfold State.heatDef at hh
    rw [show dieOf 0 = 0 from rfl, ht] at hh
    have := List.mem_of_find?_eq_some hh
    rw [List.mem_singleton.1 this]; rfl
  intro n
  unfold State.rulingFor
  split
  · rfl
  · rename_i h hh
    simp only
    split
    · rename_i b hb; simp [all _ _ hb]
    · simp [all _ _ hh]

def ready1 (bucket : Int) (flag : Bool) : State := (locked.setBit (R.FLG_STATE 0 15) 63 flag).setDie 0
  { locked.die 0 with ready := [entry], alloc := 100000, bucket := bucket }
theorem witness_HeatsRunTheirCourse :
    (∀ s ∈ [ready1 10 true, ready1 10 false], (s.die 0).run = none ∧ s.strBlocked 0 = false ∧ s.dieDown 0 = false ∧ (s.die 0).now < 1 ∧
      s.clockGood 0 = true ∧ (s.die 0).postWait = [] ∧ ∀ e ∈ (s.die 0).ready, s.poisonedGate 0 e = none) ∧
    (ready1 10 false).choose 0 1 = none ∧ ((ready1 10 true).choose 0 1).any (fun c => c.heat == heat7 && c.no == 0) = true ∧
    (∀ g ∈ heat7.gates, g.sel < 1024) ∧
    (let s := runs none
     (s.die 0).run = some (run7 none) ∧ (run7 none).startAt = 4 ∧ s.clockGood 0 = true ∧ ∀ p ∈ s.runCores 0 (run7 none), (s.core p).patches = []) ∧
    let s := (runs (some 0)).setCore 0 { CoreMisc.init with window := some 316 }
    (s.die 0).run = some (run7 (some 0)) ∧ (run7 (some 0)).lastCycle = some 323 ∧ (run7 (some 0)).heat < 65536 ∧
      (∀ p ∈ s.runCores 0 (run7 (some 0)), (s.core p).window = some (323 - 7)) ∧
      (s.tenOfDie 0).all (fun k => (s.job k 0).isNone) = true := by decide +kernel
theorem witness_NoLands : ∀ p, (ready1 10 true).landsAt p 1 = [] := by
  have h : (ready1 10 true).cores = [] := by decide +kernel
  intro p; simp [State.landsAt, State.core, h, NMap.get, NMap.look, CoreMisc.init]

def gateLate (kind : Nat) (set : Bool) : State :=
  let s := { loaded with mods := [(1, ⟨1, 0, 0, [], [{ heat7 with gates := [{ gate1 with kind := kind }] }]⟩)], time := 1 }
  (s.setBit (R.FLG_STATE 0 15) 63 set).setDie 0 { s.die 0 with ready := [entry] }
def poisonedS : State := ten.setBit (R.FLG_POISON 0 15) 63 true
def signalled : State := { ten with ctxs := { ten.ctxs with sigs := [⟨5, 255, 1023, 0, true⟩] } }
def forecasting (n : Nat) : State := { ten.setDie 0 { ten.die 0 with
  forecasts := (List.range n).map fun i => ⟨0, 1, 0, i + 1⟩ } with time := 1 }
theorem witness_WatchdogsFlagsAndForecasts :
    (∀ b : Bool, let s := gateLate 1 b
      (s.die 0).ready[0]? = some entry ∧ (s.heatDef 0 entry.heat).map (·.gates) = some [gate1] ∧ entry.watch[0]? = some ⟨1, true, false, 0⟩ ∧
        entry.tick + 1 ≤ s.time ∧ Unarmed s 0x23 ∧ s.gateHolds 0 gate1 0 = b ∧ s.gateCore 0 gate1 < 256 ∧ (s.die 0).postWait = []) ∧
    (∀ v : Fin 2, (ten.die 0).now ≤ 1 ∧ Unarmed ten 0x1D ∧ ten.coreClosed 0 = false ∧ ten.poisoned 0 1023 = false ∧
      ten.entitled (.core 0) none aWrite 3 (8 * 1023) 8 (.flag 0 1023) (BitVec.ofNat 64 v) = true ∧ ten.landsAt 0 1 = []) ∧
    ((poisonedS.die 0).now ≤ 1 ∧ poisonedS.poisoned 0 1023 = true ∧
      Admitted poisonedS .boathouse (R.FLG_POISON 0 (1023 / 64)) (BitVec.ofNat 64 (2 ^ (1023 % 64)))) ∧
    (signalled.signalAt 5 0 = some ⟨5, 255, 1023, 0, true⟩ ∧ signalled.poisoned 255 1023 = false ∧ signalled.flag 255 1023 = false ∧
      Unarmed signalled 0x22) ∧
    forecastOk true 1 0 1 = true ∧ forecastOk false 1 0 1 = true ∧
    (∀ n ∈ [7, 8], ((forecasting n).die 0).forecasts.length = n) ∧
    (let l := ((forecasting 8).die 0).forecasts
     ∃ f ∈ l, ∀ q ∈ l, q ≠ f → f.stop < q.stop) ∧
    ∃ e ∈ ((forecasting 8).die 0).forecasts, e.stop ≤ (forecasting 8).time := by unfold Admitted Unarmed; decide +kernel

/-! ### Power and clocks -/

theorem witness_GrantsDivideTheCap : (1 : Fin 8).val ∈ loaded.liveTens ∧ 7 ∈ loaded.diesOf 1 ∧
    (∀ v ∈ loaded.liveTens, v ≠ 1 → 7 ∉ loaded.diesOf v) ∧ loaded.dieDown 7 = false := by decide +kernel
theorem witness_BucketsFillAndDrain :
    (Unarmed loaded 0x3E ∧ (∀ d : Fin 8, (loaded.die d).run = none ∧ (loaded.die d).drifted = false) ∧ (loaded.die 8).drifted = false ∧
      (let pj := (((List.range 8).filter fun d => !loaded.dieDown d).map loaded.diePj).sum + loaded.pkgPj 1
       pj < 1000000 * (loaded.f R.PWR_CAP F.PWR_CAP_CAP_W + 1) ∧ pj < 8600000000) ∧ loaded.dieDown 7 = false) ∧
    (loaded.setF R.BH_STAT F.BH_STAT_READY 1).inService 7 = true := by unfold Unarmed; decide +kernel

def stepping (thr : Nat) : State := { (locked.setF (R.CLK_STAT 0) F.CLK_STAT_OPP_NOW 3).setDie 0
  { locked.die 0 with throttle := thr } with time := 25000000 }
def stretched : State := { (locked.setF (R.CLK_STAT 0) F.CLK_STAT_STRETCH 1) with time := 25000000 }
theorem witness_OperatingPointsMove :
    ((stepping 0).dieDown 0 = false ∧ (stepping 0).mayStep 0 = true ∧ (stepping 0).f (R.CLK_STAT 0) F.CLK_STAT_OPP_NOW ≤ 5 ∧
      (stepping 0).oppTarget 0 ≠ (stepping 0).f (R.CLK_STAT 0) F.CLK_STAT_OPP_NOW) ∧
    (stretched.f (R.CLK_STAT 0) F.CLK_STAT_STRETCH = 1 ∧ stretched.dieDown 0 = false ∧ Unarmed stretched 0x39 ∧
      stretched.mayStep 0 = true ∧ stretched.f (R.CLK_STAT 0) F.CLK_STAT_OPP_NOW < 5 ∧ (stretched.die 0).run = none) ∧
    (stretched.f (R.CLK_STAT 0) F.CLK_STAT_STOPPED = 0 ∧ stretched.heatPending 0 = false ∧
      (stretched.die 0).idleFrom + ticksUs 50 ≤ stretched.time) ∧
    let s := locked.setF (R.CLK_STAT 0) F.CLK_STAT_LOCKED 0
    s.f (R.CLK_STAT 0) F.CLK_STAT_LOCKED = 0 ∧ s.pins.refclk = true ∧ ∀ w ∈ s.waits, w.die ≠ 0 := by unfold Unarmed; decide +kernel

def hot : State := dev.setDie 0 { dev.die 0 with thermStep := some 0 }
def cut : State := dev.setDie 0 { dev.die 0 with thermalOff := true }
def waking : RunHeat := { run7 none with waking := [0] }
theorem witness_HeatAndSleep :
    (hot.power.ao = true ∧ Unarmed hot 0x3A ∧ Unarmed hot 0x3B ∧ (hot.die 0).hotUntil = none ∧ hot.dieDown 0 = false ∧
      (hot.die 0).thermStep.isSome = true ∧ (hot.die 0).run = none ∧
      ∀ c ∈ [99, 100, 109, 110], ((List.replicate 32 c).foldl max 0 = c)) ∧
    ((cut.die 0).thermalOff = true ∧ cut.bhUp = true ∧ cut.f (R.PWR_DIE_STAT 0) F.PWR_DIE_STAT_TMAX < 90 ∧ cut.tenOfDie 0 = none) ∧
    (let s := { dev with time := 2500000000 }
     s.dieDown 0 = false ∧ s.cluster 0 3 < 2 ∧ s.clusterQuiet 0 3 = true ∧ s.clusterUsed 0 3 = false ∧
      (s.die 0).idleClusters.get (fun _ => 0) 3 + ticksUs (s.f (R.STR_CTL 0) F.STR_CTL_RETAIN_IDLE) ≤ s.time ∧ (s.die 0).run = none) ∧
    let s := dev.setDie 0 { dev.die 0 with run := some waking }
    (s.die 0).run = some waking ∧ waking.waking.contains 0 = true ∧ waking.chosen < 1 ∧ s.cluster 0 0 ≠ 3 := by
  unfold Unarmed; decide +kernel

def calib : MaintReq := { act := 4, scope := 0, arg := 0, iss := .boathouse, asked := 0, started := 0, image := none }
def calOn (m : List MaintReq) : State := { dev.setF R.PWR_POLICY F.PWR_POLICY_CAL_EN 1 with maint := { dev.maint with running := m } }
theorem witness_ModelsAreFitted :
    ((calOn []).f R.PWR_POLICY F.PWR_POLICY_CAL_EN = 1 ∧ Unarmed (calOn []) 0x52 ∧
      ∀ m ∈ (calOn []).maint.running ++ (calOn []).maint.queue, (calOn []).maintConflict calib m = false) ∧
    ((calOn [calib]).maintConflict calib calib = true ∧ (calOn [calib]).maint.queue.length < 64 ∧ Unarmed (calOn [calib]) 0x52) ∧
    (∀ n ∈ [0, 9], let s := dev.setDie 0 { dev.die 0 with drift := n }
      s.power.ao = true ∧ Unarmed s 0x38 ∧ ∀ d : Fin 9, (s.die d).forceDrift = 0) ∧
    aboveEight (dev.die 0).interval 1 = true ∧ (∀ j : Fin 9, (dev.die j).drift < 9) := by unfold Unarmed; decide +kernel

/-! ### Packets -/

/-- A torus of two nodes with port 0 in service, and context 5 cached. -/
def fabric : State := { (ten.setF R.FAB_TOPO F.FAB_TOPO_DIMS (2 + 2 ^ 6 + 2 ^ 12 + 2 ^ 18)).setF (R.FAB_PORT_STAT 0)
  F.FAB_PORT_STAT_STATE 2 with ctxs := { ten.ctxs with lru := [5] } }
def mk (k : Packet) : Packet := ({ k with pcrc := crc32c k.payload, len := k.payload.length - 1 } : Packet).seal
/-- A put of two bytes to the end of core 255's scratchpad, counted. -/
def inPut : Packet := { Packet.blank with src := 1, space := 1, offset := 2 ^ 31 - 2, ctx := 5, seq := 4, low := 4, vc := 5, op := 1, payload := [7, 8], cntEn := true }
def lastSeen (n : Nat) : State := { fabric with fab := { fabric.fab with rx := [⟨5, 1, n, [], 0⟩] } }
def treed : State := fabric.setTree 0 { McTree.init with valid := true, deliver := true }
def inCast : Packet := { inPut with op := 2, mcast := true }
def inPiece : Packet := { inPut with opnd0 := 2 ^ 16 }
def inFlag : Packet := { inPut with cntEn := false, flagEn := true, flag := 1023 }
theorem witness_PutsArrive :
    (∀ k ∈ [mk inPut, mk inPiece, mk inCast, mk inFlag], ∀ s ∈ [treed, { treed with fab := { treed.fab with rx := [⟨5, k.rxKey, 4, [], 0⟩] } }],
      Arrives s k ∧ k.src < s.nodes ∧ k.src ≠ s.node ∧ s.upDownPorts 5 none ≠ [] ∧ s.fab.heads = [] ∧ k.dst = s.node) ∧
    (∀ k ∈ [mk inPut, mk inPiece, mk inCast, mk inFlag], ((treed.clearTransit k).rxFind k).1 = .fresh ∧
      ((({ treed with fab := { treed.fab with rx := [⟨5, k.rxKey, 4, [], 0⟩] } }).clearTransit k).rxFind k).1 = .dup ∧
      Reaches treed k aWrite k.payload.length (BitVec.ofNat 64 (leNat (k.payload.take 8))) 255 (2 ^ 23 - 2) ∧
      treed.signalFull (some k.ctx) k.cntEn (if k.flagEn then some k.flag else none) k.exp = false) ∧
    isPiece (mk inPut) = false ∧ isPiece (mk inPiece) = true ∧ isPiece (mk inCast) = false ∧ (treed.tree 0).valid = true ∧
    (treed.tree 0).out = 0 ∧ (treed.ae 255).zconf = [] ∧ Unarmed treed 0x20 ∧ (treed.ctx 5).count < 2 ^ 31 - 1 ∧
    (treed.poisoned 255 1023 = false) := by unfold Arrives Reaches Unarmed; decide +kernel
def inLoad : Packet := ({ Packet.blank with src := 1, space := 1, offset := 2 ^ 31 - 8, ctx := 5, seq := 4, low := 4, op := 3, len := 7 } : Packet).seal
def inAtom (op : Nat) : Packet := ({ Packet.blank with src := 1, space := 1, offset := 2 ^ 31 - 8, ctx := 5, seq := 4, low := 4, op := op } : Packet).seal
theorem witness_LoadsAndAtomicsArrive :
    (Arrives fabric inLoad ∧ Reaches fabric inLoad aRead 8 0 255 (2 ^ 23 - 8)) ∧
    (∀ op ∈ [0x20, 0x27], ∀ s ∈ [fabric, lastSeen 4], Arrives s (inAtom op)) ∧
    (∀ op ∈ [0x20, 0x27], ((fabric.clearTransit (inAtom op)).rxFind (inAtom op)).1 = .fresh ∧
      (((lastSeen 4).clearTransit (inAtom op)).rxFind (inAtom op)).1 = .dup ∧ (inAtom op).offset % 8 = 0 ∧
      Reaches fabric (inAtom op) aAtomic 8 (inAtom op).opnd0 255 (2 ^ 23 - 8)) ∧
    (1 < fabric.nodes ∧ 1 ≠ fabric.node ∧ fabric.upDownPorts 5 none ≠ [] ∧ fabric.fab.heads = []) := by
  unfold Arrives Reaches Unarmed; decide +kernel

def sentPkt (o : TxOwner) (again sent : Option Nat) (resends : Nat) : TxPkt := ⟨{ Packet.blank with dst := 1, ctx := 5, op := 7, seq := 4 }, o, sent, resends, 0, again, 0⟩
def sending (c : AeCmd) (e : TxPkt) : State := { fabric.setAe 0 { fabric.ae 0 with cmds := [c] } with
  fab := { fabric.fab with tx := [⟨5, 1, 5, [e], 0⟩] }, time := 25000000 }
def answerPkt (op st : Nat) (pl : List Byte) : Packet :=
  ({ Packet.blank with src := 1, ctx := 5, seq := 4, op := op, status := st, payload := pl, pcrc := crc32c pl } : Packet).seal
def asked (o : TxOwner) : TxPkt := sentPkt o none (some 0) 0
theorem witness_AnswersReachTheirSenders :
    (let s := sending asking (asked (.ae 0 0 0))
     let k := answerPkt 4 sOK [9]
     k.wf = true ∧ headGood k = true ∧ crc32c k.payload = k.pcrc ∧ Unarmed s 0x14 ∧ s.txPkt 5 1 4 = some (asked (.ae 0 0 0)) ∧
      s.aeCmd 0 0 = some asking ∧ asking.kind = .fetch ∧ asking.version = 0 ∧ (asking.req 0).isSome = true) ∧
    (let c := { cmd (.atomic 0) with phase := .move, slot := true, last := 1, loc := 2 ^ 23 - 8 }
     let s := sending c (asked (.ae 0 0 0))
     let k := answerPkt 5 sOK []
     k.wf = true ∧ headGood k = true ∧ s.txPkt 5 1 4 = some (asked (.ae 0 0 0)) ∧ s.aeCmd 0 0 = some c ∧ Unarmed s 0x1E ∧
      Unarmed s 0x08 ∧ Unarmed s 0x09 ∧ c.loc + 8 ≤ 2 ^ 23) ∧
    (∀ st ∈ [sOK, sDUP, sAHEAD, sPENDING, sTRACK, sSIGFULL], (answerPkt 6 st []).wf = true ∧ headGood (answerPkt 6 st []) = true ∧
      (sending asking (asked .notice)).txPkt 5 1 4 = some (asked .notice)) ∧
    ∀ e ∈ [asked .notice, sentPkt .notice (some 0) none 0, sentPkt .notice none (some 0) 255, sentPkt .notice (some 0) none 255],
      let s := sending asking e
      s.txPkt 5 1 4 = some e ∧ ticksMs (s.f R.FAB_CTL F.FAB_CTL_RETRY_MS) ≤ s.time ∧ Unarmed s 0x1B ∧ e.k.ctx = 5 ∧ e.k.dst < s.nodes ∧
        e.k.dst ≠ s.node ∧ s.upDownPorts 5 none ≠ [] ∧ decide (e.resends < s.f R.FAB_CTL F.FAB_CTL_RETRY_LIMIT) = decide (e.resends = 0) := by
  unfold Unarmed; decide +kernel

def note (op o0 : Nat) (pl : List Byte) : Packet := mk { Packet.blank with src := 1, ctx := 5, seq := 4, low := 4, op := op, opnd0 := BitVec.ofNat 64 o0, payload := pl }
def castRun : CollRun := { runOf (coll 0x4B) with dst := kAddr 0 1 (2 ^ 31 - 2) }
def casting : State := { fabric with colls := { fabric.colls with runs := [castRun] } }
theorem witness_NoticesArrive :
    (∀ k ∈ [note 7 1 [], note 7 2 [], note 8 0 [7, 8], note 9 0 [], note 10 0 []], Arrives fabric k ∧ k.dst = fabric.node ∧
      ((fabric.clearTransit k).rxFind k).1 = .fresh ∧ fabric.collRun 5 = none) ∧
    (let k := note 8 0 [7, 8]
     Arrives casting k ∧ ((casting.clearTransit k).rxFind k).1 = .fresh ∧ casting.collRun 5 = some castRun ∧
      targetOf (kSpace castRun.dst) (kOff castRun.dst + k.opnd1.toNat * etyBytes castRun.ety) k.payload.length = .spad 255 (2 ^ 23 - 2) ∧
      Unarmed casting 0x08 ∧ Unarmed casting 0x09) ∧
    (let k := note 16 0 [7]
     k.wf = true ∧ headGood k = true ∧ k.dst = fabric.node ∧ crc32c k.payload = k.pcrc ∧ Unarmed fabric 0x14) := by
  unfold Arrives Unarmed; decide +kernel

def group0 : LinkGroup := ⟨0, List.replicate 80 0, true, 0⟩
theorem crc24Byte_lt {c : Nat} (b : Byte) (h : c < 2 ^ 24) : crc24Byte c b < 2 ^ 24 := by
  have step : ∀ d < 2 ^ 24, (if 2 ^ 23 ≤ d then (d * 2 % 2 ^ 24) ^^^ 0x864CFB else d * 2) < 2 ^ 24 := by
    intro d hd
    split
    · exact Nat.xor_lt_two_pow (Nat.mod_lt _ (by decide)) (by decide)
    · omega
  have start : c ^^^ b.toNat * 2 ^ 16 < 2 ^ 24 := Nat.xor_lt_two_pow h (by have := b.isLt; omega)
  unfold crc24Byte
  exact List.foldlRecOn (motive := fun d => d < 2 ^ 24) _ _ start fun d hd _ _ => step d hd
theorem linkCrc_lt (g : LinkGroup) : linkCrc g < 2 ^ 24 :=
  List.foldlRecOn (motive := fun d => d < 2 ^ 24) _ _ (by decide) fun _ hd b _ => crc24Byte_lt b hd
theorem marks_fit {v : Nat} (h : v < 2 ^ 24) : v * 2 ^ 488 < 2 ^ 512 := by
  rw [show (512 : Nat) = 24 + 488 from rfl, Nat.pow_add]
  exact Nat.mul_lt_mul_of_pos_right h (Nat.two_pow_pos _)
theorem linkCrc_low (g h : LinkGroup) (c : g.control.toNat % 2 ^ 488 = h.control.toNat % 2 ^ 488) (e : g.slots = h.slots) :
    linkCrc g = linkCrc h := by unfold linkCrc; rw [c, e]
def withControl (c : BitVec 512) : LinkGroup := { group0 with control := c }
theorem withControl_slots (c : BitVec 512) : (withControl c).slots = group0.slots := rfl
theorem group0_low : group0.control.toNat % 2 ^ 488 = 0 := by
  rw [show group0.control = 0#512 from rfl, BitVec.toNat_ofNat, Nat.zero_mod, Nat.zero_mod]
theorem crc_some : ∃ v, v < 2 ^ 24 ∧ linkCrc group0 = v := ⟨_, linkCrc_lt _, rfl⟩
/-- A group of empty slots, whose control flit holds nothing but its CRC. -/
theorem witness_LinkGroup : ∃ g : LinkGroup, g.slots.length = 80 ∧ g.corrected = 0 ∧ bitsOf g.control.toNat 488 24 = linkCrc g ∧
    bitsOf g.control.toNat 464 11 = ((fabric.port 0).rxSeq + 1) % 2048 ∧ bitOf g.control.toNat 486 = false := by
  have hr : ((fabric.port 0).rxSeq + 1) % 2048 = 0 := by decide +kernel
  obtain ⟨v, h, hv⟩ := crc_some
  have cut (n : Nat) (hn : n ≤ 488) : v * 2 ^ 488 / 2 ^ n = v * 2 ^ (488 - n) := by
    obtain ⟨m, hm⟩ := Nat.exists_eq_add_of_le hn
    rw [hm, Nat.add_sub_cancel_left, Nat.pow_add, Nat.mul_comm (2 ^ n), ← Nat.mul_assoc, Nat.mul_div_cancel _ (Nat.two_pow_pos n)]
  have crc : linkCrc (withControl (BitVec.ofNatLT (v * 2 ^ 488) (marks_fit h))) = v := by
    have low : (BitVec.ofNatLT (v * 2 ^ 488) (marks_fit h)).toNat % 2 ^ 488 = group0.control.toNat % 2 ^ 488 := by
      rw [BitVec.toNat_ofNatLT, Nat.mul_mod_left, group0_low]
    exact (linkCrc_low (withControl _) group0 low (withControl_slots _)).trans hv
  refine ⟨withControl (BitVec.ofNatLT (v * 2 ^ 488) (marks_fit h)), List.length_replicate .., rfl, ?_, ?_, ?_⟩
  · rw [crc, withControl, BitVec.toNat_ofNatLT, bitsOf, cut 488 (by decide)]; omega
  · rw [hr, withControl, BitVec.toNat_ofNatLT, bitsOf, cut 464 (by decide)]; omega
  · rw [withControl, BitVec.toNat_ofNatLT, bitOf, cut 486 (by decide), show v * 2 ^ (488 - 486) % 2 = 0 by omega]; rfl
def waitHead : HeadWait := ⟨{ Packet.blank with dst := 1, vc := 4, op := 9 }, none, none, 0⟩
def waiting : State := { fabric with fab := { fabric.fab with heads := [waitHead] }, time := 25000000 }
def body (o : Option Nat) (c : Bool) : Transit := ⟨0, 7, { mk inPut with vc := 7 }, o, 1, 0, c⟩
def passing (u : Transit) : State := { fabric with fab := { fabric.fab with transits := [u] }, time := 25000000 }
theorem witness_LinksAndRouters :
    (fabric.f (R.FAB_PORT_STAT 0) F.FAB_PORT_STAT_STATE = 2 ∧ Unarmed fabric 0x10 ∧
      Unarmed fabric 0x11 ∧ Unarmed fabric 0x12) ∧
    (∀ k ∈ [mk inPut, { mk inPut with hcrc := 0 }, mk { inPut with dst := 1, src := 0 }], k.wf = true ∧ k.age < 5000 ∧ opKnown k.op = true ∧ k.body ≠ 0) ∧
    ((mk inPut).hcrc = (mk inPut).headCrc ∧ ({ mk inPut with hcrc := 0 } : Packet).hcrc ≠ ({ mk inPut with hcrc := 0 } : Packet).headCrc ∧
      Unarmed fabric 0x13 ∧ Unarmed fabric 0x1C ∧ Unarmed fabric 0x19 ∧ 1 < fabric.nodes) ∧
    ((fabric.setF (R.FAB_PORT_STAT 9) F.FAB_PORT_STAT_STATE 2).upDownPorts 5 (some 0) ≠ []) ∧
    (waitHead.k.wf = true ∧ (waiting.fab.heads.find? fun e => e.k.vc == 4 && (e.inp == some 0 || e.inp.isNone) && e.k.ctx == 0 &&
      e.k.seq == 0 && e.k.src == 0 && e.k.dst == 1 && e.k.op == 9) = some waitHead ∧
      waiting.f R.FAB_CTL F.FAB_CTL_ESC_WAIT_NS ≤ 40 * waiting.time ∧ waiting.upDownPorts 4 none ≠ []) ∧
    (∀ u ∈ [body (some 9) false, body (some 9) true, body none false],
      ((passing u).fab.transits.find? fun e => e.port == 0 && e.vc == 7 && decide (e.remain ≠ 0)) = some u ∧
      u.last + ticksUs ((passing u).f R.FAB_CTL F.FAB_CTL_TAIL_US) ≤ (passing u).time ∧ u.k.op ≤ 2 ∧
      u.k.src < (passing u).nodes ∧ u.k.src ≠ (passing u).node ∧ (passing u).upDownPorts 5 none ≠ []) ∧
    (fabric.setF R.MNT_CTL F.MNT_CTL_REEQ_AUTO 0).f R.MNT_CTL F.MNT_CTL_REEQ_AUTO = 0 ∧
    (let s := fabric.setF (R.FAB_PORT_STAT 0) F.FAB_PORT_STAT_STATE 1
     s.f (R.FAB_PORT_STAT 0) F.FAB_PORT_STAT_STATE = 1 ∧ (s.setF (R.FAB_PORT_STAT 0) F.FAB_PORT_STAT_LG_ACTIVE 15).f (R.FAB_PORT_STAT 0) F.FAB_PORT_STAT_LG_ACTIVE ≠ 0) := by
  unfold Unarmed; decide +kernel

theorem witness_StreamsAndRecords :
    (let s := { lastSeen 4 with time := 2 * ticksMs 2000 }
     s.rxStream 5 1 = some ⟨5, 1, 4, [], 0⟩ ∧ ticksMs 1610 ≤ s.time ∧ s.fab.transits = [] ∧ Unarmed s 0x18) ∧
    (let s := { fabric with fab := { fabric.fab with tx := [⟨5, 1, 5, [], 0⟩] }, time := 2 * ticksMs 2000 }
     s.txStream 5 1 = some ⟨5, 1, 5, [], 0⟩ ∧ ticksMs 2000 ≤ s.time) ∧
    (dev.ctxs.lru.contains (2 ^ 20 - 1) = false ∧ dev.ctxs.copyOk.1 = true ∧ (dev.cachedOn 1).length < 65536) ∧
    dev.copyReach 0 = true ∧ dev.copyReach 1 = true := by unfold Unarmed; decide +kernel

/-! ### Tables and register writes -/

def shapes : Nat := 1 + 2 ^ 6 + 2 ^ 12 + 2 ^ 18 + 2 ^ 43
def shapeBad : Nat := 63 + 2 ^ 43
def shapeTree : Nat := 1 + 2 ^ 6 + 2 ^ 12 + 2 ^ 18 + 2 ^ 42 + 2 ^ 43
/-- Context 0, bound to member set 0, is allocated; a fence of it runs or not. -/
def tabled (busy : Bool) : State := { fabric.setCtx 0 { CtxRec.init with alloc := true, ten := 1 } with
  colls := { fabric.colls with runs := if busy then [runOf { coll 0x4D with ctx := 0 }] else [] } }
theorem witness_TableWritesAct :
    (∀ k ∈ [0, 1, 7], Admitted (tabled false) .boathouse (R.CTX_WIN_REC 7 k) 0) ∧
    (∀ off ∈ [R.FAB_MC_ENT, R.COL_MS_ORIG, R.COL_BIND, R.COL_VT_VER], ∀ b : Bool, Admitted (tabled b) .boathouse off 0) ∧
    (∀ n ∈ [shapes, shapeBad, shapeTree], ∀ b : Bool, Admitted (tabled b) .boathouse R.COL_MS_EXT (BitVec.ofNat 64 n)) ∧
    (∀ b : Bool, (tabled b).msetBusy 0 = b ∧ (tabled b).ctxBusy 0 = b ∧ ((tabled b).ctx 0).alloc = true) ∧
    (let m (v : Nat) : MemberSet := ⟨0, 0, bitsOf v 0 24, bitsOf v 24 18, bitOf v 42, bitOf v 43⟩
     (tabled false).mset 0 = MemberSet.init ∧ (tabled false).msShape (m shapes) = true ∧ (tabled false).msShape (m shapeBad) = false ∧ (tabled false).msShape (m shapeTree) = true) ∧
    (fabric.ctx 0).alloc = false ∧ Admitted fabric .boathouse R.COL_BIND 0 := by unfold Admitted Unarmed; decide +kernel
theorem witness_RegisterWrites :
    (∀ off ∈ [R.AE_CTL 255, R.STR_CTL 7], Admitted locked .boathouse off 0 ∧
      (ctlDecode off).any (fun q => [Blk.ae, .eng, .cvu, .str, .clk, .hbm].contains q.1) = true ∧ (regRow off).isSome = true) ∧
    Unarmed locked 0x24 ∧ ((ctlDecode (R.AE_CTL 255)).any fun q => q.2.1 == 255 && coreBlk q.1) = true ∧ locked.dieDown 7 = false ∧
    locked.cluster 7 3 = 1 ∧ locked.entitled .boathouse none aRead 2 (R.AE_CTL 255) 8 (.ctl (R.AE_CTL 255)) 0 = true := by
  unfold Admitted Unarmed; decide +kernel

/-! ### Scribes -/

/-- Stack 0 holds, at 1,024, a step record of one layer whose ranges start at the scratchpads of cores 1 to 5; its other
bytes are zero. -/
def stepCells : List Host.Cell := [(1060, 1), (1066, 0x80), (1069, 0x10), (1075, 1), (1077, 0x10), (1082, 0x80), (1083, 1), (1085, 0x10),
  (1091, 2), (1093, 0x10), (1098, 0x80), (1099, 2), (1101, 0x10)]
def scribed (busy p1 : Nat) (patching : Bool) : State :=
  { (locked.setF (R.SCB_STAT 0) F.SCB_STAT_BUSY busy).setF (R.SCB_STAT 0) F.SCB_STAT_P1_VALID p1 with
    hbm := stepCells, scribes := [(0, { Scribe.init with patching := patching })] }
theorem witness_ScribePassesBegin :
    (∀ q ∈ [(1, 0, false), (0, 0, true), (0, 0, false), (0, 1, false)], ∀ op ∈ [1, 2],
      Admitted (scribed q.1 q.2.1 q.2.2) .boathouse (R.SCB_PASS 0) (passWord op 1024) ∧
      (scribed q.1 q.2.1 q.2.2).f (R.SCB_STAT 0) F.SCB_STAT_BUSY = q.1 ∧
      (scribed q.1 q.2.1 q.2.2).f (R.SCB_STAT 0) F.SCB_STAT_P1_VALID = q.2.1 ∧ ((scribed q.1 q.2.1 q.2.2).scribe 0).patching = q.2.2) ∧
    let s := scribed 0 1 false
    let r := parseRec (s.hbmBytes 0 1024 128)
    StackSound s 0 ∧ Unarmed s 0x32 ∧ Unarmed s 0x31 ∧ Unarmed s 0x08 ∧ Unarmed s 0x09 ∧ s.recOk 0 (s.hbmBytes 0 1024 128) r = true ∧
      s.f (R.SCB_TABLE 0) F.SCB_TABLE_NENT = 0 ∧ targetOf (kSpace (r.sumsOut + 0)) (kOff (r.sumsOut + 0)) r.slice_ = .spad 1 0 ∧
      targetOf (kSpace r.stepsOut) (kOff r.stepsOut) 24 = .spad 2 0 ∧
      targetOf (kSpace r.sumsIn) (kOff r.sumsIn) (31 * r.stride + r.slice_) = .spad 3 0 ∧
      targetOf (kSpace r.stepsIn) (kOff r.stepsIn) 768 = .spad 4 0 ∧ s.coreClosed 2 = false ∧ s.coreClosed 3 = false ∧
      s.coreClosed 4 = false ∧ fieldAt (s.spadBytes 4 0 768) (24 * 31 + 16) 8 = 0 := by
  unfold StackSound Admitted Unarmed; decide +kernel

def entryBytes (mask : Nat) : List Byte := leBytes 64 0 ++ leBytes 8 mask ++ leBytes 56 0
def stepping2 (c : Scribe) : State := { locked with hbm := stepCells, scribes := [(0, c)], time := 2500000000 }
def entering (mask : Nat) : Scribe := { Scribe.init with op := 2, recAt := 1024, store := [entryBytes mask], left := [0] }
theorem witness_ScribeEntriesReleaseAndComplete :
    (∀ m ∈ [0, 2 ^ 63], let s := stepping2 (entering m)
      (s.scribe 0).op = 2 ∧ (s.scribe 0).result = none ∧ (s.scribe 0).left ≠ [] ∧ s.cores = [] ∧ (s.nextEntry 0).isSome = decide (m = 0)) ∧
    (let s := stepping2 { entering (2 ^ 63) with waits := some 0 }
     (s.scribe 0).waits = some 0 ∧ s.f (R.SCB_REL_WD 0) F.SCB_REL_WD_LIMIT ≤ s.time ∧ s.nextEntry 0 = none ∧ Unarmed s 0x32 ∧
      (s.threshold 0x32).1 = 0) ∧
    (∀ op ∈ [1, 2], let s := stepping2 { Scribe.init with op := op, recAt := 1024, result := some pOK }
      (s.scribe 0).result = some pOK ∧ (s.scribe 0).held = false ∧ (s.scribe 0).cur = none ∧ bitOf (s.stepRec 0).doneCtx 31 = false ∧
      s.doneOk 0 (s.stepRec 0) = true ∧ Unarmed s 0x08 ∧ Unarmed s 0x09 ∧ s.coreClosed 5 = false ∧
      targetOf (kSpace ((s.stepRec 0).doneAt)) (kOff ((s.stepRec 0).doneAt)) 8 = .spad 5 0) ∧
    let s := { stepping2 { Scribe.init with op := 1, recAt := 4096, result := some pOK } with hbm := [] }
    (dev.doneOk 0 (dev.stepRec 0) = false ∧ (s.scribe 0).result = some pOK) := by unfold Unarmed; decide +kernel

/-! ### Snapshots, recovery and images -/

def inState (n : Nat) : State := loaded.setF (R.SNP_T_STAT 1) F.SNP_T_STAT_JOB_STATE n
def job1 : Job := { seq := 0, phase := phRunning, status := 0, err := (0, 0, 0, 0), endCode := none, jobId := [], ctxUsed := 0
                    dies := [0], grants := [⟨0, 0, 1, false, 1⟩], code := [] }
def image1 : Image := ⟨5, false, [0], [], [(0, 0, 0, [1])], [(true, 5)], [], [], [], []⟩
/-- A tenancy held with a job, a complete local image and a policy. -/
def held : State := let s := (inState jHeld).setF (R.SNP_T_GEN 1) F.SNP_T_GEN_LOCAL 5
  { s with ten := { s.ten with jobs := [(2, job1)], images := [(1, image1)], policies := [(1, ⟨true, false, 0, 0, 0, 0, 0, 0, 0, 0⟩)]
                               partner := [(1, image1)] } }
def verifying : State := { held.setMset 0 oneSet with
  regs := (held.setF (R.SNP_T_STAT 1) F.SNP_T_STAT_JOB_STATE jVerifying).regs }
theorem witness_JobsStopAndComeBack :
    (∀ n ∈ [jRunning, jPreempted, jHeld], Admitted (inState n) .boathouse R.SNP_CMD (snpWord 4 1 0 0 false 0) ∧ (inState n).jobState 1 = n ∧
      (inState n).snapRun 1 = none) ∧
    ((inState jStopping).tenRuns 1 = false ∧ (inState jStopping).colls.queue = [] ∧ (inState jStopping).colls.runs = [] ∧
      (inState jStopping).scribes = [] ∧ (inState jStopping).dies = [] ∧ (inState jStopping).fab.tx = [] ∧ (inState jStopping).ctxs.sigs = []) := by unfold Admitted Unarmed; decide +kernel
theorem witness_RestoreAndVerify :
    (Admitted held .boathouse R.SNP_CMD (snpWord 2 1 0 0 false 0) ∧ held.bhUp = true ∧ held.diesAwake 1 = true ∧
      held.jobState 1 = jHeld ∧ held.job 1 0 = some job1 ∧ held.imageOf 1 0 0 = some image1 ∧
      held.spareMap 1 ((held.diesOf 1).filter fun d => !job1.dies.contains d && !held.stackLost d && !held.dieDown d) job1.dies = some [0]) ∧
    (verifying.verifying 1 = some image1 ∧ verifying.bhUp = true ∧ Unarmed verifying 0x51 ∧ verifying.job 1 0 = some job1 ∧
      image1.replicas.length = 1) := by unfold Admitted Unarmed; decide +kernel
theorem witness_Replies :
    verifying.repliesFit image1 [([(Config.sha512 [1], 5)], [2])] = true ∧ verifying.repliesFit image1 [([(0, 6)], [2])] = true ∧
    (∀ e ∈ image1.replicas.zip [([(Config.sha512 [1], 5)], ([2] : List Byte))], ∀ r ∈ e.2.1, r = (Config.sha512 e.1.2.2.2.2.2, image1.gen)) ∧
    ∃ e ∈ image1.replicas.zip [([((0 : BitVec 512), 6)], ([2] : List Byte))], ∃ r ∈ e.2.1, r ≠ (Config.sha512 e.1.2.2.2.2.2, image1.gen) := by
  refine ⟨by decide +kernel, by decide +kernel, ?_, _, List.mem_singleton.2 rfl, _, List.mem_singleton.2 rfl, fun h => ?_⟩
  · intro e he r hr
    rw [List.mem_singleton.1 he] at hr ⊢
    rw [List.mem_singleton.1 hr]; rfl
  · exact absurd (congrArg Prod.snd h) (by decide)

/-- A manifest of one entry of 8,192 bytes stands at the start of core 0's scratchpad. -/
def manifested : State := let s := (inState jRunning).wr (R.SNP_T_MANIFEST 1) (BitVec.ofNat 64 (kAddr 0 1 0))
  { s with ten := { s.ten with jobs := [(2, job1)] }, spad := [(0, 1), (17, 32)] }
def snapping (r : SnapRun) : State := { (inState jRunning).setSnap 1 r with time := 2500000000 }
def phase (n what : Nat) : SnapRun := ⟨what, n, 0, 0, [], false, false⟩
theorem witness_SnapshotsRunTheirCourse :
    (∀ s ∈ [manifested, inState jRunning], Admitted s .boathouse R.SNP_CMD (snpWord 1 1 0 0 false 0) ∧ s.jobState 1 = jRunning ∧
      s.snapRun 1 = none ∧ Unarmed s 0x52 ∧ Admitted s .boathouse R.SNP_CMD (snpWord 5 1 0 0 false 0)) ∧
    ((manifested.manifest 1).any (fun b => manifested.manifestOk 1 (manEntries b)) = true ∧ manifested.ten.drains = [] ∧
      manifested.maint.running ++ manifested.maint.queue = []) ∧
    (inState jRunning).manifest 1 = none ∧
    (Admitted (inState jPreempted) .boathouse R.SNP_CMD (snpWord 6 1 0 0 false 0) ∧ (inState jPreempted).jobState 1 = jPreempted ∧
      (inState jPreempted).snapRun 1 = none) ∧
    (let s := snapping (phase 1 1)
     s.snapRun 1 = some (phase 1 1) ∧ s.tenRuns 1 = false ∧ ticksMs (s.f R.SNP_CTL F.SNP_CTL_BOUNDARY_MS) < s.time ∧ Unarmed s 0x50 ∧
      (s.setDie 0 { s.die 0 with run := some (run7 none) }).tenRuns 1 = true) ∧
    (let s := snapping (phase 2 5)
     s.snapRun 1 = some (phase 2 5) ∧ s.quiesced 1 = true ∧ ticksUs (s.f R.SNP_CTL F.SNP_CTL_QUIESCE_US) < s.time ∧ Unarmed s 0x50 ∧
      (s.setAe 0 { s.ae 0 with cmds := [cmd .fetch] }).quiesced 1 = false ∧ (s.job 1 0).isNone = true) ∧
    (∀ b : Bool, let s := { (held.setSnap 1 { phase 4 1 with torn := b }) with pins := { held.pins with pcie := true } }
      (s.snapRun 1).isSome = true ∧ s.ten.images.look 1 = some image1 ∧ s.pins.pcie = true) := by
  unfold Admitted Unarmed; decide +kernel

def draining (k : Nat) : State := { held with ten := { held.ten with drains := [⟨1, k + 1, image1⟩] } }
theorem witness_ImagesDrainAndShip :
    (∀ k : Fin 3, (draining k).drain 1 (k + 1) = some ⟨1, k + 1, image1⟩ ∧ (draining k).bhUp = true ∧ Unarmed (draining k) 0x42 ∧
      Unarmed (draining k) 0x43) ∧
    (Admitted held .boathouse R.SNP_CMD (snpWord 3 1 0 7 true 0) ∧ held.imageOf 1 0 0 = some image1 ∧
      (held.ten.policies.look 1).isSome = true) := by unfold Admitted Unarmed; decide +kernel

/-! ### Maintenance, jobs and hosts -/

theorem witness_FencesComeAndGo : (∀ q ∈ [(1, 255), (2, 31), (3, 2047), (4, 31), (5, 31), (6, 63), (7, 55), (8, 15)],
      (fenceKind q.1).isSome = true ∧ ((fenceKind q.1).all fun e => decide (q.2 + 1 = e.2)) = true ∧
      ∀ b : Bool, Admitted loaded .boathouse R.MNT_FENCE_REQ (fenceWord q.1 q.2 b)) ∧
    ((loaded.setF (R.COX_SELF 255) F.COX_SELF_MAPPED 1).coreMapped 255 = true ∧ loaded.tenOfDie (255 / 32) = some 1 ∧ loaded.jobState 1 = jRunning) := by
  unfold Admitted Unarmed; decide +kernel
def req (act scope : Nat) : MaintReq := ⟨act, scope, 0, .boathouse, 0, 0, none⟩
def arb (run queue : List MaintReq) : State := { dev with maint := ⟨run, queue, [], []⟩, time := 10 ^ 15, bh :=
  { dev.bh with trial := some ⟨0, default, none⟩ } }
theorem witness_MaintenanceIsArbitrated :
    (∀ q ∈ [(1, 31), (2, 31), (3, 15), (4, 0), (5, 31)], Admitted (arb [] []) .boathouse R.MNT_REQ (maintWord q.1 q.2 0) ∧
      ((arb [] []).maintConflict (req q.1 q.2) (req q.1 q.2) = true ∨ q.1 = 5)) ∧
    (Unarmed (arb [] []) 0x52 ∧ Unarmed (arb [] []) 0x4A ∧ (arb [] []).bh.nor.slotA.length = 3 ∧ (arb [] []).bh.nor.slotB.length = 3 ∧
      (arb [] []).bhUp = true ∧ ((arb [] []).setF R.MNT_CTL F.MNT_CTL_SCRUB_EN 1).f R.MNT_CTL F.MNT_CTL_SCRUB_EN = 1 ∧
      (arb [] []).f R.MNT_CTL F.MNT_CTL_SCRUB_HOURS * 3600 * 25000000 ≤ (arb [] []).time) ∧
    (∀ a ∈ [1, 2, 3, 4], (arb [] [req a 0]).maint.queue[0]? = some (req a 0) ∧ (arb [] [req a 0]).maintReady 0 = true ∧
      (arb [req a 15] []).maint.running[0]? = some (req a 15)) ∧
    (∀ a ∈ [1, 3, 4], (arb [] []).maintMayEnd (req a 15) true = true ∧ (arb [] []).maintMayEnd (req a 15) false = true) ∧
    (({ arb [] [] with regs := [(R.HBM_SOFT_REPAIRS 15, BitVec.ofNat 64 (2 ^ F.HBM_SOFT_REPAIRS_SPARE.1))] } : State).maintMayEnd (req 2 15) true = true) ∧
    ((arb [] [req 6 7]).maint.queue[0]? = some (req 6 7) ∧ ticksMs ((arb [] []).f R.MNT_CTL F.MNT_CTL_SNAP_DEFER_MS) < (arb [] []).time) ∧
    ((arb [] []).bh.trial.isSome = true ∧ (arb [] []).bh.trial.all (fun w => decide (w.until_ ≤ 0)) = true) := by
  unfold Admitted Unarmed; decide +kernel

def jobbed (l : List (Nat × Job)) (n : Nat) : State := { inState n with ten := { (inState n).ten with jobs := l } }
def admittedJob : Job := { job1 with phase := phAdmitted }
def onDie (s : State) : State := s.setDie 0 { s.die 0 with run := some (run7 none) }
theorem witness_JobsLoadStartAndEnd :
    (∀ l ∈ [[], [(2, job1)], [(2, job1), (3, job1)]], Admitted (jobbed l jRunning) .boathouse (R.TEN_T_DOORBELL 1) (dbWord 1 255 64) ∧
      (jobbed l jRunning).admitted 1 = true) ∧
    ((jobbed [] jRunning).hasJob 1 0 = false ∧ (jobbed [(2, job1)] jRunning).hasJob 1 0 = true ∧
      (jobbed [(2, job1)] jRunning).hasJob 1 1 = false ∧ (jobbed [(2, job1), (3, job1)] jRunning).hasJob 1 1 = true) ∧
    (jobbed [(2, admittedJob)] jNone).startable 1 = some admittedJob ∧
    (∀ s ∈ [jobbed [(2, job1)] jRunning, onDie (jobbed [(2, job1)] jRunning)], Admitted s .boathouse (R.TEN_T_JOB_END 1) 7 ∧
      s.job 1 0 = some job1 ∧ s.jobState 1 = jRunning) ∧
    ((jobbed [(2, job1)] jRunning).tenRuns 1 = false ∧ (onDie (jobbed [(2, job1)] jRunning)).tenRuns 1 = true) ∧
    (∀ s ∈ [jobbed [(2, { job1 with phase := phEnded }), (3, admittedJob)] jRunning, jobbed [(2, job1)] jHeld],
      Admitted s .boathouse (R.TEN_T_DOORBELL 1) (dbWord 2 255 0) ∧ s.admitted 1 = true ∧ (s.job 1 0).isSome = true) ∧
    (jobbed [(2, job1)] jHeld).jobState 1 = jHeld ∧ (jobbed [(2, { job1 with phase := phEnded }), (3, admittedJob)] jRunning).job 1 1 = some admittedJob := by
  unfold Admitted Unarmed; decide +kernel

def pair : QueuePair := ⟨1, 0, 0, 0, 0, 0, 0, 0, 0⟩
/-- Sub-port 0 of the first Ethernet port is up, with a queue pair of tenancy 1, which window 5 lets into the scratchpads. -/
def linked : State := let s := ten.setF (R.ETH_P_STAT 0) F.ETH_P_STAT_LINK 1
  { s with ten := { s.ten with qps := [(0, pair)], subs := [(0, ⟨1, 2, 3, 4⟩)] }
           wins := [(5, (BitVec.ofNat 64 (putBits (putBits (putBits (putBits (putBits 0 F.TEN_WIN_ENT0_VALID.1 1 1) F.TEN_WIN_ENT0_RIGHTS.1
             F.TEN_WIN_ENT0_RIGHTS.2 7) F.TEN_WIN_ENT0_GTEN.1 F.TEN_WIN_ENT0_GTEN.2 1) F.TEN_WIN_ENT0_SPACE.1 F.TEN_WIN_ENT0_SPACE.2 1)
             F.TEN_WIN_ENT0_OWNER.1 F.TEN_WIN_ENT0_OWNER.2 1), 0))] }
theorem witness_HostsReachTheDevice :
    (linked.qpUp 0 = some pair ∧ kSpace (kAddr 0 1 (2 ^ 31 - 2)) = 1 ∧ targetOf 1 (kOff (kAddr 0 1 (2 ^ 31 - 2))) 2 = .spad 255 (2 ^ 23 - 2) ∧
      linked.entitled (.host 0 5) (some 1) aWrite 1 (2 ^ 31 - 2) 2 (.spad 255 (2 ^ 23 - 2)) 0 = true ∧
      linked.entitled (.host 0 6) (some 1) aWrite 1 (2 ^ 31 - 2) 2 (.spad 255 (2 ^ 23 - 2)) 0 = false ∧
      linked.entitled (.host 0 5) (some 1) aRead 1 (2 ^ 31 - 2) 2 (.spad 255 (2 ^ 23 - 2)) 0 = true ∧
      linked.coreClosed 255 = false ∧ (linked.innerPath (8 + qpPort 0 / 2) (255 / 32)).isSome = true ∧ linked.hostWaits 0 = false) ∧
    (∀ k ∈ [0x1D, 0x15, 0x08, 0x09], Unarmed linked k) ∧ (linked.ae 255).zconf = [] ∧
    (linked.f (R.ETH_P_STAT 0) F.ETH_P_STAT_LINK ≠ 0 ∧ linked.ethUp 0 0 = true ∧ (linked.sub 0 0).ip4 = 3 ∧ (linked.sub 0 0).ip6 = 4) := by
  unfold Unarmed; decide +kernel

/-! ### Boathouse, supply and errors -/

def up : State := { dev.setF R.BH_STAT F.BH_STAT_READY 1 with bh := { dev.bh with spdm := 3 } }
theorem witness_AttestationAnswers : up.spdmOn = true ∧ up.power.ao = true ∧ up.bh.i3c.length = 2 ∧ up.i3cAnswers 0 = true ∧
    up.i3cAnswers 1 = false ∧ up.bh.i3c[0]? = some none ∧ 0x85 ∉ [0x81, 0x82, 0x83, 0xE0, 0xE1, 0xE3, 0x84] := by decide +kernel
theorem test_second_assignment : (match exec (.setdasa 0 0x3A 9) { up with bh := { up.bh with i3c := [some 8, none] } } with
    | .next t => t.bh.i3c == [some 8, none] | _ => false) = true := by decide +kernel

def pal0 : Palimpsest := ⟨1, 0, 0, [], [], true⟩
def mirrored (m : Option (Nat × Palimpsest)) : State := { up with pals := [some pal0, none], time := 1500000000, bh := { up.bh with mirror := m } }
theorem witness_CopybooksAndMirrorsAreKept :
    Admitted up .boathouse R.BH_CMD (bhWord 2 0 64) ∧
    Admitted up .boathouse R.BH_CMD (bhWord 1 0 0) ∧ Admitted (mirrored none) .boathouse R.BH_CMD (bhWord 3 0 0) ∧
    (∀ k ∈ [1, 2, 3], Admitted up .boathouse R.BH_CMD (bhWord 4 k 0)) ∧ Unarmed up 0x48 ∧ Unarmed up 0x49 ∧ Unarmed up 0x4A ∧
    (∀ m ∈ [none, some (1, pal0)], (mirrored m).pal = some pal0 ∧ (mirrored m).bhOn = true ∧ (mirrored m).mirrorDue = false ∧
      (mirrored m).bh.mirrorTick + 1500000000 ≤ (mirrored m).time ∧ (mirrored m).bh.mirror = m) ∧
    pal0.seq < 2 ^ 64 := by unfold Admitted Unarmed; decide +kernel

def counting : State := { dev with errs := { dev.errs with wins := [⟨1, 4, 31, 1, 0⟩] }, time := 10 ^ 12 }
def injecting (en : Nat) : State := dev.setF R.INJ_CTL F.INJ_CTL_EN en
def capturing (q : Option (Nat × List Byte)) : State := { dev.setF R.TEL_CTL F.TEL_CTL_PERIODIC_EN 1 with
  bh := { dev.bh with capture := q }, time := 5 }
theorem witness_ThresholdsInjectionsAndCaptures :
    (counting.power.ao = true ∧ ∃ w ∈ counting.errs.wins, w.opened + (counting.threshold w.det).2.1 * 25000000 ≤ counting.time) ∧
    (∀ en ∈ [0, 1], Admitted (injecting en) .boathouse (R.INJ_P_CTL 1) 1 ∧ Unarmed (injecting en) 1 ∧
      (injecting en).f R.INJ_STAT F.INJ_STAT_ARMED < 127 ∧ (injecting en).f R.INJ_CTL F.INJ_CTL_EN = en) ∧
    (detector 1).isSome = true ∧ Admitted dev .boathouse R.INJ_CTL 0 ∧
    (∀ q ∈ [none, some (4, [1])], Admitted (capturing q) .boathouse R.TEL_CAP_TRIG 1 ∧ (capturing q).power.ao = true ∧
      (capturing q).f R.TEL_CTL F.TEL_CTL_PERIODIC_EN = 1 ∧ (capturing q).bh.capDue ≤ (capturing q).time ∧ (capturing q).bh.capture = q) ∧
    (let a := (capturing none).captureAddr 1
     kSpace a = 0 ∧ kOff a % 65536 = 0 ∧ targetOf 0 (kOff a) 1 = .hbm 0 (kOff a) ∧
      (capturing none).fencedTarget (.hbm 0 (kOff a)) 1 = false) := by unfold Admitted Unarmed; decide +kernel
theorem witness_LongCapture : ∃ bs : List Byte, 1 * 65536 < bs.length := ⟨List.replicate 65537 0, by rw [List.length_replicate]; decide⟩

def tr0 : Training := { (default : Training) with readyMs := 1000 }
def applied : State := { dev with pins := { dev.pins with vin := true, refclk := true } }
def lowV : State := { applied with pins := { applied.pins with under := true }, bh := { applied.bh with book := [1], fw := [some default, none] } }
theorem witness_SupplyAndResetsAct :
    ({ dev with pins := { dev.pins with refclk := true } } : State).mayStart tr0 = true ∧ State.reset.pins.vin = false ∧ State.reset.pins.resetN = false ∧
    (let s := { applied with pins := { applied.pins with resetN := true } }
     s.pins.refclk = true ∧ s.mayStart tr0 = true ∧ s.pins.vin = true) ∧
    (lowV.power.ao = true ∧ lowV.pins.under = true ∧ lowV.pins.resetN = false ∧ lowV.pins.refclk = true ∧ lowV.bh.lost = false ∧
      lowV.bh.rom = false ∧ lowV.timesOk tr0 195 = true) ∧
    (applied.power.ao = true ∧ applied.pins.under = false ∧ Unarmed applied 0x3F ∧ applied.pins.vin = true ∧ applied.pins.resetN = false) := by
  unfold Unarmed; decide +kernel
theorem witness_LockedFieldsIgnoreWrites : ∀ k ∈ [0, 1], let s := dev.setF R.BH_LOCK F.BH_LOCK_LOCK k
    s.f R.BH_LOCK F.BH_LOCK_LOCK = k ∧ Admitted s .owner (R.FAB_PORT_CTL 15) 0 ∧ Admitted s .owner (R.ETH_P_CTL 3) 0 ∧
      Issuer.owner ≠ .boathouse ∧ lowV.f R.BH_STAT F.BH_STAT_READY = 0 := by unfold Admitted Unarmed; decide +kernel

def clocked (m : BitVec 4) : State := { locked.setF R.BH_LOCK F.BH_LOCK_LOCK 1 with pins := { locked.pins with srefclk := m } }
def standby (t : Option PatchTrial) (m : Option (Nat × Palimpsest)) : State :=
  { dev.setF R.BH_STAT F.BH_STAT_STANDBY_OK 1 with bh := { dev.bh with trial := t, mirror := m } }
def announced : State := { dev with time := 10 ^ 9, bh := { dev.bh with ready := some 0, sent := 1, book := [1] } }
theorem witness_ClocksLinksAndPairs :
    (locked.pins.refclk = true ∧ locked.dieDown 0 = false ∧ locked.f (R.CLK_STAT 0) F.CLK_STAT_LOCKED = 1 ∧
      locked.f (R.CLK_STAT 0) F.CLK_STAT_STOPPED = 0 ∧ Unarmed locked 0x3C ∧ locked.tenOfDie 0 = some 1 ∧ locked.jobState 1 = jRunning) ∧
    (∀ k : Fin 4, bitOf (clocked 15).pins.srefclk.toNat k = true ∧ bitOf (clocked 0).pins.srefclk.toNat k = false) ∧
    (∃ p ∈ clkPorts 0, (clocked 0).f (R.FAB_PORT_STAT p) F.FAB_PORT_STAT_STATE = 0 ∧ (clocked 0).portFenced p = false ∧
      (clocked 0).f (R.FAB_PORT_CTL p) F.FAB_PORT_CTL_LG_FENCE ≠ 15 ∧
      ((clocked 0).setF (R.FAB_PORT_CTL p) F.FAB_PORT_CTL_EN 1).f (R.FAB_PORT_CTL p) F.FAB_PORT_CTL_EN = 1) ∧
    (dev.power.ld ≠ 0 ∧ dev.pins.pcie = false ∧ linked.ethUp 0 0 = true ∧ Unarmed linked 0x40) ∧
    (∀ t ∈ [none, some ⟨0, default, none⟩], (standby t none).mayTakeover = true ∧ (standby t (some (0, pal0))).mayTakeover = true ∧
      Unarmed (standby t none) 0x4B) ∧
    (dev.waits = [] ∧ dev.bh.lost = false) ∧
    (announced.bh.ready = some 0 ∧ announced.bh.sent < 2 ∧ announced.bhOn = true ∧ announced.bh.book ≠ [] ∧ 75000000 ≤ announced.time) ∧
    (dev.timesOk tr0 280 = true ∧ Unarmed dev 0x4A ∧ dev.bh.nor.slotA.length = 3 ∧ dev.pins.resetN = false) := by
  unfold Unarmed; decide +kernel

/-! ### The machine -/

theorem witness_StepRunsTheFrontCommand : (match step { dev with pending := [.jtagInstruction 1, .vinRangeRelease] } with
    | .next t => t.pending == [.vinRangeRelease] && t.bh.jtag == 1 | _ => false) = true := by decide +kernel
theorem witness_CommandsKeepToTheirParts : (match exec (.jtagInstruction 1) dev with | .next _ => true | _ => false) = true ∧
    Part.spad ∉ touches (.jtagInstruction 1) := by decide +kernel
theorem witness_EveryStepKeepsTheMachine : (match step { dev with pending := [.jtagInstruction 1] } with | .next _ => true | _ => false) = true ∧
    Memory.wf { dev with pending := [.jtagInstruction 1] } = true := by decide +kernel

/-! ### Published check values and the spec's own numbers -/

/-- The check value of CRC-32C over "123456789". -/
theorem test_crc32c : crc32c [0x31, 0x32, 0x33, 0x34, 0x35, 0x36, 0x37, 0x38, 0x39] = 0xE3069283 := by decide +kernel
/-- The check value of the CRC-24 of RFC 4880 over "123456789". -/
theorem test_crc24 : ([0x31, 0x32, 0x33, 0x34, 0x35, 0x36, 0x37, 0x38, 0x39] : List Byte).foldl crc24Byte 0xB704CE = 0x21CF02 := by
  decide +kernel
theorem test_no_table_words : decodeTableWord 64 0 = none ∧ (State.reset.withFetchWord 64 7).pending = [] := by decide +kernel

end Sys2Proof.Tests
end

/-! PROOFS. Settles the statements of the family "scope": what reset leaves, that a command keeps to its parts, and
what the writes of registers, context records, trees, member sets, bindings and versions do. -/

namespace Sys2Proof.Machine

open Sys2Proof

/-! ### Fields of a number and of a register -/

/-- A field is not changed by dropping bits above it. -/
theorem bitsOf_mod_two_pow (v lo w n : Nat) (h : lo + w ≤ n) : bitsOf (v % 2 ^ n) lo w = bitsOf v lo w := by
  have field (x : Nat) : bitsOf x lo w = x % 2 ^ (lo + w) / 2 ^ lo := by
    rw [Nat.pow_add, Nat.mod_mul_right_div_self]; rfl
  rw [field, field, Nat.mod_mod_of_dvd _ (Nat.pow_dvd_pow 2 h)]

/-- A field holds what was put there. -/
theorem bitsOf_putBits (v lo w x : Nat) : bitsOf (putBits v lo w x) lo w = x % 2 ^ w := by
  have pos : 0 < 2 ^ lo := Nat.two_pow_pos lo
  have split : putBits v lo w x = v % 2 ^ lo + 2 ^ lo * (2 ^ w * (v / 2 ^ lo / 2 ^ w) + x % 2 ^ w) := by
    have hv : v % 2 ^ lo + 2 ^ lo * (v / 2 ^ lo) = v := Nat.mod_add_div v _
    have hq : v / 2 ^ lo % 2 ^ w + 2 ^ w * (v / 2 ^ lo / 2 ^ w) = v / 2 ^ lo := Nat.mod_add_div _ _
    have hm := congrArg (2 ^ lo * ·) hq
    simp only [Nat.mul_add] at hm
    simp only [putBits, bitsOf, Nat.mul_add, Nat.mul_comm _ (2 ^ lo)]
    omega
  rw [bitsOf, split, Nat.add_mul_div_left _ _ pos, Nat.div_eq_of_lt (Nat.mod_lt _ pos), Nat.zero_add,
    Nat.mul_add_mod, Nat.mod_mod]

/-- A field reads what it was given, as far as its width holds it. -/
theorem State.f_setF_self (s : State) (a lo w v : Nat) (h : lo + w ≤ 64) : (s.setF a (lo, w) v).f a (lo, w) = v % 2 ^ w := by
  unfold State.setF State.f
  rw [State.rd_wr_self, BitVec.toNat_ofNat, bitsOf_mod_two_pow _ _ _ _ h, bitsOf_putBits]

/-! ### Reset -/

/-- What a register reads at reset, by its row: its fields' reset values and what the part fixes (R14), or zero where no register
stands (R10). -/
theorem regReset_of_regRow (a : Nat) :
    regReset a = match regRow a with
      | none => 0
      | some q => BitVec.ofNat 64 (rowReset q.2.2.2.1 + regFixed q.1 q.2.1 q.2.2.1) := by
  unfold regReset regRow
  rcases ctlDecode a with _ | ⟨b, i, o⟩
  · rfl
  · dsimp only
    rcases rowAt b.rows o with _ | ⟨r, n⟩ <;> rfl

/-- Settles O2: every part of the reset state is its initial value, and a register that nothing has written reads `regReset`. -/
theorem resetLeaves : Obligations.ResetLeaves := by
  unfold Obligations.ResetLeaves
  refine ⟨rfl, rfl, rfl, rfl, rfl, rfl, by decide +kernel, by decide +kernel, fun _ _ => rfl, fun _ _ => rfl, fun a h => ?_,
    fun a b i o r n h => ?_⟩
  · rw [show State.reset.rd a = regReset a from rfl, regReset_of_regRow, h]
  · rw [show State.reset.rd a = regReset a from rfl, regReset_of_regRow, h]

/-! ### Frames -/

/-- Settles O4, by the frame of every command: what `touches` does not list stays. -/
theorem commandsKeepToTheirParts : Obligations.CommandsKeepToTheirParts := by
  unfold Obligations.CommandsKeepToTheirParts
  intro c s t f e n
  exact exec_same e f n

/-! ### Tree entries, member sets and version entries -/

theorem State.tree_setTree (s : State) n v z : (s.setTree n v).tree z = if z = n then v else s.tree z := NMap.get_set ..
@[simp] theorem State.tree_setTree_self (s : State) n v : (s.setTree n v).tree n = v := by simp [State.tree_setTree]
theorem State.tree_setTree_ne (s : State) n v z (h : z ≠ n) : (s.setTree n v).tree z = s.tree z := by
  simp [State.tree_setTree, h]

theorem State.mset_setMset (s : State) n v z : (s.setMset n v).mset z = if z = n then v else s.mset z := NMap.get_set ..
@[simp] theorem State.mset_setMset_self (s : State) n v : (s.setMset n v).mset n = v := by simp [State.mset_setMset]
theorem State.mset_setMset_ne (s : State) n v z (h : z ≠ n) : (s.setMset n v).mset z = s.mset z := by
  simp [State.mset_setMset, h]

theorem State.vtEntry_setVt (s : State) n v z : (s.setVt n v).vtEntry z = if z = n then v else s.vtEntry z := NMap.get_set ..
@[simp] theorem State.vtEntry_setVt_self (s : State) n v : (s.setVt n v).vtEntry n = v := by simp [State.vtEntry_setVt]
theorem State.vtEntry_setVt_ne (s : State) n v z (h : z ≠ n) : (s.setVt n v).vtEntry z = s.vtEntry z := by
  simp [State.vtEntry_setVt, h]

/-! ### Context records (R230 to R232) -/

/-- Bringing a record into its cache changes no record. -/
theorem State.ctx_ctxLoad {s t : State} {busy : Nat → Bool} {x : Nat} (h : s.ctxLoad busy x = some t) (y : Nat) :
    t.ctx y = s.ctx y := by
  unfold State.ctxLoad at h
  extract_lets l s₁ here s₂ at h
  split at h
  · cases h; exact State.ctx_bump ..
  split at h
  · cases h
  split at h
  · cases h; exact State.ctx_bump ..
  split at h
  · cases h
  · cases h; exact (State.ctx_bump ..).trans (State.ctx_bump ..)

@[simp] theorem State.ctx_ctxNeedD (s : State) (x y : Nat) : ((s.ctxNeed x).getD s).ctx y = s.ctx y := by
  rcases h : s.ctxNeed x with _ | t
  · rfl
  · exact State.ctx_ctxLoad h y

theorem State.recWrite_out (s : State) (w k : Nat) (v : Word) : (s.recWrite w k v).out = s.out :=
  (State.recWrite_kept (m := 0x10010) (.refl _ s) w k v ⟨rfl⟩).same .out rfl

/-- A write of a context record's word touches no other record. -/
theorem State.ctx_recWrite_ne (s : State) (w k : Nat) (v : Word) (y : Nat)
    (h : y ≠ s.f (R.CTX_WIN_SEL w) F.CTX_WIN_SEL_CTX) : (s.recWrite w k v).ctx y = s.ctx y := by
  unfold State.recWrite
  split
  · exact (State.ctx_setCtx_ne _ _ _ _ h).trans (State.ctx_ctxNeedD ..)
  · exact (State.ctx_setCtx_ne _ _ _ _ h).trans (State.ctx_ctxNeedD ..)
  · exact State.ctx_ctxNeedD ..

theorem State.ctx_recWrite_zero (s : State) (w : Nat) (v : Word) :
    let n := v.toNat
    let x := s.f (R.CTX_WIN_SEL w) F.CTX_WIN_SEL_CTX
    (s.recWrite w 0 v).ctx x = { s.ctx x with
      sigDie := bitsOf n 13 3, sigCore := bitsOf n 16 5, reqFlag := bitsOf n 21 10, reqEn := bitOf n 31
      sat := (s.ctx x).sat && !bitOf n 34, under := (s.ctx x).under && !bitOf n 35 } := by
  simp [State.recWrite]

theorem State.ctx_recWrite_one (s : State) (w : Nat) (v : Word) :
    let x := s.f (R.CTX_WIN_SEL w) F.CTX_WIN_SEL_CTX
    (s.recWrite w 1 v).ctx x = { s.ctx x with count := bitsOf v.toNat 0 32 } := by
  simp [State.recWrite]

/-- The other words of a record take no write. -/
theorem State.ctx_recWrite_rest (s : State) (w k : Nat) (v : Word) (h : 2 ≤ k) (y : Nat) :
    (s.recWrite w k v).ctx y = s.ctx y := by
  unfold State.recWrite
  split
  · omega
  · omega
  · exact State.ctx_ctxNeedD ..

/-! ### Member sets (R237 to R240) -/

theorem State.msBusy_event (s : State) : s.msBusy.f R.COL_EVENT F.COL_EVENT_MS_BUSY = 1 :=
  State.f_setF_self s R.COL_EVENT 3 1 1 (by decide)

theorem State.msOrig_busy {s : State} (v : Word) (h : s.msetBusy (s.f R.COL_MS_SEL F.COL_MS_SEL_MS) = true) :
    s.msOrig v = s.msBusy := if_pos h

theorem State.msOrig_free {s : State} (v : Word) (h : s.msetBusy (s.f R.COL_MS_SEL F.COL_MS_SEL_MS) = false) :
    let k := s.f R.COL_MS_SEL F.COL_MS_SEL_MS
    s.msOrig v = s.setMset k { s.mset k with orig := bitsOf v.toNat 0 24, step := bitsOf v.toNat 24 24 } :=
  if_neg (by simp [h])

theorem State.msOrig_out (s : State) (v : Word) : (s.msOrig v).out = s.out :=
  (State.msOrig_kept (m := 0x1000010) (.refl _ s) v ⟨rfl⟩).same .out rfl

/-- The selected set as a write of COL_MS_EXT words it, whatever its shape. -/
def State.msExtended (s : State) (v : Word) : MemberSet :=
  { s.mset (s.f R.COL_MS_SEL F.COL_MS_SEL_MS) with
    ext := bitsOf v.toNat 0 24, root := bitsOf v.toNat 24 18, tree := bitOf v.toNat 42, valid := bitOf v.toNat 43 }

theorem State.msExt_busy {s : State} (v : Word) (h : s.msetBusy (s.f R.COL_MS_SEL F.COL_MS_SEL_MS) = true) :
    s.msExt v = s.msBusy := if_pos h

theorem State.msExt_out (s : State) (v : Word) : (s.msExt v).out = s.out :=
  (State.msExt_kept (m := 0x1800018) (.refl _ s) v ⟨rfl⟩).same .out rfl

/-- The state with the written words stored: the set is valid only when well shaped, and a badly shaped one that was to be
valid raises SHAPE. -/
def State.msStored (s : State) (v : Word) : State :=
  (if bitOf v.toNat 43 && !s.msShape (s.msExtended v) then s.setF R.COL_EVENT F.COL_EVENT_SHAPE 1 else s).setMset
    (s.f R.COL_MS_SEL F.COL_MS_SEL_MS)
    { s.msExtended v with valid := bitOf v.toNat 43 && s.msShape (s.msExtended v) }

/-- A set that is not busy takes the written words; besides, only its tree may be built or dropped. -/
theorem State.msExt_free {s : State} (v : Word) (h : s.msetBusy (s.f R.COL_MS_SEL F.COL_MS_SEL_MS) = false) :
    ∃ f n, s.msExt v = { s.msStored v with fab := f, free := n } := by
  unfold State.msExt
  extract_lets k n old m good m' s₁ s₂ t
  rw [if_neg (by simp [k, h])]
  split
  · exact ⟨_, _, rfl⟩
  split
  · exact ⟨_, _, rfl⟩
  · exact ⟨_, _, rfl⟩

theorem State.mset_msStored (s : State) (v : Word) (j : Nat) :
    (s.msStored v).mset j = if j = s.f R.COL_MS_SEL F.COL_MS_SEL_MS then
      { s.msExtended v with valid := bitOf v.toNat 43 && s.msShape (s.msExtended v) } else s.mset j := by
  unfold State.msStored
  rw [State.mset_setMset]
  split
  · rfl
  · split <;> rfl

theorem State.mset_msExt {s : State} (v : Word) (h : s.msetBusy (s.f R.COL_MS_SEL F.COL_MS_SEL_MS) = false) (j : Nat) :
    (s.msExt v).mset j = if j = s.f R.COL_MS_SEL F.COL_MS_SEL_MS then
      { s.msExtended v with valid := bitOf v.toNat 43 && s.msShape (s.msExtended v) } else s.mset j := by
  obtain ⟨f, n, e⟩ := State.msExt_free v h
  rw [e]
  exact State.mset_msStored s v j

theorem State.msExt_shape {s : State} (v : Word) (h : s.msetBusy (s.f R.COL_MS_SEL F.COL_MS_SEL_MS) = false)
    (hv : bitOf v.toNat 43 = true) (hs : s.msShape (s.msExtended v) = false) :
    (s.msExt v).f R.COL_EVENT F.COL_EVENT_SHAPE = 1 := by
  obtain ⟨f, n, e⟩ := State.msExt_free v h
  rw [e, State.msStored, if_pos (by simp [hv, hs])]
  exact State.f_setF_self s R.COL_EVENT 0 1 1 (by decide)

/-- A well shaped set with TREE builds the tree of its number, and no other. -/
theorem State.msExt_tree {s : State} (v : Word) (h : s.msetBusy (s.f R.COL_MS_SEL F.COL_MS_SEL_MS) = false)
    (hv : bitOf v.toNat 43 = true) (hs : s.msShape (s.msExtended v) = true) (ht : bitOf v.toNat 42 = true) :
    ((s.msExt v).tree (s.f R.COL_MS_SEL F.COL_MS_SEL_MS)).valid = true ∧
      ∀ j, j ≠ s.f R.COL_MS_SEL F.COL_MS_SEL_MS → (s.msExt v).tree j = s.tree j := by
  unfold State.msExt
  extract_lets k n old m good m' s₁ s₂ t
  have hg : good = true := hs
  have h₁ : s₁ = s := if_neg (by simp [hg])
  have h₂ (j : Nat) : s₂.tree j = s.tree j := by unfold s₂; rw [h₁]; rfl
  rw [if_neg (by simp [k, h]), if_pos (by simp [m', m, n, hv, hg, ht])]
  constructor
  · rw [State.tree_setTree_self]; rfl
  · intro j hj
    rw [State.tree_setTree_ne _ _ _ _ hj]
    exact h₂ j

/-! ### Bindings (R238, R239) -/

theorem State.bind_unallocated {s : State} (v : Word) (h : (s.ctx (bitsOf v.toNat 0 20)).alloc = false) : s.bind v = s :=
  if_pos (by simp [h])

theorem State.bind_busy {s : State} (v : Word) (h : (s.ctx (bitsOf v.toNat 0 20)).alloc = true)
    (hb : s.ctxBusy (bitsOf v.toNat 0 20) = true) : s.bind v = s.msBusy := by
  simp [State.bind, h, hb]

theorem State.bind_free {s : State} (v : Word) (h : (s.ctx (bitsOf v.toNat 0 20)).alloc = true)
    (hb : s.ctxBusy (bitsOf v.toNat 0 20) = false) :
    s.bind v = s.setCtx (bitsOf v.toNat 0 20) { s.ctx (bitsOf v.toNat 0 20) with mset := bitsOf v.toNat 20 12 } := by
  simp [State.bind, h, hb]

theorem State.bind_out (s : State) (v : Word) : (s.bind v).out = s.out :=
  (State.bind_kept (m := 0x10010) (.refl _ s) v ⟨rfl⟩).same .out rfl

/-- COL_BIND touches no other context than the one it names. -/
theorem State.ctx_bind_ne (s : State) (v : Word) (y : Nat) (h : y ≠ bitsOf v.toNat 0 20) : (s.bind v).ctx y = s.ctx y := by
  rcases ha : (s.ctx (bitsOf v.toNat 0 20)).alloc
  · rw [State.bind_unallocated v ha]
  rcases hb : s.ctxBusy (bitsOf v.toNat 0 20)
  · rw [State.bind_free v ha hb, State.ctx_setCtx_ne _ _ _ _ h]
  · rw [State.bind_busy v ha hb]; rfl

/-! ### Plain registers (R10 to R12) -/

/-- A register has taken a written value by its access codes: the write is answered OK, no other register changes, and an
offset that no register occupies changes none. -/
def RegWritten (s t : State) (iss : Issuer) (off : Nat) (v : Word) : Prop :=
  t.out = s.out ++ [.answer iss off sOK 0] ∧ t = { s with regs := t.regs, out := t.out } ∧ RegsBut s t [off] ∧
    (∀ q, regRow off = some q →
      t.rd off = BitVec.ofNat 64 (rowWrite q.2.2.2.1.fields (s.lockOpen iss) (s.rd off).toNat v.toNat)) ∧
    (regRow off = none → t.regs = s.regs)

theorem regWritten_plainWrite (s : State) (iss : Issuer) (off : Nat) (v : Word) :
    RegWritten s ((s.plainWrite (s.lockOpen iss) off v).emit (.answer iss off sOK 0)) iss off v := by
  unfold State.plainWrite
  rcases h : regRow off with _ | q
  · exact ⟨rfl, rfl, fun _ _ => rfl, fun q e => by simp [h] at e, fun _ => rfl⟩
  · refine ⟨rfl, rfl, fun a n => State.rd_wr_ne _ _ _ _ (by simpa using n), fun q' e => ?_,
      fun e => by simp [h] at e⟩
    obtain rfl : q = q' := Option.some.inj (h.symm.trans e)
    exact State.rd_wr_self ..

/-- No race is injected into a write of a core block, or where the point is not armed (R345). -/
theorem State.raceInject_none {s : State} {off : Nat} {b : Blk} {i o : Nat} (hd : ctlDecode off = some (b, i, o))
    (h : coreBlk b = true ∨ Unarmed s 0x24) (bits : Nat) : s.raceInject off bits = (false, s) := by
  unfold State.raceInject
  extract_lets u core inj
  split
  · rfl
  · rename_i c
    have ha : Unarmed s 0x24 := h.resolve_left fun hb => c (.inr (by simp [core, hd, hb]))
    have hi : inj = (none, s) := State.inject_unarmed ha ..
    simp [hi]

theorem State.fieldsWrite_of_no_race {s : State} {off : Nat} {b : Blk} {i o : Nat} (hd : ctlDecode off = some (b, i, o))
    (h : coreBlk b = true ∨ Unarmed s 0x24) (lk : Bool) (v : Word) : s.fieldsWrite lk off v = s.plainWrite lk off v := by
  unfold State.fieldsWrite
  split
  · rename_i e; simp [State.plainWrite, e]
  · simp [State.raceInject_none hd h]

/-- In these blocks a write does no more than its access codes say. -/
theorem State.ctlEffect_simple {s : State} {off : Nat} {b : Blk} {i o : Nat} (hd : ctlDecode off = some (b, i, o))
    (hb : b ∈ [Blk.ae, .eng, .cvu, .str, .clk, .hbm]) (iss : Issuer) (v : Word) :
    s.ctlEffect iss off v = s.fieldsWrite (s.lockOpen iss) off v := by
  unfold State.ctlEffect
  rw [hd]
  simp only [List.mem_cons, List.not_mem_nil, or_false] at hb
  rcases hb with rfl | rfl | rfl | rfl | rfl | rfl <;> rfl

/-- A write that is let in to a register of these blocks gives it its value and nothing else. -/
theorem regWritten_ctlIn {s : State} {iss : Issuer} {off : Nat} {v : Word} {b : Blk} {i o : Nat} (ha : Admitted s iss off v)
    (hd : ctlDecode off = some (b, i, o)) (hb : b ∈ [Blk.ae, .eng, .cvu, .str, .clk, .hbm])
    (h : coreBlk b = true ∨ Unarmed s 0x24) :
    RegWritten s (s.ctlIn iss off 8 v fun s => s.ctlEffect iss off v) iss off v := by
  rw [State.ctlIn_admitted ha, State.ctlEffect_simple hd hb, State.fieldsWrite_of_no_race hd h]
  exact regWritten_plainWrite ..

/-! ### Cores whose cluster sleeps (R36) -/

/-- CLK_STAT of a die is a register of its CLK block (R35). -/
theorem ctlDecode_clkStat : ∀ d < 8, ctlDecode (R.CLK_STAT d) = some (.clk, d, 8) := by decide

/-- A write in a core block leaves the state of every cluster. -/
theorem cluster_of_regWritten {s t : State} {iss : Issuer} {off : Nat} {v : Word} (h : RegWritten s t iss off v)
    {b : Blk} {i o : Nat} (hd : ctlDecode off = some (b, i, o)) (hb : coreBlk b = true) (d c : Nat) (lt : d < 8) :
    t.cluster d c = s.cluster d c := by
  obtain ⟨_, _, regs, _⟩ := h
  have ne : R.CLK_STAT d ≠ off := by
    rintro rfl
    cases (ctlDecode_clkStat d lt).symm.trans hd
    cases hb
  unfold State.cluster State.f
  rw [regs _ (by simpa using ne)]

theorem execCoreRegisterWake_of_guard {p : Pos} {iss : Issuer} {off : Nat} {w : Option Word} {s : State} {b : Blk} {o : Nat}
    (hd : ctlDecode off = some (b, p.val, o)) (hb : coreBlk b = true) (up : s.dieDown (dieOf p) = false)
    (hc : s.cluster (dieOf p) (p.val / 8 % 4) = 1 ∨ s.cluster (dieOf p) (p.val / 8 % 4) = 2) :
    exec (.coreRegisterWake p iss off w) s = .next (s.doCoreWake off iss w) :=
  State.when_true _ _ (by simp [hd, hb, up, hc])

/-- A read that is let in, and need not wait, is answered with the register's view and changes nothing else. -/
theorem State.doCoreWake_read {s : State} {iss : Issuer} {off : Nat}
    (he : s.entitled iss (s.hostTen iss) aRead 2 off 8 (.ctl off) 0 = true) (ht : targetOf 2 off 8 = .ctl off)
    (hi : Unarmed s 0x1D) (hf : s.fencedTarget (.ctl off) 8 = false) (hw : s.waitsFor off = none) :
    s.doCoreWake off iss none = s.emit (.answer iss off sOK (s.view off)) := by
  have a := State.accessStatus_ok ht (by simp) (by simp [aRead, aAtomic]) hi he hf
  unfold State.doCoreWake
  dsimp only
  rw [a]
  simp [hw]
/-! ### The writes as commands -/

/-- What is sent with an effect that sends nothing itself. -/
theorem State.emit_out_of {s t : State} (h : t.out = s.out) (o : Out) : (t.emit o).out = s.out ++ [o] :=
  congrArg (· ++ [o]) h

section
variable {s : State} {iss : Issuer} {v : Word}

theorem exec_ctxRecWrite (w k : Fin 8) (h : Admitted s iss (R.CTX_WIN_REC w k) v) :
    exec (.ctxRecWrite iss w k v) s = .next ((s.recWrite w k v).emit (.answer iss (R.CTX_WIN_REC w k) sOK 0)) :=
  congrArg _ (State.ctlIn_admitted h _)

theorem exec_fabMcEntWrite (h : Admitted s iss R.FAB_MC_ENT v) :
    exec (.fabMcEntWrite iss v) s = .next ((s.mcEnt v).emit (.answer iss R.FAB_MC_ENT sOK 0)) :=
  congrArg _ (State.ctlIn_admitted h _)

theorem exec_colMsOrigWrite (h : Admitted s iss R.COL_MS_ORIG v) :
    exec (.colMsOrigWrite iss v) s = .next ((s.msOrig v).emit (.answer iss R.COL_MS_ORIG sOK 0)) :=
  congrArg _ (State.ctlIn_admitted h _)

theorem exec_colMsExtWrite (h : Admitted s iss R.COL_MS_EXT v) :
    exec (.colMsExtWrite iss v) s = .next ((s.msExt v).emit (.answer iss R.COL_MS_EXT sOK 0)) :=
  congrArg _ (State.ctlIn_admitted h _)

theorem exec_colBind (h : Admitted s iss R.COL_BIND v) :
    exec (.colBind iss v) s = .next ((s.bind v).emit (.answer iss R.COL_BIND sOK 0)) :=
  congrArg _ (State.ctlIn_admitted h _)

theorem exec_colVtVerWrite (h : Admitted s iss R.COL_VT_VER v) :
    exec (.colVtVerWrite iss v) s = .next ((s.vtVer v).emit (.answer iss R.COL_VT_VER sOK 0)) :=
  congrArg _ (State.ctlIn_admitted h _)

end

/-- Settles O45: an admitted write is its effect and an OK answer, and each effect is the one its own lemmas state. -/
theorem tableWritesAct : Obligations.TableWritesAct := by
  unfold Obligations.TableWritesAct
  refine ⟨fun iss v s => ⟨fun w k ha => ?record, fun ha => ?tree, ⟨fun ha => ?orig, fun ha => ?ext⟩, fun ha => ?bind,
    fun ha => ?version⟩, fun iss v off s => ⟨fun ha ⟨b, i, o, hd, hb⟩ hi => ?plain, fun p ⟨b, o, hd, hc⟩ up hg =>
      ⟨fun ha ⟨b', i, o', hd', hb⟩ => ?wakeWrite, fun he ht hi hf hw => ?wakeRead⟩⟩⟩
  case record =>
    refine ⟨_, exec_ctxRecWrite w k ha, State.emit_out_of (State.recWrite_out ..) _,
      fun y hy => State.ctx_recWrite_ne _ _ _ _ _ hy, ?_, ?_, fun hk => State.ctx_recWrite_rest _ _ _ _ hk _⟩
    · rintro rfl; exact State.ctx_recWrite_zero ..
    · rintro rfl; exact State.ctx_recWrite_one ..
  case tree =>
    exact ⟨_, exec_fabMcEntWrite ha, State.emit_out_of rfl _,
      ⟨State.tree_setTree_self .., fun j hj => State.tree_setTree_ne _ _ _ _ hj⟩, rfl⟩
  case orig =>
    refine ⟨_, exec_colMsOrigWrite ha, State.emit_out_of (State.msOrig_out ..) _, fun busy => ?_, fun free => ?_⟩
    · rw [State.msOrig_busy v busy]
      exact ⟨State.msBusy_event s, rfl⟩
    · rw [State.msOrig_free v free]
      exact ⟨State.mset_setMset_self .., fun j hj => State.mset_setMset_ne _ _ _ _ hj, rfl⟩
  case ext =>
    refine ⟨_, exec_colMsExtWrite ha, State.emit_out_of (State.msExt_out ..) _, fun busy => ?_, fun free => ?_⟩
    · rw [State.msExt_busy v busy]
      exact ⟨State.msBusy_event s, rfl, rfl⟩
    · exact ⟨(State.mset_msExt v free _).trans (if_pos rfl), fun j hj => (State.mset_msExt v free j).trans (if_neg hj),
        State.msExt_shape v free, State.msExt_tree v free⟩
  case bind =>
    refine ⟨_, exec_colBind ha, State.emit_out_of (State.bind_out ..) _, fun y hy => State.ctx_bind_ne _ _ _ hy,
      fun un => ?_, fun al busy => ?_, fun al free => ?_⟩
    · rw [State.bind_unallocated v un]; rfl
    · rw [State.bind_busy v al busy]
      exact ⟨State.msBusy_event s, rfl⟩
    · rw [State.bind_free v al free]
      exact State.ctx_setCtx_self ..
  case version =>
    exact ⟨_, exec_colVtVerWrite ha, State.emit_out_of rfl _,
      ⟨State.vtEntry_setVt_self .., fun j hj => State.vtEntry_setVt_ne _ _ _ _ hj⟩, rfl⟩
  case plain => exact ⟨_, rfl, regWritten_ctlIn ha hd hb (.inr hi)⟩
  case wakeWrite =>
    cases hd.symm.trans hd'
    have written := regWritten_ctlIn ha hd (List.mem_append_left [Blk.str, .clk, .hbm] hb) (.inl hc)
    exact ⟨_, execCoreRegisterWake_of_guard hd hc up hg, written,
      cluster_of_regWritten written hd hc _ _ (by have := p.isLt; unfold dieOf; omega)⟩
  case wakeRead =>
    rw [execCoreRegisterWake_of_guard hd hc up hg, State.doCoreWake_read he ht hi hf hw]
    rfl

end Sys2Proof.Machine

/-! PROOFS. Settles the statements of the family "anatomy": what a step is, what every step keeps, and what the clocks,
the links, JTAG and the boathouse pairs do. -/

namespace Sys2Proof.Machine

open Sys2Proof

/-! ### The step -/

/-- Settles O1: a step is defined by the two cases of the queue. -/
theorem stepRunsTheFrontCommand : Obligations.StepRunsTheFrontCommand := by
  unfold Obligations.StepRunsTheFrontCommand
  refine ⟨fun c rest s front => ?front, fun s empty => ?empty⟩
  case front => simp only [step, front]
  case empty => simp only [step, empty, State.idle]

/-- Whatever the front command may disturb, it keeps the machine as `Kept` says; the queue it runs on is the rest. -/
theorem Kept.of_exec {c : Instr} {s t : State} (e : exec c s = .next t) : Kept (maskOf (touches c)) s t :=
  (exec_kept (.refl _ s) c ⟨Nat.and_self _⟩).next t e

/-- Settles O3: an idle step moves the time only, and a command's step keeps what `Kept` says of every command. -/
theorem everyStepKeepsTheMachine : Obligations.EveryStepKeepsTheMachine := by
  unfold Obligations.EveryStepKeepsTheMachine
  intro s t h
  rcases queue : s.pending with _ | ⟨c, rest⟩
  case nil =>
    have idle : step s = .next { s with time := s.time + 1 } := stepRunsTheFrontCommand.2 s queue
    obtain rfl : { s with time := s.time + 1 } = t := Host.Outcome.next.inj (idle.symm.trans h)
    exact ⟨id, queue, List.prefix_refl _, Nat.le_refl _, List.prefix_refl _⟩
  case cons =>
    have ran : exec c { s with pending := rest } = .next t := (stepRunsTheFrontCommand.1 c rest s queue).symm.trans h
    obtain ⟨pending, memory, free, out, owners, _⟩ := Kept.of_exec ran
    exact ⟨memory, pending, out, free, owners⟩

/-! ### Fields that share a register -/

/-- Putting a field leaves every field apart from it. -/
theorem bitsOf_putBits_apart (v lo w x l n : Nat) (h : l + n ≤ lo ∨ lo + w ≤ l) :
    bitsOf (putBits v lo w x) l n = bitsOf v l n := by
  have low : v % 2 ^ lo + 2 ^ lo * (v / 2 ^ lo) = v := Nat.mod_add_div v _
  have high : bitsOf v lo w + 2 ^ w * (v / 2 ^ lo / 2 ^ w) = v / 2 ^ lo := Nat.mod_add_div _ _
  have put : putBits v lo w x = v % 2 ^ lo + 2 ^ lo * (x % 2 ^ w + 2 ^ w * (v / 2 ^ lo / 2 ^ w)) := by
    have hm := congrArg (2 ^ lo * ·) high
    simp only [Nat.mul_add] at hm
    simp only [putBits, Nat.mul_add, Nat.mul_comm _ (2 ^ lo)]
    omega
  rcases h with below | above
  · rw [← bitsOf_mod_two_pow _ l n lo below, ← bitsOf_mod_two_pow v l n lo below, put, Nat.add_mul_mod_self_left, Nat.mod_mod]
  · have top (y : Nat) : bitsOf y l n = y / 2 ^ (lo + w) / 2 ^ (l - (lo + w)) % 2 ^ n := by
      rw [Nat.div_div_eq_div_mul, ← Nat.pow_add, Nat.add_sub_cancel' above]; rfl
    have same : putBits v lo w x / 2 ^ (lo + w) = v / 2 ^ (lo + w) := by
      rw [Nat.pow_add, ← Nat.div_div_eq_div_mul, ← Nat.div_div_eq_div_mul, put, Nat.add_mul_div_left _ _ (Nat.two_pow_pos lo),
        Nat.div_eq_of_lt (Nat.mod_lt _ (Nat.two_pow_pos lo)), Nat.zero_add, Nat.add_mul_div_left _ _ (Nat.two_pow_pos w),
        Nat.div_eq_of_lt (Nat.mod_lt _ (Nat.two_pow_pos w)), Nat.zero_add]
    rw [top, top, same]

theorem State.f_setF (s : State) (a : Nat) (g : Nat × Nat) (v : Nat) (h : g.1 + g.2 ≤ 64) :
    (s.setF a g v).f a g = v % 2 ^ g.2 := State.f_setF_self s a g.1 g.2 v h

theorem State.f_setF_of_lt (s : State) (a : Nat) (g : Nat × Nat) (v : Nat) (h : g.1 + g.2 ≤ 64) (fits : v < 2 ^ g.2) :
    (s.setF a g v).f a g = v := (s.f_setF a g v h).trans (Nat.mod_eq_of_lt fits)

/-- A field keeps its value where a field apart from it, of the same register, is set. -/
theorem State.f_setF_apart (s : State) (a : Nat) (g k : Nat × Nat) (v : Nat) (h : k.1 + k.2 ≤ g.1 ∨ g.1 + g.2 ≤ k.1)
    (fits : k.1 + k.2 ≤ 64) : (s.setF a g v).f a k = s.f a k := by
  unfold State.setF State.f
  rw [State.rd_wr_self, BitVec.toNat_ofNat, bitsOf_mod_two_pow _ _ _ _ fits, bitsOf_putBits_apart _ _ _ _ _ _ h]

theorem State.f_lt (s : State) (a : Nat) (g : Nat × Nat) : s.f a g < 2 ^ g.2 := Nat.mod_lt _ (Nat.two_pow_pos _)

/-- Fields are read off registers. -/
theorem State.f_congr {s t : State} {a : Nat} (h : t.rd a = s.rd a) (g : Nat × Nat) : t.f a g = s.f a g := by
  unfold State.f; rw [h]

/-! ### What recording an occurrence does (R339 to R343) -/

/-- A property of states that each piece of recording an occurrence keeps. -/
structure RecordKeeps (P : State → Prop) (o : Occ) (cause : Nat) : Prop where
  count : ∀ s, P s → P (s.bump (R.ERR_CNT o.det) 1)
  errs : ∀ s e, P s → P { s with errs := e }
  ring : ∀ s n, P s → P (s.ringWrite o n)
  event : ∀ s, P s → P (s.setBit R.ERR_EVENT 20 true)
  action : ∀ s n, P s → P (s.takeAction o n cause)

/-- Recording is its pieces, and last, for an occurrence of class R, recovery. -/
theorem RecordKeeps.shape {P : State → Prop} {o : Occ} {cause : Nat} (k : RecordKeeps P o cause) {s : State} (h : P s)
    (known : (detector o.det).isSome) (weight : Nat) :
    ∃ y, P y ∧ s.record o cause weight = if o.cl = 2 then y.takeAction o 2 cause else y := by
  unfold State.record
  split
  · rename_i no; simp [no] at known
  extract_lets u thr win n op v re e x pw act key e2 y z1 z2 z
  have hv : P v := k.errs _ _ (k.count _ h)
  have hx : P x := by
    unfold x; split
    · exact hv
    · exact k.errs _ _ hv
  have hy : P y := by
    unfold y; split
    · exact k.errs _ _ hx
    · exact k.ring _ _ hx
  have hz : P z := by
    unfold z; split
    · exact k.action _ _ (k.event _ (k.ring _ _ hy))
    · exact hy
  exact ⟨z, hz, rfl⟩

theorem RecordKeeps.record {P : State → Prop} {o : Occ} {cause : Nat} (k : RecordKeeps P o cause) {s : State} (h : P s)
    (weight : Nat) : P (s.record o cause weight) := by
  rcases known : detector o.det with _ | d
  · have same : s.record o cause weight = s := by unfold State.record; rw [known]
    rwa [same]
  · obtain ⟨y, hy, e⟩ := k.shape h (by simp [known]) weight
    rw [e]; split
    · exact k.action _ _ hy
    · exact hy

theorem State.rd_congr {s t : State} (h : t.regs = s.regs) (a : Nat) : t.rd a = s.rd a := by unfold State.rd; rw [h]

theorem State.rd_setBit_ne (s : State) (a i : Nat) (b : Bool) (z : Nat) (h : z ≠ a) : (s.setBit a i b).rd z = s.rd z :=
  State.rd_setF_ne _ _ _ _ _ h

/-- Units without a place in the fence map: the package, a die, an Ethernet port, a tenancy. -/
def BareUnit (kind : Nat) : Prop := kind = kPackage ∨ kind = kDie ∨ kind = kEth ∨ kind = kTen

theorem State.fenceUnit_bare {kind : Nat} (h : BareUnit kind) (s : State) (i : Nat) : s.fenceUnit kind i = s.copyCheck := by
  rcases h with rfl | rfl | rfl | rfl <;> rfl

theorem BareUnit.ring_lt {kind : Nat} (h : BareUnit kind) (i : Nat) : unitRing kind i < 10 :=
  unitRing_lt _ _ fun _ e _ => by rcases h with h | h | h | h <;> (rw [h] at e; cases e)

theorem BareUnit.ten_lt {kind : Nat} (h : BareUnit kind) {s : State} {i t : Nat} (e : s.unitTen kind i = some t) : t < 8 :=
  State.unitTen_lt (by rcases h with rfl | rfl | rfl | rfl <;> simp [CoreUnit]) e

/-- Registers of the error block, which records are written to (R35). -/
def errReg (a : Nat) : Prop := 0x20_0000 ≤ a ∧ a < 0x28_0000

/-- Registers of reports: those, and the registers of the maintenance and snapshot blocks. -/
def reportReg (a : Nat) : Prop := errReg a ∨ (0x80_0000 ≤ a ∧ a < 0x88_0000)

/-- From s to t no register but those of reports has changed, and no drain has begun or ended. -/
structure Reported (s t : State) : Prop where
  rd : ∀ a, ¬ reportReg a → t.rd a = s.rd a
  drains : t.ten.drains = s.ten.drains

theorem Reported.refl (s : State) : Reported s s := ⟨fun _ _ => rfl, rfl⟩

theorem Reported.same {s t u : State} (h : Reported s t) (regs : u.regs = t.regs) (drains : u.ten.drains = t.ten.drains) :
    Reported s u := ⟨fun a n => by rw [← h.rd a n]; unfold State.rd; rw [regs], drains.trans h.drains⟩

theorem Reported.setF {s t : State} (h : Reported s t) {a : Nat} (g : Nat × Nat) (v : Nat) (ha : reportReg a) :
    Reported s (t.setF a g v) :=
  ⟨fun b n => (State.rd_setF_ne _ _ _ _ _ (by rintro rfl; exact n ha)).trans (h.rd b n), h.drains⟩

theorem Reported.bump {s t : State} (h : Reported s t) {a : Nat} (n : Nat) (ha : reportReg a) : Reported s (t.bump a n) :=
  ⟨fun b m => (State.rd_bump_ne _ _ _ _ (by rintro rfl; exact m ha)).trans (h.rd b m), by
    unfold State.bump; split <;> exact h.drains⟩

theorem errReg_cnt {k : Nat} (h : k < 128) : errReg (R.ERR_CNT k) := by
  simp only [errReg, R.ERR_CNT, Blk.base]; omega

theorem errReg_event : errReg R.ERR_EVENT := by simp [errReg, R.ERR_EVENT, Blk.base]

theorem State.rd_ringWrite {o : Occ} (hr : unitRing o.kind o.idx < 10) (s : State) (n : Nat) {a : Nat} (ha : ¬ errReg a) :
    (s.ringWrite o n).rd a = s.rd a := by
  have seq : a ≠ R.ERR_RING_WSEQ (unitRing o.kind o.idx) := by
    rintro rfl; exact ha (by simp only [errReg, R.ERR_RING_WSEQ, Blk.base]; omega)
  have event : a ≠ R.ERR_EVENT := by rintro rfl; exact ha errReg_event
  unfold State.ringWrite
  extract_lets r wa sq lost b w0 ten heat w2 key rep w rec_ e u v x
  have hu : u.rd a = s.rd a := State.rd_congr (s := s) (t := u) rfl a
  have hv : v.rd a = s.rd a := (State.rd_setF_ne u _ _ _ _ seq).trans hu
  have hx : x.rd a = s.rd a := by
    unfold x; split
    · exact (State.rd_setBit_ne _ _ _ _ _ event).trans hv
    · exact hv
  split
  · exact (State.rd_setBit_ne _ _ _ _ _ event).trans hx
  · exact hx

theorem Reported.ringWrite {s t : State} (h : Reported s t) {o : Occ} (hr : unitRing o.kind o.idx < 10) (n : Nat) :
    Reported s (t.ringWrite o n) :=
  ⟨fun a m => (State.rd_ringWrite hr t n fun e => m (.inl e)).trans (h.rd a m),
    (congrArg Tenancies.drains ((State.ringWrite_kept (m := 0x20010) (.refl _ t) o n ⟨rfl⟩).same .ten rfl)).trans h.drains⟩

/-- Abandoning a snapshot of tenancy k changes its LAST_STATUS, and otherwise reports. -/
theorem Reported.abandonSnap {s t : State} (h : Reported s t) {k : Nat} (hk : k < 8) : Reported s (t.abandonSnap k) := by
  have stat : reportReg (R.SNP_T_STAT k) := by simp only [reportReg, errReg, R.SNP_T_STAT, Blk.base]; omega
  unfold State.abandonSnap
  split
  · extract_lets m ten u v w
    have hu : Reported s u := h.same rfl rfl
    have hv : Reported s v := by
      unfold v; split
      · exact (hu.setF _ _ (.inr (by decide))).bump _ (.inr (by decide))
      · exact hu
    have hw : Reported s w := (hv.setF _ _ stat).setF _ _ (.inr (by decide))
    exact (hw.bump _ (.inl (errReg_cnt (by decide)))).ringWrite (BareUnit.ring_lt (.inr (.inr (.inr rfl))) k) _
  · exact h

theorem State.endHeats_regs (s : State) (k : Nat) : (s.endHeats k).regs = s.regs :=
  (State.endHeats_kept (m := 0x4000) (.refl _ s) k ⟨rfl⟩).same .regs rfl

theorem State.endHeats_ten (s : State) (k : Nat) : (s.endHeats k).ten = s.ten :=
  (State.endHeats_kept (m := 0x4000) (.refl _ s) k ⟨rfl⟩).same .ten rfl

theorem Reported.recover {s t : State} (h : Reported s t) {k : Nat} (hk : k < 8) (cause : Nat) :
    Reported s (t.recover k cause) := by
  have stat : reportReg (R.SNP_T_STAT k) := by simp only [reportReg, errReg, R.SNP_T_STAT, Blk.base]; omega
  unfold State.recover
  split
  · extract_lets u v
    have hv : Reported s v := (h.setF _ _ stat).setF _ _ stat
    exact (hv.same (State.endHeats_regs v k) (congrArg Tenancies.drains (State.endHeats_ten v k))).abandonSnap hk
  · exact h

theorem Reported.takeAction {s t : State} (h : Reported s t) {o : Occ} (bare : BareUnit o.kind) (n cause : Nat) :
    Reported s (t.takeAction o n cause) := by
  unfold State.takeAction
  split
  · rw [State.fenceUnit_bare bare]; exact h.same rfl rfl
  split
  · split
    · exact h.recover (bare.ten_lt ‹_›) _
    · exact h
  · exact h

/-- Recording an occurrence at a unit without a place in the fence map changes no register but those of reports. -/
theorem Reported.record {s t : State} (h : Reported s t) {o : Occ} (bare : BareUnit o.kind) (cause weight : Nat) :
    Reported s (t.record o cause weight) := by
  rcases known : detector o.det with _ | d
  · have same : t.record o cause weight = t := by unfold State.record; rw [known]
    rwa [same]
  have keeps : RecordKeeps (Reported s) o cause :=
    { count := fun u hu => hu.bump _ (.inl (errReg_cnt (detector_lt known)))
      errs := fun u e hu => hu.same rfl rfl
      ring := fun u n hu => hu.ringWrite (bare.ring_lt _) n
      event := fun u hu => hu.setF _ _ (.inl errReg_event)
      action := fun u n hu => hu.takeAction bare n cause }
  exact keeps.record h weight

/-! ### Jobs sent into recovery (R280) -/

/-- The job of tenancy k is stopping, for a cause. -/
def Stopping (s : State) (k cause : Nat) : Prop :=
  s.jobState k = jStopping ∧ s.f (R.SNP_T_STAT k) F.SNP_T_STAT_CAUSE = cause

theorem errReg_apart {a b : Nat} (ha : ¬ errReg a) (hb : errReg b) : a ≠ b := by rintro rfl; exact ha hb

theorem reportReg_apart {a b : Nat} (ha : ¬ reportReg a) (hb : reportReg b) : a ≠ b := by rintro rfl; exact ha hb

/-- Abandoning a snapshot leaves the job's state and cause. -/
theorem State.f_abandonSnap_stat (s : State) {k : Nat} (hk : k < 8) (g : Nat × Nat) (low : g.1 + g.2 ≤ 8) :
    (s.abandonSnap k).f (R.SNP_T_STAT k) g = s.f (R.SNP_T_STAT k) g := by
  have ne {b : Nat} (h : b < R.SNP_T_STAT 0 ∨ R.SNP_T_STAT 8 ≤ b) : R.SNP_T_STAT k ≠ b := by
    simp only [R.SNP_T_STAT, Blk.base] at *; omega
  have quiet : ¬ errReg (R.SNP_T_STAT k) := by simp only [errReg, R.SNP_T_STAT, Blk.base]; omega
  unfold State.abandonSnap
  split
  · extract_lets m ten u v w
    have hv : v.f (R.SNP_T_STAT k) g = s.f (R.SNP_T_STAT k) g := by
      unfold v; split
      · rw [State.f_bump_ne _ _ _ _ _ (ne (by decide)), State.f_setF_ne _ _ _ _ _ _ (ne (by decide))]; rfl
      · rfl
    rw [State.f_congr (State.rd_ringWrite (BareUnit.ring_lt (.inr (.inr (.inr rfl))) k) _ _ quiet) g,
      State.f_bump_ne _ _ _ _ _ (ne (by decide)), State.f_setF_ne _ _ _ _ _ _ (ne (by decide)), State.setLastStatus,
      State.f_setF_apart _ _ _ _ _ (.inl low) (by omega), hv]
  · rfl

/-- A running job enters recovery. -/
theorem State.recover_stops {s : State} {k : Nat} (hk : k < 8) (run : s.jobState k = jRunning) {cause : Nat} (fits : cause < 16) :
    Stopping (s.recover k cause) k cause := by
  unfold State.recover
  rw [if_pos (.inl run)]
  extract_lets u v
  have heats (g : Nat × Nat) : (v.endHeats k).f (R.SNP_T_STAT k) g = v.f (R.SNP_T_STAT k) g :=
    State.f_congr (State.rd_congr (State.endHeats_regs v k) _) g
  constructor
  · unfold State.jobState
    rw [State.f_abandonSnap_stat _ hk _ (by decide), heats, State.f_setF_apart _ _ _ _ _ (.inl (by decide)) (by decide),
      State.f_setF_of_lt _ _ _ _ (by decide) (by decide)]
  · rw [State.f_abandonSnap_stat _ hk _ (by decide), heats, State.f_setF_of_lt _ _ _ _ (by decide) fits]

/-- A cause while the job is already in recovery changes nothing. -/
theorem Stopping.recover_same {s : State} {k c : Nat} (h : Stopping s k c) (cause : Nat) : s.recover k cause = s :=
  if_neg (by rw [h.1]; decide)

/-- Which tenancy holds a die is read off the tenancies' configurations. -/
theorem State.tenOfDie_congr {s t : State} (h : ∀ k, k < 8 → t.rd (R.TEN_T_CFG k) = s.rd (R.TEN_T_CFG k)) (d : Nat) :
    t.tenOfDie d = s.tenOfDie d :=
  List.find?_congr fun k hk => by simp only [State.f_congr (h k (List.mem_range.1 hk))]

theorem Reported.tenOfDie {s t : State} (h : Reported s t) (d : Nat) : t.tenOfDie d = s.tenOfDie d :=
  State.tenOfDie_congr (fun k hk => h.rd _ (by simp only [reportReg, errReg, R.TEN_T_CFG, Blk.base]; omega)) d

/-- The job of tenancy k runs, or is stopping for the cause. -/
def RunsOrStops (s : State) (k cause : Nat) : Prop := s.jobState k = jRunning ∨ Stopping s k cause

theorem RunsOrStops.of_rd {s t : State} {k cause : Nat} (h : RunsOrStops s k cause)
    (same : t.rd (R.SNP_T_STAT k) = s.rd (R.SNP_T_STAT k)) : RunsOrStops t k cause := by
  unfold RunsOrStops Stopping State.jobState at *
  rwa [State.f_congr same, State.f_congr same]

/-- Recovery stops the job, whether it ran or was stopping. -/
theorem RunsOrStops.recover {s : State} {k cause : Nat} (hk : k < 8) (h : RunsOrStops s k cause) (fits : cause < 16) :
    Stopping (s.recover k cause) k cause := by
  rcases h with run | stop
  · exact State.recover_stops hk run fits
  · rwa [stop.recover_same]

/-- An occurrence of class R at a die sends the running job of the die's tenancy into recovery (R342). -/
theorem State.record_stops {s : State} {o : Occ} {k cause : Nat} (die : o.kind = kDie) (ten : s.tenOfDie o.idx = some k)
    (run : s.jobState k = jRunning) (fatal : o.cl = 2) (known : (detector o.det).isSome) (fits : cause < 16) (weight : Nat) :
    Stopping (s.record o cause weight) k cause := by
  have hk : k < 8 := State.tenOfDie_lt ten
  have bare : BareUnit o.kind := .inr (.inl die)
  have quiet : ¬ errReg (R.SNP_T_STAT k) := by simp only [errReg, R.SNP_T_STAT, Blk.base]; omega
  have det : errReg (R.ERR_CNT o.det) := by
    obtain ⟨d, hd⟩ := Option.isSome_iff_exists.1 known
    exact errReg_cnt (detector_lt hd)
  have unit {u : State} (hu : Reported s u) : u.unitTen o.kind o.idx = some k := by
    rw [die]; exact (hu.tenOfDie o.idx).trans ten
  have keeps : RecordKeeps (fun u => Reported s u ∧ RunsOrStops u k cause) o cause :=
    { count := fun u ⟨hu, ju⟩ => ⟨hu.bump _ (.inl det), ju.of_rd (State.rd_bump_ne _ _ _ _ (errReg_apart quiet det))⟩
      errs := fun u e ⟨hu, ju⟩ => ⟨hu.same rfl rfl, ju⟩
      ring := fun u n ⟨hu, ju⟩ => ⟨hu.ringWrite (bare.ring_lt _) n, ju.of_rd (State.rd_ringWrite (bare.ring_lt _) u n quiet)⟩
      event := fun u ⟨hu, ju⟩ => ⟨hu.setF _ _ (.inl errReg_event), ju.of_rd (State.rd_setF_ne _ _ _ _ _ (errReg_apart quiet errReg_event))⟩
      action := fun u n ⟨hu, ju⟩ => ⟨hu.takeAction bare n cause, by
        unfold State.takeAction
        split
        · rw [State.fenceUnit_bare bare]; exact ju
        split
        · rw [unit hu]; exact .inr (ju.recover hk fits)
        · exact ju⟩ }
  obtain ⟨y, ⟨hy, jy⟩, e⟩ := keeps.shape ⟨.refl s, .inl run⟩ known weight
  rw [e, if_pos fatal, State.takeAction, if_neg (by decide), if_pos rfl, unit hy]
  exact jy.recover hk fits

/-! ### Working through a list of units -/

/-- A list of different units is worked through: what the step of unit x brings about, from what the steps before it leave
alone, the steps after it leave alone. -/
theorem foldl_reaches {α : Type} {f : State → α → State} {x : α} {Before After : State → Prop} {l : List α} (nodup : l.Nodup)
    (hx : x ∈ l) (waits : ∀ s y, y ∈ l → y ≠ x → Before s → Before (f s y)) (does : ∀ s, Before s → After (f s x))
    (stays : ∀ s y, y ∈ l → y ≠ x → After s → After (f s y)) {s : State} (h : Before s) : After (l.foldl f s) := by
  induction l generalizing s with
  | nil => cases hx
  | cons y l ih =>
    obtain ⟨fresh, nodup⟩ := List.nodup_cons.1 nodup
    rcases List.mem_cons.1 hx with rfl | hx
    · exact List.foldlRecOn l f (does s h) fun t ht z hz =>
        stays t z (List.mem_cons_of_mem _ hz) (by rintro rfl; exact fresh hz) ht
    · exact ih nodup hx (fun t z hz => waits t z (List.mem_cons_of_mem _ hz))
        (fun t z hz => stays t z (List.mem_cons_of_mem _ hz)) (waits s y (by simp) (by rintro rfl; exact fresh hx) h)

/-! ### Loss of lock (R342, R353) -/

/-- The registers of a die whose PLL has lost lock: LOCKED is down, the event up. -/
def State.pllLost (s : State) (d : Nat) : State :=
  (s.setF (R.CLK_STAT d) F.CLK_STAT_LOCKED 0).setF (R.CLK_EVENT d) F.CLK_EVENT_PLL_UNLOCK 1

/-- A die's loss of lock is recorded, as an occurrence of class R at the die, on its registers so changed. -/
theorem State.losePll_record (s : State) (d : Nat) :
    ∃ (y : State) (d0 : Nat), s.losePll d false = y.record (occ 0x3C kDie d d0 0) ∧ y.regs = (s.pllLost d).regs := by
  unfold State.losePll
  extract_lets u o v w
  have hw : w.regs = u.regs := by
    unfold w
    split
    · split
      · exact State.setDie_regs ..
      · rfl
    · rfl
  exact ⟨w, _, rfl, hw⟩

theorem clkStat_quiet {d : Nat} (hd : d < 8) : ¬ reportReg (R.CLK_STAT d) ∧ ¬ reportReg (R.CLK_EVENT d) := by
  simp only [reportReg, errReg, R.CLK_STAT, R.CLK_EVENT, Blk.base, dieBase]; omega

theorem clkStat_ne_clkEvent (d e : Nat) : R.CLK_STAT d ≠ R.CLK_EVENT e := by
  simp only [R.CLK_STAT, R.CLK_EVENT, Blk.base, dieBase]; omega

theorem clkStat_inj {d e : Nat} (h : d ≠ e) : R.CLK_STAT d ≠ R.CLK_STAT e := by
  simp only [R.CLK_STAT, Blk.base, dieBase]; omega

theorem State.rd_losePll (s : State) (d : Nat) {a : Nat} (quiet : ¬ reportReg a) :
    (s.losePll d false).rd a = (s.pllLost d).rd a := by
  obtain ⟨y, d0, e, regs⟩ := s.losePll_record d
  rw [e, ((Reported.refl y).record (.inr (.inl rfl)) 7 1).rd a quiet, State.rd_congr regs]

theorem State.losePll_locked (s : State) {d : Nat} (hd : d < 8) : (s.losePll d false).f (R.CLK_STAT d) F.CLK_STAT_LOCKED = 0 := by
  rw [State.f_congr (s.rd_losePll d (clkStat_quiet hd).1), State.pllLost, State.f_setF_ne _ _ _ _ _ _ (clkStat_ne_clkEvent d d),
    State.f_setF_of_lt _ _ _ _ (by decide) (by decide)]

theorem State.losePll_event (s : State) {d : Nat} (hd : d < 8) : (s.losePll d false).f (R.CLK_EVENT d) F.CLK_EVENT_PLL_UNLOCK = 1 := by
  rw [State.f_congr (s.rd_losePll d (clkStat_quiet hd).2), State.pllLost, State.f_setF_of_lt _ _ _ _ (by decide) (by decide)]

theorem State.rd_losePll_ne (s : State) {d e : Nat} (hd : d < 8) (h : d ≠ e) :
    (s.losePll e false).rd (R.CLK_STAT d) = s.rd (R.CLK_STAT d) := by
  rw [s.rd_losePll e (clkStat_quiet hd).1, State.pllLost, State.rd_setF_ne _ _ _ _ _ (clkStat_ne_clkEvent d e),
    State.rd_setF_ne _ _ _ _ _ (clkStat_inj h)]

/-- The running job of the die's tenancy stops for loss of its clock (R342). -/
theorem State.losePll_stops {s : State} {d u : Nat} (ten : s.tenOfDie d = some u) (run : s.jobState u = jRunning) :
    Stopping (s.losePll d false) u 7 := by
  obtain ⟨y, d0, e, regs⟩ := s.losePll_record d
  have hu : u < 8 := State.tenOfDie_lt ten
  have ne {a : Nat} (h : a < R.CLK_STAT 0) : y.rd a = s.rd a := by
    have stat : a ≠ R.CLK_STAT d := by simp only [R.CLK_STAT, Blk.base, dieBase] at *; omega
    have event : a ≠ R.CLK_EVENT d := by simp only [R.CLK_STAT, R.CLK_EVENT, Blk.base, dieBase] at *; omega
    rw [State.rd_congr regs, State.pllLost, State.rd_setF_ne _ _ _ _ _ event, State.rd_setF_ne _ _ _ _ _ stat]
  have cfg (k : Nat) (hk : k < 8) : y.rd (R.TEN_T_CFG k) = s.rd (R.TEN_T_CFG k) :=
    ne (by simp only [R.TEN_T_CFG, R.CLK_STAT, Blk.base, dieBase]; omega)
  have stat : y.rd (R.SNP_T_STAT u) = s.rd (R.SNP_T_STAT u) :=
    ne (by simp only [R.SNP_T_STAT, R.CLK_STAT, Blk.base, dieBase]; omega)
  have hten : y.tenOfDie d = some u := (State.tenOfDie_congr cfg d).trans ten
  have hrun : y.jobState u = jRunning := (State.f_congr stat _).trans run
  rw [e]
  exact State.record_stops (cause := 7) rfl hten hrun rfl rfl (by decide) 1

/-- Where several dies lose lock one after another, each is unlocked at the end. -/
theorem State.losePlls_locked (s : State) {d : Nat} (hd : d < 8) {l : List Nat} (nodup : l.Nodup) (mem : d ∈ l) :
    (l.foldl (fun t d => t.losePll d false) s).f (R.CLK_STAT d) F.CLK_STAT_LOCKED = 0 :=
  foldl_reaches (f := fun t d => t.losePll d false) (Before := fun _ => True)
    (After := fun t => t.f (R.CLK_STAT d) F.CLK_STAT_LOCKED = 0) nodup mem (fun _ _ _ _ _ => trivial)
    (fun t _ => t.losePll_locked hd)
    (fun t _ _ ne ht => (State.f_congr (t.rd_losePll_ne hd (Ne.symm ne)) _).trans ht) trivial

/-- With the reference clock every powered die loses its lock, one after another. -/
theorem State.doRefclkLoss_eq (s : State) : ∃ l : List Nat, l.Nodup ∧ (∀ d : Die, s.dieDown d = false → d.val ∈ l) ∧
    s.doRefclkLoss = l.foldl (fun t d => t.losePll d false) { s with pins := { s.pins with refclk := false } } :=
  ⟨_, List.nodup_range.filter _, fun d up => List.mem_filter.2 ⟨List.mem_range.2 d.isLt, congrArg not up⟩, rfl⟩

/-- Loss of the always-on reference clock takes the lock of every powered die with it (R353). -/
theorem exec_aoRefclkLoss {s : State} (h : s.pins.refclk = true) :
    ∃ t, exec .aoRefclkLoss s = .next t ∧ t.pins.refclk = false ∧ t.faultN = true ∧ t.spad = s.spad ∧ t.hbm = s.hbm ∧
      ∀ d : Die, s.dieDown d = false → t.f (R.CLK_STAT d) F.CLK_STAT_LOCKED = 0 := by
  have ran : exec .aoRefclkLoss s = .next s.doRefclkLoss := State.when_true _ _ h
  obtain ⟨l, nodup, powered, e⟩ := s.doRefclkLoss_eq
  have pins : s.doRefclkLoss.pins = { s.pins with refclk := false } := by
    rw [e]
    exact List.foldlRecOn (motive := fun t : State => t.pins = { s.pins with refclk := false }) l _ (by rfl) fun t ht d _ =>
      ((State.losePll_kept (m := 0x602b74010) (.refl _ t) d false ⟨rfl⟩).same .pins rfl).trans ht
  refine ⟨_, ran, by rw [pins], by simp [State.faultN, pins], exec_same ran .spad (by decide), exec_same ran .hbm (by decide),
    fun d up => ?_⟩
  rw [e]
  exact State.losePlls_locked _ d.isLt nodup (powered d up)

theorem exec_aoRefclkReturn {s : State} (h : s.pins.refclk = false) :
    exec .aoRefclkReturn s = .next { s with pins := { s.pins with refclk := true, refAt := s.time } } :=
  State.when_true _ _ (by rw [h]; rfl)

/-- A PLL that loses lock by itself is recorded, and the job of its die stops (R342). -/
theorem exec_pllUnlock {d : Die} {s : State} (up : s.dieDown d = false) (locked : s.f (R.CLK_STAT d) F.CLK_STAT_LOCKED = 1)
    (runs : s.f (R.CLK_STAT d) F.CLK_STAT_STOPPED = 0) (un : Unarmed s 0x3C) :
    ∃ t, exec (.pllUnlock d) s = .next t ∧ t.f (R.CLK_STAT d) F.CLK_STAT_LOCKED = 0 ∧
      t.f (R.CLK_EVENT d) F.CLK_EVENT_PLL_UNLOCK = 1 ∧ t.spad = s.spad ∧ t.hbm = s.hbm ∧
      ∀ u, s.tenOfDie d = some u → s.jobState u = jRunning →
        t.jobState u = jStopping ∧ t.f (R.SNP_T_STAT u) F.SNP_T_STAT_CAUSE = 7 := by
  have ran : exec (.pllUnlock d) s = .next (s.losePll d false) := by
    have quiet : s.inject 0x3C kDie d = (none, s) := State.inject_unarmed un _ _
    show State.when _ _ ((s.inject 0x3C kDie d).2.losePll d (s.inject 0x3C kDie d).1.isSome) = _
    rw [quiet]
    exact State.when_true _ _ (by simp [up, locked, runs])
  exact ⟨_, ran, s.losePll_locked d.isLt, s.losePll_event d.isLt, exec_same ran .spad (by simp [touches, Part.reported]),
    exec_same ran .hbm (by simp [touches, Part.reported]), fun u ten run => State.losePll_stops ten run⟩

/-! ### Fabric ports that lose their clock, and train again (R212, R354) -/

theorem portStat_inj {p q : Nat} (h : p ≠ q) : R.FAB_PORT_STAT p ≠ R.FAB_PORT_STAT q := by
  simp only [R.FAB_PORT_STAT, Blk.base]; omega

theorem portStat_ne_event (p : Nat) : R.FAB_PORT_STAT p ≠ R.FAB_EVENT := by
  simp only [R.FAB_PORT_STAT, R.FAB_EVENT, Blk.base]; omega

/-- The port is in service or in training. -/
def PortLive (s : State) (p : Nat) : Prop :=
  s.f (R.FAB_PORT_STAT p) F.FAB_PORT_STAT_STATE = 1 ∨ s.f (R.FAB_PORT_STAT p) F.FAB_PORT_STAT_STATE = 2

theorem PortLive.congr {s t : State} {p : Nat} (h : t.rd (R.FAB_PORT_STAT p) = s.rd (R.FAB_PORT_STAT p)) :
    PortLive t p ↔ PortLive s p := by unfold PortLive; rw [State.f_congr h]

theorem State.rd_prunePort (s : State) (p a : Nat) : (s.prunePort p).rd a = s.rd a := rfl

theorem State.rd_portLost_ne (s : State) (p : Nat) {a : Nat} (stat : a ≠ R.FAB_PORT_STAT p) (event : a ≠ R.FAB_EVENT) :
    (s.portLost p).rd a = s.rd a := by
  unfold State.portLost
  extract_lets b u
  split
  · rw [State.rd_prunePort, State.rd_setF_ne _ _ _ _ _ event]
    exact (State.rd_setF_ne _ _ _ _ _ stat).trans (State.rd_setF_ne _ _ _ _ _ stat)
  · rfl

theorem State.portLost_down (s : State) (p : Nat) : ¬ PortLive (s.portLost p) p := by
  unfold State.portLost
  extract_lets b u
  have hu : u.f (R.FAB_PORT_STAT p) F.FAB_PORT_STAT_STATE = 0 := by
    unfold u b
    rw [State.f_setF_apart _ _ _ _ _ (.inl (by decide)) (by decide), State.f_setF_of_lt _ _ _ _ (by decide) (by decide)]
  split
  · have down : ((u.setF R.FAB_EVENT F.FAB_EVENT_PORT_DOWN 1).prunePort p).f (R.FAB_PORT_STAT p) F.FAB_PORT_STAT_STATE = 0 := by
      rw [State.f_congr (State.rd_prunePort _ _ _), State.f_setF_ne _ _ _ _ _ _ (portStat_ne_event p), hu]
    unfold PortLive
    rw [down]; decide
  · assumption

theorem clkPorts_nodup (k : Nat) : (clkPorts k).Nodup := List.nodup_range.filter _

theorem mem_clkPorts {k p : Nat} (h : p ∈ clkPorts k) : p < 16 ∧ portClk p = k := by
  simpa [clkPorts] using h

theorem clkEths_nodup (k : Nat) : (clkEths k).Nodup := List.nodup_range.filter _

theorem mem_clkEths {k p : Nat} (h : p ∈ clkEths k) : p < 4 ∧ ethClk p = k := by
  simpa [clkEths] using h

/-- The ports of a list go down. -/
theorem State.portsLost_down (s : State) {l : List Nat} (nodup : l.Nodup) {p : Nat} (hp : p ∈ l) :
    ¬ PortLive (l.foldl (fun t q => t.portLost q) s) p :=
  foldl_reaches (f := fun t q => State.portLost t q) (Before := fun _ => True) (After := fun t => ¬ PortLive t p) nodup hp
    (fun _ _ _ _ _ => trivial) (fun t _ => t.portLost_down p)
    (fun t q _ ne ht => by
      rwa [PortLive.congr (t.rd_portLost_ne q (portStat_inj (Ne.symm ne)) (portStat_ne_event p))]) trivial

theorem State.rd_trainPort_ne (s : State) (on trained : Bool) (p : Nat) {a : Nat} (stat : a ≠ R.FAB_PORT_STAT p) :
    (s.trainPort on trained none p).rd a = s.rd a := by
  have set (u : State) (g : Nat × Nat) (v : Nat) : (u.setF (R.FAB_PORT_STAT p) g v).rd a = u.rd a := State.rd_setF_ne _ _ _ _ _ stat
  unfold State.trainPort
  extract_lets b u v w
  have hu : u.rd a = s.rd a := set ..
  split
  · exact (set ..).trans hu
  split
  · exact (set ..).trans hu
  · exact (set ..).trans ((set ..).trans hu)

/-- A port is free to train: it is not fenced, nor all its lane groups, it is enabled, and its clock is there. -/
structure Trainable (s : State) (p : Nat) : Prop where
  unfenced : s.portFenced p = false
  lanes : s.f (R.FAB_PORT_CTL p) F.FAB_PORT_CTL_LG_FENCE ≠ 15
  enabled : s.f (R.FAB_PORT_CTL p) F.FAB_PORT_CTL_EN = 1
  clock : bitOf s.pins.srefclk.toNat (portClk p) = true

theorem Trainable.of_rd {s t : State} {p : Nat} (h : Trainable s p)
    (ctl : t.rd (R.FAB_PORT_CTL p) = s.rd (R.FAB_PORT_CTL p)) (fences : t.rd R.MNT_FENCE_STACK = s.rd R.MNT_FENCE_STACK)
    (pins : t.pins = s.pins) : Trainable t p := by
  obtain ⟨unfenced, lanes, enabled, clock⟩ := h
  exact ⟨by unfold State.portFenced at *; rwa [State.f_congr fences, State.f_congr fences], by rwa [State.f_congr ctl],
    by rwa [State.f_congr ctl], by rwa [pins]⟩

theorem portCtl_ne_stat (p q : Nat) : R.FAB_PORT_CTL p ≠ R.FAB_PORT_STAT q := by
  simp only [R.FAB_PORT_CTL, R.FAB_PORT_STAT, Blk.base]; omega

theorem portStat_quiet {p : Nat} (h : p < 16) : ¬ reportReg (R.FAB_PORT_STAT p) := by
  simp only [reportReg, errReg, R.FAB_PORT_STAT, Blk.base]; omega

theorem fences_ne_portStat {p : Nat} (h : p < 16) : R.MNT_FENCE_STACK ≠ R.FAB_PORT_STAT p :=
  (reportReg_apart (portStat_quiet h) (.inr (by decide))).symm

theorem Trainable.setStat {s : State} {p q : Nat} (h : Trainable s p) (hq : q < 16) (g : Nat × Nat) (v : Nat) :
    Trainable (s.setF (R.FAB_PORT_STAT q) g v) p :=
  h.of_rd (State.rd_setF_ne _ _ _ _ _ (portCtl_ne_stat p q)) (State.rd_setF_ne _ _ _ _ _ (fences_ne_portStat hq)) rfl

/-- A port that is free to train is then in service, or still in training. -/
theorem State.trainPort_state {s : State} {p : Nat} (hp : p < 16) (h : Trainable s p) (trained : Bool) :
    (s.trainPort true trained none p).f (R.FAB_PORT_STAT p) F.FAB_PORT_STAT_STATE = if trained then 2 else 1 := by
  unfold State.trainPort
  extract_lets b u v w
  have hu : Trainable u p := h.setStat hp F.FAB_PORT_STAT_DATELINE (b2n (s.dateline p))
  obtain ⟨unfenced, lanes, enabled, clock⟩ := hu
  rw [if_neg (by simp [unfenced, lanes]), if_neg (by simp [enabled, clock])]
  exact State.f_setF_of_lt _ _ _ _ (by decide) (by cases trained <;> decide)

/-! ### Ethernet sub-ports that lose their link (R342, R354) -/

theorem ethStat_inj {p q : Nat} (h : p ≠ q) : R.ETH_P_STAT p ≠ R.ETH_P_STAT q := by
  simp only [R.ETH_P_STAT, Blk.base]; omega

theorem ethStat_ne_event (p q : Nat) : R.ETH_P_STAT p ≠ R.ETH_P_EVENT q := by
  simp only [R.ETH_P_STAT, R.ETH_P_EVENT, Blk.base]; omega

theorem ethStat_quiet {p : Nat} (h : p < 4) : ¬ reportReg (R.ETH_P_STAT p) := by
  simp only [reportReg, errReg, R.ETH_P_STAT, Blk.base]; omega

theorem portStat_ne_eth {p q : Nat} (hq : q < 4) : R.FAB_PORT_STAT p ≠ R.ETH_P_STAT q ∧ R.FAB_PORT_STAT p ≠ R.ETH_P_EVENT q := by
  simp only [R.FAB_PORT_STAT, R.ETH_P_STAT, R.ETH_P_EVENT, Blk.base]; omega

/-- The sub-port's bit of LINK goes down; the loss is recorded on the registers so changed. -/
theorem State.rd_ethLost_up {s : State} {p sub : Nat} (up : s.ethUp p sub = true) {a : Nat} (quiet : ¬ reportReg a) :
    (s.ethLost p sub false).rd a = ((s.setF (R.ETH_P_STAT p) F.ETH_P_STAT_LINK (s.f (R.ETH_P_STAT p) F.ETH_P_STAT_LINK - 2 ^ sub)).setF
      (R.ETH_P_EVENT p) F.ETH_P_EVENT_LINK_DOWN 1).rd a := by
  unfold State.ethLost
  rw [if_pos up]
  exact ((Reported.refl _).record (.inr (.inr (.inl rfl))) 7 1).rd a quiet

theorem State.ethLost_off {s : State} {p sub : Nat} (off : s.ethUp p sub = false) (inj : Bool) : s.ethLost p sub inj = s :=
  if_neg (by simp [off])

theorem State.rd_ethLost_ne (s : State) (p sub : Nat) {a : Nat} (quiet : ¬ reportReg a) (stat : a ≠ R.ETH_P_STAT p)
    (event : a ≠ R.ETH_P_EVENT p) : (s.ethLost p sub false).rd a = s.rd a := by
  rcases up : s.ethUp p sub
  · rw [State.ethLost_off up]
  · rw [State.rd_ethLost_up up quiet, State.rd_setF_ne _ _ _ _ _ event, State.rd_setF_ne _ _ _ _ _ stat]

theorem bitOf_sub_self : ∀ v < 4, ∀ j < 2, bitOf v j = true → bitOf (v - 2 ^ j) j = false := by decide

theorem bitOf_sub_other : ∀ v < 4, ∀ i < 2, ∀ j < 2, bitOf v i = false → bitOf v j = true → bitOf (v - 2 ^ j) i = false := by
  decide

/-- LINK after a sub-port that was up lost its link. -/
theorem State.link_ethLost {s : State} {p sub : Nat} (hp : p < 4) (up : s.ethUp p sub = true) :
    (s.ethLost p sub false).f (R.ETH_P_STAT p) F.ETH_P_STAT_LINK = s.f (R.ETH_P_STAT p) F.ETH_P_STAT_LINK - 2 ^ sub := by
  have small : s.f (R.ETH_P_STAT p) F.ETH_P_STAT_LINK < 2 ^ 2 := s.f_lt _ _
  rw [State.f_congr (State.rd_ethLost_up up (ethStat_quiet hp)), State.f_setF_ne _ _ _ _ _ _ (ethStat_ne_event p p),
    State.f_setF_of_lt _ _ _ _ (by decide) (Nat.lt_of_le_of_lt (Nat.sub_le _ _) small)]

theorem State.ethLost_self (s : State) {p sub : Nat} (hp : p < 4) (hs : sub < 2) : (s.ethLost p sub false).ethUp p sub = false := by
  rcases up : s.ethUp p sub
  · rwa [State.ethLost_off up]
  · unfold State.ethUp
    rw [State.link_ethLost hp up]
    exact bitOf_sub_self _ (s.f_lt _ _) _ hs up

theorem State.ethLost_stays_down {s : State} {p i sub : Nat} (hp : p < 4) (hi : i < 2) (hs : sub < 2) (down : s.ethUp p i = false) :
    (s.ethLost p sub false).ethUp p i = false := by
  rcases up : s.ethUp p sub
  · rwa [State.ethLost_off up]
  · unfold State.ethUp
    rw [State.link_ethLost hp up]
    exact bitOf_sub_other _ (s.f_lt _ _) _ hi _ hs down up

/-- Both sub-ports of an Ethernet port are down. -/
def EthDown (s : State) (p : Nat) : Prop := s.ethUp p 0 = false ∧ s.ethUp p 1 = false

theorem EthDown.of_rd {s t : State} {p : Nat} (h : EthDown s p) (same : t.rd (R.ETH_P_STAT p) = s.rd (R.ETH_P_STAT p)) :
    EthDown t p := by
  unfold EthDown State.ethUp at *
  rwa [State.f_congr same]

/-- A port loses the links of both its sub-ports. -/
def State.ethsLost (s : State) (p : Nat) : State := (s.ethLost p 0 false).ethLost p 1 false

theorem State.rd_ethsLost_ne (s : State) (p : Nat) {a : Nat} (quiet : ¬ reportReg a) (stat : a ≠ R.ETH_P_STAT p)
    (event : a ≠ R.ETH_P_EVENT p) : (s.ethsLost p).rd a = s.rd a :=
  (State.rd_ethLost_ne _ p 1 quiet stat event).trans (s.rd_ethLost_ne p 0 quiet stat event)

/-- The Ethernet ports of a list lose their links. -/
theorem State.ethsLost_down (s : State) {l : List Nat} (nodup : l.Nodup) {p : Nat} (hp : p < 4) (mem : p ∈ l) :
    EthDown (l.foldl (fun t q => t.ethsLost q) s) p :=
  foldl_reaches (f := fun t q => State.ethsLost t q) (Before := fun _ => True) (After := fun t => EthDown t p) nodup mem
    (fun _ _ _ _ _ => trivial)
    (fun t _ => ⟨State.ethLost_stays_down hp (by decide) (by decide) (t.ethLost_self hp (by decide)),
      State.ethLost_self _ hp (by decide)⟩)
    (fun t q _ ne down => down.of_rd (t.rd_ethsLost_ne q (ethStat_quiet hp) (ethStat_inj (Ne.symm ne)) (ethStat_ne_event p q)))
    trivial

/-! ### The link to the flash drive (R289, R358) -/

/-- A drain to the drive fails: it is dropped, and else only reports change. -/
theorem State.driveFailed_reported (s : State) (k : Nat) : Reported (s.dropDrain k 2) (s.doDrainFailed k 2) := by
  unfold State.doDrainFailed
  extract_lets u
  rw [if_neg (by decide)]
  have event : Reported (s.dropDrain k 2) ((s.dropDrain k 2).setF R.SNP_EVENT F.SNP_EVENT_DRAIN_FAILED 1) :=
    (Reported.refl _).setF _ _ (.inr (by decide))
  exact event.record (o := occ 0x50 kTen k 4 2) (.inr (.inr (.inr rfl))) 7 1

/-- The drains to the drive that a list names are dropped. -/
def State.drivesFailed (s : State) (l : List LayerRun) : State := l.foldl (fun t m => t.doDrainFailed m.t 2) s

theorem State.rd_drivesFailed (s : State) (l : List LayerRun) {a : Nat} (quiet : ¬ reportReg a) :
    (s.drivesFailed l).rd a = s.rd a :=
  List.foldlRecOn (motive := fun t : State => t.rd a = s.rd a) l _ rfl fun t ht m _ => ((t.driveFailed_reported m.t).rd a quiet).trans ht

theorem State.drivesFailed_pins (s : State) (l : List LayerRun) : (s.drivesFailed l).pins = s.pins :=
  List.foldlRecOn (motive := fun t : State => t.pins = s.pins) l _ rfl fun t ht m _ =>
    ((State.doDrainFailed_kept (m := 0x602b74010) (.refl _ t) m.t 2 ⟨rfl⟩).same .pins rfl).trans ht

theorem State.mem_drivesFailed {s : State} {l : List LayerRun} {x : LayerRun} (h : x ∈ (s.drivesFailed l).ten.drains) :
    x ∈ s.ten.drains ∧ ∀ m ∈ l, ¬ (x.t = m.t ∧ x.layer = 2) := by
  induction l generalizing s with
  | nil => exact ⟨h, by simp⟩
  | cons m l ih =>
    obtain ⟨here, rest⟩ := ih (s := s.doDrainFailed m.t 2) h
    rw [(s.driveFailed_reported m.t).drains] at here
    obtain ⟨old, kept⟩ := List.mem_filter.1 here
    refine ⟨old, fun n hn => ?_⟩
    rcases List.mem_cons.1 hn with rfl | hn
    · simpa [imp_iff_not_or] using kept
    · exact rest n hn

theorem State.pcieDown_eq (s : State) : s.pcieDown = State.drivesFailed { s with pins := { s.pins with pcie := false } }
    (s.ten.drains.filter fun l => l.layer == 2) := rfl

theorem State.rd_pcieDown (s : State) {a : Nat} (quiet : ¬ reportReg a) : s.pcieDown.rd a = s.rd a := by
  rw [State.pcieDown_eq, State.rd_drivesFailed _ _ quiet]; rfl

theorem State.pcieDown_pins (s : State) : s.pcieDown.pins = { s.pins with pcie := false } := by
  rw [State.pcieDown_eq, State.drivesFailed_pins]

/-- No drain to the drive is left. -/
theorem State.pcieDown_drains (s : State) : ∀ l ∈ s.pcieDown.ten.drains, l.layer ≠ 2 := by
  intro l h two
  rw [State.pcieDown_eq] at h
  obtain ⟨old, kept⟩ := State.mem_drivesFailed h
  exact kept l (List.mem_filter.2 ⟨old, by simp [two]⟩) ⟨rfl, two⟩

/-! ### The SerDes clocks, the PCIe link and FCS errors as commands (R354, R355, R358) -/

theorem bitOf_clear : ∀ (m : BitVec 4) (k : Fin 4), bitOf (m &&& ~~~ BitVec.ofNat 4 (2 ^ k.val)).toNat k = false := by decide

theorem bitOf_set : ∀ (m : BitVec 4) (k : Fin 4), bitOf (m ||| BitVec.ofNat 4 (2 ^ k.val)).toNat k = true := by decide

/-- The state with clock k missing, and with it back. -/
def State.clockGone (s : State) (k : Nat) : State :=
  { s with pins := { s.pins with srefclk := s.pins.srefclk &&& ~~~ BitVec.ofNat 4 (2 ^ k) } }
def State.clockBack (s : State) (k : Nat) : State :=
  { s with pins := { s.pins with srefclk := s.pins.srefclk ||| BitVec.ofNat 4 (2 ^ k) } }

/-- The ports that clock k feeds have lost it. -/
def State.fedPortsLost (s : State) (k : Nat) : State :=
  (clkEths k).foldl (fun t p => t.ethsLost p) ((clkPorts k).foldl (fun t p => t.portLost p) (s.clockGone k))

theorem State.fedPortsLost_pins (s : State) (k : Nat) : (s.fedPortsLost k).pins = (s.clockGone k).pins := by
  have ports : ((clkPorts k).foldl (fun t p => t.portLost p) (s.clockGone k)).pins = (s.clockGone k).pins :=
    List.foldlRecOn (motive := fun t : State => t.pins = (s.clockGone k).pins) _ _ rfl fun t ht p _ =>
      ((State.portLost_kept (m := 0x800010) (.refl _ t) p ⟨rfl⟩).same .pins rfl).trans ht
  have lost (t : State) (p j : Nat) : (t.ethLost p j false).pins = t.pins :=
    (State.ethLost_kept (m := 0x602b74010) (.refl _ t) p j false ⟨rfl⟩).same .pins rfl
  exact List.foldlRecOn (motive := fun t : State => t.pins = (s.clockGone k).pins) _ _ ports fun t ht p _ =>
    (lost _ p 1).trans ((lost t p 0).trans ht)

/-- The fabric ports are down, and the Ethernet ports with them. -/
theorem State.fedPortsLost_down (s : State) (k : Nat) :
    (∀ p ∈ clkPorts k, ¬ PortLive (s.fedPortsLost k) p) ∧ ∀ p ∈ clkEths k, EthDown (s.fedPortsLost k) p := by
  constructor
  · intro p hp
    refine List.foldlRecOn (motive := fun t : State => ¬ PortLive t p) (clkEths k) _ (State.portsLost_down _ (clkPorts_nodup k) hp)
      fun t down q hq => ?_
    obtain ⟨stat, event⟩ := portStat_ne_eth (p := p) (mem_clkEths hq).1
    rwa [PortLive.congr (t.rd_ethsLost_ne q (portStat_quiet (mem_clkPorts hp).1) stat event)]
  · intro p hp
    exact State.ethsLost_down _ (clkEths_nodup k) (mem_clkEths hp).1 hp

/-- Clock 1 also feeds the PCIe link. -/
theorem State.doSrefLoss_eq (s : State) (k : Nat) :
    s.doSrefLoss k = s.fedPortsLost k ∨ s.doSrefLoss k = (s.fedPortsLost k).pcieDown := by
  unfold State.doSrefLoss
  extract_lets u v w
  split
  · exact .inr rfl
  · exact .inl rfl

theorem exec_srefclkLoss {k : Fin 4} {s : State} (h : bitOf s.pins.srefclk.toNat k = true) :
    ∃ t, exec (.srefclkLoss k) s = .next t ∧ bitOf t.pins.srefclk.toNat k = false ∧
      (∀ p ∈ clkPorts k, t.f (R.FAB_PORT_STAT p) F.FAB_PORT_STAT_STATE ≠ 1 ∧
        t.f (R.FAB_PORT_STAT p) F.FAB_PORT_STAT_STATE ≠ 2) ∧
      ∀ p ∈ clkEths k, t.ethUp p 0 = false ∧ t.ethUp p 1 = false := by
  have ran : exec (.srefclkLoss k) s = .next (s.doSrefLoss k) := State.when_true _ _ h
  obtain ⟨ports, eths⟩ := s.fedPortsLost_down k
  have same : (∀ a, ¬ reportReg a → (s.doSrefLoss k).rd a = (s.fedPortsLost k).rd a) ∧
      (s.doSrefLoss k).pins.srefclk = (s.clockGone k).pins.srefclk := by
    rcases s.doSrefLoss_eq k with e | e
    · rw [e, State.fedPortsLost_pins]; exact ⟨fun _ _ => rfl, rfl⟩
    · rw [e, State.pcieDown_pins, State.fedPortsLost_pins]; exact ⟨fun a quiet => State.rd_pcieDown _ quiet, rfl⟩
  obtain ⟨rd, clocks⟩ := same
  refine ⟨_, ran, by rw [clocks]; exact bitOf_clear _ k, fun p hp => ?_, fun p hp => ?_⟩
  · have down := ports p hp
    rw [← PortLive.congr (rd _ (portStat_quiet (mem_clkPorts hp).1))] at down
    exact not_or.1 down
  · exact (eths p hp).of_rd (rd _ (ethStat_quiet (mem_clkEths hp).1))

/-! With the clock's return its ports train. -/

/-- A port that is down trains. -/
def State.portBackUp (s : State) (ports p : Nat) : State :=
  if s.f (R.FAB_PORT_STAT p) F.FAB_PORT_STAT_STATE = 0 then s.trainPort true (bitOf ports p) none p else s

theorem State.rd_portBackUp_ne (s : State) (ports p : Nat) {a : Nat} (stat : a ≠ R.FAB_PORT_STAT p) :
    (s.portBackUp ports p).rd a = s.rd a := by
  unfold State.portBackUp
  split
  · exact State.rd_trainPort_ne _ _ _ _ stat
  · rfl

theorem State.portBackUp_pins (s : State) (ports p : Nat) : (s.portBackUp ports p).pins = s.pins := by
  unfold State.portBackUp
  split
  · exact (State.trainPort_kept (m := 0x10) (.refl _ s) true _ none p ⟨rfl⟩).same .pins rfl
  · rfl

/-- A port of a list that is down and free to train is in service at the end, or still in training. -/
theorem State.portsBackUp_state {s : State} {ports p : Nat} {l : List Nat} (nodup : l.Nodup) (mem : p ∈ l) (hl : ∀ q ∈ l, q < 16)
    (down : s.f (R.FAB_PORT_STAT p) F.FAB_PORT_STAT_STATE = 0) (free : Trainable s p) :
    (l.foldl (fun t q => t.portBackUp ports q) s).f (R.FAB_PORT_STAT p) F.FAB_PORT_STAT_STATE = if bitOf ports p then 2 else 1 :=
  foldl_reaches (f := fun t q => State.portBackUp t ports q)
    (Before := fun t => t.f (R.FAB_PORT_STAT p) F.FAB_PORT_STAT_STATE = 0 ∧ Trainable t p)
    (After := fun t => t.f (R.FAB_PORT_STAT p) F.FAB_PORT_STAT_STATE = if bitOf ports p then 2 else 1) nodup mem
    (fun t q hq ne ⟨down, free⟩ =>
      ⟨(State.f_congr (t.rd_portBackUp_ne ports q (portStat_inj (Ne.symm ne))) _).trans down,
        free.of_rd (t.rd_portBackUp_ne ports q (portCtl_ne_stat p q))
          (t.rd_portBackUp_ne ports q (fences_ne_portStat (hl q hq))) (t.portBackUp_pins ports q)⟩)
    (fun t ⟨down, free⟩ => by
      unfold State.portBackUp
      rw [if_pos down]; exact State.trainPort_state (hl p mem) free _)
    (fun t q _ ne up => (State.f_congr (t.rd_portBackUp_ne ports q (portStat_inj (Ne.symm ne))) _).trans up)
    ⟨down, free⟩

/-- The links of an Ethernet port train. -/
def State.ethBackUp (s : State) (eth p : Nat) : State :=
  s.setF (R.ETH_P_STAT p) F.ETH_P_STAT_LINK (((s.subPorts p).filter fun j => bitOf eth (2 * p + j)).map fun j => 2 ^ j).sum

/-- The ports that clock k feeds have trained. -/
def State.fedPortsBack (s : State) (k ports eth : Nat) : State :=
  (clkEths k).foldl (fun t p => t.ethBackUp eth p) ((clkPorts k).foldl (fun t p => t.portBackUp ports p) (s.clockBack k))

theorem State.fedPortsBack_pins (s : State) (k ports eth : Nat) : (s.fedPortsBack k ports eth).pins = (s.clockBack k).pins := by
  have trained : ((clkPorts k).foldl (fun t p => t.portBackUp ports p) (s.clockBack k)).pins = (s.clockBack k).pins :=
    List.foldlRecOn (motive := fun t : State => t.pins = (s.clockBack k).pins) _ _ rfl fun t ht p _ => (t.portBackUp_pins ports p).trans ht
  exact List.foldlRecOn (motive := fun t : State => t.pins = (s.clockBack k).pins) _ _ trained fun _ ht _ _ => ht

theorem State.fedPortsBack_state {s : State} {k p : Nat} (ports eth : Nat) (mem : p ∈ clkPorts k)
    (down : s.f (R.FAB_PORT_STAT p) F.FAB_PORT_STAT_STATE = 0) (free : Trainable (s.clockBack k) p) :
    (s.fedPortsBack k ports eth).f (R.FAB_PORT_STAT p) F.FAB_PORT_STAT_STATE = if bitOf ports p then 2 else 1 :=
  List.foldlRecOn (motive := fun t : State => t.f (R.FAB_PORT_STAT p) F.FAB_PORT_STAT_STATE = if bitOf ports p then 2 else 1) _ _
    (State.portsBackUp_state (s := s.clockBack k) (clkPorts_nodup k) mem (fun _ hq => (mem_clkPorts hq).1) down free)
    fun _ ht _ hq => (State.f_setF_ne _ _ _ _ _ _ (portStat_ne_eth (mem_clkEths hq).1).1).trans ht

/-- Before the lock is set nothing but the clock changes with its return. -/
theorem State.doSrefReturn_unlocked {s : State} (h : s.f R.BH_LOCK F.BH_LOCK_LOCK = 0) (k ports eth : Nat) :
    s.doSrefReturn k ports eth = s.clockBack k := if_pos h

/-- Once it is set, the ports that the clock feeds train. -/
theorem State.doSrefReturn_locked {s : State} (h : s.f R.BH_LOCK F.BH_LOCK_LOCK ≠ 0) (k ports eth : Nat) :
    (s.doSrefReturn k ports eth).regs = (s.fedPortsBack k ports eth).regs ∧
      (s.doSrefReturn k ports eth).pins.srefclk = (s.fedPortsBack k ports eth).pins.srefclk := by
  unfold State.doSrefReturn
  extract_lets u v w
  have lock : v.f R.BH_LOCK F.BH_LOCK_LOCK ≠ 0 := h
  rw [if_neg lock]
  split
  · exact ⟨rfl, rfl⟩
  · exact ⟨rfl, rfl⟩

theorem exec_srefclkReturn {k : Fin 4} {s : State} (ports : BitVec 16) (eth : BitVec 8) (h : bitOf s.pins.srefclk.toNat k = false) :
    ∃ t, exec (.srefclkReturn k ports eth) s = .next t ∧ bitOf t.pins.srefclk.toNat k = true ∧
      (s.f R.BH_LOCK F.BH_LOCK_LOCK = 1 → ∀ p ∈ clkPorts k, s.f (R.FAB_PORT_STAT p) F.FAB_PORT_STAT_STATE = 0 →
        s.portFenced p = false → s.f (R.FAB_PORT_CTL p) F.FAB_PORT_CTL_LG_FENCE ≠ 15 →
        s.f (R.FAB_PORT_CTL p) F.FAB_PORT_CTL_EN = 1 →
        t.f (R.FAB_PORT_STAT p) F.FAB_PORT_STAT_STATE = if bitOf ports.toNat p then 2 else 1) := by
  have ran : exec (.srefclkReturn k ports eth) s = .next (s.doSrefReturn k ports.toNat eth.toNat) :=
    State.when_true _ _ (by rw [h]; rfl)
  have back : bitOf (s.clockBack k).pins.srefclk.toNat k = true := bitOf_set _ k
  refine ⟨_, ran, ?_, fun lock p mem down unfenced lanes enabled => ?_⟩
  · by_cases lock : s.f R.BH_LOCK F.BH_LOCK_LOCK = 0
    · rw [State.doSrefReturn_unlocked lock]; exact back
    · rw [(State.doSrefReturn_locked lock ..).2, State.fedPortsBack_pins]; exact back
  · have regs := (State.doSrefReturn_locked (s := s) (by rw [lock]; decide) k ports.toNat eth.toNat).1
    rw [State.f_congr (State.rd_congr regs _)]
    exact State.fedPortsBack_state _ _ mem down ⟨unfenced, lanes, enabled, by rw [(mem_clkPorts mem).2]; exact back⟩

/-- While the PCIe link is up the event is its loss; while it is down, its return (log 28). -/
theorem exec_pcieLinkDown {s : State} (power : s.power.ld ≠ 0) :
    (s.pins.pcie = true → ∃ t, exec .pcieLinkDown s = .next t ∧ t.pins.pcie = false ∧ (∀ l ∈ t.ten.drains, l.layer ≠ 2) ∧
      t.spad = s.spad ∧ t.hbm = s.hbm) ∧
    (s.pins.pcie = false → exec .pcieLinkDown s =
      .next { s with pins := { s.pins with pcie := bitOf s.pins.srefclk.toNat 1 } }) := by
  have ran (t : State) (e : (if s.pins.pcie then s.pcieDown
      else { s with pins := { s.pins with pcie := bitOf s.pins.srefclk.toNat 1 } }) = t) : exec .pcieLinkDown s = .next t :=
    (State.when_true _ _ (by simpa using power)).trans (congrArg _ e)
  constructor
  · intro up
    have lost := ran s.pcieDown (if_pos up)
    exact ⟨_, lost, congrArg Pins.pcie s.pcieDown_pins, s.pcieDown_drains, exec_same lost .spad (by decide),
      exec_same lost .hbm (by decide)⟩
  · intro down
    exact ran _ (if_neg (by simp [down]))

/-- An FCS error is counted, and its event set (R342). -/
theorem exec_ethFcs {port : Fin 4} {sub : Fin 2} {s : State} (up : s.ethUp port sub = true) (un : Unarmed s 0x40) :
    ∃ t, exec (.ethFcs port sub) s = .next t ∧ t.rd (R.ETH_CNT_FCS_ERR port) = s.rd (R.ETH_CNT_FCS_ERR port) + 1 ∧
      t.f (R.ETH_P_EVENT port) F.ETH_P_EVENT_FCS = 1 ∧ t.spad = s.spad ∧ t.hbm = s.hbm := by
  have ran : exec (.ethFcs port sub) s = .next (((s.bump (R.ETH_CNT_FCS_ERR port) 1).setF (R.ETH_P_EVENT port)
      F.ETH_P_EVENT_FCS 1).record (occ 0x40 kEth port 1 sub)) := by
    have quiet : s.inject 0x40 kEth port = (none, s) := State.inject_unarmed un _ _
    show execEthFcs port sub s = _
    unfold execEthFcs
    rw [quiet]
    exact State.when_true _ _ up
  have reported := (Reported.refl ((s.bump (R.ETH_CNT_FCS_ERR port) 1).setF (R.ETH_P_EVENT port) F.ETH_P_EVENT_FCS 1)).record
    (o := occ 0x40 kEth port 1 sub) (.inr (.inr (.inl rfl))) 7 1
  have count : ¬ reportReg (R.ETH_CNT_FCS_ERR port) := by
    have := port.isLt; simp only [reportReg, errReg, R.ETH_CNT_FCS_ERR, Blk.base]; omega
  have event : ¬ reportReg (R.ETH_P_EVENT port) := by
    have := port.isLt; simp only [reportReg, errReg, R.ETH_P_EVENT, Blk.base]; omega
  have apart : R.ETH_CNT_FCS_ERR port ≠ R.ETH_P_EVENT port := by simp only [R.ETH_CNT_FCS_ERR, R.ETH_P_EVENT]; omega
  refine ⟨_, ran, ?_, ?_, exec_same ran .spad (by simp [touches, Part.reported]),
    exec_same ran .hbm (by simp [touches, Part.reported])⟩
  · rw [reported.rd _ count, State.rd_setF_ne _ _ _ _ _ apart, State.rd_bump_self]
    rfl
  · rw [State.f_congr (reported.rd _ event), State.f_setF_of_lt _ _ _ _ (by decide) (by decide)]

/-! ### JTAG (R357) -/

theorem exec_jtag {s : State} (code : Nat) (power : s.power.ao = true) :
    exec (.jtagInstruction code) s = .next { s with bh := { s.bh with
      jtag := if s.f R.BH_LOCK F.BH_LOCK_LOCK = 1 ∧ 1 < code then 0 else code } } ∧
    exec .jtagTestLogicReset s = .next { s with bh := { s.bh with jtag := 0 } } :=
  ⟨State.when_true _ _ power, State.when_true _ _ power⟩

/-! ### The boathouse pairs (R24, R300, R301, R343) -/

theorem State.record_bh (s : State) (o : Occ) (cause weight : Nat) : (s.record o cause weight).bh = s.bh :=
  (State.record_kept (m := 0x602b74010) (.refl _ s) o cause weight ⟨rfl⟩).same .bh rfl

/-- The pair's loss as a takeover records it. -/
def State.pairLost (s : State) (missed : Bool) : State :=
  let ld := s.f R.BH_STAT F.BH_STAT_ACTIVE_LD
  s.record (occ 0x4B kLinkDie ld ld (b2n missed + 2))

/-- With a patch on trial the old image is in force again; without one the standby bit falls. -/
def State.pairStopped (s : State) : State :=
  match s.bh.trial with
  | some w => s.rollback w
  | none => s.setF R.BH_STAT F.BH_STAT_STANDBY_OK 0

/-- The standby pair takes over: no mirror is being written. -/
def State.handOver (s : State) : State :=
  { s with bh := { s.bh with takeover := true, mirror := none }, mirrorDue := s.mirrorDue || s.bh.mirror.isSome }

theorem State.rd_handOver (s : State) (a : Nat) : s.handOver.rd a = s.rd a := rfl

theorem State.beginTakeover_eq (s : State) (missed : Bool) :
    s.beginTakeover missed false = (s.pairLost missed).pairStopped.handOver.setF R.BH_PAL_MSTAT F.BH_PAL_MSTAT_BUSY 0 := by
  unfold State.beginTakeover
  extract_lets ld o u v b w
  have hv : v = (s.pairLost missed).pairStopped := rfl
  have hw : w = v.handOver := rfl
  rw [hw, hv]

theorem State.trialEnd_bh (s : State) (ok : Bool) : (s.trialEnd ok).bh = s.bh :=
  (State.trialEnd_kept (m := 0x2000010) (.refl _ s) ok ⟨rfl⟩).same .bh rfl

/-- The end of a failed trial shows in MNT_STAT only. -/
theorem State.rd_trialEnd (s : State) {a : Nat} (h : a ≠ R.MNT_STAT) : (s.trialEnd false).rd a = s.rd a := by
  unfold State.trialEnd
  split
  · unfold State.maintEnd
    split
    · rfl
    · exact State.rd_setF_ne _ _ _ _ _ h
  · rfl

theorem State.showFw_bh (s : State) (kind : Nat) (i : FwImage) : (s.showFw kind i).bh = s.bh :=
  (State.showFw_kept (m := 0x10) (.refl _ s) kind i ⟨rfl⟩).same .bh rfl

theorem State.rollback_bh (s : State) (w : PatchTrial) :
    (s.rollback w).bh = { s.bh with trial := none, fw := s.bh.fw.set 0 w.old } := by
  unfold State.rollback
  extract_lets b u v
  have hv : v.bh = u.bh := by
    unfold v
    split
    · exact State.showFw_bh ..
    · rfl
  exact (State.trialEnd_bh _ _).trans hv

theorem State.rollback_event (s : State) (w : PatchTrial) : (s.rollback w).f R.MNT_EVENT F.MNT_EVENT_PATCH_ROLLBACK = 1 := by
  unfold State.rollback
  rw [State.f_congr (State.rd_trialEnd _ (by decide)), State.f_setF_of_lt _ _ _ _ (by decide) (by decide)]

/-- A takeover begins: the pair does not serve, no mirror and no trial is left, and what was on trial is rolled back. -/
theorem State.beginTakeover_begins (s : State) (missed : Bool) :
    let t := s.beginTakeover missed false
    t.bh.takeover = true ∧ t.bhUp = false ∧ t.bh.mirror = none ∧ t.bh.trial = none ∧
      (s.bh.mirror ≠ none → t.mirrorDue = true) ∧ t.f R.BH_PAL_MSTAT F.BH_PAL_MSTAT_BUSY = 0 ∧
      (s.bh.trial = none → t.f R.BH_STAT F.BH_STAT_STANDBY_OK = 0 ∧ t.bh.fw = s.bh.fw) ∧
      ∀ w, s.bh.trial = some w → t.bh.fw = s.bh.fw.set 0 w.old ∧ t.f R.MNT_EVENT F.MNT_EVENT_PATCH_ROLLBACK = 1 := by
  have recorded : (s.pairLost missed).bh = s.bh := State.record_bh ..
  have busy : (s.beginTakeover missed false).f R.BH_PAL_MSTAT F.BH_PAL_MSTAT_BUSY = 0 := by
    rw [State.beginTakeover_eq, State.f_setF_of_lt _ _ _ _ (by decide) (by decide)]
  have rest {a : Nat} (g : Nat × Nat) (h : a ≠ R.BH_PAL_MSTAT) :
      (s.beginTakeover missed false).f a g = (s.pairLost missed).pairStopped.f a g := by
    rw [State.beginTakeover_eq, State.f_setF_ne _ _ _ _ _ _ h, State.f_congr (State.rd_handOver ..)]
  have bh : (s.beginTakeover missed false).bh = (s.pairLost missed).pairStopped.handOver.bh := by
    rw [State.beginTakeover_eq]; rfl
  have due : (s.beginTakeover missed false).mirrorDue = (s.pairLost missed).pairStopped.handOver.mirrorDue := by
    rw [State.beginTakeover_eq]; rfl
  unfold State.handOver at bh due
  rcases trial : s.bh.trial with _ | w
  case none =>
    have stopped : (s.pairLost missed).pairStopped = (s.pairLost missed).setF R.BH_STAT F.BH_STAT_STANDBY_OK 0 := by
      unfold State.pairStopped; rw [recorded, trial]
    have same : (s.pairLost missed).pairStopped.bh = s.bh := by rw [stopped]; exact recorded
    rw [same] at bh due
    refine ⟨by rw [bh], by unfold State.bhUp; rw [bh]; rfl, by rw [bh], by rw [bh]; exact trial, fun m => ?_, busy,
      fun _ => ⟨?_, by rw [bh]⟩, fun w e => by cases e⟩
    · rw [due, Option.isSome_iff_ne_none.2 m, Bool.or_true]
    · rw [rest _ (by decide), stopped, State.f_setF_of_lt _ _ _ _ (by decide) (by decide)]
  case some =>
    have stopped : (s.pairLost missed).pairStopped = (s.pairLost missed).rollback w := by
      unfold State.pairStopped; rw [recorded, trial]
    have same : (s.pairLost missed).pairStopped.bh = { s.bh with trial := none, fw := s.bh.fw.set 0 w.old } := by
      rw [stopped, State.rollback_bh, recorded]
    rw [same] at bh due
    refine ⟨by rw [bh], by unfold State.bhUp; rw [bh]; rfl, by rw [bh], by rw [bh], fun m => ?_, busy,
      (fun e => by cases e), fun w' e => ?_⟩
    · rw [due]; exact Bool.or_eq_true_iff.2 (.inr (Option.isSome_iff_ne_none.2 m))
    · obtain rfl : w = w' := Option.some.inj e
      exact ⟨by rw [bh], by rw [rest _ (by decide), stopped, State.rollback_event]⟩

/-- A missed heartbeat, and a lock-step mismatch, begin a takeover (R24). -/
theorem exec_takeoverBegins {i : Instr} {s : State} (hi : i = .heartbeatMiss ∨ (i = .lockstepMismatch ∧ Unarmed s 0x4B))
    (may : s.mayTakeover = true) : ∃ missed, exec i s = .next (s.beginTakeover missed false) := by
  rcases hi with rfl | ⟨rfl, un⟩
  · exact ⟨true, State.when_true _ _ may⟩
  · refine ⟨false, ?_⟩
    have quiet : s.inject 0x4B kLinkDie (s.f R.BH_STAT F.BH_STAT_ACTIVE_LD) = (none, s) := State.inject_unarmed un _ _
    show execLockstepMismatch s = _
    unfold execLockstepMismatch
    rw [quiet]
    exact State.when_true _ _ may

/-- Where no access waits for the boathouse, none is served. -/
theorem State.serveWaits_none {s : State} {d : Nat} (h : ∀ w ∈ s.waits, w.die ≠ d) : s.serveWaits d = s := by
  have here : (s.waits.filter fun w => w.die == d) = [] := List.filter_eq_nil_iff.2 fun w hw => by simpa using h w hw
  have rest : (s.waits.filter fun w => w.die != d) = s.waits := List.filter_eq_self.2 fun w hw => by simpa using h w hw
  unfold State.serveWaits
  rw [here, rest]
  rfl

theorem exec_takeoverComplete {s : State} (h : s.bh.takeover = true) (idle : ∀ w ∈ s.waits, w.die ≠ 8) :
    let ld := s.f R.BH_STAT F.BH_STAT_ACTIVE_LD
    ∃ t, exec .takeoverComplete s = .next t ∧ t.bh = { s.bh with takeover := false } ∧
      t.f R.BH_STAT F.BH_STAT_ACTIVE_LD = 1 - ld ∧ t.f R.BH_EVENT F.BH_EVENT_TAKEOVER = 1 ∧ t.errs.wins = [] ∧
      t.pals = [(s.pals[1 - ld]?).bind id, (s.pals[1 - ld]?).bind id] ∧ t.out = s.out ∧ t.waits = s.waits ∧
      RegsBut s t [R.BH_STAT, R.BH_EVENT] := by
  intro ld
  have ran : exec .takeoverComplete s = .next s.doTakeover := by
    have served : s.doTakeover.serveWaits 8 = s.doTakeover := State.serveWaits_none idle
    rw [← served]; exact State.when_true _ _ h
  refine ⟨_, ran, rfl, ?_, ?_, rfl, rfl, rfl, rfl, fun a ha => ?_⟩
  · unfold State.doTakeover
    have bit : 1 - ld < 2 ^ F.BH_STAT_ACTIVE_LD.2 := Nat.lt_of_le_of_lt (Nat.sub_le _ _) (by decide)
    rw [State.f_setF_ne _ _ _ _ _ _ (by decide), State.f_setF_of_lt _ _ _ _ (by decide) bit]
  · unfold State.doTakeover
    rw [State.f_setF_of_lt _ _ _ _ (by decide) (by decide)]
  · obtain ⟨stat, event⟩ : a ≠ R.BH_STAT ∧ a ≠ R.BH_EVENT := by simpa using ha
    unfold State.doTakeover
    rw [State.rd_setF_ne _ _ _ _ _ event, State.rd_setF_ne _ _ _ _ _ stat]
    rfl

/-- With both pairs lost FAULT_N is asserted, and nothing is served (R301). -/
theorem exec_boathouseLost {s : State} (power : s.power.ao = true) (h : s.bh.lost = false) :
    ∃ t, exec .boathouseLost s = .next t ∧ t.bh = { s.bh with lost := true, takeover := false } ∧ t.faultN = true ∧
      t.bhUp = false ∧ RegsBut s t [R.BH_STAT] ∧ t = { s with regs := t.regs, bh := t.bh } := by
  refine ⟨_, State.when_true _ _ (by simp [power, h]), rfl, Bool.or_true _, rfl, fun a ha => ?_, rfl⟩
  rw [State.rd_setF_ne _ _ _ _ _ (by simpa using ha)]
  rfl

/-! ### Announcements (R319) -/

theorem State.sendEth_out (s : State) (p sub what : Nat) (body : List Byte) :
    (s.sendEth p sub what body).out = s.out ++ [.eth p sub what body] := congrArg (· ++ _) (State.bump_out ..)

/-- Frames are sent one after another: each is counted at its port, and the boathouse is as it was. -/
theorem State.sendAll {α : Type} (port sub : α → Nat) (body : α → List Byte) (what : Nat) (l : List α) (s : State) :
    let t := l.foldl (fun t q => t.sendEth (port q) (sub q) what (body q)) s
    t.out = s.out ++ l.map (fun q => .eth (port q) (sub q) what (body q)) ∧
      RegsBut s t (l.map fun q => R.ETH_CNT_FRAMES_TX (port q)) ∧ t.bh = s.bh := by
  induction l generalizing s with
  | nil => exact ⟨(List.append_nil _).symm, fun _ _ => rfl, rfl⟩
  | cons q l ih =>
    obtain ⟨out, regs, bh⟩ := ih (s.sendEth (port q) (sub q) what (body q))
    refine ⟨?_, fun a ha => ?_, bh.trans ?_⟩
    · rw [List.foldl_cons, out, State.sendEth_out, List.append_assoc]
      rfl
    · obtain ⟨here, rest⟩ : a ≠ R.ETH_CNT_FRAMES_TX (port q) ∧ a ∉ l.map fun q => R.ETH_CNT_FRAMES_TX (port q) := by
        simpa [not_or] using ha
      exact (regs a rest).trans (State.rd_bump_ne _ _ _ _ here)
    · exact State.bump_bh ..

/-- The sub-ports that are up, with their ports, and for each the management hosts. -/
def State.hostsTo (s : State) : List ((Nat × Nat) × Nat) :=
  ((List.range 4).flatMap fun p => ((s.subPorts p).filter (s.ethUp p)).map fun j => (p, j)).flatMap fun u =>
    s.ten.mgmt.map fun m => (u, m)

theorem State.announce_eq (s : State) :
    s.announce = s.hostsTo.foldl (fun t q => t.sendEth q.1.1 q.1.2 1 (leBytes 17 q.2 ++ s.announcement)) s := rfl

theorem State.mem_hostsTo {s : State} {q : (Nat × Nat) × Nat} (h : q ∈ s.hostsTo) : q.1.1 < 4 := by
  obtain ⟨u, hu, hq⟩ := List.mem_flatMap.1 h
  obtain ⟨p, hp, hu⟩ := List.mem_flatMap.1 hu
  obtain ⟨j, -, rfl⟩ := List.mem_map.1 hu
  obtain ⟨m, -, rfl⟩ := List.mem_map.1 hq
  exact List.mem_range.1 hp

/-- An announcement goes to every management host from every sub-port that is up; each frame is counted, and the boathouse
is as it was. -/
theorem State.announce_sends (s : State) :
    s.announce.out = s.out ++ ((List.range 4).flatMap fun p => ((s.subPorts p).filter (s.ethUp p)).flatMap fun j =>
      s.ten.mgmt.map fun m => .eth p j 1 (leBytes 17 m ++ s.announcement)) ∧
    RegsBut s s.announce ((List.range 4).map R.ETH_CNT_FRAMES_TX) ∧ s.announce.bh = s.bh := by
  obtain ⟨out, regs, bh⟩ := State.sendAll (·.1.1) (·.1.2) (fun q : (Nat × Nat) × Nat => leBytes 17 q.2 ++ s.announcement) 1
    s.hostsTo s
  rw [State.announce_eq]
  refine ⟨out.trans ?_, fun a ha => regs a fun m => ha ?_, bh⟩
  · unfold State.hostsTo
    simp only [List.map_flatMap, List.flatMap_assoc, List.flatMap_map, List.map_map]
    rfl
  · obtain ⟨q, hq, rfl⟩ := List.mem_map.1 m
    exact List.mem_map.2 ⟨_, List.mem_range.2 (State.mem_hostsTo hq), rfl⟩

theorem exec_announcementResend {r : Nat} {s : State} (ready : s.bh.ready = some r) (more : s.bh.sent < 2) (on : s.bhOn = true)
    (book : s.bh.book ≠ []) (due : r + (if s.bh.sent = 0 then 1 else 3) * 25000000 ≤ s.time) :
    ∃ t, exec .announcementResend s = .next t ∧ t.bh = { s.bh with sent := s.bh.sent + 1 } ∧
      t.out = s.out ++ ((List.range 4).flatMap fun p => ((s.subPorts p).filter (s.ethUp p)).flatMap fun j =>
        s.ten.mgmt.map fun m => .eth p j 1 (leBytes 17 m ++ s.announcement)) ∧
      RegsBut s t ((List.range 4).map R.ETH_CNT_FRAMES_TX) := by
  have ran : exec .announcementResend s = .next (State.announce { s with bh := { s.bh with sent := s.bh.sent + 1 } }) := by
    show execAnnouncementResend s = _
    unfold execAnnouncementResend
    rw [ready]
    exact State.when_true _ _ (by simpa [more, on, book] using due)
  obtain ⟨out, regs, bh⟩ := State.announce_sends { s with bh := { s.bh with sent := s.bh.sent + 1 } }
  exact ⟨_, ran, bh, out, regs⟩

/-! ### The check of a firmware image (R317, R318) -/

/-- An image's fitness rests on MIN_SVN of its kind. -/
theorem State.fwOk_congr {s t : State} {kind : Nat} (h : t.rd (R.BH_FW (kind - 1)) = s.rd (R.BH_FW (kind - 1))) (i : FwImage) :
    t.fwOk kind i = s.fwOk kind i := by unfold State.fwOk; rw [State.f_congr h]

/-- Where the point is not armed, a fit image passes and nothing changes; one that is not fit is recorded, and fails. -/
theorem State.fwCheck_unarmed {s : State} (un : Unarmed s 0x4A) (kind : Nat) (i : FwImage) :
    s.fwCheck kind i = if s.fwOk kind i then (true, s) else (false, s.record (occ 0x4A kPackage 0 kind i.keyId)) := by
  unfold State.fwCheck
  extract_lets armed q
  have quiet : q = (none, s) := by
    unfold q
    split
    · exact State.inject_unarmed un _ _
    · rfl
  rw [quiet]
  rcases s.fwOk kind i
  · rfl
  · rfl

/-- Checking an image changes reports only. -/
theorem State.fwCheck_reported {s : State} (un : Unarmed s 0x4A) (kind : Nat) (i : FwImage) : Reported s (s.fwCheck kind i).2 := by
  rw [State.fwCheck_unarmed un]
  split
  · exact .refl s
  · exact (Reported.refl s).record (o := occ 0x4A kPackage 0 kind i.keyId) (.inl rfl) 7 1

/-- The image of a slot, where it is fit. -/
def State.trySlot (s : State) (n : Nor) (kind : Nat) (slot : Bool) : Option FwImage × State :=
  match norSlot n slot kind with
  | none => (none, s)
  | some i => let c := s.fwCheck kind i; (if c.1 then some i else none, c.2)

theorem State.trySlot_fit {s : State} {n : Nor} {kind : Nat} {slot : Bool} {i : FwImage} (un : Unarmed s 0x4A)
    (here : norSlot n slot kind = some i) (ok : s.fwOk kind i = true) : (s.trySlot n kind slot).1 = some i := by
  unfold State.trySlot
  rw [here]
  simp only [State.fwCheck_unarmed un, ok, if_true]

theorem State.trySlot_reported {s : State} (un : Unarmed s 0x4A) (n : Nor) (kind : Nat) (slot : Bool) :
    Reported s (s.trySlot n kind slot).2 := by
  unfold State.trySlot
  split
  · exact .refl s
  · exact State.fwCheck_reported un _ _

theorem fw_quiet : ¬ reportReg (R.BH_FW 0) ∧ ¬ reportReg (R.INJ_P_CTL 0x4A) := by
  simp only [reportReg, errReg, R.BH_FW, R.INJ_P_CTL, Blk.base]; omega

theorem fw_ne_slot : R.BH_FW 0 ≠ R.BH_FW_SLOT ∧ R.INJ_P_CTL 0x4A ≠ R.BH_FW_SLOT := by
  simp only [R.BH_FW, R.INJ_P_CTL, R.BH_FW_SLOT, Blk.base]; omega

/-- With a fit boathouse image in slot A, whichever slot is selected, some image comes into force. -/
theorem State.bootImage_some {s : State} {img : FwImage} (un : Unarmed s 0x4A) (here : norSlot s.bh.nor false 1 = some img)
    (ok : s.fwOk 1 img = true) : ∃ i, (s.bootImage 1).1 = some i := by
  unfold State.bootImage
  extract_lets n b u try_ a o
  have un₁ : Unarmed u 0x4A := (State.f_setF_ne _ _ _ _ _ _ fw_ne_slot.2).trans un
  have ok₁ : u.fwOk 1 img = true := (State.fwOk_congr (State.rd_setF_ne _ _ _ _ _ fw_ne_slot.1) img).trans ok
  have ha : a = u.trySlot n 1 b := rfl
  have ho : o = a.2.trySlot n 1 (!b) := rfl
  have reported : Reported u a.2 := by rw [ha]; exact State.trySlot_reported un₁ n 1 b
  have un₂ : Unarmed a.2 0x4A := (State.f_congr (reported.rd _ fw_quiet.2) _).trans un₁
  have ok₂ : a.2.fwOk 1 img = true := (State.fwOk_congr (reported.rd _ fw_quiet.1) img).trans ok₁
  split
  · exact ⟨_, rfl⟩
  · rename_i none₁
    have slotB : b = true := by
      rcases hb : b
      · rw [ha, hb, State.trySlot_fit un₁ here ok₁] at none₁; cases none₁
      · rfl
    have some₂ : o.1 = some img := by rw [ho, slotB]; exact State.trySlot_fit un₂ here ok₂
    rw [some₂]
    exact ⟨_, rfl⟩

/-! ### The start of the boathouse's firmware (R318 to R320) -/

/-- The flash holds n, and the ROM does not wait for an image. -/
structure Started (n : Nor) (s : State) : Prop where
  nor : s.bh.nor = n
  rom : s.bh.rom = false

/-- Every part of the state but the boathouse's. -/
def allButBh : Nat := 0x17ffffffff

theorem Started.kept {n : Nor} {s t : State} (h : Started n s) (k : Kept allButBh s t) : Started n t := by
  have bh : t.bh = s.bh := k.same .bh (by decide)
  exact ⟨by rw [bh]; exact h.nor, by rw [bh]; exact h.rom⟩

theorem Started.setF {n : Nor} {s : State} (h : Started n s) (a : Nat) (g : Nat × Nat) (v : Nat) : Started n (s.setF a g v) :=
  ⟨h.nor, h.rom⟩

theorem Started.watchdog {n : Nor} {s : State} (h : Started n s) (w : Nat) : Started n { s with wdDefault := w } := ⟨h.nor, h.rom⟩

theorem Started.showFw {n : Nor} {s : State} (h : Started n s) (kind : Nat) (i : FwImage) : Started n (s.showFw kind i) := by
  have bh : (s.showFw kind i).bh = s.bh := State.showFw_bh ..
  exact ⟨by rw [bh]; exact h.nor, by rw [bh]; exact h.rom⟩

theorem Started.showBook {n : Nor} {s : State} (h : Started n s) (b : List Byte) : Started n (s.showBook b) :=
  List.foldlRecOn (motive := Started n) _ _ ⟨h.nor, h.rom⟩ fun _ ht _ _ => ⟨ht.nor, ht.rom⟩

theorem Started.applyOwner {n : Nor} {s : State} (h : Started n s) (b : List Byte) : Started n (s.applyOwner b) := by
  unfold State.applyOwner
  split
  · exact h
  · split
    · exact h
    · exact ⟨h.nor, h.rom⟩

theorem Started.applyCommon {n : Nor} {s : State} (h : Started n s) (b : List Byte) (inService : Bool) :
    Started n (s.applyCommon b inService) := by
  have sub : Sub allButBh allButBh := ⟨rfl⟩
  unfold State.applyCommon
  extract_lets u v w x
  have hu : Started n u := by
    unfold u; split
    · exact h.kept (State.applyPower_kept (.refl _ s) ..)
    · exact h
  have hv : Started n v := by
    unfold v; split
    · exact hu.kept (State.applyWatchdogs_kept (.refl _ u) ..)
    · exact hu.watchdog _
  have hw : Started n w := hv.kept (State.applyThresholds_kept (.refl _ v) ..)
  have hx : Started n x := hw.kept (.foldl (.refl _ w) fun _ _ k => State.regDefault_kept k ..)
  exact hx.applyOwner b

theorem Started.becomeReady {n : Nor} {s : State} (h : Started n s) (t : Training) : Started n (s.becomeReady t) := by
  have sub : Sub allButBh allButBh := ⟨rfl⟩
  unfold State.becomeReady
  extract_lets on u v w due b p x y
  have hu : Started n u := h.kept (State.trainEth_kept (.refl _ s) ..)
  have hv : Started n v := (hu.setF ..).setF ..
  have hx : Started n x := ⟨hv.nor, hv.rom⟩
  have hy : Started n y := (hx.setF ..).setF ..
  split
  · exact (hy.setF R.BH_LOCK F.BH_LOCK_LOCK 1).kept (State.announce_kept (.refl _ _))
  · exact hy

theorem State.becomeReady_ready (s : State) (t : Training) : (s.becomeReady t).f R.BH_STAT F.BH_STAT_READY = 1 := by
  unfold State.becomeReady
  extract_lets on u v w due b p x y
  have hy : y.f R.BH_STAT F.BH_STAT_READY = 1 := by
    unfold y
    rw [State.f_setF_apart _ _ _ _ _ (.inr (by decide)) (by decide), State.f_setF_of_lt _ _ _ _ (by decide) (by decide)]
  split
  · obtain ⟨_, regs, _⟩ := State.announce_sends (y.setF R.BH_LOCK F.BH_LOCK_LOCK 1)
    rw [State.f_congr (regs R.BH_STAT (by decide)), State.f_setF_ne _ _ _ _ _ _ (by decide), hy]
  · exact hy

/-- Once an image is in force the start goes on until the device is ready, and the flash stays as it is. -/
theorem State.startFrom2_ready {s : State} {i : FwImage} (boots : (s.bootImage 1).1 = some i) (t : Training) :
    Started s.bh.nor (s.startFrom2 t) ∧ (s.startFrom2 t).f R.BH_STAT F.BH_STAT_READY = 1 := by
  have sub : Sub allButBh allButBh := ⟨rfl⟩
  have booted : (s.bootImage 1).2.bh = s.bh :=
    (State.bootImage_kept (m := allButBh) (.refl _ s) 1).same .bh (by decide)
  unfold State.startFrom2
  extract_lets -underBinder f s1
  split
  · rename_i no; cases no.symm.trans boots
  extract_lets -underBinder bh s2 s3 s4 b s5 on s6 s7 s8 s9 tr s10 sc s11 s12
  have h1 : s1.bh.nor = s.bh.nor := congrArg Boathouse.nor booted
  have h2 : Started s.bh.nor s2 := by
    unfold s2; refine Started.showFw ?_ ..; exact ⟨h1, rfl⟩
  have h3 : Started s.bh.nor s3 := by
    unfold s3; split
    · exact h2.kept (State.record_kept (State.setF_kept (.refl _ s2) ..) ..)
    · exact h2.setF ..
  have h4 : Started s.bh.nor s4 := by
    unfold s4; split
    · exact h3
    · exact h3.kept (State.record_kept (.refl _ s3) ..)
  have h5 : Started s.bh.nor s5 := h4.kept (State.bootBook_kept (.refl _ s4))
  have h6 : Started s.bh.nor s6 := by
    unfold s6; split
    · exact (h5.kept (State.applyEthernet_kept (State.applyNode_kept (.refl _ s5) ..) ..)).showBook _
    · exact h5
  have h7 : Started s.bh.nor s7 := by
    unfold s7; split
    · exact h6.applyCommon _ _
    · exact h6
  have h9 : Started s.bh.nor s9 :=
    h7.kept (State.trainUnits_kept (State.choosePal_kept (State.setF_kept (.refl _ s7) ..)) ..)
  have ht : Started s.bh.nor tr.2 := h9.kept (State.bootImage_kept (.refl _ s9) ..)
  have h10 : Started s.bh.nor s10 := by
    unfold s10; split
    · refine Started.showFw ?_ ..; exact ⟨ht.nor, ht.rom⟩
    · exact ht
  have hc : Started s.bh.nor sc.2 := h10.kept (State.bootImage_kept (.refl _ s10) ..)
  have h11 : Started s.bh.nor s11 := by
    unfold s11; split
    · refine Started.showFw ?_ ..; exact ⟨hc.nor, hc.rom⟩
    · exact hc
  have h12 : Started s.bh.nor s12 := by
    unfold s12; split
    · exact h11.kept (State.admitAll_kept (.refl _ s11) ..)
    · exact h11.kept (.foldl (.refl _ s11) fun _ _ k => State.offDie_kept k ..)
  exact ⟨h12.becomeReady t, State.becomeReady_ready _ t⟩

/-! ### The ROM's recovery (R320) -/

/-- Slot A of the boathouse's images holds what was put there. -/
theorem norSlot_norPut {n : Nor} (three : n.slotA.length = 3) (i : FwImage) : norSlot (norPut n false 1 i) false 1 = some i := by
  have first : (n.slotA.set 0 (some i))[0]? = some (some i) := List.getElem?_set_self (by omega)
  simp only [norSlot, norPut, Bool.false_eq_true, if_false, Nat.sub_self, first]
  rfl

theorem State.rd_setNor (s : State) (n : Nor) (a : Nat) : (s.setNor n).rd a = s.rd a := rfl

/-- A fit image goes to slot A, and the start goes on. -/
theorem State.doRecovery_fit {s : State} {img : FwImage} (un : Unarmed s 0x4A) (ok : s.fwOk 1 img = true) (tr : Training) :
    s.doRecovery img tr = (s.setNor (norPut s.bh.nor false 1 img)).startFrom2 tr := by
  unfold State.doRecovery
  simp only [State.fwCheck_unarmed un, ok, if_true]

/-- An image that is not fit is recorded. -/
theorem State.doRecovery_unfit {s : State} {img : FwImage} (un : Unarmed s 0x4A) (bad : s.fwOk 1 img = false) (tr : Training) :
    s.doRecovery img tr = s.record (occ 0x4A kPackage 0 1 img.keyId) := by
  unfold State.doRecovery
  simp only [State.fwCheck_unarmed un, bad, Bool.false_eq_true, if_false]

theorem exec_romRecoveryImage {img : FwImage} {tr : Training} {s : State} (power : s.power.ao = true) (rom : s.bh.rom = true)
    (high : s.pins.resetN = false) (times : s.timesOk tr 280 = true) (un : Unarmed s 0x4A) (three : s.bh.nor.slotA.length = 3) :
    ∃ t, exec (.romRecoveryImage img tr) s = .next t ∧ norSlot t.bh.nor false 1 =
        (if s.fwOk 1 img = true then some img else norSlot s.bh.nor false 1) ∧
      (s.fwOk 1 img = true → t.bh.rom = false ∧ t.f R.BH_STAT F.BH_STAT_READY = 1) ∧
      (s.fwOk 1 img = false → t.bh = s.bh) := by
  have ran : exec (.romRecoveryImage img tr) s = .next (s.doRecovery img tr) :=
    State.when_true _ _ (by simp [power, rom, high, times])
  rcases ok : s.fwOk 1 img
  case false =>
    have same : (s.doRecovery img tr).bh = s.bh := by rw [State.doRecovery_unfit un ok]; exact State.record_bh ..
    exact ⟨_, ran, congrArg (fun b => norSlot b.nor false 1) same, (fun e => by cases e), fun _ => same⟩
  case true =>
    have un₁ : Unarmed (s.setNor (norPut s.bh.nor false 1 img)) 0x4A := (State.f_congr (State.rd_setNor ..) _).trans un
    have ok₁ : (s.setNor (norPut s.bh.nor false 1 img)).fwOk 1 img = true := (State.fwOk_congr (State.rd_setNor ..) img).trans ok
    obtain ⟨i, boots⟩ := State.bootImage_some un₁ (norSlot_norPut three img) ok₁
    obtain ⟨⟨nor, started⟩, ready⟩ := State.startFrom2_ready boots tr
    rw [← State.doRecovery_fit un ok] at nor started ready
    exact ⟨_, ran, (congrArg (norSlot · false 1) nor).trans (norSlot_norPut three img), fun _ => ⟨started, ready⟩,
      fun e => by cases e⟩

/-- Settles O59: each event is its effect, and each effect is the one its own lemmas state. -/
theorem clocksLinksAndPairs : Obligations.ClocksLinksAndPairs := by
  unfold Obligations.ClocksLinksAndPairs
  refine ⟨fun s => exec_aoRefclkLoss, fun s => exec_aoRefclkReturn, fun d s => exec_pllUnlock,
    fun k s => ⟨exec_srefclkLoss, fun ports eth => exec_srefclkReturn ports eth⟩, fun s => exec_pcieLinkDown,
    fun port sub s => exec_ethFcs, fun code s => exec_jtag code, fun i s hi may => ?_, fun s => exec_takeoverComplete,
    fun s => exec_boathouseLost, fun r s => exec_announcementResend, fun img tr s => exec_romRecoveryImage⟩
  obtain ⟨missed, ran⟩ := exec_takeoverBegins hi may
  exact ⟨_, ran, s.beginTakeover_begins missed⟩

end Sys2Proof.Machine

/-! PROOFS. Settles the statements of the family "outer-product engines": how operations of the engines and of the vector
unit begin, issue and land, what a catch does, and what they leave unchanged. -/

namespace Sys2Proof.Machine

open Sys2Proof

/-! ### What a report leaves alone (R339 to R345) -/

namespace Kept
variable {m : Nat} {s t : State}

theorem regs (h : Kept m s t) (n : m.testBit 4 = false := by decide) : t.regs = s.regs := h.same .regs n
theorem spad (h : Kept m s t) (n : m.testBit 5 = false := by decide) : t.spad = s.spad := h.same .spad n
theorem hbm (h : Kept m s t) (n : m.testBit 6 = false := by decide) : t.hbm = s.hbm := h.same .hbm n
theorem liftedCores (h : Kept m s t) (n : m.testBit 7 = false := by decide) : t.liftedCores = s.liftedCores :=
  h.same .liftedCores n
theorem engines (h : Kept m s t) (n : m.testBit 9 = false := by decide) : t.engines = s.engines := h.same .engines n

theorem eng (h : Kept m s t) (i : Nat) (n : m.testBit 9 = false := by decide) : t.eng i = s.eng i := by
  unfold State.eng; rw [h.engines n]

theorem cvu (h : Kept m s t) (j : Nat) (n : m.testBit 10 = false := by decide) : t.cvu j = s.cvu j := by
  unfold State.cvu; rw [show t.cvus = s.cvus from h.same .cvus n]

theorem ae (h : Kept m s t) (j : Nat) (n : m.testBit 11 = false := by decide) : t.ae j = s.ae j := by
  unfold State.ae; rw [show t.aes = s.aes from h.same .aes n]

theorem ite {c : Prop} [Decidable c] {u : State} (h : Kept m s t) (k : Kept m s u) : Kept m s (if c then t else u) := by
  split <;> assumption

end Kept

/-- What recording an occurrence may change: registers, dies and the parts of reports, and so no engine, no vector unit, no
access engine and no memory (`State.record_kept`). -/
abbrev Reports (s t : State) : Prop := Kept 0x602b74010 s t

/-- What a static read may change besides: the scratchpad, the access engine and the record of lines written. -/
abbrev Reads (s t : State) : Prop := Kept 0x602b76830 s t

theorem Sub.refl (m : Nat) : Sub m m := ⟨Nat.and_self m⟩

section
variable (s : State)

theorem State.record_reports (o : Occ) (c w : Nat) : Reports s (s.record o c w) :=
  State.record_kept (.refl _ s) _ _ _ (Sub.refl _)

theorem State.violate_reports (p kind unit : Nat) (tag : HeatTag) (x detail : Nat) :
    Reports s (s.violate p kind unit tag x detail) := State.violate_kept (.refl _ s) _ _ _ _ _ _ (Sub.refl _)

theorem State.inject_reports (k kind idx : Nat) (addr : Nat) : Reports s (s.inject k kind idx addr).2 :=
  State.inject_kept (.refl _ s) _ _ _ _ ⟨by decide⟩

theorem State.readOperand_reads (p x unit : Nat) (pl : Place) (f : Fmt) (k n : Nat) :
    Reads s (s.readOperand p x unit pl f k n).2 := State.readOperand_kept (.refl _ s) _ _ _ _ _ _ _ (Sub.refl _)

end

/-! ### The registers of a core's engines (R35) -/

/-- From s to t no register of core p's engines has changed. -/
structure EngRegs (p : Nat) (s t : State) : Prop where
  rd : ∀ a, Blk.base .eng p ≤ a → a < Blk.base .eng p + 0x1000 → t.rd a = s.rd a

namespace EngRegs
variable {p : Nat} {s t u : State}

theorem refl (p : Nat) (s : State) : EngRegs p s s := ⟨fun _ _ _ => rfl⟩

theorem trans (h : EngRegs p s t) (k : EngRegs p t u) : EngRegs p s u :=
  ⟨fun a lo hi => (k.rd a lo hi).trans (h.rd a lo hi)⟩

theorem same (h : EngRegs p s t) (e : u.regs = t.regs) : EngRegs p s u := h.trans ⟨fun a _ _ => State.rd_congr e a⟩

theorem of_unitRegs (hp : p < 256) (h : UnitRegs s t) : EngRegs p s t := ⟨fun a lo hi =>
  h a (by simp only [Blk.base, coreBase] at lo; omega) (by simp only [Blk.base, coreBase] at hi; omega)⟩

theorem wr (h : EngRegs p s t) {a : Nat} (v : Word) (n : a < Blk.base .eng p ∨ Blk.base .eng p + 0x1000 ≤ a) :
    EngRegs p s (t.wr a v) := h.trans ⟨fun b lo hi => State.rd_wr_ne _ _ _ _ (by omega)⟩

theorem setF (h : EngRegs p s t) {a : Nat} (g : Nat × Nat) (v : Nat)
    (n : a < Blk.base .eng p ∨ Blk.base .eng p + 0x1000 ≤ a) : EngRegs p s (t.setF a g v) := h.wr _ n

theorem bump (h : EngRegs p s t) {a : Nat} (k : Nat) (n : a < Blk.base .eng p ∨ Blk.base .eng p + 0x1000 ≤ a) :
    EngRegs p s (t.bump a k) := h.trans ⟨fun b lo hi => State.rd_bump_ne _ _ _ _ (by omega)⟩

theorem ite {c : Prop} [Decidable c] (h : EngRegs p s t) (k : EngRegs p s u) : EngRegs p s (if c then t else u) := by
  split <;> assumption

theorem foldl {α : Type} {f : State → α → State} (l : List α) (k : ∀ u x, EngRegs p u (f u x)) (s : State) :
    EngRegs p s (l.foldl f s) := by
  induction l generalizing s with
  | nil => exact refl p s
  | cons x l ih => exact (k s x).trans (ih _)

end EngRegs

section
variable {p : Nat} (hp : p < 256) (s : State)
include hp

theorem State.violate_engRegs (kind unit : Nat) (tag : HeatTag) (x detail : Nat) :
    EngRegs p s (s.violate p kind unit tag x detail) := by
  have cox {a : Nat} (h : a < Blk.base .cox p + 0x800) : a < Blk.base .eng p ∨ Blk.base .eng p + 0x1000 ≤ a :=
    .inl (by simp only [Blk.base] at h ⊢; omega)
  have str : R.STR_EVENT (dieOf p) < Blk.base .eng p ∨ Blk.base .eng p + 0x1000 ≤ R.STR_EVENT (dieOf p) :=
    .inl (by simp only [R.STR_EVENT, Blk.base, dieBase, coreBase, dieOf]; omega)
  unfold State.violate
  split
  · exact .refl p s
  extract_lets tag cyc allowed ctl en stops first w u v₀ v₁ v₂ v₃ v o₀ o d die stopped y₀ y
  split
  · exact .refl p s
  have hu : EngRegs p s u := by
    unfold u
    exact .ite (EngRegs.bump (.refl p s) _ (cox (by simp [R.COX_RULING_COUNT, Blk.base]))) (.refl p s)
  have hv : EngRegs p s v := by
    unfold v
    refine .ite ?_ hu
    have h₂ : EngRegs p s v₂ := ((hu.wr _ (cox (by simp [R.COX_RULING_REC0, Blk.base]))).wr _
      (cox (by simp [R.COX_RULING_REC1, Blk.base]))).wr _ (cox (by simp [R.COX_RULING_REC2, Blk.base]))
    exact (h₂.setF _ _ (cox (by simp [R.COX_EVENT, Blk.base]))).setF _ _ (cox (by simp [R.COX_IRQ_STAT, Blk.base]))
  have hy : EngRegs p s y := by
    unfold y
    exact .ite ((hv.same rfl : EngRegs p s y₀).setF _ _ str) hv
  split
  · exact hy.trans (.of_unitRegs hp (.record (.refl _) _ _ _ (.inr (.inl ⟨rfl, hp⟩))))
  · exact hy

omit hp in
theorem State.inject_engRegs {k : Nat} (hk : k < 128) (kind idx addr : Nat) : EngRegs p s (s.inject k kind idx addr).2 := by
  have inj {a : Nat} (h : a < 0x30_0000) : a < Blk.base .eng p ∨ Blk.base .eng p + 0x1000 ≤ a :=
    .inl (by simp only [Blk.base, coreBase]; omega)
  have point : R.INJ_P_CTL k < 0x30_0000 := by simp only [R.INJ_P_CTL, Blk.base]; omega
  unfold State.inject
  extract_lets c t ad periodic due syn n u₀ u last v w₀ next w
  have hu : EngRegs p s u :=
    (EngRegs.setF (.refl p s) _ _ (inj point)).bump _ (inj (by simp [R.INJ_CNT_FIRED, Blk.base]))
  have hv : EngRegs p s v := .ite (hu.setF _ _ (inj point)) hu
  have hw : EngRegs p s w :=
    .ite ((hv.setF _ _ (inj point)).setF _ _ (inj (by simp [R.INJ_STAT, Blk.base]))) (hv.same rfl)
  split
  · exact .refl p s
  split
  · exact hw
  · exact .refl p s

theorem State.checkInject_engRegs (unit : Nat) (tag : HeatTag) (x : Nat) : EngRegs p s (s.checkInject p unit tag x) := by
  have fired : EngRegs p s (s.inject 0x28 kCore p).2 := s.inject_engRegs (by decide) _ _ _
  unfold State.checkInject
  split <;> rename_i e <;> rw [e] at fired
  · exact fired.trans (State.violate_engRegs hp ..)
  · exact fired

theorem State.noteRead_engRegs (off len unit x : Nat) : EngRegs p s (s.noteRead p off len unit x) := by
  unfold State.noteRead
  refine .ite (.refl p s) (.foldl _ (fun u e => .ite ?_ (.refl p u)) s)
  split
  · exact State.violate_engRegs hp ..
  · exact .refl p u

theorem State.noteWrite_engRegs (off len unit x : Nat) : EngRegs p s (s.noteWrite p off len unit x) := by
  unfold State.noteWrite
  extract_lets c marked tag cyc
  have hm : EngRegs p s marked := .same (.refl p s) rfl
  exact .ite hm (hm.trans (.foldl _ (fun u e => .ite (State.violate_engRegs hp ..) (.refl p u)) _))

theorem State.bankConflict_engRegs (unit : Nat) (tag : HeatTag) (x off : Nat) :
    EngRegs p s (s.bankConflict p unit tag x off) :=
  ((EngRegs.setF (.refl p s) _ _ (.inl (by simp [R.AE_EVENT, Blk.base]))).bump _
    (.inl (by simp [R.AE_CNT_BANK_CONFLICT, Blk.base]))).trans (State.violate_engRegs hp ..)

theorem State.spadInject_engRegs (off n : Nat) : EngRegs p s (s.spadInject p off n) := by
  have record (u : State) (d d0 d1 a : Nat) : EngRegs p u (u.record (u.injected (occ d kCore p d0 d1 a))) :=
    .of_unitRegs hp (.record (.refl _) _ _ _ (.inr (.inl ⟨rfl, hp⟩)))
  unfold State.spadInject
  extract_lets ka u
  have hu : EngRegs p s u := by
    have fired : EngRegs p s (s.inject 0x08 kCore p (s.covers 0x08 ka n)).2 := s.inject_engRegs (by decide) _ _ _
    unfold u
    split <;> rename_i e <;> rw [e] at fired
    · exact fired.trans (record ..)
    · exact fired
  have fired : EngRegs p s (u.inject 0x09 kCore p (u.covers 0x09 ka n)).2 :=
    hu.trans (u.inject_engRegs (by decide) _ _ _)
  split <;> rename_i e <;> rw [e] at fired
  · have cleared (v : State) (o : Nat) (bs : List Byte) : (v.setSpadBytes p o bs).regs = v.regs :=
      (State.setSpadBytes_kept (.refl 0x820 v) _ _ _ (Sub.refl _)).regs
    exact (fired.same (cleared ..)).trans (record ..)
  · exact fired

theorem State.landStatic_engRegs (w : StaticWrite) : EngRegs p s (s.landStatic p w) := by
  have byte (u : State) (o : Nat) (b : Byte) : (u.setSpadByte p o b).regs = u.regs :=
    (State.setSpadByte_kept (.refl 0x820 u) _ _ _ (Sub.refl _)).regs
  unfold State.landStatic
  extract_lets a used need lost u v z
  have hz : EngRegs p s z :=
    (EngRegs.same (.refl p s) rfl : EngRegs p s v).trans
      (.foldl _ (fun u b => .ite (.refl p u) (.same (.refl p u) (byte ..))) v)
  split
  · exact hz
  extract_lets y noted
  have hn : EngRegs p s noted :=
    ((hz.trans (z.noteWrite_engRegs hp ..)).trans (State.spadInject_engRegs hp ..)).same rfl
  exact .ite hn (hn.trans (State.bankConflict_engRegs hp ..))

theorem State.settle_engRegs (x : Nat) : EngRegs p s (s.settle p x) := by
  unfold State.settle
  extract_lets a due u
  exact .ite (.refl p s) ((EngRegs.same (.refl p s) rfl : EngRegs p s u).trans
    (.foldl _ (fun u w => u.landStatic_engRegs hp w) _))

theorem State.staticRead_engRegs (x unit : Nat) (addrs : List Nat) : EngRegs p s (s.staticRead p x unit addrs).2 := by
  unfold State.staticRead
  extract_lets settled tag a used need lost taken counted lo checked noted
  have hc : EngRegs p s checked :=
    ((s.settle_engRegs hp x).same rfl : EngRegs p s counted).trans (State.checkInject_engRegs hp ..)
  have hn : EngRegs p s noted := by
    unfold noted
    split
    · exact hc
    · exact hc.trans (State.noteRead_engRegs hp ..)
  exact .ite hn (hn.trans (State.bankConflict_engRegs hp ..))

omit hp in
theorem State.firstRead_engRegs (q r x : Nat) : EngRegs p s (s.firstRead p q r x) := by
  have ae {a : Nat} (h : a < Blk.base .ae p + 0x400) : a < Blk.base .eng p ∨ Blk.base .eng p + 0x1000 ≤ a :=
    .inl (by simp only [Blk.base] at h ⊢; omega)
  have bucket (n : Nat) : leadBucket n < 8 := by unfold leadBucket; split_ifs <;> decide
  unfold State.firstRead
  extract_lets t u v
  have hu : EngRegs p s u := EngRegs.bump (.refl p s) _ (ae (by simp [R.AE_PF_USED, Blk.base]))
  have hv : EngRegs p s v := hu.bump _ (ae (by simp [R.AE_PF_LATE, Blk.base]))
  refine .ite (hu.bump _ (ae ?_)) (.ite (hv.bump _ (ae (by simp [R.AE_CNT_ZP_LATE, Blk.base]))) hv)
  have := bucket (x - t.landAt.get (fun _ => 0) r)
  simp only [R.AE_PF_LEAD]; omega

theorem State.tqRead_engRegs (q : Nat) (f : Fmt) (n x unit : Nat) : EngRegs p s (s.tqRead p q f n x unit).2.2 := by
  unfold State.tqRead
  extract_lets t span total base pos slots u early v t' w
  have hu : EngRegs p s u := .ite (.foldl _ (fun u r => u.firstRead_engRegs ..) s) (.refl p s)
  have hv : EngRegs p s v := .ite (hu.trans (State.violate_engRegs hp ..)) hu
  exact .ite (hv.same rfl) (hv.same rfl)

theorem State.readOperand_engRegs (x unit : Nat) (pl : Place) (f : Fmt) (k n : Nat) :
    EngRegs p s (s.readOperand p x unit pl f k n).2 := by
  unfold State.readOperand
  split
  · extract_lets st sb r
    have hr : EngRegs p s r.2 := s.staticRead_engRegs hp ..
    split <;> exact hr
  · exact (s.tqRead_engRegs hp ..).trans (State.staticRead_engRegs hp ..)

end

/-! ### Static reads with nothing still to land (R104) -/

/-- No static write of core p is still to land before cycle x. -/
def NoneDue (s : State) (p x : Nat) : Prop := ∀ w ∈ (s.ae p).writes, x ≤ w.land

/-- From s to t the scratchpads, the writes to land and the lines confirmed zero of core p have not changed. -/
structure Undisturbed (p : Nat) (s t : State) : Prop where
  spad : t.spad = s.spad
  writes : (t.ae p).writes = (s.ae p).writes
  zconf : (t.ae p).zconf = (s.ae p).zconf

namespace Undisturbed
variable {p x : Nat} {s t u : State}

theorem refl (p : Nat) (s : State) : Undisturbed p s s := ⟨rfl, rfl, rfl⟩

theorem trans (h : Undisturbed p s t) (k : Undisturbed p t u) : Undisturbed p s u :=
  ⟨k.spad.trans h.spad, k.writes.trans h.writes, k.zconf.trans h.zconf⟩

theorem of_reports (h : Reports s t) : Undisturbed p s t :=
  ⟨h.spad, congrArg AccessEngine.writes (h.ae p), congrArg AccessEngine.zconf (h.ae p)⟩

theorem setAe (s : State) {a : AccessEngine} (w : a.writes = (s.ae p).writes) (z : a.zconf = (s.ae p).zconf) :
    Undisturbed p s (s.setAe p a) := ⟨rfl, by simpa using w, by simpa using z⟩

theorem noneDue (h : Undisturbed p s t) (n : NoneDue s p x) : NoneDue t p x := fun w m => n w (h.writes ▸ m)

end Undisturbed

theorem State.settle_noneDue {s : State} {p x : Nat} (h : NoneDue s p x) : s.settle p x = s := by
  have none : (s.ae p).writes.filter (fun w => decide (w.land < x)) = [] :=
    List.filter_eq_nil_iff.2 fun w m => by simpa using h w m
  unfold State.settle
  exact if_pos (by rw [none]; rfl)

/-- A static read takes banks of the state that the writes due have settled into, and reports. -/
theorem State.staticRead_reports (s : State) (p x unit : Nat) (addrs : List Nat) :
    ∃ banks, Reports ((s.settle p x).setAe p { (s.settle p x).ae p with rdAt := x, rdBanks := banks })
      (s.staticRead p x unit addrs).2 := by
  refine ⟨?banks, ?reports⟩
  case banks =>
    exact (if ((s.settle p x).ae p).rdAt = x then ((s.settle p x).ae p).rdBanks else 0) ||| banksOf addrs
  unfold State.staticRead
  extract_lets prior settled tag a used need lost taken counted lo checked noted
  have m : Sub 0x602b74010 0x602b74010 := Sub.refl _
  have hc : Reports taken checked :=
    State.checkInject_kept (State.energy_kept (.refl _ taken) _ _ _ (Sub.le m (by decide))) _ _ _ _ m
  have hn : Reports taken noted := by
    unfold noted
    split
    · exact hc
    · exact State.noteRead_kept hc _ _ _ _ _ m
  exact .ite hn (State.bankConflict_kept hn _ _ _ _ _ m)

theorem State.staticRead_undisturbed {s : State} {p x : Nat} (h : NoneDue s p x) (unit : Nat) (addrs : List Nat) :
    Undisturbed p s (s.staticRead p x unit addrs).2 := by
  obtain ⟨banks, r⟩ := s.staticRead_reports p x unit addrs
  rw [State.settle_noneDue h] at r
  exact (Undisturbed.setAe s (a := { s.ae p with rdAt := x, rdBanks := banks }) rfl rfl).trans (.of_reports r)

theorem State.setTq_undisturbed (s : State) (p q : Nat) (v : TileQueue) : Undisturbed p s (s.setTq p q v) :=
  .setAe s rfl rfl

theorem State.tqRead_undisturbed (s : State) (p q : Nat) (f : Fmt) (n x unit : Nat) :
    Undisturbed p s (s.tqRead p q f n x unit).2.2 := by
  unfold State.tqRead
  extract_lets t span total base pos slots u early v t' w
  have m : Sub 0x602b74010 0x602b74010 := Sub.refl _
  have hu : Reports s u :=
    .ite (Kept.foldl (.refl _ s) fun _ _ k => State.firstRead_kept k _ _ _ _ (Sub.le m (by decide))) (.refl _ s)
  have hv : Reports s v := .ite (State.violate_kept hu _ _ _ _ _ _ m) hu
  dsimp only [w]
  split <;> exact (Undisturbed.of_reports hv).trans (v.setTq_undisturbed ..)

theorem State.readOperand_undisturbed {s : State} {p x : Nat} (h : NoneDue s p x) (unit : Nat) (pl : Place) (f : Fmt)
    (k n : Nat) : Undisturbed p s (s.readOperand p x unit pl f k n).2 := by
  unfold State.readOperand
  split
  · extract_lets st sb r
    have hr : Undisturbed p s r.2 := State.staticRead_undisturbed h ..
    split <;> exact hr
  · rename_i q col
    have ht := s.tqRead_undisturbed p q f n x unit
    exact ht.trans (State.staticRead_undisturbed (ht.noneDue h) ..)

/-- A byte of the scratchpad reads the same where a static read has disturbed nothing. -/
theorem Undisturbed.spadByte {p : Nat} {s t : State} (h : Undisturbed p s t) (k : Reads s t) (o : Nat) :
    t.spadByte p o = s.spadByte p o := by
  unfold State.spadByte State.spadRest
  rw [h.zconf, h.spad, k.liftedCores]

/-! ### Engine and die frames -/

theorem State.clock_eq (s : State) (d x : Nat) : s.clock d x = { s with dies := (s.clock d x).dies } := by
  unfold State.clock
  extract_lets v
  split <;> rfl

theorem State.clockedTo_of_dies {s u : State} (h : u.dies = s.dies) (d x : Nat) : ClockedTo s (u.clock d x) d x := by
  have die (j : Nat) : u.die j = s.die j := by unfold State.die; rw [h]
  exact ⟨by rw [u.die_clock, die], fun j n => by rw [u.die_clock_ne _ _ _ n, die]⟩

/-- Naming a cycle of its die completes the frame of an operation that has set its engine and some registers. -/
theorem engineFrame_clock {s u : State} {p : Pos} {e : Eng} {g : Engine} {regs : List Nat} (x : Nat)
    (own : u.eng (engId p e) = g) (others : ∀ j, j ≠ engId p e → u.eng j = s.eng j)
    (rd : ∀ a, a ∉ regs → u.rd a = s.rd a) (rest : u = { s with regs := u.regs, engines := u.engines }) :
    EngineFrame s (u.clock (dieOf p) x) p e x g regs := by
  have dies : u.dies = s.dies := by rw [rest]
  refine ⟨by simpa using own, fun j h => by simpa using others j h, State.clockedTo_of_dies dies _ _,
    fun a h => by simpa using rd a h, ?_⟩
  rw [u.clock_eq, rest]

theorem engineFrame_setEng (s : State) (p : Pos) (e : Eng) (x : Nat) (g : Engine) :
    EngineFrame s ((s.setEng (engId p e) g).clock (dieOf p) x) p e x g [] :=
  engineFrame_clock x (State.eng_setEng_self ..) (fun _ h => State.eng_setEng_ne _ _ _ _ h) (fun _ _ => rfl) rfl

/-! ### Engine operations begin (R48 to R51, R61, R124) -/

section
variable {s : State} {p : Pos} {e : Eng} {x : Nat}

theorem exec_opOuter {o : OuterSlot} {col row : Place} (wf : o.wf = true) (hc : s.place p o.col = some col)
    (hr : s.place p o.row = some row) (free : (s.eng (engId p e)).outer = none) :
    exec (.opOuter p e x o) s =
      .next ((s.setEng (engId p e) { s.eng (engId p e) with outer := some (startOuter s p x o col row) }).clock (dieOf p) x) := by
  show execOpOuter p e x o s = _
  unfold execOpOuter
  rw [hc, hr]
  exact State.whenWf_true _ _ wf (by rw [free]; rfl)

theorem exec_opChain {o : ChainSlot} {col row : Place} (wf : o.wf = true) (hc : s.place p o.outer.col = some col)
    (hr : s.place p o.outer.row = some row) (free : (s.eng (engId p e)).outer = none)
    (chainFree : (s.eng (engId p e)).chain = none) :
    exec (.opChain p e x o) s = .next (s.doChain p e x o col row) := by
  show execOpChain p e x o s = _
  unfold execOpChain
  rw [hc, hr]
  exact State.whenWf_true _ _ wf (by rw [free, chainFree]; rfl)

theorem exec_opLoad {o : LoadSlot} {pl : Place} (wf : o.wf = true) (hs : s.place p o.src = some pl)
    (free : (s.eng (engId p e)).load = none) :
    exec (.opLoad p e x o) s = .next ((s.setEng (engId p e) { s.eng (engId p e) with
      load := some ⟨(s.eng (engId p e)).role o.shadow, o.ifmt, pl, x, 0, s.heatTag p x⟩ }).clock (dieOf p) x) := by
  show execOpLoad p e x o s = _
  unfold execOpLoad
  rw [hs]
  exact State.whenWf_true _ _ wf (by rw [free]; rfl)

theorem exec_opDrain {o : DrainSlot} {pl : Place} (wf : o.wf = true) (hd : s.place p o.dst = some pl)
    (sr : o.stochastic = true → s.f (R.ENG_COMPAT p) F.ENG_COMPAT_SR_DRAIN = 1)
    (free : (s.eng (engId p e)).drain = none) (rowFree : (s.eng (engId p e)).row = none) :
    exec (.opDrain p e x o) s = .next (s.doDrain p e x o pl) := by
  show execOpDrain p e x o s = _
  unfold execOpDrain
  rw [hd]
  refine State.whenWf_true _ _ ?_ (by rw [free, rowFree]; rfl)
  rcases st : o.stochastic with _ | _
  · simp [wf]
  · simp [wf, sr st]

end

/-- The drain an `op.drain` begins on a set, with the queue entry it fills and the heat it belongs to. -/
def State.drainStart (s : State) (p e x : Nat) (o : DrainSlot) (pl : Place) (ring : Nat) (tag : HeatTag) : DrainRun :=
  let set1 := (s.eng (engId p e)).role o.shadow
  { set1 := set1, ofmt := o.ofmt, stochastic := o.stochastic, clr := o.clr
    flag := if s.f (R.ENG_TILE_STAT p e) (satFld set1) = 1 then o.satf else none
    dst := pl, ring := ring, issue := x, row := 0, tag := tag }

/-- A drain begins once its entry of a tile queue is taken; a drain to a walk takes none. -/
theorem State.doDrain_eq (s : State) (p e x : Nat) (o : DrainSlot) (pl : Place) :
    ∃ u ring tag, Kept 0x602b74810 s u ∧ ((∃ w, pl = .walk w) → u = s) ∧ s.doDrain p e x o pl =
      (u.setEng (engId p e) { s.eng (engId p e) with drain := some (s.drainStart p e x o pl ring tag) }).clock (dieOf p) x := by
  rcases pl with w | ⟨q, walk⟩
  case walk => exact ⟨s, 0, s.heatTag p x, .refl _ s, fun _ => rfl, rfl⟩
  case tq =>
    have k : Kept 0x602b74810 s (s.tqFill p q o.ofmt x e).2 := State.tqFill_kept (.refl _ s) _ _ _ _ _ (Sub.refl _)
    refine ⟨(s.tqFill p q o.ofmt x e).2, (s.tqFill p q o.ofmt x e).1, (s.tqFill p q o.ofmt x e).2.heatTag p x, k,
      (by rintro ⟨w, h⟩; cases h), ?_⟩
    rw [show s.doDrain p e x o (.tq q walk) = ((s.tqFill p q o.ofmt x e).2.setEng (engId p e)
      { (s.tqFill p q o.ofmt x e).2.eng (engId p e) with drain := some (s.drainStart p e x o (.tq q walk)
        (s.tqFill p q o.ofmt x e).1 ((s.tqFill p q o.ofmt x e).2.heatTag p x)) }).clock (dieOf p) x from rfl, k.eng]

/-- Settles O5: each operation sets its own run in its engine; a drain also takes its entry of a tile queue. -/
theorem engineOperationBegins : Obligations.EngineOperationBegins := by
  unfold Obligations.EngineOperationBegins
  refine fun p e x s => ⟨fun o col row wf hc hr free => ?outer, fun o col row wf hc hr free chainFree => ?chain,
    fun o pl wf hs free => ?load, fun o pl wf hd sr free rowFree => ?drain⟩
  case outer =>
    exact ⟨_, _, exec_opOuter wf hc hr free, engineFrame_setEng .., rfl, rfl, rfl, rfl, rfl, rfl, rfl, rfl, rfl⟩
  case chain =>
    exact ⟨_, _, _, exec_opChain wf hc hr free chainFree, engineFrame_setEng .., rfl, rfl, rfl, rfl, rfl, rfl, rfl, rfl,
      rfl, rfl, rfl, rfl⟩
  case load => exact ⟨_, exec_opLoad wf hs free, engineFrame_setEng ..⟩
  case drain =>
    obtain ⟨u, ring, tag, kept, still, eq⟩ := s.doDrain_eq p e x o pl
    refine ⟨_, s.drainStart p e x o pl ring tag, (exec_opDrain wf hd sr free rowFree).trans (congrArg _ eq), by simp,
      fun j h => ?_, ?_, ?_, rfl, rfl, rfl, rfl, rfl, rfl, rfl, rfl, fun walk => ?_⟩
    · rw [State.eng_clock, State.eng_setEng_ne _ _ _ _ h, kept.eng]
    · simpa using kept.spad
    · simpa using kept.hbm
    · rw [still walk]
      exact engineFrame_setEng ..

/-! ### op.row begins (R50, R75) -/

theorem exec_opRow {s : State} {p : Pos} {e : Eng} {x : Nat} {o : RowSlot} (wf : o.wf = true)
    (suits : (s.eng (engId p e)).intMode ((s.eng (engId p e)).active1 ^^ o.shadow) = true → o.op = .add ∨ o.op = .clamp)
    (free : (s.eng (engId p e)).drain = none) (rowFree : (s.eng (engId p e)).row = none) :
    exec (.opRow p e x o) s = .next (s.doRow p e x o) := by
  show execOpRow p e x o s = _
  refine State.whenWf_true _ _ ?_ (by rw [free, rowFree]; rfl)
  rcases int : (s.eng (engId p e)).intMode ((s.eng (engId p e)).role o.shadow) with _ | _
  · simp [wf]
  · rcases suits int with h | h <;> simp [wf, h]

/-- The state once both operands of an `op.row` are read. -/
def State.rowArgsRead (s : State) (p x e : Nat) (o : RowSlot) : State := ((s.rowArg p x e o.v1).2.rowArg p x e o.v2).2

theorem State.rowArgsRead_reads (s : State) (p x e : Nat) (o : RowSlot) : Reads s (s.rowArgsRead p x e o) :=
  State.rowArg_kept (State.rowArg_kept (.refl _ s) _ _ _ _ (Sub.refl _)) _ _ _ _ (Sub.refl _)

theorem State.rowArgsRead_scalar {s : State} {p x e : Nat} {o : RowSlot} (h₁ : ∃ n b, o.v1 = .prm n b)
    (h₂ : o.v2 = .none ∨ ∃ n b, o.v2 = .prm n b) : s.rowArgsRead p x e o = s := by
  obtain ⟨n, b, h₁⟩ := h₁
  unfold State.rowArgsRead
  rcases h₂ with h₂ | ⟨k, c, h₂⟩ <;> rw [h₁, h₂] <;> rfl

/-- The row operation an `op.row` begins. -/
def State.rowStart (s : State) (p e x : Nat) (o : RowSlot) : RowRun :=
  ⟨(s.eng (engId p e)).role o.shadow, o.op, (s.rowArg p x e o.v1).1, ((s.rowArg p x e o.v1).2.rowArg p x e o.v2).1, x, 0,
    (s.rowArgsRead p x e o).heatTag p x⟩

theorem State.doRow_eq (s : State) (p e x : Nat) (o : RowSlot) : s.doRow p e x o =
    ((s.rowArgsRead p x e o).setEng (engId p e)
      { s.eng (engId p e) with row := some (s.rowStart p e x o) }).clock (dieOf p) x := by
  have same : (s.rowArgsRead p x e o).eng (engId p e) = s.eng (engId p e) := (s.rowArgsRead_reads p x e o).eng _
  unfold State.rowStart
  rw [← same]
  rfl

/-- Settles O7: the operands are read, which leaves the engines alone, and the run is set. -/
theorem rowOperationBegins : Obligations.RowOperationBegins := by
  unfold Obligations.RowOperationBegins
  intro p e x o s g wf suits free rowFree
  have reads := s.rowArgsRead_reads p x e o
  refine ⟨_, s.rowStart p e x o, (exec_opRow wf suits free rowFree).trans (congrArg _ (s.doRow_eq p e x o)), by simp [g],
    fun j h => ?_, ?_, rfl, rfl, rfl, rfl, fun n b h => ?_, fun n b h ⟨k, c, h₁⟩ => ?_, fun h₁ h₂ => ?_⟩
  · rw [State.eng_clock, State.eng_setEng_ne _ _ _ _ h, reads.eng]
  · simpa using reads.hbm
  · unfold State.rowStart; rw [h]; rfl
  · unfold State.rowStart; rw [h₁, h]; rfl
  · rw [State.rowArgsRead_scalar h₁ h₂]
    exact engineFrame_setEng ..

/-! ### Product cycles issue (R44, R46, R57, R59 to R61) -/

/-- From s to t operands of engine e of core p have been read in cycle x: the engine's row operand may have moved, no other
engine has changed, ENG_CTL stands, and with nothing still to land the scratchpads are undisturbed. -/
structure OperandsRead (p e x : Nat) (s t : State) : Prop where
  own : ∃ reg feed, t.eng (engId p e) = { s.eng (engId p e) with rowReg := reg, feed := feed }
  others : ∀ j, j ≠ engId p e → t.eng j = s.eng j
  ctl : t.rd (R.ENG_CTL p e) = s.rd (R.ENG_CTL p e)
  undisturbed : NoneDue s p x → Undisturbed p s t

theorem engCtl_mem {p e : Nat} (he : e < 3) :
    Blk.base .eng p ≤ R.ENG_CTL p e ∧ R.ENG_CTL p e < Blk.base .eng p + 0x1000 := by unfold R.ENG_CTL; omega

namespace OperandsRead
variable {p e x : Nat} {s t u : State}

theorem refl (p e x : Nat) (s : State) : OperandsRead p e x s s := ⟨⟨_, _, rfl⟩, fun _ _ => rfl, rfl, fun _ => .refl p s⟩

theorem trans (h : OperandsRead p e x s t) (k : OperandsRead p e x t u) : OperandsRead p e x s u := by
  obtain ⟨reg, feed, own⟩ := h.own
  obtain ⟨reg', feed', own'⟩ := k.own
  exact ⟨⟨reg', feed', by rw [own', own]⟩, fun j n => (k.others j n).trans (h.others j n), k.ctl.trans h.ctl,
    fun n => (h.undisturbed n).trans (k.undisturbed ((h.undisturbed n).noneDue n))⟩

theorem of_engines (h : t.engines = s.engines) (ctl : t.rd (R.ENG_CTL p e) = s.rd (R.ENG_CTL p e))
    (undisturbed : NoneDue s p x → Undisturbed p s t) : OperandsRead p e x s t := by
  have eng (j : Nat) : t.eng j = s.eng j := by unfold State.eng; rw [h]
  exact ⟨⟨_, _, eng _⟩, fun j _ => eng j, ctl, undisturbed⟩

theorem bump (h : OperandsRead p e x s t) {a : Nat} (n : Nat) (apart : R.ENG_CTL p e ≠ a) :
    OperandsRead p e x s (t.bump a n) :=
  h.trans (.of_engines (by simp) (State.rd_bump_ne _ _ _ _ apart) fun _ => ⟨by simp, by simp, by simp⟩)

theorem energy (h : OperandsRead p e x s t) (d k n : Nat) : OperandsRead p e x s (t.energy d k n) :=
  h.trans (.of_engines rfl rfl fun _ => ⟨rfl, rfl, rfl⟩)

/-- The row operand register and its feed take new values. -/
theorem setRowReg (h : OperandsRead p e x s t) (reg feed : List Nat) :
    OperandsRead p e x s (t.setEng (engId p e) { t.eng (engId p e) with rowReg := reg, feed := feed }) :=
  h.trans ⟨⟨reg, feed, State.eng_setEng_self ..⟩, fun _ n => State.eng_setEng_ne _ _ _ _ n, rfl, fun _ => ⟨rfl, rfl, rfl⟩⟩

end OperandsRead

section
variable {p e : Nat} (hp : p < 256) (he : e < 3) (s : State) (x : Nat)
include hp he

theorem State.readOperand_operands (unit : Nat) (pl : Place) (f : Fmt) (k n : Nat) :
    OperandsRead p e x s (s.readOperand p x unit pl f k n).2 :=
  .of_engines (s.readOperand_reads p x unit pl f k n).engines
    ((s.readOperand_engRegs hp x unit pl f k n).rd _ (engCtl_mem he).1 (engCtl_mem he).2)
    fun h => State.readOperand_undisturbed h ..

theorem State.violate_operands (kind unit : Nat) (tag : HeatTag) (detail : Nat) :
    OperandsRead p e x s (s.violate p kind unit tag x detail) :=
  .of_engines (s.violate_reports p kind unit tag x detail).engines
    ((s.violate_engRegs hp kind unit tag x detail).rd _ (engCtl_mem he).1 (engCtl_mem he).2)
    fun _ => .of_reports (s.violate_reports p kind unit tag x detail)

theorem State.slideRow_operands (r : OuterRun) (k n : Nat) : OperandsRead p e x s (s.slideRow p e x r k n).2 := by
  unfold State.slideRow
  extract_lets i tag a more b reg feed s₁ g
  have ha : OperandsRead p e x s a.2 := s.readOperand_operands hp he x ..
  have hb : OperandsRead p e x s b.2 := by
    unfold b
    split
    · exact ha.trans (State.readOperand_operands hp he ..)
    · exact ha
  split
  · exact hb.setRowReg reg feed
  split
  · exact (OperandsRead.refl p e x s).setRowReg _ _
  · exact ((OperandsRead.refl p e x s).setRowReg _ _).trans (State.violate_operands hp he ..)

end

/-- The set a product cycle issued in cycle x is tagged with: that active before a catch of the same cycle (R46). -/
def Engine.issueSet (g : Engine) (x : Nat) : Bool := if g.catchAt = some x then !g.active1 else g.active1

/-- An engine from which the next product cycle of r has issued in cycle x (R61, R124). -/
def Engine.issued (g : Engine) (x : Nat) (r : OuterRun) : Engine :=
  let last := decide (r.total ≤ r.k + 1)
  { g with
    outer := if last then none else some { r with k := r.k + 1 }
    chain := match g.chain with
      | some c => if last && c.drain.isNone then
          some { c with drain := some (g.issueSet x, x + (if decide (r.colFmt = .fp32) then 14 else 11)) } else some c
      | none => none }

/-- The next product cycle of r carries a term: at FP32 the first of a step's four does (R60). -/
def OuterRun.Carries (r : OuterRun) : Prop := r.colFmt = .fp32 → r.k % 4 = 0

/-- A product that the next product cycle of r issues on engine g in cycle x. -/
structure Prod.IssuedBy (pr : Prod) (g : Engine) (x : Nat) (r : OuterRun) : Prop where
  issue : pr.issue = x
  set1 : pr.set1 = g.issueSet x
  land : pr.land = if r.colFmt = .fp32 then x + 13 else x + 10
  init : pr.init = (r.init && r.k == 0)
  colFmt : pr.colFmt = r.colFmt
  rowFmt : pr.rowFmt = r.rowFmt

/-- The flight after the next product cycle of r: as before where that is gated or carries no term, else with its product. -/
def FlightAfter (g : Engine) (x : Nat) (r : OuterRun) (gating : Nat) (flight : List Prod) : Prop :=
  (flight = g.flight ∧ (r.en = true → r.Carries → gating = 1)) ∨
    (r.en = true ∧ r.Carries ∧ ∃ pr, flight = g.flight ++ [pr] ∧ pr.IssuedBy g x r)

/-- What a product cycle does to the engines, to ENG_CTL and to the scratchpads. -/
structure ProductCycle (p e x : Nat) (r : OuterRun) (s t : State) : Prop where
  own : ∃ reg feed flight, FlightAfter (s.eng (engId p e)) x r (s.f (R.ENG_CTL p e) F.ENG_CTL_ZGATE_EN) flight ∧
    t.eng (engId p e) = { s.eng (engId p e) with rowReg := reg, feed := feed, flight := flight }.issued x r
  others : ∀ j, j ≠ engId p e → t.eng j = s.eng j
  ctl : t.rd (R.ENG_CTL p e) = s.rd (R.ENG_CTL p e)
  spad : NoneDue s p x → t.spad = s.spad

/-- A product cycle issues once its operands are read and its product, if any, is in flight. -/
theorem OperandsRead.issued {p e x : Nat} {r : OuterRun} {s t u : State} (h : OperandsRead p e x s t) {flight : List Prod}
    (after : FlightAfter (s.eng (engId p e)) x r (s.f (R.ENG_CTL p e) F.ENG_CTL_ZGATE_EN) flight)
    (own : u.eng (engId p e) = { t.eng (engId p e) with flight := flight })
    (others : ∀ j, j ≠ engId p e → u.eng j = t.eng j) (regs : u.regs = t.regs) (spad : u.spad = t.spad) :
    ProductCycle p e x r s (u.setEng (engId p e) ((u.eng (engId p e)).issued x r)) := by
  obtain ⟨reg, feed, read⟩ := h.own
  exact ⟨⟨reg, feed, flight, after, by rw [State.eng_setEng_self, own, read]⟩,
    fun j n => (State.eng_setEng_ne _ _ _ _ n).trans ((others j n).trans (h.others j n)),
    (State.rd_congr regs _).trans h.ctl, fun n => spad.trans (h.undisturbed n).spad⟩

theorem State.doProduct_cycle {p e : Nat} (hp : p < 256) (he : e < 3) (s : State) (x : Nat) (r : OuterRun) :
    ProductCycle p e x r s (s.doProduct p e x r) := by
  unfold State.doProduct
  extract_lets i k four n c₁ c next last adv idle t a slid read b u zg gated g act pr launched
  have counted : OperandsRead p e x s c := by
    have h := (OperandsRead.refl p e x s).bump (a := R.ENG_CNT_PRODUCT p e) 1
      (by unfold R.ENG_CTL R.ENG_CNT_PRODUCT; omega)
    unfold c
    split
    · exact h.bump _ (by unfold R.ENG_CTL R.ENG_CNT_SLIDE; omega)
    · exact h
  have gate {v : State} (h : OperandsRead p e x s v) :
      OperandsRead p e x s ((v.bump (R.ENG_CNT_GATED p e) 1).energy (dieOf p) 4 1) :=
    (h.bump _ (by unfold R.ENG_CTL R.ENG_CNT_GATED; omega)).energy ..
  have stays {v : State} (h : OperandsRead p e x s v)
      (why : r.en = true → r.Carries → s.f (R.ENG_CTL p e) F.ENG_CTL_ZGATE_EN = 1) : ProductCycle p e x r s (adv v) := by
    obtain ⟨_, _, own⟩ := h.own
    exact h.issued (flight := (v.eng i).flight) (.inl ⟨by rw [show v.eng i = _ from own], why⟩) rfl (fun _ _ => rfl) rfl rfl
  split
  case isTrue bare =>
    have bare : r.colFmt = .fp32 ∧ r.k % 4 ≠ 0 := by simpa [four, k] using bare
    refine stays ?_ fun _ carries => absurd (carries bare.1) bare.2
    unfold idle
    split
    · exact counted.energy ..
    · exact gate counted
  case isFalse term =>
    have carries : r.Carries := fun fp32 => by simpa [four, k, fp32] using term
    have reads : OperandsRead p e x s u := by
      have ha : OperandsRead p e x s a.2 := counted.trans (c.readOperand_operands hp he ..)
      unfold u b
      split
      · exact ha.trans (State.slideRow_operands hp he ..)
      · exact ha.trans (State.readOperand_operands hp he ..)
    split
    case isTrue gates =>
      refine stays (gate reads) fun en _ => ?_
      have enabled : zg := by
        by_contra no
        simp [gated, en, no] at gates
      exact (State.f_congr reads.ctl _).symm.trans enabled
    case isFalse passes =>
      have en : r.en = true := by
        by_contra off
        simp [gated, off] at passes
      obtain ⟨reg, feed, own⟩ := reads.own
      have issued : pr.IssuedBy (s.eng (engId p e)) x r :=
        ⟨rfl, by simp [pr, act, g, i, own, Engine.issueSet],
          by simp only [pr, four, decide_eq_true_eq]; split <;> rfl, rfl, rfl, rfl⟩
      exact reads.issued (u := launched.energy (dieOf p) (productClass r.colFmt) 1) (flight := g.flight ++ [pr])
        (.inr ⟨en, carries, pr, by simp [g, i, own], issued⟩) (State.eng_setEng_self ..)
        (fun _ n => State.eng_setEng_ne _ _ _ _ n) rfl rfl

theorem exec_productCycle {s : State} {p : Pos} {e : Eng} {r : OuterRun} (h : (s.eng (engId p e)).outer = some r) (x : Nat) :
    exec (.productCycle p e x) s = .next ((s.doProduct p e x r).clock (dieOf p) x) := by
  show execProductCycle p e x s = _
  unfold execProductCycle
  rw [h]

/-- Settles O8: what a product cycle does to its engine, and the frame of `Kept`. -/
theorem productCycleIssues : Obligations.ProductCycleIssues := by
  unfold Obligations.ProductCycleIssues
  intro p e x s r g run
  obtain ⟨⟨reg, feed, flight, after, own⟩, others, ctl, spad⟩ := s.doProduct_cycle p.isLt e.isLt x r
  have hbm : (s.doProduct p e x r).hbm = s.hbm :=
    (State.doProduct_kept (m := 0x602b76a30) (.refl _ s) _ _ _ _ (Sub.refl _)).hbm
  refine ⟨_, exec_productCycle run x, ?_⟩
  simp only [State.eng_clock, State.clock_hbm, State.clock_spad, State.f_clock, own]
  refine ⟨by simp [Engine.issued], rfl, rfl, others, hbm, spad, fun idle => ?_, ?_, fun en carries gating => ?_⟩
  · rcases after with ⟨same, -⟩ | ⟨en, carries, -⟩
    · exact same
    · rcases idle with off | ⟨fp32, bare⟩
      · simp [off] at en
      · exact absurd (carries fp32) bare
  · rcases after with ⟨same, -⟩ | ⟨-, -, pr, sent, issued⟩
    · exact .inl same
    · exact .inr ⟨pr, sent, issued.issue, issued.set1, issued.land, issued.init, issued.colFmt, issued.rowFmt⟩
  · rcases after with ⟨-, gated⟩ | ⟨-, -, pr, sent, -⟩
    · have : 0 = 1 := ((State.f_congr ctl _).symm.trans gating).symm.trans (gated en carries)
      omega
    · simp [Engine.issued, sent, g]

/-! ### The catch (R46) -/

/-- The state an `op.catch` leaves. -/
def State.caught (s : State) (p e x : Nat) : State :=
  ((s.setEng (engId p e) { s.eng (engId p e) with active1 := !(s.eng (engId p e)).active1, catchAt := some x }).bump
    (R.ENG_CNT_CATCH p e) 1).clock (dieOf p) x

section
variable {s : State} {p : Pos} {e : Eng} {x : Nat}

theorem exec_opCatch (h : (s.eng (engId p e)).catchAt ≠ some x) : exec (.opCatch p e x) s = .next (s.caught p e x) :=
  State.when_true _ _ (by simpa using h)

theorem State.eng_caught : (s.caught p e x).eng (engId p e) =
    { s.eng (engId p e) with active1 := !(s.eng (engId p e)).active1, catchAt := some x } := by
  simp [State.caught]

theorem exec_opCatch_again :
    exec (.opCatch p e x) (s.caught p e x) = .refused (.notEnabled "an op.catch has issued in this cycle") :=
  State.when_false _ _ (by rw [State.eng_caught]; simp)

theorem State.caught_frame : EngineFrame s (s.caught p e x) p e x
    { s.eng (engId p e) with active1 := !(s.eng (engId p e)).active1, catchAt := some x } [R.ENG_CNT_CATCH p e] := by
  refine engineFrame_clock x (by simp) (fun j h => by simp [State.eng_setEng_ne _ _ _ _ h]) (fun a h => ?_) rfl
  rw [State.rd_bump_ne _ _ _ _ (by simpa using h), State.rd_setEng]

theorem State.caught_counts : (s.caught p e x).rd (R.ENG_CNT_CATCH p e) = s.rd (R.ENG_CNT_CATCH p e) + 1 := by
  unfold State.caught
  rw [State.rd_clock, State.rd_bump_self]; rfl

theorem State.ctl_caught : (s.caught p e x).rd (R.ENG_CTL p e) = s.rd (R.ENG_CTL p e) := by
  unfold State.caught
  rw [State.rd_clock, State.rd_bump_ne _ _ _ _ (by unfold R.ENG_CTL R.ENG_CNT_CATCH; omega)]; rfl

/-- A product cycle that carries a term and is not gated joins the flight, tagged with the set that issues. -/
theorem exec_productCycle_sends {r : OuterRun} (run : (s.eng (engId p e)).outer = some r) (en : r.en = true)
    (carries : r.Carries) (open_ : s.f (R.ENG_CTL p e) F.ENG_CTL_ZGATE_EN = 0) (x : Nat) :
    ∃ t pr, exec (.productCycle p e x) s = .next t ∧ (t.eng (engId p e)).flight = (s.eng (engId p e)).flight ++ [pr] ∧
      pr.set1 = (s.eng (engId p e)).issueSet x := by
  obtain ⟨⟨reg, feed, flight, after, own⟩, -⟩ := s.doProduct_cycle p.isLt e.isLt x r
  rcases after with ⟨-, gated⟩ | ⟨-, -, pr, sent, issued⟩
  · rw [open_] at gated
    exact absurd (gated en carries) (by decide)
  · exact ⟨_, pr, exec_productCycle run x, by rw [State.eng_clock, own]; exact sent, issued.set1⟩

end

/-- Settles O6: a catch sets the active set and its cycle, and a product cycle is tagged by these. -/
theorem catchSwapsTheSets : Obligations.CatchSwapsTheSets := by
  unfold Obligations.CatchSwapsTheSets
  intro p e x s fresh g tagged
  have tags {u : State} {y : Nat} {b : Bool} (flight : (u.eng (engId p e)).flight = g.flight)
      (outer : (u.eng (engId p e)).outer = g.outer) (ctl : u.rd (R.ENG_CTL p e) = s.rd (R.ENG_CTL p e))
      (set1 : (u.eng (engId p e)).issueSet y = b) : tagged u y b := fun r run en carries open_ => by
    obtain ⟨v, pr, ran, sent, set1'⟩ :=
      exec_productCycle_sends (outer.trans run) en carries ((State.f_congr ctl _).trans open_) y
    exact ⟨v, pr, ran, flight ▸ sent, set1'.trans set1⟩
  have once : (s.caught p e x).eng (engId p e) = _ := State.eng_caught
  refine ⟨_, exec_opCatch fresh, State.caught_frame, State.caught_counts, ⟨_, exec_opCatch_again⟩, ?_, fun y later => ?_,
    fun y other => ?_⟩
  · exact tags (by rw [once]) (by rw [once]) State.ctl_caught (by rw [once]; simp [Engine.issueSet, g])
  · exact tags (by rw [once]) (by rw [once]) State.ctl_caught (by rw [once]; simp [Engine.issueSet, g, Nat.ne_of_lt later])
  · have twice : ((s.caught p e x).caught p e y).eng (engId p e) = { g with catchAt := some y } := by
      rw [State.eng_caught, once]; simp [g]
    have ctl := (State.ctl_caught (s := s.caught p e x) (x := y)).trans State.ctl_caught
    refine ⟨_, exec_opCatch (by rw [once]; simpa using other.symm), twice, ?_, fun z later => ?_⟩
    · exact tags (by rw [twice]) (by rw [twice]) ctl (by rw [twice]; simp [Engine.issueSet])
    · exact tags (by rw [twice]) (by rw [twice]) ctl (by rw [twice]; simp [Engine.issueSet, Nat.ne_of_lt later])

/-! ### Cells of the two sets -/

theorem NMap.length_dense {α : Type} (d : Nat → α) (m : NMap α) (b n : Nat) : (NMap.dense d m b n).length = n := by
  unfold NMap.dense
  generalize (m.filter fun x => decide (b ≤ x.1) && decide (x.1 < b + n)) = l
  induction n generalizing b l with
  | zero => simp [NMap.dense.go]
  | succ n ih =>
    rcases l with _ | ⟨⟨j, v⟩, r⟩
    · simp [NMap.dense.go, ih]
    · unfold NMap.dense.go
      split <;> simp [ih]

namespace Engine
variable (g : Engine)

theorem length_setCells (set1 : Bool) : (g.setCells set1).length = 4096 := NMap.length_dense ..

theorem intMode_setInt (set1 b : Bool) : (g.setInt set1 b).intMode set1 = b := by cases set1 <;> rfl

theorem intMode_setInt_other (set1 b : Bool) : (g.setInt set1 b).intMode (!set1) = g.intMode (!set1) := by
  cases set1 <;> rfl

theorem setCells_of_acc {g h : Engine} {set1 : Bool} {cs : List Word} (acc : h.acc = (g.setSet set1 cs).acc)
    (len : cs.length = 4096) : h.setCells set1 = cs := by
  unfold setCells
  rw [acc]
  exact NMap.dense_setRange _ _ _ _ _ len

theorem setCells_of_acc_other {g h : Engine} {set1 : Bool} {cs : List Word} (acc : h.acc = (g.setSet set1 cs).acc)
    (len : cs.length = 4096) : h.setCells (!set1) = g.setCells (!set1) := by
  unfold setCells
  rw [acc]
  refine NMap.dense_setRange_ne _ _ _ _ _ _ ?_
  cases set1 <;> simp [setBase, len]

end Engine

/-! ### Row writes that have landed (R49, R50, R52) -/

/-- From s to t row writes of engine i have landed: its cells, its unread rows and its writes to come may differ, and no other
engine does. -/
structure RowsLanded (i : Nat) (s t : State) : Prop where
  own : ∃ acc fresh writes, t.eng i = { s.eng i with acc := acc, fresh := fresh, writes := writes }
  others : ∀ j, j ≠ i → t.eng j = s.eng j

namespace RowsLanded
variable {i : Nat} {s t u : State}

theorem of_reports (h : Reports s t) : RowsLanded i s t := ⟨⟨_, _, _, h.eng i⟩, fun j _ => h.eng j⟩

theorem refl (i : Nat) (s : State) : RowsLanded i s s := .of_reports (.refl _ s)

theorem trans (h : RowsLanded i s t) (k : RowsLanded i t u) : RowsLanded i s u := by
  obtain ⟨acc, fresh, writes, own⟩ := h.own
  obtain ⟨acc', fresh', writes', own'⟩ := k.own
  exact ⟨⟨acc', fresh', writes', by rw [own', own]⟩, fun j n => (k.others j n).trans (h.others j n)⟩

theorem setEng (s : State) (acc : NMap Word) (fresh : Nat) (writes : List RowWrite) :
    RowsLanded i s (s.setEng i { s.eng i with acc := acc, fresh := fresh, writes := writes }) :=
  ⟨⟨_, _, _, State.eng_setEng_self ..⟩, fun _ n => State.eng_setEng_ne _ _ _ _ n⟩

theorem foldl {α : Type} {f : State → α → State} (l : List α) (k : ∀ u x, RowsLanded i u (f u x)) (s : State) :
    RowsLanded i s (l.foldl f s) := by
  induction l generalizing s with
  | nil => exact refl i s
  | cons x l ih => exact (k s x).trans (ih _)

end RowsLanded

theorem State.saturate_reports (s : State) (p e : Nat) (set1 inj : Bool) : Reports s (s.saturate p e set1 inj) :=
  State.saturate_kept (.refl _ s) _ _ _ _ (Sub.refl _)

theorem Reports.bump {s t : State} (h : Reports s t) (a n : Nat) : Reports s (t.bump a n) :=
  State.bump_kept h _ _ ⟨by decide⟩

/-- The writes of rows still to come and the unread rows once one row write has landed. -/
theorem State.landRow_landed (s : State) (p e : Nat) (w : RowWrite) : RowsLanded (engId p e) s (s.landRow p e w) := by
  unfold State.landRow
  extract_lets i g stale g₁ g₂ u v
  have hu : RowsLanded i s u := by
    unfold u g₂
    split
    · exact .setEng s ..
    · exact .setEng s ..
  have hv : RowsLanded i s v := by
    unfold v
    split
    · exact hu.trans (.of_reports (u.violate_reports ..))
    · exact hu
  split
  · exact hv.trans (.of_reports ((v.saturate_reports ..).bump ..))
  · exact hv

theorem State.settleRows_landed (s : State) (p e x : Nat) : RowsLanded (engId p e) s (s.settleRows p e x) := by
  unfold State.settleRows
  extract_lets i g due u
  split
  · exact .refl i s
  · exact (RowsLanded.setEng s _ _ _ : RowsLanded i s u).trans (.foldl _ (fun v w => v.landRow_landed p e w) u)

theorem State.settleRows_none {s : State} {p e x : Nat} (h : ∀ w ∈ (s.eng (engId p e)).writes, x ≤ w.land) :
    s.settleRows p e x = s := by
  have none : (s.eng (engId p e)).writes.filter (fun w => decide (w.land < x)) = [] :=
    List.filter_eq_nil_iff.2 fun w m => by simpa using h w m
  unfold State.settleRows
  exact if_pos (by rw [none]; rfl)

/-! ### Product cycles land (R44, R52, R62) -/

/-- The cells a product makes of those of its set, and which saturate; `sr` draws random bits for each (R85). -/
def Engine.product (g : Engine) (i : Nat) (pr : Prod) (sr : Bool) : List (Word × Bool) :=
  (g.setCells pr.set1).mapIdx fun k w => pr.land1 w (k / 64) (k % 64) (if sr then some (g.random i k) else none)

/-- An engine in which a product has landed. -/
def Engine.landed (g : Engine) (i : Nat) (pr : Prod) (sr : Bool) : Engine :=
  let h := ({ g with flight := g.flight.erase pr } : Engine).setSet pr.set1 ((g.product i pr sr).map (·.1))
  let h := if pr.init then h.setInt pr.set1 pr.isInt else h
  { h with
    fresh := h.fresh ||| freshSet pr.set1
    draws := h.draws + (if sr then 4096 else 0)
    writes := h.writes.map fun w => if w.set1 = pr.set1 then { w with hit := true } else w }

section
variable (g : Engine) (i : Nat) (pr : Prod) (sr : Bool)

theorem Engine.landed_flight : (g.landed i pr sr).flight = g.flight.erase pr := by
  unfold Engine.landed Engine.setInt; split_ifs <;> rfl

theorem Engine.landed_acc :
    (g.landed i pr sr).acc = (g.setSet pr.set1 ((g.product i pr sr).map (·.1))).acc := by
  unfold Engine.landed Engine.setInt; split_ifs <;> rfl

theorem Engine.landed_intMode :
    (g.landed i pr sr).intMode pr.set1 = if pr.init then pr.isInt else g.intMode pr.set1 := by
  unfold Engine.landed
  split
  · exact Engine.intMode_setInt _ _ _
  · rfl

end

/-- Random draws are made for a product under SR_ACC, but not on the exact path (R74, R85). -/
def State.srLand (s : State) (p : Nat) (pr : Prod) : Bool := s.f (R.ENG_COMPAT p) F.ENG_COMPAT_SR_ACC = 1 && !pr.isInt

/-- The state in which a product has landed and nothing is reported yet. -/
def State.productLanded (s : State) (p e x : Nat) (pr : Prod) : State :=
  let u := s.settleRows p e (x + 1)
  u.setEng (engId p e) ((u.eng (engId p e)).landed (engId p e) pr (u.srLand p pr))

theorem State.doLand_landed (s : State) (p e x : Nat) (pr : Prod) :
    RowsLanded (engId p e) (s.productLanded p e x pr) (s.doLand p e x pr) := by
  unfold State.doLand
  extract_lets i u g g₁ sr old new g₂ g₃ g₄ g₅ v w y z
  have hw : Reports v w := by
    unfold w
    split
    · exact (v.saturate_reports ..).bump ..
    · exact .refl _ v
  have hy : Reports v y := by
    have fired := hw.trans (w.inject_reports 0x2B kEngine i 0)
    unfold y
    split <;> rename_i q <;> rw [q] at fired
    · exact fired.trans (State.saturate_reports ..)
    · exact fired
  have hz : Reports v z := by
    have fired := hy.trans (y.inject_reports 0x0C kEngine i 0)
    unfold z
    split <;> rename_i q <;> rw [q] at fired
    · exact fired.trans (State.record_reports ..)
    · exact fired
  have fired := hz.trans (z.inject_reports 0x0D kEngine i 0)
  refine RowsLanded.trans (t := v) (.refl i v) ?_
  split <;> rename_i q <;> rw [q] at fired
  · exact ((RowsLanded.of_reports fired).trans (.setEng _ _ _ _)).trans (.of_reports (State.record_reports ..))
  · exact .of_reports fired

/-- Where no row write is due, no point is armed and nothing saturates, the product lands and nothing else happens. -/
theorem State.doLand_quiet {s : State} {p e x : Nat} {pr : Prod} (rows : ∀ w ∈ (s.eng (engId p e)).writes, x < w.land)
    (un₁ : Unarmed s 0x2B) (un₂ : Unarmed s 0x0C) (un₃ : Unarmed s 0x0D)
    (sat : ((s.eng (engId p e)).product (engId p e) pr (s.srLand p pr)).any (·.2) = false) :
    s.doLand p e x pr =
      s.setEng (engId p e) ((s.eng (engId p e)).landed (engId p e) pr (s.srLand p pr)) := by
  unfold State.doLand
  rw [State.settleRows_none rows]
  have unarmed {k : Nat} (un : Unarmed s k) (a : Engine) :
      (s.setEng (engId p e) a).inject k kEngine (engId p e) = (none, s.setEng (engId p e) a) :=
    State.inject_unarmed (s := s.setEng (engId p e) a) un _ _
  extract_lets i u g g₁ sr old new g₂ g₃ g₄ g₅ v w y z
  have hw : w = v := if_neg (by rw [show new.any (·.2) = false from sat]; decide)
  have hy : y = v := by
    unfold y
    rw [hw, show v.inject 0x2B kEngine i = _ from unarmed un₁ _]
  have hz : z = v := by
    unfold z
    rw [hy, show v.inject 0x0C kEngine i = _ from unarmed un₂ _]
  rw [hz, show v.inject 0x0D kEngine i = _ from unarmed un₃ _]
  rfl

theorem exec_productCycleLand {s : State} {p : Pos} {e : Eng} {x : Nat} {pr : Prod}
    (h : ((s.eng (engId p e)).flight.find? fun q => q.land == x) = some pr) :
    exec (.productCycleLand p e x) s = .next ((s.doLand p e x pr).clock (dieOf p) x) := by
  show execProductCycleLand p e x s = _
  unfold execProductCycleLand
  rw [h]

/-- Settles O9: the product lands in the cells of its set, after the row writes due, and what is reported keeps the rest. -/
theorem productCycleLands : Obligations.ProductCycleLands := by
  unfold Obligations.ProductCycleLands
  intro p e x s pr g lands
  have settled := s.settleRows_landed p e (x + 1)
  have landed := s.doLand_landed p e x pr
  have kept : Kept 0x602b74210 s (s.doLand p e x pr) := State.doLand_kept (.refl _ s) _ _ _ _ (Sub.refl _)
  refine ⟨_, exec_productCycleLand lands, ?_, fun j n => ?_, by simpa using kept.spad, by simpa using kept.hbm,
    fun rows un₁ un₂ un₃ sr => ?_⟩
  · obtain ⟨_, _, _, before⟩ := settled.own
    obtain ⟨_, _, _, after⟩ := landed.own
    rw [State.eng_clock, after]
    simp [State.productLanded, Engine.landed_flight, before, g]
  · rw [State.eng_clock, landed.others j n, State.productLanded, State.eng_setEng_ne _ _ _ _ n, settled.others j n]
  · extract_lets new
    intro sat
    have off : s.srLand p pr = false := by simp [State.srLand, sr]
    have new_eq : g.product (engId p e) pr (s.srLand p pr) = new := by rw [off]; rfl
    have len : (new.map (·.1)).length = 4096 := by simp [new, Engine.length_setCells]
    have acc := g.landed_acc (engId p e) pr (s.srLand p pr)
    have mode := g.landed_intMode (engId p e) pr (s.srLand p pr)
    rw [new_eq] at acc
    rw [State.doLand_quiet rows un₁ un₂ un₃ (by rw [new_eq]; exact sat)]
    simp only [State.eng_clock, State.eng_setEng_self]
    exact ⟨Engine.setCells_of_acc acc len, Engine.setCells_of_acc_other acc len, mode, engineFrame_setEng ..⟩

/-! ### Rows are read (R48, R50, R52) -/

/-- An engine one of whose rows has been read: the row is no longer unread. -/
def Engine.rowRead (g : Engine) (set1 : Bool) (r : Nat) : Engine :=
  { g with fresh := g.fresh - (g.fresh &&& freshBit set1 r) }

section
variable (s : State) (p e x : Nat) (set1 : Bool) (r last : Nat) (from_ : Option Nat) (tag : HeatTag)

theorem State.readRow_reports :
    Reports ((s.settleRows p e x).setEng (engId p e) (((s.settleRows p e x).eng (engId p e)).rowRead set1 r))
      (s.readRow p e x set1 r last from_ tag).2 := by
  unfold State.readRow
  exact .ite (State.violate_reports ..) (.refl _ _)

theorem State.readRow_landed : RowsLanded (engId p e) s (s.readRow p e x set1 r last from_ tag).2 :=
  (s.settleRows_landed p e x).trans
    ((RowsLanded.setEng _ _ _ _).trans (.of_reports (s.readRow_reports p e x set1 r last from_ tag)))

theorem State.readRow_keeps : Kept 0x602b74210 s (s.readRow p e x set1 r last from_ tag).2 :=
  State.readRow_kept (.refl _ s) _ _ _ _ _ _ _ _ (Sub.refl _)

variable {s p e x}

/-- A row is read as it stands where no row write is due. -/
theorem State.readRow_cells (rows : ∀ w ∈ (s.eng (engId p e)).writes, x ≤ w.land) :
    (s.readRow p e x set1 r last from_ tag).1 = (s.eng (engId p e)).rowCells set1 r := by
  unfold State.readRow
  rw [State.settleRows_none rows]

theorem State.eng_readRow (rows : ∀ w ∈ (s.eng (engId p e)).writes, x ≤ w.land) :
    (s.readRow p e x set1 r last from_ tag).2.eng (engId p e) = (s.eng (engId p e)).rowRead set1 r := by
  rw [(s.readRow_reports p e x set1 r last from_ tag).eng, State.eng_setEng_self, State.settleRows_none rows]

theorem State.readRow_quiet (rows : ∀ w ∈ (s.eng (engId p e)).writes, x ≤ w.land)
    (hit : (s.eng (engId p e)).misses set1 x last from_ = false) :
    (s.readRow p e x set1 r last from_ tag).2 = s.setEng (engId p e) ((s.eng (engId p e)).rowRead set1 r) := by
  unfold State.readRow
  rw [State.settleRows_none rows]
  exact if_neg (by rw [hit]; decide)

end

/-! ### A drain reads its rows (R48, R54, R77) -/

/-- An engine whose drain d has read its next row. -/
def Engine.rowDrained (g : Engine) (d : DrainRun) : Engine :=
  let h := if d.clr then g.setRow d.set1 d.row (List.replicate 64 0) else g
  let h := { h with draws := h.draws + (if d.stochastic then 64 else 0) }
  if decide (63 ≤ d.row) then { h with drain := none, done := h.done ++ [(d.issue + 66, d.flag)] }
  else { h with drain := some { d with row := d.row + 1 } }

section
variable (g : Engine) (d : DrainRun)

theorem Engine.rowDrained_drain :
    (g.rowDrained d).drain = if 63 ≤ d.row then none else some { d with row := d.row + 1 } := by
  unfold Engine.rowDrained; simp only [decide_eq_true_eq]; split <;> rfl

theorem Engine.rowDrained_done :
    (g.rowDrained d).done = if 63 ≤ d.row then g.done ++ [(d.issue + 66, d.flag)] else g.done := by
  unfold Engine.rowDrained Engine.setRow; simp only [decide_eq_true_eq]; split_ifs <;> rfl

theorem Engine.rowDrained_acc :
    (g.rowDrained d).acc = if d.clr then (g.setRow d.set1 d.row (List.replicate 64 0)).acc else g.acc := by
  unfold Engine.rowDrained; split_ifs <;> rfl

theorem Engine.rowDrained_rest : (g.rowDrained d).active1 = g.active1 ∧ (g.rowDrained d).flight = g.flight ∧
    (g.rowDrained d).writes = g.writes := by
  unfold Engine.rowDrained Engine.setRow; split_ifs <;> exact ⟨rfl, rfl, rfl⟩

end

/-- What the next row of a drain reads. -/
def State.drainRowRead (s : State) (p e x : Nat) (d : DrainRun) : List Word × State :=
  s.readRow p e x d.set1 d.row (d.issue + 63) (if d.clr then some d.issue else none) d.tag

/-- Is the next row of a drain inside its destination? -/
def DrainRun.keeps (d : DrainRun) : Bool :=
  match d.dst with
  | .walk w => decide (d.row < w.count)
  | .tq _ _ => true

/-- The bytes of a drain's next row, with those of its scales (R68, R105). -/
def State.drainRowBytes (u : State) (p e : Nat) (d : DrainRun) (cells : List Word) : List (Nat × Byte) :=
  let g := u.eng (engId p e)
  let bits := drainRowBits d.ofmt (g.intMode d.set1) (g.drainRnd d.stochastic (engId p e)) cells
  let dst : Nat × Option Nat := match d.dst with
    | .walk w => (w.runBase 0, some w.sb)
    | .tq q _ => ((u.tq p q).slotBase d.ring, none)
  rowBytes d.ofmt dst.1 0 d.row bits.1 ++ match dst.2 with
    | some a => bits.2.mapIdx fun h v => (a + 2 * d.row + h, BitVec.ofNat 8 v)
    | none => []

/-- The state once a drain's next row is read and is to be written. -/
def State.drainRowWritten (s : State) (p e x : Nat) (d : DrainRun) : State :=
  let rd := s.drainRowRead p e x d
  if d.keeps then rd.2.staticWrite p ⟨x + 3, e, rd.2.drainRowBytes p e d rd.1, e, d.tag⟩ else rd.2

section
variable (s : State) (p e x : Nat) (d : DrainRun)

theorem State.drainRowWritten_engines : (s.drainRowWritten p e x d).engines = (s.drainRowRead p e x d).2.engines := by
  unfold State.drainRowWritten; dsimp only; split <;> rfl

theorem State.drainRowWritten_regs : (s.drainRowWritten p e x d).regs = (s.drainRowRead p e x d).2.regs := by
  unfold State.drainRowWritten; dsimp only; split <;> rfl

theorem State.eng_drainRowWritten (j : Nat) : (s.drainRowWritten p e x d).eng j = (s.drainRowRead p e x d).2.eng j := by
  unfold State.eng; rw [State.drainRowWritten_engines]

/-- The state of a drain's row once the engine has moved on and the row is counted. -/
def State.drainRowCounted (s : State) (p e x : Nat) (d : DrainRun) : State :=
  let u := s.drainRowWritten p e x d
  ((u.setEng (engId p e) ((u.eng (engId p e)).rowDrained d)).bump (R.ENG_CNT_DRAIN_ROWS p e) 1).energy (dieOf p) 5 1

/-- A drain's row is read, written and counted; the last of a drain that clears ends the set's saturation (R55). -/
theorem State.doDrainRow_eq : s.doDrainRow p e x d =
    (if decide (63 ≤ d.row) && d.clr then (s.drainRowCounted p e x d).setF (R.ENG_TILE_STAT p e) (satFld d.set1) 0
      else s.drainRowCounted p e x d).clock (dieOf p) x := by
  unfold State.doDrainRow State.drainRowCounted Engine.rowDrained
  rfl

theorem State.eng_doDrainRow (j : Nat) : (s.doDrainRow p e x d).eng j =
    if j = engId p e then ((s.drainRowRead p e x d).2.eng (engId p e)).rowDrained d else (s.drainRowRead p e x d).2.eng j := by
  have counted : (s.doDrainRow p e x d).eng j = (s.drainRowCounted p e x d).eng j := by
    rw [State.doDrainRow_eq, State.eng_clock]
    split
    · exact State.eng_setF ..
    · rfl
  rw [counted, State.drainRowCounted, State.eng_energy, State.eng_bump, State.eng_setEng, State.eng_drainRowWritten,
    State.eng_drainRowWritten]

theorem State.ae_doDrainRow (j : Nat) : (s.doDrainRow p e x d).ae j = (s.drainRowWritten p e x d).ae j := by
  have counted : (s.doDrainRow p e x d).ae j = (s.drainRowCounted p e x d).ae j := by
    rw [State.doDrainRow_eq, State.ae_clock]
    split
    · exact State.ae_setF ..
    · rfl
  rw [counted, State.drainRowCounted, State.ae_energy, State.ae_bump, State.ae_setEng]

/-- Of the registers but the engine's status, a drain's row changes its row counter and what its reading changes. -/
theorem State.rd_doDrainRow {a : Nat} (stat : a ≠ R.ENG_TILE_STAT p e) : (s.doDrainRow p e x d).rd a =
    if a = R.ENG_CNT_DRAIN_ROWS p e then (s.drainRowRead p e x d).2.rd a + 1 else (s.drainRowRead p e x d).2.rd a := by
  have counted : (s.doDrainRow p e x d).rd a = (s.drainRowCounted p e x d).rd a := by
    rw [State.doDrainRow_eq, State.rd_clock]
    split
    · exact State.rd_setF_ne _ _ _ _ _ stat
    · rfl
  rw [counted, State.drainRowCounted, State.rd_energy]
  split
  case isTrue h =>
    rw [h, State.rd_bump_self, State.rd_setEng, State.rd_congr (s.drainRowWritten_regs p e x d)]
    rfl
  case isFalse h => rw [State.rd_bump_ne _ _ _ _ h, State.rd_setEng, State.rd_congr (s.drainRowWritten_regs p e x d)]

end

theorem drainRowBits_scales {f : Fmt} (plain : f.isMx = false) (int : Bool) (rnd : Nat → Rnd) (cs : List Word) :
    (drainRowBits f int rnd cs).2 = [] := by
  unfold drainRowBits
  split
  · rfl
  · rfl
  · exact congrArg Prod.snd (if_neg (by rw [plain]; decide))

/-- The row of a drain to a walk is laid out as its format has it; a format without side-band has no scales. -/
theorem State.drainRowBytes_walk (u : State) (p e : Nat) {d : DrainRun} {w : Walk} (dst : d.dst = .walk w)
    (plain : d.ofmt.isMx = false) (cells : List Word) : u.drainRowBytes p e d cells =
      rowBytes d.ofmt (w.runBase 0) 0 d.row (drainRowBits d.ofmt ((u.eng (engId p e)).intMode d.set1)
        ((u.eng (engId p e)).drainRnd d.stochastic (engId p e)) cells).1 := by
  unfold State.drainRowBytes
  rw [dst]
  simp [drainRowBits_scales plain]

section
variable {s : State} {p e x : Nat} {d : DrainRun}

theorem State.eng_drainRowRead (rows : ∀ w ∈ (s.eng (engId p e)).writes, x ≤ w.land) :
    (s.drainRowRead p e x d).2.eng (engId p e) = (s.eng (engId p e)).rowRead d.set1 d.row :=
  State.eng_readRow _ _ _ _ _ rows

/-- A row inside the walk joins the static writes, to land three cycles later, where no row write is due. -/
theorem State.writes_doDrainRow (rows : ∀ w ∈ (s.eng (engId p e)).writes, x ≤ w.land) {w : Walk} (dst : d.dst = .walk w)
    (inside : d.row < w.count) (plain : d.ofmt.isMx = false) :
    ((s.doDrainRow p e x d).ae p).writes = insertWrite ⟨x + 3, e, rowBytes d.ofmt (w.runBase 0) 0 d.row
      (drainRowBits d.ofmt ((s.eng (engId p e)).intMode d.set1) ((s.eng (engId p e)).drainRnd d.stochastic (engId p e))
        ((s.eng (engId p e)).rowCells d.set1 d.row)).1, e, d.tag⟩ (s.ae p).writes := by
  have keeps : d.keeps = true := by simp [DrainRun.keeps, dst, inside]
  have read : Kept 0x602b74210 s (s.drainRowRead p e x d).2 := State.readRow_keeps ..
  have cells : (s.drainRowRead p e x d).1 = (s.eng (engId p e)).rowCells d.set1 d.row :=
    State.readRow_cells _ _ _ _ _ rows
  rw [State.ae_doDrainRow, State.drainRowWritten, if_pos keeps, State.drainRowBytes_walk _ _ _ dst plain,
    State.eng_drainRowRead rows, cells, State.staticWrite, State.ae_setAe_self, read.ae]
  rfl

/-- Where no row write is due and no product cycle missed, only the row counter and the engine's status change. -/
theorem State.rd_doDrainRow_quiet (rows : ∀ w ∈ (s.eng (engId p e)).writes, x ≤ w.land)
    (hit : (s.eng (engId p e)).misses d.set1 x (d.issue + 63) (if d.clr then some d.issue else none) = false) {a : Nat}
    (stat : a ≠ R.ENG_TILE_STAT p e) : (s.doDrainRow p e x d).rd a =
      if a = R.ENG_CNT_DRAIN_ROWS p e then s.rd a + 1 else s.rd a := by
  rw [State.rd_doDrainRow _ _ _ _ _ stat, State.drainRowRead, State.readRow_quiet _ _ _ _ _ rows hit, State.rd_setEng]

end

theorem exec_drainRow {s : State} {p : Pos} {e : Eng} {x : Nat} {d : DrainRun} (h : (s.eng (engId p e)).drain = some d)
    (due : x = d.issue + d.row) : exec (.drainRow p e x) s = .next (s.doDrainRow p e x d) := by
  show execDrainRow p e x s = _
  unfold execDrainRow
  rw [h]
  exact State.when_true _ _ (by simpa using due)

/-! ### A drained tile completes (R55, R190) -/

/-- The state in which drain d's tile is complete and its flag set. -/
def State.tileCompleted (s : State) (p e x : Nat) (d : Nat × Option Nat) : State :=
  let u := (s.setEng (engId p e) { s.eng (engId p e) with done := (s.eng (engId p e)).done.erase d }).settle p x
  match d.2 with
  | some n => u.landSet p n x 0
  | none => u

theorem exec_drainTileComplete {s : State} {p : Pos} {e : Eng} {x : Nat} {d : Nat × Option Nat}
    (h : ((s.eng (engId p e)).done.find? fun q => q.1 == x) = some d) :
    exec (.drainTileComplete p e x) s = .next ((s.tileCompleted p e x d).clock (dieOf p) x) := by
  show execDrainTileComplete p e x s = _
  unfold execDrainTileComplete
  extract_lets i g
  rw [show (g.done.find? fun q => q.1 == x) = some d from h]
  rfl

theorem State.tileCompleted_keeps (s : State) (p e x : Nat) (d : Nat × Option Nat) :
    Reads (s.setEng (engId p e) { s.eng (engId p e) with done := (s.eng (engId p e)).done.erase d })
      (s.tileCompleted p e x d) := by
  unfold State.tileCompleted
  extract_lets g u
  have hu : Reads _ u := State.settle_kept (.refl _ _) _ _ (Sub.refl _)
  split
  · exact State.landSet_kept hu _ _ _ _ ⟨by decide⟩
  · exact hu

/-- Where no static write is due, the engine is set and the flag, if any, lands. -/
theorem State.tileCompleted_quiet {s : State} {p e x : Nat} (due : NoneDue s p x) (d : Nat × Option Nat) :
    s.tileCompleted p e x d =
      let u := s.setEng (engId p e) { s.eng (engId p e) with done := (s.eng (engId p e)).done.erase d }
      match d.2 with
      | some n => u.landSet p n x 0
      | none => u := by
  unfold State.tileCompleted
  dsimp only
  rw [State.settle_noneDue (s := s.setEng (engId p e) _) due]

theorem State.landSet_spad (s : State) (p n x src : Nat) : (s.landSet p n x src).spad = s.spad :=
  (State.landSet_kept (m := 0x602b76010) (.refl _ s) p n x src (Sub.refl _)).spad

theorem State.flag_noteLand (s : State) (p x n : Nat) (set expl : Bool) (m : Nat) :
    (s.noteLand p x n set expl).flag p m = s.flag p m := State.bit_setCore ..

theorem State.flag_setFlagBit (s : State) (p n : Nat) : (s.setFlagBit p n true).flag p n = true := by
  have set := State.f_setF_of_lt s (R.FLG_STATE p (n / 64)) (n % 64, 1) 1 (by simp; omega) Nat.one_lt_two
  unfold State.flag State.bit State.setFlagBit State.setBit bitOf
  unfold State.f bitsOf at set
  simpa using set

/-- A set that lands on a flag that is not poisoned sets it. -/
theorem State.flag_landSet {s : State} {p n : Nat} (free : s.poisoned p n = false) (x src : Nat) :
    (s.landSet p n x src).flag p n = true := by
  unfold State.landSet
  rw [if_neg (by rw [free]; decide)]
  extract_lets u lands clr v inj w
  rw [State.flag_noteLand, State.flag_setFlagBit]

/-- Settles O10: a drain's row is read, written and counted; a completed tile leaves its engine and may set its flag. -/
theorem drainReadsItsRows : Obligations.DrainReadsItsRows := by
  unfold Obligations.DrainReadsItsRows
  intro p e x s i g
  refine ⟨fun d run due => ?row, fun d complete => ?tile⟩
  case row =>
    have kept : Kept 0x602b74a10 s (s.doDrainRow p e x d) := State.doDrainRow_kept (.refl _ s) _ _ _ _ (Sub.refl _)
    have landed : RowsLanded i s (s.drainRowRead p e x d).2 := State.readRow_landed ..
    have own : (s.doDrainRow p e x d).eng i = ((s.drainRowRead p e x d).2.eng i).rowDrained d :=
      (State.eng_doDrainRow ..).trans (if_pos rfl)
    obtain ⟨_, _, _, before⟩ := landed.own
    obtain ⟨active1, flight, writes⟩ := ((s.drainRowRead p e x d).2.eng i).rowDrained_rest d
    refine ⟨_, exec_drainRow run due, by rw [own, Engine.rowDrained_drain], by rw [own, Engine.rowDrained_done, before],
      by rw [own, active1, before], by rw [own, flight, before],
      fun j n => (State.eng_doDrainRow ..).trans ((if_neg n).trans (landed.others j n)), kept.spad, kept.hbm,
      fun rows => ⟨?_, ?_, fun w dst inside plain => ⟨_, State.writes_doDrainRow rows dst inside plain, rfl, rfl⟩,
        fun hit => ⟨?_, fun a count stat => (State.rd_doDrainRow_quiet rows hit stat).trans (if_neg count)⟩⟩⟩
    · rw [own, writes, State.eng_drainRowRead rows]; rfl
    · rw [own, Engine.rowDrained_acc, State.eng_drainRowRead rows]; rfl
    · exact (State.rd_doDrainRow_quiet rows hit (by unfold R.ENG_CNT_DRAIN_ROWS R.ENG_TILE_STAT; omega)).trans (if_pos rfl)
  case tile =>
    have kept := s.tileCompleted_keeps p e x d
    refine ⟨_, exec_drainTileComplete complete, by rw [State.eng_clock, kept.eng, State.eng_setEng_self],
      fun j n => by rw [State.eng_clock, kept.eng, State.eng_setEng_ne _ _ _ _ n], by rw [State.clock_hbm, kept.hbm]; rfl,
      fun due => ?_⟩
    rw [State.tileCompleted_quiet due]
    rcases d with ⟨y, _ | n⟩
    case none => exact ⟨State.clock_spad .., fun _ => engineFrame_setEng .., by rintro n ⟨⟩⟩
    case some =>
      refine ⟨by rw [State.clock_spad, State.landSet_spad, State.setEng_spad], by rintro ⟨⟩, fun m h free => ?_⟩
      cases h
      refine (State.bit_clock ..).trans (State.flag_landSet ?_ x 0)
      exact (State.bit_setEng ..).trans free

/-! ### Loads take their rows (R49, R62, R76) -/

/-- The row write of a load's next row, from the elements it read. -/
def LoadRun.write (l : LoadRun) (x : Nat) (els : List Nat) : RowWrite :=
  ⟨x + 1, l.set1, l.row, els.map (loadCell l.ifmt), true, false, false, l.tag⟩

/-- An engine whose load l has taken its next row. -/
def Engine.rowLoaded (g : Engine) (l : LoadRun) (w : RowWrite) : Engine :=
  let h := if l.row = 0 then g.setInt l.set1 (l.ifmt == .raw64i) else g
  let h := { h with writes := h.writes ++ [w] }
  if 63 ≤ l.row then { h with load := none } else { h with load := some { l with row := l.row + 1 } }

section
variable (g : Engine) (l : LoadRun) (w : RowWrite)

theorem Engine.rowLoaded_load :
    (g.rowLoaded l w).load = if 63 ≤ l.row then none else some { l with row := l.row + 1 } := by
  unfold Engine.rowLoaded; dsimp only; split <;> rfl

theorem Engine.rowLoaded_rest : (g.rowLoaded l w).writes = g.writes ++ [w] ∧
    (g.rowLoaded l w).acc = g.acc ∧ (g.rowLoaded l w).flight = g.flight := by
  unfold Engine.rowLoaded Engine.setInt; split_ifs <;> exact ⟨rfl, rfl, rfl⟩

theorem Engine.rowLoaded_intMode : (g.rowLoaded l w).intMode l.set1 =
    if l.row = 0 then l.ifmt == .raw64i else g.intMode l.set1 := by
  have mode : (g.rowLoaded l w).intMode l.set1 =
      (if l.row = 0 then g.setInt l.set1 (l.ifmt == .raw64i) else g).intMode l.set1 := by
    unfold Engine.rowLoaded; dsimp only; split <;> rfl
  rw [mode]
  split
  · exact Engine.intMode_setInt ..
  · rfl

theorem Engine.rowLoaded_intMode_other : (g.rowLoaded l w).intMode (!l.set1) = g.intMode (!l.set1) := by
  have mode : (g.rowLoaded l w).intMode (!l.set1) =
      (if l.row = 0 then g.setInt l.set1 (l.ifmt == .raw64i) else g).intMode (!l.set1) := by
    unfold Engine.rowLoaded; dsimp only; split <;> rfl
  rw [mode]
  split
  · exact Engine.intMode_setInt_other ..
  · rfl

end

/-- The write that LOAD_ROW queues. -/
def State.loadWrite (s : State) (p e x : Nat) (l : LoadRun) : RowWrite :=
  l.write x (s.readOperand p x e l.src l.ifmt l.row 1).1.els

theorem State.doLoadRow_eq (s : State) (p e x : Nat) (l : LoadRun) : s.doLoadRow p e x l =
    ((((s.readOperand p x e l.src l.ifmt l.row 1).2.setEng (engId p e)
      ((s.eng (engId p e)).rowLoaded l (s.loadWrite p e x l))).bump
        (R.ENG_CNT_LOAD_ROWS p e) 1).energy (dieOf p) 5 1).clock (dieOf p) x := by
  rw [← (s.readOperand_reads p x e l.src l.ifmt l.row 1).eng]
  rfl

section
variable (s : State) (p e x : Nat) (l : LoadRun)

theorem State.eng_doLoadRow : (s.doLoadRow p e x l).eng (engId p e) =
    (s.eng (engId p e)).rowLoaded l (s.loadWrite p e x l) := by
  rw [State.doLoadRow_eq]; simp

theorem State.eng_doLoadRow_ne {j : Nat} (h : j ≠ engId p e) : (s.doLoadRow p e x l).eng j = s.eng j := by
  rw [State.doLoadRow_eq]
  simp [State.eng_setEng_ne _ _ _ _ h, (s.readOperand_reads p x e l.src l.ifmt l.row 1).eng]

theorem State.doLoadRow_spad : (s.doLoadRow p e x l).spad = (s.readOperand p x e l.src l.ifmt l.row 1).2.spad := by
  rw [State.doLoadRow_eq]; simp

theorem State.doLoadRow_hbm : (s.doLoadRow p e x l).hbm = s.hbm := by
  rw [State.doLoadRow_eq]
  simp [(s.readOperand_reads p x e l.src l.ifmt l.row 1).hbm]

end

theorem exec_loadRow {s : State} {p : Pos} {e : Eng} {x : Nat} {l : LoadRun} (h : (s.eng (engId p e)).load = some l)
    (due : x = l.issue + l.row) : exec (.loadRow p e x) s = .next (s.doLoadRow p e x l) := by
  show execLoadRow p e x s = _
  unfold execLoadRow
  rw [h]
  exact State.when_true _ _ (by simpa using due)

/-! ### Row operations take their rows (R50, R75) -/

/-- What the next row of a row operation reads. -/
def State.rowOpRead (s : State) (p e x : Nat) (r : RowRun) : List Word × State :=
  s.readRow p e x r.set1 r.row (r.issue + 64) none r.tag

/-- Random draws are made for a row of an addition under SR_ACC, but not on the exact path (R75, R85). -/
def State.srRow (s : State) (p e : Nat) (r : RowRun) : Bool :=
  s.f (R.ENG_COMPAT p) F.ENG_COMPAT_SR_ACC = 1 && !(s.eng (engId p e)).intMode r.set1 && r.op == .add

/-- The write of a row operation's next row, from the cells it read. -/
def RowRun.write (r : RowRun) (g : Engine) (i x : Nat) (sr : Bool) (cells : List Word) : RowWrite :=
  let out := cells.mapIdx fun j w =>
    rowCell r.op (g.intMode r.set1) w (r.v1.at j) (r.v2.at j) (if sr then some (g.random i j) else none)
  ⟨x + 1, r.set1, r.row, out.map (·.1), false, out.any (·.2), false, r.tag⟩

/-- An engine whose row operation r has computed its next row. -/
def Engine.rowOperated (g : Engine) (r : RowRun) (w : RowWrite) (sr : Bool) : Engine :=
  let h := { g with writes := g.writes ++ [w], draws := g.draws + (if sr then 64 else 0) }
  if 63 ≤ r.row then { h with row := none } else { h with row := some { r with row := r.row + 1 } }

theorem Engine.rowOperated_row (g : Engine) (r : RowRun) (w : RowWrite) (sr : Bool) :
    (g.rowOperated r w sr).row = if 63 ≤ r.row then none else some { r with row := r.row + 1 } := by
  unfold Engine.rowOperated; dsimp only; split <;> rfl

theorem Engine.rowOperated_rest (g : Engine) (r : RowRun) (w : RowWrite) (sr : Bool) :
    (g.rowOperated r w sr).writes = g.writes ++ [w] ∧ (g.rowOperated r w sr).acc = g.acc := by
  unfold Engine.rowOperated; dsimp only; split <;> exact ⟨rfl, rfl⟩

/-- The write that ROW_OP_ROW queues. -/
def State.rowOpWrite (s : State) (p e x : Nat) (r : RowRun) : RowWrite :=
  let u := (s.rowOpRead p e x r).2
  r.write (u.eng (engId p e)) (engId p e) x (u.srRow p e r) (s.rowOpRead p e x r).1

theorem State.doRowRow_eq (s : State) (p e x : Nat) (r : RowRun) : s.doRowRow p e x r =
    let u := (s.rowOpRead p e x r).2
    (((u.setEng (engId p e) ((u.eng (engId p e)).rowOperated r (s.rowOpWrite p e x r) (u.srRow p e r))).bump
      (R.ENG_CNT_ROWOP_ROWS p e) 1).energy (dieOf p) 5 1).clock (dieOf p) x := rfl

theorem exec_rowOpRow {s : State} {p : Pos} {e : Eng} {x : Nat} {r : RowRun} (h : (s.eng (engId p e)).row = some r)
    (due : x = r.issue + r.row) : exec (.rowOpRow p e x) s = .next (s.doRowRow p e x r) := by
  show execRowOpRow p e x s = _
  unfold execRowOpRow
  rw [h]
  exact State.when_true _ _ (by simpa using due)

section
variable {s : State} {p e x : Nat} {r : RowRun}

theorem State.eng_doRowRow : (s.doRowRow p e x r).eng (engId p e) =
    ((s.rowOpRead p e x r).2.eng (engId p e)).rowOperated r (s.rowOpWrite p e x r) ((s.rowOpRead p e x r).2.srRow p e r) := by
  rw [State.doRowRow_eq]; simp

theorem State.eng_doRowRow_ne {j : Nat} (h : j ≠ engId p e) : (s.doRowRow p e x r).eng j = s.eng j := by
  have landed : RowsLanded (engId p e) s (s.rowOpRead p e x r).2 := State.readRow_landed ..
  rw [State.doRowRow_eq]
  simp [State.eng_setEng_ne _ _ _ _ h, landed.others j h]

theorem State.eng_rowOpRead (rows : ∀ w ∈ (s.eng (engId p e)).writes, x ≤ w.land) :
    (s.rowOpRead p e x r).2.eng (engId p e) = (s.eng (engId p e)).rowRead r.set1 r.row :=
  State.eng_readRow _ _ _ _ _ rows

/-- A row operation computes from the cells as they stand where nothing is due and none missed, without SR_ACC. -/
theorem State.rowOpWrite_cells (rows : ∀ w ∈ (s.eng (engId p e)).writes, x ≤ w.land)
    (hit : (s.eng (engId p e)).misses r.set1 x (r.issue + 64) none = false)
    (sr : s.f (R.ENG_COMPAT p) F.ENG_COMPAT_SR_ACC = 0) :
    (s.rowOpWrite p e x r).cells = ((s.eng (engId p e)).rowCells r.set1 r.row).mapIdx fun j c =>
      (rowCell r.op ((s.eng (engId p e)).intMode r.set1) c (r.v1.at j) (r.v2.at j) none).1 := by
  have quiet : (s.rowOpRead p e x r).2 = s.setEng (engId p e) ((s.eng (engId p e)).rowRead r.set1 r.row) :=
    State.readRow_quiet _ _ _ _ _ rows hit
  have off : (s.rowOpRead p e x r).2.srRow p e r = false := by simp [State.srRow, quiet, sr]
  have cells : (s.rowOpRead p e x r).1 = (s.eng (engId p e)).rowCells r.set1 r.row := State.readRow_cells _ _ _ _ _ rows
  unfold State.rowOpWrite
  dsimp only
  rw [off, cells, State.eng_rowOpRead rows]
  unfold RowRun.write
  refine List.ext_getElem? fun k => ?_
  simp only [List.getElem?_map, List.getElem?_mapIdx, Option.map_map]
  rfl

theorem State.rd_doRowRow (rows : ∀ w ∈ (s.eng (engId p e)).writes, x ≤ w.land)
    (hit : (s.eng (engId p e)).misses r.set1 x (r.issue + 64) none = false) (a : Nat) :
    (s.doRowRow p e x r).rd a = if a = R.ENG_CNT_ROWOP_ROWS p e then s.rd a + 1 else s.rd a := by
  have quiet : (s.rowOpRead p e x r).2 = s.setEng (engId p e) ((s.eng (engId p e)).rowRead r.set1 r.row) :=
    State.readRow_quiet _ _ _ _ _ rows hit
  rw [State.doRowRow_eq]
  dsimp only
  rw [State.rd_clock, State.rd_energy, quiet]
  split
  case isTrue h => rw [h, State.rd_bump_self]; rfl
  case isFalse h => rw [State.rd_bump_ne _ _ _ _ h]; rfl

end

/-- Settles O11: each row is one write queued in its engine, after what its reading lets land. -/
theorem loadAndRowOperationRows : Obligations.LoadAndRowOperationRows := by
  unfold Obligations.LoadAndRowOperationRows
  intro p e x s i g
  refine ⟨fun l run due => ?load, fun r run due => ?rowOp⟩
  case load =>
    have own := s.eng_doLoadRow p e x l
    obtain ⟨writes, acc, flight⟩ := g.rowLoaded_rest l (s.loadWrite p e x l)
    exact ⟨_, s.loadWrite p e x l, exec_loadRow run due, by rw [own, Engine.rowLoaded_load], by rw [own, writes], rfl, rfl,
      rfl, rfl, rfl, by rw [own, acc], by rw [own, flight], by rw [own, Engine.rowLoaded_intMode],
      by rw [own, Engine.rowLoaded_intMode_other], fun j n => s.eng_doLoadRow_ne p e x l n, s.doLoadRow_hbm p e x l,
      fun due => (s.doLoadRow_spad p e x l).trans (State.readOperand_undisturbed due ..).spad⟩
  case rowOp =>
    have kept : Kept 0x602b74210 s (s.doRowRow p e x r) := State.doRowRow_kept (.refl _ s) _ _ _ _ (Sub.refl _)
    have own := State.eng_doRowRow (s := s) (p := p) (e := e) (x := x) (r := r)
    obtain ⟨writes, acc⟩ := ((s.rowOpRead p e x r).2.eng i).rowOperated_rest r (s.rowOpWrite p e x r)
      ((s.rowOpRead p e x r).2.srRow p e r)
    refine ⟨_, s.rowOpWrite p e x r, exec_rowOpRow run due, by rw [own, Engine.rowOperated_row], by rw [own, writes]; simp,
      rfl, rfl, rfl, rfl, fun j n => State.eng_doRowRow_ne n, kept.spad, kept.hbm, fun rows => ⟨?_, ?_, fun hit =>
        ⟨State.rowOpWrite_cells rows hit, (State.rd_doRowRow rows hit _).trans (if_pos rfl),
          fun a n => (State.rd_doRowRow rows hit a).trans (if_neg n)⟩⟩⟩
    · rw [own, acc, State.eng_rowOpRead rows]; rfl
    · rw [own, writes, State.eng_rowOpRead rows]; rfl

/-! ### Vector operations issue (R63, R64, R82, R86) -/

theorem cvuCounters_apart (p : Nat) : R.CVU_CNT_LANE_OPS p ≠ R.CVU_CNT_BUSY p ∧ R.CVU_CNT_TRANS p ≠ R.CVU_CNT_BUSY p ∧
    R.CVU_CNT_LANE_OPS p ≠ R.CVU_CNT_TRANS p := by
  unfold R.CVU_CNT_LANE_OPS R.CVU_CNT_BUSY R.CVU_CNT_TRANS; omega

theorem State.rd_cvuIssue_ne (s : State) (p x : Nat) (r : CvuResult) {a : Nat} (h : a ≠ R.CVU_CNT_BUSY p) :
    (s.cvuIssue p x r).rd a = s.rd a := by
  unfold State.cvuIssue
  rw [State.rd_bump_ne _ _ _ _ h, State.rd_setCvu]

theorem State.cvu_cvuIssue (s : State) (p x : Nat) (r : CvuResult) : (s.cvuIssue p x r).cvu p =
    { s.cvu p with
      flight := (s.cvu p).flight ++ [r], busyTo := max (s.cvu p).busyTo r.usable, now := max (s.cvu p).now x } := by
  simp [State.cvuIssue]

theorem State.cvu_cvuIssue_ne (s : State) (p x : Nat) (r : CvuResult) {j : Nat} (h : j ≠ p) :
    (s.cvuIssue p x r).cvu j = s.cvu j := by
  simp [State.cvuIssue, State.cvu_setCvu_ne _ _ _ _ h]

theorem State.bump_eq (s : State) (a n : Nat) : s.bump a n = { s with regs := (s.bump a n).regs } := by
  unfold State.bump
  split <;> rfl

theorem State.cvuIssue_eq (s : State) (p x : Nat) (r : CvuResult) :
    s.cvuIssue p x r = { s with regs := (s.cvuIssue p x r).regs, cvus := (s.cvuIssue p x r).cvus } := by
  unfold State.cvuIssue
  dsimp only
  rw [State.bump_eq]
  rfl

/-- A result in flight, a counter of the vector unit and the die's event counts make up an issue. -/
theorem cvuIssued_clock {s u : State} {p : Pos} {x : Nat} {r : CvuResult} (c n : Nat)
    (counter : c = R.CVU_CNT_LANE_OPS p ∨ c = R.CVU_CNT_TRANS p)
    (now : (u.die (dieOf p)).now = (s.die (dieOf p)).now) (others : ∀ j, j ≠ dieOf p → u.die j = s.die j)
    (rest : u = { (s.cvuIssue p x r).bump c n with dies := u.dies }) : CvuIssued s (u.clock (dieOf p) x) p x r := by
  have cvu (j : Nat) : u.cvu j = (s.cvuIssue p x r).cvu j := by
    rw [rest]; exact State.cvu_bump ..
  have rd (a : Nat) : u.rd a = ((s.cvuIssue p x r).bump c n).rd a := by rw [rest]; rfl
  refine ⟨by rw [State.cvu_clock, cvu, State.cvu_cvuIssue], by rw [State.cvu_clock, cvu, State.cvu_cvuIssue],
    fun j h => by rw [State.cvu_clock, cvu, State.cvu_cvuIssue_ne _ _ _ _ h], fun a h => ?_,
    by rw [State.die_clock_now, now], fun j h => by rw [State.die_clock_ne _ _ _ _ h, others j h], ?_⟩
  · simp only [List.mem_cons, List.not_mem_nil, or_false, not_or] at h
    obtain ⟨busy, lane, trans⟩ := h
    have ne : a ≠ c := by rcases counter with rfl | rfl <;> assumption
    rw [State.rd_clock, rd, State.rd_bump_ne _ _ _ _ ne, State.rd_cvuIssue_ne _ _ _ _ busy]
  · rw [u.clock_eq, rest, State.bump_eq, State.cvuIssue_eq]

/-- An issue that counts lanes of one kind and events of the power model. -/
theorem cvuIssued_energy (s : State) (p : Pos) (x : Nat) (r : CvuResult) (c n k m : Nat)
    (counter : c = R.CVU_CNT_LANE_OPS p ∨ c = R.CVU_CNT_TRANS p) :
    CvuIssued s ((((s.cvuIssue p x r).bump c n).energy (dieOf p) k m).clock (dieOf p) x) p x r := by
  have die (j : Nat) : ((s.cvuIssue p x r).bump c n).die j = s.die j := by simp [State.cvuIssue]
  refine cvuIssued_clock c n counter ?_ (fun j h => ?_) rfl
  · simp [State.energy, die]
  · rw [State.energy, State.die_setDie_ne _ _ _ _ h, die]

/-- The counter of an issue goes up by the lanes it counts. -/
theorem State.rd_issueCount (s : State) (p x : Nat) (r : CvuResult) {c : Nat} (n d k m : Nat) (h : c ≠ R.CVU_CNT_BUSY p) :
    ((((s.cvuIssue p x r).bump c n).energy d k m).clock d x).rd c = s.rd c + BitVec.ofNat 64 n := by
  rw [State.rd_clock, State.rd_energy, State.rd_bump_self, State.rd_cvuIssue_ne _ _ _ _ h]

theorem exec_vecCvt {f g : Fmt} (hf : f.cls ≠ .raw) (hg : g.cls ≠ .raw) (p : Pos) (x : Nat) (dst src : Fin 32) (s : State) :
    ∃ exc, exec (.vecCvt p x dst src f g) s =
      .next ((((s.cvuIssue p x ⟨x + 4, dst.val, encLanes g (((s.cvu p).reg src).map (laneVal f)), exc, false⟩).bump
        (R.CVU_CNT_LANE_OPS p) 512).energy (dieOf p) 6 1).clock (dieOf p) x) :=
  ⟨_, State.whenWf_true _ _ (by simp [hf, hg]) rfl⟩

theorem joinLanes_map {α : Type} (l : List α) (f : α → W32 × Nat) : (joinLanes (l.map f)).1 = l.map fun a => (f a).1 :=
  List.map_map

/-- The lanes of an arithmetic operation, each with the exceptions it raises. -/
def Cvu.arithLanes (c : Cvu) (op : VArith) (a b k : Nat) (l : List Nat) : List (W32 × Nat) :=
  l.map fun i => laneArith op ((c.reg a).getD i 0) ((c.reg b).getD i 0) ((c.reg k).getD i 0)

theorem exec_vecArith (op : VArith) (p : Pos) (x : Nat) (dst a b k : Fin 32) (s : State) :
    ∃ exc, exec (.vecArith p x op dst a b k) s =
      .next ((((s.cvuIssue p x ⟨x + 4, dst.val, (joinLanes ((s.cvu p).arithLanes op a b k (List.range 512))).1, exc,
        false⟩).bump (R.CVU_CNT_LANE_OPS p) 512).energy (dieOf p) 6 1).clock (dieOf p) x) := by
  generalize join : joinLanes ((s.cvu p).arithLanes op a b k (List.range 512)) = lanes
  refine ⟨lanes.2, ?_⟩
  rw [← join]
  rfl

/-- Settles O13: each operation puts its result in flight and counts its lanes. -/
theorem vectorOperationIssues : Obligations.VectorOperationIssues := by
  unfold Obligations.VectorOperationIssues
  intro p x dst src s c
  obtain ⟨laneBusy, transBusy, -⟩ := cvuCounters_apart p
  refine ⟨fun op a b k => ?arith, fun f g hf hg => ?cvt, fun op => ?trans, fun op base => ?reduce⟩
  case arith =>
    obtain ⟨exc, ran⟩ := exec_vecArith op p x dst a b k s
    refine ⟨_, _, ran, cvuIssued_energy _ _ _ _ _ _ _ _ (.inl rfl), rfl, rfl,
      State.rd_issueCount _ _ _ _ _ _ _ _ laneBusy, ?_⟩
    dsimp only
    exact joinLanes_map (List.range 512) _
  case cvt =>
    obtain ⟨exc, ran⟩ := exec_vecCvt hf hg p x dst src s
    exact ⟨_, _, ran, cvuIssued_energy _ _ _ _ _ _ _ _ (.inl rfl), rfl, rfl, State.rd_issueCount _ _ _ _ _ _ _ _ laneBusy,
      rfl⟩
  case trans =>
    exact ⟨_, _, rfl, cvuIssued_energy _ _ _ _ _ _ _ _ (.inr rfl), rfl, rfl,
      State.rd_issueCount _ _ _ _ _ _ _ _ transBusy, joinLanes_map _ _⟩
  case reduce =>
    have die (r : CvuResult) (j : Nat) : (s.cvuIssue p x r).die j = s.die j := by simp [State.cvuIssue]
    exact ⟨_, _, rfl, cvuIssued_clock _ 0 (.inl rfl) (by rw [die]) (fun j _ => die _ j) rfl, rfl, rfl, rfl,
      by rw [State.rd_clock, State.rd_cvuIssue_ne _ _ _ _ laneBusy],
      by rw [State.rd_clock, State.rd_cvuIssue_ne _ _ _ _ transBusy]⟩

/-! ### Vector loads and stores (R63, R104, R141) -/

/-- A static read loses no bank where no read of the cycle has taken one. -/
theorem State.staticRead_lost {s : State} {p x : Nat} (due : NoneDue s p x) (first : (s.ae p).rdAt ≠ x) (unit : Nat)
    (addrs : List Nat) : (s.staticRead p x unit addrs).1 = 0 := by
  unfold State.staticRead
  rw [State.settle_noneDue due]
  dsimp only
  rw [if_neg first, Nat.and_zero]

theorem State.reader_zero (s : State) (p : Nat) : s.reader p 0 = s.spadByte p := by
  funext o
  simp [State.reader, bitOf]

/-- What a vector load reads of the scratchpad. -/
def State.vecLdRead (s : State) (p x : Nat) (w : Walk) : Nat × State :=
  s.staticRead p x uCVU ((List.range 1024).map (w.runBase 0 + ·))

/-- The lanes of a vector load, from what it read. -/
def State.vecLdLanes (s : State) (p x : Nat) (w : Walk) : List W32 :=
  let a := s.vecLdRead p x w
  (List.range 512).map fun i =>
    if i < runElems w.fmt then
      let e := if i < w.count * 64 then runElem (a.2.reader p a.1) w.fmt (w.runBase 0) i else 0
      let sc := if w.fmt.isMx then (a.2.spadByte p (w.sb + i / 32)).toNat else 0
      BitVec.ofNat 32 (e + sc * 2 ^ 16)
    else BitVec.ofNat 32 (Config.freeBits (a.2.free + i))

/-- The state of a vector load once its run is read and its free values are drawn. -/
def State.vecLdDrawn (s : State) (p x : Nat) (w : Walk) : State :=
  let u := (s.vecLdRead p x w).2
  if runElems w.fmt < 512 then { u with free := u.free + 512 } else u

theorem exec_vecLd {s : State} {p : Pos} {desc : W128} {w : Walk} (h : s.localDesc p desc = some w) (row : w.col = false)
    (fmt : w.fmt.cls ≠ .raw) (x : Nat) (reg : Fin 32) : exec (.vecLd p x reg desc) s =
      .next (((s.vecLdDrawn p x w).cvuIssue p x ⟨x + 6, reg.val, s.vecLdLanes p x w, 0, false⟩).clock (dieOf p) x) := by
  show execVecLd p x reg desc s = _
  unfold execVecLd
  rw [h]
  exact State.whenWf_true _ _ (by simp [row, fmt]) rfl

section
variable (s : State) (p x : Nat) (w : Walk)

theorem State.vecLdDrawn_parts : (s.vecLdDrawn p x w).cvus = s.cvus ∧ (s.vecLdDrawn p x w).engines = s.engines ∧
    (s.vecLdDrawn p x w).hbm = s.hbm ∧ (s.vecLdDrawn p x w).spad = (s.vecLdRead p x w).2.spad := by
  have k : Reads s (s.vecLdRead p x w).2 := State.staticRead_kept (.refl _ s) _ _ _ _ (Sub.refl _)
  unfold State.vecLdDrawn
  dsimp only
  split <;> exact ⟨k.same .cvus (by decide), k.engines, k.hbm, rfl⟩

theorem State.length_vecLdLanes : (s.vecLdLanes p x w).length = 512 := by
  unfold State.vecLdLanes
  rw [List.length_map, List.length_range]

variable {s p x w}

/-- The lanes hold the codes of the run's elements where the read loses nothing. -/
theorem State.getElem?_vecLdLanes (due : NoneDue s p x) (first : (s.ae p).rdAt ≠ x) (plain : w.fmt.isMx = false) {i : Nat}
    (inRun : i < runElems w.fmt) (counts : i < w.count * 64) :
    (s.vecLdLanes p x w)[i]? = some (BitVec.ofNat 32 (runElem (s.spadByte p) w.fmt (w.runBase 0) i)) := by
  have k : Reads s (s.vecLdRead p x w).2 := State.staticRead_kept (.refl _ s) _ _ _ _ (Sub.refl _)
  have bytes : (s.vecLdRead p x w).2.reader p (s.vecLdRead p x w).1 = s.spadByte p := by
    rw [State.vecLdRead, State.staticRead_lost due first, State.reader_zero]
    exact funext fun o => (State.staticRead_undisturbed due ..).spadByte k o
  have lane : i < 512 := Nat.lt_of_lt_of_le inRun (Nat.min_le_left ..)
  unfold State.vecLdLanes
  dsimp only
  rw [bytes, List.getElem?_map, List.getElem?_range lane]
  simp [inRun, counts, plain]

end

theorem exec_vecSt {s : State} {p : Pos} {desc : W128} {w : Walk} (h : s.localDesc p desc = some w) (row : w.col = false)
    (fmt : w.fmt.cls ≠ .raw) (x : Nat) (reg : Fin 32) : exec (.vecSt p x reg desc) s = .next (s.doVecSt p x reg.val w) := by
  show execVecSt p x reg desc s = _
  unfold execVecSt
  rw [h]
  exact State.whenWf_true _ _ (by simp [row, fmt]) rfl

/-- The static write of a vector store. -/
def State.vecStWrite (s : State) (p x r : Nat) (w : Walk) : StaticWrite :=
  let vs := (s.cvu p).reg r
  let bytes := ((packLanes w.fmt vs).take (w.count * 8 * w.fmt.width)).mapIdx fun i y => ((w.runBase 0 + i) % 2 ^ 23, y)
  let sc := if w.fmt.isMx then
      (List.range 16).map fun g => ((w.sb + g) % 2 ^ 23, BitVec.ofNat 8 (bitsOf (vs.getD (32 * g) 0).toNat 16 8))
    else []
  ⟨x + 5, 3, bytes ++ sc, uCVU, s.heatTag p x⟩

theorem State.doVecSt_eq (s : State) (p x r : Nat) (w : Walk) :
    s.doVecSt p x r w = (s.staticWrite p (s.vecStWrite p x r w)).clock (dieOf p) x := rfl

/-- Settles O14: a load reads its run and puts its lanes in flight, a store queues one static write. -/
theorem vectorLoadsAndStores : Obligations.VectorLoadsAndStores := by
  unfold Obligations.VectorLoadsAndStores
  intro p x reg desc w s h row fmt
  refine ⟨?load, ?store⟩
  case load =>
    obtain ⟨cvus, engines, hbm, spad⟩ := s.vecLdDrawn_parts p x w
    have cvu (j : Nat) : (s.vecLdDrawn p x w).cvu j = s.cvu j := by unfold State.cvu; rw [cvus]
    refine ⟨_, ⟨x + 6, reg.val, s.vecLdLanes p x w, 0, false⟩, exec_vecLd h row fmt x reg,
      by rw [State.cvu_clock, State.cvu_cvuIssue, cvu], by rw [State.cvu_clock, State.cvu_cvuIssue, cvu], rfl, rfl, ?_,
      fun j n => by rw [State.cvu_clock, State.cvu_cvuIssue_ne _ _ _ _ n, cvu], by simpa [State.cvuIssue] using engines,
      by simpa [State.cvuIssue] using hbm, fun due => ⟨?_, fun first plain i inRun counts => ?_⟩⟩
    · dsimp only
      exact s.length_vecLdLanes p x w
    · simpa [State.cvuIssue] using spad.trans (State.staticRead_undisturbed due ..).spad
    · dsimp only
      exact State.getElem?_vecLdLanes due first plain inRun counts
  case store =>
    refine ⟨_, s.vecStWrite p x reg w, (exec_vecSt h row fmt x reg).trans (congrArg _ (s.doVecSt_eq p x reg w)),
      by simp [State.staticWrite], rfl, fun j n => by simp [State.staticWrite, State.ae_setAe_ne _ _ _ _ n],
      State.clockedTo_of_dies rfl _ _, by rw [State.clock_eq]; rfl, fun plain => ?_⟩
    simp [State.vecStWrite, plain]

/-! ### Vector results land (R63, R64) -/

theorem Cvu.reg_setReg_self (c : Cvu) (r : Nat) {vs : List W32} (len : vs.length = 512) : (c.setReg r vs).reg r = vs :=
  NMap.dense_setRange _ _ _ _ _ len

theorem Cvu.reg_setReg_ne (c : Cvu) {r k : Nat} {vs : List W32} (len : vs.length = 512) (h : k ≠ r) :
    (c.setReg r vs).reg k = c.reg k := NMap.dense_setRange_ne _ _ _ _ _ _ (by omega)

theorem State.dies_wr (s : State) (a : Nat) (v : Word) : (s.wr a v).dies = s.dies := rfl

theorem State.dies_setCvu (s : State) (p : Nat) (c : Cvu) : (s.setCvu p c).dies = s.dies := rfl

theorem State.cvuRest_wr_setCvu (s : State) (p : Nat) (c : Cvu) (a : Nat) (v : Word) : (s.setCvu p c).wr a v =
    { s with regs := ((s.setCvu p c).wr a v).regs, cvus := ((s.setCvu p c).wr a v).cvus } := rfl

/-- Naming a cycle of its die completes the frame of a step on a vector unit and some registers. -/
theorem State.clock_cvuRest {s u : State} (rest : u = { s with regs := u.regs, cvus := u.cvus }) (d x : Nat) :
    u.clock d x = { s with regs := (u.clock d x).regs, cvus := (u.clock d x).cvus, dies := (u.clock d x).dies } := by
  rw [u.clock_eq, rest]

theorem exec_vecResultLand {s : State} {p : Pos} {x : Nat} {r : CvuResult}
    (h : ((s.cvu p).flight.find? fun q => q.usable == x) = some r) :
    exec (.vecResultLand p x) s = .next (s.doVecLand p x r) := by
  show execVecResultLand p x s = _
  unfold execVecResultLand
  rw [h]

/-- Settles O15: the register takes its lanes, the exceptions join those there, and the result leaves the flight. -/
theorem vectorResultLands : Obligations.VectorResultLands := by
  unfold Obligations.VectorResultLands
  intro p x r s lands len
  have ran := exec_vecResultLand lands
  unfold State.doVecLand at ran
  extract_lets c u e at ran
  have cvu : u.cvu p = { c with flight := c.flight.erase r, now := max c.now x }.setReg r.reg r.lanes :=
    State.cvu_setCvu_self ..
  have dies (v : Word) : (u.wr e v).dies = s.dies := (State.dies_wr ..).trans (State.dies_setCvu ..)
  refine ⟨_, ran, ?_, ?_, fun k n => ?_, fun j n => ?_, ?_, fun a n => ?_, State.clockedTo_of_dies (dies _) _ _, ?_⟩
  · rw [State.cvu_clock, State.cvu_wr, cvu]; rfl
  · rw [State.cvu_clock, State.cvu_wr, cvu, Cvu.reg_setReg_self _ _ len]
  · rw [State.cvu_clock, State.cvu_wr, cvu, Cvu.reg_setReg_ne _ len n]; rfl
  · rw [State.cvu_clock, State.cvu_wr]; exact State.cvu_setCvu_ne _ _ _ _ n
  · rw [State.rd_clock, State.rd_wr_self]; rfl
  · rw [State.rd_clock, State.rd_wr_ne _ _ _ _ n]; rfl
  · exact State.clock_cvuRest (State.cvuRest_wr_setCvu ..) _ _

end Sys2Proof.Machine

/-! PROOFS. Settles the statements of the family "memory and tiles": how commands join an access engine's list and take
slots, how pieces, requests and tiles move and land, and how chains read their rows. -/

namespace Sys2Proof.Machine

open Sys2Proof

/-! ### The command list (R114) -/

theorem State.aeCmd_id {s : State} {p i : Nat} {c : AeCmd} (h : s.aeCmd p i = some c) : c.id = i := by
  simpa using List.find?_some h

theorem State.aeCmd_congr {s t : State} {p : Nat} (h : (t.ae p).cmds = (s.ae p).cmds) (i : Nat) : t.aeCmd p i = s.aeCmd p i := by
  unfold State.aeCmd; rw [h]

@[simp] theorem State.aeCmd_clock (s : State) (d x p i : Nat) : (s.clock d x).aeCmd p i = s.aeCmd p i :=
  State.aeCmd_congr (by rw [State.ae_clock]) i

@[simp] theorem State.ae_setCmd_self (s : State) (p : Nat) (c : AeCmd) : (s.setCmd p c).ae p =
    { s.ae p with cmds := (s.ae p).cmds.map fun d => if d.id = c.id then c else d } := State.ae_setAe_self ..

theorem State.ae_setCmd_ne (s : State) (p : Nat) (c : AeCmd) {j : Nat} (h : j ≠ p) : (s.setCmd p c).ae j = s.ae j :=
  State.ae_setAe_ne _ _ _ _ h

/-- A command that is replaced takes its new form; the others stand. -/
theorem State.aeCmd_setCmd (s : State) (p : Nat) (c : AeCmd) (i : Nat) :
    (s.setCmd p c).aeCmd p i = (s.aeCmd p i).map fun d => if d.id = c.id then c else d := by
  have same : ((fun d : AeCmd => d.id == i) ∘ fun d => if d.id = c.id then c else d) = fun d => d.id == i := by
    funext d
    by_cases h : d.id = c.id <;> simp [h]
  unfold State.aeCmd
  rw [State.ae_setCmd_self, List.find?_map, same]

theorem State.aeCmd_setCmd_self {s : State} {p : Nat} {c d : AeCmd} (h : s.aeCmd p c.id = some d) :
    (s.setCmd p c).aeCmd p c.id = some c := by
  rw [State.aeCmd_setCmd, h, Option.map_some, if_pos (State.aeCmd_id h)]

theorem State.aeCmd_setCmd_ne (s : State) (p : Nat) (c : AeCmd) {i : Nat} (h : i ≠ c.id) :
    (s.setCmd p c).aeCmd p i = s.aeCmd p i := by
  rw [State.aeCmd_setCmd]
  rcases e : s.aeCmd p i with _ | d
  · rfl
  · rw [Option.map_some, if_neg (by rw [State.aeCmd_id e]; exact h)]

theorem State.aeCmd_delCmd_self (s : State) (p i : Nat) : (s.delCmd p i).aeCmd p i = none := by
  unfold State.aeCmd State.delCmd
  rw [State.ae_setAe_self]
  exact List.find?_eq_none.2 fun d h => by simpa using (List.mem_filter.1 h).2

/-! ### Frames of the access engine's commands -/

/-- Naming a cycle of its die completes the frame of a step on the access engines. -/
theorem State.clock_aesFrame {s u : State} (rest : u = { s with aes := u.aes }) (d x : Nat) :
    u.clock d x = { s with aes := (u.clock d x).aes, dies := (u.clock d x).dies } := by
  rw [u.clock_eq, rest]

/-- The same of a step on the access engines and some registers. -/
theorem State.clock_aesRegs {s u : State} (rest : u = { s with regs := u.regs, aes := u.aes }) (d x : Nat) :
    u.clock d x = { s with regs := (u.clock d x).regs, aes := (u.clock d x).aes, dies := (u.clock d x).dies } := by
  rw [u.clock_eq, rest]

/-- Core p's access engine becomes a, in cycle x, and nothing else of the machine changes but the die's cycle. -/
def AeFrame (s t : State) (p : Pos) (x : Nat) (a : AccessEngine) : Prop :=
  t.ae p = a ∧ (∀ j, j ≠ p.val → t.ae j = s.ae j) ∧ ClockedTo s t (dieOf p) x ∧ t = { s with aes := t.aes, dies := t.dies }

theorem aeFrame_setAe (s : State) (p : Pos) (x : Nat) (a : AccessEngine) : AeFrame s ((s.setAe p a).clock (dieOf p) x) p x a :=
  ⟨by simp, fun j n => by simp [State.ae_setAe_ne _ _ _ _ n], State.clockedTo_of_dies rfl _ _, State.clock_aesFrame rfl _ _⟩

/-! ### Quota and merging (R115, R121) -/

theorem exec_quotaRelease {s : State} {p : Pos} {c : AeCmd} (x : Nat) (h : s.aeCmd p c.id = some c) (held : c.phase = .hold)
    (quota : s.quotaAllows p c = true) :
    exec (.quotaRelease p x c.id) s = .next ((s.setCmd p { c with phase := .wait }).clock (dieOf p) x) := by
  show execQuotaRelease p x c.id s = _
  unfold execQuotaRelease
  rw [h]
  exact State.when_true _ _ (by simp [held, quota])

theorem exec_mergeTimeout {s : State} {p : Pos} {x : Nat} (h : ∃ c ∈ (s.ae p).cmds, c.phase = .merge ∧ c.issue + 32 ≤ x) :
    exec (.mergeTimeout p x) s = .next ((s.mergeStop p).clock (dieOf p) x) :=
  State.when_true _ _ (by simpa using h)

/-! ### Tokens (R117) -/

/-- The state of a refill once the bucket has gained its tokens. -/
def State.refilled (s : State) (p : Nat) : State :=
  s.setAe p { s.ae p with level := min ((s.ae p).burst * 8192) ((s.ae p).level + (s.ae p).rate) }

/-- A refill fills the bucket, counts stalls, and moves some commands to the holding queue. -/
theorem State.doTokenRefill_eq (s : State) (p : Nat) : ∃ n m move,
    let u := ((s.refilled p).bump (R.AE_CNT_QUOTA_STALL p) n).bump (R.AE_CNT_REG_STALL p) m
    s.doTokenRefill p = u.setAe p { (s.refilled p).ae p with
      cmds := (s.ae p).cmds.map fun c => if List.contains move c.id then { c with phase := .hold } else c } := by
  have none (u : State) (a : Nat) : u.bump a 0 = u := rfl
  unfold State.doTokenRefill
  extract_lets a u waits held noQuota v tokens w move b
  have hv : ∃ n, v = u.bump (R.AE_CNT_QUOTA_STALL p) n := by
    unfold v
    split
    · exact ⟨0, rfl⟩
    · exact ⟨1, rfl⟩
  have hw : ∃ m, w = v.bump (R.AE_CNT_REG_STALL p) m := by
    unfold w
    split
    · exact ⟨1, rfl⟩
    · exact ⟨0, rfl⟩
  obtain ⟨n, hv⟩ := hv
  obtain ⟨m, hw⟩ := hw
  have hb : b = (s.refilled p).ae p := by unfold b; rw [hw, hv, State.ae_bump, State.ae_bump]; rfl
  have hc : b.cmds = (s.ae p).cmds := by rw [hb]; simp [State.refilled]
  refine ⟨n, m, move, ?_⟩
  dsimp only
  rw [hc, hb, hw, hv]
  rfl

theorem State.relayStall_eq (s : State) (p : Nat) : ∃ n, s.relayStall p = s.bump (R.AE_CNT_RELAY_STALL p) n := by
  unfold State.relayStall
  split
  · exact ⟨0, rfl⟩
  split
  · exact ⟨0, rfl⟩
  · exact ⟨1, rfl⟩

/-- Settles O24: a refill is its bucket and its counters; the other two events change commands of one list. -/
theorem tokensQuotaAndMerging : Obligations.TokensQuotaAndMerging := by
  unfold Obligations.TokensQuotaAndMerging
  intro p x s
  refine ⟨?tokens, fun c h held quota => ?quota, fun h => ?merging⟩
  case tokens =>
    obtain ⟨n, m, move, e⟩ := s.doTokenRefill_eq p
    obtain ⟨k, e'⟩ := (s.doTokenRefill p).relayStall_eq p
    have ran : exec (.tokenRefill p x) s = .next (((s.doTokenRefill p).relayStall p).clock (dieOf p) x) := rfl
    rw [e', e] at ran
    refine ⟨_, ran, by simp [State.refilled], ?_, fun j h => ?_, fun a h => ?_, ?_, ?_⟩
    · rw [State.ae_clock, State.ae_bump, State.ae_setAe_self, List.map_map]
      exact List.map_congr_left fun c _ => by dsimp only [Function.comp]; split <;> rfl
    · simp [State.refilled, State.ae_setAe_ne _ _ _ _ h]
    · simp only [List.mem_cons, List.not_mem_nil, or_false, not_or] at h
      obtain ⟨quota, reg, relay⟩ := h
      rw [State.rd_clock, State.rd_bump_ne _ _ _ _ relay, State.rd_setAe, State.rd_bump_ne _ _ _ _ reg,
        State.rd_bump_ne _ _ _ _ quota]
      rfl
    · exact State.clockedTo_of_dies (by simp [State.refilled]) _ _
    · refine State.clock_aesRegs ?_ _ _
      rw [State.bump_eq, State.bump_eq, State.bump_eq]
      rfl
  case quota =>
    refine ⟨_, exec_quotaRelease x h held quota, ?_, fun i n => ?_, fun j n => ?_, State.clockedTo_of_dies rfl _ _,
      State.clock_aesFrame rfl _ _⟩
    · rw [State.aeCmd_clock]; exact State.aeCmd_setCmd_self (c := { c with phase := .wait }) h
    · rw [State.aeCmd_clock]; exact State.aeCmd_setCmd_ne _ _ _ n
    · rw [State.ae_clock, State.ae_setCmd_ne _ _ _ n]
  case merging => exact ⟨_, exec_mergeTimeout h, aeFrame_setAe s p x _⟩

/-! ### A command joins the list (R114, R121) -/

/-- No command of core p's list waits for partners to merge with. -/
def NoneMerging (s : State) (p : Nat) : Prop := ∀ c ∈ (s.ae p).cmds, c.phase ≠ .merge

theorem State.ae_mergeStop_self {s : State} {p : Nat} (h : NoneMerging s p) : (s.mergeStop p).ae p = s.ae p := by
  have same : ((s.ae p).cmds.map fun c => if c.phase = .merge then { c with phase := .wait } else c) = (s.ae p).cmds :=
    (List.map_congr_left fun c m => if_neg (h c m)).trans (List.map_id' _)
  unfold State.mergeStop
  rw [State.ae_setAe_self, same]

theorem State.ae_mergeStop_ne (s : State) (p : Nat) {j : Nat} (h : j ≠ p) : (s.mergeStop p).ae j = s.ae j :=
  State.ae_setAe_ne _ _ _ _ h

theorem State.listFull_false {s : State} {p : Nat} (h : (s.ae p).cmds.length < 512) : s.listFull p = false := by
  unfold State.listFull
  simpa using h

/-- A command once the fences of its list have looked at it: a fence that first holds a later one starts its watchdog
(R203). -/
def AeCmd.watched (c : AeCmd) (l : List AeCmd) (time limit : Nat) : AeCmd :=
  if c.kind.isFence ∧ c.watch = none ∧ l.any (fun d => decide (c.id < d.id)) = true then
    { c with watch := some time, limit := limit }
  else c

section
variable (c : AeCmd) (l : List AeCmd) (time limit : Nat)

@[simp] theorem AeCmd.watched_issue : (c.watched l time limit).issue = c.issue := by unfold AeCmd.watched; split <;> rfl

@[simp] theorem AeCmd.watched_id : (c.watched l time limit).id = c.id := by unfold AeCmd.watched; split <;> rfl
@[simp] theorem AeCmd.watched_kind : (c.watched l time limit).kind = c.kind := by unfold AeCmd.watched; split <;> rfl
theorem AeCmd.watched_of_not_fence {c : AeCmd} (h : c.kind.isFence = false) : c.watched l time limit = c :=
  if_neg (by simp [h])

end

/-- The list of core p with a command added at its end. -/
def State.queued (s : State) (p : Nat) (c : AeCmd) : List AeCmd := (s.ae p).cmds ++ [{ c with id := (s.ae p).nextId }]

theorem State.ae_aeAdd_self (s : State) (p : Nat) (c : AeCmd) : (s.aeAdd p c).2.ae p = { s.ae p with
    cmds := (s.queued p c).map fun d => d.watched (s.queued p c) s.time s.wdDefault, nextId := (s.ae p).nextId + 1 } := by
  unfold State.aeAdd State.fenceWatch
  simp only [State.ae_setAe_self]
  rfl

theorem State.ae_aeAdd_ne (s : State) (p : Nat) (c : AeCmd) {j : Nat} (h : j ≠ p) : (s.aeAdd p c).2.ae j = s.ae j :=
  (State.ae_setAe_ne _ _ _ _ h).trans (State.ae_setAe_ne _ _ _ _ h)

/-- From s to t a command of core p has got ready to join its list: its tile queues, its count of prefetches and, in
form only, its list may have changed. -/
structure ReadyToJoin (p : Nat) (s t : State) : Prop where
  own : ∃ tqs, t.ae p = { s.ae p with tqs := tqs }
  others : ∀ j, j ≠ p → t.ae j = s.ae j
  rd : ∀ a, a ≠ R.AE_PF_ISSUED p → t.rd a = s.rd a
  rest : t = { s with regs := t.regs, aes := t.aes }

namespace ReadyToJoin
variable {p : Nat} {s t u : State}

theorem refl (p : Nat) (s : State) : ReadyToJoin p s s := ⟨⟨_, rfl⟩, fun _ _ => rfl, fun _ _ => rfl, rfl⟩

theorem trans (h : ReadyToJoin p s t) (k : ReadyToJoin p t u) : ReadyToJoin p s u := by
  obtain ⟨tqs, own⟩ := h.own
  obtain ⟨tqs', own'⟩ := k.own
  exact ⟨⟨tqs', by rw [own', own]⟩, fun j n => (k.others j n).trans (h.others j n),
    fun a n => (k.rd a n).trans (h.rd a n), by rw [k.rest, h.rest]⟩

theorem setTq (h : ReadyToJoin p s t) (q : Nat) (v : TileQueue) : ReadyToJoin p s (t.setTq p q v) :=
  h.trans ⟨⟨_, State.ae_setAe_self ..⟩, fun _ n => State.ae_setAe_ne _ _ _ _ n, fun _ _ => rfl, rfl⟩

theorem count (h : ReadyToJoin p s t) (n : Nat) : ReadyToJoin p s (t.bump (R.AE_PF_ISSUED p) n) :=
  h.trans ⟨⟨_, State.ae_bump ..⟩, fun _ _ => State.ae_bump .., fun _ n => State.rd_bump_ne _ _ _ _ n, by
    rw [State.bump_eq]⟩

theorem mergeStop (h : ReadyToJoin p s t) (none : NoneMerging t p) : ReadyToJoin p s (t.mergeStop p) :=
  h.trans ⟨⟨_, State.ae_mergeStop_self none⟩, fun _ n => State.ae_mergeStop_ne _ _ n, fun _ _ => rfl, rfl⟩

theorem cmds (h : ReadyToJoin p s t) : (t.ae p).cmds = (s.ae p).cmds := by
  obtain ⟨tqs, own⟩ := h.own
  rw [own]

theorem noneMerging (h : ReadyToJoin p s t) (none : NoneMerging s p) : NoneMerging t p := by
  unfold NoneMerging
  rwa [h.cmds]

end ReadyToJoin

/-- The command c as it stands at the end of the list it has joined. -/
def State.joining (s t : State) (p : Nat) (c : AeCmd) : AeCmd :=
  { c with id := (s.ae p).nextId }.watched (t.queued p c) t.time t.wdDefault

theorem State.joining_of_not_fence (s t : State) (p : Nat) {c : AeCmd} (h : c.kind.isFence = false) :
    s.joining t p c = { c with id := (s.ae p).nextId } := AeCmd.watched_of_not_fence _ _ _ h

/-- A command that is ready joins the list at its end. -/
theorem joined_aeAdd {s t : State} {p : Pos} {x : Nat} (h : ReadyToJoin p s t) {c : AeCmd} (issue : c.issue = x) :
    Joined s ((t.aeAdd p c).2.clock (dieOf p) x) p x (s.joining t p c) := by
  obtain ⟨tqs, own⟩ := h.own
  have ae : ((t.aeAdd p c).2.clock (dieOf p) x).ae p = { s.ae p with
      tqs := tqs, nextId := (s.ae p).nextId + 1
      cmds := (t.queued p c).map fun d => d.watched (t.queued p c) t.time t.wdDefault } := by
    rw [State.ae_clock, State.ae_aeAdd_self, own]
  have queued : t.queued p c = (s.ae p).cmds ++ [{ c with id := (s.ae p).nextId }] := by unfold State.queued; rw [own]
  have dies : (t.aeAdd p c).2.dies = s.dies := by rw [show (t.aeAdd p c).2.dies = t.dies from rfl, h.rest]
  refine ⟨?ids, ?last, by simp [State.joining], by simp [State.joining, issue], by rw [ae], by rw [ae], by rw [ae],
    by rw [ae], by rw [ae], fun j n => ?others, fun a n => ?regs, State.clockedTo_of_dies dies _ _,
    State.clock_aesRegs ?rest _ _⟩
  case ids =>
    have same : (fun d : AeCmd => d.id) ∘ (fun d : AeCmd => d.watched (t.queued p c) t.time t.wdDefault) =
        fun d : AeCmd => d.id :=
      funext fun d => AeCmd.watched_id ..
    rw [ae, List.map_map, same, queued, List.map_append]
    rfl
  case last =>
    rw [ae, List.getLast?_map]
    unfold State.joining
    rw [queued, List.getLast?_concat]
    rfl
  case others => rw [State.ae_clock, State.ae_aeAdd_ne _ _ _ n, h.others j n]
  case regs => rw [State.rd_clock]; exact h.rd a n
  case rest =>
    calc (t.aeAdd p c).2 = { t with regs := (t.aeAdd p c).2.regs, aes := (t.aeAdd p c).2.aes } := rfl
      _ = _ := by rw [h.rest]

/-- The phase of a command that has just joined: it waits for partners where it may merge. -/
def State.joinPhase (s : State) (p : Nat) (c : AeCmd) : AePhase := if s.mergeable p c then .merge else .wait

/-- Where nothing waits for partners, an issued command is added. -/
theorem State.aeIssue_alone {s : State} {p : Nat} (h : NoneMerging s p) (c : AeCmd) :
    s.aeIssue p c = ((s.mergeStop p).aeAdd p { c with phase := s.joinPhase p c }).2 := by
  have leader : (s.ae p).cmds.find? (fun d => d.phase == .merge) = none :=
    List.find?_eq_none.2 fun d m => by simpa using h d m
  unfold State.aeIssue
  simp only [leader, Option.bind_none, ite_self]
  rfl

/-- An issued command joins the list at its end. -/
theorem joined_aeIssue {s t : State} {p : Pos} {x : Nat} (h : ReadyToJoin p s t) (none : NoneMerging s p) {c : AeCmd}
    (issue : c.issue = x) (kind : c.kind.isFence = false) :
    Joined s ((t.aeIssue p c).clock (dieOf p) x) p x { c with id := (s.ae p).nextId, phase := t.joinPhase p c } := by
  have alone : NoneMerging t p := h.noneMerging none
  have joined := joined_aeAdd (h.mergeStop alone) (c := { c with phase := t.joinPhase p c }) issue
  rwa [State.joining_of_not_fence _ _ _ (c := { c with phase := t.joinPhase p c }) kind, ← State.aeIssue_alone alone] at joined

/-- A command of a kind that never merges waits for a slot at once. -/
theorem State.joinPhase_of_kind (s : State) (p : Nat) {c : AeCmd} (h : (c.kind == .fetch || c.kind == .put) = false) :
    s.joinPhase p c = .wait := if_neg (by unfold State.mergeable; rw [h]; simp)

theorem State.joinPhase_of_off {s : State} {p : Nat} (h : s.f (R.AE_CTL p) F.AE_CTL_MERGE_EN = 0) (c : AeCmd) :
    s.joinPhase p c = .wait := if_neg (by unfold State.mergeable; rw [h]; simp)

/-! ### Fences, tile.drop and tile.unpin (R129, R150) -/

theorem exec_fence {s : State} {p : Pos} (ready : ListReady s p) (x : Nat) {i : Instr} {k : AeKind}
    (run : exec i s = .next ((s.doFence p x k).clock (dieOf p) x)) :
    ∃ t c, exec i s = .next t ∧ Joined s t p x c ∧ c.kind = k := by
  obtain ⟨room, none⟩ := ready
  have e : s.doFence p x k = ((s.mergeStop p).aeAdd p (AeCmd.new k x (s.heatTag p x))).2 :=
    if_neg (by simp [State.listFull_false room])
  rw [e] at run
  exact ⟨_, _, run, joined_aeAdd (ReadyToJoin.mergeStop (.refl p s) none) rfl, AeCmd.watched_kind ..⟩

/-- The access engine of core p once `tile.drop` has dropped its key range. -/
def State.dropped (s : State) (p : Nat) (o : AeSlot) : AccessEngine :=
  { s.ae p with
    cache := (s.ae p).cache.filter fun e => !s.keyRange p o e.key
    cmds := (s.ae p).cmds.map fun c => if c.cache && s.keyRange p o c.key then { c with noInsert := true } else c }

/-- The entries of `tile.drop`'s range that nothing has read. -/
def State.droppedUnused (s : State) (p : Nat) (o : AeSlot) : Nat :=
  ((s.ae p).cache.filter fun e => s.keyRange p o e.key && !e.used).length

theorem State.doTileDrop_eq {s : State} {p : Pos} (ready : ListReady s p) (x : Nat) (o : AeSlot) :
    ∃ u : State, u = { s with aes := u.aes } ∧ (∀ j, j ≠ p.val → u.ae j = s.ae j) ∧
      s.doTileDrop p x o = (u.bump (R.AE_PF_EVICTED_UNUSED p) (s.droppedUnused p o)).setAe p (s.dropped p o) := by
  obtain ⟨room, none⟩ := ready
  have own := State.ae_mergeStop_self none
  refine ⟨(s.mergeStop p).setAe p { s.ae p with cache := (s.ae p).cache.filter fun e => !s.keyRange p o e.key }, rfl,
    fun j n => by rw [State.ae_setAe_ne _ _ _ _ n, State.ae_mergeStop_ne _ _ n], ?_⟩
  unfold State.doTileDrop State.cacheDrop
  rw [if_neg (by simp [State.listFull_false room])]
  dsimp only
  rw [State.ae_bump, State.ae_setAe_self, own]
  rfl

theorem exec_tileDrop {s : State} {p : Pos} {x : Nat} {o : AeSlot} (wf : o.keysWf = true) (ok : s.aeOk p o = true) :
    exec (.tileDrop p x o) s = .next ((s.doTileDrop p x o).clock (dieOf p) x) :=
  State.whenWf_true _ _ (by rw [wf, ok]; rfl) rfl

theorem exec_tileUnpin {s : State} {p : Pos} {x : Nat} {o : AeSlot} (wf : o.keysWf = true) (ok : s.aeOk p o = true) :
    exec (.tileUnpin p x o) s = .next ((s.doTileUnpin p x o).clock (dieOf p) x) :=
  State.whenWf_true _ _ (by rw [wf, ok]; rfl) rfl

/-- Settles O18: a fence is added to the list; the key ranges change one access engine and, for a drop, its counter. -/
theorem fencesAndKeysIssue : Obligations.FencesAndKeysIssue := by
  unfold Obligations.FencesAndKeysIssue
  intro p x o s ready
  refine ⟨exec_fence ready x (k := .fenceLocal) rfl, exec_fence ready x (k := .fenceFabric) rfl, fun wf ok =>
    ⟨?drop, ?unpin⟩⟩
  case drop =>
    obtain ⟨u, rest, others, e⟩ := s.doTileDrop_eq ready x o
    have ran := exec_tileDrop (x := x) wf ok
    rw [e] at ran
    refine ⟨_, ran, by rw [State.ae_clock, State.ae_setAe_self]; rfl, ?_, fun a n => ?_, fun j n => ?_, ?_, ?_⟩
    · rw [State.rd_clock, State.rd_setAe, State.rd_bump_self, rest]; rfl
    · rw [State.rd_clock, State.rd_setAe, State.rd_bump_ne _ _ _ _ n, rest]; rfl
    · rw [State.ae_clock, State.ae_setAe_ne _ _ _ _ n, State.ae_bump, others j n]
    · exact State.clockedTo_of_dies (by rw [State.setAe_dies, State.bump_dies, rest]) _ _
    · refine State.clock_aesRegs ?_ _ _
      rw [State.bump_eq, rest]
      rfl
  case unpin =>
    obtain ⟨room, none⟩ := ready
    have e : s.doTileUnpin p x o = (s.mergeStop p).setAe p { s.ae p with
        cache := (s.ae p).cache.map fun e => if s.keyRange p o e.key then { e with pin := false } else e } := by
      unfold State.doTileUnpin
      rw [if_neg (by simp [State.listFull_false room])]
      dsimp only
      rw [State.ae_mergeStop_self none]
    have ran := exec_tileUnpin (x := x) wf ok
    rw [e] at ran
    refine ⟨_, ran, by rw [State.ae_clock, State.ae_setAe_self], fun j n => ?_, State.clockedTo_of_dies rfl _ _,
      State.clock_aesFrame rfl _ _⟩
    rw [State.ae_clock, State.ae_setAe_ne _ _ _ _ n, State.ae_mergeStop_ne _ _ n]

/-! ### Remote atomics (R227, R228) -/

/-- An atomic as it joins the list. -/
def State.atomCmd (s : State) (p x op : Nat) (o : AeSlot) (va vb : Word) : AeCmd :=
  { s.aeNew p x (.atomic op) o with
    far := BitVec.ofNat 64 (s.farOf p o.a).addr, len := 8, loc := (s.locOf p o.b).1, last := if o.b.isLocal then 1 else 0
    va := va, vb := vb }

theorem joined_atomRes {s : State} {p : Pos} {x op : Nat} {o : AeSlot} (ready : ListReady s p) (ok : s.aeOk p o = true)
    (wf : o.atomWf (op == 7) = true) : ∃ t va vb, s.atomRes p x op o = .next t ∧
      Joined s t p x { s.atomCmd p x op o va vb with id := (s.ae p).nextId, phase := .wait } ∧
      va = (if op = 7 then BitVec.ofNat 64 (s.value p o.c) else s.atomVal p op o.c) ∧
      ∀ n b, o.c = .prm n b → op = 7 → vb = BitVec.ofNat 64 (s.prm p (n.val + 1)) := by
  obtain ⟨room, none⟩ := ready
  have ran : s.atomRes p x op o = .next ((s.doAtom p x op o).clock (dieOf p) x) :=
    State.whenWf_true _ _ (by rw [wf, ok]; rfl) rfl
  unfold State.doAtom at ran
  rw [if_neg (by simp [State.listFull_false room])] at ran
  extract_lets f va vb at ran
  have joined := joined_aeIssue (.refl p s) none (c := s.atomCmd p x op o va vb) (x := x) rfl rfl
  rw [State.joinPhase_of_kind _ _ (c := s.atomCmd p x op o va vb) rfl] at joined
  refine ⟨_, va, vb, ran, joined, rfl, fun n b h h7 => ?_⟩
  unfold vb
  rw [h]
  exact if_pos h7

/-- Settles O17: every atomic is issued by `doAtom`, which differs among them by its number alone. -/
theorem remoteAtomicsJoin : Obligations.RemoteAtomicsJoin := by
  unfold Obligations.RemoteAtomicsJoin
  intro p x o s ready ok
  refine ⟨fun q hq wf => ?plain, fun wf => ?cas⟩
  case plain =>
    have run : exec q.1 s = s.atomRes p x q.2 o ∧ q.2 < 7 := by
      simp only [List.mem_cons, List.not_mem_nil, or_false] at hq
      rcases hq with rfl | rfl | rfl | rfl | rfl | rfl | rfl <;> exact ⟨rfl, by simp⟩
    obtain ⟨ran, small⟩ := run
    have ne : q.2 ≠ 7 := by omega
    have plain : (q.2 == 7) = false := by simpa using ne
    obtain ⟨t, va, vb, e, joined, hva, -⟩ := joined_atomRes (op := q.2) (x := x) ready ok (by rw [plain]; exact wf)
    refine ⟨t, _, ran.trans e, joined, rfl, rfl, rfl, rfl, rfl, ?_, rfl, rfl, rfl, hva.trans (if_neg ne)⟩
    show (if o.b.isLocal = true then 1 else 0) = 1 ↔ o.b.isLocal = true
    split <;> simp [*]
  case cas =>
    obtain ⟨t, va, vb, e, joined, hva, hvb⟩ := joined_atomRes (op := 7) (x := x) ready ok wf
    refine ⟨t, _, e, joined, rfl, rfl, rfl, rfl, rfl, fun n b h => ⟨?_, hvb n b h rfl⟩⟩
    show va = _
    rw [hva, h]
    rfl

/-! ### Tile queues (R116) -/

theorem State.tq_setTq_self (s : State) (p : Nat) {q : Nat} (v : TileQueue) (h : q < (s.ae p).tqs.length) :
    (s.setTq p q v).tq p q = v := by
  unfold State.tq State.setTq
  rw [State.ae_setAe_self]
  simp [List.getD_eq_getElem?_getD, h]

theorem State.tq_congr {s t : State} {p : Nat} (h : (t.ae p).tqs = (s.ae p).tqs) (q : Nat) : t.tq p q = s.tq p q := by
  unfold State.tq; rw [h]

/-- A reserved slot is the tail's, and counts. -/
theorem TileQueue.reserve_some {t t' : TileQueue} {r : Nat} (h : t.reserve = some (r, t')) :
    r = t.tail ∧ t'.reserved = t.reserved + 1 := by
  unfold TileQueue.reserve at h
  split at h
  · cases h; exact ⟨rfl, rfl⟩
  · cases h

/-- A destination is had: a local operand as it stands, or the tail slot of a queue, which is reserved. -/
theorem State.takeDest_some {s u : State} {p : Nat} {o : AeSlot} {b : Opnd} {d : Dest} (h : s.takeDest p o b = some (d, u)) :
    (o.tq = none ∧ u = s) ∨ ∃ q v, o.tq = some q ∧ v.reserved = (s.tq p q.val).reserved + 1 ∧ u = s.setTq p q.val v := by
  unfold State.takeDest at h
  split at h
  next tq => cases h; exact .inl ⟨tq, rfl⟩
  next q tq =>
    dsimp only at h
    split at h
    · cases h
    split at h
    · cases h
    next r t' e =>
      cases h
      obtain ⟨-, reserved⟩ := TileQueue.reserve_some e
      exact .inr ⟨q, _, tq, by exact reserved, rfl⟩

theorem State.takeDest_ready {s u : State} {p : Nat} {o : AeSlot} {b : Opnd} {d : Dest} (h : s.takeDest p o b = some (d, u)) :
    ReadyToJoin p s u := by
  rcases State.takeDest_some h with ⟨-, rfl⟩ | ⟨q, v, -, -, rfl⟩
  · exact .refl p u
  · exact (ReadyToJoin.refl p s).setTq q v

/-- A prediction gives a fetch its place in its queue's replay, says whether it probes, and counts the fetch (R126). -/
theorem State.predictFor_eq (s : State) (p : Nat) (c : AeCmd) :
    ∃ z b u, s.predictFor p c = ({ c with zpos := z, zprobe := b }, u) ∧
      (u = s ∨ ∃ q n, u = s.setTq p q { s.tq p q with pos := n }) := by
  unfold State.predictFor
  split
  next => exact ⟨c.zpos, c.zprobe, s, rfl, .inl rfl⟩
  next q _ =>
    extract_lets t u own probe
    have counted : u = s.setTq p q { s.tq p q with pos := t.pos + 1 } := rfl
    split
    · exact ⟨c.zpos, c.zprobe, s, rfl, .inl rfl⟩
    split
    · exact ⟨c.zpos, c.zprobe, u, rfl, .inr ⟨q, _, counted⟩⟩
    · exact ⟨some t.pos, probe, u, rfl, .inr ⟨q, _, counted⟩⟩

theorem State.reserved_setTq_pos (s : State) (p q n k : Nat) :
    ((s.setTq p q { s.tq p q with pos := n }).tq p k).reserved = (s.tq p k).reserved := by
  unfold State.tq State.setTq
  rw [State.ae_setAe_self]
  simp only [List.getD_eq_getElem?_getD, List.getElem?_set]
  split
  · subst_vars
    split
    · simp [*]
    · simp [*]
  · rfl

theorem State.tq_aeIssue_alone {s : State} {p : Nat} (h : NoneMerging s p) (c : AeCmd) (q : Nat) :
    (s.aeIssue p c).tq p q = s.tq p q := by
  refine State.tq_congr ?_ q
  rw [State.aeIssue_alone h, State.ae_aeAdd_self, State.ae_mergeStop_self h]

/-! ### Tile commands as they join (R113, R125, R126, R198) -/

section
variable (s : State) (p x : Nat) (o : AeSlot) (d : Dest)

/-- A fetch, gather, relay and put as they join the list, before a fetch's or relay's prediction. A put reads its local
operand, or the next slot of its outbound queue that no put has claimed. -/
def State.fetchCmd : AeCmd :=
  { s.aeNew p x .fetch o with
    q := d.q, ring := d.ring, qgen := d.gen, loc := d.loc, sbLoc := d.sbLoc, far := BitVec.ofNat 64 (s.farOf p o.a).addr
    len := (s.farOf p o.a).len, key := BitVec.ofNat 64 (s.farOf p o.a).addr, version := (s.farOf p o.a).version.toNat
    sb := if d.q.isSome then none else s.sideBand p o.c }

def State.gatherCmd : AeCmd :=
  { s.aeNew p x .gather o with
    q := d.q, ring := d.ring, qgen := d.gen, loc := d.loc, len := 8192, key := BitVec.ofNat 64 (s.farOf p o.c).addr
    version := (s.farOf p o.c).version.toNat, last := min 128 ((s.farOf p o.c).len / 64), sbLoc := (s.locOf p o.a).1 }

def State.relayCmd (last : Nat) : AeCmd :=
  { s.aeNew p x .relay o with
    q := d.q, ring := d.ring, qgen := d.gen, loc := d.loc, far := BitVec.ofNat 64 (s.farOf p o.a).addr
    len := (s.farOf p o.a).len, key := BitVec.ofNat 64 (s.farOf p o.a).addr, version := (s.farOf p o.a).version.toNat
    last := last }

def State.putCmd : AeCmd :=
  { s.aeNew p x .put o with
    far := BitVec.ofNat 64 (s.farOf p o.b).addr, len := (s.farOf p o.b).len, exp := s.expOf p o
    q := o.tq.map (·.val)
    ring := match o.tq with | none => 0 | some q => ((s.tq p q).head + (s.tq p q).claimed) % (s.tq p q).depth
    qgen := match o.tq with | none => 0 | some q => (s.tq p q).gen
    loc := match o.tq with
      | none => (s.locOf p o.a).1
      | some q => (s.tq p q).slotBase (((s.tq p q).head + (s.tq p q).claimed) % (s.tq p q).depth)
    sbLoc := match o.tq with | none => (s.locOf p o.a).2 | some _ => 0
    sb := match o.tq with | none => s.sideBand p o.c | some _ => none }

end

/-- A command whose destination was had joins the list, once a prediction and a count of prefetches are made. -/
theorem joined_predicted {s t u : State} {p : Pos} {x : Nat} (h : ReadyToJoin p s u) (none : NoneMerging s p) {c : AeCmd}
    (issue : c.issue = x) (kind : c.kind.isFence = false)
    (pred : ∃ n, t = ((u.predictFor p c).2.bump (R.AE_PF_ISSUED p) n).aeIssue p (u.predictFor p c).1) : ∃ z b m,
    Joined s (t.clock (dieOf p) x) p x { c with zpos := z, zprobe := b, id := (s.ae p).nextId, phase := m } ∧
      (s.f (R.AE_CTL p) F.AE_CTL_MERGE_EN = 0 ∨ (c.kind == .fetch || c.kind == .put) = false → m = .wait) ∧
      ∀ q, ((t.clock (dieOf p) x).tq p q).reserved = (u.tq p q).reserved := by
  obtain ⟨n, rfl⟩ := pred
  obtain ⟨z, b, v, e, hv⟩ := u.predictFor_eq p c
  rw [e]
  have ready : ReadyToJoin p s (v.bump (R.AE_PF_ISSUED p) n) := by
    refine ReadyToJoin.count ?_ n
    rcases hv with rfl | ⟨q, k, rfl⟩
    · exact h
    · exact h.setTq q _
  have merge : (v.bump (R.AE_PF_ISSUED p) n).f (R.AE_CTL p) F.AE_CTL_MERGE_EN = s.f (R.AE_CTL p) F.AE_CTL_MERGE_EN :=
    State.f_congr (ready.rd _ (by simp only [R.AE_CTL, R.AE_PF_ISSUED]; omega)) _
  refine ⟨z, b, _, joined_aeIssue ready none (c := { c with zpos := z, zprobe := b }) issue kind, fun h => ?_, fun q => ?_⟩
  · rcases h with off | other
    · exact State.joinPhase_of_off (merge.trans off) _
    · exact State.joinPhase_of_kind _ _ other
  · rw [State.tq_clock, State.tq_aeIssue_alone (ready.noneMerging none), State.tq_bump]
    rcases hv with rfl | ⟨k, n, rfl⟩
    · rfl
    · exact State.reserved_setTq_pos ..

section
variable {s u : State} {p : Pos} {x : Nat} {o : AeSlot} {d : Dest}

theorem joined_tileFetch (ready : ListReady s p) (ok : s.aeOk p o = true) (wf : o.fetchWf = true)
    (dest : s.takeDest p o o.b = some (d, u)) : ∃ t z b m, exec (.tileFetch p x o) s = .next t ∧
      Joined s t p x { s.fetchCmd p x o d with zpos := z, zprobe := b, id := (s.ae p).nextId, phase := m } ∧
      (s.f (R.AE_CTL p) F.AE_CTL_MERGE_EN = 0 → m = .wait) ∧ ∀ q, (t.tq p q).reserved = (u.tq p q).reserved := by
  obtain ⟨room, none⟩ := ready
  have ran : exec (.tileFetch p x o) s = .next ((s.doTileFetch p x o).clock (dieOf p) x) :=
    State.whenWf_true _ _ (by rw [wf, ok]; rfl) rfl
  have cmd : u.fetchCmd p x o d = s.fetchCmd p x o d := by
    rcases State.takeDest_some dest with ⟨-, rfl⟩ | ⟨q, v, -, -, rfl⟩ <;> rfl
  have e : ∃ n, s.doTileFetch p x o = ((u.predictFor p (s.fetchCmd p x o d)).2.bump (R.AE_PF_ISSUED p) n).aeIssue p
      (u.predictFor p (s.fetchCmd p x o d)).1 := by
    rw [← cmd]
    unfold State.doTileFetch
    rw [if_neg (by simp [State.listFull_false room]), dest]
    dsimp only
    split
    · exact ⟨1, rfl⟩
    · exact ⟨0, rfl⟩
  obtain ⟨z, b, m, joined, wait, reserved⟩ := joined_predicted (State.takeDest_ready dest) none (c := s.fetchCmd p x o d)
    (x := x) rfl rfl e
  exact ⟨_, z, b, m, ran, joined, fun off => wait (.inl off), reserved⟩

theorem joined_tileRelay (ready : ListReady s p) (ok : s.aeOk p o = true) (wf : o.relayWf = true)
    (dest : s.takeDest p o o.b = some (d, u)) : ∃ t z b last, exec (.tileRelay p x o) s = .next t ∧
      Joined s t p x { s.relayCmd p x o d last with zpos := z, zprobe := b, id := (s.ae p).nextId, phase := .wait } := by
  obtain ⟨room, none⟩ := ready
  have ran : exec (.tileRelay p x o) s = .next ((s.doTileRelay p x o).clock (dieOf p) x) :=
    State.whenWf_true _ _ (by rw [wf, ok]; rfl) rfl
  have cmd (n : Nat) : u.relayCmd p x o d n = s.relayCmd p x o d n := by
    rcases State.takeDest_some dest with ⟨-, rfl⟩ | ⟨q, v, -, -, rfl⟩ <;> rfl
  have e : ∃ last n, s.doTileRelay p x o = ((u.predictFor p (s.relayCmd p x o d last)).2.bump (R.AE_PF_ISSUED p) n).aeIssue p
      (u.predictFor p (s.relayCmd p x o d last)).1 := by
    refine ⟨u.physOf p (u.value p o.b), 1, ?_⟩
    rw [← cmd]
    unfold State.doTileRelay
    rw [if_neg (by simp [State.listFull_false room]), dest]
    rfl
  obtain ⟨last, e⟩ := e
  obtain ⟨z, b, m, joined, wait, -⟩ := joined_predicted (State.takeDest_ready dest) none (c := s.relayCmd p x o d last)
    (x := x) rfl rfl e
  obtain rfl := wait (.inr rfl)
  exact ⟨_, z, b, last, ran, joined⟩

theorem joined_tileGather (ready : ListReady s p) (ok : s.aeOk p o = true) (wf : o.gatherWf = true)
    (dest : s.takeDest p o o.b = some (d, u)) : ∃ t, exec (.tileGather p x o) s = .next t ∧
      Joined s t p x { s.gatherCmd p x o d with id := (s.ae p).nextId, phase := .wait } := by
  obtain ⟨room, none⟩ := ready
  have ran : exec (.tileGather p x o) s = .next ((s.doTileGather p x o).clock (dieOf p) x) :=
    State.whenWf_true _ _ (by rw [wf, ok]; rfl) rfl
  have cmd : u.gatherCmd p x o d = s.gatherCmd p x o d := by
    rcases State.takeDest_some dest with ⟨-, rfl⟩ | ⟨q, v, -, -, rfl⟩ <;> rfl
  have e : ∃ n, s.doTileGather p x o = (u.bump (R.AE_PF_ISSUED p) n).aeIssue p (s.gatherCmd p x o d) := by
    rw [← cmd]
    unfold State.doTileGather
    rw [if_neg (by simp [State.listFull_false room]), dest]
    dsimp only
    split
    · exact ⟨1, rfl⟩
    · exact ⟨0, rfl⟩
  obtain ⟨n, e⟩ := e
  have joined := joined_aeIssue ((State.takeDest_ready dest).count n) none (c := s.gatherCmd p x o d) (x := x) rfl rfl
  rw [State.joinPhase_of_kind _ _ (c := s.gatherCmd p x o d) rfl, ← e] at joined
  exact ⟨_, ran, joined⟩

theorem joined_tilePut (ready : ListReady s p) (ok : s.aeOk p o = true) (wf : o.putWf = true)
    (outbound : ∀ q, o.tq = some q → (s.tq p q).depth ≠ 0 ∧ (s.tq p q).outbound = true) :
    ∃ t m, exec (.tilePut p x o) s = .next t ∧ Joined s t p x { s.putCmd p x o with id := (s.ae p).nextId, phase := m } := by
  obtain ⟨room, none⟩ := ready
  have ran : exec (.tilePut p x o) s = .next ((s.doTilePut p x o).clock (dieOf p) x) :=
    State.whenWf_true _ _ (by rw [wf, ok]; rfl) rfl
  have e : ∃ u, ReadyToJoin p s u ∧ s.doTilePut p x o = u.aeIssue p (s.putCmd p x o) := by
    unfold State.doTilePut State.putCmd
    rw [if_neg (by simp [State.listFull_false room])]
    rcases tq : o.tq with _ | q
    · exact ⟨s, .refl p s, rfl⟩
    · obtain ⟨deep, out⟩ := outbound q tq
      dsimp only
      rw [if_neg (by simp [deep, out])]
      exact ⟨_, (ReadyToJoin.refl p s).setTq q.val _, rfl⟩
  obtain ⟨u, ready, e⟩ := e
  rw [e] at ran
  exact ⟨_, _, ran, joined_aeIssue ready none rfl rfl⟩

end

/-! ### Commands that are discarded (R114, R116) -/

theorem State.ids_mergeStop (s : State) (p : Nat) : ((s.mergeStop p).ae p).cmds.map (·.id) = (s.ae p).cmds.map (·.id) := by
  have same : (fun c : AeCmd => c.id) ∘ (fun c : AeCmd => if c.phase = .merge then { c with phase := .wait } else c) =
      fun c => c.id := by
    funext c
    dsimp only [Function.comp]
    split <;> rfl
  unfold State.mergeStop
  rw [State.ae_setAe_self, List.map_map, same]

/-- Where no heat runs, a discarded command leaves its event and no violation. -/
theorem State.aeDiscard_idle {s : State} {p x : Nat} (idle : (s.heatTag p x).on = false) :
    s.aeDiscard p x = s.setF (R.AE_EVENT p) F.AE_EVENT_CMD_OVERFLOW 1 := by
  have tag : (s.setF (R.AE_EVENT p) F.AE_EVENT_CMD_OVERFLOW 1).heatTag p x = s.heatTag p x := by
    unfold State.heatTag
    rw [State.die_setF]
  unfold State.aeDiscard State.violate
  dsimp only
  rw [tag, idle]
  rfl

theorem discarded {s : State} {p : Pos} {x : Nat} (idle : (s.heatTag p x).on = false) {i : Instr}
    (run : exec i s = .next (((s.mergeStop p).aeDiscard p x).clock (dieOf p) x)) :
    ∃ t, exec i s = .next t ∧ t.f (R.AE_EVENT p) F.AE_EVENT_CMD_OVERFLOW = 1 ∧
      (t.ae p).cmds.map (·.id) = (s.ae p).cmds.map (·.id) := by
  have e : (s.mergeStop p).aeDiscard p x = _ := State.aeDiscard_idle (by exact idle)
  rw [e] at run
  refine ⟨_, run, ?_, ?_⟩
  · rw [State.f_clock]
    exact State.f_setF_of_lt _ _ _ _ (by decide) (by decide)
  · rw [State.ae_clock, State.ae_setF, State.ids_mergeStop]

/-- Settles O16: each command is built from its operands and added to the list, or discarded. -/
theorem tileCommandsJoin : Obligations.TileCommandsJoin := by
  unfold Obligations.TileCommandsJoin
  intro p x o s ok
  refine ⟨fun ready d u dest => ⟨fun wf => ?fetch, fun wf => ?gather, fun wf => ?relay⟩, fun ready wf outbound => ?put,
    fun idle => ⟨fun wf h => ?noFetch, fun wf full => ?noPut⟩⟩
  case fetch =>
    obtain ⟨t, z, b, m, ran, joined, wait, reserved⟩ := joined_tileFetch (x := x) ready ok wf dest
    refine ⟨t, _, ran, joined, rfl, rfl, rfl, rfl, rfl, rfl, rfl, rfl, rfl, rfl, wait, fun q tq queues => ?_⟩
    rcases State.takeDest_some dest with ⟨no, -⟩ | ⟨k, v, tq', more, rfl⟩
    · rw [tq] at no; cases no
    · obtain rfl : q = k := Option.some.inj (tq.symm.trans tq')
      rw [reserved, State.tq_setTq_self _ _ _ (by omega), more]
  case gather =>
    obtain ⟨t, ran, joined⟩ := joined_tileGather (x := x) ready ok wf dest
    exact ⟨t, _, ran, joined, rfl, rfl, rfl, rfl, rfl, rfl, rfl, rfl, rfl⟩
  case relay =>
    obtain ⟨t, z, b, last, ran, joined⟩ := joined_tileRelay (x := x) ready ok wf dest
    exact ⟨t, _, ran, joined, rfl, rfl, rfl, rfl, rfl, rfl, rfl, rfl⟩
  case put =>
    obtain ⟨t, m, ran, joined⟩ := joined_tilePut (x := x) ready ok wf outbound
    refine ⟨t, _, ran, joined, rfl, rfl, rfl, rfl, rfl, rfl, rfl, fun tq => ?_, fun q tq => ?_⟩
    · simp only [State.putCmd, tq]
    · simp only [State.putCmd, tq, Option.map_some, and_self]
  case noFetch =>
    have ran : exec (.tileFetch p x o) s = .next ((s.doTileFetch p x o).clock (dieOf p) x) :=
      State.whenWf_true _ _ (by rw [wf, ok]; rfl) rfl
    have e : s.doTileFetch p x o = (s.mergeStop p).aeDiscard p x := by
      unfold State.doTileFetch
      rcases h with full | none
      · rw [if_pos full]
      · rw [none]
        dsimp only
        exact ite_self _
    exact discarded idle (e ▸ ran)
  case noPut =>
    have ran : exec (.tilePut p x o) s = .next ((s.doTilePut p x o).clock (dieOf p) x) :=
      State.whenWf_true _ _ (by rw [wf, ok]; rfl) rfl
    have e : s.doTilePut p x o = (s.mergeStop p).aeDiscard p x := if_pos full
    exact discarded idle (e ▸ ran)

/-! ### A chain reads its rows (R124) -/

/-- A chain that has read one row more. -/
def ChainRun.withRow (c : ChainRun) (lanes : List W32) : ChainRun := { c with row := c.row + 1, rows := c.rows ++ [lanes] }

/-- The machine once a chain's row is read and counted, and what the row gave. -/
def State.chainRowRead (s : State) (p e x : Nat) (c : ChainRun) (set1 : Bool) : List W32 × State :=
  let rd := s.readRow p e x set1 c.row (x + c.period * (63 - c.row)) none (s.heatTag p x)
  let t := (rd.2.energy (dieOf p) 5 1).bump (R.ENG_CNT_DRAIN_ROWS p e) 1
  (rd.1.map fun w => rne32 (drainVal ((t.eng (engId p e)).intMode set1) w), t)

/-- The rows that the vector unit finished: those the access engine has room for, the others as zeros. -/
def finishedRows (room : Nat) (lanes : List W32) : List (List W32) :=
  ((List.range 8).map fun j => slice lanes (64 * j) 64).mapIdx fun j r => if j < room then r else List.replicate 64 0

/-- A chain's eight held rows pass the vector unit. -/
def State.chainFinish (s : State) (p : Nat) (c : ChainRun) : ChainRun × State :=
  let r := (s.cvu p).epilogue c.epilogue c.rows.flatten
  let t := c.epilogue.foldl (fun (u : State) o => u.energy (dieOf p) (if o.cost = 4 then 7 else 6) o.cost) (s.setCvu p r.2)
  let room := 128 - t.chainRows p
  let lost := decide (room < 8)
  ({ c with rows := [], out := c.out ++ finishedRows room r.1, short := c.short || lost },
    if lost then t.setF (R.AE_EVENT p) F.AE_EVENT_CHAIN_OVERRUN 1 else t)

/-- A chain that holds fewer than eight rows waits; eight pass the vector unit. -/
def State.chainPass (s : State) (p : Nat) (c : ChainRun) : ChainRun × State :=
  if c.rows.length < 8 then (c, s) else s.chainFinish p c

/-- A chain's row is read, and the rows that are eight pass. -/
def State.chainRowOut (s : State) (p e x : Nat) (c : ChainRun) (set1 : Bool) : ChainRun × State :=
  (s.chainRowRead p e x c set1).2.chainPass p (c.withRow (s.chainRowRead p e x c set1).1)

/-- What an engine goes on with after a row of a chain: nothing once its 64 rows are read. -/
def ChainRun.onward (c : ChainRun) : Option ChainRun := if 64 ≤ c.row then none else some c

/-- An engine that goes on with a chain, or with none. -/
def Engine.withChain (g : Engine) (k : Option ChainRun) : Engine := { g with chain := k }

section
variable (s : State) (p e x : Nat) (c : ChainRun) (set1 : Bool)

theorem State.doChainRow_eq :
    let out := s.chainRowOut p e x c set1
    let g := out.2.eng (engId p e)
    s.doChainRow p e x c set1 =
      if 64 ≤ out.1.row then (out.2.setEng (engId p e) (g.withChain none)).chainPut p x out.1 (s.heatTag p x)
      else out.2.setEng (engId p e) (g.withChain (some out.1)) := rfl

theorem State.chainRowRead_counts {m : Nat} (hm : Sub 0x4010 m) : Kept m
    (s.readRow p e x set1 c.row (x + c.period * (63 - c.row)) none (s.heatTag p x)).2 (s.chainRowRead p e x c set1).2 := by
  unfold State.chainRowRead
  dsimp only
  exact State.bump_kept (State.energy_kept (.refl _ _) ..) ..

theorem State.chainRowRead_keeps : Kept 0x602b74210 s (s.chainRowRead p e x c set1).2 :=
  (State.readRow_keeps ..).trans (s.chainRowRead_counts p e x c set1 ⟨by decide⟩)

theorem State.chainRowRead_landed : RowsLanded (engId p e) s (s.chainRowRead p e x c set1).2 :=
  (State.readRow_landed ..).trans (.of_reports (s.chainRowRead_counts p e x c set1 ⟨by decide⟩))

theorem State.acc_chainRowRead (rows : ∀ w ∈ (s.eng (engId p e)).writes, x ≤ w.land) :
    ((s.chainRowRead p e x c set1).2.eng (engId p e)).acc = (s.eng (engId p e)).acc := by
  rw [(s.chainRowRead_counts p e x c set1 (Sub.refl _)).eng, State.eng_readRow _ _ _ _ _ rows]
  rfl

theorem State.chainFinish_keeps : Kept 0x4410 s (s.chainFinish p c).2 := by
  have passed : Kept 0x4410 s (c.epilogue.foldl
      (fun (u : State) o => u.energy (dieOf p) (if o.cost = 4 then 7 else 6) o.cost)
      (s.setCvu p ((s.cvu p).epilogue c.epilogue c.rows.flatten).2)) :=
    .foldl (State.setCvu_kept (.refl _ s) _ _ ⟨by decide⟩) fun _ _ h => State.energy_kept h _ _ _ ⟨by decide⟩
  exact .ite (State.setF_kept passed _ _ _ ⟨by decide⟩) passed

theorem finishedRows_length (room : Nat) (lanes : List W32) : (finishedRows room lanes).length = 8 := by
  simp [finishedRows]

/-- What passing the vector unit leaves of a chain. -/
structure ChainPassed (c d : ChainRun) : Prop where
  row : d.row = c.row
  period : d.period = c.period
  drain : d.drain = c.drain
  put : d.put = c.put
  short : c.short = true → d.short = true

theorem State.chainPass_passed : ChainPassed c (s.chainPass p c).1 := by
  unfold State.chainPass
  split
  · exact ⟨rfl, rfl, rfl, rfl, id⟩
  · exact ⟨rfl, rfl, rfl, rfl, fun h => by simp [State.chainFinish, h]⟩

theorem State.chainPass_held (h : c.rows.length < 8) : s.chainPass p c = (c, s) := if_pos h

theorem State.chainPass_full (h : ¬ c.rows.length < 8) : s.chainPass p c = s.chainFinish p c := if_neg h

theorem State.chainPass_keeps : Kept 0x4410 s (s.chainPass p c).2 := by
  unfold State.chainPass
  split
  · exact .refl _ s
  · exact s.chainFinish_keeps p c

end

theorem exec_chainRow {s : State} {p : Pos} {e : Eng} {x : Nat} {c : ChainRun} {set1 : Bool} {y : Nat}
    (run : (s.eng (engId p e)).chain = some c) (drain : c.drain = some (set1, y)) (due : x = y + c.period * c.row) :
    exec (.chainRow p e x) s = .next ((s.doChainRow p e x c set1).clock (dieOf p) x) := by
  show execChainRow p e x s = _
  unfold execChainRow
  rw [run]
  simp only [drain]
  rw [due]
  exact State.when_true _ _ (beq_self_eq_true _)

/-- A chain's row is read: what the row left of the engine, with the chain it goes on with. -/
theorem State.eng_doChainRow (s : State) (p e x : Nat) (c : ChainRun) (set1 : Bool) (j : Nat) :
    (s.doChainRow p e x c set1).eng j =
      if j = engId p e then ((s.chainRowRead p e x c set1).2.eng j).withChain (s.chainRowOut p e x c set1).1.onward
      else (s.chainRowRead p e x c set1).2.eng j := by
  have pass : Kept 0x4410 (s.chainRowRead p e x c set1).2 (s.chainRowOut p e x c set1).2 := State.chainPass_keeps ..
  have set (k : Option ChainRun) : ((s.chainRowOut p e x c set1).2.setEng (engId p e)
      (((s.chainRowOut p e x c set1).2.eng (engId p e)).withChain k)).eng j =
      if j = engId p e then ((s.chainRowRead p e x c set1).2.eng j).withChain k
      else (s.chainRowRead p e x c set1).2.eng j := by
    split
    case isTrue h => rw [h, State.eng_setEng_self, pass.eng]
    case isFalse h => rw [State.eng_setEng_ne _ _ _ _ h, pass.eng]
  unfold ChainRun.onward
  rw [State.doChainRow_eq]
  split
  · exact ((State.chainPut_kept (.refl _ _) _ _ _ _ (Sub.refl _)).eng j).trans (set _)
  · exact set _

theorem ChainRun.onward_eq_some {c k : ChainRun} (h : c.onward = some k) : c.row < 64 ∧ c = k := by
  unfold ChainRun.onward at h
  split at h
  case isTrue => cases h
  case isFalse more => exact ⟨Nat.lt_of_not_le more, Option.some.inj h⟩

section
variable (s : State) (p : Nat) (c : ChainRun) (lanes : List W32)

theorem State.chainPass_rows_length :
    (s.chainPass p (c.withRow lanes)).1.rows.length = if c.rows.length < 7 then c.rows.length + 1 else 0 := by
  have len : (c.withRow lanes).rows.length = c.rows.length + 1 := by simp [ChainRun.withRow]
  split
  case isTrue few => rw [State.chainPass_held _ _ _ (by omega), len]
  case isFalse full => rw [State.chainPass_full _ _ _ (by omega)]; rfl

theorem State.chainPass_out_length :
    (s.chainPass p (c.withRow lanes)).1.out.length = if c.rows.length < 7 then c.out.length else c.out.length + 8 := by
  have len : (c.withRow lanes).rows.length = c.rows.length + 1 := by simp [ChainRun.withRow]
  split
  case isTrue few => rw [State.chainPass_held _ _ _ (by omega)]; rfl
  case isFalse full =>
    rw [State.chainPass_full _ _ _ (by omega), State.chainFinish, List.length_append, finishedRows_length]; rfl

end

section
variable (s : State) (p e x : Nat) (c : ChainRun) (set1 : Bool)

/-- A row that is only held leaves the state as its read left it. -/
theorem State.chainRowOut_held (few : c.rows.length < 7) :
    s.chainRowOut p e x c set1 = (c.withRow (s.chainRowRead p e x c set1).1, (s.chainRowRead p e x c set1).2) :=
  State.chainPass_held _ _ _ (by simp [ChainRun.withRow]; omega)

theorem State.doChainRow_cvus (few : c.rows.length < 7) : (s.doChainRow p e x c set1).cvus = s.cvus := by
  have read : (s.chainRowRead p e x c set1).2.cvus = s.cvus := (s.chainRowRead_keeps p e x c set1).same .cvus (by decide)
  rw [State.doChainRow_eq, s.chainRowOut_held p e x c set1 few]
  split
  · exact ((State.chainPut_kept (.refl _ _) _ _ _ _ (Sub.refl _)).same .cvus (by decide)).trans read
  · exact read

theorem State.doChainRow_aes (few : c.rows.length < 7) (more : c.row < 63) :
    (s.doChainRow p e x c set1).aes = s.aes := by
  rw [State.doChainRow_eq, s.chainRowOut_held p e x c set1 few]
  rw [if_neg (by simp [ChainRun.withRow]; omega)]
  exact (s.chainRowRead_keeps p e x c set1).same .aes (by decide)

end

/-- Settles O12: a row read joins those the chain holds; the eighth hands all of them on, and the 64th ends the chain. -/
theorem chainReadsItsRows : Obligations.ChainReadsItsRows := by
  unfold Obligations.ChainReadsItsRows
  intro p e x s c set1 y i g run drain due
  have landed : RowsLanded i s (s.chainRowRead p e x c set1).2 := s.chainRowRead_landed p e x c set1
  obtain ⟨_, _, _, before⟩ := landed.own
  have kept : Kept 0x602b74e10 s (s.doChainRow p e x c set1) := State.doChainRow_kept (.refl _ s) _ _ _ _ _ (Sub.refl _)
  have passed : ChainPassed (c.withRow _) (s.chainRowOut p e x c set1).1 := State.chainPass_passed ..
  have own := s.eng_doChainRow p e x c set1 i
  rw [if_pos rfl, before] at own
  have row : (s.chainRowOut p e x c set1).1.row = c.row + 1 := passed.row
  have chain : ((s.doChainRow p e x c set1).eng i).chain = (s.chainRowOut p e x c set1).1.onward := by rw [own]; rfl
  refine ⟨_, exec_chainRow run drain due, ?ends, ?goesOn, ?cvus, ?aes, ?outer, ?flight, ?acc, ?others,
    (State.clock_spad ..).trans kept.spad, (State.clock_hbm ..).trans kept.hbm⟩
  case ends =>
    rw [State.eng_clock, chain, ChainRun.onward, row]
    split <;> simp <;> omega
  case goesOn =>
    intro k on
    rw [State.eng_clock, chain] at on
    obtain ⟨_, rfl⟩ := ChainRun.onward_eq_some on
    exact ⟨row, passed.period, passed.drain, passed.put, State.chainPass_rows_length .., State.chainPass_out_length ..,
      passed.short⟩
  case cvus =>
    intro few
    rw [State.clock_cvus, State.doChainRow_cvus _ _ _ _ _ _ few]
  case aes =>
    intro few more
    rw [State.clock_aes, State.doChainRow_aes _ _ _ _ _ _ few more]
  case outer => rw [State.eng_clock, own]; rfl
  case flight => rw [State.eng_clock, own]; rfl
  case acc =>
    intro rows
    rw [State.eng_clock, State.eng_doChainRow, if_pos rfl]
    exact State.acc_chainRowRead _ _ _ _ _ _ rows
  case others =>
    intro j n
    rw [State.eng_clock, State.eng_doChainRow, if_neg n, landed.others j n]

/-! ### Bytes written to a scratchpad (R108, R342) -/

/-- From s to t lines of core p's scratchpad may have ceased to be confirmed zero; nothing else of an access engine changed. -/
structure LinesShown (p : Nat) (s t : State) : Prop where
  own : ∃ z, t.ae p = { s.ae p with zconf := z }
  others : ∀ j, j ≠ p → t.ae j = s.ae j

namespace LinesShown
variable {p : Nat} {s t u : State}

theorem of_aes (h : t.aes = s.aes) : LinesShown p s t :=
  ⟨⟨(s.ae p).zconf, by unfold State.ae; rw [h]⟩, fun j _ => by unfold State.ae; rw [h]⟩

theorem refl (p : Nat) (s : State) : LinesShown p s s := of_aes rfl

theorem trans (h : LinesShown p s t) (k : LinesShown p t u) : LinesShown p s u := by
  obtain ⟨y, own⟩ := h.own
  obtain ⟨z, own'⟩ := k.own
  exact ⟨⟨z, by rw [own', own]⟩, fun j n => (k.others j n).trans (h.others j n)⟩

theorem aeCmd (h : LinesShown p s t) (j i : Nat) : t.aeCmd j i = s.aeCmd j i := by
  refine State.aeCmd_congr ?_ i
  by_cases e : j = p
  · obtain ⟨z, own⟩ := h.own
    rw [e, own]
  · rw [h.others j e]

end LinesShown

/-- The line of a scratchpad byte is not confirmed zero: the byte reads as its bank holds it. -/
def State.shown (s : State) (p off : Nat) : Prop := off % 2 ^ 23 / 128 ∉ (s.ae p).zconf

theorem State.spadByte_shown {s : State} {p off : Nat} (h : s.shown p off) :
    s.spadByte p off = NMap.get s.spadRest s.spad (spadKey p off) := by
  unfold State.spadByte
  exact if_neg (by simpa [State.shown] using h)

theorem State.spadByte_congr {s t : State} {r : Nat} (zconf : (t.ae r).zconf = (s.ae r).zconf) (spad : t.spad = s.spad)
    (lifted : t.liftedCores = s.liftedCores) (off : Nat) : t.spadByte r off = s.spadByte r off := by
  unfold State.spadByte State.spadRest
  rw [zconf, spad, lifted]

section
variable (s : State) (p o : Nat) (b : Byte)

theorem State.setSpadByte_lines : LinesShown p s (s.setSpadByte p o b) := by
  unfold State.setSpadByte
  dsimp only
  split
  · exact ⟨⟨_, State.ae_setAe_self ..⟩, fun j n => State.ae_setAe_ne _ _ _ _ n⟩
  · exact .of_aes rfl

theorem State.zconf_setSpadByte :
    ((s.setSpadByte p o b).ae p).zconf = (s.ae p).zconf.filter (· ≠ o % 2 ^ 23 / 128) := by
  unfold State.setSpadByte
  dsimp only
  split
  · exact congrArg AccessEngine.zconf (State.ae_setAe_self ..)
  case isFalse h =>
    exact (List.filter_eq_self.2 fun l m => by
      have : l ≠ o % 2 ^ 23 / 128 := fun e => h (List.contains_iff_mem.2 (e ▸ m))
      simpa using this).symm

theorem State.get_setSpadByte (k : Nat) : NMap.get (s.setSpadByte p o b).spadRest (s.setSpadByte p o b).spad k =
    if k = spadKey p o then b else NMap.get s.spadRest s.spad k := by
  unfold State.setSpadByte
  dsimp only
  split <;> exact NMap.get_set ..

variable {s p o}

theorem State.spadByte_setSpadByte_self : (s.setSpadByte p o b).spadByte p o = b := by
  rw [State.spadByte_shown (by simp [State.shown, State.zconf_setSpadByte]), State.get_setSpadByte, if_pos rfl]

theorem State.shown_setSpadByte {off : Nat} (h : s.shown p off) : (s.setSpadByte p o b).shown p off := by
  unfold State.shown
  rw [State.zconf_setSpadByte]
  exact fun m => h (List.mem_filter.1 m).1

theorem State.shown_setSpadByte_self : (s.setSpadByte p o b).shown p o := by
  simp [State.shown, State.zconf_setSpadByte]

/-- Another byte reads as before, of the same core where its line was not confirmed zero. -/
theorem State.spadByte_setSpadByte_ne {r off : Nat} (other : spadKey r off ≠ spadKey p o) (h : r = p → s.shown p off) :
    (s.setSpadByte p o b).spadByte r off = s.spadByte r off := by
  by_cases e : r = p
  · subst e
    rw [State.spadByte_shown (State.shown_setSpadByte b (h rfl)), State.spadByte_shown (h rfl), State.get_setSpadByte,
      if_neg other]
  · unfold State.spadByte
    rw [(s.setSpadByte_lines p o b).others r e, State.get_setSpadByte, if_neg other]

end

section
variable (s : State) (p o : Nat) (bs : List Byte)

theorem State.setSpadBytes_lines : LinesShown p s (s.setSpadBytes p o bs) := by
  induction bs generalizing s o with
  | nil => exact .refl p s
  | cons b bs ih => exact (s.setSpadByte_lines p o b).trans (ih ..)

theorem State.setSpadBytes_keeps : Kept 0x820 s (s.setSpadBytes p o bs) := State.setSpadBytes_kept (.refl _ s) _ _ _ (Sub.refl _)

variable {s p o bs}

/-- Bytes outside the range written read as before, of the same core where their line was not confirmed zero. -/
theorem State.spadByte_setSpadBytes_outside {r off : Nat} (fits : o + bs.length ≤ 2 ^ 23) (here : off < 2 ^ 23)
    (out : r = p → off < o ∨ o + bs.length ≤ off) (h : r = p → s.shown p off) :
    (s.setSpadBytes p o bs).spadByte r off = s.spadByte r off := by
  induction bs generalizing s o with
  | nil => rfl
  | cons b bs ih =>
    simp only [List.length_cons] at fits out
    have other : spadKey r off ≠ spadKey p o := by
      unfold spadKey
      by_cases e : r = p
      · have := out e
        subst e
        omega
      · omega
    exact (ih (by omega) (fun e => by have := out e; omega) fun e => State.shown_setSpadByte b (h e)).trans
      (State.spadByte_setSpadByte_ne b other h)

theorem State.spadByte_setSpadBytes_inside (fits : o + bs.length ≤ 2 ^ 23) {i : Nat} (h : i < bs.length) :
    (s.setSpadBytes p o bs).spadByte p (o + i) = bs[i] := by
  induction bs generalizing s o i with
  | nil => exact absurd h (Nat.not_lt_zero i)
  | cons b bs ih =>
    simp only [List.length_cons] at fits h
    cases i with
    | zero =>
      refine (State.spadByte_setSpadBytes_outside (by omega) (by omega) (fun _ => .inl (by omega))
        fun _ => State.shown_setSpadByte_self b).trans ?_
      exact State.spadByte_setSpadByte_self b
    | succ i =>
      have rest := ih (s := s.setSpadByte p o b) (o := o + 1) (i := i) (by omega) (by omega)
      rw [List.getElem_cons_succ, ← rest, Nat.add_right_comm, Nat.add_assoc]
      rfl

theorem Unarmed.of_regs {t : State} {k : Nat} (un : Unarmed s k) (h : t.regs = s.regs) : Unarmed t k :=
  (State.f_congr (State.rd_congr h _) _).trans un

theorem State.spadInject_unarmed (un : Unarmed s 0x08) (un' : Unarmed s 0x09) (n : Nat) : s.spadInject p o n = s := by
  unfold State.spadInject
  dsimp only
  rw [State.inject_unarmed un _ _ _]
  dsimp only
  rw [State.inject_unarmed un' _ _ _]

end

theorem State.spadWrite_unarmed {s : State} (un : Unarmed s 0x08) (un' : Unarmed s 0x09) (p o : Nat) (bs : List Byte) :
    s.spadWrite p o bs =
      (s.setSpadBytes p o bs).noteWritten 1 (p / 32) (p % 32 * 2 ^ 23 + o) bs.length := by
  have regs := (s.setSpadBytes_keeps p o bs).regs
  unfold State.spadWrite
  dsimp only
  rw [State.spadInject_unarmed (un.of_regs regs) (un'.of_regs regs)]

theorem LinesShown.of_reports {p : Nat} {s t : State} (h : Reports s t) : LinesShown p s t := .of_aes (h.same .aes (by decide))

theorem State.spadInject_lines (s : State) (p o n : Nat) : LinesShown p s (s.spadInject p o n) := by
  unfold State.spadInject
  extract_lets ka u
  have hu : LinesShown p s u := by
    have fired : LinesShown p s (s.inject 0x08 kCore p (s.covers 0x08 ka n)).2 := .of_reports (State.inject_reports ..)
    unfold u
    split <;> rename_i e <;> rw [e] at fired
    · exact fired.trans (.of_reports (State.record_reports ..))
    · exact fired
  have fired : LinesShown p s (u.inject 0x09 kCore p (u.covers 0x09 ka n)).2 :=
    hu.trans (.of_reports (State.inject_reports ..))
  split <;> rename_i e <;> rw [e] at fired
  · exact (fired.trans (State.setSpadBytes_lines ..)).trans (.of_reports (State.record_reports ..))
  · exact fired

theorem State.spadWrite_lines (s : State) (p o : Nat) (bs : List Byte) : LinesShown p s (s.spadWrite p o bs) := by
  unfold State.spadWrite
  dsimp only
  exact (s.setSpadBytes_lines p o bs).trans ((State.spadInject_lines ..).trans (.of_aes rfl))

theorem State.noteWrite_lines (s : State) (p off len unit x : Nat) : LinesShown p s (s.noteWrite p off len unit x) :=
  .of_aes ((State.noteWrite_kept (.refl _ s) _ _ _ _ _ (Sub.refl _)).same .aes (by decide))

/-! ### A dynamic piece moves (R104, R113) -/

/-- An access engine whose piece q moves in cycle x: the piece leaves the queue and takes its banks' ports. -/
def AccessEngine.pieceTaken (a : AccessEngine) (x : Nat) (q : Piece) : AccessEngine :=
  let need := rangeBanks q.off q.len
  match q.wr with
  | none => { a with pieces := a.pieces.erase q, rdAt := x, rdBanks := (if a.rdAt = x then a.rdBanks else 0) ||| need }
  | some _ => { a with pieces := a.pieces.erase q, wrAt := x, wrBanks := (if a.wrAt = x then a.wrBanks else 0) ||| need }

theorem AccessEngine.pieceTaken_rest (a : AccessEngine) (x : Nat) (q : Piece) :
    (a.pieceTaken x q).pieces = a.pieces.erase q ∧ (a.pieceTaken x q).cmds = a.cmds ∧ (a.pieceTaken x q).zconf = a.zconf := by
  unfold AccessEngine.pieceTaken
  dsimp only
  split <;> exact ⟨rfl, rfl, rfl⟩

/-- The machine once piece q of core p has left its queue. -/
def State.pieceTaken (s : State) (p x : Nat) (q : Piece) : State :=
  (s.setAe p ((s.ae p).pieceTaken x q)).energy (dieOf p) 8 (bankWords (rangeBanks q.off q.len))

/-- A command one of whose pieces has been written. -/
def AeCmd.pieceIn (c : AeCmd) (x : Nat) : AeCmd :=
  { c with need := c.need - 1, phase := if c.need - 1 = 0 && c.allDone then .moved else c.phase, rdy := max c.rdy x }

/-- A command one of whose pieces has been read. -/
def AeCmd.pieceOut (c : AeCmd) (bs : List Byte) : AeCmd := { c with data := c.data ++ bs, need := c.need - 1 }

/-- A command found by its number is found again once it is replaced. -/
theorem State.aeCmd_setCmd_eq {s : State} {p i : Nat} {c d : AeCmd} (h : s.aeCmd p i = some d) (e : c.id = d.id) :
    (s.setCmd p c).aeCmd p i = some c := by
  have same : c.id = i := e.trans (State.aeCmd_id h)
  subst same
  exact State.aeCmd_setCmd_self h

section
variable {s : State} {p : Pos} {x : Nat} {q : Piece} {c : AeCmd}

theorem State.ae_pieceTaken (s : State) (p x : Nat) (q : Piece) : (s.pieceTaken p x q).ae p = (s.ae p).pieceTaken x q := by
  rw [State.pieceTaken, State.ae_energy, State.ae_setAe_self]

theorem State.ae_pieceTaken_ne (s : State) (p x : Nat) (q : Piece) {j : Nat} (n : j ≠ p) :
    (s.pieceTaken p x q).ae j = s.ae j := by
  rw [State.pieceTaken, State.ae_energy, State.ae_setAe_ne _ _ _ _ n]

theorem State.aeCmd_pieceTaken (s : State) (p x : Nat) (q : Piece) (i : Nat) :
    (s.pieceTaken p x q).aeCmd p i = s.aeCmd p i :=
  State.aeCmd_congr (by rw [State.ae_pieceTaken]; exact ((s.ae p).pieceTaken_rest x q).2.1) i

theorem State.spadByte_pieceTaken (s : State) (p x : Nat) (q : Piece) (r off : Nat) :
    (s.pieceTaken p x q).spadByte r off = s.spadByte r off := by
  refine State.spadByte_congr (s := s) (t := s.pieceTaken p x q) ?_ rfl rfl off
  by_cases e : r = p
  · obtain ⟨_, _, zconf⟩ := (s.ae p).pieceTaken_rest x q
    rw [e, State.ae_pieceTaken, zconf]
  · rw [State.ae_pieceTaken_ne _ _ _ _ e]

theorem exec_scratchPiece (due : NoneDue s p x) (next : s.nextPiece p x = some q) :
    exec (.scratchPiece p x) s = .next ((s.doPiece ctlPacket p x q).clock (dieOf p) x) := by
  show execScratchPiece p x s = _
  unfold execScratchPiece
  rw [State.settle_noneDue due]
  dsimp only
  rw [next]

/-- A piece that writes leaves its bytes; the bytes of one that reads join its put's data, and the last sends the put. -/
theorem State.doPiece_found (ctl : State → Nat → Word → State) (h : s.aeCmd p q.cmd = some c) : s.doPiece ctl p x q =
    let u := s.pieceTaken p x q
    match q.wr with
    | some bs => ((u.spadWrite p q.off bs).noteWrite p q.off bs.length uAE x).setCmd p (c.pieceIn x)
    | none =>
      let k := c.pieceOut (u.spadBytes p q.off q.len)
      if k.need = 0 then (u.setCmd p k).putGo ctl p x k.id else u.setCmd p k := by
  have listed := (State.aeCmd_pieceTaken s p x q q.cmd).trans h
  unfold State.doPiece
  unfold State.pieceTaken AccessEngine.pieceTaken at listed ⊢
  rcases wr : q.wr with _ | bs <;> simp only [wr] at listed ⊢ <;> rw [listed] <;> rfl

theorem State.doPiece_wr (ctl : State → Nat → Word → State) (h : s.aeCmd p q.cmd = some c) {bs : List Byte}
    (wr : q.wr = some bs) : s.doPiece ctl p x q =
      (((s.pieceTaken p x q).spadWrite p q.off bs).noteWrite p q.off bs.length uAE x).setCmd p (c.pieceIn x) := by
  rw [State.doPiece_found ctl h, wr]

theorem State.doPiece_rd (ctl : State → Nat → Word → State) (h : s.aeCmd p q.cmd = some c) (wr : q.wr = none)
    (more : 1 < c.need) : s.doPiece ctl p x q =
      (s.pieceTaken p x q).setCmd p (c.pieceOut ((s.pieceTaken p x q).spadBytes p q.off q.len)) := by
  rw [State.doPiece_found ctl h, wr]
  exact if_neg (show ¬ c.need - 1 = 0 by omega)

/-- After a piece that writes, the scratchpads read as its bytes left them. -/
theorem State.spadByte_doPiece (ctl : State → Nat → Word → State) (h : s.aeCmd p q.cmd = some c) {bs : List Byte}
    (wr : q.wr = some bs) (un : Unarmed s 0x08) (un' : Unarmed s 0x09) (r : Nat) (off : Nat) :
    (s.doPiece ctl p x q).spadByte r off = ((s.pieceTaken p x q).setSpadBytes p q.off bs).spadByte r off := by
  rw [State.doPiece_wr ctl h wr, State.spadWrite_unarmed (s := s.pieceTaken p x q) (un.of_regs rfl) (un'.of_regs rfl)]
  have note := State.noteWrite_kept (.refl _ (((s.pieceTaken p x q).setSpadBytes p q.off bs).noteWritten 1 (p / 32)
    (p % 32 * 2 ^ 23 + q.off) bs.length)) p q.off bs.length uAE x (Sub.refl _)
  refine State.spadByte_congr (s := (s.pieceTaken p x q).setSpadBytes p q.off bs) (t := State.setCmd _ p _) ?_
    ((State.setCmd_spad ..).trans note.spad) ((State.setCmd_liftedCores ..).trans note.liftedCores) off
  by_cases e : r = p
  · rw [e, State.ae_setCmd_self, note.ae]; rfl
  · rw [State.ae_setCmd_ne _ _ _ e, note.ae]; rfl

end

/-- Settles O21: the piece that moves leaves its bytes, or takes them, and its command needs one fewer. -/
theorem piecesMove : Obligations.PiecesMove := by
  unfold Obligations.PiecesMove
  intro p x q c s due next h
  refine ⟨_, exec_scratchPiece due next, fun bs wr un un' fits => ?write, fun wr more => ?read⟩
  case write =>
    have lines : LinesShown p (s.pieceTaken p x q)
        (((s.pieceTaken p x q).spadWrite p q.off bs).noteWrite p q.off bs.length uAE x) :=
      (State.spadWrite_lines ..).trans (State.noteWrite_lines ..)
    have bytes (r off : Nat) : ((s.doPiece ctlPacket p x q).clock (dieOf p) x).spadByte r off =
        ((s.pieceTaken p x q).setSpadBytes p q.off bs).spadByte r off :=
      (State.spadByte_clock ..).trans (State.spadByte_doPiece ctlPacket h wr un un' r off)
    obtain ⟨_, own⟩ := lines.own
    obtain ⟨pieces, _, zconf⟩ := (s.ae p).pieceTaken_rest x q
    refine ⟨fun i hi => ?_, fun none r off here out => ?_, ?_, ?_, c.pieceIn x, ?_, rfl, ?_⟩
    · rw [bytes, State.spadByte_setSpadBytes_inside fits hi]
    · rw [bytes, State.spadByte_setSpadBytes_outside fits here (fun e => out (Fin.ext e)), State.spadByte_pieceTaken]
      intro e
      rw [State.shown, State.ae_pieceTaken, zconf, none]
      exact List.not_mem_nil
    · have hbm : ((s.pieceTaken p x q).spadWrite p q.off bs).hbm = s.hbm :=
        (State.spadWrite_kept (.refl _ (s.pieceTaken p x q)) _ _ _ (Sub.refl _)).hbm
      rw [State.clock_hbm, State.doPiece_wr _ h wr, State.setCmd_hbm, ← hbm]
      exact (State.noteWrite_kept (.refl _ _) _ _ _ _ _ (Sub.refl _)).hbm
    · rw [State.ae_clock, State.doPiece_wr _ h wr, State.ae_setCmd_self, own, State.ae_pieceTaken]
      exact pieces
    · rw [State.aeCmd_clock, State.doPiece_wr _ h wr]
      exact State.aeCmd_setCmd_eq ((lines.aeCmd ..).trans ((State.aeCmd_pieceTaken ..).trans h)) rfl
    · have zero : c.need - 1 = 0 ↔ c.need ≤ 1 := by omega
      simp [AeCmd.pieceIn, zero]
  case read =>
    have bytes : (s.pieceTaken p x q).spadBytes p q.off q.len = s.spadBytes p q.off q.len := by
      unfold State.spadBytes
      simp only [State.spadByte_pieceTaken]
    obtain ⟨pieces, _, _⟩ := (s.ae p).pieceTaken_rest x q
    rw [State.doPiece_rd _ h wr more, bytes, State.ae_clock, State.ae_setCmd_self, State.ae_pieceTaken, State.clock_spad,
      State.clock_hbm]
    refine ⟨pieces, rfl, rfl, c.pieceOut (s.spadBytes p q.off q.len), ?_, rfl, rfl⟩
    rw [State.aeCmd_clock]
    exact State.aeCmd_setCmd_eq ((State.aeCmd_pieceTaken ..).trans h) rfl

/-! ### Records of contexts that reports leave (R230, R343) -/

theorem State.recs_bump (s : State) (a n : Nat) : (s.bump a n).ctxs.recs = s.ctxs.recs := by rw [State.bump_ctxs]

theorem State.recs_takeAction (s : State) (o : Occ) (action cause : Nat) :
    (s.takeAction o action cause).ctxs.recs = s.ctxs.recs := by
  unfold State.takeAction
  split
  · have fenced : (s.fenceUnit0 o.kind o.idx).ctxs = s.ctxs :=
      (State.fenceUnit0_kept (.refl _ s) _ _ (Sub.refl _)).same .ctxs (by decide)
    show (s.fenceUnit0 o.kind o.idx).ctxs.recs = s.ctxs.recs
    rw [fenced]
  split
  · split
    · exact congrArg Contexts.recs ((State.recover_kept (.refl _ s) _ _ (Sub.refl _)).same .ctxs (by decide))
    · rfl
  · rfl

/-- Recording an occurrence changes no context's record. -/
theorem State.recs_record (s : State) (o : Occ) (cause weight : Nat) :
    (s.record o cause weight).ctxs.recs = s.ctxs.recs :=
  RecordKeeps.record (P := fun u => u.ctxs.recs = s.ctxs.recs)
    { count := fun u h => (u.recs_bump ..).trans h
      errs := fun _ _ h => h
      ring := fun u _ h =>
        (congrArg Contexts.recs ((State.ringWrite_kept (.refl _ u) _ _ (Sub.refl _)).same .ctxs (by decide))).trans h
      event := fun u h => by rw [State.setBit_ctxs, h]
      action := fun u _ h => (u.recs_takeAction ..).trans h } rfl weight

theorem State.recs_inject (s : State) (k kind idx addr : Nat) : (s.inject k kind idx addr).2.ctxs.recs = s.ctxs.recs :=
  congrArg Contexts.recs ((State.inject_kept (.refl _ s) _ _ _ _ (Sub.refl _)).same .ctxs (by decide))

theorem State.recs_misuse (s : State) (p n kind src : Nat) : (s.misuse p n kind src).ctxs.recs = s.ctxs.recs := by
  unfold State.misuse
  rw [State.recs_record]
  dsimp only
  split
  · split
    · exact State.recs_bump ..
    · exact State.recs_bump ..
  · exact State.recs_bump ..

/-- A set that lands on a flag changes no context's record. -/
theorem State.recs_landSet (s : State) (p n x src : Nat) : (s.landSet p n x src).ctxs.recs = s.ctxs.recs := by
  unfold State.landSet
  split
  · exact State.recs_misuse ..
  extract_lets u lands clr v inj w
  have hu : u.ctxs.recs = s.ctxs.recs := State.recs_bump ..
  have hv : v.ctxs.recs = s.ctxs.recs := by
    rcases e : clr with _ | l <;> simp only [v, e]
    · exact .trans (by split <;> [exact State.recs_misuse ..; rfl]) hu
    · exact .trans (by split <;> [exact State.recs_bump ..; rfl]) hu
  have hw : w.ctxs.recs = s.ctxs.recs := by
    unfold w
    split
    · have fired : (v.inject 0x22 kCore p).2.ctxs.recs = s.ctxs.recs := (State.recs_inject ..).trans hv
      split <;> rename_i e <;> rw [e] at fired
      · exact (State.recs_record ..).trans fired
      · exact fired
    · exact hv
  exact hw

theorem State.ctx_of_recs {s t : State} (h : t.ctxs.recs = s.ctxs.recs) (k : Nat) : t.ctx k = s.ctx k := by
  unfold State.ctx; rw [h]

/-- A counted event adds one to its context's counter, unless that is full or an error is injected (R195). -/
theorem State.count_countCtx {s : State} {k : Nat} (un : Unarmed s 0x20) (room : (s.ctx k).count ≠ 2 ^ 32 - 1) :
    ((s.countCtx k).ctx k).count = (s.ctx k).count + 1 := by
  unfold State.countCtx
  rw [State.inject_unarmed un _ _ _]
  dsimp only
  rw [if_neg (not_or.2 ⟨room, by decide⟩)]
  split
  · refine (congrArg CtxRec.count (State.ctx_of_recs (State.recs_landSet ..) k)).trans ?_
    rw [State.ctx_setCtx_self]
  · refine (congrArg CtxRec.count (State.ctx_setCtx_self ..)).trans rfl

/-! ### A tile lands (R116) -/

theorem bitOf_eq_testBit (v i : Nat) : bitOf v i = v.testBit i := by
  rw [bitOf, Nat.testBit_eq_decide_div_mod_eq, beq_eq_decide]

theorem bitOf_or_two_pow (v i : Nat) : bitOf (v ||| 2 ^ i) i = true := by
  rw [bitOf_eq_testBit, Nat.testBit_or, Nat.testBit_two_pow_self, Bool.or_true]

theorem State.aeRemove_rest (s : State) (p : Nat) (c : AeCmd) :
    s.aeRemove p c = { s with aes := (s.aeRemove p c).aes } := by
  have step (l : List Nat) (u : State) : l.foldl (fun (v : State) i => v.delCmd p i) u =
      { u with aes := (l.foldl (fun (v : State) i => v.delCmd p i) u).aes } := by
    induction l generalizing u with
    | nil => rfl
    | cons i l ih => exact ih (u.delCmd p i)
  exact step _ s

theorem State.aeCmd_aeRemove (s : State) (p : Nat) (c : AeCmd) : (s.aeRemove p c).aeCmd p c.id = none := by
  rw [State.aeRemove, List.foldl_append]
  exact State.aeCmd_delCmd_self ..

theorem State.tq_delCmd (s : State) (p i q : Nat) : (s.delCmd p i).tq p q = s.tq p q :=
  State.tq_congr (by rw [State.delCmd, State.ae_setAe_self]) q

/-- A command that failed leaves the list, and does nothing else. -/
theorem State.doTileLand_failed (s : State) (p x : Nat) {c : AeCmd} (failed : c.status ≠ 0) :
    s.doTileLand p x c = s.aeRemove p c := by
  unfold State.doTileLand State.aeLandEnd
  rw [if_pos failed]
  dsimp only
  rw [if_neg failed]

theorem exec_tileLand {s : State} {p : Pos} {x : Nat} {c : AeCmd} (h : s.aeCmd p c.id = some c) (moved : c.phase = .moved)
    (ready : c.rdy ≤ x) : exec (.tileLand p x c.id) s = .next
      ((if c.kind.isPut then s.putGo ctlPacket p x c.id else s.doTileLand p x c).clock (dieOf p) x) := by
  show execTileLand p x c.id s = _
  unfold execTileLand
  rw [h]
  exact State.when_true _ _ (by simp [moved, ready])

/-- A command that succeeded alone: its effects, and it leaves the list. -/
theorem State.aeLandEnd_alone (s : State) (p x : Nat) {c : AeCmd} (ok : c.status = 0) (alone : c.merged = []) :
    s.aeLandEnd p x c = (s.aeEffects p x c).delCmd p c.id := by
  unfold State.aeLandEnd State.aeRemove State.absorbed
  rw [alone]
  dsimp only
  rw [if_pos ok]
  rfl

/-- A fetch into a tile queue whose data is all right, merged with nothing and not cached, that is due to land its slot. -/
structure Landable (s : State) (p q : Nat) (c : AeCmd) : Prop where
  kind : c.kind = .fetch
  status : c.status = 0
  found : c.found = none
  cache : c.cache = false
  merged : c.merged = []
  suppress : c.suppress = false
  queue : c.q = some q
  exists_ : q < (s.ae p).tqs.length
  gen : (s.tq p q).gen = c.qgen

/-- The machine once a command's tile has landed in its slot and is counted. -/
def State.slotLanded (s : State) (p x : Nat) (c : AeCmd) : State := (s.landSlot p x c).bump (R.AE_CNT_FETCH_TILES p) 1

section
variable {s : State} {p q : Nat} {c : AeCmd} (l : Landable s p q c)
include l

theorem Landable.doTileLand (x : Nat) :
    s.doTileLand p x c = ((s.slotLanded p x c).aeEffects p x c).delCmd p c.id := by
  unfold State.doTileLand
  rw [if_neg (not_not.2 l.status), l.found]
  dsimp only
  rw [l.cache]
  simp only [Bool.false_and, Bool.false_eq_true, if_false, Bool.not_true]
  rw [l.kind]
  dsimp only
  rw [State.aeLandEnd_alone _ _ _ l.status l.merged, State.countLand, l.kind]
  rfl

theorem Landable.landSlot (x : Nat) : ∃ v, s.landSlot p x c = s.setTq p q v ∧ v.landed = (s.tq p q).landed ||| 2 ^ c.ring := by
  unfold State.landSlot
  rw [l.queue]
  dsimp only
  rw [if_neg (not_not.2 l.gen)]
  exact ⟨_, rfl, by split <;> rfl⟩

theorem Landable.landed (x : Nat) : bitOf ((s.slotLanded p x c).tq p q).landed c.ring = true := by
  obtain ⟨v, eq, bits⟩ := l.landSlot x
  rw [State.slotLanded, eq, State.tq_bump, State.tq_setTq_self _ _ _ l.exists_, bits]
  exact bitOf_or_two_pow ..

theorem Landable.regs (x : Nat) (a : Nat) : (s.slotLanded p x c).rd a =
    if a = R.AE_CNT_FETCH_TILES p then s.rd a + 1 else s.rd a := by
  obtain ⟨v, eq, bits⟩ := l.landSlot x
  rw [State.slotLanded, eq]
  split
  case isTrue h => rw [h, State.rd_bump_self, State.rd_setTq]; rfl
  case isFalse h => rw [State.rd_bump_ne _ _ _ _ h, State.rd_setTq]

theorem Landable.keeps (x : Nat) : Kept 0x810 s (s.slotLanded p x c) := by
  obtain ⟨v, eq, bits⟩ := l.landSlot x
  rw [State.slotLanded, eq]
  exact State.bump_kept (State.setTq_kept (.refl _ s) _ _ _ ⟨by decide⟩) _ _ ⟨by decide⟩

theorem Landable.ctx (x k : Nat) : (s.slotLanded p x c).ctx k = s.ctx k :=
  State.ctx_of_recs (congrArg Contexts.recs ((l.keeps x).same .ctxs (by decide))) k

end

section
variable (s : State) (p x : Nat) {c : AeCmd} (acts : c.suppress = false)
include acts

theorem State.aeEffects_none (cnt : c.cnt = false) (flag : c.flag = none) : s.aeEffects p x c = s := by
  unfold State.aeEffects
  rw [acts, cnt, flag]
  rfl

theorem State.aeEffects_flag (cnt : c.cnt = false) {n : Nat} (flag : c.flag = some n) :
    s.aeEffects p x c = s.landSet p n x 0 := by
  unfold State.aeEffects
  rw [acts, cnt, flag]
  rfl

theorem State.aeEffects_count (cnt : c.cnt = true) {k : Nat} (ctx : c.ctx = some k) (flag : c.flag = none) :
    s.aeEffects p x c = s.countCtx k := by
  unfold State.aeEffects
  rw [acts, cnt, ctx, flag]
  rfl

end

theorem State.aeEffects_keeps (s : State) (p x : Nat) (c : AeCmd) : Kept 0x602b76010 s (s.aeEffects p x c) :=
  State.aeEffects_kept (.refl _ s) _ _ _ (Sub.refl _)

/-- The poison of a flag is not the counter of the tiles fetched. -/
theorem Landable.poisoned {s : State} {p q : Nat} {c : AeCmd} (l : Landable s p q c) (x n : Nat) :
    (s.slotLanded p x c).poisoned p n = s.poisoned p n := by
  have apart : R.FLG_POISON p (n / 64) ≠ R.AE_CNT_FETCH_TILES p := by
    simp only [R.FLG_POISON, R.AE_CNT_FETCH_TILES, Blk.base]
    omega
  unfold State.poisoned State.bit
  rw [l.regs, if_neg apart]

theorem Landable.unarmed {s : State} {p q : Nat} {c : AeCmd} (l : Landable s p q c) (x : Nat) (un : Unarmed s 0x20) :
    Unarmed (s.slotLanded p x c) 0x20 := by
  have apart : R.INJ_P_CTL 0x20 ≠ R.AE_CNT_FETCH_TILES p := by
    simp only [R.INJ_P_CTL, R.AE_CNT_FETCH_TILES, Blk.base, coreBase]
    omega
  exact (State.f_congr (by rw [l.regs, if_neg apart]) _).trans un

/-- TILE_LAND, which takes a command whose data is in place: the failed leaves the list, the due one lands its slot. -/
theorem tileLand_lands (p : Pos) (x : Nat) (c : AeCmd) (s : State) (h : s.aeCmd p c.id = some c) (moved : c.phase = .moved)
    (ready : c.rdy ≤ x) : ∃ t, exec (.tileLand p x c.id) s = .next t ∧
      (c.kind.isPut = false → c.status ≠ 0 → t.aeCmd p c.id = none ∧ ClockedTo s t (dieOf p) x ∧
        t = { s with aes := t.aes, dies := t.dies }) ∧
      (∀ q, Landable s p q c →
        t.aeCmd p c.id = none ∧ bitOf (t.tq p q).landed c.ring = true ∧ t.spad = s.spad ∧ t.hbm = s.hbm ∧
        (c.cnt = false → c.flag = none → t.rd (R.AE_CNT_FETCH_TILES p) = s.rd (R.AE_CNT_FETCH_TILES p) + 1 ∧
          ∀ a, a ≠ R.AE_CNT_FETCH_TILES p → t.rd a = s.rd a) ∧
        (∀ n, c.cnt = false → c.flag = some n → s.poisoned p n = false → t.flag p n = true) ∧
        (∀ k, c.cnt = true → c.ctx = some k → c.flag = none → Unarmed s 0x20 → (s.ctx k).count ≠ 2 ^ 32 - 1 →
          (t.ctx k).count = (s.ctx k).count + 1)) := by
  refine ⟨_, exec_tileLand h moved ready, fun put failed => ?failed, fun q l => ?lands⟩
  case failed =>
    rw [put, if_neg (by decide), State.doTileLand_failed _ _ _ failed, State.aeCmd_clock]
    have rest := s.aeRemove_rest p c
    exact ⟨State.aeCmd_aeRemove .., State.clockedTo_of_dies (by rw [rest]) _ _, State.clock_aesFrame rest _ _⟩
  case lands =>
    have kept := (s.slotLanded p x c).aeEffects_keeps p x c
    have put : c.kind.isPut = false := by rw [l.kind]; rfl
    rw [put, if_neg (by decide), l.doTileLand]
    refine ⟨(State.aeCmd_clock ..).trans (State.aeCmd_delCmd_self ..), ?slot, ?spad, ?hbm, ?alone, ?flag, ?ctx⟩
    case slot =>
      rw [State.tq_clock, State.tq_delCmd, State.tq_congr (congrArg AccessEngine.tqs (kept.ae p))]
      exact l.landed x
    case spad => exact (State.clock_spad ..).trans (kept.spad.trans (l.keeps x).spad)
    case hbm => exact (State.clock_hbm ..).trans (kept.hbm.trans (l.keeps x).hbm)
    case alone =>
      intro cnt flag
      rw [State.aeEffects_none _ _ _ l.suppress cnt flag]
      refine ⟨?_, fun a n => ?_⟩
      · rw [State.rd_clock, State.rd_delCmd, l.regs, if_pos rfl]
      · rw [State.rd_clock, State.rd_delCmd, l.regs, if_neg n]
    case flag =>
      intro n cnt flag free
      rw [State.aeEffects_flag _ _ _ l.suppress cnt flag]
      exact (State.bit_clock ..).trans (State.flag_landSet ((l.poisoned x n).trans free) x 0)
    case ctx =>
      intro k cnt ctx flag un room
      rw [State.aeEffects_count _ _ _ l.suppress cnt ctx flag, State.ctx_clock]
      exact (State.count_countCtx (l.unarmed x un) (by rw [l.ctx]; exact room)).trans (by rw [l.ctx])

/-! ### A relayed tile hops (R122) -/

theorem State.nextCore_ne {s : State} {p n : Nat} (h : s.nextCore p = some n) : n ≠ p := by
  obtain ⟨c, found, rfl⟩ := Option.map_eq_some_iff.1 h
  have after := List.find?_some found
  simp only [Bool.and_eq_true, decide_eq_true_eq] at after
  omega

/-- The first relayed tile of core p's hop buffer leaves it in cycle x. -/
def State.hopTaken (s : State) (p x : Nat) : State :=
  s.setAe p { s.ae p with hop := ((s.ae p).hop.drop 1).map fun h => { h with landed := max h.landed x } }

/-- A relayed tile's copy has been written to slot i of core n's queue, which is t. -/
def State.hopLanded (s : State) (p x : Nat) (r : RelayTile) (n i : Nat) (t : TileQueue) : State :=
  let off := (s.tq n r.q).slotBase i
  let u := ((s.setTq n r.q (t.land i x)).spadWrite n off r.data).noteWrite n off r.data.length uAE x
  ((u.energy (dieOf p) 8 (bankWords (rangeBanks off r.data.length))).bump (R.AE_CNT_RELAY_TILES n) 1).energy (dieOf p) 12 (n - p)

/-- A tile that has landed moves on along the chain unless this core is its last. -/
def State.hopPassed (s : State) (x : Nat) (r : RelayTile) (n : Nat) : State :=
  if n < r.last then s.setAe n { s.ae n with hop := (s.ae n).hop ++ [{ r with landed := x }] } else s

theorem State.doRelayHop_eq {s : State} {p x : Nat} {r : RelayTile} {n i : Nat} {t : TileQueue}
    (slot : ((s.hopTaken p x).tq n r.q).reserve = some (i, t)) :
    s.doRelayHop p x r n = ((s.hopTaken p x).hopLanded p x r n i t).hopPassed x r n := by
  unfold State.doRelayHop
  unfold State.hopTaken at slot ⊢
  dsimp only
  rw [slot]
  rfl

theorem State.hopLanded_lines (s : State) (p x : Nat) (r : RelayTile) (n i : Nat) (t : TileQueue) :
    LinesShown n (s.setTq n r.q (t.land i x)) (s.hopLanded p x r n i t) := by
  unfold State.hopLanded
  extract_lets off u
  have written : LinesShown n (s.setTq n r.q (t.land i x)) u :=
    (State.spadWrite_lines _ n off r.data).trans (State.noteWrite_lines _ n off r.data.length uAE x)
  exact written.trans (.of_aes (by simp))

theorem State.ae_hopTaken_ne (s : State) (p x : Nat) {n : Nat} (ne : n ≠ p) : (s.hopTaken p x).ae n = s.ae n :=
  State.ae_setAe_ne _ _ _ _ ne

theorem State.ae_hopPassed_ne (s : State) (x : Nat) (r : RelayTile) {n p : Nat} (ne : p ≠ n) :
    (s.hopPassed x r n).ae p = s.ae p := by
  unfold State.hopPassed
  split
  · exact State.ae_setAe_ne _ _ _ _ ne
  · rfl

theorem State.ae_hopPassed (s : State) (x : Nat) (r : RelayTile) (n : Nat) : (s.hopPassed x r n).ae n =
    { s.ae n with hop := if n < r.last then (s.ae n).hop ++ [{ r with landed := x }] else (s.ae n).hop } := by
  unfold State.hopPassed
  split
  · exact State.ae_setAe_self ..
  · rfl

/-- The reserved slot of a copy that has landed. -/
theorem State.tq_hopLanded (s : State) (p x : Nat) {r : RelayTile} {n : Nat} (i : Nat) (t : TileQueue)
    (queue : r.q < (s.ae n).tqs.length) : (s.hopLanded p x r n i t).tq n r.q = t.land i x := by
  obtain ⟨_, own⟩ := (s.hopLanded_lines p x r n i t).own
  have tqs : ((s.hopLanded p x r n i t).ae n).tqs = ((s.setTq n r.q (t.land i x)).ae n).tqs := by rw [own]
  rw [State.tq_congr tqs]
  exact State.tq_setTq_self _ _ _ queue

theorem exec_relayHop {s : State} {p : Pos} {x n : Nat} {r : RelayTile} {l : List RelayTile} (hop : (s.ae p).hop = r :: l)
    (next : s.nextCore p = some n) (free : s.relayFree p r = true) (due : r.landed + 64 * (n - p.val) ≤ x) :
    exec (.relayHop p x) s = .next ((s.doRelayHop p x r n).clock (dieOf p) x) := by
  show execRelayHop p x s = _
  unfold execRelayHop
  rw [hop, next]
  exact State.when_true _ _ (by simp [free, due])

/-- RELAY_HOP lands a copy in the next core's queue and moves the chain on. -/
theorem relayHop_lands (p : Pos) (x n : Nat) (r : RelayTile) (l : List RelayTile) (s : State) (hop : (s.ae p).hop = r :: l)
    (next : s.nextCore p = some n) (free : s.relayFree p r = true) (due : r.landed + 64 * (n - p.val) ≤ x)
    (queues : (s.ae n).tqs.length = 8) (queue : r.q < 8) :
    ∃ t, exec (.relayHop p x) s = .next t ∧ (t.ae p).hop.length = l.length ∧
      (t.tq n r.q).reserved = (s.tq n r.q).reserved + 1 ∧ bitOf (t.tq n r.q).landed (s.tq n r.q).tail = true ∧
      t.hbm = s.hbm ∧ (n < r.last → (t.ae n).hop = (s.ae n).hop ++ [{ r with landed := x }]) ∧
      (r.last ≤ n → (t.ae n).hop = (s.ae n).hop) := by
  have ne := State.nextCore_ne next
  have taken := s.ae_hopTaken_ne p x ne
  have same : (s.hopTaken p x).tq n r.q = s.tq n r.q := State.tq_congr (congrArg AccessEngine.tqs taken) _
  obtain ⟨i, t, slot⟩ : ∃ i t, (s.tq n r.q).reserve = some (i, t) := by
    simp only [State.relayFree, next, Bool.and_eq_true] at free
    obtain ⟨⟨i, t⟩, slot⟩ := Option.isSome_iff_exists.1 free.1
    exact ⟨i, t, slot⟩
  obtain ⟨tail, reserved⟩ := TileQueue.reserve_some slot
  have step := exec_relayHop hop next free due
  have lines := (s.hopTaken p x).hopLanded_lines p x r n i t
  obtain ⟨_, own⟩ := lines.own
  have landed : ((s.hopTaken p x).hopLanded p x r n i t).tq n r.q = t.land i x :=
    State.tq_hopLanded _ _ _ _ _ (by rw [taken, queues]; exact queue)
  have hop' : (((s.hopTaken p x).hopLanded p x r n i t).ae n).hop = (s.ae n).hop := by
    rw [own, ← taken]
    dsimp only
    rw [State.setTq, State.ae_setAe_self]
  have left : ((s.doRelayHop p x r n).ae p).hop.length = l.length := by
    rw [State.doRelayHop_eq (same ▸ slot), State.ae_hopPassed_ne _ _ _ ne.symm, lines.others p ne.symm]
    rw [State.setTq, State.ae_setAe_ne _ _ _ _ ne.symm, State.hopTaken, State.ae_setAe_self, List.length_map, hop]
    rfl
  have queue' : (s.doRelayHop p x r n).tq n r.q = t.land i x := by
    rw [State.doRelayHop_eq (same ▸ slot), ← landed]
    exact State.tq_congr (by rw [State.ae_hopPassed]) _
  have chain : ((s.doRelayHop p x r n).ae n).hop =
      if n < r.last then (s.ae n).hop ++ [{ r with landed := x }] else (s.ae n).hop := by
    rw [State.doRelayHop_eq (same ▸ slot), State.ae_hopPassed, hop']
  rw [← State.ae_clock _ (dieOf p) x] at left chain
  rw [← State.tq_clock _ (dieOf p) x] at queue'
  refine ⟨_, step, left, ?_, ?_, exec_same step .hbm (by simp [touches, Part.reported]), fun h => chain.trans (if_pos h),
    fun h => chain.trans (if_neg (Nat.not_lt.2 h))⟩
  · rw [queue']
    exact reserved
  · rw [queue', ← tail]
    exact bitOf_or_two_pow ..

/-! ### A zero probe is answered (R126, R127) -/

/-- The lines of the tile from a command's place on. -/
def AeCmd.tileLines (c : AeCmd) : List Nat := (List.range 64).map (c.loc / 128 + ·)

/-- A command whose tile is confirmed zero: its lines read as zero, and it lands. -/
def State.probeHit (s : State) (p x : Nat) (c : AeCmd) : State :=
  let b := s.bankOfFar c.far
  let u := (s.bump (R.HBM_CNT_PROBE_ZERO b.1) 1).bump (R.AE_CNT_ZP_HIT p) 1
  (u.setAe p { u.ae p with zconf := (u.ae p).zconf.filter (fun l => !c.tileLines.contains l) ++ c.tileLines }).setCmd p
    { c with phase := .moved, zprobe := false, zero := true, rdy := x }

/-- A command whose probe missed competes again. -/
def AeCmd.probeMissed (c : AeCmd) : AeCmd := { c with phase := .wait, slot := false, zprobe := false }

/-- The machine once a command's probe has missed. -/
def State.probeMiss (s : State) (p : Nat) (c : AeCmd) : State :=
  let u := s.bump (R.AE_CNT_ZP_MISS p) 1
  let v : State := match c.q with
    | some q => u.setTq p q { u.tq p q with lateSlots := (u.tq p q).lateSlots ||| 2 ^ c.ring }
    | none => u
  v.setCmd p c.probeMissed

theorem State.doProbe_eq (s : State) (p x : Nat) (c : AeCmd) : s.doProbe p x c =
    if s.zmapBit (s.bankOfFar c.far).1 ((s.bankOfFar c.far).2.1 / 8192) then s.probeHit p x c else s.probeMiss p c := rfl

theorem exec_zeroProbeResult {s : State} {p : Pos} {c : AeCmd} (x : Nat) (h : s.aeCmd p c.id = some c)
    (probe : c.zprobe = true) (moving : c.phase = .move) :
    exec (.zeroProbeResult p x c.id) s = .next ((s.doProbe p x c).clock (dieOf p) x) := by
  show execZeroProbeResult p x c.id s = _
  unfold execZeroProbeResult
  rw [h]
  exact State.when_true _ _ (by simp [probe, moving])

section
variable {s : State} {p x : Nat} {c : AeCmd}

theorem State.aeCmd_probeHit (h : s.aeCmd p c.id = some c) : (s.probeHit p x c).aeCmd p c.id =
    some { c with phase := .moved, zprobe := false, zero := true, rdy := x } := by
  refine State.aeCmd_setCmd_eq (d := c) ((State.aeCmd_congr ?_ _).trans h) rfl
  rw [State.ae_setAe_self, State.ae_bump, State.ae_bump]

theorem State.rd_probeHit : (s.probeHit p x c).rd (R.AE_CNT_ZP_HIT p) = s.rd (R.AE_CNT_ZP_HIT p) + 1 := by
  have apart : R.AE_CNT_ZP_HIT p ≠ R.HBM_CNT_PROBE_ZERO (s.bankOfFar c.far).1 := by
    simp only [R.AE_CNT_ZP_HIT, R.HBM_CNT_PROBE_ZERO, Blk.base, coreBase]
    omega
  unfold State.probeHit
  rw [State.rd_setCmd, State.rd_setAe, State.rd_bump_self, State.rd_bump_ne _ _ _ _ apart]
  rfl

/-- The bytes of a tile confirmed zero read as zeros. -/
theorem State.spadByte_probeHit {i : Nat} (aligned : c.loc % 8192 = 0) (inside : i < 8192) (fits : c.loc + i < 2 ^ 23) :
    (s.probeHit p x c).spadByte p (c.loc + i) = 0 := by
  have line : (c.loc + i) % 2 ^ 23 / 128 ∈ c.tileLines :=
    List.mem_map.2 ⟨i / 128, List.mem_range.2 (by omega), by omega⟩
  unfold State.spadByte State.probeHit
  rw [State.ae_setCmd_self, State.ae_setAe_self]
  exact if_pos (List.contains_iff_mem.2 (List.mem_append_right _ line))

theorem State.aeCmd_probeMiss (h : s.aeCmd p c.id = some c) : (s.probeMiss p c).aeCmd p c.id = some c.probeMissed := by
  refine State.aeCmd_setCmd_eq (d := c) ((State.aeCmd_congr ?_ _).trans h) rfl
  split
  · rw [State.setTq, State.ae_setAe_self, State.ae_bump]
  · rw [State.ae_bump]

theorem State.rd_probeMiss : (s.probeMiss p c).rd (R.AE_CNT_ZP_MISS p) = s.rd (R.AE_CNT_ZP_MISS p) + 1 := by
  unfold State.probeMiss
  rw [State.rd_setCmd]
  split
  · rw [State.rd_setTq, State.rd_bump_self]; rfl
  · rw [State.rd_bump_self]; rfl

end

/-- ZERO_PROBE_RESULT lands a confirmed zero tile, or a miss, which competes again for a slot. -/
theorem zeroProbeResult_lands (p : Pos) (x : Nat) (c : AeCmd) (s : State) (h : s.aeCmd p c.id = some c)
    (probe : c.zprobe = true) (moving : c.phase = .move) :
    ∃ t, exec (.zeroProbeResult p x c.id) s = .next t ∧ t.spad = s.spad ∧ t.hbm = s.hbm ∧
      (s.zmapBit (s.bankOfFar c.far).1 ((s.bankOfFar c.far).2.1 / 8192) = true →
        (∃ k, t.aeCmd p c.id = some k ∧ k.phase = .moved ∧ k.zero = true) ∧
        t.rd (R.AE_CNT_ZP_HIT p) = s.rd (R.AE_CNT_ZP_HIT p) + 1 ∧
        (c.loc % 8192 = 0 → ∀ i, i < 8192 → c.loc + i < 2 ^ 23 → t.spadByte p (c.loc + i) = 0)) ∧
      (s.zmapBit (s.bankOfFar c.far).1 ((s.bankOfFar c.far).2.1 / 8192) = false →
        (∃ k, t.aeCmd p c.id = some k ∧ k.phase = .wait ∧ k.slot = false ∧ k.zprobe = false) ∧
        t.rd (R.AE_CNT_ZP_MISS p) = s.rd (R.AE_CNT_ZP_MISS p) + 1) := by
  have step := exec_zeroProbeResult x h probe moving
  refine ⟨_, step, exec_same step .spad (by simp [touches]), exec_same step .hbm (by simp [touches]), fun hit => ?_,
    fun miss => ?_⟩
  · rw [State.doProbe_eq, if_pos hit, State.aeCmd_clock, State.rd_clock]
    refine ⟨⟨_, State.aeCmd_probeHit h, rfl, rfl⟩, State.rd_probeHit, fun aligned i inside fits => ?_⟩
    rw [State.spadByte_clock]
    exact State.spadByte_probeHit aligned inside fits
  · rw [State.doProbe_eq, miss, if_neg (by decide), State.aeCmd_clock, State.rd_clock]
    exact ⟨⟨_, State.aeCmd_probeMiss h, rfl, rfl, rfl⟩, State.rd_probeMiss⟩

/-- Settles O23, a clause for each event. -/
theorem tilesLand : Obligations.TilesLand := by
  unfold Obligations.TilesLand
  refine ⟨fun p x c s h moved ready => ?land, relayHop_lands, zeroProbeResult_lands⟩
  obtain ⟨t, step, failed, lands⟩ := tileLand_lands p x c s h moved ready
  exact ⟨t, step, failed, fun q kind status found cache merged suppress queue exists_ gen =>
    lands q ⟨kind, status, found, cache, merged, suppress, queue, exists_, gen⟩⟩

/-! ### The command that takes a slot (R119) -/

/-- The command of a list that comes first, by deadline. -/
def State.firstDue (s : State) (p x : Nat) (l : List AeCmd) : Option AeCmd :=
  l.foldl (fun (m : Option AeCmd) c => match m with
    | none => some c
    | some b => if s.deadlineOf p x c < s.deadlineOf p x b then some c else some b) none

theorem State.firstDue_mem {s : State} {p x : Nat} {l : List AeCmd} {c : AeCmd} (h : s.firstDue p x l = some c) : c ∈ l := by
  refine List.foldlRecOn (motive := fun m => ∀ c, m = some c → c ∈ l) l _ (by rintro _ ⟨⟩) (fun m picked d mem b e => ?_) c h
  rcases m with _ | a
  · cases e; exact mem
  · dsimp only at e
    split at e
    · cases e; exact mem
    · exact picked b e

/-- The command that takes a slot is in the list. -/
theorem State.grantee_listed {s : State} {p x : Nat} {c : AeCmd} (h : s.grantee p x = some c) :
    ∃ d, s.aeCmd p c.id = some d ∧ d.id = c.id := by
  have mem : c ∈ (s.ae p).cmds := by
    unfold State.grantee at h
    change (match s.firstDue p x ((s.ae p).cmds.filter fun c => s.aeEligible p c) with
      | none => none
      | some c => if c.kind = .put then
          (match s.firstDue p x (((s.ae p).cmds.filter fun c => s.aeEligible p c).filter fun d => d.kind == .chainPut) with
            | some d => some d | none => some c)
        else some c) = some c at h
    split at h
    · cases h
    next d first =>
      split at h
      · split at h
        next chain => cases h; exact List.mem_of_mem_filter (List.mem_of_mem_filter (State.firstDue_mem chain))
        next => cases h; exact List.mem_of_mem_filter (State.firstDue_mem first)
      · cases h; exact List.mem_of_mem_filter (State.firstDue_mem first)
  rcases found : s.aeCmd p c.id with _ | d
  · exact absurd (List.find?_eq_none.1 found c mem) (by simp)
  · exact ⟨d, rfl, State.aeCmd_id found⟩

theorem exec_aeSlotGrant {s : State} {p : Pos} {x : Nat} {c : AeCmd} (h : s.grantee p x = some c) (free : s.aeSlots p < 48)
    (waited : c.issue < x) : exec (.aeSlotGrant p x) s = .next ((s.doGrant ctlPacket p x c).clock (dieOf p) x) := by
  show execAeSlotGrant p x s = _
  unfold execAeSlotGrant
  rw [h]
  exact State.when_true _ _ (by simp [free, waited])

/-! ### A slot is taken (R117, R118) -/

/-- A command that has taken a slot, with its deadline. -/
def AeCmd.granted (c : AeCmd) (deadline : Nat) : AeCmd := { c with slot := true, deadline := some deadline }

/-- The machine once a command has taken its tokens: none where its tile is in the cache or the core is not limited. -/
def State.tokensTaken (s : State) (p : Nat) (c : AeCmd) : State :=
  if (s.cacheHit p c).isSome ∨ (s.ae p).rate = 0 then s else s.setAe p { s.ae p with level := (s.ae p).level - c.tokens }

/-- The machine once command c has taken its slot, its tokens and its deadline. -/
def State.slotTaken (s : State) (p x : Nat) (c : AeCmd) : State :=
  (s.tokensTaken p c).setCmd p (c.granted (s.deadlineOf p x c))

/-- The same, and once the record of its context is where a packet to another node needs it. -/
def State.slotReady (s : State) (p x : Nat) (c : AeCmd) : State :=
  match kNode c.far.toNat == (s.slotTaken p x c).node, c.ctx with
  | false, some k => ((s.slotTaken p x c).ctxNeed k).getD (s.slotTaken p x c)
  | _, _ => s.slotTaken p x c

/-- Bringing a context's record into its cache changes no register outside the context block. -/
theorem State.rd_ctxLoad {s t : State} {busy : Nat → Bool} {k : Nat} (h : s.ctxLoad busy k = some t) {a : Nat}
    (out : 0x100_0000 ≤ a) : t.rd a = s.rd a := by
  have hit : a ≠ R.CTX_CNT_HIT (k % 2) := by simp only [R.CTX_CNT_HIT, Blk.base]; omega
  have miss : a ≠ R.CTX_CNT_MISS (k % 2) := by simp only [R.CTX_CNT_MISS, Blk.base]; omega
  have back : a ≠ R.CTX_CNT_WRITEBACK (k % 2) := by simp only [R.CTX_CNT_WRITEBACK, Blk.base]; omega
  unfold State.ctxLoad at h
  extract_lets l s₁ here s₂ at h
  split at h
  · cases h; exact State.rd_bump_ne _ _ _ _ hit
  split at h
  · cases h
  split at h
  · cases h; exact State.rd_bump_ne _ _ _ _ miss
  split at h
  · cases h
  · cases h; exact (State.rd_bump_ne _ _ _ _ back).trans (State.rd_bump_ne _ _ _ _ miss)

section
variable (s : State) (p x : Nat) (c : AeCmd)

theorem State.tokensTaken_rest : s.tokensTaken p c = { s with aes := (s.tokensTaken p c).aes } := by
  unfold State.tokensTaken
  split <;> rfl

theorem State.ae_tokensTaken : (s.tokensTaken p c).ae p = { s.ae p with level :=
    if (s.cacheHit p c).isSome ∨ (s.ae p).rate = 0 then (s.ae p).level else (s.ae p).level - c.tokens } := by
  unfold State.tokensTaken
  split
  · rfl
  · rw [State.ae_setAe_self]

theorem State.slotTaken_rest : s.slotTaken p x c = { s with aes := (s.slotTaken p x c).aes } := by
  unfold State.slotTaken
  rw [State.tokensTaken_rest]
  rfl

theorem State.slotReady_keeps : Kept 0x10010 (s.slotTaken p x c) (s.slotReady p x c) := by
  unfold State.slotReady
  split
  · exact State.ctxNeedD_kept (.refl _ _) _ (Sub.refl _)
  · exact .refl _ _

/-- What a granted slot leaves of an access engine: a level of its bucket, and the list with the command in its slot. -/
theorem State.ae_slotReady : (s.slotReady p x c).ae p = { s.ae p with
    level := if (s.cacheHit p c).isSome ∨ (s.ae p).rate = 0 then (s.ae p).level else (s.ae p).level - c.tokens
    cmds := (s.ae p).cmds.map fun d => if d.id = c.id then c.granted (s.deadlineOf p x c) else d } := by
  rw [(s.slotReady_keeps p x c).ae, State.slotTaken, State.ae_setCmd_self, State.ae_tokensTaken]
  rfl

/-- Bringing a context's record into its cache changes no register of a core. -/
theorem State.rd_ctxNeedD (k : Nat) {a : Nat} (out : 0x100_0000 ≤ a) : ((s.ctxNeed k).getD s).rd a = s.rd a := by
  rcases h : s.ctxNeed k with _ | t
  · rfl
  · exact State.rd_ctxLoad h out

end

section
variable {s : State} {p x : Nat} {c : AeCmd}

theorem State.aeCmd_slotReady (h : s.grantee p x = some c) :
    (s.slotReady p x c).aeCmd p c.id = some (c.granted (s.deadlineOf p x c)) := by
  obtain ⟨d, found, same⟩ := State.grantee_listed h
  rw [State.aeCmd_congr (congrArg AccessEngine.cmds ((s.slotReady_keeps p x c).ae p))]
  refine State.aeCmd_setCmd_eq (d := d) ((State.aeCmd_congr ?_ _).trans found) same.symm
  rw [State.ae_tokensTaken]

theorem State.ctxStatus_slotTaken (s : State) (p x : Nat) (c : AeCmd) (k : Option Nat) (d : Nat) :
    (s.slotTaken p x c).ctxStatus k d = s.ctxStatus k d := by
  rw [State.slotTaken_rest]
  rfl

/-- The kinds of commands that bring data to the core. -/
def AeKind.brings (k : AeKind) : Prop := k = .fetch ∨ k = .gather ∨ k = .relay

section
variable (ctl : State → Nat → Word → State)

/-- A put in its slot asks for the pieces of its source. -/
theorem State.doGrant_put (kind : c.kind = .put) (open_ : s.ctxStatus c.ctx (dieOf p) = sOK)
    (plain : c.sb = none) : s.doGrant ctl p x c =
      ((s.slotReady p x c).addReads p x c.id c.loc c.len).2.setCmd p { c.granted (s.deadlineOf p x c) with
        phase := .move, need := (spadPieces (c.len / 1024 + 2) c.loc c.len).length, data := [] } := by
  have ok := (s.ctxStatus_slotTaken p x c c.ctx (dieOf p)).trans open_
  cases c
  cases kind
  cases plain
  exact if_neg (not_not.2 ok)

/-- A command whose context is not its tenancy's has failed. -/
theorem State.doGrant_denied (kind : c.kind.brings) (closed : s.ctxStatus c.ctx (dieOf p) ≠ sOK) :
    s.doGrant ctl p x c = (s.slotReady p x c).setCmd p { c.granted (s.deadlineOf p x c) with
      phase := .moved, status := s.ctxStatus c.ctx (dieOf p), rdy := x } := by
  rw [← s.ctxStatus_slotTaken p x c] at closed ⊢
  cases c
  rcases kind with kind | kind | kind <;> cases kind <;> exact if_pos closed

/-- A command whose tile is in the cache copies it. -/
theorem State.doGrant_hit (kind : c.kind.brings) (open_ : s.ctxStatus c.ctx (dieOf p) = sOK) {e : CacheEntry}
    (hit : s.cacheHit p c = some e) :
    s.doGrant ctl p x c = (s.slotReady p x c).cacheCopy p x (c.granted (s.deadlineOf p x c)) e := by
  have ok := (s.ctxStatus_slotTaken p x c c.ctx (dieOf p)).trans open_
  have found (f : CacheEntry → State) (g : State) :
      (match s.cacheHit p c with | some e => f e | none => g) = f e := by rw [hit]
  cases c
  rcases kind with kind | kind | kind <;> cases kind <;> exact (if_neg (not_not.2 ok)).trans (found _ _)

/-- A fetch that is not cached asks for its data. -/
theorem State.doGrant_fetch (kind : c.kind = .fetch) (open_ : s.ctxStatus c.ctx (dieOf p) = sOK) (cache : c.cache = false) :
    s.doGrant ctl p x c = (s.slotReady p x c).fetchGo p x (c.granted (s.deadlineOf p x c)) := by
  have ok := (s.ctxStatus_slotTaken p x c c.ctx (dieOf p)).trans open_
  cases c
  cases kind
  cases cache
  exact if_neg (not_not.2 ok)

end

end

/-! ### A fetch asks its die's HBM (R111, R115) -/

/-- A range within one tile is one piece. -/
theorem tilePieces_one {off len : Nat} (some_ : 0 < len) (one : off % 8192 + len ≤ 8192) (k : Nat) :
    tilePieces (k + 2) off len = [(off, len)] := by
  have n : min len (8192 - off % 8192) = len := by omega
  simp only [tilePieces]
  rw [if_neg (by omega), n, Nat.sub_self, if_pos rfl]

/-- The one part of a fetch within one tile of this node's HBM. -/
theorem State.aeParts_one {s : State} {c : AeCmd} (node : kNode c.far.toNat = s.node) (space : kSpace c.far.toNat = 0)
    (some_ : 0 < c.len) (one : kOff c.far.toNat % 8192 + c.len ≤ 8192) (plain : c.sb = none) :
    s.aeParts c = [⟨0, 0, c.far, c.len, 0, []⟩] := by
  have own : s.ownHbm c.far = true := by simp [State.ownHbm, node, space]
  unfold State.aeParts State.farParts
  rw [if_pos own, plain, tilePieces_one some_ one]
  simp

theorem State.aeAskAll_one {s : State} {p x i : Nat} {c : AeCmd} {r : AeReq} (h : s.aeCmd p i = some c) (one : c.reqs = [r])
    (fresh : r.st = 0) : s.aeAskAll p x i = s.aeAsk p x c r := by
  unfold State.aeAskAll
  rw [h]
  dsimp only
  rw [one, List.foldl_cons, List.foldl_nil, h]
  exact if_pos fresh

/-- A part that its access is let to read, of the core's own die, is offered to its bank. -/
theorem State.aeAsk_ownDie {s : State} {p : Pos} {x : Nat} {c : AeCmd} {r : AeReq} {l : Nat} (node : kNode r.far.toNat = s.node)
    (let_ : s.accessStatus (.core p) none aRead (kSpace r.far.toNat) (kOff r.far.toNat) r.len 0 = (sOK, s))
    (target : targetOf (kSpace r.far.toNat) (kOff r.far.toNat) r.len = .hbm (dieOf p) l) :
    s.aeAsk p x c r = s.bankOffer p x c r none := by
  have here : s.innerCross (p.val / 32) (dieOf p) = (true, s) := if_pos rfl
  unfold State.aeAsk
  dsimp only
  rw [if_pos node, if_pos p.isLt, Fin.ofNat_val_eq_self, let_]
  dsimp only
  rw [if_neg (by decide), target]
  dsimp only
  rw [here]
  rfl

/-- The request that command c makes at a bank for its part r. -/
def State.request (s : State) (p x : Nat) (c : AeCmd) (r : AeReq) (wr : Option (List Byte)) : BankReq :=
  let b := s.bankOfFar r.far
  ⟨p, c.id, r.part, b.2.1, r.len, wr,
    if b.1 / 4 == p / 32 then c.deadline.getD (c.issue + s.f (R.AE_CTL p) F.AE_CTL_AGE_LIMIT)
    else x + s.f (R.HBM_CTL b.1) F.HBM_CTL_AGE_LIMIT, c.q.isSome⟩

theorem State.bankQueue_congr {s t : State} (h : t.hbmCtls = s.hbmCtls) (k key : Nat) :
    t.bankQueue k key = s.bankQueue k key := by
  unfold State.bankQueue State.stk
  rw [h]

theorem State.bankQueue_setBankQueue (s : State) (k key : Nat) (l : List BankReq) :
    (s.setBankQueue k key l).bankQueue k key = l := by
  unfold State.bankQueue State.setBankQueue
  rw [State.stk_setStk_self]
  exact NMap.get_set_self ..

/-- A bank's queue with room takes a request. -/
theorem State.bankOffer_room {s : State} {r : AeReq}
    (room : (s.bankQueue (s.bankOfFar r.far).1 (s.bankOfFar r.far).2.2).length < 16) (p x : Nat) (c : AeCmd) (wr : Option (List Byte)) : s.bankOffer p x c r wr =
      (s.setBankQueue (s.bankOfFar r.far).1 (s.bankOfFar r.far).2.2
        (s.bankQueue (s.bankOfFar r.far).1 (s.bankOfFar r.far).2.2 ++ [s.request p x c r wr])).setCmd p
          (c.setReq { r with st := 1 }) := by
  unfold State.bankOffer
  exact if_neg (by omega)

theorem targetOf_hbm {off len d l : Nat} (h : targetOf 0 off len = .hbm d l) : off / 2 ^ 38 = d ∧ d < 8 ∧ off % 2 ^ 38 = l := by
  change (if off < 2 ^ 41 ∧ off % 2 ^ 38 + len ≤ 2 ^ 38 then Target.hbm (off / 2 ^ 38) (off % 2 ^ 38) else .bad) = _ at h
  split at h
  · cases h; exact ⟨rfl, by omega, rfl⟩
  · cases h

/-- A read of HBM that is let in is let in whatever the access engines hold. -/
theorem State.accessStatus_aes {s v : State} (rest : v = { s with aes := v.aes }) {p : Pos} {off len d l : Nat}
    (target : targetOf 0 off len = .hbm d l) (un : Unarmed s 0x1D)
    (entitled : s.entitled (.core p) none aRead 0 off len (.hbm d l) 0 = true)
    (unfenced : s.fencedTarget (.hbm d l) len = false) :
    v.accessStatus (.core p) none aRead 0 off len 0 = (sOK, v) := by
  refine State.accessStatus_ok target (by simp) (by simp) ?_ ?_ ?_ <;> rw [rest]
  · exact un
  · exact entitled
  · exact unfenced

theorem State.fetchGo_asks (s : State) (p x : Nat) {c : AeCmd} (plain : c.zprobe = false) : s.fetchGo p x c =
    (s.setCmd p { c with phase := .move, reqs := s.aeParts c }).aeAskAll p x c.id := by
  unfold State.fetchGo
  rw [if_neg (by rw [plain]; decide)]

theorem State.slotReady_ownNode {s : State} {p x : Nat} {c : AeCmd} (node : kNode c.far.toNat = s.node) :
    s.slotReady p x c = s.slotTaken p x c := by
  have same : (s.slotTaken p x c).node = s.node := by rw [State.slotTaken_rest]
  unfold State.slotReady
  rw [same, beq_iff_eq.2 node]

/-- A command in its slot whose one part has been asked for. -/
def AeCmd.asking (c : AeCmd) (dl : Nat) : AeCmd :=
  { c.granted dl with phase := .move, reqs := [⟨0, 0, c.far, c.len, 0, []⟩] }

/-- The machine once a fetch in its slot names its one part. -/
def State.fetchNamed (s : State) (p x : Nat) (c : AeCmd) : State :=
  (s.slotTaken p x c).setCmd p (c.asking (s.deadlineOf p x c))

section
variable {s : State} {p : Pos} {x l : Nat} {c : AeCmd}

theorem State.fetchNamed_rest (s : State) (p x : Nat) (c : AeCmd) :
    s.fetchNamed p x c = { s with aes := (s.fetchNamed p x c).aes } := by
  unfold State.fetchNamed
  rw [State.slotTaken_rest]
  rfl

/-- A fetch of up to a tile from its own die's HBM is offered to its bank. -/
theorem State.doGrant_ownFetch (ctl : State → Nat → Word → State) (granted : s.grantee p x = some c) (kind : c.kind = .fetch)
    (open_ : s.ctxStatus c.ctx (dieOf p) = sOK) (cache : c.cache = false) (zprobe : c.zprobe = false) (plain : c.sb = none)
    (un : Unarmed s 0x1D) (node : kNode c.far.toNat = s.node) (some_ : 0 < c.len) (one : l % 8192 + c.len ≤ 8192)
    (space : kSpace c.far.toNat = 0) (target : targetOf 0 (kOff c.far.toNat) c.len = .hbm (dieOf p) l)
    (entitled : s.entitled (.core p) none aRead 0 (kOff c.far.toNat) c.len (.hbm (dieOf p) l) 0 = true)
    (unfenced : s.fencedTarget (.hbm (dieOf p) l) c.len = false) :
    s.doGrant ctl p x c =
      (s.fetchNamed p x c).bankOffer p x (c.asking (s.deadlineOf p x c)) ⟨0, 0, c.far, c.len, 0, []⟩ none := by
  obtain ⟨_, _, off⟩ := targetOf_hbm target
  have node' : kNode c.far.toNat = (s.slotTaken p x c).node := by rw [State.slotTaken_rest]; exact node
  have parts : (s.slotTaken p x c).aeParts (c.granted (s.deadlineOf p x c)) = [⟨0, 0, c.far, c.len, 0, []⟩] :=
    State.aeParts_one node' space some_ (show kOff c.far.toNat % 8192 + c.len ≤ 8192 by omega) plain
  have listed := State.aeCmd_slotReady granted
  rw [State.slotReady_ownNode node] at listed
  have named : (s.fetchNamed p x c).aeCmd p c.id = some (c.asking (s.deadlineOf p x c)) := State.aeCmd_setCmd_eq listed rfl
  have here := s.fetchNamed_rest p x c
  rw [State.doGrant_fetch ctl kind open_ cache, State.slotReady_ownNode node,
    State.fetchGo_asks (c := c.granted _) _ _ _ zprobe, parts]
  refine (State.aeAskAll_one named rfl rfl).trans (State.aeAsk_ownDie (by rw [here]; exact node) ?_ (by rw [space]; exact target))
  rw [space]
  exact State.accessStatus_aes here target un entitled unfenced

/-- A put takes no tokens. -/
theorem AeCmd.tokens_put (kind : c.kind = .put) : c.tokens = 0 := by
  unfold AeCmd.tokens
  rw [kind]
  exact ite_self _

theorem AeCmd.tokens_fetch (kind : c.kind = .fetch) (zprobe : c.zprobe = false) (plain : c.sb = none) : c.tokens = c.len := by
  unfold AeCmd.tokens
  rw [kind, zprobe, plain]
  rfl

/-- The bytes of a scratchpad once a slot is granted. -/
theorem State.spadBytes_slotReady (s : State) (p x : Nat) (c : AeCmd) (off n : Nat) :
    (s.slotReady p x c).spadBytes p off n = s.spadBytes p off n := by
  have kept := s.slotReady_keeps p x c
  have rest := s.slotTaken_rest p x c
  have zconf : ((s.slotReady p x c).ae p).zconf = (s.ae p).zconf := by rw [State.ae_slotReady]
  have spad : (s.slotReady p x c).spad = s.spad := kept.spad.trans (by rw [rest])
  have lifted : (s.slotReady p x c).liftedCores = s.liftedCores := kept.liftedCores.trans (by rw [rest])
  unfold State.spadBytes
  simp only [State.spadByte_congr zconf spad lifted]

/-- Parts of the machine that a granted slot leaves alone. -/
theorem State.slotReady_memories (s : State) (p x : Nat) (c : AeCmd) : (s.slotReady p x c).spad = s.spad ∧
    (s.slotReady p x c).hbm = s.hbm ∧ (s.slotReady p x c).hbmCtls = s.hbmCtls := by
  have kept := s.slotReady_keeps p x c
  have rest := s.slotTaken_rest p x c
  exact ⟨kept.spad.trans (by rw [rest]), kept.hbm.trans (by rw [rest]),
    (kept.same .hbmCtls (by decide)).trans (by rw [rest])⟩

theorem State.rd_slotReady (s : State) (p x : Nat) (c : AeCmd) {a : Nat} (out : 0x100_0000 ≤ a) :
    (s.slotReady p x c).rd a = s.rd a := by
  have taken : (s.slotTaken p x c).rd a = s.rd a := State.rd_congr (by rw [State.slotTaken_rest]) a
  unfold State.slotReady
  split
  · exact (State.rd_ctxNeedD _ _ out).trans taken
  · exact taken

end

/-- Settles O20: a put asks for its pieces, a denied command fails, a cached tile is copied, and a fetch joins its bank. -/
theorem slotGrantsStart : Obligations.SlotGrantsStart := by
  unfold Obligations.SlotGrantsStart
  intro p x c s granted free waited
  have listed := State.aeCmd_slotReady granted
  have ae := s.ae_slotReady p x c
  obtain ⟨spad, hbm, ctls⟩ := s.slotReady_memories p x c
  refine ⟨_, exec_aeSlotGrant granted free waited, fun kind open_ plain => ?put, fun kind closed => ?denied,
    fun kind open_ e hit => ?cached,
    fun kind open_ cache zprobe plain un node l some_ one space target entitled unfenced home => ?fetch⟩
  case put =>
    rw [State.doGrant_put _ kind open_ plain]
    refine ⟨_, (State.aeCmd_clock ..).trans (State.aeCmd_setCmd_eq (d := c.granted (s.deadlineOf p x c)) ?_ rfl),
      rfl, rfl, rfl, rfl, rfl, ?_, ?_, ?_, ?_, ?_⟩
    · exact (State.aeCmd_congr (by rw [State.addReads, State.ae_setAe_self]) _).trans listed
    · rw [State.ae_clock, State.ae_setCmd_self, State.addReads, State.ae_setAe_self, ae]
    · rw [State.ae_clock, State.ae_setCmd_self, State.addReads, State.ae_setAe_self, ae, AeCmd.tokens_put kind]
      exact ite_self _
    · exact (State.clock_spad ..).trans spad
    · exact (State.clock_hbm ..).trans hbm
    · exact (State.clock_hbmCtls ..).trans ctls
  case denied =>
    rw [State.doGrant_denied _ kind closed]
    exact ⟨_, (State.aeCmd_clock ..).trans (State.aeCmd_setCmd_eq listed rfl), rfl, rfl,
      (State.clock_hbmCtls ..).trans ctls, (State.clock_spad ..).trans spad, (State.clock_hbm ..).trans hbm⟩
  case cached =>
    have apart : 0x100_0000 ≤ R.AE_CNT_TC_HIT p := by simp only [R.AE_CNT_TC_HIT, Blk.base, coreBase]; omega
    have base : ((s.slotReady p x c).ae p).cacheBase e.slot = (s.ae p).cacheBase e.slot := by rw [ae]; rfl
    rw [State.doGrant_hit _ kind open_ hit, State.cacheCopy]
    refine ⟨_, (State.aeCmd_clock ..).trans (State.aeCmd_setCmd_eq (d := c.granted (s.deadlineOf p x c)) ?_ rfl),
      rfl, rfl, ?_, ?_, ?_, ?_, ?_, ?_⟩
    · exact (State.aeCmd_congr (by rw [State.ae_bump, State.ae_setAe_self]) _).trans listed
    · rw [State.spadBytes_slotReady, base]
    · rw [State.rd_clock, State.rd_setCmd, State.rd_bump_self, State.rd_setAe, State.rd_slotReady _ _ _ _ apart]; rfl
    · rw [State.ae_clock, State.ae_setCmd_self, State.ae_bump, State.ae_setAe_self, ae]
      exact if_pos (.inl (by rw [hit]; rfl))
    · rw [State.clock_hbmCtls, State.setCmd_hbmCtls, State.bump_hbmCtls]; exact ctls
    · rw [State.clock_spad, State.setCmd_spad, State.bump_spad]; exact spad
    · rw [State.clock_hbm, State.setCmd_hbm, State.bump_hbm]; exact hbm
  case fetch =>
    intro b room
    obtain ⟨die, lt, off⟩ := targetOf_hbm target
    have rest := s.fetchNamed_rest p x c
    have bank : (s.fetchNamed p x c).bankOfFar c.far = b := by rw [rest]; rfl
    have queue : (s.fetchNamed p x c).bankQueue b.1 b.2.2 = s.bankQueue b.1 b.2.2 := by rw [rest]; rfl
    have near : b.1 / 4 = p.val / 32 := by
      have place : b.1 = (s.hbmPlace (kOff c.far.toNat / 2 ^ 38 % 8) (kOff c.far.toNat % 2 ^ 38)).1 := rfl
      rw [place, die, off, Nat.mod_eq_of_lt lt]
      exact home
    rw [State.doGrant_ownFetch _ granted kind open_ cache zprobe plain un node some_ one space target entitled unfenced,
      State.bankOffer_room (by rw [bank, queue]; exact room), bank, queue]
    refine ⟨(s.fetchNamed p x c).request p x (c.asking (s.deadlineOf p x c)) ⟨0, 0, c.far, c.len, 0, []⟩ none, ?_, rfl, rfl,
      rfl, congrArg (·.2.1) bank, rfl, ?_, ?_, ?_, ?_⟩
    · rw [State.bankQueue_congr (State.clock_hbmCtls ..), State.bankQueue_congr (State.setCmd_hbmCtls ..),
        State.bankQueue_setBankQueue]
    · rw [State.request]
      dsimp only
      rw [bank, near, beq_self_eq_true, if_pos rfl]
      rfl
    · rw [State.slotReady_ownNode node] at ae
      rw [State.ae_clock, State.ae_setCmd_self, State.setBankQueue, State.ae_setStk, State.fetchNamed, State.ae_setCmd_self, ae]
      simp [State.cacheHit, cache, AeCmd.tokens_fetch kind zprobe plain]
    · rw [State.clock_spad, State.setCmd_spad, State.setBankQueue, State.setStk_spad, rest]
    · rw [State.clock_hbm, State.setCmd_hbm, State.setBankQueue, State.setStk_hbm, rest]

/-! ### A pseudo-channel takes a request (R112, R120) -/

/-- The counters of stack k's transfers. -/
def hbmCount (k a : Nat) : Prop := Blk.base .hbm k + 0x100 ≤ a ∧ a < Blk.base .hbm k + 0x140

/-- A request's row is hit, or activated. -/
def State.rowCounted (s : State) (k : Nat) (hit : Bool) : State :=
  if hit then s.bump (R.HBM_CNT_ROW_HIT k) 1 else (s.bump (R.HBM_CNT_ROW_ACT k) 1).energy (k / 4) 11 1

/-- A request's row is open while one of the rest needs it, and its pseudo-channel is busy until cycle fin. -/
def State.rowOpened (s : State) (k pc b fin : Nat) (q : BankReq) (rest : List BankReq) : State :=
  let row := rowOf (s.phys k q.addr)
  let keep := rest.any fun r => rowOf (s.phys k r.addr) == row
  s.setStk k { s.stk k with
    openRow := (s.stk k).openRow.set (fun _ => 0) (32 * pc + b) (if keep then row + 1 else 0)
    busyTo := (s.stk k).busyTo.set (fun _ => 0) pc fin }

/-- The counters of a request served until cycle fin: late, or aged before those queued, and its transfer. -/
def State.requestCounted (s : State) (k fin : Nat) (q : BankReq) (aged : Bool) : State :=
  let u := if q.deadline < fin then s.bump (R.HBM_CNT_DEADLINE_MISS k) 1 else s
  let v := if aged then u.bump (R.HBM_CNT_AGED k) 1 else u
  v.countTransfer k q.addr q.len q.wr.isSome

/-- Request bq has left its bank's queue, and its row is counted. -/
def State.requestTaken (s : State) (k pc : Nat) (bq : Nat × BankReq) : State :=
  (s.setBankQueue k (32 * pc + bq.1) ((s.bankQueue k (32 * pc + bq.1)).erase bq.2)).rowCounted k (s.rowOpen k pc bq.1 bq.2)

/-- The machine once a pseudo-channel has taken request bq until cycle fin, short of its bytes. -/
def State.pcServed (s : State) (k pc fin : Nat) (bq : Nat × BankReq) : State :=
  ((s.requestTaken k pc bq).rowOpened k pc bq.1 fin bq.2 ((s.bankQueue k (32 * pc + bq.1)).erase bq.2)).requestCounted k fin bq.2
    (!bq.2.queued && ((s.pcRequests k pc).filter fun r => r != bq).any fun r => r.2.queued)

/-- What a request brings in its last cycle: bytes to the command that asked, or to the stack. -/
def State.delivered (s : State) (k x : Nat) (q : BankReq) : State :=
  match q.wr with
  | some bs => (s.eccWrite k q.addr bs).aeWritten q.pos q.cmd q.part sOK
  | none =>
    let r := s.eccRead k q.addr q.len
    let zero := r.2.zmapBit k (q.addr / 8192) && decide (q.len = 8192)
    let u := r.2.aeData q.pos q.cmd q.part x sOK r.1 (some (r.2.versionAt (k / 4) (r.2.dieLocal k q.addr))) zero
    match u.aeCmd q.pos q.cmd with
    | some c => if c.kind = .gather then u.aeAskRows q.pos x q.cmd else u
    | none => u

section
variable (s : State) (k : Nat) (q : BankReq)

theorem State.rd_rowCounted (hit : Bool) {a : Nat} (out : ¬ hbmCount k a) : (s.rowCounted k hit).rd a = s.rd a := by
  have hits : a ≠ R.HBM_CNT_ROW_HIT k := fun e => out (by subst e; simp only [hbmCount, R.HBM_CNT_ROW_HIT]; omega)
  have acts : a ≠ R.HBM_CNT_ROW_ACT k := fun e => out (by subst e; simp only [hbmCount, R.HBM_CNT_ROW_ACT]; omega)
  unfold State.rowCounted
  split
  · exact State.rd_bump_ne _ _ _ _ hits
  · rw [State.rd_energy, State.rd_bump_ne _ _ _ _ acts]

theorem State.rowCounted_hbmCtls (hit : Bool) : (s.rowCounted k hit).hbmCtls = s.hbmCtls := by
  unfold State.rowCounted
  split
  · exact State.bump_hbmCtls ..
  · exact (State.energy_hbmCtls ..).trans (State.bump_hbmCtls ..)

theorem State.rd_requestCounted (fin : Nat) (aged : Bool) {a : Nat} (out : ¬ hbmCount k a) :
    (s.requestCounted k fin q aged).rd a = s.rd a := by
  have reads : a ≠ R.HBM_CNT_RD_TILES k := fun e => out (by subst e; simp only [hbmCount, R.HBM_CNT_RD_TILES]; omega)
  have writes : a ≠ R.HBM_CNT_WR_TILES k := fun e => out (by subst e; simp only [hbmCount, R.HBM_CNT_WR_TILES]; omega)
  have parts : a ≠ R.HBM_CNT_PART k := fun e => out (by subst e; simp only [hbmCount, R.HBM_CNT_PART]; omega)
  have misses : a ≠ R.HBM_CNT_DEADLINE_MISS k := fun e => out (by subst e; simp only [hbmCount, R.HBM_CNT_DEADLINE_MISS]; omega)
  have ages : a ≠ R.HBM_CNT_AGED k := fun e => out (by subst e; simp only [hbmCount, R.HBM_CNT_AGED]; omega)
  unfold State.requestCounted State.countTransfer
  dsimp only
  rw [State.rd_energy, State.rd_bump_ne]
  · split <;> split <;> simp [State.rd_bump_ne _ _ _ _ ages, State.rd_bump_ne _ _ _ _ misses]
  · split
    · split <;> assumption
    · assumption

end

theorem exec_pcServe {s : State} {k : Stk} {pc : Fin 64} {x : Nat} {bq : Nat × BankReq} (h : s.pcPick k pc = some bq)
    (idle : (s.stk k).busyTo.get (fun _ => 0) pc ≤ x) :
    exec (.pcServe k pc x) s = .next ((s.doPcServe k pc x bq).clock (k / 4) x) := by
  show execPcServe k pc x s = _
  unfold execPcServe
  rw [h]
  exact State.when_true _ _ (by simpa using idle)

theorem State.doPcServe_eq {s : State} {k pc x : Nat} {bq : Nat × BankReq} (open_ : s.stackClosed k bq.2.addr = false)
    (up : s.dieDown (k / 4) = false) : s.doPcServe k pc x bq =
      (s.pcServed k pc (x + (s.requestTaken k pc bq).pcCycles (k / 4) bq.2.len) bq).delivered k
        (x + (s.requestTaken k pc bq).pcCycles (k / 4) bq.2.len) bq.2 := by
  have served : ¬ ((s.stackClosed k bq.2.addr || s.dieDown (k / 4)) = true) := by rw [open_, up]; decide
  exact if_neg served

section
variable (s : State) (k pc fin : Nat) (bq : Nat × BankReq)

theorem State.rd_requestTaken {a : Nat} (out : ¬ hbmCount k a) : (s.requestTaken k pc bq).rd a = s.rd a :=
  State.rd_rowCounted _ _ _ out

theorem State.rd_pcServed {a : Nat} (out : ¬ hbmCount k a) : (s.pcServed k pc fin bq).rd a = s.rd a :=
  (State.rd_requestCounted _ _ _ _ _ out).trans (s.rd_requestTaken k pc bq out)

theorem State.requestCounted_hbmCtls (q : BankReq) (aged : Bool) : (s.requestCounted k fin q aged).hbmCtls = s.hbmCtls := by
  unfold State.requestCounted State.countTransfer
  dsimp only
  rw [State.energy_hbmCtls, State.bump_hbmCtls]
  split <;> split <;> simp only [State.bump_hbmCtls]

theorem State.stk_congr {s t : State} (h : t.hbmCtls = s.hbmCtls) (j : Nat) : t.stk j = s.stk j := by
  unfold State.stk
  rw [h]

theorem State.stk_requestTaken : (s.requestTaken k pc bq).stk k = { s.stk k with
    queues := (s.stk k).queues.set (fun _ => []) (32 * pc + bq.1) ((s.bankQueue k (32 * pc + bq.1)).erase bq.2) } :=
  (State.stk_congr (State.rowCounted_hbmCtls ..) k).trans (State.stk_setStk_self ..)

theorem State.stk_rowOpened (b : Nat) (q : BankReq) (rest : List BankReq) : ∃ rows, (s.rowOpened k pc b fin q rest).stk k =
    { s.stk k with openRow := rows, busyTo := (s.stk k).busyTo.set (fun _ => 0) pc fin } :=
  ⟨_, State.stk_setStk_self ..⟩

/-- A stack whose pseudo-channel pc has taken a request: its queue is shorter, and the channel busy. -/
theorem State.stk_pcServed : ∃ rows, (s.pcServed k pc fin bq).stk k = { s.stk k with
    queues := (s.stk k).queues.set (fun _ => []) (32 * pc + bq.1) ((s.bankQueue k (32 * pc + bq.1)).erase bq.2)
    openRow := rows, busyTo := (s.stk k).busyTo.set (fun _ => 0) pc fin } := by
  obtain ⟨rows, opened⟩ := (s.requestTaken k pc bq).stk_rowOpened k pc fin bq.1 bq.2
    ((s.bankQueue k (32 * pc + bq.1)).erase bq.2)
  rw [State.stk_requestTaken] at opened
  exact ⟨rows, (State.stk_congr (State.requestCounted_hbmCtls ..) k).trans opened⟩

theorem State.pcServed_keeps : Kept 0xc010 s (s.pcServed k pc fin bq) := by
  have m : Sub 0xc010 0xc010 := Sub.refl _
  have counted (u : State) (hit : Bool) (h : Kept 0xc010 s u) : Kept 0xc010 s (u.rowCounted k hit) :=
    .ite (State.bump_kept h ..) (State.energy_kept (State.bump_kept h ..) ..)
  have opened : Kept 0xc010 s ((s.requestTaken k pc bq).rowOpened k pc bq.1 fin bq.2
      ((s.bankQueue k (32 * pc + bq.1)).erase bq.2)) :=
    State.setStk_kept (counted _ _ (State.setStk_kept (.refl _ s) ..)) ..
  unfold State.pcServed State.requestCounted
  exact State.countTransfer_kept (.ite (State.bump_kept (.ite (State.bump_kept opened ..) opened) ..)
    (.ite (State.bump_kept opened ..) opened)) ..

/-- The cycles of a transfer do not turn on what it counts. -/
theorem State.pcCycles_requestTaken (d n : Nat) : (s.requestTaken k pc bq).pcCycles d n = s.pcCycles d n := by
  have out : ¬ hbmCount k (R.CLK_STAT d) := by simp only [hbmCount, R.CLK_STAT, Blk.base, dieBase]; omega
  unfold State.pcCycles State.mhz
  rw [State.f_congr (s.rd_requestTaken k pc bq out)]

end

/-! ### Pseudo-channels stay busy (R112) -/

/-- From s to t no pseudo-channel has become free or busy. -/
structure BusyKept (s t : State) : Prop where
  busyTo : ∀ j, (t.stk j).busyTo = (s.stk j).busyTo

namespace BusyKept
variable {s t u : State}

theorem refl (s : State) : BusyKept s s := ⟨fun _ => rfl⟩

theorem trans (h : BusyKept s t) (k : BusyKept t u) : BusyKept s u :=
  ⟨fun j => (k.busyTo j).trans (h.busyTo j)⟩

theorem of_kept {m : Nat} (h : Kept m s t) (n : m.testBit 15 = false := by decide) : BusyKept s t :=
  ⟨fun j => by rw [State.stk_congr (h.same .hbmCtls n)]⟩

theorem setStk (s : State) {k : Nat} {v : StackState} (h : v.busyTo = (s.stk k).busyTo) : BusyKept s (s.setStk k v) := by
  refine ⟨fun j => ?_⟩
  by_cases e : j = k
  · rw [e, State.stk_setStk_self, h]
  · rw [State.stk_setStk_ne _ _ _ _ e]

theorem ite {c : Prop} [Decidable c] (h : BusyKept s t) (k : BusyKept s u) : BusyKept s (if c then t else u) := by
  split <;> assumption

end BusyKept

theorem State.bankOffer_busy (s : State) (p x : Nat) (c : AeCmd) (r : AeReq) (wr : Option (List Byte)) :
    BusyKept s (s.bankOffer p x c r wr) := by
  unfold State.bankOffer
  extract_lets b l u a home dl q
  refine .ite ?_ ?_
  · have counted : BusyKept s u :=
      .of_kept (State.bump_kept (State.bump_kept (.refl 0x10 s) _ _ ⟨by decide⟩) _ _ ⟨by decide⟩)
    exact counted.trans (.of_kept (State.setAe_kept (.refl 0x800 u) _ _ (Sub.refl _)))
  · have queued : BusyKept s (s.setBankQueue b.1 b.2.2 (l ++ [q])) := .setStk s rfl
    exact queued.trans (.of_kept (State.setAe_kept (.refl 0x800 _) _ _ (Sub.refl _)))

theorem State.aeData_busy (s : State) (p id part x status : Nat) (bs : List Byte) (ver : Option Nat) (zero : Bool) :
    BusyKept s (s.aeData p id part x status bs ver zero) :=
  .of_kept (State.aeData_kept (.refl _ s) _ _ _ _ _ _ _ _ (Sub.refl _))

/-- Asking for a part of a read queues a request at most. -/
theorem State.aeAsk_busy (s : State) (p x : Nat) (c : AeCmd) (r : AeReq) : BusyKept s (s.aeAsk p x c r) := by
  unfold State.aeAsk
  extract_lets fa g u ctx q v blank k l
  have answered (v : State) (h : BusyKept s v) (st : Nat) (bs : List Byte) (ver : Option Nat) :
      BusyKept s (v.aeData p c.id r.part x st bs ver false) := h.trans (v.aeData_busy ..)
  refine .ite ?here ?far
  case here =>
    have checked : BusyKept s u := by
      unfold u g
      split
      · exact .of_kept (State.accessStatus_kept (.refl _ s) _ _ _ _ _ _ _ (Sub.refl _))
      · exact .refl s
    refine .ite (answered _ checked ..) ?_
    split
    · rename_i d _ _
      have crossed : BusyKept s (u.innerCross (p / 32) d).2 :=
        checked.trans (.of_kept (State.innerCross_kept (.refl _ u) _ _ (Sub.refl _)))
      exact .ite (crossed.trans (State.bankOffer_busy ..)) (answered _ crossed ..)
    · exact answered _ checked ..
    · exact answered _ checked ..
    · exact answered _ checked ..
    · exact checked
  case far =>
    have numbered : BusyKept s q.2 := .of_kept (State.reserveSeq_kept (.refl _ s) _ _ _ (Sub.refl _))
    have named : BusyKept s v := numbered.trans (.of_kept (State.setAe_kept (.refl 0x800 q.2) _ _ (Sub.refl _)))
    have left : BusyKept s l.2 := named.trans (.of_kept (State.launch_kept (.refl _ v) _ _ _ (Sub.refl _)))
    split
    · exact left
    · exact answered _ (left.trans (.of_kept (State.dropTxPkt_kept (.refl _ l.2) _ _ _ (Sub.refl _)))) ..

theorem BusyKept.foldl {α : Type} {f : State → α → State} (l : List α) (h : ∀ u x, BusyKept u (f u x)) (s : State) :
    BusyKept s (l.foldl f s) := by
  induction l generalizing s with
  | nil => exact .refl s
  | cons x l ih => exact (h s x).trans (ih _)

theorem State.aeAskRows_busy (s : State) (p x id : Nat) : BusyKept s (s.aeAskRows p x id) := by
  unfold State.aeAskRows
  split
  · exact .refl s
  · refine .foldl _ (fun u r => ?_) s
    split
    · exact .ite (u.aeAsk_busy ..) (.refl u)
    · exact .refl u

theorem State.eccInject_busy (s : State) (det k a n : Nat) : BusyKept s (s.eccInject det k a n) := by
  unfold State.eccInject
  extract_lets i
  have fired : BusyKept s i.2 := .of_kept (State.inject_kept (.refl _ s) _ _ _ _ (Sub.refl _))
  split
  · exact fired
  · exact fired.trans (.setStk _ rfl)

theorem State.stackWrite_busy (s : State) (k a : Nat) (bs : List Byte) : BusyKept s (s.stackWrite k a bs) := by
  unfold State.stackWrite
  extract_lets u v w
  have written : BusyKept s u := .of_kept (State.setHbmBytes_kept (.refl _ s) _ _ _ (Sub.refl _))
  have mapped : BusyKept s v := written.trans (.setStk u rfl)
  exact .ite mapped (mapped.trans (.setStk v rfl))

theorem State.eccWrite_busy (s : State) (k a : Nat) (bs : List Byte) : BusyKept s (s.eccWrite k a bs) := by
  unfold State.eccWrite
  exact ((((s.stackWrite_busy k a bs).trans (State.eccInject_busy ..)).trans (State.eccInject_busy ..)).trans
    (State.eccInject_busy ..)).trans (.of_kept (State.noteWritten_kept (.refl _ _) _ _ _ _ (Sub.refl _)))

/-- Delivering a request's bytes leaves the pseudo-channels as busy as they were. -/
theorem State.delivered_busy (s : State) (k x : Nat) (q : BankReq) : BusyKept s (s.delivered k x q) := by
  unfold State.delivered
  split
  · rename_i bs _
    exact (s.eccWrite_busy k q.addr bs).trans (.of_kept (State.aeWritten_kept (.refl _ _) _ _ _ _ (Sub.refl _)))
  · extract_lets r zero u
    have read : BusyKept s u :=
      .trans (.of_kept (State.eccRead_kept (.refl _ s) k q.addr q.len (Sub.refl _))) (State.aeData_busy ..)
    split
    · exact .ite (read.trans (State.aeAskRows_busy ..)) read
    · exact read

/-! ### Bytes of a stack (R109, R295) -/

theorem State.phys_congr {s t : State} {k : Nat} (redir : t.rd (R.HBM_PC_REDIR k) = s.rd (R.HBM_PC_REDIR k)) (a : Nat) :
    t.phys k a = s.phys k a := by
  unfold State.phys
  simp only [State.f_congr redir]

/-- A redirected tile lies in the repair group of another pseudo-channel, inside the stack. -/
theorem State.phys_lt (s : State) (k : Nat) {a : Nat} (h : a < 2 ^ 36) : s.phys k a < 2 ^ 36 := by
  have hp := s.f_lt (R.HBM_PC_REDIR k) F.HBM_PC_REDIR_PC
  have hg := s.f_lt (R.HBM_PC_REDIR k) F.HBM_PC_REDIR_GROUP
  have bank : bankOf a < 32 := Nat.mod_lt _ (by decide)
  have row : rowOf a < 1024 := Nat.mod_lt _ (by decide)
  unfold State.phys
  extract_lets r p grp g i q row'
  change p < 64 at hp
  change grp < 64 at hg
  split
  case isTrue redirected =>
    obtain ⟨_, _, other⟩ := redirected
    have hi : i < 63 := by
      show (if g < grp then g else g - 1) < 63
      split <;> omega
    have hq : q < 64 := by
      show (if i < p then i else i + 1) < 64
      split <;> omega
    have hrow : row' < 1024 := by omega
    omega
  case isFalse => exact h

theorem State.hbmByte_congr {s t : State} {j : Nat} (redir : t.rd (R.HBM_PC_REDIR j) = s.rd (R.HBM_PC_REDIR j))
    (hbm : t.hbm = s.hbm) (lifted : t.liftedPcs = s.liftedPcs) (a : Nat) : t.hbmByte j a = s.hbmByte j a := by
  unfold State.hbmByte State.hbmRest
  rw [State.phys_congr redir, hbm, lifted]

theorem State.hbmByte_setHbmByte (s : State) (k a : Nat) (b : Byte) (j c : Nat) : (s.setHbmByte k a b).hbmByte j c =
    if hbmKey j (s.phys j c) = hbmKey k (s.phys k a) then b else s.hbmByte j c :=
  NMap.get_set ..

theorem hbmKey_ne {j k a b : Nat} (ha : a < 2 ^ 36) (hb : b < 2 ^ 36) (h : j = k → a ≠ b) : hbmKey j a ≠ hbmKey k b := by
  unfold hbmKey
  by_cases e : j = k
  · have := h e
    omega
  · omega

section
variable {s : State} {k a : Nat} {bs : List Byte}

/-- A byte that lies apart, physically, from those written is as it was. -/
theorem State.hbmByte_setHbmBytes_apart {j c : Nat} (fits : a + bs.length ≤ 2 ^ 36) (here : c < 2 ^ 36)
    (apart : j = k → ∀ i, i < bs.length → s.phys k c ≠ s.phys k (a + i)) :
    (s.setHbmBytes k a bs).hbmByte j c = s.hbmByte j c := by
  induction bs generalizing s a with
  | nil => rfl
  | cons b bs ih =>
    simp only [List.length_cons] at fits apart
    have other : hbmKey j (s.phys j c) ≠ hbmKey k (s.phys k a) :=
      hbmKey_ne (s.phys_lt j here) (s.phys_lt k (by omega)) fun e => by subst e; exact apart rfl 0 (by omega)
    refine (ih (s := s.setHbmByte k a b) (a := a + 1) (by omega) fun e i h => ?_).trans
      ((s.hbmByte_setHbmByte k a b j c).trans (if_neg other))
    have := apart e (i + 1) (by omega)
    rwa [show a + (i + 1) = a + 1 + i by omega] at this

/-- The bytes written are there, where no two of them share a place. -/
theorem State.hbmByte_setHbmBytes_inside (fits : a + bs.length ≤ 2 ^ 36)
    (places : ∀ i (_ : i < bs.length) j (_ : j < bs.length), i ≠ j → s.phys k (a + i) ≠ s.phys k (a + j)) {i : Nat}
    (h : i < bs.length) : (s.setHbmBytes k a bs).hbmByte k (a + i) = bs[i] := by
  induction bs generalizing s a i with
  | nil => exact absurd h (Nat.not_lt_zero i)
  | cons b bs ih =>
    simp only [List.length_cons] at fits places h
    cases i with
    | zero =>
      refine (State.hbmByte_setHbmBytes_apart (s := s.setHbmByte k a b) (a := a + 1) (by omega) (by omega)
        fun _ j h => ?_).trans ((s.hbmByte_setHbmByte k a b k a).trans (if_pos rfl))
      have := places 0 (by omega) (j + 1) (by omega) (by omega)
      rwa [show a + (j + 1) = a + 1 + j by omega] at this
    | succ i =>
      have rest := ih (s := s.setHbmByte k a b) (a := a + 1) (i := i) (by omega) (fun m hm j hj n => ?_) (by omega)
      · rw [List.getElem_cons_succ, ← rest, show a + (i + 1) = a + 1 + i by omega]
        rfl
      · have := places (m + 1) (by omega) (j + 1) (by omega) (by omega)
        rwa [show a + (m + 1) = a + 1 + m by omega, show a + (j + 1) = a + 1 + j by omega] at this

end

theorem State.eccInject_unarmed {s : State} {det : Nat} (un : Unarmed s det) (k a n : Nat) : s.eccInject det k a n = s := by
  unfold State.eccInject
  dsimp only
  rw [State.inject_unarmed un _ _ _]

/-- A write to a stack without a corrupted word, with no HBM point armed. -/
theorem State.eccWrite_quiet {s : State} {k : Nat} (clean : (s.stk k).bad = []) (un₁ : Unarmed s 0x01) (un₂ : Unarmed s 0x02)
    (un₃ : Unarmed s 0x03) (a : Nat) (bs : List Byte) :
    (s.eccWrite k a bs).hbm = (s.setHbmBytes k a bs).hbm ∧ (s.eccWrite k a bs).regs = s.regs ∧
      (s.eccWrite k a bs).aes = s.aes ∧ (s.eccWrite k a bs).liftedPcs = s.liftedPcs := by
  have bytes : Kept 0x40 s (s.setHbmBytes k a bs) := State.setHbmBytes_kept (.refl _ s) _ _ _ (Sub.refl _)
  have written : s.stackWrite k a bs =
      (s.setHbmBytes k a bs).setZmap k (a / 8192) (bs.length == 8192 && a % 8192 == 0 && bs.all (· == 0)) := by
    unfold State.stackWrite
    refine if_pos ?_
    rw [State.setZmap, State.stk_setStk_self, State.stk_congr (bytes.same .hbmCtls (by decide)), clean]
    rfl
  have regs : (s.stackWrite k a bs).regs = s.regs := by rw [written]; exact bytes.regs
  unfold State.eccWrite
  dsimp only
  rw [State.eccInject_unarmed (un₁.of_regs regs), State.eccInject_unarmed (un₂.of_regs regs),
    State.eccInject_unarmed (un₃.of_regs regs), written]
  exact ⟨rfl, bytes.regs, bytes.same .aes (by decide), bytes.same .liftedPcs (by decide)⟩

/-! ### What a request delivers (R111, R113) -/

/-- A put that neither counts nor signals and has absorbed none only leaves the list. -/
theorem State.aePutEnd_plain (s : State) (p : Nat) {c : AeCmd} (cnt : c.cnt = false) (flag : c.flag = none)
    (alone : c.merged = []) : s.aePutEnd p c = s.aeRemove p c := by
  have none_ (u : State) (space off : Nat) : u.putEffects c.ctx c.cnt c.flag c.exp space off = u := by
    unfold State.putEffects
    rw [cnt, flag]
    split <;> rfl
  unfold State.aePutEnd State.absorbed
  rw [alone]
  dsimp only [List.filterMap_nil, List.foldl_cons, List.foldl_nil]
  rw [none_, ite_self, ite_self]

/-- A part of such a put that is written changes the list only. -/
theorem State.aeWritten_plain {s : State} {p id : Nat}
    (plain : ∀ c, s.aeCmd p id = some c → c.cnt = false ∧ c.flag = none ∧ c.merged = []) (part status : Nat) :
    s.aeWritten p id part status = { s with aes := (s.aeWritten p id part status).aes } := by
  unfold State.aeWritten
  split
  case h_1 => rfl
  case h_2 c found =>
    obtain ⟨cnt, flag, alone⟩ := plain c found
    split
    case h_1 => rfl
    case h_2 r _ =>
      extract_lets c₁ c₂ u
      split
      · rw [State.aePutEnd_plain u p (c := c₂) cnt flag alone, State.aeRemove_rest]
        rfl
      · rfl

/-- A part that is replaced is found in its new form. -/
theorem AeCmd.req_setReq {c : AeCmd} {part : Nat} {q r : AeReq} (h : c.req part = some r) (same : q.part = r.part) :
    (c.setReq q).req part = some q := by
  have number : r.part = part := by simpa using List.find?_some h
  have parts : ((fun d : AeReq => d.part == part) ∘ fun d => if d.part = q.part then q else d) = fun d => d.part == part := by
    funext d
    by_cases e : d.part = q.part <;> simp [e]
  unfold AeCmd.req AeCmd.setReq at *
  rw [List.find?_map, parts, h, Option.map_some, if_pos same.symm]

theorem State.aeCmd_addWrites (s : State) (p rdy kind id off : Nat) (bs : List Byte) (i : Nat) :
    (s.addWrites p rdy kind id off bs).2.aeCmd p i = s.aeCmd p i :=
  State.aeCmd_congr (by rw [State.addWrites, State.ae_setAe_self]) i

theorem State.aeGathered_listed {s : State} {p : Nat} {c : AeCmd} (h : s.aeCmd p c.id = some c) (x : Nat) :
    ∃ g, (s.aeGathered p x c).aeCmd p c.id = some g ∧ g.reqs = c.reqs ∧ g.kind = c.kind := by
  unfold State.aeGathered
  split
  · exact ⟨_, State.aeCmd_setCmd_eq h rfl, rfl, rfl⟩
  · extract_lets img w v
    have queued : w.2.aeCmd p c.id = some c := (State.aeCmd_addWrites ..).trans h
    have queued' : v.2.aeCmd p c.id = some c := by
      dsimp only [v]
      split
      · exact (State.aeCmd_addWrites ..).trans queued
      · exact queued
    exact ⟨_, State.aeCmd_setCmd_eq queued' rfl, rfl, rfl⟩

/-- A fetch goes on once a part is in: with its other parts, or with its pieces. -/
def State.fetchOn (s : State) (p x : Nat) (c : AeCmd) : State :=
  if c.allDone then (s.setCmd p c).aeGathered p x c else s.setCmd p c

theorem State.fetchOn_listed {s : State} {p : Nat} {c d : AeCmd} (h : s.aeCmd p c.id = some d) (x : Nat) :
    ∃ g, (s.fetchOn p x c).aeCmd p c.id = some g ∧ g.reqs = c.reqs ∧ g.kind = c.kind := by
  have listed := State.aeCmd_setCmd_self h
  unfold State.fetchOn
  split
  · exact State.aeGathered_listed listed x
  · exact ⟨c, listed, rfl, rfl⟩

/-- Bytes that arrive for a part of an unversioned fetch are in that part. -/
theorem State.aeData_fetch {s : State} {p id part : Nat} {c : AeCmd} {r : AeReq} (h : s.aeCmd p id = some c)
    (kind : c.kind = .fetch) (version : c.version = 0) (req : c.req part = some r) (x : Nat) (bs : List Byte)
    (ver : Option Nat) (zero : Bool) : ∃ g u, (s.aeData p id part x sOK bs ver zero).aeCmd p id = some g ∧ g.kind = .fetch ∧
      g.req part = some u ∧ u.st = 2 ∧ u.data = bs := by
  have number := State.aeCmd_id h
  have named : ∃ d : AeCmd, d.id = c.id ∧ d.kind = c.kind ∧ d.reqs = (c.setReq { r with st := 2, data := bs }).reqs ∧
      s.aeData p id part x sOK bs ver zero = s.fetchOn p x d := by
    unfold State.aeData
    split
    case h_1 none_ => rw [h] at none_; cases none_
    case h_2 e found =>
      cases h.symm.trans found
      split
      case h_1 none_ => rw [req] at none_; cases none_
      case h_2 q part' =>
        cases req.symm.trans part'
        extract_lets r₁ i u seen skew c₁ c₂ v w
        have quiet : u = s := congrArg Prod.snd (if_pos version)
        refine ⟨c₂, rfl, rfl, rfl, ?_⟩
        rw [if_neg (by rw [show c₁.kind = .fetch from kind]; decide), ← quiet]
        rfl
  obtain ⟨d, same, kind', reqs, on⟩ := named
  obtain ⟨g, listed, reqs', kind''⟩ := State.fetchOn_listed (c := d) (by rw [same, number]; exact h) x
  refine ⟨g, { r with st := 2, data := bs }, by rw [on, ← number, ← same]; exact listed, by rw [kind'', kind', kind], ?_,
    rfl, rfl⟩
  have found : (c.setReq { r with st := 2, data := bs }).req part = some { r with st := 2, data := bs } :=
    AeCmd.req_setReq (q := { r with st := 2, data := bs }) req rfl
  unfold AeCmd.req at found ⊢
  rw [reqs', reqs, found]

/-- A read of a stack without a corrupted word reports nothing. -/
theorem State.eccRead_clean {s : State} {k : Nat} (clean : (s.stk k).bad = []) (a n : Nat) :
    s.eccRead k a n = (s.hbmBytes k a n, s) := by
  unfold State.eccRead
  rw [clean]
  rfl

/-- A fetch's request delivers the bytes of the stack to its part. -/
theorem State.delivered_fetch {s : State} {k x : Nat} {q : BankReq} {c : AeCmd} {r : AeReq} (clean : (s.stk k).bad = [])
    (read : q.wr = none) (h : s.aeCmd q.pos q.cmd = some c) (kind : c.kind = .fetch) (version : c.version = 0)
    (req : c.req q.part = some r) : Kept 0x20810 s (s.delivered k x q) ∧
      ∃ g u, (s.delivered k x q).aeCmd q.pos q.cmd = some g ∧ g.req q.part = some u ∧ u.st = 2 ∧
        u.data = s.hbmBytes k q.addr q.len := by
  unfold State.delivered
  rw [read, State.eccRead_clean clean]
  dsimp only
  obtain ⟨g, u, listed, kind', part, st, data⟩ := State.aeData_fetch h kind version req x (s.hbmBytes k q.addr q.len)
    (some (s.versionAt (k / 4) (s.dieLocal k q.addr))) (s.zmapBit k (q.addr / 8192) && decide (q.len = 8192))
  rw [listed]
  dsimp only
  rw [if_neg (by rw [kind']; decide)]
  exact ⟨State.aeData_kept (.refl _ s) _ _ _ _ _ _ _ _ (Sub.refl _), g, u, listed, part, st, data⟩

/-- A write's request leaves its bytes, and nothing else of HBM changes, where its put neither counts nor signals. -/
theorem State.delivered_write {s : State} {k x : Nat} {q : BankReq} {bs : List Byte} (clean : (s.stk k).bad = [])
    (write : q.wr = some bs) (un₁ : Unarmed s 0x01) (un₂ : Unarmed s 0x02) (un₃ : Unarmed s 0x03)
    (plain : ∀ c, s.aeCmd q.pos q.cmd = some c → c.cnt = false ∧ c.flag = none ∧ c.merged = []) (j a : Nat) :
    (s.delivered k x q).hbmByte j a = (s.setHbmBytes k q.addr bs).hbmByte j a := by
  obtain ⟨hbm, regs, aes, lifted⟩ := State.eccWrite_quiet clean un₁ un₂ un₃ q.addr bs
  have bytes : Kept 0x40 s (s.setHbmBytes k q.addr bs) := State.setHbmBytes_kept (.refl _ s) _ _ _ (Sub.refl _)
  have listed (i : Nat) : (s.eccWrite k q.addr bs).aeCmd q.pos i = s.aeCmd q.pos i :=
    State.aeCmd_congr (by unfold State.ae; rw [aes]) i
  have out := State.aeWritten_plain (s := s.eccWrite k q.addr bs) (p := q.pos) (id := q.cmd) (by rw [listed]; exact plain)
    q.part sOK
  unfold State.delivered
  rw [write]
  dsimp only
  rw [out]
  refine State.hbmByte_congr (State.rd_congr ?_ _) hbm ?_ a
  · exact regs.trans bytes.regs.symm
  · exact lifted.trans (bytes.same .liftedPcs (by decide)).symm

section
variable (s : State) (k pc fin : Nat) (bq : Nat × BankReq)

/-- Serving a request redirects no pseudo-channel and changes no byte. -/
theorem State.hbmByte_pcServed (j a : Nat) : (s.pcServed k pc fin bq).hbmByte j a = s.hbmByte j a := by
  have kept := s.pcServed_keeps k pc fin bq
  refine State.hbmByte_congr (s.rd_pcServed k pc fin bq ?_) kept.hbm (kept.same .liftedPcs (by decide)) a
  simp only [hbmCount, R.HBM_PC_REDIR, Blk.base]
  omega

theorem State.phys_pcServed (j a : Nat) : (s.pcServed k pc fin bq).phys j a = s.phys j a := by
  refine State.phys_congr (s.rd_pcServed k pc fin bq ?_) a
  simp only [hbmCount, R.HBM_PC_REDIR, Blk.base]
  omega

theorem State.bad_pcServed : ((s.pcServed k pc fin bq).stk k).bad = (s.stk k).bad := by
  obtain ⟨_, stk⟩ := s.stk_pcServed k pc fin bq
  rw [stk]

theorem State.busyTo_pcServed : ((s.pcServed k pc fin bq).stk k).busyTo.get (fun _ => 0) pc = fin := by
  obtain ⟨_, stk⟩ := s.stk_pcServed k pc fin bq
  rw [stk]
  exact NMap.get_set_self ..

theorem State.bankQueue_pcServed : (s.pcServed k pc fin bq).bankQueue k (32 * pc + bq.1) =
    (s.bankQueue k (32 * pc + bq.1)).erase bq.2 := by
  obtain ⟨_, stk⟩ := s.stk_pcServed k pc fin bq
  rw [State.bankQueue, stk]
  exact NMap.get_set_self ..

variable {s} in
theorem Unarmed.pcServed {det : Nat} (un : Unarmed s det) (low : det < 0x80) : Unarmed (s.pcServed k pc fin bq) det := by
  refine (State.f_congr (s.rd_pcServed k pc fin bq ?_) _).trans un
  simp only [hbmCount, R.INJ_P_CTL, Blk.base]
  omega

end

/-- PC_SERVE serves the request picked, and delivers its bytes. -/
theorem pcServe_serves (k : Stk) (pc : Fin 64) (x b : Nat) (q : BankReq) (s : State) (pick : s.pcPick k pc = some (b, q))
    (idle : (s.stk k).busyTo.get (fun _ => 0) pc ≤ x) (open_ : s.stackClosed k q.addr = false)
    (up : s.dieDown (k.val / 4) = false) (clean : (s.stk k).bad = []) :
    ∃ t, exec (.pcServe k pc x) s = .next t ∧ t.spad = s.spad ∧
      (t.stk k).busyTo.get (fun _ => 0) pc = x + s.pcCycles (k.val / 4) q.len ∧
      (∀ c r, q.wr = none → s.aeCmd q.pos q.cmd = some c → c.kind = .fetch → c.version = 0 → c.req q.part = some r →
        t.hbm = s.hbm ∧ t.bankQueue k (32 * pc + b) = (s.bankQueue k (32 * pc + b)).erase q ∧
        ∃ g u, t.aeCmd q.pos q.cmd = some g ∧ g.req q.part = some u ∧ u.st = 2 ∧ u.data = s.hbmBytes k q.addr q.len) ∧
      (∀ bs, q.wr = some bs → Unarmed s 0x01 → Unarmed s 0x02 → Unarmed s 0x03 → bs ≠ [] → q.addr + bs.length ≤ 2 ^ 36 →
        (∀ c, s.aeCmd q.pos q.cmd = some c → c.cnt = false ∧ c.flag = none ∧ c.merged = []) →
        (∀ i (_ : i < bs.length) j (_ : j < bs.length), i ≠ j → s.phys k (q.addr + i) ≠ s.phys k (q.addr + j)) →
        (∀ i (h : i < bs.length), t.hbmByte k (q.addr + i) = bs[i]) ∧
        ∀ (j : Stk) (a : Nat), a < 2 ^ 36 → (j = k → ∀ i, i < bs.length → s.phys k a ≠ s.phys k (q.addr + i)) →
          t.hbmByte j a = s.hbmByte j a) := by
  have step := exec_pcServe pick idle
  rw [State.doPcServe_eq (bq := (b, q)) open_ up, State.pcCycles_requestTaken] at step
  have kept := s.pcServed_keeps k pc (x + s.pcCycles (k.val / 4) q.len) (b, q)
  have clean' := (s.bad_pcServed k pc (x + s.pcCycles (k.val / 4) q.len) (b, q)).trans clean
  have listed : (s.pcServed k pc (x + s.pcCycles (k.val / 4) q.len) (b, q)).aeCmd q.pos q.cmd = s.aeCmd q.pos q.cmd :=
    State.aeCmd_congr (congrArg AccessEngine.cmds (kept.ae q.pos)) q.cmd
  refine ⟨_, step, exec_same step .spad (by simp [touches, Part.reported]), ?busy, ?read, ?write⟩
  case busy =>
    rw [State.stk_congr (State.clock_hbmCtls ..), (State.delivered_busy ..).busyTo]
    exact State.busyTo_pcServed ..
  case read =>
    intro c r read h kind version req
    obtain ⟨same, g, u, found, part, st, data⟩ := State.delivered_fetch (x := x + s.pcCycles (k.val / 4) q.len) clean' read
      (listed.trans h) kind version req
    refine ⟨(State.clock_hbm ..).trans (same.hbm.trans kept.hbm), ?_, g, u, (State.aeCmd_clock ..).trans found, part, st, ?_⟩
    · rw [State.bankQueue_congr (State.clock_hbmCtls ..), State.bankQueue_congr (same.same .hbmCtls (by decide))]
      exact State.bankQueue_pcServed ..
    · rw [data]
      simp only [State.hbmBytes, State.hbmByte_pcServed]
  case write =>
    intro bs write un₁ un₂ un₃ _ fits plain places
    have bytes (j a : Nat) := State.delivered_write (x := x + s.pcCycles (k.val / 4) q.len) clean' write
      (un₁.pcServed k pc _ (b, q) (by decide)) (un₂.pcServed k pc _ (b, q) (by decide))
      (un₃.pcServed k pc _ (b, q) (by decide)) (by rw [listed]; exact plain) j a
    refine ⟨fun i h => ?_, fun j a here apart => ?_⟩
    · rw [State.hbmByte_clock, bytes]
      refine State.hbmByte_setHbmBytes_inside fits ?_ h
      simpa only [State.phys_pcServed] using places
    · rw [State.hbmByte_clock, bytes, ← State.hbmByte_pcServed s k pc (x + s.pcCycles (k.val / 4) q.len) (b, q)]
      refine State.hbmByte_setHbmBytes_apart fits here fun e => ?_
      simpa only [State.phys_pcServed] using apart (Fin.ext e)

/-! ### A request is offered again (R115) -/

theorem exec_bankqRetry {p : Pos} {x : Nat} {c : AeCmd} {e : Nat × Nat × Nat} {s : State}
    (h : ((s.ae p).retries.find? fun e => e.1 == c.id && decide (e.2.2 ≤ x)) = some e) :
    exec (.bankqRetry p x c.id) s = .next ((s.doBankqRetry p x e).clock (dieOf p) x) := by
  show execBankqRetry p x c.id s = _
  unfold execBankqRetry
  rw [h]

/-- A request that is offered again has left the retries of its core. -/
def State.retryTaken (s : State) (p : Nat) (e : Nat × Nat × Nat) : State :=
  s.setAe p { s.ae p with retries := (s.ae p).retries.erase e }

theorem State.doBankqRetry_eq {s : State} {p : Nat} {e : Nat × Nat × Nat} {c : AeCmd} {r : AeReq}
    (h : s.aeCmd p e.1 = some c) (req : c.req e.2.1 = some r) (x : Nat) : s.doBankqRetry p x e =
      (s.retryTaken p e).bankOffer p x c r (if c.kind.isPut then some (slice c.data r.off r.len) else none) := by
  have listed : (s.retryTaken p e).aeCmd p e.1 = some c :=
    (State.aeCmd_congr (by rw [State.retryTaken, State.ae_setAe_self]) _).trans h
  unfold State.doBankqRetry
  unfold State.retryTaken at listed ⊢
  dsimp only
  rw [listed]
  dsimp only
  rw [req]

/-- A bank's queue without room counts the request, which waits to be offered again. -/
theorem State.bankOffer_full {s : State} {r : AeReq}
    (full : 16 ≤ (s.bankQueue (s.bankOfFar r.far).1 (s.bankOfFar r.far).2.2).length) (p x : Nat) (c : AeCmd)
    (wr : Option (List Byte)) :
    let u := (s.bump (R.HBM_CNT_BANKQ_FULL (s.bankOfFar r.far).1) 1).bump (R.AE_CNT_BANKQ_BP p) 1
    s.bankOffer p x c r wr = u.setAe p { u.ae p with retries := (u.ae p).retries ++ [(c.id, r.part, x + 16)] } := by
  unfold State.bankOffer
  exact if_pos full

/-- BANKQ_RETRY offers a refused request again. -/
theorem bankqRetry_offers (p : Pos) (x : Nat) (e : Nat × Nat × Nat) (c : AeCmd) (r : AeReq) (s : State)
    (due : ((s.ae p).retries.find? fun e => e.1 == c.id && decide (e.2.2 ≤ x)) = some e) (h : s.aeCmd p c.id = some c)
    (req : c.req e.2.1 = some r) :
    let b := s.bankOfFar r.far
    ∃ t, exec (.bankqRetry p x c.id) s = .next t ∧ t.spad = s.spad ∧ t.hbm = s.hbm ∧
      ((s.bankQueue b.1 b.2.2).length < 16 → (t.ae p).retries = (s.ae p).retries.erase e ∧
        ∃ q, t.bankQueue b.1 b.2.2 = s.bankQueue b.1 b.2.2 ++ [q] ∧ q.pos = p.val ∧ q.cmd = c.id ∧ q.part = r.part ∧
          q.wr = (if c.kind.isPut then some (slice c.data r.off r.len) else none)) ∧
      (16 ≤ (s.bankQueue b.1 b.2.2).length →
        (t.ae p).retries = (s.ae p).retries.erase e ++ [(c.id, r.part, x + 16)] ∧ t.hbmCtls = s.hbmCtls ∧
        t.rd (R.AE_CNT_BANKQ_BP p) = s.rd (R.AE_CNT_BANKQ_BP p) + 1) := by
  intro b
  have number : e.1 = c.id := by
    have := List.find?_some due
    simp only [Bool.and_eq_true, beq_iff_eq] at this
    exact this.1
  have step := exec_bankqRetry due
  rw [State.doBankqRetry_eq (number ▸ h) req] at step
  have taken : ((s.retryTaken p e).ae p).retries = (s.ae p).retries.erase e := by rw [State.retryTaken, State.ae_setAe_self]
  refine ⟨_, step, exec_same step .spad (by simp [touches]), exec_same step .hbm (by simp [touches]), fun room => ?_,
    fun full => ?_⟩
  · rw [State.bankOffer_room (s := s.retryTaken p e) room]
    refine ⟨?_, (s.retryTaken p e).request p x c r _, ?_, rfl, rfl, rfl, rfl⟩
    · rw [State.ae_clock, State.ae_setCmd_self, State.setBankQueue, State.ae_setStk]
      exact taken
    · rw [State.bankQueue_congr (State.clock_hbmCtls ..), State.bankQueue_congr (State.setCmd_hbmCtls ..)]
      exact State.bankQueue_setBankQueue ..
  · rw [State.bankOffer_full (s := s.retryTaken p e) full]
    have apart : R.AE_CNT_BANKQ_BP p ≠ R.HBM_CNT_BANKQ_FULL ((s.retryTaken p e).bankOfFar r.far).1 := by
      simp only [R.AE_CNT_BANKQ_BP, R.HBM_CNT_BANKQ_FULL, Blk.base, coreBase]
      omega
    refine ⟨?_, ?_, ?_⟩
    · rw [State.ae_clock, State.ae_setAe_self, State.ae_bump, State.ae_bump]
      exact congrArg (· ++ [(c.id, r.part, x + 16)]) taken
    · rw [State.clock_hbmCtls, State.setAe_hbmCtls, State.bump_hbmCtls, State.bump_hbmCtls]
      rfl
    · rw [State.rd_clock, State.rd_setAe, State.rd_bump_self, State.rd_bump_ne _ _ _ _ apart]
      rfl

/-- Settles O22: a free pseudo-channel serves its request, and a refused one is offered again. -/
theorem pseudoChannelsServe : Obligations.PseudoChannelsServe := by
  unfold Obligations.PseudoChannelsServe
  exact ⟨pcServe_serves, bankqRetry_offers⟩

end Sys2Proof.Machine

/-! PROOFS. Settles the statements of the family "wilum program model": how fences release, how the cox runs its program, how
patches are staged and applied, and how heats are chosen, start and end. -/

namespace Sys2Proof.Machine

open Sys2Proof

/-! ### The mapping of virtual onto physical units (R155) -/

/-- The registers the mapping is read off: the tenancies' configurations, the cores' places in their module, and the fences
of cores and clusters. -/
def mapReg (a : Nat) : Prop :=
  (∃ k, k < 8 ∧ a = R.TEN_T_CFG k) ∨ (∃ p, p < 256 ∧ a = R.COX_SELF p) ∨ (∃ n, n < 4 ∧ a = R.MNT_FENCE_CORE n) ∨
    a = R.MNT_FENCE_UNIT

/-- Of the registers of dies and cores only COX_SELF tells of the mapping. -/
theorem not_mapReg {a : Nat} (unit : 0x100_0000 ≤ a) (self : a % 0x4000 ≠ 0x18) : ¬ mapReg a := by
  rintro (⟨k, hk, rfl⟩ | ⟨p, hp, rfl⟩ | ⟨n, hn, rfl⟩ | rfl)
  · simp only [R.TEN_T_CFG, Blk.base] at unit; omega
  · simp only [R.COX_SELF, Blk.base, coreBase] at self; omega
  · simp only [R.MNT_FENCE_CORE, Blk.base] at unit; omega
  · revert unit; decide

/-- From s to t no register of the mapping has changed, nor a module. -/
structure MapKept (s t : State) : Prop where
  mods : t.mods = s.mods
  rd : ∀ a, mapReg a → t.rd a = s.rd a

namespace MapKept
variable {s t u : State}

theorem refl (s : State) : MapKept s s := ⟨rfl, fun _ _ => rfl⟩

theorem trans (h : MapKept s t) (k : MapKept t u) : MapKept s u :=
  ⟨k.mods.trans h.mods, fun a m => (k.rd a m).trans (h.rd a m)⟩

theorem same (h : MapKept s t) (mods : u.mods = t.mods) (regs : u.regs = t.regs) : MapKept s u :=
  h.trans ⟨mods, fun a _ => State.rd_congr regs a⟩

theorem wr (h : MapKept s t) {a : Nat} (v : Word) (n : ¬ mapReg a) : MapKept s (t.wr a v) :=
  h.trans ⟨rfl, fun b m => State.rd_wr_ne _ _ _ _ (by rintro rfl; exact n m)⟩

theorem setF (h : MapKept s t) {a : Nat} (g : Nat × Nat) (v : Nat) (n : ¬ mapReg a) : MapKept s (t.setF a g v) := h.wr _ n

theorem bump (h : MapKept s t) {a : Nat} (k : Nat) (n : ¬ mapReg a) : MapKept s (t.bump a k) :=
  h.trans ⟨State.bump_mods .., fun b m => State.rd_bump_ne _ _ _ _ (by rintro rfl; exact n m)⟩

theorem setCore (h : MapKept s t) (p : Nat) (v : CoreMisc) : MapKept s (t.setCore p v) :=
  h.same (State.setCore_mods ..) (State.setCore_regs ..)

theorem setDie (h : MapKept s t) (d : Nat) (v : DieState) : MapKept s (t.setDie d v) :=
  h.same (State.setDie_mods ..) (State.setDie_regs ..)

theorem clock (h : MapKept s t) (d x : Nat) : MapKept s (t.clock d x) := h.same (State.clock_mods ..) (State.clock_regs ..)

theorem foldl {α : Type} {f : State → α → State} (l : List α) (h : MapKept s t) (k : ∀ u x, x ∈ l → MapKept u (f u x)) :
    MapKept s (l.foldl f t) :=
  List.foldlRecOn l f h fun u hu x hx => hu.trans (k u x hx)

variable (h : MapKept s t)
include h

theorem tenOfDie (d : Nat) : t.tenOfDie d = s.tenOfDie d :=
  State.tenOfDie_congr (fun k hk => h.rd _ (.inl ⟨k, hk, rfl⟩)) d

theorem coreFenced {p : Nat} (hp : p < 256) : t.coreFenced p = s.coreFenced p := by
  unfold State.coreFenced State.bit
  rw [h.rd _ (.inr (.inr (.inl ⟨p / 64, by omega, rfl⟩))), State.f_congr (h.rd _ (.inr (.inr (.inr rfl))))]

theorem coxSelf {p : Nat} (hp : p < 256) (g : Nat × Nat) : t.f (R.COX_SELF p) g = s.f (R.COX_SELF p) g :=
  State.f_congr (h.rd _ (.inr (.inl ⟨p, hp, rfl⟩))) g

theorem coreMapped {p : Nat} (hp : p < 256) : t.coreMapped p = s.coreMapped p := by
  unfold State.coreMapped
  rw [h.coxSelf hp]

theorem dieMapped {d : Nat} (hd : d < 8) : t.dieMapped d = s.dieMapped d := by
  unfold State.dieMapped
  rw [Bool.eq_iff_iff, List.any_eq_true, List.any_eq_true]
  exact exists_congr fun c => and_congr_right fun hc => by rw [h.coreMapped (by have := List.mem_range.1 hc; omega)]

theorem vdieOf {d : Nat} (hd : d < 8) : t.vdieOf d = s.vdieOf d := by
  have lt {c : Nat} (hc : c ∈ List.range 32) : 32 * d + c < 256 := by have := List.mem_range.1 hc; omega
  have find : ((List.range 32).find? fun c => t.f (R.COX_SELF (32 * d + c)) F.COX_SELF_MAPPED == 1) =
      (List.range 32).find? fun c => s.f (R.COX_SELF (32 * d + c)) F.COX_SELF_MAPPED == 1 :=
    List.find?_congr fun c hc => by rw [h.coxSelf (lt hc)]
  unfold State.vdieOf
  rw [find]
  split
  · rename_i c e; exact h.coxSelf (lt (List.mem_of_find?_eq_some e)) _
  · rfl

theorem heatDef {d : Nat} (hd : d < 8) (no : Nat) : t.heatDef d no = s.heatDef d no := by
  unfold State.heatDef
  rw [h.tenOfDie, h.mods, h.vdieOf hd]

theorem wideCores {d : Nat} (hd : d < 8) : t.wideCores d = s.wideCores d := by
  have lt {p : Nat} (hp : p ∈ (List.range 32).map (32 * d + ·)) : p < 256 := by
    obtain ⟨c, hc, rfl⟩ := List.mem_map.1 hp
    have := List.mem_range.1 hc
    omega
  have free : (((List.range 32).map (32 * d + ·)).filter fun p => !t.coreFenced p) =
      ((List.range 32).map (32 * d + ·)).filter fun p => !s.coreFenced p :=
    List.filter_congr fun p hp => by rw [h.coreFenced (lt hp)]
  unfold State.wideCores
  rw [h.dieMapped hd, free]
  split
  · exact List.filter_congr fun p hp => h.coreMapped (lt (List.mem_of_mem_filter hp))
  · rfl

theorem gateCore {d : Nat} (hd : d < 8) (g : Gate) : t.gateCore d g = s.gateCore d g := by
  unfold State.gateCore
  rw [h.wideCores hd]

theorem runCores {d : Nat} (hd : d < 8) (r : RunHeat) : t.runCores d r = s.runCores d r := by
  unfold State.runCores
  rw [h.heatDef hd, h.wideCores hd]

theorem variantClusters {d : Nat} (hd : d < 8) (v : Variant) : t.variantClusters d v = s.variantClusters d v := by
  unfold State.variantClusters
  rw [h.wideCores hd]

theorem vcoreIn (clusters : List Nat) {p : Nat} (hp : p < 256) : t.vcoreIn clusters p = s.vcoreIn clusters p :=
  congrArg List.length (List.filter_congr fun c hc => by
    have := List.mem_range.1 hc
    rw [h.coreFenced (by omega)])

theorem rulingFor {p : Nat} (hp : p < 256) (run : (t.die (dieOf p)).run = (s.die (dieOf p)).run) (no : Nat) :
    t.rulingFor p no = s.rulingFor p no := by
  unfold State.rulingFor
  simp only [run, h.heatDef (d := dieOf p) (by unfold dieOf; omega), h.vcoreIn _ hp]

end MapKept

theorem State.setF_eq (s : State) (a : Nat) (g : Nat × Nat) (v : Nat) :
    s.setF a g v = { s with regs := (s.setF a g v).regs } :=
  rfl

theorem State.clock_regsOut {s u : State} (rest : u = { s with regs := u.regs, out := u.out }) (d x : Nat) :
    u.clock d x = { s with regs := (u.clock d x).regs, dies := (u.clock d x).dies, out := (u.clock d x).out } := by
  rw [u.clock_eq, rest]

/-! ### Registers that keep their value -/

namespace RegsBut
variable {s t : State} {l : List Nat}

theorem of_regs (h : t.regs = s.regs) : RegsBut s t l := fun a _ => State.rd_congr h a

theorem same {u : State} (h : RegsBut s t l) (regs : u.regs = t.regs) : RegsBut s u l :=
  fun a n => (State.rd_congr regs a).trans (h a n)

theorem setF (h : RegsBut s t l) {a : Nat} (m : a ∈ l) (g : Nat × Nat) (v : Nat) : RegsBut s (t.setF a g v) l :=
  fun b n => (State.rd_setF_ne _ _ _ _ _ (by rintro rfl; exact n m)).trans (h b n)

theorem bump (h : RegsBut s t l) {a : Nat} (m : a ∈ l) (k : Nat) : RegsBut s (t.bump a k) l :=
  fun b n => (State.rd_bump_ne _ _ _ _ (by rintro rfl; exact n m)).trans (h b n)

end RegsBut

/-! ### A patch applies (R154) -/

/-- What a patch makes of a PRM: its SET or ADD, modulo 2^48. -/
def Patch.result (e : Patch) (v : Nat) : Nat := (if e.add = true then v + e.value else e.value) % 2 ^ 48

/-- The state once a patch has applied: its PRM has its value, and it is counted. -/
def State.patchApplied (s : State) (p : Nat) (e : Patch) : State :=
  (s.setF (R.PRM p e.prm) F.PRM_VALUE (if e.add then s.prm p e.prm + e.value else e.value)).bump (R.COX_CNT_PATCH p) 1

theorem prm_inj {p m n : Nat} (h : m ≠ n) : R.PRM p m ≠ R.PRM p n := by simp only [R.PRM]; omega

theorem prm_ne_cntPatch {p m : Nat} (h : m < 64) : R.PRM p m ≠ R.COX_CNT_PATCH p := by
  simp only [R.PRM, R.COX_CNT_PATCH, Blk.base]; omega

section
variable (s : State) {p : Nat} {e : Patch}

theorem State.patchApplied_eq (p : Nat) (e : Patch) : s.patchApplied p e = { s with regs := (s.patchApplied p e).regs } := by
  unfold State.patchApplied
  rw [State.bump_eq, State.setF_eq]

theorem State.patchApplied_dies (p : Nat) (e : Patch) : (s.patchApplied p e).dies = s.dies := by
  rw [s.patchApplied_eq]

theorem State.patchApplied_regsBut (p : Nat) (e : Patch) :
    RegsBut s (s.patchApplied p e) [R.PRM p e.prm, R.COX_CNT_PATCH p] :=
  ((RegsBut.of_regs rfl).setF (by simp) _ _).bump (by simp) _

theorem State.prm_patchApplied {n : Nat} (hn : n < 64) :
    (s.patchApplied p e).prm p n = if e.prm = n then e.result (s.prm p n) else s.prm p n := by
  unfold State.patchApplied State.prm
  rw [State.f_bump_ne _ _ _ _ _ (prm_ne_cntPatch hn)]
  by_cases own : e.prm = n
  · subst own
    rw [if_pos rfl, State.f_setF _ _ _ _ (by decide)]
    rfl
  · rw [if_neg own, State.f_setF_ne _ _ _ _ _ _ (prm_inj (Ne.symm own))]

theorem State.cntPatch_patchApplied (h : e.prm < 64) :
    (s.patchApplied p e).rd (R.COX_CNT_PATCH p) = s.rd (R.COX_CNT_PATCH p) + 1 := by
  unfold State.patchApplied
  rw [State.rd_bump_self, State.rd_setF_ne _ _ _ _ _ (prm_ne_cntPatch h).symm]
  rfl

theorem State.patchApplied_mapKept (_ : p < 256) (_ : e.prm < 64) : MapKept s (s.patchApplied p e) :=
  ((MapKept.refl s).setF _ _ (not_mapReg (by simp only [R.PRM, Blk.base, coreBase]; omega)
    (by simp only [R.PRM, Blk.base, coreBase]; omega))).bump _
    (not_mapReg (by simp only [R.COX_CNT_PATCH, Blk.base, coreBase]; omega)
      (by simp only [R.COX_CNT_PATCH, Blk.base, coreBase]; omega))

/-- A patch that no FIXED entry of a running heat forbids applies, and no violation is recorded. -/
theorem State.applyPatch_eq {s : State} (hp : p < 256) (h : e.prm < 64) {x : Nat}
    (free : (s.heatTag p x).on = false ∨ ∀ n, s.rulingFor p n = []) : s.applyPatch p x e = s.patchApplied p e := by
  have die : (s.patchApplied p e).die (dieOf p) = s.die (dieOf p) := by unfold State.die; rw [s.patchApplied_dies]
  have tag : (s.patchApplied p e).heatTag p x = s.heatTag p x := by unfold State.heatTag; rw [die]
  have ruling (n : Nat) : (s.patchApplied p e).rulingFor p n = s.rulingFor p n :=
    (s.patchApplied_mapKept hp h).rulingFor hp (congrArg _ die) n
  have quiet : ((s.heatTag p x).on && (s.rulingFor p (s.heatTag p x).no).any
      fun q => q.ty == 2 && bitOf q.mask e.prm) = false := by
    rcases free with off | none
    · rw [off, Bool.false_and]
    · rw [none, List.any_nil, Bool.and_false]
  show (if ((s.patchApplied p e).heatTag p x).on && ((s.patchApplied p e).rulingFor p ((s.patchApplied p e).heatTag p x).no).any
      (fun q => q.ty == 2 && bitOf q.mask e.prm) then _ else s.patchApplied p e) = _
  rw [tag, ruling, quiet]
  rfl

end

theorem State.heatTag_idle {s : State} {p : Nat} (idle : (s.die (dieOf p)).run = none) (x : Nat) :
    (s.heatTag p x).on = false := by
  unfold State.heatTag; rw [idle]

theorem State.heatOn_idle {s : State} {p : Nat} (idle : (s.die (dieOf p)).run = none) : s.heatOn p = false := by
  unfold State.heatOn; rw [idle]

/-! ### Writes of PRMs are staged (R154) -/

section
variable {s : State} {p : Nat} (x prm : Nat) (add : Bool) (v : Nat)

theorem State.stagePatch_idle (idle : (s.die (dieOf p)).run = none) (empty : (s.core p).patches = [])
    (free : (s.core p).patchWait = []) :
    s.stagePatch p x prm add v = s.applyPatch p x ⟨prm, add, v % 2 ^ 48, x⟩ := by
  unfold State.stagePatch State.patchNow
  simp [State.heatOn_idle idle, empty, free]

theorem State.stagePatch_queued (some_ : (s.core p).patches ≠ []) (room : (s.core p).patches.length < 8) :
    s.stagePatch p x prm add v =
      s.setCore p { s.core p with patches := (s.core p).patches ++ [⟨prm, add, v % 2 ^ 48, x⟩] } := by
  unfold State.stagePatch State.patchNow
  simp [some_, room]

theorem State.stagePatch_full (full : 8 ≤ (s.core p).patches.length) :
    s.stagePatch p x prm add v =
      (s.setCore p { s.core p with patchWait := (s.core p).patchWait ++ [⟨prm, add, v % 2 ^ 48, x⟩] }).setF (R.COX_EVENT p)
        F.COX_EVENT_PATCH_STALL 1 := by
  have some_ : (s.core p).patches ≠ [] := by intro e; simp [e] at full
  unfold State.stagePatch State.patchNow
  simp [some_, Nat.not_lt.2 full]

end

/-- An admitted write of a PRM, or through COX_PATCH, stages its patch and is answered, in its cycle. -/
theorem exec_stages {iss : Issuer} {p : Pos} {x : Nat} {prm : Fin 64} {s : State} (due : (s.die (dieOf p)).now ≤ x)
    {i : Instr} {off : Nat} {w : Word} {add : Bool} {v : Nat}
    (write : (∃ n, i = Instr.coxPatchWrite iss p x add prm n ∧ off = R.COX_PATCH p ∧ w = patchWord add prm n ∧ v = n % 2 ^ 48) ∨
      ∃ n : Word, i = .prmWrite iss p x prm n ∧ off = R.PRM p prm ∧ w = n ∧ add = false ∧ v = n.toNat % 2 ^ 48)
    (admitted : Admitted s iss off w) :
    exec i s = .next (((s.stagePatch p x prm add v).emit (.answer iss off sOK 0)).clock (dieOf p) x) := by
  have ran {act : State → State} : s.atCycle p x (s.ctlIn iss off 8 w act) =
      .next (((act s).emit (.answer iss off sOK 0)).clock (dieOf p) x) := by
    rw [State.ctlIn_admitted admitted]
    exact State.when_true _ _ (decide_eq_true due)
  rcases write with ⟨n, rfl, rfl, rfl, rfl⟩ | ⟨n, rfl, rfl, rfl, rfl, rfl⟩
  · exact ran
  · exact ran

/-- Settles O30: a patch applies where no heat runs and nothing is queued, and otherwise joins the queue or waits for it. -/
theorem patchesStage : Obligations.PatchesStage := by
  unfold Obligations.PatchesStage
  intro iss p x prm s due i off w add v write admitted
  have small : v % 2 ^ 48 = v := by
    rcases write with ⟨n, _, _, _, e⟩ | ⟨n, _, _, _, _, e⟩ <;> rw [e, Nat.mod_mod]
  refine ⟨_, exec_stages due write admitted, ?sent, fun idle empty free => ?now, fun some_ room => ?queued, fun full => ?waits⟩
  case sent =>
    rw [State.clock_out]
    exact State.emit_out_of ((State.stagePatch_kept (m := 0x602b76010) (.refl _ s) _ _ _ _ _ (Sub.refl _)).same .out (by decide)) _
  case now =>
    rw [State.stagePatch_idle _ _ _ _ idle empty free, small,
      State.applyPatch_eq p.isLt prm.isLt (.inl (State.heatTag_idle idle x))]
    have rest := s.patchApplied_eq p ⟨prm, add, v, x⟩
    refine ⟨?_, ?_, ?_, State.clockedTo_of_dies ?_ _ _, ?_⟩
    · have prm_eq := s.prm_patchApplied (p := p) (e := ⟨prm, add, v, x⟩) prm.isLt
      rw [if_pos rfl] at prm_eq
      unfold State.prm at prm_eq ⊢
      rwa [State.f_clock, State.f_emit]
    · rw [State.rd_clock, State.rd_emit]; exact s.cntPatch_patchApplied prm.isLt
    · exact ((s.patchApplied_regsBut p ⟨prm, add, v, x⟩).same (State.emit_regs ..)).same (State.clock_regs ..)
    · rw [State.emit_dies, State.patchApplied_dies]
    · exact State.clock_regsOut (by unfold State.emit; rw [rest]) _ _
  case queued =>
    rw [State.stagePatch_queued _ _ _ _ some_ room, small]
    refine ⟨?_, RegsBut.of_regs (State.clock_regs ..), State.clockedTo_of_dies rfl _ _, ?_⟩
    · rw [State.core_clock, State.core_emit, State.core_setCore_self]
    · rw [State.clock_eq, State.emit, State.setCore]
  case waits =>
    rw [State.stagePatch_full _ _ _ _ full, small]
    refine ⟨?_, ?_, ?_⟩
    · rw [State.core_clock, State.core_emit, State.core_setF, State.core_setCore_self]
    · rw [State.f_clock, State.f_emit, State.f_setF_of_lt _ _ _ _ (by decide) (by decide)]
    · exact (((RegsBut.of_regs (t := s.setCore p _) (State.setCore_regs ..)).setF (by simp) _ _).same (State.emit_regs ..)).same
        (State.clock_regs ..)

/-! ### One field set at several units -/

/-- A field is set to a value in the register of each unit of a list. -/
def State.setAll (s : State) (reg : Nat → Nat) (g : Nat × Nat) (v : Nat) (l : List Nat) : State :=
  l.foldl (fun t q => t.setF (reg q) g v) s

theorem State.setAll_eq (s : State) (reg : Nat → Nat) (g : Nat × Nat) (v : Nat) (l : List Nat) :
    s.setAll reg g v l = { s with regs := (s.setAll reg g v l).regs } := by
  induction l generalizing s with
  | nil => rfl
  | cons q l ih =>
    show (s.setF (reg q) g v).setAll reg g v l = _
    rw [ih, State.setF_eq]
    rfl

theorem State.setAll_regsBut (s : State) (reg : Nat → Nat) (g : Nat × Nat) (v : Nat) (l : List Nat) :
    RegsBut s (s.setAll reg g v l) (l.map reg) :=
  List.foldlRecOn (motive := fun t => RegsBut s t (l.map reg)) l _ (.of_regs rfl) fun _ h _ hq =>
    h.setF (List.mem_map_of_mem hq) _ _

theorem State.f_setAll (s : State) {reg : Nat → Nat} (inj : ∀ p q, reg p = reg q → p = q) (g : Nat × Nat)
    (h : g.1 + g.2 ≤ 64) {v : Nat} (fits : v < 2 ^ g.2) (l : List Nat) (p : Nat) :
    (s.setAll reg g v l).f (reg p) g = if l.contains p then v else s.f (reg p) g := by
  induction l generalizing s with
  | nil => rfl
  | cons q l ih =>
    show ((s.setF (reg q) g v).setAll reg g v l).f (reg p) g = _
    rw [ih, List.contains_cons]
    by_cases own : p = q
    · subst own
      simp [State.f_setF_of_lt _ _ _ _ h fits]
    · have apart : reg p ≠ reg q := fun e => own (inj _ _ e)
      simp [own, State.f_setF_ne _ _ _ _ _ _ apart]

theorem irqStat_inj (p q : Nat) (h : R.COX_IRQ_STAT p = R.COX_IRQ_STAT q) : p = q := by
  simp only [R.COX_IRQ_STAT, Blk.base, coreBase] at h; omega

/-! ### The patch queue (R154) -/

/-- Patches of a list have applied in order on core p, and besides their PRMs, their count and its queue nothing has
changed. -/
structure PatchesRun (p : Nat) (l : List Patch) (s t : State) : Prop where
  prm : ∀ n, n < 64 → t.prm p n = l.foldl (fun v e => if e.prm = n then e.result v else v) (s.prm p n)
  count : t.rd (R.COX_CNT_PATCH p) = s.rd (R.COX_CNT_PATCH p) + BitVec.ofNat 64 l.length
  rd : RegsBut s t (R.COX_CNT_PATCH p :: l.map fun e => R.PRM p e.prm)
  rest : t = { s with regs := t.regs, cores := t.cores }

theorem PatchesRun.trans {p : Nat} {e : Patch} {l : List Patch} {s t u : State} (h : PatchesRun p [e] s t)
    (k : PatchesRun p l t u) : PatchesRun p (e :: l) s u where
  prm n hn := by rw [k.prm n hn, h.prm n hn]; rfl
  count := by
    rw [k.count, h.count, BitVec.add_assoc, ← BitVec.ofNat_add, List.length_singleton, List.length_cons, Nat.add_comm]
  rd a n := by
    simp only [List.map_cons, List.mem_cons, not_or] at n
    obtain ⟨cnt, own, others⟩ := n
    rw [k.rd a (by simp only [List.mem_cons, not_or]; exact ⟨cnt, others⟩), h.rd a (by simp [cnt, own])]
  rest := by rw [k.rest, h.rest]

section
variable {s : State} {p x : Nat} {e : Patch} {l : List Patch}

/-- The core once its oldest patch has left the queue, and what waited has joined it. -/
def CoreMisc.shifted (c : CoreMisc) (x : Nat) (l : List Patch) : CoreMisc :=
  { c with
    patches := l ++ (c.patchWait.take (8 - l.length)).map fun e => { e with at_ := x }
    patchWait := c.patchWait.drop (8 - l.length) }

/-- The state once the oldest patch, e, has applied and l is left. -/
def State.patchTaken (s : State) (p x : Nat) (e : Patch) (l : List Patch) : State :=
  ((s.setCore p { s.core p with patches := l }).patchApplied p e).setCore p ((s.core p).shifted x l)

theorem State.heatTag_congr {t : State} (die : t.die (dieOf p) = s.die (dieOf p)) : t.heatTag p x = s.heatTag p x := by
  unfold State.heatTag; rw [die]

theorem State.patchApplied_core (s : State) (p : Nat) (e : Patch) (q : Nat) : (s.patchApplied p e).core q = s.core q := by
  unfold State.core; rw [State.patchApplied_eq]

theorem State.applyOne_eq (hp : p < 256) (queue : (s.core p).patches = e :: l) (h : e.prm < 64)
    (free : (s.heatTag p x).on = false ∨ ∀ n, s.rulingFor p n = []) : s.applyOne p x = s.patchTaken p x e l := by
  have die : (s.setCore p { s.core p with patches := l }).die (dieOf p) = s.die (dieOf p) := State.die_setCore ..
  have map : MapKept s (s.setCore p { s.core p with patches := l }) := (MapKept.refl s).setCore ..
  have free' : ((s.setCore p { s.core p with patches := l }).heatTag p x).on = false ∨
      ∀ n, (s.setCore p { s.core p with patches := l }).rulingFor p n = [] := by
    rw [State.heatTag_congr die]
    exact free.imp_right fun none n => by rw [map.rulingFor hp (congrArg _ die), none]
  have core : ((s.setCore p { s.core p with patches := l }).patchApplied p e).core p = { s.core p with patches := l } := by
    rw [State.patchApplied_core, State.core_setCore_self]
  unfold State.applyOne
  rw [queue]
  dsimp only
  rw [State.applyPatch_eq hp h free']
  unfold State.admitPatches
  rw [core]
  rfl

theorem State.prm_setCore (s : State) (q : Nat) (c : CoreMisc) (p n : Nat) : (s.setCore q c).prm p n = s.prm p n :=
  State.f_setCore ..

theorem State.patchTaken_run (h : e.prm < 64) : PatchesRun p [e] s (s.patchTaken p x e l) where
  prm n hn := by rw [State.patchTaken, State.prm_setCore, State.prm_patchApplied _ hn, State.prm_setCore]; rfl
  count := by rw [State.patchTaken, State.rd_setCore, State.cntPatch_patchApplied _ h, State.rd_setCore]; rfl
  rd a n := by
    rw [State.patchTaken, State.rd_setCore, State.patchApplied_regsBut _ p e a (by simpa [and_comm] using n),
      State.rd_setCore]
  rest := by rw [State.patchTaken, State.setCore, State.patchApplied_eq, State.setCore]

theorem State.core_patchTaken : (s.patchTaken p x e l).core p = (s.core p).shifted x l := State.core_setCore_self ..

end

/-- Patches that are all queued, with none waiting, apply one a cycle, and leave the queue empty. -/
theorem State.patches_run {p : Nat} (hp : p < 256) (l : List Patch) {s : State} (x : Nat) (queue : (s.core p).patches = l)
    (wait : (s.core p).patchWait = []) (small : ∀ e ∈ l, e.prm < 64) (free : ∀ n, s.rulingFor p n = []) :
    let t := (List.range l.length).foldl (fun (s : State) i => s.applyOne p (x + i)) s
    PatchesRun p l s t ∧ t.core p = { s.core p with patches := [] } := by
  induction l generalizing s x with
  | nil => exact ⟨⟨fun _ _ => rfl, (BitVec.add_zero _).symm, .of_regs rfl, rfl⟩, show s.core p = _ by rw [← queue]⟩
  | cons e l ih =>
    have he : e.prm < 64 := small e (by simp)
    have step := State.applyOne_eq (x := x) hp queue he (.inr free)
    have run : PatchesRun p [e] s (s.patchTaken p x e l) := State.patchTaken_run he
    have core : (s.patchTaken p x e l).core p = { s.core p with patches := l } := by
      rw [State.core_patchTaken, CoreMisc.shifted]; simp [wait]
    have map : MapKept s (s.patchTaken p x e l) :=
      ((MapKept.refl s).setCore ..).trans
        ((State.patchApplied_mapKept (s.setCore p { s.core p with patches := l }) hp he).setCore ..)
    have dies : (s.patchTaken p x e l).dies = s.dies := by rw [run.rest]
    obtain ⟨more, last⟩ := ih (s := s.patchTaken p x e l) (x + 1) (by rw [core]) (by rw [core]; exact wait)
      (fun e h => small e (List.mem_cons_of_mem _ h))
      fun n => (map.rulingFor hp (by unfold State.die; rw [dies]) n).trans (free n)
    have fold : (List.range (e :: l).length).foldl (fun (s : State) i => s.applyOne p (x + i)) s =
        (List.range l.length).foldl (fun (s : State) i => s.applyOne p (x + 1 + i)) (s.patchTaken p x e l) := by
      rw [List.length_cons, List.range_succ_eq_map, List.foldl_cons, Nat.add_zero, step, List.foldl_map]
      simp only [Nat.succ_eq_add_one, Nat.add_assoc, Nat.add_comm 1]
    rw [fold]
    exact ⟨run.trans more, by rw [last, core]⟩

/-! ### Patch windows (R153, R171) -/

/-- A core has seen the patch window that begins in cycle x. -/
def State.windowSeen (s : State) (p x : Nat) : State :=
  (s.setCore p { s.core p with window := some x }).setF (R.COX_IRQ_STAT p) F.COX_IRQ_STAT_WINDOW 1

/-- A window in which every queued patch is due applies them all. -/
theorem State.doWindow_eq {s : State} {p x : Nat} (due : ∀ e ∈ (s.core p).patches, e.at_ < x)
    (few : (s.core p).patches.length ≤ 8) : s.doWindow p x =
      (((List.range (s.core p).patches.length).foldl (fun (s : State) i => s.applyOne p (x + i))
        (s.windowSeen p x)).turnPredictions p).bump (R.COX_CNT_REPLAY p) 1 := by
  have queue : ((s.windowSeen p x).core p).patches = (s.core p).patches := by
    rw [State.windowSeen, State.core_setF, State.core_setCore_self]
  have all : (((s.windowSeen p x).core p).patches.takeWhile fun e => decide (e.at_ < x)).take 8 = (s.core p).patches := by
    rw [queue, List.takeWhile_eq_self_iff.2 (by simpa using due), List.take_of_length_le few]
  have ran : s.doWindow p x = (((List.range ((((s.windowSeen p x).core p).patches.takeWhile fun e =>
      decide (e.at_ < x)).take 8).length).foldl (fun (s : State) i => s.applyOne p (x + i)) (s.windowSeen p x)).turnPredictions
        p).bump (R.COX_CNT_REPLAY p) 1 := rfl
  rw [ran, all]

section
variable (s : State) (p x : Nat)

theorem State.rd_windowSeen {a : Nat} (n : a ≠ R.COX_IRQ_STAT p) : (s.windowSeen p x).rd a = s.rd a := by
  rw [State.windowSeen, State.rd_setF_ne _ _ _ _ _ n, State.rd_setCore]

theorem State.core_windowSeen : (s.windowSeen p x).core p = { s.core p with window := some x } := by
  rw [State.windowSeen, State.core_setF, State.core_setCore_self]

theorem State.windowSeen_dies : (s.windowSeen p x).dies = s.dies := by
  rw [State.windowSeen, State.setF_dies, State.setCore_dies]

theorem State.windowSeen_mapKept (hp : p < 256) : MapKept s (s.windowSeen p x) :=
  ((MapKept.refl s).setCore ..).setF _ _
    (not_mapReg (by simp only [R.COX_IRQ_STAT, Blk.base, coreBase]; omega)
      (by simp only [R.COX_IRQ_STAT, Blk.base, coreBase]; omega))

end

/-- The registers a run of patches counts in, and those of the window itself, are apart. -/
theorem windowRegs_apart {p : Nat} {n : Nat} (h : n < 64) : R.PRM p n ≠ R.COX_IRQ_STAT p ∧ R.PRM p n ≠ R.COX_CNT_REPLAY p ∧
    R.COX_CNT_PATCH p ≠ R.COX_IRQ_STAT p ∧ R.COX_CNT_PATCH p ≠ R.COX_CNT_REPLAY p ∧
    R.COX_IRQ_STAT p ≠ R.COX_CNT_REPLAY p := by
  simp only [R.PRM, R.COX_IRQ_STAT, R.COX_CNT_REPLAY, R.COX_CNT_PATCH, Blk.base]; omega

/-- The patch window of a replay. -/
theorem patchWindow_applies (p : Pos) (x : Nat) (s : State) (begins : s.windowAtCycle p x = true)
    (wait : (s.core p).patchWait = []) (few : (s.core p).patches.length ≤ 8)
    (due : ∀ e ∈ (s.core p).patches, e.at_ < x ∧ e.prm < 64) (free : ∀ n, s.rulingFor p n = []) :
    ∃ t, exec (.patchWindow p x) s = .next t ∧ (t.core p).patches = [] ∧ (t.core p).window = some x ∧
      (∀ n : Fin 64, t.prm p n = (s.core p).patches.foldl (fun v e =>
        if e.prm = n.val then (if e.add = true then v + e.value else e.value) % 2 ^ 48 else v) (s.prm p n)) ∧
      t.f (R.COX_IRQ_STAT p) F.COX_IRQ_STAT_WINDOW = 1 ∧ t.rd (R.COX_CNT_REPLAY p) = s.rd (R.COX_CNT_REPLAY p) + 1 ∧
      t.rd (R.COX_CNT_PATCH p) = s.rd (R.COX_CNT_PATCH p) + BitVec.ofNat 64 (s.core p).patches.length ∧
      t.spad = s.spad ∧ t.hbm = s.hbm ∧ ClockedTo s t (dieOf p) x := by
  have ran : exec (.patchWindow p x) s = .next ((s.doWindow p x).clock (dieOf p) x) := if_pos begins
  have spad := exec_same ran .spad (by simp [touches, Part.reported])
  have hbm := exec_same ran .hbm (by simp [touches, Part.reported])
  have core := s.core_windowSeen p x
  have die : (s.windowSeen p x).die (dieOf p) = s.die (dieOf p) := by unfold State.die; rw [State.windowSeen_dies]
  have run := State.patches_run p.isLt (s.core p).patches (s := s.windowSeen p x) x (by rw [core]) (by rw [core]; exact wait)
    (fun e h => (due e h).2) fun n => ((s.windowSeen_mapKept p x p.isLt).rulingFor p.isLt (congrArg _ die) n).trans (free n)
  have shape := State.doWindow_eq (fun e h => (due e h).1) few
  dsimp only at run
  generalize (List.range (s.core p).patches.length).foldl (fun (s : State) i => s.applyOne p (x + i)) (s.windowSeen p x) = u
    at run shape
  obtain ⟨run, last⟩ := run
  obtain ⟨_, _, cntIrq, cntReplay, irqReplay⟩ := windowRegs_apart (p := p) (n := 0) (by decide)
  have rd {a : Nat} (n : a ≠ R.COX_CNT_REPLAY p) : ((s.doWindow p x).clock (dieOf p) x).rd a = u.rd a := by
    rw [State.rd_clock, shape, State.rd_bump_ne _ _ _ _ n, State.turnPredictions, State.rd_setAe]
  have quiet {a : Nat} (cnt : a ≠ R.COX_CNT_PATCH p) (prm : ∀ n < 64, a ≠ R.PRM p n) : u.rd a = (s.windowSeen p x).rd a :=
    run.rd a (by
      simp only [List.mem_cons, List.mem_map, not_or, not_exists, not_and]
      exact ⟨cnt, fun e h eq => prm e.prm (due e h).2 eq.symm⟩)
  have coreAfter : ((s.doWindow p x).clock (dieOf p) x).core p = { (s.windowSeen p x).core p with patches := [] } := by
    rw [State.core_clock, shape, State.core_bump, State.turnPredictions, State.core_setAe, last]
  refine ⟨_, ran, by rw [coreAfter], by rw [coreAfter, core], fun n => ?prm, ?seen, ?replay, ?count, spad, hbm,
    State.clockedTo_of_dies ?dies _ _⟩
  case prm =>
    obtain ⟨irq, replay, _⟩ := windowRegs_apart (p := p) n.isLt
    have mine : State.prm ((s.doWindow p x).clock (dieOf p) x) p n = u.prm p n := State.f_congr (rd replay) _
    have before : (s.windowSeen p x).prm p n = s.prm p n := State.f_congr (s.rd_windowSeen p x irq) _
    rw [mine, run.prm n n.isLt, before]
    rfl
  case seen =>
    rw [State.f_congr (rd irqReplay), State.f_congr (quiet cntIrq.symm fun n hn => (windowRegs_apart hn).1.symm), State.windowSeen]
    exact State.f_setF_of_lt _ _ _ _ (by decide) (by decide)
  case replay =>
    rw [State.rd_clock, shape, State.rd_bump_self, State.turnPredictions, State.rd_setAe,
      quiet cntReplay.symm fun n hn => (windowRegs_apart hn).2.1.symm, s.rd_windowSeen p x irqReplay.symm]
    rfl
  case count => rw [rd cntReplay, run.count, s.rd_windowSeen p x cntIrq]
  case dies =>
    rw [shape, State.bump_dies, State.turnPredictions, State.setAe_dies, run.rest]
    exact s.windowSeen_dies p x

/-- The oldest patch applies while no heat runs on the core (R154, R171). -/
theorem patchWindow_idle (p : Pos) (x : Nat) (e : Patch) (l : List Patch) (s : State)
    (idle : (s.die (dieOf p)).run = none) (queue : (s.core p).patches = e :: l) (small : e.prm < 64) :
    ∃ t, exec (.patchWindow p x) s = .next t ∧
      t.prm p e.prm = (if e.add = true then s.prm p e.prm + e.value else e.value) % 2 ^ 48 ∧
      RegsBut s t [R.PRM p e.prm, R.COX_CNT_PATCH p] ∧ ∃ m, (t.core p).patches = l ++ m := by
  have noWindow : s.windowAtCycle p x = false := by unfold State.windowAtCycle; rw [idle]
  have ran : exec (.patchWindow p x) s = .next ((s.doIdlePatch p x).clock (dieOf p) x) :=
    (if_neg (by simp [noWindow])).trans (State.when_true _ _ (by simp [State.heatOn_idle idle, queue]))
  have run : PatchesRun p [e] s (s.patchTaken p x e l) := State.patchTaken_run small
  have regs : ((s.doIdlePatch p x).clock (dieOf p) x).regs = (s.patchTaken p x e l).regs := by
    rw [State.clock_regs, State.doIdlePatch, State.applyOne_eq p.isLt queue small (.inl (State.heatTag_idle idle x))]
    exact State.setDie_regs ..
  have core : ((s.doIdlePatch p x).clock (dieOf p) x).core p = (s.patchTaken p x e l).core p := by
    rw [State.core_clock, State.doIdlePatch, State.applyOne_eq p.isLt queue small (.inl (State.heatTag_idle idle x))]
    exact State.core_setDie ..
  refine ⟨_, ran, ?_, ?_, _, by rw [core, State.core_patchTaken]; rfl⟩
  · have mine : State.prm ((s.doIdlePatch p x).clock (dieOf p) x) p e.prm = (s.patchTaken p x e l).prm p e.prm :=
      State.f_congr (State.rd_congr regs _) _
    rw [mine, run.prm _ small, List.foldl_cons, List.foldl_nil, if_pos rfl]
    rfl
  · intro a n
    rw [State.rd_congr regs, run.rd a (by simpa [and_comm] using n)]

/-- REPLAY_NEAR warns the cores whose lead falls in its cycle (R153). -/
theorem replayNear_warns (d : Die) (x : Nat) (r : RunHeat) (s : State) (run : (s.die d).run = some r)
    (near : s.nearCores d x r ≠ []) :
    ∃ t, exec (.replayNear d x) s = .next t ∧ ClockedTo s t d x ∧ t = { s with regs := t.regs, dies := t.dies } ∧
      (∀ p : Pos, dieOf p = d.val →
        t.f (R.COX_IRQ_STAT p) F.COX_IRQ_STAT_REPLAY_NEAR =
          if (s.nearCores d x r).contains p.val then 1 else s.f (R.COX_IRQ_STAT p) F.COX_IRQ_STAT_REPLAY_NEAR) ∧
      RegsBut s t ((s.nearCores d x r).map fun p => R.COX_IRQ_STAT p) := by
  let u := s.setAll R.COX_IRQ_STAT F.COX_IRQ_STAT_REPLAY_NEAR 1 (s.nearCores d x r)
  have ran : exec (.replayNear d x) s = .next (u.clock d x) := by
    show execReplayNear d x s = _
    unfold execReplayNear
    rw [run]
    exact State.when_true _ _ (by simpa using near)
  have rest := s.setAll_eq R.COX_IRQ_STAT F.COX_IRQ_STAT_REPLAY_NEAR 1 (s.nearCores d x r)
  refine ⟨_, ran, State.clockedTo_of_dies (congrArg State.dies rest) _ _, ?_, fun p _ => ?_, ?_⟩
  · rw [u.clock_eq, show u = _ from rest]
  · rw [State.f_clock]
    exact s.f_setAll irqStat_inj _ (by decide) (by decide) _ _
  · exact (s.setAll_regsBut _ _ _ _).same (State.clock_regs ..)

/-- Settles O31: a window runs its queued patches, an idle core applies its oldest, and a warning is one bit of each core
near its end. -/
theorem patchWindowsApply : Obligations.PatchWindowsApply := by
  unfold Obligations.PatchWindowsApply
  exact ⟨patchWindow_applies, patchWindow_idle, replayNear_warns⟩

theorem Kept.cox {m : Nat} {s t : State} (h : Kept m s t) (j : Nat) (n : m.testBit 12 = false := by decide) :
    t.cox j = s.cox j := by
  unfold State.cox; rw [show t.coxes = s.coxes from h.same .coxes n]

/-! ### The bytes of a memory of the cox (R151) -/

theorem leNat_leBytes (n v : Nat) : leNat (leBytes n v) = v % 256 ^ n := by
  induction n generalizing v with
  | zero => exact (Nat.mod_one v).symm
  | succ n ih =>
    rw [leBytes, leNat, ih, BitVec.toNat_ofNat, Nat.pow_succ' (m := 256), Nat.mod_mul (a := 256)]

theorem memWord_congr {m k : NMap Byte} {a n : Nat}
    (h : ∀ j, a ≤ j → j < a + n → m.get (fun _ => 0) j = k.get (fun _ => 0) j) :
    memWord m a n = memWord k a n :=
  congrArg leNat (List.map_congr_left fun i hi => h _ (by omega) (by have := List.mem_range.1 hi; omega))

/-- A word stored is the word read. -/
theorem memWord_memPut (m : NMap Byte) (a v : Nat) (h : v < 2 ^ 32) : memWord (memPut m a 4 v) a 4 = v := by
  have bytes : (List.range 4).map (fun i => (memPut m a 4 v).get (fun _ => 0) (a + i)) = leBytes 4 v := by
    show [_, _, _, _] = [_, _, _, _]
    simp [memPut, leBytes, NMap.get_set]
  rw [memWord, bytes, leNat_leBytes]
  omega

/-- A store of a word leaves every byte outside it. -/
theorem memWord_memPut_apart (m : NMap Byte) (a v b n : Nat) (h : b + n ≤ a ∨ a + 4 ≤ b) :
    memWord (memPut m a 4 v) b n = memWord m b n :=
  memWord_congr fun j lo hi => by
    simp only [memPut, leBytes, List.zipIdx_cons, List.zipIdx_nil, List.foldl_cons, List.foldl_nil]
    rw [NMap.get_set_ne _ _ _ _ _ (by omega), NMap.get_set_ne _ _ _ _ _ (by omega), NMap.get_set_ne _ _ _ _ _ (by omega),
      NMap.get_set_ne _ _ _ _ _ (by omega)]

/-- The lowest bits of a word are those of its first half. -/
theorem memWord_half (m : NMap Byte) (a : Nat) : memWord m a 2 % 4 = memWord m a 4 % 4 := by
  have four : memWord m a 4 = memWord m a 2 + 65536 * memWord m (a + 2) 2 := by
    simp only [memWord, List.range_succ, List.range_zero, List.nil_append, List.cons_append, List.map_cons, List.map_nil,
      leNat, Nat.add_assoc, Nat.reduceAdd, Nat.add_zero]
    omega
  omega

/-! ### Traps of the cox (R152) -/

/-- A cox that has entered its handler for a cause. -/
def Cox.entered (c : Cox) (cause : Nat) (val : W32) (irq : Bool) : Cox :=
  { c with
    mepc := c.pc, mcause := BitVec.ofNat 32 (cause + (if irq then 2 ^ 31 else 0)), mtval := val
    mstatus := (c.mstatus &&& 0x8) <<< 4
    pc := if irq ∧ c.mtvec.toNat % 4 = 1 then (c.mtvec &&& ~~~ 3) + BitVec.ofNat 32 (4 * cause) else c.mtvec &&& ~~~ 3
    inTrap := true, wfi := false }

/-- The handler runs with interrupts off. -/
theorem Cox.entered_mstatus (c : Cox) (cause : Nat) (val : W32) (irq : Bool) :
    (c.entered cause val irq).mstatus &&& 0x8 = 0 := by
  show (c.mstatus &&& 0x8) <<< 4 &&& 0x8 = 0
  rw [BitVec.shiftLeft_and_distrib, BitVec.and_assoc]
  exact BitVec.and_zero

/-- A first trap enters the handler. -/
theorem State.coxTrap_enters {s : State} {p : Nat} (h : (s.cox p).inTrap = false) (cause : Nat) (val : W32) (irq inj : Bool) :
    s.coxTrap p cause val irq false inj = s.setCox p ((s.cox p).entered cause val irq) := by
  unfold State.coxTrap
  dsimp only
  rw [h]
  rfl

/-- A trap inside the handler halts the cox: COX_TRAP tells pc and cause, and it is reported. -/
theorem State.coxTrap_halts {s : State} {p : Nat} (h : (s.cox p).inTrap = true) (cause : Nat) (val : W32) :
    s.coxTrap p cause val false false false =
      (((s.setCox p { s.cox p with halted := true, wfi := false }).wr (R.COX_TRAP p)
        (fields [((s.cox p).pc.toNat, 0), (cause % 32, 32)])).setF (R.COX_EVENT p) F.COX_EVENT_TRAP 1).record
          (occ 0x29 kCore p (s.cox p).pc.toNat cause) := by
  unfold State.coxTrap
  dsimp only
  rw [h, Bool.true_or, if_pos rfl, if_neg (by decide)]

section
variable {s : State} {p : Nat} (h : (s.cox p).inTrap = true)
include h

theorem State.cox_coxTrap_halted (cause : Nat) (val : W32) :
    (s.coxTrap p cause val false false false).cox p = { s.cox p with halted := true, wfi := false } := by
  rw [State.coxTrap_halts h]
  rw [(State.record_reports _ _ _ _).cox, State.cox_setF, State.cox_wr, State.cox_setCox_self]

theorem State.rd_coxTrap_halted (hp : p < 256) (cause : Nat) (val : W32) :
    (s.coxTrap p cause val false false false).rd (R.COX_TRAP p) =
      fields [((s.cox p).pc.toNat, 0), (cause % 32, 32)] := by
  have lo : 0x100_0000 ≤ R.COX_TRAP p := by simp only [R.COX_TRAP, Blk.base, coreBase]; omega
  have hi : R.COX_TRAP p < 0x300_0000 := by simp only [R.COX_TRAP, Blk.base, coreBase]; omega
  rw [State.coxTrap_halts h, UnitRegs.record (.refl _) _ _ _ (.inr (.inl ⟨rfl, hp⟩)) _ lo hi,
    State.rd_setF_ne _ _ _ _ _ (by simp only [R.COX_TRAP, R.COX_EVENT, Blk.base]; omega), State.rd_wr_self]

theorem State.event_coxTrap_halted (hp : p < 256) (cause : Nat) (val : W32) :
    (s.coxTrap p cause val false false false).f (R.COX_EVENT p) F.COX_EVENT_TRAP = 1 := by
  have lo : 0x100_0000 ≤ R.COX_EVENT p := by simp only [R.COX_EVENT, Blk.base, coreBase]; omega
  have hi : R.COX_EVENT p < 0x300_0000 := by simp only [R.COX_EVENT, Blk.base, coreBase]; omega
  rw [State.coxTrap_halts h, State.f_congr (UnitRegs.record (.refl _) _ _ _ (.inr (.inl ⟨rfl, hp⟩)) _ lo hi),
    State.f_setF_of_lt _ _ _ _ (by decide) (by decide)]

end

/-! ### One instruction of the cox (R151) -/

/-- From s to u nothing but the cox of core p has changed. -/
structure CoxOnly (p : Nat) (s u : State) : Prop where
  others : ∀ j, j ≠ p → u.cox j = s.cox j
  rest : u = { s with coxes := u.coxes }

theorem CoxOnly.setCox {p : Nat} {s u : State} (h : CoxOnly p s u) (c : Cox) : CoxOnly p s (u.setCox p c) where
  others j n := by rw [State.cox_setCox_ne _ _ _ _ n, h.others j n]
  rest := by rw [State.setCox, h.rest]

/-- The cox of core p is up for the instruction of cycle x, and nothing else has changed. -/
structure CoxUp (p x : Nat) (s u : State) : Prop extends CoxOnly p s u where
  cox : u.cox p = { s.cox p with next := x + 1, wfi := false }

/-- The state once the cox of core p has its cycle x. -/
def State.coxStepped (s : State) (p x : Nat) : State := s.setCox p { s.cox p with next := x + 1 }

/-- What comes of an instruction in state u: it retires, it traps, or its store waits. -/
def State.coxDone (u : State) (p : Nat) : CoxRes → State
  | .ok t rd v pc => (t.setCox p { (t.cox p).setX rd v with pc := pc }).bump (R.COX_CNT_INSTR p) 1
  | .trap t cause val => t.coxTrap p cause val false false false
  | .stall => u.setF (R.COX_EVENT p) F.COX_EVENT_PATCH_STALL 1

section
variable {s : State} {p x : Nat}

theorem State.cox_coxStepped : (s.coxStepped p x).cox p = { s.cox p with next := x + 1 } := State.cox_setCox_self ..

theorem State.coxOnly_coxStepped : CoxOnly p s (s.coxStepped p x) := CoxOnly.setCox ⟨fun _ _ => rfl, rfl⟩ _

theorem State.coxIrq_coxStepped : (s.coxStepped p x).coxIrq p = s.coxIrq p := by
  unfold State.coxIrq State.coxStepped
  rw [State.rd_setCox, State.rd_setCox]

theorem State.inject_coxStepped (unarmed : Unarmed s 0x29) :
    (s.coxStepped p x).inject 0x29 kCore p = (none, s.coxStepped p x) :=
  State.inject_unarmed (by unfold Unarmed State.coxStepped; rw [State.f_setCox]; exact unarmed) _ _

/-- The step of a cox: an interrupt that is enabled is taken, and otherwise the instruction at pc decides. -/
theorem State.doCox_eq (unarmed : Unarmed s 0x29) :
    let v := s.coxStepped p x
    s.doCox p x =
      if v.coxIrq p && (v.cox p).mie &&& meiMask != 0 && (v.cox p).mstatus &&& 0x8 != 0 then v.coxTrap p 11 0 true false false
      else
        let u := if (v.cox p).wfi then v.setCox p { v.cox p with wfi := false } else v
        u.coxDone p (u.coxFetch p x) := by
  have none := State.inject_coxStepped (p := p) (x := x) unarmed
  unfold State.coxStepped at none
  unfold State.doCox State.coxStepped
  dsimp only
  rw [none]
  rfl

/-- With no interrupt to take, the instruction at pc decides the step. -/
theorem State.doCox_executes (unarmed : Unarmed s 0x29)
    (quiet : (s.coxIrq p && (s.cox p).mie &&& meiMask != 0 && (s.cox p).mstatus &&& 0x8 != 0) = false) :
    ∃ u, CoxUp p x s u ∧ s.doCox p x = u.coxDone p (u.coxFetch p x) := by
  have step := State.doCox_eq (p := p) (x := x) unarmed
  have only := State.coxOnly_coxStepped (s := s) (p := p) (x := x)
  have cox := State.cox_coxStepped (s := s) (p := p) (x := x)
  have irq := State.coxIrq_coxStepped (s := s) (p := p) (x := x)
  generalize s.coxStepped p x = v at step only cox irq
  dsimp only at step
  rw [if_neg (by rw [irq, cox, quiet]; decide)] at step
  refine ⟨if (v.cox p).wfi then v.setCox p { v.cox p with wfi := false } else v, ?_, step⟩
  cases wfi : (v.cox p).wfi with
  | true =>
    rw [if_pos rfl]
    exact ⟨only.setCox _, by rw [State.cox_setCox_self, cox]⟩
  | false =>
    rw [if_neg (by decide)]
    exact ⟨only, by rw [← wfi, cox]⟩

/-- An enabled interrupt enters the handler. -/
theorem State.doCox_interrupt (unarmed : Unarmed s 0x29)
    (taken : (s.coxIrq p && (s.cox p).mie &&& meiMask != 0 && (s.cox p).mstatus &&& 0x8 != 0) = true)
    (first : (s.cox p).inTrap = false) :
    s.doCox p x = (s.coxStepped p x).setCox p (Cox.entered { s.cox p with next := x + 1 } 11 0 true) := by
  have step := State.doCox_eq (p := p) (x := x) unarmed
  have cox := State.cox_coxStepped (s := s) (p := p) (x := x)
  dsimp only at step
  rw [if_pos (by rw [State.coxIrq_coxStepped, cox]; exact taken)] at step
  rw [step, State.coxTrap_enters (by rw [cox]; exact first), cox]

/-- A word in IMEM whose lowest bits are set is executed as it is. -/
theorem State.coxFetch_word (room : (s.cox p).pc.toNat + 4 ≤ 0x8000)
    (long : memWord (s.cox p).imem (s.cox p).pc.toNat 4 % 4 = 3) :
    s.coxFetch p x = s.coxInsn p x (memWord (s.cox p).imem (s.cox p).pc.toNat 4) 4 := by
  unfold State.coxFetch
  dsimp only
  rw [if_neg (by omega), if_pos ((memWord_half ..).trans long), if_neg (by omega)]

variable {i : Nat}

theorem bitsOf_zero (v n : Nat) : bitsOf v 0 n = v % 2 ^ n := by rw [bitsOf, Nat.pow_zero, Nat.div_one]

/-- An immediate operation other than a shift. -/
theorem State.coxInsn_opImm (op : i % 128 = 0x13) (left : bitsOf i 12 3 ≠ 1) (right : bitsOf i 12 3 ≠ 5) :
    s.coxInsn p x i 4 = .ok s (bitsOf i 7 5) (aluOp (bitsOf i 12 3) false ((s.cox p).x (bitsOf i 15 5))
      (BitVec.ofNat 32 (sx 12 (bitsOf i 20 12)))) ((s.cox p).pc + 4) := by
  have op' : bitsOf i 0 7 = 0x13 := (bitsOf_zero i 7).trans op
  have arith : (bitsOf i 12 3 == 5) = false := by simpa using right
  unfold State.coxInsn
  dsimp only
  rw [op', arith, Bool.false_and]
  exact (if_neg fun h => left h.1).trans (if_neg fun h => right h.1)

/-- A store of a word to DMEM. -/
theorem State.coxInsn_storeWord (op : i % 128 = 0x23) (word : bitsOf i 12 3 = 2) {a : Nat}
    (addr : ((s.cox p).x (bitsOf i 15 5) + BitVec.ofNat 32 (sx 12 (bitsOf i 25 7 * 32 + bitsOf i 7 5))).toNat = a)
    (aligned : a % 4 = 0) (lo : 0x10000000 ≤ a) (hi : a + 4 ≤ 0x10010000) :
    s.coxInsn p x i 4 = .ok (s.setCox p { s.cox p with
      dmem := memPut (s.cox p).dmem (a - 0x10000000) 4 ((s.cox p).x (bitsOf i 20 5)).toNat }) 0 0 ((s.cox p).pc + 4) := by
  have op' : bitsOf i 0 7 = 0x23 := (bitsOf_zero i 7).trans op
  have place : coxPlace a 4 = some 1 := by
    unfold coxPlace
    rw [if_neg (by omega), if_pos ⟨lo, hi⟩]
  have store : s.coxStore p x 2 ((s.cox p).x (bitsOf i 15 5) + BitVec.ofNat 32 (sx 12 (bitsOf i 25 7 * 32 + bitsOf i 7 5)))
      ((s.cox p).x (bitsOf i 20 5)) ((s.cox p).pc + 4#32) = .ok (s.setCox p { s.cox p with
        dmem := memPut (s.cox p).dmem (a - 0x10000000) 4 ((s.cox p).x (bitsOf i 20 5)).toNat }) 0 0 ((s.cox p).pc + 4) := by
    unfold State.coxStore
    dsimp only
    rw [addr, if_neg (by decide), if_neg (by rw [show widthOf 2 = 4 from rfl]; omega), show widthOf 2 = 4 from rfl, place]
    rfl
  unfold State.coxInsn
  dsimp only
  rw [op', word, store]
  rfl

/-- ECALL traps with cause 11. -/
theorem State.coxInsn_ecall : s.coxInsn p x 0x73 4 = .trap s 11 0 := by
  have op : bitsOf 0x73 0 7 = 0x73 := by decide
  have f3 : bitsOf 0x73 12 3 = 0 := by decide
  unfold State.coxInsn
  dsimp only
  rw [op]
  show s.coxSystem p 0x73 _ = _
  unfold State.coxSystem
  dsimp only
  rw [f3, if_pos rfl, if_pos rfl]

/-- The step of an instruction that retires leaves this cox, and counts it. -/
theorem CoxOnly.retires {u v : State} (h : CoxOnly p s u) {c : Cox}
    (shape : v = (u.setCox p c).bump (R.COX_CNT_INSTR p) 1) :
    let t := v.clock (dieOf p) x
    t.cox p = c ∧ (∀ j, j ≠ p → t.cox j = s.cox j) ∧ ClockedTo s t (dieOf p) x ∧
      t.rd (R.COX_CNT_INSTR p) = s.rd (R.COX_CNT_INSTR p) + 1 ∧ RegsBut s t [R.COX_CNT_INSTR p] ∧
      t = { s with regs := t.regs, coxes := t.coxes, dies := t.dies } := by
  have regs : (u.setCox p c).regs = s.regs := by rw [State.setCox_regs, h.rest]
  subst shape
  refine ⟨?_, fun j n => ?_, State.clockedTo_of_dies ?_ _ _, ?_, ?_, ?_⟩
  · rw [State.cox_clock, State.cox_bump, State.cox_setCox_self]
  · rw [State.cox_clock, State.cox_bump, State.cox_setCox_ne _ _ _ _ n, h.others j n]
  · rw [State.bump_dies, State.setCox_dies, h.rest]
  · rw [State.rd_clock, State.rd_bump_self, State.rd_congr regs]
    rfl
  · exact (RegsBut.bump (.of_regs regs) (by simp) 1).same (State.clock_regs ..)
  · rw [State.clock_eq, State.bump_eq, State.setCox, h.rest]

end

/-! ### Words made of fields -/

theorem fields_nil : (fields []).toNat = 0 := rfl

theorem fields_cons (a i : Nat) (l : List (Nat × Nat)) :
    (fields ((a, i) :: l)).toNat = (a * 2 ^ i + (fields l).toNat) % 2 ^ 64 := by
  simp only [fields, List.map_cons, List.sum_cons, BitVec.toNat_ofNat, Nat.add_mod_mod]

/-- What COX_TRAP tells. -/
theorem fields_trap (pc : W32) : (fields [(pc.toNat, 0), (11 % 32, 32)]).toNat = pc.toNat + 11 * 2 ^ 32 := by
  have small := pc.isLt
  rw [fields_cons, fields_cons, fields_nil]
  omega

/-- Settles O28: an interrupt enters the handler, and otherwise the word at pc is executed. -/
theorem coxRuns : Obligations.CoxRuns := by
  unfold Obligations.CoxRuns
  intro p x s ready unarmed c w int entry
  have ran : exec (.coxInstruction p x) s = .next ((s.doCox p x).clock (dieOf p) x) := State.when_true _ _ ready
  refine ⟨_, ran, fun taken first => ?interrupt, fun quiet room long => ?executes⟩
  case interrupt =>
    have shape := State.doCox_interrupt (x := x) unarmed taken first
    have cox : ((s.doCox p x).clock (dieOf p) x).cox p = Cox.entered { s.cox p with next := x + 1 } 11 0 true := by
      rw [State.cox_clock, shape, State.cox_setCox_self]
    have regs : ((s.doCox p x).clock (dieOf p) x).regs = s.regs := by
      rw [State.clock_regs, shape, State.setCox_regs, State.coxOnly_coxStepped.rest]
    rw [cox]
    exact ⟨.of_regs regs, rfl, rfl, rfl, Cox.entered_mstatus .., rfl,
      fun direct => if_neg fun h => absurd h.2 (by rw [show _ % 4 = 0 from direct]; decide),
      fun vectored => if_pos ⟨rfl, vectored⟩⟩
  case executes =>
    obtain ⟨u, up, shape⟩ := State.doCox_executes (x := x) unarmed quiet
    have fetch : u.coxFetch p x = u.coxInsn p x w 4 := by
      have e := State.coxFetch_word (s := u) (p := p) (x := x) (by rw [up.cox]; exact room) (by rw [up.cox]; exact long)
      rwa [up.cox] at e
    rw [fetch] at shape
    refine ⟨fun op left right => ?opImm, fun op word => ?store, fun call first => ?enters, fun call second => ?halts⟩
    case opImm =>
      rw [State.coxInsn_opImm op left right] at shape
      dsimp only [State.coxDone] at shape
      obtain ⟨cox, frame⟩ := up.toCoxOnly.retires shape
      rw [up.cox] at cox
      refine ⟨cox.trans ?_, frame⟩
      unfold Cox.setX
      split
      · rfl
      · rfl
    case store =>
      intro a aligned lo hi
      rw [State.coxInsn_storeWord op word (a := a) (by rw [up.cox]; rfl) aligned lo hi] at shape
      dsimp only [State.coxDone] at shape
      obtain ⟨cox, _, _, _, regs, rest⟩ := (up.toCoxOnly.setCox _).retires shape
      rw [State.cox_setCox_self, up.cox] at cox
      exact ⟨cox, by rw [cox]; exact memWord_memPut _ _ _ (BitVec.isLt _),
        fun b n apart => by rw [cox]; exact memWord_memPut_apart _ _ _ _ _ apart, regs, rest⟩
    case enters =>
      rw [call, State.coxInsn_ecall] at shape
      dsimp only [State.coxDone] at shape
      rw [State.coxTrap_enters (by rw [up.cox]; exact first)] at shape
      have regs : ((s.doCox p x).clock (dieOf p) x).regs = s.regs := by
        rw [State.clock_regs, shape, State.setCox_regs, up.rest]
      have cox : ((s.doCox p x).clock (dieOf p) x).cox p =
          Cox.entered { s.cox p with next := x + 1, wfi := false } 11 0 false := by
        rw [State.cox_clock, shape, State.cox_setCox_self, up.cox]
      rw [cox]
      exact ⟨rfl, rfl, rfl, rfl, Cox.entered_mstatus .., rfl, rfl, .of_regs regs⟩
    case halts =>
      rw [call, State.coxInsn_ecall] at shape
      dsimp only [State.coxDone] at shape
      have cox := State.cox_coxTrap_halted (p := p) (s := u) (by rw [up.cox]; exact second) 11 0
      have told := State.rd_coxTrap_halted (s := u) (by rw [up.cox]; exact second) p.isLt 11 0
      have event := State.event_coxTrap_halted (s := u) (by rw [up.cox]; exact second) p.isLt 11 0
      rw [up.cox] at cox told
      rw [State.cox_clock, State.rd_clock, State.f_clock, shape, cox, told, fields_trap]
      exact ⟨rfl, rfl, event, rfl⟩

/-! ### Fences release (R150) -/

section
variable {s : State} {p x : Nat}

theorem State.runSlotless_slotted {c : AeCmd} (h : c.kind.slotted = true) : s.runSlotless p x c = s := by
  unfold State.runSlotless
  split
  · rfl
  · split <;> rename_i e
    · rw [e] at h; cases h
    · rw [e] at h; cases h
    · rw [e] at h; cases h
    · rfl

/-- Commands that all take slots stay where they are. -/
theorem State.runUnheld_slotted (h : ∀ c ∈ (s.ae p).cmds, c.kind.slotted = true) : s.runUnheld p x = s :=
  List.foldlRecOn (motive := fun t => t = s) (s.ae p).cmds _ rfl fun t e c hc => by
    rw [e]; exact State.runSlotless_slotted (h c hc)

theorem State.cmds_delCmd (s : State) (p id : Nat) :
    ((s.delCmd p id).ae p).cmds = (s.ae p).cmds.filter fun d => d.id != id := by
  unfold State.delCmd
  rw [State.ae_setAe_self]

end

theorem fenceRelease_releases (p : Pos) (x : Nat) (f : AeCmd) (s : State) (first : s.openFence p = some f)
    (others : ∀ c ∈ (s.ae p).cmds, c.id = f.id ∨ c.kind.slotted = true) :
    ∃ t, exec (.fenceRelease p x) s = .next t ∧ (t.ae p).cmds = (s.ae p).cmds.filter (fun c => c.id != f.id) ∧
      (∀ j, j ≠ p.val → t.ae j = s.ae j) ∧ ClockedTo s t (dieOf p) x ∧ t = { s with aes := t.aes, dies := t.dies } := by
  have stay : (s.delCmd p f.id).runUnheld p x = s.delCmd p f.id := State.runUnheld_slotted fun c hc => by
    rw [State.cmds_delCmd] at hc
    obtain ⟨mem, ne⟩ := List.mem_filter.1 hc
    exact (others c mem).resolve_left (by simpa using ne)
  have ran : exec (.fenceRelease p x) s = .next ((s.delCmd p f.id).clock (dieOf p) x) := by
    show execFenceRelease p x s = _
    unfold execFenceRelease
    rw [first]
    dsimp only
    rw [stay]
  have rest : s.delCmd p f.id = { s with aes := (s.delCmd p f.id).aes } := rfl
  refine ⟨_, ran, ?_, fun j n => ?_, State.clockedTo_of_dies (State.delCmd_dies ..) _ _, ?_⟩
  · rw [State.ae_clock, State.cmds_delCmd]
  · rw [State.ae_clock]
    unfold State.delCmd
    exact State.ae_setAe_ne _ _ _ _ n
  · rw [State.clock_eq, rest]

/-! ### A core's occurrence sends the job of its die into recovery (R280, R342) -/

/-- The registers that tell of tenancy k's job, and of which dies the tenancies hold. -/
def jobReg (k a : Nat) : Prop := a = R.SNP_T_STAT k ∨ ∃ j, j < 8 ∧ a = R.TEN_T_CFG j

/-- Tenancy k holds die d, and its job runs or is stopping. -/
structure JobGoes (d k : Nat) (s : State) : Prop where
  ten : s.tenOfDie d = some k
  job : s.jobState k = jRunning ∨ s.jobState k = jStopping

namespace JobGoes
variable {d k : Nat} {s t : State} (h : JobGoes d k s)
include h

theorem lt : k < 8 := State.tenOfDie_lt h.ten

theorem of_rd (e : ∀ a, jobReg k a → t.rd a = s.rd a) : JobGoes d k t where
  ten := (State.tenOfDie_congr (fun j hj => e _ (.inr ⟨j, hj, rfl⟩)) d).trans h.ten
  job := by
    unfold State.jobState at *
    rw [State.f_congr (e _ (.inl rfl))]
    exact h.job

theorem same (e : t.regs = s.regs) : JobGoes d k t := h.of_rd fun a _ => State.rd_congr e a

theorem wr {a : Nat} (v : Word) (n : ¬ jobReg k a) : JobGoes d k (s.wr a v) :=
  h.of_rd fun b m => State.rd_wr_ne _ _ _ _ (by rintro rfl; exact n m)

theorem setBit {a : Nat} (i : Nat) (b : Bool) (n : ¬ jobReg k a) : JobGoes d k (s.setBit a i b) := h.wr _ n

theorem bump {a : Nat} (v : Nat) (n : ¬ jobReg k a) : JobGoes d k (s.bump a v) :=
  h.of_rd fun b m => State.rd_bump_ne _ _ _ _ (by rintro rfl; exact n m)

/-- Recovery stops the job. -/
theorem recover_stops {cause : Nat} (fits : cause < 16) : (s.recover k cause).jobState k = jStopping := by
  rcases h.job with run | stop
  · exact (State.recover_stops h.lt run fits).1
  · unfold State.recover
    rw [if_neg (by rw [stop]; decide), stop]

theorem recover {cause : Nat} (fits : cause < 16) : JobGoes d k (s.recover k cause) where
  ten := ((Reported.refl s).recover h.lt cause).tenOfDie d |>.trans h.ten
  job := .inr (h.recover_stops fits)

end JobGoes

/-- Registers of the error block, of the fence map and of the palimpsest tell of no job. -/
theorem not_jobReg {k a : Nat} (hk : k < 8)
    (h : errReg a ∨ a = R.MNT_EVENT ∨ (∃ n, n < 4 ∧ a = R.MNT_FENCE_CORE n) ∨ a = R.BH_PAL_SEQ) :
    ¬ jobReg k a := by
  rintro (rfl | ⟨j, hj, rfl⟩) <;> rcases h with h | h | ⟨n, hn, h⟩ | h
  all_goals
    simp only [errReg, R.SNP_T_STAT, R.TEN_T_CFG, R.MNT_EVENT, R.MNT_FENCE_CORE, R.BH_PAL_SEQ, Blk.base] at h
    omega

theorem JobGoes.palPut {d k : Nat} {s : State} (h : JobGoes d k s) (b : Bool) (a : Nat) : JobGoes d k (s.palPut b a) := by
  unfold State.palPut
  extract_lets u
  have hu : JobGoes d k u := by
    unfold u
    split
    · exact h.bump _ (not_jobReg h.lt (.inr (.inr (.inr rfl))))
    · exact h
  exact hu.same rfl

theorem JobGoes.recoverUse {d k : Nat} {s : State} (h : JobGoes d k s) (used : Bool) : JobGoes d k (s.recoverUse used d) := by
  unfold State.recoverUse State.recoverDie
  split
  · rw [h.ten]
    exact h.recover (by decide)
  · exact h

/-- A core's fence keeps the job going, or sends it into recovery (R294). -/
theorem JobGoes.fenceCore {p k : Nat} (hp : p < 256) {s : State} (h : JobGoes (p / 32) k s) :
    JobGoes (p / 32) k (s.fenceUnit kCore p) := by
  have event : JobGoes (p / 32) k (s.setF R.MNT_EVENT F.MNT_EVENT_FENCE_ADDED 1) := h.wr _ (not_jobReg h.lt (.inr (.inl rfl)))
  have fenced := (event.setBit (p % 64) true (not_jobReg h.lt (.inr (.inr (.inl ⟨p / 64, by omega, rfl⟩))))).palPut true
    (R.MNT_FENCE_CORE (p / 64))
  exact JobGoes.same (s := s.fenceUnit0 kCore p) (fenced.recoverUse _) rfl

/-- An occurrence of class R at a core sends the running job of the core's die into recovery. -/
theorem State.recordCore_stops {s : State} {o : Occ} {cause k : Nat} (core : o.kind = kCore) (hp : o.idx < 256)
    (goes : JobGoes (o.idx / 32) k s) (fatal : o.cl = 2) (known : (detector o.det).isSome) (fits : cause < 16) (weight : Nat) :
    (s.record o cause weight).jobState k = jStopping := by
  have ring : unitRing o.kind o.idx < 10 := unitRing_lt _ _ fun l e _ => by rw [core] at e; cases e
  have quiet {a : Nat} (m : jobReg k a) : ¬ errReg a := fun e => not_jobReg goes.lt (.inl e) m
  have det : errReg (R.ERR_CNT o.det) := by
    obtain ⟨d, hd⟩ := Option.isSome_iff_exists.1 known
    exact errReg_cnt (detector_lt hd)
  have unit {u : State} (hu : JobGoes (o.idx / 32) k u) : u.unitTen o.kind o.idx = some k := by
    rw [core]; exact hu.ten
  have keeps : RecordKeeps (JobGoes (o.idx / 32) k) o cause :=
    { count := fun u hu => hu.bump _ (not_jobReg hu.lt (.inl det))
      errs := fun u e hu => hu.same rfl
      ring := fun u n hu => hu.of_rd fun a m => State.rd_ringWrite ring u n (quiet m)
      event := fun u hu => hu.setBit _ _ (not_jobReg hu.lt (.inl errReg_event))
      action := fun u n hu => by
        unfold State.takeAction
        split
        · rw [core]; exact hu.fenceCore hp
        split
        · rw [unit hu]; exact hu.recover fits
        · exact hu }
  obtain ⟨y, hy, e⟩ := keeps.shape goes known weight
  rw [e, if_pos fatal, State.takeAction, if_neg (by decide), if_pos rfl, unit hy]
  exact hy.recover_stops fits

/-! ### Watchdogs of waits (R203, R204) -/

/-- The registers a core's waits are reported in tell of no job. -/
theorem waitReg_not_jobReg {p k a : Nat}
    (h : a = R.FLG_EVENT p ∨ a = R.FLG_CNT_TIMEOUT p ∨ a = R.FLG_WAIT_REC0 p ∨ a = R.FLG_WAIT_REC1 p) : ¬ jobReg k a := by
  rintro (rfl | ⟨j, hj, rfl⟩) <;> rcases h with h | h | h | h
  all_goals
    simp only [R.SNP_T_STAT, R.TEN_T_CFG, R.FLG_EVENT, R.FLG_CNT_TIMEOUT, R.FLG_WAIT_REC0, R.FLG_WAIT_REC1, Blk.base,
      coreBase] at h
    omega

section
variable (s : State) (p kind status flag ctx heat limit : Nat)

/-- A wait record leaves every other register. -/
theorem State.rd_waitRecord {a : Nat} (n0 : a ≠ R.FLG_WAIT_REC0 p) (n1 : a ≠ R.FLG_WAIT_REC1 p) :
    (s.waitRecord p kind status flag ctx heat limit).rd a = s.rd a := by
  unfold State.waitRecord
  split
  · rfl
  · rw [State.rd_wr_ne _ _ _ _ n1, State.rd_wr_ne _ _ _ _ n0]

/-- A free wait record takes a release, with its kind. -/
theorem State.waitRecord_fills (free : s.f (R.FLG_WAIT_REC0 p) F.FLG_WAIT_REC0_VALID = 0) :
    let t := s.waitRecord p kind status flag ctx heat limit
    t.f (R.FLG_WAIT_REC0 p) F.FLG_WAIT_REC0_VALID = 1 ∧ t.f (R.FLG_WAIT_REC0 p) F.FLG_WAIT_REC0_KIND = kind % 16 := by
  unfold State.waitRecord State.f
  rw [if_neg (by rw [show bitsOf _ _ _ = 0 from free]; decide)]
  dsimp only
  rw [State.rd_wr_ne _ _ _ _ (by simp only [R.FLG_WAIT_REC0, R.FLG_WAIT_REC1]; omega), State.rd_wr_self, BitVec.toNat_ofNat]
  exact ⟨by simp only [bitsOf]; omega, by simp only [bitsOf]; omega⟩

theorem State.waitRecord_aes : (s.waitRecord p kind status flag ctx heat limit).aes = s.aes := by
  unfold State.waitRecord
  split
  · rfl
  · rw [State.wr_aes, State.wr_aes]

/-- The state in which the timeout of a wait is recorded. -/
def State.waitMarked : State :=
  ((s.setF (R.FLG_EVENT p) F.FLG_EVENT_WAIT_TIMEOUT 1).bump (R.FLG_CNT_TIMEOUT p) 1).waitRecord p kind status flag ctx heat limit

theorem State.waitTimeout_eq : s.waitTimeout p kind status flag ctx heat limit =
    (s.waitMarked p kind status flag ctx heat limit).record
      (occ 0x23 kCore p (flag % 1024 + ctx % 2 ^ 20 * 2 ^ 16 + kind % 16 * 2 ^ 40) limit) 1 := rfl

theorem State.waitMarked_ae (j : Nat) : (s.waitMarked p kind status flag ctx heat limit).ae j = s.ae j := by
  unfold State.ae State.waitMarked
  rw [State.waitRecord_aes, State.bump_aes, State.setF_aes]

/-- A register of a core keeps its value while a timeout there is recorded. -/
theorem State.rd_waitTimeout (hp : p < 256) {a : Nat} (lo : 0x100_0000 ≤ a) (hi : a < 0x300_0000) :
    (s.waitTimeout p kind status flag ctx heat limit).rd a = (s.waitMarked p kind status flag ctx heat limit).rd a :=
  UnitRegs.record (.refl _) _ 1 1 (.inr (.inl ⟨rfl, hp⟩)) a lo hi

theorem State.waitTimeout_reports :
    Reports (s.waitMarked p kind status flag ctx heat limit) (s.waitTimeout p kind status flag ctx heat limit) := by
  rw [State.waitTimeout_eq]
  exact State.record_reports _ _ 1 1

/-- A timeout sends the running job of the core's die into recovery. -/
theorem State.waitTimeout_stops (hp : p < 256) {k : Nat} (ten : s.tenOfDie (dieOf p) = some k) (run : s.jobState k = jRunning) :
    (s.waitTimeout p kind status flag ctx heat limit).jobState k = jStopping := by
  have goes : JobGoes (p / 32) k s := ⟨ten, .inl run⟩
  have marked : JobGoes (p / 32) k (s.waitMarked p kind status flag ctx heat limit) := goes.of_rd fun a m => by
    have n (b : Nat) (h : b = R.FLG_EVENT p ∨ b = R.FLG_CNT_TIMEOUT p ∨ b = R.FLG_WAIT_REC0 p ∨ b = R.FLG_WAIT_REC1 p) :
        a ≠ b := by rintro rfl; exact waitReg_not_jobReg h m
    rw [State.waitMarked, State.rd_waitRecord _ _ _ _ _ _ _ _ (n _ (by simp)) (n _ (by simp)),
      State.rd_bump_ne _ _ _ _ (n _ (by simp)), State.rd_setF_ne _ _ _ _ _ (n _ (by simp))]
  exact State.recordCore_stops rfl hp marked rfl rfl (by decide) 1

end

/-! ### A fence's watchdog expires (R203, R204) -/

theorem waitRegs_bounds {p : Nat} (hp : p < 256) :
    0x100_0000 ≤ R.FLG_EVENT p ∧ R.FLG_EVENT p < R.FLG_CNT_TIMEOUT p ∧ R.FLG_CNT_TIMEOUT p < 0x300_0000 ∧
      0x100_0000 ≤ R.FLG_WAIT_REC0 p ∧ R.FLG_WAIT_REC0 p < 0x300_0000 ∧
      R.FLG_EVENT p ≠ R.FLG_WAIT_REC0 p ∧ R.FLG_EVENT p ≠ R.FLG_WAIT_REC1 p ∧
      R.FLG_CNT_TIMEOUT p ≠ R.FLG_WAIT_REC0 p ∧ R.FLG_CNT_TIMEOUT p ≠ R.FLG_WAIT_REC1 p := by
  simp only [R.FLG_EVENT, R.FLG_CNT_TIMEOUT, R.FLG_WAIT_REC0, R.FLG_WAIT_REC1, Blk.base, coreBase]
  omega

section
variable (s : State) (p : Pos) (kind status flag ctx heat limit : Nat)

/-- A timeout is told at its core. -/
theorem State.waitTimeout_tells :
    let t := s.waitTimeout p kind status flag ctx heat limit
    t.f (R.FLG_EVENT p) F.FLG_EVENT_WAIT_TIMEOUT = 1 ∧ t.rd (R.FLG_CNT_TIMEOUT p) = s.rd (R.FLG_CNT_TIMEOUT p) + 1 ∧
      (s.f (R.FLG_WAIT_REC0 p) F.FLG_WAIT_REC0_VALID = 0 → t.f (R.FLG_WAIT_REC0 p) F.FLG_WAIT_REC0_VALID = 1 ∧
        t.f (R.FLG_WAIT_REC0 p) F.FLG_WAIT_REC0_KIND = kind % 16) := by
  obtain ⟨lo, apart, hi, lo0, hi0, event0, event1, cnt0, cnt1⟩ := waitRegs_bounds p.isLt
  intro t
  have rd {a : Nat} (l : 0x100_0000 ≤ a) (h : a < 0x300_0000) :
      t.rd a = (s.waitMarked p kind status flag ctx heat limit).rd a := s.rd_waitTimeout p _ _ _ _ _ _ p.isLt l h
  refine ⟨?_, ?_, fun free => ?_⟩
  · rw [State.f_congr (rd lo (by omega)), State.waitMarked, State.f_congr (State.rd_waitRecord _ _ _ _ _ _ _ _ event0 event1),
      State.f_bump_ne _ _ _ _ _ (by omega), State.f_setF_of_lt _ _ _ _ (by decide) (by decide)]
  · rw [rd (by omega) hi, State.waitMarked, State.rd_waitRecord _ _ _ _ _ _ _ _ cnt0 cnt1, State.rd_bump_self,
      State.rd_setF_ne _ _ _ _ _ (by omega)]
    rfl
  · rw [State.f_congr (rd lo0 hi0), State.f_congr (rd lo0 hi0), State.waitMarked]
    refine State.waitRecord_fills _ _ _ _ _ _ _ _ ?_
    rw [State.f_bump_ne _ _ _ _ _ cnt0.symm, State.f_setF_ne _ _ _ _ _ _ event0.symm]
    exact free

end

theorem fenceWatchdog_expires (p : Pos) (f : AeCmd) (s : State) (late : s.fenceLate p = some f) :
    ∃ t, exec (.fenceWatchdogExpire p) s = .next t ∧ (t.ae p).cmds.map (·.id) = (s.ae p).cmds.map (·.id) ∧
      t.f (R.FLG_EVENT p) F.FLG_EVENT_WAIT_TIMEOUT = 1 ∧
      t.rd (R.FLG_CNT_TIMEOUT p) = s.rd (R.FLG_CNT_TIMEOUT p) + 1 ∧
      (s.f (R.FLG_WAIT_REC0 p) F.FLG_WAIT_REC0_VALID = 0 →
        t.f (R.FLG_WAIT_REC0 p) F.FLG_WAIT_REC0_VALID = 1 ∧ t.f (R.FLG_WAIT_REC0 p) F.FLG_WAIT_REC0_KIND = 15) ∧
      (∀ u, s.tenOfDie (dieOf p) = some u → s.jobState u = jRunning → t.jobState u = jStopping) ∧
      t.spad = s.spad ∧ t.hbm = s.hbm := by
  have ran : exec (.fenceWatchdogExpire p) s = .next (s.doFenceExpire p f) := by
    show execFenceWatchdogExpire p s = _
    unfold execFenceWatchdogExpire
    rw [late]
  have spad := exec_same ran .spad (by simp [touches, Part.reported])
  have hbm := exec_same ran .hbm (by simp [touches, Part.reported])
  let u := s.setCmd p { f with limit := 0 }
  obtain ⟨ctx, limit, shape⟩ : ∃ ctx limit, s.doFenceExpire p f = u.waitTimeout p 15 1 0 ctx 0 limit := by
    unfold State.doFenceExpire
    exact ⟨_, _, rfl⟩
  rw [shape] at ran spad hbm
  have rd (a : Nat) : u.rd a = s.rd a := State.rd_congr (State.setCmd_regs ..) a
  obtain ⟨event, count, record⟩ := u.waitTimeout_tells p 15 1 0 ctx 0 limit
  refine ⟨_, ran, ?ids, event, count.trans (by rw [rd]), fun free => record (by rw [State.f_congr (rd _)]; exact free),
    fun k ten run => ?stops, spad, hbm⟩
  case ids =>
    rw [(u.waitTimeout_reports p 15 1 0 ctx 0 limit).ae, State.waitMarked_ae, State.ae_setCmd_self, List.map_map]
    refine List.map_congr_left fun c _ => ?_
    dsimp only [Function.comp]
    split
    · rename_i e; exact e.symm
    · rfl
  case stops =>
    exact u.waitTimeout_stops p 15 1 0 ctx 0 limit p.isLt ((State.tenOfDie_congr (fun j _ => rd _) _).trans ten)
      ((State.f_congr (rd _) _).trans run)

/-- Settles O25: a fence that holds no longer leaves the list, and a late one is told, recorded and stops the job. -/
theorem fencesReleaseAndExpire : Obligations.FencesReleaseAndExpire := by
  unfold Obligations.FencesReleaseAndExpire
  exact fun p x f s => ⟨fenceRelease_releases p x f s, fenceWatchdog_expires p f s⟩

/-! ### Working through the cores and clusters of a heat -/

/-- A list is worked through in states that meet a condition: what the step of each unit brings about, and every step leaves
alone, holds at the end. -/
theorem foldl_all {α : Type} {f : State → α → State} {I : State → Prop} {P : α → State → Prop} (l : List α)
    (keeps : ∀ s x, x ∈ l → I s → I (f s x)) (does : ∀ s x, x ∈ l → I s → P x (f s x))
    (stays : ∀ s x y, x ∈ l → y ∈ l → I s → P y s → P y (f s x)) {s : State} (h : I s) :
    I (l.foldl f s) ∧ ∀ x ∈ l, P x (l.foldl f s) := by
  induction l using List.reverseRecOn with
  | nil => exact ⟨h, fun x hx => by cases hx⟩
  | append_singleton l y ih =>
    have mem {x : α} (hx : x ∈ l) : x ∈ l ++ [y] := List.mem_append_left _ hx
    have last : y ∈ l ++ [y] := by simp
    obtain ⟨inv, all⟩ := ih (fun s x hx => keeps s x (mem hx)) (fun s x hx => does s x (mem hx))
      fun s x z hx hz => stays s x z (mem hx) (mem hz)
    rw [List.foldl_concat]
    refine ⟨keeps _ y last inv, fun x hx => ?_⟩
    rcases List.mem_append.1 hx with hx | hx
    · exact stays _ y x last (mem hx) inv (all x hx)
    · rw [List.mem_singleton.1 hx]; exact does _ y last inv

/-- A state from which nothing but registers, cores and dies differ. -/
theorem Kept.regsCoresDies {s t : State} (h : Kept 0x6010 s t) :
    t = { s with regs := t.regs, dies := t.dies, cores := t.cores } := by
  have same := h.same
  cases s; cases t
  rw [State.mk.injEq]
  exact ⟨same .pending rfl, same .out rfl, same .time rfl, same .free rfl, rfl, same .spad rfl, same .hbm rfl,
    same .liftedCores rfl, same .liftedPcs rfl, same .engines rfl, same .cvus rfl, same .aes rfl, same .coxes rfl,
    rfl, rfl, same .hbmCtls rfl, same .ctxs rfl, same .errs rfl, same .snaps rfl, same .mods rfl, same .pals rfl,
    same .mirrorDue rfl, same .node rfl, same .fab rfl, same .colls rfl, same .maint rfl, same .wins rfl,
    same .power rfl, same .wdDefault rfl, same .overCap rfl, same .netBytes rfl, same .waits rfl, same .defaults rfl,
    same .scribes rfl, same .ten rfl, same .bh rfl, same .pins rfl⟩

theorem bitsOf_bitsOf (v l w a b : Nat) (h : a + b ≤ w) : bitsOf (bitsOf v l w) a b = bitsOf v (l + a) b := by
  rw [show bitsOf v l w = v / 2 ^ l % 2 ^ w from rfl, bitsOf_mod_two_pow _ _ _ _ h, bitsOf, bitsOf,
    Nat.div_div_eq_div_mul, ← Nat.pow_add]

/-- A cluster's state is two bits of CLSTATE. -/
theorem State.cluster_eq (s : State) (d : Nat) {c : Nat} (hc : c < 4) : s.cluster d c = s.f (R.CLK_STAT d) (12 + 2 * c, 2) := by
  unfold State.cluster State.f
  exact bitsOf_bitsOf _ _ _ _ _ (by show 2 * c + 2 ≤ 8; omega)

theorem State.cluster_setCluster (s : State) (d : Nat) {c k : Nat} (hc : c < 4) (hk : k < 4) {v : Nat} (fits : v < 4) :
    (s.setCluster d c v).cluster d k = if k = c then v else s.cluster d k := by
  rw [State.cluster_eq _ _ hk, State.cluster_eq _ _ hk, State.setCluster]
  by_cases own : k = c
  · subst own
    rw [if_pos rfl, State.f_setF_of_lt _ _ _ _ (by simp only; omega) fits]
  · rw [if_neg own, State.f_setF_apart _ _ _ _ _ (by simp only; omega) (by simp only; omega)]

theorem State.cluster_congr {s t : State} {d : Nat} (h : t.rd (R.CLK_STAT d) = s.rd (R.CLK_STAT d)) (c : Nat) :
    t.cluster d c = s.cluster d c := by
  unfold State.cluster
  rw [State.f_congr h]

/-- The registers of a heat's start and end at its die are apart from those of its cores. -/
theorem dieReg_ne_coreReg {a : Nat} (ha : a < 0x200_0000) (p : Nat) :
    a ≠ R.COX_IRQ_STAT p ∧ a ≠ R.COX_REPLAY p := by
  simp only [R.COX_IRQ_STAT, R.COX_REPLAY, Blk.base, coreBase]; omega

theorem clkStat_not_mapReg (d : Nat) : ¬ mapReg (R.CLK_STAT d) :=
  not_mapReg (by simp only [R.CLK_STAT, Blk.base, dieBase]; omega) (by simp only [R.CLK_STAT, Blk.base, dieBase]; omega)

theorem coxReg_not_mapReg (p : Nat) : ¬ mapReg (R.COX_IRQ_STAT p) ∧ ¬ mapReg (R.COX_REPLAY p) :=
  ⟨not_mapReg (by simp only [R.COX_IRQ_STAT, Blk.base, coreBase]; omega)
      (by simp only [R.COX_IRQ_STAT, Blk.base, coreBase]; omega),
    not_mapReg (by simp only [R.COX_REPLAY, Blk.base, coreBase]; omega)
      (by simp only [R.COX_REPLAY, Blk.base, coreBase]; omega)⟩

/-! ### A heat starts (R153, R163, R171) -/

/-- The state of a cluster once a heat that uses these clusters has started. -/
def startState (clusters : List Nat) (c v : Nat) : Nat := if clusters.contains c then 0 else if v = 0 then 1 else v

/-- A cluster as a heat that uses these clusters starts. -/
def State.startCluster (s : State) (d : Nat) (clusters : List Nat) (c : Nat) : State :=
  if clusters.contains c then s.setCluster d c 0 else if s.cluster d c = 0 then s.setCluster d c 1 else s

/-- A core as a heat starts. -/
def State.startCore (s : State) (p : Nat) : State :=
  (s.setCore p { s.core p with window := none }).setF (R.COX_IRQ_STAT p) F.COX_IRQ_STAT_HEAT_START 1

section
variable (s : State) (d : Nat) (clusters : List Nat)

theorem State.startCluster_regsBut (c : Nat) : RegsBut s (s.startCluster d clusters c) [R.CLK_STAT d] := by
  unfold State.startCluster State.setCluster
  split
  · exact RegsBut.setF (.of_regs rfl) (by simp) _ _
  split
  · exact RegsBut.setF (.of_regs rfl) (by simp) _ _
  · exact .of_regs rfl

theorem State.startCluster_kept (c : Nat) : Kept 0x10 s (s.startCluster d clusters c) := by
  unfold State.startCluster
  split
  · exact State.setCluster_kept (.refl _ s) _ _ _ (Sub.refl _)
  split
  · exact State.setCluster_kept (.refl _ s) _ _ _ (Sub.refl _)
  · exact .refl _ s

theorem State.startCluster_cluster {c k : Nat} (hc : c < 4) (hk : k < 4) :
    (s.startCluster d clusters c).cluster d k = if k = c then startState clusters k (s.cluster d k) else s.cluster d k := by
  unfold State.startCluster startState
  by_cases own : k = c
  · subst own
    rw [if_pos rfl]
    split
    · rw [State.cluster_setCluster _ _ hc hk (by decide), if_pos rfl]
    split
    · rw [State.cluster_setCluster _ _ hc hk (by decide), if_pos rfl]
    · rfl
  · rw [if_neg own]
    split
    · rw [State.cluster_setCluster _ _ hc hk (by decide), if_neg own]
    split
    · rw [State.cluster_setCluster _ _ hc hk (by decide), if_neg own]
    · rfl

/-- Each cluster takes its state as the heat starts. -/
theorem State.startClusters_cluster (l : List Nat) (nodup : l.Nodup) (small : ∀ c ∈ l, c < 4) {k : Nat} (hk : k < 4) :
    (l.foldl (fun (s : State) c => s.startCluster d clusters c) s).cluster d k =
      if k ∈ l then startState clusters k (s.cluster d k) else s.cluster d k := by
  induction l generalizing s with
  | nil => rfl
  | cons c l ih =>
    obtain ⟨fresh, nodup⟩ := List.nodup_cons.1 nodup
    rw [List.foldl_cons, ih _ nodup fun b hb => small b (List.mem_cons_of_mem _ hb),
      s.startCluster_cluster d clusters (small c (by simp)) hk]
    by_cases own : k = c
    · subst own
      rw [if_neg fresh, if_pos rfl, if_pos (by simp)]
    · simp only [List.mem_cons, own, false_or, if_false]

end

section
variable (s : State) (p : Nat)

theorem State.startCore_regsBut : RegsBut s (s.startCore p) [R.COX_IRQ_STAT p] :=
  RegsBut.setF (.of_regs (State.setCore_regs ..)) (by simp) _ _

theorem State.f_startCore (q : Nat) : (s.startCore p).f (R.COX_IRQ_STAT q) F.COX_IRQ_STAT_HEAT_START =
    if q = p then 1 else s.f (R.COX_IRQ_STAT q) F.COX_IRQ_STAT_HEAT_START := by
  unfold State.startCore
  by_cases own : q = p
  · subst own
    rw [if_pos rfl, State.f_setF_of_lt _ _ _ _ (by decide) (by decide)]
  · rw [if_neg own, State.f_setF_ne _ _ _ _ _ _ fun e => own (irqStat_inj _ _ e), State.f_setCore]

theorem State.window_startCore (q : Nat) : ((s.startCore p).core q).window = if q = p then none else (s.core q).window := by
  unfold State.startCore
  by_cases own : q = p
  · subst own
    rw [if_pos rfl, State.core_setF, State.core_setCore_self]
  · rw [if_neg own, State.core_setF, State.core_setCore_ne _ _ _ _ own]

end

/-- The state once the clusters are those of a heat that starts. -/
def State.startClusters (s : State) (d : Nat) (clusters : List Nat) : State :=
  (List.range 4).foldl (fun (s : State) c => s.startCluster d clusters c) s

theorem State.startClusters_regsBut (s : State) (d : Nat) (clusters : List Nat) :
    RegsBut s (s.startClusters d clusters) [R.CLK_STAT d] :=
  List.foldlRecOn (motive := fun t => RegsBut s t [R.CLK_STAT d]) _ _ (.of_regs rfl) fun t h c _ a n =>
    (t.startCluster_regsBut d clusters c a n).trans (h a n)

theorem State.startClusters_kept (s : State) (d : Nat) (clusters : List Nat) : Kept 0x10 s (s.startClusters d clusters) :=
  Kept.foldl (.refl _ s) fun t c h => h.trans (t.startCluster_kept d clusters c)

/-- The state once the cores of a list see a heat start. -/
def State.startCores (s : State) (l : List Nat) : State := l.foldl (fun (s : State) p => s.startCore p) s

theorem State.rd_startCores (s : State) (l : List Nat) {a : Nat} (n : ∀ p, a ≠ R.COX_IRQ_STAT p) :
    (s.startCores l).rd a = s.rd a :=
  List.foldlRecOn (motive := fun (t : State) => t.rd a = s.rd a) _ _ rfl fun t h p _ =>
    (t.startCore_regsBut p a (by simpa using n p)).trans h

theorem State.startCores_dies (s : State) (l : List Nat) : (s.startCores l).dies = s.dies :=
  List.foldlRecOn (motive := fun (t : State) => t.dies = s.dies) _ _ rfl fun t h p _ => by
    unfold State.startCore
    rw [State.setF_dies, State.setCore_dies, h]

/-- Every core of the list sees the start. -/
theorem State.startCores_seen (s : State) (l : List Nat) : ∀ p ∈ l,
    (s.startCores l).f (R.COX_IRQ_STAT p) F.COX_IRQ_STAT_HEAT_START = 1 ∧ ((s.startCores l).core p).window = none :=
  (foldl_all (I := fun _ => True) (P := fun p (t : State) =>
      t.f (R.COX_IRQ_STAT p) F.COX_IRQ_STAT_HEAT_START = 1 ∧ (t.core p).window = none) l (fun _ _ _ _ => trivial)
    (fun t p _ _ => by rw [State.f_startCore, State.window_startCore, if_pos rfl, if_pos rfl]; exact ⟨rfl, rfl⟩)
    (fun t p q _ _ _ ⟨irq, window⟩ => by
      rw [State.f_startCore, State.window_startCore, irq, window, ite_self, ite_self]; exact ⟨rfl, rfl⟩) trivial).2

/-- A heat's start, as its parts. -/
theorem State.doHeatStart_eq (s : State) (d x : Nat) (r : RunHeat) : ∃ u k,
    u = (s.setDie d { s.die d with run := some { r with start := some x }, heatPj := 0 }).startClusters d r.clusters ∧
    s.doHeatStart d x r = ((((u.startCores (u.runCores d r)).bump (R.STR_CNT_STARTS d) 1).bump
      (R.STR_CNT_VAR d r.variant) 1).bump (R.STR_CNT_WAKE_WAIT_NS d) k).clock d x :=
  ⟨_, _, rfl, rfl⟩

/-- A heat starts in the cycle R171 gives. -/
theorem heatStart_starts (d : Die) (x : Nat) (r : RunHeat) (s : State) (run : (s.die d).run = some r) (first : r.start = none)
    (awake : r.waking = []) (cycle : x = r.startAt) (good : s.clockGood d = true)
    (patched : ∀ p ∈ s.runCores d r, (s.core p).patches = []) (few : r.variant < 4) :
    ∃ t, exec (.heatStart d x) s = .next t ∧ (t.die d).run = some { r with start := some x } ∧
      (∀ c : Fin 4, t.cluster d c = if r.clusters.contains c.val then 0 else if s.cluster d c = 0 then 1 else s.cluster d c) ∧
      (∀ p : Pos, p.val ∈ s.runCores d r →
        t.f (R.COX_IRQ_STAT p) F.COX_IRQ_STAT_HEAT_START = 1 ∧ (t.core p).window = none) ∧
      t.rd (R.STR_CNT_STARTS d) = s.rd (R.STR_CNT_STARTS d) + 1 ∧
      t.rd (R.STR_CNT_VAR d r.variant) = s.rd (R.STR_CNT_VAR d r.variant) + 1 ∧
      t = { s with regs := t.regs, dies := t.dies, cores := t.cores } := by
  have ran : exec (.heatStart d x) s = .next (s.doHeatStart d x r) := by
    show execHeatStart d x s = _
    unfold execHeatStart
    rw [run]
    exact State.when_true _ _ (by simpa [first, awake, cycle, good] using patched)
  have frame := (State.doHeatStart_kept (.refl 0x6010 s) d x r (Sub.refl _)).regsCoresDies
  obtain ⟨u, k, hu, shape⟩ := s.doHeatStart_eq d x r
  have same {a : Nat} (n : a ≠ R.CLK_STAT d) : u.rd a = s.rd a := by
    rw [hu, State.startClusters_regsBut _ _ _ a (by simpa using n), State.rd_setDie]
  have dies : u.dies = (s.setDie d { s.die d with run := some { r with start := some x }, heatPj := 0 }).dies := by
    rw [hu]; exact (State.startClusters_kept _ _ _).same .dies (by decide)
  have map : MapKept s u :=
    ⟨by rw [hu, (State.startClusters_kept _ _ _).same .mods (by decide), State.setDie_mods],
      fun a m => same (by rintro rfl; exact clkStat_not_mapReg d m)⟩
  rw [map.runCores d.isLt] at shape
  obtain ⟨starts, var, wait⟩ : R.STR_CNT_STARTS d < R.STR_CNT_VAR d r.variant ∧
      R.STR_CNT_VAR d r.variant < R.STR_CNT_WAKE_WAIT_NS d ∧ R.STR_CNT_WAKE_WAIT_NS d < R.CLK_STAT d := by
    simp only [R.STR_CNT_STARTS, R.STR_CNT_VAR, R.STR_CNT_WAKE_WAIT_NS, R.CLK_STAT, Blk.base]; omega
  have low : R.CLK_STAT d < 0x200_0000 := by simp only [R.CLK_STAT, Blk.base, dieBase]; omega
  have apart {a : Nat} (h : a < 0x200_0000) (p : Nat) : a ≠ R.COX_IRQ_STAT p := (dieReg_ne_coreReg h p).1
  have seen := u.startCores_seen (s.runCores d r)
  refine ⟨_, ran, ?run, fun c => ?cluster, fun p hp => ?core, ?starts, ?variant, frame⟩
  case run =>
    rw [shape, State.die_clock, State.die_bump, State.die_bump, State.die_bump]
    unfold State.die
    rw [State.startCores_dies, dies]
    show (((s.setDie d { s.die d with run := some { r with start := some x }, heatPj := 0 }).die d).run) = _
    rw [State.die_setDie_self]
  case cluster =>
    have kept : (s.doHeatStart d x r).rd (R.CLK_STAT d) = u.rd (R.CLK_STAT d) := by
      rw [shape, State.rd_clock, State.rd_bump_ne _ _ _ _ (by omega), State.rd_bump_ne _ _ _ _ (by omega),
        State.rd_bump_ne _ _ _ _ (by omega), u.rd_startCores _ (apart low)]
    rw [State.cluster_congr kept, hu]
    refine (State.startClusters_cluster _ d r.clusters (List.range 4) List.nodup_range (fun c => List.mem_range.1)
      c.isLt).trans ?_
    rw [if_pos (List.mem_range.2 c.isLt)]
    rfl
  case core =>
    obtain ⟨irq, window⟩ := seen p hp
    have other {a : Nat} (h : a < 0x200_0000) : R.COX_IRQ_STAT p ≠ a := (apart h p).symm
    rw [shape, State.f_clock, State.core_clock, State.core_bump, State.core_bump, State.core_bump,
      State.f_bump_ne _ _ _ _ _ (other (by omega)), State.f_bump_ne _ _ _ _ _ (other (by omega)),
      State.f_bump_ne _ _ _ _ _ (other (by omega))]
    exact ⟨irq, window⟩
  case starts =>
    rw [shape, State.rd_clock, State.rd_bump_ne _ _ _ _ (by omega), State.rd_bump_ne _ _ _ _ (by omega), State.rd_bump_self,
      u.rd_startCores _ (apart (by omega)), same (by omega)]
    rfl
  case variant =>
    rw [shape, State.rd_clock, State.rd_bump_ne _ _ _ _ (by omega), State.rd_bump_self, State.rd_bump_ne _ _ _ _ (by omega),
      u.rd_startCores _ (apart (by omega)), same (by omega)]
    rfl

/-! ### A heat ends (R153, R172) -/

/-- A core as a heat ends. -/
def State.endCore (s : State) (tag : HeatTag) (x : Nat) (w : Word) (p : Nat) : State :=
  ((s.expireWritten p tag x).setF (R.COX_IRQ_STAT p) F.COX_IRQ_STAT_HEAT_END 1).wr (R.COX_REPLAY p) w

/-- A cluster of a heat as it ends. -/
def State.endCluster (s : State) (d c : Nat) : State :=
  (s.setCluster d c 1).setDie d { (s.setCluster d c 1).die d with
    idleClusters := ((s.setCluster d c 1).die d).idleClusters.set (fun _ => 0) c (s.setCluster d c 1).time }

/-- The state once the cores of a list have seen a heat end. -/
def State.endCores (s : State) (tag : HeatTag) (x : Nat) (w : Word) (l : List Nat) : State :=
  l.foldl (fun (s : State) p => s.endCore tag x w p) s

/-- The state once the clusters of a heat that has ended are idle. -/
def State.endClusters (s : State) (d : Nat) (l : List Nat) : State := l.foldl (fun (s : State) c => s.endCluster d c) s

section
variable (s : State) (tag : HeatTag) (x : Nat) (w : Word) (d : Nat) (l : List Nat)

theorem State.endCore_kept (p : Nat) : Kept 0x6010 s (s.endCore tag x w p) :=
  State.wr_kept (State.setF_kept (State.expireWritten_kept (.refl _ s) _ _ _ ⟨by decide⟩) _ _ _ ⟨by decide⟩) _ _ ⟨by decide⟩

theorem State.endCores_kept : Kept 0x6010 s (s.endCores tag x w l) :=
  Kept.foldl (.refl _ s) fun t p h => h.trans (t.endCore_kept tag x w p)

theorem State.endCluster_kept (c : Nat) : Kept 0x6010 s (s.endCluster d c) :=
  State.setDie_kept (State.setCluster_kept (.refl _ s) _ _ _ ⟨by decide⟩) _ _ ⟨by decide⟩

theorem State.endClusters_kept : Kept 0x6010 s (s.endClusters d l) :=
  Kept.foldl (.refl _ s) fun t c h => h.trans (t.endCluster_kept d c)

theorem State.expireWritten_regs (p : Nat) : (s.expireWritten p tag x).regs = s.regs :=
  (State.expireWritten_kept (.refl 0x2000 s) p tag x (Sub.refl _)).same .regs (by decide)

theorem State.f_endCore (p q : Nat) : (s.endCore tag x w p).f (R.COX_IRQ_STAT q) F.COX_IRQ_STAT_HEAT_END =
    if q = p then 1 else s.f (R.COX_IRQ_STAT q) F.COX_IRQ_STAT_HEAT_END := by
  have replay : R.COX_IRQ_STAT q ≠ R.COX_REPLAY p := by simp only [R.COX_IRQ_STAT, R.COX_REPLAY, Blk.base, coreBase]; omega
  unfold State.endCore
  rw [State.f_congr (State.rd_wr_ne _ _ _ _ replay)]
  by_cases own : q = p
  · subst own
    rw [if_pos rfl, State.f_setF_of_lt _ _ _ _ (by decide) (by decide)]
  · rw [if_neg own, State.f_setF_ne _ _ _ _ _ _ fun e => own (irqStat_inj _ _ e),
      State.f_congr (State.rd_congr (State.expireWritten_regs ..) _)]

theorem State.endCore_mapKept (p : Nat) : MapKept s (s.endCore tag x w p) :=
  (((MapKept.refl s).same ((State.expireWritten_kept (.refl 0x2000 s) p tag x (Sub.refl _)).same .mods (by decide))
    (State.expireWritten_regs ..)).setF _ _ (coxReg_not_mapReg p).1).wr _ (coxReg_not_mapReg p).2

theorem State.endCores_mapKept : MapKept s (s.endCores tag x w l) :=
  MapKept.foldl l (.refl s) fun t p _ => t.endCore_mapKept tag x w p

/-- Every core of the list sees the end. -/
theorem State.endCores_seen : ∀ p ∈ l, (s.endCores tag x w l).f (R.COX_IRQ_STAT p) F.COX_IRQ_STAT_HEAT_END = 1 :=
  (foldl_all (I := fun _ => True) (P := fun p (t : State) => t.f (R.COX_IRQ_STAT p) F.COX_IRQ_STAT_HEAT_END = 1) l
    (fun _ _ _ _ => trivial) (fun t p _ _ => by rw [State.f_endCore, if_pos rfl])
    (fun t p q _ _ _ irq => by rw [State.f_endCore, irq, ite_self]) trivial).2

theorem State.endCluster_regs (c : Nat) : (s.endCluster d c).regs = (s.setCluster d c 1).regs := State.setDie_regs ..

theorem State.rd_endClusters {a : Nat} (n : a ≠ R.CLK_STAT d) : (s.endClusters d l).rd a = s.rd a :=
  List.foldlRecOn (motive := fun (t : State) => t.rd a = s.rd a) _ _ rfl fun t h c _ => by
    rw [State.rd_congr (t.endCluster_regs d c), State.setCluster, State.rd_setF_ne _ _ _ _ _ n, h]

theorem State.die_endClusters : ∃ m, (s.endClusters d l).die d = { s.die d with idleClusters := m } :=
  List.foldlRecOn (motive := fun (t : State) => ∃ m, t.die d = { s.die d with idleClusters := m }) _ _ ⟨_, rfl⟩
    fun t ⟨m, h⟩ c _ => by
      unfold State.endCluster
      rw [State.die_setDie_self, State.setCluster, State.die_setF, h]
      exact ⟨_, rfl⟩

theorem State.endClusters_mapKept : MapKept s (s.endClusters d l) :=
  ⟨(s.endClusters_kept d l).same .mods (by decide), fun a m =>
    s.rd_endClusters d l (by rintro rfl; exact clkStat_not_mapReg d m)⟩

end

/-- A die whose job has not been told to end has nothing to settle. -/
theorem State.settleDie_open {s : State} {d : Nat}
    (h : ∀ k, s.tenOfDie d = some k → ∀ j, s.job k 0 = some j → j.endCode = none) :
    s.settleDie d = s := by
  unfold State.settleDie
  split
  · rename_i k ten
    unfold State.settleEnd
    split
    · rfl
    · rename_i j job
      exact if_neg fun ⟨_, told, _⟩ => by rw [h k ten j job] at told; cases told
  · rfl

/-- What STR_LAST tells of a heat that has ended. -/
def lastWord (r : RunHeat) (stopped : Bool) : Word :=
  fields [(r.heat, 0), (r.variant, 16), (1, 18), (b2n stopped, 19), (r.replays % 2 ^ 32, 32)]

theorem lastWord_fields (r : RunHeat) (stopped : Bool) (heat : r.heat < 65536) (variant : r.variant < 4) :
    bitsOf (lastWord r stopped).toNat 0 16 = r.heat ∧ bitsOf (lastWord r stopped).toNat 16 2 = r.variant ∧
      bitsOf (lastWord r stopped).toNat 32 32 = r.replays % 2 ^ 32 := by
  have bit : b2n stopped < 2 := by cases stopped <;> decide
  rw [lastWord, fields_cons, fields_cons, fields_cons, fields_cons, fields_cons, fields_nil]
  simp only [bitsOf]
  omega

/-- A heat's end, as its parts, up to what is then settled. -/
theorem State.doHeatEnd_eq (s : State) (r : RunHeat) (d x : Nat) : ∃ tag w u v e,
    u = s.endCores tag x w (s.runCores d r) ∧
    v = (((u.setDie d { u.die d with run := none, lastOpp := some r.opp, forced := none, ended := some tag, idleFrom := u.time
      }).endClusters d r.clusters).wr (R.STR_LAST d) (lastWord r (s.die d).rulingStop)).wr (R.STR_LAST_ENERGY d) e ∧
    s.doHeatEnd d x r =
      ((if r.slowSent = true then (v.clearSlow r.pinCtx).sendCtrl r.pinCtx 2 0 0 else v).clock d x).settleDie d :=
  ⟨_, _, _, _, _, rfl, rfl, rfl⟩

/-- A heat ends with its last replay's patch window. -/
theorem heatEnd_ends (d : Die) (x : Nat) (r : RunHeat) (s : State) (run : (s.die d).run = some r)
    (last : r.lastCycle = some x) (windows : ∀ p ∈ s.runCores d r, (s.core p).window = some (x - 7)) (quiet : r.slowSent = false)
    (goes : ∀ k, s.tenOfDie d = some k → ∀ j, s.job k 0 = some j → j.endCode = none) (heat : r.heat < 65536)
    (variant : r.variant < 4) :
    ∃ t, exec (.heatEnd d x) s = .next t ∧ (t.die d).run = none ∧ (t.die d).lastOpp = some r.opp ∧
      (∀ p : Pos, p.val ∈ s.runCores d r → t.f (R.COX_IRQ_STAT p) F.COX_IRQ_STAT_HEAT_END = 1) ∧
      t.f (R.STR_LAST d) F.STR_LAST_HEAT_NO = r.heat ∧ t.f (R.STR_LAST d) F.STR_LAST_VARIANT = r.variant ∧
      t.f (R.STR_LAST d) F.STR_LAST_REPLAYS = r.replays % 2 ^ 32 ∧ t.spad = s.spad ∧ t.hbm = s.hbm ∧
      t = { s with regs := t.regs, dies := t.dies, cores := t.cores } := by
  obtain ⟨tag, w, u, v, e, hu, hv, shape⟩ := s.doHeatEnd_eq r d x
  rw [quiet, if_neg (by decide)] at shape
  obtain ⟨next, top, lo, hi, l20, l28⟩ : R.STR_LAST d < R.STR_LAST_ENERGY d ∧ R.STR_LAST_ENERGY d < R.CLK_STAT d ∧
      0x100_0000 ≤ R.STR_LAST d ∧ R.STR_LAST_ENERGY d < 0x200_0000 ∧ R.STR_LAST d % 0x4000 = 0x20 ∧
        R.STR_LAST_ENERGY d % 0x4000 = 0x28 := by
    simp only [R.STR_LAST, R.STR_LAST_ENERGY, R.CLK_STAT, Blk.base, dieBase]; omega
  have kept : Kept 0x6010 s (v.clock d x) := by
    rw [hv, hu]
    exact State.clock_kept (State.wr_kept (State.wr_kept ((State.setDie_kept (State.endCores_kept ..) _ _ ⟨by decide⟩).trans
      (State.endClusters_kept ..)) _ _ ⟨by decide⟩) _ _ ⟨by decide⟩) _ _ ⟨by decide⟩
  have map : MapKept s (v.clock d x) := by
    rw [hv, hu]
    exact (((((s.endCores_mapKept tag x w (s.runCores d r)).setDie ..).trans (State.endClusters_mapKept _ d r.clusters)).wr _
      (not_mapReg lo (by omega))).wr _ (not_mapReg (by omega) (by omega))).clock ..
  have settled : (v.clock d x).settleDie d = v.clock d x := State.settleDie_open fun k ten j job => by
    rw [map.tenOfDie] at ten
    refine goes k ten j ?_
    rw [← job]
    unfold State.job
    rw [kept.same .ten (by decide)]
  have ran : exec (.heatEnd d x) s = .next (v.clock d x) := by
    show execHeatEnd d x s = _
    unfold execHeatEnd
    rw [run]
    refine (State.when_true _ _ (by simpa [last] using windows)).trans ?_
    rw [shape, settled]
  have die : ((v.clock d x).die d).run = none ∧ ((v.clock d x).die d).lastOpp = some r.opp := by
    obtain ⟨m, idle⟩ := State.die_endClusters (u.setDie d { u.die d with
      run := none, lastOpp := some r.opp, forced := none, ended := some tag, idleFrom := u.time }) d r.clusters
    rw [State.die_clock, hv, State.die_wr, State.die_wr, idle, State.die_setDie_self]
    exact ⟨rfl, rfl⟩
  have told : (v.clock d x).rd (R.STR_LAST d) = lastWord r (s.die d).rulingStop := by
    rw [State.rd_clock, hv, State.rd_wr_ne _ _ _ _ (by omega), State.rd_wr_self]
  obtain ⟨no, var, count⟩ := lastWord_fields r (s.die d).rulingStop heat variant
  refine ⟨_, ran, die.1, die.2, fun p hp => ?seen, ?_, ?_, ?_, kept.spad, kept.hbm, kept.regsCoresDies⟩
  case seen =>
    have apart {a : Nat} (h : a < 0x200_0000) : R.COX_IRQ_STAT p ≠ a := (dieReg_ne_coreReg h p).1.symm
    have clk : R.CLK_STAT d < 0x200_0000 := by simp only [R.CLK_STAT, Blk.base, dieBase]; omega
    have irq : (v.clock d x).rd (R.COX_IRQ_STAT p) = u.rd (R.COX_IRQ_STAT p) := by
      rw [State.rd_clock, hv, State.rd_wr_ne _ _ _ _ (apart hi), State.rd_wr_ne _ _ _ _ (apart (by omega)),
        State.rd_endClusters _ _ _ (apart clk), State.rd_setDie]
    rw [State.f_congr irq, hu]
    exact s.endCores_seen tag x w _ p hp
  · unfold State.f; rw [told]; exact no
  · unfold State.f; rw [told]; exact var
  · unfold State.f; rw [told]; exact count

/-! ### The choice (R170) -/

section
variable {s : State} {d x : Nat}

/-- Where no ready heat names a poisoned flag, none is released. -/
theorem State.releasePoisoned_clean (h : ∀ e ∈ (s.die d).ready, s.poisonedGate d e = none) : s.releasePoisoned d = s :=
  List.foldlRecOn (motive := fun t => t = s) _ _ rfl fun t same e he => by
    rw [same, h e he]

/-- Where no post waits, none is admitted. -/
theorem State.admitPosts_none (h : (s.die d).postWait = []) : s.admitPosts d x = s := by
  unfold State.admitPosts
  rw [h]
  rfl

/-- The die once its ready entries carry the marks of being eligible in cycle x. -/
def State.judged (s : State) (d x : Nat) : State :=
  s.setDie d { s.die d with ready := (s.die d).ready.map fun e => { e with eligible := s.eligible d x e } }

/-- A choice with its entry as the ready set holds it. -/
def Choice.marked (c : Choice) (b : Bool) : Choice := { c with entry := { c.entry with eligible := b } }

section
variable (clean : ∀ e ∈ (s.die d).ready, s.poisonedGate d e = none) (free : (s.die d).postWait = [])
include clean free

theorem State.doHeatChoice_none (none : s.choose d x = none) : s.doHeatChoice d x = (s.judged d x).clock d x := by
  unfold State.doHeatChoice
  rw [State.releasePoisoned_clean clean, State.admitPosts_none free]
  dsimp only
  rw [none]
  rfl

theorem State.doHeatChoice_some {c : Choice} (some : s.choose d x = some c) :
    s.doHeatChoice d x = ((s.judged d x).doChosen d x (c.marked ((s.judged d x).eligible d x c.entry))).clock d x := by
  unfold State.doHeatChoice
  rw [State.releasePoisoned_clean clean, State.admitPosts_none free]
  dsimp only
  rw [some]
  rfl

end

/-- What is chosen is a ready entry, with the heat its number stands for. -/
theorem State.choose_mem {c : Choice} (h : s.choose d x = some c) :
    c.entry ∈ (s.die d).ready ∧ s.heatDef d c.entry.heat = some c.heat := by
  unfold State.choose at h
  extract_lets es top es' fit at h
  have ready {e : ReadyEntry} (he : e ∈ es') : e ∈ (s.die d).ready := List.mem_of_mem_filter (List.mem_of_mem_filter he)
  cases found : fit with
  | some c' =>
    rw [found] at h
    obtain rfl := Option.some.inj h
    obtain ⟨e, he, hc⟩ := List.exists_of_findSome?_eq_some found
    split at hc
    · rename_i k hd
      obtain ⟨v, _, rfl⟩ := Option.map_eq_some_iff.1 hc
      exact ⟨ready he, hd⟩
    · cases hc
  | none =>
    rw [found] at h
    dsimp only at h
    split at h
    · cases left : es' with
      | cons e rest =>
        rw [left] at h
        dsimp only at h
        split at h
        · rename_i k hd
          obtain ⟨v, _, rfl⟩ := Option.map_eq_some_iff.1 h
          exact ⟨ready (by rw [left]; simp), hd⟩
        · cases h
      | nil => rw [left] at h; cases h
    · cases h

theorem State.eligible_setDie (s : State) (j : Nat) (v : DieState) (d x : Nat) (e : ReadyEntry) :
    (s.setDie j v).eligible d x e = s.eligible d x e := rfl

end

/-! ### A choice takes its flags (R167, R191) -/

/-- The registers a choice takes its flags in. -/
def takenReg (a : Nat) : Prop := ∃ p n, p < 256 ∧ n < 16 ∧
  (a = R.FLG_STATE p n ∨ a = R.FLG_CNT_CLEAR p ∨ a = R.FLG_CNT_CONSUME p ∨ a = R.FLG_CNT_OBSERVE p)

theorem takenReg_not_mapReg {a : Nat} (h : takenReg a) : ¬ mapReg a := by
  obtain ⟨p, n, hp, hn, rfl | rfl | rfl | rfl⟩ := h
  all_goals
    refine not_mapReg ?_ ?_ <;>
      simp only [R.FLG_STATE, R.FLG_CNT_CLEAR, R.FLG_CNT_CONSUME, R.FLG_CNT_OBSERVE, Blk.base, coreBase] <;> omega

theorem poison_not_takenReg {q m : Nat} (hm : m < 16) : ¬ takenReg (R.FLG_POISON q m) := by
  rintro ⟨p, n, hp, hn, h | h | h | h⟩
  all_goals
    simp only [R.FLG_POISON, R.FLG_STATE, R.FLG_CNT_CLEAR, R.FLG_CNT_CONSUME, R.FLG_CNT_OBSERVE, Blk.base, coreBase] at h
    omega

/-- From s to t nothing has changed but cores and the registers that flags are taken in. -/
structure FlagsTaken (s t : State) : Prop where
  mods : t.mods = s.mods
  dies : t.dies = s.dies
  rd : ∀ a, ¬ takenReg a → t.rd a = s.rd a

namespace FlagsTaken
variable {s t u : State}

theorem refl (s : State) : FlagsTaken s s := ⟨rfl, rfl, fun _ _ => rfl⟩

theorem trans (h : FlagsTaken s t) (k : FlagsTaken t u) : FlagsTaken s u :=
  ⟨k.mods.trans h.mods, k.dies.trans h.dies, fun a n => (k.rd a n).trans (h.rd a n)⟩

theorem bump (h : FlagsTaken s t) {a : Nat} (k : Nat) (m : takenReg a) : FlagsTaken s (t.bump a k) :=
  h.trans ⟨State.bump_mods .., State.bump_dies .., fun b n => State.rd_bump_ne _ _ _ _ (by rintro rfl; exact n m)⟩

theorem setF (h : FlagsTaken s t) {a : Nat} (g : Nat × Nat) (v : Nat) (m : takenReg a) : FlagsTaken s (t.setF a g v) :=
  h.trans ⟨State.setF_mods .., State.setF_dies .., fun b n => State.rd_setF_ne _ _ _ _ _ (by rintro rfl; exact n m)⟩

theorem setCore (h : FlagsTaken s t) (p : Nat) (v : CoreMisc) : FlagsTaken s (t.setCore p v) :=
  h.trans ⟨State.setCore_mods .., State.setCore_dies .., fun _ _ => State.rd_setCore ..⟩

theorem map (h : FlagsTaken s t) : MapKept s t := ⟨h.mods, fun a m => h.rd a fun k => takenReg_not_mapReg k m⟩

theorem poisoned (h : FlagsTaken s t) {p n : Nat} (hn : n < 1024) : t.poisoned p n = s.poisoned p n := by
  unfold State.poisoned State.bit
  rw [h.rd _ (poison_not_takenReg (by omega))]

end FlagsTaken

/-- What a gate of a chosen heat takes. -/
def State.takeGate (s : State) (d x : Nat) (g : Gate) : State :=
  let p := s.gateCore d g
  match g.kind with
  | 1 =>
    let s := (s.landClear p g.sel x 0 false).bump (R.FLG_CNT_CONSUME p) 1
    let c := s.core p
    s.setCore p { c with waiter := c.waiter.set (fun _ => 0) g.sel (p % 32) }
  | 2 => s.bump (R.FLG_CNT_OBSERVE p) 1
  | _ => s

theorem State.takeFlags_eq (s : State) (d x : Nat) (h : HeatDef) :
    s.takeFlags d x h = h.gates.foldl (fun (s : State) g => s.takeGate d x g) s := rfl

/-- A core that a gate of a die names is one of the die's. -/
theorem State.gateCore_lt {s : State} {d : Nat} (hd : d < 8) (g : Gate) : s.gateCore d g < 256 := by
  have wide {p : Nat} (hp : p ∈ s.wideCores d) : p < 256 := by
    have own {q : Nat} (hq : q ∈ ((List.range 32).map (32 * d + ·)).filter fun p => !s.coreFenced p) : q < 256 := by
      obtain ⟨c, hc, rfl⟩ := List.mem_map.1 (List.mem_of_mem_filter hq)
      have := List.mem_range.1 hc
      omega
    unfold State.wideCores at hp
    split at hp
    · exact own (List.mem_of_mem_filter hp)
    · exact own hp
  unfold State.gateCore
  rw [List.getD_eq_getElem?_getD]
  cases e : (s.wideCores d)[g.vcore]? with
  | none => exact (by omega : 32 * d < 256)
  | some p => exact wide (List.mem_of_getElem? e)

section
variable {s : State} {p n : Nat} (x : Nat)

/-- A flag that nothing set in the cycle is cleared; otherwise it stays (R193). -/
theorem State.landClear_free (free : s.poisoned p n = false) : ∃ u : State,
    s.landClear p n x 0 false = u.noteLand p x n false false ∧
    (u = s.bump (R.FLG_CNT_CLEAR p) 1 ∨ u = (s.bump (R.FLG_CNT_CLEAR p) 1).setFlagBit p n false) ∧
    ((∀ l ∈ s.landsAt p x, l.2.1 = false) → u = (s.bump (R.FLG_CNT_CLEAR p) 1).setFlagBit p n false) := by
  have lands : (s.bump (R.FLG_CNT_CLEAR p) 1).landsAt p x = s.landsAt p x := by unfold State.landsAt; rw [State.core_bump]
  unfold State.landClear
  rw [if_neg (by rw [free]; decide)]
  simp only [Bool.false_eq_true, if_false]
  rw [lands]
  refine ⟨_, rfl, ?_, fun unset => if_neg ?_⟩
  · split
    · exact .inl rfl
    · exact .inr rfl
  · rw [List.any_eq_true]
    rintro ⟨l, hl, both⟩
    rw [unset l hl, Bool.and_false] at both
    cases both

theorem State.noteLand_taken (u : State) (set expl : Bool) : FlagsTaken u (u.noteLand p x n set expl) :=
  (FlagsTaken.refl u).setCore ..

/-- A consuming gate's clear changes only its flag and its count. -/
theorem State.landClear_taken (hp : p < 256) (hn : n < 1024) (free : s.poisoned p n = false) :
    FlagsTaken s (s.landClear p n x 0 false) := by
  have state : takenReg (R.FLG_STATE p (n / 64)) := ⟨p, n / 64, hp, by omega, .inl rfl⟩
  have count : FlagsTaken s (s.bump (R.FLG_CNT_CLEAR p) 1) :=
    (FlagsTaken.refl s).bump 1 ⟨p, 0, hp, by omega, .inr (.inl rfl)⟩
  obtain ⟨u, shape, stays | clears, _⟩ := State.landClear_free x free
  · rw [shape, stays]; exact count.trans (State.noteLand_taken ..)
  · rw [shape, clears]; exact (count.setF _ _ state).trans (State.noteLand_taken ..)

end

/-- A chosen heat's gate changes only what flags are taken in. -/
theorem State.takeGate_taken {s : State} {d : Nat} (hd : d < 8) (x : Nat) {g : Gate} (small : g.sel < 1024)
    (free : g.kind = 1 → s.poisoned (s.gateCore d g) g.sel = false) : FlagsTaken s (s.takeGate d x g) := by
  have hp : s.gateCore d g < 256 := State.gateCore_lt hd g
  unfold State.takeGate
  dsimp only
  split
  · rename_i kind
    exact ((State.landClear_taken x hp small (free kind)).bump 1 ⟨_, 0, hp, by omega, .inr (.inr (.inl rfl))⟩).setCore ..
  · exact (FlagsTaken.refl s).bump 1 ⟨_, 0, hp, by omega, .inr (.inr (.inr rfl))⟩
  · exact .refl s

/-! ### What a choice leaves of its flags (R191, R193) -/

/-- Nothing was set in cycle x. -/
def NoSets (s : State) (x : Nat) : Prop := ∀ p, ∀ l ∈ s.landsAt p x, l.2.1 = false

theorem State.flag_congr {s t : State} {p n : Nat} (h : t.rd (R.FLG_STATE p (n / 64)) = s.rd (R.FLG_STATE p (n / 64))) :
    t.flag p n = s.flag p n := by
  unfold State.flag State.bit
  rw [h]

/-- A bit is a field of one bit. -/
theorem State.bit_eq_f (s : State) (a i : Nat) : s.bit a i = (s.f a (i, 1) == 1) := by
  unfold State.bit State.f bitOf bitsOf
  rw [Nat.pow_one]

theorem State.flag_setFlagBit_clear (s : State) (p n : Nat) : (s.setFlagBit p n false).flag p n = false := by
  unfold State.flag State.setFlagBit State.setBit
  rw [State.bit_eq_f, if_neg (by decide), State.f_setF_of_lt _ _ _ _ (by simp only; omega) (Nat.two_pow_pos _)]
  rfl

/-- Clearing a flag leaves a clear one clear. -/
theorem State.flag_setFlagBit_stays {s : State} {p n q m : Nat} (h : s.flag q m = false) :
    (s.setFlagBit p n false).flag q m = false := by
  by_cases reg : R.FLG_STATE q (m / 64) = R.FLG_STATE p (n / 64)
  · by_cases bit : m % 64 = n % 64
    · have same := s.flag_setFlagBit_clear p n
      unfold State.flag at same ⊢
      rwa [reg, bit]
    · unfold State.flag State.setFlagBit State.setBit at *
      rw [State.bit_eq_f, reg] at h ⊢
      rwa [State.f_setF_apart _ _ _ _ _ (by simp only; omega) (by simp only; omega)]
  · have keep : (s.setFlagBit p n false).rd (R.FLG_STATE q (m / 64)) = s.rd (R.FLG_STATE q (m / 64)) :=
      State.rd_setBit_ne _ _ _ _ _ reg
    rw [State.flag_congr keep]; exact h

theorem State.landsAt_congr {s t : State} {p : Nat} (at_ : (t.core p).flagAt = (s.core p).flagAt)
    (lands : (t.core p).flagLands = (s.core p).flagLands) (x : Nat) : t.landsAt p x = s.landsAt p x := by
  unfold State.landsAt
  rw [at_, lands]

theorem State.landsAt_noteLand (s : State) (p x n : Nat) (set expl : Bool) (q : Nat) :
    (s.noteLand p x n set expl).landsAt q x = if q = p then s.landsAt p x ++ [(n, set, expl)] else s.landsAt q x := by
  unfold State.noteLand
  by_cases own : q = p
  · subst own
    rw [if_pos rfl]
    generalize s.landsAt q x = l
    unfold State.landsAt
    rw [State.core_setCore_self, if_pos rfl]
  · rw [if_neg own]
    refine State.landsAt_congr ?_ ?_ x <;> rw [State.core_setCore_ne _ _ _ _ own]

section
variable {s : State} {d x : Nat} {g : Gate}

theorem State.takeGate_consumes (kind : g.kind = 1) : ∃ c : CoreMisc,
    s.takeGate d x g = ((s.landClear (s.gateCore d g) g.sel x 0 false).bump (R.FLG_CNT_CONSUME (s.gateCore d g)) 1).setCore
      (s.gateCore d g) c ∧
    c.flagAt = ((s.landClear (s.gateCore d g) g.sel x 0 false).core (s.gateCore d g)).flagAt ∧
    c.flagLands = ((s.landClear (s.gateCore d g) g.sel x 0 false).core (s.gateCore d g)).flagLands := by
  unfold State.takeGate
  rw [kind]
  refine ⟨_, rfl, ?_, ?_⟩ <;> rw [State.core_bump]

/-- A gate that consumes no flag changes neither flags nor what has landed. -/
theorem State.takeGate_other (kind : g.kind ≠ 1) (q m : Nat) (hm : m < 1024) :
    (s.takeGate d x g).flag q m = s.flag q m ∧ (s.takeGate d x g).landsAt q x = s.landsAt q x := by
  have apart : R.FLG_STATE q (m / 64) ≠ R.FLG_CNT_OBSERVE (s.gateCore d g) := by
    simp only [R.FLG_STATE, R.FLG_CNT_OBSERVE, Blk.base, coreBase]; omega
  unfold State.takeGate
  dsimp only
  split
  · rename_i one; exact absurd one kind
  · exact ⟨State.flag_congr (State.rd_bump_ne _ _ _ _ apart), State.landsAt_congr (by rw [State.core_bump])
      (by rw [State.core_bump]) x⟩
  · exact ⟨rfl, rfl⟩

/-- The flags and landings after a consuming gate are those after its clear. -/
theorem State.takeGate_clear (kind : g.kind = 1) (q m : Nat) (hm : m < 1024) :
    (s.takeGate d x g).flag q m = (s.landClear (s.gateCore d g) g.sel x 0 false).flag q m ∧
    (s.takeGate d x g).landsAt q x = (s.landClear (s.gateCore d g) g.sel x 0 false).landsAt q x := by
  have apart : R.FLG_STATE q (m / 64) ≠ R.FLG_CNT_CONSUME (s.gateCore d g) := by
    simp only [R.FLG_STATE, R.FLG_CNT_CONSUME, Blk.base, coreBase]; omega
  obtain ⟨c, shape, at_, lands⟩ := State.takeGate_consumes (s := s) (d := d) (x := x) kind
  rw [shape]
  refine ⟨State.flag_congr ?_, ?_⟩
  · rw [State.rd_setCore, State.rd_bump_ne _ _ _ _ apart]
  · by_cases own : q = s.gateCore d g
    · subst own
      refine State.landsAt_congr ?_ ?_ x <;> rw [State.core_setCore_self]
      · exact at_
      · exact lands
    · refine State.landsAt_congr ?_ ?_ x <;> rw [State.core_setCore_ne _ _ _ _ own, State.core_bump]

variable {p n : Nat} (free : s.poisoned p n = false)
include free

/-- A clear sets nothing. -/
theorem NoSets.landClear (h : NoSets s x) : NoSets (s.landClear p n x 0 false) x := by
  intro q l hl
  obtain ⟨u, shape, is, _⟩ := State.landClear_free x free
  have lands : ∀ q, u.landsAt q x = s.landsAt q x := fun q => by
    rcases is with rfl | rfl
    · exact State.landsAt_congr (by rw [State.core_bump]) (by rw [State.core_bump]) x
    · exact State.landsAt_congr (by rw [State.setFlagBit, State.core_setBit, State.core_bump])
        (by rw [State.setFlagBit, State.core_setBit, State.core_bump]) x
  rw [shape, State.landsAt_noteLand] at hl
  split at hl
  · rw [lands] at hl
    rcases List.mem_append.1 hl with old | new
    · exact h p l old
    · rw [List.mem_singleton.1 new]
  · rw [lands] at hl
    exact h q l hl

/-- With nothing set in the cycle, the flag is clear after. -/
theorem NoSets.flag_landClear (h : NoSets s x) : (s.landClear p n x 0 false).flag p n = false := by
  obtain ⟨u, shape, _, clears⟩ := State.landClear_free x free
  rw [shape, State.flag_noteLand, clears (h p), State.flag_setFlagBit_clear]

/-- A clear leaves a clear flag clear. -/
theorem State.flag_landClear_stays {q m : Nat} (hm : m < 1024) (h : s.flag q m = false) :
    (s.landClear p n x 0 false).flag q m = false := by
  have apart : R.FLG_STATE q (m / 64) ≠ R.FLG_CNT_CLEAR p := by
    simp only [R.FLG_STATE, R.FLG_CNT_CLEAR, Blk.base, coreBase]; omega
  have count : (s.bump (R.FLG_CNT_CLEAR p) 1).flag q m = false := by
    rw [State.flag_congr (State.rd_bump_ne _ _ _ _ apart)]; exact h
  obtain ⟨u, shape, is, _⟩ := State.landClear_free x free
  have keep : (s.landClear p n x 0 false).flag q m = u.flag q m := by
    rw [shape]; exact State.bit_setCore ..
  rw [keep]
  rcases is with rfl | rfl
  · exact count
  · exact State.flag_setFlagBit_stays count

end

/-- The gates of a heat that may be chosen: their flags are flags of the core, and the consumed ones are not poisoned. -/
def GatesFree (s : State) (d : Nat) (h : HeatDef) : Prop :=
  ∀ g ∈ h.gates, g.sel < 1024 ∧ (g.kind = 1 → s.poisoned (s.gateCore d g) g.sel = false)

theorem FlagsTaken.gate {s t : State} (h : FlagsTaken s t) {d : Nat} (hd : d < 8) {g : Gate} (small : g.sel < 1024)
    (free : g.kind = 1 → s.poisoned (s.gateCore d g) g.sel = false) (kind : g.kind = 1) :
    t.poisoned (t.gateCore d g) g.sel = false := by
  rw [h.poisoned small, h.map.gateCore hd, free kind]

section
variable {s : State} {d x : Nat} {h : HeatDef} (hd : d < 8) (gates : GatesFree s d h)
include hd gates

/-- Taking a heat's flags changes only what flags are taken in. -/
theorem State.takeFlags_taken : FlagsTaken s (s.takeFlags d x h) :=
  List.foldlRecOn (motive := FlagsTaken s) _ _ (.refl s) fun _ taken g hg =>
    taken.trans (State.takeGate_taken hd x (gates g hg).1 (taken.gate hd (gates g hg).1 (gates g hg).2))

/-- With nothing set in the cycle, every consumed flag is clear. -/
theorem State.takeFlags_clears (unset : NoSets s x) :
    ∀ g ∈ h.gates, g.kind = 1 → (s.takeFlags d x h).flag (s.gateCore d g) g.sel = false := by
  rw [State.takeFlags_eq]
  refine (foldl_all (I := fun t => FlagsTaken s t ∧ NoSets t x)
    (P := fun g (t : State) => g.kind = 1 → t.flag (s.gateCore d g) g.sel = false) h.gates ?keeps ?does ?stays
      ⟨.refl s, unset⟩).2
  case keeps =>
    rintro t g hg ⟨taken, unset⟩
    obtain ⟨small, free⟩ := gates g hg
    refine ⟨taken.trans (State.takeGate_taken hd x small (taken.gate hd small free)), fun q l hl => ?_⟩
    by_cases kind : g.kind = 1
    · rw [(State.takeGate_clear kind q 0 (by decide)).2] at hl
      exact unset.landClear (taken.gate hd small free kind) q l hl
    · rw [(State.takeGate_other kind q 0 (by decide)).2] at hl
      exact unset q l hl
  case does =>
    rintro t g hg ⟨taken, unset⟩ kind
    obtain ⟨small, free⟩ := gates g hg
    rw [(State.takeGate_clear kind _ _ small).1, ← taken.map.gateCore hd]
    exact unset.flag_landClear (taken.gate hd small free kind)
  case stays =>
    rintro t g j hg hj ⟨taken, _⟩ clear kind
    obtain ⟨small, free⟩ := gates g hg
    by_cases own : g.kind = 1
    · rw [(State.takeGate_clear own _ _ (gates j hj).1).1]
      exact State.flag_landClear_stays (taken.gate hd small free own) (gates j hj).1 (clear kind)
    · rw [(State.takeGate_other own _ _ (gates j hj).1).1]
      exact clear kind

end

/-! ### A heat is chosen (R167, R170, R191) -/

/-- The gates of a ready heat that is not to be released name no poisoned flag. -/
theorem State.gatesFree_of_clean {s : State} {d : Nat} {e : ReadyEntry} {h : HeatDef} (heat : s.heatDef d e.heat = some h)
    (clean : s.poisonedGate d e = none) (small : ∀ g ∈ h.gates, g.sel < 1024) : GatesFree s d h := by
  intro g hg
  refine ⟨small g hg, fun kind => ?_⟩
  unfold State.poisonedGate at clean
  rw [heat] at clean
  obtain ⟨i, at_⟩ := List.mem_iff_getElem?.1 hg
  have no := List.find?_eq_none.1 clean (g, i) (List.mem_zipIdx_iff_getElem?.2 at_)
  simpa [kind] using no

theorem GatesFree.of_map {s t : State} {d : Nat} (hd : d < 8) {h : HeatDef} (gates : GatesFree s d h) (map : MapKept s t)
    (regs : t.regs = s.regs) : GatesFree t d h := fun g hg => ⟨(gates g hg).1, fun kind => by
  rw [map.gateCore hd]
  unfold State.poisoned State.bit
  rw [State.rd_congr regs]
  exact (gates g hg).2 kind⟩

/-- The die's entries without the chosen one. -/
def State.withoutEntry (s : State) (d : Nat) (e : ReadyEntry) : State :=
  s.setDie d { s.die d with ready := (s.die d).ready.erase e }

/-- A choice, as its parts. -/
theorem State.doChosen_eq (s : State) (d x : Nat) (c : Choice) : ∃ u r v,
    u = (s.withoutEntry d c.entry).takeFlags d x c.heat ∧
    (r.heat = c.heat.no ∧ r.variant = c.no ∧ r.bodyNo = c.variant.body ∧ r.replays = c.variant.count ∧ r.opp = c.variant.opp ∧
      r.chosen = x ∧ r.start = none ∧ r.clusters = u.variantClusters d c.variant) ∧
    v = (if c.fallback = true then ((u.setDie d { u.die d with run := some r }).setF (R.STR_EVENT d) F.STR_EVENT_FALLBACK 1).bump
      (R.STR_CNT_FALLBACK d) 1 else u.setDie d { u.die d with run := some r }) ∧
    s.doChosen d x c = ((v.runCores d r).foldl (fun (s : State) p => s.loadHeat p c.heat) v).admitPosts d x :=
  ⟨_, _, _, rfl, ⟨rfl, rfl, rfl, rfl, rfl, rfl, rfl, rfl⟩, rfl, rfl⟩

/-- Loading a heat's cores changes their access engines alone. -/
theorem State.loads_kept (s : State) (h : HeatDef) (l : List Nat) :
    Kept 0x800 s (l.foldl (fun (s : State) p => s.loadHeat p h) s) :=
  Kept.foldl (.refl _ s) fun t p k => k.trans (State.loadHeat_kept (.refl _ t) p h (Sub.refl _))

section
variable {s : State} {d : Nat} (hd : d < 8) (x : Nat) {c : Choice} (gates : GatesFree (s.withoutEntry d c.entry) d c.heat)
  (free : (s.die d).postWait = [])
include hd gates free

/-- A choice makes the die's heat, takes its entry and its flags, and leaves the other entries. -/
theorem State.doChosen_chooses : ∃ r, ((s.doChosen d x c).die d).run = some r ∧
    (r.heat = c.heat.no ∧ r.variant = c.no ∧ r.bodyNo = c.variant.body ∧ r.replays = c.variant.count ∧ r.opp = c.variant.opp ∧
      r.chosen = x ∧ r.start = none ∧ r.clusters = s.variantClusters d c.variant) ∧
    ((s.doChosen d x c).die d).ready = (s.die d).ready.erase c.entry ∧
    ∀ p n, n < 1024 → (s.doChosen d x c).flag p n = ((s.withoutEntry d c.entry).takeFlags d x c.heat).flag p n := by
  obtain ⟨u, r, v, hu, ⟨heat, no, body, count, opp, chosen, start, clusters⟩, hv, shape⟩ := s.doChosen_eq d x c
  have taken : FlagsTaken (s.withoutEntry d c.entry) u := by rw [hu]; exact State.takeFlags_taken hd gates
  have map : MapKept s u := ((MapKept.refl s).setDie ..).trans taken.map
  have before : u.die d = { s.die d with ready := (s.die d).ready.erase c.entry } := by
    unfold State.die
    rw [taken.dies]
    exact State.die_setDie_self ..
  have after : v.die d = { u.die d with run := some r } := by
    rw [hv]
    split
    · rw [State.die_bump, State.die_setF, State.die_setDie_self]
    · rw [State.die_setDie_self]
  have flags (p n : Nat) (hn : n < 1024) : v.flag p n = u.flag p n := by
    have event : R.FLG_STATE p (n / 64) ≠ R.STR_EVENT d ∧ R.FLG_STATE p (n / 64) ≠ R.STR_CNT_FALLBACK d := by
      simp only [R.FLG_STATE, R.STR_EVENT, R.STR_CNT_FALLBACK, Blk.base, coreBase, dieBase]; omega
    refine State.flag_congr ?_
    rw [hv]
    split
    · rw [State.rd_bump_ne _ _ _ _ event.2, State.rd_setF_ne _ _ _ _ _ event.1, State.rd_setDie]
    · rw [State.rd_setDie]
  have loads := v.loads_kept c.heat (v.runCores d r)
  have loaded : ((v.runCores d r).foldl (fun (s : State) p => s.loadHeat p c.heat) v).die d = v.die d := by
    unfold State.die
    rw [loads.same .dies (by decide)]
  rw [State.admitPosts_none (by rw [loaded, after, before]; exact free)] at shape
  rw [shape, loaded, after, before]
  exact ⟨r, rfl, ⟨heat, no, body, count, opp, chosen, start, clusters.trans (map.variantClusters hd _)⟩, rfl,
    fun p n hn => (State.flag_congr (State.rd_congr (loads.same .regs (by decide)) _)).trans
      ((flags p n hn).trans (by rw [hu]))⟩

end

section
variable (d : Die) (x : Nat) (s : State) (idle : (s.die d).run = none) (unblocked : s.strBlocked d = false)
  (up : s.dieDown d = false) (later : (s.die d).now < x) (good : s.clockGood d = true) (free : (s.die d).postWait = [])
  (clean : ∀ e ∈ (s.die d).ready, s.poisonedGate d e = none)

section
include idle unblocked up later good

theorem exec_heatChoice : exec (.heatChoice d x) s = .next (s.doHeatChoice d x) :=
  State.when_true _ _ (by simp [idle, unblocked, up, later, good])

end
include idle unblocked up later good free clean

/-- With no choice only the marks of being eligible change. -/
theorem heatChoice_none (nothing : s.choose d x = none) : ∃ t, exec (.heatChoice d x) s = .next t ∧ (t.die d).run = none ∧
    t.die d = { s.die d with now := x, ready := (s.die d).ready.map fun e => { e with eligible := s.eligible d x e } } ∧
    (∀ j, j ≠ d.val → t.die j = s.die j) ∧ t = { s with dies := t.dies } := by
  have ran := exec_heatChoice d x s idle unblocked up later good
  rw [State.doHeatChoice_none clean free nothing] at ran
  have die : ((s.judged d x).clock d x).die d =
      { s.die d with now := x, ready := (s.die d).ready.map fun e => { e with eligible := s.eligible d x e } } := by
    rw [State.die_clock, State.judged, State.die_setDie_self]
    dsimp only
    rw [Nat.max_eq_right later.le]
  refine ⟨_, ran, by rw [die]; exact idle, die, fun j n => ?_, ?_⟩
  · rw [State.die_clock_ne _ _ _ _ n, State.judged, State.die_setDie_ne _ _ _ _ n]
  · rw [State.clock_eq, State.judged, State.setDie]

/-- A choice makes its heat the die's, and clears the flags its gates consume. -/
theorem heatChoice_some (c : Choice) (chosen : s.choose d x = some c) (small : ∀ g ∈ c.heat.gates, g.sel < 1024) :
    ∃ t r, exec (.heatChoice d x) s = .next t ∧ (t.die d).run = some r ∧ r.heat = c.heat.no ∧ r.variant = c.no ∧
      r.bodyNo = c.variant.body ∧ r.replays = c.variant.count ∧ r.opp = c.variant.opp ∧ r.chosen = x ∧ r.start = none ∧
      r.clusters = s.variantClusters d c.variant ∧ (t.die d).ready.length + 1 = (s.die d).ready.length ∧
      t.spad = s.spad ∧ t.hbm = s.hbm ∧ t.engines = s.engines ∧
      ((∀ p, s.landsAt p x = []) → ∀ g ∈ c.heat.gates, g.kind = 1 → t.flag (s.gateCore d g) g.sel = false) := by
  have ran := exec_heatChoice d x s idle unblocked up later good
  have spad := exec_same ran .spad (by simp [touches, Part.reported])
  have hbm := exec_same ran .hbm (by simp [touches, Part.reported])
  have engines := exec_same ran .engines (by simp [touches, Part.reported])
  have shape := State.doHeatChoice_some clean free chosen
  have mark : (s.judged d x).eligible d x c.entry = s.eligible d x c.entry := State.eligible_setDie ..
  rw [mark] at shape
  rw [shape] at ran spad hbm engines
  obtain ⟨ready, heat⟩ := State.choose_mem chosen
  have judged : (s.judged d x).die d =
      { s.die d with ready := (s.die d).ready.map fun e => { e with eligible := s.eligible d x e } } := State.die_setDie_self ..
  let e : ReadyEntry := { c.entry with eligible := s.eligible d x c.entry }
  have map : MapKept s (s.judged d x) := (MapKept.refl s).setDie ..
  have taken : MapKept s ((s.judged d x).withoutEntry d e) := map.setDie ..
  have gates : GatesFree ((s.judged d x).withoutEntry d e) d c.heat :=
    (State.gatesFree_of_clean heat (clean _ ready) small).of_map d.isLt taken
      ((State.setDie_regs ..).trans (State.setDie_regs ..))
  obtain ⟨r, run, ⟨no, variant, body, count, opp, cycle, start, clusters⟩, left, flags⟩ := State.doChosen_chooses d.isLt x
    (c := c.marked (s.eligible d x c.entry)) gates (by rw [judged]; exact free)
  refine ⟨_, r, ran, by rw [State.die_clock]; exact run, no, variant, body, count, opp, cycle, start,
    clusters.trans (map.variantClusters d.isLt _), ?ready, spad, hbm, engines, fun unset g hg kind => ?clear⟩
  case ready =>
    have mem : e ∈ (s.die d).ready.map fun e => { e with eligible := s.eligible d x e } :=
      List.mem_map.2 ⟨c.entry, ready, rfl⟩
    have some_ := List.length_pos_of_mem mem
    rw [State.die_clock]
    dsimp only
    rw [left, judged]
    refine (congrArg (· + 1) (List.length_erase_of_mem mem)).trans ?_
    rw [List.length_map] at some_ ⊢
    omega
  case clear =>
    have landed : NoSets ((s.judged d x).withoutEntry d e) x := fun p l hl => by
      have none : ((s.judged d x).withoutEntry d e).landsAt p x = [] :=
        (State.landsAt_congr (s := s) (by rw [State.withoutEntry, State.core_setDie, State.judged, State.core_setDie])
          (by rw [State.withoutEntry, State.core_setDie, State.judged, State.core_setDie]) x).trans (unset p)
      rw [none] at hl
      cases hl
    have clear := State.takeFlags_clears d.isLt gates landed g hg kind
    rw [taken.gateCore d.isLt] at clear
    exact (State.flag_congr (State.rd_clock ..)).trans ((flags _ _ (small g hg)).trans clear)

end

/-- Settles O32: the choice, the start and the end of a heat, each by its parts. -/
theorem heatsRunTheirCourse : Obligations.HeatsRunTheirCourse := by
  unfold Obligations.HeatsRunTheirCourse
  exact ⟨fun d x s idle unblocked up later good free clean => ⟨heatChoice_none d x s idle unblocked up later good free clean,
    heatChoice_some d x s idle unblocked up later good free clean⟩, heatStart_starts, heatEnd_ends⟩

end Sys2Proof.Machine

/-! PROOFS. Settles the statements of the family "heats and energy": how posts enter the ready set, what watchdogs, flag
stores, signals and forecasts do, how power is granted and metered, how operating points, temperatures and models move, and
how notices and collective packets arrive. -/

namespace Sys2Proof.Machine

open Sys2Proof

/-! ### Posts (R165, R166, R203) -/

/-- The watch of a gate that is no regatta's, as its heat enters the ready set: its limit, extended where its context is
slow (R203). -/
def State.gateWatch (s : State) (g : Gate) : GateWatch :=
  let slow := (g.kind == 3 || g.kind == 6) && (s.ctx g.ctx).slow
  let base := if g.watchdog = 0 then s.wdDefault else g.watchdog
  ⟨if slow then base * s.f R.PWR_POLICY F.PWR_POLICY_SLOW_FACTOR else base, true, slow, 0⟩

theorem State.gateWatches_plain (s : State) {h : HeatDef} (plain : ∀ g ∈ h.gates, g.kind ≠ 6) :
    s.gateWatches h = (h.gates.map s.gateWatch, s) := by
  have run (l : List Gate) (acc : List GateWatch) :
      l.foldl (fun (a : List GateWatch × State) g => (a.1 ++ [a.2.gateWatch g], a.2)) (acc, s) =
        (acc ++ l.map s.gateWatch, s) := by
    induction l generalizing acc with
    | nil => simp
    | cons g l ih => rw [List.foldl_cons, ih]; simp
  refine (List.foldl_ext _ _ _ fun a g hg => ?_).trans (run h.gates [])
  simp only [if_neg (plain g hg)]
  rfl

/-- The entry a post makes where no gate is a regatta's. -/
def State.readyEntry (s : State) (p n x : Nat) (h : HeatDef) : ReadyEntry :=
  ⟨n, h.vdie, (s.tenOfDie (dieOf p)).getD 0, h.cls, p, x, s.time, h.gates.map s.gateWatch, false⟩

theorem State.poisonedGate_setDie (s : State) (j : Nat) (v : DieState) (d : Nat) (e : ReadyEntry) :
    (s.setDie j v).poisonedGate d e = s.poisonedGate d e := rfl

/-- A heat none of whose gates is a regatta's joins a ready set that names no poisoned flag. -/
theorem State.enterReady_clean {s : State} {p n : Nat} {h : HeatDef} (x : Nat) (plain : ∀ g ∈ h.gates, g.kind ≠ 6)
    (clean : ∀ e : ReadyEntry, e.heat = n ∨ e ∈ (s.die (dieOf p)).ready → s.poisonedGate (dieOf p) e = none) :
    s.enterReady p n x h = s.setDie (dieOf p) { s.die (dieOf p) with
      ready := (s.die (dieOf p)).ready ++ [s.readyEntry p n x h] } := by
  unfold State.enterReady
  rw [s.gateWatches_plain plain]
  refine State.releasePoisoned_clean fun e he => ?_
  rw [State.die_setDie_self] at he
  rw [State.poisonedGate_setDie]
  rcases List.mem_append.1 he with old | new
  · exact clean e (.inr old)
  · exact clean e (.inl (by rw [List.mem_singleton.1 new]))

section
variable {s : State} {p : Nat} {n : Nat} (x : Nat) (cox : Bool) (unarmed : Unarmed s 0x2A)
include unarmed

theorem State.doPost_undefined (none : s.heatDef (dieOf p) n = none) : s.doPost p n x cox =
    (s.setF (R.STR_EVENT (dieOf p)) F.STR_EVENT_BAD_POST 1).record (occ 0x2A kDie (dieOf p) n (p % 32)) := by
  unfold State.doPost
  simp [State.inject_unarmed unarmed, none]

section
variable {h : HeatDef} (heat : s.heatDef (dieOf p) n = some h) (alone : (s.die (dieOf p)).postWait = [])
include heat alone

theorem State.doPost_enters (room : (s.die (dieOf p)).ready.length < 64) : s.doPost p n x cox = s.enterReady p n x h := by
  unfold State.doPost
  simp [State.inject_unarmed unarmed, heat, State.admitPosts_none alone, Nat.not_le.2 room]

theorem State.doPost_stalls (full : 64 ≤ (s.die (dieOf p)).ready.length) : s.doPost p n x cox =
    (s.setDie (dieOf p) { s.die (dieOf p) with postWait := [(p, n, cox)] }).setF (R.STR_EVENT (dieOf p))
      F.STR_EVENT_POST_STALL 1 := by
  unfold State.doPost
  simp [State.inject_unarmed unarmed, heat, State.admitPosts_none alone, alone, full]

end
end

/-- An admitted post acts in its cycle, and its writer is answered. -/
theorem exec_heatPost {iss : Issuer} {p : Pos} {x n : Nat} {s : State} (small : n < 65536) (due : (s.die (dieOf p)).now ≤ x)
    (admitted : Admitted s iss (R.COX_HEAT_POST p) (BitVec.ofNat 64 n)) : exec (.heatPost iss p x n) s =
      .next (((s.doPost p n x false).emit (.answer iss (R.COX_HEAT_POST p) sOK 0)).clock (dieOf p) x) := by
  show s.atCycle p x (s.ctlIn iss (R.COX_HEAT_POST p) 8 (BitVec.ofNat 64 (n % 65536))
    fun s => s.doPost p (n % 65536) x false) = _
  rw [Nat.mod_eq_of_lt small, State.ctlIn_admitted admitted]
  exact State.when_true _ _ (decide_eq_true due)

theorem strEvent_quiet {d : Nat} (hd : d < 8) : ¬ reportReg (R.STR_EVENT d) := by
  simp only [reportReg, errReg, R.STR_EVENT, Blk.base, dieBase]; omega

theorem dieOf_lt (p : Pos) : dieOf p < 8 := by unfold dieOf; omega

/-- Settles O29: a post enters the ready set, waits for room in it, or is refused as BAD_POST. -/
theorem postsEnterTheReadySet : Obligations.PostsEnterTheReadySet := by
  unfold Obligations.PostsEnterTheReadySet
  intro iss p x n s small due admitted unarmed
  refine ⟨_, exec_heatPost small due admitted, fun h heat alone room plain clean => ?enters, fun h heat alone full => ?stalls,
    fun none => ?undefined⟩
  case enters =>
    rw [State.doPost_enters x false unarmed heat alone room, State.enterReady_clean x plain clean]
    refine ⟨s.readyEntry p n x h, ?_, rfl, rfl, rfl, rfl, rfl, by simp [State.readyEntry], ?_, ?_, fun j n => ?_, ?_⟩
    · rw [State.die_clock, State.die_emit, State.die_setDie_self]
    · rintro w hw
      obtain ⟨g, _, rfl⟩ := List.mem_map.1 hw
      rfl
    · rw [State.die_clock_now, State.die_emit, State.die_setDie_self]
    · rw [State.die_clock_ne _ _ _ _ n, State.die_emit, State.die_setDie_ne _ _ _ _ n]
    · rw [State.clock_eq, State.emit, State.setDie]
  case stalls =>
    rw [State.doPost_stalls x false unarmed heat alone full]
    refine ⟨?_, ?_, ?_, ?_, ?_⟩
    · rw [State.die_clock, State.die_emit, State.die_setF, State.die_setDie_self]
    · rw [State.die_clock, State.die_emit, State.die_setF, State.die_setDie_self]
    · rw [State.f_clock, State.f_emit, State.f_setF_of_lt _ _ _ _ (by decide) (by decide)]
    · exact (((RegsBut.of_regs (t := s.setDie (dieOf p) _) (State.setDie_regs ..)).setF (by simp) _ _).same
        (State.emit_regs ..)).same (State.clock_regs ..)
    · rw [State.clock_eq, State.emit, State.setF_eq, State.setDie]
  case undefined =>
    rw [State.f_clock, State.f_emit, State.doPost_undefined x false unarmed none, State.f_congr
      (((Reported.refl _).record (.inr (.inl rfl)) _ _).rd _ (strEvent_quiet (dieOf_lt p))),
      State.f_setF_of_lt _ _ _ _ (by decide) (by decide)]

/-! ### Buckets cut to their ceilings (R169) -/

theorem State.ceilingOf_congr {s t : State} {d : Nat} (alloc : (t.die d).alloc = (s.die d).alloc)
    (forecasts : (t.die d).forecasts = (s.die d).forecasts) (time : t.time = s.time) : t.ceilingOf d = s.ceilingOf d := by
  simp only [State.ceilingOf, alloc, forecasts, time]

theorem State.cutBucket_eq (s : State) (d : Nat) : s.cutBucket d = { s with dies := (s.cutBucket d).dies } := by
  simp only [State.cutBucket]
  split <;> rfl

theorem State.die_cutBucket_ne (s : State) (d j : Nat) (h : j ≠ d) : (s.cutBucket d).die j = s.die j := by
  simp only [State.cutBucket]
  split
  · exact State.die_setDie_ne _ _ _ _ h
  · rfl

theorem State.die_cutBucket (s : State) (d : Nat) :
    (s.cutBucket d).die d = { s.die d with bucket := min (s.die d).bucket ((s.ceilingOf d : Nat) : Int) } := by
  simp only [State.cutBucket]
  split
  · rename_i h; rw [State.die_setDie_self, min_eq_right h.le]
  · rename_i h; rw [min_eq_left (not_lt.1 h)]

theorem State.ceilingOf_cutBucket (s : State) (d : Nat) : (s.cutBucket d).ceilingOf d = s.ceilingOf d :=
  State.ceilingOf_congr (by rw [State.die_cutBucket]) (by rw [State.die_cutBucket])
    (by rw [s.cutBucket_eq d])

/-! ### Grants (R169, R184) -/

/-- A die takes its part of `w` watts, of which `dem` are asked for in all. -/
def State.grantDie (s : State) (w dem d : Nat) : State :=
  (s.setDie d { s.die d with alloc := w * s.demand d * (s.thermOf d).1 / (dem * (s.thermOf d).2) }).cutBucket d

/-- The powered dies of a tenancy. -/
def State.poweredOf (s : State) (u : Nat) : List Nat := (s.diesOf u).filter fun d => !s.dieDown d

/-- The dies of a tenancy take what its share of `avail` comes to. -/
def State.grantTen (s : State) (avail held live u : Nat) : State :=
  (s.poweredOf u).foldl (fun (t : State) d =>
    t.grantDie (avail * held * s.shareOf u / (256 * live)) ((s.poweredOf u).map s.demand).sum d) s

/-- GRANT_RECOMPUTE works through the admitted tenancies that are not pre-empted. -/
theorem State.doGrant169_eq (s : State) : s.doGrant169 = s.liveTens.foldl (fun (t : State) u =>
    t.grantTen (s.f R.PWR_CAP F.PWR_CAP_CAP_W - s.pkgW)
      (((List.range 8).filter fun v => s.f (R.TEN_T_CFG v) F.TEN_T_CFG_VALID == 1).map s.shareOf).sum
      (s.liveTens.map s.shareOf).sum u) s := rfl

/-- From s to t dies have been granted power: nothing but allocations and buckets has changed. -/
structure Granted (s t : State) : Prop where
  rest : t = { s with dies := t.dies }
  die : ∀ j, ∃ a b, t.die j = { s.die j with alloc := a, bucket := b }

namespace Granted
variable {s t u : State}

theorem refl (s : State) : Granted s s := ⟨rfl, fun _ => ⟨_, _, rfl⟩⟩

theorem trans (h : Granted s t) (k : Granted t u) : Granted s u where
  rest := by rw [k.rest, h.rest]
  die j := by
    obtain ⟨a, b, e⟩ := h.die j
    obtain ⟨a', b', e'⟩ := k.die j
    exact ⟨a', b', by rw [e', e]⟩

theorem grantDie (s : State) (w dem d : Nat) : Granted s (s.grantDie w dem d) where
  rest := by rw [State.grantDie, State.cutBucket_eq]; rfl
  die j := by
    rw [State.grantDie]
    by_cases h : j = d
    · subst h
      exact ⟨_, _, by rw [State.die_cutBucket, State.die_setDie_self]⟩
    · exact ⟨_, _, by rw [State.die_cutBucket_ne _ _ _ h, State.die_setDie_ne _ _ _ _ h]⟩

theorem foldl {α : Type} {f : State → α → State} (k : ∀ u x, Granted u (f u x)) (l : List α) (s : State) :
    Granted s (l.foldl f s) :=
  List.foldlRecOn l f (refl s) fun u hu x _ => hu.trans (k u x)

theorem grantTen (s : State) (avail held live u : Nat) : Granted s (s.grantTen avail held live u) :=
  foldl (fun t d => grantDie t _ _ d) _ _

section
variable (h : Granted s t)
include h

theorem diesOf (u : Nat) : t.diesOf u = s.diesOf u := by rw [h.rest]; rfl

theorem shareOf (u : Nat) : t.shareOf u = s.shareOf u := by rw [h.rest]; rfl

theorem thermOf (d : Nat) : t.thermOf d = s.thermOf d := by rw [h.rest]; rfl

theorem heatDef (d no : Nat) : t.heatDef d no = s.heatDef d no := by rw [h.rest]; rfl

theorem time : t.time = s.time := by rw [h.rest]

theorem dieDown (d : Nat) : t.dieDown d = s.dieDown d := by
  obtain ⟨a, b, e⟩ := h.die d
  unfold State.dieDown
  rw [e, h.rest]

theorem bodyLen (d : Nat) (v : Variant) : t.bodyLen d v = s.bodyLen d v := by
  unfold State.bodyLen
  rw [h.heatDef]

theorem demand (d : Nat) : t.demand d = s.demand d := by
  obtain ⟨a, b, e⟩ := h.die d
  unfold State.demand State.variantW
  simp only [e, h.heatDef, h.bodyLen, h.time]

theorem poweredOf (u : Nat) : t.poweredOf u = s.poweredOf u := by
  unfold State.poweredOf
  simp only [h.diesOf, h.dieDown]

end
end Granted

theorem State.poweredOf_nodup (s : State) (u : Nat) : (s.poweredOf u).Nodup := (List.nodup_range.filter _).filter _

theorem State.die_grantDie_ne (s : State) (w dem : Nat) {d j : Nat} (h : j ≠ d) : (s.grantDie w dem d).die j = s.die j := by
  rw [State.grantDie, State.die_cutBucket_ne _ _ _ h, State.die_setDie_ne _ _ _ _ h]

/-- A die that is granted `a` watts from state s on, with its bucket cut to the ceiling that follows. -/
def GrantedDie (s t : State) (d a : Nat) : Prop :=
  t.die d = { s.die d with alloc := a, bucket := min (s.die d).bucket ((t.ceilingOf d : Nat) : Int) }

theorem GrantedDie.of_die {s t u : State} {d a : Nat} (h : GrantedDie s t d a) (die : u.die d = t.die d)
    (time : u.time = t.time) : GrantedDie s u d a := by
  unfold GrantedDie
  rw [State.ceilingOf_congr (s := t) (by rw [die]) (by rw [die]) time, die]
  exact h

/-- The grant of a die whose record is as it was in s. -/
theorem State.grantDie_grants {s t : State} (h : Granted s t) {d : Nat} (die : t.die d = s.die d) (w dem : Nat) :
    GrantedDie s (t.grantDie w dem d) d (w * s.demand d * (s.thermOf d).1 / (dem * (s.thermOf d).2)) := by
  unfold GrantedDie State.grantDie
  rw [State.ceilingOf_cutBucket, State.die_cutBucket, State.die_setDie_self, h.demand, h.thermOf, die]

/-- A tenancy's grant reaches each of its powered dies whose record is as it was in s. -/
theorem State.grantTen_grants {s t : State} (h : Granted s t) {u d : Nat} (mem : d ∈ s.poweredOf u) (die : t.die d = s.die d)
    (avail held live : Nat) : GrantedDie s (t.grantTen avail held live u) d
      (avail * held * s.shareOf u / (256 * live) * s.demand d * (s.thermOf d).1 /
        (((s.poweredOf u).map s.demand).sum * (s.thermOf d).2)) := by
  unfold State.grantTen
  rw [h.poweredOf, h.shareOf, show t.demand = s.demand from funext h.demand]
  exact (foldl_reaches (Before := fun v => Granted s v ∧ v.die d = s.die d)
    (After := fun v => Granted s v ∧ GrantedDie s v d _) (s.poweredOf_nodup u) mem
    (fun v e _ n hv => ⟨hv.1.trans (.grantDie ..), (v.die_grantDie_ne _ _ n.symm).trans hv.2⟩)
    (fun v hv => ⟨hv.1.trans (.grantDie ..), State.grantDie_grants hv.1 hv.2 _ _⟩)
    (fun v e _ n hv => ⟨hv.1.trans (.grantDie ..), hv.2.of_die (v.die_grantDie_ne _ _ n.symm) (Granted.grantDie v _ _ e).time⟩)
    ⟨h, die⟩).2

/-- A tenancy's grant leaves the dies that are not its own. -/
theorem State.die_grantTen_ne {s t : State} (h : Granted s t) {v d : Nat} (other : d ∉ s.diesOf v) (avail held live : Nat) :
    (t.grantTen avail held live v).die d = t.die d := by
  unfold State.grantTen
  rw [h.poweredOf]
  exact List.foldlRecOn (motive := fun w : State => w.die d = t.die d) _ _ rfl fun w hw e he =>
    (w.die_grantDie_ne _ _ (by rintro rfl; exact other (List.mem_of_mem_filter he))).trans hw

/-- Settles O34: working through the tenancies, a die is granted its part when the turn comes to the one that holds it. -/
theorem grantsDivideTheCap : Obligations.GrantsDivideTheCap := by
  unfold Obligations.GrantsDivideTheCap
  intro s
  refine ⟨s.doGrant169, rfl, ?rest, fun u d live holds own up => ?grant⟩
  case rest => rw [s.doGrant169_eq]; exact (Granted.foldl (fun t v => Granted.grantTen t _ _ _ v) _ s).rest
  case grant =>
    have mem : d.val ∈ s.poweredOf u := List.mem_filter.2 ⟨holds, by rw [up]; rfl⟩
    rw [s.doGrant169_eq]
    exact (foldl_reaches (Before := fun t : State => Granted s t ∧ t.die d = s.die d)
      (After := fun t : State => Granted s t ∧ GrantedDie s t d _) (List.nodup_range.filter _) live
      (fun t v hv n ht => ⟨ht.1.trans (.grantTen ..), (State.die_grantTen_ne ht.1 (own v hv n) _ _ _).trans ht.2⟩)
      (fun t ht => ⟨ht.1.trans (.grantTen ..), State.grantTen_grants ht.1 mem ht.2 _ _ _⟩)
      (fun t v hv n ht => ⟨ht.1.trans (.grantTen ..), ht.2.of_die (State.die_grantTen_ne ht.1 (own v hv n) _ _ _)
        (Granted.grantTen t _ _ _ v).time⟩) ⟨.refl s, rfl⟩).2

/-! ### What a report leaves of the dies (R280, R294) -/

/-- From s to t heats may have been told to stop, and nothing else of the dies has changed. -/
def RunsStopped (s t : State) : Prop :=
  ∀ j, ∃ r, t.die j = { s.die j with run := r } ∧ r.isSome = (s.die j).run.isSome

namespace RunsStopped
variable {s t u : State}

theorem refl (s : State) : RunsStopped s s := fun j => ⟨(s.die j).run, rfl, rfl⟩

theorem trans (h : RunsStopped s t) (k : RunsStopped t u) : RunsStopped s u := fun j => by
  obtain ⟨r, e, i⟩ := h j
  obtain ⟨r', e', i'⟩ := k j
  exact ⟨r', by rw [e', e], by rw [i', e]; exact i⟩

theorem of_dies (h : t.dies = s.dies) : RunsStopped s t := fun j =>
  ⟨(s.die j).run, by unfold State.die; rw [h], rfl⟩

theorem same (h : RunsStopped s t) (dies : u.dies = t.dies) : RunsStopped s u := h.trans (of_dies dies)

theorem kept {m : Nat} (h : RunsStopped s t) (k : Kept m t u) (n : m.testBit 14 = false := by decide) : RunsStopped s u :=
  h.same (k.same .dies n)

theorem idle (h : RunsStopped s t) {d : Nat} (none : (s.die d).run = none) : t.die d = s.die d := by
  obtain ⟨r, e, i⟩ := h d
  rw [none, Option.isSome_none, Option.isSome_eq_false_iff, Option.isNone_iff_eq_none] at i
  rw [e, i, ← none]

theorem endHeats (h : RunsStopped s t) (k : Nat) : RunsStopped s (t.endHeats k) :=
  List.foldlRecOn (motive := fun u => RunsStopped s u) _ _ h fun u hu d _ => hu.trans fun j => by
    rw [State.die_setDie]
    split
    · rename_i e; subst e; exact ⟨_, rfl, by simp⟩
    · exact ⟨_, rfl, rfl⟩

theorem recover (h : RunsStopped s t) (k cause : Nat) : RunsStopped s (t.recover k cause) := by
  unfold State.recover
  split
  · extract_lets u v
    exact ((h.same (u := v) rfl).endHeats k).kept (m := 0x402060010) (State.abandonSnap_kept (.refl _ _) _ (Sub.refl _))
  · exact h

theorem recoverDie (h : RunsStopped s t) (d cause : Nat) : RunsStopped s (t.recoverDie d cause) := by
  unfold State.recoverDie
  split
  · exact h.recover _ _
  · exact h

theorem recoverUse (h : RunsStopped s t) (used : Bool) (d : Nat) : RunsStopped s (t.recoverUse used d) := by
  unfold State.recoverUse
  split
  · exact h.recoverDie _ _
  · exact h

theorem fenceCore (h : RunsStopped s t) (p : Nat) : RunsStopped s (t.fenceUnit kCore p) := by
  have marked : RunsStopped s ((t.setF R.MNT_EVENT F.MNT_EVENT_FENCE_ADDED 1).setBit (R.MNT_FENCE_CORE (p / 64)) (p % 64) true) :=
    h.same (by rw [State.setBit_dies, State.setF_dies])
  have put := marked.kept (State.palPut_kept (.refl _ _) true (R.MNT_FENCE_CORE (p / 64)) (Sub.refl _))
  exact (put.recoverUse _ _).kept (State.copyCheck_kept (.refl _ _) (Sub.refl _))

theorem fenceUnit {kind : Nat} (h : RunsStopped s t) (unit : kind = kCore ∨ BareUnit kind) (i : Nat) :
    RunsStopped s (t.fenceUnit kind i) := by
  rcases unit with rfl | bare
  · exact h.fenceCore i
  · rw [State.fenceUnit_bare bare]
    exact h.kept (State.copyCheck_kept (.refl _ _) (Sub.refl _))

theorem takeAction {o : Occ} (h : RunsStopped s t) (unit : o.kind = kCore ∨ BareUnit o.kind) (n cause : Nat) :
    RunsStopped s (t.takeAction o n cause) := by
  unfold State.takeAction
  split
  · exact h.fenceUnit unit _
  split
  · split
    · exact h.recover _ _
    · exact h
  · exact h

/-- A record at a core, or at a unit without a place in the fence map. -/
theorem record (h : RunsStopped s t) {o : Occ} (unit : o.kind = kCore ∨ BareUnit o.kind) (cause weight : Nat) :
    RunsStopped s (t.record o cause weight) :=
  RecordKeeps.record (P := RunsStopped s)
    { count := fun _ hu => hu.same (State.bump_dies ..)
      errs := fun _ _ hu => hu.same rfl
      ring := fun _ _ hu => hu.kept (State.ringWrite_kept (.refl _ _) _ _ (Sub.refl _))
      event := fun _ hu => hu.same (State.setBit_dies ..)
      action := fun _ n hu => hu.takeAction unit n cause } h weight

theorem waitTimeout (h : RunsStopped s t) (p kind status flag ctx heat limit : Nat) :
    RunsStopped s (t.waitTimeout p kind status flag ctx heat limit) := by
  rw [State.waitTimeout_eq]
  have full := Sub.refl 0x10
  have marked := State.bump_kept (State.setF_kept (Kept.refl 0x10 t) (R.FLG_EVENT p) F.FLG_EVENT_WAIT_TIMEOUT 1)
    (R.FLG_CNT_TIMEOUT p) 1
  exact (h.kept (State.waitRecord_kept marked p kind status flag ctx heat limit)).record (.inl rfl) _ _

end RunsStopped

/-! ### Watchdogs of gates (R166, R203, R204) -/

section
variable {d : Die} {n k : Nat} {e : ReadyEntry} {h : HeatDef} {w : GateWatch} {g : Gate} {s : State}

theorem exec_gateWatchdogExpire (entry : (s.die d).ready[n]? = some e) (heat : s.heatDef d e.heat = some h)
    (watch : e.watch[k]? = some w) (gate : h.gates[k]? = some g) (on : w.on = true) (due : e.tick + w.limit ≤ s.time) :
    exec (.gateWatchdogExpire d n k) s = .next (s.doGateExpire d e g k w) := by
  show execGateWatchdogExpire d n k s = _
  unfold execGateWatchdogExpire
  simp only [entry, heat, watch, gate]
  exact State.when_true _ _ (by simp [on, due])

theorem State.doGateExpire_holds (unarmed : Unarmed s 0x23) (holds : s.gateHolds d g w.gen = true) :
    s.doGateExpire d e g k w = s.setDie d { s.die d with ready := (s.die d).ready.map fun q =>
      if q = e then { q with watch := q.watch.set k { w with on := false } } else q } := by
  unfold State.doGateExpire
  simp [State.inject_unarmed unarmed, holds]

/-- A gate that does not hold when its watchdog runs out times out at its core. -/
theorem State.doGateExpire_timesOut (unarmed : Unarmed s 0x23) (fails : s.gateHolds d g w.gen = false)
    (alone : (s.die d).postWait = []) : ∃ kind flag ctx, s.doGateExpire d e g k w =
      (s.withoutEntry d e).waitTimeout (s.gateCore d g) kind 1 flag ctx e.heat w.limit := by
  refine ⟨g.kind, if g.kind == 1 || g.kind == 2 then g.sel else 0, if g.kind == 3 || g.kind == 6 then g.ctx else 0, ?_⟩
  unfold State.doGateExpire
  simp only [State.inject_unarmed unarmed, fails, Bool.false_and, Bool.false_eq_true, if_false, Option.isSome_none]
  refine State.admitPosts_none ?_
  obtain ⟨r, same, _⟩ := (RunsStopped.refl (s.withoutEntry d e)).waitTimeout (s.gateCore d g) g.kind 1
    (if g.kind == 1 || g.kind == 2 then g.sel else 0) (if g.kind == 3 || g.kind == 6 then g.ctx else 0) e.heat w.limit d
  refine (congrArg DieState.postWait same).trans ?_
  rw [State.withoutEntry, State.die_setDie_self]
  exact alone

end

/-- A gate's watchdog that has run out is spent where the gate holds, and otherwise times out. -/
theorem gateWatchdog_expires (d : Die) (n k : Nat) (e : ReadyEntry) (h : HeatDef) (w : GateWatch) (g : Gate) (s : State)
    (entry : (s.die d).ready[n]? = some e) (heat : s.heatDef d e.heat = some h) (watch : e.watch[k]? = some w)
    (gate : h.gates[k]? = some g) (on : w.on = true) (due : e.tick + w.limit ≤ s.time) (unarmed : Unarmed s 0x23) :
    (s.gateHolds d g w.gen = true → ∃ t, exec (.gateWatchdogExpire d n k) s = .next t ∧
      t.die d = { s.die d with ready := (s.die d).ready.map fun q =>
        if q = e then { q with watch := q.watch.set k { w with on := false } } else q } ∧
      (∀ j, j ≠ d.val → t.die j = s.die j) ∧ t = { s with dies := t.dies }) ∧
    (s.gateHolds d g w.gen = false → s.gateCore d g < 256 → (s.die d).postWait = [] →
      ∃ t, exec (.gateWatchdogExpire d n k) s = .next t ∧
        t.f (R.FLG_EVENT (s.gateCore d g)) F.FLG_EVENT_WAIT_TIMEOUT = 1) := by
  have ran := exec_gateWatchdogExpire entry heat watch gate on due
  refine ⟨fun holds => ?_, fun fails core alone => ?_⟩
  · rw [State.doGateExpire_holds unarmed holds] at ran
    exact ⟨_, ran, State.die_setDie_self .., fun j n => State.die_setDie_ne _ _ _ _ n, rfl⟩
  · obtain ⟨kind, flag, ctx, shape⟩ := State.doGateExpire_timesOut (k := k) (e := e) unarmed fails alone
    rw [shape] at ran
    exact ⟨_, ran, (State.waitTimeout_tells _ ⟨s.gateCore d g, core⟩ kind 1 flag ctx e.heat w.limit).1⟩

/-! ### Bits of registers -/

theorem State.bit_setBit (s : State) (a z : Nat) {i j : Nat} (b : Bool) (hi : i < 64) (hj : j < 64) :
    (s.setBit a i b).bit z j = if z = a ∧ j = i then b else s.bit z j := by
  rw [State.bit_eq_f, State.bit_eq_f, State.setBit]
  by_cases reg : z = a
  · by_cases place : j = i
    · rw [if_pos (c := z = a ∧ j = i) ⟨reg, place⟩, reg, place,
        State.f_setF_of_lt _ _ _ _ (by simp only; omega) (by cases b <;> simp)]
      cases b <;> rfl
    · rw [if_neg (c := z = a ∧ j = i) fun h => place h.2, reg,
        State.f_setF_apart _ _ _ _ _ (by simp only; omega) (by simp only; omega)]
  · rw [if_neg (c := z = a ∧ j = i) fun h => reg h.1, State.f_setF_ne _ _ _ _ _ _ reg]

/-- Taking a bit out of a number clears its field. -/
theorem sub_and_two_pow (v k : Nat) : v - (v &&& 2 ^ k) = putBits v k 1 0 := by
  have bit : v &&& 2 ^ k = bitsOf v k 1 * 2 ^ k := by
    rw [Nat.and_two_pow, Nat.testBit_eq_decide_div_mod_eq, bitsOf, pow_one]
    rcases Nat.mod_two_eq_zero_or_one (v / 2 ^ k) with e | e <;> rw [e] <;> rfl
  rw [bit, putBits, Nat.zero_mod, Nat.zero_mul, Nat.add_zero]

theorem flagReg_inj {p m n : Nat} (_ : m < 1024) (_ : n < 1024) :
    (R.FLG_STATE p (m / 64) = R.FLG_STATE p (n / 64) ∧ m % 64 = n % 64 → m = n) ∧
      (R.FLG_POISON p (m / 64) = R.FLG_POISON p (n / 64) ∧ m % 64 = n % 64 → m = n) := by
  simp only [R.FLG_STATE, R.FLG_POISON]; omega

/-- A flag's bit of FLG_POISON lies apart from those of FLG_STATE. -/
theorem flagReg_apart {p m n : Nat} (_ : m < 1024) (_ : n < 1024) : R.FLG_POISON p (m / 64) ≠ R.FLG_STATE p (n / 64) := by
  simp only [R.FLG_STATE, R.FLG_POISON]; omega

theorem State.flag_setFlagBit_ne (s : State) {p m n : Nat} (b : Bool) (hm : m < 1024) (hn : n < 1024) (h : m ≠ n) :
    (s.setFlagBit p n b).flag p m = s.flag p m :=
  (State.bit_setBit _ _ _ _ (Nat.mod_lt _ (by decide)) (Nat.mod_lt _ (by decide))).trans
    (if_neg fun e => h ((flagReg_inj hm hn).1 e))

/-! ### Stores to flags (R189, R190, R193) -/

theorem targetOf_flag (p : Pos) (n : Fin 1024) : targetOf 3 (p.val * 2 ^ 13 + 8 * n.val) 8 = .flag p n := by
  have hp := p.isLt
  have hn := n.isLt
  show (if _ then Target.flag _ _ else .bad) = _
  rw [if_pos (by omega), show (p.val * 2 ^ 13 + 8 * n.val) / 2 ^ 13 = p.val by omega,
    show (p.val * 2 ^ 13 + 8 * n.val) / 8 % 1024 = n.val by omega]

/-- What FLG_MISUSE_REC names as the source of a store (R208): the host, a core here, or one of another node. -/
def State.storeSource (s : State) : Issuer → Nat
  | .packet _ _ src => if src = s.node then 2 else 3
  | _ => 2

/-- An admitted store to a flag's word lands on the flag, and is answered. -/
theorem exec_flagStore {iss : Issuer} {p : Pos} {n : Fin 1024} {x : Nat} {v : Word} {s : State} (due : (s.die (dieOf p)).now ≤ x)
    (unarmed : Unarmed s 0x1D) (opened : s.coreClosed p = false)
    (entitled : s.entitled iss (s.hostTen iss) aWrite 3 (p.val * 2 ^ 13 + 8 * n.val) 8 (.flag p n) v = true) :
    exec (.flagStore iss p n x v) s = .next (((s.storeFlag p n x (s.storeSource iss) v.toNat).emit
      (.answer iss (p.val * 2 ^ 13 + 8 * n.val) sOK 0)).clock (dieOf p) x) := by
  have ok := State.accessStatus_ok (targetOf_flag p n) (by simp) (by simp) unarmed entitled opened
  show s.atCycle p x (s.flagStoreIn iss p n x v) = _
  unfold State.flagStoreIn
  extract_lets off a
  have served : a = (sOK, s) := ok
  rw [served]
  cases iss <;> exact State.when_true _ _ (decide_eq_true due)

/-- A clear lands on a flag that is not poisoned, in a cycle in which nothing else has. -/
theorem State.landClear_alone {s : State} {p n x : Nat} (free : s.poisoned p n = false) (alone : s.landsAt p x = []) (src : Nat)
    (expl : Bool) : s.landClear p n x src expl =
      ((s.bump (R.FLG_CNT_CLEAR p) 1).setFlagBit p n false).noteLand p x n false expl := by
  have lands : (s.bump (R.FLG_CNT_CLEAR p) 1).landsAt p x = [] :=
    (State.landsAt_congr (by rw [State.core_bump]) (by rw [State.core_bump]) x).trans alone
  unfold State.landClear
  rw [if_neg (by rw [free]; decide)]
  simp only [lands, List.any_nil, Bool.false_eq_true, if_false]

theorem flagStore_lands (iss : Issuer) (p : Pos) (n : Fin 1024) (x : Nat) (v : Word) (s : State)
    (due : (s.die (dieOf p)).now ≤ x) (unarmed : Unarmed s 0x1D) (opened : s.coreClosed p = false)
    (free : s.poisoned p n = false)
    (entitled : s.entitled iss (s.hostTen iss) aWrite 3 (p.val * 2 ^ 13 + 8 * n.val) 8 (.flag p n) v = true) :
    ∃ t, exec (.flagStore iss p n x v) s = .next t ∧
      (v.toNat % 2 = 1 → t.flag p n = true) ∧
      (v.toNat % 2 = 0 → s.landsAt p x = [] → t.flag p n = false ∧
        t.out = s.out ++ [.answer iss (p.val * 2 ^ 13 + 8 * n.val) sOK 0] ∧
        RegsBut s t [R.FLG_STATE p (n / 64), R.FLG_CNT_CLEAR p] ∧
        (∀ m : Fin 1024, m ≠ n → t.flag p m = s.flag p m)) := by
  refine ⟨_, exec_flagStore due unarmed opened entitled, fun odd => ?sets, fun even alone => ?clears⟩
  case sets =>
    rw [State.storeFlag, if_pos odd]
    exact (State.flag_congr ((State.rd_clock ..).trans (State.rd_emit ..))).trans (State.flag_landSet free x _)
  case clears =>
    rw [State.storeFlag, if_neg (by omega), State.landClear_alone free alone]
    let u := (s.bump (R.FLG_CNT_CLEAR p) 1).setFlagBit p n false
    have flags (m : Nat) : ((((u.noteLand p x n false true).emit
        (.answer iss (p.val * 2 ^ 13 + 8 * n.val) sOK 0)).clock (dieOf p) x).flag p m) = u.flag p m :=
      (State.flag_congr ((State.rd_clock ..).trans (State.rd_emit ..))).trans (State.flag_noteLand ..)
    refine ⟨(flags n).trans (State.flag_setFlagBit_clear ..), ?_, ?_, fun m other => (flags m).trans ?_⟩
    · rw [State.clock_out]
      exact State.emit_out_of (by rw [State.noteLand, State.setCore_out, State.setFlagBit, State.setBit_out, State.bump_out]) _
    · exact ((((RegsBut.of_regs rfl).bump (by simp) 1).setF (by simp) _ _).same (u := u.noteLand p x n false true)
        (State.setCore_regs ..)).same ((State.clock_regs ..).trans (State.emit_regs ..))
    · refine (State.flag_setFlagBit_ne _ false m.isLt n.isLt fun e => other (Fin.ext e)).trans ?_
      exact State.flag_congr (State.rd_bump_ne _ _ _ _ (by simp only [R.FLG_STATE, R.FLG_CNT_CLEAR]; omega))

/-! ### Poisoned flags return (R206) -/

/-- A poisoned flag's bit leaves FLG_POISON and FLG_STATE. -/
theorem State.unpoison_one {s : State} {p j k : Nat} (h : s.bit (R.FLG_POISON p j) k = true) :
    s.unpoison p j (2 ^ k) = (s.setBit (R.FLG_POISON p j) k false).setBit (R.FLG_STATE p j) k false := by
  have back : (s.rd (R.FLG_POISON p j)).toNat &&& 2 ^ k = 2 ^ k := by
    have one : (s.rd (R.FLG_POISON p j)).toNat / 2 ^ k % 2 = 1 := by
      unfold State.bit bitOf at h; simpa using h
    rw [Nat.and_two_pow, Nat.testBit_eq_decide_div_mod_eq, one]
    simp
  unfold State.unpoison
  dsimp only
  conv_lhs => rw [back]
  rw [sub_and_two_pow, show (s.rd (R.FLG_POISON p j)).toNat - 2 ^ k = putBits (s.rd (R.FLG_POISON p j)).toNat k 1 0 by
    rw [← sub_and_two_pow, back]]
  rfl

theorem flagUnpoison_returns (iss : Issuer) (p : Pos) (n : Fin 1024) (x : Nat) (s : State) (due : (s.die (dieOf p)).now ≤ x)
    (poisoned : s.poisoned p n = true)
    (admitted : Admitted s iss (R.FLG_POISON p (n / 64)) (BitVec.ofNat 64 (2 ^ (n.val % 64)))) :
    ∃ t, exec (.flagUnpoison iss p n x) s = .next t ∧ t.poisoned p n = false ∧ t.flag p n = false ∧
      (∀ m : Fin 1024, m ≠ n → t.poisoned p m = s.poisoned p m ∧ t.flag p m = s.flag p m) ∧
      RegsBut s t [R.FLG_POISON p (n / 64), R.FLG_STATE p (n / 64)] ∧ ClockedTo s t (dieOf p) x ∧
      t = { s with regs := t.regs, dies := t.dies, out := s.out ++ [.answer iss (R.FLG_POISON p (n / 64)) sOK 0] } := by
  have ran : exec (.flagUnpoison iss p n x) s = .next (((s.unpoison p (n / 64) (2 ^ (n.val % 64))).emit
      (.answer iss (R.FLG_POISON p (n / 64)) sOK 0)).clock (dieOf p) x) := by
    show s.atCycle p x (s.ctlIn iss _ 8 _ _) = _
    rw [State.ctlIn_admitted admitted]
    exact State.when_true _ _ (decide_eq_true due)
  rw [State.unpoison_one poisoned] at ran
  have lt (m : Nat) : m % 64 < 64 := Nat.mod_lt _ (by decide)
  have bit (a i : Nat) (hi : i < 64) : (((((s.setBit (R.FLG_POISON p (n / 64)) (n % 64) false).setBit (R.FLG_STATE p (n / 64))
      (n % 64) false).emit (.answer iss (R.FLG_POISON p (n / 64)) sOK 0)).clock (dieOf p) x).bit a i) =
      if a = R.FLG_STATE p (n / 64) ∧ i = n % 64 then false
      else if a = R.FLG_POISON p (n / 64) ∧ i = n % 64 then false else s.bit a i := by
    rw [State.bit_clock, State.bit_emit, State.bit_setBit _ _ _ _ (lt n) hi, State.bit_setBit _ _ _ _ (lt n) hi]
  refine ⟨_, ran, ?_, ?_, fun m other => ⟨?_, ?_⟩, ?_, State.clockedTo_of_dies rfl _ _, ?_⟩
  · exact (bit _ _ (lt n)).trans (by rw [if_neg fun e => flagReg_apart n.isLt n.isLt e.1, if_pos ⟨rfl, rfl⟩])
  · exact (bit _ _ (lt n)).trans (if_pos ⟨rfl, rfl⟩)
  · refine (bit _ _ (lt m)).trans ?_
    rw [if_neg fun e => flagReg_apart m.isLt n.isLt e.1, if_neg fun e => other (Fin.ext ((flagReg_inj m.isLt n.isLt).2 e))]
    rfl
  · refine (bit _ _ (lt m)).trans ?_
    rw [if_neg fun e => other (Fin.ext ((flagReg_inj m.isLt n.isLt).1 e)),
      if_neg fun e => flagReg_apart n.isLt m.isLt e.1.symm]
    rfl
  · exact (((RegsBut.of_regs rfl).setF (by simp) _ _).setF (by simp) _ _).same
      ((State.clock_regs ..).trans (State.emit_regs ..))
  · rw [State.clock_eq]; rfl

/-! ### Signals (R199) -/

theorem RegsBut.setBit {s t : State} {l : List Nat} (h : RegsBut s t l) {a : Nat} (m : a ∈ l) (i : Nat) (b : Bool) :
    RegsBut s (t.setBit a i b) l := h.setF m _ _

/-- The registers a set writes where it lands on a clear flag: the flag, its race mark and their counts. -/
def setRegs (p n : Nat) : List Nat :=
  [R.FLG_STATE p (n / 64), R.FLG_CNT_SET p, R.FLG_CLR_RACE p (n / 64), R.FLG_CNT_CLR_RACE p]

theorem inj_setRegs (k p n : Nat) (h : k < 256) : R.INJ_P_CTL k ∉ setRegs p n := by
  simp only [setRegs, List.mem_cons, List.not_mem_nil, or_false, R.INJ_P_CTL, R.FLG_STATE, R.FLG_CNT_SET, R.FLG_CLR_RACE,
    R.FLG_CNT_CLR_RACE, Blk.base, coreBase]
  omega

section
variable {s : State} {p n : Nat} (x src : Nat) (free : s.poisoned p n = false) (clear : s.flag p n = false)
  (unarmed : Unarmed s 0x22)
include free clear unarmed

/-- A set lands on a clear flag: it is counted, a race with a clear of the same cycle may be kept, and the flag is set. -/
theorem State.landSet_shape : ∃ u : State, RegsBut s u (setRegs p n) ∧ u.ctxs = s.ctxs ∧
    s.landSet p n x src = (u.setFlagBit p n true).noteLand p x n true false := by
  unfold State.landSet
  rw [if_neg (by rw [free]; decide)]
  extract_lets u lands clr v inj w
  have counted : RegsBut s u (setRegs p n) := (RegsBut.of_regs rfl).bump (by simp [setRegs]) 1
  have still : u.flag p n = false :=
    (State.flag_congr (State.rd_bump_ne _ _ _ _ (by simp only [R.FLG_STATE, R.FLG_CNT_SET]; omega))).trans clear
  have raced : RegsBut s v (setRegs p n) ∧ v.ctxs = s.ctxs := by
    have count : u.ctxs = s.ctxs := State.bump_ctxs ..
    unfold v
    clear_value clr
    rcases clr with _ | ⟨_, _, expl⟩
    · simp only [still, Bool.false_and, Bool.false_eq_true, if_false]
      exact ⟨counted, count⟩
    · cases expl
      · simp only [Bool.false_eq_true, if_false]
        exact ⟨counted, count⟩
      · simp only [if_true, State.flagRace]
        exact ⟨(counted.setBit (by simp [setRegs]) _ _).bump (by simp [setRegs]) 1,
          by rw [State.bump_ctxs, State.setBit_ctxs, count]⟩
  refine ⟨v, raced.1, raced.2, ?_⟩
  have quiet : v.f inj F.INJ_P_CTL_ARM = 0 := (State.f_congr (raced.1 _ (inj_setRegs 0x22 p n (by decide))) _).trans unarmed
  unfold w
  rw [if_neg fun h => absurd (quiet.symm.trans h.1) (by decide)]

theorem State.landSet_clear : (s.landSet p n x src).ctxs = s.ctxs ∧ RegsBut s (s.landSet p n x src) (setRegs p n) := by
  obtain ⟨u, regs, ctxs, landed⟩ := State.landSet_shape x src free clear unarmed
  rw [landed]
  exact ⟨(State.setCore_ctxs ..).trans ((State.setBit_ctxs ..).trans ctxs),
    (regs.setBit (by simp [setRegs]) _ _).same (State.setCore_regs ..)⟩

end

theorem signalApply_sets (x i : Nat) (g : Signal) (s : State) (signal : s.signalAt x i = some g) (due : g.due = true)
    (_ : g.pos < 256) (_ : g.flag < 1024) (free : s.poisoned g.pos g.flag = false) :
    ∃ t, exec (.signalApply x i) s = .next t ∧ t.flag g.pos g.flag = true ∧
      (s.flag g.pos g.flag = false → Unarmed s 0x22 → t.ctxs = { s.ctxs with sigs := s.ctxs.sigs.erase g } ∧
        RegsBut s t [R.FLG_STATE g.pos (g.flag / 64), R.FLG_CNT_SET g.pos, R.FLG_CLR_RACE g.pos (g.flag / 64),
          R.FLG_CNT_CLR_RACE g.pos]) := by
  have ran : exec (.signalApply x i) s = .next ((s.dropSignal g).landSet g.pos g.flag (s.dieNow g.pos) 1) := by
    show execSignalApply x i s = _
    unfold execSignalApply
    rw [signal]
    exact State.when_true _ _ due
  exact ⟨_, ran, State.flag_landSet (s := s.dropSignal g) free _ _, fun clear unarmed =>
    State.landSet_clear (s := s.dropSignal g) _ _ free clear unarmed⟩

/-! ### Forecasts (R175) -/

/-- The forecast that ends first, of those that end no later. -/
theorem forecast_first (f : Forecast) (l : List Forecast) :
    let m := l.foldl (fun (m : Forecast) q => if q.stop < m.stop then q else m) f
    m ∈ f :: l ∧ ∀ q ∈ f :: l, m.stop ≤ q.stop := by
  induction l generalizing f with
  | nil => simp
  | cons a l ih =>
    obtain ⟨mem, least⟩ := ih (if a.stop < f.stop then a else f)
    refine ⟨?_, ?_⟩
    · rw [List.foldl_cons]
      rcases List.mem_cons.1 mem with e | e
      · rw [e]; split <;> simp
      · exact List.mem_cons_of_mem _ (List.mem_cons_of_mem _ e)
    · rw [List.foldl_cons]
      intro q hq
      have head := least _ (List.mem_cons_self ..)
      rcases List.mem_cons.1 hq with rfl | hq
      · exact head.trans (by split <;> omega)
      rcases List.mem_cons.1 hq with rfl | hq
      · exact head.trans (by split <;> omega)
      · exact least q (List.mem_cons_of_mem _ hq)

/-- The forecasts of a die that are held on when another comes. -/
def keptForecasts (l : List Forecast) : List Forecast :=
  if l.length < 8 then l
  else match l with
    | [] => []
    | f :: fs => l.erase (fs.foldl (fun (m : Forecast) q => if q.stop < m.stop then q else m) f)

theorem keptForecasts_room {l : List Forecast} (room : l.length < 8) : keptForecasts l = l := if_pos room

theorem keptForecasts_full {l : List Forecast} (full : 8 ≤ l.length) {f : Forecast} (hf : f ∈ l)
    (first : ∀ q ∈ l, q ≠ f → f.stop < q.stop) : keptForecasts l = l.erase f := by
  unfold keptForecasts
  rw [if_neg (Nat.not_lt.2 full)]
  cases l with
  | nil => cases hf
  | cons a l =>
    obtain ⟨mem, least⟩ := forecast_first a l
    have same : l.foldl (fun (m : Forecast) q => if q.stop < m.stop then q else m) a = f := by
      by_contra other
      have := first _ mem other
      have := least f hf
      omega
    show (a :: l).erase _ = _
    rw [same]

/-- A die's forecasts change, and its bucket is cut to the ceiling that follows. -/
theorem State.forecastsCut (s : State) (d : Nat) (l : List Forecast) :
    let t := (s.setDie d { s.die d with forecasts := l }).cutBucket d
    t = { s with dies := t.dies } ∧ (∀ j, j ≠ d → t.die j = s.die j) ∧
      (t.die d).bucket = min (s.die d).bucket ((t.ceilingOf d : Nat) : Int) ∧ (t.die d).forecasts = l := by
  refine ⟨?_, fun j n => ?_, ?_, ?_⟩
  · rw [State.cutBucket_eq, State.setDie]
  · rw [State.die_cutBucket_ne _ _ _ n, State.die_setDie_ne _ _ _ _ n]
  · rw [State.ceilingOf_cutBucket, State.die_cutBucket, State.die_setDie_self]
  · rw [State.die_cutBucket, State.die_setDie_self]

theorem heatForecast_holds (p : Pos) (r : Bool) (mj lead len : Nat) (s : State) (ok : forecastOk r mj lead len = true) :
    let d := dieOf p
    let l := (s.die d).forecasts
    let e : Forecast := ⟨p, mj, s.time + ticksUs lead, s.time + ticksUs lead + ticksUs len⟩
    ∃ t, exec (.heatForecast p r mj lead len) s = .next t ∧ t = { s with dies := t.dies } ∧
      (∀ j, j ≠ d → t.die j = s.die j) ∧
      (t.die d).bucket = min (s.die d).bucket ((t.ceilingOf d : Nat) : Int) ∧
      (r = true → (t.die d).forecasts = l.filter fun q => q.core != p.val) ∧
      (r = false → l.length < 8 → (t.die d).forecasts = l ++ [e]) ∧
      (r = false → 8 ≤ l.length → ∀ f ∈ l, (∀ q ∈ l, q ≠ f → f.stop < q.stop) → (t.die d).forecasts = l.erase f ++ [e]) := by
  intro d l e
  have ran : exec (.heatForecast p r mj lead len) s = .next ((s.setDie d { s.die d with
      forecasts := if r then l.filter fun q => q.core != p.val else keptForecasts l ++ [e] }).cutBucket d) := by
    refine (State.whenWf_true _ _ ok rfl).trans ?_
    cases r <;> rfl
  obtain ⟨rest, others, bucket, forecasts⟩ := s.forecastsCut d
    (if r then l.filter fun q => q.core != p.val else keptForecasts l ++ [e])
  refine ⟨_, ran, rest, others, bucket, fun remove => ?_, fun add room => ?_, fun add full f hf first => ?_⟩
  · rw [forecasts, if_pos remove]
  · rw [forecasts, add, keptForecasts_room room, if_neg (by decide)]
  · rw [forecasts, add, keptForecasts_full full hf first, if_neg (by decide)]

theorem forecastLapse_drops (d : Die) (s : State) (lapsed : ∃ e ∈ (s.die d).forecasts, e.stop ≤ s.time) :
    ∃ t, exec (.forecastLapse d) s = .next t ∧ t = { s with dies := t.dies } ∧
      (t.die d).forecasts = ((s.die d).forecasts.filter fun e => decide (s.time < e.stop)) ∧
      (t.die d).bucket = min (s.die d).bucket ((t.ceilingOf d : Nat) : Int) := by
  obtain ⟨e, he, past⟩ := lapsed
  obtain ⟨rest, _, bucket, forecasts⟩ := s.forecastsCut d ((s.die d).forecasts.filter fun e => decide (s.time < e.stop))
  exact ⟨_, State.when_true _ _ (List.any_eq_true.2 ⟨e, he, decide_eq_true past⟩), rest, forecasts, bucket⟩

/-- Settles O33: watchdogs, stores, returns, signals, forecasts and lapses, each by its part. -/
theorem watchdogsFlagsAndForecasts : Obligations.WatchdogsFlagsAndForecasts := by
  unfold Obligations.WatchdogsFlagsAndForecasts
  exact ⟨gateWatchdog_expires, flagStore_lands, flagUnpoison_returns, signalApply_sets, heatForecast_holds, forecastLapse_drops⟩

/-! ### Registers that alone change -/

theorem RegsBut.trans {s t u : State} {l : List Nat} (h : RegsBut s t l) (k : RegsBut t u l) : RegsBut s u l :=
  fun a n => (k a n).trans (h a n)

theorem Kept.weaken {m n : Nat} {s t : State} (h : Kept m s t) (k : Sub m n) : Kept n s t :=
  ⟨h.pending, h.memory, h.free, h.out, h.owners, h.same.weaken k⟩

/-- A state from which nothing but registers differ. -/
theorem Kept.regsOnly {s t : State} (h : Kept 0x10 s t) : t = { s with regs := t.regs } := by
  conv_lhs => rw [(h.weaken (n := 0x6010) ⟨by decide⟩).regsCoresDies, h.same .dies rfl, h.same .cores rfl]

/-! ### Operating points (R173, R174) -/

section
variable {s : State} {d : Nat}

theorem State.oppTarget_congr {t : State} (run : (t.die d).run = (s.die d).run) (last : (t.die d).lastOpp = (s.die d).lastOpp)
    (forced : (t.die d).forced = (s.die d).forced) (throttle : (t.die d).throttle = (s.die d).throttle)
    (ctl : t.rd (R.CLK_CTL d) = s.rd (R.CLK_CTL d)) (pins : t.pins = s.pins) : t.oppTarget d = s.oppTarget d := by
  simp only [State.oppTarget, run, last, forced, throttle, State.f_congr ctl, pins]

theorem State.die_stepTo (opp : Nat) : (s.stepTo d opp).die d = { s.die d with lastStep := some s.time } := by
  rw [State.stepTo, State.die_setF, State.die_setDie_self]

/-- A step to an operating point notes its time, and moves no target. -/
theorem State.oppTarget_stepTo (opp : Nat) : (s.stepTo d opp).oppTarget d = s.oppTarget d := by
  have die := s.die_stepTo (d := d) opp
  refine State.oppTarget_congr (by rw [die]) (by rw [die]) (by rw [die]) (by rw [die]) ?_
    (by rw [State.stepTo, State.setF_pins, State.setDie_pins])
  rw [State.stepTo, State.rd_setF_ne _ _ _ _ _ (by simp only [R.CLK_CTL, R.CLK_STAT]; omega), State.rd_setDie]

theorem State.opp_stepTo {opp : Nat} (fits : opp < 8) : (s.stepTo d opp).f (R.CLK_STAT d) F.CLK_STAT_OPP_NOW = opp :=
  State.f_setF_of_lt _ _ _ _ (by decide) fits

theorem State.regsBut_stepTo (opp : Nat) : RegsBut s (s.stepTo d opp) [R.CLK_STAT d] :=
  (RegsBut.of_regs (t := s.setDie d _) (State.setDie_regs ..)).setF (by simp) _ _

end

/-- The throttle level is set as R174 has it. -/
def State.throttled (s : State) (d : Nat) : State := s.setDie d { s.die d with throttle := s.throttleNext d }

/-- The index a die moves to from `now` with a target. -/
def oppToward (target now : Nat) : Nat := if target < now then now - 1 else if now < target then now + 1 else now

/-- Outside a pinned heat an OPP_STEP sets the throttle level, and steps one index where the target is another. -/
theorem State.doOppStep_unpinned {s : State} {d : Nat} (free : ∀ r, (s.die d).run = some r → r.pin = false) :
    let now := s.f (R.CLK_STAT d) F.CLK_STAT_OPP_NOW
    let u := s.throttled d
    s.doOppStep d = if u.oppTarget d = now then u else u.stepTo d (oppToward (u.oppTarget d) now) := by
  intro now u
  have opp : u.f (R.CLK_STAT d) F.CLK_STAT_OPP_NOW = now := State.f_setDie ..
  have run : (u.die d).run = (s.die d).run := by rw [show u.die d = _ from State.die_setDie_self ..]
  have rest : s.doOppStep d = if u.oppTarget d = now then u else if u.oppTarget d < now then u.stepTo d (now - 1)
      else match ((u.stepTo d (now + 1)).die d).run with
        | some r => if r.pin && decide (r.opp < now + 1) then (u.stepTo d (now + 1)).forceStep d (now + 1) r false
          else u.stepTo d (now + 1)
        | none => u.stepTo d (now + 1) := by
    rw [← opp]; rfl
  have plain : ((u.stepTo d (now + 1)).die d).run = (s.die d).run := by rw [State.die_stepTo]; exact run
  rw [rest, plain]
  unfold oppToward
  split
  · rfl
  split
  · rfl
  rw [if_pos (by omega)]
  split
  · rename_i r e; rw [free r e]; rfl
  · rfl

theorem oppStep_moves (d : Die) (s : State) (up : s.dieDown d = false) (may : s.mayStep d = true)
    (small : s.f (R.CLK_STAT d) F.CLK_STAT_OPP_NOW ≤ 5) (free : ∀ r, (s.die d).run = some r → r.pin = false)
    (due : s.throttleNext d ≠ (s.die d).throttle ∨ s.oppTarget d ≠ s.f (R.CLK_STAT d) F.CLK_STAT_OPP_NOW) :
    let now := s.f (R.CLK_STAT d) F.CLK_STAT_OPP_NOW
    ∃ t, exec (.oppStep d) s = .next t ∧ (t.die d).throttle = s.throttleNext d ∧ RegsBut s t [R.CLK_STAT d] ∧
      t.f (R.CLK_STAT d) F.CLK_STAT_OPP_NOW =
        (if t.oppTarget d < now then now - 1 else if now < t.oppTarget d then now + 1 else now) ∧
      (t.oppTarget d ≠ now → (t.die d).lastStep = some s.time) ∧ t = { s with regs := t.regs, dies := t.dies } := by
  intro now
  have ran : exec (.oppStep d) s = .next (s.doOppStep d) := State.when_true _ _ (by simpa [up, may] using due)
  have die : (s.throttled d).die d = { s.die d with throttle := s.throttleNext d } := State.die_setDie_self ..
  have opp : (s.throttled d).f (R.CLK_STAT d) F.CLK_STAT_OPP_NOW = now := State.f_setDie ..
  refine ⟨_, ran, ?_⟩
  rw [State.doOppStep_unpinned free]
  split
  · rename_i reached
    refine ⟨by rw [die], .of_regs (State.setDie_regs ..), ?_, fun n => absurd reached n, rfl⟩
    rw [opp, reached, if_neg (lt_irrefl _), if_neg (lt_irrefl _)]
  · rename_i other
    refine ⟨?_, (RegsBut.of_regs (t := s.throttled d) (State.setDie_regs ..)).trans (State.regsBut_stepTo _), ?_,
      fun _ => ?_, by rw [State.stepTo, State.setF_eq, State.throttled, State.setDie, State.setDie]⟩
    · rw [State.die_stepTo, die]
    · rw [State.oppTarget_stepTo]
      refine State.opp_stepTo ?_
      unfold oppToward
      split
      · omega
      split <;> omega
    · rw [State.die_stepTo]; rfl

/-! ### Droop (R183) -/

theorem clkRegs_apart (d : Nat) : R.CLK_STAT d ≠ R.CLK_CNT_DROOP d ∧ R.CLK_STAT d ≠ R.CLK_CNT_STRETCH_PS d ∧
    R.CLK_STAT d ≠ R.CLK_CNT_PLL_STOPS d ∧ R.CLK_STAT d ≠ R.CLK_CNT_RELOCK_NS d := by
  simp only [R.CLK_STAT, R.CLK_CNT_DROOP, R.CLK_CNT_STRETCH_PS, R.CLK_CNT_PLL_STOPS, R.CLK_CNT_RELOCK_NS]; omega

theorem droopTrip_stretches (d : Die) (cl : Fin 4) (s : State) (up : s.dieDown d = false) :
    ∃ t, exec (.droopTrip d cl) s = .next t ∧ t.f (R.CLK_STAT d) F.CLK_STAT_STRETCH = 1 ∧
      t.rd (R.CLK_CNT_DROOP d) = s.rd (R.CLK_CNT_DROOP d) + 1 ∧ RegsBut s t [R.CLK_STAT d, R.CLK_CNT_DROOP d] := by
  have apart := (clkRegs_apart d).1
  refine ⟨_, State.when_true _ _ (by rw [up]; rfl), ?_, ?_, ?_⟩
  · rw [State.f_bump_ne _ _ _ _ _ apart, State.f_setF_of_lt _ _ _ _ (by decide) (by decide)]
  · rw [State.rd_bump_self, State.rd_setF_ne _ _ _ _ _ apart.symm, State.rd_setDie]; rfl
  · exact ((RegsBut.of_regs (t := s.setDie d _) (State.setDie_regs ..)).setF (by simp) _ _).bump (by simp) _

theorem droopEnd_counts (d : Die) (n : Nat) (s : State) (stretched : s.f (R.CLK_STAT d) F.CLK_STAT_STRETCH = 1)
    (long : 32 ≤ n) :
    ∃ t, exec (.droopEnd d n) s = .next t ∧ t.f (R.CLK_STAT d) F.CLK_STAT_STRETCH = 0 ∧
      t.rd (R.CLK_CNT_STRETCH_PS d) = s.rd (R.CLK_CNT_STRETCH_PS d) + BitVec.ofNat 64 (n * 1000000 / s.mhz d) ∧
      RegsBut s t [R.CLK_STAT d, R.CLK_CNT_STRETCH_PS d] := by
  have apart := (clkRegs_apart d).2.1
  refine ⟨_, State.when_true _ _ (by simp [stretched, long]), ?_, ?_, ?_⟩
  · rw [State.f_bump_ne _ _ _ _ _ apart, State.f_setF_of_lt _ _ _ _ (by decide) (by decide)]
  · rw [State.rd_bump_self, State.rd_setF_ne _ _ _ _ _ apart.symm, State.rd_setDie]
  · exact ((RegsBut.of_regs (t := s.setDie d _) (State.setDie_regs ..)).setF (by simp) _ _).bump (by simp) _

/-- A protective step down of a die that may step, with no heat on it. -/
theorem State.stepDown_idle {s : State} {d : Nat} (idle : (s.die d).run = none) (may : s.mayStep d = true)
    (room : s.f (R.CLK_STAT d) F.CLK_STAT_OPP_NOW < 5) (inj : Bool) :
    let n := s.f (R.CLK_STAT d) F.CLK_STAT_OPP_NOW + 1
    s.stepDown d inj = (s.stepTo d n).setDie d { (s.stepTo d n).die d with throttle := max ((s.stepTo d n).die d).throttle n } := by
  intro n
  have run : ((s.stepTo d (s.f (R.CLK_STAT d) F.CLK_STAT_OPP_NOW + 1)).die d).run = none := by rw [State.die_stepTo]; exact idle
  unfold State.stepDown
  rw [if_neg (by rw [may]; simp; omega)]
  simp only [n, run]

theorem clkEvent_apart (d : Nat) : R.CLK_EVENT d ≠ R.CLK_STAT d := by
  simp only [R.CLK_STAT, R.CLK_EVENT]; omega

theorem droopSustained_stepsDown (d : Die) (us : Nat) (s : State) (up : s.dieDown d = false)
    (stretched : s.f (R.CLK_STAT d) F.CLK_STAT_STRETCH = 1) (long : 100 < us) (unarmed : Unarmed s 0x39)
    (may : s.mayStep d = true) (room : s.f (R.CLK_STAT d) F.CLK_STAT_OPP_NOW < 5) (idle : (s.die d).run = none) :
    ∃ t, exec (.droopSustained d us) s = .next t ∧ t.f (R.CLK_EVENT d) F.CLK_EVENT_DROOP_SUSTAINED = 1 ∧
      t.f (R.CLK_STAT d) F.CLK_STAT_OPP_NOW = s.f (R.CLK_STAT d) F.CLK_STAT_OPP_NOW + 1 := by
  let o := occ 0x39 kDie d us ((s.die d).droop.getD 0)
  let u := (s.setF (R.CLK_EVENT d) F.CLK_EVENT_DROOP_SUSTAINED 1).record o
  have ran : exec (.droopSustained d us) s = .next (u.stepDown d) := by
    refine (State.when_true _ _ (by simp [up, stretched, long])).trans ?_
    unfold State.doDroopSustained
    rw [State.inject_unarmed unarmed]
  have bare : BareUnit o.kind := .inr (.inl rfl)
  have regs : Reported (s.setF (R.CLK_EVENT d) F.CLK_EVENT_DROOP_SUSTAINED 1) u := (Reported.refl _).record bare _ _
  have die : u.die d = s.die d :=
    ((RunsStopped.refl _).record (.inr bare) _ _).idle (by rw [State.die_setF]; exact idle) |>.trans (State.die_setF ..)
  have opp : u.f (R.CLK_STAT d) F.CLK_STAT_OPP_NOW = s.f (R.CLK_STAT d) F.CLK_STAT_OPP_NOW := by
    rw [State.f_congr (regs.rd _ (clkStat_quiet d.isLt).1), State.f_setF_ne _ _ _ _ _ _ (clkEvent_apart d).symm]
  have time : u.time = s.time := ((State.record_reports _ o 7 1).same .time rfl).trans (State.setF_time ..)
  have mayU : u.mayStep d = true := by unfold State.mayStep at may ⊢; rw [die, time]; exact may
  rw [State.stepDown_idle (by rw [die]; exact idle) mayU (by rw [opp]; exact room)] at ran
  refine ⟨_, ran, ?_, ?_⟩
  · rw [State.f_setDie, State.stepTo, State.f_setF_ne _ _ _ _ _ _ (clkEvent_apart d), State.f_setDie,
      State.f_congr (regs.rd _ (clkStat_quiet d.isLt).2), State.f_setF_of_lt _ _ _ _ (by decide) (by decide)]
  · rw [State.f_setDie, State.opp_stepTo (by omega), opp]

/-! ### The PLL (R187) -/

/-- CLUSTER states are a field of CLK_STAT, apart from its other bits. -/
theorem State.cluster_setF_apart (s : State) (d : Nat) {g : Nat × Nat} (v : Nat) (low : g.1 + g.2 ≤ 12) {c : Nat} (hc : c < 4) :
    (s.setF (R.CLK_STAT d) g v).cluster d c = s.cluster d c := by
  rw [State.cluster_eq _ _ hc, State.cluster_eq _ _ hc, State.f_setF_apart _ _ _ _ _ (by simp only; omega) (by simp only; omega)]

/-- Every ACTIVE cluster of a die becomes GATED: as at the start of a heat that uses none. -/
theorem State.gateClusters_eq (s : State) (d : Nat) : (List.range 4).foldl (fun (s : State) c =>
    if s.cluster d c = 0 then s.setCluster d c 1 else s) s = s.startClusters d [] := rfl

/-- Gating clusters leaves the low fields of CLK_STAT. -/
theorem State.f_startClusters (s : State) (d : Nat) (l : List Nat) {g : Nat × Nat} (low : g.1 + g.2 ≤ 12) :
    (s.startClusters d l).f (R.CLK_STAT d) g = s.f (R.CLK_STAT d) g :=
  List.foldlRecOn (motive := fun u : State => u.f (R.CLK_STAT d) g = s.f (R.CLK_STAT d) g) _ _ rfl fun u hu c _ => by
    have set (v : Nat) : (u.setCluster d c v).f (R.CLK_STAT d) g = s.f (R.CLK_STAT d) g :=
      (State.f_setF_apart _ _ _ _ _ (by simp only; omega) (by omega)).trans hu
    unfold State.startCluster
    split
    · exact set 0
    split
    · exact set 1
    · exact hu

theorem pllStop_gates (d : Die) (s : State) (up : s.dieDown d = false) (runs : s.f (R.CLK_STAT d) F.CLK_STAT_STOPPED = 0)
    (idle : s.heatPending d = false) (long : (s.die d).idleFrom + ticksUs 50 ≤ s.time) :
    ∃ t, exec (.pllStop d) s = .next t ∧ t.f (R.CLK_STAT d) F.CLK_STAT_STOPPED = 1 ∧
      t.f (R.CLK_STAT d) F.CLK_STAT_LOCKED = 0 ∧
      (∀ c : Fin 4, t.cluster d c = if s.cluster d c = 0 then 1 else s.cluster d c) ∧
      t.rd (R.CLK_CNT_PLL_STOPS d) = s.rd (R.CLK_CNT_PLL_STOPS d) + 1 ∧ RegsBut s t [R.CLK_STAT d, R.CLK_CNT_PLL_STOPS d] ∧
      t = { s with regs := t.regs } := by
  have apart := (clkRegs_apart d).2.2.1
  let u := (s.setF (R.CLK_STAT d) F.CLK_STAT_STOPPED 1).setF (R.CLK_STAT d) F.CLK_STAT_LOCKED 0
  have full := Sub.refl 0x10
  have start : Kept 0x10 s u := State.setF_kept (State.setF_kept (.refl _ s) ..) ..
  have ran : exec (.pllStop d) s = .next ((u.startClusters d []).bump (R.CLK_CNT_PLL_STOPS d) 1) :=
    State.when_true _ _ (by simp [up, runs, idle, long])
  have low (g : Nat × Nat) (h : g.1 + g.2 ≤ 12) :
      ((u.startClusters d []).bump (R.CLK_CNT_PLL_STOPS d) 1).f (R.CLK_STAT d) g = u.f (R.CLK_STAT d) g :=
    (State.f_bump_ne _ _ _ _ _ apart).trans (u.f_startClusters d [] h)
  refine ⟨_, ran, ?_, ?_, fun c => ?_, ?_, ?_, ?_⟩
  · rw [low _ (by decide), State.f_setF_apart _ _ _ _ _ (by decide) (by decide),
      State.f_setF_of_lt _ _ _ _ (by decide) (by decide)]
  · rw [low _ (by decide), State.f_setF_of_lt _ _ _ _ (by decide) (by decide)]
  · rw [State.cluster_congr (State.rd_bump_ne _ _ _ _ apart), State.startClusters,
      State.startClusters_cluster u d [] _ List.nodup_range (fun c hc => List.mem_range.1 hc) c.isLt,
      if_pos (List.mem_range.2 c.isLt), State.cluster_setF_apart _ _ _ (by decide) c.isLt,
      State.cluster_setF_apart _ _ _ (by decide) c.isLt]
    rfl
  · rw [State.rd_bump_self, u.startClusters_regsBut d [] _ (by simpa using apart.symm), State.rd_setF_ne _ _ _ _ _ apart.symm,
      State.rd_setF_ne _ _ _ _ _ apart.symm]
    rfl
  · exact RegsBut.bump (t := u.startClusters d []) (fun a n => (u.startClusters_regsBut d [] a fun m => n (by simp_all)).trans
      (((RegsBut.of_regs (s := s) rfl).setF (by simp) _ _).setF (by simp) _ _ a n)) (by simp) _
  · exact (State.bump_kept (start.trans (u.startClusters_kept d [])) _ _ full).regsOnly

theorem pllRelock_locks (d : Die) (ns : Nat) (s : State) (up : s.dieDown d = false)
    (unlocked : s.f (R.CLK_STAT d) F.CLK_STAT_LOCKED = 0) (clock : s.pins.refclk = true) (soon : ns ≤ 15000)
    (nobody : ∀ w ∈ s.waits, w.die ≠ d.val) :
    ∃ t, exec (.pllRelock d ns) s = .next t ∧ t.f (R.CLK_STAT d) F.CLK_STAT_STOPPED = 0 ∧
      t.f (R.CLK_STAT d) F.CLK_STAT_LOCKED = 1 ∧ t.die d = { s.die d with idleFrom := s.time } ∧
      t.rd (R.CLK_CNT_RELOCK_NS d) = s.rd (R.CLK_CNT_RELOCK_NS d) + BitVec.ofNat 64 ns ∧
      RegsBut s t [R.CLK_STAT d, R.CLK_CNT_RELOCK_NS d] ∧ t = { s with regs := t.regs, dies := t.dies } := by
  have apart := (clkRegs_apart d).2.2.2
  let u := ((s.setF (R.CLK_STAT d) F.CLK_STAT_STOPPED 0).setF (R.CLK_STAT d) F.CLK_STAT_LOCKED 1).bump (R.CLK_CNT_RELOCK_NS d) ns
  have full := Sub.refl 0x10
  have rest : u = { s with regs := u.regs } :=
    (State.bump_kept (State.setF_kept (State.setF_kept (.refl _ s) ..) ..) _ _ full).regsOnly
  have same : (u.setDie d { u.die d with idleFrom := u.time }).waits = s.waits := by rw [State.setDie_waits, rest]
  have ran : exec (.pllRelock d ns) s = .next (u.setDie d { u.die d with idleFrom := u.time }) := by
    refine (State.when_true _ _ (by simp [up, unlocked, clock, soon])).trans ?_
    exact congrArg _ (State.serveWaits_none (by rw [same]; exact nobody))
  have low (g : Nat × Nat) : (u.setDie d { u.die d with idleFrom := u.time }).f (R.CLK_STAT d) g =
      ((s.setF (R.CLK_STAT d) F.CLK_STAT_STOPPED 0).setF (R.CLK_STAT d) F.CLK_STAT_LOCKED 1).f (R.CLK_STAT d) g :=
    (State.f_setDie ..).trans (State.f_bump_ne _ _ _ _ _ apart)
  refine ⟨_, ran, ?_, ?_, ?_, ?_, ?_, ?_⟩
  · rw [low, State.f_setF_apart _ _ _ _ _ (by decide) (by decide), State.f_setF_of_lt _ _ _ _ (by decide) (by decide)]
  · rw [low, State.f_setF_of_lt _ _ _ _ (by decide) (by decide)]
  · rw [State.die_setDie_self, rest]; rfl
  · rw [State.rd_setDie, State.rd_bump_self, State.rd_setF_ne _ _ _ _ _ apart.symm, State.rd_setF_ne _ _ _ _ _ apart.symm]
  · exact ((((RegsBut.of_regs (s := s) rfl).setF (by simp) _ _).setF (by simp) _ _).bump (by simp) _).same (State.setDie_regs ..)
  · rw [State.setDie, rest]

/-- Settles O36: steps, droop and the PLL, each by its part. -/
theorem operatingPointsMove : Obligations.OperatingPointsMove := by
  unfold Obligations.OperatingPointsMove
  exact ⟨oppStep_moves, droopTrip_stretches, droopEnd_counts, droopSustained_stepsDown, pllStop_gates, pllRelock_locks⟩

/-! ### Samples of a die's sensors (R184) -/

theorem foldl_max_le (l : List Nat) (a : Nat) : a ≤ l.foldl max a ∧ ∀ v ∈ l, v ≤ l.foldl max a := by
  induction l generalizing a with
  | nil => simp
  | cons b l ih =>
    obtain ⟨start, all⟩ := ih (max a b)
    rw [List.foldl_cons]
    refine ⟨(le_max_left ..).trans start, fun v hv => ?_⟩
    rcases List.mem_cons.1 hv with rfl | hv
    · exact (le_max_right ..).trans start
    · exact all v hv

theorem getD_le_foldl_max (l : List Nat) (n : Nat) : l.getD n 0 ≤ l.foldl max 0 := by
  rw [List.getD_eq_getElem?_getD]
  rcases e : l[n]? with _ | v
  · exact Nat.zero_le _
  · exact (foldl_max_le l 0).2 v (List.mem_of_getElem? e)

/-- The readings of a die's sensors show in its registers: the highest, its core, and each. -/
def State.tempsShown (s : State) (d : Nat) (l : List Nat) : State :=
  (List.range 32).foldl (fun (s : State) n => s.setF (R.PWR_CORE_TEMP d n) F.PWR_CORE_TEMP_TEMP (min 255 (l.getD n 0)))
    ((s.setF (R.PWR_DIE_STAT d) F.PWR_DIE_STAT_TMAX (min 255 (l.foldl max 0))).setF (R.PWR_DIE_STAT d)
      F.PWR_DIE_STAT_TMAX_CORE (l.findIdx fun v => v == l.foldl max 0))

/-- The registers a sample shows in. -/
abbrev tempRegs (d : Nat) : List Nat := R.PWR_DIE_STAT d :: (List.range 32).map fun n => R.PWR_CORE_TEMP d n

theorem coreTemp_inj {d m n : Nat} (h : m ≠ n) : R.PWR_CORE_TEMP d m ≠ R.PWR_CORE_TEMP d n := by
  simp only [R.PWR_CORE_TEMP]; omega

theorem coreTemp_ne_dieStat (d n : Nat) : R.PWR_DIE_STAT d ≠ R.PWR_CORE_TEMP d n := by
  simp only [R.PWR_CORE_TEMP, R.PWR_DIE_STAT]; omega

section
variable (s : State) (d : Nat) (l : List Nat)

theorem State.tempsShown_kept : Kept 0x10 s (s.tempsShown d l) :=
  have full := Sub.refl 0x10
  Kept.foldl (State.setF_kept (State.setF_kept (.refl _ s) ..) ..) fun _ _ h => State.setF_kept h ..

theorem State.tempsShown_eq : s.tempsShown d l = { s with regs := (s.tempsShown d l).regs } :=
  (s.tempsShown_kept d l).regsOnly

theorem State.die_tempsShown (j : Nat) : (s.tempsShown d l).die j = s.die j := by
  unfold State.die
  rw [(s.tempsShown_kept d l).same .dies rfl]

theorem State.dieDown_tempsShown : (s.tempsShown d l).dieDown d = s.dieDown d := by
  unfold State.dieDown
  rw [State.die_tempsShown, (s.tempsShown_kept d l).same .power rfl]

theorem State.tempsShown_regsBut : RegsBut s (s.tempsShown d l) (tempRegs d) :=
  List.foldlRecOn (motive := fun u : State => RegsBut s u (tempRegs d)) _ _
    (((RegsBut.of_regs rfl).setF (by simp) _ _).setF (by simp) _ _) fun u hu n hn =>
      hu.setF (List.mem_cons_of_mem _ (List.mem_map.2 ⟨n, hn, rfl⟩)) _ _

/-- A core's reading shows. -/
theorem State.coreTemp_tempsShown {n : Nat} (hn : n < 32) :
    (s.tempsShown d l).f (R.PWR_CORE_TEMP d n) F.PWR_CORE_TEMP_TEMP = min 255 (l.getD n 0) :=
  foldl_reaches (Before := fun _ => True)
    (After := fun u : State => u.f (R.PWR_CORE_TEMP d n) F.PWR_CORE_TEMP_TEMP = min 255 (l.getD n 0)) List.nodup_range
    (List.mem_range.2 hn) (fun _ _ _ _ _ => trivial) (fun u _ => u.f_setF_of_lt _ _ _ (by decide) (by simp))
    (fun u m _ other hu => (u.f_setF_ne _ _ _ _ _ (coreTemp_inj (Ne.symm other))).trans hu) trivial

theorem State.tmax_tempsShown : (s.tempsShown d l).f (R.PWR_DIE_STAT d) F.PWR_DIE_STAT_TMAX = min 255 (l.foldl max 0) :=
  List.foldlRecOn (motive := fun u : State => u.f (R.PWR_DIE_STAT d) F.PWR_DIE_STAT_TMAX = min 255 (l.foldl max 0)) _ _
    ((State.f_setF_apart _ _ F.PWR_DIE_STAT_TMAX_CORE F.PWR_DIE_STAT_TMAX _ (by decide) (by decide)).trans
      (s.f_setF_of_lt _ _ _ (by decide) (by simp)))
    fun u hu n _ => (u.f_setF_ne _ _ _ _ _ (coreTemp_ne_dieStat d n)).trans hu

end

/-- A sample of a powered die with no reading injected shows, throttles, and from 110 °C stops the die. -/
theorem State.doThermalSample_eq {s : State} {d : Nat} {l : List Nat} (throttle : Unarmed s 0x3A) (stop : Unarmed s 0x3B)
    (plain : (s.die d).hotUntil = none) (up : s.dieDown d = false) :
    ∃ core u, u = (s.tempsShown d l).thermalThrottle d (l.foldl max 0) core false ∧
      s.doThermalSample d l = if 110 ≤ l.foldl max 0 then u.thermalStop d (l.foldl max 0) core false else u := by
  refine ⟨l.findIdx fun v => v == l.foldl max 0, _, rfl, ?_⟩
  have shown : (s.tempsShown d l).dieDown d = false := (s.dieDown_tempsShown d l).trans up
  have sensed : s.sensed d l none = l := by unfold State.sensed; rw [plain]
  unfold State.doThermalSample
  simp only [State.inject_unarmed throttle, State.inject_unarmed stop, plain, Option.map_none, sensed, Option.isSome_none,
    Bool.or_false]
  exact if_neg (by rw [show (List.foldl _ _ _ : State).dieDown d = false from shown]; decide)

/-- A step down with no heat on the die changes no register but CLK_STAT. -/
theorem State.stepDown_idle_regsBut {s : State} {d : Nat} (idle : (s.die d).run = none) (inj : Bool) :
    RegsBut s (s.stepDown d inj) [R.CLK_STAT d] := by
  by_cases stays : 5 ≤ s.f (R.CLK_STAT d) F.CLK_STAT_OPP_NOW ∨ s.mayStep d = false
  · unfold State.stepDown
    rw [if_pos stays]
    exact .of_regs rfl
  · rw [not_or, Bool.not_eq_false, not_le] at stays
    rw [State.stepDown_idle idle stays.2 stays.1]
    exact (State.regsBut_stepTo _).same (State.setDie_regs ..)

theorem State.thermalThrottle_cool (s : State) (d : Nat) {t : Nat} (cool : t < 100) (core : Nat) :
    s.thermalThrottle d t core false =
      (s.setDie d { s.die d with thermStep := none }).setF (R.PWR_DIE_STAT d) F.PWR_DIE_STAT_THROTTLE 0 := if_pos cool

theorem pwrRegs_apart (d : Nat) : R.PWR_DIE_STAT d ≠ R.PWR_DIE_EVENT d ∧ R.PWR_DIE_STAT d ≠ R.CLK_STAT d ∧
    R.PWR_DIE_EVENT d ≠ R.CLK_STAT d := by
  simp only [R.PWR_DIE_STAT, R.PWR_DIE_EVENT, R.CLK_STAT, Blk.base, dieBase]; omega

/-- From 100 °C on, with the throttle on already and no heat, the throttle and its event stand, and of the die's registers
only those and CLK_STAT have changed. -/
theorem State.thermalThrottle_hot {s : State} {d t : Nat} (hot : 100 ≤ t) (core : Nat) (onset : (s.die d).thermStep.isSome = true)
    (idle : (s.die d).run = none) :
    let u := s.thermalThrottle d t core false
    u.f (R.PWR_DIE_STAT d) F.PWR_DIE_STAT_TMAX = s.f (R.PWR_DIE_STAT d) F.PWR_DIE_STAT_TMAX ∧
      u.f (R.PWR_DIE_STAT d) F.PWR_DIE_STAT_THROTTLE = 1 ∧ u.f (R.PWR_DIE_EVENT d) F.PWR_DIE_EVENT_THERMAL_THROTTLE = 1 := by
  obtain ⟨apart, stat, event⟩ := pwrRegs_apart d
  let v := (s.setF (R.PWR_DIE_STAT d) F.PWR_DIE_STAT_THROTTLE 1).setF (R.PWR_DIE_EVENT d) F.PWR_DIE_EVENT_THERMAL_THROTTLE 1
  have die : v.die d = s.die d := by rw [State.die_setF, State.die_setF]
  have shape : RegsBut v (s.thermalThrottle d t core false) [R.CLK_STAT d] := by
    unfold State.thermalThrottle
    rw [if_neg (Nat.not_lt.2 hot)]
    extract_lets first o x due
    have started : first = false := by unfold first; rw [← Option.not_isSome, onset]; rfl
    have quiet : x = v := by unfold x; rw [started]; rfl
    rw [quiet]
    split
    · refine (RegsBut.of_regs (State.setDie_regs v ..)).trans (State.stepDown_idle_regsBut ?_ _)
      rw [State.die_setDie_self]
      show (x.die d).run = none
      rw [quiet, die]; exact idle
    · exact .of_regs rfl
  have keep {a : Nat} (n : a ≠ R.CLK_STAT d) (g : Nat × Nat) : (s.thermalThrottle d t core false).f a g = v.f a g :=
    State.f_congr (shape a (by simpa using n)) g
  refine ⟨?_, ?_, ?_⟩
  · rw [keep stat, State.f_setF_ne _ _ _ _ _ _ apart, State.f_setF_apart _ _ _ _ _ (by decide) (by decide)]
  · rw [keep stat, State.f_setF_ne _ _ _ _ _ _ apart, State.f_setF_of_lt _ _ _ _ (by decide) (by decide)]
  · rw [keep event, State.f_setF_of_lt _ _ _ _ (by decide) (by decide)]

/-- A die that has been stopped for its temperature is down. -/
theorem State.thermalStop_down (s : State) (d t core : Nat) (inj : Bool) :
    let u := s.thermalStop d t core inj
    u.dieDown d = true ∧ (u.die d).thermalOff = true := by
  have off : ((s.thermalStop d t core inj).die d).thermalOff = true := by
    unfold State.thermalStop
    extract_lets o v w x kept y z a
    have still : Kept 0x10000 _ (a.setDie d { a.die d with thermalOff := true }).copyCheck :=
      State.copyCheck_kept (.refl _ _) (Sub.refl _)
    rw [State.die, still.same .dies rfl]
    exact congrArg DieState.thermalOff (State.die_setDie_self a d { a.die d with thermalOff := true })
  exact ⟨by unfold State.dieDown; rw [off, Bool.or_true], off⟩

theorem thermalSample_shows (d : Die) (l : List Nat) (s : State) (full : l.length = 32) (on : s.power.ao = true)
    (throttle : Unarmed s 0x3A) (stop : Unarmed s 0x3B) (plain : (s.die d).hotUntil = none) (up : s.dieDown d = false) :
    ∃ t, exec (.thermalSample d l) s = .next t ∧
      (l.foldl max 0 < 100 → t.f (R.PWR_DIE_STAT d) F.PWR_DIE_STAT_TMAX = l.foldl max 0 ∧
        t.f (R.PWR_DIE_STAT d) F.PWR_DIE_STAT_THROTTLE = 0 ∧
        (∀ n : Fin 32, t.f (R.PWR_CORE_TEMP d n) F.PWR_CORE_TEMP_TEMP = l.getD n 0) ∧
        RegsBut s t (R.PWR_DIE_STAT d :: (List.range 32).map fun n => R.PWR_CORE_TEMP d n) ∧
        t = { s with regs := t.regs, dies := t.dies }) ∧
      (100 ≤ l.foldl max 0 → l.foldl max 0 < 110 → (s.die d).thermStep.isSome = true → (s.die d).run = none →
        t.f (R.PWR_DIE_STAT d) F.PWR_DIE_STAT_TMAX = l.foldl max 0 ∧ t.f (R.PWR_DIE_STAT d) F.PWR_DIE_STAT_THROTTLE = 1 ∧
        t.f (R.PWR_DIE_EVENT d) F.PWR_DIE_EVENT_THERMAL_THROTTLE = 1) ∧
      (110 ≤ l.foldl max 0 → t.dieDown d = true ∧ (t.die d).thermalOff = true) := by
  have ran : exec (.thermalSample d l) s = .next (s.doThermalSample d l) := State.whenWf_true _ _ (by simp [full]) on
  obtain ⟨core, u, hu, shape⟩ := State.doThermalSample_eq (l := l) throttle stop plain up
  have die : (s.tempsShown d l).die d = s.die d := s.die_tempsShown d l d
  refine ⟨_, ran, fun cool => ?_, fun hot warm onset idle => ?_, fun above => ?_⟩
  · rw [shape, if_neg (by omega), hu, State.thermalThrottle_cool _ _ cool]
    refine ⟨?_, State.f_setF_of_lt _ _ _ _ (by decide) (by decide), fun n => ?_, ?_, ?_⟩
    · rw [State.f_setF_apart _ _ _ _ _ (by decide) (by decide), State.f_setDie, State.tmax_tempsShown]; omega
    · have small := getD_le_foldl_max l n
      rw [State.f_setF_ne _ _ _ _ _ _ (coreTemp_ne_dieStat d n).symm, State.f_setDie, State.coreTemp_tempsShown _ _ _ n.isLt]
      omega
    · exact ((s.tempsShown_regsBut d l).same (State.setDie_regs ..)).setF (by simp) _ _
    · rw [State.setF_eq, State.setDie, State.tempsShown_eq]
  · rw [shape, if_neg (by omega), hu]
    obtain ⟨tmax, on, event⟩ := State.thermalThrottle_hot hot core (by rw [die]; exact onset) (by rw [die]; exact idle)
    exact ⟨by rw [tmax, State.tmax_tempsShown]; omega, on, event⟩
  · rw [shape, if_pos above]
    exact u.thermalStop_down d _ _ _

/-! ### Power returns to a die (R184) -/

theorem State.rd_wrMask_ne (s : State) (a m v : Nat) {b : Nat} (h : b ≠ a) : (s.wrMask a m v).rd b = s.rd b :=
  State.rd_wr_ne _ _ _ _ h

section
variable (s : State) {dom : Domain} {a : Nat} (out : inDomain dom a = false)
include out

theorem ne_of_inDomain {b : Nat} (h : inDomain dom b = true) : a ≠ b := by
  rintro rfl
  rw [out] at h
  cases h

/-- Copybook and palimpsest values of a domain leave the registers outside it. -/
theorem State.rd_reapply : (s.reapply dom).rd a = s.rd a := by
  have mask (t : State) (b m v : Nat) (h : inDomain dom b = true) : (t.wrMask b m v).rd a = t.rd a :=
    t.rd_wrMask_ne _ _ _ (ne_of_inDomain out h)
  unfold State.reapply
  extract_lets u put
  have books : u.rd a = s.rd a := List.foldlRecOn (motive := fun t : State => t.rd a = s.rd a) _ _ rfl fun t ht e he =>
    (mask t _ _ _ (List.mem_filter.1 he).2).trans ht
  split
  · exact books
  rename_i pl _
  extract_lets v w
  have puts (l : List (Nat × Word)) {t : State} (ht : t.rd a = s.rd a) : (l.foldl put t).rd a = s.rd a :=
    List.foldlRecOn (motive := fun t : State => t.rd a = s.rd a) _ _ ht fun t ht e _ => by
      unfold put
      split
      · rename_i inside; exact (mask t _ _ _ inside).trans ht
      · exact ht
  have tuned : v.rd a = s.rd a := by
    unfold v
    split
    · exact puts _ books
    · exact books
  refine List.foldlRecOn (motive := fun t : State => t.rd a = s.rd a) _ _ (puts _ tuned) fun t ht k _ => ?_
  split
  · rename_i inside
    exact (State.rd_setF_ne _ _ _ _ _ (ne_of_inDomain out inside)).trans ht
  · exact ht

/-- A reset of a domain leaves the registers outside it. -/
theorem State.rd_resetRegs : (s.resetRegs dom).rd a = s.rd a := by
  refine (State.rd_reapply _ out).trans ?_
  unfold State.rd NMap.get
  rw [NMap.look_filter fun k => !inDomain dom k, out]
  rfl

end

/-- The configurations of tenancies are no part of a compute die's domain. -/
theorem tenCfg_not_dieDomain {k : Nat} (hk : k < 8) (d : Nat) : inDomain (dieDomain d) (R.TEN_T_CFG k) = false := by
  have block : ∀ k < 8, (ctlDecode (R.TEN_T_CFG k)).map Prod.fst = some .ten := by decide
  have ten := block k hk
  unfold inDomain
  split
  · rename_i b i o e
    rw [e] at ten
    cases ten
    rfl
  · rfl

/-- What a reset of a die makes of its record, whose idleness counts from x, and what it leaves: the package's clock and the
configurations of tenancies. -/
structure DieReset (d x : Nat) (s t : State) : Prop where
  die : t.die d = { DieState.init with now := (s.die d).now, idleFrom := x }
  time : t.time = s.time
  cfg : ∀ k, k < 8 → t.rd (R.TEN_T_CFG k) = s.rd (R.TEN_T_CFG k)

/-- A die's reset before its registers: its cores, its record, its stacks' queues and the accesses that waited for it. -/
def State.dieCleared (s : State) (d : Nat) : State :=
  ((List.range 4).foldl (fun (s : State) j =>
    let v := s.stk (4 * d + j)
    s.setStk (4 * d + j) { StackState.init with zmap := v.zmap, bad := v.bad })
      ((s.clearCores (32 * d) 32).setDie d { DieState.init with now := (s.die d).now })).dropWaits d

theorem State.resetDie_eq (s : State) (d : Nat) :
    s.resetDie d = ((s.dieCleared d).resetRegs (dieDomain d)).seedEngines (32 * d) 32 := rfl

theorem State.resetDie_resets (s : State) (d : Nat) :
    DieReset d DieState.init.idleFrom s (s.resetDie d) ∧ (s.resetDie d).power = s.power := by
  let u := (s.clearCores (32 * d) 32).setDie d { DieState.init with now := (s.die d).now }
  have full := Sub.refl 0x80008002
  have waits : Kept 0x80008002 u (s.dieCleared d) :=
    State.dropWaits_kept (Kept.foldl (.refl _ u) fun _ _ h => State.setStk_kept h ..) _
  have cores : Kept 0x3ea0 s (s.clearCores (32 * d) 32) := State.clearCores_kept (.refl _ s) _ _ (Sub.refl _)
  have regs : Kept 0x10 (s.dieCleared d) ((s.dieCleared d).resetRegs (dieDomain d)) :=
    State.resetRegs_kept (.refl _ _) _ (Sub.refl _)
  have seeds : Kept 0x200 _ (s.resetDie d) :=
    State.seedEngines_kept (.refl _ ((s.dieCleared d).resetRegs (dieDomain d))) (32 * d) 32 (Sub.refl _)
  have rest : Kept 0x80008212 u (s.resetDie d) :=
    ((waits.weaken ⟨by decide⟩).trans (regs.weaken ⟨by decide⟩)).trans (seeds.weaken ⟨by decide⟩)
  refine ⟨⟨?_, ?_, fun k hk => ?_⟩, ?_⟩
  · rw [State.die, rest.same .dies rfl]
    exact State.die_setDie_self (s.clearCores (32 * d) 32) d _
  · rw [rest.same .time rfl, State.setDie_time, cores.same .time rfl]
  · rw [State.rd_congr (seeds.same .regs rfl), State.rd_resetRegs _ (tenCfg_not_dieDomain hk d), State.rd_congr (waits.same .regs rfl),
      State.rd_setDie, State.rd_congr (cores.same .regs rfl)]
  · rw [rest.same .power rfl, State.setDie_power, cores.same .power rfl]

/-- What leaves dies, time and the configurations of tenancies alone. -/
theorem DieReset.kept {d x m : Nat} {s t u : State} (h : DieReset d x s t) (k : Kept m t u)
    (cfg : ∀ k, k < 8 → u.rd (R.TEN_T_CFG k) = t.rd (R.TEN_T_CFG k)) (dies : m.testBit 14 = false := by decide)
    (time : m.testBit 2 = false := by decide) : DieReset d x s u where
  die := by rw [State.die, k.same .dies dies]; exact h.die
  time := (k.same .time time).trans h.time
  cfg j hj := (cfg j hj).trans (h.cfg j hj)

theorem DieReset.powered {d x : Nat} {s t : State} (h : DieReset d x s t) (p : Power) : DieReset d x s { t with power := p } :=
  ⟨h.die, h.time, h.cfg⟩

theorem State.powerDie_on (s : State) (d : Die) :
    DieReset d DieState.init.idleFrom s (s.powerDie d true) ∧ (s.powerDie d true).power.die.toNat.testBit d = true := by
  obtain ⟨reset, power⟩ := s.resetDie_resets d
  let u : State := { s.resetDie d with power := { (s.resetDie d).power with
    die := (s.resetDie d).power.die ||| BitVec.ofNat 8 (2 ^ d.val) } }
  have given : DieReset d DieState.init.idleFrom s u := reset.powered _
  have count : Kept 0x10 u (s.powerDie d true) := State.setF_kept (.refl _ u) _ _ _ (Sub.refl _)
  refine ⟨given.kept count fun k hk => ?_, ?_⟩
  · exact State.rd_setF_ne _ _ _ _ _ (by simp only [R.TEN_T_CFG, R.TEL_RESETS, Blk.base]; omega)
  · rw [count.same .power rfl]
    show ((s.resetDie d).power.die ||| BitVec.ofNat 8 (2 ^ d.val)).toNat.testBit d = true
    rw [BitVec.toNat_or, BitVec.toNat_ofNat, Nat.mod_eq_of_lt (Nat.pow_lt_pow_right (by decide) d.isLt), Nat.testBit_or,
      Nat.testBit_two_pow_self, Bool.or_true]

theorem tenCfg_not_kept {d k a : Nat} (_ : k < 8) (ha : a ∈ keptRegs d) : R.TEN_T_CFG k ≠ a := by
  unfold keptRegs at ha
  rcases List.mem_append.1 ha with h | h <;> obtain ⟨c, _, rfl⟩ := List.mem_map.1 h
  · simp only [R.TEN_T_CFG, R.COX_SELF, Blk.base, coreBase]; omega
  · simp only [R.TEN_T_CFG, R.HBM_NI_MASK, Blk.base]; omega

theorem thermalRestore_powers (d : Die) (s : State) (off : (s.die d).thermalOff = true) (up : s.bhUp = true)
    (cool : s.f (R.PWR_DIE_STAT d) F.PWR_DIE_STAT_TMAX < 90) (none : s.tenOfDie d = none) :
    ∃ t, exec (.thermalRestore d) s = .next t ∧ t.dieDown d = false ∧ (t.die d).idleFrom = s.time := by
  refine ⟨_, State.when_true _ _ (by simp [off, up, cool]), ?_⟩
  unfold State.doThermalRestore
  extract_lets kept a b v c e
  have full := Sub.refl 0x10
  obtain ⟨powered, bit⟩ := s.powerDie_on d
  have again : Kept 0x10 a b := Kept.foldl (.refl _ a) fun _ _ h => State.wr_kept h ..
  have written : DieReset d _ s b := powered.kept again fun k hk =>
    List.foldlRecOn (motive := fun t : State => t.rd (R.TEN_T_CFG k) = a.rd (R.TEN_T_CFG k)) _ _ rfl fun t ht q hq => by
      obtain ⟨r, hr, rfl⟩ := List.mem_map.1 hq
      exact (State.rd_wr_ne _ _ _ _ (tenCfg_not_kept hk hr)).trans ht
  have locked : DieReset d s.time s c := by
    refine ⟨?_, ?_, fun k hk => ?_⟩
    · have fresh : v = _ := written.die
      rw [State.die_setF, State.die_setDie_self, fresh, written.time]
    · rw [State.setF_time, State.setDie_time, written.time]
    · rw [State.rd_setF_ne _ _ _ _ _ (by simp only [R.TEN_T_CFG, R.CLK_STAT, Blk.base, dieBase]; omega), State.rd_setDie,
        written.cfg k hk]
  have refreshed : Kept 0x10 c e := by
    refine Kept.foldl (.refl _ c) fun t j h => ?_
    dsimp only
    split
    · exact State.setF_kept h ..
    · exact State.setF_kept (State.setF_kept h ..) ..
  have trained : DieReset d s.time s e := locked.kept refreshed fun k hk => by
    have ne (j : Nat) : R.TEN_T_CFG k ≠ R.HBM_STAT j := by simp only [R.TEN_T_CFG, R.HBM_STAT, Blk.base]; omega
    refine List.foldlRecOn (motive := fun t : State => t.rd (R.TEN_T_CFG k) = c.rd (R.TEN_T_CFG k)) _ _ rfl fun t ht j _ => ?_
    dsimp only
    split
    · exact (State.rd_setF_ne _ _ _ _ _ (ne _)).trans ht
    · exact (State.rd_setF_ne _ _ _ _ _ (ne _)).trans ((State.rd_setF_ne _ _ _ _ _ (ne _)).trans ht)
  rw [State.tenOfDie_congr trained.cfg, none]
  have last : Kept 0x3eb0 e (e.offDie d) := State.offDie_kept (.refl _ e) _ (Sub.refl _)
  have die : (e.offDie d).die d = { DieState.init with now := (s.die d).now, idleFrom := s.time } := by
    rw [State.die, last.same .dies rfl]; exact trained.die
  have power : (e.offDie d).power = a.power := by
    rw [last.same .power rfl, refreshed.same .power rfl, State.setF_power, State.setDie_power, again.same .power rfl]
  refine ⟨?_, congrArg DieState.idleFrom die⟩
  show (e.offDie d).dieDown d = false
  unfold State.dieDown
  rw [die, power, bit]
  rfl

/-! ### Clusters sleep and wake (R171, R186) -/

theorem clusterRetain_retains (d : Die) (cl : Fin 4) (s : State) (up : s.dieDown d = false) (awake : s.cluster d cl < 2)
    (quiet : s.clusterQuiet d cl = true)
    (idle : s.diePreempted d = true ∨ (s.clusterUsed d cl = false ∧
      (s.die d).idleClusters.get (fun _ => 0) cl + ticksUs (s.f (R.STR_CTL d) F.STR_CTL_RETAIN_IDLE) ≤ s.time))
    (free : ∀ r, (s.die d).run = some r → r.clusters.contains cl.val = false) :
    ∃ t, exec (.clusterRetain d cl) s = .next t ∧ t.cluster d cl = 2 ∧ (∀ c : Fin 4, c ≠ cl → t.cluster d c = s.cluster d c) ∧
      RegsBut s t [R.CLK_STAT d] ∧ t = { s with regs := t.regs } := by
  have resting : ((!s.clusterUsed d cl && decide ((s.die d).idleClusters.get (fun _ => 0) cl +
      ticksUs (s.f (R.STR_CTL d) F.STR_CTL_RETAIN_IDLE) ≤ s.time)) || s.diePreempted d) = true := by
    rcases idle with preempted | ⟨used, long⟩
    · rw [preempted, Bool.or_true]
    · rw [used, decide_eq_true long]; rfl
  have ran : exec (.clusterRetain d cl) s = .next (s.setCluster d cl 2) := by
    refine State.when_true _ _ ?_
    rw [up, decide_eq_true awake, quiet, resting]
    rcases run : (s.die d).run with _ | r
    · rfl
    · simp only [free r run]; rfl
  have clusters (c : Fin 4) := s.cluster_setCluster d cl.isLt c.isLt (v := 2) (by decide)
  exact ⟨_, ran, (clusters cl).trans (if_pos rfl), fun c n => (clusters c).trans (if_neg fun e => n (Fin.ext e)),
    (RegsBut.of_regs rfl).setF (by simp) _ _, (State.setCluster_kept (.refl 0x10 s) _ _ _ (Sub.refl _)).regsOnly⟩

theorem clusterWake_wakes (d : Die) (cl : Fin 4) (x : Nat) (r : RunHeat) (s : State) (run : (s.die d).run = some r)
    (waking : r.waking.contains cl.val = true) (later : r.chosen < x) (kept : s.cluster d cl ≠ 3) :
    ∃ t, exec (.clusterWake d cl x) s = .next t ∧ t.cluster d cl = 0 ∧
      (t.die d).run = some { r with waking := r.waking.erase cl, wakeDone := some (max x (r.wakeDone.getD 0)) } ∧
      (∀ c : Fin 4, c ≠ cl → t.cluster d c = s.cluster d c) ∧ RegsBut s t [R.CLK_STAT d] ∧
      t = { s with regs := t.regs, dies := t.dies } := by
  let u := s.setDie d { s.die d with
    run := some { r with waking := r.waking.erase cl, wakeDone := some (max x (r.wakeDone.getD 0)) } }
  have ran : exec (.clusterWake d cl x) s = .next ((u.setCluster d cl 0).clock d x) := by
    show execClusterWake d cl x s = _
    unfold execClusterWake
    rw [run]
    refine (State.when_true _ _ (by rw [waking, decide_eq_true later]; rfl)).trans ?_
    unfold State.doClusterWake
    rw [if_neg kept]
  have clusters (c : Fin 4) : ((u.setCluster d cl 0).clock d x).cluster d c = if c.val = cl.val then 0 else s.cluster d c :=
    (State.cluster_congr (State.rd_clock ..) c).trans (u.cluster_setCluster d cl.isLt c.isLt (by decide))
  refine ⟨_, ran, (clusters cl).trans (if_pos rfl), ?_, fun c n => (clusters c).trans (if_neg fun e => n (Fin.ext e)), ?_, ?_⟩
  · rw [State.die_clock, State.setCluster, State.die_setF, State.die_setDie_self]
  · exact ((RegsBut.of_regs (t := u) (State.setDie_regs ..)).setF (by simp) _ _).same (State.clock_regs ..)
  · have woken : u.setCluster d cl 0 = { u with regs := (u.setCluster d cl 0).regs } :=
      (State.setCluster_kept (.refl 0x10 u) _ _ _ (Sub.refl _)).regsOnly
    have asked : u = { s with dies := u.dies } := rfl
    rw [State.clock_eq, woken, asked]

/-- Settles O37: samples, the return of power, retention and wakes, each by its part. -/
theorem heatAndSleep : Obligations.HeatAndSleep := by
  unfold Obligations.HeatAndSleep
  exact ⟨thermalSample_shows, thermalRestore_powers, clusterRetain_retains, clusterWake_wakes⟩

/-! ### Windows of a microsecond (R169, R179, R182) -/

/-- The registers a window writes for unit e, a die or the package: those of the package's power, but for its cap and policy,
and those of the die. -/
def meterReg (e a : Nat) : Prop := (0x30_0010 ≤ a ∧ a < 0x40_0000) ∨ (dieBase e ≤ a ∧ a < dieBase e + 0x10_0000)

/-- From s to t only registers of a window have changed. -/
structure MeterRegs (e : Nat) (s t : State) : Prop where
  only : Kept 0x10 s t
  regs : ∀ a, ¬ meterReg e a → t.rd a = s.rd a

namespace MeterRegs
variable {e : Nat} {s t : State}

theorem refl (e : Nat) (s : State) : MeterRegs e s s := ⟨.refl _ s, fun _ _ => rfl⟩

theorem setF (h : MeterRegs e s t) {a : Nat} (m : meterReg e a) (g : Nat × Nat) (v : Nat) : MeterRegs e s (t.setF a g v) where
  only := State.setF_kept h.only _ _ _ (Sub.refl _)
  regs b n := (State.rd_setF_ne _ _ _ _ _ (by rintro rfl; exact n m)).trans (h.regs b n)

theorem bump (h : MeterRegs e s t) {a : Nat} (m : meterReg e a) (k : Nat) : MeterRegs e s (t.bump a k) where
  only := State.bump_kept h.only _ _ (Sub.refl _)
  regs b n := (State.rd_bump_ne _ _ _ _ (by rintro rfl; exact n m)).trans (h.regs b n)

theorem ite {u : State} {p : Prop} [Decidable p] (h : MeterRegs e s t) (k : MeterRegs e s u) :
    MeterRegs e s (if p then t else u) := by
  split
  · exact h
  · exact k

end MeterRegs

theorem meterReg_package {e a : Nat} (lo : 0x30_0010 ≤ a := by decide) (hi : a < 0x40_0000 := by decide) : meterReg e a :=
  .inl ⟨lo, hi⟩

theorem meterReg_tenUj (e : Nat) {k : Nat} (hk : k < 8) : meterReg e (R.PWR_TEN_UJ k) := by
  simp only [meterReg, R.PWR_TEN_UJ, Blk.base]; omega

section
variable (d : Nat)

theorem meterReg_dieStat : meterReg d (R.PWR_DIE_STAT d) := by simp only [meterReg, R.PWR_DIE_STAT, Blk.base]; omega

theorem meterReg_clkStat : meterReg d (R.CLK_STAT d) := by simp only [meterReg, R.CLK_STAT, Blk.base]; omega

theorem meterReg_modelUj : meterReg d (R.PWR_DIE_MODEL_UJ d) := by simp only [meterReg, R.PWR_DIE_MODEL_UJ, Blk.base]; omega

theorem meterReg_grantWait : meterReg d (R.STR_CNT_GRANT_WAIT_US d) := by
  simp only [meterReg, R.STR_CNT_GRANT_WAIT_US, Blk.base]; omega

theorem meterReg_oppUs {n : Nat} (hn : n < 8) : meterReg d (R.CLK_CNT_OPP_US d n) := by
  simp only [meterReg, R.CLK_CNT_OPP_US, Blk.base]; omega

theorem modelUj_apart : R.PWR_DIE_MODEL_UJ d ≠ R.PWR_DIE_STAT d ∧ R.PWR_DIE_MODEL_UJ d ≠ R.CLK_STAT d ∧
    R.PWR_DIE_MODEL_UJ d ≠ R.STR_CNT_GRANT_WAIT_US d ∧ (∀ n < 8, R.PWR_DIE_MODEL_UJ d ≠ R.CLK_CNT_OPP_US d n) ∧
    (∀ k < 8, R.PWR_DIE_MODEL_UJ d ≠ R.PWR_TEN_UJ k) ∧ R.PWR_DIE_MODEL_UJ d ≠ R.PWR_OVERHEAD_UJ := by
  simp only [R.PWR_DIE_MODEL_UJ, R.PWR_DIE_STAT, R.CLK_STAT, R.STR_CNT_GRANT_WAIT_US, R.CLK_CNT_OPP_US, R.PWR_TEN_UJ,
    R.PWR_OVERHEAD_UJ, Blk.base, dieBase]
  exact ⟨by omega, by omega, by omega, fun n _ => by omega, fun k _ => by omega, by omega⟩

end

/-- A die's record w whose energy of a window, `e` pJ, has been taken: v before its bucket gives. -/
structure Metered (w v : DieState) (e : Nat) : Prop where
  run : v.run = w.run
  drifted : v.drifted = w.drifted
  alloc : v.alloc = w.alloc
  bucket : v.bucket = w.bucket
  forecasts : v.forecasts = w.forecasts
  counts : v.counts = []
  pj : v.pj = (w.pj + e) % 1000000

/-- A window of a die: its energy is taken and counted, and last its bucket gives the whole microjoules. -/
theorem State.windowDie_shape (s : State) (d : Nat) : ∃ (v : DieState) (u : State), Metered (s.die d) v (s.diePj d) ∧
    MeterRegs d (s.setDie d v) u ∧
    (s.inService d = true → u.rd (R.PWR_DIE_MODEL_UJ d) =
      s.rd (R.PWR_DIE_MODEL_UJ d) + BitVec.ofNat 64 (((s.die d).pj + s.diePj d) / 1000000)) ∧
    s.windowDie d = u.bucketDie d (((s.die d).pj + s.diePj d) / 1000000) := by
  unfold State.windowDie
  extract_lets e v seen u on running hist waiting armed a b c k w x y
  obtain ⟨neStat, neClock, neWait, neOpp, neTen, neOver⟩ := modelUj_apart d
  have opp : c.f (R.CLK_STAT d) F.CLK_STAT_OPP_NOW < 8 := State.f_lt ..
  have clock : MeterRegs d a k := (((MeterRegs.refl d a).setF (meterReg_dieStat d) _ _).setF (meterReg_clkStat d) _ _).bump
    (meterReg_oppUs d opp) 1
  have waited : MeterRegs d a w := .ite (clock.bump (meterReg_grantWait d) 1) clock
  have counted : MeterRegs d a x := .ite (waited.bump (meterReg_modelUj d) u) waited
  have before : w.rd (R.PWR_DIE_MODEL_UJ d) = s.rd (R.PWR_DIE_MODEL_UJ d) := by
    have first : k.rd (R.PWR_DIE_MODEL_UJ d) = s.rd (R.PWR_DIE_MODEL_UJ d) := by
      rw [State.rd_bump_ne _ _ _ _ (neOpp _ opp), State.rd_setF_ne _ _ _ _ _ neClock, State.rd_setF_ne _ _ _ _ _ neStat,
        State.rd_setDie]
    unfold w
    split
    · rw [State.rd_bump_ne _ _ _ _ neWait, first]
    · exact first
  have given : MeterRegs d a y ∧ y.rd (R.PWR_DIE_MODEL_UJ d) = x.rd (R.PWR_DIE_MODEL_UJ d) := by
    unfold y
    split
    · split
      · rename_i t ten
        have lt := State.tenOfDie_lt ten
        exact ⟨counted.bump (meterReg_tenUj d lt) u, State.rd_bump_ne _ _ _ _ (neTen t lt)⟩
      · exact ⟨counted.bump meterReg_package u, State.rd_bump_ne _ _ _ _ neOver⟩
    · exact ⟨counted, rfl⟩
  obtain ⟨r, start, metered⟩ : ∃ r, a = s.setDie d r ∧ Metered (s.die d) r e := ⟨_, rfl, ⟨rfl, rfl, rfl, rfl, rfl, rfl, rfl⟩⟩
  refine ⟨r, y, metered, start ▸ given.1, fun serving => ?_, rfl⟩
  have serves : on = true := serving
  rw [given.2]
  unfold x
  rw [if_pos serves, State.rd_bump_self, before]

/-- Where no heat runs, a bucket takes its allocation and gives `u`, up to its ceiling. -/
theorem State.bucketDie_idle {s : State} {d : Nat} (idle : (s.die d).run = none) (u : Nat) : s.bucketDie d u =
    s.setDie d { s.die d with bucket := min ((s.die d).bucket + (s.die d).alloc - u) ((s.ceilingOf d : Nat) : Int) } := by
  have cut (g c : Int) : (if c < g then c else g) = min g c := by
    split
    · rename_i h; exact (min_eq_right h.le).symm
    · rename_i h; exact (min_eq_left (not_lt.1 h)).symm
  simp only [State.bucketDie, idle, cut]

/-- Registers a die's window goes by: what other dies' windows, and the package's, leave. -/
def meterKeeps (d a : Nat) : Prop := (a < 0x30_0010 ∨ 0x40_0000 ≤ a) ∧ (a < 0x100_0000 ∨ dieBase d ≤ a ∧ a < dieBase d + 0x10_0000)

theorem not_meterReg {d e a : Nat} (keeps : meterKeeps d a) (other : e ≠ d) : ¬ meterReg e a := by
  unfold meterKeeps dieBase at keeps
  unfold meterReg dieBase
  omega

/-- What a die's window goes by is as in s: the die's record, registers, time and power. -/
structure MeterRest (d : Nat) (s t : State) : Prop where
  die : t.die d = s.die d
  regs : ∀ a, meterKeeps d a → t.rd a = s.rd a
  time : t.time = s.time
  power : t.power = s.power

namespace MeterRest
variable {d e : Nat} {s t u : State}

theorem refl (d : Nat) (s : State) : MeterRest d s s := ⟨rfl, fun _ _ => rfl, rfl, rfl⟩

theorem trans (h : MeterRest d s t) (k : MeterRest d t u) : MeterRest d s u :=
  ⟨k.die.trans h.die, fun a n => (k.regs a n).trans (h.regs a n), k.time.trans h.time, k.power.trans h.power⟩

theorem of_regs (h : MeterRegs e s t) (other : e ≠ d) : MeterRest d s t where
  die := by unfold State.die; rw [h.only.same .dies rfl]
  regs a n := h.regs a (not_meterReg n other)
  time := h.only.same .time rfl
  power := h.only.same .power rfl

theorem setDie (s : State) (v : DieState) (other : e ≠ d) : MeterRest d s (s.setDie e v) :=
  ⟨State.die_setDie_ne _ _ _ _ other.symm, fun _ _ => State.rd_setDie .., State.setDie_time .., State.setDie_power ..⟩

section
variable (h : MeterRest d s t)
include h

theorem field {a : Nat} (n : meterKeeps d a) (g : Nat × Nat) : t.f a g = s.f a g := State.f_congr (h.regs a n) g

theorem clkStat : t.rd (R.CLK_STAT d) = s.rd (R.CLK_STAT d) :=
  h.regs _ (by simp only [meterKeeps, R.CLK_STAT, Blk.base, dieBase]; omega)

theorem diePj : t.diePj d = s.diePj d := by
  have coef (k : Nat) (hk : k < 16) : t.f (R.PWR_COEF d k) F.PWR_COEF_COEF = s.f (R.PWR_COEF d k) F.PWR_COEF_COEF :=
    h.field (by simp only [meterKeeps, R.PWR_COEF, Blk.base, dieBase]; omega) _
  have tmax : t.f (R.PWR_DIE_STAT d) F.PWR_DIE_STAT_TMAX = s.f (R.PWR_DIE_STAT d) F.PWR_DIE_STAT_TMAX :=
    h.field (by simp only [meterKeeps, R.PWR_DIE_STAT, Blk.base, dieBase]; omega) _
  have arm : t.f (R.CLK_CTL d) F.CLK_CTL_ARM_MV = s.f (R.CLK_CTL d) F.CLK_CTL_ARM_MV :=
    h.field (by simp only [meterKeeps, R.CLK_CTL, Blk.base, dieBase]; omega) _
  have clk (g : Nat × Nat) : t.f (R.CLK_STAT d) g = s.f (R.CLK_STAT d) g := State.f_congr h.clkStat g
  have clusters (c : Nat) : t.cluster d c = s.cluster d c := State.cluster_congr h.clkStat c
  simp only [State.diePj, State.mhz, State.vdie, State.clustersIn, h.die, clk, clusters, tmax, arm, coef 14 (by decide),
    coef 15 (by decide)]
  refine congrArg (fun x => (List.sum x + _) * _ / _ + _) (List.map_congr_left fun k hk => ?_)
  rw [coef k (by have := List.mem_range.1 hk; omega)]

theorem ceilingOf : t.ceilingOf d = s.ceilingOf d := State.ceilingOf_congr (by rw [h.die]) (by rw [h.die]) h.time

theorem tenOfDie (j : Nat) : t.tenOfDie j = s.tenOfDie j :=
  State.tenOfDie_congr (fun k hk => h.regs _ (by simp only [meterKeeps, R.TEN_T_CFG, Blk.base]; omega)) j

theorem inService : t.inService d = s.inService d := by
  have ready : t.ready = s.ready := by
    unfold State.ready
    rw [h.field (by simp only [meterKeeps, R.BH_STAT, Blk.base]; omega)]
  have down : t.dieDown d = s.dieDown d := by
    unfold State.dieDown
    rw [h.die, h.power]
  unfold State.inService
  rw [ready, down, h.tenOfDie]
  rcases ten : s.tenOfDie d with _ | k
  · rfl
  · have lt := State.tenOfDie_lt ten
    have job : t.jobState k = s.jobState k := h.field (by simp only [meterKeeps, R.SNP_T_STAT, Blk.base]; omega) _
    simp only [job]

end
end MeterRest

/-- What a window makes of a die from state s on. -/
structure Windowed (d : Nat) (s t : State) : Prop where
  bucket : (t.die d).bucket = min ((s.die d).bucket + (s.die d).alloc - (((s.die d).pj + s.diePj d) / 1000000 : Nat))
    ((s.ceilingOf d : Nat) : Int)
  pj : (t.die d).pj = ((s.die d).pj + s.diePj d) % 1000000
  counts : (t.die d).counts = []
  alloc : (t.die d).alloc = (s.die d).alloc
  counted : s.inService d = true → t.rd (R.PWR_DIE_MODEL_UJ d) =
    s.rd (R.PWR_DIE_MODEL_UJ d) + BitVec.ofNat 64 (((s.die d).pj + s.diePj d) / 1000000)

theorem meterKeeps_modelUj (d : Nat) : meterKeeps d (R.PWR_DIE_MODEL_UJ d) := by
  simp only [meterKeeps, R.PWR_DIE_MODEL_UJ, Blk.base, dieBase]; omega

theorem Windowed.of_rest {d : Nat} {s t u : State} (h : Windowed d t u) (k : MeterRest d s t) : Windowed d s u where
  bucket := by rw [h.bucket, k.die, k.diePj, k.ceilingOf]
  pj := by rw [h.pj, k.die, k.diePj]
  counts := h.counts
  alloc := by rw [h.alloc, k.die]
  counted := fun serves => by rw [h.counted (k.inService.trans serves), k.die, k.diePj, k.regs _ (meterKeeps_modelUj d)]

theorem Windowed.rest {d : Nat} {s t u : State} (h : Windowed d s t) (k : MeterRest d t u) : Windowed d s u where
  bucket := by rw [k.die, h.bucket]
  pj := by rw [k.die, h.pj]
  counts := by rw [k.die, h.counts]
  alloc := by rw [k.die, h.alloc]
  counted serves := by rw [k.regs _ (meterKeeps_modelUj d), h.counted serves]

/-- From s to t no die has taken up or ended a heat, or come into or out of drift. -/
def RunsOn (s t : State) : Prop := ∀ j, (t.die j).run = (s.die j).run ∧ (t.die j).drifted = (s.die j).drifted

theorem RunsOn.trans {s t u : State} (h : RunsOn s t) (k : RunsOn t u) : RunsOn s u :=
  fun j => ⟨(k j).1.trans (h j).1, (k j).2.trans (h j).2⟩

theorem RunsOn.of_dies {s t : State} (h : t.dies = s.dies) : RunsOn s t := fun j => by unfold State.die; rw [h]; exact ⟨rfl, rfl⟩

theorem RunsOn.setDie (s : State) (e : Nat) {v : DieState} (run : v.run = (s.die e).run) (drifted : v.drifted = (s.die e).drifted) :
    RunsOn s (s.setDie e v) := fun j => by
  rw [State.die_setDie]
  split
  · rename_i h; subst h; exact ⟨run, drifted⟩
  · exact ⟨rfl, rfl⟩

section
variable {s : State} {e : Nat} (idle : (s.die e).run = none)
include idle

theorem State.windowDie_windowed : Windowed e s (s.windowDie e) := by
  obtain ⟨v, u, metered, regs, counted, shape⟩ := s.windowDie_shape e
  have die : u.die e = v := by rw [State.die, regs.only.same .dies rfl]; exact State.die_setDie_self ..
  have ceiling : u.ceilingOf e = s.ceilingOf e := State.ceilingOf_congr (by rw [die, metered.alloc])
    (by rw [die, metered.forecasts]) ((regs.only.same .time rfl).trans (State.setDie_time ..))
  rw [shape, State.bucketDie_idle (by rw [die, metered.run, idle]), ceiling, die]
  constructor
  · rw [State.die_setDie_self, metered.bucket, metered.alloc]
  · rw [State.die_setDie_self, metered.pj]
  · rw [State.die_setDie_self, metered.counts]
  · rw [State.die_setDie_self, metered.alloc]
  · exact fun serves => (State.rd_setDie ..).trans (counted serves)

theorem State.windowDie_rest {d : Nat} (other : e ≠ d) : MeterRest d s (s.windowDie e) := by
  obtain ⟨v, u, metered, regs, _, shape⟩ := s.windowDie_shape e
  have die : u.die e = v := by rw [State.die, regs.only.same .dies rfl]; exact State.die_setDie_self ..
  rw [shape, State.bucketDie_idle (by rw [die, metered.run, idle])]
  exact ((MeterRest.setDie s v other).trans (.of_regs regs other)).trans (.setDie _ _ other)

theorem State.windowDie_runsOn : RunsOn s (s.windowDie e) := by
  obtain ⟨v, u, metered, regs, _, shape⟩ := s.windowDie_shape e
  have die : u.die e = v := by rw [State.die, regs.only.same .dies rfl]; exact State.die_setDie_self ..
  rw [shape, State.bucketDie_idle (by rw [die, metered.run, idle])]
  exact ((RunsOn.setDie s e metered.run metered.drifted).trans (.of_dies (regs.only.same .dies rfl))).trans (.setDie u e rfl rfl)

end

theorem MeterRest.of_kept {m d : Nat} {s t : State} (k : Kept m s t) (regs : ∀ a, meterKeeps d a → t.rd a = s.rd a)
    (dies : m.testBit 14 = false := by decide) (time : m.testBit 2 = false := by decide)
    (power : m.testBit 27 = false := by decide) : MeterRest d s t :=
  ⟨by unfold State.die; rw [k.same .dies dies], regs, k.same .time time, k.same .power power⟩

theorem ne_of_meterKeeps {d a b : Nat} (keeps : meterKeeps d a) (lo : 0x30_0010 ≤ b) (hi : b < 0x40_0000) : a ≠ b := by
  unfold meterKeeps at keeps
  omega

/-- The energy of the package goes to tenancies and to overhead: no die's window goes by what this writes. -/
theorem State.attributeNet_rest (s : State) (d u : Nat) : MeterRest d s (s.attributeNet u) := by
  refine .of_kept (State.attributeNet_kept (.refl 0x40000010 s) u (Sub.refl _)) fun a keeps => ?_
  unfold State.attributeNet
  extract_lets got all part parts s0 v
  have one (t : State) {k : Nat} (hk : k < 8) (n : Nat) (m : NMap (Nat × Nat)) :
      ({ t.bump (R.PWR_TEN_UJ k) n with netBytes := m } : State).rd a = t.rd a := by
    refine State.rd_bump_ne _ _ _ _ (ne_of_meterKeeps keeps ?_ ?_)
    · simp only [R.PWR_TEN_UJ, Blk.base]; omega
    · simp only [R.PWR_TEN_UJ, Blk.base]; omega
  have tens : v.rd a = s.rd a := by
    unfold v
    clear_value part
    refine List.foldlRecOn (motive := fun t : State => t.rd a = s.rd a) _ _ rfl fun t ht k hk => ?_
    exact (one t (List.mem_range.1 hk) _ _).trans ht
  exact (State.rd_bump_ne _ _ _ _ (ne_of_meterKeeps keeps (by decide) (by decide))).trans tens

theorem State.overUs_setF (s : State) (a : Nat) (g : Nat × Nat) (v : Nat) : (s.setF a g v).overUs = s.overUs := rfl

/-- Under the cap and below 8,600 W no limit of the package is reached. -/
theorem State.packageLimits_quiet {s : State} {w : Nat} (under : w ≤ s.f R.PWR_CAP F.PWR_CAP_CAP_W) (low : w < 8600) (inj : Bool) :
    s.packageLimits w inj = (s.setF R.PWR_STAT F.PWR_STAT_OVER_CAP 0).setF R.PWR_RESERVE F.PWR_RESERVE_OVER_MS
      (min 20 (s.overUs / 1000)) := by
  unfold State.packageLimits
  extract_lets cap ups a b before ms c hit e last
  have over' : ¬ cap < w := Nat.not_lt.2 under
  have ha : a = s.setF R.PWR_STAT F.PWR_STAT_OVER_CAP 0 := by unfold a; rw [if_neg over']
  have hb : b = a := by unfold b; rw [if_neg over']
  have he : e = c := by unfold e; rw [if_neg fun h => over' h.2]
  have overUs : b.overUs = s.overUs := by rw [hb, ha, State.overUs_setF]
  rw [if_neg (Nat.not_le.2 low), he]
  unfold c ms
  rw [overUs, hb, ha]

/-- The windows of the powered dies, once the package's own energy is taken. -/
def State.windowDies (s : State) (v : DieState) : State :=
  ((List.range 8).filter fun d => !s.dieDown d).foldl (fun (t : State) d => t.windowDie d) (s.setDie 8 v)

section
variable {s : State} (idle : ∀ d < 8, (s.die d).run = none)
include idle

/-- Each window begins with no heat on its die. -/
theorem State.windowDies_runsOn {v : DieState} (run : v.run = (s.die 8).run) (drifted : v.drifted = (s.die 8).drifted) :
    RunsOn s (s.windowDies v) :=
  List.foldlRecOn (motive := fun t : State => RunsOn s t) _ _ (.setDie s 8 run drifted) fun _ ht e he =>
    ht.trans (State.windowDie_runsOn ((ht e).1.trans (idle e (List.mem_range.1 (List.mem_of_mem_filter he)))))

/-- What no window writes is what a unit that is not there, 9, would go by. -/
theorem State.windowDies_rest {v : DieState} (run : v.run = (s.die 8).run) (drifted : v.drifted = (s.die 8).drifted) :
    MeterRest 9 s (s.windowDies v) :=
  (List.foldlRecOn (motive := fun t : State => MeterRest 9 s t ∧ RunsOn s t) _ _
    ⟨.setDie s v (by decide), .setDie s 8 run drifted⟩ fun t ht e he => by
      have small := List.mem_range.1 (List.mem_of_mem_filter he)
      have none := (ht.2 e).1.trans (idle e small)
      exact ⟨ht.1.trans (State.windowDie_rest none (by omega)), ht.2.trans (State.windowDie_runsOn none)⟩).1

theorem State.windowDies_windowed {v : DieState} (run : v.run = (s.die 8).run) (drifted : v.drifted = (s.die 8).drifted)
    {d : Nat} (hd : d < 8) (up : s.dieDown d = false) : Windowed d s (s.windowDies v) := by
  have none {t : State} {e : Nat} (he : e ∈ (List.range 8).filter fun d => !s.dieDown d) (ht : RunsOn s t) : (t.die e).run = none :=
    (ht e).1.trans (idle e (List.mem_range.1 (List.mem_of_mem_filter he)))
  have mem : d ∈ (List.range 8).filter fun d => !s.dieDown d := List.mem_filter.2 ⟨List.mem_range.2 hd, by rw [up]; rfl⟩
  exact (foldl_reaches (Before := fun t => MeterRest d s t ∧ RunsOn s t) (After := fun t => Windowed d s t ∧ RunsOn s t)
    (List.nodup_range.filter _) mem
    (fun t e he n ht => ⟨ht.1.trans (State.windowDie_rest (none he ht.2) n), ht.2.trans (State.windowDie_runsOn (none he ht.2))⟩)
    (fun t ht => ⟨(State.windowDie_windowed (none mem ht.2)).of_rest ht.1, ht.2.trans (State.windowDie_runsOn (none mem ht.2))⟩)
    (fun t e he n ht => ⟨ht.1.rest (State.windowDie_rest (none he ht.2) n), ht.2.trans (State.windowDie_runsOn (none he ht.2))⟩)
    ⟨.setDie s v (by omega), .setDie s 8 run drifted⟩).1

end

/-- With no heat running, no unit in drift and a power under the cap and below 8,600 W, every powered die has its window. -/
theorem State.doBucketWindow_quiet {s : State} {frames : Nat} (unarmed : Unarmed s 0x3E)
    (idle : ∀ d < 8, (s.die d).run = none) (still : ∀ d < 9, (s.die d).drifted = false)
    (under : (((List.range 8).filter fun d => !s.dieDown d).map s.diePj).sum + s.pkgPj frames <
      1000000 * (s.f R.PWR_CAP F.PWR_CAP_CAP_W + 1))
    (low : (((List.range 8).filter fun d => !s.dieDown d).map s.diePj).sum + s.pkgPj frames < 8600000000)
    {d : Nat} (hd : d < 8) (up : s.dieDown d = false) : Windowed d s (s.doBucketWindow frames) := by
  unfold State.doBucketWindow
  extract_lets ups dies pkg v u hist a b c i e model drifted w
  obtain ⟨r, start, run, drift⟩ : ∃ r, a = s.setDie 8 r ∧ r.run = (s.die 8).run ∧ r.drifted = (s.die 8).drifted :=
    ⟨_, rfl, rfl, rfl⟩
  have windows : b = s.windowDies r := by unfold b State.windowDies; rw [start]
  have counted (j : Nat) : MeterRest j b c := by
    unfold c
    split
    · exact (b.attributeNet_rest j u).trans (.of_regs ((MeterRegs.refl (j + 1) _).bump meterReg_package _) (by omega))
    · exact .refl j b
  have runs : RunsOn s c := fun j => by
    rw [(counted j).die, windows]
    exact State.windowDies_runsOn idle run drift j
  have rest : MeterRest 9 s c := (windows ▸ State.windowDies_rest idle run drift : MeterRest 9 s b).trans (counted 9)
  have quiet : Unarmed c 0x3E := (rest.field (by simp only [meterKeeps, R.INJ_P_CTL, Blk.base]; omega) _).trans unarmed
  have plain : i = (none, c) := State.inject_unarmed quiet ..
  have same : e = c := by unfold e; rw [plain]
  have none : drifted = false := by
    unfold drifted
    rw [List.any_eq_false]
    intro j hj
    rw [same, (runs j).2, still j (List.mem_range.1 hj)]
    decide
  have watts : w = model := by unfold w; rw [plain, none]; rfl
  have cap : e.f R.PWR_CAP F.PWR_CAP_CAP_W = s.f R.PWR_CAP F.PWR_CAP_CAP_W := by
    rw [same]
    exact rest.field (by simp only [meterKeeps, R.PWR_CAP, Blk.base]; omega) _
  have power : w ≤ s.f R.PWR_CAP F.PWR_CAP_CAP_W ∧ w < 8600 := by
    rw [watts]
    have total : dies + pkg < 1000000 * (s.f R.PWR_CAP F.PWR_CAP_CAP_W + 1) ∧ dies + pkg < 8600000000 := ⟨under, low⟩
    unfold model
    omega
  rw [State.packageLimits_quiet (by rw [cap]; exact power.1) power.2, same]
  have last : MeterRegs 8 c _ := ((MeterRegs.refl 8 c).setF (a := R.PWR_STAT) meterReg_package F.PWR_STAT_OVER_CAP 0).setF
    (a := R.PWR_RESERVE) meterReg_package F.PWR_RESERVE_OVER_MS (min 20 (c.overUs / 1000))
  exact ((windows ▸ State.windowDies_windowed idle run drift hd up : Windowed d s b).rest (counted d)).rest
    (.of_regs last (by omega))

theorem reserveRefill_fills (s : State) (spare : ∀ d : Fin 8, ∀ r, (s.die d).run = some r → r.pin = true → 0 < (s.die d).bucket) :
    ∃ t, exec .reserveRefill s = .next t ∧ RegsBut s t [R.PWR_RESERVE] ∧ t = { s with regs := t.regs } ∧
      t.f R.PWR_RESERVE F.PWR_RESERVE_LEVEL = (min (1000 * s.f R.PWR_POLICY F.PWR_POLICY_RESERVE_MJ)
        (s.f R.PWR_RESERVE F.PWR_RESERVE_LEVEL + s.f R.PWR_POLICY F.PWR_POLICY_RESERVE_MJ)) % 2 ^ 32 := by
  refine ⟨_, State.when_true _ _ ?_, (RegsBut.of_regs rfl).setF (by simp) _ _, rfl, State.f_setF _ _ _ _ (by decide)⟩
  rw [Bool.not_eq_true', List.any_eq_false]
  intro d hd
  rcases run : (s.die d).run with _ | r
  · simp
  · cases pin : r.pin
    · simp [pin]
    · have held := spare ⟨d, List.mem_range.1 hd⟩ r run pin
      simp only [pin, Bool.true_and, decide_eq_true_eq, not_le]
      exact held

/-- Settles O35: the windows of the dies follow one another, each on its own die, and the package's limits are not reached. -/
theorem bucketsFillAndDrain : Obligations.BucketsFillAndDrain := by
  unfold Obligations.BucketsFillAndDrain
  refine ⟨fun frames s unarmed idle still under low => ?window, reserveRefill_fills⟩
  case window =>
    have ran : exec (.bucketWindow frames) s = .next (s.doBucketWindow frames) := rfl
    refine ⟨_, ran, exec_same ran .spad (by simp [touches, Part.reported]), exec_same ran .hbm (by simp [touches, Part.reported]),
      fun d up => ?_⟩
    have drifted (j : Nat) (hj : j < 9) : (s.die j).drifted = false := by
      rcases Nat.lt_succ_iff_lt_or_eq.1 hj with lt | rfl
      · exact (idle ⟨j, lt⟩).2
      · exact still
    obtain ⟨bucket, pj, counts, alloc, counted⟩ :=
      State.doBucketWindow_quiet unarmed (fun j hj => (idle ⟨j, hj⟩).1) drifted under low d.isLt up
    exact ⟨bucket, pj, counts, alloc, counted⟩

/-! ### Coefficients are fitted (R180) -/

/-- The coefficient a calibration fits for a class of a unit, with the free value `n`. -/
def newCoef (d k old n : Nat) : Nat := fitted old (defaultCoef k) (Config.calibrationFit d k (BitVec.ofNat 32 old) n) % 2 ^ 32

/-- A coefficient of a class is fitted anew, where it has been seen, and retained. -/
def State.fitClass (s : State) (d seen k : Nat) : State :=
  if bitOf seen k then
    let a := R.PWR_COEF d k
    let old := s.f a F.PWR_COEF_COEF
    let fit := Config.calibrationFit d k (BitVec.ofNat 32 old) s.free
    (s.setF a F.PWR_COEF_COEF (fitted old (defaultCoef k) fit)).palPut false a
  else s

def State.fitDie (s : State) (d : Nat) : State :=
  let t := (List.range 16).foldl (fun (t : State) k => t.fitClass d (s.die d).classes k) s
  t.setDie d { t.die d with classes := 0 }

/-- A coefficient of the package is fitted anew and retained. -/
def State.fitLink (s : State) (j : Nat) : State :=
  let a := R.PWR_LCOEF j
  let old := s.f a F.PWR_LCOEF_COEF
  let fit := Config.calibrationFit 8 j (BitVec.ofNat 32 old) s.free
  (s.setF a F.PWR_LCOEF_COEF (fitted old (defaultLcoef j) fit)).palPut false a

/-- The powered dies' coefficients and then the package's are fitted. -/
def State.fitAll (s : State) : State :=
  (List.range 4).foldl (fun (t : State) j => t.fitLink j)
    (((List.range 8).filter fun d => !s.dieDown d).foldl (fun (t : State) d => t.fitDie d) s)

/-- A recalibration is counted last. -/
def State.calCounted (s : State) : State :=
  { s with free := s.free + 1 }.setF R.PWR_CAL F.PWR_CAL_CAL_COUNT (s.f R.PWR_CAL F.PWR_CAL_CAL_COUNT + 1)

theorem State.refit_eq (s : State) : s.refit = s.fitAll.calCounted := rfl

/-- Putting a value into the palimpsest writes no register but its sequence number. -/
theorem State.rd_palPut (s : State) (h : Bool) (b : Nat) {a : Nat} (n : a ≠ R.BH_PAL_SEQ) : (s.palPut h b).rd a = s.rd a := by
  unfold State.palPut
  extract_lets u
  have seq : u.rd a = s.rd a := by
    unfold u
    split
    · exact State.rd_bump_ne _ _ _ _ n
    · rfl
  exact seq

section
variable (s : State) (d seen k : Nat)

theorem State.fitClass_kept : Kept 0x300010 s (s.fitClass d seen k) := by
  have full := Sub.refl 0x300010
  unfold State.fitClass
  split
  · exact State.palPut_kept (State.setF_kept (.refl _ s) ..) ..
  · exact .refl _ s

theorem State.fitClass_regsBut : RegsBut s (s.fitClass d seen k) [R.PWR_COEF d k, R.BH_PAL_SEQ] := fun a n => by
  simp only [List.mem_cons, List.not_mem_nil, or_false, not_or] at n
  unfold State.fitClass
  split
  · rw [State.rd_palPut _ _ _ n.2, State.rd_setF_ne _ _ _ _ _ n.1]
  · rfl

theorem coef_ne_palSeq : R.PWR_COEF d k ≠ R.BH_PAL_SEQ := by simp only [R.PWR_COEF, R.BH_PAL_SEQ, Blk.base, dieBase]; omega

theorem State.coef_fitClass (seenClass : bitOf seen k = true) : (s.fitClass d seen k).f (R.PWR_COEF d k) F.PWR_COEF_COEF =
    newCoef d k (s.f (R.PWR_COEF d k) F.PWR_COEF_COEF) s.free := by
  unfold State.fitClass
  rw [if_pos seenClass, State.f_congr (State.rd_palPut _ _ _ (coef_ne_palSeq d k)), State.f_setF _ _ _ _ (by decide)]
  rfl

theorem State.fitClass_unseen (unseen : bitOf seen k = false) : s.fitClass d seen k = s := by
  unfold State.fitClass
  rw [if_neg (by rw [unseen]; decide)]

end

/-- What fitting makes of a die's coefficients from state s on. -/
structure CoefsFitted (d classes : Nat) (s t : State) (k : Nat) : Prop where
  seen : bitOf classes k = true → t.f (R.PWR_COEF d k) F.PWR_COEF_COEF =
    newCoef d k (s.f (R.PWR_COEF d k) F.PWR_COEF_COEF) s.free
  unseen : bitOf classes k = false → t.rd (R.PWR_COEF d k) = s.rd (R.PWR_COEF d k)

theorem CoefsFitted.same {d seen k : Nat} {s t u : State} (h : CoefsFitted d seen s t k)
    (same : u.rd (R.PWR_COEF d k) = t.rd (R.PWR_COEF d k)) : CoefsFitted d seen s u k :=
  ⟨fun yes => (State.f_congr same _).trans (h.seen yes), fun no => same.trans (h.unseen no)⟩

theorem coef_inj {d j k : Nat} (h : k ≠ j) : R.PWR_COEF d k ≠ R.PWR_COEF d j := by simp only [R.PWR_COEF]; omega

/-- Fitting a die's classes one after another fits each as it was. -/
theorem State.fitClasses_fitted (s : State) (d seen : Nat) {k : Nat} (hk : k < 16) :
    CoefsFitted d seen s ((List.range 16).foldl (fun (t : State) k => t.fitClass d seen k) s) k := by
  have other (t : State) {j : Nat} (n : j ≠ k) : (t.fitClass d seen j).rd (R.PWR_COEF d k) = t.rd (R.PWR_COEF d k) :=
    t.fitClass_regsBut d seen j _ (by simp [coef_inj (Ne.symm n), coef_ne_palSeq])
  refine foldl_reaches (Before := fun t => t.rd (R.PWR_COEF d k) = s.rd (R.PWR_COEF d k) ∧ t.free = s.free)
    (After := fun t => CoefsFitted d seen s t k) List.nodup_range (List.mem_range.2 hk)
    (fun t j _ n ht => ⟨(other t n).trans ht.1, ((t.fitClass_kept d seen j).same .free rfl).trans ht.2⟩)
    (fun t ht => ⟨fun yes => ?_, fun no => ?_⟩) (fun t j _ n ht => ht.same (other t n)) ⟨rfl, rfl⟩
  · rw [State.coef_fitClass _ _ _ _ yes, State.f_congr ht.1, ht.2]
  · rw [State.fitClass_unseen _ _ _ _ no, ht.1]

/-- What fitting makes of a die from state s on. -/
structure DieFitted (d : Nat) (s t : State) : Prop where
  classes : (t.die d).classes = 0
  coefs : ∀ k < 16, CoefsFitted d (s.die d).classes s t k

/-- What fitting other units leaves of a die: its record and its coefficients. -/
structure FitRest (d : Nat) (s t : State) : Prop where
  die : t.die d = s.die d
  coef : ∀ k < 16, t.rd (R.PWR_COEF d k) = s.rd (R.PWR_COEF d k)

namespace FitRest
variable {d : Nat} {s t u : State}

theorem refl (d : Nat) (s : State) : FitRest d s s := ⟨rfl, fun _ _ => rfl⟩

theorem trans (h : FitRest d s t) (k : FitRest d t u) : FitRest d s u :=
  ⟨k.die.trans h.die, fun j hj => (k.coef j hj).trans (h.coef j hj)⟩

theorem fitted (h : FitRest d t u) (k : DieFitted d s t) : DieFitted d s u :=
  ⟨by rw [h.die, k.classes], fun j hj => (k.coefs j hj).same (h.coef j hj)⟩

end FitRest

theorem State.fitClasses_kept (s : State) (d seen : Nat) :
    Kept 0x300010 s ((List.range 16).foldl (fun (t : State) k => t.fitClass d seen k) s) :=
  Kept.foldl (.refl _ s) fun t k h => h.trans (t.fitClass_kept d seen k)

theorem State.fitDie_kept (s : State) (d : Nat) : Kept 0x304010 s (s.fitDie d) :=
  State.setDie_kept ((s.fitClasses_kept d _).weaken ⟨by decide⟩) _ _ (Sub.le (Sub.refl _) (by decide))

/-- A register no class's fit writes. -/
theorem State.rd_fitDie (s : State) (d : Nat) {a : Nat} (apart : ∀ k < 16, a ≠ R.PWR_COEF d k) (seq : a ≠ R.BH_PAL_SEQ) :
    (s.fitDie d).rd a = s.rd a := by
  unfold State.fitDie
  dsimp only
  rw [State.rd_setDie]
  exact List.foldlRecOn (motive := fun t : State => t.rd a = s.rd a) _ _ rfl fun t ht k hk =>
    (t.fitClass_regsBut d _ k a (by simp [apart k (List.mem_range.1 hk), seq])).trans ht

theorem State.fitDie_rest (s : State) {d e : Nat} (other : e ≠ d) : FitRest d s (s.fitDie e) := by
  refine ⟨?_, fun k hk => s.rd_fitDie e (fun j hj => ?_) (coef_ne_palSeq d k)⟩
  · refine (State.die_setDie_ne _ _ _ _ other.symm).trans ?_
    rw [State.die, (s.fitClasses_kept e _).same .dies rfl]
    rfl
  · simp only [R.PWR_COEF, Blk.base, dieBase]; omega

theorem State.fitDie_fitted {s t : State} {d : Nat} (rest : FitRest d s t) (free : t.free = s.free) : DieFitted d s (t.fitDie d) := by
  refine ⟨congrArg DieState.classes (State.die_setDie_self ..), fun k hk => ?_⟩
  have own := (t.fitClasses_fitted d (t.die d).classes hk).same (u := t.fitDie d) (State.rd_setDie ..)
  rw [rest.die] at own
  exact ⟨fun yes => by rw [own.seen yes, State.f_congr (rest.coef k hk), free], fun no => (own.unseen no).trans (rest.coef k hk)⟩

theorem State.fitLink_kept (s : State) (j : Nat) : Kept 0x300010 s (s.fitLink j) :=
  have full := Sub.refl 0x300010
  State.palPut_kept (State.setF_kept (.refl _ s) ..) ..

theorem State.rd_fitLink (s : State) {j a : Nat} (n : a ≠ R.PWR_LCOEF j) (seq : a ≠ R.BH_PAL_SEQ) :
    (s.fitLink j).rd a = s.rd a :=
  (State.rd_palPut _ _ _ seq).trans (State.rd_setF_ne _ _ _ _ _ n)

theorem coef_ne_lcoef {d k j : Nat} (hj : j < 4) : R.PWR_COEF d k ≠ R.PWR_LCOEF j := by
  simp only [R.PWR_COEF, R.PWR_LCOEF, Blk.base, dieBase]; omega

theorem State.fitLink_rest (s : State) (d : Nat) {j : Nat} (hj : j < 4) : FitRest d s (s.fitLink j) := by
  refine ⟨?_, fun k _ => s.rd_fitLink (coef_ne_lcoef hj) (coef_ne_palSeq d k)⟩
  rw [State.die, (s.fitLink_kept j).same .dies rfl]
  rfl

theorem State.rd_calCounted (s : State) {a : Nat} (n : a ≠ R.PWR_CAL) : s.calCounted.rd a = s.rd a :=
  State.rd_setF_ne _ _ _ _ _ n

theorem State.calCounted_rest (s : State) (d : Nat) : FitRest d s s.calCounted :=
  ⟨rfl, fun k _ => s.rd_calCounted (by simp only [R.PWR_COEF, R.PWR_CAL, Blk.base, dieBase]; omega)⟩

/-- A recalibration fits every powered die. -/
theorem State.refit_fitted (s : State) {d : Nat} (hd : d < 8) (up : s.dieDown d = false) : DieFitted d s s.refit := by
  have mem : d ∈ (List.range 8).filter fun d => !s.dieDown d := List.mem_filter.2 ⟨List.mem_range.2 hd, by rw [up]; rfl⟩
  have dies := foldl_reaches (f := fun (t : State) d => t.fitDie d) (Before := fun t => FitRest d s t ∧ t.free = s.free)
    (After := fun t => DieFitted d s t) (List.nodup_range.filter _) mem
    (fun t e _ n ht => ⟨ht.1.trans (t.fitDie_rest n), ((t.fitDie_kept e).same .free rfl).trans ht.2⟩)
    (fun t ht => State.fitDie_fitted ht.1 ht.2) (fun t e _ n ht => (t.fitDie_rest n).fitted ht) ⟨.refl d s, rfl⟩
  have all : DieFitted d s s.fitAll := List.foldlRecOn (motive := fun t : State => DieFitted d s t) _ _ dies fun t ht j hj =>
    (t.fitLink_rest d (List.mem_range.1 hj)).fitted ht
  rw [State.refit_eq]
  exact (s.fitAll.calCounted_rest d).fitted all

/-- The count of recalibrations is not the refit's to write. -/
theorem State.count_refit (s : State) : s.refit.rd (R.MNT_CNT_RUN 3) = s.rd (R.MNT_CNT_RUN 3) := by
  have seq : R.MNT_CNT_RUN 3 ≠ R.BH_PAL_SEQ := by decide
  have dies : (((List.range 8).filter fun d => !s.dieDown d).foldl (fun (t : State) d => t.fitDie d) s).rd (R.MNT_CNT_RUN 3) =
      s.rd (R.MNT_CNT_RUN 3) :=
    List.foldlRecOn (motive := fun t : State => t.rd (R.MNT_CNT_RUN 3) = s.rd (R.MNT_CNT_RUN 3)) _ _ rfl fun t ht d _ =>
      (t.rd_fitDie d (fun k _ => by simp only [R.PWR_COEF, R.MNT_CNT_RUN, Blk.base, dieBase]; omega) seq).trans ht
  have all : s.fitAll.rd (R.MNT_CNT_RUN 3) = s.rd (R.MNT_CNT_RUN 3) :=
    List.foldlRecOn (motive := fun t : State => t.rd (R.MNT_CNT_RUN 3) = s.rd (R.MNT_CNT_RUN 3)) _ _ dies fun t ht j hj =>
      (t.rd_fitLink (by have := List.mem_range.1 hj; simp only [R.PWR_LCOEF, R.MNT_CNT_RUN, Blk.base]; omega) seq).trans ht
  rw [State.refit_eq, State.rd_calCounted _ (by decide), all]

/-! ### The arbiter takes a request (R299) -/

section
variable {s : State} (unarmed : Unarmed s 0x52) (q : MaintReq)
include unarmed

theorem State.maintRequest_starts (free : ∀ m ∈ s.maint.running ++ s.maint.queue, s.maintConflict q m = false) :
    s.maintRequest q = (0, ({ s with maint := { s.maint with
      running := s.maint.running ++ [{ q with started := s.time }] } } : State).setMaintLast 0) := by
  have none : ((s.maint.running ++ s.maint.queue).any fun m => s.maintConflict q m) = false := by
    rw [List.any_eq_false]
    intro m hm
    rw [free m hm]
    decide
  unfold State.maintRequest
  simp only [State.inject_unarmed unarmed, none, Option.isSome_none, Bool.or_false, Bool.false_and, Bool.false_eq_true, if_false]

theorem State.maintRequest_defers (held : ¬ ∀ m ∈ s.maint.running ++ s.maint.queue, s.maintConflict q m = false)
    (room : s.maint.queue.length < 64) : s.maintRequest q = (1, (({ s with maint := { s.maint with
      queue := s.maint.queue ++ [q] } } : State).setMaintLast 1).bump (R.MNT_CNT_DEFER (q.act - 1)) 1) := by
  have some : ((s.maint.running ++ s.maint.queue).any fun m => s.maintConflict q m) = true := by
    rw [List.any_eq_true]
    simpa using held
  unfold State.maintRequest
  simp only [State.inject_unarmed unarmed, some, Nat.not_le.2 room, Option.isSome_none, Bool.or_true, decide_false, Bool.and_false,
    Bool.or_false, Bool.false_eq_true, if_false, if_true]

end

/-- The last activity to have started ends well. -/
theorem State.maintEnd_last {s : State} {l : List MaintReq} {q : MaintReq} (run : s.maint.running = l ++ [q]) :
    s.maintEnd l.length true = (({ s with maint := { s.maint with running := l } } : State).setMaintLast 3).bump
      (R.MNT_CNT_RUN (q.act - 1)) 1 := by
  have at' : s.maint.running[l.length]? = some q := by rw [run]; simp
  have gone : s.maint.running.eraseIdx l.length = l := by rw [run]; simp [List.eraseIdx_append_of_length_le]
  unfold State.maintEnd
  rw [at']
  simp only [gone, if_true]

/-- The request a calibration makes of the arbiter. -/
def State.calRequest (s : State) : MaintReq :=
  { act := 4, scope := 0, arg := 0, iss := .boathouse, asked := s.time, started := s.time, image := none }

/-- The state once the arbiter has let a calibration start. -/
def State.calStarted (s : State) : State :=
  ({ s with maint := { s.maint with running := s.maint.running ++ [s.calRequest] } } : State).setMaintLast 0

/-- The state once a calibration has ended well, with the arbiter's lists as in `m`. -/
def State.calEnded (s : State) (m : Maint) : State := (({ s with maint := m } : State).setMaintLast 3).bump (R.MNT_CNT_RUN 3) 1

section
variable (s : State)

theorem State.rd_calStarted {a : Nat} (n : a ≠ R.MNT_STAT) : s.calStarted.rd a = s.rd a := State.rd_setF_ne _ _ _ _ _ n

theorem State.die_calStarted (d : Nat) : s.calStarted.die d = s.die d := by
  unfold State.calStarted State.setMaintLast
  rw [State.die_setF]
  rfl

theorem State.dieDown_calStarted (d : Nat) : s.calStarted.dieDown d = s.dieDown d := by
  unfold State.dieDown
  rw [State.die_calStarted]
  rfl

theorem State.maint_calStarted : s.calStarted.maint = { s.maint with running := s.maint.running ++ [s.calRequest] } := by
  unfold State.calStarted State.setMaintLast
  rw [State.setF_maint]

variable (m : Maint)

theorem State.rd_calEnded {a : Nat} (stat : a ≠ R.MNT_STAT) (count : a ≠ R.MNT_CNT_RUN 3) : (s.calEnded m).rd a = s.rd a :=
  (State.rd_bump_ne _ _ _ _ count).trans (State.rd_setF_ne _ _ _ _ _ stat)

theorem State.count_calEnded : (s.calEnded m).rd (R.MNT_CNT_RUN 3) = s.rd (R.MNT_CNT_RUN 3) + 1 := by
  unfold State.calEnded State.setMaintLast
  rw [State.rd_bump_self, State.rd_setF_ne _ _ _ _ _ (by decide)]
  rfl

theorem State.die_calEnded (d : Nat) : (s.calEnded m).die d = s.die d := by
  unfold State.calEnded State.setMaintLast
  rw [State.die_bump, State.die_setF]
  rfl

theorem State.maint_calEnded : (s.calEnded m).maint = m := by
  unfold State.calEnded State.setMaintLast
  rw [State.bump_maint, State.setF_maint]

theorem State.doCalibration_eq : s.doCalibration = if (s.maintRequest s.calRequest).1 = 0 then
    (s.maintRequest s.calRequest).2.refit.maintEnd ((s.maintRequest s.calRequest).2.maint.running.length - 1) true
    else (s.maintRequest s.calRequest).2 := rfl

end

/-- A calibration that starts fits the coefficients and ends at once. -/
theorem State.doCalibration_fits {s : State} (unarmed : Unarmed s 0x52)
    (free : ∀ m ∈ s.maint.running ++ s.maint.queue, s.maintConflict s.calRequest m = false) :
    s.doCalibration = s.calStarted.refit.calEnded s.maint := by
  have taken : s.maintRequest s.calRequest = (0, s.calStarted) := State.maintRequest_starts unarmed s.calRequest free
  have maint : s.calStarted.refit.maint = { s.maint with running := s.maint.running ++ [s.calRequest] } :=
    ((State.refit_kept (.refl _ s.calStarted) (Sub.refl _)).same .maint rfl).trans s.maint_calStarted
  have ended := State.maintEnd_last (s := s.calStarted.refit) (congrArg Maint.running maint)
  have place : s.calStarted.maint.running.length - 1 = s.maint.running.length := by
    rw [State.maint_calStarted, List.length_append]
    rfl
  rw [State.doCalibration_eq, taken, if_pos rfl, place, ended, maint]
  rfl

theorem calibration_fits (s : State) (on : s.f R.PWR_POLICY F.PWR_POLICY_CAL_EN = 1) (unarmed : Unarmed s 0x52) :
    let q : MaintReq := { act := 4, scope := 0, arg := 0, iss := .boathouse, asked := s.time, started := s.time, image := none }
    let free := ∀ m ∈ s.maint.running ++ s.maint.queue, s.maintConflict q m = false
    ∃ t, exec .calibration s = .next t ∧
      (free → t.maint = s.maint ∧ t.rd (R.MNT_CNT_RUN 3) = s.rd (R.MNT_CNT_RUN 3) + 1 ∧ ∀ (d : Die) (k : Fin 16),
        s.dieDown d = false →
        let old := s.f (R.PWR_COEF d k) F.PWR_COEF_COEF
        (bitOf (s.die d).classes k = true → t.f (R.PWR_COEF d k) F.PWR_COEF_COEF =
          fitted old (defaultCoef k) (Config.calibrationFit d k (BitVec.ofNat 32 old) s.free) % 2 ^ 32) ∧
        (bitOf (s.die d).classes k = false → t.rd (R.PWR_COEF d k) = s.rd (R.PWR_COEF d k)) ∧ (t.die d).classes = 0) ∧
      (¬ free → s.maint.queue.length < 64 → t.maint.queue = s.maint.queue ++ [q] ∧
        RegsBut s t [R.MNT_STAT, R.MNT_CNT_DEFER 3]) := by
  intro q free
  refine ⟨s.doCalibration, State.when_true _ _ (by rw [on]; rfl), fun none => ?fits, fun held room => ?defers⟩
  case fits =>
    rw [State.doCalibration_fits unarmed none]
    refine ⟨State.maint_calEnded .., ?_, fun d k up => ?_⟩
    · rw [State.count_calEnded, State.count_refit, State.rd_calStarted _ (by decide)]
    · have fit : DieFitted d s.calStarted s.calStarted.refit := State.refit_fitted _ d.isLt ((s.dieDown_calStarted d).trans up)
      have ne : R.PWR_COEF d k ≠ R.MNT_CNT_RUN 3 ∧ R.PWR_COEF d k ≠ R.MNT_STAT := by
        simp only [R.PWR_COEF, R.MNT_CNT_RUN, R.MNT_STAT, Blk.base, dieBase]; omega
      obtain ⟨seen, unseen⟩ := (fit.coefs k k.isLt).same (State.rd_calEnded _ s.maint ne.2 ne.1)
      rw [State.die_calStarted, State.rd_calStarted _ ne.2] at unseen
      rw [State.die_calStarted, State.f_congr (State.rd_calStarted _ ne.2)] at seen
      exact ⟨seen, unseen, (congrArg DieState.classes (State.die_calEnded ..)).trans fit.classes⟩
  case defers =>
    have queued : s.doCalibration = (({ s with maint := { s.maint with queue := s.maint.queue ++ [q] } } : State).setMaintLast
        1).bump (R.MNT_CNT_DEFER 3) 1 := by
      rw [State.doCalibration_eq, show s.maintRequest s.calRequest = _ from State.maintRequest_defers unarmed q held room,
        if_neg Nat.one_ne_zero]
      rfl
    rw [queued]
    exact ⟨by rw [State.bump_maint, State.setMaintLast, State.setF_maint],
      ((RegsBut.of_regs rfl).setF (by simp) _ _).bump (by simp) 1⟩

/-! ### Drift of the model (R181) -/

/-- What intervals of other units leave of a die: its record, but for what a report tells its heat, and its registers but for
those of reports. -/
structure DriftRest (d : Nat) (s t : State) : Prop where
  die : ∃ r, t.die d = { s.die d with run := r }
  regs : ∀ a, meterKeeps d a → ¬ reportReg a → t.rd a = s.rd a

namespace DriftRest
variable {d e : Nat} {s t u : State}

theorem refl (d : Nat) (s : State) : DriftRest d s s := ⟨⟨_, rfl⟩, fun _ _ _ => rfl⟩

theorem trans (h : DriftRest d s t) (k : DriftRest d t u) : DriftRest d s u where
  die := by
    obtain ⟨r, e⟩ := h.die
    obtain ⟨r', e'⟩ := k.die
    exact ⟨r', by rw [e', e]⟩
  regs a n m := (k.regs a n m).trans (h.regs a n m)

theorem of_meter (h : MeterRest d s t) : DriftRest d s t := ⟨⟨_, h.die⟩, fun a n _ => h.regs a n⟩

theorem of_record {o : Occ} (bare : BareUnit o.kind) (s : State) (cause weight : Nat) : DriftRest d s (s.record o cause weight) where
  die := by
    obtain ⟨r, same, _⟩ := (RunsStopped.refl s).record (.inr bare) cause weight d
    exact ⟨r, same⟩
  regs a _ m := ((Reported.refl s).record bare cause weight).rd a m

section
variable (h : DriftRest d s t)
include h

theorem drift : (t.die d).drift = (s.die d).drift := by obtain ⟨r, e⟩ := h.die; rw [e]

theorem interval : (t.die d).interval = (s.die d).interval := by obtain ⟨r, e⟩ := h.die; rw [e]

theorem forceDrift : (t.die d).forceDrift = (s.die d).forceDrift := by obtain ⟨r, e⟩ := h.die; rw [e]

theorem unarmed (un : Unarmed s 0x38) : Unarmed t 0x38 := by
  refine (State.f_congr (h.regs _ ?_ ?_) _).trans un
  · simp only [meterKeeps, R.INJ_P_CTL, Blk.base]; omega
  · simp only [reportReg, errReg, R.INJ_P_CTL, Blk.base]; omega

end
end DriftRest

/-- A die's record once its interval has been set beside a measured power of `w` W. -/
def DieState.afterInterval (v : DieState) (w : Nat) : DieState :=
  let bad := aboveEight v.interval w
  let drift := if bad then v.drift + 1 else 0
  let calm := if bad then 0 else v.calm + 1
  { v with
    interval := 0, drift := drift, calm := calm, forceDrift := 0
    drifted := if 10 ≤ drift then true else if 10 ≤ calm then false else v.drifted }

/-- The event of a unit's drift: the package's, or the die's. -/
def State.driftEvent (s : State) (d : Nat) : State :=
  if d = 8 then s.setF R.PWR_EVENT F.PWR_EVENT_POWER_MODEL_DRIFT 1
  else s.setF (R.PWR_DIE_EVENT d) F.PWR_DIE_EVENT_POWER_MODEL_DRIFT 1

/-- Where no drift is injected or forced, an interval's disagreement is counted, and the tenth in a row is an event. -/
theorem State.driftUnit_plain {s : State} {d : Nat} (unarmed : Unarmed s 0x38) (plain : (s.die d).forceDrift = 0) (w : Nat) :
    ∃ o : Occ, BareUnit o.kind ∧ s.driftUnit d w =
      if ((s.die d).afterInterval w).drift = 10 then ((s.setDie d ((s.die d).afterInterval w)).driftEvent d).record o
      else s.setDie d ((s.die d).afterInterval w) := by
  refine ⟨occ 0x38 (if d = 8 then kPackage else kDie) (if d = 8 then 0 else d) ((s.die d).interval / 10 ^ 11) w, ?_, ?_⟩
  · show BareUnit (if d = 8 then kPackage else kDie)
    split
    · exact .inl rfl
    · exact .inr (.inl rfl)
  · unfold State.driftUnit
    simp only [State.inject_unarmed unarmed, plain, Option.isSome_none, Bool.false_eq_true, if_false, lt_irrefl, decide_false,
      Bool.false_or]
    rfl

theorem State.driftEvent_regs (s : State) (d : Nat) : MeterRegs d s (s.driftEvent d) := by
  unfold State.driftEvent
  split
  · exact (MeterRegs.refl d s).setF meterReg_package _ _
  · exact (MeterRegs.refl d s).setF (by simp only [meterReg, R.PWR_DIE_EVENT, Blk.base]; omega) _ _

theorem dieEvent_quiet {d : Nat} (hd : d < 8) : ¬ reportReg (R.PWR_DIE_EVENT d) := by
  simp only [reportReg, errReg, R.PWR_DIE_EVENT, Blk.base, dieBase]; omega

section
variable {s : State} {e : Nat} (unarmed : Unarmed s 0x38) (plain : (s.die e).forceDrift = 0) (w : Nat)
include unarmed plain

/-- The interval of a unit leaves the other units. -/
theorem State.driftUnit_rest {d : Nat} (other : e ≠ d) : DriftRest d s (s.driftUnit e w) := by
  obtain ⟨o, bare, shape⟩ := State.driftUnit_plain unarmed plain w
  have start : DriftRest d s (s.setDie e ((s.die e).afterInterval w)) := .of_meter (.setDie _ _ other)
  rw [shape]
  split
  · exact (start.trans (.of_meter (.of_regs (State.driftEvent_regs _ e) other))).trans (.of_record bare _ _ _)
  · exact start

theorem State.driftUnit_forceDrift : ((s.driftUnit e w).die e).forceDrift = 0 := by
  obtain ⟨o, bare, shape⟩ := State.driftUnit_plain unarmed plain w
  have own : ((s.setDie e ((s.die e).afterInterval w)).die e).forceDrift = 0 := by rw [State.die_setDie_self]; rfl
  rw [shape]
  split
  · rw [(DriftRest.of_record (d := e) bare _ 7 1).forceDrift, State.die, (State.driftEvent_regs _ e).only.same .dies rfl]
    exact own
  · exact own

end

/-- What the interval of die d, at `w` W measured, makes of it from state s on. -/
structure IntervalTaken (d w : Nat) (s t : State) : Prop where
  interval : (t.die d).interval = 0
  drift : (t.die d).drift = if aboveEight (s.die d).interval w = true then (s.die d).drift + 1 else 0
  event : aboveEight (s.die d).interval w = true → (s.die d).drift = 9 →
    t.f (R.PWR_DIE_EVENT d) F.PWR_DIE_EVENT_POWER_MODEL_DRIFT = 1
  quiet : (s.die d).drift < 9 → t.rd (R.PWR_DIE_EVENT d) = s.rd (R.PWR_DIE_EVENT d)
  others : ∀ a, ¬ reportReg a → a ≠ R.PWR_DIE_EVENT d → t.rd a = s.rd a

theorem State.driftUnit_taken {s : State} {d : Nat} (hd : d < 8) (unarmed : Unarmed s 0x38) (plain : (s.die d).forceDrift = 0)
    (w : Nat) : IntervalTaken d w s (s.driftUnit d w) := by
  obtain ⟨o, bare, shape⟩ := State.driftUnit_plain unarmed plain w
  let u := s.setDie d ((s.die d).afterInterval w)
  have own : u.die d = (s.die d).afterInterval w := State.die_setDie_self ..
  have event : u.driftEvent d = u.setF (R.PWR_DIE_EVENT d) F.PWR_DIE_EVENT_POWER_MODEL_DRIFT 1 := if_neg (by omega)
  rw [shape]
  split
  case isTrue ten =>
    have told : DriftRest d (u.driftEvent d) ((u.driftEvent d).record o) := .of_record bare _ _ _
    have die : (u.driftEvent d).die d = (s.die d).afterInterval w := by rw [event, State.die_setF, own]
    have regs := ((Reported.refl (u.driftEvent d)).record bare 7 1).rd
    refine ⟨?_, ?_, fun _ _ => ?_, fun few => ?_, fun a m n => ?_⟩
    · rw [told.interval, die]; rfl
    · rw [told.drift, die]; rfl
    · rw [State.f_congr (regs _ (dieEvent_quiet hd)), event, State.f_setF_of_lt _ _ _ _ (by decide) (by decide)]
    · have tenth : (if aboveEight (s.die d).interval w then (s.die d).drift + 1 else 0) = 10 := ten
      split at tenth <;> omega
    · rw [regs a m, event, State.rd_setF_ne _ _ _ _ _ n, State.rd_setDie]
  case isFalse below =>
    refine ⟨by rw [own]; rfl, by rw [own]; rfl, fun bad ninth => ?_, fun _ => State.rd_setDie .., fun a _ _ => State.rd_setDie ..⟩
    exact absurd (show (if aboveEight (s.die d).interval w then (s.die d).drift + 1 else 0) = 10 by rw [if_pos bad, ninth]) below

/-- A die's measured power is counted, and its interval is taken. -/
def State.measureDie (s : State) (d w : Nat) : State :=
  ((s.setF (R.PWR_DIE_STAT d) F.PWR_DIE_STAT_MEAS_W w).bump (R.PWR_DIE_MEAS_UJ d) (w * 100000)).driftUnit d w

/-- The measures of a die before its interval is taken. -/
theorem State.measured_regs (s : State) (d w : Nat) :
    MeterRegs d s ((s.setF (R.PWR_DIE_STAT d) F.PWR_DIE_STAT_MEAS_W w).bump (R.PWR_DIE_MEAS_UJ d) (w * 100000)) :=
  ((MeterRegs.refl d s).setF (meterReg_dieStat d) _ _).bump (by simp only [meterReg, R.PWR_DIE_MEAS_UJ, Blk.base]; omega) _

/-- No drift is injected or forced. -/
def Steady (s : State) : Prop := Unarmed s 0x38 ∧ ∀ j < 9, (s.die j).forceDrift = 0

theorem Steady.of_rest {e : Nat} {s t : State} (h : Steady s) (he : (t.die e).forceDrift = 0) (un : Unarmed t 0x38)
    (rest : ∀ j, j ≠ e → DriftRest j s t) : Steady t := by
  refine ⟨un, fun j hj => ?_⟩
  by_cases own : j = e
  · rw [own, he]
  · rw [(rest j own).forceDrift, h.2 j hj]

section
variable {s : State} (steady : Steady s) {e : Nat} (he : e < 9) (w : Nat)
include steady he

theorem Steady.driftUnit : Steady (s.driftUnit e w) :=
  steady.of_rest (State.driftUnit_forceDrift steady.1 (steady.2 e he) w)
    ((State.driftUnit_rest steady.1 (steady.2 e he) w (d := e + 1) (by omega)).unarmed steady.1)
    fun _ n => State.driftUnit_rest steady.1 (steady.2 e he) w n.symm

theorem State.measured_steady :
    Steady ((s.setF (R.PWR_DIE_STAT e) F.PWR_DIE_STAT_MEAS_W w).bump (R.PWR_DIE_MEAS_UJ e) (w * 100000)) := by
  have rest (j : Nat) (n : j ≠ e) := DriftRest.of_meter (.of_regs (s.measured_regs e w) n.symm)
  refine steady.of_rest ?_ ((rest (e + 1) (by omega)).unarmed steady.1) rest
  rw [State.die_bump, State.die_setF, steady.2 e he]

theorem Steady.measureDie : Steady (s.measureDie e w) := (State.measured_steady steady he w).driftUnit he w

theorem State.measureDie_rest {d : Nat} (other : e ≠ d) : DriftRest d s (s.measureDie e w) :=
  (DriftRest.of_meter (.of_regs (s.measured_regs e w) other)).trans
    (State.driftUnit_rest (State.measured_steady steady he w).1 ((State.measured_steady steady he w).2 e he) w other)

end

/-- What a measured interval makes of a die, its measured energy counted, from state s on. -/
structure Drifted (d w : Nat) (s t : State) : Prop where
  energy : t.rd (R.PWR_DIE_MEAS_UJ d) = s.rd (R.PWR_DIE_MEAS_UJ d) + BitVec.ofNat 64 (w * 100000)
  interval : (t.die d).interval = 0
  drift : (t.die d).drift = if aboveEight (s.die d).interval w = true then (s.die d).drift + 1 else 0
  event : aboveEight (s.die d).interval w = true → (s.die d).drift = 9 →
    t.f (R.PWR_DIE_EVENT d) F.PWR_DIE_EVENT_POWER_MODEL_DRIFT = 1
  quiet : (s.die d).drift < 9 → t.rd (R.PWR_DIE_EVENT d) = s.rd (R.PWR_DIE_EVENT d)

section
variable {d : Nat} (hd : d < 8)
include hd

theorem measUj_quiet : meterKeeps d (R.PWR_DIE_MEAS_UJ d) ∧ ¬ reportReg (R.PWR_DIE_MEAS_UJ d) := by
  simp only [meterKeeps, reportReg, errReg, R.PWR_DIE_MEAS_UJ, Blk.base, dieBase]; omega

theorem meterKeeps_dieEvent : meterKeeps d (R.PWR_DIE_EVENT d) := by
  simp only [meterKeeps, R.PWR_DIE_EVENT, Blk.base, dieBase]; omega

theorem Drifted.of_rest {w : Nat} {s t u : State} (h : Drifted d w t u) (k : DriftRest d s t) : Drifted d w s u where
  energy := by rw [h.energy, k.regs _ (measUj_quiet hd).1 (measUj_quiet hd).2]
  interval := h.interval
  drift := by rw [h.drift, k.drift, k.interval]
  event bad ninth := h.event (by rw [k.interval]; exact bad) (by rw [k.drift]; exact ninth)
  quiet few := (h.quiet (by rw [k.drift]; exact few)).trans (k.regs _ (meterKeeps_dieEvent hd) (dieEvent_quiet hd))

theorem Drifted.rest {w : Nat} {s t u : State} (h : Drifted d w s t) (k : DriftRest d t u) : Drifted d w s u where
  energy := (k.regs _ (measUj_quiet hd).1 (measUj_quiet hd).2).trans h.energy
  interval := k.interval.trans h.interval
  drift := k.drift.trans h.drift
  event bad ninth := (State.f_congr (k.regs _ (meterKeeps_dieEvent hd) (dieEvent_quiet hd)) _).trans (h.event bad ninth)
  quiet few := (k.regs _ (meterKeeps_dieEvent hd) (dieEvent_quiet hd)).trans (h.quiet few)

theorem State.measureDie_drifted {s : State} (steady : Steady s) (w : Nat) : Drifted d w s (s.measureDie d w) := by
  let u := (s.setF (R.PWR_DIE_STAT d) F.PWR_DIE_STAT_MEAS_W w).bump (R.PWR_DIE_MEAS_UJ d) (w * 100000)
  have die : u.die d = s.die d := by rw [State.die_bump, State.die_setF]
  have calm := State.measured_steady steady (show d < 9 by omega) w
  obtain ⟨interval, drift, event, quiet, others⟩ := State.driftUnit_taken hd calm.1 (calm.2 d (by omega)) w
  have apart : R.PWR_DIE_MEAS_UJ d ≠ R.PWR_DIE_EVENT d ∧ R.PWR_DIE_MEAS_UJ d ≠ R.PWR_DIE_STAT d ∧
      R.PWR_DIE_EVENT d ≠ R.PWR_DIE_MEAS_UJ d ∧ R.PWR_DIE_EVENT d ≠ R.PWR_DIE_STAT d := by
    simp only [R.PWR_DIE_MEAS_UJ, R.PWR_DIE_EVENT, R.PWR_DIE_STAT]; omega
  obtain ⟨ne, neStat, ne', neStat'⟩ := apart
  rw [die] at drift event quiet
  refine ⟨?_, interval, drift, event, fun few => (quiet few).trans ?_⟩
  · refine (others _ (measUj_quiet hd).2 ne).trans ?_
    rw [State.rd_bump_self, State.rd_setF_ne _ _ _ _ _ neStat]
  · rw [State.rd_bump_ne _ _ _ _ ne', State.rd_setF_ne _ _ _ _ _ neStat']

end

/-- The samples taken with a power sample are the package's. -/
theorem State.inputSample_rest (s : State) (d : Nat) : MeterRest d s s.inputSample := by
  refine .of_kept (State.inputSample_kept (.refl 0x18 s) (Sub.refl _)) fun a keeps => ?_
  have ne : a ≠ R.PWR_STAT := ne_of_meterKeeps keeps (by decide) (by decide)
  unfold State.inputSample State.tick
  dsimp only
  rw [State.rd_setF_ne _ _ _ _ _ ne]
  split
  · rfl
  · exact State.rd_setF_ne _ _ _ _ _ ne

/-- The package's samples are no die's. -/
theorem State.packageSampled_rest (s : State) (w j : Nat) :
    MeterRest j s ((s.inputSample.setF R.PWR_STAT F.PWR_STAT_PIN_W w).bump R.PWR_PKG_MEAS_UJ (w * 100000)) :=
  (s.inputSample_rest j).trans (.of_regs (((MeterRegs.refl (j + 1) s.inputSample).setF (a := R.PWR_STAT) meterReg_package
    F.PWR_STAT_PIN_W w).bump (a := R.PWR_PKG_MEAS_UJ) meterReg_package (w * 100000)) (by omega))

theorem State.packageShown_rest (s : State) (u v : Nat) {j : Nat} (hj : j < 8) :
    MeterRest j s ((s.setF R.PWR_CAL F.PWR_CAL_ERR_PCT u).setF R.PWR_CAL F.PWR_CAL_DRIFT_RUN v) :=
  .of_regs (((MeterRegs.refl 8 s).setF (a := R.PWR_CAL) meterReg_package F.PWR_CAL_ERR_PCT u).setF (a := R.PWR_CAL)
    meterReg_package F.PWR_CAL_DRIFT_RUN v) (by omega)

/-- The measures of the powered dies, one after another. -/
def State.measureDies (s : State) (l : List Nat) : State :=
  ((List.range 8).filter fun d => !s.dieDown d).foldl (fun (t : State) d => t.measureDie d (l.getD d 0)) s

section
variable {s : State} (steady : Steady s) (l : List Nat)
include steady

theorem Steady.measureDies : Steady (s.measureDies l) :=
  List.foldlRecOn (motive := fun t : State => Steady t) _ _ steady fun _ ht _ he =>
    ht.measureDie (Nat.lt_succ_of_lt (List.mem_range.1 (List.mem_of_mem_filter he))) _

theorem State.measureDies_drifted {d : Nat} (hd : d < 8) (up : s.dieDown d = false) :
    Drifted d (l.getD d 0) s (s.measureDies l) := by
  have mem : d ∈ (List.range 8).filter fun d => !s.dieDown d := List.mem_filter.2 ⟨List.mem_range.2 hd, by rw [up]; rfl⟩
  have small {e : Nat} (he : e ∈ (List.range 8).filter fun d => !s.dieDown d) : e < 9 :=
    Nat.lt_succ_of_lt (List.mem_range.1 (List.mem_of_mem_filter he))
  exact (foldl_reaches (f := fun (t : State) d => t.measureDie d (l.getD d 0))
    (Before := fun t => DriftRest d s t ∧ Steady t) (After := fun t => Drifted d (l.getD d 0) s t ∧ Steady t)
    (List.nodup_range.filter _) mem
    (fun t e he n ht => ⟨ht.1.trans (State.measureDie_rest ht.2 (small he) _ n), ht.2.measureDie (small he) _⟩)
    (fun t ht => ⟨(State.measureDie_drifted hd ht.2 _).of_rest hd ht.1, ht.2.measureDie (small mem) _⟩)
    (fun t e he n ht => ⟨ht.1.rest hd (State.measureDie_rest ht.2 (small he) _ n), ht.2.measureDie (small he) _⟩)
    ⟨.refl d s, steady⟩).1

/-- Below 8,600 W an interval ends with the package's: no die's measures go by it. -/
theorem State.doDriftInterval_drifted {w : Nat} (low : w < 8600) {d : Nat} (hd : d < 8) (up : s.dieDown d = false) :
    Drifted d (l.getD d 0) s (s.doDriftInterval l w) := by
  unfold State.doDriftInterval
  extract_lets ups b pct c e f g
  have dies : Drifted d (l.getD d 0) s b := State.measureDies_drifted steady l hd up
  have calm : Steady b := steady.measureDies l
  have sampled (j : Nat) : MeterRest j b c := b.packageSampled_rest w j
  have still : Steady c := ⟨(DriftRest.of_meter (sampled 9)).unarmed calm.1, fun j hj => by rw [(sampled j).die, calm.2 j hj]⟩
  have package : DriftRest d c e := State.driftUnit_rest still.1 (still.2 8 (by decide)) w (by omega)
  have shown : MeterRest d e g := State.packageShown_rest e _ _ hd
  rw [if_neg (Nat.not_le.2 low)]
  exact ((dies.rest hd (.of_meter (sampled d))).rest hd package).rest hd (.of_meter shown)

end

theorem driftInterval_counts (l : List Nat) (w : Nat) (s : State) (full : l.length = 8) (on : s.power.ao = true)
    (unarmed : Unarmed s 0x38) (low : w < 8600) (plain : ∀ d : Fin 9, (s.die d).forceDrift = 0) :
    ∃ t, exec (.driftInterval l w) s = .next t ∧
      ∀ d : Die, s.dieDown d = false →
        let bad := aboveEight (s.die d).interval (l.getD d 0)
        t.rd (R.PWR_DIE_MEAS_UJ d) = s.rd (R.PWR_DIE_MEAS_UJ d) + BitVec.ofNat 64 (l.getD d 0 * 100000) ∧
        (bad = true → (s.die d).drift = 9 → t.f (R.PWR_DIE_EVENT d) F.PWR_DIE_EVENT_POWER_MODEL_DRIFT = 1) ∧
        ((∀ j : Fin 9, (s.die j).drift < 9) → (t.die d).interval = 0 ∧
          (t.die d).drift = (if bad = true then (s.die d).drift + 1 else 0) ∧
          t.rd (R.PWR_DIE_EVENT d) = s.rd (R.PWR_DIE_EVENT d)) := by
  refine ⟨s.doDriftInterval l w, State.whenWf_true _ _ (by simp [full]) on, fun d up => ?_⟩
  have drifted := State.doDriftInterval_drifted (s := s) ⟨unarmed, fun j hj => plain ⟨j, hj⟩⟩ l low d.isLt up
  exact ⟨drifted.energy, drifted.event, fun few => ⟨drifted.interval, drifted.drift, drifted.quiet (few ⟨d, by omega⟩)⟩⟩

/-- Settles O38: recalibrations by the arbiter's answer, and drift die by die. -/
theorem modelsAreFitted : Obligations.ModelsAreFitted := by
  unfold Obligations.ModelsAreFitted
  exact ⟨calibration_fits, driftInterval_counts⟩

/-! ### Packets that leave (R217 to R219) -/

/-- A property of packets that a head keeps as it leaves by a port: its age and its check are its last node's. -/
def Sealed (f : Packet → Prop) : Prop := ∀ k n, f k → f (Packet.seal { k with age := n })

section
variable (s : State) (p : Nat) (h : HeadWait)

/-- A head that leaves goes out by its port. -/
theorem State.leave_out : (s.leave p h).out = s.out ++ [.packet (some p)
    (Packet.seal { h.k with age := min 65535 (h.k.age + (s.time - h.since) / 25) })] := by
  unfold State.leave State.portFlits State.energy
  rw [State.bump_out, State.setDie_out, State.bump_out]
  rfl

theorem State.leave_heads : (s.leave p h).fab.heads = s.fab.heads := by
  unfold State.leave State.portFlits State.energy
  rw [State.bump_fab, State.setDie_fab, State.bump_fab]
  rfl

end

section
variable {f : Packet → Prop} (leaves : Sealed f)
include leaves

/-- A head that leaves is sent, and what was sent or waits is still. -/
theorem Sent.leave {s : State} (p : Nat) {h : HeadWait} (sent : Sent s f) :
    Sent (({ s with fab := { s.fab with heads := s.fab.heads.erase h } } : State).leave p h) f := by
  let u : State := { s with fab := { s.fab with heads := s.fab.heads.erase h } }
  have out := u.leave_out p h
  have heads : (u.leave p h).fab.heads = s.fab.heads.erase h := u.leave_heads p h
  rcases sent with ⟨q, k, mem, fk⟩ | ⟨g, mem, fg⟩
  · exact .inl ⟨q, k, by rw [out]; exact List.mem_append_left _ mem, fk⟩
  · by_cases own : g = h
    · subst own
      exact .inl ⟨p, _, by rw [out]; exact List.mem_append_right _ (List.mem_singleton_self _), leaves _ _ fg⟩
    · exact .inr ⟨g, by rw [heads]; exact (List.mem_erase_of_ne own).2 mem, fg⟩

theorem Sent.pump {s : State} (sent : Sent s f) : Sent s.pump f :=
  List.foldlRecOn (motive := fun t : State => Sent t f) _ _ sent fun t ht h _ => by
    split
    · exact ht
    · exact ht.leave leaves _

/-- A head that is offered leaves or waits. -/
theorem State.offer_sent (s : State) {h : HeadWait} (fh : f h.k) : Sent (s.offer h) f :=
  Sent.pump leaves (.inr ⟨h, List.mem_append_right _ (List.mem_singleton_self _), fh⟩)

end

/-- A choice among some alternatives is one of them. -/
theorem State.pick_mem {α : Type} (s : State) {l : List α} (any : l ≠ []) :
    ∃ x n, x ∈ l ∧ s.pick l = (some x, { s with free := n }) := by
  unfold State.pick
  rcases l with _ | ⟨a, _ | ⟨b, l⟩⟩
  · exact absurd rfl any
  · exact ⟨a, s.free, by simp, rfl⟩
  · have lt : Config.freeBits s.free % (a :: b :: l).length < (a :: b :: l).length := Nat.mod_lt _ (by simp)
    exact ⟨_, s.free + 1, List.getElem_mem lt, by rw [← List.getElem?_eq_getElem lt]⟩

/-- A packet that takes the up*/down* channels sets out where some port is in service. -/
theorem State.depart_sent {f : Packet → Prop} (leaves : Sealed f) {s : State} {k : Packet} (there : k.dst < s.nodes)
    (other : k.dst ≠ s.node) (vc : 5 ≤ k.vc) (ports : s.upDownPorts k.vc none ≠ []) (fk : f k) : Sent (s.depart k none).2 f := by
  obtain ⟨p, n, _, picked⟩ := s.pick_mem ports
  unfold State.depart
  extract_lets upDown
  have route : ¬(s.nodes ≤ k.dst ∨ k.dst = s.node) := by omega
  have data : ¬k.vc ≤ 3 := by omega
  have escape : k.vc ≠ 4 := by omega
  rw [if_neg route, if_neg data, if_neg escape]
  have goes : (upDown k.vc).2 = ({ s with free := n } : State).offer ⟨k, none, some p, s.time⟩ := by
    dsimp only [upDown]
    rw [picked]
  rw [goes]
  exact State.offer_sent leaves _ fk

/-! ### Answers (R216) -/

/-- The registers that are written as a packet arrives and is answered: counts of its context's cache, of packets and of
collective bytes. -/
def arriveRegs (x : Nat) : List Nat :=
  [R.CTX_CNT_HIT (x % 2), R.FAB_CNT_PKT_RX, R.FAB_CNT_BYTES_RX, R.COL_CNT_BYTES_RX, R.FAB_CNT_PKT_TX, R.FAB_CNT_BYTES_TX]

/-- They are counters of the router, the contexts and the collectives. -/
theorem arriveRegs_range {x a : Nat} (h : a ∈ arriveRegs x) :
    0x600040 ≤ a ∧ a < 0x600060 ∨ 0x680000 ≤ a ∧ a < 0x700200 := by
  have cache : 0x680000 ≤ R.CTX_CNT_HIT (x % 2) ∧ R.CTX_CNT_HIT (x % 2) < 0x700200 := by
    simp only [R.CTX_CNT_HIT, Blk.base]; omega
  simp only [arriveRegs, List.mem_cons, List.not_mem_nil, or_false] at h
  rcases h with rfl | rfl | rfl | rfl | rfl | rfl
  · exact .inr cache
  all_goals decide

/-- What a packet goes by on its way out is none of them. -/
theorem routeReg_quiet (x : Nat) : R.FAB_TOPO ∉ arriveRegs x ∧ R.FAB_UPDOWN ∉ arriveRegs x ∧ R.MNT_FENCE_STACK ∉ arriveRegs x ∧
    ∀ p < 16, R.FAB_PORT_STAT p ∉ arriveRegs x := by
  refine ⟨fun h => absurd (arriveRegs_range h) (by decide), fun h => absurd (arriveRegs_range h) (by decide),
    fun h => absurd (arriveRegs_range h) (by decide), fun p low h => ?_⟩
  have range := arriveRegs_range h
  simp only [R.FAB_PORT_STAT, Blk.base] at range
  omega

section
variable {s t : State} {x : Nat} (regs : RegsBut s t (arriveRegs x))
include regs

theorem State.nodes_arrived : t.nodes = s.nodes := by
  unfold State.nodes State.dim
  rw [State.f_congr (regs _ (routeReg_quiet x).1)]

theorem State.upDownPorts_arrived (vc : Nat) (inp : Option Nat) : t.upDownPorts vc inp = s.upDownPorts vc inp := by
  obtain ⟨_, updown, fence, stat⟩ := routeReg_quiet x
  unfold State.upDownPorts State.usable State.portFenced
  simp only [State.f_congr (regs _ updown), State.f_congr (regs _ fence)]
  refine List.filter_congr fun p hp => ?_
  rw [State.f_congr (regs _ (stat p (List.mem_range.1 hp)))]

end

/-- The answer to packet k with a status. -/
def AnswerTo (k : Packet) (status : Nat) (a : Packet) : Prop :=
  a.op = 6 ∧ a.dst = k.src ∧ a.ctx = k.ctx ∧ a.seq = k.seq ∧ a.status = status

theorem AnswerTo.sealed (k : Packet) (status : Nat) : Sealed (AnswerTo k status) := fun _ _ h => h

/-- What is not a load or an atomic is answered by a completion. -/
theorem State.answer_completion (s : State) {k : Packet} (op : k.op < 0x20) (load : k.op ≠ 3) (status : Nat) :
    s.answer k status = s.respond k 0x06 status (if k.mcast then 1 else 0) [] := by
  unfold State.answer
  rw [if_neg load, if_neg (by omega)]

/-- A packet that has arrived is answered where an answer has a way back. -/
theorem State.answer_sent {s t : State} {k : Packet} (way : Answerable s k) (regs : RegsBut s t (arriveRegs k.ctx))
    (node : t.node = s.node) (op : k.op < 0x20) (load : k.op ≠ 3) (status : Nat) :
    Sent (t.answer k status) (AnswerTo k status) := by
  obtain ⟨there, other, ports, _⟩ := way
  rw [State.answer_completion _ op load]
  unfold State.respond
  extract_lets blank a u
  have counted : RegsBut s u (arriveRegs k.ctx) :=
    (regs.bump (a := R.FAB_CNT_PKT_TX) (by simp [arriveRegs]) 1).bump (a := R.FAB_CNT_BYTES_TX) (by simp [arriveRegs]) _
  have same : u.node = s.node := (State.bump_node ..).trans ((State.bump_node ..).trans node)
  refine State.depart_sent (AnswerTo.sealed k status) ?_ ?_ ?_ ?_ ?_
  · rw [State.nodes_arrived counted]; exact there
  · rw [same]; exact other
  · exact le_refl 5
  · rw [State.upDownPorts_arrived counted]; exact ports
  · exact ⟨rfl, rfl, rfl, rfl, rfl⟩

/-! ### The checks a packet meets (R215, R222, R230, R233) -/

/-- A packet that meets no refusal is taken: its context's record is used, and its number looked up. -/
structure Screened (x : Nat) (s t : State) : Prop where
  regs : RegsBut s t (arriveRegs x)
  rest : Kept 0x810010 s t
  recs : t.ctxs.recs = s.ctxs.recs

theorem Screened.trans {x : Nat} {s t u : State} (h : Screened x s t) (k : Screened x t u) : Screened x s u :=
  ⟨h.regs.trans k.regs, h.rest.trans k.rest, k.recs.trans h.recs⟩

/-- A point that is not armed stays so. -/
theorem Unarmed.arrived {s t : State} {x det : Nat} (un : Unarmed s det) (low : det < 256) (regs : RegsBut s t (arriveRegs x)) :
    Unarmed t det := by
  refine (State.f_congr (regs _ fun h => ?_) _).trans un
  have range := arriveRegs_range h
  simp only [R.INJ_P_CTL, Blk.base] at range
  omega

/-- The record of a context in its cache is used. -/
theorem State.ctxNeed_cached {s : State} {x : Nat} (cached : x ∈ s.ctxs.lru) :
    ∃ u, s.ctxNeed x = some u ∧ Screened x s u ∧ u.fab = s.fab ∧ u.time = s.time := by
  refine ⟨_, (if_pos (List.contains_iff_mem.2 cached) : s.ctxLoad s.streamOpen x = _), ⟨?_, ?_, ?_⟩, ?_, ?_⟩
  · exact (RegsBut.of_regs rfl).bump (a := R.CTX_CNT_HIT (x % 2)) (by simp [arriveRegs]) 1
  · exact State.bump_kept (.upd (.refl _ s) rfl (e16 := fun h => absurd h (by decide))) _ _ ⟨by decide⟩
  · rw [State.bump_ctxs]
  · rw [State.bump_fab]
  · rw [State.bump_time]

theorem State.rxStream_congr {s t : State} (fab : t.fab = s.fab) (x d : Nat) : t.rxStream x d = s.rxStream x d := by
  unfold State.rxStream
  rw [fab]

theorem State.inProgress_setRx_congr {s t : State} (fab : t.fab = s.fab) (v w : RxStream) (k : Packet) :
    (t.setRx v).inProgress k = (s.setRx w).inProgress k := by
  unfold State.inProgress State.setRx
  dsimp only
  rw [fab]

/-- What a number finds depends on the router and the time alone. -/
theorem State.rxFind_congr {s t : State} (fab : t.fab = s.fab) (time : t.time = s.time) (k : Packet) :
    (t.rxFind k).1 = (s.rxFind k).1 := by
  unfold State.rxFind
  extract_lets old full r u a old' full' r' u' a'
  have hold : old = old' := State.rxStream_congr fab ..
  have hfull : full = full' := by unfold full full'; rw [hold, fab]
  have hr : r = r' := by unfold r r'; rw [hold, time]
  have ha : a = a' := by unfold a a'; rw [hr]
  have arriving : u.inProgress k = u'.inProgress k := State.inProgress_setRx_congr fab ..
  rw [hfull, hr, ha, arriving]
  clear_value full' r' u u' a'
  split_ifs <;> rfl

/-- A fresh number's stream is noted. -/
theorem State.rxFind_fresh {s : State} {k : Packet} (fresh : (s.rxFind k).1 = .fresh) : ∃ r, s.rxFind k = (.fresh, s.setRx r) := by
  unfold State.rxFind at fresh ⊢
  extract_lets old full r u a at fresh
  extract_lets
  have noted : u = s.setRx { r with last := s.time } := rfl
  clear_value u
  subst noted
  split_ifs at fresh ⊢
  exact ⟨_, rfl⟩

theorem Arrives.cleared {s : State} {k : Packet} (h : Arrives s k) : Arrives (s.clearTransit k) k := h

theorem Screened.cleared {x : Nat} {s t : State} {k : Packet} (h : Screened x (s.clearTransit k) t) : Screened x s t :=
  ⟨h.regs, (State.clearTransit_kept (.refl _ s) k ⟨by decide⟩).trans h.rest, h.recs⟩

theorem State.payloadGood_whole {s : State} {k : Packet} (whole : k.payload ≠ [] → crc32c k.payload = k.pcrc)
    (un : Unarmed s 0x14) : s.payloadGood k = (true, s) := by
  unfold State.payloadGood
  rw [State.inject_unarmed un]
  exact if_neg (by simpa using whole)

/-- A packet that arrives whole, with a fresh number, meets no refusal. -/
theorem State.screen_taken {s : State} {k : Packet} (arr : Arrives s k) (fresh : (s.rxFind k).1 = .fresh) (epochs : Bool) :
    ∃ u, s.screen k true epochs = (sOK, u) ∧ Screened k.ctx s u := by
  obtain ⟨_, _, cached, alloc, epoch, whole, un, un', _⟩ := arr
  obtain ⟨u, used, hu, fab, time⟩ := s.ctxNeed_cached cached
  obtain ⟨r, found⟩ := State.rxFind_fresh ((State.rxFind_congr fab time k).trans fresh)
  have hv : Screened k.ctx s (u.setRx r) :=
    ⟨hu.regs, State.setRx_kept hu.rest r ⟨by decide⟩, hu.recs⟩
  have held (x : Nat) : (u.setRx r).ctx x = s.ctx x := congrArg (NMap.get (fun _ => CtxRec.init) · x) hv.recs
  have good : (u.setRx r).payloadGood k = (true, u.setRx r) :=
    State.payloadGood_whole whole (un.arrived (by decide) hv.regs)
  have current : (u.setRx r).epochStatus k = (sOK, u.setRx r) := by
    unfold State.epochStatus
    rw [State.inject_unarmed (un'.arrived (by decide) hv.regs)]
    dsimp only
    rw [held, epoch]
    have level : (k.epoch + 256 - k.epoch % 256) % 256 = 0 := by omega
    exact if_pos level
  refine ⟨u.setRx r, ?_, hv⟩
  unfold State.screen
  rw [used]
  dsimp only
  rw [show (u.ctx k.ctx).alloc = true from (congrArg CtxRec.alloc (held k.ctx)).trans alloc]
  simp only [Bool.not_true, Bool.false_eq_true, if_false, if_true, found, good, current]
  split <;> rfl

/-- A packet that has been applied is counted. -/
theorem State.applied_regs (s : State) (k : Packet) (numbered : Bool) : RegsBut s (s.applied k numbered) (arriveRegs k.ctx) := by
  unfold State.applied
  extract_lets u r v
  have counted : RegsBut s v (arriveRegs k.ctx) :=
    ((RegsBut.of_regs rfl).bump (a := R.FAB_CNT_PKT_RX) (by simp [arriveRegs]) 1).bump (a := R.FAB_CNT_BYTES_RX)
      (by simp [arriveRegs]) _
  split
  · exact counted.same ((State.rxDone_kept (.refl _ v) k (Sub.refl _)).same .regs rfl)
  · exact counted

theorem State.slow_applied (s : State) (k : Packet) (numbered : Bool) (x : Nat) :
    ((s.applied k numbered).ctx x).slow = (s.ctx x).slow := by
  unfold State.applied
  extract_lets u r v
  have kept : (v.ctx x).slow = (s.ctx x).slow := by
    unfold v
    rw [State.ctx_setCtx]
    split
    · subst_vars
      unfold r u
      rw [State.ctx_bump, State.ctx_bump]
    · unfold u
      rw [State.ctx_bump, State.ctx_bump]
  split
  · rw [← kept]
    exact congrArg (fun c : Contexts => (NMap.get (fun _ => CtxRec.init) c.recs x).slow) ((State.rxDone_kept (.refl _ v) k (Sub.refl _)).same .ctxs rfl)
  · exact kept

/-! ### What an arriving packet leaves (R216, R222) -/

/-- A packet of a collective that is taken is given to the run it names, counted and answered. -/
theorem State.doCollPacket_taken {s : State} {k : Packet} (arr : Arrives s k)
    (fresh : ((s.clearTransit k).rxFind k).1 = .fresh) (epochs : Bool) (act : State → State) :
    ∃ u, s.doCollPacket k epochs act = ((act u).applied k true).answer k sOK ∧ Screened k.ctx s u := by
  obtain ⟨u, taken, hu⟩ := State.screen_taken arr.cleared fresh epochs
  refine ⟨u, ?_, hu.cleared⟩
  unfold State.doCollPacket
  dsimp only
  rw [if_neg (by simp [arr.2.1]), taken]
  exact if_neg fun h => h rfl

/-- A notice that is taken is applied, counted and answered. -/
theorem State.doCtrl_taken {s : State} {k : Packet} (arr : Arrives s k)
    (fresh : ((s.clearTransit k).rxFind k).1 = .fresh) :
    ∃ u, s.doCtrl k = ((u.ctrlApply k).applied k true).answer k sOK ∧ Screened k.ctx s u := by
  obtain ⟨u, taken, hu⟩ := State.screen_taken arr.cleared fresh false
  refine ⟨u, ?_, hu.cleared⟩
  unfold State.doCtrl
  dsimp only
  rw [if_neg (by simp [arr.2.1]), taken]
  exact if_neg fun h => h rfl

/-- What is applied and answered changes registers, records, the router and event counts only. -/
theorem State.applied_answer_kept (s : State) (k : Packet) (status : Nat) :
    Kept 0x81401a s ((s.applied k true).answer k status) := by
  have counted : Kept 0x81401a s (s.applied k true) := State.applied_kept (.refl _ s) k true ⟨by decide⟩
  exact State.answer_kept counted k status ⟨by decide⟩

/-- The answer of a packet that has been applied is sent. -/
theorem State.applied_sent {s t : State} {k : Packet} (way : Answerable s k) (regs : RegsBut s t (arriveRegs k.ctx))
    (node : t.node = s.node) (op : k.op < 0x20) (load : k.op ≠ 3) : Sent ((t.applied k true).answer k sOK) (AnswerTo k sOK) :=
  State.answer_sent way (regs.trans (t.applied_regs k true))
    (((State.applied_kept (.refl _ t) k true (Sub.refl _)).same .node rfl).trans node) op load sOK

theorem State.slow_applied_answer (s : State) (k : Packet) (x : Nat) :
    (((s.applied k true).answer k sOK).ctx x).slow = (s.ctx x).slow := by
  have ctxs : ((s.applied k true).answer k sOK).ctxs = (s.applied k true).ctxs :=
    (State.answer_kept (.refl _ _) k sOK (Sub.refl _)).same .ctxs rfl
  refine Eq.trans ?_ (s.slow_applied k true x)
  unfold State.ctx
  rw [ctxs]

/-! ### Notices (R178) -/

theorem State.slow_setSlow (s : State) (x : Nat) : ((s.setSlow x).ctx x).slow = true := by
  have ctxs : (s.setSlow x).ctxs = (s.setCtx x { s.ctx x with slow := true }).ctxs :=
    (State.extendWatches_kept (.refl _ _) x (Sub.refl _)).same .ctxs rfl
  unfold State.ctx
  rw [ctxs]
  exact congrArg CtxRec.slow (State.ctx_setCtx_self ..)

theorem State.slow_clearSlow (s : State) (x : Nat) : ((s.clearSlow x).ctx x).slow = false := by
  unfold State.clearSlow
  exact congrArg CtxRec.slow (State.ctx_setCtx_self ..)

/-- A notice of kind 1 sets COLLECTIVE_SLOW, and one of kind 2 clears it. -/
theorem State.ctrlApply_slow (s : State) {k : Packet}
    (kind : bitsOf k.opnd0.toNat 0 2 = 1 ∨ bitsOf k.opnd0.toNat 0 2 = 2) :
    ((s.ctrlApply k).ctx k.ctx).slow = (bitsOf k.opnd0.toNat 0 2 == 1) ∧ Kept 0x1014800 s (s.ctrlApply k) := by
  unfold State.ctrlApply
  dsimp only
  rcases kind with e | e <;> rw [e]
  · exact ⟨s.slow_setSlow k.ctx, State.setSlow_kept (.refl _ s) k.ctx (Sub.refl _)⟩
  · exact ⟨s.slow_clearSlow k.ctx, State.clearSlow_kept (.refl _ s) k.ctx (Sub.refl _)⟩

theorem exec_ctrl_taken {s : State} {k : Packet} (arr : Arrives s k) (way : Answerable s k) (here : k.dst = s.node)
    (fresh : ((s.clearTransit k).rxFind k).1 = .fresh) (op : k.op = 7)
    (kind : bitsOf k.opnd0.toNat 0 2 = 1 ∨ bitsOf k.opnd0.toNat 0 2 = 2) :
    ∃ t, exec (.ctrl k) s = .next t ∧ Sent t (AnswerTo k sOK) ∧ (t.ctx k.ctx).slow = (bitsOf k.opnd0.toNat 0 2 == 1) ∧
      t.spad = s.spad ∧ t.hbm = s.hbm := by
  obtain ⟨u, taken, hu⟩ := State.doCtrl_taken arr fresh
  obtain ⟨slow, applies⟩ := u.ctrlApply_slow kind
  have rest := (u.ctrlApply k).applied_answer_kept k sOK
  have regs : RegsBut s (u.ctrlApply k) (arriveRegs k.ctx) := hu.regs.same (applies.same .regs rfl)
  have node : (u.ctrlApply k).node = s.node := (applies.same .node rfl).trans (hu.rest.same .node rfl)
  refine ⟨((u.ctrlApply k).applied k true).answer k sOK, ?_, State.applied_sent way regs node (by omega) (by omega), ?_, ?_, ?_⟩
  · rw [← taken]
    exact State.whenWf_true _ _ arr.1 (by simp [op, here])
  · rw [State.slow_applied_answer, slow]
  · exact (rest.same .spad rfl).trans ((applies.same .spad rfl).trans (hu.rest.same .spad rfl))
  · exact (rest.same .hbm rfl).trans ((applies.same .hbm rfl).trans (hu.rest.same .hbm rfl))

/-! ### Collective packets (R245 to R247, R250) -/

theorem State.collRun_congr {s t : State} (h : t.colls = s.colls) (x : Nat) : t.collRun x = s.collRun x := by
  unfold State.collRun
  rw [h]

/-- A run that goes on stands in its own place. -/
theorem State.collRun_setRun {s : State} {x : Nat} {r q : CollRun} (run : s.collRun x = some r) (same : q.cmd = r.cmd) :
    (s.setRun q).collRun x = some q := by
  unfold State.collRun State.setRun at *
  have ctx : r.cmd.ctx = x := beq_iff_eq.1 (List.find?_some run :)
  dsimp only at run ⊢
  rw [List.find?_map]
  have place : ((fun c : CollRun => c.cmd.ctx == x) ∘ fun c => if c.cmd.ctx = q.cmd.ctx then q else c) =
      fun c : CollRun => c.cmd.ctx == x := by
    funext c
    dsimp only [Function.comp]
    split <;> simp_all
  rw [place, run]
  exact congrArg some (if_pos (by rw [same]))

/-- A broadcast has no phases to go on to. -/
theorem State.collAdvance_broadcast {s : State} {x : Nat} {r : CollRun} (run : s.collRun x = some r) (op : r.cmd.op = 0x4B)
    (fuel : Nat) : s.collAdvance x fuel = s := by
  cases fuel with
  | zero => rfl
  | succ n =>
    unfold State.collAdvance
    rw [run]
    refine if_neg ?_
    unfold State.phaseOver State.phasesOf
    rw [op]
    simp [collPhases]

/-- Data for a broadcast that runs are written at their place. -/
theorem State.collDataIn_broadcast {s : State} {k : Packet} {r : CollRun} {p o : Nat} (run : s.collRun k.ctx = some r)
    (op : r.cmd.op = 0x4B) (inst : r.cmd.inst = bitsOf k.opnd0.toNat 0 16)
    (target : targetOf (kSpace r.dst) (kOff r.dst + k.opnd1.toNat * etyBytes r.ety) k.payload.length = .spad p o) :
    ∃ q : CollRun, s.collDataIn k = ((s.bump R.COL_CNT_BYTES_RX k.payload.length).setRun q).spadWrite p o k.payload := by
  let q : CollRun := { r with got := r.got + k.payload.length / max 1 (etyBytes r.ety) }
  let u : State := s.bump R.COL_CNT_BYTES_RX k.payload.length
  have hu : u.collRun k.ctx = some r := (State.collRun_congr (State.bump_colls ..) _).trans run
  have takes : u.collTake k.ctx k = (u.setRun q).spadWrite p o k.payload := by
    unfold State.collTake
    rw [hu]
    dsimp only
    rw [if_pos op]
    unfold State.memWrite
    rw [target]
  have goes : (u.collTake k.ctx k).collRun k.ctx = some q := by
    rw [takes, State.collRun_congr ((State.spadWrite_kept (.refl _ _) p o k.payload (Sub.refl _)).same .colls rfl)]
    exact State.collRun_setRun hu rfl
  refine ⟨q, ?_⟩
  rw [← takes]
  unfold State.collDataIn
  dsimp only
  rw [hu]
  dsimp only
  rw [if_pos inst.symm]
  exact State.collAdvance_broadcast goes op 9

theorem State.collDataIn_idle {s : State} {k : Packet} (idle : s.collRun k.ctx = none) :
    s.collDataIn k = s.bump R.COL_CNT_BYTES_RX k.payload.length := by
  unfold State.collDataIn
  dsimp only
  rw [State.collRun_congr (State.bump_colls ..), idle]

theorem targetOf_spad_fits {space off n p o : Nat} (h : targetOf space off n = .spad p o) : o + n ≤ 2 ^ 23 := by
  unfold targetOf at h
  split at h
  · split at h <;> cases h
  · split at h
    next fits => cases h; exact fits.2
    next => cases h
  · split at h <;> cases h
  · split at h <;> cases h

/-- A packet of a collective that is taken without mark of a tree. -/
theorem exec_collData_once {s : State} {k : Packet} (wf : k.wf = true) (here : k.dst = s.node) (op : k.op = 8)
    (once : k.mcast = false) : exec (.collData k) s = .next (s.doCollPacket k true fun s => s.collDataIn k) := by
  refine (State.whenWf_true _ _ wf (by simp [op, here])).trans ?_
  unfold State.doCollData
  rw [if_pos (by rw [once]; rfl)]

theorem exec_collData_idle {s : State} {k : Packet} (arr : Arrives s k) (way : Answerable s k) (here : k.dst = s.node)
    (fresh : ((s.clearTransit k).rxFind k).1 = .fresh) (op : k.op = 8) (once : k.mcast = false)
    (idle : s.collRun k.ctx = none) :
    ∃ t, exec (.collData k) s = .next t ∧ Sent t (AnswerTo k sOK) ∧ t.spad = s.spad ∧ t.hbm = s.hbm ∧ t.colls = s.colls := by
  obtain ⟨u, taken, hu⟩ := State.doCollPacket_taken arr fresh true fun s => s.collDataIn k
  let v : State := u.bump R.COL_CNT_BYTES_RX k.payload.length
  have acts : u.collDataIn k = v := State.collDataIn_idle ((State.collRun_congr (hu.rest.same .colls rfl) _).trans idle)
  have rest : Kept 0x81401a s ((v.applied k true).answer k sOK) :=
    ((State.bump_kept hu.rest _ _ ⟨by decide⟩).weaken ⟨by decide⟩).trans (v.applied_answer_kept k sOK)
  have regs : RegsBut s v (arriveRegs k.ctx) := hu.regs.bump (a := R.COL_CNT_BYTES_RX) (by simp [arriveRegs]) _
  have node : v.node = s.node := (State.bump_node ..).trans (hu.rest.same .node rfl)
  refine ⟨(v.applied k true).answer k sOK, ?_, State.applied_sent way regs node (by omega) (by omega),
    rest.same .spad rfl, rest.same .hbm rfl, rest.same .colls rfl⟩
  rw [exec_collData_once arr.1 here op once, taken, acts]

/-- A write that no point spoils changes the scratchpad, its lines and the snapshots it tears, and leaves its bytes. -/
theorem State.spadWrite_clean {s : State} (un : Unarmed s 0x08) (un' : Unarmed s 0x09) {p o : Nat} {bs : List Byte}
    (fits : o + bs.length ≤ 2 ^ 23) :
    Kept 0x40820 s (s.spadWrite p o bs) ∧ ∀ j (h : j < bs.length), (s.spadWrite p o bs).spadByte p (o + j) = bs[j] := by
  rw [State.spadWrite_unarmed un un']
  have torn : Kept 0x40000 (s.setSpadBytes p o bs) ((s.setSpadBytes p o bs).noteWritten 1 (p / 32) (p % 32 * 2 ^ 23 + o) bs.length) :=
    State.noteWritten_kept (.refl _ _) _ _ _ _ (Sub.refl _)
  exact ⟨((s.setSpadBytes_keeps p o bs).weaken ⟨by decide⟩).trans (torn.weaken ⟨by decide⟩),
    fun j h => State.spadByte_setSpadBytes_inside fits h⟩

theorem exec_collData_broadcast {s : State} {k : Packet} {r : CollRun} {p o : Nat} (arr : Arrives s k) (way : Answerable s k)
    (here : k.dst = s.node) (fresh : ((s.clearTransit k).rxFind k).1 = .fresh) (op : k.op = 8) (once : k.mcast = false)
    (run : s.collRun k.ctx = some r) (broadcast : r.cmd.op = 0x4B) (inst : r.cmd.inst = bitsOf k.opnd0.toNat 0 16)
    (target : targetOf (kSpace r.dst) (kOff r.dst + k.opnd1.toNat * etyBytes r.ety) k.payload.length = .spad p o)
    (un : Unarmed s 0x08) (un' : Unarmed s 0x09) :
    ∃ t, exec (.collData k) s = .next t ∧ Sent t (AnswerTo k sOK) ∧
      (∀ j (h : j < k.payload.length), t.spadByte p (o + j) = k.payload[j]) ∧ t.hbm = s.hbm := by
  obtain ⟨u, taken, hu⟩ := State.doCollPacket_taken arr fresh true fun s => s.collDataIn k
  obtain ⟨q, acts⟩ := State.collDataIn_broadcast ((State.collRun_congr (hu.rest.same .colls rfl) _).trans run) broadcast inst
    target
  let w : State := (u.bump R.COL_CNT_BYTES_RX k.payload.length).setRun q
  let v : State := w.spadWrite p o k.payload
  have regs : RegsBut s w (arriveRegs k.ctx) :=
    (hu.regs.bump (a := R.COL_CNT_BYTES_RX) (by simp [arriveRegs]) k.payload.length).same rfl
  have counted : Kept 0x1810010 s w :=
    State.setRun_kept (State.bump_kept (hu.rest.weaken ⟨by decide⟩) _ _ ⟨by decide⟩) q ⟨by decide⟩
  obtain ⟨written, bytes⟩ := State.spadWrite_clean (un.arrived (by decide) regs) (un'.arrived (by decide) regs) (p := p)
    (targetOf_spad_fits target)
  have rest := v.applied_answer_kept k sOK
  have node : v.node = s.node := (written.same .node rfl).trans (counted.same .node rfl)
  refine ⟨(v.applied k true).answer k sOK, ?_,
    State.applied_sent way (regs.same (written.same .regs rfl)) node (by omega) (by omega), fun j h => ?_, ?_⟩
  · rw [exec_collData_once arr.1 here op once, taken, acts]
  · rw [← bytes j h]
    have lines : ((v.applied k true).answer k sOK).aes = v.aes := rest.same .aes rfl
    refine State.spadByte_congr ?_ (rest.same .spad rfl) (rest.same .liftedCores rfl) _
    unfold State.ae
    rw [lines]
  · exact (rest.same .hbm rfl).trans ((written.same .hbm rfl).trans (counted.same .hbm rfl))

/-- A packet of a collective whose only act is that the collectives hold it. -/
theorem State.doCollPacket_held {s : State} {k : Packet} {act : State → State} (arr : Arrives s k) (way : Answerable s k)
    (fresh : ((s.clearTransit k).rxFind k).1 = .fresh) (op : k.op < 0x20) (load : k.op ≠ 3) {c : Colls}
    (holds : ∀ u : State, u.colls = s.colls → act u = { u with colls := c }) :
    Sent (s.doCollPacket k false act) (AnswerTo k sOK) ∧ (s.doCollPacket k false act).colls = c := by
  obtain ⟨u, taken, hu⟩ := State.doCollPacket_taken arr fresh false act
  have rest := (act u).applied_answer_kept k sOK
  have acts := holds u (hu.rest.same .colls rfl)
  rw [taken]
  exact ⟨State.applied_sent way (hu.regs.same (by rw [acts])) ((by rw [acts] : (act u).node = u.node).trans (hu.rest.same .node rfl))
    op load, (rest.same .colls rfl).trans (by rw [acts])⟩

theorem State.collReadyIn_idle {s : State} {k : Packet} (idle : s.collRun k.ctx = none) :
    s.collReadyIn k = { s with colls := { s.colls with ready := s.colls.ready ++
      [(k.ctx, bitsOf k.opnd0.toNat 0 16, k.src, bitsOf k.opnd0.toNat 16 8, k.opnd1.toNat)] } } := by
  unfold State.collReadyIn
  extract_lets inst c u
  have same : u.collRun k.ctx = none := idle
  rw [same]

theorem State.epochSwitch_idle {s : State} {x : Nat} (idle : s.collRun x = none) : s.epochSwitch x = s := by
  unfold State.epochSwitch
  rw [idle]

theorem State.epochCloseIn_idle {s : State} {k : Packet} (idle : s.collRun k.ctx = none) :
    s.epochCloseIn k =
      { s with colls := { s.colls with closes := s.colls.closes ++ [(k.ctx, k.src, bitsOf k.opnd0.toNat 16 8)] } } :=
  State.epochSwitch_idle idle

theorem exec_collReady_idle {s : State} {k : Packet} (arr : Arrives s k) (way : Answerable s k) (here : k.dst = s.node)
    (fresh : ((s.clearTransit k).rxFind k).1 = .fresh) (op : k.op = 9) (idle : s.collRun k.ctx = none) :
    ∃ t, exec (.collReady k) s = .next t ∧ Sent t (AnswerTo k sOK) ∧ t.colls = { s.colls with ready := s.colls.ready ++
      [(k.ctx, bitsOf k.opnd0.toNat 0 16, k.src, bitsOf k.opnd0.toNat 16 8, k.opnd1.toNat)] } :=
  ⟨_, State.whenWf_true _ _ arr.1 (by simp [op, here]),
    State.doCollPacket_held arr way fresh (by omega) (by omega) fun u same => by
      rw [← same]
      exact State.collReadyIn_idle ((State.collRun_congr same _).trans idle)⟩

theorem exec_epochClose_idle {s : State} {k : Packet} (arr : Arrives s k) (way : Answerable s k) (here : k.dst = s.node)
    (fresh : ((s.clearTransit k).rxFind k).1 = .fresh) (op : k.op = 10) (idle : s.collRun k.ctx = none) :
    ∃ t, exec (.epochClose k) s = .next t ∧ Sent t (AnswerTo k sOK) ∧
      t.colls = { s.colls with closes := s.colls.closes ++ [(k.ctx, k.src, bitsOf k.opnd0.toNat 16 8)] } :=
  ⟨_, State.whenWf_true _ _ arr.1 (by simp [op, here]),
    State.doCollPacket_held arr way fresh (by omega) (by omega) fun u same => by
      rw [← same]
      exact State.epochCloseIn_idle ((State.collRun_congr same _).trans idle)⟩

/-! ### Management messages (R214) -/

theorem exec_mgmt_counted {s : State} {k : Packet} (wf : k.wf = true) (good : headGood k = true) (op : k.op = 16)
    (here : k.dst = s.node) (whole : k.payload ≠ [] → crc32c k.payload = k.pcrc) (un : Unarmed s 0x14) :
    ∃ t, exec (.mgmt k) s = .next t ∧ t.rd R.FAB_CNT_PKT_RX = s.rd R.FAB_CNT_PKT_RX + 1 ∧
      t.rd R.FAB_CNT_BYTES_RX = s.rd R.FAB_CNT_BYTES_RX + BitVec.ofNat 64 k.payload.length ∧
      RegsBut s t [R.FAB_CNT_PKT_RX, R.FAB_CNT_BYTES_RX] ∧ t = { s with regs := t.regs, fab := (s.clearTransit k).fab } := by
  let u : State := s.clearTransit k
  let v : State := u.bump R.FAB_CNT_PKT_RX 1
  let t : State := v.bump R.FAB_CNT_BYTES_RX k.payload.length
  have fine : u.payloadGood k = (true, u) := State.payloadGood_whole whole un
  have counts : s.doMgmt k = t := by
    unfold State.doMgmt
    dsimp only
    rw [if_neg (by simp [good]), fine]
    rfl
  have other : R.FAB_CNT_PKT_RX ≠ R.FAB_CNT_BYTES_RX := by decide
  have kept : Kept 0x10 u t := State.bump_kept (State.bump_kept (.refl _ u) _ _ (Sub.refl _)) _ _ (Sub.refl _)
  refine ⟨t, ?_, ?_, ?_, ?_, kept.regsOnly⟩
  · rw [← counts]
    exact State.whenWf_true _ _ wf (by simp [op, here])
  · rw [State.rd_bump_ne _ _ _ _ other]
    exact State.rd_bump_self ..
  · rw [State.rd_bump_self, State.rd_bump_ne _ _ _ _ other.symm]
    rfl
  · exact ((RegsBut.of_regs (t := u) rfl).bump (by simp) 1).bump (by simp) _

/-- Settles O42: a packet that arrives whole meets no refusal, acts, is counted and answered; what acts is a change of its
context's record, of the collectives, or of the scratchpad it names. -/
theorem noticesArrive : Obligations.NoticesArrive := by
  unfold Obligations.NoticesArrive
  refine ⟨fun k s arr way here fresh => ⟨?_, fun op once => ⟨?_, ?_⟩, ?_, ?_⟩, ?_⟩
  · exact exec_ctrl_taken arr way here fresh
  · exact exec_collData_idle arr way here fresh op once
  · exact fun r p o run broadcast inst _ target un un' =>
      exec_collData_broadcast arr way here fresh op once run broadcast inst target un un'
  · exact exec_collReady_idle arr way here fresh
  · exact exec_epochClose_idle arr way here fresh
  · exact fun k s => exec_mgmt_counted

end Sys2Proof.Machine
